-- ==== Sys2Proof/Word.lean ====
section
/-!
DEFINITION. The words the Kwawyn computes with: 64-bit registers, 32-bit instruction words, bytes, 128-bit handles.
-/

namespace Sys2Proof

/-- A 64-bit register (R94), a configuration register, a record word. -/
abbrev Word := BitVec 64

/-- One 32-bit word of a clause: a header, an instruction word or a literal (R22). -/
abbrev IWord := BitVec 32

/-- One byte of memory. -/
abbrev Byte := BitVec 8

/-- A 128-bit handle register (R163). -/
abbrev HandleBits := BitVec 128

/-- A set of the 32 lanes of a group, bit i for lane i (R19). -/
abbrev Lanes := BitVec 32

/-- The literal words that follow an instruction's last word, in the order of R25. -/
abbrev Lits := List IWord

end Sys2Proof
end

