-- ==== Sys2Proof/Syntax.lean ====
section
/-!
DEFINITION. The abstract syntax: the fault codes (Table 16·3), the field structures of formats A, X, M, E, B and C
(R37 to R39), the inputs that an event of the machine carries, and `Instr`, one constructor per row of the opcode table.
A program instruction keeps every field of its words, so that decoding loses no bit; an event row of the table (a step
of a queue, a timer, a link or the host) carries the data that names the event.
-/

namespace Sys2Proof

/-- The fault codes of Table 16·3 (R376). -/
inductive FaultCode where
  /-- 0x01 ILLEGAL_OPCODE (R49). -/
  | illegalOpcode
  /-- 0x02 CLAUSE_FRAMING (R23, R24). -/
  | clauseFraming
  /-- 0x03 RESERVED_FIELD (R44). -/
  | reservedField
  /-- 0x04 PRIV (R49). -/
  | priv
  /-- 0x05 REG_RANGE (R45). -/
  | regRange
  /-- 0x10 HANDLE_BOUNDS (R168). -/
  | handleBounds
  /-- 0x11 HANDLE_RIGHTS (R166). -/
  | handleRights
  /-- 0x12 HANDLE_SEAL (R64, R192). -/
  | handleSeal
  /-- 0x13 MISALIGNED (R168). -/
  | misaligned
  /-- 0x14 PAGE_NOT_PRESENT (R178, R188). -/
  | pageNotPresent
  /-- 0x15 PAGE_PROT (R169, R175). -/
  | pageProt
  /-- 0x16 CLASS_ALIAS (R223). -/
  | classAlias
  /-- 0x17 CLASS_OP (R175). -/
  | classOp
  /-- 0x18 REACH (R174). -/
  | reach
  /-- 0x19 MOVE_RIGHTS (R235). -/
  | moveRights
  /-- 0x1A WS_FOREIGN (R234). -/
  | wsForeign
  /-- 0x1B WS_REWRITE (R234). -/
  | wsRewrite
  /-- 0x1C WS_TIMEOUT (R234). -/
  | wsTimeout
  /-- 0x1D POISON (R176). -/
  | poison
  /-- 0x1E BUF_BOUNDS (R180). -/
  | bufBounds
  /-- 0x1F MOVE_TIMEOUT (R239). -/
  | moveTimeout
  /-- 0x20 XL_EXITED (R115). -/
  | xlExited
  /-- 0x21 XL_SELF (R115). -/
  | xlSelf
  /-- 0x22 XL_MISMATCH (R114, R115). -/
  | xlMismatch
  /-- 0x23 XL_INDEX (R115). -/
  | xlIndex
  /-- 0x28 FORMAT_DIVERGENCE (R276). -/
  | formatDivergence
  /-- 0x29 GANG_MEMBER (R276, R289). -/
  | gangMember
  /-- 0x2A MATRIX_RECORD (R276). -/
  | matrixRecord
  /-- 0x2B MATRIX_INTEGRITY (R282). -/
  | matrixIntegrity
  /-- 0x2C MATRIX_FORMAT (R276). -/
  | matrixFormat
  /-- 0x30 SYS_ATOMIC_UNSUPPORTED (R256). -/
  | sysAtomicUnsupported
  /-- 0x31 HOST_ABORT (R417). -/
  | hostAbort
  /-- 0x38 FAB_LOSS (R327). -/
  | fabLoss
  /-- 0x39 FAB_NOROUTE (R331). -/
  | fabNoroute
  /-- 0x3A FAB_RECORD (R331). -/
  | fabRecord
  /-- 0x3B COLL_STATE (R335). -/
  | collState
  /-- 0x3C COLL_MISMATCH (R338). -/
  | collMismatch
  /-- 0x3D FAB_TRUNC (R331). -/
  | fabTrunc
  /-- 0x40 DET_ATOMIC (R249). -/
  | detAtomic
  /-- 0x41 DET_SIGNATURE (R404). -/
  | detSignature
  /-- 0x42 LAUNCH_FEATURE (R2). -/
  | launchFeature
  /-- 0x43 LAUNCH_ARGS (R64). -/
  | launchArgs
  /-- 0x48 SNAP_BUSY (R363). -/
  | snapBusy
  /-- 0x49 SNAP_STATE (R363). -/
  | snapState
  /-- 0x50 GRID_STARVE (R74). -/
  | gridStarve
  /-- 0x51 BAR_ORDER (R89). -/
  | barOrder
  /-- 0x52 STEP_MODE (R91). -/
  | stepMode
  /-- 0x53 TRAP_SW (R93). -/
  | trapSw
  /-- 0x54 BREAKPOINT (R93). -/
  | breakpoint
  /-- 0x55 CALL_DEPTH (R79). -/
  | callDepth
  /-- 0x58 ENGINE_RECORD (R304). -/
  | engineRecord
  /-- 0x59 ENGINE_DEST (R304). -/
  | engineDest
  /-- 0x5A MIG_FAIL (R307). -/
  | migFail
  /-- 0x5B PACK_DENSITY (R303). -/
  | packDensity
  /-- 0x60 CTX_STATE (R387). -/
  | ctxState
  /-- 0x61 CTX_IMAGE (R388). -/
  | ctxImage
  /-- 0x62 TRET_STATE (R372). -/
  | tretState
  /-- 0x63 CTX_KILL (R373). -/
  | ctxKill
  deriving DecidableEq, Repr

/-- The eight-bit number of a fault code (Table 16·3). -/
def FaultCode.num : FaultCode → Nat
  | .illegalOpcode => 0x01
  | .clauseFraming => 0x02
  | .reservedField => 0x03
  | .priv => 0x04
  | .regRange => 0x05
  | .handleBounds => 0x10
  | .handleRights => 0x11
  | .handleSeal => 0x12
  | .misaligned => 0x13
  | .pageNotPresent => 0x14
  | .pageProt => 0x15
  | .classAlias => 0x16
  | .classOp => 0x17
  | .reach => 0x18
  | .moveRights => 0x19
  | .wsForeign => 0x1A
  | .wsRewrite => 0x1B
  | .wsTimeout => 0x1C
  | .poison => 0x1D
  | .bufBounds => 0x1E
  | .moveTimeout => 0x1F
  | .xlExited => 0x20
  | .xlSelf => 0x21
  | .xlMismatch => 0x22
  | .xlIndex => 0x23
  | .formatDivergence => 0x28
  | .gangMember => 0x29
  | .matrixRecord => 0x2A
  | .matrixIntegrity => 0x2B
  | .matrixFormat => 0x2C
  | .sysAtomicUnsupported => 0x30
  | .hostAbort => 0x31
  | .fabLoss => 0x38
  | .fabNoroute => 0x39
  | .fabRecord => 0x3A
  | .collState => 0x3B
  | .collMismatch => 0x3C
  | .fabTrunc => 0x3D
  | .detAtomic => 0x40
  | .detSignature => 0x41
  | .launchFeature => 0x42
  | .launchArgs => 0x43
  | .snapBusy => 0x48
  | .snapState => 0x49
  | .gridStarve => 0x50
  | .barOrder => 0x51
  | .stepMode => 0x52
  | .trapSw => 0x53
  | .breakpoint => 0x54
  | .callDepth => 0x55
  | .engineRecord => 0x58
  | .engineDest => 0x59
  | .migFail => 0x5A
  | .packDensity => 0x5B
  | .ctxState => 0x60
  | .ctxImage => 0x61
  | .tretState => 0x62
  | .ctxKill => 0x63

/-- Format A (R37, Table 2·3): type, no-write-back, destination, operands a and b. -/
structure FA where
  t : BitVec 3
  nw : BitVec 1
  d : BitVec 7
  a : BitVec 7
  b : BitVec 7
  deriving DecidableEq, Repr

/-- Format X (R38, Tables 2·3 and 2·5): word 0 as format A; word 1 the member mask, [24:6] and the sub-op. -/
structure FX where
  t : BitVec 3
  nw : BitVec 1
  d : BitVec 7
  a : BitVec 7
  b : BitVec 7
  m : BitVec 7
  rz : BitVec 19
  sub : BitVec 6
  deriving DecidableEq, Repr

/-- Format M (R38, Tables 2·4 and 2·5). -/
structure FM where
  t : BitVec 3
  nw : BitVec 1
  d : BitVec 7
  h : BitVec 4
  off : BitVec 7
  scope : BitVec 3
  imm : BitVec 12
  ge : BitVec 1
  gn : BitVec 1
  gk : BitVec 3
  re : BitVec 1
  rk : BitVec 3
  hint : BitVec 2
  ord : BitVec 3
  sub : BitVec 6
  deriving DecidableEq, Repr

/-- Format E (R38, Tables 2·4 and 2·5): word 1 holds imm12, operand B, aux and the sub-op. -/
structure FE where
  t : BitVec 3
  nw : BitVec 1
  d : BitVec 7
  h : BitVec 4
  a : BitVec 7
  scope : BitVec 3
  imm : BitVec 12
  b : BitVec 7
  aux : BitVec 7
  sub : BitVec 6
  deriving DecidableEq, Repr

/-- Format B (R39, Table 2·6): guard and a signed 20-bit word offset. -/
structure FB where
  ge : BitVec 1
  gn : BitVec 1
  gk : BitVec 3
  off : BitVec 20
  deriving DecidableEq, Repr

/-- Format C (R39, Table 2·6): guard, sub-op, operands A and B. -/
structure FC where
  ge : BitVec 1
  gn : BitVec 1
  gk : BitVec 3
  sub : BitVec 6
  a : BitVec 7
  b : BitVec 7
  deriving DecidableEq, Repr

/-- How a PCIe request ends (R417, R418): a successful completion, an unsupported request, a completer abort, a timeout, or a completion whose
data is poisoned. -/
inductive HostStatus where
  | ok | ur | ca | timeout | poison
  deriving DecidableEq, Repr

/-- The agreed fields of Table 14·6 that a contribution carries (R335, R338): operation, type, count, d and domain tag. -/
structure CombineAgreed where
  op : Nat
  ty : Nat
  count : Nat
  d : Nat
  dtag : Nat
  deriving DecidableEq, Repr

/-- The structures of Table 19·1 in which a storage error is found (R423); HBM stacks 2n and 2n + 1 are those of C-die n (R9). -/
inductive ErrorSite where
  | hbm (stack : Nat)
  | l2 (slice : Nat)
  | clusterCache (cluster : Nat)
  | iCache (cluster : Nat)
  | registerFile (core : Nat)
  | aBuffer (core : Nat)
  | cBuffer (cluster : Nat)
  | wStore (cluster : Nat)
  | fabricBuffer (die : Nat)
  | retention (die : Nat)
  deriving DecidableEq, Repr

/-- One storage error as the hardware finds it (R423, Table 19·4): the structure, the physical address (or set index; a message's number in
the decode and retention buffers) it concerns, the way of a cache set (of a message, the fragment's index with its stripe above bit 6), the originating group and clause when a group's access read the word, and the second
of the management controller's clock (R426). -/
structure StorageError where
  site : ErrorSite
  address : Nat
  way : Nat
  gid : Option Nat
  second : Nat
  deriving DecidableEq, Repr

/-- The instructions and machine events of the opcode table, one constructor per row. -/
inductive Instr where
  /-- ADD: Adds the sub-elements of a and b modulo 2^w (R96). -/
  | add (f : FA) (ls : Lits)
  /-- SUB: Subtracts the sub-elements of b from those of a modulo 2^w (R96). -/
  | sub (f : FA) (ls : Lits)
  /-- ADD_SAT_SIGNED: Adds signed sub-elements with saturation (R96). -/
  | addSatSigned (f : FA) (ls : Lits)
  /-- ADD_SAT_UNSIGNED: Adds unsigned sub-elements with saturation (R96). -/
  | addSatUnsigned (f : FA) (ls : Lits)
  /-- SUB_SAT_SIGNED: Subtracts signed sub-elements with saturation (R96). -/
  | subSatSigned (f : FA) (ls : Lits)
  /-- SUB_SAT_UNSIGNED: Subtracts unsigned sub-elements with saturation (R96). -/
  | subSatUnsigned (f : FA) (ls : Lits)
  /-- MUL: Multiplies sub-elements keeping the low w bits (R96). -/
  | mul (f : FA) (ls : Lits)
  /-- MULHI_SIGNED: Gives the high w bits of the signed product of sub-elements (R96). -/
  | mulhiSigned (f : FA) (ls : Lits)
  /-- MULHI_UNSIGNED: Gives the high w bits of the unsigned product of sub-elements (R96). -/
  | mulhiUnsigned (f : FA) (ls : Lits)
  /-- MAD: Multiplies sub-elements and adds the destination modulo 2^w (R96). -/
  | mad (f : FA) (ls : Lits)
  /-- ABS: Gives the absolute value of each signed sub-element (R96). -/
  | abs (f : FA) (ls : Lits)
  /-- PACK: Narrows two registers into one of the destination layout (R106). -/
  | pack (f : FA) (ls : Lits)
  /-- MIN_SIGNED: Gives the signed minimum of each sub-element pair (R96). -/
  | minSigned (f : FA) (ls : Lits)
  /-- MIN_UNSIGNED: Gives the unsigned minimum of each sub-element pair (R96). -/
  | minUnsigned (f : FA) (ls : Lits)
  /-- MAX_SIGNED: Gives the signed maximum of each sub-element pair (R96). -/
  | maxSigned (f : FA) (ls : Lits)
  /-- MAX_UNSIGNED: Gives the unsigned maximum of each sub-element pair (R96). -/
  | maxUnsigned (f : FA) (ls : Lits)
  /-- AND: Bitwise AND of the sub-elements (R97). -/
  | and (f : FA) (ls : Lits)
  /-- OR: Bitwise OR of the sub-elements (R97). -/
  | or (f : FA) (ls : Lits)
  /-- XOR: Bitwise XOR of the sub-elements (R97). -/
  | xor (f : FA) (ls : Lits)
  /-- UNPACK: Widens the selected half of a register, with optional sign extension (R107). -/
  | unpack (f : FA) (ls : Lits)
  /-- ANDN: Bitwise AND of a with the complement of b (R97). -/
  | andn (f : FA) (ls : Lits)
  /-- SHL: Shifts each sub-element left by b modulo w (R97). -/
  | shl (f : FA) (ls : Lits)
  /-- SHR: Shifts each sub-element right logically (R97). -/
  | shr (f : FA) (ls : Lits)
  /-- SAR: Shifts each sub-element right arithmetically (R97). -/
  | sar (f : FA) (ls : Lits)
  /-- ROL: Rotates each sub-element left (R97). -/
  | rol (f : FA) (ls : Lits)
  /-- CLZ: Counts leading zero bits of each sub-element (R97). -/
  | clz (f : FA) (ls : Lits)
  /-- CTZ: Counts trailing zero bits of each sub-element (R97). -/
  | ctz (f : FA) (ls : Lits)
  /-- POPC: Counts one bits of each sub-element (R97). -/
  | popc (f : FA) (ls : Lits)
  /-- BREV: Reverses the bits of each sub-element (R97). -/
  | brev (f : FA) (ls : Lits)
  /-- BFX: Extracts a bit field under a control word, optionally sign-extended (R98). -/
  | bfx (f : FA) (ls : Lits)
  /-- SWZ: Rearranges or masks the sub-elements of a by a selector word (R99). -/
  | swz (f : FA) (ls : Lits)
  /-- BFI: Inserts a bit field into the destination under a control word (R98). -/
  | bfi (f : FA) (ls : Lits)
  /-- CMP_SIGNED: Compares signed sub-elements and writes a predicate register (R100). -/
  | cmpSigned (f : FA) (ls : Lits)
  /-- CMP_UNSIGNED: Compares unsigned sub-elements and writes a predicate register (R100). -/
  | cmpUnsigned (f : FA) (ls : Lits)
  /-- KOP: Combines predicate registers by the selected logical operation (R101). -/
  | kop (f : FA) (ls : Lits)
  /-- SEL: Copies a into d in each sub-element where the predicate guard holds (R102). -/
  | sel (f : FA) (ls : Lits)
  /-- LEA: Forms a + (b << s) on whole registers (R108). -/
  | lea (f : FA) (ls : Lits)
  /-- MOVL: Loads a 64-bit constant from two literal words (R103). -/
  | movl (f : FA) (ls : Lits)
  /-- GMOV: Copies one lane's value into a uniform register (R104). -/
  | gmov (f : FA) (ls : Lits)
  /-- CVTI: Converts between integer layouts, optionally saturating (R105). -/
  | cvti (f : FA) (ls : Lits)
  /-- XL_SH: Reads a rotated register of a source lane within the member set (R116). -/
  | xlSh (f : FX) (ls : Lits)
  /-- XL_BC: Broadcasts one sub-element of a source lane to every member (R116). -/
  | xlBc (f : FX) (ls : Lits)
  /-- XL_RED: Reduces each sub-element position over the members in a fixed tree (R117). -/
  | xlRed (f : FX) (ls : Lits)
  /-- XL_SCAN: Scans sequentially over the members in ascending lane order (R118). -/
  | xlScan (f : FX) (ls : Lits)
  /-- XL_VOTE_ALL: Writes 1 when every member's value is non-zero (R119). -/
  | xlVoteAll (f : FX) (ls : Lits)
  /-- XL_VOTE_ANY: Writes 1 when any member's value is non-zero (R119). -/
  | xlVoteAny (f : FX) (ls : Lits)
  /-- XL_VOTE_UNI: Writes 1 when all members agree on whether the value is non-zero (R119). -/
  | xlVoteUni (f : FX) (ls : Lits)
  /-- XL_BAL: Writes a lane bitmap of members whose value is non-zero (R119). -/
  | xlBal (f : FX) (ls : Lits)
  /-- DP4: Accumulates an exact dot product of 16 four-bit elements into d[31:0] (R109). -/
  | dp4 (f : FA) (ls : Lits)
  /-- RND: Draws keyed counter-hash values and advances DRAW (R110). -/
  | rnd (f : FA) (ls : Lits)
  /-- DP8: Accumulates an exact dot product of 8 eight-bit elements into d[31:0] (R109). -/
  | dp8 (f : FA) (ls : Lits)
  /-- FADD: Adds floating-point sub-elements with one rounding in FPCTL's mode (R148). -/
  | fadd (f : FA) (ls : Lits)
  /-- FSUB: Subtracts floating-point sub-elements with one rounding (R148). -/
  | fsub (f : FA) (ls : Lits)
  /-- FMUL: Multiplies floating-point sub-elements with one rounding (R148). -/
  | fmul (f : FA) (ls : Lits)
  /-- FFMA: Fused multiply-add into the destination with one rounding (R148). -/
  | ffma (f : FA) (ls : Lits)
  /-- FMIN: IEEE minimum of floating-point sub-elements, NaN propagating (R149). -/
  | fmin (f : FA) (ls : Lits)
  /-- FMAX: IEEE maximum of floating-point sub-elements, NaN propagating (R149). -/
  | fmax (f : FA) (ls : Lits)
  /-- FMINN: minimumNumber of floating-point sub-elements (R149). -/
  | fminn (f : FA) (ls : Lits)
  /-- FMAXN: maximumNumber of floating-point sub-elements (R149). -/
  | fmaxn (f : FA) (ls : Lits)
  /-- FABS: Clears the sign bit of each sub-element (R150). -/
  | fabs (f : FA) (ls : Lits)
  /-- FNEG: Inverts the sign bit of each sub-element (R150). -/
  | fneg (f : FA) (ls : Lits)
  /-- FCMP: Compares floating-point sub-elements and writes a predicate register (R151). -/
  | fcmp (f : FA) (ls : Lits)
  /-- FCLASS: Writes a one-hot class mask for each sub-element (R152). -/
  | fclass (f : FA) (ls : Lits)
  /-- FCVT: Converts between floating-point formats in the named mode (R157). -/
  | fcvt (f : FA) (ls : Lits)
  /-- FCVTI: Converts floating point to integer in the named mode (R158). -/
  | fcvti (f : FA) (ls : Lits)
  /-- ICVTF: Converts integer to floating point in the named mode (R159). -/
  | icvtf (f : FA) (ls : Lits)
  /-- FRND: Rounds each sub-element to an integral value in its format (R153). -/
  | frnd (f : FA) (ls : Lits)
  /-- FSCL: Multiplies each sub-element by 2 to an integer power (R154). -/
  | fscl (f : FA) (ls : Lits)
  /-- FEXPO: Writes the unbiased exponent of each sub-element as an integer (R155). -/
  | fexpo (f : FA) (ls : Lits)
  /-- FDIV: Queues a correctly rounded division to the SFU as a deferred result (R162). -/
  | fdiv (f : FA) (ls : Lits)
  /-- FRCP: Queues a correctly rounded reciprocal to the SFU (R163). -/
  | frcp (f : FA) (ls : Lits)
  /-- FRSQ: Queues a correctly rounded reciprocal square root to the SFU (R163). -/
  | frsq (f : FA) (ls : Lits)
  /-- FSQRT: Queues a correctly rounded square root to the SFU (R163). -/
  | fsqrt (f : FA) (ls : Lits)
  /-- FEXP2: Queues a correctly rounded 2^x to the SFU (R163). -/
  | fexp2 (f : FA) (ls : Lits)
  /-- FLOG2: Queues a correctly rounded log2 x to the SFU (R163). -/
  | flog2 (f : FA) (ls : Lits)
  /-- FEXP: Queues a correctly rounded e^x to the SFU (R163). -/
  | fexp (f : FA) (ls : Lits)
  /-- FSINPI: Queues a correctly rounded sin(pi x) to the SFU (R163). -/
  | fsinpi (f : FA) (ls : Lits)
  /-- FCOSPI: Queues a correctly rounded cos(pi x) to the SFU (R163). -/
  | fcospi (f : FA) (ls : Lits)
  /-- FTANH: Queues a correctly rounded tanh x to the SFU (R163). -/
  | ftanh (f : FA) (ls : Lits)
  /-- LD: Checks and performs a main-memory load through a handle, landing data as a deferred event (R183). -/
  | ld (f : FM) (ls : Lits)
  /-- ST: Checks and performs a main-memory store through a handle at commit (R184). -/
  | st (f : FM) (ls : Lits)
  /-- LDA: Loads from the group's A-buffer window as a deferred event (R186). -/
  | lda (f : FM) (ls : Lits)
  /-- STA: Stores into the group's A-buffer window at commit (R186). -/
  | sta (f : FM) (ls : Lits)
  /-- LDC: Loads from the team's C-buffer window as a deferred event (R186). -/
  | ldc (f : FM) (ls : Lits)
  /-- STC: Stores into the team's C-buffer window at commit (R186). -/
  | stc (f : FM) (ls : Lits)
  /-- PF: Requests lines near the core without any fault or result (R187). -/
  | pf (f : FM) (ls : Lits)
  /-- PREQ: Asks the migration engine to make a range resident, landing when done (R188). -/
  | preq (f : FM) (ls : Lits)
  /-- CINV: Writes back and drops the cluster cache lines of a range (R189). -/
  | cinv (f : FM) (ls : Lits)
  /-- CWB: Writes back dirty cluster cache lines of a range, keeping them (R189). -/
  | cwb (f : FM) (ls : Lits)
  /-- HMOV: Copies one handle register to another (R190). -/
  | hmov (f : FM) (ls : Lits)
  /-- HNARROW: Shortens a handle's length and removes rights (R190). -/
  | hnarrow (f : FM) (ls : Lits)
  /-- HOFF: Advances a handle's base and shortens its length (R190). -/
  | hoff (f : FM) (ls : Lits)
  /-- HSAVE: Stores a sealed 16-byte image of a handle (R191). -/
  | hsave (f : FM) (ls : Lits)
  /-- HLOAD: Loads a sealed handle image and checks its seal when it lands (R192). -/
  | hload (f : FM) (ls : Lits)
  /-- HINFO: Writes a chosen field of a handle into a vector register (R193). -/
  | hinfo (f : FM) (ls : Lits)
  /-- FENCE: Orders the thread's accesses of the masked kinds at a scope (R214). -/
  | fence (f : FM) (ls : Lits)
  /-- ACQ: Makes every earlier load of the thread an acquire at a scope (R215). -/
  | acq (f : FM) (ls : Lits)
  /-- REL: Makes later writes of the thread releases at a scope (R216). -/
  | rel (f : FM) (ls : Lits)
  /-- MVRANGE: Moves ownership of an IP range to a target core (R238). -/
  | mvrange (f : FM) (ls : Lits)
  /-- MVWAIT: Lands once every grain of an IP range is owned by the issuing core (R239). -/
  | mvwait (f : FM) (ls : Lits)
  /-- WSCLOSE: Makes the closable grains of a WS range FULL, as a release (R240). -/
  | wsclose (f : FM) (ls : Lits)
  /-- WSRESET: Returns every grain of a WS range to EMPTY (R241). -/
  | wsreset (f : FM) (ls : Lits)
  /-- WSSTATE: Reads a snapshot of a WS grain's tag state and pointers (R242). -/
  | wsstate (f : FM) (ls : Lits)
  /-- PGCLASS: Changes the page class of every page of a range (R243). -/
  | pgclass (f : FM) (ls : Lits)
  /-- REPLIC_ADD: Adds a replica chip to a replicated SC page (R244). -/
  | replicAdd (f : FM) (ls : Lits)
  /-- REPLIC_REM: Removes a replica chip from a replicated SC page (R244). -/
  | replicRem (f : FM) (ls : Lits)
  /-- ATOM: Performs a returning atomic at the unit chosen by page and scope (R257). -/
  | atom (f : FM) (ls : Lits)
  /-- RED: Performs a non-returning atomic reduction at its unit (R257). -/
  | red (f : FM) (ls : Lits)
  /-- AWAIT: Blocks each thread until a memory word satisfies a condition (R262). -/
  | await (f : FM) (ls : Lits)
  /-- GANG: Writes the group's GANG register after checking it (R289). -/
  | gang (f : FE) (ls : Lits)
  /-- MZERO: Accepts a zeroing of a C-buffer tile (R290). -/
  | mzero (f : FE) (ls : Lits)
  /-- MMX: Arrives at the gang rendezvous for a dense matrix operation (R291). -/
  | mmx (f : FE) (ls : Lits)
  /-- MMXS: Arrives at the gang rendezvous for a structured-sparse matrix operation (R291). -/
  | mmxs (f : FE) (ls : Lits)
  /-- MDRAIN: Accepts a drain of a C tile to a converted destination (R292). -/
  | mdrain (f : FE) (ls : Lits)
  /-- MSTAT: Returns the status word of the team's matrix entry for a ticket (R293). -/
  | mstat (f : FE) (ls : Lits)
  /-- MCKS: Returns one of the cluster's matrix check counters (R294). -/
  | mcks (f : FE) (ls : Lits)
  /-- MCANCEL: Cancels the team's matrix entry named by a ticket (R295). -/
  | mcancel (f : FE) (ls : Lits)
  /-- CPY: Submits a copy, transpose, pad or wpack command to the copy engine (R302). -/
  | cpy (f : FE) (ls : Lits)
  /-- CPYG: Submits a gather command to the copy engine (R302). -/
  | cpyg (f : FE) (ls : Lits)
  /-- CFILL: Submits a fill command to the copy engine (R302). -/
  | cfill (f : FE) (ls : Lits)
  /-- PUBLISH: Makes shadow sides of buffer pairs or publishable pages visible as a release (R300). -/
  | publish (f : FE) (ls : Lits)
  /-- EWAIT: Lands when the engine command named by a ticket has ended (R313). -/
  | ewait (f : FE) (ls : Lits)
  /-- ESTAT: Returns the engine command status word as it stands (R313). -/
  | estat (f : FE) (ls : Lits)
  /-- MIG: Submits a migration of a range's pages to HBM, tier or host (R307). -/
  | mig (f : FE) (ls : Lits)
  /-- DGST: Submits a SHA-256 digest command over memory ranges (R309). -/
  | dgst (f : FE) (ls : Lits)
  /-- FPUT: Submits a put of local bytes to a peer's shadow side (R332). -/
  | fput (f : FE) (ls : Lits)
  /-- FGET: Submits a get of a peer's bytes into a local shadow (R332). -/
  | fget (f : FE) (ls : Lits)
  /-- FSEND: Submits a tagged message send to a peer chip (R332). -/
  | fsend (f : FE) (ls : Lits)
  /-- FRECV: Posts a receive buffer for a tagged message (R332). -/
  | frecv (f : FE) (ls : Lits)
  /-- FSTAT: Returns one fabric counter of the module (R342). -/
  | fstat (f : FE) (ls : Lits)
  /-- CINIT: Configures a combine context from a record (R335). -/
  | cinit (f : FE) (ls : Lits)
  /-- CPOST: Contributes a member's data to the next combine round (R336). -/
  | cpost (f : FE) (ls : Lits)
  /-- CWAIT: Blocks until a combine round is published or failed on the chip (R339). -/
  | cwait (f : FE) (ls : Lits)
  /-- CBAR: Posts an empty contribution for a member index (R336). -/
  | cbar (f : FE) (ls : Lits)
  /-- CFREE: Frees a combine context with no open round (R340). -/
  | cfree (f : FE) (ls : Lits)
  /-- SNAP: Starts recording a snapshot of the given colour at the initiator (R363). -/
  | snap (f : FE) (ls : Lits)
  /-- SNAPST: Returns the status of a snapshot colour as it stands (R364). -/
  | snapst (f : FE) (ls : Lits)
  /-- SNAPWAIT: Lands once a snapshot colour is sealed, failed or idle (R364). -/
  | snapwait (f : FE) (ls : Lits)
  /-- SNAPDROP: Drops a snapshot colour and sends drop notices (R364). -/
  | snapdrop (f : FE) (ls : Lits)
  /-- GSPAWN: Starts a walk at a node record through a handle (R408). -/
  | gspawn (f : FE) (ls : Lits)
  /-- GLAUNCH: Launches the single grid of a GRID node record (R408). -/
  | glaunch (f : FE) (ls : Lits)
  /-- GWAIT: Lands with the status word when a launch or walk has ended (R409). -/
  | gwait (f : FE) (ls : Lits)
  /-- GCANCEL: Cancels a launch or walk named by a ticket (R409). -/
  | gcancel (f : FE) (ls : Lits)
  /-- BUDGET: Returns and sets a context's dispatch budget limit (R410). -/
  | budget (f : FE) (ls : Lits)
  /-- DETSIG: Returns a field of the deterministic grid's signature (R411). -/
  | detsig (f : FE) (ls : Lits)
  /-- CTXSAVE: Force-saves a context and writes its image (R387). -/
  | ctxsave (f : FE) (ls : Lits)
  /-- CTXLOAD: Reads and installs a context image (R388). -/
  | ctxload (f : FE) (ls : Lits)
  /-- TLBINV: Removes TLB entries of an ASID over a range (R389). -/
  | tlbinv (f : FE) (ls : Lits)
  /-- ASIDINV: Removes every TLB entry of an ASID (R389). -/
  | asidinv (f : FE) (ls : Lits)
  /-- INJ_MAT: Arms a test flip of one accumulator cell in the next matrix pass (R390). -/
  | injMat (f : FE) (ls : Lits)
  /-- INJ_FRAG: Arms a CRC inversion of the next matching data fragment (R390). -/
  | injFrag (f : FE) (ls : Lits)
  /-- INJ_POISON: Sets the poison bit of a grain at its home (R390). -/
  | injPoison (f : FE) (ls : Lits)
  /-- PREEMPT: Drains or force-saves a context (R391). -/
  | preempt (f : FE) (ls : Lits)
  /-- BRA: Branches each acting thread to a PC-relative clause header (R77). -/
  | bra (f : FB)
  /-- CALL: Pushes the return address and branches to a relative target (R79). -/
  | call (f : FB)
  /-- BRX: Branches each acting thread to a register-held target (R78). -/
  | brx (f : FC) (ls : Lits)
  /-- CALLX: Pushes the return address and branches to a register-held target (R79). -/
  | callx (f : FC) (ls : Lits)
  /-- RET: Pops the return stack into the PC (R80). -/
  | ret (f : FC) (ls : Lits)
  /-- EXIT: Exits each thread of the bundle (R81). -/
  | exit (f : FC) (ls : Lits)
  /-- YIELD: Delays the bundle's threads by a number of ACLK (R82). -/
  | yield (f : FC) (ls : Lits)
  /-- NOP: Does nothing but forms a clause boundary (R83). -/
  | nop (f : FC) (ls : Lits)
  /-- SRD: Reads a special register into a v or g register (R86). -/
  | srd (f : FC) (ls : Lits)
  /-- SWR: Writes a writable special register (R87). -/
  | swr (f : FC) (ls : Lits)
  /-- TRAP: Commits and then raises TRAP_SW at the next boundary (R93). -/
  | trap (f : FC) (ls : Lits)
  /-- BRK: Commits and then raises BREAKPOINT at the next boundary (R93). -/
  | brk (f : FC) (ls : Lits)
  /-- BAR_SYNC: Arrives at a team barrier and blocks until its phase completes (R89). -/
  | barSync (f : FC) (ls : Lits)
  /-- BAR_ARRIVE: Arrives at a team barrier without waiting (R89). -/
  | barArrive (f : FC) (ls : Lits)
  /-- BAR_WAIT: Blocks until the barrier phase of an earlier arrival completes (R89). -/
  | barWait (f : FC) (ls : Lits)
  /-- STEP: Arrives at a grid superstep and blocks (R91). -/
  | step (f : FC) (ls : Lits)
  /-- STEP_POD: Arrives at a pod-wide superstep of the step domain and blocks (R92). -/
  | stepPod (f : FC) (ls : Lits)
  /-- TRET: Leaves the trap handler to EPC or a given target (R372). -/
  | tret (f : FC) (ls : Lits)
  /-- CFGRD: Reads a configuration register (R384). -/
  | cfgrd (f : FC) (ls : Lits)
  /-- CFGWR: Writes a configuration register under its own rule (R385). -/
  | cfgwr (f : FC) (ls : Lits)
  /-- CLAUSE_ISSUE: An eligible bundle is selected into a free slot and its header checked (R71). -/
  | clauseIssue (gid pc : Nat)
  /-- BUNDLE_PRIORITY_AGING: A bundle eligible for 1,024 ACLK takes effective priority 3 (R71). -/
  | bundlePriorityAging (gid pc : Nat)
  /-- YIELD_DELAY_EXPIRY: Delayed threads become ready when their yield delay ends (R82). -/
  | yieldDelayExpiry (gid : Nat) (lanes : BitVec 32)
  /-- DEFERRED_EVENT_LANDING: A deferred result or command completion lands and decrements its scoreboard slot (R32). -/
  | deferredEventLanding (id : Nat)
  /-- SFU_ENTRY_START: The SFU starts its head queue entry when free (R161). -/
  | sfuEntryStart (core : Nat)
  /-- SFU_RESULT_LANDING: An SFU result lands, writing the destination and ORing FLAGS (R160). -/
  | sfuResultLanding (core : Nat)
  /-- GROUP_RETIRE: A group whose threads all exited and whose slots are zero retires (R81). -/
  | groupRetire (gid : Nat)
  /-- STEP_COMPLETE: A superstep completes once every team arrived and its writes are performed (R91). -/
  | stepComplete (grid : Nat)
  /-- GETS: The home handles a shared-read request from another chip (R226). -/
  | gets (chip epoch pa : Nat)
  /-- GETM: The home handles an exclusive-write request from another chip (R226). -/
  | getm (chip epoch pa : Nat)
  /-- FORWARD: An owner answers a Forward by sending data to the requester (R225). -/
  | forward (chip epoch pa : Nat) (excl : Bool)
  /-- GRAIN_DATA: The two 256-byte data messages of a grain are delivered and acted on (R225). -/
  | grainData (chip epoch pa : Nat) (tag : BitVec 64) (data : List (BitVec 8))
  /-- WS_WAIT_EXPIRY: A WS load or await not satisfied within WS_WAIT lands zero with WS_TIMEOUT (R234). -/
  | wsWaitExpiry (id : Nat)
  /-- MOVE_TIMEOUT_EXPIRY: An mvwait not satisfied within WS_WAIT lands with MOVE_TIMEOUT (R239). -/
  | moveTimeoutExpiry (id : Nat)
  /-- ATOMIC_ENGINE_OPERATION: The cluster atomic engine performs queued operations on held grains (R253). -/
  | atomicEngineOperation (cluster grain : Nat)
  /-- ATOMIC_GRAIN_RECALL: A unit surrenders a recalled grain after its operation in progress (R254). -/
  | atomicGrainRecall (cluster grain : Nat)
  /-- HOME_SLICE_ATOMIC: A home slice performs an atomic of CHIP scope or wider (R255). -/
  | homeSliceAtomic (grain : Nat)
  /-- AWAIT_TEST: The home slice tests a parked wait after a write to its grain (R263). -/
  | awaitTest (id : Nat)
  /-- AWAIT_RETEST_TIMER: A parked wait is retested after 4,096 MCLK (R263). -/
  | awaitRetestTimer (id : Nat)
  /-- RENDEZVOUS_LATCH_GRANT: A member waiting for a rendezvous latch takes one when freed (R275). -/
  | rendezvousLatchGrant (cluster : Nat)
  /-- MATRIX_ENTRY_PLACEMENT: A checked operation takes a reservation entry and the members commit (R275). -/
  | matrixEntryPlacement (cluster team tag : Nat)
  /-- MATRIX_PASS: The arbiter grants and the engine runs one checked block pass (R278). -/
  | matrixPass (cluster : Nat)
  /-- MATRIX_STARVATION_PRIORITY: An entry without a pass for 4,096 ACLK is served first (R278). -/
  | matrixStarvationPriority (cluster id : Nat)
  /-- MATRIX_COMPLETION: The status record is written and completion lands in every member (R283). -/
  | matrixCompletion (cluster id : Nat)
  /-- MATRIX_DRAIN_RUN: The drain path converts a tile to its destination and merges amax (R286). -/
  | matrixDrainRun (cluster : Nat)
  /-- MATRIX_ZERO_RUN: The drain path writes +0 to a tile (R290). -/
  | matrixZeroRun (cluster : Nat)
  /-- COPY_COMMAND_START: A queued copy command starts when its overlaps have ended (R305). -/
  | copyCommandStart (cluster id : Nat)
  /-- COPY_COMMAND_COMPLETION: A copy command completes after its last write (R305). -/
  | copyCommandCompletion (cluster id : Nat)
  /-- ENGINE_STATUS_UPDATE: A running command's status progress word is rewritten every 4,096 ACLK (R298). -/
  | engineStatusUpdate (id : Nat)
  /-- PUBLISH_EXECUTION: A held publish swaps banks or flips page sides and lands (R300). -/
  | publishExecution (id : Nat)
  /-- MESSAGE_INJECTION: A message is coded and injected once retention room exists (R326). -/
  | messageInjection (dst cls : Nat)
  /-- DATA_FRAGMENT_RECEIVE: A data fragment is checked, stored and may decode its stripe (R324). -/
  | dataFragmentReceive (hdr : BitVec 256) (payload : List (BitVec 8))
  /-- DECODE_DEADLINE_EXPIRY: A stripe's decode deadline passes, sending a NACK or losing the message (R324). -/
  | decodeDeadlineExpiry (src cls seq stripe : Nat)
  /-- MESSAGE_DELIVERY: A decoded message is delivered in seq order and enters the filter (R325). -/
  | messageDelivery (src cls : Nat)
  /-- ACK_COALESCE_EXPIRY: A coalesced cumulative acknowledgement is sent (R325). -/
  | ackCoalesceExpiry (src cls : Nat)
  /-- FILTER_ENTRY_EXPIRY: A delivered message leaves the completed-message filter after DISPOSE_WINDOW (R325). -/
  | filterEntryExpiry (src cls seq : Nat)
  /-- ACK_RECEIVE: An acknowledgement releases retained messages at the sender (R326). -/
  | ackReceive (dst cls seq : Nat)
  /-- NACK_RECEIVE: A NACK fails a stripe attempt and triggers a resend (R326). -/
  | nackReceive (dst cls seq stripe : Nat)
  /-- BUSY_REPLY_RECEIVE: A busy reply holds the message for FAB_BUSY_WAIT (R323). -/
  | busyReplyReceive (dst cls seq : Nat)
  /-- BUSY_WAIT_EXPIRY: After FAB_BUSY_WAIT the held message is sent again (R323). -/
  | busyWaitExpiry (dst cls seq : Nat)
  /-- ACK_WAIT_EXPIRY: No acknowledgement within FAB_ACK_WAIT fails an attempt (R326). -/
  | ackWaitExpiry (dst cls seq stripe : Nat)
  /-- LOSS_NOTICE_RECEIVE: A loss notice makes the receiver declare the seq lost (R327); it names the lost message's kind and info. -/
  | lossNoticeReceive (src cls seq kind info : Nat)
  /-- LOSS_NOTICE_REPEAT: An unacknowledged loss notice is repeated every FAB_ACK_WAIT (R327). -/
  | lossNoticeRepeat (dst cls seq : Nat)
  /-- COMBINE_RESULT_RECEIVE: A round result or failure arrives and is written, published or failed (R338). -/
  | combineResultReceive (ctx round : Nat) (fail : Option FaultCode) (data : List (BitVec 8))
  /-- MARKER_RECEIVE: A snapshot marker is delivered, recording or ending channel logging (R356). -/
  | markerReceive (src cls epoch initiator dtag : Nat)
  /-- SNAPSHOT_SWEEP: The chip sweeps domain grains and marked objects into the lake (R353). -/
  | snapshotSweep (colour : BitVec 1)
  /-- SNAPSHOT_CHIP_COMPLETE: The chip writes its end record and reports to the initiator (R357). -/
  | snapshotChipComplete (colour : BitVec 1)
  /-- SNAPSHOT_REPORT_RECEIVE: The initiator receives a report and seals on the last one (R357). -/
  | snapshotReportReceive (chip : Nat) (colour : BitVec 1)
  /-- SNAPSHOT_DROP_FINISH: Relabelling ends and the colour returns to idle (R354). -/
  | snapshotDropFinish (colour : BitVec 1)
  /-- TRAP_ENTRY: A group takes a fault at a boundary and enters its handler (R368). -/
  | trapEntry (gid : Nat)
  /-- CONTEXT_KILL: A context is stopped and its host fault record written (R373). -/
  | contextKill (ctx : Nat)
  /-- DRAIN_LIMIT_EXPIRY: DRAIN_LIMIT passes with teams still resident, forcing saves (R380). -/
  | drainLimitExpiry (ctx : Nat)
  /-- FORCED_SAVE: A team is stopped and its state written to the save area (R381). -/
  | forcedSave (team : Nat)
  /-- TEAM_DISPATCH: A dispatcher places a team that fits and its budgets allow (R399). -/
  | teamDispatch (grid team cluster : Nat) (cores : List Nat)
  /-- STARVATION_SWAP: After STARVE_WAIT of full blocking a resident team is swapped out (R402). -/
  | starvationSwap (grid : Nat)
  /-- NODE_VISIT_GRID: The walker reads a GRID node and launches its grid (R395). -/
  | nodeVisitGrid (ctx slot : Nat)
  /-- NODE_VISIT_COPY: The walker reads a COPY node and copies then publishes (R395). -/
  | nodeVisitCopy (ctx slot : Nat)
  /-- NODE_VISIT_COLL: The walker reads a COLL node and posts as a member (R395). -/
  | nodeVisitColl (ctx slot : Nat)
  /-- NODE_VISIT_COND: The walker reads a COND node and its word and chooses a successor (R395). -/
  | nodeVisitCond (ctx slot : Nat)
  /-- NODE_VISIT_WHILE: The walker reads a WHILE node and loops or leaves (R395). -/
  | nodeVisitWhile (ctx slot : Nat)
  /-- NODE_VISIT_SNAP: The walker reads a SNAP node and acts as snap (R395). -/
  | nodeVisitSnap (ctx slot : Nat)
  /-- NODE_VISIT_HOSTSIG: The walker reads a HOSTSIG node and raises a host event (R395). -/
  | nodeVisitHostsig (ctx slot : Nat)
  /-- NODE_VISIT_END: The walker reads an END node and ends the walk (R395). -/
  | nodeVisitEnd (ctx slot : Nat)
  /-- GRID_COMPLETE: A GRID node completes once teams retired and writes are performed (R396). -/
  | gridComplete (grid : Nat)
  /-- GRID_END_DIGEST: A deterministic grid's end digest is computed and written (R406). -/
  | gridEndDigest (grid : Nat)
  /-- EVENT_AREA_WRITE: An event is written to the event area and its vector signalled (R420). -/
  | eventAreaWrite (ctx : Nat)
  /-- DROP_REPORT_RECEIVE: The initiator receives a chip's drop report and lands snapdrop when every domain chip has finished its drop (R364). -/
  | dropReportReceive (chip : Nat) (colour : BitVec 1)
  /-- CONTEXT_BECOMES_LIVE: A context becomes live, its record and event-area q are read and checked, or it is refused as a kill with CTX_IMAGE (R378). -/
  | contextBecomesLive (ctx q : Nat)
  /-- CLAUSE_COMMIT: After all checks pass the clause's held effects take place together (R26). -/
  | clauseCommit
  /-- STEP_NOTICE_RECEIVE: A step notice from another chip of the step domain is delivered (R403). -/
  | stepNoticeReceive (chip stag n : Nat) (seqs : List Nat)
  /-- LTS_SELF_ADVANCE: Each cluster's LTS advances by one every LTS_PERIOD MCLK (R229). -/
  | ltsSelfAdvance
  /-- MODULE_REBASE: When an LTS reaches REBASE_AT the module drops RC lines and flips its era (R231). -/
  | moduleRebase
  /-- UPGRADE: The home upgrades a sharer or owner to M (R226). -/
  | upgrade (chip pa : Nat)
  /-- PUTM: The home accepts a writeback from an E or M owner (R226). -/
  | putm (chip pa : Nat) (data : List (BitVec 8))
  /-- PUTO: The home accepts a writeback from an O owner (R226). -/
  | puto (chip pa : Nat) (data : List (BitVec 8))
  /-- INVALIDATE: A sharer drops its copy and acknowledges an Invalidate (R225). -/
  | invalidate (pa : Nat)
  /-- COHERENCE_ACK: The home receives an acknowledgement it awaits for a grain (R226). -/
  | coherenceAck (chip pa : Nat) (dirty : Bool)
  /-- HOST_ATOMIC_COMPLETION: A PCIe AtomicOp completion arrives, marking UR regions or raising faults (R418). -/
  | hostAtomicCompletion (id : Nat) (st : HostStatus) (old : Nat)
  /-- HOST_ACCESS_COMPLETION: A host-memory load or store completion arrives or fails (R417). -/
  | hostAccessCompletion (id : Nat) (st : HostStatus) (data : List (BitVec 8))
  /-- HOST_SNOOP: A host CXL.cache snoop recalls a line held by X-die 0 (R256). -/
  | hostSnoop (hpa : Nat)
  /-- MIGRATION_PAGE_MOVE: The migration engine moves one page to its target (R307). -/
  | migrationPageMove
  /-- DIGEST_COMPLETION: The digest engine finishes hashing and writes the digest (R310). -/
  | digestCompletion
  /-- MORDANT_LAKE_WRITE: The mordant engine moves staged snapshot data to the lake (R311). -/
  | mordantLakeWrite
  /-- FRAGMENT_FORWARD: An intermediate router forwards a fragment on its next port (R320). -/
  | fragmentForward (hdr : BitVec 256) (payload : List (BitVec 8))
  /-- COMBINE_CONTRIBUTION_RECEIVE: A child's combine contribution arrives at a context (R337). -/
  | combineContributionReceive (ctx chip round : Nat) (agreed : CombineAgreed) (fail : Option FaultCode) (data : List (BitVec 8))
  /-- SNAPSHOT_RECORD_INSTANT: The last domain group pauses; the epoch advances and state is recorded (R347). -/
  | snapshotRecordInstant
  /-- SEAL_NOTICE_RECEIVE: A chip receives the seal notice and the snapshot is sealed (R357). -/
  | sealNoticeReceive (colour : BitVec 1)
  /-- FAILURE_NOTICE_RECEIVE: A failure notice fails the snapshot on the chip (R357). -/
  | failureNoticeReceive (colour : BitVec 1)
  /-- DROP_NOTICE_RECEIVE: A drop notice moves the colour to dropping (R364). -/
  | dropNoticeReceive (colour : BitVec 1)
  /-- PATROL_SCRUB: The scrubber reads, corrects or poisons grains and relabels epochs (R425). -/
  | patrolScrub (grain : Nat) (bad : Bool)
  /-- WALK_START_WRITE: A host write to a start register starts a walk (R398). -/
  | walkStartWrite (ctx slot : Nat) (value : BitVec 64)
  /-- EVENT_AREA_RETRY: A waiting event re-reads the consumer count every 1 us (R420). -/
  | eventAreaRetry (ctx : Nat) (consumer : BitVec 32)
  /-- HOST_CONFIG_WRITE: A host W0 write to a configuration register without a row of its own (R413). -/
  | hostConfigWrite (reg : Nat) (value : BitVec 64)
  /-- PATH_TABLE_WRITE: A write to a path table entry is stored and checked (R319). -/
  | pathTableWrite (chip word : Nat) (value : BitVec 64)
  /-- PLACEMENT_TABLE_WRITE: A write to a placement entry rebinds a logical chip (R320). -/
  | placementTableWrite (entry : Nat) (value : BitVec 32)
  /-- VF_GRANT_WRITE: The physical function grants contexts to a virtual function (R414). -/
  | vfGrantWrite (vf : Nat) (value : BitVec 64)
  /-- CTX_CMD_DRAIN: A control block command drains a context (R416). -/
  | ctxCmdDrain (ctx : Nat)
  /-- CTX_CMD_DRAIN_NOW: A control block command force-saves a context at once (R416). -/
  | ctxCmdDrainNow (ctx : Nat)
  /-- CTX_CMD_KILL: A control block command kills a context with CTX_KILL (R416). -/
  | ctxCmdKill (ctx : Nat)
  /-- CTX_CMD_RESUME: A control block command resumes a halted context (R416). -/
  | ctxCmdResume (ctx : Nat)
  /-- CTX_CMD_END: A control block command ends a killed context and frees its resources (R416). -/
  | ctxCmdEnd (ctx : Nat)
  /-- HOST_W2_READ: A host read of device memory through W2 is served at the home (R415). -/
  | hostW2Read (addr len : Nat)
  /-- HOST_W2_WRITE: A host write of device memory through W2 is served at the home (R415). -/
  | hostW2Write (addr : Nat) (data : List (BitVec 8))
  /-- POISON_CLEAR: A write of a grain address zeroes the grain and clears its poison (R424). -/
  | poisonClear (pa : BitVec 64)
  /-- LINK_TRAINING: The host or tier port trains to the best common rate and width (R412). -/
  | linkTraining (tier : Bool) (link : BitVec 13) (gib : Nat)
  /-- BOOT: The boot ROM verifies the firmware image or enters recovery (R432). -/
  | boot (image : List (BitVec 8)) (version : BitVec 16) (ed mldsa : Bool)
  /-- RECOVERY_DOORBELL: A doorbell write verifies and installs the recovery image (R432). -/
  | recoveryDoorbell (image : List (BitVec 8)) (version : BitVec 16) (ed mldsa : Bool)
  /-- SPDM_REQUEST: The module answers an SPDM request with dual-signed responses (R433). -/
  | spdmRequest (request : List (BitVec 8))
  /-- POWER_GATING: The power manager gates work when demand exceeds the limit (R15). -/
  | powerGating (level : Nat)
  /-- THERMAL_THROTTLE: A die reaching 105 C starts throttling (R430). -/
  | thermalThrottle (celsius : Nat)
  /-- THERMAL_THROTTLE_END: A die falling below 100 C ends throttling (R430). -/
  | thermalThrottleEnd (celsius : Nat)
  /-- THERMAL_TRIP: A die reaching 115 C kills every context and holds the module in reset (R430). -/
  | thermalTrip (celsius : Nat)
  /-- CORRECTED_ERROR: A corrected storage error is repaired and counted (R423). -/
  | correctedError (err : StorageError)
  /-- UNCORRECTABLE_ERROR: An uncorrectable storage error is counted and poisons or drops data (R423). -/
  | uncorrectableError (err : StorageError)
  /-- SLICE_RETIRE: An L2 slice left short of ways is retired and its homes rehashed (R427). -/
  | sliceRetire (slice : Nat)
  /-- FRAME_POOL_WAIT_EXPIRY: A migration request waiting for an HBM frame with nothing evictable fails after WS_WAIT with PAGE_NOT_PRESENT or MIG_FAIL (R308). -/
  | framePoolWaitExpiry
  /-- SNAPSHOT_RESTORATION: Firmware reloads a sealed snapshot onto quiesced modules, replays logged channel messages and resumes dispatch and issue (R361). -/
  | snapshotRestoration (colour : BitVec 1)
  deriving DecidableEq, Repr

end Sys2Proof
end

