-- ==== Sys2Proof/Machine/Encoding.lean ====
section
/-!
DEFINITION. The encoding tables: for every program instruction its opcode (Table 2·8), format, class, privilege, deferred
event, latch, and the rule each of its fields obeys (Tables 2·7, 4·2, 8·6, 9·2, 10·7, 11·1, 12·7, 13·4, 14·8, 15·5, 16·7,
17·8), with the encoding checks of R48 steps 1 to 3. The words themselves are packed and unpacked here, once.
-/

namespace Sys2Proof

/-! ### Words and fields -/

/-- The opcode, bits [31:25] of an instruction's first word (R36). -/
def opOf (w : IWord) : BitVec 7 := w.extractLsb' 25 7

/-- The fields of a format A word (Table 2·3). -/
def FA.ofWord (w : IWord) : FA :=
  { t := w.extractLsb' 22 3, nw := w.extractLsb' 21 1, d := w.extractLsb' 14 7, a := w.extractLsb' 7 7,
    b := w.extractLsb' 0 7 }

/-- A format A word from its opcode and fields. -/
def FA.toWord (op : BitVec 7) (f : FA) : IWord := op ++ f.t ++ f.nw ++ f.d ++ f.a ++ f.b

/-- The fields of a format X pair of words (Tables 2·3 and 2·5). -/
def FX.ofWords (w v : IWord) : FX :=
  { t := w.extractLsb' 22 3, nw := w.extractLsb' 21 1, d := w.extractLsb' 14 7, a := w.extractLsb' 7 7,
    b := w.extractLsb' 0 7, m := v.extractLsb' 25 7, rz := v.extractLsb' 6 19, sub := v.extractLsb' 0 6 }

/-- The first word of a format X instruction. -/
def FX.word0 (op : BitVec 7) (f : FX) : IWord := op ++ f.t ++ f.nw ++ f.d ++ f.a ++ f.b

/-- The second word of a format X instruction. -/
def FX.word1 (f : FX) : IWord := f.m ++ f.rz ++ f.sub

/-- The fields of a format M pair of words (Tables 2·4 and 2·5). -/
def FM.ofWords (w v : IWord) : FM :=
  { t := w.extractLsb' 22 3, nw := w.extractLsb' 21 1, d := w.extractLsb' 14 7, h := w.extractLsb' 10 4,
    off := w.extractLsb' 3 7, scope := w.extractLsb' 0 3, imm := v.extractLsb' 20 12, ge := v.extractLsb' 19 1,
    gn := v.extractLsb' 18 1, gk := v.extractLsb' 15 3, re := v.extractLsb' 14 1, rk := v.extractLsb' 11 3,
    hint := v.extractLsb' 9 2, ord := v.extractLsb' 6 3, sub := v.extractLsb' 0 6 }

/-- The first word of a format M instruction. -/
def FM.word0 (op : BitVec 7) (f : FM) : IWord := op ++ f.t ++ f.nw ++ f.d ++ f.h ++ f.off ++ f.scope

/-- The second word of a format M instruction. -/
def FM.word1 (f : FM) : IWord := f.imm ++ f.ge ++ f.gn ++ f.gk ++ f.re ++ f.rk ++ f.hint ++ f.ord ++ f.sub

/-- The fields of a format E pair of words (Tables 2·4 and 2·5). -/
def FE.ofWords (w v : IWord) : FE :=
  { t := w.extractLsb' 22 3, nw := w.extractLsb' 21 1, d := w.extractLsb' 14 7, h := w.extractLsb' 10 4,
    a := w.extractLsb' 3 7, scope := w.extractLsb' 0 3, imm := v.extractLsb' 20 12, b := v.extractLsb' 13 7,
    aux := v.extractLsb' 6 7, sub := v.extractLsb' 0 6 }

/-- The first word of a format E instruction. -/
def FE.word0 (op : BitVec 7) (f : FE) : IWord := op ++ f.t ++ f.nw ++ f.d ++ f.h ++ f.a ++ f.scope

/-- The second word of a format E instruction. -/
def FE.word1 (f : FE) : IWord := f.imm ++ f.b ++ f.aux ++ f.sub

/-- The fields of a format B word (Table 2·6). -/
def FB.ofWord (w : IWord) : FB :=
  { ge := w.extractLsb' 24 1, gn := w.extractLsb' 23 1, gk := w.extractLsb' 20 3, off := w.extractLsb' 0 20 }

/-- A format B word. -/
def FB.toWord (op : BitVec 7) (f : FB) : IWord := op ++ f.ge ++ f.gn ++ f.gk ++ f.off

/-- The fields of a format C word (Table 2·6). -/
def FC.ofWord (w : IWord) : FC :=
  { ge := w.extractLsb' 24 1, gn := w.extractLsb' 23 1, gk := w.extractLsb' 20 3, sub := w.extractLsb' 14 6,
    a := w.extractLsb' 7 7, b := w.extractLsb' 0 7 }

/-- A format C word. -/
def FC.toWord (op : BitVec 7) (f : FC) : IWord := op ++ f.ge ++ f.gn ++ f.gk ++ f.sub ++ f.a ++ f.b

/-! ### What a field may hold -/

/-- What an instruction's entry allows in one of its seven-bit operand fields (R42, R44, R76, R182). -/
inductive OpRule where
  /-- Unused: must be zero (R44). -/
  | zero
  /-- Any operand, read in an integer type: code 124 is reserved (R42). -/
  | int
  /-- Any operand, read in a floating-point type. -/
  | float
  /-- Any operand, read in E5M2, E4M3 or E2M1: code 126 is reserved (R42). -/
  | small
  /-- A v register. -/
  | v
  /-- An even v register, the base of a pair (R182, Table 11·3). -/
  | vEven
  /-- A v register that is a multiple of four, the base of a quadruple (Table 11·3). -/
  | vQuad
  /-- A g register. -/
  | g
  /-- A g register or the constant zero (gang, R288). -/
  | gOrZero
  /-- A v or a g register. -/
  | vOrG
  /-- A v register, or code 120 (tret, R372). -/
  | vOrZero
  /-- A uniform operand of R76, or of gmov and unpack (R104): g, 120, 121, 123 or a literal. -/
  | uniform
  /-- A uniform operand of R182: g, 120 to 123, 125 or a literal. -/
  | uniformM
  /-- A v register, a g register or a constant (gmov, R104). -/
  | regOrConst
  /-- A member mask: v, g, 125 or a literal (R112). -/
  | mask
  /-- Code 127 alone (movl, R103). -/
  | literal
  /-- A k index in [2:0], zero above (kop, R101). -/
  | kIndex
  /-- A handle index in [3:0], zero above (R44). -/
  | handle
  /-- A control field whose own rule is given beside it (Table 2·7). -/
  | control
  deriving DecidableEq, Repr

/-- Whether an operand code is a v register (Table 2·6a). -/
def isV (c : BitVec 7) : Bool := c.toNat < 96

/-- Whether an operand code is a bypass latch. -/
def isLatch (c : BitVec 7) : Bool := 96 ≤ c.toNat && c.toNat < 104

/-- Whether an operand code is a g register. -/
def isG (c : BitVec 7) : Bool := 104 ≤ c.toNat && c.toNat < 120

/-- Whether a code is legal in a field of the given rule; an illegal one raises RESERVED_FIELD (R44). -/
def OpRule.legal (r : OpRule) (c : BitVec 7) : Bool :=
  match r with
  | .zero => c == 0
  | .int => c != 124
  | .float => true
  | .small => c != 126
  | .v => isV c
  | .vEven => isV c && c.toNat % 2 == 0
  | .vQuad => isV c && c.toNat % 4 == 0
  | .g => isG c
  | .gOrZero => isG c || c == 120
  | .vOrG => isV c || isG c
  | .vOrZero => isV c || c == 120
  | .uniform => isG c || c == 120 || c == 121 || c == 123 || c == 127
  | .uniformM => isG c || c == 120 || c == 121 || c == 122 || c == 123 || c == 125 || c == 127
  | .regOrConst => isV c || isG c || (120 ≤ c.toNat && c.toNat < 127 && c != 124)
  | .mask => isV c || isG c || c == 125 || c == 127
  | .literal => c == 127
  | .kIndex => c.toNat < 8
  | .handle => c.toNat < 16
  | .control => true

/-- How many consecutive v registers the field names (R45, R182, Table 11·3). -/
def OpRule.width : OpRule → Nat
  | .vEven => 2
  | .vQuad => 4
  | _ => 1

/-- Whether a code below 96 in the field names v registers. -/
def OpRule.namesV : OpRule → Bool
  | .int | .float | .small | .v | .vEven | .vQuad | .vOrG | .vOrZero | .regOrConst | .mask => true
  | _ => false

/-- Whether the field is an operand that code 127 gives a literal word (R25). -/
def OpRule.takesLit : OpRule → Bool
  | .int | .float | .small | .uniform | .uniformM | .mask | .literal => true
  | _ => false

/-- Whether the field reads a latch when its code is 96 to 103 (R29). -/
def OpRule.readsLatch : OpRule → Bool
  | .int | .float | .small => true
  | _ => false

/-- What imm12 may hold: nothing, any value, or an eight-bit mask (Table 8·6, hnarrow). -/
inductive ImmRule where
  | zero | any | low8
  deriving DecidableEq, Repr

/-- Whether an imm12 value is legal under its rule. -/
def ImmRule.legal (r : ImmRule) (i : BitVec 12) : Bool :=
  match r with
  | .zero => i == 0
  | .any => true
  | .low8 => i.toNat < 256

/-- The rules of one instruction's fields. `ill0` and `ill1` say that a reserved value of Table 2·7 or of an entry stands
in word 0 or word 1 (ILLEGAL_OPCODE); `res0` and `res1` say the same of a field that raises RESERVED_FIELD. -/
structure Rules where
  types : List Nat := [0]
  subs : List Nat := [0]
  nwOk : Bool := false
  dst : OpRule := .zero
  a : OpRule := .zero
  b : OpRule := .zero
  m : OpRule := .zero
  hOk : Bool := false
  scopes : List Nat := [0]
  imm : ImmRule := .zero
  guard : Bool := false
  residency : Bool := false
  hint : Bool := false
  ords : List Nat := [0]
  auxs : List Nat := [0]
  auxIll : Bool := true
  ill0 : Bool := false
  res0 : Bool := false
  res1 : Bool := false
  deriving DecidableEq, Repr

/-- The fields of an instruction, by format. -/
inductive Body where
  | a (f : FA)
  | x (f : FX)
  | m (f : FM)
  | e (f : FE)
  | b (f : FB)
  | c (f : FC)
  deriving DecidableEq, Repr

/-- The clause class of Table 2·8: ALU (any class), any (branches), or a numbered class. -/
inductive ClauseClass where
  | alu
  | branch
  | num (n : Nat)
  deriving DecidableEq, Repr

/-- One row of Table 2·8 applied to an instruction: its opcode, fields, literals, class, whether it is privileged (P),
whether it creates a deferred event (R31), whether it writes its bypass latch (R29), and its field rules. -/
structure Enc where
  op : BitVec 7
  body : Body
  lits : Lits
  cls : ClauseClass
  priv : Bool := false
  deferred : Bool := false
  latch : Bool := false
  rules : Rules
  deriving DecidableEq, Repr

/-! ### Rule sets shared by rows -/

/-- Type codes 0 to 5 of Table 2·9. -/
def intTypes : List Nat := [0, 1, 2, 3, 4, 5]

/-- Type codes 0 to 3 of Table 2·10. -/
def floatTypes : List Nat := [0, 1, 2, 3]

/-- d, a, b in an integer layout (R96, R97). -/
def rInt2 : Rules := { types := intTypes, nwOk := true, dst := .v, a := .int, b := .int }

/-- d, a in an integer layout; b unused (R96, R97). -/
def rInt1 : Rules := { types := intTypes, nwOk := true, dst := .v, a := .int }

/-- d, a, b in a floating-point layout (R148, R149). -/
def rFloat2 : Rules := { types := floatTypes, nwOk := true, dst := .v, a := .float, b := .float }

/-- d, a in a floating-point layout; b unused. -/
def rFloat1 : Rules := { types := floatTypes, nwOk := true, dst := .v, a := .float }

/-- A comparison: the condition in dst [6:3] must be below `n` (R100, R151). -/
def rCmp (types : List Nat) (src : OpRule) (n : Nat) (f : FA) : Rules :=
  { types := types, dst := .control, a := src, b := src, ill0 := decide (n ≤ f.d.toNat / 8) }

/-- A one-operand SFU function (R160, R163). -/
def rSfu : Rules := { types := floatTypes, dst := .v, a := .float, b := .control }

/-- A cross-lane move (Table 5·6). -/
def rXlMove (f : FX) : Rules :=
  { types := intTypes, nwOk := true, dst := .v, a := .int, b := .int, m := .mask, res1 := f.rz != 0 }

/-- A cross-lane reduction or scan: sub-op [4:0] at most 12; integer layouts below 8, floating-point above (Table 5·6). -/
def rXlFold (excl : Bool) (f : FX) : Rules :=
  { types := if f.sub.toNat % 32 < 8 then intTypes else floatTypes
    subs := List.range 13 ++ (if excl then (List.range 13).map (· + 32) else [])
    nwOk := true, dst := .v, a := if f.sub.toNat % 32 < 8 then .int else .float, m := .mask, res1 := f.rz != 0 }

/-- A vote (Table 5·6). -/
def rXlVote (sub : Nat) (f : FX) : Rules :=
  { types := [5], subs := [sub], nwOk := true, dst := .v, a := .int, m := .mask, res1 := f.rz != 0 }

/-- The register rule of the data of an access: an even pair under size 4 (R182). -/
def dataRule (t : BitVec 3) (other : OpRule) : OpRule := if t == 4 then .vEven else other

/-- Sub-op [0] sign-extends accesses of 1, 2 and 4 bytes (R47). -/
def sxSubs (t : BitVec 3) : List Nat := if t.toNat ≤ 2 then [0, 1] else [0]

/-- Scopes of a load, store or await: free under its ordering, otherwise zero (R183, R184, R246). -/
def ordScopes (o : BitVec 3) : List Nat := if o == 0 then [0] else [0, 1, 2, 3, 4]

/-- The fields that atom's forms share (Table 11·1, Table 11·3); `base` aligns the register base, `types` is Table 11·2. -/
def rAtom (f : FM) : Rules :=
  { types := match f.sub.toNat with
      | 0 | 1 | 2 | 3 | 4 | 5 => [0, 1, 2, 3]
      | 6 => [0, 2]
      | 7 | 8 => [0, 1, 2, 3, 5]
      | 9 | 10 | 11 => [4]
      | _ => []
    subs := List.range 12
    dst := if f.sub == 8 then (if f.t == 5 then .vQuad else .vEven) else if f.sub == 7 && f.t == 5 then .vEven else .v
    a := .int, hOk := true, scopes := [0, 1, 2, 3, 4], imm := .any, guard := true, ords := [0, 1, 2, 3] }

/-- red (Table 11·1, Table 11·2). -/
def rRed (f : FM) : Rules :=
  { types := match f.sub.toNat with
      | 0 | 1 | 2 | 3 | 4 | 5 => [0, 1, 2, 3]
      | 9 | 10 | 11 => [4]
      | _ => []
    subs := [0, 1, 2, 3, 4, 5, 9, 10, 11]
    dst := if f.t == 4 then .float else .int
    a := .int, hOk := true, scopes := [0, 1, 2, 3, 4], imm := .any, guard := true, ords := [0, 2] }

/-- await (Table 11·1, Table 11·2). -/
def rAwait (f : FM) : Rules :=
  { types := if f.sub == 6 then [0] else [0, 1, 2, 3]
    subs := List.range 7
    dst := if f.sub == 6 then .zero else .int
    a := .int, hOk := true, scopes := ordScopes f.ord, imm := .any, ords := [0, 1] }

/-- A range form: uniform length or descriptor in dst, uniform offset (Tables 8·6 and 10·7). -/
def rRange : Rules := { dst := .uniformM, a := .uniformM, hOk := true, imm := .any }

/-- A control form of format C (Table 4·2). -/
def rC (sub : Nat) (a b : OpRule) : Rules := { types := [0], subs := [sub], a := a, b := b }

/-- A format E form (sub-op, destination, operands A and B). -/
def rE (sub : Nat) (dst a b : OpRule) : Rules := { subs := [sub], dst := dst, a := a, b := b }

/-! ### The table -/

/-- A format A row. -/
def encA (op : BitVec 7) (f : FA) (ls : Lits) (r : Rules) : Enc :=
  { op := op, body := .a f, lits := ls, cls := .alu, latch := true, rules := r }

/-- An SFU row of class 2 (R160). -/
def encSfu (op : BitVec 7) (f : FA) (ls : Lits) (r : Rules) : Enc :=
  { op := op, body := .a f, lits := ls, cls := .num 2, deferred := true, rules := r }

/-- A format X row. -/
def encX (op : BitVec 7) (f : FX) (ls : Lits) (r : Rules) : Enc :=
  { op := op, body := .x f, lits := ls, cls := .alu, latch := true, rules := r }

/-- A format M row of class 1. -/
def encM (op : BitVec 7) (f : FM) (ls : Lits) (deferred : Bool) (r : Rules) : Enc :=
  { op := op, body := .m f, lits := ls, cls := .num 1, deferred := deferred, rules := r }

/-- A format E row of the given class. -/
def encE (op : BitVec 7) (f : FE) (ls : Lits) (cls : Nat) (deferred : Bool) (r : Rules) : Enc :=
  { op := op, body := .e f, lits := ls, cls := .num cls, deferred := deferred, priv := op == 0x7D, rules := r }

/-- A format C row. -/
def encC (op : BitVec 7) (f : FC) (ls : Lits) (r : Rules) : Enc :=
  { op := op, body := .c f, lits := ls, cls := if op == 0x7A then .branch else .num 5, rules := r }

/-- A row that writes no latch: cmp, fcmp and kop (R29). -/
def noLatch (e : Enc) : Enc := { e with latch := false }

/-- The row of a program instruction; `none` for an event of the machine, which has no encoding. -/
def Instr.enc? (i : Instr) : Option Enc :=
  match i with
  | .add f ls => some (encA 0x00 f ls rInt2)
  | .sub f ls => some (encA 0x01 f ls rInt2)
  | .addSatSigned f ls => some (encA 0x02 f ls rInt2)
  | .addSatUnsigned f ls => some (encA 0x03 f ls rInt2)
  | .subSatSigned f ls => some (encA 0x04 f ls rInt2)
  | .subSatUnsigned f ls => some (encA 0x05 f ls rInt2)
  | .mul f ls => some (encA 0x06 f ls rInt2)
  | .mulhiSigned f ls => some (encA 0x07 f ls rInt2)
  | .mulhiUnsigned f ls => some (encA 0x08 f ls rInt2)
  | .mad f ls => some (encA 0x09 f ls rInt2)
  | .abs f ls => some (encA 0x0A f ls rInt1)
  | .pack f ls => some (encA 0x0B f ls { rInt2 with types := [0, 1, 2, 3] })
  | .minSigned f ls => some (encA 0x0C f ls rInt2)
  | .minUnsigned f ls => some (encA 0x0D f ls rInt2)
  | .maxSigned f ls => some (encA 0x0E f ls rInt2)
  | .maxUnsigned f ls => some (encA 0x0F f ls rInt2)
  | .and f ls => some (encA 0x10 f ls rInt2)
  | .or f ls => some (encA 0x11 f ls rInt2)
  | .xor f ls => some (encA 0x12 f ls rInt2)
  | .unpack f ls => some (encA 0x13 f ls { rInt2 with types := [1, 2, 3, 5], b := .uniform })
  | .andn f ls => some (encA 0x14 f ls rInt2)
  | .shl f ls => some (encA 0x15 f ls rInt2)
  | .shr f ls => some (encA 0x16 f ls rInt2)
  | .sar f ls => some (encA 0x17 f ls rInt2)
  | .rol f ls => some (encA 0x18 f ls rInt2)
  | .clz f ls => some (encA 0x19 f ls rInt1)
  | .ctz f ls => some (encA 0x1A f ls rInt1)
  | .popc f ls => some (encA 0x1B f ls rInt1)
  | .brev f ls => some (encA 0x1C f ls rInt1)
  | .bfx f ls => some (encA 0x1D f ls { rInt2 with types := [3, 4, 5] })
  | .swz f ls => some (encA 0x1E f ls rInt2)
  | .bfi f ls => some (encA 0x1F f ls { rInt2 with types := [3, 4, 5] })
  | .cmpSigned f ls => some (noLatch <| encA 0x20 f ls (rCmp intTypes .int 6 f))
  | .cmpUnsigned f ls => some (noLatch <| encA 0x21 f ls (rCmp intTypes .int 6 f))
  | .kop f ls =>
    some (noLatch <| encA 0x22 f ls { types := [0, 1, 2, 3, 4, 5], dst := .kIndex, a := .kIndex, b := if f.t.toNat < 4 then .kIndex else .zero })
  | .sel f ls =>
    some (encA 0x23 f ls { types := intTypes, nwOk := true, dst := .v, a := .int, b := .control, res0 := decide (16 ≤ f.b.toNat) })
  | .lea f ls => some (encA 0x24 f ls { rInt2 with types := [0, 1, 2, 3, 4] })
  | .movl f ls => some (encA 0x25 f ls { types := [5], nwOk := true, dst := .v, a := .literal, b := .literal })
  | .gmov f ls => some (encA 0x26 f ls { types := [5], nwOk := true, dst := .g, a := .regOrConst, b := .uniform })
  | .cvti f ls =>
    some (encA 0x27 f ls { rInt1 with b := .control, ill0 := decide (6 ≤ f.b.toNat % 8), res0 := decide (32 ≤ f.b.toNat) })
  | .xlSh f ls => some (encX 0x28 f ls (rXlMove f))
  | .xlBc f ls => some (encX 0x29 f ls (rXlMove f))
  | .xlRed f ls => some (encX 0x2A f ls (rXlFold false f))
  | .xlScan f ls => some (encX 0x2B f ls (rXlFold true f))
  | .xlVoteAll f ls => some (encX 0x2C f ls (rXlVote 0 f))
  | .xlVoteAny f ls => some (encX 0x2C f ls (rXlVote 1 f))
  | .xlVoteUni f ls => some (encX 0x2C f ls (rXlVote 2 f))
  | .xlBal f ls => some (encX 0x2C f ls (rXlVote 3 f))
  | .dp4 f ls =>
    some (encA 0x2D f ls { types := [0, 1, 2, 3, 4], nwOk := true, dst := .v, a := if f.t == 4 then .small else .int, b := if f.t == 4 then .small else .int })
  | .rnd f ls => some (encA 0x2E f ls { types := intTypes, nwOk := true, dst := .v, a := .g })
  | .dp8 f ls =>
    some (encA 0x2F f ls { types := intTypes, nwOk := true, dst := .v, a := if 4 ≤ f.t.toNat then .small else .int, b := if 4 ≤ f.t.toNat then .small else .int })
  | .fadd f ls => some (encA 0x30 f ls rFloat2)
  | .fsub f ls => some (encA 0x31 f ls rFloat2)
  | .fmul f ls => some (encA 0x32 f ls rFloat2)
  | .ffma f ls => some (encA 0x33 f ls rFloat2)
  | .fmin f ls => some (encA 0x34 f ls rFloat2)
  | .fmax f ls => some (encA 0x35 f ls rFloat2)
  | .fminn f ls => some (encA 0x36 f ls rFloat2)
  | .fmaxn f ls => some (encA 0x37 f ls rFloat2)
  | .fabs f ls => some (encA 0x38 f ls rFloat1)
  | .fneg f ls => some (encA 0x39 f ls rFloat1)
  | .fcmp f ls => some (noLatch <| encA 0x3A f ls (rCmp floatTypes .float 8 f))
  | .fclass f ls => some (encA 0x3B f ls rFloat1)
  | .fcvt f ls =>
    some (encA 0x3C f ls { types := [0, 1, 2, 3, 4, 5, 6], nwOk := true, dst := .v, a := if 4 ≤ f.b.toNat / 16 then .small else .float, b := .control, ill0 := decide (7 ≤ f.b.toNat / 16), res0 := decide (f.b.toNat % 2 = 1) })
  | .fcvti f ls =>
    some (encA 0x3D f ls { types := intTypes, nwOk := true, dst := .v, a := .float, b := .control, ill0 := decide (4 ≤ f.b.toNat / 16) })
  | .icvtf f ls =>
    some (encA 0x3E f ls { types := floatTypes, nwOk := true, dst := .v, a := .int, b := .control, ill0 := decide (6 ≤ f.b.toNat / 16), res0 := decide (f.b.toNat / 2 % 2 = 1) })
  | .frnd f ls =>
    some (encA 0x3F f ls { rFloat1 with b := .control, res0 := decide (f.b.toNat / 16 ≠ 0 ∨ f.b.toNat % 4 ≠ 0) })
  | .fscl f ls => some (encA 0x40 f ls { rFloat2 with b := .int })
  | .fexpo f ls => some (encA 0x41 f ls rFloat1)
  | .fdiv f ls => some (encSfu 0x42 f ls { rFloat2 with nwOk := false })
  | .frcp f ls => some (encSfu 0x43 f ls { rSfu with ill0 := decide (f.b ≠ 0) })
  | .frsq f ls => some (encSfu 0x43 f ls { rSfu with ill0 := decide (f.b ≠ 1) })
  | .fsqrt f ls => some (encSfu 0x43 f ls { rSfu with ill0 := decide (f.b ≠ 2) })
  | .fexp2 f ls => some (encSfu 0x43 f ls { rSfu with ill0 := decide (f.b ≠ 3) })
  | .flog2 f ls => some (encSfu 0x43 f ls { rSfu with ill0 := decide (f.b ≠ 4) })
  | .fexp f ls => some (encSfu 0x43 f ls { rSfu with ill0 := decide (f.b ≠ 5) })
  | .fsinpi f ls => some (encSfu 0x43 f ls { rSfu with ill0 := decide (f.b ≠ 6) })
  | .fcospi f ls => some (encSfu 0x43 f ls { rSfu with ill0 := decide (f.b ≠ 7) })
  | .ftanh f ls => some (encSfu 0x43 f ls { rSfu with ill0 := decide (f.b ≠ 8) })
  | .ld f ls =>
    some (encM 0x48 f ls true { types := [0, 1, 2, 3, 4], subs := sxSubs f.t, nwOk := true, dst := dataRule f.t .v, a := .int, hOk := true, scopes := ordScopes f.ord, imm := .any, residency := true, hint := true, ords := [0, 1] })
  | .st f ls =>
    some (encM 0x49 f ls false { types := [0, 1, 2, 3, 4], dst := dataRule f.t .int, a := .int, hOk := true, scopes := ordScopes f.ord, imm := .any, guard := true, hint := true, ords := [0, 2] })
  | .lda f ls =>
    some (encM 0x4A f ls true { types := [0, 1, 2, 3, 4], subs := sxSubs f.t, nwOk := true, dst := dataRule f.t .v, a := .int, imm := .any })
  | .sta f ls =>
    some (encM 0x4B f ls false { types := [0, 1, 2, 3, 4], dst := dataRule f.t .int, a := .int, imm := .any, guard := true })
  | .ldc f ls =>
    some (encM 0x4C f ls true { types := [0, 1, 2, 3, 4], subs := sxSubs f.t, nwOk := true, dst := dataRule f.t .v, a := .int, imm := .any })
  | .stc f ls =>
    some (encM 0x4D f ls false { types := [0, 1, 2, 3, 4], dst := dataRule f.t .int, a := .int, imm := .any, guard := true })
  | .pf f ls =>
    some (encM 0x4E f ls false { types := [0, 1, 2, 3, 4], a := .int, hOk := true, imm := .any, hint := true })
  | .preq f ls => some (encM 0x4F f ls true rRange)
  | .cinv f ls => some (encM 0x50 f ls true rRange)
  | .cwb f ls => some (encM 0x51 f ls true rRange)
  | .hmov f ls => some (encM 0x52 f ls false { dst := .handle, hOk := true })
  | .hnarrow f ls => some (encM 0x53 f ls false { dst := .handle, a := .uniformM, hOk := true, imm := .low8 })
  | .hoff f ls => some (encM 0x54 f ls false { dst := .handle, a := .uniformM, hOk := true })
  | .hsave f ls => some (encM 0x55 f ls false { dst := .handle, a := .uniformM, hOk := true, imm := .any })
  | .hload f ls => some (encM 0x56 f ls true { dst := .handle, a := .uniformM, hOk := true, imm := .any })
  | .hinfo f ls => some (encM 0x57 f ls false { subs := [0, 1, 2, 3], dst := .v, hOk := true })
  | .fence f ls => some (encM 0x58 f ls false { subs := (List.range 15).map (· + 1), scopes := [0, 1, 2, 3, 4] })
  | .acq f ls => some (encM 0x58 f ls false { subs := [16], scopes := [0, 1, 2, 3, 4] })
  | .rel f ls => some (encM 0x58 f ls false { subs := [32], scopes := [0, 1, 2, 3, 4] })
  | .mvrange f ls => some (encM 0x59 f ls true rRange)
  | .mvwait f ls => some (encM 0x5A f ls true rRange)
  | .wsclose f ls => some (encM 0x5B f ls true { rRange with scopes := [0, 1, 2, 3, 4] })
  | .wsreset f ls => some (encM 0x5C f ls true rRange)
  | .wsstate f ls => some (encM 0x5D f ls true { dst := .v, a := .int, hOk := true, imm := .any })
  | .pgclass f ls => some (encM 0x5E f ls true { rRange with subs := [0, 1, 2, 3] })
  | .replicAdd f ls => some (encM 0x5F f ls true rRange)
  | .replicRem f ls => some (encM 0x5F f ls true { rRange with subs := [1] })
  | .atom f ls => some (encM 0x60 f ls true (rAtom f))
  | .red f ls => some (encM 0x61 f ls false (rRed f))
  | .await f ls => some (encM 0x62 f ls false (rAwait f))
  | .gang f ls => some (encE 0x68 f ls 3 false { rE 0 .zero .gOrZero .zero with auxIll := false })
  | .mzero f ls => some (encE 0x69 f ls 3 true { rE 0 .zero .uniformM .uniformM with auxIll := false, imm := .any })
  | .mmx f ls => some (encE 0x6A f ls 3 true { rE 0 .v .uniformM .vOrG with auxIll := false, imm := .any })
  | .mmxs f ls => some (encE 0x6B f ls 3 true { rE 0 .v .uniformM .vOrG with auxIll := false, imm := .any })
  | .mdrain f ls => some (encE 0x6C f ls 3 true { rE 0 .v .uniformM .zero with auxIll := false, imm := .any })
  | .mstat f ls => some (encE 0x6D f ls 3 true { rE 0 .v .int .zero with auxIll := false })
  | .mcks f ls => some (encE 0x6E f ls 3 true { rE 0 .v .zero .zero with auxIll := false, subs := [0, 1, 2, 3] })
  | .mcancel f ls => some (encE 0x6F f ls 3 true { rE 0 .v .int .zero with auxIll := false })
  | .cpy f ls =>
    some (encE 0x70 f ls 4 true { rE 0 .v .uniformM .zero with auxs := [0, 1], hOk := f.aux == 1, imm := .any })
  | .cpyg f ls =>
    some (encE 0x70 f ls 4 true { rE 1 .v .uniformM .zero with auxs := [0, 1], hOk := f.aux == 1, imm := .any })
  | .cfill f ls =>
    some (encE 0x70 f ls 4 true { rE 2 .v .uniformM .zero with auxs := [0, 1], hOk := f.aux == 1, imm := .any })
  | .publish f ls =>
    some (encE 0x71 f ls 4 true { rE 0 .zero .uniformM .uniformM with auxs := [0, 1, 2, 3], hOk := f.aux == 3, imm := .any, scopes := [0, 1, 2, 3, 4] })
  | .ewait f ls => some (encE 0x72 f ls 4 true (rE 0 .v .int .zero))
  | .estat f ls => some (encE 0x72 f ls 4 true (rE 1 .v .int .zero))
  | .mig f ls =>
    some (encE 0x72 f ls 4 true { rE 2 .v .uniformM .uniformM with auxs := [0, 1, 2], hOk := true, imm := .any })
  | .dgst f ls => some (encE 0x72 f ls 4 true { rE 3 .v .uniformM .zero with hOk := true, imm := .any })
  | .fput f ls => some (encE 0x73 f ls 4 true { rE 0 .v .uniformM .zero with imm := .any })
  | .fget f ls => some (encE 0x73 f ls 4 true { rE 1 .v .uniformM .zero with imm := .any })
  | .fsend f ls => some (encE 0x73 f ls 4 true { rE 2 .v .uniformM .zero with imm := .any })
  | .frecv f ls => some (encE 0x73 f ls 4 true { rE 3 .v .uniformM .zero with imm := .any })
  | .fstat f ls => some (encE 0x73 f ls 4 true { rE 4 .v .zero .zero with auxs := List.range 13 })
  | .cinit f ls => some (encE 0x74 f ls 4 true { rE 0 .zero .uniformM .zero with imm := .any })
  | .cpost f ls => some (encE 0x74 f ls 4 true { rE 1 .v .uniformM .uniformM with imm := .any })
  | .cwait f ls => some (encE 0x74 f ls 4 false (rE 2 .zero .uniformM .uniformM))
  | .cbar f ls => some (encE 0x74 f ls 4 true (rE 3 .v .uniformM .uniformM))
  | .cfree f ls => some (encE 0x74 f ls 4 true (rE 4 .zero .uniformM .zero))
  | .snap f ls => some (encE 0x75 f ls 4 true { rE 0 .v .uniformM .zero with auxs := [0, 1] })
  | .snapst f ls => some (encE 0x75 f ls 4 true { rE 1 .v .zero .zero with auxs := [0, 1] })
  | .snapwait f ls => some (encE 0x75 f ls 4 true { rE 2 .v .zero .zero with auxs := [0, 1] })
  | .snapdrop f ls => some (encE 0x75 f ls 4 true { rE 3 .v .zero .zero with auxs := [0, 1] })
  | .gspawn f ls => some (encE 0x76 f ls 4 false { rE 0 .v .uniformM .zero with hOk := true, imm := .any })
  | .glaunch f ls => some (encE 0x76 f ls 4 false { rE 1 .v .uniformM .zero with hOk := true, imm := .any })
  | .gwait f ls => some (encE 0x76 f ls 4 true (rE 2 .v .int .zero))
  | .gcancel f ls => some (encE 0x76 f ls 4 true (rE 3 .v .int .zero))
  | .budget f ls =>
    some (encE 0x76 f ls 4 true { rE 4 .v .uniformM (if 4 ≤ f.aux.toNat then .uniformM else .zero) with auxs := List.range 8 })
  | .detsig f ls => some (encE 0x76 f ls 4 true { rE 5 .v .zero .zero with auxs := [0, 1, 2, 3] })
  | .ctxsave f ls =>
    some (encE 0x7D f ls 5 true { rE 0 .v .uniformM .uniformM with hOk := true, imm := .any, auxs := [0, 1] })
  | .ctxload f ls => some (encE 0x7D f ls 5 true { rE 1 .v .uniformM .uniformM with hOk := true, imm := .any })
  | .tlbinv f ls =>
    some (encE 0x7D f ls 5 true { rE 2 .zero .uniformM .uniformM with hOk := true, auxs := [0, 1], scopes := [2, 3] })
  | .asidinv f ls => some (encE 0x7D f ls 5 true { rE 3 .zero .uniformM .zero with auxs := [0, 1], scopes := [2, 3] })
  | .injMat f ls => some (encE 0x7D f ls 5 true (rE 4 .zero .uniformM .zero))
  | .injFrag f ls => some (encE 0x7D f ls 5 true { rE 4 .zero .uniformM .zero with auxs := [1] })
  | .injPoison f ls => some (encE 0x7D f ls 5 true { rE 4 .zero .uniformM .zero with auxs := [2], hOk := true })
  | .preempt f ls => some (encE 0x7D f ls 5 true { rE 5 .v .uniformM .zero with auxs := [0, 1] })
  | .bra f => some ({ op := 0x78, body := .b f, lits := [], cls := .branch, rules := { guard := true } })
  | .call f => some ({ op := 0x79, body := .b f, lits := [], cls := .branch, rules := {} })
  | .brx f ls => some (encC 0x7A f ls { rC 0 .vOrG .zero with guard := true })
  | .callx f ls => some (encC 0x7A f ls (rC 1 .vOrG .zero))
  | .ret f ls => some (encC 0x7A f ls (rC 2 .zero .zero))
  | .exit f ls => some (encC 0x7A f ls (rC 3 .zero .zero))
  | .yield f ls => some (encC 0x7B f ls (rC 0 .uniform .zero))
  | .nop f ls => some (encC 0x7B f ls (rC 1 .zero .zero))
  | .srd f ls => some (encC 0x7B f ls (rC 2 .vOrG .uniform))
  | .swr f ls => some (encC 0x7B f ls (rC 3 .int .uniform))
  | .trap f ls => some (encC 0x7B f ls (rC 4 .uniform .zero))
  | .brk f ls => some (encC 0x7B f ls (rC 5 .uniform .zero))
  | .barSync f ls => some (encC 0x7C f ls (rC 0 .uniform .uniform))
  | .barArrive f ls => some (encC 0x7C f ls (rC 1 .uniform .uniform))
  | .barWait f ls => some (encC 0x7C f ls (rC 2 .uniform .zero))
  | .step f ls => some (encC 0x7C f ls (rC 3 .zero .zero))
  | .stepPod f ls => some (encC 0x7C f ls (rC 4 .zero .zero))
  | .tret f ls => some (encC 0x7E f ls (rC 0 .vOrZero .zero))
  | .cfgrd f ls => some (encC 0x7E f ls (rC 1 .vOrG .uniform))
  | .cfgwr f ls => some ({ encC 0x7E f ls (rC 2 .uniform .uniform) with priv := true })
  | .clauseIssue .. | .clauseCommit | .bundlePriorityAging .. | .yieldDelayExpiry ..
  | .deferredEventLanding .. | .sfuEntryStart .. | .sfuResultLanding .. | .groupRetire .. | .stepComplete ..
  | .stepNoticeReceive .. | .ltsSelfAdvance | .moduleRebase | .gets .. | .getm .. | .upgrade .. | .putm ..
  | .puto .. | .forward .. | .invalidate .. | .coherenceAck .. | .grainData .. | .wsWaitExpiry ..
  | .moveTimeoutExpiry .. | .atomicEngineOperation .. | .atomicGrainRecall .. | .homeSliceAtomic ..
  | .hostAtomicCompletion .. | .hostAccessCompletion .. | .hostSnoop .. | .awaitTest ..
  | .awaitRetestTimer .. | .rendezvousLatchGrant .. | .matrixEntryPlacement .. | .matrixPass ..
  | .matrixStarvationPriority .. | .matrixCompletion .. | .matrixDrainRun .. | .matrixZeroRun ..
  | .copyCommandStart .. | .copyCommandCompletion .. | .engineStatusUpdate .. | .publishExecution ..
  | .migrationPageMove | .digestCompletion | .mordantLakeWrite | .messageInjection .. | .fragmentForward ..
  | .dataFragmentReceive .. | .decodeDeadlineExpiry .. | .messageDelivery .. | .ackCoalesceExpiry ..
  | .filterEntryExpiry .. | .ackReceive .. | .nackReceive .. | .busyReplyReceive .. | .busyWaitExpiry ..
  | .ackWaitExpiry .. | .lossNoticeReceive .. | .lossNoticeRepeat .. | .combineContributionReceive ..
  | .combineResultReceive .. | .markerReceive .. | .snapshotRecordInstant | .snapshotSweep ..
  | .snapshotChipComplete .. | .snapshotReportReceive .. | .sealNoticeReceive .. | .failureNoticeReceive ..
  | .dropNoticeReceive .. | .snapshotDropFinish .. | .patrolScrub .. | .trapEntry .. | .contextKill ..
  | .drainLimitExpiry .. | .forcedSave .. | .teamDispatch .. | .starvationSwap .. | .walkStartWrite ..
  | .nodeVisitGrid .. | .nodeVisitCopy .. | .nodeVisitColl .. | .nodeVisitCond .. | .nodeVisitWhile ..
  | .nodeVisitSnap .. | .nodeVisitHostsig .. | .nodeVisitEnd .. | .gridComplete .. | .gridEndDigest ..
  | .eventAreaWrite .. | .eventAreaRetry .. | .hostConfigWrite .. | .pathTableWrite ..
  | .placementTableWrite .. | .vfGrantWrite .. | .ctxCmdDrain .. | .ctxCmdDrainNow .. | .ctxCmdKill ..
  | .ctxCmdResume .. | .ctxCmdEnd .. | .hostW2Read .. | .hostW2Write .. | .poisonClear .. | .linkTraining ..
  | .boot .. | .recoveryDoorbell .. | .spdmRequest .. | .powerGating .. | .thermalThrottle ..
  | .thermalThrottleEnd .. | .thermalTrip .. | .correctedError .. | .uncorrectableError .. | .sliceRetire ..
  | .framePoolWaitExpiry | .dropReportReceive .. | .snapshotRestoration .. | .contextBecomesLive .. => none

/-! ### Checks of R48, steps 1 to 3 -/

/-- The type field of an instruction (zero for formats B and C, which have none). -/
def Body.type : Body → Nat
  | .a f => f.t.toNat
  | .x f => f.t.toNat
  | .m f => f.t.toNat
  | .e f => f.t.toNat
  | .b _ | .c _ => 0

/-- The sub-op of an instruction (zero for formats A and B). -/
def Body.sub : Body → Nat
  | .a _ | .b _ => 0
  | .x f => f.sub.toNat
  | .m f => f.sub.toNat
  | .e f => f.sub.toNat
  | .c f => f.sub.toNat

/-- Whether the format has two words (R36). -/
def Body.twoWords : Body → Bool
  | .x _ | .m _ | .e _ => true
  | .a _ | .b _ | .c _ => false

/-- The operand fields of an instruction with their rules, in the order their literals stand (R25); a destination that
takes no literal stands among them where its format places it. -/
def Enc.operands (e : Enc) : List (OpRule × BitVec 7) :=
  match e.body with
  | .a f => [(e.rules.a, f.a), (e.rules.b, f.b), (e.rules.dst, f.d)]
  | .x f => [(e.rules.a, f.a), (e.rules.b, f.b), (e.rules.m, f.m), (e.rules.dst, f.d)]
  | .m f => [(e.rules.a, f.off), (e.rules.dst, f.d)]
  | .e f => [(e.rules.a, f.a), (e.rules.b, f.b), (e.rules.dst, f.d)]
  | .b _ => []
  | .c f => [(e.rules.a, f.a), (e.rules.b, f.b)]

/-- How many literal words the instruction takes: one for each operand field that holds code 127 (R25). -/
def Enc.litCount (e : Enc) : Nat := (e.operands.filter fun o => o.1.takesLit && o.2 == 127).length

/-- The guard bits of a form: all zero unless the form is guarded, and then the enable bit governs them (R40). -/
def guardLegal (ok : Bool) (ge gn : BitVec 1) (gk : BitVec 3) : Bool :=
  if ge == 1 then ok else gn == 0 && gk == 0

/-- Step 1 on word 0: the type is assigned, and so are the values of Table 2·7 (R48). -/
def Enc.illegal0 (e : Enc) : Bool := !(e.rules.types.contains e.body.type) || e.rules.ill0

/-- Step 1 on the sub-op, and on aux where an unlisted value raises ILLEGAL_OPCODE (R312, R341, R362, R386, R407). -/
def Enc.illegal1 (e : Enc) : Bool :=
  !(e.rules.subs.contains e.body.sub) ||
    match e.body with
    | .e f => e.rules.auxIll && !(e.rules.auxs.contains f.aux.toNat)
    | _ => false

/-- Step 2 on the fields of word 0 (R40 to R44). -/
def Enc.reserved0 (e : Enc) : Bool :=
  e.rules.res0 ||
    match e.body with
    | .a f =>
      !(e.rules.dst.legal f.d && e.rules.a.legal f.a && e.rules.b.legal f.b) || (f.nw == 1 && !e.rules.nwOk)
    | .x f =>
      !(e.rules.dst.legal f.d && e.rules.a.legal f.a && e.rules.b.legal f.b) || (f.nw == 1 && !e.rules.nwOk)
    | .m f =>
      !(e.rules.dst.legal f.d && e.rules.a.legal f.off) || (f.nw == 1 && !e.rules.nwOk) ||
        (f.h != 0 && !e.rules.hOk) || !(e.rules.scopes.contains f.scope.toNat)
    | .e f =>
      !(e.rules.dst.legal f.d && e.rules.a.legal f.a) || (f.nw == 1 && !e.rules.nwOk) ||
        (f.h != 0 && !e.rules.hOk) || !(e.rules.scopes.contains f.scope.toNat)
    | .b f => !(guardLegal e.rules.guard f.ge f.gn f.gk)
    | .c f => !(guardLegal e.rules.guard f.ge f.gn f.gk) || !(e.rules.a.legal f.a && e.rules.b.legal f.b)

/-- Step 2 on the fields of word 1 (R38, R40, R41). -/
def Enc.reserved1 (e : Enc) : Bool :=
  e.rules.res1 ||
    match e.body with
    | .a _ | .b _ | .c _ => false
    | .x f => !(e.rules.m.legal f.m)
    | .m f =>
      !(e.rules.imm.legal f.imm) || !(guardLegal e.rules.guard f.ge f.gn f.gk) ||
        !(guardLegal e.rules.residency f.re 0 f.rk) || (f.hint != 0 && !e.rules.hint) ||
        !(e.rules.ords.contains f.ord.toNat)
    | .e f =>
      !(e.rules.imm.legal f.imm) || !(e.rules.b.legal f.b) ||
        (!e.rules.auxIll && !(e.rules.auxs.contains f.aux.toNat))

/-- Step 3: every v register the fields name lies in the group's blocks (R45). -/
def Enc.outOfRange (e : Enc) (blocks : Nat) : Bool :=
  e.operands.any fun o => o.1.namesV && isV o.2 && decide (8 * blocks < o.2.toNat + o.1.width)

/-- The encoding checks of R48 steps 1 and 2 on a whole instruction; `none` when it passes. -/
def Enc.fault? (e : Enc) : Option FaultCode :=
  if e.illegal0 || e.illegal1 then some .illegalOpcode
  else if e.reserved0 || e.reserved1 then some .reservedField
  else none

/-- The latch codes the instruction's source fields read (R29). -/
def Enc.latchReads (e : Enc) : List Nat :=
  (e.operands.filter fun o => o.1.readsLatch && isLatch o.2).map fun o => o.2.toNat - 96

/-- How many words the instruction takes with its literals (R22, R25). -/
def Enc.words (e : Enc) : Nat := (if e.body.twoWords then 2 else 1) + e.lits.length

/-- The encoding of the row's fields and literals, in order (R25, R36 to R39). -/
def Enc.encode (e : Enc) : List IWord :=
  (match e.body with
  | .a f => [f.toWord e.op]
  | .x f => [f.word0 e.op, f.word1]
  | .m f => [f.word0 e.op, f.word1]
  | .e f => [f.word0 e.op, f.word1]
  | .b f => [f.toWord e.op]
  | .c f => [f.toWord e.op]) ++ e.lits

end Sys2Proof
end

