-- ==== Sys2Proof/WellFormed.lean ====
section
/-!
DEFINITION. When an instruction is well formed: every field check of R48 steps 1 and 2 passes, and it carries one literal
word for each operand field that holds code 127 (R25). An event of the machine has no encoding and is well formed.
-/

namespace Sys2Proof

/-- Whether an instruction is well formed. -/
def Instr.wellFormed (i : Instr) : Bool :=
  match i.enc? with
  | none => true
  | some e => e.fault? == none && e.lits.length == e.litCount

end Sys2Proof
end

