-- ==== Sys2Proof/Decode.lean ====
section
/-!
DEFINITION. The decoder: from the words of a clause to an instruction and the words after it, total on any words,
refusing by fault code; and the encoder, written from the same tables.
-/

namespace Sys2Proof

/-- What decoding the next instruction of a clause gives: the instruction and the words after it, or the fault that the
words raise (R48). -/
inductive Decoded where
  | ok (i : Instr) (rest : List IWord)
  | bad (f : FaultCode)
  deriving DecidableEq, Repr

/-- The format A instruction of an opcode (Table 2·8); `none` where nothing is assigned. -/
def Instr.ofA (op : Nat) (f : FA) (ls : Lits) : Option Instr :=
  match op with
  | 0x00 => some (.add f ls)
  | 0x01 => some (.sub f ls)
  | 0x02 => some (.addSatSigned f ls)
  | 0x03 => some (.addSatUnsigned f ls)
  | 0x04 => some (.subSatSigned f ls)
  | 0x05 => some (.subSatUnsigned f ls)
  | 0x06 => some (.mul f ls)
  | 0x07 => some (.mulhiSigned f ls)
  | 0x08 => some (.mulhiUnsigned f ls)
  | 0x09 => some (.mad f ls)
  | 0x0A => some (.abs f ls)
  | 0x0B => some (.pack f ls)
  | 0x0C => some (.minSigned f ls)
  | 0x0D => some (.minUnsigned f ls)
  | 0x0E => some (.maxSigned f ls)
  | 0x0F => some (.maxUnsigned f ls)
  | 0x10 => some (.and f ls)
  | 0x11 => some (.or f ls)
  | 0x12 => some (.xor f ls)
  | 0x13 => some (.unpack f ls)
  | 0x14 => some (.andn f ls)
  | 0x15 => some (.shl f ls)
  | 0x16 => some (.shr f ls)
  | 0x17 => some (.sar f ls)
  | 0x18 => some (.rol f ls)
  | 0x19 => some (.clz f ls)
  | 0x1A => some (.ctz f ls)
  | 0x1B => some (.popc f ls)
  | 0x1C => some (.brev f ls)
  | 0x1D => some (.bfx f ls)
  | 0x1E => some (.swz f ls)
  | 0x1F => some (.bfi f ls)
  | 0x20 => some (.cmpSigned f ls)
  | 0x21 => some (.cmpUnsigned f ls)
  | 0x22 => some (.kop f ls)
  | 0x23 => some (.sel f ls)
  | 0x24 => some (.lea f ls)
  | 0x25 => some (.movl f ls)
  | 0x26 => some (.gmov f ls)
  | 0x27 => some (.cvti f ls)
  | 0x2D => some (.dp4 f ls)
  | 0x2E => some (.rnd f ls)
  | 0x2F => some (.dp8 f ls)
  | 0x30 => some (.fadd f ls)
  | 0x31 => some (.fsub f ls)
  | 0x32 => some (.fmul f ls)
  | 0x33 => some (.ffma f ls)
  | 0x34 => some (.fmin f ls)
  | 0x35 => some (.fmax f ls)
  | 0x36 => some (.fminn f ls)
  | 0x37 => some (.fmaxn f ls)
  | 0x38 => some (.fabs f ls)
  | 0x39 => some (.fneg f ls)
  | 0x3A => some (.fcmp f ls)
  | 0x3B => some (.fclass f ls)
  | 0x3C => some (.fcvt f ls)
  | 0x3D => some (.fcvti f ls)
  | 0x3E => some (.icvtf f ls)
  | 0x3F => some (.frnd f ls)
  | 0x40 => some (.fscl f ls)
  | 0x41 => some (.fexpo f ls)
  | 0x42 => some (.fdiv f ls)
  | 0x43 =>
    match f.b.toNat with
    | 0 => some (.frcp f ls)
    | 1 => some (.frsq f ls)
    | 2 => some (.fsqrt f ls)
    | 3 => some (.fexp2 f ls)
    | 4 => some (.flog2 f ls)
    | 5 => some (.fexp f ls)
    | 6 => some (.fsinpi f ls)
    | 7 => some (.fcospi f ls)
    | 8 => some (.ftanh f ls)
    | _ => none
  | _ => none

/-- The format X instruction of an opcode (Table 2·8); `none` where nothing is assigned. -/
def Instr.ofX (op : Nat) (f : FX) (ls : Lits) : Option Instr :=
  match op with
  | 0x28 => some (.xlSh f ls)
  | 0x29 => some (.xlBc f ls)
  | 0x2A => some (.xlRed f ls)
  | 0x2B => some (.xlScan f ls)
  | 0x2C =>
    match f.sub.toNat with
    | 0 => some (.xlVoteAll f ls)
    | 1 => some (.xlVoteAny f ls)
    | 2 => some (.xlVoteUni f ls)
    | 3 => some (.xlBal f ls)
    | _ => none
  | _ => none

/-- The format M instruction of an opcode (Table 2·8); `none` where nothing is assigned. -/
def Instr.ofM (op : Nat) (f : FM) (ls : Lits) : Option Instr :=
  match op with
  | 0x48 => some (.ld f ls)
  | 0x49 => some (.st f ls)
  | 0x4A => some (.lda f ls)
  | 0x4B => some (.sta f ls)
  | 0x4C => some (.ldc f ls)
  | 0x4D => some (.stc f ls)
  | 0x4E => some (.pf f ls)
  | 0x4F => some (.preq f ls)
  | 0x50 => some (.cinv f ls)
  | 0x51 => some (.cwb f ls)
  | 0x52 => some (.hmov f ls)
  | 0x53 => some (.hnarrow f ls)
  | 0x54 => some (.hoff f ls)
  | 0x55 => some (.hsave f ls)
  | 0x56 => some (.hload f ls)
  | 0x57 => some (.hinfo f ls)
  | 0x58 =>
    match f.sub.toNat / 16 with
    | 0 => some (.fence f ls)
    | 1 => some (.acq f ls)
    | 2 => some (.rel f ls)
    | _ => none
  | 0x59 => some (.mvrange f ls)
  | 0x5A => some (.mvwait f ls)
  | 0x5B => some (.wsclose f ls)
  | 0x5C => some (.wsreset f ls)
  | 0x5D => some (.wsstate f ls)
  | 0x5E => some (.pgclass f ls)
  | 0x5F =>
    match f.sub.toNat with
    | 0 => some (.replicAdd f ls)
    | 1 => some (.replicRem f ls)
    | _ => none
  | 0x60 => some (.atom f ls)
  | 0x61 => some (.red f ls)
  | 0x62 => some (.await f ls)
  | _ => none

/-- The format E instruction of an opcode (Table 2·8); `none` where nothing is assigned. -/
def Instr.ofE (op : Nat) (f : FE) (ls : Lits) : Option Instr :=
  match op with
  | 0x68 => some (.gang f ls)
  | 0x69 => some (.mzero f ls)
  | 0x6A => some (.mmx f ls)
  | 0x6B => some (.mmxs f ls)
  | 0x6C => some (.mdrain f ls)
  | 0x6D => some (.mstat f ls)
  | 0x6E => some (.mcks f ls)
  | 0x6F => some (.mcancel f ls)
  | 0x70 =>
    match f.sub.toNat with
    | 0 => some (.cpy f ls)
    | 1 => some (.cpyg f ls)
    | 2 => some (.cfill f ls)
    | _ => none
  | 0x71 => some (.publish f ls)
  | 0x72 =>
    match f.sub.toNat with
    | 0 => some (.ewait f ls)
    | 1 => some (.estat f ls)
    | 2 => some (.mig f ls)
    | 3 => some (.dgst f ls)
    | _ => none
  | 0x73 =>
    match f.sub.toNat with
    | 0 => some (.fput f ls)
    | 1 => some (.fget f ls)
    | 2 => some (.fsend f ls)
    | 3 => some (.frecv f ls)
    | 4 => some (.fstat f ls)
    | _ => none
  | 0x74 =>
    match f.sub.toNat with
    | 0 => some (.cinit f ls)
    | 1 => some (.cpost f ls)
    | 2 => some (.cwait f ls)
    | 3 => some (.cbar f ls)
    | 4 => some (.cfree f ls)
    | _ => none
  | 0x75 =>
    match f.sub.toNat with
    | 0 => some (.snap f ls)
    | 1 => some (.snapst f ls)
    | 2 => some (.snapwait f ls)
    | 3 => some (.snapdrop f ls)
    | _ => none
  | 0x76 =>
    match f.sub.toNat with
    | 0 => some (.gspawn f ls)
    | 1 => some (.glaunch f ls)
    | 2 => some (.gwait f ls)
    | 3 => some (.gcancel f ls)
    | 4 => some (.budget f ls)
    | 5 => some (.detsig f ls)
    | _ => none
  | 0x7D =>
    match f.sub.toNat with
    | 0 => some (.ctxsave f ls)
    | 1 => some (.ctxload f ls)
    | 2 => some (.tlbinv f ls)
    | 3 => some (.asidinv f ls)
    | 4 =>
      match f.aux.toNat with
      | 0 => some (.injMat f ls)
      | 1 => some (.injFrag f ls)
      | 2 => some (.injPoison f ls)
      | _ => none
    | 5 => some (.preempt f ls)
    | _ => none
  | _ => none

/-- The format B instruction of an opcode (Table 2·8); `none` where nothing is assigned. -/
def Instr.ofB (op : Nat) (f : FB) : Option Instr :=
  match op with
  | 0x78 => some (.bra f)
  | 0x79 => some (.call f)
  | _ => none

/-- The format C instruction of an opcode (Table 2·8); `none` where nothing is assigned. -/
def Instr.ofC (op : Nat) (f : FC) (ls : Lits) : Option Instr :=
  match op with
  | 0x7A =>
    match f.sub.toNat with
    | 0 => some (.brx f ls)
    | 1 => some (.callx f ls)
    | 2 => some (.ret f ls)
    | 3 => some (.exit f ls)
    | _ => none
  | 0x7B =>
    match f.sub.toNat with
    | 0 => some (.yield f ls)
    | 1 => some (.nop f ls)
    | 2 => some (.srd f ls)
    | 3 => some (.swr f ls)
    | 4 => some (.trap f ls)
    | 5 => some (.brk f ls)
    | _ => none
  | 0x7C =>
    match f.sub.toNat with
    | 0 => some (.barSync f ls)
    | 1 => some (.barArrive f ls)
    | 2 => some (.barWait f ls)
    | 3 => some (.step f ls)
    | 4 => some (.stepPod f ls)
    | _ => none
  | 0x7E =>
    match f.sub.toNat with
    | 0 => some (.tret f ls)
    | 1 => some (.cfgrd f ls)
    | 2 => some (.cfgwr f ls)
    | _ => none
  | _ => none

/-- The formats of Table 2·2. -/
inductive Fmt where
  | a | x | m | e | b | c
  deriving DecidableEq, Repr

/-- The format that an opcode fixes (R36, Table 2·8); `none` for an unassigned opcode. -/
def fmtOf (op : Nat) : Option Fmt :=
  if 0x28 ≤ op ∧ op ≤ 0x2C then some .x
  else if op ≤ 0x43 then some .a
  else if 0x48 ≤ op ∧ op ≤ 0x62 then some .m
  else if 0x68 ≤ op ∧ op ≤ 0x76 ∨ op = 0x7D then some .e
  else if op = 0x78 ∨ op = 0x79 then some .b
  else if op = 0x7A ∨ op = 0x7B ∨ op = 0x7C ∨ op = 0x7E then some .c
  else none

/-- The instruction whose words 0 and 1 are given, with the literals given; word 1 is ignored by one-word formats. -/
def Instr.ofWords (w v : IWord) (ls : Lits) : Option Instr :=
  let op := (opOf w).toNat
  match fmtOf op with
  | some .a => Instr.ofA op (FA.ofWord w) ls
  | some .x => Instr.ofX op (FX.ofWords w v) ls
  | some .m => Instr.ofM op (FM.ofWords w v) ls
  | some .e => Instr.ofE op (FE.ofWords w v) ls
  | some .b => Instr.ofB op (FB.ofWord w)
  | some .c => Instr.ofC op (FC.ofWord w) ls
  | none => none

/-- How many literal words an instruction takes; an event of the machine takes none. -/
def Instr.litCount (i : Instr) : Nat := (i.enc?.map Enc.litCount).getD 0

/-- The second words tried for an instruction whose word 1 lies past the clause's count: every sub-op under every
ordering and the aux values that choose a form; R48 reads no field of that word, so a field of word 0 is legal when it is
legal under one of them. -/
def possibleWord1 : List IWord :=
  (List.range 64).flatMap fun s =>
    [BitVec.ofNat 32 s, BitVec.ofNat 32 (64 + s), BitVec.ofNat 32 (128 + s), BitVec.ofNat 32 (192 + s)]

/-- The fault of an instruction that runs past the clause's count, from the forms it may have, a sub-op being unchecked (R48): its
opcode and type are checked, then the fields within the count, and then it raises CLAUSE_FRAMING. -/
def shortFault (forms : List Enc) (reserved : Enc → Bool) : FaultCode :=
  let typed := forms.filter fun e => !e.illegal0
  if typed.isEmpty then .illegalOpcode
  else if typed.all reserved then .reservedField
  else .clauseFraming

/-- The fault of an instruction whose second word lies past the clause's count. -/
def truncatedFault (w : IWord) : FaultCode :=
  shortFault (possibleWord1.filterMap fun v => (Instr.ofWords w v []).bind Instr.enc?) Enc.reserved0

/-- The fault of an instruction whose literals run past the clause's count. -/
def shortLitFault (forms : List Enc) : FaultCode := shortFault forms fun e => e.reserved0 || e.reserved1

/-- The forms that the words of an unassigned sub-op would have under each sub-op of their format: bits [5:0] of word 1, or
bits [19:14] of a format C word. -/
def siblings (w v : IWord) : List Enc :=
  (List.range 64).filterMap fun s =>
    let put := fun (x : IWord) (at' : Nat) => (x &&& ~~~((63 : IWord) <<< at')) ||| (BitVec.ofNat 32 s <<< at')
    (if fmtOf (opOf w).toNat == some .c then Instr.ofWords (put w 14) v [] else Instr.ofWords w (put v 0) []).bind Instr.enc?

/-- The fault of an unassigned sub-op: none is checked of an instruction whose literals run past the clause's count under every
sub-op (R48). -/
def unassignedFault (w v : IWord) (rest : List IWord) : FaultCode :=
  let forms := siblings w v
  if forms.isEmpty || forms.any fun e => decide (e.litCount ≤ rest.length) then .illegalOpcode else shortLitFault forms

/-- Takes the literal words of an instruction whose fields are known (R25). -/
def decodeRest (w v : IWord) (rest : List IWord) : Decoded :=
  match Instr.ofWords w v [] with
  | none => .bad (unassignedFault w v rest)
  | some i =>
    if rest.length < i.litCount then .bad (shortLitFault i.enc?.toList)
    else
      match Instr.ofWords w v (rest.take i.litCount) with
      | none => .bad .illegalOpcode
      | some j => .ok j (rest.drop i.litCount)

/-- Decodes the next instruction of a clause from the words that lie within its count (R25, R36, R48, R49). -/
def decodeWords (ws : List IWord) : Decoded :=
  match ws with
  | [] => .bad .clauseFraming
  | w :: rest =>
    match fmtOf (opOf w).toNat with
    | none => .bad .illegalOpcode
    | some .a | some .b | some .c => decodeRest w 0 rest
    | some .x | some .m | some .e =>
      match rest with
      | [] => .bad (truncatedFault w)
      | v :: rest' => decodeRest w v rest'

/-- The words of a program instruction: its one or two instruction words and then its literal words (R25, R36). An event
of the machine has no words. -/
def encode (i : Instr) : List IWord :=
  match i.enc? with
  | some e => e.encode
  | none => []

/-- The words of an instruction whose bits are numbered as the opcode table numbers them: bit 0 is the least significant
bit of the first word, and every bit above `nbits` is zero. Fifteen words is the most that a clause holds (R22). -/
def tableWords (nbits w : Nat) : List IWord :=
  (List.range 15).map fun k => BitVec.ofNat 32 ((w % 2 ^ nbits) / 2 ^ (32 * k))

/-- The instruction that the decoder reads from the opcode table's word. -/
def decodeTableWord (nbits w : Nat) : Option Instr :=
  match decodeWords (tableWords nbits w) with
  | .ok i _ => some i
  | .bad _ => none

end Sys2Proof
end

