-- ==== Sys2Proof/Machine/Map.lean ====
section
/-!
DEFINITION. Sparse maps as sorted association lists in one canonical form, and the bit, lane and byte helpers that every
family uses.
-/

namespace Sys2Proof

/-- A finite map from numbers, kept as a list of pairs with rising keys. -/
abbrev SMap (α : Type) := List (Nat × α)

/-- The entry of a key. -/
def SMap.find? {α : Type} (m : SMap α) (k : Nat) : Option α :=
  match m with
  | [] => none
  | (i, a) :: m' => if i = k then some a else SMap.find? m' k

/-- The entry of a key, or a default. -/
def SMap.get {α : Type} (m : SMap α) (k : Nat) (d : α) : α := (SMap.find? m k).getD d

/-- Sets the entry of a key, keeping the keys rising. -/
def SMap.insert {α : Type} (m : SMap α) (k : Nat) (a : α) : SMap α :=
  match m with
  | [] => [(k, a)]
  | (i, b) :: m' =>
    if k < i then (k, a) :: (i, b) :: m'
    else if k = i then (k, a) :: m'
    else (i, b) :: SMap.insert m' k a

/-- Removes the entry of a key. -/
def SMap.erase {α : Type} (m : SMap α) (k : Nat) : SMap α :=
  match m with
  | [] => []
  | (i, b) :: m' => if i = k then SMap.erase m' k else (i, b) :: SMap.erase m' k

/-- Sets the entry of a key in a map that lists no default: writing the default removes the entry. -/
def SMap.put {α : Type} [DecidableEq α] (m : SMap α) (k : Nat) (a d : α) : SMap α :=
  if a = d then SMap.erase m k else SMap.insert m k a

/-- Changes the entry of a key when there is one. -/
def SMap.modify {α : Type} (m : SMap α) (k : Nat) (f : α → α) : SMap α :=
  match m with
  | [] => []
  | (i, b) :: m' => if i = k then (i, f b) :: m' else (i, b) :: SMap.modify m' k f

/-- The least key not in the map, counted from zero (at most one more than the number of entries). -/
def SMap.freeKey {α : Type} (m : SMap α) : Nat :=
  ((List.range (m.length + 1)).find? fun k => (SMap.find? m k).isNone).getD m.length

/-! ### Lanes -/

/-- Whether a lane belongs to a set of lanes. -/
def Lanes.has (s : Lanes) (l : Nat) : Bool := s.getLsbD l

/-- The lanes of a set in ascending order. -/
def Lanes.list (s : Lanes) : List Nat := (List.range 32).filter fun l => s.getLsbD l

/-- The set of the lanes below 32 that satisfy a test. -/
def Lanes.of (p : Nat → Bool) : Lanes :=
  BitVec.ofNat 32 ((List.range 32).foldl (fun n l => if p l then n + 2 ^ l else n) 0)

/-- One value for each of the 32 lanes, lane 0 first. -/
abbrev LaneVals := List Word

/-- The values of the 32 lanes. -/
def LaneVals.of (f : Nat → Word) : LaneVals := (List.range 32).map f

/-- The value of one lane. -/
def LaneVals.at (x : LaneVals) (l : Nat) : Word := x.getD l 0

/-! ### Numbers and bytes -/

/-- Bits [hi:lo] of a number. -/
def bits (x hi lo : Nat) : Nat := (x / 2 ^ lo) % 2 ^ (hi + 1 - lo)

/-- Bit i of a number. -/
def bitAt (x i : Nat) : Bool := x.testBit i

/-- A number of w bits read as two's complement. -/
def signedOf (w x : Nat) : Int := if x % 2 ^ w < 2 ^ (w - 1) then ((x % 2 ^ w : Nat) : Int) else ((x % 2 ^ w : Nat) : Int) - 2 ^ w

/-- An integer taken modulo 2^w. -/
def wrapTo (w : Nat) (x : Int) : Nat := (x % (2 ^ w : Int)).toNat

/-- An integer limited to a range. -/
def clampInt (x lo hi : Int) : Int := if x < lo then lo else if hi < x then hi else x

/-- The little-endian bytes of a number. -/
def toBytes (n x : Nat) : List Byte := (List.range n).map fun i => BitVec.ofNat 8 (x / 256 ^ i)

/-- The number that little-endian bytes hold. -/
def ofBytes : List Byte → Nat
  | [] => 0
  | b :: bs => b.toNat + 256 * ofBytes bs

/-- The least multiple of `a` that is not below `x`. -/
def roundUp (x a : Nat) : Nat := ((x + a - 1) / a) * a

/-- The quotient rounded up. -/
def ceilDiv (x a : Nat) : Nat := (x + a - 1) / a

end Sys2Proof
end

