-- ==== Sys2Proof/Machine/FpFormat.lean ====
section
/-!
DEFINITION. The floating-point formats, the exact values they hold, the one rounding function and the sticky flags
(R120 to R133).
-/

namespace Sys2Proof.Machine

/-- The four rounding modes (R126), numbered as FPCTL numbers them. -/
inductive RMode where
  | rne | rz | ru | rd
  deriving DecidableEq, Repr

/-- The mode of a two-bit field (Table 2·7, Table 7·1). -/
def RMode.ofBits (n : Nat) : RMode :=
  match n % 4 with
  | 0 => .rne
  | 1 => .rz
  | 2 => .ru
  | _ => .rd

/-- A format of Table 6·1: width, exponent and mantissa widths, bias, whether it has infinities, whether the top
exponent is kept for NaN and infinity, and the largest finite significand (an integer of p bits). -/
structure FpFmt where
  w : Nat
  eb : Nat
  mb : Nat
  bias : Nat
  hasInf : Bool
  special : Bool
  maxSig : Nat
  deriving DecidableEq, Repr

/-- FP32. -/
def fp32 : FpFmt := { w := 32, eb := 8, mb := 23, bias := 127, hasInf := true, special := true, maxSig := 2 ^ 24 - 1 }
/-- FP16. -/
def fp16 : FpFmt := { w := 16, eb := 5, mb := 10, bias := 15, hasInf := true, special := true, maxSig := 2 ^ 11 - 1 }
/-- BF16. -/
def bf16 : FpFmt := { w := 16, eb := 8, mb := 7, bias := 127, hasInf := true, special := true, maxSig := 255 }
/-- E5M2. -/
def e5m2 : FpFmt := { w := 8, eb := 5, mb := 2, bias := 15, hasInf := true, special := true, maxSig := 7 }
/-- E4M3: no infinity, and only E = 15, M = 7 is a NaN (R122). -/
def e4m3 : FpFmt := { w := 8, eb := 4, mb := 3, bias := 7, hasInf := false, special := false, maxSig := 14 }
/-- E2M1: no special encodings (R122). -/
def e2m1 : FpFmt := { w := 4, eb := 2, mb := 1, bias := 1, hasInf := false, special := false, maxSig := 3 }

/-- The precision p of Table 6·1. -/
def FpFmt.p (F : FpFmt) : Nat := F.mb + 1

/-- The exponent emin of Table 6·1. -/
def FpFmt.emin (F : FpFmt) : Int := 1 - (F.bias : Int)

/-- The exponent emax of Table 6·1: the exponent of the largest finite binade. -/
def FpFmt.emax (F : FpFmt) : Int := ((2 ^ F.eb - (if F.special then 2 else 1) : Nat) : Int) - F.bias

/-- What an encoding stands for (R121, R122): a NaN, an infinity, or the exact value (−1)^neg × m × 2^e. -/
inductive FpVal where
  | nan (signalling : Bool)
  | inf (neg : Bool)
  | fin (neg : Bool) (m : Nat) (e : Int)
  deriving DecidableEq, Repr

/-- The five flag bits of Table 7·2: NV 1, DZ 2, OF 4, UF 8, NX 16. -/
abbrev FpFlags := BitVec 5

/-- Invalid operation. -/
def flagNV : FpFlags := 1
/-- Division by zero. -/
def flagDZ : FpFlags := 2
/-- Overflow. -/
def flagOF : FpFlags := 4
/-- Underflow. -/
def flagUF : FpFlags := 8
/-- Inexact. -/
def flagNX : FpFlags := 16

/-- A result: its encoding and the flags its computation raises. -/
structure FpRes where
  bits : Nat
  fl : FpFlags := 0
  deriving DecidableEq, Repr

/-- The sign bit of an encoding. -/
def FpFmt.signOf (F : FpFmt) (x : Nat) : Bool := (x / 2 ^ (F.w - 1)) % 2 == 1

/-- The value of an encoding (R121, R122). -/
def FpFmt.val (F : FpFmt) (x : Nat) : FpVal :=
  let neg := F.signOf x
  let E := (x / 2 ^ F.mb) % 2 ^ F.eb
  let M := x % 2 ^ F.mb
  if F.special && E == 2 ^ F.eb - 1 then
    if M == 0 then .inf neg else .nan (M < 2 ^ (F.mb - 1))
  else if F == e4m3 && E == 15 && M == 7 then .nan false
  else if E == 0 then .fin neg M (F.emin - F.mb)
  else .fin neg (2 ^ F.mb + M) ((E : Int) - F.bias - F.mb)

/-- The sign bit as a number. -/
def FpFmt.sign (F : FpFmt) (neg : Bool) : Nat := if neg then 2 ^ (F.w - 1) else 0

/-- The canonical NaN of a format (Table 6·2). A conversion to E2M1 has its own rule (R131). -/
def FpFmt.canonicalNan (F : FpFmt) : Nat :=
  if F.special then (2 ^ F.eb - 1) * 2 ^ F.mb + 2 ^ (F.mb - 1)
  else if F == e4m3 then 0x7F else 0

/-- A zero of the given sign. -/
def FpFmt.zero (F : FpFmt) (neg : Bool) : Nat := F.sign neg

/-- The largest finite encoding of the given sign. -/
def FpFmt.maxFin (F : FpFmt) (neg : Bool) : Nat :=
  F.sign neg + ((F.emax + F.bias).toNat * 2 ^ F.mb + (F.maxSig - 2 ^ F.mb))

/-- The infinity of a sign; E4M3 gives 0x7F and E2M1 its largest value where a format has none (R128). -/
def FpFmt.infinity (F : FpFmt) (neg : Bool) : Nat :=
  if F.hasInf then F.sign neg + (2 ^ F.eb - 1) * 2 ^ F.mb
  else if F == e4m3 then 0x7F
  else F.maxFin neg

/-- The result of an overflow (Table 6·4). -/
def FpFmt.overflow (F : FpFmt) (neg : Bool) (md : RMode) (sat : Bool) : FpRes :=
  let big := F.maxFin neg
  let top := F.infinity neg
  { bits :=
      if sat || F == e2m1 then big
      else
        match md with
        | .rne => top
        | .rz => big
        | .ru => if neg then big else top
        | .rd => if neg then top else big
    fl := flagOF ||| flagNX }

/-- Whether rounding |v| goes up to the next multiple of the spacing: `odd` is the parity of the lower multiple, `rem` the
remainder of `2 ^ k` parts, `sticky` says that the exact value lies strictly above what `rem` says (R127). -/
def roundsUp (md : RMode) (neg odd : Bool) (rem k : Nat) (sticky : Bool) : Bool :=
  if rem == 0 && !sticky then false
  else
    match md with
    | .rne => let h := 2 * rem; let one := 2 ^ k
      if h == one then sticky || odd else decide (one < h)
    | .rz => false
    | .ru => !neg
    | .rd => neg

/-- The significand and exponent of |v| = m × 2^e (plus a part below one unit of m under `sticky`) rounded to a multiple of
2^q: the multiple, and whether it differs from |v|. -/
def roundAt (md : RMode) (neg : Bool) (m : Nat) (e q : Int) (sticky : Bool) : Nat × Bool :=
  if q ≤ e then (m * 2 ^ (e - q).toNat + (if roundsUp md neg (m * 2 ^ (e - q).toNat % 2 == 1) 0 0 sticky then 1 else 0), sticky)
  else
    let k := (q - e).toNat
    let lo := m / 2 ^ k
    let rem := m % 2 ^ k
    (lo + (if roundsUp md neg (lo % 2 == 1) rem k sticky then 1 else 0), rem != 0 || sticky)

/-- round_F of an exact non-zero value (−1)^neg × m × 2^e, or of a value strictly between m and m + 1 units under `sticky`,
with its flags (R127 to R129). `sat` asks for the saturating overflow of Table 6·4. -/
def FpFmt.round (F : FpFmt) (md : RMode) (sat : Bool) (neg : Bool) (m : Nat) (e : Int) (sticky : Bool) : FpRes :=
  if m == 0 && !sticky then { bits := F.zero neg }
  else
    let E : Int := (Nat.log2 m : Int) + e
    let ee := if m == 0 || E < F.emin then F.emin else E
    let q := ee - F.p + 1
    let (r, inexact) := roundAt md neg m e q sticky
    let (r, q) := if r == 2 ^ F.p then (r / 2, q + 1) else (r, q)
    if F.emax - F.p + 1 < q || (q == F.emax - F.p + 1 && F.maxSig < r) then F.overflow neg md sat
    else
      let tiny :=
        if m == 0 then true
        else if F.emin ≤ E then false
        else
          let qt := E - F.p + 1
          let (rt, _) := roundAt md neg m e qt sticky
          decide ((Nat.log2 rt : Int) + qt < F.emin)
      let enc := if r < 2 ^ F.mb then r else ((q + F.mb + F.bias).toNat) * 2 ^ F.mb + (r - 2 ^ F.mb)
      { bits := F.sign neg + enc
        fl := (if inexact then flagNX else 0) ||| (if inexact && tiny then flagUF else 0) }

/-- The exact sum of two values m × 2^e with signs: sign, significand, exponent; an exact zero has significand 0. -/
def addExact (n1 : Bool) (m1 : Nat) (e1 : Int) (n2 : Bool) (m2 : Nat) (e2 : Int) : Bool × Nat × Int :=
  let e := if e1 ≤ e2 then e1 else e2
  let a : Int := (m1 * 2 ^ (e1 - e).toNat : Nat)
  let b : Int := (m2 * 2 ^ (e2 - e).toNat : Nat)
  let t := (if n1 then -a else a) + (if n2 then -b else b)
  (decide (t < 0), t.natAbs, e)

/-- Rounds an exact sum whose zero takes its sign under R130: all terms zeros of the one sign `zsign?`, or otherwise +0, and
−0 under RD. -/
def FpFmt.roundSum (F : FpFmt) (md : RMode) (t : Bool × Nat × Int) (zsign? : Option Bool) : FpRes :=
  if t.2.1 == 0 then { bits := F.zero (zsign?.getD (md == .rd)) }
  else F.round md false t.1 t.2.1 t.2.2 false

/-- The canonical NaN, with NV when `nv`. -/
def FpFmt.nanRes (F : FpFmt) (nv : Bool) : FpRes := { bits := F.canonicalNan, fl := if nv then flagNV else 0 }

/-- Whether a value is a signalling NaN. -/
def FpVal.isSnan : FpVal → Bool
  | .nan s => s
  | _ => false

/-- Whether a value is a NaN. -/
def FpVal.isNan : FpVal → Bool
  | .nan _ => true
  | _ => false

/-- Whether a value is an infinity. -/
def FpVal.isInf : FpVal → Bool
  | .inf _ => true
  | _ => false

/-- Whether a value is a zero. -/
def FpVal.isZero : FpVal → Bool
  | .fin _ 0 _ => true
  | _ => false

/-- The sign of a value (false for a NaN). -/
def FpVal.neg : FpVal → Bool
  | .nan _ => false
  | .inf n => n
  | .fin n _ _ => n

/-- x + y in format F (R148). -/
def FpFmt.addVal (F : FpFmt) (md : RMode) (x y : FpVal) : FpRes :=
  match x, y with
  | .nan s, y => F.nanRes (s || y.isSnan)
  | x, .nan s => F.nanRes (s || x.isSnan)
  | .inf a, .inf b => if a == b then { bits := F.infinity a } else F.nanRes true
  | .inf a, .fin _ _ _ => { bits := F.infinity a }
  | .fin _ _ _, .inf b => { bits := F.infinity b }
  | .fin n1 m1 e1, .fin n2 m2 e2 =>
    F.roundSum md (addExact n1 m1 e1 n2 m2 e2) (if m1 == 0 && m2 == 0 && n1 == n2 then some n1 else none)

/-- The value with its sign inverted. -/
def FpVal.negate : FpVal → FpVal
  | .nan s => .nan s
  | .inf n => .inf (!n)
  | .fin n m e => .fin (!n) m e

/-- x × y in format F (R148). -/
def FpFmt.mulVal (F : FpFmt) (md : RMode) (x y : FpVal) : FpRes :=
  if (x.isInf && y.isZero) || (x.isZero && y.isInf) then F.nanRes true
  else
    match x, y with
    | .nan s, y => F.nanRes (s || y.isSnan)
    | x, .nan s => F.nanRes (s || x.isSnan)
    | .inf a, y => { bits := F.infinity (a != y.neg) }
    | x, .inf b => { bits := F.infinity (b != x.neg) }
    | .fin n1 m1 e1, .fin n2 m2 e2 =>
      if m1 * m2 == 0 then { bits := F.zero (n1 != n2) } else F.round md false (n1 != n2) (m1 * m2) (e1 + e2) false

/-- x × y + z in format F, rounded once (R148). -/
def FpFmt.fmaVal (F : FpFmt) (md : RMode) (x y z : FpVal) : FpRes :=
  if (x.isInf && y.isZero) || (x.isZero && y.isInf) then F.nanRes true
  else if x.isNan || y.isNan || z.isNan then F.nanRes (x.isSnan || y.isSnan || z.isSnan)
  else
    let sp := x.neg != y.neg
    if x.isInf || y.isInf then
      match z with
      | .inf n => if n == sp then { bits := F.infinity sp } else F.nanRes true
      | _ => { bits := F.infinity sp }
    else
      match x, y, z with
      | .fin _ m1 e1, .fin _ m2 e2, .fin n3 m3 e3 =>
        F.roundSum md (addExact sp (m1 * m2) (e1 + e2) n3 m3 e3)
          (if m1 * m2 == 0 && m3 == 0 && sp == n3 then some sp else none)
      | _, _, z => { bits := F.infinity z.neg }

/-- The floor of the square root, bit by bit from bit k. -/
def sqrtBits (n : Nat) : Nat → Nat → Nat
  | 0, r => r
  | k + 1, r => let c := r + 2 ^ k; sqrtBits n k (if c * c ≤ n then c else r)

/-- The floor of the square root. -/
def isqrt (n : Nat) : Nat := sqrtBits n (Nat.log2 n / 2 + 1) 0

/-- x / y in format F, correctly rounded (R162). -/
def FpFmt.divVal (F : FpFmt) (md : RMode) (x y : FpVal) : FpRes :=
  if x.isNan || y.isNan then F.nanRes (x.isSnan || y.isSnan)
  else
    let sp := x.neg != y.neg
    match x, y with
    | .inf _, .inf _ => F.nanRes true
    | .inf _, _ => { bits := F.infinity sp }
    | _, .inf _ => { bits := F.zero sp }
    | .fin _ m1 e1, .fin _ m2 e2 =>
      if m2 == 0 then (if m1 == 0 then F.nanRes true else { bits := F.infinity sp, fl := flagDZ })
      else if m1 == 0 then { bits := F.zero sp }
      else
        let k := Nat.log2 m2 + F.p + 4
        F.round md false sp (m1 * 2 ^ k / m2) (e1 - e2 - k) (m1 * 2 ^ k % m2 != 0)
    | _, _ => F.nanRes false

/-- The square root in format F (R163). -/
def FpFmt.sqrtVal (F : FpFmt) (md : RMode) (x : FpVal) : FpRes :=
  match x with
  | .nan s => F.nanRes s
  | .inf n => if n then F.nanRes true else { bits := F.infinity false }
  | .fin n m e =>
    if m == 0 then { bits := F.zero n }
    else if n then F.nanRes true
    else
      let k : Nat := 2 * F.p + 4 + (if (e % 2 : Int) == 0 then 0 else 1)
      let big := m * 2 ^ k
      let r := isqrt big
      F.round md false false r ((e - k) / 2) (r * r != big)

/-- The reciprocal square root in format F (R163): 1 / √(m × 2^e) with e even is √(2^(2k) / m) × 2^(−k − e/2). -/
def FpFmt.rsqrtVal (F : FpFmt) (md : RMode) (x : FpVal) : FpRes :=
  match x with
  | .nan s => F.nanRes s
  | .inf n => if n then F.nanRes true else { bits := F.zero false }
  | .fin n m e =>
    if m == 0 then { bits := F.infinity n, fl := flagDZ }
    else if n then F.nanRes true
    else
      let (m, e) := if (e % 2 : Int) == 0 then (m, e) else (2 * m, e - 1)
      let k := Nat.log2 m + F.p + 4
      let q := 2 ^ (2 * k) / m
      let r := isqrt q
      F.round md false false r (-(k : Int) - e / 2) (!(q * m == 2 ^ (2 * k) && r * r == q))

/-- Whether x < y for numbers, with −0 below +0 when `zeros` (R149). -/
def FpVal.lt (zeros : Bool) (x y : FpVal) : Bool :=
  match x, y with
  | .nan _, _ | _, .nan _ => false
  | .inf a, .inf b => a && !b
  | .inf a, .fin _ _ _ => a
  | .fin _ _ _, .inf b => !b
  | .fin n1 m1 e1, .fin n2 m2 e2 =>
    if m1 == 0 && m2 == 0 then zeros && n1 && !n2
    else
      let (n, m, _) := addExact n1 m1 e1 (!n2) m2 e2
      n && m != 0

/-- Whether two numbers are equal, −0 equal to +0 (R151). -/
def FpVal.eq (x y : FpVal) : Bool :=
  match x, y with
  | .nan _, _ | _, .nan _ => false
  | x, y => !(x.lt false y) && !(y.lt false x)

/-- Minimum and maximum (R149): `max` chooses the greater, `number` the Number forms. The bits of the operand chosen are
kept. -/
def FpFmt.minMax (F : FpFmt) (max number : Bool) (a b : Nat) : FpRes :=
  let x := F.val a
  let y := F.val b
  let fl := if x.isSnan || y.isSnan then flagNV else 0
  if x.isNan && y.isNan then { bits := F.canonicalNan, fl := fl }
  else if x.isNan then { bits := if number then b else F.canonicalNan, fl := fl }
  else if y.isNan then { bits := if number then a else F.canonicalNan, fl := fl }
  else
    let aLess := !(y.lt true x)
    { bits := if aLess != max then a else b, fl := fl }

/-- A conversion between floating-point formats (R131). -/
def FpFmt.convert (D S : FpFmt) (md : RMode) (sat : Bool) (a : Nat) : FpRes :=
  match S.val a with
  | .nan s => if D == e2m1 then { bits := 0, fl := flagNV } else { bits := D.canonicalNan, fl := if s then flagNV else 0 }
  | .inf n =>
    if sat || D == e2m1 then { bits := D.maxFin n }
    else if D == e4m3 then { bits := 0x7F, fl := flagNV }
    else { bits := D.infinity n }
  | .fin n m e => if m == 0 then { bits := D.zero n } else D.round md sat n m e false

/-- An exact value rounded to an integer in a mode: the integer, and whether it differs. -/
def roundInt (md : RMode) (neg : Bool) (m : Nat) (e : Int) : Int × Bool :=
  let (r, ix) := roundAt md neg m e 0 false
  ((if neg then -(r : Int) else r), ix)

/-- Floating point to an integer of width w (R132, Table 6·5). -/
def FpFmt.toInt (F : FpFmt) (w : Nat) (signed : Bool) (md : RMode) (sat : Bool) (a : Nat) : FpRes :=
  let lo : Int := if signed then -(2 ^ (w - 1)) else 0
  let hi : Int := if signed then 2 ^ (w - 1) - 1 else 2 ^ w - 1
  let out := if sat then flagNX else flagNV
  match F.val a with
  | .nan _ => { bits := 0, fl := flagNV }
  | .inf n => { bits := wrapTo w (if n then lo else hi), fl := out }
  | .fin n m e =>
    let (r, ix) := roundInt md n m e
    if r < lo then { bits := wrapTo w lo, fl := out }
    else if hi < r then { bits := wrapTo w hi, fl := out }
    else { bits := wrapTo w r, fl := if ix then flagNX else 0 }

/-- An integer to floating point (R133). -/
def FpFmt.ofInt (F : FpFmt) (md : RMode) (x : Int) : FpRes :=
  if x == 0 then { bits := F.zero false } else F.round md false (decide (x < 0)) x.natAbs 0 false

/-- Rounding to an integral value in the format (R153). -/
def FpFmt.roundIntegral (F : FpFmt) (md : RMode) (a : Nat) : FpRes :=
  match F.val a with
  | .nan s => F.nanRes s
  | .inf _ => { bits := a }
  | .fin n m e =>
    let (r, ix) := roundAt md n m e 0 false
    if !ix then { bits := a }
    else { bits := (F.round .rne false n r 0 false).bits, fl := flagNX }

/-- Multiplication by 2^s (R154). -/
def FpFmt.scale (F : FpFmt) (md : RMode) (a : Nat) (s : Int) : FpRes :=
  match F.val a with
  | .nan sg => F.nanRes sg
  | .inf _ => { bits := a }
  | .fin n m e => if m == 0 then { bits := a } else F.round md false n m (e + s) false

/-- The exponent as an integer of width w (R155, Table 7·8). -/
def FpFmt.exponent (F : FpFmt) (a : Nat) : FpRes :=
  match F.val a with
  | .nan _ | .inf _ => { bits := 2 ^ (F.w - 1) - 1, fl := flagNV }
  | .fin _ m e =>
    if m == 0 then { bits := 2 ^ (F.w - 1), fl := flagNV }
    else { bits := wrapTo F.w ((Nat.log2 m : Int) + e) }

/-- The class mask of Table 7·7 (R152). -/
def FpFmt.classify (F : FpFmt) (a : Nat) : Nat :=
  match F.val a with
  | .nan s => if s then 2 ^ 8 else 2 ^ 9
  | .inf n => if n then 2 ^ 0 else 2 ^ 7
  | .fin n m _ =>
    if m == 0 then (if n then 2 ^ 3 else 2 ^ 4)
    else if m < 2 ^ F.mb then (if n then 2 ^ 2 else 2 ^ 5)
    else (if n then 2 ^ 1 else 2 ^ 6)

/-- The condition of fcmp and whether it sets NV (Table 7·6). -/
def FpFmt.compare (F : FpFmt) (c a b : Nat) : Bool × Bool :=
  let x := F.val a
  let y := F.val b
  let un := x.isNan || y.isNan
  let sn := x.isSnan || y.isSnan
  match c with
  | 0 => (x.eq y, sn)
  | 1 => (!(x.eq y), sn)
  | 2 => (x.lt false y, un)
  | 3 => (!un && !(y.lt false x), un)
  | 4 => (y.lt false x, un)
  | 5 => (!un && !(x.lt false y), un)
  | 6 => (un, sn)
  | _ => (!un, sn)

end Sys2Proof.Machine
end

