-- ==== Sys2Proof/Config.lean ====
section
/-!
DEFINITION. What an implementation of the Kwawyn fixes and the spec leaves open: values with no body, so that nothing in
Lean can know them. A statement that mentions one holds whatever it is.
-/

namespace Sys2Proof

/-- A 64-bit value that the spec leaves open, the n-th that the machine draws (notes/assumptions/5). -/
opaque Config.freeWord : Nat → Word

/-- The bytes of a saved context's image body, whose layout is private to the part (R387): a function of what identifies
the image. -/
opaque Config.imageBody : Nat → List Byte

/-- How many bytes a context's team save area has (Table 16·4): no rule gives it. -/
opaque Config.saveAreaBytes : Nat

/-- Where in a context's save area a team's state is written (R381): the layout is private to the part. -/
opaque Config.savePlace : Nat → Nat

/-- The set of a cache in which a line or a grain lies, by the cache's number (R426): no rule says how many sets there are. -/
opaque Config.cacheSet : Nat → Nat → Nat

/-- The way of its set in which a cache holds a line or a grain (R426). -/
opaque Config.cacheWay : Nat → Nat → Nat

/-- The hash that firmware fixes at boot and that chooses a grain's home slice among a chip's slices (R224): no rule gives it. -/
opaque Config.sliceHash : Nat → Nat

/-- The bytes of the management controller's n-th response to an SPDM request, signatures and all, which lie outside the machine (R433). -/
opaque Config.spdmResponse : Nat → List Byte

/-- The physical identity of this module, fixed at manufacture (R318, FAB_SELF). -/
opaque Config.fabSelf : BitVec 16

/-- The fused minimum of the firmware's security version (R432). -/
opaque Config.fusedMinimum : Nat

end Sys2Proof
end

