-- ==== Sys2Proof/Machine/State.lean ====
section
/-!
DEFINITION. The machine's state: one Kwawyn module with everything the spec gives it, as plain data; the reasons a step
can stop; and the state right after reset.
-/

namespace Sys2Proof.Machine

/-- The reasons a step stops with a fault of the model itself. The machine's own faults (Table 16·3) are states, not
these. -/
inductive Fault where
  /-- A program instruction's meaning was asked for while no clause is in a slot. Raised by the meanings of program
  instructions; safe, since no program step runs without a clause. -/
  | noClause
  deriving DecidableEq, Repr

/-- The reasons an instruction has no meaning. -/
inductive Refusal where
  /-- The instruction has no meaning yet. Raised by `exec`'s arm; safe. -/
  | notModelled (mnemonic : String)
  deriving DecidableEq, Repr

/-! ### Threads, clauses and groups -/

/-- What a blocked thread waits for (R73). A cwait keeps the address and index of its clause, and whether that lies in the handler, for the
fault of a failed round (R339, R371). -/
inductive Wait where
  | await (id : Nat)
  | barrier (n : Nat) (phase : Bool)
  | rendezvous (cluster team : Nat)
  | step
  | stepPod
  | cwait (ctx round pc idx : Nat) (handler : Bool)
  deriving DecidableEq, Repr

/-- Where a thread stands with respect to bundles (R66, R73, R81, R82, R368). `returned` is a handler thread that has
executed tret and waits for the rest of the handler's threads. -/
inductive ThreadStatus where
  | ready
  | delayed (aclk : Nat)
  | blocked (ws : List Wait)
  | exited
  | held (was : List Wait)
  | heldDelayed (aclk : Nat)
  | returned
  deriving DecidableEq, Repr

/-- One thread (R19, R65, R79, R368): v and k registers, FLAGS, DRAW, PC, return stack (newest first), skip count, EPC,
status, the waits suspended by a trap, whether it runs its handler from the exited state, the barrier phases it has
arrived in and not yet waited for, the largest stamp among its loads (what acq makes acquires, R215),
whether a SYSTEM release orders its later writes (R219), and whether its last clause yielded (R22, R82). -/
structure Thread where
  v : SMap Word := []
  k : SMap (BitVec 16) := []
  flags : BitVec 5 := 0
  draw : Word := 0
  pc : BitVec 52 := 0
  stack : List (BitVec 52) := []
  skip : Nat := 0
  epc : BitVec 52 := 0
  status : ThreadStatus := .ready
  suspended : List Wait := []
  fromExit : Bool := false
  pending : SMap Bool := []
  seen : Nat := 0
  relSys : Bool := false
  yielded : Bool := false
  deriving DecidableEq, Repr

/-- A fault of a group, precise, deferred, asynchronous or after commit (R34, R366, R369): its code, the clause address
and instruction index it names, whether it carries the deferred bit, its lowest lane, its lanes, the operand of trap or
brk, FAULTVA, FAULTAUX, the threads of the originating bundle, and whether the originating clause lies in the handler. -/
structure FaultRec where
  code : FaultCode
  pc : BitVec 52
  index : Nat := 0
  deferred : Bool := false
  lane : Nat := 0
  lanes : Lanes := 0
  operand : Nat := 0
  va : Nat := 0
  aux : Word := 0
  bundle : Lanes := 0
  inHandler : Bool := false
  deriving DecidableEq, Repr

/-- A formed bundle (R66, R67): its PC, its threads, the time it was formed, the time since which it has been eligible for a
slot, whether it has aged to effective priority 3, and whether it follows a yield (R71). -/
structure Bundle where
  pc : BitVec 52
  lanes : Lanes
  since : Nat := 0
  eligible : Option Nat := none
  aged : Bool := false
  yielded : Bool := false
  inSlot : Bool := false
  deriving DecidableEq, Repr

/-- A group (R17, R19, R65, R84, R366): where it lives, its uniform registers, handles, scoreboard, control registers,
fault registers, queued faults, when the last of them landed and how many landed then, the fault in taking, the precise faults that compete, the clause and index of its last step instruction and whether it lies in the handler (R92, R371), its threads and
its formed bundles. -/
structure Group where
  team : Nat
  index : Nat := 0
  role : Bool := false
  rindex : Nat := 0
  core : Nat := 0
  slot : Nat := 0
  blocks : Nat := 12
  resident : Bool := true
  retired : Bool := false
  g : SMap Word := []
  h : SMap HandleBits := []
  sb : SMap Nat := []
  lfsr : BitVec 16 := 0
  fpctl : Word := 0
  gang : Word := 0
  faultInfo : Word := 0
  faultAddr : BitVec 52 := 0
  faultVa : BitVec 52 := 0
  faultAux : Word := 0
  inHandler : Bool := false
  handlerLanes : Lanes := 0
  handlerCode : Nat := 0
  queue : List FaultRec := []
  landedAt : Nat := 0
  landedNow : Nat := 0
  taking : Option FaultRec := none
  precise : List FaultRec := []
  stepPc : BitVec 52 := 0
  stepIdx : Nat := 0
  stepHandler : Bool := false
  threads : List Thread := []
  bundles : List Bundle := []
  deriving DecidableEq, Repr

/-- An effect that a clause holds back until it commits (R26). The register effects name the register, the lanes and one
value per lane; `act` is the commit part of instruction `i` at index `idx` for the acting lanes, with the operand values
its checks captured. -/
inductive Effect where
  | v (r : Nat) (lanes : Lanes) (x : LaneVals)
  | k (r : Nat) (lanes : Lanes) (x : LaneVals)
  | g (r : Nat) (x : Word)
  | h (r : Nat) (x : HandleBits)
  | orFlags (lanes : Lanes) (x : LaneVals)
  | count (x : List Nat)
  | setFlags (lanes : Lanes) (x : LaneVals)
  | setDraw (lanes : Lanes) (x : LaneVals)
  | setLfsr (x : Word)
  | setFpctl (x : Word)
  | setGang (x : Word)
  | setPc (lanes : Lanes) (x : LaneVals)
  | act (i : Instr) (idx : Nat) (lanes : Lanes) (x y z : LaneVals) (n : List Nat)
  deriving DecidableEq, Repr

/-- A clause in an issue slot (R26, R29, R71): its group, header address, threads, header, the words not yet executed, the
index of the next instruction, the group's registers as they stood before the clause, the values in the bypass latches,
the draw count of each lane advanced by the clause's own rnd instructions, whether a tret has been met, whether it waits for
something outside itself, and the effects held back, in index order. -/
structure Issue where
  gid : Nat
  pc : BitVec 52
  lanes : Lanes
  header : IWord
  words : List IWord
  idx : Nat := 0
  before : Group
  latches : SMap LaneVals := []
  draws : LaneVals := []
  sawTret : Bool := false
  waiting : Bool := false
  effects : List Effect := []
  deriving DecidableEq, Repr

/-! ### Teams, grids and contexts -/

/-- One of a team's sixteen named barriers (R88): phase, the count operand of the phase's first arrival, and for each
group the lanes that have arrived. -/
structure Barrier where
  phase : Bool := false
  count : Option Nat := none
  lanes : SMap Lanes := []
  deriving DecidableEq, Repr

/-- Where a team stands (R81, R381). -/
inductive TeamStatus where
  | resident
  | saved
  | retired
  deriving DecidableEq, Repr

/-- A team (R19, R88, R179, R381): its context and grid, its index, the cluster it is resident on and the cluster that
CLUSTER reads, its status, dispatch priority and placement order, its groups, barriers, typed-buffer windows with their
publish pairs, swapped pairs and contents (keyed by `Machine.bufKey`), its ticket counts, and whether a forced save of it has been
asked for. -/
structure Team where
  ctx : Nat
  grid : Nat
  index : Nat := 0
  cluster : Nat := 0
  lcluster : Nat := 0
  status : TeamStatus := .resident
  prio : Nat := 0
  order : Nat := 0
  groups : List Nat := []
  barriers : SMap Barrier := []
  abanks : Nat := 0
  apair : Nat := 0
  cbanks : Nat := 0
  cpair : Nat := 0
  wsub : Nat := 0
  wpair : Nat := 0
  swapped : SMap Bool := []
  bufs : SMap Byte := []
  mticket : Nat := 0
  eticket : Nat := 0
  saving : Bool := false
  deriving DecidableEq, Repr

/-- A kernel descriptor as the launch read it (R392, Table 17·1). -/
structure Kernel where
  entry : BitVec 52 := 0
  pgroups : Nat := 1
  pblocks : Nat := 1
  cgroups : Nat := 0
  cblocks : Nat := 0
  nhandles : Nat := 0
  nuniforms : Nat := 0
  abanks : Nat := 0
  apair : Nat := 0
  cbanks : Nat := 0
  cpair : Nat := 0
  wsub : Nat := 0
  wpair : Nat := 0
  isa : Nat := 0x0100
  arith : Nat := 0
  feats : List Word := []
  deriving DecidableEq, Repr

/-- The states of the launch status word (Table 17·10). -/
inductive LaunchState where
  | queued
  | running
  | complete
  | failed
  | cancelled
  | killed
  deriving DecidableEq, Repr

/-- A grid (R19, R394, R396, R399, R403, R404): its context and launch number, kernel and node fields, the teams placed
and retired, its status, its superstep counts, the lost messages of the step it is in and those of its domain's other chips that have been declared lost here, the time since which the
conditions of a starvation swap hold, and the slot counts of its argument block's header. -/
structure Grid where
  ctx : Nat
  launch : Nat := 0
  kernel : Kernel := {}
  nodeVa : Nat := 0
  argVa : Nat := 0
  teams : Nat := 1
  seed : Nat := 0
  bitmapVa : Nat := 0
  digestVa : Nat := 0
  prio : Nat := 0
  stepped : Bool := false
  det : Bool := false
  nowait : Bool := false
  lclusters : Nat := 0
  stag : Nat := 0
  walk : Option Nat := none
  order : Nat := 0
  placed : Nat := 0
  retired : List Nat := []
  state : LaunchState := .queued
  code : Nat := 0
  cancelled : Bool := false
  digestDone : Bool := false
  steps : Nat := 0
  podSteps : Nat := 0
  noticeSent : Bool := false
  stepLost : List Word := []
  stepHeard : List Word := []
  starvedSince : Option Nat := none
  nhandles : Nat := 0
  nuniforms : Nat := 0
  deriving DecidableEq, Repr

/-- The states of a context (Table 18·4). -/
inductive CtxStatus where
  | free
  | live
  | draining
  | saved
  | halted
  | killed
  deriving DecidableEq, Repr

/-- A kill or halt raised and not yet carried out (R373, R374): its code and cause, the fault it came from with the group
that raised it, and the handler's first code. -/
structure KillReq where
  code : FaultCode
  cause : Nat
  gid : Option Nat := none
  fault : Option FaultRec := none
  earlier : Nat := 0
  deriving DecidableEq, Repr

/-- The states of a walk slot (Table 17·5). -/
inductive WalkState where
  | visiting
  | waiting
  | held (visiting : Bool)
  | ended
  deriving DecidableEq, Repr

/-- What the node that a walk waits in completes with (R395, R396): a grid, the copy or the publish of a COPY node, a round of a
combine context, a snapshot's record, or an event's writing; `ending` is a walk that has come to its end, with its final status and code, and
waits for its event to be written (R420). -/
inductive WalkWait where
  | grid (g : Nat)
  | copy (cmd : Nat)
  | publish (cmd : Nat)
  | round (ctx n : Nat)
  | snap (colour epoch : Nat)
  | event
  | ending (status : LaunchState) (code : Nat)
  deriving DecidableEq, Repr

/-- A walk slot (R398, R409): its state, the node being visited or waited for and its successor, the handle of gspawn, the
grids it launched, what it waits for, the final status it keeps, and, from its read to the end of the visit, the words of the node's record
with whether its range list has been read (R395). -/
structure Walk where
  state : WalkState := .visiting
  node : Nat := 0
  next : Nat := 0
  handle : Option HandleBits := none
  grids : List Nat := []
  wait : Option WalkWait := none
  status : LaunchState := .running
  code : Nat := 0
  record : Option (List Nat) := none
  listed : Bool := false
  deriving DecidableEq, Repr

/-- An event raised and not yet written to the event area (R420, Table 18·5), with the receive that waits to complete with it. -/
structure HostEvent where
  kind : Nat
  code : Nat := 0
  slot : Nat := 0
  value : Nat := 0
  aux : Nat := 0
  clock : Nat := 0
  vector : Nat := 0
  receive : Option Nat := none
  deriving DecidableEq, Repr

/-- A context (R378, R380, R398, R400, R409, R416, R420): its status, its record as last read, its launch count, walks and
kept launch statuses, its pending kills, drain counts, the events that wait for its drain, the status a halt interrupted, the
budget limits in force until a time from which the record's govern, its event area's q and producer count with the consumer count
last read, and its events waiting to be written. -/
structure Ctx where
  status : CtxStatus := .free
  record : BitVec 1024 := 0
  launches : Nat := 0
  walks : SMap Walk := []
  kept : List (Nat × LaunchState × Nat × Nat) := []
  kills : List KillReq := []
  killWritten : Bool := false
  drainSince : Nat := 0
  drainRetired : Nat := 0
  drainSaved : Nat := 0
  drainWaits : List Nat := []
  haltedFrom : CtxStatus := .live
  left : SMap Nat := []
  limits : List Nat := [0, 0, 0, 0]
  limitsFrom : Nat := 0
  q : Nat := 4
  producer : Nat := 0
  consumer : Nat := 0
  consumerRead : Nat := 0
  events : List HostEvent := []
  deriving DecidableEq, Repr

/-! ### Memory, caches and accesses -/

/-- A leaf of the page table as a walk read it (R169, R170): the entry, the page size, the page's base VA and the address of
the entry itself. -/
structure Leaf where
  pte : BitVec 64
  size : Nat
  vbase : Nat
  pteAddr : Nat
  deriving DecidableEq, Repr

/-- A TLB entry (R172): the ASID it was walked in, the leaf, and the side of a publishable page. -/
structure TlbEntry where
  asid : Nat
  leaf : Leaf
  side : Bool := false
  deriving DecidableEq, Repr

/-- The timestamps of one 128-byte sector in L2 (R229). -/
structure Sector where
  wts : Nat := 0
  rts : Nat := 0
  era : Bool := false
  deriving DecidableEq, Repr

/-- A line of a cluster cache (R177, R229, R234, R235): its bytes, the lease it was granted and the stamp it was read with, whether
it is held without a lease (a private range), whether it is dirty, whether hint 2 asked to keep it, and when it was last filled. -/
structure Line where
  data : List Byte
  rts : Nat := 0
  wts : Nat := 0
  free : Bool := false
  dirty : Bool := false
  keep : Bool := false
  filled : Nat := 0
  deriving DecidableEq, Repr

/-- A grain that a cluster atomic engine holds (R252): its stamp and the time of its last use. -/
structure EngineGrain where
  stamp : Nat
  used : Nat
  deriving DecidableEq, Repr

/-- How this module's L2 holds a grain that another chip homes (Table 10·2); `u` is a copy that its home has not recorded, used once. -/
inductive HeldState where
  | s | e | o | m | u
  deriving DecidableEq, Repr

/-- What an access asks of memory or a typed buffer once it has passed its checks (R183, R184, R192, R257, R262). -/
inductive AccessOp where
  /-- A load; `sx` sign-extends. -/
  | load (sx : Bool)
  /-- The 16-byte read of hload. -/
  | hload
  | store (data : List Byte)
  /-- An atomic: sub-op, type, whether the old value returns, and its operand words. -/
  | atomic (sub ty : Nat) (returns : Bool) (x : List Nat)
  /-- A wait: sub-op, width in bytes and comparand. -/
  | await (sub bytes cmp : Nat)
  /-- A tag read of wsstate (R242). -/
  | tag
  /-- A fence of POD or SYSTEM scope, and how many chips have not answered it yet (R214). -/
  | fence (left : Nat)
  deriving DecidableEq, Repr

/-- One thread's access after its clause has committed (R196, R218): the thread, the clause and index it came from for a
deferred fault, its space (0 memory, 1 A-buffer, 2 C-buffer), virtual and physical address (or buffer address), leaf, what
it does, its scope, ordering and hint, the deferred event it belongs to, whether later loads or later writes of the thread
wait for it (fence, acq, rel, acquire), whether a fence makes it be performed with respect to every cluster (R214), whether a
request for it has been sent, when its wait began, how long it may last, of a wait when it was last tested, its address space and whether
its page has been in transition since it was translated (R212, R263), and whether it is made once for the whole bundle (R191, R192). -/
structure Access where
  id : Nat
  gid : Nat
  lane : Nat
  core : Nat
  pc : BitVec 52
  idx : Nat
  bundle : Lanes := 0
  inHandler : Bool := false
  space : Nat := 0
  va : Nat
  pa : Nat
  size : Nat
  pte : BitVec 64 := 0
  op : AccessOp
  scope : Nat := 0
  acquire : Bool := false
  release : Bool := false
  hint : Nat := 0
  event : Option Nat := none
  holdLd : Bool := false
  holdSt : Bool := false
  fenced : Bool := false
  sent : Bool := false
  since : Nat := 0
  limit : Nat := 0
  tested : Nat := 0
  asid : Nat := 0
  stale : Bool := false
  whole : Bool := false
  deriving DecidableEq, Repr

/-- What a deferred event still waits for (R31): nothing, its accesses, the SFU, a command of a unit, or a condition that
`Machine.eventReady` tests. -/
inductive EventWait where
  | done
  | accesses (n : Nat)
  | sfu
  | command (id : Nat)
  | matrix (cluster id : Nat)
  | condition (i : Instr) (n : List Nat)
  deriving DecidableEq, Repr

/-- A deferred event (R31, R34): its group, scoreboard slot and originating clause, what it waits for, what it writes when
it lands (v registers, one handle, flags with their event counts), the faults that land with it, whether it is a deferred
result that trap entry waits for (R368), when it was made, how long it may wait (R239), and how many answers it awaits of the homes of its
range once they have been asked (R238 to R244). -/
structure Deferred where
  gid : Nat
  sb : Nat
  pc : BitVec 52
  idx : Nat
  bundle : Lanes := 0
  inHandler : Bool := false
  wait : EventWait := .done
  lanes : Lanes := 0
  v : List (Nat × LaneVals) := []
  h : Option (Nat × HandleBits) := none
  flags : LaneVals := []
  counts : List Nat := []
  faults : List FaultRec := []
  result : Bool := false
  since : Nat := 0
  limit : Nat := 0
  asks : Option Nat := none
  deriving DecidableEq, Repr

/-- A home's transaction on a grain (R225, R226): the requester (the module itself for its own accesses) and what it asked,
the chips whose acknowledgement is awaited, whether data is awaited, whether the owner reported a dirty copy, the tag that
will be written when it did not and when it did, what follows its end (0 nothing, 1 data, 2 a grant, 3 the sweep that read the grain,
4 the host's access that recalled it; the last two leave the tag as it stands), and the epoch of the request. -/
structure Txn where
  chip : Nat
  getM : Bool
  acks : List Nat := []
  data : Bool := false
  dirty : Bool := false
  next : BitVec 64
  nextDirty : BitVec 64
  reply : Nat := 0
  epoch : Nat := 0
  deriving DecidableEq, Repr

/-- A request to a home that waits because the grain is busy (R225), with the leaf of the access behind it (R223; `Machine.leafWord`), or
a writeback with its data (none of a clean grain), whose leaf word is the epoch of the tag that came with it, and its place in arrival
order once it waits (0 before). -/
structure HomeReq where
  chip : Nat
  getM : Bool
  upgrade : Bool
  epoch : Nat
  leaf : Nat := 0
  put : Option (List Byte) := none
  order : Nat := 0
  deriving DecidableEq, Repr

/-- The messages of class 0 (R225, R233, R236), those of R225 first; the rest are what the rules have one chip ask of another without
naming a message (notes/assumptions/89). -/
inductive CohKind where
  | getS | getM | upgrade | putM | putO | forwardS | forwardM | invalidate
  /-- Answers: an acknowledgement, that of a Forward with the owner's copy dirty or clean, the grant of an Upgrade. -/
  | ack | ackDirty | ackClean | grant
  /-- What a home does for another chip: a store, an atomic, and the coherence instructions on grains homed there. -/
  | store | atomic | move | close | reset | convert | readTag | awaitOwner
  /-- The home's answer to one of these: a fault code (0 none), the old bytes or the tag. -/
  | answer
  /-- Replicas: the unlock of a grain, the listing and the dropping of a page, and a request to change a page's list. -/
  | unlock | listed | dropped | replicAdd | replicRem
  /-- The beginning or the end of a page's transition on a chip, and its answer (R236, R300). -/
  | shootDown | shotDown
  /-- A grain's poison is set or cleared (R390, R424); its snapshot copy is asked for (R353). -/
  | poison | snapRead | clear
  /-- A fence of POD or SYSTEM scope (R214); whether a page's list may change as replic asks (R244); the bits of a TLB invalidation of POD
  scope (R389). -/
  | fence | replicAsk | tlbInv
  deriving DecidableEq, Repr

/-- An operation that another chip asks of this home (notes/assumptions/89): the chip and cluster that ask, what, the address, the leaf of
the access behind it, the epoch of the message, its operand word, its bytes, when it came, and its place in arrival order. -/
structure RemoteOp where
  chip : Nat
  cluster : Nat
  kind : CohKind
  pa : Nat
  leaf : Nat
  epoch : Nat
  arg : Nat
  data : List Byte
  since : Nat
  order : Nat := 0
  deriving DecidableEq, Repr

/-- A page in transition, whose new accesses stall (R236, R300, R307): its size, the chip that runs the transition at the page's home or
asked for it, the chips whose shoot-down it still awaits, whether this chip's own shoot-down is done, and whether the home has told the
asker that every chip's is. -/
structure PageOp where
  size : Nat
  owner : Nat
  acks : List Nat := []
  drained : Bool := false
  ready : Bool := false
  deriving DecidableEq, Repr

/-- A store or an atomic on a replicated grain in its two steps (R233), or the copying of a grain to a new replica: the access it
performs, the grain's new bytes, whether the unlock is under way, the chips written to, those to answer, what another chip asked when it is its operation,
and what its access gave. -/
structure ReplicaStore where
  access : Access
  data : List Byte := []
  unlocking : Bool := false
  targets : List Nat
  acks : List Nat
  remote : Option RemoteOp := none
  old : List Byte := []
  stamp : Nat := 0
  deriving DecidableEq, Repr

/-- The copying of a page to a new replica (R244): the page, its size, the chip, the deferred event that waits or the chip that asked with
the number it gave, and the grains still to be copied. -/
structure ReplicaCopy where
  page : Nat
  size : Nat
  chip : Nat
  event : Option Nat
  asker : Nat
  arg : Nat
  left : List Nat
  deriving DecidableEq, Repr

/-! ### Snapshots -/

/-- A lake record (R358, Table 15·4): type, key and body. -/
structure LakeRec where
  ty : Nat
  key : Nat
  body : List Byte
  deriving DecidableEq, Repr

/-- A frame that a snapshot takes in (R344): in the tier or in HBM, its base and its size. -/
structure SnapFrame where
  tier : Bool
  base : Nat
  size : Nat
  deriving DecidableEq, Repr

/-- A snapshot colour on this chip (R346, R347, R353, R356, R357; Tables 15·3 and 15·6): its state code, epoch, cause,
initiator, user tag, whether a drop is held until the record instant, the incoming channels (chip, class) whose marker is
awaited, the marked objects left (`Machine.markKey`), the frames that it takes in, as they were at the record instant, how many of their
grains the sweep has passed, whether the snapshot read of the next has come back, whether the sweep has finished, the records staged and
the records in the lake, and the chips that have reported and that have finished dropping. -/
structure Snap where
  state : Nat := 0
  epoch : Nat := 0
  cause : Nat := 0
  initiator : Nat := 0
  tag : Nat := 0
  dropHeld : Bool := false
  awaiting : List (Nat × Nat) := []
  marks : List Nat := []
  frames : List SnapFrame := []
  sweepAt : Nat := 0
  read : Bool := false
  swept : Bool := false
  staged : List LakeRec := []
  lake : List LakeRec := []
  reports : List Nat := []
  dropReports : List Nat := []
  deriving DecidableEq, Repr

/-! ### Matrix and engines -/

/-- A range of bytes: its space (0 memory by virtual address in an address space, 1 A-buffer of a core, 2 C-buffer, 3 W-store
window), the core, cluster or address space, and its bounds. -/
structure Range where
  space : Nat
  owner : Nat
  lo : Nat
  hi : Nat
  deriving DecidableEq, Repr

/-- A member of a placed matrix operation (R267, R272, R275): its group, the deferred event that counts its completion, and the
A part of its record block. -/
structure Member where
  gid : Nat
  core : Nat
  event : Nat
  addr : Nat
  stride : Nat
  row0 : Nat
  nrows : Nat
  saddr : Nat
  deriving DecidableEq, Repr

/-- The kinds of matrix work item (R279). -/
inductive WorkKind where
  | entry
  | drain
  | zero
  deriving DecidableEq, Repr

/-- A matrix work item of a cluster (R278 to R283, R285 to R290): an entry, a drain or a zero, with what its acceptance read,
the ranges it reads and writes, and how far it has come. `placed` is its place among placements, a resumption's included; `state` is that of Table 12·4; `record` is a drain's record; `first`
says that the arbiter serves the entry first; `cancels` are the events of mcancel that wait for it. -/
structure Work where
  kind : WorkKind
  team : Nat
  cluster : Nat
  gid : Nat := 0
  core : Nat := 0
  prio : Nat := 0
  ticket : Nat := 0
  members : List Member := []
  sparse : Bool := false
  fmt : Word := 0
  base : Nat := 0
  k : Nat := 0
  ibase : Nat := 0
  sbase : Nat := 0
  caddr : Nat := 0
  cstride : Nat := 0
  status : Nat := 0
  record : Nat := 0
  dst : HandleBits := 0
  amaxH : HandleBits := 0
  event : Option Nat := none
  state : Nat := 0
  done : Nat := 0
  corr : Nat := 0
  unchk : Nat := 0
  crow : Nat := 0
  ccol : Nat := 0
  cblk : Nat := 0
  since : Nat := 0
  placed : Nat := 0
  first : Bool := false
  cancels : List Nat := []
  reads : List Range := []
  writes : List Range := []
  deriving DecidableEq, Repr

/-- A rendezvous latch (R275): its key (a group without a gang has one of its own), the uncommitted clauses of the groups that have
arrived, and once the checks of R276 have passed the operation that awaits an entry. -/
structure Latch where
  team : Nat
  tag : Nat
  arrivals : List Issue := []
  work : Option Work := none
  deriving DecidableEq, Repr

/-- The commands of the engines, and the operations over ranges that last until a later step (R188, R189, R239, R243, R297, R300,
R389). -/
inductive CmdKind where
  | copy
  | migrate
  | preq
  | digest
  | gridDigest
  | publish
  | put
  | get
  | send
  | receive
  | load
  | save
  deriving DecidableEq, Repr

/-- Whether a command is one of the fabric's (R329). -/
def CmdKind.fabric : CmdKind → Bool
  | .put | .get | .send | .receive => true
  | _ => false

/-- An accepted engine command (R297 to R310): who submitted it, its ticket and deferred event, its record and the handles it
names, its operands, its state and progress (Table 13·1), the walk that waits for it, the ranges it
reads and writes, the time until which a migration waits for a frame (R308), and of its status record when it was last written and whether a
change of state is still to be written (R298). -/
structure Command where
  kind : CmdKind
  ctx : Nat
  team : Nat
  gid : Nat := 0
  core : Nat := 0
  lane : Nat := 0
  event : Option Nat := none
  ticket : Nat := 0
  words : List Nat := []
  handles : List HandleBits := []
  n : List Nat := []
  state : Nat := 0
  code : Nat := 0
  progress : Nat := 0
  fault : Option FaultRec := none
  walk : Option (Nat × Nat) := none
  reads : List Range := []
  writes : List Range := []
  since : Nat := 0
  frameWait : Option Nat := none
  noted : Nat := 0
  owed : Bool := false
  moving : Option (Nat × Bool) := none
  begun : Bool := false
  deriving DecidableEq, Repr

/-! ### The fabric (R315 to R343) -/

/-- What a message is for (R225, R327, R332, R337, R355, R403). -/
inductive MsgRole where
  | coherence
  | notice
  | put
  | getReq
  | getData
  | send
  | marker
  | report
  | contribution
  | result
  deriving DecidableEq, Repr

/-- A message of this module (R315): its channel's peer and class, what it is for, the kind and info of its fragments' headers,
its payload, the command it carries out, the combine round it belongs to, and the snapshot epoch of a marker or report. -/
structure Msg where
  chip : Nat
  cls : Nat
  role : MsgRole
  kind : Nat := 0
  info : Nat := 0
  payload : List Byte := []
  cmd : Option Nat := none
  round : Option (Nat × Nat) := none
  epoch : Nat := 0
  deriving DecidableEq, Repr

/-- A message kept until it is acknowledged (R323, R326, R327): its code rate, the attempt of each stripe with the time it
left, the acknowledgement and busy waits in force at its injection (R385), the time until which a busy reply holds it, when it was lost the time of its last loss notice, whether it has been
acknowledged while the status record of its command must still be written, the fault that its delivery met, and the fragments, by stripe and
index, that the buffer has lost (R423). -/
structure Kept where
  msg : Msg
  k : Nat
  m : Nat
  gens : List Nat
  sent : List Nat
  ackWait : Nat := 0
  busyWait : Nat := 0
  busy : Option Nat := none
  notice : Option Nat := none
  acked : Bool := false
  fault : Option FaultCode := none
  dropped : List (Nat × Nat) := []
  deriving DecidableEq, Repr

/-- A stripe at the receiver (R324, Table 14·4): its data fragment count, the fragments held by index, the attempts seen, when
the latest attempt's first fragment came, and whether its deadline runs. -/
structure StripeRx where
  ks : Nat
  frags : SMap (List Byte) := []
  gens : List Nat := []
  since : Nat := 0
  timed : Bool := true
  done : Bool := false
  deriving DecidableEq, Repr

/-- A message in a decode slot (R323): its first header, its stripes, and the deadline and filter time in force when it came (R385). -/
structure Slot where
  header : BitVec 256
  stripes : SMap StripeRx := []
  deadline : Nat := 0
  dispose : Nat := 0
  deriving DecidableEq, Repr

/-- An incoming channel (R322, R325): the next seq to deliver, the seqs declared lost and not yet passed, those of them that were half of
a grain's data, the time from which an acknowledgement is owed, and the faults that delivered puts have met, by seq. -/
structure RecvChan where
  next : Nat := 0
  lost : List Nat := []
  lostHalves : List Nat := []
  owed : Option Nat := none
  faults : SMap Nat := []
  deriving DecidableEq, Repr

/-- The place of a lost send in the matching order (R327): its source, class, seq, and its tag when a fragment showed it. -/
structure LostSend where
  src : Nat
  cls : Nat
  seq : Nat
  tag : Option Nat
  deriving DecidableEq, Repr

/-- A member's contribution to a round (R336, R338): its data or the fault its source met, the event that lands when the source has been
read while it has not, its context, team, group and clause, whether that lies in the handler, the core it was posted from, its post record and the handles of its source and
destination. -/
structure Contribution where
  data : List Byte := []
  fail : Option FaultCode := none
  reading : Option Nat := none
  ctx : Nat := 0
  team : Nat := 0
  gid : Nat := 0
  core : Nat := 0
  pc : BitVec 52 := 0
  idx : Nat := 0
  bundle : Lanes := 0
  inHandler : Bool := false
  walk : Option (Nat × Nat) := none
  words : List Nat := []
  src : HandleBits := 0
  dst : HandleBits := 0
  deriving DecidableEq, Repr

/-- An open round of a combine context (R337, R338): the contributions of its members and children, its failure, whether the
folded value or the failure has been sent up, the result once it is here, what its publication then claims (the number that later commands
exceed, and the ranges by context), and the stage of the publication with its pages once it has been written (1 shot down, 2 flipped). -/
structure Round where
  locals : SMap Contribution := []
  childs : SMap (List Byte) := []
  fail : Option FaultCode := none
  up : Bool := false
  result : Option (List Byte) := none
  claim : Option (Nat × List (Nat × Range)) := none
  pages : Option (List Nat) := none
  deriving DecidableEq, Repr

/-- A configured combine context (R335, R336, R340): the context whose cinit configured it, the fields of Table 14·6, each member's count of posts, the open rounds, and
the rounds that have ended with the failure of each (none when published). -/
structure Combine where
  owner : Nat := 0
  op : Nat
  ty : Nat
  nlocal : Nat
  count : Nat
  d : Nat
  parent : Nat
  root : Bool
  childs : List Nat
  dtag : Nat
  posts : SMap Nat := []
  rounds : SMap Round := []
  ended : SMap (Option FaultCode) := []
  deriving DecidableEq, Repr

/-- A step notice received (R403): the chip that sent it, the step tag, the step, and for classes 2 to 5 the seq it names; one that was
lost names none. -/
structure StepNotice where
  chip : Nat
  stag : Nat
  n : Nat
  seqs : List Nat
  deriving DecidableEq, Repr

/-! ### Saved state -/

/-- What a context image or the private records of a snapshot hold (R348, R381, R387): contexts, teams, groups, grids, matrix
work and commands with their deferred events, parked accesses, combine contexts, sides of publishable pages, the send and delivery
counters of the channels, the lost sends, the markers' seqs, and the messages logged with their headers. -/
structure Saved where
  ctxs : SMap Ctx := []
  teams : SMap Team := []
  groups : SMap Group := []
  grids : SMap Grid := []
  works : SMap Work := []
  commands : SMap Command := []
  deferred : SMap Deferred := []
  combines : SMap Combine := []
  sides : List Nat := []
  sendSeq : SMap Nat := []
  recv : SMap RecvChan := []
  accesses : List Access := []
  lostSends : List LostSend := []
  markers : SMap Nat := []
  replay : List (Nat × Nat × BitVec 256 × List Byte) := []
  wsMask : SMap (BitVec 512) := []
  deriving DecidableEq, Repr, Inhabited

end Sys2Proof.Machine

namespace Sys2Proof

/-- FREE VALUE. What the body of a context image that this module did not write stands for: its layout is private to parts of the major
version (R387, notes/assumptions/56). -/
opaque Config.imageSaved : List Byte → Machine.Saved

/-- FREE VALUE. The records that the lakes of other chips hold when a snapshot is restored (R361, notes/assumptions/121). -/
opaque Config.lakesElsewhere : Nat → List Machine.LakeRec

/-- FREE VALUE. What the private records of a snapshot that other modules took stand for when it is restored here (R358, R361,
notes/assumptions/121). -/
opaque Config.lakeSaved : Nat → Machine.Saved

end Sys2Proof

namespace Sys2Proof.Machine

/-- A record of the management controller's error log (R431, Table 19·4), its stamp included. -/
structure LogRec where
  stamp : Word
  ty : Nat
  unit : Nat
  addr : Nat
  deriving DecidableEq, Repr

/-- What the module sends out of itself, in the order in which it does (R225, R373, R403, R417, R420, R433). -/
inductive Out where
  /-- A read of host memory. -/
  | hostRead (id addr size : Nat)
  /-- A write of host memory; `ro` is the Relaxed Ordering attribute. -/
  | hostWrite (id addr : Nat) (data : List Byte) (ro : Bool)
  /-- A back-invalidate snoop of a grain that the host may cache (R415). -/
  | backInvalidate (id addr : Nat)
  /-- A PCIe AtomicOp. -/
  | hostAtomic (id addr sub size : Nat) (x : List Nat)
  /-- An MSI-X vector. -/
  | msix (vector : Nat)
  /-- A fragment on a port toward a physical chip. -/
  | fragment (port chip : Nat) (header : BitVec 256) (payload : List Byte)
  /-- A notice of the fabric, a step domain, a combine context or a snapshot, to another chip. -/
  | notice (chip : Nat) (kind : String) (args : List Nat)
  /-- A host read of window W2 answered. -/
  | w2Data (addr : Nat) (data : List Byte)
  /-- A response of the management controller. -/
  | management (data : List Byte)
  deriving DecidableEq, Repr

/-- An SFU queue entry (R161): the deferred event it serves, and whether it has started. -/
structure SfuEntry where
  event : Nat
  started : Bool := false
  deriving DecidableEq, Repr

/-! ### The machine -/

/-- The Kwawyn module. -/
structure State where
  /-- MCLK since module reset (CLOCK, R84). -/
  clock : Nat := 0
  /-- The number of free values drawn: the model's own (notes/assumptions/5). -/
  freeCtr : Nat := 0
  /-- The next identity of a group, team, grid, access, event or command: the model's own. -/
  nextId : Nat := 0
  /-- Events to come, each with the MCLK that pass before it: the outside world's, and the units' next steps (notes/assumptions/1). -/
  agenda : List (Nat × Instr) := []
  /-- The clauses in issue slots, the one served first at the head (R71). -/
  issuing : List Issue := []
  /-- The groups (R17, R65). -/
  groups : SMap Group := []
  /-- The teams (R17, R88, R179). -/
  teams : SMap Team := []
  /-- The grids (R17, R399). -/
  grids : SMap Grid := []
  /-- The contexts (R378). -/
  ctxs : SMap Ctx := []
  /-- The configuration registers that have left their reset value (R384). -/
  cfg : SMap Word := []
  /-- FLAGEV_NV to FLAGEV_NX of each core (R142). -/
  flagev : SMap Word := []
  /-- The SFU queue of each core (R161). -/
  sfu : SMap (List SfuEntry) := []
  /-- The deferred events (R31). -/
  deferred : SMap Deferred := []
  /-- The accesses not yet performed, in the order of their commits (R218). -/
  accesses : List Access := []
  /-- Device memory (R169, R222), addresses rising, no zero byte listed. -/
  mem : List Host.Cell := []
  /-- The grain tags that are not zero (R222). -/
  tags : SMap (BitVec 64) := []
  /-- The masks of bytes written of claimed write-once grains (R234). -/
  wsMask : SMap (BitVec 512) := []
  /-- How this chip holds grains of other homes (R225). -/
  held : SMap HeldState := []
  /-- The grains for which a request to another home is out, and whether for writing. -/
  requested : SMap Bool := []
  /-- The grains asked for whose Invalidate has come before their data (R225). -/
  overtaken : List Nat := []
  /-- The owned grains that the L2 has offered back to their homes (R226). -/
  putting : List Nat := []
  /-- The stamps of sectors in L2 (R229). -/
  sectors : SMap Sector := []
  /-- The lines of the cluster caches (R177, R229). -/
  lines : SMap Line := []
  /-- LTS of the clusters whose clock differs from the rest (R229). -/
  lts : SMap Nat := []
  /-- LTS of every other cluster (R229). -/
  ltsBase : Nat := 0
  /-- The module's stamp floor (R230). -/
  floor : Nat := 0
  /-- The era bit (R231). -/
  era : Bool := false
  /-- LEASE_TICKS, REBASE_AT and LTS_PERIOD as in force since the last rebase (R385). -/
  effectiveCfg : SMap Word := []
  /-- The first-level TLBs, newest entry first (R172). -/
  coreTlb : SMap (List TlbEntry) := []
  /-- The second-level TLBs (R172). -/
  clusterTlb : SMap (List TlbEntry) := []
  /-- The publishable pages whose current side is 1 (R299). -/
  sides : List Nat := []
  /-- The pages in transition, by their first 4 KiB (R236, R300, R307). -/
  pageOps : SMap PageOp := []
  /-- The replicas of the pages homed here, by the page's first 4 KiB: its size and the chips that hold one (R232). -/
  replicas : SMap (Nat × List Nat) := []
  /-- The pages of other homes of which this chip holds a replica that its home has listed: their sizes (R232). -/
  replicaHere : SMap Nat := []
  /-- The pages being copied to a new replica (R244). -/
  replicaCopies : List ReplicaCopy := []
  /-- The stores to replicated grains in progress (R233). -/
  replicaStores : SMap ReplicaStore := []
  /-- The home's transactions, one to a grain (R225). -/
  txns : SMap Txn := []
  /-- The requests that wait for a grain at its home (R225). -/
  waitingReqs : SMap (List HomeReq) := []
  /-- The operations that other chips have asked of this home and that it has not yet performed, in arrival order (R233, R234, R250). -/
  remoteOps : List RemoteOp := []
  /-- The first of the two messages that carry a grain's data, delivered before the second, by channel: the grain's address and bytes, or
  an address past device memory when it was lost (R225). -/
  halves : SMap (Nat × List Byte) := []
  /-- The IP grains whose new owner here has not accessed them since the grant (R208). -/
  granted : List Nat := []
  /-- The grains of SYSTEM reach whose host copies a back-invalidate has been sent for: whether it has been answered (R415). -/
  hostClean : SMap Bool := []
  /-- The private grains of this home that the host's next access finds without a copy at their owner's chip (R415). -/
  recalled : List Nat := []
  /-- The grains that POISON_CLEAR is to clear, by address, oldest first (R424, Table 19·3). -/
  clearing : List Nat := []
  /-- The sectors that each cluster's instruction cache holds, newest first (R11). -/
  icache : SMap (List Nat) := []
  /-- The grains that cluster atomic engines hold (R252). -/
  engineGrains : SMap EngineGrain := []
  /-- ATOMEV_NV to ATOMEV_NX (R258). -/
  atomev : SMap Word := []
  /-- The logical chip number (CHIP, R320). -/
  chip : Nat := 0
  /-- SNAP_EPOCH (R346). -/
  epoch : Nat := 1
  /-- The two snapshot colours (R346). -/
  snaps : SMap Snap := []
  /-- Messages of a newer epoch, kept until it is recorded (R352). -/
  heldMsgs : List Instr := []
  /-- The host lines that X-die 0 holds (R417). -/
  hostLines : SMap (List Byte) := []
  /-- Host lines read for an engine or a reading clause, by `Machine.engHostKey`; none of a line that the host refused (R304). -/
  engLines : SMap (Option (List Byte)) := []
  /-- Host lines asked for on an engine's or a reading clause's behalf, by `Machine.engHostKey`. -/
  engAsked : List Nat := []
  /-- What other homes have answered to engines' stores: the fault's code or 0, by `Machine.engStoreKey` (R234, R298). -/
  engAnswers : SMap Nat := []
  /-- Since when, and for how long, an engine's read waits for a write-once grain (R207). -/
  readWaits : SMap (Nat × Nat) := []
  /-- Posted host stores whose status is not known (R417). -/
  posted : List Access := []
  /-- Matrix work items (R278). -/
  works : SMap Work := []
  /-- The rendezvous latches of each cluster (R275). -/
  latches : SMap (List Latch) := []
  /-- The clauses that wait for a latch (R275). -/
  latchWaits : SMap (List Issue) := []
  /-- The checksum that mcks reads, of each cluster (R294). -/
  mcks : SMap Word := []
  /-- The armed matrix test error of each cluster, with the event that waits for it (R390). -/
  injMat : SMap (Nat × Nat) := []
  /-- The engine commands (R297). -/
  commands : SMap Command := []
  /-- The messages not yet injected, by channel (R315, R333). -/
  sendQ : SMap (List Msg) := []
  /-- The next seq of each outgoing channel (R325). -/
  sendSeq : SMap Nat := []
  /-- The messages kept for resending (R326). -/
  kept : SMap Kept := []
  /-- The incoming channels (R325). -/
  recv : SMap RecvChan := []
  /-- The decode slots (R323). -/
  slots : SMap Slot := []
  /-- The completed-message filter, with the time of each entry (R325). -/
  filter : SMap Nat := []
  /-- The places of lost sends in the matching order (R327). -/
  lostSends : List LostSend := []
  /-- The fabric counters (R342). -/
  fabCount : SMap Word := []
  /-- The path table (R319). -/
  path : SMap Word := []
  /-- The placement table (R320). -/
  place : SMap (BitVec 32) := []
  /-- The configured combine contexts (R335). -/
  combines : SMap Combine := []
  /-- The armed fragment test error: chip, class, route, event (R390). -/
  injFrag : Option (Nat × Nat × Nat × Nat) := none
  /-- The step notices not yet used (R403). -/
  stepNotices : List StepNotice := []
  /-- The last use of each page frame (R308). -/
  pageUse : SMap Nat := []
  /-- The tier memory's bytes (R307). -/
  tier : SMap Byte := []
  /-- The tags of grains in tier frames (R307). -/
  tierTags : SMap (BitVec 64) := []
  /-- What the image bodies that ctxsave wrote stand for (R387, notes/assumptions/56). -/
  images : SMap Saved := []
  /-- What the private records of a snapshot stand for (R358, notes/assumptions/56). -/
  snapSaved : SMap Saved := []
  /-- The VF grants (R414). -/
  grants : SMap Word := []
  /-- The times of corrections in each L2 way (R426). -/
  wayFaults : SMap (List Nat) := []
  /-- The L2 ways disabled (R426). -/
  waysOff : List Nat := []
  /-- The L2 slices retired (R427). -/
  slicesOff : List Nat := []
  /-- The management controller's error log (R431). -/
  errorLog : List LogRec := []
  /-- The records that the log has overwritten (R431). -/
  logLost : Nat := 0
  /-- The firmware's security version (R432). -/
  fwVersion : Nat := 0
  /-- Whether the module booted from recovery (R432). -/
  recovery : Bool := false
  /-- Whether a thermal trip holds the module in reset (R430). -/
  inReset : Bool := false
  /-- The level of power gating in force (R15). -/
  gate : Nat := 0
  /-- What the module has sent out of itself, in order. -/
  outbox : List Out := []
  deriving DecidableEq, Repr

/-- The module right after reset. -/
def State.reset : State := {}

end Sys2Proof.Machine
end

