-- ==== Sys2Proof/Machine/Ops.lean ====
section
/-!
DEFINITION. The named operations over the state: groups, threads, special values of a context record, bundles, the clause
in a slot and the effects it holds back, raising a fault, taking one and returning from one.
-/

namespace Sys2Proof.Machine

/-- The outcome of one step of this machine. -/
abbrev Result := Host.Outcome State Fault Refusal

/-! ### Access to groups, threads, teams and contexts -/

/-- A group that is not there: no team, no threads. -/
def noGroup : Group := { team := 0, resident := false, retired := true }

/-- A group by its number. -/
def State.group (s : State) (gid : Nat) : Group := s.groups.get gid noGroup

/-- Replaces a group. -/
def State.setGroup (s : State) (gid : Nat) (g : Group) : State := { s with groups := s.groups.insert gid g }

/-- Changes a group that is there. -/
def State.modGroup (s : State) (gid : Nat) (f : Group → Group) : State := { s with groups := s.groups.modify gid f }

/-- A team by its number. -/
def State.team (s : State) (tid : Nat) : Team := s.teams.get tid { ctx := 0, grid := 0, status := .retired }

/-- Changes a team that is there. -/
def State.modTeam (s : State) (tid : Nat) (f : Team → Team) : State := { s with teams := s.teams.modify tid f }

/-- A grid by its number. -/
def State.grid (s : State) (gr : Nat) : Grid := s.grids.get gr { ctx := 0 }

/-- Changes a grid that is there. -/
def State.modGrid (s : State) (gr : Nat) (f : Grid → Grid) : State := { s with grids := s.grids.modify gr f }

/-- A context by its number; one that was never touched is free. -/
def State.ctx (s : State) (c : Nat) : Ctx := s.ctxs.get c {}

/-- Replaces a context. -/
def State.setCtx (s : State) (c : Nat) (x : Ctx) : State := { s with ctxs := s.ctxs.insert c x }

/-- Changes a context. -/
def State.modCtx (s : State) (c : Nat) (f : Ctx → Ctx) : State := s.setCtx c (f (s.ctx c))

/-- The team of a group. -/
def State.teamOf (s : State) (gid : Nat) : Team := s.team (s.group gid).team

/-- The context number of a group. -/
def State.ctxOf (s : State) (gid : Nat) : Nat := (s.teamOf gid).ctx

/-- The grid of a group. -/
def State.gridOf (s : State) (gid : Nat) : Grid := s.grid (s.teamOf gid).grid

/-- The cluster of a group (four cores to a cluster, R11). -/
def Group.cluster (g : Group) : Nat := g.core / 4

/-- The thread of a lane. -/
def Group.thread (g : Group) (l : Nat) : Thread := g.threads.getD l { status := .exited }

/-- Changes the threads of some lanes. -/
def Group.modThreads (g : Group) (lanes : Lanes) (f : Nat → Thread → Thread) : Group :=
  { g with threads := g.threads.zipIdx.map fun p => if lanes.has p.2 then f p.2 p.1 else p.1 }

/-- Writes a v register in some lanes. -/
def Group.writeV (g : Group) (r : Nat) (lanes : Lanes) (x : LaneVals) : Group :=
  g.modThreads lanes fun l t => { t with v := t.v.put r (x.at l) 0 }

/-- Writes a k register in some lanes: the low 16 bits of each value. -/
def Group.writeK (g : Group) (r : Nat) (lanes : Lanes) (x : LaneVals) : Group :=
  g.modThreads lanes fun l t => { t with k := t.k.put r ((x.at l).truncate 16) 0 }

/-- ORs flags into FLAGS in some lanes (R141). -/
def Group.orFlags (g : Group) (lanes : Lanes) (x : LaneVals) : Group :=
  g.modThreads lanes fun l t => { t with flags := t.flags ||| (x.at l).truncate 5 }

/-- A thread begins a wait (R73), beside any that its clause has begun already. -/
def Thread.block (t : Thread) (w : Wait) : Thread :=
  match t.status with
  | .exited => t
  | .blocked ws => { t with status := .blocked (ws ++ [w]) }
  | _ => { t with status := .blocked [w] }

/-- The waits of a thread that satisfy a test end (R73): it is ready once none is left. A wait that a trap has suspended, or
whose thread is held, ends likewise. -/
def Thread.endWait (t : Thread) (p : Wait → Bool) : Thread :=
  match t.status with
  | .blocked ws =>
    let r := ws.filter fun w => !p w
    { t with status := if r.isEmpty then .ready else .blocked r, suspended := t.suspended.filter fun w => !p w }
  | .held ws => { t with status := .held (ws.filter fun w => !p w) }
  | _ => { t with suspended := t.suspended.filter fun w => !p w }

/-- Whether a thread is blocked in a wait that satisfies a test. -/
def Thread.waitsIn (t : Thread) (p : Wait → Bool) : Bool :=
  match t.status with
  | .blocked ws => ws.any p
  | _ => false

/-- The lanes whose threads have exited. -/
def Group.exitedLanes (g : Group) : Lanes := Lanes.of fun l => (g.thread l).status == .exited

/-- A fresh free value, and the state with the counter advanced. -/
def State.fresh (s : State) : Word × State := (Config.freeWord s.freeCtr, { s with freeCtr := s.freeCtr + 1 })

/-- Sends something out of the module. -/
def State.send (s : State) (o : Out) : State := { s with outbox := s.outbox ++ [o] }

/-! ### The context record (Table 16·4) -/

/-- Bits [hi:lo] of a context record. -/
def recBits (r : BitVec 1024) (hi lo : Nat) : Nat := bits r.toNat hi lo

/-- The context's own ASID. -/
def Ctx.asid (c : Ctx) : Nat := recBits c.record 9 0
/-- System privilege. -/
def Ctx.sys (c : Ctx) : Bool := c.record.getLsbD 10
/-- Member of the snapshot domain. -/
def Ctx.snapmem (c : Ctx) : Bool := c.record.getLsbD 11
/-- Breakpoints halt. -/
def Ctx.debug (c : Ctx) : Bool := c.record.getLsbD 12
/-- The handler mask. -/
def Ctx.hmask (c : Ctx) : Nat := recBits c.record 28 13
/-- The MSI-X vector for kills and halts. -/
def Ctx.msix (c : Ctx) : Nat := recBits c.record 39 29
/-- The physical address of the own ASID's level 0 table. -/
def Ctx.table0 (c : Ctx) : Nat := recBits c.record 115 77 * 8192
/-- The handler base; 0 when there is none. -/
def Ctx.handler (c : Ctx) : BitVec 52 := BitVec.ofNat 52 (recBits c.record 435 384)
/-- SEAL_KEY (R191). -/
def Ctx.sealKey (c : Ctx) : Nat := recBits c.record 575 512
/-- The host physical address of the fault record. -/
def Ctx.faultArea (c : Ctx) : Nat := recBits c.record 627 576
/-- The host physical address of the event area. -/
def Ctx.eventArea (c : Ctx) : Nat := recBits c.record 691 640
/-- The device address of the team save area. -/
def Ctx.saveArea (c : Ctx) : Nat := recBits c.record 755 704
/-- The device address of the HBM frame pool. -/
def Ctx.hbmPool (c : Ctx) : Nat := recBits c.record 819 768
/-- The device address of the tier frame pool. -/
def Ctx.tierPool (c : Ctx) : Nat := recBits c.record 883 832

/-- The ASIDs of the context's set with their level 0 tables: its own, and the valid shared entries (R167). -/
def Ctx.asidSet (c : Ctx) : List (Nat × Nat) :=
  (c.asid, c.table0) ::
    (List.range 4).filterMap fun i =>
      let e := recBits c.record (191 + 64 * i) (128 + 64 * i)
      if bitAt e 10 then some (bits e 9 0, bits e 51 13 * 8192) else none

/-! ### Bundles (R66 to R69) -/

/-- Whether a thread is ready: not exited, blocked, delayed or held, and in no formed bundle (R66). -/
def Group.isReady (g : Group) (l : Nat) : Bool :=
  (g.thread l).status == .ready && !(g.bundles.any fun b => b.lanes.has l)

/-- One step of the tie-break register (R68). -/
def lfsrStep (x : BitVec 16) : BitVec 16 :=
  let fb := x.getLsbD 15 ^^ x.getLsbD 13 ^^ x.getLsbD 12 ^^ x.getLsbD 10
  (x <<< 1) ||| (if fb then 1 else 0)

/-- The distinct PCs of some lanes, ascending. -/
def Group.pcs (g : Group) (pool : List Nat) : List Nat :=
  (pool.foldl (fun m l => SMap.insert m (g.thread l).pc.toNat ()) ([] : SMap Unit)).map (·.1)

/-- How many lanes of a pool stand at a PC. -/
def Group.countAt (g : Group) (pool : List Nat) (pc : Nat) : Nat :=
  (pool.filter fun l => (g.thread l).pc.toNat == pc).length

/-- frontier(pool): the PC chosen, and whether the skip rule chose it (R67, R69). -/
def Group.frontier (g : Group) (pool : List Nat) : Option (Nat × Bool) :=
  match g.pcs (pool.filter fun l => (g.thread l).skip == 32) with
  | pc :: _ => some (pc, true)
  | [] =>
    match g.pcs pool with
    | pc :: _ => some (pc, false)
    | [] => none

/-- populous(pool, x): the PC other than x with the most threads, ties broken by the LFSR (R67, R68). -/
def Group.populous (g : Group) (pool : List Nat) (x : Option Nat) : Option Nat × Group :=
  let ps := (g.pcs pool).filter fun pc => some pc != x
  let top := ps.foldl (fun n pc => max n (g.countAt pool pc)) 0
  match ps.filter fun pc => g.countAt pool pc == top with
  | [] => (none, g)
  | [pc] => (some pc, g)
  | c =>
    let f := lfsrStep g.lfsr
    (some (c.getD (f.toNat % c.length) 0), { g with lfsr := f })

/-- The bundle of the ready threads at a PC. It follows a yield when one of its threads does (DESIGN CHOICE: the spec does not say
what age a bundle has that joins threads of a yielding bundle and others; notes/assumptions/84). -/
def Group.gather (g : Group) (pool : List Nat) (now : Nat) (pc : Nat) : Bundle :=
  let at' := fun l => pool.contains l && (g.thread l).pc.toNat == pc
  { pc := BitVec.ofNat 52 pc, lanes := Lanes.of at', since := now,
    yielded := (List.range 32).any fun l => at' l && (g.thread l).yielded }

/-- What a boundary leaves of a thread of the pool: its skip count, and its yield once it has joined a bundle (R67, R71). -/
def Thread.passed (t : Thread) (joined : Bool) : Thread :=
  { t with skip := if joined then 0 else min (t.skip + 1) 32, yielded := t.yielded && !joined }

/-- Forms the group's bundles at a clause boundary (R67). `meets` says that the held bundle waits at a cross-lane clause
without a slot; the threads ready at its PC then join it (R113). -/
def Group.form (g : Group) (now : Nat) (meets : Bundle → Bool) : Group :=
  let ready := (List.range 32).filter g.isReady
  match g.bundles with
  | [] =>
    match g.frontier ready with
    | none => g
    | some (p, _) =>
      let first := g.gather ready now p
      let (q, g') :=
        if ready.any fun l => (g.thread l).pc.toNat != p then g.populous ready (some p) else (none, g)
      let bs := match q with
        | some q => if p ≤ q then [first, g'.gather ready now q] else [g'.gather ready now q, first]
        | none => [first]
      let joined := bs.foldl (fun a b => a ||| b.lanes) (0 : Lanes)
      { g' with bundles := bs }.modThreads (Lanes.of fun l => ready.contains l) fun l t => t.passed (joined.has l)
  | [held] =>
    let joins := ready.filter fun l => (g.thread l).pc == held.pc
    let held := if meets held then { held with lanes := held.lanes ||| Lanes.of fun l => joins.contains l } else held
    let pool := ready.filter fun l => (g.thread l).pc != held.pc
    match g.frontier pool with
    | none => { g with bundles := [held] }
    | some (f, skip) =>
      let (p, g') := if skip || decide (f < held.pc.toNat) then (some f, g) else g.populous pool none
      match p with
      | none => { g' with bundles := [held] }
      | some p =>
        let b := g'.gather pool now p
        { g' with bundles := if p < held.pc.toNat then [b, held] else [held, b] }.modThreads
          (Lanes.of fun l => pool.contains l) fun l t => t.passed (b.lanes.has l)
  | _ => g

/-! ### The clause in a slot -/

/-- Runs a meaning on the clause whose instructions are being executed: the first in `issuing`. -/
def State.withIssue (s : State) (k : Issue → State → Result) : Result :=
  match s.issuing with
  | [] => .fault .noClause
  | iss :: _ => k iss s

/-- Replaces the clause being executed. -/
def State.setIssue (s : State) (iss : Issue) : State := { s with issuing := iss :: s.issuing.drop 1 }

/-- The clause being executed waits for something outside itself; others in slots are served first. -/
def State.stall (s : State) : State :=
  match s.issuing with
  | [] => s
  | iss :: r => { s with issuing := r ++ [{ iss with waiting := true }] }

/-- Moves past an instruction of `n` words (R25). -/
def Issue.advance (iss : Issue) (n : Nat) : Issue := { iss with words := iss.words.drop n, idx := iss.idx + 1 }

/-- The latch that an instruction's index selects holds no value afterwards (R29). -/
def Issue.clearLatch (iss : Issue) : Issue := { iss with latches := iss.latches.erase (iss.idx % 8) }

/-- Writes the latch that an instruction's index selects (R29). -/
def Issue.setLatch (iss : Issue) (x : LaneVals) : Issue := { iss with latches := iss.latches.insert (iss.idx % 8) x }

/-- Holds effects back until the clause commits (R26). -/
def Issue.hold (iss : Issue) (es : List Effect) : Issue := { iss with effects := iss.effects ++ es }

/-- Ends an instruction of `n` words that writes no latch and holds back the effects given. -/
def State.finish (s : State) (iss : Issue) (n : Nat) (es : List Effect) : Result :=
  .next (s.setIssue ((iss.clearLatch.hold es).advance n))

/-- Ends an ALU instruction of `n` words: its value goes to its latch, and the effects given are held back (R29). -/
def State.finishAlu (s : State) (iss : Issue) (n : Nat) (x : LaneVals) (es : List Effect) : Result :=
  .next (s.setIssue (((iss.setLatch x).hold es).advance n))

/-- The address after the clause's last word, where the next clause begins (R24). -/
def Issue.nextPc (iss : Issue) : BitVec 52 := iss.pc + 4 * (1 + BitVec.ofNat 52 (bits iss.header.toNat 27 24))

/-- The class of the clause. -/
def Issue.cls (iss : Issue) : Nat := bits iss.header.toNat 23 21
/-- The signal slot of the clause; 7 is none. -/
def Issue.signal (iss : Issue) : Nat := bits iss.header.toNat 14 12
/-- The header's yield bit. -/
def Issue.yields (iss : Issue) : Bool := iss.header.getLsbD 11

/-! ### Readers of host memory (R304) -/

/-- The key under which a reader's host line is kept: a reader sees a line once, as it was when it came for it. -/
def engHostKey (who line : Nat) : Nat := who * 2 ^ 46 + line

/-- A reader has ended: the host lines that came for it go, and the times of its waits. -/
def State.engDone (s : State) (who : Nat) : State :=
  if s.engLines.isEmpty && s.engAsked.isEmpty && s.readWaits.isEmpty then s
  else
    { s with engLines := s.engLines.filter fun p => p.1 / 2 ^ 46 != who, engAsked := s.engAsked.filter fun k => k / 2 ^ 46 != who
             readWaits := s.readWaits.filter fun p => p.1 / 2 ^ 43 != who }

/-- The number of a clause that reads as an engine does. -/
def Issue.reader (iss : Issue) : Nat := 2 ^ 48 + iss.gid * 32 + (Lanes.list iss.lanes).headD 0

/-! ### Faults -/

/-- The lowest lane of a set (0 of the empty set). -/
def lowestLane (x : Lanes) : Nat := (Lanes.list x).headD 0

/-- A precise fault of the clause in the slot, at its current instruction: the clause is discarded for the whole bundle,
whose threads stay at its header, and the fault waits for the group's boundary (R28, R35, R366). -/
def State.raise (s : State) (iss : Issue) (code : FaultCode) (lanes : Lanes) (va : Nat := 0) (aux : Word := 0) : State :=
  let f : FaultRec :=
    { code := code, pc := iss.pc, index := iss.idx, lane := lowestLane lanes, lanes := lanes, va := va, aux := aux,
      bundle := iss.lanes, inHandler := iss.before.inHandler }
  ({ s with issuing := s.issuing.drop 1 }.engDone iss.reader).modGroup iss.gid fun g =>
    { g with precise := g.precise ++ [f], bundles := g.bundles.filter fun b => b.pc != iss.pc }

/-- Ends an instruction with a precise fault in the lanes given. -/
def State.faults (s : State) (iss : Issue) (code : FaultCode) (lanes : Lanes) (va : Nat := 0) : Result :=
  .next (s.raise iss code lanes va)

/-- The lowest lane's code among per-lane failures, with every lane that failed with that code (R48). -/
def firstFailure (fs : List (Nat × FaultCode × Nat)) : Option (FaultCode × Lanes × Nat) :=
  match fs with
  | [] => none
  | (_, c, va) :: _ => some (c, Lanes.of (fun l => fs.any fun f => f.1 == l && f.2.1 == c), va)

/-- Puts a fault among those that landed in the same ACLK: by ascending clause address (R366). -/
def FaultRec.joins (f : FaultRec) : List FaultRec → List FaultRec
  | [] => [f]
  | g :: gs => if f.pc.toNat < g.pc.toNat then f :: g :: gs else g :: f.joins gs

/-- A deferred fault lands now in a group's queue (R366). -/
def Group.enqueueFault (g : Group) (now : Nat) (f : FaultRec) : Group :=
  let n := if g.landedAt == now then min g.landedNow g.queue.length else 0
  let old := g.queue.length - n
  { g with queue := g.queue.take old ++ f.joins (g.queue.drop old), landedAt := now, landedNow := n + 1 }

/-- Queues a deferred fault for a group; a ninth kills the context with cause 2 (R34, R366). -/
def State.queueFault (s : State) (gid : Nat) (f : FaultRec) : State :=
  if (s.group gid).queue.length < 8 then s.modGroup gid fun g => g.enqueueFault s.clock f
  else s.modCtx (s.ctxOf gid) fun c =>
    { c with kills := c.kills ++ [{ code := f.code, cause := 2, gid := some gid, fault := some f }] }

/-- Asks for a context to be killed (R373). -/
def State.askKill (s : State) (c : Nat) (k : KillReq) : State := s.modCtx c fun x => { x with kills := x.kills ++ [k] }

/-! ### Taking a fault and returning (R366 to R372) -/

/-- The word FAULTINFO holds for a fault (Table 16·1). -/
def FaultRec.info (f : FaultRec) (pending : Bool) : Word :=
  BitVec.ofNat 64 (f.code.num + f.index * 2 ^ 8 + (if f.deferred then 2 ^ 12 else 0) + (if pending then 2 ^ 13 else 0) +
    f.lane * 2 ^ 14 + f.operand * 2 ^ 19 + f.lanes.toNat * 2 ^ 32)

/-- The queued faults that count now: all of them outside the handler; inside it those whose clause lies in it, the rest
waiting for tret (R371). -/
def Group.due (g : Group) : List FaultRec := if g.inHandler then g.queue.filter (·.inHandler) else g.queue

/-- Whether the group has a fault to take before it issues again (R366). -/
def Group.mustTake (g : Group) : Bool := g.taking.isSome || !g.precise.isEmpty || !g.due.isEmpty

/-- The fault a group takes next at its boundary: a queued one first, then a precise fault of the primary bundle, then of
the secondary (R366). A primary bundle is the one with the lower PC. -/
def Group.nextFault (g : Group) : Option FaultRec :=
  match g.due with
  | f :: _ => some f
  | [] =>
    match g.precise with
    | [] => none
    | [f] => some f
    | f :: f' :: _ => some (if f.pc.toNat ≤ f'.pc.toNat then f else f')

/-- The fault that a group takes: the one in taking, or else the next, which leaves the queue; a precise fault that is not taken is dropped
(R366). -/
def Group.choose (g : Group) : Option (FaultRec × Group) :=
  (g.taking.or g.nextFault).map fun f => (f, { g with
    taking := some f
    queue := if g.taking.isNone then g.queue.erase f else g.queue
    precise := [] })

/-- Whether a context handles a fault of a group: it has a handler, the mask covers the code's range, and the group is not
in its handler already (R367). -/
def Ctx.handles (c : Ctx) (g : Group) (f : FaultRec) : Bool :=
  c.handler != 0 && bitAt c.hmask (f.code.num / 8) && !g.inHandler

/-- The threads that run the handler (R368): of a precise fault, its bundle; of a deferred fault, trap or breakpoint, the
threads of the originating bundle that have not exited, or all of them when every one has; of GRID_STARVE, every thread
that has not exited. -/
def Group.activeFor (g : Group) (f : FaultRec) : Lanes :=
  let ex := g.exitedLanes
  if f.code == .gridStarve then ~~~ex
  else if !f.deferred then f.bundle
  else if f.bundle &&& ~~~ex == 0 then f.bundle
  else f.bundle &&& ~~~ex

/-- A thread entering the handler (R368 steps 3 and 6). -/
def Thread.enterHandler (t : Thread) (resume handler : BitVec 52) : Thread :=
  { t with
    epc := resume
    pc := handler
    fromExit := t.status == .exited
    suspended := match t.status with
      | .blocked ws => ws
      | _ => []
    status := .ready }

/-- A thread held while others of its group run the handler (R368 step 5). -/
def Thread.hold (t : Thread) : Thread :=
  match t.status with
  | .exited => t
  | .blocked ws => { t with status := .held ws }
  | .delayed n => { t with status := .heldDelayed n }
  | _ => { t with status := .held [] }

/-- A group entering its handler for a fault: the one operation of taking an exception (R368). -/
def Group.takeFault (g : Group) (f : FaultRec) (handler : BitVec 52) : Group :=
  let active := g.activeFor f
  let pending := !g.queue.isEmpty
  { g with
    taking := none
    precise := []
    bundles := []
    faultInfo := f.info pending
    faultAddr := f.pc
    faultVa := BitVec.ofNat 52 f.va
    faultAux := f.aux
    inHandler := true
    handlerLanes := active
    handlerCode := f.code.num
    threads := g.threads.zipIdx.map fun p =>
      if active.has p.2 then p.1.enterHandler (if f.deferred then p.1.pc else f.pc) handler else p.1.hold }

/-- A thread's tret: it goes to its target and waits for the rest of the handler's threads; one that ran the handler from
the exited state returns to it (R372). Only a resume at EPC keeps the suspended wait. -/
def Thread.tret (t : Thread) (target : BitVec 52) (atEpc : Bool) : Thread :=
  if t.fromExit then { t with status := .exited, fromExit := false, suspended := [] }
  else { t with pc := target, status := .returned, suspended := if atEpc then t.suspended else [] }

/-- A thread released when the group leaves its handler. -/
def Thread.release (t : Thread) : Thread :=
  match t.status with
  | .returned =>
    if t.suspended.isEmpty then { t with status := .ready }
    else { t with status := .blocked t.suspended, suspended := [] }
  | .held ws => { t with status := if ws.isEmpty then .ready else .blocked ws }
  | .heldDelayed n => { t with status := .delayed n }
  | _ => t

/-- Leaves the handler when every active thread has executed tret or exited (R372). -/
def Group.leaveHandler (g : Group) : Group :=
  let waiting := (Lanes.list g.handlerLanes).any fun l =>
    (g.thread l).status != .returned && (g.thread l).status != .exited
  if !g.inHandler || waiting then g
  else { g with inHandler := false, handlerLanes := 0, bundles := [], threads := g.threads.map Thread.release }

end Sys2Proof.Machine
end

