-- ==== Sys2Proof/Machine/Operands.lean ====
section
/-!
DEFINITION. Element layouts and every operand form: v and g registers, bypass latches, constants, literals, uniform
operands, guards (R42, R43, R46, R76, R94, R182), read as they stood before the clause (R26).
-/

namespace Sys2Proof.Machine

/-- An element layout: n sub-elements of w bits, and the floating-point format when it is not an integer one. -/
structure Layout where
  n : Nat
  w : Nat
  fmt : Option FpFmt := none
  deriving DecidableEq, Repr

/-- The integer layouts of Table 2·9. -/
def intLayout (t : Nat) : Layout :=
  match t with
  | 0 => { n := 16, w := 4 }
  | 1 => { n := 8, w := 8 }
  | 2 => { n := 4, w := 16 }
  | 3 => { n := 2, w := 32 }
  | 4 => { n := 1, w := 32 }
  | _ => { n := 1, w := 64 }

/-- The floating-point format of a code of Table 2·10. -/
def fmtOfCode (t : Nat) : FpFmt :=
  match t with
  | 0 | 1 => fp32
  | 2 => fp16
  | 3 => bf16
  | 4 => e5m2
  | 5 => e4m3
  | _ => e2m1

/-- The floating-point layouts of Table 2·10. -/
def floatLayout (t : Nat) : Layout :=
  let F := fmtOfCode t
  { n := if t == 0 then 1 else 64 / F.w, w := F.w, fmt := some F }

/-- Sub-element i of a register (R94). -/
def Layout.sub (L : Layout) (x : Word) (i : Nat) : Nat := (x.toNat / 2 ^ (L.w * i)) % 2 ^ L.w

/-- A register from its sub-elements; bits above the last are zero, as [63:32] under a single 32-bit layout (R94). -/
def Layout.join (L : Layout) (f : Nat → Nat) : Word :=
  BitVec.ofNat 64 ((List.range L.n).foldl (fun a i => a + (f i % 2 ^ L.w) * 2 ^ (L.w * i)) 0)

/-- The value of a constant code 120 to 126 in one sub-element (Table 2·6a). -/
def Layout.const (L : Layout) (c : Nat) (lane : Nat) : Nat :=
  match L.fmt with
  | none =>
    match c with
    | 120 => 0
    | 121 => 1
    | 122 | 125 => 2 ^ L.w - 1
    | 123 => 2
    | 126 => lane % 2 ^ L.w
    | _ => 0
  | some F =>
    match c with
    | 120 => 0
    | 121 => (F.round .rne false false 1 0 false).bits
    | 122 => (F.round .rne false true 1 0 false).bits
    | 123 => (F.round .rne false false 1 1 false).bits
    | 124 => (F.round .rne false false 1 (-1) false).bits
    | 125 => 2 ^ L.w - 1
    | 126 => (F.round .rne false false lane 0 false).bits
    | _ => 0

/-- The expansion of a literal word by a layout (R43). -/
def Layout.literal (L : Layout) (lit : IWord) : Word :=
  if L.w == 64 then lit.signExtend 64 else L.join fun _ => lit.toNat % 2 ^ L.w

/-- The literal word of an operand field: the k-th of the instruction's, 0 when there is none. -/
def litAt (ls : Lits) (k : Nat) : IWord := ls.getD k 0

/-- How many of some operand fields hold code 127: the place of the next field's literal (R25). -/
def litsIn (cs : List (BitVec 7)) : Nat := (cs.filter fun c => c == 127).length

/-- A v register of a lane of the clause's group, as it stood before the clause (R26). -/
def Issue.vreg (iss : Issue) (r lane : Nat) : Word := (iss.before.thread lane).v.get r 0

/-- A k register of a lane, as it stood before the clause. -/
def Issue.kreg (iss : Issue) (r lane : Nat) : BitVec 16 := (iss.before.thread lane).k.get r 0

/-- A g register, as it stood before the clause. -/
def Issue.greg (iss : Issue) (r : Nat) : Word := iss.before.g.get r 0

/-- A handle register, as it stood before the clause. -/
def Issue.hreg (iss : Issue) (r : Nat) : HandleBits := iss.before.h.get r 0

/-- A source operand of one lane in a layout (R42, R43). -/
def Issue.operand (iss : Issue) (L : Layout) (c : BitVec 7) (lit : IWord) (lane : Nat) : Word :=
  let k := c.toNat
  if k < 96 then iss.vreg k lane
  else if k < 104 then (iss.latches.get (k - 96) []).at lane
  else if k < 120 then iss.greg (k - 104)
  else if k < 127 then L.join fun _ => L.const k lane
  else L.literal lit

/-- A uniform operand of R76: a g register, 0, 1, 2, or a literal zero-extended. -/
def Issue.uniform (iss : Issue) (c : BitVec 7) (lit : IWord) : Word :=
  let k := c.toNat
  if 104 ≤ k && k < 120 then iss.greg (k - 104)
  else if k == 127 then lit.zeroExtend 64
  else BitVec.ofNat 64 ((intLayout 5).const k 0)

/-- A uniform operand of R182: a g register, a constant code 120 to 123 or 125, or a literal zero-extended to 64 bits. -/
def Issue.uniformM (iss : Issue) (c : BitVec 7) (lit : IWord) : Word := iss.uniform c lit

/-- One value for each lane of the clause's bundle, zero elsewhere. -/
def Issue.lanesOf (iss : Issue) (f : Nat → Word) : LaneVals := LaneVals.of fun l => if iss.lanes.has l then f l else 0

/-- The lanes that act under a guard: all of the bundle when it is off, otherwise those whose bit 0 of the k register is 1,
or 0 under negate (R40). -/
def Issue.acting (iss : Issue) (ge gn : BitVec 1) (gk : BitVec 3) : Lanes :=
  if ge == 0 then iss.lanes
  else Lanes.of fun l => iss.lanes.has l && ((iss.kreg gk.toNat l).getLsbD 0 != (gn == 1))

/-- The signed offset imm12 (R38). -/
def immOf (i : BitVec 12) : Int := i.toInt

/-- Operand b's literal place in format A, X, E and C: after a's (R25). -/
def litB (ls : Lits) (a : BitVec 7) : IWord := litAt ls (litsIn [a])

end Sys2Proof.Machine
end

