-- ==== Sys2Proof/Machine/Flags.lean ====
section
/-!
DEFINITION. The sticky flags a clause raises and the event counters it advances (R141, R142), for results computed sub-element
by sub-element.
-/

namespace Sys2Proof.Machine

/-- The results of one lane: the register value and the flags of each computed sub-element. -/
structure LaneRes where
  val : Word
  fls : List FpFlags := []
  deriving DecidableEq, Repr

/-- The flags that some events raise together. -/
def orAll (fs : List FpFlags) : FpFlags := fs.foldl (· ||| ·) 0

/-- How many events raised each flag, NV first (R142). -/
def countFlags (fs : List FpFlags) : List Nat :=
  (List.range 5).map fun i => (fs.filter fun f => f.getLsbD i).length

/-- The effects of the flags raised in each lane of a bundle: FLAGS by OR, and the counters (R141, R142). Nothing when no
flag is raised. -/
def flagEffects (lanes : Lanes) (f : Nat → List FpFlags) : List Effect :=
  let all := (Lanes.list lanes).flatMap f
  if orAll all == 0 then []
  else
    [.orFlags lanes (LaneVals.of fun l => if lanes.has l then (orAll (f l)).zeroExtend 64 else 0), .count (countFlags all)]

/-- The sum of two lists of event counts. -/
def addCounts (a b : List Nat) : List Nat := (List.range 5).map fun i => a.getD i 0 + b.getD i 0

end Sys2Proof.Machine
end

