-- ==== Sys2Proof/Machine/Transc.lean ====
section
/-!
DEFINITION. The transcendental functions of the SFU, correctly rounded (R163): each value is enclosed between two
neighbouring multiples of a power of two by exact integer arithmetic, and the enclosure is narrowed until both ends round
to one result.
-/

namespace Sys2Proof.Machine

/-- An enclosure: the value lies strictly between (c − r) × 2^(−P) and (c + r) × 2^(−P). -/
structure Encl where
  c : Int
  r : Nat
  deriving DecidableEq, Repr

/-- Σ t^k/k! in P-bit fixed point from the term `t` of index `k`; `n` bounds the number of terms (x in [0, 2^P)). -/
def expTerms (P x : Nat) : Nat → Nat → Nat → Nat → Nat
  | 0, _, _, acc => acc
  | n + 1, k, t, acc => if t == 0 then acc else expTerms P x n (k + 1) (t * x / (2 ^ P * (k + 1))) (acc + t)

/-- e^x for x in [0, 1), as a P-bit fixed-point number whose error is below 4P units. -/
def expFix (P x : Nat) : Nat := expTerms P x (P + 8) 0 (2 ^ P) 0

/-- Σ z^(2k+1)/(2k+1): `t` is the power of z, `k` its odd index. -/
def atanhTerms (P z2 : Nat) : Nat → Nat → Nat → Nat → Nat
  | 0, _, _, acc => acc
  | n + 1, k, t, acc => if t == 0 then acc else atanhTerms P z2 n (k + 2) (t * z2 / 2 ^ P) (acc + t / k)

/-- artanh(num/den) for num/den ≤ 1/2, in P-bit fixed point, with error below 8P units. -/
def atanhFix (P num den : Nat) : Nat :=
  let z := num * 2 ^ P / den
  atanhTerms P (z * z / 2 ^ P) (P + 8) 1 z 0

/-- ln 2 = 2 artanh(1/3) in P-bit fixed point. -/
def ln2Fix (P : Nat) : Nat := 2 * atanhFix P 1 3

/-- The alternating series of the arctangent of 1/n: positive part minus negative part. -/
def atanTerms (P n2 : Nat) : Nat → Nat → Nat → Bool → Int → Int
  | 0, _, _, _, acc => acc
  | n + 1, k, t, neg, acc =>
    if t == 0 then acc
    else atanTerms P n2 n (k + 2) (t / n2) (!neg) (if neg then acc - (t / k : Nat) else acc + (t / k : Nat))

/-- π by Machin's formula in P-bit fixed point, with error below 64P units. -/
def piFix (P : Nat) : Nat :=
  (16 * atanTerms P 25 (P + 8) 1 (2 ^ P / 5) false 0 - 4 * atanTerms P (239 * 239) (P + 8) 1 (2 ^ P / 239) false 0).toNat

/-- The alternating series of sine and cosine: `t` the term, `k` its index. -/
def sinTerms (P x2 : Nat) : Nat → Nat → Nat → Bool → Int → Int
  | 0, _, _, _, acc => acc
  | n + 1, k, t, neg, acc =>
    if t == 0 then acc
    else sinTerms P x2 n (k + 2) (t * x2 / (2 ^ P * ((k + 1) * (k + 2)))) (!neg) (if neg then acc - (t : Int) else acc + t)

/-- sin x for x in [0, 1] in P-bit fixed point, with error below 4P units. -/
def sinFix (P x : Nat) : Int := sinTerms P (x * x / 2 ^ P) (P + 8) 1 x false 0

/-- cos x for x in [0, 1] in P-bit fixed point, with error below 4P units. -/
def cosFix (P x : Nat) : Int := sinTerms P (x * x / 2 ^ P) (P + 8) 0 (2 ^ P) false 0

/-- The dyadic rational (−1)^neg × m × 2^e in P-bit fixed point, rounded down. -/
def toFix (P : Nat) (neg : Bool) (m : Nat) (e : Int) : Int :=
  let k := e + P
  let a : Int := if 0 ≤ k then (m * 2 ^ k.toNat : Nat) else -((-(m : Int)) / (2 ^ (-k).toNat : Nat))
  if neg then -a else a

/-- e^x, where x is given in P-bit fixed point within `err` units and |x| is below 256: 2^k times e^r with r in [0, ln 2);
the enclosure is in P-bit fixed point when k ≤ 0 and scaled by 2^k otherwise. Answers the enclosure and k. -/
def expEncl (P : Nat) (x : Int) (err : Nat) : Encl × Int :=
  let l := ln2Fix P
  let k := x / (l : Int)
  let r := (x - k * l).toNat
  ({ c := expFix P r, r := 4 * (err + 16 * P * (k.natAbs + 1)) + 16 * P }, k)

/-- The rounding of an enclosure c ± r at scale 2^(−P) when both ends round to one result, inexact; none otherwise. -/
def FpFmt.roundEncl (F : FpFmt) (md : RMode) (P : Int) (t : Encl) : Option FpRes :=
  let lo := t.c - t.r
  let hi := t.c + t.r
  if 0 < lo then
    let a := F.round md false false lo.toNat (-P) true
    if a == F.round md false false (hi.toNat - 1) (-P) true then some a else none
  else if hi < 0 then
    let a := F.round md false true (-hi).toNat (-P) true
    if a == F.round md false true ((-lo).toNat - 1) (-P) true then some a else none
  else none

/-- A positive value below every number of a format that rounding could tell from zero. -/
def FpFmt.roundTiny (F : FpFmt) (md : RMode) (neg : Bool) : FpRes := F.round md false neg 1 (-1000) true

/-- A value above every finite number of a format. -/
def FpFmt.roundHuge (F : FpFmt) (md : RMode) (neg : Bool) : FpRes := F.round md false neg 1 1000 true

/-- 1 − ε for an ε smaller than rounding could tell from zero. -/
def FpFmt.roundBelowOne (F : FpFmt) (md : RMode) (neg : Bool) : FpRes := F.round md false neg (2 ^ 200 - 1) (-200) true

/-- The integer part and the doubled fraction of |x|, exactly: |x| = n + f/2^k with f < 2^k. -/
def splitDyadic (m : Nat) (e : Int) : Nat × Nat × Nat :=
  if 0 ≤ e then (m * 2 ^ e.toNat, 0, 1) else (m / 2 ^ (-e).toNat, m % 2 ^ (-e).toNat, (-e).toNat)

/-- e^x for finite non-zero x (always inexact). -/
def FpFmt.expAt (F : FpFmt) (md : RMode) (P : Nat) (neg : Bool) (m : Nat) (e : Int) : Option FpRes :=
  if 8 < (Nat.log2 m : Int) + e then some (if neg then F.roundTiny md false else F.roundHuge md false)
  else
    let (t, k) := expEncl P (toFix P neg m e) 2
    F.roundEncl md (P - k) t

/-- 2^x for finite x; an integer x gives an exact power of two. -/
def FpFmt.exp2At (F : FpFmt) (md : RMode) (P : Nat) (neg : Bool) (m : Nat) (e : Int) : Option FpRes :=
  if 12 < (Nat.log2 m : Int) + e then some (if neg then F.roundTiny md false else F.roundHuge md false)
  else
    let (n, f, k) := splitDyadic m e
    if f == 0 then some (F.round md false false 1 (if neg then -(n : Int) else n) false)
    else
      let fl : Int := if neg then -(n : Int) - 1 else n
      let g := if neg then 2 ^ k - f else f
      let y := g * ln2Fix P / 2 ^ k
      F.roundEncl md ((P : Int) - fl) { c := expFix P y, r := 4 * (16 * P + 2) + 16 * P }

/-- log2 x for finite positive x; a power of two gives an exact integer. -/
def FpFmt.log2At (F : FpFmt) (md : RMode) (P : Nat) (m : Nat) (e : Int) : Option FpRes :=
  let k := Nat.log2 m
  let n : Int := (k : Int) + e
  if m == 2 ^ k then
    some (if n == 0 then { bits := F.zero false } else F.round md false (decide (n < 0)) n.natAbs 0 false)
  else
    let a := 2 * atanhFix P (m - 2 ^ k) (m + 2 ^ k)
    let l := ln2Fix P
    let q := a * 2 ^ P / l
    F.roundEncl md P { c := n * 2 ^ P + q, r := 128 * P }

/-- sin(πy) for y = f/2^k in (0, 1/2), exactly inside the open interval, in P-bit fixed point. -/
def sinPiEncl (P f k : Nat) : Encl :=
  if 4 * f ≤ 2 ^ k then { c := sinFix P (piFix P * f / 2 ^ k), r := 256 * P }
  else { c := cosFix P (piFix P * (2 ^ (k - 1) - f) / 2 ^ k), r := 256 * P }

/-- sin(πx) for finite non-zero x that is no integer: |x| = n + f/2^k. -/
def FpFmt.sinPiAt (F : FpFmt) (md : RMode) (P : Nat) (neg : Bool) (n f k : Nat) : Option FpRes :=
  let s := neg != (n % 2 == 1)
  if 2 * f == 2 ^ k then some (F.round md false s 1 0 false)
  else
    let g := if 2 * f < 2 ^ k then f else 2 ^ k - f
    let t := sinPiEncl P g k
    F.roundEncl md P { t with c := if s then -t.c else t.c }

/-- cos(πx) for finite x that is no multiple of 1/2. -/
def FpFmt.cosPiAt (F : FpFmt) (md : RMode) (P : Nat) (n f k : Nat) : Option FpRes :=
  let far := decide (2 ^ k < 2 * f)
  let s := (n % 2 == 1) != far
  let g := if far then 2 * f - 2 ^ k else 2 ^ k - 2 * f
  let t := sinPiEncl P g (k + 1)
  F.roundEncl md P { t with c := if s then -t.c else t.c }

/-- tanh x for finite non-zero x: (1 − w)/(1 + w) with w = e^(−2|x|), always inexact. -/
def FpFmt.tanhAt (F : FpFmt) (md : RMode) (P : Nat) (neg : Bool) (m : Nat) (e : Int) : Option FpRes :=
  if 6 < (Nat.log2 m : Int) + e then some (F.roundBelowOne md neg)
  else if (Nat.log2 m : Int) + e < -100 then
    some (F.round md false neg (m * 2 ^ 200 - 1) (e - 200) true)
  else
    let (t, k) := expEncl P (-(toFix P false m (e + 1))) 2
    let w := t.c / (2 ^ (-k).toNat : Nat)
    let q := (2 ^ P - w) * 2 ^ P / (2 ^ P + w)
    F.roundEncl md P { c := if neg then -q else q, r := 4 * t.r + 16 }

/-- The working precisions tried in turn. -/
def precisions : List Nat := [160, 320, 640, 1280]

/-- The first enclosure that decides the rounding. Should none decide, the result is a free value (notes/assumptions/6):
no bound on how close a value of these functions comes to a rounding boundary is part of the spec. -/
def decideRounding (f : Nat → Option FpRes) (undecided : Nat) : FpRes :=
  ((precisions.filterMap f).head?).getD { bits := (Config.freeWord undecided).toNat, fl := flagNX }

/-- The one-operand functions of 0x43 (R163, Table 7·10). -/
inductive SfuFn where
  | rcp | rsq | sqrt | exp2 | log2 | exp | sinpi | cospi | tanh
  deriving DecidableEq, Repr

/-- One sub-element of an SFU function in format F and mode md (R163). -/
def FpFmt.sfu (F : FpFmt) (fn : SfuFn) (md : RMode) (a : Nat) : FpRes :=
  let one := F.round .rne false false 1 0 false
  match fn, F.val a with
  | .rcp, x => F.divVal md (.fin false 1 0) x
  | .rsq, x => F.rsqrtVal md x
  | .sqrt, x => F.sqrtVal md x
  | _, .nan s => F.nanRes s
  | .exp2, .inf n => { bits := if n then F.zero false else F.infinity false }
  | .exp, .inf n => { bits := if n then F.zero false else F.infinity false }
  | .log2, .inf n => if n then F.nanRes true else { bits := F.infinity false }
  | .sinpi, .inf _ => F.nanRes true
  | .cospi, .inf _ => F.nanRes true
  | .tanh, .inf n => F.round .rne false n 1 0 false
  | .exp2, .fin n m e => if m == 0 then one else decideRounding (fun P => F.exp2At md P n m e) a
  | .exp, .fin n m e => if m == 0 then one else decideRounding (fun P => F.expAt md P n m e) a
  | .log2, .fin n m e =>
    if m == 0 then { bits := F.infinity true, fl := flagDZ }
    else if n then F.nanRes true
    else decideRounding (fun P => F.log2At md P m e) a
  | .sinpi, .fin n m e =>
    let (i, f, k) := splitDyadic m e
    if f == 0 then { bits := F.zero n } else decideRounding (fun P => F.sinPiAt md P n i f k) a
  | .cospi, .fin _ m e =>
    let (i, f, k) := splitDyadic m e
    if f == 0 then F.round .rne false (i % 2 == 1) 1 0 false
    else if 2 * f == 2 ^ k then { bits := F.zero false }
    else decideRounding (fun P => F.cosPiAt md P i f k) a
  | .tanh, .fin n m e => if m == 0 then { bits := a } else decideRounding (fun P => F.tanhAt md P n m e) a

end Sys2Proof.Machine
end

