-- ==== Sys2Proof/Machine/IntAlu.lean ====
section
/-!
DEFINITION. The integer, bit, predicate, move, conversion, random and narrow dot-product instructions (R94 to R111).
-/

namespace Sys2Proof.Machine

/-! ### Shared shapes -/

/-- Ends a format A instruction: its value goes to the latch, and to v register `d` unless nw is set (R29). -/
def State.writeA (s : State) (iss : Issue) (f : FA) (ls : Lits) (x : LaneVals) (es : List Effect := []) : Result :=
  s.finishAlu iss (1 + ls.length) x ((if f.nw == 1 then [] else [.v f.d.toNat iss.lanes x]) ++ es)

/-- d.s[i] = op w x y in each sub-element of an integer layout (R94). -/
def aluInt2 (op : Nat → Nat → Nat → Nat) (f : FA) (ls : Lits) (s : State) : Result :=
  s.withIssue fun iss s =>
    let L := intLayout f.t.toNat
    s.writeA iss f ls (iss.lanesOf fun l =>
      let a := iss.operand L f.a (litAt ls 0) l
      let b := iss.operand L f.b (litB ls f.a) l
      L.join fun i => op L.w (L.sub a i) (L.sub b i))

/-- d.s[i] = op w x in each sub-element of an integer layout. -/
def aluInt1 (op : Nat → Nat → Nat) (f : FA) (ls : Lits) (s : State) : Result :=
  s.withIssue fun iss s =>
    let L := intLayout f.t.toNat
    s.writeA iss f ls (iss.lanesOf fun l =>
      let a := iss.operand L f.a (litAt ls 0) l
      L.join fun i => op L.w (L.sub a i))

/-- d.s[i] = op w x y d.s[i]: the destination is read as it stood before the clause (R26, R94). -/
def aluInt3 (op : Nat → Nat → Nat → Nat → Nat) (f : FA) (ls : Lits) (s : State) : Result :=
  s.withIssue fun iss s =>
    let L := intLayout f.t.toNat
    s.writeA iss f ls (iss.lanesOf fun l =>
      let a := iss.operand L f.a (litAt ls 0) l
      let b := iss.operand L f.b (litB ls f.a) l
      let d := iss.vreg f.d.toNat l
      L.join fun i => op L.w (L.sub a i) (L.sub b i) (L.sub d i))

/-! ### Arithmetic (R96) -/

/-- Signed limits of a width. -/
def sMin (w : Nat) : Int := -(2 ^ (w - 1))
/-- The largest signed value of a width. -/
def sMax (w : Nat) : Int := 2 ^ (w - 1) - 1
/-- The largest unsigned value of a width. -/
def uMax (w : Nat) : Int := 2 ^ w - 1

/-- add (R96). -/
def execAdd (f : FA) (ls : Lits) (s : State) : Result := aluInt2 (fun w x y => (x + y) % 2 ^ w) f ls s
/-- sub (R96). -/
def execSub (f : FA) (ls : Lits) (s : State) : Result := aluInt2 (fun w x y => wrapTo w (x - y)) f ls s
/-- add.sat, signed (R96). -/
def execAddSatSigned (f : FA) (ls : Lits) (s : State) : Result :=
  aluInt2 (fun w x y => wrapTo w (clampInt (signedOf w x + signedOf w y) (sMin w) (sMax w))) f ls s
/-- add.sat, unsigned (R96). -/
def execAddSatUnsigned (f : FA) (ls : Lits) (s : State) : Result :=
  aluInt2 (fun w x y => wrapTo w (clampInt (x + y) 0 (uMax w))) f ls s
/-- sub.sat, signed (R96). -/
def execSubSatSigned (f : FA) (ls : Lits) (s : State) : Result :=
  aluInt2 (fun w x y => wrapTo w (clampInt (signedOf w x - signedOf w y) (sMin w) (sMax w))) f ls s
/-- sub.sat, unsigned (R96). -/
def execSubSatUnsigned (f : FA) (ls : Lits) (s : State) : Result :=
  aluInt2 (fun w x y => wrapTo w (clampInt ((x : Int) - y) 0 (uMax w))) f ls s
/-- mul (R96). -/
def execMul (f : FA) (ls : Lits) (s : State) : Result := aluInt2 (fun w x y => (x * y) % 2 ^ w) f ls s
/-- mulhi, signed: the exact product shifted arithmetically (R96). -/
def execMulhiSigned (f : FA) (ls : Lits) (s : State) : Result :=
  aluInt2 (fun w x y => wrapTo w ((signedOf w x * signedOf w y) / 2 ^ w)) f ls s
/-- mulhi, unsigned (R96). -/
def execMulhiUnsigned (f : FA) (ls : Lits) (s : State) : Result := aluInt2 (fun w x y => x * y / 2 ^ w) f ls s
/-- mad: the destination is read as well as written (R96). -/
def execMad (f : FA) (ls : Lits) (s : State) : Result := aluInt3 (fun w x y d => (x * y + d) % 2 ^ w) f ls s
/-- abs (R96). -/
def execAbs (f : FA) (ls : Lits) (s : State) : Result :=
  aluInt1 (fun w x => if 0 ≤ signedOf w x then x else wrapTo w (-(signedOf w x))) f ls s
/-- min, signed (R96). -/
def execMinSigned (f : FA) (ls : Lits) (s : State) : Result :=
  aluInt2 (fun w x y => if signedOf w x ≤ signedOf w y then x else y) f ls s
/-- min, unsigned (R96). -/
def execMinUnsigned (f : FA) (ls : Lits) (s : State) : Result := aluInt2 (fun _ x y => min x y) f ls s
/-- max, signed (R96). -/
def execMaxSigned (f : FA) (ls : Lits) (s : State) : Result :=
  aluInt2 (fun w x y => if signedOf w x ≤ signedOf w y then y else x) f ls s
/-- max, unsigned (R96). -/
def execMaxUnsigned (f : FA) (ls : Lits) (s : State) : Result := aluInt2 (fun _ x y => max x y) f ls s

/-! ### Bits (R97 to R99) -/

/-- and (R97). -/
def execAnd (f : FA) (ls : Lits) (s : State) : Result := aluInt2 (fun _ x y => x &&& y) f ls s
/-- or (R97). -/
def execOr (f : FA) (ls : Lits) (s : State) : Result := aluInt2 (fun _ x y => x ||| y) f ls s
/-- xor (R97). -/
def execXor (f : FA) (ls : Lits) (s : State) : Result := aluInt2 (fun _ x y => x ^^^ y) f ls s
/-- andn (R97). -/
def execAndn (f : FA) (ls : Lits) (s : State) : Result := aluInt2 (fun w x y => x &&& (2 ^ w - 1 - y)) f ls s
/-- shl (R97). -/
def execShl (f : FA) (ls : Lits) (s : State) : Result := aluInt2 (fun w x y => (x * 2 ^ (y % w)) % 2 ^ w) f ls s
/-- shr (R97). -/
def execShr (f : FA) (ls : Lits) (s : State) : Result := aluInt2 (fun w x y => x / 2 ^ (y % w)) f ls s
/-- sar (R97). -/
def execSar (f : FA) (ls : Lits) (s : State) : Result :=
  aluInt2 (fun w x y => wrapTo w (signedOf w x / 2 ^ (y % w))) f ls s

/-- A w-bit value rotated left. -/
def rotl (w x k : Nat) : Nat := ((x * 2 ^ (k % w)) % 2 ^ w) + x / 2 ^ (w - k % w)

/-- rol (R97). -/
def execRol (f : FA) (ls : Lits) (s : State) : Result := aluInt2 (fun w x y => rotl w x (y % w)) f ls s
/-- clz: a zero sub-element counts w (R97). -/
def execClz (f : FA) (ls : Lits) (s : State) : Result :=
  aluInt1 (fun w x => if x == 0 then w else w - 1 - Nat.log2 x) f ls s
/-- ctz: a zero sub-element counts w (R97). -/
def execCtz (f : FA) (ls : Lits) (s : State) : Result :=
  aluInt1 (fun w x => ((List.range w).find? fun i => x.testBit i).getD w) f ls s
/-- popc (R97). -/
def execPopc (f : FA) (ls : Lits) (s : State) : Result :=
  aluInt1 (fun w x => ((List.range w).filter fun i => x.testBit i).length) f ls s
/-- brev (R97). -/
def execBrev (f : FA) (ls : Lits) (s : State) : Result :=
  aluInt1 (fun w x => (List.range w).foldl (fun a j => if x.testBit (w - 1 - j) then a + 2 ^ j else a) 0) f ls s

/-- bfx of one sub-element under a control word (R98). -/
def bfxOp (w x c : Nat) : Nat :=
  let pos := bits c 5 0
  let len := min (bits c 12 6) w
  let fld := if w ≤ pos then 0 else (x / 2 ^ pos) % 2 ^ len
  let v : Int := if bitAt c 13 && 0 < len && bitAt fld (len - 1) then (fld : Int) - 2 ^ len else fld
  wrapTo w v

/-- bfi of one sub-element under a control word (R98). -/
def bfiOp (w x c d : Nat) : Nat :=
  let pos := bits c 5 0
  let len := min (bits c 12 6) w
  let m := ((2 ^ len - 1) * 2 ^ pos) % 2 ^ w
  (d &&& (2 ^ w - 1 - m)) ||| (((x * 2 ^ pos) % 2 ^ w) &&& m)

/-- bfx (R98). -/
def execBfx (f : FA) (ls : Lits) (s : State) : Result := aluInt2 bfxOp f ls s
/-- bfi: the destination is read as well as written (R98). -/
def execBfi (f : FA) (ls : Lits) (s : State) : Result := aluInt3 bfiOp f ls s

/-- The b operand read whole as 64 bits: a literal fills [31:0] (R99, R116). -/
def Issue.wholeB (iss : Issue) (L : Layout) (c : BitVec 7) (lit : IWord) (lane : Nat) : Word :=
  if c == 127 then lit.zeroExtend 64 else iss.operand L c lit lane

/-- swz: sub-element i takes the sub-element that selector i names, or zero (R99). -/
def execSwz (f : FA) (ls : Lits) (s : State) : Result :=
  s.withIssue fun iss s =>
    let L := intLayout f.t.toNat
    s.writeA iss f ls (iss.lanesOf fun l =>
      let a := iss.operand L f.a (litAt ls 0) l
      let sel := (iss.wholeB L f.b (litB ls f.a) l).toNat
      L.join fun i => let t := bits sel (4 * i + 3) (4 * i); if t < L.n then L.sub a t else 0)

/-! ### Compare, predicates, select (R100 to R102) -/

/-- A predicate value: bit i is the condition of sub-element i, zero beyond the layout. -/
def predOf (n : Nat) (c : Nat → Bool) : Word :=
  BitVec.ofNat 64 ((List.range n).foldl (fun a i => if c i then a + 2 ^ i else a) 0)

/-- The conditions of cmp (Table 2·7). -/
def cmpCond (c : Nat) (x y : Int) : Bool :=
  match c with
  | 0 => x == y
  | 1 => x != y
  | 2 => decide (x < y)
  | 3 => decide (x ≤ y)
  | 4 => decide (y < x)
  | _ => decide (y ≤ x)

/-- cmp: the predicate register in dst [2:0] under the condition in dst [6:3] (R100). -/
def cmpInt (read : Nat → Nat → Int) (f : FA) (ls : Lits) (s : State) : Result :=
  s.withIssue fun iss s =>
    let L := intLayout f.t.toNat
    s.finish iss (1 + ls.length) [.k (f.d.toNat % 8) iss.lanes (iss.lanesOf fun l =>
      let a := iss.operand L f.a (litAt ls 0) l
      let b := iss.operand L f.b (litB ls f.a) l
      predOf L.n fun i => cmpCond (f.d.toNat / 8) (read L.w (L.sub a i)) (read L.w (L.sub b i)))]

/-- cmp, signed (R100). -/
def execCmpSigned (f : FA) (ls : Lits) (s : State) : Result := cmpInt signedOf f ls s
/-- cmp, unsigned (R100). -/
def execCmpUnsigned (f : FA) (ls : Lits) (s : State) : Result := cmpInt (fun _ x => (x : Int)) f ls s

/-- The predicate operations of Table 5·4. -/
def kopOp (t : Nat) (a b : BitVec 16) : BitVec 16 :=
  match t with
  | 0 => a &&& b
  | 1 => a ||| b
  | 2 => a ^^^ b
  | 3 => a &&& ~~~b
  | 4 => ~~~a
  | _ => a

/-- kop (R101). -/
def execKop (f : FA) (ls : Lits) (s : State) : Result :=
  s.withIssue fun iss s =>
    s.finish iss (1 + ls.length) [.k (f.d.toNat % 8) iss.lanes (iss.lanesOf fun l =>
      (kopOp f.t.toNat (iss.kreg (f.a.toNat % 8) l) (iss.kreg (f.b.toNat % 8) l)).zeroExtend 64)]

/-- sel: where the guard holds for the sub-element, a; elsewhere d as it stood before the clause (R102). -/
def execSel (f : FA) (ls : Lits) (s : State) : Result :=
  s.withIssue fun iss s =>
    let L := intLayout f.t.toNat
    s.writeA iss f ls (iss.lanesOf fun l =>
      let a := iss.operand L f.a (litAt ls 0) l
      let d := iss.vreg f.d.toNat l
      let k := iss.kreg (f.b.toNat % 8) l
      L.join fun i => if k.getLsbD i != f.b.getLsbD 3 then L.sub a i else L.sub d i)

/-! ### Moves and conversions (R103 to R108) -/

/-- lea: a + (b << S) on whole registers; a literal is sign-extended (R108). -/
def execLea (f : FA) (ls : Lits) (s : State) : Result :=
  s.withIssue fun iss s =>
    let L := intLayout 5
    s.writeA iss f ls (iss.lanesOf fun l =>
      iss.operand L f.a (litAt ls 0) l + iss.operand L f.b (litB ls f.a) l <<< f.t.toNat)

/-- movl: the two literals give d[31:0] and d[63:32] (R103). -/
def execMovl (f : FA) (ls : Lits) (s : State) : Result :=
  s.withIssue fun iss s => s.writeA iss f ls (iss.lanesOf fun _ => litAt ls 1 ++ litAt ls 0)

/-- gmov: the named lane's value, as it stood before the clause, to gD and to every thread's latch (R104). -/
def execGmov (f : FA) (ls : Lits) (s : State) : Result :=
  s.withIssue fun iss s =>
    let lane := (iss.uniform f.b (litB ls f.a)).toNat % 32
    let x := iss.operand (intLayout 5) f.a (litAt ls 0) lane
    s.finishAlu iss (1 + ls.length) (iss.lanesOf fun _ => x) (if f.nw == 1 then [] else [.g (f.d.toNat - 104) x])

/-- cvti of one register (R105). -/
def cvtiWord (D S : Layout) (signed sat : Bool) (a : Word) : Word :=
  D.join fun i =>
    let v : Int := if i < S.n then (if signed then signedOf S.w (S.sub a i) else (S.sub a i : Nat)) else 0
    let v := if sat then (if signed then clampInt v (sMin D.w) (sMax D.w) else clampInt v 0 (uMax D.w)) else v
    wrapTo D.w v

/-- cvti (R105). -/
def execCvti (f : FA) (ls : Lits) (s : State) : Result :=
  s.withIssue fun iss s =>
    let D := intLayout f.t.toNat
    let S := intLayout (f.b.toNat % 8)
    s.writeA iss f ls (iss.lanesOf fun l =>
      cvtiWord D S (f.b.getLsbD 3) (f.b.getLsbD 4) (iss.operand S f.a (litAt ls 0) l))

/-- The layout of pack's sources: twice the destination width (R106). -/
def packSource (t : Nat) : Layout := intLayout (if t == 3 then 5 else t + 1)

/-- pack: a narrows into the low half, b into the high half (R106). -/
def execPack (f : FA) (ls : Lits) (s : State) : Result :=
  s.withIssue fun iss s =>
    let D := intLayout f.t.toNat
    let S := packSource f.t.toNat
    s.writeA iss f ls (iss.lanesOf fun l =>
      let a := iss.operand S f.a (litAt ls 0) l
      let b := iss.operand S f.b (litB ls f.a) l
      D.join fun i => if i < D.n / 2 then S.sub a i else S.sub b (i - D.n / 2))

/-- The layout of unpack's source: the next narrower one (R107). -/
def unpackSource (t : Nat) : Layout := intLayout (if t == 5 then 3 else t - 1)

/-- unpack: the half that ctl[0] selects, extended by sign under ctl[1] (R107). -/
def execUnpack (f : FA) (ls : Lits) (s : State) : Result :=
  s.withIssue fun iss s =>
    let D := intLayout f.t.toNat
    let S := unpackSource f.t.toNat
    let ctl := iss.uniform f.b (litB ls f.a)
    s.writeA iss f ls (iss.lanesOf fun l =>
      let a := iss.operand S f.a (litAt ls 0) l
      D.join fun i =>
        let x := S.sub a ((if ctl.getLsbD 0 then D.n else 0) + i)
        if ctl.getLsbD 1 then wrapTo D.w (signedOf S.w x) else x)

/-! ### Narrow dot products (R109, R140) -/

/-- The exact integer sum of products of the sub-elements of two registers. -/
def dotInt (w m : Nat) (signed : Bool) (a b : Word) : Int :=
  let L : Layout := { n := m, w := w }
  (List.range m).foldl
    (fun t i =>
      if signed then t + signedOf w (L.sub a i) * signedOf w (L.sub b i) else t + ((L.sub a i * L.sub b i : Nat) : Int)) 0

/-- The integer accumulation: the accumulator and the sum, clamped or wrapped (R109). -/
def dotAccInt (signed sat : Bool) (p : Int) (d : Word) : Word :=
  let acc : Int := if signed then signedOf 32 d.toNat else (d.toNat % 2 ^ 32 : Nat)
  let t := acc + p
  let t := if sat then (if signed then clampInt t (sMin 32) (sMax 32) else clampInt t 0 (uMax 32)) else t
  BitVec.ofNat 64 (wrapTo 32 t)

/-- The floating-point accumulation of exact products, rounded once to FP32 (R109, R130, R137). Answers the result for the
accumulator `acc` and the element pairs. -/
def dotFloat (E : FpFmt) (md : RMode) (acc : Nat) (ps : List (Nat × Nat)) : FpRes :=
  let vs := ps.map fun p => (E.val p.1, E.val p.2)
  let c := fp32.val acc
  let isNan := c.isNan || vs.any fun p => p.1.isNan || p.2.isNan
  let infZero := vs.any fun p => (p.1.isInf && p.2.isZero) || (p.1.isZero && p.2.isInf)
  let sig := c.isSnan || vs.any fun p => p.1.isSnan || p.2.isSnan
  let infs := (vs.filter fun p => (p.1.isInf || p.2.isInf) && !p.1.isNan && !p.2.isNan).map fun p => p.1.neg != p.2.neg
  let opposite := infs.contains true && infs.contains false
  if isNan || infZero || opposite then fp32.nanRes (sig || infZero || opposite)
  else
    match infs with
    | n :: _ =>
      match c with
      | .inf m => if m == n then { bits := fp32.infinity n } else fp32.nanRes true
      | _ => { bits := fp32.infinity n }
    | [] =>
      match c with
      | .inf m => { bits := fp32.infinity m }
      | .nan s => fp32.nanRes s
      | .fin n m e =>
        let terms := vs.filterMap fun p =>
          match p.1, p.2 with
          | .fin n1 m1 e1, .fin n2 m2 e2 => some (n1 != n2, m1 * m2, e1 + e2)
          | _, _ => none
        let t := terms.foldl (fun t u => addExact t.1 t.2.1 t.2.2 u.1 u.2.1 u.2.2) (n, m, e)
        let zeros := m == 0 && terms.all fun u => u.2.1 == 0 && u.1 == n
        fp32.roundSum md t (if zeros then some n else none)

/-- The rounding mode that FPCTL holds for the clause (R87, R126). -/
def Issue.rm (iss : Issue) : RMode := RMode.ofBits (iss.before.fpctl.toNat)

/-- The narrow dot products: m elements of the integer width w, or of the float format E of the type (R109). -/
def dotExec (w m : Nat) (E : Nat → FpFmt) (f : FA) (ls : Lits) (s : State) : Result :=
  s.withIssue fun iss s =>
    let t := f.t.toNat
    if t < 4 then
      let L : Layout := { n := m, w := w }
      let signed := t < 2
      s.writeA iss f ls (iss.lanesOf fun l =>
        dotAccInt signed (t % 2 == 1) (dotInt w m signed (iss.operand L f.a (litAt ls 0) l)
          (iss.operand L f.b (litB ls f.a) l)) (iss.vreg f.d.toNat l))
    else
      let F := E t
      let L : Layout := { n := m, w := F.w, fmt := some F }
      let r := fun l =>
        let a := iss.operand L f.a (litAt ls 0) l
        let b := iss.operand L f.b (litB ls f.a) l
        dotFloat F iss.rm ((iss.vreg f.d.toNat l).toNat % 2 ^ 32) ((List.range m).map fun i => (L.sub a i, L.sub b i))
      s.writeA iss f ls (iss.lanesOf fun l => BitVec.ofNat 64 (r l).bits) (flagEffects iss.lanes fun l => [(r l).fl])

/-- dp4 (R109). -/
def execDp4 (f : FA) (ls : Lits) (s : State) : Result := dotExec 4 16 (fun _ => e2m1) f ls s
/-- dp8 (R109). -/
def execDp8 (f : FA) (ls : Lits) (s : State) : Result := dotExec 8 8 (fun t => if t == 4 then e4m3 else e5m2) f ls s

/-! ### Random draws (R110, R111) -/

/-- The rotation of round i of the hash (R110). -/
def hashRot (i : Nat) : Nat := ([13, 37, 26, 45, 7, 51, 19, 33] : List Nat).getD i 0

/-- A 64-bit value rotated left. -/
def rotl64 (x : Word) (k : Nat) : Word := x.rotateLeft k

/-- The keyed counter hash H(K, T, C) (R110). -/
def hashH (key t c : Word) : Word :=
  let r := (List.range 8).foldl
    (fun (x : Word × Word) i =>
      let x0 := x.1 + x.2 + (key ^^^ (BitVec.ofNat 64 i * 0x9E3779B97F4A7C15))
      (x0, rotl64 x.2 (hashRot i) ^^^ x0)) (t, c)
  r.1 ^^^ rotl64 r.2 29

/-- The thread's global index T (R110). -/
def threadIndex (team group lane : Nat) : Word := BitVec.ofNat 64 (team * 1024 + group * 32 + lane)

/-- rnd: n draws per thread from its count, which the clause's earlier rnd instructions have advanced (R110, R111). -/
def execRnd (f : FA) (ls : Lits) (s : State) : Result :=
  s.withIssue fun iss s =>
    let L := intLayout f.t.toNat
    let key := iss.greg (f.a.toNat - 104)
    let team := (s.teamOf iss.gid).index
    let t := fun l => threadIndex team iss.before.index l
    let x := iss.lanesOf fun l => L.join fun i => (hashH key (t l) (iss.draws.at l + BitVec.ofNat 64 i)).toNat
    let d := LaneVals.of fun l => iss.draws.at l + (if iss.lanes.has l then BitVec.ofNat 64 L.n else 0)
    s.writeA { iss with draws := d } f ls x [.setDraw iss.lanes d]

end Sys2Proof.Machine
end

