-- ==== Sys2Proof/Machine/Float.lean ====
section
/-!
DEFINITION. The floating-point arithmetic, minimum and maximum, sign, compare, classify, rounding, scaling and conversion
instructions (R144 to R159).
-/

namespace Sys2Proof.Machine

/-- Ends a floating-point instruction whose lanes give one result per computed sub-element; `res l i` is sub-element i of
lane l, and `D` the destination layout with `n` sub-elements computed (R141, R147). -/
def State.writeF (s : State) (iss : Issue) (f : FA) (ls : Lits) (D : Layout) (n : Nat) (res : Nat → Nat → FpRes) : Result :=
  s.writeA iss f ls (iss.lanesOf fun l => D.join fun i => if i < n then (res l i).bits else 0)
    (flagEffects iss.lanes fun l => (List.range n).map fun i => (res l i).fl)

/-- d.s[i] = op x y in FPCTL's mode (R148, R149). -/
def fpu2 (op : FpFmt → RMode → Nat → Nat → FpRes) (f : FA) (ls : Lits) (s : State) : Result :=
  s.withIssue fun iss s =>
    let L := floatLayout f.t.toNat
    s.writeF iss f ls L L.n fun l i =>
      op (fmtOfCode f.t.toNat) iss.rm (L.sub (iss.operand L f.a (litAt ls 0) l) i)
        (L.sub (iss.operand L f.b (litB ls f.a) l) i)

/-- d.s[i] = op x in FPCTL's mode. -/
def fpu1 (op : FpFmt → RMode → Nat → FpRes) (f : FA) (ls : Lits) (s : State) : Result :=
  s.withIssue fun iss s =>
    let L := floatLayout f.t.toNat
    s.writeF iss f ls L L.n fun l i => op (fmtOfCode f.t.toNat) iss.rm (L.sub (iss.operand L f.a (litAt ls 0) l) i)

/-- x + y of two encodings. -/
def fpAdd (F : FpFmt) (md : RMode) (x y : Nat) : FpRes := F.addVal md (F.val x) (F.val y)

/-- fadd (R148). -/
def execFadd (f : FA) (ls : Lits) (s : State) : Result := fpu2 fpAdd f ls s
/-- fsub (R148). -/
def execFsub (f : FA) (ls : Lits) (s : State) : Result :=
  fpu2 (fun F md x y => F.addVal md (F.val x) (F.val y).negate) f ls s
/-- fmul (R148). -/
def execFmul (f : FA) (ls : Lits) (s : State) : Result := fpu2 (fun F md x y => F.mulVal md (F.val x) (F.val y)) f ls s

/-- ffma: d is read as it stood before the clause (R148). -/
def execFfma (f : FA) (ls : Lits) (s : State) : Result :=
  s.withIssue fun iss s =>
    let L := floatLayout f.t.toNat
    let F := fmtOfCode f.t.toNat
    s.writeF iss f ls L L.n fun l i =>
      F.fmaVal iss.rm (F.val (L.sub (iss.operand L f.a (litAt ls 0) l) i))
        (F.val (L.sub (iss.operand L f.b (litB ls f.a) l) i)) (F.val (L.sub (iss.vreg f.d.toNat l) i))

/-- fmin: IEEE minimum (R149). -/
def execFmin (f : FA) (ls : Lits) (s : State) : Result := fpu2 (fun F _ x y => F.minMax false false x y) f ls s
/-- fmax: IEEE maximum (R149). -/
def execFmax (f : FA) (ls : Lits) (s : State) : Result := fpu2 (fun F _ x y => F.minMax true false x y) f ls s
/-- fminn: minimumNumber (R149). -/
def execFminn (f : FA) (ls : Lits) (s : State) : Result := fpu2 (fun F _ x y => F.minMax false true x y) f ls s
/-- fmaxn: maximumNumber (R149). -/
def execFmaxn (f : FA) (ls : Lits) (s : State) : Result := fpu2 (fun F _ x y => F.minMax true true x y) f ls s

/-- fabs: clears the sign bit; moves bits and sets no flag (R150). -/
def execFabs (f : FA) (ls : Lits) (s : State) : Result := fpu1 (fun F _ x => { bits := x % 2 ^ (F.w - 1) }) f ls s
/-- fneg: inverts the sign bit; moves bits and sets no flag (R150). -/
def execFneg (f : FA) (ls : Lits) (s : State) : Result :=
  fpu1 (fun F _ x => { bits := x ^^^ 2 ^ (F.w - 1) }) f ls s

/-- fcmp: the predicate register in dst [2:0] under the condition in dst [6:3] (R151). -/
def execFcmp (f : FA) (ls : Lits) (s : State) : Result :=
  s.withIssue fun iss s =>
    let L := floatLayout f.t.toNat
    let F := fmtOfCode f.t.toNat
    let r := fun l i => F.compare (f.d.toNat / 8) (L.sub (iss.operand L f.a (litAt ls 0) l) i)
      (L.sub (iss.operand L f.b (litB ls f.a) l) i)
    s.finish iss (1 + ls.length)
      ([.k (f.d.toNat % 8) iss.lanes (iss.lanesOf fun l => predOf L.n fun i => (r l i).1)] ++
        flagEffects iss.lanes fun l => (List.range L.n).map fun i => if (r l i).2 then flagNV else 0)

/-- fclass (R152). -/
def execFclass (f : FA) (ls : Lits) (s : State) : Result := fpu1 (fun F _ x => { bits := F.classify x }) f ls s

/-- frnd: the mode is the entry's own, in b [3:2] (R153). -/
def execFrnd (f : FA) (ls : Lits) (s : State) : Result :=
  fpu1 (fun F _ x => F.roundIntegral (RMode.ofBits (f.b.toNat / 4)) x) f ls s

/-- fscl: b is read as a two's-complement integer of the sub-element's width (R154). -/
def execFscl (f : FA) (ls : Lits) (s : State) : Result :=
  s.withIssue fun iss s =>
    let L := floatLayout f.t.toNat
    let I : Layout := { L with fmt := none }
    let F := fmtOfCode f.t.toNat
    s.writeF iss f ls L L.n fun l i =>
      F.scale iss.rm (L.sub (iss.operand L f.a (litAt ls 0) l) i)
        (signedOf L.w (L.sub (iss.operand I f.b (litB ls f.a) l) i))

/-- fexpo (R155). -/
def execFexpo (f : FA) (ls : Lits) (s : State) : Result := fpu1 (fun F _ x => F.exponent x) f ls s

/-- fcvt: source format b [6:4], mode b [3:2], saturate b [1], which changes nothing between a format and itself (R156, R157). -/
def execFcvt (f : FA) (ls : Lits) (s : State) : Result :=
  s.withIssue fun iss s =>
    let D := floatLayout f.t.toNat
    let c := f.b.toNat / 16
    let S := floatLayout c
    s.writeF iss f ls D (min D.n S.n) fun l i =>
      (fmtOfCode f.t.toNat).convert (fmtOfCode c) (RMode.ofBits (f.b.toNat / 4)) (f.b.getLsbD 1 && f.t.toNat != c)
        (S.sub (iss.operand S f.a (litAt ls 0) l) i)

/-- fcvti: b as fcvt, with b [0] a signed destination (R156, R158). -/
def execFcvti (f : FA) (ls : Lits) (s : State) : Result :=
  s.withIssue fun iss s =>
    let D := intLayout f.t.toNat
    let c := f.b.toNat / 16
    let S := floatLayout c
    s.writeF iss f ls D (min D.n S.n) fun l i =>
      (fmtOfCode c).toInt D.w (f.b.getLsbD 0) (RMode.ofBits (f.b.toNat / 4)) (f.b.getLsbD 1)
        (S.sub (iss.operand S f.a (litAt ls 0) l) i)

/-- icvtf: source layout b [6:4], mode b [3:2], b [0] a signed source (R156, R159). -/
def execIcvtf (f : FA) (ls : Lits) (s : State) : Result :=
  s.withIssue fun iss s =>
    let D := floatLayout f.t.toNat
    let S := intLayout (f.b.toNat / 16)
    s.writeF iss f ls D (min D.n S.n) fun l i =>
      let x := S.sub (iss.operand S f.a (litAt ls 0) l) i
      (fmtOfCode f.t.toNat).ofInt (RMode.ofBits (f.b.toNat / 4)) (if f.b.getLsbD 0 then signedOf S.w x else x)

end Sys2Proof.Machine
end

