-- ==== Sys2Proof/Machine/CrossLane.lean ====
section
/-!
DEFINITION. The cross-lane instructions (R112 to R119): exchanges, reductions, scans and votes over the members that each
thread's mask names.
-/

namespace Sys2Proof.Machine

/-- The member mask of a thread, read as it stood before the clause: v, g, all lanes under code 125, or a literal (R112). -/
def Issue.mask (iss : Issue) (f : FX) (ls : Lits) (lane : Nat) : Lanes :=
  ((if f.m == 127 then (litAt ls (litsIn [f.a, f.b])).zeroExtend 64
    else iss.operand (intLayout 5) f.m 0 lane) : Word).truncate 32

/-- The source operand a of a lane. A lane outside the bundle that a mask names has exited and is never read. -/
def Issue.srcX (iss : Issue) (L : Layout) (f : FX) (ls : Lits) (lane : Nat) : Word :=
  iss.operand L f.a (litAt ls 0) lane

/-- The index operand of xl.sh and xl.bc, read whole: source lane [8:4] and starting sub-element [3:0] (R116). -/
def Issue.xlIndex (iss : Issue) (L : Layout) (f : FX) (ls : Lits) (lane : Nat) : Nat × Nat :=
  let b := (iss.wholeB L f.b (litAt ls (litsIn [f.a])) lane).toNat
  (bits b 8 4, bits b 3 0 % L.n)

/-- The check of Table 5·7 for one thread: own lane, exited lanes, agreement of masks for the folding and voting forms (and
a lane held outside a handler, R370), and the source lane of an exchange. -/
def Issue.xlFault (iss : Issue) (fold : Bool) (L : Layout) (f : FX) (ls : Lits) (lane : Nat) : Option FaultCode :=
  let m := iss.mask f ls lane
  let ex := iss.before.exitedLanes
  if !m.has lane then some .xlSelf
  else if m &&& ex &&& ~~~iss.lanes != 0 then some .xlExited
  else if m &&& ~~~iss.lanes != 0 then some .xlMismatch
  else if fold && (Lanes.list m).any fun j => iss.mask f ls j != m then some .xlMismatch
  else if !fold && !m.has (iss.xlIndex L f ls lane).1 then some .xlIndex
  else none

/-- The failures of a cross-lane instruction, by lane. -/
def Issue.xlFaults (iss : Issue) (fold : Bool) (L : Layout) (f : FX) (ls : Lits) : List (Nat × FaultCode × Nat) :=
  (Lanes.list iss.lanes).filterMap fun l => (iss.xlFault fold L f ls l).map fun c => (l, c, 0)

/-- Ends a cross-lane instruction after its checks: the value to the latch and the destination, and any flags (R29). -/
def State.writeX (s : State) (iss : Issue) (f : FX) (ls : Lits) (x : LaneVals) (es : List Effect := []) : Result :=
  s.finishAlu iss (2 + ls.length) x ((if f.nw == 1 then [] else [.v f.d.toNat iss.lanes x]) ++ es)

/-- Runs a cross-lane instruction under the checks of Table 5·7 (R115). -/
def xlRun (fold : Bool) (L : Layout) (f : FX) (ls : Lits) (s : State) (k : Issue → State → Result) : Result :=
  s.withIssue fun iss s =>
    match firstFailure (iss.xlFaults fold L f ls) with
    | some (c, lanes, _) => s.faults iss c lanes
    | none => k iss s

/-- xl.sh: the source lane's register rotated by the starting sub-element (R116). -/
def execXlSh (f : FX) (ls : Lits) (s : State) : Result :=
  let L := intLayout f.t.toNat
  xlRun false L f ls s fun iss s =>
    s.writeX iss f ls (iss.lanesOf fun l =>
      let (src, s0) := iss.xlIndex L f ls l
      L.join fun i => L.sub (iss.srcX L f ls src) ((s0 + i) % L.n))

/-- xl.bc: one sub-element of the source lane in every position (R116). -/
def execXlBc (f : FX) (ls : Lits) (s : State) : Result :=
  let L := intLayout f.t.toNat
  xlRun false L f ls s fun iss s =>
    s.writeX iss f ls (iss.lanesOf fun l =>
      let (src, s0) := iss.xlIndex L f ls l
      L.join fun _ => L.sub (iss.srcX L f ls src) s0)

/-- One combine of xl.red and xl.scan (Table 5·6): an integer operation, or the vector instruction of the same name. -/
def xlOp (op : Nat) (L : Layout) (md : RMode) (x y : Nat) : FpRes :=
  let F := L.fmt.getD fp32
  match op with
  | 0 => { bits := (x + y) % 2 ^ L.w }
  | 1 => { bits := if signedOf L.w x ≤ signedOf L.w y then x else y }
  | 2 => { bits := min x y }
  | 3 => { bits := if signedOf L.w x ≤ signedOf L.w y then y else x }
  | 4 => { bits := max x y }
  | 5 => { bits := x &&& y }
  | 6 => { bits := x ||| y }
  | 7 => { bits := x ^^^ y }
  | 8 => fpAdd F md x y
  | 9 => F.minMax false false x y
  | 10 => F.minMax true false x y
  | 11 => F.minMax false true x y
  | _ => F.minMax true true x y

/-- The layout of a fold: integer below operation 8, floating-point from 8 (Table 5·6). -/
def foldLayout (f : FX) : Layout :=
  if f.sub.toNat % 32 < 8 then intLayout f.t.toNat else floatLayout f.t.toNat

/-- One level of the reduction tree: neighbours combined, an odd last value carried up (R117). -/
def pairUp (op : Nat → Nat → FpRes) : List Nat → List Nat × List FpFlags
  | x :: y :: r =>
    let c := op x y
    let (v, fs) := pairUp op r
    (c.bits :: v, c.fl :: fs)
  | r => (r, [])

/-- The whole tree; five levels reduce 32 values (R117). -/
def reduceTree (op : Nat → Nat → FpRes) (xs : List Nat) : Nat × List FpFlags :=
  let r := (List.range 5).foldl
    (fun (t : List Nat × List FpFlags) _ => let u := pairUp op t.1; (u.1, t.2 ++ u.2)) (xs, [])
  (r.1.headD 0, r.2)

/-- The distinct member sets of a folding form, by their lowest lane; under R115 every member carries the same mask. -/
def Issue.memberSets (iss : Issue) (f : FX) (ls : Lits) : List Lanes :=
  ((Lanes.list iss.lanes).filter fun l => lowestLane (iss.mask f ls l) == l).map fun l => iss.mask f ls l

/-- xl.red: a fixed tree over the members, the same result and the union of flags in every member (R117). A combine counts
once (R142). -/
def execXlRed (f : FX) (ls : Lits) (s : State) : Result :=
  let L := foldLayout f
  xlRun true L f ls s fun iss s =>
    let op := f.sub.toNat % 32
    let r := fun (m : Lanes) i => reduceTree (xlOp op L iss.rm) ((Lanes.list m).map fun j => L.sub (iss.srcX L f ls j) i)
    let x := iss.lanesOf fun l => L.join fun i => (r (iss.mask f ls l) i).1
    let fl := fun m => (List.range L.n).flatMap fun i => (r m i).2
    let all := (iss.memberSets f ls).flatMap fl
    s.writeX iss f ls x
      (if orAll all == 0 then []
       else [.orFlags iss.lanes (iss.lanesOf fun l => (orAll (fl (iss.mask f ls l))).zeroExtend 64), .count (countFlags all)])

/-- The identities of an exclusive scan (Table 5·8). -/
def scanIdentity (op : Nat) (L : Layout) : Nat :=
  let F := L.fmt.getD fp32
  match op with
  | 0 | 4 | 6 | 7 => 0
  | 1 => 2 ^ (L.w - 1) - 1
  | 2 | 5 => 2 ^ L.w - 1
  | 3 => 2 ^ (L.w - 1)
  | 8 => F.zero true
  | 9 | 11 => F.infinity false
  | _ => F.infinity true

/-- The sequential combines of a scan: for each member its inclusive value and the flags of every combine up to it, with
the list of combines (R118). -/
def scanSteps (op : Nat → Nat → FpRes) (acc : Nat) (fl : FpFlags) : List Nat → List (Nat × FpFlags × FpFlags)
  | [] => []
  | x :: r =>
    let c := op acc x
    (c.bits, fl ||| c.fl, c.fl) :: scanSteps op c.bits (fl ||| c.fl) r

/-- The scan over the values of the members: each member's value and flags, and the flags of each combine performed. Under
.excl the last combine is not performed (R118). -/
def scanRun (op : Nat → Nat → FpRes) (excl : Bool) (ident : Nat) (xs : List Nat) : List (Nat × FpFlags) × List FpFlags :=
  match xs with
  | [] => ([], [])
  | x :: r =>
    let steps := scanSteps op x 0 (if excl then r.dropLast else r)
    let vals := (x, (0 : FpFlags)) :: steps.map fun t => (t.1, t.2.1)
    ((if excl then ((ident, 0) :: vals).take xs.length else vals), steps.map fun t => t.2.2)

/-- xl.scan (R118). -/
def execXlScan (f : FX) (ls : Lits) (s : State) : Result :=
  let L := foldLayout f
  xlRun true L f ls s fun iss s =>
    let op := f.sub.toNat % 32
    let excl := f.sub.getLsbD 5
    let r := fun (m : Lanes) i => scanRun (xlOp op L iss.rm) excl (scanIdentity op L)
      ((Lanes.list m).map fun j => L.sub (iss.srcX L f ls j) i)
    let at' := fun l i => let m := iss.mask f ls l
      ((r m i).1).getD ((Lanes.list m).idxOf l) (0, 0)
    let x := iss.lanesOf fun l => L.join fun i => (at' l i).1
    let all := (iss.memberSets f ls).flatMap fun m => (List.range L.n).flatMap fun i => (r m i).2
    s.writeX iss f ls x
      (if orAll all == 0 then []
       else
        [.orFlags iss.lanes (iss.lanesOf fun l =>
          (orAll ((List.range L.n).map fun i => (at' l i).2)).zeroExtend 64), .count (countFlags all)])

/-- A vote over the members: p of a lane is that its 64-bit a is not zero (R119). -/
def xlVote (k : Lanes → (Nat → Bool) → Word) (f : FX) (ls : Lits) (s : State) : Result :=
  let L := intLayout 5
  xlRun true L f ls s fun iss s =>
    s.writeX iss f ls (iss.lanesOf fun l => k (iss.mask f ls l) fun j => iss.srcX L f ls j != 0)

/-- xl.vote.all (R119). -/
def execXlVoteAll (f : FX) (ls : Lits) (s : State) : Result :=
  xlVote (fun m p => if (Lanes.list m).all p then 1 else 0) f ls s
/-- xl.vote.any (R119). -/
def execXlVoteAny (f : FX) (ls : Lits) (s : State) : Result :=
  xlVote (fun m p => if (Lanes.list m).any p then 1 else 0) f ls s
/-- xl.vote.uni (R119). -/
def execXlVoteUni (f : FX) (ls : Lits) (s : State) : Result :=
  xlVote (fun m p => if (Lanes.list m).all p || (Lanes.list m).all (fun l => !p l) then 1 else 0) f ls s
/-- xl.bal: bit L of the result for each member L with p(L) (R119). -/
def execXlBal (f : FX) (ls : Lits) (s : State) : Result :=
  xlVote (fun m p => (Lanes.of fun l => m.has l && p l).zeroExtend 64) f ls s

end Sys2Proof.Machine
end

