-- ==== Sys2Proof/Machine/Memory.lean ====
section
/-!
DEFINITION. Memory as bytes in canonical form, grain tags (Table 10·1), the copy-on-write hooks of snapshots (R350, R351), and
the stamps, leases and logical clocks of R229 to R231.
-/

namespace Sys2Proof.Machine

/-! ### Bytes -/

/-- The byte at an address; an unlisted address reads as zero (R222). -/
def Memory.read : List Host.Cell → Nat → Byte
  | [], _ => 0
  | (a, b) :: m, k => if a = k then b else Memory.read m k

/-- Writes one byte, keeping the canonical form. -/
def Memory.write : List Host.Cell → Nat → Byte → List Host.Cell
  | [], k, x => if x = 0 then [] else [(k, x)]
  | (a, b) :: m, k, x =>
    if k < a then (if x = 0 then (a, b) :: m else (k, x) :: (a, b) :: m)
    else if k = a then (if x = 0 then m else (k, x) :: m)
    else (a, b) :: Memory.write m k x

/-- Whether every listed address is above a bound. -/
def Memory.above (n : Nat) (m : List Host.Cell) : Bool := m.all fun c => decide (n < c.1)

/-- The canonical form: addresses strictly rising, no entry equal to what an unlisted address reads as. -/
def Memory.wf : List Host.Cell → Bool
  | [] => true
  | (a, b) :: m => b != 0 && Memory.above a m && Memory.wf m

/-- Writes bytes from an address up. -/
def Memory.writeAll : List Host.Cell → Nat → List Byte → List Host.Cell
  | m, _, [] => m
  | m, a, b :: bs => Memory.writeAll (Memory.write m a b) (a + 1) bs

/-- `n` bytes from an address up. -/
def Memory.readAll (m : List Host.Cell) (a n : Nat) : List Byte := (List.range n).map fun i => Memory.read m (a + i)

/-- One byte of device memory at a physical address. -/
def State.byteAt (s : State) (pa : Nat) : Byte := Memory.read s.mem pa

/-- Bytes of device memory. -/
def State.readMem (s : State) (pa n : Nat) : List Byte := Memory.readAll s.mem pa n

/-- A little-endian number in device memory. -/
def State.readNat (s : State) (pa n : Nat) : Nat := ofBytes (s.readMem pa n)

/-- Writes bytes of device memory, and nothing else. -/
def State.putMem (s : State) (pa : Nat) (bs : List Byte) : State := { s with mem := Memory.writeAll s.mem pa bs }

/-- A module configuration register as last written, or its reset value. -/
def State.cfgAt (s : State) (n : Nat) (reset : Nat) : Nat := (s.cfg.get n (BitVec.ofNat 64 reset)).toNat

/-- Counts in HOST_ERR (Table 18·3): a discarded window write, or an error of a link. Link errors are a training that finds no common rate and
width, a request that the host or the tier fails (DESIGN CHOICE: the table does not list them; notes/assumptions/78). -/
def State.hostErr (s : State) : State := { s with cfg := s.cfg.insert 0x57 (s.cfg.get 0x57 0 + 1) }

/-- Counts a completion that fails. -/
def State.linkError (s : State) (st : HostStatus) : State := if st == .ok then s else s.hostErr

/-! ### Grain tags (Table 10·1) -/

/-- The grain of a physical address (512 bytes). -/
def grainOf (pa : Nat) : Nat := pa / 512

/-- The logical chip of a physical address, bits [51:40] (R224). -/
def chipOf (pa : Nat) : Nat := bits pa 51 40

/-- The tag of a grain; one never written is zero (R222). -/
def State.tag (s : State) (g : Nat) : BitVec 64 := s.tags.get g 0

/-- Writes a grain's tag. -/
def State.setTag (s : State) (g : Nat) (t : BitVec 64) : State := { s with tags := s.tags.put g t 0 }

/-- Changes a grain's tag. -/
def State.modTag (s : State) (g : Nat) (f : BitVec 64 → BitVec 64) : State := s.setTag g (f (s.tag g))

/-- A tag with bits [hi:lo] set to a value. -/
def tagSet (t : BitVec 64) (hi lo v : Nat) : BitVec 64 :=
  let n := t.toNat
  BitVec.ofNat 64 (n - bits n hi lo * 2 ^ lo + (v % 2 ^ (hi + 1 - lo)) * 2 ^ lo)

/-- A field of a tag. -/
def tagGet (t : BitVec 64) (hi lo : Nat) : Nat := bits t.toNat hi lo

/-- The state of a tag: 0 uncached, 1 S, 2 E, 3 O, 4 M, 5 WS-EMPTY, 6 WS-CLAIMED, 7 WS-FULL. -/
def tagState (t : BitVec 64) : Nat := tagGet t 2 0
/-- The page class of a tag: 0 SC, 1 RC, 2 WS, 3 IP. -/
def tagClass (t : BitVec 64) : Nat := tagGet t 4 3
/-- The reach of a tag: 0 CHIP, 1 POD, 2 SYSTEM. -/
def tagReach (t : BitVec 64) : Nat := tagGet t 6 5
/-- The snapshot epoch of a tag, mod 4. -/
def tagEpoch (t : BitVec 64) : Nat := tagGet t 9 8
/-- The poison bit. -/
def tagPoison (t : BitVec 64) : Bool := t.getLsbD 10
/-- The lock bit of a replica grain. -/
def tagLock (t : BitVec 64) : Bool := t.getLsbD 11
/-- Pointer i of a tag. -/
def tagPtr (t : BitVec 64) (i : Nat) : Nat := tagGet t (23 + 12 * i) (12 + 12 * i)
/-- A tag with pointer i set. -/
def tagSetPtr (t : BitVec 64) (i v : Nat) : BitVec 64 := tagSet t (23 + 12 * i) (12 + 12 * i) v
/-- A tag with its state set. -/
def tagSetState (t : BitVec 64) (v : Nat) : BitVec 64 := tagSet t 2 0 v
/-- A tag with every pointer empty (0xFFF). -/
def tagNoPtrs (t : BitVec 64) : BitVec 64 := tagSet t 59 12 (2 ^ 48 - 1)
/-- A tag with the pointer field zero and the overflow bit clear. -/
def tagZeroPtrs (t : BitVec 64) : BitVec 64 := tagSet (tagSet t 59 12 0) 7 7 0

/-! ### Snapshots: preserving what a write is about to change (R350, R351) -/

/-- Whether a tag is unassigned (R223): zero but for its epoch, which writes and the scrubber set in every tag (R351, R354; DEDUCED,
notes/assumptions/119). -/
def tagFree (t : BitVec 64) : Bool := tagSet t 9 8 0 == 0

/-- Whether this chip is one of the snapshot domain's (R344). -/
def State.snapChip (s : State) : Bool :=
  decide (s.cfgAt 0x74 0 ≤ s.chip) && decide (s.chip < s.cfgAt 0x74 0 + s.cfgAt 0x75 0)

/-- Whether a snapshot takes in a grain of HBM or of the tier. -/
def Snap.covers (x : Snap) (tier : Bool) (g : Nat) : Bool :=
  x.frames.any fun f => f.tier == tier && decide (f.base < g * 512 + 512) && decide (g * 512 < f.base + f.size)

/-- The live snapshots that old contents are kept for (R346, Table 15·3): recorded, complete or sealed, newest first, and one that has
failed and is not dropped after them. One that is dropping preserves nothing (R354). -/
def State.liveSnaps (s : State) : List (Nat × Snap) :=
  let l := s.snaps.filter fun p => p.2.state == 2 || p.2.state == 3 || p.2.state == 4
  let failed := s.snaps.filter fun p => p.2.state == 5
  (match l with
    | [a, b] => if a.2.epoch < b.2.epoch then [b, a] else [a, b]
    | _ => l) ++ failed

/-- The colour whose lake takes the old contents of a grain of epoch t (mod 4): that of a live snapshot with 0 < s - t ≤ E - t that takes the
grain in (R351). -/
def State.lacking (s : State) (tier : Bool) (g t : Nat) : Option Nat :=
  (s.liveSnaps.find? fun p =>
    let d := (p.2.epoch + 4 - t) % 4
    p.2.covers tier g && decide (0 < d) && decide (d ≤ (s.epoch + 4 - t) % 4)).map (·.1)

/-- Stages a record for the snapshot of a colour. -/
def State.stage (s : State) (colour : Nat) (r : LakeRec) : State :=
  { s with snaps := s.snaps.modify colour fun x => { x with staged := x.staged ++ [r] } }

/-- The lake record of a grain as it stands (R358, type 10), valid for (low, high]. -/
def State.grainRec (s : State) (g low high : Nat) : LakeRec :=
  { ty := 10, key := g * 512,
    body := toBytes 4 low ++ toBytes 4 high ++ toBytes 8 (s.tag g).toNat ++ s.readMem (g * 512) 512 }

/-- Before a write to a grain on a chip of the domain: its old contents are preserved for a live snapshot that lacks them, and its epoch
becomes the chip's (R351). The epoch of a grain outside the domain's frames moves too, which nothing shows (DESIGN CHOICE,
notes/assumptions/97). -/
def State.preserve (s : State) (g : Nat) : State :=
  let t := s.tag g
  let te := tagEpoch t
  if te == s.epoch % 4 || !s.snapChip then s
  else
    let s := match s.lacking false g te with
      | some c => s.stage c (s.grainRec g (s.epoch - (s.epoch + 4 - te) % 4) s.epoch)
      | none => s
    s.setTag g (tagSet t 9 8 (s.epoch % 4))

/-- The same for a grain of the tier, whose record's address is from 2^52 on (DESIGN CHOICE, notes/assumptions/97). -/
def State.preserveTier (s : State) (g : Nat) : State :=
  let t := s.tierTags.get g 0
  let te := tagEpoch t
  if te == s.epoch % 4 || !s.snapChip then s
  else
    let data := (List.range 512).map fun i => s.tier.get (g * 512 + i) 0
    let low := s.epoch - (s.epoch + 4 - te) % 4
    let s := match s.lacking true g te with
      | some c => s.stage c
          { ty := 10, key := 2 ^ 52 + g * 512, body := toBytes 4 low ++ toBytes 4 s.epoch ++ toBytes 8 t.toNat ++ data }
      | none => s
    { s with tierTags := s.tierTags.put g (tagSet t 9 8 (s.epoch % 4)) 0 }

/-- Before a frame's contents leave it: what live snapshots lack of it is preserved (R351). -/
def State.preserveFrame (s : State) (tier : Bool) (base n : Nat) : State :=
  if s.liveSnaps.any fun p => p.2.frames.any fun f => f.tier == tier && decide (f.base < base + n) && decide (base < f.base + f.size) then
    ((List.range (n / 512)).map (· + base / 512)).foldl (fun (s : State) g => if tier then s.preserveTier g else s.preserve g) s
  else s

/-- Writes device memory: every grain touched is preserved first, then the bytes change. -/
def State.writeMem (s : State) (pa : Nat) (bs : List Byte) : State :=
  let gs := (List.range (grainOf (pa + bs.length - 1) + 1 - grainOf pa)).map (· + grainOf pa)
  (if bs.isEmpty then s else gs.foldl State.preserve s).putMem pa bs

/-- The key of a marked object of Table 15·2: its lake record type, owner and index. -/
def markKey (ty owner index : Nat) : Nat := ty * 2 ^ 48 + owner * 2 ^ 16 + index

/-- Before a write to an object: when a live snapshot marks it, its old contents are staged once and the marks cleared
(R350). -/
def State.cow (s : State) (ty owner index : Nat) (body : State → List Byte) : State :=
  let k := markKey ty owner index
  match s.liveSnaps.filter fun p => p.2.marks.contains k with
  | [] => s
  | (c, _) :: _ =>
    let s := s.stage c { ty := ty, key := owner * 2 ^ 16 + index, body := body s }
    { s with snaps := s.snaps.map fun p => (p.1, { p.2 with marks := p.2.marks.filter (· != k) }) }

/-- The raw contents of register block b of a group (R358): register r of the block, lane l, at 256r + 8l. -/
def State.blockBytes (s : State) (gid b : Nat) : List Byte :=
  (List.range 8).flatMap fun r => (List.range 32).flatMap fun l =>
    toBytes 8 (((s.group gid).thread l).v.get (8 * b + r) 0).toNat

/-- Writes a v register of a group, preserving its block first. -/
def State.writeV (s : State) (gid r : Nat) (lanes : Lanes) (x : LaneVals) : State :=
  (s.cow 5 gid (r / 8) fun s => s.blockBytes gid (r / 8)).modGroup gid fun g => g.writeV r lanes x

/-- Starts the record of an epoch (R347 step 1): the colour goes from idle to recording. A chip records the next epoch only, whatever the
epoch of the message that starts it (R346). -/
def State.startRecord (s : State) (newer initiator tag : Nat) : State :=
  let epoch := min newer (s.epoch + 1)
  let old := s.snaps.get (epoch % 2) {}
  if epoch ≤ s.epoch || old.state != 0 then s
  else
    let x : Snap := { state := 1, epoch := epoch, initiator := initiator, tag := tag, dropReports := old.dropReports }
    { s with snaps := s.snaps.insert (epoch % 2) x }

/-- A coherence message of an epoch newer than the chip's is kept until the chip has recorded that epoch (R352). -/
def State.holdMessage (s : State) (epoch : Nat) (i : Instr) : State :=
  { s.startRecord epoch (s.cfgAt 0x73 0) 0 with heldMsgs := s.heldMsgs ++ [i] }

/-! ### Leases and logical clocks (R228 to R231) -/

/-- A register in force: LEASE_TICKS, REBASE_AT and LTS_PERIOD change at a rebase only (R228). -/
def State.inForce (s : State) (n : Nat) (reset : Nat) : Nat := (s.effectiveCfg.get n (BitVec.ofNat 64 reset)).toNat

/-- LEASE_TICKS in force; 0 is taken as 1. -/
def State.leaseTicks (s : State) : Nat := max 1 (s.inForce 0x40 16)
/-- REBASE_AT in force, 0x0100 to 0xF000. -/
def State.rebaseAt (s : State) : Nat := min 0xF000 (max 0x0100 (s.inForce 0x41 0xF000))
/-- LTS_PERIOD in force; 0 is taken as 1. -/
def State.ltsPeriod (s : State) : Nat := max 1 (s.inForce 0x42 256)
/-- WS_WAIT. -/
def State.wsWait (s : State) : Nat := s.cfgAt 0x43 (2 ^ 24)
/-- POD_SIZE, 1 to 4,096. -/
def State.podSize (s : State) : Nat := min 4096 (max 1 (s.cfgAt 0x44 1))

/-- The logical clock of a cluster. -/
def State.ltsOf (s : State) (q : Nat) : Nat := s.lts.get q s.ltsBase

/-- Raises a cluster's logical clock to a stamp. -/
def State.raiseLts (s : State) (q w : Nat) : State :=
  if w ≤ s.ltsOf q then s else { s with lts := s.lts.insert q w }

/-- The largest logical clock of the module: no stamp of a write exceeds it. -/
def State.maxLts (s : State) : Nat := s.lts.foldl (fun n p => max n p.2) s.ltsBase

/-- The largest stamp that anything in the module carries: no clock and no stamp of a sector exceeds it. -/
def State.maxStamp (s : State) : Nat := max s.maxLts s.floor

/-- A cluster acquires at a scope a value stamped w (R229, R230): POD and SYSTEM pass the floor too. -/
def State.acquire (s : State) (q scope w : Nat) : State :=
  let s := s.raiseLts q w
  if 3 ≤ scope then s.raiseLts q s.floor else s

/-- Whether a rebase is due: some clock has reached REBASE_AT (R231). -/
def State.rebaseDue (s : State) : Bool := decide (s.rebaseAt ≤ s.maxLts)

/-- The stamps of a 128-byte sector; one of another era reads as zero (R231). -/
def State.sector (s : State) (pa : Nat) : Sector :=
  let x := s.sectors.get (pa / 128) {}
  if x.era == s.era then x else { era := s.era }

/-- Writes a sector's stamps. -/
def State.setSector (s : State) (pa : Nat) (x : Sector) : State := { s with sectors := s.sectors.insert (pa / 128) x }

/-- The key of a cluster's line. -/
def lineKey (q pa : Nat) : Nat := q * 2 ^ 45 + pa / 128

/-- A write of a sector by cluster q as its home stamps it (R229); the clock of the cluster follows. Answers the stamp. -/
def State.stampWrite (s : State) (q pa : Nat) : Nat × State :=
  let x := s.sector pa
  let w := max (s.ltsOf q) (x.rts + 1)
  (w, (s.setSector pa { wts := w, rts := w, era := s.era }).raiseLts q w)

/-- The stamp that what comes from another chip gives a sector, a write performed here for it or data that it sends: past every lease on
the sector and no less than any stamp of this module, so that an acquire that reads it is past all that its writer may have read here. The
floor follows (DESIGN CHOICE: R229 and R230 give such data no stamp; R203 needs one; notes/assumptions/92). -/
def State.stampForeign (s : State) (pa : Nat) : State :=
  let w := max s.maxStamp ((s.sector pa).rts + 1)
  { s.setSector pa { wts := w, rts := w, era := s.era } with floor := w }

/-- The same of every sector of a grain. -/
def State.stampGrain (s : State) (g : Nat) : State := (List.range 4).foldl (fun s i => s.stampForeign (g * 512 + 128 * i)) s

/-- A use of a page frame of this module's memory (R308). -/
def State.usePage (s : State) (pa : Nat) : State := { s with pageUse := s.pageUse.put (pa / 4096) s.clock 0 }

/-- The 128 bytes of a sector. -/
def State.sectorBytes (s : State) (pa : Nat) : List Byte := s.readMem (pa / 128 * 128) 128

/-- Drops the cluster lines that satisfy a test of cluster and sector address. -/
def State.dropLines (s : State) (p : Nat → Nat → Bool) : State :=
  { s with lines := s.lines.filter fun l => !p (l.1 / 2 ^ 45) (l.1 % 2 ^ 45 * 128) }

/-- Writes a dirty line back to memory. -/
def State.writeBack (s : State) (key : Nat) : State :=
  match s.lines.find? key with
  | some l =>
    if l.dirty then
      let s := s.writeMem (key % 2 ^ 45 * 128) l.data
      { s with lines := s.lines.insert key { l with dirty := false } }
    else s
  | none => s

/-- Writes back the dirty lines that satisfy a test. -/
def State.writeBackAll (s : State) (p : Nat → Nat → Bool) : State :=
  (s.lines.filter fun l => p (l.1 / 2 ^ 45) (l.1 % 2 ^ 45 * 128)).foldl (fun s l => s.writeBack l.1) s

end Sys2Proof.Machine
end

