-- ==== Sys2Proof/Machine/Events.lean ====
section
/-!
DEFINITION. Deferred events: how a committing clause creates one, how its result is filled in, and how it lands (R31 to R34),
with the writes to registers that commits and landings share.
-/

namespace Sys2Proof.Machine

/-- Advances the event counters of a core, NV first (R142). -/
def State.addFlagEvents (s : State) (core : Nat) (c : List Nat) : State :=
  let bump := fun (m : SMap Word) i =>
    m.put (core * 5 + i) (m.get (core * 5 + i) 0 + BitVec.ofNat 64 (c.getD i 0)) 0
  { s with flagev := (List.range 5).foldl bump s.flagev }

/-- The deferred event of an instruction of the clause, before it is filled in. -/
def Issue.event (iss : Issue) (idx : Nat) (lanes : Lanes) : Deferred :=
  { gid := iss.gid, sb := iss.signal, pc := iss.pc, idx := idx, bundle := iss.lanes, inHandler := iss.before.inHandler,
    lanes := lanes }

/-- Counts a deferred event in its slot and records it; answers its number (R32). DESIGN CHOICE (notes/assumptions/107): two clauses of a
group that were in slots at once can take a count past 63, which then goes on counting. -/
def State.addEvent (s : State) (d : Deferred) : Nat × State :=
  let s' := { s with nextId := s.nextId + 1, deferred := s.deferred.insert s.nextId { d with since := s.clock } }
  (s.nextId, s'.modGroup d.gid fun g => { g with sb := g.sb.put d.sb (g.sb.get d.sb 0 + 1) 0 })

/-- Changes a deferred event. -/
def State.modEvent (s : State) (id : Nat) (f : Deferred → Deferred) : State :=
  { s with deferred := s.deferred.modify id f }

/-- Sets one lane's value in the destinations of an event: the k-th register takes the k-th value. -/
def Deferred.setLane (d : Deferred) (lane : Nat) (x : List Word) : Deferred :=
  { d with v := d.v.zipIdx.map fun p => (p.1.1, (p.1.2).set lane (x.getD p.2 0)) }

/-- A deferred fault of an event, at its originating clause (R34). -/
def Deferred.faultOf (d : Deferred) (code : FaultCode) (lanes : Lanes) (va : Nat) (aux : Word := 0) : FaultRec :=
  { code := code, pc := d.pc, index := d.idx, deferred := true, lane := lowestLane lanes, lanes := lanes, va := va,
    aux := aux, bundle := d.bundle, inHandler := d.inHandler }

/-- Adds a deferred fault to an event; lanes that fail with a code already recorded join it (R34, R48). DESIGN CHOICE (notes/assumptions/108):
an event whose lanes fail with different codes queues one fault for each code. -/
def Deferred.addFault (d : Deferred) (code : FaultCode) (lanes : Lanes) (va : Nat) (aux : Word := 0) : Deferred :=
  if d.faults.any fun f => f.code == code then
    { d with faults := d.faults.map fun f =>
        if f.code == code then
          let l := f.lanes ||| lanes
          { f with lanes := l, lane := lowestLane l, va := if lowestLane l == f.lane then f.va else va }
        else f }
  else { d with faults := d.faults ++ [d.faultOf code lanes va aux] }

/-- Marks an event ready to land. -/
def State.completeEvent (s : State) (id : Nat) : State := s.modEvent id fun d => { d with wait := .done }

/-- What a destination receives when an event lands: zero in the lanes of its faults (R34). -/
def Deferred.kept (d : Deferred) (x : LaneVals) : LaneVals :=
  let bad := d.faults.foldl (fun (a : Lanes) f => a ||| f.lanes) 0
  if bad == 0 then x else LaneVals.of fun l => if bad.has l then 0 else x.at l

/-- The landing of an event: its destinations are written for its lanes, zero where it has failed, flags merged, its slot decremented
and its faults queued (R32, R34, R160). A destination of a group that has retired is gone. -/
def State.land (s : State) (id : Nat) : State :=
  match s.deferred.find? id with
  | none => s
  | some d =>
    let s := { s with deferred := s.deferred.erase id }
    let s := d.v.foldl (fun s w => s.writeV d.gid w.1 d.lanes (d.kept w.2)) s
    let s := s.modGroup d.gid fun g =>
      let g := match d.h with
        | some (r, x) => { g with h := g.h.put r (if d.faults.isEmpty then x else 0) 0 }
        | none => g
      let g := if d.flags.isEmpty then g else g.orFlags d.lanes d.flags
      { g with sb := g.sb.put d.sb (g.sb.get d.sb 0 - 1) 0 }
    let s := if d.counts.isEmpty then s else s.addFlagEvents (s.group d.gid).core d.counts
    d.faults.foldl (fun s f => s.queueFault d.gid f) s

/-- Whether every deferred result of a group's committed clauses has landed (R368 step 1). -/
def State.resultsLanded (s : State) (gid : Nat) : Bool := !(s.deferred.any fun p => p.2.gid == gid && p.2.result)

end Sys2Proof.Machine
end

