-- ==== Sys2Proof/Machine/Home.lean ====
section
/-!
DEFINITION. The home of a grain and this chip as an agent: the transitions of Table 10·3, transactions one at a time for each
grain (R225, R226), the coarse vector (R227), surrender and floor (R230), and the grains that atomic engines hold (R252).
-/

namespace Sys2Proof.Machine

/-! ### Pointers -/

/-- The chips a coarse vector bit covers (R227). -/
def State.granule (s : State) : Nat := ceilDiv s.podSize 48

/-- The chips that the pointers or the coarse vector of a tag name as sharers, from pointer `k` up. -/
def State.sharers (s : State) (t : BitVec 64) (k : Nat) : List Nat :=
  if t.getLsbD 7 then (List.range s.podSize).filter fun c => t.getLsbD (12 + c / s.granule)
  else ((List.range 4).filterMap fun i => if k ≤ i && tagPtr t i != 0xFFF then some (tagPtr t i) else none)

/-- A tag in state S or WS-FULL that names the chips given: pointers, or the coarse vector beyond four (R227). -/
def State.withSharers (s : State) (t : BitVec 64) (cs : List Nat) : BitVec 64 :=
  if cs.length ≤ 4 then
    (List.range 4).foldl (fun t i => tagSetPtr t i (cs.getD i 0xFFF)) (tagSet t 7 7 0)
  else
    let v := (List.range 48).foldl (fun n i => if cs.any fun c => c / s.granule == i then n + 2 ^ i else n) 0
    tagSet (tagSet t 7 7 1) 59 12 v

/-- A tag owned by one chip, in state E or M. -/
def ownedBy (t : BitVec 64) (st c : Nat) : BitVec 64 := tagSetPtr (tagSet (tagNoPtrs (tagSetState t st)) 7 7 0) 0 c

/-- A tag in state 0 whose grain has been written. -/
def writtenTag (t : BitVec 64) : BitVec 64 := tagSet (tagZeroPtrs (tagSetState t 0)) 12 12 1

/-! ### The clusters' atomic engines (R252, R254) -/

/-- The key of a grain at a cluster's engine. -/
def engineKey (q g : Nat) : Nat := q * 2 ^ 43 + g

/-- The engine that holds a grain, if any. -/
def State.engineOf (s : State) (g : Nat) : Option Nat :=
  (List.find? (fun p : Nat × EngineGrain => p.1 % 2 ^ 43 == g) s.engineGrains).map fun p => p.1 / 2 ^ 43

/-- The surrender of a grain by an engine: the home slice stamps every sector with the held stamp (R252). -/
def State.engineSurrender (s : State) (q g : Nat) : State :=
  match s.engineGrains.find? (engineKey q g) with
  | none => s
  | some e =>
    let s := { s with engineGrains := s.engineGrains.erase (engineKey q g) }
    (List.range 4).foldl (fun s i => s.setSector (g * 512 + 128 * i) { wts := e.stamp, rts := e.stamp, era := s.era }) s

/-- Recalls a grain from whichever engine holds it (R254). -/
def State.recall (s : State) (g : Nat) : State :=
  match s.engineOf g with
  | some q => s.engineSurrender q g
  | none => s

/-- The dirty lines of a grain go to the L2 (R177). -/
def State.clean (s : State) (g : Nat) : State := s.writeBackAll fun _ pa => grainOf pa == g

/-- The engine of cluster q takes a grain: it counts as a write at the home slice, the cluster drops its lines of the grain,
and a full engine first surrenders its least recently used grain (R252). -/
def State.engineTake (s : State) (q g : Nat) : State :=
  let mine := s.engineGrains.filter fun p => p.1 / 2 ^ 43 == q
  let s := if 64 ≤ mine.length then
      match mine with
      | [] => s
      | m :: ms => s.engineSurrender q ((ms.foldl (fun (a : Nat × EngineGrain) b => if b.2.used < a.2.used then b else a) m).1 % 2 ^ 43)
    else s
  let (w, s) := (List.range 4).foldl
    (fun (a : Nat × State) i => let (w, s) := a.2.stampWrite q (g * 512 + 128 * i); (max a.1 w, s)) (0, s)
  let s := s.dropLines fun c pa => c == q && grainOf pa == g
  { s with engineGrains := s.engineGrains.insert (engineKey q g) { stamp := w, used := s.clock } }

/-! ### Messages of class 0 (R225) -/

/-- The key of a channel: peer and class (R322). -/
def chanKey (chip cls : Nat) : Nat := chip * 8 + cls

/-- The key of an outgoing channel's numbering: the channel is of this logical chip (R322). -/
def State.outKey (s : State) (chan : Nat) : Nat := s.chip * 2 ^ 15 + chan

/-- Puts a message behind those that its channel has to send (R322, R333). -/
def State.enqueue (s : State) (m : Msg) : State :=
  { s with sendQ := s.sendQ.insert (chanKey m.chip m.cls) (s.sendQ.get (chanKey m.chip m.cls) [] ++ [m]) }

/-- The message kinds by number (notes/assumptions/89). -/
def cohKinds : List CohKind :=
  [.getS, .getM, .upgrade, .putM, .putO, .forwardS, .forwardM, .invalidate, .ack, .ackDirty, .ackClean, .grant, .store, .atomic, .move,
   .close, .reset, .convert, .readTag, .awaitOwner, .answer, .unlock, .listed, .dropped, .replicAdd, .replicRem, .shootDown, .shotDown,
   .poison, .snapRead, .clear, .fence, .replicAsk, .tlbInv]

/-- The info field of a class 0 message: the epoch in header bits [159:128] (R352), an address or a tag above it (R225). -/
def State.cohInfo (s : State) (x : Nat) : Nat := s.epoch % 2 ^ 32 + x % 2 ^ 64 * 2 ^ 32

/-- Sends a message without a grain's data: its kind, the address (that of a page of host memory from 2^52 on), the leaf of the access behind it, an operand word and bytes. -/
def State.sendCoh (s : State) (chip : Nat) (k : CohKind) (pa leaf arg : Nat) (data : List Byte) : State :=
  s.enqueue { chip := chip, cls := 0, role := .coherence, info := s.cohInfo (pa % 2 ^ 53),
              payload := BitVec.ofNat 8 (cohKinds.idxOf k) :: (toBytes 4 leaf ++ toBytes 8 arg ++ data) }

/-- Sends a message that carries nothing but its kind and a grain. -/
def State.sendMsg (s : State) (chip : Nat) (k : CohKind) (g : Nat) : State := s.sendCoh chip k (g * 512) 0 0 []

/-- Sends a grain's data as two messages of 256 bytes: the first names its address, the second its tag (R225). -/
def State.sendPair (s : State) (chip g : Nat) (t : BitVec 64) (data : List Byte) : State :=
  let half := fun (x : Nat) (d : List Byte) =>
    { chip := chip, cls := 0, role := MsgRole.coherence, info := s.cohInfo x, payload := d : Msg }
  (s.enqueue (half (g * 512) (data.take 256))).enqueue (half t.toNat (data.drop 256))

/-- Sends the data of a grain with its tag. -/
def State.sendData (s : State) (chip g : Nat) (t : BitVec 64) : State := s.sendPair chip g t (s.readMem (g * 512) 512)

/-! ### Unassigned tags (R223) -/

/-- The class, the reach and the core in the leaf word of a request. -/
def leafClass (x : Nat) : Nat := x % 4
/-- The reach of a leaf word. -/
def leafReach (x : Nat) : Nat := x / 4 % 4
/-- The core of a leaf word. -/
def leafCore (x : Nat) : Nat := x / 16

/-- The leaf word of a page walker's read of a table on another chip: the walker reads as an SC access of POD reach would (R173;
DESIGN CHOICE, notes/assumptions/90). -/
def walkLeaf : Nat := 4

/-- The grain of an unassigned tag takes the class and reach of the leaf of its first access; a write-once grain becomes EMPTY, and an
IP grain takes the accessing core of the chip as its owner (R223). -/
def State.adoptAs (s : State) (g leaf chip : Nat) : State :=
  let t := tagSet (tagSet (s.tag g) 4 3 (leafClass leaf)) 6 5 (leafReach leaf)
  if !tagFree (s.tag g) || tagFree t then s
  else
    s.setTag g (match leafClass leaf with
      | 2 => tagSetState t 5
      | 3 => tagSetPtr (tagSetPtr t 0 chip) 1 (leafCore leaf)
      | _ => t)

/-- Whether a leaf word agrees with a tag in class and reach (R223). -/
def leafAgrees (t : BitVec 64) (leaf : Nat) : Bool := tagClass t == leafClass leaf && tagReach t == leafReach leaf

/-! ### This chip's hold on grains -/

/-- Records that a grain in state 0 has been written (Table 10·2), and that a held clean grain is now modified (R226). -/
def State.markWritten (s : State) (g : Nat) : State :=
  if chipOf (g * 512) == s.chip then
    let t := s.tag g
    if tagState t == 0 && tagClass t < 2 then s.setTag g (tagSet t 12 12 1) else s
  else { s with held := s.held.insert g .m }


/-- Whether this chip may read a grain's bytes as they stand: at the home when no other chip owns it, elsewhere when held. -/
def State.mayRead (s : State) (g : Nat) : Bool :=
  if chipOf (g * 512) == s.chip then
    let t := s.tag g
    2 ≤ tagClass t || tagState t == 0 || tagState t == 1
  else (s.held.find? g).isSome

/-- Whether this chip may write a grain's bytes: at the home when no other chip holds a copy, elsewhere in E or M. -/
def State.mayWrite (s : State) (g : Nat) : Bool :=
  if chipOf (g * 512) == s.chip then
    let t := s.tag g
    2 ≤ tagClass t || tagState t == 0
  else
    match s.held.find? g with
    | some .e | some .m => true
    | _ => false

/-- The module's stamp floor raised past the leases of a grain (R230). -/
def State.passFloor (s : State) (g : Nat) : State :=
  { s with floor := (List.range 4).foldl (fun n i => max n ((s.sector (g * 512 + 128 * i)).rts + 1)) s.floor }

/-- The copy of a remotely homed grain goes, and with it the lines that no lease bounds. -/
def State.unhold (s : State) (g : Nat) : State :=
  { s with held := s.held.erase g, tags := s.tags.erase g, mem := s.mem.filter fun c => c.1 / 512 != g
           lines := s.lines.filter fun l => !(l.2.free && grainOf (l.1 % 2 ^ 45 * 128) == g) }

/-- The L2 gives up a remotely homed grain: the floor rises past its leases and the copy goes (R230). -/
def State.surrender (s : State) (g : Nat) : State := ((s.recall g).passFloor g).unhold g

/-- A copy that its home has not recorded is given up once it has been used. -/
def State.dropUncached (s : State) (g : Nat) : State := if s.held.find? g == some .u then s.unhold g else s

/-- The grains that a slice holds: 1.5 MiB of 512 bytes (R17, R427). -/
def sliceGrains : Nat := 3072

/-- The number under which the ways of a cache are counted: a slice's, or a cluster's data cache's. -/
def wayUnit (cluster : Bool) (n : Nat) : Nat := 2 * n + if cluster then 1 else 0

/-- The ways that a unit of some kind has lost (R426): how many. -/
def State.waysGone (s : State) (p : Nat → Bool) : Nat := (s.waysOff.filter fun k => p (k / 2 ^ 58)).length

/-- The grains that the L2 holds at most: those of 288 slices (R17), less the slices retired and the ways disabled (R426, R427). -/
def State.l2Grains (s : State) : Nat :=
  sliceGrains * (288 - s.slicesOff.length) - s.waysGone fun u => u % 2 == 0 && !s.slicesOff.contains (u / 2)

/-- The L2 gives back a remotely homed grain: a shared copy goes silently, and an owned one is offered to its home by PutM or PutO and goes
when the home has acknowledged it (R226). -/
def State.giveBack (s : State) (g : Nat) : State :=
  match s.held.find? g with
  | none => s
  | some .s | some .u => s.surrender g
  | some st =>
    if s.putting.contains g then s
    else
      let s := (s.recall g).clean g
      let s := { s with putting := s.putting ++ [g] }
      if st == .e then s.sendMsg (chipOf (g * 512)) .putM g else s.sendData (chipOf (g * 512)) g (s.tag g)

/-- Makes room in a full L2 for a remotely homed grain: a shared copy goes, or else an owned one is given back (the choice of the grain is
the model's, notes/assumptions/91). -/
def State.makeRoom (s : State) : State :=
  if s.held.length < s.l2Grains then s
  else
    match (List.find? (fun p : Nat × HeldState => p.2 == .s || p.2 == .u) s.held).or
        (List.find? (fun p : Nat × HeldState => !s.putting.contains p.1) s.held) with
    | some p => s.giveBack p.1
    | none => s

/-! ### Back-invalidation of the host (R415) -/

/-- Whether a back-invalidate must be answered before the home may grant M of a grain or perform a SYSTEM atomic on it: CXL.mem has
trained, the grain has SYSTEM reach, and the host may have read it since the last one. -/
def State.hostMayHold (s : State) (g : Nat) : Bool :=
  bitAt (s.cfgAt 0x50 0) 11 && tagReach (s.tag g) == 2 && s.hostClean.find? g != some true

/-- The first identity of back-invalidate snoops: one to each grain. -/
def snoopId : Nat := 2 ^ 59

/-- The answer to a back-invalidate has served its grant or atomic: the next one asks again (R415). -/
def State.hostUsed (s : State) (g : Nat) : State := { s with hostClean := s.hostClean.filter fun p => p.1 != g || !p.2 }

/-- Asks the host to give up its copies of a grain, once. -/
def State.backInvalidate (s : State) (g : Nat) : State :=
  if (s.hostClean.find? g).isSome then s
  else { s.send (.backInvalidate (snoopId + g) (g * 512)) with hostClean := s.hostClean.insert g false }

/-! ### The home (R225, R226) -/

/-- The page of an address is in transition (R236, R300, R307): new translations of it stall. -/
def State.stalled (s : State) (pa : Nat) : Bool :=
  s.pageOps.any fun p => decide (p.1 * 4096 ≤ pa) && decide (pa < p.1 * 4096 + p.2.size)

/-- A request of a chip to the home stalls on a page in transition: one whose shoot-down the home still awaits asks for an access that it had
already translated, which is served (R236). -/
def State.stalledFor (s : State) (chip pa : Nat) : Bool :=
  s.pageOps.any fun p => decide (p.1 * 4096 ≤ pa) && decide (pa < p.1 * 4096 + p.2.size) && !p.2.acks.contains chip

/-- Ends a transaction whose answers have all arrived: the tag is written and the requester answered (R226). When another chip is granted
M the floor passes the leases on the grain here too: R230 names only grains that another chip homes (DESIGN CHOICE,
notes/assumptions/110). -/
def State.finishTxn (s : State) (g : Nat) : State :=
  match s.txns.find? g with
  | none => s
  | some t =>
    if !t.acks.isEmpty || t.data then s
    else
      let tag := if t.dirty then t.nextDirty else t.next
      let s := { s with txns := s.txns.erase g }
      if t.reply == 3 then s
      else if t.reply == 4 then { s with recalled := g :: s.recalled.filter (· != g) }
      else
      let s := s.setTag g (if t.getM && t.chip == s.chip then tag else tagSet tag 9 8 (tagEpoch (s.tag g)))
      let s := if t.getM && t.chip != s.chip then s.passFloor g else s
      if t.reply == 1 then s.sendData t.chip g (s.tag g)
      else if t.reply == 2 then s.sendMsg t.chip .grant g
      else s

/-- Opens a transaction: invalidations and forwards go out, and it ends at once when nothing is awaited. A Forward names the chip that
the owner's data goes to: the requester, or this home when it awaits the data. -/
def State.openTxn (s : State) (g : Nat) (inv fwd : List Nat) (excl : Bool) (t : Txn) : State :=
  let s := inv.foldl (fun s c => s.sendMsg c .invalidate g) s
  let s := fwd.foldl (fun s c => s.sendCoh c (if excl then .forwardM else .forwardS) (g * 512) 0 (if t.data then s.chip else t.chip) []) s
  ({ s with txns := s.txns.insert g { t with acks := fwd ++ inv } }).finishTxn g

/-- Handles one request of chip x for a grain, from start to finish (Table 10·3). The chip itself requests its own grains here too; its
reads leave every copy shared and its writes leave none. A grain whose tag disagrees with the requester's leaf is sent as it stands, and
the requester finds CLASS_ALIAS in the tag (R223); one of CHIP reach never leaves, and its request is answered with REACH (R174, R224). A
grant of E raises the floor as one of M does, since its owner may write without a word (notes/assumptions/110). -/
def State.homeServe (s : State) (g : Nat) (r : HomeReq) : State :=
  let s := s.recall g
  let x := r.chip
  let own := x == s.chip
  let s := if own then s else s.adoptAs g r.leaf x
  let t := s.tag g
  let mTag := if own then writtenTag t else ownedBy t 4 x
  let st := tagState t
  let base : Txn := { chip := x, getM := r.getM, next := t, nextDirty := t, epoch := r.epoch }
  if !own && !leafAgrees t r.leaf then s.sendData x g t
  else if !own && tagReach t == 0 then s.sendCoh x .answer (g * 512) FaultCode.reach.num (2 ^ 61) []
  else if tagClass t == 3 || st == 5 || st == 6 then if own then s else { s.clean g with recalled := s.recalled.filter (· != g) }.sendData x g t
  else if st == 7 then
    if own then s
    else
      let cs := s.sharers t 0
      let t' := s.withSharers t (if cs.contains x then cs else cs ++ [x])
      (s.setTag g t').sendData x g t'
  else if st == 0 then
    if own then s
    else
      let t' := ownedBy t (if r.getM then 4 else 2) x
      let s := s.passFloor g
      let t' := tagSet t' 9 8 (tagEpoch (s.tag g))
      (s.setTag g t').sendData x g t'
  else if st == 1 then
    let cs := s.sharers t 0
    if r.getM then
      s.openTxn g (cs.filter fun c => c != x && c != s.chip) [] true
        { base with next := mTag, nextDirty := mTag, reply := if own then 0 else if r.upgrade && cs.contains x then 2 else 1 }
    else if own then s
    else
      let t' := s.withSharers t (if cs.contains x then cs else cs ++ [x])
      (s.setTag g t').sendData x g t'
  else
    let o := tagPtr t 0
    let others := if st == 3 then s.sharers t 1 else []
    if x == o then
      s.openTxn g (others.filter (· != x)) [] true { base with next := ownedBy t 4 x, nextDirty := ownedBy t 4 x, reply := 2 }
    else if r.getM then
      s.openTxn g (others.filter (· != x)) [o] true { base with next := mTag, nextDirty := mTag, data := own }
    else
      let shared := s.withSharers (tagSetState t 1) (o :: others ++ (if own || others.contains x then [] else [x]))
      let oTag := tagSetPtr (tagSetState t 3) (1 + others.length) x
      if own then s.openTxn g [] [o] false { base with next := shared, nextDirty := shared, data := true }
      else if 3 ≤ others.length && !others.contains x then
        s.openTxn g [] [o] false { base with chip := x, next := shared, nextDirty := shared, data := true, reply := 1 }
      else if st == 3 then
        let t' := if others.contains x then t else oTag
        s.openTxn g [] [o] false { base with next := t', nextDirty := t' }
      else s.openTxn g [] [o] false { base with next := shared, nextDirty := oTag }

/-- Whether a grain's home is busy with it: a transaction, or a store to its replicas (R225, R233). -/
def State.grainBusy (s : State) (g : Nat) : Bool := (s.txns.find? g).isSome || (s.replicaStores.find? g).isSome

/-- A writeback from an owner: the grain goes to state 0, or from O to S of the remaining sharers; data sets the written bit. One from a
chip that is not the owner is acknowledged and its data discarded (R226). The data is of the epoch that the owner's tag names, and no
program writes it here (R351). -/
def State.putBack (s : State) (g chip epoch : Nat) (data : List Byte) : State :=
  let t := s.tag g
  let s := s.sendMsg chip .ack g
  if tagPtr t 0 != chip then s
  else if tagClass t == 3 then (s.putMem (g * 512) (data.take 512)).modTag g fun t => tagSet t 9 8 epoch
  else if 2 ≤ tagClass t || !([2, 3, 4].contains (tagState t)) then s
  else
    let s := if data.isEmpty then s else (s.putMem (g * 512) (data.take 512)).stampGrain g
    let cs := if tagState t == 3 then s.sharers t 1 else []
    let t' := if !cs.isEmpty then s.withSharers (tagSetState t 1) cs
      else if data.isEmpty then tagZeroPtrs (tagSetState t 0) else writtenTag t
    s.setTag g (if data.isEmpty then t' else tagSet t' 9 8 epoch)

/-- Whether a request is for a write-once grain that is not FULL: it is parked, and nothing waits behind it (R234). -/
def State.parkedWs (s : State) (g : Nat) (r : HomeReq) : Bool :=
  tagClass (s.tag g) == 2 && (tagState (s.tag g) == 5 || tagState (s.tag g) == 6) && !r.getM && r.put.isNone

/-- The operations on one grain that the home serialises with its requests (R225). -/
def CohKind.serial (k : CohKind) : Bool := [.store, .atomic, .move, .close, .reset].contains k

/-- Whether an operation of another chip on a grain came before a request for it (R225). -/
def State.opBefore (s : State) (g : Nat) (r : HomeReq) : Bool :=
  r.chip != s.chip && r.put.isNone &&
    s.remoteOps.any fun o => grainOf o.pa == g && o.kind.serial && (r.order == 0 || decide (o.order < r.order))

/-- Whether a request for a grain that waits came before an operation of another chip on it (R225). -/
def State.requestBefore (s : State) (o : RemoteOp) : Bool :=
  o.kind.serial && (s.waitingReqs.get (grainOf o.pa) []).any fun r =>
    r.chip != s.chip && decide (r.order < o.order) && !s.parkedWs (grainOf o.pa) r

/-- A request joins those that wait for a grain. -/
def State.queueReq (s : State) (g : Nat) (r : HomeReq) : State :=
  let r := if r.order == 0 then { r with order := s.nextId + 1 } else r
  { s with waitingReqs := s.waitingReqs.insert g (s.waitingReqs.get g [] ++ [r]), nextId := max s.nextId r.order }

/-- A request to the home: it waits while the grain is busy or its page in transition, while a write-once grain is not FULL, or for the
host to give up its copies before the grain is granted for writing (R415). -/
def State.homeRequest (s : State) (g : Nat) (r : HomeReq) : State :=
  let own := r.chip == s.chip
  if s.grainBusy g || s.opBefore g r || (!own && r.put.isNone && s.stalledFor r.chip (g * 512)) then s.queueReq g r
  else
    match r.put with
    | some data => s.putBack g r.chip (r.leaf % 4) data
    | none =>
      let s := if own then s else s.adoptAs g r.leaf r.chip
      let grants := r.getM || (!own && tagState (s.tag g) == 0)
      if !own && !leafAgrees (s.tag g) r.leaf then s.homeServe g r
      else if s.parkedWs g r then s.queueReq g r
      else if grants && s.hostMayHold g then (s.backInvalidate g).queueReq g r
      else (if grants && !own then s.hostUsed g else s).homeServe g r

/-- Takes up the requests that wait on a grain, in arrival order (R225). -/
def State.homeNext (s : State) (g : Nat) : State :=
  (s.waitingReqs.get g []).foldl (fun s r => s.homeRequest g r) { s with waitingReqs := s.waitingReqs.erase g }

/-- Takes up every request whose grain is free again. -/
def State.homeRetry (s : State) : State :=
  s.waitingReqs.foldl (fun s p => if s.grainBusy p.1 then s else s.homeNext p.1) s

/-- What a translation waits for that stalls on a page in transition: no grain. -/
def noGrain : Nat := 2 ^ 43

/-- Asks for a grain that this chip may not yet read or write, for an access with a leaf: at its own home by a transaction, at another by
GetS, GetM or, from a sharer, Upgrade, once (R225). -/
def State.request (s : State) (g : Nat) (getM : Bool) (leaf : Nat := walkLeaf) : State :=
  if g == noGrain then s
  else if chipOf (g * 512) == s.chip then
    if (s.txns.find? g).isSome || (s.waitingReqs.get g []).any (fun r => r.chip == s.chip) then s
    else s.homeRequest g { chip := s.chip, getM := getM, upgrade := false, epoch := s.epoch }
  else if (s.requested.find? g).isSome || s.putting.contains g then s
  else
    let k : CohKind := match getM, s.held.find? g with
      | false, _ => .getS
      | true, some .s | true, some .o => .upgrade
      | true, _ => .getM
    { s.sendCoh (chipOf (g * 512)) k (g * 512) leaf 0 [] with requested := s.requested.insert g getM }

/-! ### Recalls for the host and the reliability interface (R225, R254, R415, R424) -/

/-- Whether another chip holds the latest data of a grain of this home: its owner, or the chip of a private grain's owner core. -/
def heldElsewhere (chip : Nat) (t : BitVec 64) : Bool :=
  if tagClass t == 3 then tagPtr t 0 != chip else decide (tagClass t < 2) && (tagState t == 2 || tagState t == 3 || tagState t == 4)

/-- Recalls the copies of a grain of this home for an access that no chip makes: the engine's, the owner's, that of the chip of a private
grain's owner core, which the home asks for as it does of an owner, and for a write the sharers'. Answers whether none is left. -/
def State.takeBack (s : State) (g : Nat) (write : Bool) : Bool × State :=
  if s.grainBusy g then (false, s)
  else
    let s := (s.recall g).clean g
    let t := s.tag g
    let ask : Txn := { chip := s.chip, getM := true, next := t, nextDirty := t, epoch := s.epoch }
    let sharers := (s.sharers t 0).filter (· != s.chip)
    if !tagFree t && tagClass t == 3 && heldElsewhere s.chip t && !s.recalled.contains g then
      (false, s.openTxn g [] [tagPtr t 0] true { ask with data := true, reply := 4 })
    else if write && tagClass t == 2 && tagState t == 7 && !sharers.isEmpty then
      (false, s.openTxn g sharers [] true { ask with next := s.withSharers t [], nextDirty := s.withSharers t [] })
    else if !(if write then s.mayWrite g else s.mayRead g) then (false, s.request g write)
    else (true, s)

/-- The same of some grains: whether no copy of any of them is left. -/
def State.takeAllBack (s : State) (gs : List Nat) (write : Bool) : Bool × State :=
  gs.foldl (fun (r : Bool × State) g =>
    let (ok, s) := r.2.takeBack g write
    (r.1 && ok, s)) (true, s)

/-- Takes note that an access has used the recalls of some grains. -/
def State.tookBack (s : State) (gs : List Nat) : State := { s with recalled := s.recalled.filter fun g => !gs.contains g }

end Sys2Proof.Machine
end

