-- ==== Sys2Proof/Machine/Buffers.lean ====
section
/-!
DEFINITION. The typed buffers (R179 to R181): a team's A-buffer window on each core, its C-buffer window and its W-store window,
each bank possibly a publish pair with a visible and a shadow side (R299), and what matrix work holds back in them (R279).
-/

namespace Sys2Proof.Machine

/-- The bank size of a space: 16 KiB, 64 KiB, 4 KiB. -/
def bankSize (space : Nat) : Nat :=
  match space with
  | 1 => 16384
  | 2 => 65536
  | _ => 4096

/-- The bytes of a team's window; of the W-store, those of one slice. -/
def Team.window (t : Team) (space : Nat) : Nat :=
  match space with
  | 1 => t.abanks * 16384
  | 2 => t.cbanks * 65536
  | _ => t.wsub * 4096

/-- Whether bank i of a window is the visible bank of a publish pair. -/
def Team.paired (t : Team) (space i : Nat) : Bool :=
  bitAt (match space with
    | 1 => t.apair
    | 2 => t.cpair
    | _ => t.wpair) i

/-- The unit of a space that an address is in: the core of the cluster for the A-buffer, the slice for the W-store. -/
def unitOf (space core : Nat) : Nat := if space == 1 then core % 4 else 0

/-- The key of a pair's swap state. -/
def pairKey (space unit i : Nat) : Nat := (space * 64 + (if space == 1 then unit else 0)) * 64 + i

/-- The side that programs see of the bank that holds an address. -/
def Team.side (t : Team) (space unit a : Nat) : Bool := t.swapped.get (pairKey space unit (a / bankSize space)) false

/-- The key of one byte of a typed buffer: space, unit (core or slice), side and address. -/
def bufKey (space unit : Nat) (side : Bool) (a : Nat) : Nat :=
  ((space * 64 + unit) * 2 + (if side then 1 else 0)) * 2 ^ 21 + a

/-- One byte of a window on the visible or the shadow side. -/
def Team.bufByte (t : Team) (space unit : Nat) (shadow : Bool) (a : Nat) : Byte :=
  t.bufs.get (bufKey space unit (t.side space unit a != shadow) a) 0

/-- Writes one byte of a window. -/
def Team.setBufByte (t : Team) (space unit : Nat) (shadow : Bool) (a : Nat) (b : Byte) : Team :=
  { t with bufs := t.bufs.put (bufKey space unit (t.side space unit a != shadow) a) b 0 }

/-- Bytes of a team's window. -/
def State.bufRead (s : State) (team space unit : Nat) (shadow : Bool) (a n : Nat) : List Byte :=
  (List.range n).map fun i => (s.team team).bufByte space unit shadow (a + i)

/-- A little-endian number in a team's window, visible side. -/
def State.bufNat (s : State) (team space unit a n : Nat) : Nat := ofBytes (s.bufRead team space unit false a n)

/-- The index of a bank as a marked object (Table 15·2): unit, bank and side. -/
def bankIndex (unit bank : Nat) (side : Bool) : Nat := (unit * 64 + bank) * 2 + (if side then 1 else 0)

/-- The bytes of one bank. -/
def State.bankBytes (s : State) (team space unit bank : Nat) (side : Bool) : List Byte :=
  (List.range (bankSize space)).map fun i => (s.team team).bufs.get (bufKey space unit side (bank * bankSize space + i)) 0

/-- Preserves the bank that holds an address when a live snapshot marks it (R181, R350). -/
def State.bankCow (s : State) (team space unit : Nat) (shadow : Bool) (a : Nat) : State :=
  let side := (s.team team).side space unit a != shadow
  let bank := a / bankSize space
  s.cow (5 + space) team (bankIndex unit bank side) fun s => s.bankBytes team space unit bank side

/-- Reads an object that a mark names, for its record. -/
def State.markedBody (s : State) (k : Nat) : List Byte :=
  let ty := k / 2 ^ 48
  let owner := k % 2 ^ 48 / 2 ^ 16
  let i := k % 2 ^ 16
  if ty == 5 then s.blockBytes owner i
  else if ty == 9 then Config.imageBody s.freeCtr
  else s.bankBytes owner (ty - 5) (i / 128) (i / 2 % 64) (i % 2 == 1)

/-- Preserves one marked object that no write has preserved. -/
def State.sweepMark (s : State) (k : Nat) : State := s.cow (k / 2 ^ 48) (k % 2 ^ 48 / 2 ^ 16) (k % 2 ^ 16) fun s => s.markedBody k

/-- Preserves the marked objects of a team whose blocks and banks are about to be freed for others to write (R350). -/
def State.keepMarks (s : State) (tid : Nat) : State :=
  let gs := (s.team tid).groups
  let mine := fun (k : Nat) =>
    let owner := k % 2 ^ 48 / 2 ^ 16
    (k / 2 ^ 48 == 5 && gs.contains owner) || (6 ≤ k / 2 ^ 48 && k / 2 ^ 48 ≤ 8 && owner == tid)
  ((s.liveSnaps.flatMap fun p => p.2.marks).filter mine).eraseDups.foldl State.sweepMark s

/-- Writes bytes of a team's window. -/
def State.bufWrite (s : State) (team space unit : Nat) (shadow : Bool) (a : Nat) (bs : List Byte) : State :=
  bs.zipIdx.foldl (fun s p =>
    (s.bankCow team space unit shadow (a + p.2)).modTeam team fun t => t.setBufByte space unit shadow (a + p.2) p.1) s

/-- The slice and the window offset of a linear byte address of a W-store window (R301). -/
def wstoreAt (a : Nat) : Nat × Nat := ((a / 8) % 64, (a / 512) * 8 + a % 8)

/-- Whether two ranges overlap. -/
def Range.overlaps (a b : Range) : Bool :=
  a.space == b.space && a.owner == b.owner && decide (a.lo < b.hi) && decide (b.lo < a.hi)

/-- Whether any range of one list overlaps any of another. -/
def Range.meet (a b : List Range) : Bool := a.any fun x => b.any fun y => x.overlaps y

/-- The owner under which a team's ranges of a typed buffer are listed. -/
def bufOwner (team space core : Nat) : Nat := team * 4 + (if space == 1 then core % 4 else 0)

/-- Whether the matrix work among some items holds back an access to ranges: one that would write what the work
reads, or touch what it writes (R279). Work that a save has removed holds nothing. -/
def workHolds (ws : SMap Work) (reads writes : List Range) : Bool :=
  ws.any fun p => p.2.state != 5 &&
    (Range.meet writes p.2.reads || Range.meet writes p.2.writes || Range.meet reads p.2.writes)

end Sys2Proof.Machine
end

