-- ==== Sys2Proof/Machine/Translate.lean ====
section
/-!
DEFINITION. Handles (Table 8·1), their checks (R165 to R168), the page walk (R169, R170), the TLBs (R172), the accessed and dirty
bits (R173), and the check of a leaf against a use (R174, R175).
-/

namespace Sys2Proof.Machine

/-! ### Handles -/

/-- The base address of a handle. -/
def handleBase (h : HandleBits) : Nat := bits h.toNat 51 0 * 16
/-- The length of a handle. -/
def handleLen (h : HandleBits) : Nat := bits h.toNat 91 52
/-- The rights of a handle. -/
def handleRights (h : HandleBits) : Nat := bits h.toNat 99 92
/-- The address space of a handle. -/
def handleAsid (h : HandleBits) : Nat := bits h.toNat 109 100
/-- Whether a handle grants a right (Table 8·2). -/
def handleHas (h : HandleBits) (r : Nat) : Bool := bitAt (handleRights h) r

/-- A handle from its fields, seal zero. -/
def mkHandle (base16 len rights asid : Nat) : HandleBits :=
  BitVec.ofNat 128 (base16 % 2 ^ 52 + (len % 2 ^ 40) * 2 ^ 52 + (rights % 256) * 2 ^ 92 + (asid % 1024) * 2 ^ 100)

/-- The offset e of R168. -/
def offsetOf (off : Word) (imm : BitVec 12) (unit : Nat) : Int := off.toInt + imm.toInt * unit

/-- The address an access names, which FAULTVA records too. DESIGN CHOICE (notes/assumptions/14): an address past 2^52 wraps to the 52
bits that a virtual address has. -/
def vaOf (h : HandleBits) (e : Int) : Nat := wrapTo 52 (handleBase h + e)

/-- The checks of R168 before translation, in order: z bytes at offset e, with every one of `need` and one of `any`. -/
def checkHandle (c : Ctx) (h : HandleBits) (e : Int) (z : Nat) (align : Nat) (need any : List Nat) : Option FaultCode :=
  if bits h.toNat 51 48 != 0 then some .handleBounds
  else if need.any (fun r => !handleHas h r) || (!any.isEmpty && any.all fun r => !handleHas h r) then some .handleRights
  else if !(c.asidSet.any fun p => p.1 == handleAsid h) then some .handleRights
  else if e < 0 || (handleLen h : Int) < e + z then some .handleBounds
  else if e % (align : Int) != 0 then some .misaligned
  else none

/-! ### The walk -/

/-- A bit of a page table entry. -/
def pteBit (p : BitVec 64) (i : Nat) : Bool := p.getLsbD i
/-- The class of a leaf. -/
def pteClass (p : BitVec 64) : Nat := bits p.toNat 6 5
/-- The reach of a leaf. -/
def pteReach (p : BitVec 64) : Nat := bits p.toNat 8 7
/-- The frame address of an entry. -/
def pteFrame (p : BitVec 64) : Nat := bits p.toNat 55 16 * 4096
/-- Whether a leaf is of host memory. -/
def pteHost (p : BitVec 64) : Bool := p.getLsbD 56

/-- What a translation gives: a leaf with its physical address, a page that is not resident, a malformed entry, or a table
whose grain another chip must first send. -/
inductive Tr where
  | leaf (l : Leaf) (pa : Nat)
  | absent
  | malformed
  | away (g : Nat) (write : Bool)
  deriving DecidableEq, Repr

/-- The page size of a leaf at a level (R169). -/
def levelSize (level : Nat) : Nat := 2 ^ (42 - 10 * level)

/-- The walk from the table of a level (R169). -/
def State.walkFrom (s : State) (va table level : Nat) : Nat → Tr
  | 0 => .malformed
  | n + 1 =>
    let ea := table + 8 * (va / 2 ^ (42 - 10 * level) % 1024)
    if !s.mayRead (grainOf ea) then .away (grainOf ea) false
    else
      let p := BitVec.ofNat 64 (s.readNat ea 8)
      if !pteBit p 0 then .absent
      else if pteBit p 1 then
        if level == 0 || pteReach p == 3 then .malformed
        else if !pteBit p 10 then .absent
        else .leaf { pte := p, size := levelSize level, vbase := va / levelSize level * levelSize level, pteAddr := ea } 0
      else if level == 3 then .malformed
      else s.walkFrom va (pteFrame p) (level + 1) n

/-- The base physical address of a leaf's page. -/
def Leaf.base (l : Leaf) : Nat := pteFrame l.pte / l.size * l.size

/-- The size of the page that a leaf belongs to: 64 KiB for a member of a contiguous group (R171). -/
def Leaf.pageSize (l : Leaf) : Nat := if pteBit l.pte 14 && l.size == 4096 then 65536 else l.size

/-- The base physical address of that page (R171). -/
def Leaf.pageBase (l : Leaf) : Nat := pteFrame l.pte / l.pageSize * l.pageSize

/-- The current side of a leaf's page (R299). -/
def State.sideOf (s : State) (l : Leaf) : Bool := pteBit l.pte 15 && s.sides.contains l.pageBase

/-- The physical address of a VA under a leaf, on a side, which lies a page size beyond the other (R169, R299). -/
def Leaf.pa (l : Leaf) (side : Bool) (va : Nat) : Nat := l.base + (if side then l.pageSize else 0) + (va - l.vbase)

/-- The TLB entry that serves an address: its ASID or a global one, on the current side (R172). -/
def State.tlbFind (s : State) (es : List TlbEntry) (asid va : Nat) : Option TlbEntry :=
  es.find? fun e => (e.asid == asid || pteBit e.leaf.pte 13) && decide (e.leaf.vbase ≤ va) &&
    decide (va < e.leaf.vbase + e.leaf.size) && e.side == s.sideOf e.leaf

/-- The set of a second-level TLB that an entry belongs to: its page number modulo the 256 sets (R172; DESIGN CHOICE,
notes/assumptions/16). -/
def TlbEntry.set (e : TlbEntry) : Nat := e.leaf.vbase / e.leaf.size % 256

/-- Adds an entry to a core's fully associative TLB of 128 entries, the oldest leaving. -/
def coreTlbAdd (es : List TlbEntry) (e : TlbEntry) : List TlbEntry := (e :: es.filter (· != e)).take 128

/-- Adds an entry to a cluster's TLB of 256 sets of 8 ways, the oldest of its set leaving. -/
def clusterTlbAdd (es : List TlbEntry) (e : TlbEntry) : List TlbEntry :=
  let old := es.filter (· != e)
  let mine := old.filter fun o => o.set == e.set
  e :: (if mine.length < 8 then old else old.filter fun o => some o != mine.getLast?)

/-- The addresses of the entries that a walk from the table of a level reads. -/
def State.walkPath (s : State) (va table level : Nat) : Nat → List Nat
  | 0 => []
  | n + 1 =>
    let ea := table + 8 * (va / 2 ^ (42 - 10 * level) % 1024)
    let p := BitVec.ofNat 64 (s.readNat ea 8)
    if !s.mayRead (grainOf ea) then []
    else if pteBit p 0 && !pteBit p 1 && level != 3 then ea :: s.walkPath va (pteFrame p) (level + 1) n
    else [ea]

/-- The reads of a walk are acquire loads at CHIP scope, and a copy of a table that its home has not recorded goes (R173). -/
def State.walkDone (s : State) (q : Nat) (path : List Nat) : State :=
  path.foldl (fun (s : State) ea => (s.acquire q 2 (s.sector ea).wts).dropUncached (grainOf ea)) s

/-- Whether the walker may now set bits of an entry: its grain is writable here, or its home disagrees with the walker about the grain
and no bit can be set (notes/assumptions/90). -/
def State.pteReady (s : State) (l : Leaf) : Bool :=
  s.mayWrite (grainOf l.pteAddr) || s.held.find? (grainOf l.pteAddr) == some .u

/-- Sets bits of a page table entry in memory by an atomic OR (R173): a write by the walker's cluster. -/
def State.orPte (s : State) (q : Nat) (l : Leaf) (mask : Nat) : State :=
  let g := grainOf l.pteAddr
  if !s.mayWrite g then s
  else
    let s := s.recall g
    let s := ((s.stampWrite q l.pteAddr).2).writeMem l.pteAddr (toBytes 8 (s.readNat l.pteAddr 8 ||| mask))
    if tagFree (s.tag g) then s else s.markWritten g

/-- The table at which walks of an address space start. -/
def Ctx.root (c : Ctx) (asid : Nat) : Option Nat := (c.asidSet.find? fun p => p.1 == asid).map (·.2)

/-- Looks an address up for a core: core TLB, cluster TLB, then the walk, which sets the accessed bit of a leaf it installs
(R169, R172, R173). -/
def State.lookup (s : State) (c : Ctx) (core asid va : Nat) : Tr × State :=
  let q := core / 4
  match s.tlbFind (s.coreTlb.get core []) asid va with
  | some e => (.leaf e.leaf (e.leaf.pa e.side va), s)
  | none =>
    match s.tlbFind (s.clusterTlb.get q []) asid va with
    | some e =>
      (.leaf e.leaf (e.leaf.pa e.side va), { s with coreTlb := s.coreTlb.insert core (coreTlbAdd (s.coreTlb.get core []) e) })
    | none =>
      match c.root asid with
      | none => (.absent, s)
      | some t =>
        match s.walkFrom va t 0 4 with
        | .leaf l _ =>
          if !pteBit l.pte 11 && !s.pteReady l then (.away (grainOf l.pteAddr) true, s)
          else
            let path := s.walkPath va t 0 4
            let s := (if pteBit l.pte 11 then s else s.orPte q l (2 ^ 11)).walkDone q path
            let l := { l with pte := l.pte ||| BitVec.ofNat 64 (2 ^ 11) }
            let e : TlbEntry := { asid := asid, leaf := l, side := s.sideOf l }
            (.leaf l (l.pa e.side va),
              { s with coreTlb := s.coreTlb.insert core (coreTlbAdd (s.coreTlb.get core []) e)
                       clusterTlb := s.clusterTlb.insert q (clusterTlbAdd (s.clusterTlb.get q []) e) })
        | .away g w => (.away g w, s)
        | r => (r, s.walkDone q (s.walkPath va t 0 4))

/-- The address of a byte of device memory, or of host memory from 2^52 on. -/
def busAddr (p : BitVec 64) (pa : Nat) : Nat := if pteHost p then 2 ^ 52 + pa else pa

/-- Translates an address for a core; a page in transition stalls (R236, R300). -/
def State.translate (s : State) (c : Ctx) (core asid va : Nat) : Tr × State :=
  match s.lookup c core asid va with
  | (.leaf l pa, s) => if s.stalled (busAddr l.pte pa) then (.away noGrain false, s) else (.leaf l pa, s)
  | r => r

/-- Removes the TLB entries that satisfy a test, in every TLB of the module (R172, R389). -/
def State.tlbDrop (s : State) (p : TlbEntry → Bool) : State :=
  { s with coreTlb := s.coreTlb.map fun t => (t.1, t.2.filter fun e => !p e)
           clusterTlb := s.clusterTlb.map fun t => (t.1, t.2.filter fun e => !p e) }

/-- The grain that the walk for a dirty bit waits for, if any: one on its path, or that of the entry it would set (R173). -/
def State.dirtyAway (s : State) (c : Ctx) (asid va : Nat) (l : Leaf) : Option (Nat × Bool) :=
  if pteBit l.pte 12 then none
  else
    match (c.root asid).map fun t => s.walkFrom va t 0 4 with
    | some (.away g w) => some (g, w)
    | some (.leaf l _) => if s.pteReady l then none else some (grainOf l.pteAddr, true)
    | _ => none

/-- Before a store through a leaf whose dirty bit is 0, the walker walks again and sets the bit in the entry it finds; the TLB entries
of the leaf follow (R173). -/
def State.setDirty (s : State) (c : Ctx) (core asid va : Nat) (l : Leaf) : State :=
  if pteBit l.pte 12 then s
  else
    match c.root asid with
    | none => s
    | some t =>
      let path := s.walkPath va t 0 4
      let found := s.walkFrom va t 0 4
      let s := match found with
        | .leaf l _ => s.orPte (core / 4) l (2 ^ 11 + 2 ^ 12)
        | _ => s
      let s := s.walkDone (core / 4) path
      let up := fun (e : TlbEntry) =>
        if e.leaf == l then { e with leaf := { l with pte := l.pte ||| BitVec.ofNat 64 (2 ^ 12) } } else e
      match found with
      | .leaf _ _ => { s with coreTlb := s.coreTlb.map fun t => (t.1, t.2.map up)
                              clusterTlb := s.clusterTlb.map fun t => (t.1, t.2.map up) }
      | _ => s

/-- Translates for a store: an entry of a TLB whose dirty bit is 0 is walked again (R173). -/
def State.translateStore (s : State) (c : Ctx) (core asid va : Nat) : Tr × State :=
  match s.translate c core asid va with
  | (.leaf l pa, s) =>
    if pteBit l.pte 12 then (.leaf l pa, s)
    else
      let stale := fun (es : List TlbEntry) => es.filter fun e => e.leaf != l
      match { s with coreTlb := s.coreTlb.modify core stale, clusterTlb := s.clusterTlb.modify (core / 4) stale }.translate c core asid va with
      | (.leaf l pa, s) =>
        match s.dirtyAway c asid va l with
        | some (g, w) => (.away g w, s)
        | none => (.leaf l pa, s)
      | r => r
  | r => r

/-! ### The leaf check (R174, R175) -/

/-- The uses that Table 8·4 and R249 distinguish. -/
inductive Use where
  | load
  | store
  | atom
  | red
  | await (full : Bool)
  | engineRead
  | engineWrite
  deriving DecidableEq, Repr

/-- The scope code that a reach admits: CHIP 2, POD 3, SYSTEM 4. -/
def reachScope (r : Nat) : Nat := r + 2

/-- The leaf word of an access: the class and reach of its leaf, and its core. -/
def leafWord (p : BitVec 64) (core : Nat) : Nat := pteClass p + 4 * pteReach p + 16 * core

/-- Whether a use writes. -/
def Use.writes : Use → Bool
  | .store | .atom | .red | .engineWrite => true
  | _ => false

/-- The grain whose owner must be known before a use of an IP page of another home can be checked (R175, R235). -/
def State.ownerAway (s : State) (p : BitVec 64) (pa : Nat) (u : Use) : Option Nat :=
  match u with
  | .load | .store | .engineRead | .engineWrite =>
    if pteClass p == 3 && !pteHost p && !s.mayRead (grainOf pa) then some (grainOf pa) else none
  | _ => none

/-- Whether the grain of an IP page is known to belong to another core (R235). -/
def State.foreignIp (s : State) (core pa : Nat) : Bool :=
  let t := s.tag (grainOf pa)
  s.mayRead (grainOf pa) && tagClass t == 3 && (tagPtr t 0 != s.chip || tagPtr t 1 != core)

/-- Whether a leaf breaks the reach rules of R174: the chip that its frame may lie on, the host bit, and the system right. -/
def State.breaksReach (s : State) (p : BitVec 64) (pa : Nat) (sysRight : Bool) : Bool :=
  (pteHost p && pteReach p != 2) || (pteReach p == 0 && chipOf pa != s.chip) ||
    (pteReach p == 1 && !pteHost p && decide (s.podSize ≤ chipOf pa)) || (pteReach p == 2 && !sysRight)

/-- The checks of a leaf for a use: permissions, reach, class (R174, R175, R249 steps 4 to 7). -/
def State.checkLeaf (s : State) (l : Leaf) (pa core : Nat) (u : Use) (sysRight : Bool) (scope : Nat) : Option FaultCode :=
  let p := l.pte
  let needR := u != .store && u != .red && u != .engineWrite
  let needW := u.writes
  let cl := pteClass p
  if (needR && !pteBit p 2) || (needW && !pteBit p 3) then some .pageProt
  else if s.breaksReach p pa sysRight then some .reach
  else
    match u with
    | .atom | .red =>
      if 2 ≤ cl then some .classOp else if reachScope (pteReach p) < scope then some .reach else none
    | .await full =>
      if cl == 3 || (full && cl != 2) then some .classOp else if reachScope (pteReach p) < scope then some .reach else none
    | _ => if cl == 3 && !pteHost p && s.foreignIp core pa then some .moveRights else none

end Sys2Proof.Machine
end

