-- ==== Sys2Proof/Machine/Access.lean ====
section
/-!
DEFINITION. Performing accesses to memory and typed buffers: each page class at the home and in the cluster cache, write-once
claims, atomics at the unit of Table 11·5, host memory, the order queue of R218, and what a landed access does to its deferred
event.
-/

namespace Sys2Proof.Machine

/-! ### Results of an attempt -/

/-- What an attempt to perform an access gives: its data (and the stamp it read), a refusal found after commit, or that it
must wait, with the state as it is then. -/
inductive Perf where
  | done (s : State) (data : List Byte) (stamp : Nat)
  | refused (s : State) (code : FaultCode)
  | wait (s : State)
  deriving DecidableEq, Repr

/-- The grain of an unassigned tag takes the class and reach of the leaf of its first access; an IP grain takes the accessing
core as its owner (R223). -/
def State.adopt (s : State) (g : Nat) (pte : BitVec 64) (core : Nat) : State := s.adoptAs g (leafWord pte core) s.chip

/-- Whether an access is a wait. -/
def Access.isAwait (a : Access) : Bool :=
  match a.op with
  | .await .. => true
  | _ => false

/-- Whether an access stands for a fence that other chips answer (R214). -/
def Access.isFence (a : Access) : Bool :=
  match a.op with
  | .fence _ => true
  | _ => false

/-- Whether a leaf agrees with a tag in class and reach (R223). -/
def agrees (t pte : BitVec 64) : Bool := tagClass t == pteClass pte && tagReach t == pteReach pte

/-! ### The lines of a cluster cache (R11, R177) -/

/-- The lines that a cluster cache holds at most: 512 KiB of 128 bytes (R11). -/
def cacheLines : Nat := 4096

/-- The cluster of a line's key. -/
def keyCluster (key : Nat) : Nat := key / 2 ^ 45

/-- Whether a line is evicted before another: one that hint 2 does not keep first, then the older (R177). -/
def Line.leavesBefore (a b : Line) : Bool := (!a.keep && b.keep) || (a.keep == b.keep && decide (a.filled < b.filled))

/-- The ways of a set of a cluster's data cache, as of an L2 set in the example of R428 (DESIGN CHOICE, notes/assumptions/125). -/
def cacheWays : Nat := 8

/-- Whether a sector falls in a set of a cluster's data cache that is left with fewer than two ways: it is bypassed, as under hint 3 (R427). -/
def State.bypassed (s : State) (q pa : Nat) : Bool :=
  if s.waysOff.isEmpty then false
  else
    let u := wayUnit true q
    let set := u * 2 ^ 52 + Config.cacheSet u (pa / 128)
    decide (cacheWays < (s.waysOff.filter fun k => k / 64 == set).length + 2)

/-- A full cluster cache evicts one line, written back when it is dirty (R177; the choice is the model's, notes/assumptions/22). -/
def State.evictLine (s : State) (q : Nat) : State :=
  let mine := s.lines.filter fun l => keyCluster l.1 == q
  if mine.length + s.waysGone (· == wayUnit true q) < cacheLines then s
  else
    match mine with
    | [] => s
    | m :: ms =>
      let out := ms.foldl (fun (a : Nat × Line) b => if b.2.leavesBefore a.2 then b else a) m
      let s := s.writeBack out.1
      { s with lines := s.lines.erase out.1 }

/-- A cluster cache takes a line of a sector. -/
def State.fillLine (s : State) (q pa : Nat) (l : Line) : State :=
  let key := lineKey q pa
  let s := if (s.lines.find? key).isSome then s else s.evictLine q
  { s with lines := s.lines.insert key { l with filled := s.clock } }

/-- A line that a load under hint 2 has asked for is retained ahead of default lines (R177). -/
def State.keepLine (s : State) (q pa : Nat) : State :=
  { s with lines := s.lines.modify (lineKey q pa) fun l => { l with keep := true } }

/-- A cluster drops its line of a sector. -/
def State.dropLine (s : State) (q pa : Nat) : State := { s with lines := s.lines.erase (lineKey q pa) }

/-- A line refreshed with its sector's bytes, when the cluster holds it. -/
def State.refreshLine (s : State) (q pa w : Nat) : State :=
  match s.lines.find? (lineKey q pa) with
  | some l =>
    { s with lines := s.lines.insert (lineKey q pa) { l with data := s.sectorBytes pa, rts := w, wts := w } }
  | none => s

/-- Bytes of a line. -/
def Line.bytes (l : Line) (pa n : Nat) : List Byte := (l.data.drop (pa % 128)).take n

/-- The stamp that a read of a value without one counts as having read: the module's largest (DESIGN CHOICE: R229 stamps RC sectors
only; notes/assumptions/92). -/
def State.readStamp (s : State) : Nat := s.maxStamp

/-- The stamp that a load of a sector counts as having read: a publishable page's contents change by a publish too, which writes no sector
(R212, notes/assumptions/92). -/
def State.stampRead (s : State) (pte : BitVec 64) (w : Nat) : Nat := if pteBit pte 15 then s.readStamp else w

/-! ### Replicas (R232, R233) -/

/-- The replica list of the page that holds an address of this home. -/
def State.replicasOf (s : State) (pa : Nat) : List Nat :=
  match List.find? (fun p : Nat × Nat × List Nat => decide (p.1 * 4096 ≤ pa) && decide (pa < p.1 * 4096 + p.2.1)) s.replicas with
  | some p => p.2.2
  | none => []

/-- The chips that hold a replica of the page at an address or are about to (R244). -/
def State.replicaList (s : State) (pa : Nat) : List Nat :=
  s.replicasOf pa ++ (s.replicaCopies.filter fun c => decide (c.page ≤ pa) && decide (pa < c.page + c.size)).map (·.chip)

/-- Where this chip's replica of an address lies, when its home has listed one. -/
def State.replicaAt (s : State) (pa : Nat) : Option Nat :=
  if s.replicaHere.any fun p => decide (p.1 * 4096 ≤ pa) && decide (pa < p.1 * 4096 + p.2) then
    some (s.chip * 2 ^ 40 + pa % 2 ^ 40)
  else none

/-- Writes the first step of R233 to one replica: the grain's data under the lock. -/
def State.replicaWrite (s : State) (chip g : Nat) (data : List Byte) : State :=
  s.sendPair chip g (tagSet (s.tag g) 11 11 1) data

/-- The bytes of a grain with some of them replaced. -/
def State.grainWith (s : State) (pa : Nat) (bs : List Byte) : List Byte :=
  let o := pa % 512
  let old := s.readMem (grainOf pa * 512) 512
  old.take o ++ bs ++ old.drop (o + bs.length)

/-- Begins a store or an atomic on a replicated grain of this home (R233 step 1): its new data goes to every replica under the lock. -/
def State.replicaStart (s : State) (a : Access) (bs : List Byte) (remote : Option RemoteOp) : State :=
  let g := grainOf a.pa
  let rs := (s.replicaList a.pa).eraseDups
  let data := s.grainWith a.pa bs
  let s := rs.foldl (fun s c => s.replicaWrite c g data) s
  { s with replicaStores := s.replicaStores.insert g { access := a, data := data, targets := rs, acks := rs, remote := remote } }

/-! ### Asking another home (R233, R234, R242, R250) -/

/-- Sends an access's operation to its home, which performs it and answers with the access's number. -/
def State.sendOp (s : State) (a : Access) (k : CohKind) (data : List Byte) : State :=
  s.sendCoh (chipOf a.pa) k a.pa (leafWord a.pte a.core) a.id data

/-! ### Accesses to device memory -/

/-- Before any access to a grain: it stalls under a replica lock or when the chip may not reach it yet (a request goes out), or while the host may hold a copy of what is to be written; the engines surrender it, and its tag is adopted and
compared (R223, R225, R233, R236, R252, R415). -/
def State.approach (s : State) (pa core : Nat) (pte : BitVec 64) (write : Bool) (k : State → Perf) : Perf :=
  let g := grainOf pa
  let once := s.held.find? g == some .u
  if tagLock (s.tag g) || (s.txns.find? g).isSome || (s.replicaStores.find? g).isSome || s.putting.contains g then .wait s
  else if !once && !(if write then s.mayWrite g else s.mayRead g) then .wait (s.request g write (leafWord pte core))
  else
    let s := s.recall g
    let s := if chipOf pa == s.chip then s.adopt g pte core else s
    if write && chipOf pa == s.chip && s.hostMayHold g && agrees (s.tag g) pte then .wait (s.backInvalidate g)
    else if !agrees (s.tag g) pte then .refused (s.dropUncached g) .classAlias
    else if once then .refused (s.dropUncached g) .moveRights
    else k s

/-- The first access that a new owner makes to an IP grain acts as an acquire (R208). -/
def State.takeGrant (s : State) (q g reach : Nat) : State :=
  if s.granted.contains g then { s.acquire q (reachScope reach) s.readStamp with granted := s.granted.filter (· != g) } else s

/-- A read of this chip's replica (R176, R223, R233): it waits under the lock, and the replica's tag must agree with the leaf. -/
def State.replicaTest (s : State) (ra : Nat) (pte : BitVec 64) (k : State → Perf) : Perf :=
  if tagLock (s.tag (grainOf ra)) then .wait s
  else if !agrees (s.tag (grainOf ra)) pte then .refused s .classAlias
  else if tagPoison (s.tag (grainOf ra)) then .refused s .poison
  else k s

/-- A read by cluster q is granted a lease, and its line kept (R229). -/
def State.leaseLine (s : State) (q pa hint : Nat) : State :=
  let x := s.sector pa
  let r := min (max x.rts (s.ltsOf q + s.leaseTicks)) 0xFFFF
  (s.setSector pa { x with rts := r }).fillLine q pa { data := s.sectorBytes pa, rts := r, wts := x.wts, keep := hint == 2 }

/-- A load of device memory (R175, R177, R207, R229, R232): its bytes and the stamp of what it read. A load under hint 1 or 3 keeps no
line, and its cluster's view of the sector goes with it (R177, R197). -/
def State.loadDev (s : State) (core pa n : Nat) (pte : BitVec 64) (hint : Nat) : Perf :=
  let q := core / 4
  let g := grainOf pa
  let hit := s.lines.find? (lineKey q pa)
  let cl := pteClass pte
  let bypass := hint == 1 || hint == 3 || s.bypassed q pa
  let leased := match hit with
    | some l => cl == 1 && !bypass && decide (s.ltsOf q ≤ l.rts) && (s.engineOf g).isNone
    | none => false
  match (if cl == 0 && pteBit pte 9 && chipOf pa != s.chip then s.replicaAt pa else none) with
  | some ra => s.replicaTest ra pte fun s => .done s (s.readMem ra n) s.readStamp
  | none =>
    if cl == 1 && s.rebaseDue then .wait s
    else if leased then
      match hit with
      | some l =>
        if !tagFree (s.tag g) && !agrees (s.tag g) pte then .refused s .classAlias
        else if tagPoison (s.tag g) then .refused s .poison
        else .done (if hint == 2 then s.keepLine q pa else s) (l.bytes pa n) (s.stampRead pte l.wts)
      | none => .wait s
    else
      s.approach pa core pte false fun s =>
        let x := s.sector pa
        if tagPoison (s.tag g) then .refused s .poison
        else
          match cl with
          | 0 => .done s (s.readMem pa n) x.wts
          | 1 =>
            let s := if bypass then s.dropLine q pa else s.leaseLine q pa hint
            .done s (s.readMem pa n) (s.stampRead pte x.wts)
          | 2 => if tagState (s.tag g) == 7 then .done s (s.readMem pa n) s.readStamp else .wait s
          | _ =>
            if tagPtr (s.tag g) 0 != s.chip || tagPtr (s.tag g) 1 != core then .refused s .moveRights
            else
              let s := s.takeGrant q g (pteReach pte)
              match hit with
              | some l =>
                .done (if bypass then (s.writeBack (lineKey q pa)).dropLine q pa else if hint == 2 then s.keepLine q pa else s)
                  (l.bytes pa n) s.readStamp
              | none =>
                .done (if bypass then s
                  else s.fillLine q pa { data := s.sectorBytes pa, free := true, keep := hint == 2 })
                  (s.readMem pa n) s.readStamp

/-- What pf brings near (R187): a grain that this chip may not read is asked for; the line of one that it may is brought into the cluster
cache under hint 0 or 2, where a load could keep it. No tag is adopted and nothing acquired, since pf is no access (R196). -/
def State.bringNear (s : State) (core pa : Nat) (pte : BitVec 64) (hint : Nat) : State :=
  let q := core / 4
  let g := grainOf pa
  let t := s.tag g
  let valid := match s.lines.find? (lineKey q pa) with
    | some l => l.free || decide (s.ltsOf q ≤ l.rts)
    | none => false
  if pteClass pte == 0 || pteHost pte then s
  else if !s.mayRead g then s.request g false (leafWord pte core)
  else if hint == 1 || hint == 3 || s.bypassed q pa || valid || (!tagFree t && !agrees t pte) || tagPoison t || (s.engineOf g).isSome || (s.txns.find? g).isSome then s
  else if pteClass pte == 1 then if s.rebaseDue then s else s.leaseLine q pa hint
  else if pteClass pte == 3 && !tagFree t && tagPtr t 0 == s.chip && tagPtr t 1 == core then
    s.fillLine q pa { data := s.sectorBytes pa, free := true, keep := hint == 2 }
  else s

/-- The mask of n bytes at an address of a grain. -/
def grainMask (pa n : Nat) : BitVec 512 := BitVec.ofNat 512 ((2 ^ n - 1) * 2 ^ (pa % 512))

/-- Marks a write-once grain FULL: its loads and requests may now be answered (R234). -/
def State.wsFull (s : State) (g : Nat) : State :=
  let t := tagSet (tagNoPtrs (tagSetState (s.tag g) 7)) 7 7 0
  { (s.preserve g).setTag g (tagSet t 9 8 (s.epoch % 4)) with wsMask := s.wsMask.erase g }

/-- The bytes of an EMPTY grain become zero: those never written read as zero (R234). -/
def State.zeroGrain (s : State) (g : Nat) : State := s.writeMem (g * 512) (List.replicate 512 0)

/-- A store of a cluster of a chip to a write-once grain (R234). -/
def State.storeWs (s : State) (chip q pa : Nat) (bs : List Byte) : Perf :=
  let g := grainOf pa
  let t := s.tag g
  let m := s.wsMask.get g 0
  let b := grainMask pa bs.length
  let put := fun (s : State) (m : BitVec 512) =>
    let s := (s.writeMem pa bs)
    let s := { s with wsMask := s.wsMask.insert g m }
    Perf.done (if m == BitVec.allOnes 512 then s.wsFull g else s) [] 0
  if tagState t == 7 then .refused s .wsRewrite
  else if tagState t == 6 then
    if tagPtr t 0 != chip || tagPtr t 1 % 512 != q then .refused s .wsForeign
    else if m &&& b != 0 then .refused s .wsRewrite
    else put s (m ||| b)
  else
    let s := (s.preserve g).zeroGrain g
    put (s.setTag g (tagSetPtr (tagSetPtr (tagSetState (tagZeroPtrs (s.tag g)) 6) 0 chip) 1 q)) b

/-- A write of one thread to a sector at its home slice (R229), a release first carrying what the thread's loads have read into the
stamp (R203). Answers the stamp. -/
def State.stampFor (s : State) (a : Access) : Nat × State :=
  let s := if a.release || pteClass a.pte == 0 then s.raiseLts (a.core / 4) ((s.group a.gid).thread a.lane).seen else s
  s.stampWrite (a.core / 4) a.pa

/-- Whether a store is performed at another home: a write-once grain's, or that of a replicated page (R233, R234). -/
def State.storeAway (s : State) (pa : Nat) (pte : BitVec 64) : Bool :=
  chipOf pa != s.chip && (pteClass pte == 2 || (pteClass pte == 0 && pteBit pte 9))

/-- A store to device memory (R175 to R177, R226, R229, R233 to R235). A store to a replicated grain with replicas begins its two
steps and waits for them. A poisoned grain keeps its poison, and no line hides it. -/
def State.storeDev (s : State) (a : Access) (bs : List Byte) : Perf :=
  let q := a.core / 4
  let g := grainOf a.pa
  let cl := pteClass a.pte
  let bypass := a.hint == 1 || a.hint == 3 || s.bypassed q a.pa
  if cl == 1 && s.rebaseDue then .wait s
  else if s.storeAway a.pa a.pte then .wait (if a.sent then s else s.sendOp a .store bs)
  else
    s.approach a.pa a.core a.pte true fun s =>
      let bad := tagPoison (s.tag g)
      match cl with
      | 0 =>
        if pteBit a.pte 9 && !(s.replicaList a.pa).isEmpty then .wait (s.replicaStart a bs none)
        else
          let (w, s) := s.stampFor a
          .done ((s.writeMem a.pa bs).markWritten g) [] w
      | 1 =>
        let (w, s) := s.stampFor a
        let s := (s.writeMem a.pa bs).markWritten g
        .done (if bad then s.dropLine q a.pa
          else if bypass then s.refreshLine q a.pa w
          else s.fillLine q a.pa { data := s.sectorBytes a.pa, rts := w, wts := w, keep := a.hint == 2 }) [] w
      | 2 => s.storeWs s.chip q a.pa bs
      | _ =>
        if tagPtr (s.tag g) 0 != s.chip || tagPtr (s.tag g) 1 != a.core then .refused s .moveRights
        else
          let s := (s.takeGrant q g (pteReach a.pte)).modTag g fun t => tagSetState t 4
          let key := lineKey q a.pa
          let old := match s.lines.find? key with
            | some l => l.data
            | none => s.sectorBytes a.pa
          let o := a.pa % 128
          let data := old.take o ++ bs ++ old.drop (o + bs.length)
          if bypass || bad then
            let s := s.writeMem a.pa bs
            .done (match s.lines.find? key with
              | some l => { s with lines := s.lines.insert key { l with data := data } }
              | none => s) [] 0
          else .done (s.fillLine q a.pa { data := data, free := true, dirty := true, keep := a.hint == 2 }) [] 0

/-! ### Atomics (R250 to R258) -/

/-- The width in bits of an atomic type (Table 2·11). -/
def atomBits (ty : Nat) : Nat :=
  match ty with
  | 0 | 1 | 4 => 32
  | 2 | 3 => 64
  | _ => 128

/-- The new value of an integer atomic, and of xchg and cas (R257). -/
def atomInt (sub ty old : Nat) (x : List Nat) : Nat :=
  let w := atomBits ty
  let v := x.headD 0 % 2 ^ w
  let signed := ty == 1 || ty == 3
  let less := if signed then decide (signedOf w v < signedOf w old) else decide (v < old)
  match sub with
  | 0 => (old + v) % 2 ^ w
  | 1 => old &&& v
  | 2 => old ||| v
  | 3 => old ^^^ v
  | 4 => if less then v else old
  | 5 => if less then old else v
  | 6 => if v ≤ old then 0 else (old + 1) % 2 ^ w
  | 7 => v
  | _ => if old == v then x.getD 1 0 % 2 ^ w else old

/-- The result of an FP32 atomic (R258). -/
def atomFloat (sub old v : Nat) : FpRes :=
  if sub == 9 then fp32.addVal .rne (fp32.val old) (fp32.val v) else fp32.minMax (sub == 11) true old v

/-- The new value of an atomic and the flags it raises (R257, R258). -/
def atomResult (sub ty old : Nat) (x : List Nat) : Nat × FpFlags :=
  if ty == 4 then
    let r := atomFloat sub old (x.headD 0 % 2 ^ 32)
    (r.bits, r.fl)
  else (atomInt sub ty old x, 0)

/-- Counts the events of FP32 atomics module-wide: NV, OF, UF, NX (R258, Table 11·7). -/
def State.countAtomic (s : State) (fl : FpFlags) : State :=
  if fl == 0 then s
  else
    let bump := fun (m : SMap Word) (p : Nat × Nat) => if fl.getLsbD p.2 then m.put p.1 (m.get p.1 0 + 1) 0 else m
    { s with atomev := [(0, 0), (1, 2), (2, 3), (3, 4)].foldl bump s.atomev }

/-- The units of Table 11·5. -/
inductive AtomUnit where
  | engine
  | slice
  | away
  | host
  deriving DecidableEq, Repr

/-- The unit that performs an atomic (R250). -/
def State.atomUnit (s : State) (pa : Nat) (pte : BitVec 64) (scope : Nat) : AtomUnit :=
  if pteHost pte then .host
  else if pteClass pte == 1 && scope ≤ 1 then .engine
  else if chipOf pa == s.chip then .slice
  else if pteClass pte == 1 && scope == 2 then .slice
  else .away

/-- Performs an atomic's read and write on a grain that its unit holds (R257): the old bytes, the new ones, the stamps. -/
def State.atomWrite (s : State) (a : Access) (sub ty : Nat) (x : List Nat) (engine : Bool) : Perf :=
  let q := a.core / 4
  let g := grainOf a.pa
  if tagPoison (s.tag g) then .refused s .poison
  else
    let old := s.readMem a.pa a.size
    let (new, fl) := atomResult sub ty (ofBytes old) x
    let s := (s.countAtomic fl).writeMem a.pa (toBytes a.size new)
    let s := s.markWritten g
    let (w, s) := if engine then
        let s := if a.release then s.raiseLts q ((s.group a.gid).thread a.lane).seen else s
        let st := max ((s.engineGrains.find? (engineKey q g)).map (·.stamp) |>.getD 0) (s.ltsOf q)
        (st, { s.raiseLts q st with engineGrains := s.engineGrains.insert (engineKey q g) { stamp := st, used := s.clock } })
      else
        let (w, s) := s.stampFor a
        (w, s.refreshLine q a.pa w)
    .done s old w

/-- An atomic at its unit in device memory (R252, R255): the engine takes the grain first when it does not hold it. -/
def State.atomDev (s : State) (a : Access) (sub ty : Nat) (x : List Nat) : Perf :=
  let q := a.core / 4
  let g := grainOf a.pa
  match s.atomUnit a.pa a.pte a.scope with
  | .engine =>
    if s.rebaseDue then .wait s
    else if (s.engineGrains.find? (engineKey q g)).isSome then
      if agrees (s.tag g) a.pte then s.atomWrite a sub ty x true else .refused s .classAlias
    else s.approach a.pa a.core a.pte true fun s => (s.engineTake q g).atomWrite a sub ty x true
  | .slice =>
    if pteClass a.pte == 1 && s.rebaseDue then .wait s
    else
      s.approach a.pa a.core a.pte true fun s =>
        if pteBit a.pte 9 && !(s.replicaList a.pa).isEmpty then
          if tagPoison (s.tag g) then .refused s .poison
          else .wait (s.replicaStart a (toBytes a.size (atomResult sub ty (s.readNat a.pa a.size) x).1) none)
        else (s.hostUsed g).atomWrite a sub ty x false
  | _ =>
    .wait (if a.sent then s
      else s.sendOp a .atomic (toBytes 1 sub ++ toBytes 1 ty ++ toBytes 2 a.size ++ x.flatMap (toBytes 16)))

/-! ### Host memory (R256, R417 to R419) -/

/-- HOST_LINK. -/
def State.hostLink (s : State) : Nat := s.cfgAt 0x50 0
/-- Whether the host port trained with CXL.cache. -/
def State.cxlCache (s : State) : Bool := bitAt s.hostLink 10

/-- The region of a host physical address (R418). -/
def State.hostRegion (s : State) (hpa : Nat) : Nat :=
  hpa / 2 ^ (min 46 (max 12 (s.cfgAt 0x54 30))) % 64

/-- Whether an atomic has a row in Table 11·6. -/
def atomHasPcie (sub ty : Nat) (returns : Bool) : Bool :=
  (sub == 0 && ty ≤ 3) || (returns && (sub == 7 && ty ≤ 3 || sub == 8))

/-- The host-link check of an atomic on host memory (R249 step 8, R256, R418). -/
def State.hostAtomicCheck (s : State) (hpa sub ty : Nat) (returns : Bool) : Option FaultCode :=
  if s.cxlCache then none
  else if !atomHasPcie sub ty returns then some .sysAtomicUnsupported
  else if bitAt (s.cfgAt 0x52 0) (s.hostRegion hpa) && !bitAt (s.cfgAt 0x53 0) 0 then some .sysAtomicUnsupported
  else none

/-- Whether a write of a thread carries Relaxed Ordering: a release at SYSTEM scope does not, and no write after it that it orders (R219, R419). -/
def State.relaxed (s : State) (a : Access) : Bool :=
  bitAt (s.cfgAt 0x55 1) 0 && !(a.release && decide (4 ≤ a.scope)) && !((s.group a.gid).thread a.lane).relSys

/-- Writes bytes of a line of host memory that X-die 0 holds. -/
def putLine (l : List Byte) (o : Nat) (bs : List Byte) : List Byte := l.take o ++ bs ++ l.drop (o + bs.length)

/-- An access to host memory (R256, R417): on a line that X-die 0 holds when CXL.cache trained, otherwise a transaction on
the link, whose completion performs it. A posted write is performed when it is issued (R219), and the link may still refuse it. -/
def State.hostPerform (s : State) (a : Access) : Perf :=
  if s.cxlCache then
    match s.hostLines.find? (a.pa / 64) with
    | some l =>
      let o := a.pa % 64
      let old := (l.drop o).take a.size
      let put := fun (s : State) (bs : List Byte) => { s with hostLines := s.hostLines.insert (a.pa / 64) (putLine l o bs) }
      match a.op with
      | .store d => .done (put s d) [] 0
      | .atomic sub ty _ x =>
        let (new, fl) := atomResult sub ty (ofBytes old) x
        .done (put (s.countAtomic fl) (toBytes a.size new)) old s.readStamp
      | _ => .done s old s.readStamp
    | none => .wait (if a.sent then s else s.send (.hostRead a.id (a.pa / 64 * 64) 64))
  else if a.sent then .wait s
  else
    match a.op with
    | .store d => .done ({ s with posted := s.posted ++ [a] }.send (.hostWrite a.id a.pa d (s.relaxed a))) [] 0
    | .atomic sub _ _ x => .wait (s.send (.hostAtomic a.id a.pa sub a.size x))
    | _ => .wait (s.send (.hostRead a.id a.pa a.size))

/-! ### Typed buffers -/

/-- An access to a typed buffer (R180, R185), once no matrix work holds it back (R279). -/
def State.bufPerform (s : State) (a : Access) : Perf :=
  let t := (s.group a.gid).team
  let u := unitOf a.space a.core
  let r : Range := { space := a.space, owner := bufOwner t a.space a.core, lo := a.pa, hi := a.pa + a.size }
  match a.op with
  | .store d =>
    if workHolds s.works [] [r] then .wait s else .done (s.bufWrite t a.space u false a.pa d) [] 0
  | _ => if workHolds s.works [r] [] then .wait s else .done s (s.bufRead t a.space u false a.pa a.size) 0

/-- The condition of an await (R262): the comparand is taken in the word's width. -/
def awaitHolds (sub bytes m c : Nat) : Bool :=
  let w := 8 * bytes
  let c := c % 2 ^ w
  match sub with
  | 0 => m == c
  | 1 => m != c
  | 2 => decide (signedOf w c ≤ signedOf w m)
  | 3 => decide (signedOf w m < signedOf w c)
  | 4 => decide (c ≤ m)
  | 5 => decide (m < c)
  | _ => true

/-- One test of an await, at the home slice and never in a cluster cache (R263, R264). Its done data is empty; waiting says that
the word does not satisfy it. -/
def State.awaitTest (s : State) (a : Access) (sub bytes cmp : Nat) : Perf :=
  if pteHost a.pte then
    match s.hostPerform a with
    | .done s d w => if awaitHolds sub bytes (ofBytes d) cmp then .done s [] w else .wait s
    | r => r
  else
    match (if pteClass a.pte == 0 && pteBit a.pte 9 && chipOf a.pa != s.chip then s.replicaAt a.pa else none) with
    | some ra =>
      s.replicaTest ra a.pte fun s => if awaitHolds sub bytes (s.readNat ra bytes) cmp then .done s [] s.readStamp else .wait s
    | none =>
      s.approach a.pa a.core a.pte false fun s =>
        let g := grainOf a.pa
        if pteClass a.pte == 2 && tagState (s.tag g) != 7 then .wait s
        else if tagPoison (s.tag g) && sub != 6 then .refused s .poison
        else
          let s := if pteClass a.pte == 1 then s.dropLine (a.core / 4) a.pa else s
          if awaitHolds sub bytes (s.readNat a.pa bytes) cmp then
            .done s [] (if pteClass a.pte == 2 then s.readStamp else (s.sector a.pa).wts)
          else .wait s

/-! ### The order queue (R197, R199, R206, R214 to R218) -/

/-- Whether an access reads. -/
def Access.reads (a : Access) : Bool :=
  match a.op with
  | .store _ => false
  | _ => true

/-- Whether an access writes. -/
def Access.writes (a : Access) : Bool :=
  match a.op with
  | .store _ | .atomic .. => true
  | _ => false

/-- Whether an access is of an SC page (R206). -/
def Access.isSc (a : Access) : Bool := a.space == 0 && pteClass a.pte == 0

/-- Whether two accesses touch a byte in common. -/
def Access.meets (b a : Access) : Bool :=
  b.space == a.space && decide (b.pa < a.pa + a.size) && decide (a.pa < b.pa + b.size)

/-- Whether an access is a read that may be parked for long, a wait or a read of a write-once grain: the later accesses of other lanes are not
held behind it. -/
def Access.parks (a : Access) : Bool := a.isAwait || (!a.writes && a.space == 0 && pteClass a.pte == 2)

/-- Whether an earlier access must be performed before a later one: of the same thread by R199, and of one bundle's clause when they meet
and either writes, in instruction and lane order (R185). -/
def Access.mustPrecede (b a : Access) : Bool :=
  b.gid == a.gid &&
    ((b.lane == a.lane &&
      (b.meets a || (b.holdLd && a.reads) || (b.holdSt && a.writes) || a.release || (a.isFence && b.writes) ||
       (a.isSc && (b.isSc || a.writes)) || (b.isSc && b.reads))) ||
     (b.pc == a.pc && b.bundle == a.bundle && (b.writes || a.writes) && !b.parks && b.meets a))

/-- Whether a wait is parked at its slice: its group is resident and its thread blocked in it, not suspended by a trap (R264). -/
def State.waitStands (s : State) (a : Access) : Bool :=
  (s.group a.gid).resident && ((s.group a.gid).thread a.lane).waitsIn (· == .await a.id)

/-- Whether some access earlier in the queue holds one back. A wait that a trap has suspended holds back none (R264). -/
def State.orderHeld (s : State) (a : Access) : Bool :=
  (s.accesses.takeWhile fun b => b.id != a.id).any fun b => b.mustPrecede a && (!b.isAwait || s.waitStands b)

/-- What wsstate reads of a tag: the state, p0 and p1 (R242). -/
def tagWord (t : BitVec 64) : Nat := tagState t + tagPtr t 0 * 2 ^ 3 + tagPtr t 1 % 512 * 2 ^ 15

/-- Every other chip of the pod is asked to drop the copies that a fence's earlier writes have made old (R214). -/
def State.askFence (s : State) (id : Nat) : State :=
  ((List.range s.podSize).filter (· != s.chip)).foldl (fun s c => s.sendCoh c .fence 0 0 id []) s

/-- One attempt to perform an access at its place. A wait is tested while it is parked (R264). -/
def State.attempt (s : State) (a : Access) : Perf :=
  if a.isFence then .wait (if a.sent then s else s.askFence a.id)
  else if a.space != 0 then s.bufPerform a
  else
    match a.op with
    | .await sub n c => if s.waitStands a then s.awaitTest a sub n c else .wait s
    | .atomic sub ty _ x => if pteHost a.pte then s.hostPerform a else s.atomDev a sub ty x
    | .tag =>
      if chipOf a.pa != s.chip then .wait (if a.sent then s else s.sendOp a .readTag [])
      else if (s.txns.find? (grainOf a.pa)).isSome then .wait s
      else
        let s := s.adopt (grainOf a.pa) a.pte a.core
        if !agrees (s.tag (grainOf a.pa)) a.pte then .refused s .classAlias else .done s (toBytes 8 (tagWord (s.tag (grainOf a.pa)))) 0
    | .store d => if pteHost a.pte then s.hostPerform a else s.storeDev a d
    | _ => if pteHost a.pte then s.hostPerform a else s.loadDev a.core a.pa a.size a.pte a.hint

/-! ### Landing of accesses -/

/-- The lanes whose access fails with it: one thread's, or its bundle's when the bundle makes it once. -/
def Access.failLanes (a : Access) : Lanes := if a.whole then a.bundle else Lanes.of (· == a.lane)

/-- The deferred fault of an access that has no deferred event of its own. -/
def Access.faultOf (a : Access) (code : FaultCode) : FaultRec :=
  { code := code, pc := a.pc, index := a.idx, deferred := true, lane := a.lane, lanes := a.failLanes, va := a.va,
    bundle := a.bundle, inHandler := a.inHandler }

/-- Queues a deferred fault, joining the lanes of one queued when it is the alike fault of the alike instruction
(R48). -/
def State.queueMerged (s : State) (gid : Nat) (f : FaultRec) : State :=
  let alike := fun (l : FaultRec) => l.code == f.code && l.pc == f.pc && l.index == f.index && l.bundle == f.bundle
  let join := fun (l : FaultRec) =>
    let lanes := l.lanes ||| f.lanes
    { l with lanes := lanes, lane := lowestLane lanes, va := if f.lane < l.lane then f.va else l.va }
  if (s.group gid).queue.any alike then
    s.modGroup gid fun g => { g with queue := g.queue.map fun l => if alike l then join l else l }
  else s.queueFault gid f

/-- One access of a deferred event has landed; the last makes the event ready (R194). -/
def State.accessLanded (s : State) (id : Nat) : State :=
  s.modEvent id fun d =>
    match d.wait with
    | .accesses n => { d with wait := if n ≤ 1 then .done else .accesses (n - 1) }
    | _ => d

/-- A number of n bytes extended to 64 bits. -/
def extended (sx : Bool) (n x : Nat) : Word :=
  if sx then BitVec.ofInt 64 (signedOf (8 * n) x) else BitVec.ofNat 64 x

/-- The hash of R110 on numbers. -/
def sealHash (k x0 c0 : Nat) : Nat := (hashH (BitVec.ofNat 64 k) (BitVec.ofNat 64 x0) (BitVec.ofNat 64 c0)).toNat

/-- The sealed image of a handle (R191): its low and high words. -/
def sealedImage (key : Nat) (h : HandleBits) : Nat × Nat :=
  let w0 := h.toNat % 2 ^ 64
  let w1 := h.toNat / 2 ^ 64
  let w1 := w1 - bits w1 59 46 * 2 ^ 46
  (w0, w1 + (sealHash key w0 w1 % 2 ^ 14) * 2 ^ 46)

/-- The handle that a sealed image holds, when its seal, reserved bits and ASID pass (R192). -/
def openSeal (c : Ctx) (w0 w1 : Nat) : Option HandleBits :=
  let bare := w1 - bits w1 59 46 * 2 ^ 46
  let h : HandleBits := BitVec.ofNat 128 (w0 + bare * 2 ^ 64)
  if bits w1 63 60 == 0 && (sealedImage c.sealKey h).2 == w1 && c.asidSet.any (fun p => p.1 == handleAsid h) then some h
  else none

/-- An event whose handle result is the null handle (R192). -/
def Deferred.noHandle (d : Deferred) : Deferred :=
  { d with h := match d.h with
      | some (r, _) => some (r, 0)
      | none => none }

/-- The acquire that an access makes of the value it has read: by its own ordering at its scope, or as a load of an SC page at the
wider of its scope and the page's reach (R204, R206, R229). -/
def State.acquireRead (s : State) (a : Access) (stamp : Nat) : State :=
  if a.acquire then s.acquire (a.core / 4) (if a.isSc then max a.scope (reachScope (pteReach a.pte)) else a.scope) stamp
  else if a.isSc && a.reads then s.acquire (a.core / 4) (max a.scope (reachScope (pteReach a.pte))) stamp
  else s

/-- A write that a fence makes be performed with respect to other clusters leaves no older copy of its sector in their caches (R214). -/
def State.fenceWrite (s : State) (a : Access) : State :=
  if a.fenced && a.writes && a.space == 0 then s.dropLines fun c pa => c != a.core / 4 && pa / 128 == a.pa / 128 else s

/-- What the completion of an access does: data to its event or its thread's wait, the stamp to the thread's record, the acquire that it
makes. -/
def State.completeAccess (s : State) (a : Access) (data : List Byte) (stamp : Nat) : State :=
  let s := { s with accesses := s.accesses.filter fun b => b.id != a.id }
  let s := if a.space == 0 && !pteHost a.pte then s.usePage a.pa else s
  let s := (s.acquireRead a stamp).fenceWrite a
  let seen := fun (s : State) => s.modGroup a.gid fun g =>
    g.modThreads (Lanes.of (· == a.lane)) fun _ t => { t with seen := max t.seen stamp }
  let n := ofBytes data
  match a.op, a.event with
  | .await .., _ =>
    (seen s).modGroup a.gid fun g => g.modThreads (Lanes.of (· == a.lane)) fun _ t => t.endWait (· == .await a.id)
  | .hload, some e =>
    let s := (seen s).modEvent e fun d =>
      match openSeal (s.ctx (s.ctxOf a.gid)) (n % 2 ^ 64) (n / 2 ^ 64) with
      | some h => { d with h := d.h.map fun p => (p.1, h) }
      | none => d.noHandle.addFault .handleSeal a.failLanes a.va
    s.accessLanded e
  | .atomic _ ty true _, some e =>
    let v := if ty == 5 then [BitVec.ofNat 64 n, BitVec.ofNat 64 (n / 2 ^ 64)] else [extended (ty == 1) a.size n]
    ((seen s).modEvent e fun d => d.setLane a.lane v).accessLanded e
  | .load sx, some e =>
    let v := if a.size == 16 then [BitVec.ofNat 64 n, BitVec.ofNat 64 (n / 2 ^ 64)] else [extended sx a.size n]
    ((seen s).modEvent e fun d => d.setLane a.lane v).accessLanded e
  | .tag, some e => (s.modEvent e fun d => d.setLane a.lane [BitVec.ofNat 64 n]).accessLanded e
  | _, some e => s.accessLanded e
  | _, none => s

/-- The access that writes a grid's completion bitmap carries this number plus the grid's (R396). -/
def bitmapGid : Nat := 2 ^ 41

/-- What the refusal of an access does: zero lands, and the fault is raised with its event or, without one, at once (R34,
R176). A refused await ends. -/
def State.refuseAccess (s : State) (a : Access) (code : FaultCode) (aux : Word := 0) : State :=
  let s := { s with accesses := s.accesses.filter fun b => b.id != a.id }
  let f := { a.faultOf code with aux := aux }
  match a.op, a.event with
  | .await .., _ =>
    (s.modGroup a.gid fun g => g.modThreads (Lanes.of (· == a.lane)) fun _ t => t.endWait (· == .await a.id)).queueMerged a.gid f
  | _, some e =>
    (s.modEvent e fun d => d.noHandle.addFault code a.failLanes a.va aux).accessLanded e
  | _, none =>
    if bitmapGid ≤ a.gid then s.modGrid (a.gid - bitmapGid) fun g => { g with code := if g.code == 0 then code.num else g.code }
    else s.queueMerged a.gid f

/-- Whether a request for an access has to be remembered as sent. -/
def Access.sends (s : State) (a : Access) : Bool :=
  pteHost a.pte ||
    (match a.op with
    | .atomic .. => s.atomUnit a.pa a.pte a.scope == .away
    | .store _ => s.storeAway a.pa a.pte
    | .tag => chipOf a.pa != s.chip
    | .fence _ => true
    | _ => false)

/-- The waits on a span of memory are translated anew before their next test: its page has been in transition, or its translations are gone
(R212, R236, R389). -/
def State.staleWaits (s : State) (lo n : Nat) : State :=
  { s with accesses := s.accesses.map fun a =>
      if a.isAwait && a.space == 0 && decide (busAddr a.pte a.pa < lo + n) && decide (lo < busAddr a.pte a.pa + a.size)
      then { a with stale := true, sent := false } else a }

/-- A wait whose next test is a new access is translated and its leaf checked (R212): the wait as it is then, the code that ends it (of a page no
longer resident PAGE_NOT_PRESENT, as a deferred fault; DESIGN CHOICE, notes/assumptions/111), or neither when it cannot be translated yet. -/
def State.freshWait (s : State) (a : Access) : Except (Option FaultCode) Access × State :=
  match s.translate (s.ctx (s.ctxOf a.gid)) a.core a.asid a.va with
  | (.leaf l pa, s) =>
    let full := match a.op with
      | .await sub _ _ => sub == 6
      | _ => false
    match s.checkLeaf l pa a.core (.await full) true a.scope with
    | some c => (.error (some c), s)
    | none =>
      let b := { a with pa := pa, pte := l.pte, stale := false }
      (.ok b, { s with accesses := s.accesses.map fun x => if x.id == a.id then b else x })
  | (.absent, s) => (.error (some .pageNotPresent), s)
  | (.malformed, s) => (.error (some .pageProt), s)
  | (.away g w, s) => (.error none, s.request g w)

/-- Tries the access of a number in the queue: performed, refused, or left there. -/
def State.tryAccess (s : State) (id : Nat) : State :=
  match s.accesses.find? fun a => a.id == id with
  | none => s
  | some a =>
    if s.orderHeld a then s
    else
      match if a.stale && s.waitStands a then s.freshWait a else (.ok a, s) with
      | (.error (some c), s) => s.refuseAccess a c
      | (.error none, s) => s
      | (.ok a, s) =>
      match s.attempt a with
      | .done s d w => s.completeAccess a d w
      | .refused s c => s.refuseAccess a c
      | .wait s' =>
        if a.sends s && !a.sent then
          { s' with accesses := s'.accesses.map fun b => if b.id == id then { b with sent := true } else b }
        else s'

/-- Whether an access is performed as soon as it can be; an atomic at an engine or a slice of this chip is performed by its unit's own
step, and an await tested by its own. -/
def State.eager (s : State) (a : Access) : Bool :=
  match a.op with
  | .atomic .. => pteHost a.pte || s.atomUnit a.pa a.pte a.scope == .away
  | .await .. => false
  | _ => true

/-- Tries every eager access of the queue, in order, twice: what one performs may release an earlier one. -/
def State.settle (s : State) : State :=
  let pass := fun (s : State) => (s.accesses.filter s.eager).foldl (fun s a => s.tryAccess a.id) s
  if s.accesses.isEmpty then s else pass (pass s)

/-- Enters an access into the queue and tries it. -/
def State.submit (s : State) (a : Access) : State :=
  let a := { a with id := s.nextId, since := s.clock, limit := s.wsWait, tested := s.clock }
  let s := { s with nextId := s.nextId + 1, accesses := s.accesses ++ [a] }
  -- the first access to an unassigned private grain makes its core the owner as it is made, so that a later one faults precisely (R195, R223)
  let s := if a.space == 0 && pteClass a.pte == 3 && !pteHost a.pte && chipOf a.pa == s.chip then s.adopt (grainOf a.pa) a.pte a.core else s
  match a.op with
  | .atomic .. => if s.eager a then s.tryAccess a.id else s
  | .await .. => s.tryAccess a.id
  | _ =>
    let s' := s.tryAccess a.id
    -- a store that fills a write-once grain answers the loads parked on it (R234)
    if a.writes && a.space == 0 && pteClass a.pte == 2 && s.accesses.length > 1 then s'.settle else s'

/-- The acquire that acq, an acquiring fence, a barrier or a landing completion makes for a thread: its cluster's clock passes
what its earlier loads read (R214, R215). -/
def State.acquireSeen (s : State) (gid lane scope : Nat) : State :=
  s.acquire ((s.group gid).cluster) scope ((s.group gid).thread lane).seen

/-- The acquire of everything that the module holds: of a step's or barrier's completion, a launch and a landing completion (R90, R91, R211,
R396). -/
def State.acquireAll (s : State) (q scope : Nat) : State := s.acquire q scope s.maxStamp

end Sys2Proof.Machine
end

