-- ==== Sys2Proof/Machine/Sfu.lean ====
section
/-!
DEFINITION. The special-function unit (R160 to R163): its instructions, the queue of each core, and the landing of its
results.
-/

namespace Sys2Proof.Machine

/-- The entries of a core's SFU queue (R161). -/
def sfuEntries : Nat := 32

/-- Ends an SFU instruction: the operands are read at issue, the results enter the queue at commit. The effect carries
the results in x, each lane's flags in y, and the counts of events in n (R160). -/
def sfuExec (i : Instr) (L : Layout) (d : BitVec 7) (n : Nat) (res : Issue → Nat → Nat → FpRes) (s : State) : Result :=
  s.withIssue fun iss s =>
    let fl := fun l => (List.range L.n).map fun k => (res iss l k).fl
    s.finish iss n [.act i iss.idx iss.lanes
      (iss.lanesOf fun l => L.join fun k => (res iss l k).bits)
      (iss.lanesOf fun l => (orAll (fl l)).zeroExtend 64) []
      (d.toNat :: countFlags ((Lanes.list iss.lanes).flatMap fl))]

/-- The commit of an SFU instruction: its deferred event enters the core's queue (R161). -/
def commitSfu (iss : Issue) (idx : Nat) (lanes : Lanes) (x y : LaneVals) (n : List Nat) (s : State) : State :=
  let d := { iss.event idx lanes with
    wait := .sfu, v := [(n.headD 0, x)], flags := y, counts := n.drop 1, result := true }
  let (id, s) := s.addEvent d
  let core := (s.group iss.gid).core
  { s with sfu := s.sfu.insert core (s.sfu.get core [] ++ [{ event := id }]) }

/-- fdiv (R162). -/
def execFdiv (f : FA) (ls : Lits) (s : State) : Result :=
  let L := floatLayout f.t.toNat
  let F := fmtOfCode f.t.toNat
  sfuExec (.fdiv f ls) L f.d (1 + ls.length) (fun iss l i =>
    F.divVal iss.rm (F.val (L.sub (iss.operand L f.a (litAt ls 0) l) i))
      (F.val (L.sub (iss.operand L f.b (litB ls f.a) l) i))) s

/-- A one-operand SFU function (R163). -/
def sfuUnary (i : Instr) (fn : SfuFn) (f : FA) (ls : Lits) (s : State) : Result :=
  let L := floatLayout f.t.toNat
  sfuExec i L f.d (1 + ls.length) (fun iss l k =>
    (fmtOfCode f.t.toNat).sfu fn iss.rm (L.sub (iss.operand L f.a (litAt ls 0) l) k)) s

/-- frcp (R163). -/
def execFrcp (f : FA) (ls : Lits) (s : State) : Result := sfuUnary (.frcp f ls) .rcp f ls s
/-- frsq (R163). -/
def execFrsq (f : FA) (ls : Lits) (s : State) : Result := sfuUnary (.frsq f ls) .rsq f ls s
/-- fsqrt (R163). -/
def execFsqrt (f : FA) (ls : Lits) (s : State) : Result := sfuUnary (.fsqrt f ls) .sqrt f ls s
/-- fexp2 (R163). -/
def execFexp2 (f : FA) (ls : Lits) (s : State) : Result := sfuUnary (.fexp2 f ls) .exp2 f ls s
/-- flog2 (R163). -/
def execFlog2 (f : FA) (ls : Lits) (s : State) : Result := sfuUnary (.flog2 f ls) .log2 f ls s
/-- fexp (R163). -/
def execFexp (f : FA) (ls : Lits) (s : State) : Result := sfuUnary (.fexp f ls) .exp f ls s
/-- fsinpi (R163). -/
def execFsinpi (f : FA) (ls : Lits) (s : State) : Result := sfuUnary (.fsinpi f ls) .sinpi f ls s
/-- fcospi (R163). -/
def execFcospi (f : FA) (ls : Lits) (s : State) : Result := sfuUnary (.fcospi f ls) .cospi f ls s
/-- ftanh (R163). -/
def execFtanh (f : FA) (ls : Lits) (s : State) : Result := sfuUnary (.ftanh f ls) .tanh f ls s

/-- The queue with its first entry that has not started, started. -/
def startEntry : List SfuEntry → List SfuEntry
  | [] => []
  | e :: r => if e.started then e :: startEntry r else { e with started := true } :: r

/-- SFU_ENTRY_START: a free SFU starts the first entry that it has not started (R161). The occupancy of an entry is a duration, which
notes/assumptions/3 leaves out: the SFU is free whenever this event comes, and results land in the order of the queue. -/
def execSfuEntryStart (core : Nat) (s : State) : Result :=
  match s.sfu.get core [] with
  | [] => .next s
  | q => .next { s with sfu := s.sfu.insert core (startEntry q) }

/-- SFU_RESULT_LANDING: the head entry's result lands and leaves the queue (R160, R161). DESIGN CHOICE (notes/assumptions/104): an entry is
free again at this landing; R161 does not say when. -/
def execSfuResultLanding (core : Nat) (s : State) : Result :=
  match s.sfu.get core [] with
  | e :: r => if e.started then .next (({ s with sfu := s.sfu.insert core r }).land e.event) else .next s
  | [] => .next s

end Sys2Proof.Machine
end

