-- ==== Sys2Proof/Machine/Fetch.lean ====
section
/-!
DEFINITION. Fetching and issuing clauses: the fetch checks of R77, the header checks of R23, the conditions of issue (R32, R71,
R113, R114, R161, R218), and the checks that precede an instruction's own (R24, R48).
-/

namespace Sys2Proof

/-- Whether an instruction is mmx or mmxs. -/
def Instr.isMmx : Instr → Bool
  | .mmx .. | .mmxs .. => true
  | _ => false

/-- Whether an instruction enters the SFU queue. -/
def Instr.isSfu (i : Instr) : Bool :=
  match i.enc? with
  | some e => e.cls == .num 2
  | none => false

/-- Whether an instruction creates a deferred event (R31). -/
def Instr.isDeferred (i : Instr) : Bool :=
  match i.enc? with
  | some e => e.deferred
  | none => false

/-- The member mask operand of a cross-lane instruction with its literals and how many literals stand before the mask's. -/
def Instr.maskOf : Instr → Option (BitVec 7 × Lits × Nat)
  | .xlSh f ls | .xlBc f ls => some (f.m, ls, Machine.litsIn [f.a, f.b])
  | .xlRed f ls | .xlScan f ls | .xlVoteAll f ls | .xlVoteAny f ls | .xlVoteUni f ls | .xlBal f ls => some (f.m, ls, Machine.litsIn [f.a])
  | _ => none

end Sys2Proof

namespace Sys2Proof.Machine

/-! ### The words of a clause -/

/-- What fetching gives. -/
inductive Fetched where
  | ok (header : IWord) (words : List IWord)
  | fault (c : FaultCode)
  | away (g : Nat) (write : Bool) (leaf : Nat)
  deriving DecidableEq, Repr

/-- The sectors that an instruction cache holds at most: 128 KiB of 128 bytes (R11). -/
def icacheLines : Nat := 1024

/-- A cluster's instruction cache takes the sector of a word of code; a full one loses the sector used longest ago (DESIGN CHOICE: the
spec gives its size and no replacement, and no rule lets a fetch read anything but the word in memory; notes/assumptions/93). -/
def State.cacheCode (s : State) (q pa : Nat) : State :=
  let held := s.icache.get q []
  if held.head? == some (pa / 128) then s
  else { s with icache := s.icache.insert q ((pa / 128 :: held.filter (· != pa / 128)).take icacheLines) }

/-- One word of code at an address, with the checks of R77. -/
def State.fetchWord (s : State) (gid va : Nat) : Except Fetched IWord × State :=
  let c := s.ctx (s.ctxOf gid)
  match s.translate c (s.group gid).core c.asid va with
  | (.leaf l pa, s) =>
    if !pteBit l.pte 4 then (.error (.fault .pageProt), s)
    else if pteHost l.pte || (pteReach l.pte == 0 && chipOf pa != s.chip) then (.error (.fault .reach), s)
    else if !s.mayRead (grainOf pa) then (.error (.away (grainOf pa) false (leafWord l.pte (s.group gid).core)), s)
    else (.ok (BitVec.ofNat 32 (s.readNat pa 4)), s.cacheCode ((s.group gid).core / 4) pa)
  | (.absent, s) => (.error (.fault .pageNotPresent), s)
  | (.malformed, s) => (.error (.fault .pageProt), s)
  | (.away g w, s) => (.error (.away g w walkLeaf), s)

/-- Words of code from an address up. -/
def State.fetchWords (s : State) (gid va : Nat) : Nat → Except Fetched (List IWord) × State
  | 0 => (.ok [], s)
  | n + 1 =>
    match s.fetchWord gid va with
    | (.ok w, s) =>
      match s.fetchWords gid (va + 4) n with
      | (.ok ws, s) => (.ok (w :: ws), s)
      | r => r
    | (.error e, s) => (.error e, s)

/-- The checks of a header (R23). DESIGN CHOICE where R23 gives two codes (notes/assumptions/85): a branch target whose tag, count
and class are valid but whose signal is 6 or whose [10:0] is not zero raises RESERVED_FIELD, as any other header does, and not the
CLAUSE_FRAMING of R23's last sentence. -/
def headerFault (h : IWord) : Option FaultCode :=
  let n := h.toNat
  if bits n 31 28 != 0xC || bits n 27 24 == 0 || 6 ≤ bits n 23 21 then some .clauseFraming
  else if bits n 14 12 == 6 || bits n 10 0 != 0 then some .reservedField
  else none

/-- The header and the words of the clause at an address, or what stops them: fetch faults first, then header checks. -/
def State.fetchClause (s : State) (gid : Nat) (pc : BitVec 52) : Fetched × State :=
  match s.fetchWord gid pc.toNat with
  | (.error e, s) => (e, s)
  | (.ok h, s) =>
    match headerFault h with
    | some c => (.fault c, s)
    | none =>
      match s.fetchWords gid (pc.toNat + 4) (bits h.toNat 27 24) with
      | (.error e, s) => (e, s)
      | (.ok ws, s) => (.ok h ws, s)

/-- The instructions of a clause's words, up to the first that is none. -/
def instrsOf (ws : List IWord) : Nat → List Instr
  | 0 => []
  | n + 1 =>
    match ws with
    | [] => []
    | _ =>
      match decodeWords ws with
      | .ok i rest => i :: instrsOf rest n
      | .bad _ => []

/-! ### Cross-lane meeting points (R113, R114, R275) -/

/-- The member set that a mask operand names in one lane; a code that is no mask operand names none (its clause faults when it
executes). -/
def Group.maskIn (g : Group) (m : BitVec 7 × Lits × Nat) (l : Nat) : Lanes :=
  let k := m.1.toNat
  if k < 96 then ((g.thread l).v.get k 0).truncate 32
  else if k < 104 then 0
  else if k == 125 then 0xFFFFFFFF
  else if k == 127 then litAt m.2.1 m.2.2
  else (g.g.get (k - 104) 0).truncate 32

/-- Every lane that a bundle's clause needs with it, from its instructions. -/
def Group.needed (g : Group) (lanes : Lanes) (is : List Instr) : Lanes :=
  let xl := is.foldl (fun a i =>
    match i.maskOf with
    | some m => (Lanes.list lanes).foldl (fun a l => a ||| g.maskIn m l) a
    | none => a) (0 : Lanes)
  if is.any Instr.isMmx then xl ||| ~~~g.exitedLanes else xl

/-- The lanes a bundle still waits for before it may take a slot. -/
def Group.missing (g : Group) (b : Bundle) (is : List Instr) : Lanes :=
  g.needed b.lanes is &&& ~~~(b.lanes ||| g.exitedLanes)

/-- The instructions of the clause at a PC, without the state change of their fetch. -/
def State.peek (s : State) (gid : Nat) (pc : BitVec 52) : List Instr :=
  match (s.fetchClause gid pc).1 with
  | .ok _ ws => instrsOf ws 15
  | _ => []

/-- Whether a formed bundle waits at a meeting point for lanes it lacks (R113). -/
def State.waitsAt (s : State) (gid : Nat) (b : Bundle) : Bool :=
  !b.inSlot && (s.group gid).missing b (s.peek gid b.pc) != 0

/-- Forms a group's bundles at a clause boundary, unless it has a fault to take (R66, R67). -/
def State.form (s : State) (gid : Nat) : State :=
  let g := s.group gid
  if g.mustTake || !g.resident then s
  else s.setGroup gid (g.form s.clock (s.waitsAt gid))

/-- Forms the bundles of every group that has come to a clause boundary: of a group with nothing to form it changes nothing. -/
def State.formAll (s : State) : State := s.groups.foldl (fun (s : State) p => s.form p.1) s

/-- The first cross-lane (or matrix) instruction of a clause, with its index. -/
def firstMeeting (is : List Instr) : Option (Nat × Instr) :=
  (is.zipIdx.find? fun p => p.1.isMmx || p.1.maskOf.isSome).map fun p => (p.2, p.1)

/-- Whether a lane that a waiting bundle needs can no longer join it: blocked, held, or in the other bundle, itself waiting at a
meeting point elsewhere (R114, R370). DESIGN CHOICE (notes/assumptions/86): a lane whose thread has executed tret and waits for the
rest of the handler counts as held. -/
def State.cannotMeet (s : State) (gid : Nat) (b : Bundle) (l : Nat) : Bool :=
  let g := s.group gid
  (match (g.thread l).status with
    | .blocked _ | .held _ | .heldDelayed _ | .returned => true
    | _ => false) ||
  g.bundles.any fun o => o.pc != b.pc && o.lanes.has l && s.waitsAt gid o

/-! ### Issue (R71) -/

/-- A clause as it would be in a slot, before its words. -/
def State.mkIssue (s : State) (gid : Nat) (b : Bundle) (h : IWord) (ws : List IWord) : Issue :=
  let g := s.group gid
  { gid := gid, pc := b.pc, lanes := b.lanes, header := h, words := ws, before := g,
    draws := LaneVals.of fun l => (g.thread l).draw }

/-- Whether a context of the snapshot's domain pauses: from the start of a record to its instant (R347). -/
def State.pausing (s : State) (c : Nat) : Bool := (s.ctx c).snapmem && s.snaps.any fun p => p.2.state == 1

/-- Whether a context runs: live or draining, with no kill pending (R373, R375). -/
def State.ctxRuns (s : State) (c : Nat) : Bool :=
  let x := s.ctx c
  (x.status == .live || x.status == .draining) && x.kills.isEmpty

/-- Whether a context lets its groups issue: it runs, and does not pause for a snapshot record (R347, R373, R375). -/
def State.ctxIssues (s : State) (c : Nat) : Bool := s.ctxRuns c && !s.pausing c

/-- Whether a group may issue at all. -/
def State.groupIssues (s : State) (gid : Nat) : Bool :=
  let g := s.group gid
  g.resident && !g.retired && !g.mustTake && s.ctxIssues (s.ctxOf gid) && (s.team g.team).status == .resident && !(s.team g.team).saving

/-- The slots in use on a core. -/
def State.slotsUsed (s : State) (core : Nat) : Nat := (s.issuing.filter fun i => i.before.core == core).length

/-- SFU entries taken or reserved on a core (R161). -/
def State.sfuTaken (s : State) (core : Nat) : Nat :=
  (s.sfu.get core []).length +
    ((s.issuing.filter fun i => i.before.core == core).map fun i =>
      ((instrsOf i.words 15).filter Instr.isSfu).length + (i.effects.filter fun e => match e with
        | .act j .. => j.isSfu
        | _ => false).length).foldl (· + ·) 0

/-- Whether a thread's order queue is full (R218). -/
def State.queueFull (s : State) (gid : Nat) (lanes : Lanes) : Bool :=
  (Lanes.list lanes).any fun l => 64 ≤ (s.accesses.filter fun a => a.gid == gid && a.lane == l).length

/-- Whether the scoreboard lets a clause issue: its waits are zero and its signal slot has room (R32). -/
def Group.scoreboardReady (g : Group) (h : IWord) (n : Nat) : Bool :=
  ((List.range 6).all fun i => !h.getLsbD (15 + i) || g.sb.get i 0 == 0) &&
    (bits h.toNat 14 12 == 7 || decide (g.sb.get (bits h.toNat 14 12) 0 + n ≤ 63))

/-- Puts a bundle's clause into a slot. -/
def State.takeSlot (s : State) (gid : Nat) (b : Bundle) (h : IWord) (ws : List IWord) : State :=
  let iss := s.mkIssue gid b h ws
  let s := s.modGroup gid fun g =>
    { g with bundles := g.bundles.map fun o => if o.pc == b.pc then { o with inSlot := true } else o }
  let s := { s with issuing := s.issuing ++ [iss] }
  (s.held.filter fun p => p.2 == .u).foldl (fun s p => s.dropUncached p.1) s

/-- A fault of a bundle that holds no slot: at its header, or at its meeting point. -/
def State.raiseAt (s : State) (gid : Nat) (b : Bundle) (idx : Nat) (c : FaultCode) (lanes : Lanes) (va : Nat) : State :=
  let iss := { s.mkIssue gid b 0 [] with idx := idx }
  let rest := s.issuing
  { ({ s with issuing := iss :: rest }.raise iss c lanes va) with issuing := rest }

/-- Whether a bundle waits at a meeting point for a lane of the group's other bundle, itself waiting at another PC (R114). -/
def State.wantsOf (s : State) (gid : Nat) (b o : Bundle) : Bool :=
  o.pc != b.pc && !b.inSlot && (s.group gid).missing b (s.peek gid b.pc) &&& o.lanes != 0 && s.waitsAt gid o

/-- The fault of a bundle that waits at a meeting point: when a lane that it needs can no longer come, or when the other waiting bundle
needs one of its own, since then both raise; its index and code (R114, R275). -/
def State.meetFault (s : State) (gid : Nat) (b : Bundle) : Option (Nat × FaultCode) :=
  let is := s.peek gid b.pc
  let miss := (s.group gid).missing b is
  if b.inSlot || !(((List.range 32).any fun l => miss.has l && s.cannotMeet gid b l) ||
      (s.group gid).bundles.any fun o => s.wantsOf gid o b) then none
  else (firstMeeting is).map fun p => (p.1, if p.2.isMmx then .gangMember else .xlMismatch)

/-- Every waiting bundle of a group that can no longer meet its members raises its fault (R114). -/
def State.raiseMeets (s : State) (gid : Nat) : State :=
  ((s.group gid).bundles.filterMap fun b => (s.meetFault gid b).map fun f => (b, f)).foldl
    (fun s p => s.raiseAt gid p.1 p.2.1 p.2.2 p.1.lanes 0) s

/-- Whether a bundle's clause may take a slot now: it is eligible (R66, R113), and its core, the SFU queue and its threads' order
queues have room (R71, R161, R218). -/
def State.maySlot (s : State) (gid : Nat) (b : Bundle) : Bool :=
  let g := s.group gid
  !b.inSlot && s.groupIssues gid &&
    match (s.fetchClause gid b.pc).1 with
    | .ok h ws =>
      let is := instrsOf ws 15
      g.missing b is == 0 && decide (s.slotsUsed g.core < 4) && g.scoreboardReady h (is.filter Instr.isDeferred).length &&
        decide (s.sfuTaken g.core + (is.filter Instr.isSfu).length ≤ 32) &&
        !(s.queueFull gid b.lanes && (bits h.toNat 23 21 == 1 || bits h.toNat 23 21 == 4))
    | _ => false

/-- Whether a bundle is eligible for a slot: its clause's waits are satisfied, its signal slot has room, and no member of a meeting
point is missing (R66, R113). -/
def State.eligible (s : State) (gid : Nat) (b : Bundle) : Bool :=
  let g := s.group gid
  match (s.fetchClause gid b.pc).1 with
  | .ok h ws =>
    g.missing b (instrsOf ws 15) == 0 && g.scoreboardReady h ((instrsOf ws 15).filter Instr.isDeferred).length
  | _ => false

/-- Notes since when each formed bundle has been eligible (R71). -/
def State.watchBundles (s : State) : State :=
  { s with groups := s.groups.map fun p => (p.1, { p.2 with bundles := p.2.bundles.map fun b =>
      if b.inSlot then b
      else { b with eligible := if s.eligible p.1 b then some (b.eligible.getD s.clock) else none } }) }

/-- Whether a bundle has been eligible for 1,024 ACLK (R71). -/
def Bundle.waitedLong (b : Bundle) (now : Nat) : Bool := b.eligible.any fun t => t + 2048 ≤ now

/-- The place of a bundle in its core's selection, least first: effective priority, the ACLK since which it has been eligible (a
bundle after a yield is the youngest of it), core-local group index, PC (R71). -/
def State.rank (s : State) (gid : Nat) (b : Bundle) : List Nat :=
  [if b.aged || b.waitedLong s.clock then 0 else 3 - (s.teamOf gid).prio, b.eligible.getD s.clock / 2, if b.yielded then 1 else 0,
    (s.group gid).slot, b.pc.toNat]

/-- Lexicographic order of two ranks. -/
def rankBefore : List Nat → List Nat → Bool
  | a :: as, b :: bs => decide (a < b) || (a == b && rankBefore as bs)
  | _, _ => false

/-- Whether the core takes this bundle next into a free slot (R71). -/
def State.selects (s : State) (gid : Nat) (b : Bundle) : Bool :=
  s.maySlot gid b && !(s.groups.any fun p => p.2.core == (s.group gid).core && p.2.bundles.any fun o =>
    rankBefore (s.rank p.1 o) (s.rank gid b) && s.maySlot p.1 o)

/-- A bundle that waits at a meeting point gains the threads that have become ready at its PC, as at the boundary at which they did so,
when its clause had not yet come (R113). -/
def State.joinWaiting (s : State) (gid : Nat) (pc : BitVec 52) : State :=
  let g := s.group gid
  let joins := Lanes.of fun l => g.isReady l && (g.thread l).pc == pc
  if joins == 0 || !(g.bundles.any fun b => b.pc == pc && s.waitsAt gid b) then s
  else s.setGroup gid { g with bundles := g.bundles.map fun b => if b.pc == pc then { b with lanes := b.lanes ||| joins } else b }

/-- Issues a formed bundle's clause when everything allows it and its core selects it; a bundle already in a slot is served next. -/
def State.issue (s : State) (gid : Nat) (pc : Nat) : State :=
  let g := s.group gid
  match g.bundles.find? fun b => b.pc.toNat == pc with
  | none => s
  | some b =>
    if b.inSlot then
      { s with issuing := (s.issuing.filter fun i => i.gid == gid && i.pc == b.pc) ++
          (s.issuing.filter fun i => !(i.gid == gid && i.pc == b.pc)) }
    else if !s.groupIssues gid then s
    else
      match s.fetchClause gid b.pc with
      | (.away gr w leaf, s) => s.request gr w leaf
      | (.fault c, s) => s.raiseAt gid b 0 c b.lanes (if c == .clauseFraming || c == .reservedField then 0 else b.pc.toNat)
      | (.ok h ws, s) =>
        let s := s.joinWaiting gid b.pc
        let b := ((s.group gid).bundles.find? fun o => o.pc == b.pc).getD b
        if (s.meetFault gid b).isSome then s.raiseMeets gid
        else if s.selects gid b then s.takeSlot gid b h ws
        else s

/-- CLAUSE_ISSUE (R71). -/
def execClauseIssue (gid pc : Nat) (s : State) : Result := .next (s.issue gid pc)

/-- BUNDLE_PRIORITY_AGING: a bundle eligible for 1,024 ACLK takes effective priority 3 (R71). -/
def execBundlePriorityAging (gid pc : Nat) (s : State) : Result :=
  .next (s.modGroup gid fun g =>
    { g with bundles := g.bundles.map fun b =>
        if b.pc.toNat == pc && !b.inSlot && b.waitedLong s.clock then { b with aged := true } else b })

/-- YIELD_DELAY_EXPIRY: threads whose delay has ended become ready and the group forms bundles (R66, R82). -/
def execYieldDelayExpiry (gid : Nat) (lanes : BitVec 32) (s : State) : Result :=
  let due := fun (t : Thread) => match t.status with
    | .delayed n => decide (n ≤ s.clock)
    | _ => false
  .next ((s.modGroup gid fun g => g.modThreads lanes fun _ t => if due t then { t with status := .ready } else t).form gid)

/-! ### The checks before an instruction's own (R24, R48) -/

/-- What the next step of the clause in the slot is. -/
inductive Ready where
  | commit
  | run (i : Instr)
  | fault (c : FaultCode)
  deriving DecidableEq, Repr

/-- Whether the clause holds mmx or mmxs, executed or to come (R275). -/
def Issue.holdsMmx (iss : Issue) : Bool :=
  (instrsOf iss.words 15).any Instr.isMmx || iss.effects.any fun e => match e with
    | .act i .. => i.isMmx
    | _ => false

/-- The framing checks on a decoded instruction (R24, R29, R31, R275, R372). -/
def Issue.framing (iss : Issue) (e : Enc) (i : Instr) (rest : List IWord) : Bool :=
  (match e.cls with
    | .alu => false
    | .branch => !rest.isEmpty || iss.sawTret
    | .num n => n != iss.cls) ||
  e.latchReads.any (fun l => (iss.latches.find? l).isNone) ||
  (e.deferred && iss.signal == 7) ||
  (iss.holdsMmx && (!i.isMmx || iss.idx != 0))

/-- The next step of a clause: its commit, a fault found by the checks common to all instructions, or an instruction's own
meaning. -/
def State.ready (s : State) (iss : Issue) : Ready :=
  match iss.words with
  | [] => .commit
  | ws =>
    match decodeWords ws with
    | .bad c => .fault c
    | .ok i rest =>
      match i.enc? with
      | none => .fault .illegalOpcode
      | some e =>
        match e.fault? with
        | some c => .fault c
        | none =>
          if e.outOfRange iss.before.blocks then .fault .regRange
          else if e.priv && !(s.ctx (s.ctxOf iss.gid)).sys then .fault .priv
          else if iss.framing e i rest then .fault .clauseFraming
          else .run i

end Sys2Proof.Machine
end

