-- ==== Sys2Proof/Machine/Mem.lean ====
section
/-!
DEFINITION. The memory and handle instructions 0x48 to 0x57 (R183 to R193): their checks at issue and what their commits do.
-/

namespace Sys2Proof.Machine

/-! ### Checks shared by the forms -/

/-- The context of a clause's group. -/
def State.ctxI (s : State) (iss : Issue) : Ctx := s.ctx (s.ctxOf iss.gid)

/-- The grid of a clause's group runs deterministically (R405). -/
def State.detI (s : State) (iss : Issue) : Bool := (s.gridOf iss.gid).det

/-- What the checks of one thread's access give. -/
inductive LaneCheck where
  | ok (va pa : Nat) (pte : BitVec 64)
  | absent (va : Nat)
  | fail (c : FaultCode) (va : Nat)
  | away (g : Nat) (write : Bool) (leaf : Nat)
  deriving DecidableEq, Repr

/-- The rights an operation needs at a scope: SYSTEM adds the system right (Table 8·2). -/
def rightsAt (scope : Nat) (need : List Nat) : List Nat := if scope == 4 then need ++ [7] else need

/-- The checks of R168, R169, R174 and R175 for one access, in order. An access to an IP page of another home waits for the owner's
name. -/
def State.checkAccess (s : State) (iss : Issue) (h : HandleBits) (e : Int) (z : Nat) (need any : List Nat) (u : Use)
    (scope : Nat) : LaneCheck × State :=
  let c := s.ctxI iss
  let core := iss.before.core
  let va := vaOf h e
  match checkHandle c h e z z (rightsAt scope need) any with
  | some code => (.fail code va, s)
  | none =>
    match if u.writes then s.translateStore c core (handleAsid h) va else s.translate c core (handleAsid h) va with
    | (.leaf l pa, s) =>
      match s.checkLeaf l pa core u (handleHas h 7) scope with
      | some code => (.fail code va, s)
      | none =>
        match s.ownerAway l.pte pa u with
        | some g => (.away g false (leafWord l.pte core), s)
        | none => (.ok va pa l.pte, s)
    | (.absent, s) => (.absent va, s)
    | (.malformed, s) => (.fail .pageProt va, s)
    | (.away g w, s) => (.away g w walkLeaf, s)

/-- The checks of every lane of a set, in ascending order. -/
def State.checkLanes (s : State) (lanes : List Nat) (f : State → Nat → LaneCheck × State) : List (Nat × LaneCheck) × State :=
  lanes.foldl (fun p l => let (r, s) := f p.2 l; (p.1 ++ [(l, r)], s)) ([], s)

/-- The failures among lane checks; a page that is not resident is one unless a residency destination excuses it (R178). -/
def failures (excuse : Bool) (rs : List (Nat × LaneCheck)) : List (Nat × FaultCode × Nat) :=
  rs.filterMap fun p =>
    match p.2 with
    | .fail c va => some (p.1, c, va)
    | .absent va => if excuse then none else some (p.1, .pageNotPresent, va)
    | _ => none

/-- The grain that a lane's check waits for, if any, with how it is asked for. -/
def awaited (rs : List (Nat × LaneCheck)) : Option (Nat × Bool × Nat) :=
  rs.findSome? fun p =>
    match p.2 with
    | .away g w leaf => some (g, w, leaf)
    | _ => none

/-- The value of one lane's check, 0 for a lane without a translation. -/
def laneWord (rs : List (Nat × LaneCheck)) (f : Nat → Nat → BitVec 64 → Nat) : LaneVals :=
  LaneVals.of fun l =>
    match rs.find? fun p => p.1 == l with
    | some (_, .ok va pa pte) => BitVec.ofNat 64 (f va pa pte)
    | _ => 0

/-- The lanes whose check passed with a translation. -/
def okLanes (rs : List (Nat × LaneCheck)) : Lanes :=
  Lanes.of fun l => rs.any fun p => p.1 == l && match p.2 with
    | .ok .. => true
    | _ => false

/-- Ends an instruction that accesses memory: stalls for a walk, faults with the lowest lane's failure, or holds back the
access of the lanes that passed, with VA, PA and leaf for each, and further effects. -/
def State.endAccess (s : State) (iss : Issue) (words : Nat) (i : Instr) (rs : List (Nat × LaneCheck)) (excuse : Bool)
    (n : List Nat) (more : List Effect) : Result :=
  match awaited rs with
  | some (g, w, leaf) => .next (s.request g w leaf).stall
  | none =>
    match firstFailure (failures excuse rs) with
    | some (c, lanes, va) => s.faults iss c lanes va
    | none =>
      s.finish iss words (.act i iss.idx (okLanes rs) (laneWord rs fun va _ _ => va) (laneWord rs fun _ pa _ => pa)
        (laneWord rs fun _ _ pte => pte.toNat) n :: more)

/-- The access of one lane of a committing clause. -/
def Issue.access (iss : Issue) (idx lane : Nat) (va pa pte : Word) (size : Nat) (op : AccessOp) : Access :=
  { id := 0, gid := iss.gid, lane := lane, core := iss.before.core, pc := iss.pc, idx := idx, bundle := iss.lanes,
    inHandler := iss.before.inHandler, va := va.toNat, pa := pa.toNat, size := size, pte := pte, op := op }

/-- Submits the accesses of some lanes in ascending order (R185). -/
def State.submitLanes (s : State) (lanes : Lanes) (f : Nat → Access) : State :=
  (Lanes.list lanes).foldl (fun s l => s.submit (f l)) s

/-- Before a store through a page, its dirty bit is set (R173). -/
def State.dirtyPage (s : State) (iss : Issue) (h : HandleBits) (va : Nat) : State :=
  match s.translate (s.ctxI iss) iss.before.core (handleAsid h) va with
  | (.leaf l _, s) => s.setDirty (s.ctxI iss) iss.before.core (handleAsid h) va l
  | (_, s) => s

/-- The grain that must come here before the dirty bits of some lanes' pages can be set (R173). -/
def State.dirtyWaits (s : State) (iss : Issue) (h : HandleBits) (lanes : Lanes) (x : LaneVals) : Option (Nat × Bool) :=
  (Lanes.list lanes).findSome? fun l =>
    match s.translate (s.ctxI iss) iss.before.core (handleAsid h) (x.at l).toNat with
    | (.leaf leaf _, s) => s.dirtyAway (s.ctxI iss) (handleAsid h) (x.at l).toNat leaf
    | _ => none

/-- The deferred event of accesses: it lands when the last of them has (R194). -/
def State.accessEvent (s : State) (d : Deferred) (n : Nat) : Nat × State :=
  s.addEvent { d with wait := if n == 0 then .done else .accesses n, result := true }

/-- How many lanes a set holds. -/
def Lanes.count (x : Lanes) : Nat := (Lanes.list x).length

/-- Zero in every lane. -/
def zeroVals : LaneVals := LaneVals.of fun _ => 0

/-- The destinations of a load: none under nw, a pair under size 4 (R183). -/
def loadDst (f : FM) : List (Nat × LaneVals) :=
  if f.nw == 1 then []
  else (f.d.toNat, zeroVals) :: (if f.t == 4 then [(f.d.toNat + 1, zeroVals)] else [])

/-- The data of a store in one lane (R184): the low bytes of the operand, or an even pair under size 4. -/
def Issue.storeData (iss : Issue) (f : FM) (ls : Lits) (lane : Nat) : Nat :=
  if f.t == 4 then (iss.vreg f.d.toNat lane).toNat + (iss.vreg (f.d.toNat + 1) lane).toNat * 2 ^ 64
  else (iss.operand (intLayout 5) f.d (litAt ls (litsIn [f.off])) lane).toNat % 2 ^ (8 * 2 ^ f.t.toNat)

/-- The off operand of one lane. -/
def Issue.off (iss : Issue) (f : FM) (ls : Lits) (lane : Nat) : Word := iss.operand (intLayout 5) f.off (litAt ls 0) lane

/-! ### ld and st -/

/-- ld (R183): checks every thread of the bundle; k of a residency destination says which pages are resident (R178). -/
def execLd (f : FM) (ls : Lits) (s : State) : Result :=
  s.withIssue fun iss s =>
    let z := 2 ^ f.t.toNat
    let h := iss.hreg f.h.toNat
    let (rs, s) := s.checkLanes (Lanes.list iss.lanes) fun s l =>
      s.checkAccess iss h (offsetOf (iss.off f ls l) f.imm z) z [0] [] .load f.scope.toNat
    let ok := okLanes rs
    s.endAccess iss (2 + ls.length) (.ld f ls) rs (f.re == 1) []
      (if f.re == 1 then [.k f.rk.toNat iss.lanes (LaneVals.of fun l => if ok.has l then 0xFFFF else 0)] else [])

/-- The commit of ld. -/
def commitLd (f : FM) (iss : Issue) (idx : Nat) (lanes : Lanes) (x y z : LaneVals) (s : State) : State :=
  let (e, s) := s.accessEvent { iss.event idx iss.lanes with v := loadDst f } (Lanes.count lanes)
  s.submitLanes lanes fun l =>
    { iss.access idx l (x.at l) (y.at l) (z.at l) (2 ^ f.t.toNat) (.load (f.sub == 1)) with
      event := some e, scope := f.scope.toNat, acquire := f.ord == 1, hint := f.hint.toNat,
      holdLd := f.ord == 1, holdSt := f.ord == 1 }

/-- st (R184): checks every acting thread. -/
def execSt (f : FM) (ls : Lits) (s : State) : Result :=
  s.withIssue fun iss s =>
    let z := 2 ^ f.t.toNat
    let h := iss.hreg f.h.toNat
    let (rs, s) := s.checkLanes (Lanes.list (iss.acting f.ge f.gn f.gk)) fun s l =>
      s.checkAccess iss h (offsetOf (iss.off f ls l) f.imm z) z [1] [] .store f.scope.toNat
    s.endAccess iss (2 + ls.length) (.st f ls) rs false ((List.range 32).map (iss.storeData f ls)) []

/-- The commit of st. -/
def commitSt (f : FM) (iss : Issue) (idx : Nat) (lanes : Lanes) (x y z : LaneVals) (n : List Nat) (s : State) : State :=
  let s := (Lanes.list lanes).foldl (fun s l => s.dirtyPage iss (iss.hreg f.h.toNat) (x.at l).toNat) s
  s.submitLanes lanes fun l =>
    { iss.access idx l (x.at l) (y.at l) (z.at l) (2 ^ f.t.toNat) (.store (toBytes (2 ^ f.t.toNat) (n.getD l 0))) with
      scope := f.scope.toNat, release := f.ord == 2, hint := f.hint.toNat }

/-! ### Typed buffers (R180, R186) -/

/-- The buffer address of one lane. -/
def Issue.bufAddr (iss : Issue) (f : FM) (ls : Lits) (lane : Nat) : Int :=
  (((iss.off f ls lane).toNat % 2 ^ 32 : Nat) : Int) + f.imm.toInt * (2 ^ f.t.toNat : Nat)

/-- The checks of R180 for one lane. -/
def bufCheck (t : Team) (space : Nat) (a : Int) (z : Nat) : LaneCheck :=
  if a < 0 || (t.window space : Int) < a + z then .fail .bufBounds 0
  else if a % (z : Int) != 0 then .fail .misaligned 0
  else .ok 0 a.toNat 0

/-- A typed-buffer access of the acting lanes. -/
def bufExec (i : Instr) (f : FM) (ls : Lits) (space : Nat) (lanes : Issue → Lanes) (data : Issue → List Nat) (s : State) : Result :=
  s.withIssue fun iss s =>
    let rs := (Lanes.list (lanes iss)).map fun l =>
      (l, bufCheck (s.teamOf iss.gid) space (iss.bufAddr f ls l) (2 ^ f.t.toNat))
    s.endAccess iss (2 + ls.length) i rs false (data iss) []

/-- The commit of a typed-buffer load. -/
def commitBufLoad (f : FM) (space : Nat) (iss : Issue) (idx : Nat) (lanes : Lanes) (y : LaneVals) (s : State) : State :=
  let (e, s) := s.accessEvent { iss.event idx iss.lanes with v := loadDst f } (Lanes.count lanes)
  s.submitLanes lanes fun l =>
    { iss.access idx l 0 (y.at l) 0 (2 ^ f.t.toNat) (.load (f.sub == 1)) with event := some e, space := space }

/-- The commit of a typed-buffer store. -/
def commitBufStore (f : FM) (space : Nat) (iss : Issue) (idx : Nat) (lanes : Lanes) (y : LaneVals) (n : List Nat) (s : State) : State :=
  s.submitLanes lanes fun l =>
    { iss.access idx l 0 (y.at l) 0 (2 ^ f.t.toNat) (.store (toBytes (2 ^ f.t.toNat) (n.getD l 0))) with space := space }

/-- lda (R186). -/
def execLda (f : FM) (ls : Lits) (s : State) : Result := bufExec (.lda f ls) f ls 1 (·.lanes) (fun _ => []) s
/-- ldc (R186). -/
def execLdc (f : FM) (ls : Lits) (s : State) : Result := bufExec (.ldc f ls) f ls 2 (·.lanes) (fun _ => []) s
/-- sta (R186). -/
def execSta (f : FM) (ls : Lits) (s : State) : Result :=
  bufExec (.sta f ls) f ls 1 (fun iss => iss.acting f.ge f.gn f.gk) (fun iss => (List.range 32).map (iss.storeData f ls)) s
/-- stc (R186). -/
def execStc (f : FM) (ls : Lits) (s : State) : Result :=
  bufExec (.stc f ls) f ls 2 (fun iss => iss.acting f.ge f.gn f.gk) (fun iss => (List.range 32).map (iss.storeData f ls)) s

/-! ### pf -/

/-- pf (R187): no check beyond the encoding raises a fault; the threads that would fail one make no request. -/
def execPf (f : FM) (ls : Lits) (s : State) : Result :=
  s.withIssue fun iss s =>
    let z := 2 ^ f.t.toNat
    let (rs, s) := s.checkLanes (Lanes.list iss.lanes) fun s l =>
      s.checkAccess iss (iss.hreg f.h.toNat) (offsetOf (iss.off f ls l) f.imm z) z [0] [] .load 0
    match awaited rs with
    | some (g, w, leaf) => .next (s.request g w leaf).stall
    | none =>
      s.finish iss (2 + ls.length) [.act (.pf f ls) iss.idx (okLanes rs) (laneWord rs fun va _ _ => va) (laneWord rs fun _ pa _ => pa)
        (laneWord rs fun _ _ pte => pte.toNat) []]

/-- The commit of pf: the lines of the threads that passed are brought near (R187). -/
def commitPf (f : FM) (iss : Issue) (lanes : Lanes) (y z : LaneVals) (s : State) : State :=
  (Lanes.list lanes).foldl (fun s l => s.bringNear iss.before.core (y.at l).toNat (z.at l) f.hint.toNat) s

/-! ### Ranges -/

/-- One page's part of a range: its virtual and physical address, length and leaf. -/
structure Seg where
  va : Nat
  pa : Nat
  len : Nat
  leaf : Leaf
  deriving DecidableEq, Repr

/-- The pages of a range, or what stops its translation. -/
inductive Segs where
  | ok (l : List Seg)
  | fail (c : FaultCode) (va : Nat)
  | away (g : Nat) (write : Bool)
  deriving DecidableEq, Repr

/-- Translates a range page by page. -/
def State.segments (s : State) (c : Ctx) (core asid va len : Nat) : Nat → Segs × State
  | 0 => (.ok [], s)
  | fuel + 1 =>
    if len == 0 then (.ok [], s)
    else
      match s.translate c core asid va with
      | (.leaf l pa, s) =>
        let n := min len (l.vbase + l.size - va)
        match s.segments c core asid (va + n) (len - n) fuel with
        | (.ok r, s) => (.ok ({ va := va, pa := pa, len := n, leaf := l } :: r), s)
        | r => r
      | (.absent, s) => (.fail .pageNotPresent va, s)
      | (.malformed, s) => (.fail .pageProt va, s)
      | (.away g w, s) => (.away g w, s)

/-- Translates a whole range. -/
def State.range (s : State) (c : Ctx) (core asid va len : Nat) : Segs × State :=
  s.segments c core asid va len (len / 4096 + 2)

/-- Every lane of the bundle: the lanes of a fault of an instruction made once for it. -/
def State.faultAll (s : State) (iss : Issue) (code : FaultCode) (va : Nat := 0) : Result := s.faults iss code iss.lanes va

/-- The length of a range form: 0 and lengths beyond 40 bits fail the bounds check (R188). -/
def rangeLen (x : Word) : Nat := if x == 0 || 2 ^ 40 ≤ x.toNat then 2 ^ 62 else x.toNat

/-- The offset of an instruction made once for the bundle, uniform operand and imm12 in its unit. -/
def Issue.uoff (iss : Issue) (f : FM) (ls : Lits) (unit : Nat) : Int := offsetOf (iss.uniformM f.off (litAt ls 0)) f.imm unit

/-- The uniform length in dst. -/
def Issue.ulen (iss : Issue) (f : FM) (ls : Lits) : Word := iss.uniformM f.d (litAt ls (litsIn [f.off]))

/-- preq (R188): bounds and rights are checked; the request is made at commit. -/
def execPreq (f : FM) (ls : Lits) (s : State) : Result :=
  s.withIssue fun iss s =>
    let h := iss.hreg f.h.toNat
    let e := iss.uoff f ls 1
    let len := rangeLen (iss.ulen f ls)
    match checkHandle (s.ctxI iss) h e len 1 [] [0, 1] with
    | some c => s.faultAll iss c (vaOf h e)
    | none => s.finish iss (2 + ls.length) [.act (.preq f ls) iss.idx iss.lanes [] [] [] [vaOf h e, len, handleAsid h]]

/-- Adds a command and answers its number. -/
def State.addCommand (s : State) (c : Command) : Nat × State :=
  (s.nextId, { s with nextId := s.nextId + 1, commands := s.commands.insert s.nextId { c with since := s.clock } })

/-- The commit of preq: a request to the migration engine. -/
def commitPreq (iss : Issue) (idx : Nat) (n : List Nat) (s : State) : State :=
  let (e, s) := s.addEvent { iss.event idx iss.lanes with wait := .command s.nextId }
  let (id, s) := s.addCommand
    { kind := .preq, ctx := s.ctxOf iss.gid, team := (s.group iss.gid).team, gid := iss.gid, core := iss.before.core,
      lane := lowestLane iss.lanes, event := some e, n := n }
  s.modEvent e fun d => { d with wait := .command id }

/-- cinv and cwb (R189): the range is checked and translated page by page. -/
def cacheExec (i : Instr) (f : FM) (ls : Lits) (s : State) : Result :=
  s.withIssue fun iss s =>
    let h := iss.hreg f.h.toNat
    let e := iss.uoff f ls 1
    let len := rangeLen (iss.ulen f ls)
    let c := s.ctxI iss
    match checkHandle c h e len 1 [] [0, 1] with
    | some code => s.faultAll iss code (vaOf h e)
    | none =>
      match s.range c iss.before.core (handleAsid h) (vaOf h e) len with
      | (.ok segs, s) => s.finish iss (2 + ls.length) [.act i iss.idx iss.lanes [] [] [] (segs.flatMap fun g => [g.pa, g.len])]
      | (.fail code va, s) => s.faultAll iss code va
      | (.away g w, s) => .next (s.request g w).stall

/-- Pairs from a flat list. -/
def pairsOf : List Nat → List (Nat × Nat)
  | a :: b :: r => (a, b) :: pairsOf r
  | _ => []

/-- Whether a sector overlaps one of the parts of a range. -/
def inParts (ps : List (Nat × Nat)) (pa : Nat) : Bool := ps.any fun p => decide (p.1 < pa + 128) && decide (pa < p.1 + p.2)

/-- What cwb and cinv do to the lines of their cluster once the earlier stores of the thread have reached it (R189). -/
def State.cacheClean (s : State) (q : Nat) (drop : Bool) (ps : List (Nat × Nat)) : State :=
  let test := fun c pa => c == q && inParts ps pa
  let s := s.writeBackAll test
  if drop then s.dropLines test else s

/-- Whether an earlier store of a bundle still waits in the order queue. -/
def State.storesPending (s : State) (gid : Nat) (lanes : Lanes) : Bool :=
  s.accesses.any fun a => a.gid == gid && lanes.has a.lane && a.writes

/-- The commit of cinv and cwb. -/
def commitCache (i : Instr) (drop : Bool) (iss : Issue) (idx : Nat) (n : List Nat) (s : State) : State :=
  if s.storesPending iss.gid iss.lanes then
    (s.addEvent { iss.event idx iss.lanes with wait := .condition i n }).2
  else
    ((s.cacheClean iss.before.cluster drop (pairsOf n)).addEvent { iss.event idx iss.lanes with wait := .done }).2

/-- cinv (R189). -/
def execCinv (f : FM) (ls : Lits) (s : State) : Result := cacheExec (.cinv f ls) f ls s
/-- cwb (R189). -/
def execCwb (f : FM) (ls : Lits) (s : State) : Result := cacheExec (.cwb f ls) f ls s

/-! ### Handle instructions (R190 to R193) -/

/-- The handle register a dst field names, in [17:14] of the word. -/
def handleDst (f : FM) : Nat := f.d.toNat % 16

/-- hmov (R190). -/
def execHmov (f : FM) (ls : Lits) (s : State) : Result :=
  s.withIssue fun iss s => s.finish iss (2 + ls.length) [.h (handleDst f) (iss.hreg f.h.toNat)]

/-- hnarrow (R190). -/
def execHnarrow (f : FM) (ls : Lits) (s : State) : Result :=
  s.withIssue fun iss s =>
    let h := iss.hreg f.h.toNat
    let len := (iss.uniformM f.off (litAt ls 0)).toNat
    if !handleHas h 5 then s.faultAll iss .handleRights
    else if handleLen h < len then s.faultAll iss .handleBounds
    else s.finish iss (2 + ls.length)
      [.h (handleDst f) (mkHandle (bits h.toNat 51 0) len (handleRights h &&& f.imm.toNat % 256) (handleAsid h))]

/-- hoff (R190). -/
def execHoff (f : FM) (ls : Lits) (s : State) : Result :=
  s.withIssue fun iss s =>
    let h := iss.hreg f.h.toNat
    let o := (iss.uniformM f.off (litAt ls 0)).toNat
    if !handleHas h 5 then s.faultAll iss .handleRights
    else if o % 16 != 0 then s.faultAll iss .misaligned
    else if handleLen h < o then s.faultAll iss .handleBounds
    else s.finish iss (2 + ls.length)
      [.h (handleDst f) (mkHandle (bits h.toNat 51 0 + o / 16) (handleLen h - o) (handleRights h) (handleAsid h))]

/-- hsave (R191): one 16-byte store of the bundle, through its lowest lane. -/
def execHsave (f : FM) (ls : Lits) (s : State) : Result :=
  s.withIssue fun iss s =>
    let h := iss.hreg f.h.toNat
    let hs := iss.hreg (handleDst f)
    let e := iss.uoff f ls 16
    let l := lowestLane iss.lanes
    let (r, s) :=
      if bits h.toNat 51 48 == 0 && !handleHas hs 6 then (LaneCheck.fail .handleRights (vaOf h e), s)
      else s.checkAccess iss h e 16 [1] [] .store 0
    match r with
    | .fail c va => s.faultAll iss c va
    | .absent va => s.faultAll iss .pageNotPresent va
    | _ =>
      let (w0, w1) := sealedImage (s.ctxI iss).sealKey hs
      s.endAccess iss (2 + ls.length) (.hsave f ls) [(l, r)] false [w0 + w1 * 2 ^ 64] []

/-- The commit of hsave. -/
def commitHsave (f : FM) (iss : Issue) (idx : Nat) (lanes : Lanes) (x y z : LaneVals) (n : List Nat) (s : State) : State :=
  let s := (Lanes.list lanes).foldl (fun s l => s.dirtyPage iss (iss.hreg f.h.toNat) (x.at l).toNat) s
  s.submitLanes lanes fun l => { iss.access idx l (x.at l) (y.at l) (z.at l) 16 (.store (toBytes 16 (n.headD 0))) with whole := true }

/-- hload (R192): one 16-byte load of the bundle, through its lowest lane. -/
def execHload (f : FM) (ls : Lits) (s : State) : Result :=
  s.withIssue fun iss s =>
    let h := iss.hreg f.h.toNat
    let (r, s) := s.checkAccess iss h (iss.uoff f ls 16) 16 [0] [] .load 0
    match r with
    | .fail c va => s.faultAll iss c va
    | .absent va => s.faultAll iss .pageNotPresent va
    | _ => s.endAccess iss (2 + ls.length) (.hload f ls) [(lowestLane iss.lanes, r)] false [] []

/-- The commit of hload. -/
def commitHload (f : FM) (iss : Issue) (idx : Nat) (lanes : Lanes) (x y z : LaneVals) (s : State) : State :=
  let (e, s) := s.accessEvent { iss.event idx iss.lanes with h := some (handleDst f, 0) } (Lanes.count lanes)
  s.submitLanes lanes fun l => { iss.access idx l (x.at l) (y.at l) (z.at l) 16 .hload with event := some e, whole := true }

/-- hinfo (R193). -/
def execHinfo (f : FM) (ls : Lits) (s : State) : Result :=
  s.withIssue fun iss s =>
    let h := iss.hreg f.h.toNat
    let x := match f.sub.toNat with
      | 0 => handleBase h
      | 1 => handleLen h
      | 2 => handleRights h
      | _ => handleAsid h
    s.finish iss (2 + ls.length) [.v f.d.toNat iss.lanes (iss.lanesOf fun _ => BitVec.ofNat 64 x)]

end Sys2Proof.Machine
end

