-- ==== Sys2Proof/Machine/Order.lean ====
section
/-!
DEFINITION. The ordering instructions fence, acq and rel (R213 to R219).
-/

namespace Sys2Proof.Machine

/-- Holds later accesses of the bundle's threads behind those already in the order queue; `loads` and `stores` say which kinds
of later access wait behind an access, `acq` that a load becomes an acquire at the scope, and `fenced` that a write is to be performed
with respect to every cluster. -/
def State.holdBehind (s : State) (gid : Nat) (lanes : Lanes) (scope : Nat) (acq : Bool) (loads stores : Access → Bool)
    (fenced : Bool := false) : State :=
  { s with accesses := s.accesses.map fun a =>
      if a.gid == gid && lanes.has a.lane then
        { a with holdLd := a.holdLd || loads a, holdSt := a.holdSt || stores a, acquire := a.acquire || (acq && a.reads),
                 scope := if acq && a.reads then max a.scope scope else a.scope, fenced := a.fenced || (fenced && a.writes) }
      else a }

/-- Every cluster cache loses its lines of RC sectors that a later write has overtaken, so that no later read returns an older value: the
stores already made are then performed with respect to every cluster (R214; that the fence does so is the model's choice of how,
notes/assumptions/94). For a fence of POD or SYSTEM scope the lines still leased of grains that this chip no longer holds go too. -/
def State.dropStale (s : State) (pod : Bool) : State :=
  { s with lines := s.lines.filter fun l =>
      l.2.free || (l.2.wts == (s.sector (l.1 % 2 ^ 45 * 128)).wts && (s.engineOf (l.1 % 2 ^ 45 / 4)).isNone &&
        (!pod || s.mayRead (l.1 % 2 ^ 45 / 4))) }

/-- The accesses that stand for a fence of some lanes in the order queue while the other chips of the pod answer it. -/
def State.fenceAccesses (s : State) (iss : Issue) (idx : Nat) (lanes : Lanes) (loads stores : Bool) : State :=
  s.submitLanes lanes fun l => { iss.access idx l 0 0 0 0 (.fence (s.podSize - 1)) with space := 3, holdLd := loads, holdSt := stores }

/-- The lease adjustments that an acquire makes for the loads of the threads that have landed (R214, R215). -/
def State.acquireLanes (s : State) (gid : Nat) (lanes : Lanes) (scope : Nat) : State :=
  (Lanes.list lanes).foldl (fun s l => s.acquireSeen gid l scope) s

/-- From here on a thread's writes are ordered by a SYSTEM release (R219). -/
def State.markRelSys (s : State) (gid : Nat) (lanes : Lanes) : State :=
  s.modGroup gid fun g => g.modThreads lanes fun _ t => { t with relSys := true }

/-- Ends an ordering instruction: it acts at commit, at its index in program order. -/
def orderExec (i : Instr) (ls : Lits) (s : State) : Result :=
  s.withIssue fun iss s => s.finish iss (2 + ls.length) [.act i iss.idx iss.lanes [] [] [] []]

/-- The commit of fence (R214): mask bit 0 ld→ld, 1 ld→st, 2 st→st, 3 st→ld. -/
def commitFence (f : FM) (iss : Issue) (idx : Nat) (s : State) : State :=
  let m := f.sub.toNat % 16
  let scope := f.scope.toNat
  let ll := bitAt m 0
  let ls := bitAt m 1
  let wide := 2 ≤ scope && (bitAt m 2 || bitAt m 3)
  let s := s.holdBehind iss.gid iss.lanes scope (ll || ls)
    (fun a => (ll && a.reads) || (bitAt m 3 && a.writes)) (fun a => (ls && a.reads) || (bitAt m 2 && a.writes)) wide
  let s := if wide then s.dropStale (decide (3 ≤ scope)) else s
  let s := if wide && 3 ≤ scope && 1 < s.podSize then s.fenceAccesses iss idx iss.lanes (bitAt m 3) (bitAt m 2) else s
  let s := if ll || ls then s.acquireLanes iss.gid iss.lanes scope else s
  if scope == 4 && bitAt m 2 then s.markRelSys iss.gid iss.lanes else s

/-- The commit of acq (R215). -/
def commitAcq (f : FM) (iss : Issue) (s : State) : State :=
  (s.holdBehind iss.gid iss.lanes f.scope.toNat true (·.reads) (·.reads)).acquireLanes iss.gid iss.lanes f.scope.toNat

/-- The commit of rel (R216): later writes wait for the thread's earlier accesses, and their stamps carry what its earlier loads have
read, which is why those raise the cluster's clock (R203). -/
def commitRel (f : FM) (iss : Issue) (s : State) : State :=
  let s := s.holdBehind iss.gid iss.lanes f.scope.toNat true (fun _ => false) (fun _ => true)
  let s := s.acquireLanes iss.gid iss.lanes f.scope.toNat
  if f.scope == 4 then s.markRelSys iss.gid iss.lanes else s

/-- fence (R214). -/
def execFence (f : FM) (ls : Lits) (s : State) : Result := orderExec (.fence f ls) ls s
/-- acq (R215). -/
def execAcq (f : FM) (ls : Lits) (s : State) : Result := orderExec (.acq f ls) ls s
/-- rel (R216). -/
def execRel (f : FM) (ls : Lits) (s : State) : Result := orderExec (.rel f ls) ls s

end Sys2Proof.Machine
end

