-- ==== Sys2Proof/Machine/Atomics.lean ====
section
/-!
DEFINITION. atom, red and await (R246 to R264) and the steps of the units that perform atomics and test waits.
-/

namespace Sys2Proof.Machine

/-- The bytes an atomic type touches. -/
def atomSize (t : Nat) : Nat := atomBits t / 8

/-- The access width of await: 4 bytes for types 0 and 1, 8 for 2 and 3 (R247). -/
def awaitSize (t : Nat) : Nat := if t ≤ 1 then 4 else 8

/-- The forms that a deterministic launch permits (Table 11·8). -/
def detPermits (isRed : Bool) (sub scope : Nat) : Bool := isRed && sub != 9 && scope ≤ 1

/-- The data operand of red and await: a constant in the type, a literal in [31:0] or sign-extended (R248). -/
def Issue.atomOperand (iss : Issue) (f : FM) (ls : Lits) (lane : Nat) : Nat :=
  let L : Layout := if f.t == 4 then floatLayout 0 else if f.t.toNat ≤ 1 then intLayout 4 else intLayout 5
  (iss.operand L f.d (litAt ls (litsIn [f.off])) lane).toNat

/-- The operands of atom in one lane (Table 11·3). -/
def Issue.atomRegs (iss : Issue) (f : FM) (lane : Nat) : List Nat :=
  let r := fun k => (iss.vreg (f.d.toNat + k) lane).toNat
  let w := 2 ^ atomBits f.t.toNat
  if f.sub == 8 then if f.t == 5 then [r 0 + r 1 * 2 ^ 64, r 2 + r 3 * 2 ^ 64] else [r 0 % w, r 1 % w]
  else if f.t == 5 then [r 0 + r 1 * 2 ^ 64]
  else [r 0 % w]

/-- The checks of R249 for one lane of an atomic or a wait. -/
def State.checkAtom (s : State) (iss : Issue) (f : FM) (ls : Lits) (size : Nat) (right : Nat) (u : Use) (returns : Bool)
    (l : Nat) : LaneCheck × State :=
  let h := iss.hreg f.h.toNat
  match s.checkAccess iss h (offsetOf (iss.off f ls l) f.imm size) size [right] [] u f.scope.toNat with
  | (.ok va pa pte, s) =>
    match (if pteHost pte && right == 3 then s.hostAtomicCheck pa f.sub.toNat f.t.toNat returns else none) with
    | some c => (.fail c va, s)
    | none => (.ok va pa pte, s)
  | r => r

/-- atom (R249, R257). -/
def execAtom (f : FM) (ls : Lits) (s : State) : Result :=
  s.withIssue fun iss s =>
    let lanes := iss.acting f.ge f.gn f.gk
    if s.detI iss && lanes != 0 then s.faults iss .detAtomic lanes
    else
      let (rs, s) := s.checkLanes (Lanes.list lanes) fun s l => s.checkAtom iss f ls (atomSize f.t.toNat) 3 .atom true l
      s.endAccess iss (2 + ls.length) (.atom f ls) rs false
        ((List.range 32).flatMap fun l => let x := iss.atomRegs f l; [x.headD 0, x.getD 1 0]) []

/-- The registers that the old value lands in (Table 11·3). -/
def atomDst (f : FM) : List (Nat × LaneVals) :=
  (f.d.toNat, zeroVals) :: (if f.t == 5 then [(f.d.toNat + 1, zeroVals)] else [])

/-- The commit of atom. One whose guard is off in every thread has no deferred event (R40). -/
def commitAtom (f : FM) (iss : Issue) (idx : Nat) (lanes : Lanes) (x y z : LaneVals) (n : List Nat) (s : State) : State :=
  if lanes == 0 then s
  else
  let s := (Lanes.list lanes).foldl (fun s l => s.dirtyPage iss (iss.hreg f.h.toNat) (x.at l).toNat) s
  let (e, s) := s.accessEvent { iss.event idx lanes with v := atomDst f } (Lanes.count lanes)
  s.submitLanes lanes fun l =>
    { iss.access idx l (x.at l) (y.at l) (z.at l) (atomSize f.t.toNat)
        (.atomic f.sub.toNat f.t.toNat true [n.getD (2 * l) 0, n.getD (2 * l + 1) 0]) with
      event := some e, scope := f.scope.toNat, acquire := f.ord == 1 || f.ord == 3, release := f.ord == 2 || f.ord == 3,
      holdLd := f.ord == 1 || f.ord == 3, holdSt := f.ord == 1 || f.ord == 3 }

/-- red (R249, R257). -/
def execRed (f : FM) (ls : Lits) (s : State) : Result :=
  s.withIssue fun iss s =>
    let lanes := iss.acting f.ge f.gn f.gk
    if s.detI iss && lanes != 0 && !detPermits true f.sub.toNat f.scope.toNat then s.faults iss .detAtomic lanes
    else
      let (rs, s) := s.checkLanes (Lanes.list lanes) fun s l => s.checkAtom iss f ls (atomSize f.t.toNat) 3 .red false l
      s.endAccess iss (2 + ls.length) (.red f ls) rs false ((List.range 32).map (iss.atomOperand f ls)) []

/-- The commit of red. -/
def commitRed (f : FM) (iss : Issue) (idx : Nat) (lanes : Lanes) (x y z : LaneVals) (n : List Nat) (s : State) : State :=
  let s := (Lanes.list lanes).foldl (fun s l => s.dirtyPage iss (iss.hreg f.h.toNat) (x.at l).toNat) s
  s.submitLanes lanes fun l =>
    { iss.access idx l (x.at l) (y.at l) (z.at l) (atomSize f.t.toNat)
        (.atomic f.sub.toNat f.t.toNat false [n.getD l 0]) with
      scope := f.scope.toNat, release := f.ord == 2 }

/-- await (R249, R262). -/
def execAwait (f : FM) (ls : Lits) (s : State) : Result :=
  s.withIssue fun iss s =>
    if s.detI iss && 2 ≤ f.scope.toNat then s.faultAll iss .detAtomic
    else
      let (rs, s) := s.checkLanes (Lanes.list iss.lanes) fun s l =>
        s.checkAtom iss f ls (awaitSize f.t.toNat) 0 (.await (f.sub == 6)) false l
      s.endAccess iss (2 + ls.length) (.await f ls) rs false ((List.range 32).map (iss.atomOperand f ls)) []

/-- The commit of await: every thread blocks, and its first test is made when the request arrives (R262, R263). -/
def commitAwait (f : FM) (iss : Issue) (idx : Nat) (lanes : Lanes) (x y z : LaneVals) (n : List Nat) (s : State) : State :=
  (Lanes.list lanes).foldl (fun s l =>
    let s := s.modGroup iss.gid fun g => g.modThreads (Lanes.of (· == l)) fun _ t => t.block (.await s.nextId)
    let size := awaitSize f.t.toNat
    s.submit { iss.access idx l (x.at l) (y.at l) (z.at l) size (.await f.sub.toNat size (n.getD l 0)) with
      scope := f.scope.toNat, acquire := f.ord == 1, holdLd := f.ord == 1, holdSt := f.ord == 1,
      asid := handleAsid (iss.hreg f.h.toNat) }) s

/-! ### Steps of the units -/

/-- The place of an atomic at its unit: the ACLK (at an engine) or MCLK (at a slice) of its commit, then its cluster, core, core-local
group index, instruction index and lane (R253, R255). -/
def State.atomRank (s : State) (tick : Nat) (a : Access) : List Nat :=
  [a.since / tick, a.core / 4, a.core, (s.group a.gid).slot, a.idx, a.lane]

/-- Tries the first atomic of this chip that a test selects, in the order of its unit. -/
def State.firstAtomic (s : State) (tick : Nat) (p : Access → Bool) : State :=
  match s.accesses.filter fun a => p a && !s.eager a && a.writes && !s.orderHeld a with
  | [] => s
  | a :: as => s.tryAccess (as.foldl (fun m b => if rankBefore (s.atomRank tick b) (s.atomRank tick m) then b else m) a).id

/-- ATOMIC_ENGINE_OPERATION: a cluster's engine performs the next operation queued for a grain (R252, R253). -/
def execAtomicEngineOperation (cluster grain : Nat) (s : State) : Result :=
  .next (s.firstAtomic 2 fun a => a.core / 4 == cluster && grainOf a.pa == grain && s.atomUnit a.pa a.pte a.scope == .engine).settle

/-- ATOMIC_GRAIN_RECALL: an engine surrenders a grain between two operations; what is queued stays queued (R254). -/
def execAtomicGrainRecall (cluster grain : Nat) (s : State) : Result := .next (s.engineSurrender cluster grain).settle

/-- The hash of address bits [39:9] that firmware fixes at boot (R224). -/
def sliceHash (pa : Nat) : Nat := Config.sliceHash (pa % 2 ^ 40 / 512)

/-- The home slice of an address among a chip's 288; the homes of a retired slice are rehashed onto those that remain (R224, R427). -/
def State.sliceOf (s : State) (pa : Nat) : Nat :=
  let first := sliceHash pa % 288
  if s.slicesOff.contains first then
    let left := (List.range 288).filter fun n => !s.slicesOff.contains n
    left.getD (sliceHash pa / 288 % left.length) first
  else first

/-- Whether a slice holds a wait among the 256 that it parks, the earlier ones first (R263). -/
def State.isParked (s : State) (a : Access) : Bool :=
  let waits := s.accesses.filter Access.isAwait
  decide (waits.length ≤ 256) ||
    decide (((waits.takeWhile fun b => b.id != a.id).filter fun b => s.sliceOf b.pa == s.sliceOf a.pa).length < 256)

/-- AWAIT_TEST: the home slice tests a wait that it parks; one beyond those is tested by the timer alone (R263). -/
def execAwaitTest (id : Nat) (s : State) : Result :=
  match s.accesses.find? fun a => a.id == id with
  | some a => .next (if s.isParked a then (s.tryAccess id).form a.gid else s)
  | none => .next s

/-- AWAIT_RETEST_TIMER: a wait is tested again 4,096 MCLK after its last test by the timer (R263). -/
def execAwaitRetestTimer (id : Nat) (s : State) : Result :=
  match s.accesses.find? fun a => a.id == id with
  | some a =>
    if s.clock < a.tested + 4096 then .next s
    else
      let s := { s with accesses := s.accesses.map fun (b : Access) => if b.id == id then { b with tested := s.clock } else b }
      .next ((s.tryAccess id).form a.gid)
  | none => .next s

/-- The waits of some threads that their group's release or resumption parks again: their limits run anew, and each has a fresh first test
(R264). -/
def State.parkAgain (s : State) (p : Access → Bool) : State :=
  let again := fun (s : State) (a : Access) => a.isAwait && p a && s.waitStands a
  let ids := (s.accesses.filter (again s)).map (·.id)
  let s := { s with accesses := s.accesses.map fun (a : Access) =>
      if ids.contains a.id then { a with since := s.clock, tested := s.clock, sent := false } else a }
  ids.foldl State.tryAccess s

/-- Whether an access has waited for a write-once grain as long as it may (R234, R264): the grain is not FULL here, nor held as a copy of
one that is. A tag read waits for nothing (R242). -/
def State.overdue (s : State) (a : Access) : Bool :=
  a.space == 0 && pteClass a.pte == 2 && !pteHost a.pte && a.reads && a.op != .tag && decide (a.since + a.limit ≤ s.clock) &&
    tagState (s.tag (grainOf a.pa)) != 7

/-- WS_WAIT_EXPIRY: a load or wait of a write-once grain that is not FULL within WS_WAIT ends with WS_TIMEOUT (R234, R264), and with it
those of the same instruction that are due; a wait of a saved team or a suspended thread is not parked (R264). -/
def execWsWaitExpiry (id : Nat) (s : State) : Result :=
  match s.accesses.find? fun a => a.id == id with
  | some a =>
    let stands := fun (b : Access) => s.overdue b && (!b.isAwait || s.waitStands b)
    if stands a then
      let due := s.accesses.filter fun b => b.gid == a.gid && b.pc == a.pc && b.idx == a.idx && b.bundle == a.bundle && stands b
      .next ((due.foldl (fun (s : State) b => s.refuseAccess b .wsTimeout) s).form a.gid)
    else .next s
  | none => .next s

end Sys2Proof.Machine
end

