-- ==== Sys2Proof/Machine/Coherence.lean ====
section
/-!
DEFINITION. The coherence instructions (R237 to R244), the transitions of pages (R236, R300), what this home does for other chips, and the
steps of the pod protocol, the leases and the write-once grains (R225 to R236).
-/

namespace Sys2Proof.Machine

/-! ### Grains of a range -/

/-- The grains that the parts of a range cover. -/
def grainsOf (ps : List (Nat × Nat)) : List Nat :=
  ps.flatMap fun p => (List.range (grainOf (p.1 + p.2 - 1) + 1 - grainOf p.1)).map (· + grainOf p.1)

/-- The first grain of a range whose tag this chip cannot read yet. -/
def State.firstAway (s : State) (gs : List Nat) : Option Nat := gs.find? fun g => !s.mayRead g

/-- The classes of a range's pages: the VA of the first page that is not of a class. A page of host memory, which has no grains, is of none
(DESIGN CHOICE, notes/assumptions/112). -/
def wrongClass (segs : List Seg) (cl : Nat) : Option Nat :=
  (segs.find? fun g => pteHost g.leaf.pte || pteClass g.leaf.pte != cl).map (·.va)

/-- Pairs of address and length of a range's parts. -/
def partsOf (segs : List Seg) : List (Nat × Nat) := segs.map fun g => (g.pa, g.len)

/-- A grain of a range with its virtual address and the leaf word of its page for a core. -/
structure RangeGrain where
  g : Nat
  va : Nat
  leaf : Nat
  deriving DecidableEq, Repr

/-- The grains of a range, in its order. -/
def rangeGrains (segs : List Seg) (core : Nat) : List RangeGrain :=
  segs.flatMap fun p => (grainsOf [(p.pa, p.len)]).map fun g =>
    { g := g, va := p.va + (g * 512 - p.pa), leaf := leafWord p.leaf.pte core }

/-- The flat list of a range's grains, which a deferred condition carries. -/
def flatGrains (xs : List RangeGrain) : List Nat := xs.flatMap fun x => [x.g, x.va, x.leaf]

/-- The grains that a flat list holds. -/
def grainsFrom : List Nat → List RangeGrain
  | a :: b :: c :: r => { g := a, va := b, leaf := c } :: grainsFrom r
  | _ => []

/-- A range form of Table 10·7 up to its translation: rights, bounds, alignment, then the pages with their reach (R174). -/
def State.rangeForm (s : State) (iss : Issue) (f : FM) (ls : Lits) (len : Nat) (need : List Nat) (align : Nat)
    (k : HandleBits → Nat → List Seg → State → Result) : Result :=
  let h := iss.hreg f.h.toNat
  let e := iss.uoff f ls 1
  let va := vaOf h e
  let c := s.ctxI iss
  match checkHandle c h e len 1 (rightsAt f.scope.toNat need) [] with
  | some code => s.faultAll iss code va
  | none =>
    if e % (align : Int) != 0 || len % align != 0 then s.faultAll iss .misaligned va
    else
      match s.range c iss.before.core (handleAsid h) va len with
      | (.ok segs, s) =>
        match segs.find? fun g => s.breaksReach g.leaf.pte g.pa (handleHas h 7) with
        | some g => s.faultAll iss .reach g.va
        | none => k h va segs s
      | (.fail code va, s) => s.faultAll iss code va
      | (.away g w, s) => .next (s.request g w).stall

/-- Whether a grain belongs to a core of this chip. -/
def State.ownedByCore (s : State) (g core : Nat) : Bool :=
  let t := s.tag g
  tagClass t == 3 && tagPtr t 0 == s.chip && tagPtr t 1 == core

/-- The unassigned grains of a range that are homed here take its leaf's class and reach (R223). -/
def State.adoptRange (s : State) (xs : List RangeGrain) : State :=
  xs.foldl (fun s x => if chipOf (x.g * 512) == s.chip then s.adoptAs x.g x.leaf s.chip else s) s

/-- Ends a range form: its deferred event is made at commit, and lands when its condition holds. -/
def State.endRange (s : State) (iss : Issue) (ls : Lits) (i : Instr) (n : List Nat) : Result :=
  s.finish iss (2 + ls.length) [.act i iss.idx iss.lanes [] [] [] n]

/-! ### The instructions -/

/-- Whether a chip lies outside the reach of a page (R174, R238). -/
def State.outsideReach (s : State) (pte : BitVec 64) (chip : Nat) : Bool :=
  (pteReach pte == 0 && chip != s.chip) || (pteReach pte != 0 && s.podSize ≤ chip && chip != s.chip)

/-- mvrange (R238): descriptor, alignment, class, ownership and reach, in that order. -/
def execMvrange (f : FM) (ls : Lits) (s : State) : Result :=
  s.withIssue fun iss s =>
    let d := (iss.ulen f ls).toNat
    let len := bits d 39 0
    let core := bits d 50 40
    let chip := bits d 62 51
    let h := iss.hreg f.h.toNat
    let e := iss.uoff f ls 1
    match checkHandle (s.ctxI iss) h e (if len == 0 then 2 ^ 62 else len) 1 [1] [] with
    | some code => s.faultAll iss code (vaOf h e)
    | none =>
      if bitAt d 63 || 1151 < core then s.faultAll iss .reservedField
      else
        s.rangeForm iss f ls len [1] 512 fun _ _ segs s =>
          match wrongClass segs 3 with
          | some va => s.faultAll iss .classOp va
          | none =>
            let xs := rangeGrains segs iss.before.core
            match xs.find? fun x => !s.mayRead x.g with
            | some x => .next (s.request x.g false x.leaf).stall
            | none =>
              let s := s.adoptRange xs
              if xs.any fun x => !s.ownedByCore x.g iss.before.core then s.faultAll iss .moveRights
              else if segs.any fun g => s.outsideReach g.leaf.pte chip then s.faultAll iss .reach
              else s.endRange iss ls (.mvrange f ls) ([core, chip] ++ flatGrains xs)

/-- mvwait (R239). -/
def execMvwait (f : FM) (ls : Lits) (s : State) : Result :=
  s.withIssue fun iss s =>
    s.rangeForm iss f ls (rangeLen (iss.ulen f ls)) [0] 512 fun _ _ segs s =>
      match wrongClass segs 3 with
      | some va => s.faultAll iss .classOp va
      | none => s.endRange iss ls (.mvwait f ls) (iss.before.core :: flatGrains (rangeGrains segs iss.before.core))

/-- wsclose and wsreset (R240, R241). -/
def wsExec (i : Instr) (f : FM) (ls : Lits) (s : State) : Result :=
  s.withIssue fun iss s =>
    s.rangeForm iss f ls (rangeLen (iss.ulen f ls)) [1] 512 fun _ _ segs s =>
      match wrongClass segs 2 with
      | some va => s.faultAll iss .classOp va
      | none => s.endRange iss ls i (0 :: flatGrains (rangeGrains segs iss.before.core))

/-- wsclose (R240). -/
def execWsclose (f : FM) (ls : Lits) (s : State) : Result := wsExec (.wsclose f ls) f ls s
/-- wsreset (R241). -/
def execWsreset (f : FM) (ls : Lits) (s : State) : Result := wsExec (.wsreset f ls) f ls s

/-- wsstate (R242): each thread reads a tag. The page's class goes before the ownership of an IP page. -/
def execWsstate (f : FM) (ls : Lits) (s : State) : Result :=
  s.withIssue fun iss s =>
    let h := iss.hreg f.h.toNat
    let (rs, s) := s.checkLanes (Lanes.list iss.lanes) fun s l =>
      match s.checkAccess iss h (offsetOf (iss.off f ls l) f.imm 1) 1 [0] [] (.await false) 0 with
      | (.ok va pa pte, s) => (if pteClass pte == 2 then .ok va pa pte else .fail .classOp va, s)
      | r => r
    s.endAccess iss (2 + ls.length) (.wsstate f ls) rs false [] []

/-- The commit of wsstate. -/
def commitWsstate (f : FM) (iss : Issue) (idx : Nat) (lanes : Lanes) (x y z : LaneVals) (s : State) : State :=
  let (e, s) := s.accessEvent { iss.event idx iss.lanes with v := [(f.d.toNat, zeroVals)] } (Lanes.count lanes)
  s.submitLanes lanes fun l => { iss.access idx l (x.at l) (y.at l) (z.at l) 1 .tag with event := some e }

/-- Whether a page may change to a class for a core (Table 10·6): the fault when it may not. -/
def State.classChange (s : State) (g : Seg) (core new : Nat) : Option FaultCode :=
  let old := pteClass g.leaf.pte
  if pteHost g.leaf.pte then some .classOp
  else if old == new then none
  else if pteBit g.leaf.pte 9 then some .classOp
  else if old == 3 && ((grainsOf [(g.pa, g.len)]).any fun x => !tagFree (s.tag x) && !s.ownedByCore x core) then some .moveRights
  else none

/-- The first grain of some IP pages whose owner this chip does not know. -/
def State.unknownOwner (s : State) (segs : List Seg) : Option (Nat × Seg) :=
  segs.findSome? fun p =>
    if pteClass p.leaf.pte == 3 then (s.firstAway (grainsOf [(p.pa, p.len)])).map fun g => (g, p) else none

/-- pgclass (R243): the whole range is checked before any page changes. e and the length are multiples of the size of every page
covered, and each page lies whole in the range. -/
def execPgclass (f : FM) (ls : Lits) (s : State) : Result :=
  s.withIssue fun iss s =>
    let e := iss.uoff f ls 1
    let len := rangeLen (iss.ulen f ls)
    s.rangeForm iss f ls len [1, 5] 4096 fun h va segs s =>
      if segs.any fun g => e % (g.leaf.pageSize : Int) != 0 || len % g.leaf.pageSize != 0 || g.va % g.leaf.size != 0 || g.len != g.leaf.size
      then s.faultAll iss .misaligned va
      else
        match s.unknownOwner segs with
        | some (g, p) => .next (s.request g false (leafWord p.leaf.pte iss.before.core)).stall
        | none =>
          match segs.findSome? fun g => (s.classChange g iss.before.core f.sub.toNat).map fun c => (c, g.va) with
          | some (c, va) => s.faultAll iss c va
          | none =>
            s.endRange iss ls (.pgclass f ls)
              ([iss.before.core, handleAsid h, 0] ++ segs.flatMap fun g => [g.va, g.pa, g.len, g.leaf.pteAddr])

/-- Check 3 of replic: whether a page's list of this home may not change as asked (R244). -/
def State.replicRefused (s : State) (add : Bool) (page chip : Nat) : Bool :=
  let list := s.replicaList page
  !list.contains chip && (!add || decide (8 ≤ list.length))

/-- The number under which a chip asks another home for check 3 of replic; the answer is kept beyond those of engines' stores. -/
def replicQuery (add : Bool) (page chip : Nat) : Nat := 2 ^ 58 + (page / 4096 * 4096 + chip % 4096) * 2 + if add then 1 else 0

/-- The key of an answer that a clause in a slot waits for. -/
def queryKey (id : Nat) : Nat := 2 ^ 70 + id

/-- replic.add and replic.rem (R244): the page that holds e. The list of a page of another home is that home's, which is asked for the third
check before the clause goes on (notes/assumptions/89). -/
def replicExec (i : Instr) (add : Bool) (f : FM) (ls : Lits) (s : State) : Result :=
  s.withIssue fun iss s =>
    s.rangeForm iss f ls 1 [1] 1 fun _ va segs s =>
      match segs with
      | [] => s.faultAll iss .pageNotPresent va
      | g :: _ =>
        let chip := (iss.ulen f ls).toNat
        let page := g.leaf.pageBase
        let k := replicQuery add page chip
        let go := fun (s : State) => s.endRange iss ls i [page, g.leaf.pageSize, chip, leafWord g.leaf.pte iss.before.core, va]
        if pteHost g.leaf.pte || pteClass g.leaf.pte != 0 || !pteBit g.leaf.pte 9 then s.faultAll iss .classOp va
        else if chip == chipOf page || s.podSize ≤ chip then s.faultAll iss .reach va
        else if chipOf page == s.chip then if s.replicRefused add page chip then s.faultAll iss .classOp va else go s
        else
          match s.engAnswers.find? (queryKey k) with
          | none =>
            let s := s.sendCoh (chipOf page) .replicAsk page (leafWord g.leaf.pte iss.before.core) k (toBytes 1 (if add then 1 else 0) ++ toBytes 2 chip)
            .next { s with engAnswers := s.engAnswers.insert (queryKey k) (2 ^ 16) }.stall
          | some c =>
            if c == 2 ^ 16 then .next s.stall
            else
              let s := { s with engAnswers := s.engAnswers.erase (queryKey k) }
              if c == 0 then go s else s.faultAll iss .classOp va

/-- replic.add (R244). -/
def execReplicAdd (f : FM) (ls : Lits) (s : State) : Result := replicExec (.replicAdd f ls) true f ls s
/-- replic.rem (R244). -/
def execReplicRem (f : FM) (ls : Lits) (s : State) : Result := replicExec (.replicRem f ls) false f ls s

/-! ### Pages in transition (R236, R300, R307) -/

/-- Whether bytes of device memory overlap a span. -/
def spans (lo n pa size : Nat) : Bool := decide (pa < lo + n) && decide (lo < pa + size)

/-- Whether an instruction's held effect carries the physical addresses of its lanes' accesses. -/
def Instr.accessesMemory : Instr → Bool
  | .ld .. | .st .. | .atom .. | .red .. | .await .. | .hsave .. | .hload .. | .wsstate .. | .pf .. => true
  | _ => false

/-- Whether a held effect is an access, already translated, to a span of device memory. -/
def Effect.touches (e : Effect) (lo n : Nat) : Bool :=
  match e with
  | .act i _ lanes _ y z _ =>
    Instr.accessesMemory i && (Lanes.list lanes).any fun l => spans lo n (busAddr (z.at l) (y.at l).toNat) 16
  | _ => false

/-- Whether an access already translated to a span of device memory is still to be performed, in the order queues or in a clause that has
not committed. A parked wait counts for nothing: its next test is a new access. -/
def State.pageBusy (s : State) (lo n : Nat) : Bool :=
  (s.accesses.any fun a => a.space == 0 && !a.isAwait && spans lo n (busAddr a.pte a.pa) a.size) ||
    s.issuing.any fun i => i.effects.any fun e => e.touches lo n

/-- The chips other than this one that may hold translations or copies of a page: those within its reach. -/
def State.pageChips (s : State) (reach : Nat) : List Nat :=
  if reach == 0 then [] else (List.range s.podSize).filter (· != s.chip)

/-- The assigned grains of a span. -/
def State.tagged (s : State) (lo n : Nat) : List Nat :=
  (s.tags.filter fun t => !tagFree t.2 && decide (lo ≤ t.1 * 512) && decide (t.1 * 512 < lo + n)).map (·.1)

/-- Whether a TLB entry is one that an invalidation removes. -/
def TlbEntry.covered (e : TlbEntry) (asid va n : Nat) (also : Bool) : Bool :=
  (if pteBit e.leaf.pte 13 then also else e.asid == asid) && decide (e.leaf.vbase < va + n) && decide (va < e.leaf.vbase + e.leaf.size)

/-- The number under which an invalidation remembers a clause in a slot, beyond those of accesses. -/
def clauseKey (gid : Nat) (pc : BitVec 52) : Nat := (gid + 1) * 2 ^ 52 + pc.toNat

/-- Removes the TLB entries that an invalidation covers, and has the waits on their pages translated anew; answers what was translated
through them, or in the range, and is still to be performed: accesses, and clauses in slots that have not committed theirs. -/
def State.tlbRemove (s : State) (asid va n : Nat) (also : Bool) : List Nat × State :=
  let gone := fun (e : TlbEntry) => e.covered asid va n also
  let pages := ((s.coreTlb.flatMap (·.2) ++ s.clusterTlb.flatMap (·.2)).filter gone).map fun e =>
    (busAddr e.leaf.pte (e.leaf.pa e.side e.leaf.vbase), e.leaf.size)
  let hit := fun (p : BitVec 64) (v pa : Nat) => (decide (va ≤ v) && decide (v < va + n)) ||
    pages.any fun g => decide (g.1 ≤ busAddr p pa) && decide (busAddr p pa < g.1 + g.2)
  let clauses := s.issuing.filter fun i => i.effects.any fun e => match e with
    | .act j _ lanes x y z _ => Instr.accessesMemory j && (Lanes.list lanes).any fun l => hit (z.at l) (x.at l).toNat (y.at l).toNat
    | _ => false
  let ids := (s.accesses.filter fun a => a.space == 0 && !a.isAwait && hit a.pte a.va a.pa).map (·.id)
  (ids ++ clauses.map fun i => clauseKey i.gid i.pc, pages.foldl (fun (s : State) g => s.staleWaits g.1 g.2) (s.tlbDrop gone))

/-- Whether something that an invalidation remembers is still to be performed. -/
def State.translatedLeft (s : State) (ids : List Nat) : Bool :=
  (s.accesses.any fun a => ids.contains a.id || (!a.isAwait && ids.contains (clauseKey a.gid a.pc))) ||
    s.issuing.any fun i => ids.contains (clauseKey i.gid i.pc)

/-- An invalidation as a message carries it: ASID, address, length and whether global entries go too. -/
def tlbInvData (asid va n also : Nat) : List Byte := toBytes 2 asid ++ toBytes 8 va ++ toBytes 8 n ++ toBytes 1 also

/-- The phases of a shoot-down message: the beginning, and the ends after a change of class, a flip, or a move. -/
def shootBegin : Nat := 1
/-- The end of a change of class. -/
def shootClass : Nat := 2
/-- The end of a flip. -/
def shootFlip : Nat := 3
/-- The end of a transition that changes nothing. -/
def shootEnd : Nat := 4

/-- A page goes into transition here: its TLB entries go, the engines surrender its grains, and each of some chips is told (R236, R252,
R300). -/
def State.pageOpen (s : State) (lo size owner : Nat) (chips : List Nat) : State :=
  let s := s.tlbDrop fun e => spans lo size (busAddr e.leaf.pte e.leaf.base) e.leaf.size
  let s := (s.tagged lo size).foldl State.recall s
  let s := chips.foldl (fun s c => s.sendCoh c .shootDown lo shootBegin size []) s
  { s with pageOps := s.pageOps.insert (lo / 4096) { size := size, owner := owner, acks := chips } }

/-- The number under which a chip asks a page's home for a step of its transition. -/
def pageAsk (lo : Nat) : Nat := 2 ^ 60 + lo / 4096

/-- Begins the transition of a page from this chip: here when it is the page's home, and otherwise by asking the home to run it. -/
def State.pageBegin (s : State) (lo size reach : Nat) : State :=
  let home := chipOf lo
  if home == s.chip then s.pageOpen lo size s.chip (s.pageChips reach)
  else
    let s := s.sendCoh home .convert lo 0 (pageAsk lo) (toBytes 1 shootBegin ++ toBytes 8 size)
    { s.pageOpen lo size home [] with pageOps := s.pageOps.insert (lo / 4096) { size := size, owner := home, drained := true } }

/-- What this chip does for its own part once the accesses already translated have been performed: its lines of the page are written back
and dropped, the floor rises past their leases, and the home that runs the transition is told (R236). -/
def State.pageDrain (s : State) : State :=
  s.pageOps.foldl (fun (s : State) p =>
    let lo := p.1 * 4096
    if p.2.drained || s.pageBusy lo p.2.size then s
    else
      let test := fun (_ : Nat) (x : Nat) => decide (lo ≤ x) && decide (x < lo + p.2.size)
      let s := (s.writeBackAll test).dropLines test
      let s := { s with pageOps := s.pageOps.insert p.1 { p.2 with drained := true } }
      if p.2.owner == s.chip then s else s.sendCoh p.2.owner .shotDown lo 0 0 []) s

/-- Whether a page in transition that this chip runs has been shot down everywhere. -/
def State.pageReady (s : State) (lo : Nat) : Bool :=
  (s.pageOps.find? (lo / 4096)).any fun p => p.drained && p.acks.isEmpty && (p.owner == s.chip || p.ready)

/-- A page leaves transition here, and the chips that were told of it are told so. -/
def State.pageClose (s : State) (lo size phase arg : Nat) (chips : List Nat) : State :=
  let s := chips.foldl (fun s c => s.sendCoh c .shootDown lo (phase + 8 * arg) size []) s
  { s with pageOps := s.pageOps.erase (lo / 4096) }.staleWaits lo size

/-- The side of a page as its home records it, or as its home has told this chip. -/
def State.setSide (s : State) (base : Nat) (side : Bool) : State :=
  { s with sides := if side then base :: s.sides.filter (· != base) else s.sides.filter (· != base) }

/-- What the end of a page's transition elsewhere changes here: the class in the tags of the copies held, or the page's side. -/
def State.pageEnded (s : State) (lo size phase arg : Nat) : State :=
  let s := { s with pageOps := s.pageOps.erase (lo / 4096) }.staleWaits lo size
  if phase == shootClass then
    let gs := (s.tagged lo size).filter fun g => chipOf (g * 512) != s.chip
    let s := if arg == 0 then gs.foldl (fun s g => if tagClass (s.tag g) == 1 then s.passFloor g else s) s else s
    gs.foldl (fun s g => s.setTag g (tagSet (s.tag g) 4 3 arg)) s
  else if phase == shootFlip then s.setSide lo (arg == 1)
  else s

/-- One grain's tag under a change of class by a core of a chip (Table 10·6). An IP grain counts as written when its state is 4, which
its owner's stores give it (DESIGN CHOICE: Table 10·2 gives an IP grain states 0 and 4 and no written bit; notes/assumptions/95). -/
def State.convertTag (s : State) (g reach new chip core : Nat) : State :=
  let t := s.tag g
  let t := if tagFree t then tagSet t 6 5 reach else t
  let old := tagClass t
  let st := tagState t
  let base := tagSet t 4 3 new
  let written := bitAt (tagPtr t 0) 0
  if old == new then if tagFree (s.tag g) then s.setTag g base else s
  else
    let t' :=
      if new == 3 then tagSetPtr (tagSetPtr (tagZeroPtrs (tagSetState base 0)) 0 chip) 1 core
      else if new == 2 then
        if st == 0 && (old == 3 || !written) then tagSetState (tagZeroPtrs base) 5
        else tagSet (tagNoPtrs (tagSetState base 7)) 7 7 0
      else if old == 2 then
        let z := tagSetState (tagZeroPtrs base) 0
        if st == 5 then z else tagSet z 12 12 1
      else if old == 3 then
        let z := tagSetState (tagZeroPtrs base) 0
        if st == 4 then tagSet z 12 12 1 else z
      else base
    { s.setTag g t' with wsMask := s.wsMask.erase g }

/-- Whether copies of a grain on other chips must come home or go before its class changes: those of SC and RC grains that become
write-once or private, and the sharers of a write-once grain (Table 10·6). -/
def State.convertWaits (s : State) (g new : Nat) : Bool :=
  let t := s.tag g
  if tagClass t < 2 then 2 ≤ new && tagState t != 0
  else tagClass t == 2 && new != 2 && tagState t == 7 && !((s.sharers t 0).filter (· != s.chip)).isEmpty

/-- Fetches or drops the copies that `convertWaits` names. -/
def State.convertGather (s : State) (g : Nat) : State :=
  let t := s.tag g
  if (s.txns.find? g).isSome then s
  else if tagClass t < 2 then s.homeServe g { chip := s.chip, getM := true, upgrade := false, epoch := s.epoch }
  else
    let t' := tagSet (tagNoPtrs t) 7 7 0
    s.openTxn g ((s.sharers t 0).filter (· != s.chip)) [] true { chip := s.chip, getM := true, next := t', nextDirty := t' }

/-- Converts a page of this home once it has been shot down everywhere (R236 step 3): whether it has, and the state. -/
def State.convertPage (s : State) (lo len reach new chip core : Nat) : Bool × State :=
  let gs := grainsOf [(lo, len)]
  let s := gs.foldl State.recall s
  let left := gs.filter fun g => (s.txns.find? g).isSome || s.convertWaits g new
  if !left.isEmpty then (false, left.foldl State.convertGather s)
  else
    let s := if new == 0 then gs.foldl (fun s g => if tagClass (s.tag g) == 1 then s.passFloor g else s) s else s
    (true, gs.foldl (fun s g => s.convertTag g reach new chip core) s)

/-- Rewrites the class of a leaf, once the grain that holds it is writable here (R236 step 4): whether it has. -/
def State.rewriteClass (s : State) (q pteAddr new : Nat) : Bool × State :=
  let g := grainOf pteAddr
  if !s.mayWrite g then (false, s.request g true)
  else
    let s := (s.recall g).stampWrite q pteAddr |>.2
    let s := s.writeMem pteAddr (toBytes 8 (tagSet (BitVec.ofNat 64 (s.readNat pteAddr 8)) 6 5 new).toNat)
    (true, if tagFree (s.tag g) then s else s.markWritten g)

/-! ### Asking other homes for a range -/

/-- Asks the home of a grain for an operation on behalf of a deferred event, which counts its answer. -/
def State.askHome (s : State) (id : Nat) (x : RangeGrain) (k : CohKind) (data : List Byte) : State :=
  (s.sendCoh (chipOf (x.g * 512)) k (x.g * 512) x.leaf id (toBytes 8 x.va ++ data)).modEvent id fun d =>
    { d with asks := some (d.asks.getD 0 + 1) }

/-- A deferred event has begun to ask. -/
def State.beginAsks (s : State) (id : Nat) : State := s.modEvent id fun d => { d with asks := some (d.asks.getD 0) }

/-- Whether every answer that a deferred event waits for has come. -/
def State.asksDone (s : State) (id : Nat) : Bool := (s.deferred.find? id).any fun d => d.asks == some 0

/-- A fault of a deferred event at an address of its range. -/
def State.rangeFault (s : State) (id : Nat) (c : FaultCode) (va : Nat) : State :=
  s.modEvent id fun d =>
    let d := d.addFault c d.bundle va
    -- the first grain of the range is named, in whatever order the homes answer (R240)
    { d with faults := d.faults.map fun f => if f.code == c then { f with va := min f.va va } else f }

/-! ### What the events of the range forms do -/

/-- A grain's owner changes to a core of a chip (R235 step 3); one of this chip has been granted it (R208). -/
def State.giveGrain (s : State) (g chip core : Nat) : State :=
  let s := s.setTag g (tagSetPtr (tagSetPtr (s.tag g) 0 chip) 1 core)
  if chip == s.chip then { s with granted := g :: s.granted.filter (· != g) } else s

/-- mvrange on its grains (R235, R238): the sender's lines are written back and dropped; grains of this home change owner, and the homes
of others are sent the data, where it is here, and the new owner. A grain that has left the core meanwhile raises MOVE_RIGHTS. -/
def State.moveRange (s : State) (id q own core chip : Nat) (xs : List RangeGrain) : State :=
  let s := s.cacheClean q true (xs.map fun x => (x.g * 512, 512))
  xs.foldl (fun s x =>
    if !tagFree (s.tag x.g) && !leafAgrees (s.tag x.g) x.leaf then s.rangeFault id .classAlias x.va
    else if s.mayRead x.g && !s.ownedByCore x.g own then s.rangeFault id .moveRights x.va
    else if chipOf (x.g * 512) == s.chip then s.giveGrain x.g chip core
    else
      let s := if s.mayRead x.g then s.sendData (chipOf (x.g * 512)) x.g (s.tag x.g) else s
      (s.askHome id x .move (toBytes 2 core ++ toBytes 2 chip)).unhold x.g) s

/-- Closes a write-once grain for a cluster of a chip: FULL unless another cluster claims it (R240). Answers whether it may. -/
def State.closeGrain (s : State) (g chip q : Nat) : Bool × State :=
  let t := s.tag g
  if tagState t == 7 then (true, s)
  else if tagState t == 6 && (tagPtr t 0 != chip || tagPtr t 1 % 512 != q) then (false, s)
  else (true, (if tagState t == 6 then s else s.zeroGrain g).wsFull g)

/-- wsclose on its grains (R240). -/
def State.closeRange (s : State) (id q : Nat) (xs : List RangeGrain) : State :=
  xs.foldl (fun s x =>
    if chipOf (x.g * 512) != s.chip then s.askHome id x .close []
    else
      let s := s.adoptAs x.g x.leaf s.chip
      if !leafAgrees (s.tag x.g) x.leaf then s.rangeFault id .classAlias x.va
      else
        match s.closeGrain x.g s.chip q with
        | (true, s) => s
        | (false, s) => s.rangeFault id .wsForeign x.va) s

/-- wsreset: one grain becomes EMPTY, its mask goes, its copies are dropped and its sharers told (R241). -/
def State.resetGrain (s : State) (g : Nat) : State :=
  let s := s.dropLines fun _ pa => grainOf pa == g
  let s := { s with wsMask := s.wsMask.erase g }
  let t := s.tag g
  let empty := tagSetState (tagZeroPtrs t) 5
  let sharers := if tagState t == 7 then (s.sharers t 0).filter (· != s.chip) else []
  s.openTxn g sharers [] true { chip := s.chip, getM := true, next := empty, nextDirty := empty }

/-- wsreset on its grains, one after another: `begun` says that the first one's invalidations are out. Answers what is left (R241). -/
def State.resetRange (s : State) (id : Nat) (begun : Bool) : List RangeGrain → List Nat × State
  | [] => ([], s)
  | x :: xs =>
    if chipOf (x.g * 512) != s.chip then (s.askHome id x .reset []).resetRange id false xs
    else if s.grainBusy x.g then ((if begun then 1 else 0) :: flatGrains (x :: xs), s)
    else if begun then s.resetRange id false xs
    else
      let s := s.adoptAs x.g x.leaf s.chip
      if !leafAgrees (s.tag x.g) x.leaf then (s.rangeFault id .classAlias x.va).resetRange id false xs
      else
        let s := s.resetGrain x.g
        if s.grainBusy x.g then (1 :: flatGrains (x :: xs), s) else s.resetRange id false xs

/-- Quadruples from a flat list. -/
def quadsOf : List Nat → List (Nat × Nat × Nat × Nat)
  | a :: b :: c :: d :: r => (a, b, c, d) :: quadsOf r
  | _ => []

/-- The leaf as it stands at an address. -/
def State.pteAt (s : State) (ea : Nat) : BitVec 64 := BitVec.ofNat 64 (s.readNat ea 8)

/-- Where the page of a pgclass stands: not begun, shot down, or asked of its home to convert. -/
abbrev ConvertPhase := Nat

/-- The pages of a pgclass, in ascending order (R236, R243): what is left with the phase of its first page, and the state. A page of this
home is run here; that of another is run by its home, which this chip asks to begin and, once the leaf is rewritten, to end. -/
def State.convertPages (s : State) (id q core new : Nat) (phase : ConvertPhase) :
    List (Nat × Nat × Nat × Nat) → Nat → List Nat × State
  | [], _ => ([], s)
  | _, 0 => ([], s)
  | (va, pa, len, ea) :: ps, fuel + 1 =>
    let flat := fun (k : Nat) => k :: ((va, pa, len, ea) :: ps).flatMap fun p => [p.1, p.2.1, p.2.2.1, p.2.2.2]
    let home := chipOf pa
    let pte := s.pteAt ea
    if !s.mayRead (grainOf ea) then (flat phase, s.request (grainOf ea) false)
    else if phase == 0 then
      if pteClass pte == new then s.convertPages id q core new 0 ps fuel
      else if (s.pageOps.find? (pa / 4096)).isSome then (flat 0, s)
      else (s.pageBegin pa len (pteReach pte)).convertPages id q core new 1 ((va, pa, len, ea) :: ps) fuel
    else if phase == 1 then
      let s := s.pageDrain
      if (s.pageOps.find? (pa / 4096)).isNone then (s.rangeFault id .fabLoss va).convertPages id q core new 0 ps fuel
      else if !s.pageReady pa then (flat 1, s)
      else if home == s.chip then
        if !s.mayWrite (grainOf ea) then (flat 1, s.request (grainOf ea) true)
        else
          match s.convertPage pa len (pteReach pte) new s.chip core with
          | (false, s) => (flat 1, s)
          | (true, s) =>
            let s := (s.rewriteClass q ea new).2
            (s.pageClose pa len shootClass new (s.pageChips (pteReach pte))).convertPages id q core new 0 ps fuel
      else
        match s.rewriteClass q ea new with
        | (false, s) => (flat 1, s)
        | (true, s) =>
          let mine := (s.tagged pa len).filter fun g => s.ownedByCore g core
          let s := if pteClass pte == 3 then mine.foldl (fun s g => (s.sendData home g (s.tag g)).unhold g) s else s
          (flat 2, s.sendCoh home .convert pa (leafWord pte core) (pageAsk pa)
            (toBytes 1 shootClass ++ toBytes 8 len ++ toBytes 1 new))
    else if (s.pageOps.find? (pa / 4096)).isSome then (flat 2, s)
    else s.convertPages id q core new 0 ps fuel

/-- Asks for the copying of a page of this home to a new replica (R244); its unassigned grains take the leaf's class and reach, which the
replica's loads are held to (R223). -/
def State.replicAdd (s : State) (page size chip leaf : Nat) (event : Option Nat) (asker arg : Nat) : State :=
  let s := (grainsOf [(page, size)]).foldl (fun s g => s.adoptAs g leaf asker) s
  { s with replicaCopies := s.replicaCopies ++
      [{ page := page, size := size, chip := chip, event := event, asker := asker, arg := arg, left := grainsOf [(page, size)] }] }

/-- Whether a store to a grain of a page's replicas is in progress, or the page is being copied. -/
def State.replicaBusy (s : State) (page size : Nat) : Bool :=
  (s.replicaStores.any fun p => decide (page ≤ p.1 * 512) && decide (p.1 * 512 < page + size)) || s.replicaCopies.any fun c => c.page == page

/-- A page's replica list loses a chip (R244). -/
def State.replicRem (s : State) (page chip : Nat) : State :=
  { s with replicas := s.replicas.filterMap fun p =>
      if p.1 * 4096 == page then
        let l := p.2.2.filter (· != chip)
        if l.isEmpty then none else some (p.1, p.2.1, l)
      else some p }

/-- A page's replica list gains a chip (R244). -/
def State.replicList (s : State) (page size chip : Nat) : State :=
  { s with replicas := s.replicas.insert (page / 4096) (size, (s.replicasOf page).filter (· != chip) ++ [chip]) }

/-- The landing of the coherence instructions and of cinv and cwb: what their events do at each attempt, and whether they land now
(R189, R238 to R244). -/
def State.rangeLands (s : State) (id : Nat) (d : Deferred) (i : Instr) (n : List Nat) : State × Bool :=
  let q := (s.group d.gid).cluster
  let wait := fun (s : State) (n : List Nat) => s.modEvent id fun d => { d with wait := .condition i n }
  let fresh := d.asks.isNone
  match i with
  | .cinv .. => if s.storesPending d.gid d.bundle then (s, false) else (s.cacheClean q true (pairsOf n), true)
  | .cwb .. => if s.storesPending d.gid d.bundle then (s, false) else (s.cacheClean q false (pairsOf n), true)
  | .mvrange .. =>
    let core := n.headD 0
    let chip := n.getD 1 0
    if !fresh then (s, s.asksDone id)
    else if s.accesses.any fun a => (a.gid == d.gid && d.bundle.has a.lane && a.id < id) ||
        (a.core == (s.group d.gid).core && a.space == 0 && !pteHost a.pte && (grainsFrom (n.drop 2)).any fun x => x.g == grainOf a.pa) then (s, false)
    else if core == (s.group d.gid).core && chip == s.chip then (s, true)
    else
      let s := (s.beginAsks id).moveRange id q (s.group d.gid).core core chip (grainsFrom (n.drop 2))
      (s, s.asksDone id)
  | .mvwait .. =>
    let xs := grainsFrom (n.drop 1)
    if xs.all fun x => s.mayRead x.g && s.ownedByCore x.g (n.headD 0) then (s.acquireAll q 3, true)
    else if !fresh then (s, false)
    else
      (xs.foldl (fun s x =>
        if chipOf (x.g * 512) == s.chip || s.ownedByCore x.g (n.headD 0) then s
        else s.sendCoh (chipOf (x.g * 512)) .awaitOwner (x.g * 512) x.leaf id []) (s.beginAsks id), false)
  | .wsclose .. =>
    if !fresh then (s, s.asksDone id)
    else if s.storesPending d.gid d.bundle then (s, false)
    else
      let s := (s.beginAsks id).closeRange id q (grainsFrom (n.drop 1))
      (s, s.asksDone id)
  | .wsreset .. =>
    match (s.beginAsks id).resetRange id (n.headD 0 == 1) (grainsFrom (n.drop 1)) with
    | ([], s) => (wait s [], s.asksDone id)
    | (n, s) => (wait s n, false)
  | .pgclass f _ =>
    if s.accesses.any fun a => a.gid == d.gid && d.bundle.has a.lane && a.id < id && !a.isAwait then (s, false)
    else
      match s.convertPages id q (n.headD 0) f.sub.toNat (n.getD 2 0) (quadsOf (n.drop 3)) (4 * n.length) with
      | ([], s) => (s, true)
      | (r, s) => (wait s (n.take 2 ++ r), false)
  | .replicAdd .. =>
    let x : RangeGrain := { g := n.headD 0 / 512, va := n.getD 4 0, leaf := n.getD 3 0 }
    if !fresh then (s, s.asksDone id)
    else if chipOf (n.headD 0) != s.chip then ((s.beginAsks id).askHome id x .replicAdd (toBytes 2 (n.getD 2 0) ++ toBytes 8 (n.getD 1 0)), false)
    else ((s.modEvent id fun d => { d with asks := some 1 }).replicAdd (n.headD 0) (n.getD 1 0) (n.getD 2 0) (n.getD 3 0) (some id) s.chip id, false)
  | .replicRem .. =>
    let page := n.headD 0
    let x : RangeGrain := { g := page / 512, va := n.getD 4 0, leaf := n.getD 3 0 }
    if !fresh then (s, s.asksDone id)
    else if chipOf page != s.chip then ((s.beginAsks id).askHome id x .replicRem (toBytes 2 (n.getD 2 0)), false)
    else if s.replicaBusy page (n.getD 1 0) then (s, false)
    else
      let s := (s.modEvent id fun d => { d with asks := some 1 }).replicRem page (n.getD 2 0)
      (s.sendCoh (n.getD 2 0) .dropped page 0 id [], false)
  | _ => (s, true)

/-- The commit of a range form: it acts at once when it can, and otherwise when its condition holds. -/
def commitRange (i : Instr) (iss : Issue) (idx : Nat) (n : List Nat) (s : State) : State :=
  (s.addEvent { iss.event idx iss.lanes with wait := .condition i n }).2

/-- The commit of mvwait: its wait begins now, and WS_WAIT as it stands governs it (R228, R239). -/
def commitMvwait (i : Instr) (iss : Issue) (idx : Nat) (n : List Nat) (s : State) : State :=
  (s.addEvent { iss.event idx iss.lanes with wait := .condition i n, limit := s.wsWait }).2

/-- The commit of pgclass, a release at the scope of the pages' reach: later writes of the threads carry what their loads have read. -/
def commitPgclass (i : Instr) (iss : Issue) (idx : Nat) (n : List Nat) (s : State) : State :=
  commitRange i iss idx n (s.acquireLanes iss.gid iss.lanes 3)

/-- The commit of replic.add. -/
def commitReplicAdd (i : Instr) (iss : Issue) (idx : Nat) (n : List Nat) (s : State) : State := commitRange i iss idx n s

/-- The commit of replic.rem. -/
def commitReplicRem (i : Instr) (iss : Issue) (idx : Nat) (n : List Nat) (s : State) : State := commitRange i iss idx n s

/-! ### What this home does for other chips (notes/assumptions/89) -/

/-- The fault codes that a home's answer may carry. -/
def answerCode (n : Nat) : Option FaultCode :=
  [FaultCode.classAlias, .classOp, .reach, .moveRights, .wsForeign, .wsRewrite, .poison, .fabLoss, .fabNoroute].find? fun c => c.num == n

/-- Answers an operation: a code (0 none) and bytes. -/
def State.answerOp (s : State) (o : RemoteOp) (code : Option FaultCode) (data : List Byte) : State :=
  s.sendCoh o.chip .answer o.pa ((code.map FaultCode.num).getD 0) o.arg data

/-- The access that a home performs for another chip. -/
def RemoteOp.access (o : RemoteOp) (size : Nat) (op : AccessOp) : Access :=
  { id := 2 ^ 62, gid := 2 ^ 42, lane := 0, core := leafCore o.leaf, pc := 0, idx := 0, va := 0, pa := o.pa, size := size, op := op,
    since := o.since }

/-- The operands of an atomic that another chip asks for: sub-op, type, size and operand words. -/
def RemoteOp.atomic (o : RemoteOp) : Nat × Nat × Nat × List Nat :=
  (ofBytes (o.data.take 1), ofBytes ((o.data.drop 1).take 1), ofBytes ((o.data.drop 2).take 2),
    [ofBytes ((o.data.drop 4).take 16), ofBytes ((o.data.drop 20).take 16)])

/-- The bytes of a grain at its home written for another chip, under the stamp of what comes from outside. -/
def State.homePut (s : State) (pa : Nat) (bs : List Byte) : State := ((s.stampForeign pa).writeMem pa bs).markWritten (grainOf pa)

/-- Before an operation on a grain of this home for another chip: the grain is free, its tag agrees, and when it writes no chip and no
host holds a copy. Answers what to do: go on, refuse, or wait. -/
def State.remoteApproach (s : State) (o : RemoteOp) (write : Bool) (k : State → Bool × State) : Bool × State :=
  let g := grainOf o.pa
  if s.grainBusy g || s.stalledFor o.chip o.pa then (false, s)
  else
    let s := (s.recall g).adoptAs g o.leaf o.chip
    if !leafAgrees (s.tag g) o.leaf then (true, s.answerOp o (some .classAlias) [])
    else if write && tagClass (s.tag g) < 2 && !s.mayWrite g then (false, s.request g true)
    else if write && s.hostMayHold g then (false, s.backInvalidate g)
    else k s

/-- Why a write of a whole write-once grain by an engine for a cluster of a chip is refused: it is legal only on an EMPTY grain (R234). -/
def wholeWsRefused (t : BitVec 64) (chip q : Nat) : Option FaultCode :=
  if tagState t == 7 then some .wsRewrite
  else if tagState t == 6 then some (if tagPtr t 0 != chip || tagPtr t 1 % 512 != q then .wsForeign else .wsRewrite)
  else none

/-- A store of another chip (R233, R234); one of 512 bytes is an engine's of a whole write-once grain. -/
def State.remoteStore (s : State) (o : RemoteOp) : Bool × State :=
  s.remoteApproach o true fun s =>
    let refused := if o.data.length == 512 then wholeWsRefused (s.tag (grainOf o.pa)) o.chip (leafCore o.leaf / 4) else none
    if tagClass (s.tag (grainOf o.pa)) == 2 && refused.isSome then (true, s.answerOp o refused [])
    else if tagClass (s.tag (grainOf o.pa)) == 2 then
      match s.storeWs o.chip (leafCore o.leaf / 4) o.pa o.data with
      | .done s _ _ => (true, s.answerOp o none [])
      | .refused s c => (true, s.answerOp o (some c) [])
      | .wait s => (false, s)
    else if !(s.replicaList o.pa).isEmpty then
      (true, s.replicaStart (o.access o.data.length (.store o.data)) o.data (some o))
    else (true, (s.homePut o.pa o.data).answerOp o none [])

/-- An atomic of another chip, at this home slice (R250, R255). -/
def State.remoteAtomic (s : State) (o : RemoteOp) : Bool × State :=
  let (sub, ty, size, x) := o.atomic
  s.remoteApproach o true fun s =>
    if tagPoison (s.tag (grainOf o.pa)) then (true, s.answerOp o (some .poison) [])
    else
      let old := s.readMem o.pa size
      let bs := toBytes size (atomResult sub ty (ofBytes old) x).1
      if !(s.replicaList o.pa).isEmpty then (true, s.replicaStart (o.access size (.atomic sub ty true x)) bs (some o))
      else (true, ((s.hostUsed (grainOf o.pa)).homePut o.pa bs).answerOp o none old)

/-- The part of a page's transition that another chip asks for: its beginning is answered once every chip's shoot-down is done; its end
converts the page, flips it, or changes nothing. -/
def State.remoteConvert (s : State) (o : RemoteOp) : Bool × RemoteOp × State :=
  let phase := ofBytes (o.data.take 1)
  let len := ofBytes ((o.data.drop 1).take 8)
  let arg := ofBytes ((o.data.drop 9).take 1)
  let others := (List.range s.podSize).filter (· != s.chip)
  if phase == shootBegin then
    if (s.pageOps.find? (o.pa / 4096)).isSome then (false, o, s)
    else (false, { o with data := toBytes 1 9 ++ o.data.drop 1 }, s.pageOpen o.pa len s.chip others)
  else if phase == 9 then
    let s := s.pageDrain
    if s.pageReady o.pa then (true, o, s.answerOp o none []) else (false, o, s)
  else if phase == shootClass then
    match s.convertPage o.pa len (leafReach o.leaf) arg o.chip (leafCore o.leaf) with
    | (false, s) => (false, o, s)
    | (true, s) => (true, o, s.pageClose o.pa len shootClass arg others)
  else if phase == shootFlip then (true, o, (s.setSide o.pa (arg == 1)).pageClose o.pa len shootFlip arg others)
  else (true, o, s.pageClose o.pa len shootEnd 0 others)

/-- Clears the poison of a grain at its home: 512 zero bytes as one write of the grain, once every other copy has been recalled, which reaches
its replicas too; a write-once grain keeps its state, its claim and its mask (R197, R233, R424). Answers whether it is done. -/
def State.clearGrain (s : State) (g : Nat) : Bool × State :=
  match s.takeBack g true with
  | (false, s) => (false, s)
  | (true, s) =>
    if s.hostMayHold g then (false, s.backInvalidate g)
    else
      let zeros : List Byte := List.replicate 512 0
      let s := ((s.tookBack [g]).dropLines fun _ x => grainOf x == g).modTag g fun t => tagSet t 10 10 0
      if tagClass (s.tag g) == 0 && !(s.replicaList (g * 512)).isEmpty then
        let a : Access := { id := 2 ^ 62, gid := 2 ^ 42, lane := 0, core := 0, pc := 0, idx := 0, va := 0, pa := g * 512, size := 512, op := .store zeros }
        (true, s.replicaStart a zeros none)
      else
        let s := (s.stampGrain g).writeMem (g * 512) zeros
        (true, if tagFree (s.tag g) then s else s.markWritten g)

/-- The clears that POISON_CLEAR asks of this home, as far as they can be made (R424). -/
def State.clearStep (s : State) : State :=
  s.clearing.foldl (fun (s : State) pa =>
    if chipOf pa != s.chip then s
    else
      match s.clearGrain (grainOf pa) with
      | (true, s) => { s with clearing := s.clearing.erase pa }
      | (false, s) => s) s

/-- A write of a grain's address to POISON_CLEAR: the clear is made here, or its home asked for it (R424, Table 19·3). DESIGN CHOICE
(notes/assumptions/103): a write whose RZ bits [63:52] are not zero is ignored whole, as any other value than a grain's address, where R6 would
drop those bits alone. -/
def State.clearPoison (s : State) (pa : Nat) : State :=
  if pa % 512 != 0 || 2 ^ 52 ≤ pa || s.clearing.contains pa then s
  else
    let s := { s with clearing := s.clearing ++ [pa] }
    if chipOf pa == s.chip then s.clearStep.settle else s.sendCoh (chipOf pa) .clear pa 0 (2 ^ 57) []

/-- A chip's answer to a Forward for a grain that it holds, or does not: data to the chip named, and whether its copy was dirty to the home
(R225, R230). -/
def State.forwardGrain (s : State) (chip pa : Nat) (excl : Bool) : State :=
  let g := grainOf pa
  let s := (s.recall g).clean g
  match s.held.find? g with
  | none => s.sendMsg (chipOf pa) .ackClean g
  | some st =>
    let dirty := st == .m || st == .o
    let s := s.sendData chip g (s.tag g)
    let s := s.sendMsg (chipOf pa) (if dirty then .ackDirty else .ackClean) g
    if excl then s.surrender g
    else { s with held := s.held.insert g (if dirty then .o else .s) }

/-- Whether a grain's data is still on its way here: a Forward for it waits (R225). -/
def State.onItsWay (s : State) (g : Nat) : Bool := (s.held.find? g).isNone && (s.requested.find? g).isSome

/-- The number under which a home awaits the dropping of a replica for another chip's replic.rem. -/
def dropAsk (page : Nat) : Nat := 2 ^ 59 + page / 4096

/-- One attempt at an operation of another chip: whether it is over, what is left of it, and the state. An atomic waits for its slice's own
step, and a message of an epoch that this chip has not recorded for the record (R352). -/
def State.remotePerform (s : State) (o : RemoteOp) : Bool × RemoteOp × State :=
  let g := grainOf o.pa
  let keep := fun (p : Bool × State) => (p.1, o, p.2)
  let va := o.data.take 8
  if s.epoch < o.epoch then (false, o, s)
  else
    match o.kind with
    | .store => keep (s.remoteStore o)
    | .move =>
      let t := s.tag g
      keep (if (s.txns.find? g).isSome || s.stalledFor o.chip o.pa then (false, s)
        else if !leafAgrees t o.leaf then (true, s.answerOp o (some .classAlias) va)
        else if tagPtr t 0 != o.chip then (true, s.answerOp o (some .moveRights) va)
        else
          (true, (s.giveGrain g (ofBytes ((o.data.drop 10).take 2)) (ofBytes ((o.data.drop 8).take 2))).answerOp o none va))
    | .awaitOwner =>
      let t := s.tag g
      keep (if tagClass t == 3 && tagPtr t 0 == o.chip && tagPtr t 1 == leafCore o.leaf then (true, s.sendData o.chip g t) else (false, s))
    | .close =>
      keep (s.remoteApproach o false fun s =>
        match s.closeGrain g o.chip (leafCore o.leaf / 4) with
        | (true, s) => (true, s.answerOp o none va)
        | (false, s) => (true, s.answerOp o (some .wsForeign) va))
    | .reset =>
      if s.grainBusy g then (false, o, s)
      else if o.data.length == 9 then (true, o, s.answerOp o none va)
      else if s.stalledFor o.chip o.pa then (false, o, s)
      else
        let s := (s.recall g).adoptAs g o.leaf o.chip
        if !leafAgrees (s.tag g) o.leaf then (true, o, s.answerOp o (some .classAlias) va)
        else (false, { o with data := va ++ [0] }, s.resetGrain g)
    | .convert => s.remoteConvert o
    | .readTag =>
      keep (s.remoteApproach o false fun s => (true, s.answerOp o none (toBytes 8 (tagWord (s.tag g)))))
    | .replicAdd =>
      let chip := ofBytes ((o.data.drop 8).take 2)
      if s.replicRefused true o.pa chip then (true, o, s.answerOp o (some .classOp) va)
      else (true, o, s.replicAdd o.pa (ofBytes ((o.data.drop 10).take 8)) chip o.leaf none o.chip o.arg)
    | .replicAsk =>
      let refused := s.replicRefused (o.data.headD 0 == 1) o.pa (ofBytes ((o.data.drop 1).take 2))
      (true, o, s.answerOp o (if refused then some .classOp else none) [])
    | .replicRem =>
      let chip := ofBytes ((o.data.drop 8).take 2)
      let size := ((s.replicas.find? (o.pa / 4096)).map (·.1)).getD 4096
      if o.data.length == 11 then (false, o, s)
      else if !(s.replicasOf o.pa).contains chip then (true, o, s.answerOp o (some .classOp) va)
      else if s.replicaBusy o.pa size then (false, o, s)
      else (false, { o with data := o.data ++ [0] }, (s.replicRem o.pa chip).sendCoh chip .dropped o.pa 0 (dropAsk o.pa) [])
    | .forwardS | .forwardM =>
      if s.onItsWay g then (false, o, s) else (true, o, s.forwardGrain o.chip o.pa (o.kind == .forwardM))
    | .fence => (true, o, (s.dropStale true).answerOp o none [])
    | .upgrade =>
      (true, o, s.homeRequest g { chip := o.chip, getM := true, upgrade := true, epoch := o.epoch, leaf := o.leaf, order := o.order })
    | .putM | .putO =>
      (true, o, s.homeRequest g { chip := o.chip, getM := false, upgrade := false, epoch := o.epoch, put := some [] })
    | .poison =>
      -- that of a storage error or of an engine's write of the whole grain says which way the bit goes, and awaits nothing
      if !o.data.isEmpty then (true, o, s.modTag g fun t => tagSet t 10 10 (ofBytes (o.data.take 1)))
      else
        let s := (s.adoptAs g o.leaf o.chip).modTag g fun t => tagSet t 10 10 1
        (true, o, s.answerOp o none (toBytes 8 0))
    | .clear =>
      let (ok, s) := s.clearGrain g
      (ok, o, if ok then s.answerOp o none [] else s)
    | .tlbInv =>
      if o.data.length == 19 then
        let num := fun (i n : Nat) => ofBytes ((o.data.drop i).take n)
        let (ids, s) := s.tlbRemove (num 0 2) (num 2 8) (num 10 8) (num 18 1 == 1)
        (false, { o with data := 0 :: o.data ++ ids.flatMap (toBytes 16) }, s)
      else
        let ids := (List.range (o.data.length / 16 - 1)).map fun i => ofBytes ((o.data.drop (20 + 16 * i)).take 16)
        if s.translatedLeft ids then (false, o, s) else (true, o, s.answerOp o none (toBytes 8 0))
    | .snapRead =>
      let s := (s.recall g).clean g
      if s.onItsWay g then (false, o, s)
      else (true, o, if (s.held.find? g).isSome then s.sendData o.chip g (s.tag g) else s.sendMsg o.chip .ackClean g)
    | .answer | .grant => (false, o, s)
    | _ => (true, o, s)

/-- Tries the operations of other chips in arrival order; one that waits holds back the later ones on its grain, but for a wait for an
owner, a Forward, a fence, a TLB invalidation and an answer, which hold back none, and none overtakes a request for its grain (R225). -/
def State.remoteStep (s : State) : State :=
  if s.remoteOps.isEmpty then s
  else
    let r := s.remoteOps.foldl (fun (p : List RemoteOp × State) o =>
      let s := p.2
      let apart := fun (k : CohKind) => [CohKind.awaitOwner, .forwardS, .forwardM, .fence, .tlbInv, .answer, .grant].contains k
      if o.kind == .atomic || s.requestBefore o || (!apart o.kind && p.1.any fun b => grainOf b.pa == grainOf o.pa && !apart b.kind) then
        (p.1 ++ [o], s)
      else
        match s.remotePerform o with
        | (true, _, s) => (p.1, s)
        | (false, o, s) => (p.1 ++ [o], s)) ([], { s with remoteOps := [] })
    { r.2 with remoteOps := r.1 ++ r.2.remoteOps }

/-- A deferred event's answer: one fewer to wait for, with its fault. -/
def State.eventAnswered (s : State) (id : Nat) (code : Option FaultCode) (va : Nat) : State :=
  let s := s.modEvent id fun d => { d with asks := d.asks.map (· - 1) }
  match code with
  | some c => s.rangeFault id c va
  | none => s

/-- The copying of pages to new replicas: the next grain of each goes out under the lock, and a page whose grains have all gone is listed
(R244). -/
def State.replicaStep (s : State) : State :=
  s.replicaCopies.foldl (fun (s : State) c =>
    match c.left with
    | [] =>
      let s := { s with replicaCopies := s.replicaCopies.filter (· != c) }
      let s := (s.replicList c.page c.size c.chip).sendCoh c.chip .listed c.page 0 c.size []
      (match c.event with
        | some e => s.eventAnswered e none 0
        | none => s.sendCoh c.asker .answer c.page 0 c.arg (toBytes 8 0))
    | g :: left =>
      if s.grainBusy g then s
      else if !s.mayRead g then s.request g false
      else
        let s := s.replicaWrite c.chip g (s.readMem (g * 512) 512)
        let a : Access := { id := 2 ^ 62, gid := 2 ^ 42, lane := 0, core := 0, pc := 0, idx := 0, va := 0, pa := g * 512, size := 512, op := .tag }
        { s with
          replicaStores := s.replicaStores.insert g { access := a, targets := [c.chip], acks := [c.chip] }
          replicaCopies := s.replicaCopies.map fun d => if d == c then { d with left := left } else d }) s

/-- What waits on grains, pages and homes is looked at again. -/
def State.pump (s : State) : State := s.pageDrain.clearStep.remoteStep.replicaStep.homeRetry.settle

/-! ### Steps of the leases (R229, R231) -/

/-- Every cluster's clock advances (R229). -/
def State.advanceLts (s : State) (n : Nat) : State := { s with lts := s.lts.map fun p => (p.1, p.2 + n), ltsBase := s.ltsBase + n }

/-- n MCLK pass: every cluster's clock advances at each LTS_PERIOD that ends in them (R229). -/
def State.passTime (s : State) (n : Nat) : State :=
  { s.advanceLts ((s.clock + n) / s.ltsPeriod - s.clock / s.ltsPeriod) with clock := s.clock + n }

/-- The MCLK until the module's largest clock reaches REBASE_AT by advancing alone (R231). -/
def State.untilRebase (s : State) : Nat :=
  if s.rebaseDue then 0 else (s.clock / s.ltsPeriod + (s.rebaseAt - s.maxLts)) * s.ltsPeriod - s.clock

/-- LTS_SELF_ADVANCE: every cluster's clock advances by one (R229). -/
def execLtsSelfAdvance (s : State) : Result := .next (s.advanceLts 1)

/-- MODULE_REBASE: when a clock has reached REBASE_AT the module drops its RC lines, flips its era and starts its clocks again;
the engines surrender first, and the lease registers written since take effect (R228, R231, R252). -/
def execModuleRebase (s : State) : Result :=
  if !s.rebaseDue then .next s
  else
    let s := s.engineGrains.foldl (fun (s : State) (p : Nat × EngineGrain) => s.engineSurrender (p.1 / 2 ^ 43) (p.1 % 2 ^ 43)) s
    let s := { s with lines := s.lines.filter fun l => l.2.free, era := !s.era, lts := [], ltsBase := 1, floor := 0,
                      effectiveCfg := [0x40, 0x41, 0x42].foldl (fun m r => match s.cfg.find? r with
                        | some v => m.insert r v
                        | none => m) s.effectiveCfg,
                      groups := s.groups.map fun (p : Nat × Group) => (p.1, { p.2 with threads := p.2.threads.map fun (t : Thread) => { t with seen := 0 } }) }
    .next s.settle

/-! ### Steps of the pod protocol (R225, R226, R230, R352) -/

/-- A coherence message of an epoch newer than the chip's is held until the record; otherwise it is handled (R352). -/
def State.atEpoch (s : State) (epoch : Nat) (i : Instr) (k : State → State) : Result :=
  if s.epoch < epoch then .next (s.holdMessage epoch i) else .next (k s).pump

/-- The address operand of GETS and GETM: a physical address, and above its 64 bits the leaf word of the access behind the request
(DESIGN CHOICE, notes/assumptions/61). -/
def atLeaf (pa leaf : Nat) : Nat := pa % 2 ^ 64 + leaf * 2 ^ 64

/-- GETS (R226). -/
def execGets (chip epoch pa : Nat) (s : State) : Result :=
  s.atEpoch epoch (.gets chip epoch pa) fun s =>
    s.homeRequest (grainOf (pa % 2 ^ 64)) { chip := chip, getM := false, upgrade := false, epoch := epoch, leaf := pa / 2 ^ 64 }

/-- GETM (R226). -/
def execGetm (chip epoch pa : Nat) (s : State) : Result :=
  s.atEpoch epoch (.getm chip epoch pa) fun s =>
    s.homeRequest (grainOf (pa % 2 ^ 64)) { chip := chip, getM := true, upgrade := false, epoch := epoch, leaf := pa / 2 ^ 64 }

/-- UPGRADE (R226): the chip holds the grain, so its leaf agrees with the tag. -/
def execUpgrade (chip pa : Nat) (s : State) : Result :=
  let t := s.tag (grainOf pa)
  .next (s.homeRequest (grainOf pa)
    { chip := chip, getM := true, upgrade := true, epoch := s.epoch, leaf := tagClass t + 4 * tagReach t }).pump

/-- PUTM (R226); no data offers back a clean grain. -/
def execPutm (chip pa : Nat) (data : List (BitVec 8)) (s : State) : Result :=
  .next (s.homeRequest (grainOf pa)
    { chip := chip, getM := false, upgrade := false, epoch := s.epoch, leaf := tagEpoch (s.tag (grainOf pa)), put := some data }).pump

/-- PUTO (R226). -/
def execPuto (chip pa : Nat) (data : List (BitVec 8)) (s : State) : Result :=
  .next (s.homeRequest (grainOf pa)
    { chip := chip, getM := false, upgrade := false, epoch := s.epoch, leaf := tagEpoch (s.tag (grainOf pa)), put := some data }).pump

/-- FORWARD: the owner answers the home's Forward, once the data that made it the owner has come (R225, R230). -/
def execForward (chip epoch pa : Nat) (excl : Bool) (s : State) : Result :=
  s.atEpoch epoch (.forward chip epoch pa excl) fun s =>
    if s.onItsWay (grainOf pa) then
      { s with remoteOps := s.remoteOps ++ [{ chip := chip, cluster := 0, kind := if excl then .forwardM else .forwardS, pa := pa, leaf := 0,
                                              epoch := epoch, arg := 0, data := [], since := s.clock }] }
    else s.forwardGrain chip pa excl

/-- INVALIDATE: a sharer drops its copy and acknowledges; parked waits on the grain are tested again (R225, R230, R263). A shared copy that
is still on its way is not used when it comes. -/
def execInvalidate (pa : Nat) (s : State) : Result :=
  let g := grainOf pa
  let s := if (s.held.find? g).isSome then s.surrender g
    else if s.onItsWay g then { s with overtaken := g :: s.overtaken.filter (· != g) } else s
  let s := s.sendMsg (chipOf pa) .ack g
  let waits := s.accesses.filter fun a => a.isAwait && grainOf a.pa == g
  .next (waits.foldl (fun s a => s.tryAccess a.id) s).pump

/-- The end of a store or an atomic on a replicated grain, or of one grain's copying: its access is over, or the chip that asked is
answered (R233). -/
def State.replicaEnd (s : State) (g : Nat) (r : ReplicaStore) : State :=
  let s := { s with replicaStores := s.replicaStores.erase g }
  match r.remote, r.access.op with
  | some o, _ => s.answerOp o none r.old
  | none, .tag => s
  | none, _ => s.completeAccess r.access r.old r.stamp

/-- The write at the home that ends step 1 of R233, which places the store in the order of R206: the new bytes, the stamp and the flags
of an atomic. -/
def State.replicaHome (s : State) (g : Nat) (r : ReplicaStore) : State × ReplicaStore :=
  let a := r.access
  let new := (r.data.drop (a.pa % 512)).take a.size
  match a.op with
  | .tag => (s, r)
  | .atomic sub ty _ x =>
    let old := s.readMem a.pa a.size
    let s := if r.remote.isNone then s.countAtomic (atomResult sub ty (ofBytes old) x).2 else s
    let (w, s) := if r.remote.isNone then s.stampFor a else (0, s.stampForeign a.pa)
    ((s.writeMem a.pa new).markWritten g, { r with old := old, stamp := w })
  | _ =>
    let (w, s) := if r.remote.isNone then s.stampFor a else (0, s.stampForeign a.pa)
    ((s.writeMem a.pa new).markWritten g, { r with stamp := w })

/-- An answer to a replica store: when all have come, step 1 ends with the write at the home and the unlocks go out, or the store ends
(R233). -/
def State.replicaAcked (s : State) (g chip : Nat) : State :=
  match s.replicaStores.find? g with
  | none => s
  | some r =>
    let acks := r.acks.erase chip
    if !acks.isEmpty then { s with replicaStores := s.replicaStores.insert g { r with acks := acks } }
    else if r.unlocking then s.replicaEnd g r
    else
      let (s, r) := s.replicaHome g r
      let cs := r.targets
      let s := cs.foldl (fun s c => s.sendMsg c .unlock g) s
      { s with replicaStores := s.replicaStores.insert g { r with unlocking := true, acks := cs } }

/-- COHERENCE_ACK: the home receives an answer that it awaits for a grain (R226, R233); a clean one to a snapshot read or to the recall of a
private grain says that the owner has no copy (R353, R415). -/
def execCoherenceAck (chip pa : Nat) (dirty : Bool) (s : State) : Result :=
  let g := grainOf pa
  match s.txns.find? g with
  | some t =>
    let t := { t with acks := t.acks.erase chip, dirty := t.dirty || dirty, data := t.data && !(3 ≤ t.reply && !dirty) }
    let s := { s with txns := s.txns.insert g t }
    .next (s.finishTxn g).pump
  | none => .next (s.replicaAcked g chip).pump

/-- The group number of the accesses that engines make. -/
def engGid : Nat := 2 ^ 40

/-- The key of a store that an engine has asked another home to perform, for a core. -/
def engStoreKey (core pa : Nat) : Nat := pa * 2048 + core

/-- What a home on another chip answers to an access that it performed for this chip: a fault code or the bytes as they stood before it; an
engine's store keeps its answer for the engine.
The events of a floating-point atomic are counted by this module, which issued it (DESIGN CHOICE: R258 calls the counters module-wide and
does not say which module counts; notes/assumptions/89). A write is stamped here as one of its cluster at a home slice is, so that what its
thread releases next carries it (R203, R229), and the issuing cluster's line of the sector goes, since it is older (R197). -/
def State.awayAnswer (s : State) (a : Access) (code : Option FaultCode) (old : List Byte) : State :=
  let s := if code.isNone && a.writes && pteClass a.pte < 2 then (s.stampFor a).2 else s
  if a.gid == engGid && a.event.isNone then
    { s with accesses := s.accesses.filter fun b => b.id != a.id
             engAnswers := s.engAnswers.insert (engStoreKey a.core a.pa) ((code.map FaultCode.num).getD 0) }
  else
  match code with
  | some c => s.refuseAccess a c
  | none =>
    let s := if a.writes then s.dropLine (a.core / 4) a.pa else s
    match a.op with
    | .atomic sub ty _ x => (s.countAtomic (atomResult sub ty (ofBytes old) x).2).completeAccess a (old.take a.size) s.readStamp
    | .fence n =>
      if n ≤ 1 then s.completeAccess a [] 0
      else { s with accesses := s.accesses.map fun b => if b.id == a.id then { b with op := .fence (n - 1) } else b }
    | _ => s.completeAccess a (old.take 8) s.readStamp

/-- An answer to what this chip asked of a home, by the number it gave: an access, the event of a range, or a page's transition. -/
def State.opAnswered (s : State) (pa id code : Nat) (data : List Byte) : State :=
  let c := answerCode code
  if 2 ^ 61 ≤ id then
    -- the home could not send a Forward for this chip's request (R327)
    let waits := s.accesses.filter fun a => a.space == 0 && !pteHost a.pte && !a.sent && grainOf a.pa == grainOf pa
    waits.foldl (fun (s : State) a => s.refuseAccess a (c.getD .fabLoss)) { s with requested := s.requested.erase (grainOf pa) }
  else if 2 ^ 60 ≤ id then { s with pageOps := s.pageOps.modify (pa / 4096) fun p => { p with ready := true } }
  else if 2 ^ 59 ≤ id then
    -- a replica that another chip asked to remove is dropped (R244)
    match s.remoteOps.find? fun o => o.kind == .replicRem && o.pa == pa && o.data.length == 11 with
    | some o => ({ s with remoteOps := s.remoteOps.erase o }).answerOp o none (o.data.take 8)
    | none => s
  else if 2 ^ 57 ≤ id && id < 2 ^ 58 then { s with clearing := s.clearing.erase pa }
  else if 2 ^ 58 ≤ id then { s with engAnswers := s.engAnswers.insert (queryKey id) code }
  else
    match s.accesses.find? fun a => a.id == id && a.sent with
    | some a => s.awayAnswer a c data
    | none => s.eventAnswered id c (ofBytes (data.take 8))

/-- How the L2 holds a grain whose data has come: as its tag names this chip when the home sent it, as it was asked for when an owner
did, and once only when neither (R226). -/
def State.heldAs (s : State) (src g : Nat) (tag : BitVec 64) (getM : Bool) : HeldState :=
  let mine := tagPtr tag 0 == s.chip
  if tagClass tag == 3 then if mine then .m else .u
  else if src != chipOf (g * 512) then if getM then .m else .s
  else
    match tagState tag with
    | 2 => if mine then .e else .u
    | 4 => if mine then .m else .u
    | 1 | 3 | 7 => if (s.sharers tag 0).contains s.chip then .s else .u
    | _ => .u

/-- GRAIN_DATA: a grain's data arrives: what an owner returns to its home, the data of a home's replica under the lock, a grain this chip
asked for, or a private grain that it has been given (R208, R225, R233). -/
def execGrainData (chip epoch pa : Nat) (tag : BitVec 64) (data : List (BitVec 8)) (s : State) : Result :=
  s.atEpoch epoch (.grainData chip epoch pa tag data) fun s =>
    let g := grainOf pa
    if chipOf pa == s.chip then
      -- an owner's stores to a private grain are recorded in the tag that comes back with it (Table 10·6)
      let s := if tagClass (s.tag g) == 3 && tagPtr (s.tag g) 0 == chip && tagClass tag == 3 && tagState tag == 4
        then s.modTag g fun t => tagSetState t 4 else s
      match s.txns.find? g with
      | some t =>
        if t.data then
          -- the owner's bytes are the grain's latest, of the epoch that the owner's tag names; no program writes them here (R351)
          let s := (s.putMem (g * 512) (data.take 512)).modTag g fun t => if tag == 0 then t else tagSet t 9 8 (tagEpoch tag)
          ({ s.stampGrain g with txns := s.txns.insert g { t with data := false } }).finishTxn g
        else s.homeRequest g { chip := chip, getM := false, upgrade := false, epoch := epoch, leaf := tagEpoch tag, put := some data }
      | none => s.homeRequest g { chip := chip, getM := false, upgrade := false, epoch := epoch, leaf := tagEpoch tag, put := some data }
    else if tagLock tag then
      let r := s.chip * 2 ^ 40 + g * 512 % 2 ^ 40
      ((s.putMem r (data.take 512)).setTag (grainOf r) tag).sendMsg chip .ack g
    else
      let given := tagClass tag == 3 && tagPtr tag 0 == s.chip
      if (s.requested.find? g).isNone && !given then s
      else
        let st := s.heldAs chip g tag (s.requested.get g false)
        let late := st == .s && s.overtaken.contains g
        let s := { s with requested := s.requested.erase g, overtaken := s.overtaken.filter (· != g) }
        if late then s
        else
        let s := s.makeRoom.stampGrain g
        { s.putMem (g * 512) (data.take 512) with
          tags := s.tags.put g tag 0, held := s.held.insert g st,
          granted := if given then g :: s.granted.filter (· != g) else s.granted }

/-- An answer of a home, or its grant of an upgrade. -/
def State.answered (s : State) (o : RemoteOp) : State :=
  let g := grainOf o.pa
  if o.kind == .grant then
    { s with requested := s.requested.erase g, held := if (s.held.find? g).isSome then s.held.insert g .m else s.held }
  else s.opAnswered o.pa o.arg o.leaf o.data

/-- Takes up the answers and grants that waited for this chip to record their epoch (R352). -/
def State.takeAnswers (s : State) : State :=
  let due := fun (o : RemoteOp) => (o.kind == .answer || o.kind == .grant) && decide (o.epoch ≤ s.epoch)
  (s.remoteOps.filter due).foldl State.answered { s with remoteOps := s.remoteOps.filter fun o => !due o }

/-- A message of class 0 other than a grain's data, from a chip (R225, notes/assumptions/89): its kind, address, epoch, leaf, operand and
bytes. -/
def State.cohMessage (s : State) (chip : Nat) (k : CohKind) (pa epoch leaf arg : Nat) (data : List Byte) : Result :=
  let g := grainOf pa
  match k with
  | .getS => execGets chip epoch (atLeaf pa leaf) s
  | .getM => execGetm chip epoch (atLeaf pa leaf) s
  | .forwardS => execForward arg epoch pa false s
  | .forwardM => execForward arg epoch pa true s
  | .invalidate => execInvalidate pa s
  | .ack =>
    if s.putting.contains g && chipOf pa == chip then
      .next ({ (if (s.held.find? g).isSome then s.surrender g else s) with putting := s.putting.filter (· != g) }).pump
    else execCoherenceAck chip pa false s
  | .ackDirty => execCoherenceAck chip pa true s
  | .ackClean => execCoherenceAck chip pa false s
  | .unlock =>
    let r := grainOf (s.chip * 2 ^ 40 + pa % 2 ^ 40)
    .next ((s.modTag r fun t => tagSet t 11 11 0).sendMsg chip .ack g).pump
  | .listed => .next { s with replicaHere := s.replicaHere.insert (pa / 4096) arg }
  | .dropped =>
    let s := { s with replicaHere := s.replicaHere.erase (pa / 4096) }
    .next (if arg == 0 then s else s.sendCoh chip .answer pa 0 arg (toBytes 8 0))
  | .shootDown =>
    if leaf % 8 == shootBegin then
      let ready := (s.pageOps.find? (pa / 4096)).any (·.ready)
      let s : State := s.pageOpen pa arg chip []
      .next (State.pump { s with pageOps := s.pageOps.modify (pa / 4096) fun p => { p with ready := ready } })
    else .next (s.pageEnded pa arg (leaf % 8) (leaf / 8)).pump
  | .shotDown => .next ({ s with pageOps := s.pageOps.modify (pa / 4096) fun p => { p with acks := p.acks.erase chip } }).pump
  | _ =>
    let s := if s.epoch < epoch then s.startRecord epoch (s.cfgAt 0x73 0) 0 else s
    let o : RemoteOp :=
      { chip := chip, cluster := leafCore leaf / 4, kind := k, pa := pa, leaf := leaf, epoch := epoch, arg := arg, data := data,
        since := s.clock, order := s.nextId + 1 }
    .next (State.pump (State.takeAnswers { s with remoteOps := s.remoteOps ++ [o], nextId := s.nextId + 1 }))

/-- The place of another chip's atomic at a slice: when it came, its source cluster and its core (R255). -/
def RemoteOp.rank (o : RemoteOp) : List Nat := [o.since, o.cluster, leafCore o.leaf, 0, 0, 0]

/-- The first of some operations by place, the earlier of two of one place. -/
def firstOp : List RemoteOp → Option RemoteOp
  | [] => none
  | o :: os => some (os.foldl (fun m b => if rankBefore b.rank m.rank then b else m) o)

/-- HOME_SLICE_ATOMIC: a home slice performs the next operation queued for a grain, of this chip or of another, in arrival order, ties by
source cluster (R255). -/
def execHomeSliceAtomic (grain : Nat) (s : State) : Result :=
  let mine := fun (a : Access) => grainOf a.pa == grain && s.atomUnit a.pa a.pte a.scope == .slice
  let first := (s.accesses.filter fun a => mine a && a.writes && !s.eager a && !s.orderHeld a).map (s.atomRank 1)
  match firstOp (s.remoteOps.filter fun o => o.kind == .atomic && grainOf o.pa == grain && decide (o.epoch ≤ s.epoch) && !s.requestBefore o) with
  | some o =>
    if first.all fun t => !rankBefore t o.rank then
      match s.remoteAtomic o with
      | (true, s) => .next ({ s with remoteOps := s.remoteOps.erase o }).pump
      | (false, s) => .next s
    else .next (s.firstAtomic 1 mine).pump
  | none => .next (s.firstAtomic 1 mine).settle

/-- MOVE_TIMEOUT_EXPIRY: an mvwait not satisfied within WS_WAIT lands with MOVE_TIMEOUT (R239). -/
def execMoveTimeoutExpiry (id : Nat) (s : State) : Result :=
  match s.deferred.find? id with
  | some d =>
    match d.wait with
    | .condition (.mvwait ..) _ =>
      if d.since + d.limit ≤ s.clock then
        .next ((s.modEvent id fun d => d.addFault .moveTimeout d.bundle 0).land id)
      else .next s
    | _ => .next s
  | none => .next s

/-! ### Host links (R256, R417, R418) -/

/-- HOST_ATOMIC_COMPLETION: the completion of a PCIe AtomicOp (R418). -/
def execHostAtomicCompletion (id : Nat) (st : HostStatus) (old : Nat) (s : State) : Result :=
  match s.accesses.find? fun a => a.id == id && a.sent && pteHost a.pte with
  | none =>
    match s.posted.find? fun a => a.id == id with
    | some a =>
      let s := { s.linkError st with posted := s.posted.filter fun b => b.id != id }
      .next (if st == .ok then s else (s.queueMerged a.gid (a.faultOf .hostAbort)).form a.gid)
    | none => .next s
  | some a =>
    let s := s.linkError st
    match st with
    | .ok => .next (s.completeAccess a (toBytes a.size old) s.readStamp).settle
    | .ur =>
      let r := s.hostRegion a.pa
      let s := { s with cfg := s.cfg.insert 0x52 (BitVec.ofNat 64 (s.cfgAt 0x52 0 ||| 2 ^ r)) }
      .next (s.refuseAccess a .sysAtomicUnsupported).settle
    | _ => .next (s.refuseAccess a .hostAbort).settle

/-- The first identity of the host reads that engines make: one to each `engHostKey`. -/
def engHostId : Nat := 2 ^ 60

/-- The lines of host memory that X-die 0 holds at most (R417). -/
def hostLineCount : Nat := 4096

/-- X-die 0 gives up a line of host memory: its bytes go home, and the waits on it ask for it anew (R263). -/
def State.hostDrop (s : State) (line : Nat) : State :=
  match s.hostLines.find? line with
  | none => s
  | some l =>
    let s := { s with hostLines := s.hostLines.erase line }.send (.hostWrite 0 (line * 64) l false)
    { s with accesses := s.accesses.map fun a =>
        if a.isAwait && pteHost a.pte && a.pa / 64 == line then { a with sent := false } else a }

/-- X-die 0 takes a line of host memory, unless it holds it already; of too many, the one of the lowest address goes home (DESIGN CHOICE:
R417 names no replacement, notes/assumptions/23). -/
def State.hostFill (s : State) (line : Nat) (bytes : List Byte) : State :=
  if (s.hostLines.find? line).isSome then s
  else
    let s := match s.hostLines with
      | l :: rest => if rest.length + 1 < hostLineCount then s else s.hostDrop l.1
      | [] => s
    { s with hostLines := s.hostLines.insert line bytes }

/-- HOST_ACCESS_COMPLETION: the completion of a load, a line or a store of host memory (R417), or the response to a back-invalidate snoop
(R415). -/
def execHostAccessCompletion (id : Nat) (st : HostStatus) (data : List (BitVec 8)) (s : State) : Result :=
  if engHostId ≤ id then
    let k := id - engHostId
    let l := if st == .ok then some ((List.range 64).map fun i => data.getD i 0) else none
    .next (if s.engAsked.contains k then { s.linkError st with engLines := s.engLines.insert k l, engAsked := s.engAsked.erase k } else s)
  else if snoopId ≤ id then .next { s with hostClean := s.hostClean.insert (id - snoopId) true }.pump
  else
  match s.accesses.find? fun a => a.id == id && a.sent && pteHost a.pte with
  | none =>
    match s.posted.find? fun a => a.id == id with
    | some a =>
      let s := { s.linkError st with posted := s.posted.filter fun b => b.id != id }
      .next (if st == .ok then s else (s.queueMerged a.gid (a.faultOf .hostAbort)).form a.gid)
    | none => .next s
  | some a =>
    if st != .ok then .next ((s.hostErr.refuseAccess a .hostAbort).form a.gid).settle
    else if s.cxlCache then
      let s := s.hostFill (a.pa / 64) ((List.range 64).map fun i => data.getD i 0)
      .next ((s.tryAccess id).form a.gid).settle
    else
      match a.op with
      | .await sub n c =>
        if s.waitStands a && awaitHolds sub n (ofBytes (data.take n)) c then .next ((s.completeAccess a [] s.readStamp).form a.gid).settle
        else .next { s with accesses := s.accesses.map fun b => if b.id == id then { b with sent := false } else b }
      | _ => .next (s.completeAccess a (data.take a.size) s.readStamp).settle

/-- HOST_SNOOP: the host recalls a line that X-die 0 holds; its bytes go back to host memory, and the waits on it are tested again, which
asks for the line anew (R256, R263, R417). -/
def execHostSnoop (hpa : Nat) (s : State) : Result :=
  if (s.hostLines.find? (hpa / 64)).isSome then
    let waits := (s.accesses.filter fun a => a.isAwait && pteHost a.pte && a.pa / 64 == hpa / 64).map (·.id)
    .next (waits.foldl State.tryAccess (s.hostDrop (hpa / 64)))
  else .next s

end Sys2Proof.Machine
end

