-- ==== Sys2Proof/Machine/Registers.lean ====
section
/-!
DEFINITION. The special registers (Table 4·3) and the configuration registers (Tables 16·5, 17·7, 10·4, 11·7, 18·3, 19·3, 14·3,
15·1): what each reads as, and what a write does.
-/

namespace Sys2Proof.Machine

/-! ### Special registers (R84 to R87) -/

/-- The special registers held by a thread: LANE, FLAGS, DRAW. -/
def threadHeld (n : Nat) : Bool := n == 0x00 || n == 0x0A || n == 0x0B

/-- The special registers that swr may write: LFSR, FLAGS, DRAW, FPCTL. -/
def specialWritable (n : Nat) : Bool := n == 0x09 || n == 0x0A || n == 0x0B || n == 0x0E

/-- GROUP (Table 4·4); under a deterministic launch the placement reads zero (R85). -/
def groupWord (g : Group) (t : Team) (det : Bool) : Nat :=
  g.index + g.rindex * 2 ^ 5 + (t.groups.length - 1) * 2 ^ 16 +
    (if det then 0 else g.core % 4 * 2 ^ 32 + g.slot * 2 ^ 36)

/-- LTS (Table 4·3): the cluster's logical clock and the era bit. -/
def State.ltsWord (s : State) (q : Nat) : Nat := s.ltsOf q % 2 ^ 16 + (if s.era then 2 ^ 16 else 0)

/-- The value of a special register in one lane, group-held registers as they stood before the clause (R86); CLOCK, LTS and LFSR
read zero in a deterministic grid (R405). -/
def State.special (s : State) (iss : Issue) (n lane : Nat) : Word :=
  let g := iss.before
  let t := s.teamOf iss.gid
  let gr := s.gridOf iss.gid
  let det := gr.det
  match n with
  | 0x00 => BitVec.ofNat 64 lane
  | 0x01 => BitVec.ofNat 64 (groupWord g t det)
  | 0x02 => BitVec.ofNat 64 (t.index % 2 ^ 32)
  | 0x03 => BitVec.ofNat 64 ((gr.teams - 1) % 2 ^ 32 + gr.launch * 2 ^ 32)
  | 0x04 => if g.role then 1 else 0
  | 0x05 => BitVec.ofNat 64 t.lcluster
  | 0x06 => BitVec.ofNat 64 s.chip
  | 0x07 => if det then 0 else BitVec.ofNat 64 s.clock
  | 0x08 => if det then 0 else BitVec.ofNat 64 (s.ltsWord g.cluster)
  | 0x09 => if det then 0 else g.lfsr.zeroExtend 64
  | 0x0A => (g.thread lane).flags.zeroExtend 64
  | 0x0B => (g.thread lane).draw
  | 0x0C => g.gang
  | 0x0D => g.faultInfo
  | _ => g.fpctl

/-! ### Configuration registers (R383 to R385) -/

/-- One configuration register: its width, whether it is read-only, and its reset value. -/
structure CfgInfo where
  width : Nat
  ro : Bool
  reset : Nat := 0
  deriving DecidableEq, Repr

/-- The default code rate of a traffic class (Tables 14·2 and 14·3). -/
def codeReset (c : Nat) : Nat := if 2 ≤ c && c ≤ 5 then 0x208 else 0x1101

/-- The assigned configuration registers. -/
def cfgInfo (n : Nat) : Option CfgInfo :=
  if n == 0x00 then some { width := 32, ro := true, reset := 1 }
  else if 0x01 ≤ n && n ≤ 0x04 then some { width := 64, ro := true }
  else if n == 0x05 then some { width := 16, ro := true, reset := 0x0100 }
  else if n == 0x08 then some { width := 10, ro := true }
  else if n == 0x09 then some { width := 52, ro := false }
  else if n == 0x10 || n == 0x11 then some { width := 52, ro := true }
  else if n == 0x12 then some { width := 64, ro := true }
  else if 0x18 ≤ n && n ≤ 0x1C then some { width := 64, ro := true }
  else if n == 0x20 then some { width := 20, ro := false, reset := 100 }
  else if n == 0x21 then some { width := 1, ro := false }
  else if n == 0x30 then some { width := 32, ro := false, reset := 16384 }
  else if n == 0x31 then some { width := 10, ro := false, reset := 10 }
  else if n == 0x32 then some { width := 48, ro := true }
  else if n == 0x33 then some { width := 16, ro := true }
  else if n == 0x34 then some { width := 12, ro := false }
  else if n == 0x35 then some { width := 13, ro := false }
  else if n == 0x40 then some { width := 8, ro := false, reset := 16 }
  else if n == 0x41 then some { width := 16, ro := false, reset := 0xF000 }
  else if n == 0x42 then some { width := 16, ro := false, reset := 256 }
  else if n == 0x43 then some { width := 32, ro := false, reset := 2 ^ 24 }
  else if n == 0x44 then some { width := 13, ro := false, reset := 1 }
  else if 0x48 ≤ n && n ≤ 0x4B then some { width := 64, ro := true }
  else if n == 0x50 then some { width := 13, ro := true }
  else if n == 0x51 then some { width := 12, ro := true }
  else if n == 0x52 then some { width := 64, ro := false }
  else if n == 0x53 then some { width := 1, ro := false }
  else if n == 0x54 then some { width := 6, ro := false, reset := 30 }
  else if n == 0x55 then some { width := 1, ro := false, reset := 1 }
  else if n == 0x56 then some { width := 16, ro := true }
  else if n == 0x57 then some { width := 64, ro := true }
  else if n == 0x58 || n == 0x59 then some { width := 64, ro := true }
  else if n == 0x5A then some { width := 25, ro := true }
  else if n == 0x5B then some { width := 52, ro := false }
  else if n == 0x5C then some { width := 8, ro := false, reset := 24 }
  else if n == 0x5D then some { width := 12, ro := false, reset := 3000 }
  else if n == 0x5E then some { width := 10, ro := true }
  else if n == 0x5F then some { width := 32, ro := true }
  else if 0x60 ≤ n && n ≤ 0x67 then some { width := 13, ro := false, reset := codeReset (n - 0x60) }
  else if n == 0x68 then some { width := 32, ro := false, reset := 65536 }
  else if n == 0x69 then some { width := 32, ro := false, reset := 4096 }
  else if n == 0x6A then some { width := 32, ro := false, reset := 16384 }
  else if n == 0x6B then some { width := 32, ro := false, reset := 2048 }
  else if n == 0x6C then some { width := 32, ro := true, reset := 0x40825028 }
  else if n == 0x6D then some { width := 16, ro := true }
  else if n == 0x70 then some { width := 32, ro := true, reset := 1 }
  else if n == 0x71 then some { width := 53, ro := false }
  else if n == 0x72 then some { width := 41, ro := false }
  else if n == 0x73 || n == 0x74 then some { width := 12, ro := false }
  else if n == 0x75 then some { width := 13, ro := false }
  else if n == 0x76 then some { width := 6, ro := false, reset := 0x3C }
  else if n == 0x77 then some { width := 32, ro := false }
  else none

/-- The numbers held by a group or a core, which the host reads as zero and cannot write (R413). -/
def cfgNotModule (n : Nat) : Bool := n == 0x08 || (0x10 ≤ n && n ≤ 0x12) || (0x18 ≤ n && n ≤ 0x1C)

/-- The registers that report measured state and read zero in a deterministic grid (R405). -/
def cfgMeasured (n : Nat) : Bool :=
  (0x18 ≤ n && n ≤ 0x1C) || (0x48 ≤ n && n ≤ 0x4B) || n == 0x32 || n == 0x33 || (0x50 ≤ n && n ≤ 0x52) ||
    n == 0x56 || n == 0x57 || (0x58 ≤ n && n ≤ 0x5A) || n == 0x5E

/-- A configuration register's value with its reset value from the table. -/
def State.cfgVal (s : State) (n : Nat) : Nat :=
  match cfgInfo n with
  | some i => s.cfgAt n i.reset
  | none => 0

/-- FEAT0 (Table 17·2). -/
def State.feat0 (s : State) : Nat :=
  3 + (if s.cfgVal 0x72 != 0 then 4 else 0) + (if bits (s.cfgVal 0x51) 3 0 != 0 then 8 else 0) +
    (if bitAt (s.cfgVal 0x50) 10 then 16 else 0) + (if 1 < s.podSize then 32 else 0)

/-- A module-held configuration register as the host or an instruction reads it. -/
def State.cfgModule (s : State) (n : Nat) : Nat :=
  if n == 0x01 then s.feat0
  else if 0x48 ≤ n && n ≤ 0x4B then (s.atomev.get (n - 0x48) 0).toNat
  else if n == 0x5A then s.waysOff.length % 2 ^ 16 + s.slicesOff.length * 2 ^ 16
  else if n == 0x5B then s.clearing.getLastD 0
  else if 0x60 ≤ n && n ≤ 0x67 then
    let x := s.cfgVal n
    if bitAt x 12 then x - x % 64 + 1 else x
  else if n == 0x6D then Config.fabSelf.toNat
  else if n == 0x70 then s.epoch
  else s.cfgVal n

/-- MCLK in a microsecond (R13). -/
def mclkPerUs : Nat := 1400

/-- BUDGET_WINDOW in MCLK; 0 is taken as 1. -/
def State.budgetWindow (s : State) : Nat := max 1 (s.cfgVal 0x31) * mclkPerUs

/-- The clusters that hold a team of a context, or held one within the last BUDGET_WINDOW (R400; DEDUCED, notes/assumptions/122). -/
def State.clustersOf (s : State) (c : Nat) : List Nat :=
  ((s.teams.filter fun p => p.2.ctx == c && p.2.status == .resident).map (·.2.cluster) ++
    ((s.ctx c).left.filter fun p => decide (s.clock < p.2 + s.budgetWindow)).map (·.1)).eraseDups

/-- How many clusters a context uses, as the budget measures it (R400). -/
def State.clustersUsed (s : State) (c : Nat) : Nat := (s.clustersOf c).length

/-- WALK_LIVE: the live walk slots of a context. -/
def Ctx.walkLive (c : Ctx) : Nat :=
  c.walks.foldl (fun n p => if p.2.state == .ended then n else n + 2 ^ p.1) 0

/-- cfgrd's value for a group (R384, R405); the measured bandwidth and power of CTX_USE are free values. -/
def State.cfgRead (s : State) (iss : Issue) (n : Nat) : Word × State :=
  let c := s.ctxOf iss.gid
  let g := iss.before
  if (s.gridOf iss.gid).det && cfgMeasured n then (0, s)
  else if n == 0x08 then (BitVec.ofNat 64 c, s)
  else if n == 0x10 then (g.faultAddr.zeroExtend 64, s)
  else if n == 0x11 then (g.faultVa.zeroExtend 64, s)
  else if n == 0x12 then (g.faultAux, s)
  else if 0x18 ≤ n && n ≤ 0x1C then (s.flagev.get (g.core * 5 + (n - 0x18)) 0, s)
  else if n == 0x32 then
    let (x, s) := s.fresh
    (BitVec.ofNat 64 (s.clustersUsed c + x.toNat % 2 ^ 32 * 2 ^ 16), s)
  else if n == 0x33 then (BitVec.ofNat 64 (s.ctx c).walkLive, s)
  else (BitVec.ofNat 64 (s.cfgModule n), s)

/-- Whether any context of the module is live (R228, R320). -/
def State.anyLive (s : State) : Bool := s.ctxs.any fun p => p.2.status == .live

/-- A write of a configuration register, by cfgwr or through W0 (R385, R413): masked to its bits, refused or ignored by the
register's own rule. DESIGN CHOICE (notes/assumptions/106): a register whose values outside its range are taken as the nearer bound
(REBASE_AT, HOST_REGION_SHIFT, MODULE_POWER_LIMIT) reads back the bits written. -/
def State.cfgWrite (s : State) (n : Nat) (v : Word) : State :=
  match cfgInfo n with
  | none => s
  | some i =>
    if i.ro then s
    else
      let x := v.toNat % 2 ^ i.width
      let put := fun x => { s with cfg := s.cfg.insert n (BitVec.ofNat 64 x) }
      if n == 0x44 then if s.anyLive then s else put x
      else if n == 0x52 then put ((s.cfgVal n ^^^ x) &&& s.cfgVal n)
      else if n == 0x5B then s.clearPoison v.toNat
      else if 0x60 ≤ n && n ≤ 0x67 then
        let k := bits x 5 0
        let m := bits x 11 8
        if k == 0 || 32 < k || 8 < m then s else put (x &&& 0x1F3F)
      else if 0x71 ≤ n && n ≤ 0x77 then
        if s.snaps.any fun p => p.2.state != 0 then s
        else put (if n == 0x76 then x &&& 0x3C else x)
      else put x

end Sys2Proof.Machine
end

