-- ==== Sys2Proof/Machine/Control.lean ====
section
/-!
DEFINITION. The control instructions (R77 to R93) and tret, cfgrd and cfgwr (R372, R384, R385): their checks at issue and what
their commits do; barriers (R88 to R90) and supersteps (R91, R92, R403).
-/

namespace Sys2Proof.Machine

/-! ### Branches, calls and exit -/

/-- The target of a relative branch (R77). -/
def Issue.target (iss : Issue) (off : BitVec 20) : BitVec 52 := iss.pc + 4 * off.signExtend 52

/-- bra (R77). -/
def execBra (f : FB) (s : State) : Result :=
  s.withIssue fun iss s =>
    let act := iss.acting f.ge f.gn f.gk
    s.finish iss 1 [.setPc act (LaneVals.of fun _ => (iss.target f.off).zeroExtend 64)]

/-- The register target of brx and callx in one lane (R78). -/
def Issue.regTarget (iss : Issue) (a : BitVec 7) (lane : Nat) : Word := iss.operand (intLayout 5) a 0 lane

/-- The lanes of a set whose register target is not a multiple of four (R78). -/
def Issue.misTargets (iss : Issue) (a : BitVec 7) (lanes : Lanes) : Lanes :=
  Lanes.of fun l => lanes.has l && (iss.regTarget a l).toNat % 4 != 0

/-- brx (R78). -/
def execBrx (f : FC) (ls : Lits) (s : State) : Result :=
  s.withIssue fun iss s =>
    let act := iss.acting f.ge f.gn f.gk
    let bad := iss.misTargets f.a act
    if bad != 0 then s.faults iss .misaligned bad
    else s.finish iss (1 + ls.length) [.setPc act (LaneVals.of (iss.regTarget f.a))]

/-- The lanes of the bundle whose return stack is full, or empty. -/
def Issue.atDepth (iss : Issue) (n : Nat) : Lanes :=
  Lanes.of fun l => iss.lanes.has l && (iss.before.thread l).stack.length == n

/-- call (R79). -/
def execCall (f : FB) (s : State) : Result :=
  s.withIssue fun iss s =>
    if iss.atDepth 16 != 0 then s.faults iss .callDepth (iss.atDepth 16)
    else
      s.finish iss 1 [.act (.call f) iss.idx iss.lanes (LaneVals.of fun _ => (iss.target f.off).zeroExtend 64) [] [] []]

/-- callx (R79): the depth of the stack comes before the target, which is checked as brx checks one. -/
def execCallx (f : FC) (ls : Lits) (s : State) : Result :=
  s.withIssue fun iss s =>
    let bad := iss.misTargets f.a iss.lanes
    let deep := iss.atDepth 16
    match firstFailure ((Lanes.list iss.lanes).filterMap fun l =>
        if deep.has l then some (l, .callDepth, 0) else if bad.has l then some (l, .misaligned, 0) else none) with
    | some (c, lanes, _) => s.faults iss c lanes
    | none =>
      s.finish iss (1 + ls.length) [.act (.callx f ls) iss.idx iss.lanes (LaneVals.of (iss.regTarget f.a)) [] [] []]

/-- ret (R80). -/
def execRet (f : FC) (ls : Lits) (s : State) : Result :=
  s.withIssue fun iss s =>
    if iss.atDepth 0 != 0 then s.faults iss .callDepth (iss.atDepth 0)
    else s.finish iss (1 + ls.length) [.act (.ret f ls) iss.idx iss.lanes [] [] [] []]

/-- The commit of call and callx: the return address goes onto each thread's stack. -/
def commitCall (iss : Issue) (lanes : Lanes) (x : LaneVals) (s : State) : State :=
  s.modGroup iss.gid fun g => g.modThreads lanes fun l t =>
    { t with stack := iss.nextPc :: t.stack, pc := (x.at l).truncate 52 }

/-- The commit of ret. -/
def commitRet (iss : Issue) (lanes : Lanes) (s : State) : State :=
  s.modGroup iss.gid fun g => g.modThreads lanes fun _ t =>
    { t with stack := t.stack.drop 1, pc := t.stack.headD t.pc }

/-- exit (R81). -/
def execExit (f : FC) (ls : Lits) (s : State) : Result :=
  s.withIssue fun iss s => s.finish iss (1 + ls.length) [.act (.exit f ls) iss.idx iss.lanes [] [] [] []]

/-! ### Yield and nop -/

/-- yield (R82). -/
def execYield (f : FC) (ls : Lits) (s : State) : Result :=
  s.withIssue fun iss s =>
    let d := (iss.uniform f.a (litAt ls 0)).toNat
    if 4095 < d then s.faultAll iss .reservedField
    else s.finish iss (1 + ls.length) [.act (.yield f ls) iss.idx iss.lanes [] [] [] [d]]

/-- A thread delayed until a time, unless it is blocked or has exited. DESIGN CHOICE (notes/assumptions/109): a thread that a wait of the
same clause blocks is not delayed as well, in either order, and of two yields in a clause the first delay counts. -/
def Thread.delay (t : Thread) (until' : Nat) : Thread :=
  if t.status == .ready then { t with status := .delayed until' } else t

/-- The commit of yield: two MCLK to an ACLK at its nominal frequency. The threads' next bundle is the youngest of its priority, which is
all that delay 0 does. -/
def commitYield (iss : Issue) (n : List Nat) (s : State) : State :=
  s.modGroup iss.gid fun g => g.modThreads iss.lanes fun _ t =>
    { (if n.headD 0 == 0 then t else t.delay (s.clock + 2 * n.headD 0)) with yielded := true }

/-- nop (R83). -/
def execNop (_f : FC) (ls : Lits) (s : State) : Result :=
  s.withIssue fun iss s => s.finish iss (1 + ls.length) []

/-! ### Special and configuration registers -/

/-- Writes a value per lane to a v destination, or the lowest lane's to a g destination (R86). -/
def Issue.toVOrG (iss : Issue) (d : BitVec 7) (x : Nat → Word) : Effect :=
  if isV d then .v d.toNat iss.lanes (iss.lanesOf x) else .g (d.toNat - 104) (x (lowestLane iss.lanes))

/-- srd (R86). -/
def execSrd (f : FC) (ls : Lits) (s : State) : Result :=
  s.withIssue fun iss s =>
    let n := (iss.uniform f.b (litAt ls 0)).toNat
    if 0x0E < n then s.faultAll iss .illegalOpcode
    else if isG f.a && threadHeld n then s.faultAll iss .reservedField
    else s.finish iss (1 + ls.length) [iss.toVOrG f.a (s.special iss n)]

/-- swr (R87, R144). -/
def execSwr (f : FC) (ls : Lits) (s : State) : Result :=
  s.withIssue fun iss s =>
    let n := (iss.uniform f.b (litAt ls (litsIn [f.a]))).toNat
    let x := iss.lanesOf (iss.operand (intLayout 5) f.a (litAt ls 0))
    let u := iss.uniform f.a (litAt ls 0)
    if !specialWritable n then s.faultAll iss .illegalOpcode
    else if n == 0x09 then
      if !OpRule.legal .uniform f.a then s.faultAll iss .reservedField
      else s.finish iss (1 + ls.length) [.setLfsr u]
    else if n == 0x0E then
      if !OpRule.legal .uniform f.a || u.toNat / 4 != 0 then s.faultAll iss .reservedField
      else s.finish iss (1 + ls.length) [.setFpctl u]
    else if n == 0x0A then
      let bad := Lanes.of fun l => iss.lanes.has l && (x.at l).toNat / 32 != 0
      if bad != 0 then s.faults iss .reservedField bad
      else s.finish iss (1 + ls.length) [.setFlags iss.lanes x]
    else s.finish iss (1 + ls.length) [.setDraw iss.lanes x]

/-- cfgrd (R384). -/
def execCfgrd (f : FC) (ls : Lits) (s : State) : Result :=
  s.withIssue fun iss s =>
    let n := (iss.uniform f.b (litAt ls 0)).toNat
    if (cfgInfo n).isNone then s.faultAll iss .illegalOpcode
    else
      let (x, s) := s.cfgRead iss n
      s.finish iss (1 + ls.length) [iss.toVOrG f.a fun _ => x]

/-- cfgwr (R385). -/
def execCfgwr (f : FC) (ls : Lits) (s : State) : Result :=
  s.withIssue fun iss s =>
    let n := (iss.uniform f.b (litAt ls (litsIn [f.a]))).toNat
    let v := iss.uniform f.a (litAt ls 0)
    match cfgInfo n with
    | none => s.faultAll iss .illegalOpcode
    | some i =>
      if i.ro then s.faultAll iss .illegalOpcode
      else s.finish iss (1 + ls.length) [.act (.cfgwr f ls) iss.idx iss.lanes [] [] [] [n, v.toNat]]

/-- The commit of cfgwr. -/
def commitCfgwr (n : List Nat) (s : State) : State := s.cfgWrite (n.headD 0) (BitVec.ofNat 64 (n.getD 1 0))

/-! ### Trap and breakpoint (R93) -/

/-- trap and brk: the clause commits, and the fault joins the queue at its commit (R366). -/
def softFault (i : Instr) (f : FC) (ls : Lits) (s : State) : Result :=
  s.withIssue fun iss s =>
    let x := (iss.uniform f.a (litAt ls 0)).toNat
    if 255 < x then s.faultAll iss .reservedField
    else s.finish iss (1 + ls.length) [.act i iss.idx iss.lanes [] [] [] [x]]

/-- trap (R93). -/
def execTrap (f : FC) (ls : Lits) (s : State) : Result := softFault (.trap f ls) f ls s
/-- brk (R93). -/
def execBrk (f : FC) (ls : Lits) (s : State) : Result := softFault (.brk f ls) f ls s

/-- The commit of trap and brk. -/
def commitSoft (code : FaultCode) (iss : Issue) (idx : Nat) (n : List Nat) (s : State) : State :=
  s.queueFault iss.gid
    { code := code, pc := iss.pc, index := idx, deferred := true, lane := lowestLane iss.lanes, lanes := iss.lanes,
      operand := n.headD 0, bundle := iss.lanes, inHandler := iss.before.inHandler }

/-! ### Team barriers (R88 to R90) -/

/-- What a barrier instruction does: arrive, wait, or both. -/
def barParts : Instr → Option (Bool × Bool)
  | .barSync .. => some (true, true)
  | .barArrive .. => some (true, false)
  | .barWait .. => some (false, true)
  | _ => none

/-- A team's barrier. -/
def Team.barrier (t : Team) (n : Nat) : Barrier := t.barriers.get n {}

/-- The lanes that fail the checks of R89 on a barrier. -/
def State.barBad (s : State) (gid n c : Nat) (lanes : Lanes) (arrive : Bool) : Lanes :=
  let g := s.group gid
  let b := (s.teamOf gid).barrier n
  Lanes.of fun l => lanes.has l &&
    (let p := ((g.thread l).pending.find? n).isSome
     if arrive then p || (b.count.isSome && b.count != some c) else !p)

/-- Whether a group has arrived at a barrier: some thread has, and every one that has not exited (R88). -/
def State.groupArrived (s : State) (b : Barrier) (gid : Nat) : Bool :=
  let l := b.lanes.get gid 0
  l != 0 && (~~~l &&& ~~~(s.group gid).exitedLanes) == 0

/-- BARRIER_COMPLETE: a barrier whose arrived groups have reached the expected count flips its phase and wakes its waiters, who
acquire at TEAM scope (R88, R90). -/
def State.barComplete (s : State) (tid n : Nat) : State :=
  let t := s.team tid
  let b := t.barrier n
  let live := (t.groups.filter fun g => (s.group g).exitedLanes != 0xFFFFFFFF).length
  let e := match b.count with
    | some 0 => live
    | some c => c
    | none => 33
  if b.count.isNone || (t.groups.filter (s.groupArrived b)).length < e then s
  else
    let old := b.phase
    let b' : Barrier := { phase := !old }
    let w := fun (x : Wait) => x == .barrier n old
    let s := s.modTeam tid fun t => { t with barriers := t.barriers.insert n b' }
    let wake := fun (t : Thread) =>
      let t' := t.endWait w
      if t' == t then t else { t' with pending := t'.pending.erase n }
    (t.groups.foldl (fun s g => s.modGroup g fun g => { g with threads := g.threads.map wake }) s).acquireAll t.cluster 1

/-- Completes whichever barriers of a team may complete, as when threads exit (R88). -/
def State.barriersComplete (s : State) (tid : Nat) : State := (List.range 16).foldl (fun s n => s.barComplete tid n) s

/-- The effect of a barrier instruction on one bundle (R89), before any completion. -/
def State.barApply (s : State) (gid n c : Nat) (lanes : Lanes) (arrive waits : Bool) : State :=
  let t := s.teamOf gid
  let b := t.barrier n
  let s := if arrive then
      let b' : Barrier := { b with count := some (b.count.getD c), lanes := b.lanes.insert gid (b.lanes.get gid 0 ||| lanes) }
      let s := s.modTeam (s.group gid).team fun t => { t with barriers := t.barriers.insert n b' }
      s.modGroup gid fun g => g.modThreads lanes fun _ t => { t with pending := t.pending.insert n b.phase }
    else s
  if waits then
    s.modGroup gid fun g => g.modThreads lanes fun _ t =>
      match t.pending.find? n with
      | some p => if p == b.phase then t.block (.barrier n p) else { t with pending := t.pending.erase n }
      | none => t
  else s

/-- The first barrier instruction among held effects that fails its checks, as they would act in turn: its index and the lanes
that fail. -/
def State.barFault (s : State) (gid : Nat) : List Effect → Option (Nat × Lanes)
  | [] => none
  | .act i idx lanes _ _ _ n :: es =>
    match barParts i with
    | some (a, w) =>
      let bad := s.barBad gid (n.headD 0) (n.getD 1 0) lanes a
      if bad != 0 then some (idx, bad) else (s.barApply gid (n.headD 0) (n.getD 1 0) lanes a w).barFault gid es
    | none => s.barFault gid es
  | _ :: es => s.barFault gid es

/-- A barrier instruction (R89). -/
def barExec (i : Instr) (n c words : Nat) (s : State) (iss : Issue) : Result :=
  if 15 < n || 32 < c then s.faultAll iss .barOrder
  else
    let e : Effect := .act i iss.idx iss.lanes [] [] [] [n, c]
    match s.barFault iss.gid (iss.effects ++ [e]) with
    | some (_, bad) => s.faults iss .barOrder bad
    | none => s.finish iss words [e]

/-- bar.sync (R89). -/
def execBarSync (f : FC) (ls : Lits) (s : State) : Result :=
  s.withIssue fun iss s =>
    barExec (.barSync f ls) (iss.uniform f.a (litAt ls 0)).toNat (iss.uniform f.b (litAt ls (litsIn [f.a]))).toNat
      (1 + ls.length) s iss
/-- bar.arrive (R89). -/
def execBarArrive (f : FC) (ls : Lits) (s : State) : Result :=
  s.withIssue fun iss s =>
    barExec (.barArrive f ls) (iss.uniform f.a (litAt ls 0)).toNat (iss.uniform f.b (litAt ls (litsIn [f.a]))).toNat
      (1 + ls.length) s iss
/-- bar.wait (R89). -/
def execBarWait (f : FC) (ls : Lits) (s : State) : Result :=
  s.withIssue fun iss s =>
    barExec (.barWait f ls) (iss.uniform f.a (litAt ls 0)).toNat 0 (1 + ls.length) s iss

/-- Whether earlier accesses of a bundle's threads have been performed: an arrival is a release (R90, R265). -/
def State.accessesDone (s : State) (gid : Nat) (lanes : Lanes) : Bool :=
  !(s.accesses.any fun a => a.gid == gid && lanes.has a.lane)

/-- The commit of a barrier instruction. -/
def commitBar (i : Instr) (iss : Issue) (n : List Nat) (s : State) : State :=
  match barParts i with
  | some (a, w) =>
    (s.barApply iss.gid (n.headD 0) (n.getD 1 0) iss.lanes a w).barComplete (s.group iss.gid).team (n.headD 0)
  | none => s

/-! ### Supersteps (R91, R92, R403) -/

/-- Whether a thread is in a wait, suspended or not. -/
def Thread.inWait (t : Thread) (w : Wait) : Bool :=
  t.suspended.contains w ||
    match t.status with
    | .blocked ws | .held ws => ws.contains w
    | _ => false

/-- The teams of a grid, by number. -/
def State.teamsOf (s : State) (gr : Nat) : List Nat := (s.teams.filter fun p => p.2.grid == gr).map (·.1)

/-- Whether every team of a grid has arrived at a step: every thread that has not exited is in the wait, and a retired team counts as
arrived (R91). -/
def State.allArrived (s : State) (gr : Nat) (w : Wait) : Bool :=
  let ts := s.teamsOf gr
  let groups := ts.flatMap fun t => (s.team t).groups
  let threads := groups.flatMap fun g => (s.group g).threads
  (threads.all fun t => t.status == .exited || t.inWait w) && threads.any fun t => t.inWait w

/-- The groups of a grid. -/
def State.groupsOf (s : State) (gr : Nat) : List Nat := (s.teamsOf gr).flatMap fun t => (s.team t).groups

/-- Whether every write, atomic, put, send and post of a grid's threads has been performed (R91). -/
def State.gridPerformed (s : State) (gr : Nat) : Bool :=
  let gs := s.groupsOf gr
  !(s.accesses.any fun a => a.writes && (gs.contains a.gid || a.gid == bitmapGid + gr)) &&
  !(s.commands.any fun p => (p.2.kind == .put || p.2.kind == .send) && p.2.state < 2 && gs.contains p.2.gid) &&
  !(s.combines.any fun c => c.2.rounds.any fun r => r.2.locals.any fun l => gs.contains l.2.gid)

/-- The end of a step: its threads become ready after an acquire, and a message of the phase that was lost raises FAB_LOSS at the step
clause in every group of the grid (R91, R92), at the group's last one when its threads came to it in several clauses (DESIGN CHOICE,
notes/assumptions/87); each message once. -/
def State.endStep (s : State) (gr : Nat) (w : Wait) (scope : Nat) : State :=
  let g := s.grid gr
  let gs := s.groupsOf gr
  let s := gs.foldl (fun s id => s.modGroup id fun x => { x with threads := x.threads.map fun t => t.endWait (· == w) }) s
  let s := (s.teamsOf gr).foldl (fun s t => s.acquireAll (s.team t).cluster scope) s
  let s := gs.foldl (fun s id => g.stepLost.eraseDups.foldl (fun s aux =>
    let x := s.group id
    s.queueFault id { code := .fabLoss, pc := x.stepPc, index := x.stepIdx, deferred := true, aux := aux, lanes := 0xFFFFFFFF,
                      bundle := 0xFFFFFFFF, inHandler := x.stepHandler }) s) s
  s.modGrid gr fun g =>
    if w == .stepPod then { g with podSteps := g.podSteps + 1, noticeSent := false, stepLost := [] }
    else { g with steps := g.steps + 1, stepLost := [] }

/-- STEP_COMPLETE (R91). -/
def execStepComplete (grid : Nat) (s : State) : Result :=
  if s.allArrived grid .step && s.gridPerformed grid then .next (s.endStep grid .step 2).formAll else .next s

/-- The other chips of the step domain (R403). -/
def State.stepPeers (s : State) : List Nat :=
  ((List.range (s.cfgVal 0x35)).map (· + s.cfgVal 0x34)).filter (· != s.chip)

/-- How many messages have been sent on a channel, those accepted and not yet injected included. -/
def State.sentCount (s : State) (k : Nat) : Nat := s.sendSeq.get (s.outKey k) 0 + (s.sendQ.get k []).length

/-- The seq of the last message sent on a channel, which is the one before the channel's first when none has been (R403; notes/assumptions/115). -/
def State.lastSent (s : State) (k : Nat) : Nat := (s.sentCount k + 2 ^ 32 - 1) % 2 ^ 32

/-- Whether a fabric command of a grid has been accepted and has not yet handed its messages to their channel. -/
def State.unbegun (s : State) (gr : Nat) : Bool :=
  s.commands.any fun p => p.2.kind.fabric && decide (p.2.state ≤ 1) && !p.2.begun && (s.team p.2.team).grid == gr

/-- A step notice's info: step tag and step; its payload names the last message of each of classes 2 to 5 by its seq (notes/assumptions/89). -/
def stepInfo (stag n : Nat) : Nat := stag % 2 ^ 32 + n % 2 ^ 64 * 2 ^ 32

/-- The step notices of a grid whose teams have all arrived at step.pod: one message of class 6 to each other chip of the domain, naming
for classes 2 to 5 the seq of the last message that the channel has carried (R403). -/
def State.stepNotify (s : State) (gr : Nat) : State :=
  let g := s.grid gr
  if g.noticeSent || !s.allArrived gr .stepPod || s.unbegun gr then s
  else
    let s := s.stepPeers.foldl (fun s c =>
      s.enqueue { chip := c, cls := 6, role := .notice, info := stepInfo g.stag g.podSteps,
                  payload := [2, 3, 4, 5].flatMap fun t => toBytes 4 (s.lastSent (chanKey c t)) }) s
    s.modGrid gr fun g => { g with noticeSent := true }

/-- Whether one seq is before another, by the sign of their 32-bit difference (R322). -/
def seqBefore (a b : Nat) : Bool := decide ((b + 2 ^ 32 - a) % 2 ^ 32 < 2 ^ 31) && a % 2 ^ 32 != b % 2 ^ 32

/-- Whether every message that a notice names has been delivered or declared lost here. -/
def State.noticeMet (s : State) (x : StepNotice) : Bool :=
  x.seqs.zipIdx.all fun p => seqBefore p.1 (s.recv.get (chanKey x.chip (p.2 + 2)) {}).next

/-- Whether a lost message, by its FAULTAUX, is one that a notice names: its class's up to the seq named; every one of the chip when the notice
itself was lost (R92, R403; notes/assumptions/115). -/
def StepNotice.names (x : StepNotice) (aux : Word) : Bool :=
  let seq := bits aux.toNat 31 0
  let cls := bits aux.toNat 46 44
  x.chip == bits aux.toNat 43 32 && (x.seqs.isEmpty || !seqBefore (x.seqs.getD (cls - 2) seq) seq)

/-- STEP_POD_COMPLETE: a step.pod completes once its teams have arrived, its own writes are performed, and every other chip's notice
with the messages it names has been delivered (R92, R403). -/
def State.podCheck (s : State) (gr : Nat) : State :=
  let g := s.grid gr
  let mine := fun (x : StepNotice) => x.stag == g.stag && x.n == g.podSteps
  if g.noticeSent && s.allArrived gr .stepPod && s.gridPerformed gr &&
      s.stepPeers.all fun c => s.stepNotices.any fun x => mine x && x.chip == c && s.noticeMet x then
    -- the losses that the notices name are of this phase, the rest of a later one (R92)
    let heard := g.stepHeard.filter fun aux => s.stepNotices.any fun x => mine x && x.names aux
    let s := s.modGrid gr fun g => { g with stepLost := g.stepLost ++ heard, stepHeard := g.stepHeard.filter fun a => !heard.contains a }
    ({ s with stepNotices := s.stepNotices.filter fun x => !mine x }).endStep gr .stepPod 3
  else s

/-- Checks every live grid's step.pod. -/
def State.podCheckAll (s : State) : State :=
  (s.grids.filter fun p => p.2.stag != 0 && p.2.state == .running).foldl (fun s p => (s.stepNotify p.1).podCheck p.1) s

/-- STEP_NOTICE_RECEIVE (R403): the notice's seq operands are those of the last messages of classes 2 to 5. -/
def execStepNoticeReceive (chip stag n : Nat) (seqs : List Nat) (s : State) : Result :=
  let x : StepNotice := { chip := chip, stag := stag, n := n, seqs := seqs }
  .next { s with stepNotices := s.stepNotices ++ [x] }.podCheckAll.formAll

/-- step (R91). -/
def execStep (f : FC) (ls : Lits) (s : State) : Result :=
  s.withIssue fun iss s =>
    if !(s.gridOf iss.gid).stepped then s.faultAll iss .stepMode
    else s.finish iss (1 + ls.length) [.act (.step f ls) iss.idx iss.lanes [] [] [] []]

/-- step.pod (R92, R403). -/
def execStepPod (f : FC) (ls : Lits) (s : State) : Result :=
  s.withIssue fun iss s =>
    let g := s.gridOf iss.gid
    if !g.stepped || g.stag == 0 || s.cfgVal 0x35 == 0 then s.faultAll iss .stepMode
    else s.finish iss (1 + ls.length) [.act (.stepPod f ls) iss.idx iss.lanes [] [] [] []]

/-- The commit of step and step.pod: the threads block, and the last arrival at step.pod sends the notices. -/
def commitStep (w : Wait) (iss : Issue) (idx : Nat) (s : State) : State :=
  let s := s.modGroup iss.gid fun g => { g.modThreads iss.lanes (fun _ t => t.block w) with stepPc := iss.pc, stepIdx := idx, stepHandler := iss.before.inHandler }
  let gr := (s.teamOf iss.gid).grid
  if w == .stepPod then (s.stepNotify gr).podCheck gr else s

/-- A group whose handler's threads have all executed tret or exited leaves it; the waits that stood suspended are parked again (R264,
R372). -/
def State.leaveHandler (s : State) (gid : Nat) : State :=
  let g := s.group gid
  let back := fun (a : Access) => a.gid == gid && (g.thread a.lane).status == .returned && !(g.thread a.lane).suspended.isEmpty
  let s := s.modGroup gid Group.leaveHandler
  if g.inHandler && !(s.group gid).inHandler then s.parkAgain back else s

/-- The commit of exit: the threads exit, which may complete barriers of the team and a step's arrivals (R81, R88). -/
def commitExit (iss : Issue) (s : State) : State :=
  let s := (s.modGroup iss.gid fun g =>
    g.modThreads iss.lanes fun _ t => { t with status := .exited, suspended := [] }).leaveHandler iss.gid
  let s := s.barriersComplete (s.group iss.gid).team
  let gr := (s.teamOf iss.gid).grid
  if (s.grid gr).stag != 0 then (s.stepNotify gr).podCheck gr else s

/-! ### tret (R372) -/

/-- tret (R372). -/
def execTret (f : FC) (ls : Lits) (s : State) : Result :=
  s.withIssue fun iss s =>
    if !iss.before.inHandler then s.faultAll iss .tretState
    else
      let bad := if f.a == 120 then 0 else iss.misTargets f.a iss.lanes
      if bad != 0 then s.faults iss .misaligned bad
      else
        s.finish { iss with sawTret := true } (1 + ls.length)
          [.act (.tret f ls) iss.idx iss.lanes (LaneVals.of (iss.regTarget f.a)) [] [] []]

/-- The waits of threads that no longer stand suspended are over: their parked tests go (R372). -/
def State.dropAwaits (s : State) (gid : Nat) (lanes : Lanes) : State :=
  let g := s.group gid
  { s with accesses := s.accesses.filter fun a =>
      match a.op with
      | .await .. => !(a.gid == gid && lanes.has a.lane && !(g.thread a.lane).inWait (.await a.id))
      | _ => true }

/-- The commit of tret: each thread goes to its target and waits for the rest of the handler's threads (R372). -/
def commitTret (f : FC) (iss : Issue) (lanes : Lanes) (x : LaneVals) (s : State) : State :=
  let ret := fun l (t : Thread) => t.tret (if f.a == 120 then t.epc else (x.at l).truncate 52) (f.a == 120)
  ((s.modGroup iss.gid fun g => g.modThreads lanes ret).dropAwaits iss.gid lanes).leaveHandler iss.gid

end Sys2Proof.Machine
end

