-- ==== Sys2Proof/Machine/EngineMem.lean ====
section
/-!
DEFINITION. How the engines, the drain path and the fabric read and write memory on a core's behalf (R176, R298, R304, R330): page
by page, with the checks of R169 to R176, on the visible or the shadow side of publishable pages (R299).
-/

namespace Sys2Proof.Machine

/-- What an engine's access gives: its bytes, a fault at an address, or that it must wait. -/
inductive EngR where
  | ok (data : List Byte) (s : State)
  | fail (c : FaultCode) (va : Nat) (s : State)
  | wait (s : State)
  deriving DecidableEq, Repr

/-- The state of an engine's access. -/
def EngR.state : EngR → State
  | .ok _ s | .fail _ _ s | .wait s => s

/-- An access of an engine for a core. -/
def engAccess (core pa size : Nat) (pte : BitVec 64) (op : AccessOp) : Access :=
  { id := 0, gid := engGid, lane := 0, core := core, pc := 0, idx := 0, va := 0, pa := pa, size := size, pte := pte, op := op, hint := 3 }

/-- The pieces of a range that lie in one 128-byte sector each: address and length. -/
def sectorsOf (pa n : Nat) : List (Nat × Nat) :=
  ((List.range ((pa + n - 1) / 128 + 1 - pa / 128)).map fun i =>
    let lo := max pa ((pa / 128 + i) * 128)
    (lo, min (pa + n) ((pa / 128 + i + 1) * 128) - lo)).filter fun p => p.2 != 0

/-- A line of host memory for a reader, which keeps it until it ends, so that no byte is read twice: at hand, refused, or asked for
(R310, R417). -/
def State.engLine (s : State) (who line : Nat) : Option (Option (List Byte)) × State :=
  let k := engHostKey who line
  match s.engLines.find? k with
  | some l => (some l, s)
  | none =>
    match s.hostLines.find? line with
    | some l => (some (some l), { s with engLines := s.engLines.insert k (some l) })
    | none =>
      if s.engAsked.contains k then (none, s)
      else (none, { s.send (.hostRead (engHostId + k) (line * 64) 64) with engAsked := s.engAsked ++ [k] })

/-- Bytes of host memory for a reader, line by line. -/
def State.engHostRead (s : State) (who va pa n : Nat) : EngR :=
  ((List.range ((pa + n - 1) / 64 + 1 - pa / 64)).map (· + pa / 64)).foldl (fun r line =>
    match r with
    | .ok d s =>
      match s.engLine who line with
      | (some (some l), s) =>
        let lo := max pa (line * 64)
        .ok (d ++ ((l.drop (lo - line * 64)).take (min (pa + n) (line * 64 + 64) - lo))) s
      | (some none, s) => .fail .hostAbort va s
      | (none, s) => .wait s
    | r => r) (.ok [] s)

/-- Whether a read of a write-once grain is parked until the grain is FULL. -/
def State.readParked (s : State) (g : Nat) (pte : BitVec 64) : Bool :=
  pteClass pte == 2 && tagState (s.tag g) != 7

/-- A parked read of a reader: it waits for WS_WAIT from its first attempt, then fails, until the reader ends (R176, R207). -/
def State.parkRead (s : State) (who g va : Nat) : EngR :=
  let k := who * 2 ^ 43 + g
  match s.readWaits.find? k with
  | none => .wait { s with readWaits := s.readWaits.insert k (s.clock, s.wsWait) }
  | some (t, limit) =>
    if t + limit ≤ s.clock then .fail .wsTimeout va s else .wait s

/-- A reader's wait for a grain is over. -/
def State.unparkRead (s : State) (who g : Nat) : State :=
  if s.readWaits.isEmpty then s else { s with readWaits := s.readWaits.erase (who * 2 ^ 43 + g) }

/-- Bytes of one page's part of a range, as plain loads for a core (R207, R304); `who` numbers the reader. -/
def State.engReadSeg (s : State) (who core va pa n : Nat) (pte : BitVec 64) : EngR :=
  if pteHost pte then s.engHostRead who va pa n
  else
    (sectorsOf pa n).foldl (fun r p =>
      match r with
      | .ok d s =>
        let g := grainOf p.1
        match s.loadDev core p.1 p.2 pte 3 with
        | .done s x _ => .ok (d ++ x) ((s.unparkRead who g).usePage p.1)
        | .refused s c => .fail c (va + (p.1 - pa)) (s.unparkRead who g)
        | .wait s => if s.readParked g pte then s.parkRead who g (va + (p.1 - pa)) else .wait s
      | r => r) (.ok [] s)

/-- A write of host memory by the module itself: lines that X-die 0 holds there go home first (R417, R419). -/
def State.hostPut (s : State) (pa : Nat) (bs : List Byte) (ro : Bool) : State :=
  let held := s.hostLines.filter fun l => decide (pa < l.1 * 64 + 64) && decide (l.1 * 64 < pa + bs.length)
  (held.foldl (fun (s : State) l => s.hostDrop l.1) s).send (.hostWrite 0 pa bs ro)

/-- Why a write of a whole write-once grain by an engine is refused: it is legal only on an EMPTY grain (R234). -/
def State.wholeWsFault (s : State) (core pa n : Nat) (pte : BitVec 64) (g : Nat) : Option FaultCode :=
  let t := s.tag g
  if pteClass pte != 2 || chipOf (g * 512) != s.chip || g * 512 < pa || pa + n < g * 512 + 512 || tagClass t != 2 then none
  else wholeWsRefused t s.chip (core / 4)

/-- The pieces in which an engine writes a span of a page: sectors, but a whole grain of a write-once page of another home in one piece, so that
its home sees it whole (R234). -/
def State.enginePieces (s : State) (pa n : Nat) (pte : BitVec 64) : List (Nat × Nat) :=
  (sectorsOf pa n).filterMap fun p =>
    let lo := p.1 / 512 * 512
    if pteClass pte == 2 && chipOf pa != s.chip && pa ≤ lo && lo + 512 ≤ pa + n then if p.1 == lo then some (lo, 512) else none
    else some p

/-- A store that another home performs for an engine: asked for once, then answered (R233, R234). -/
def State.engStoreAway (s : State) (core va pa : Nat) (pte : BitVec 64) (bs : List Byte) : EngR :=
  match s.engAnswers.find? (engStoreKey core pa) with
  | some 0 => .ok [] s
  | some c => .fail ((answerCode c).getD .poison) va s
  | none =>
    if s.accesses.any fun a => a.gid == engGid && a.event.isNone && a.core == core && a.pa == pa then .wait s
    else .wait (s.submit { engAccess core pa bs.length pte (.store bs) with va := va })

/-- The answers to an engine's stores to a span have been used. -/
def State.engAnswered (s : State) (core pa n : Nat) : State :=
  if s.engAnswers.isEmpty then s
  else { s with engAnswers := s.engAnswers.filter fun p => p.1 % 2048 != core || p.1 / 2048 < pa || pa + n ≤ p.1 / 2048 }

/-- An engine has written a whole grain: its poison goes, at its home too (R176). -/
def State.wholeWritten (s : State) (g : Nat) : State :=
  let s := if chipOf (g * 512) != s.chip && tagPoison (s.tag g) then s.sendCoh (chipOf (g * 512)) .poison (g * 512) 0 0 [0] else s
  s.modTag g fun t => tagSet t 10 10 0

/-- Writes one page's part of a range. -/
def State.engWriteSeg (s : State) (core va pa : Nat) (pte : BitVec 64) (bs : List Byte) : EngR :=
  if pteHost pte then
    .ok [] (s.hostPut pa bs (bitAt (s.cfgVal 0x55) 0))
  else
    let r : EngR := (s.enginePieces pa bs.length pte).foldl (fun (r : EngR) (p : Nat × Nat) =>
      match r with
      | .ok d s =>
        let x := (bs.drop (p.1 - pa)).take p.2
        match if p.1 % 512 == 0 then s.wholeWsFault core pa bs.length pte (grainOf p.1) else none with
        | some c => .fail c (va + (p.1 - pa)) s
        | none =>
          if s.storeAway p.1 pte then s.engStoreAway core (va + (p.1 - pa)) p.1 pte x
          else
            match s.storeDev (engAccess core p.1 p.2 pte (.store x)) x with
            | .done s _ _ => .ok d (s.usePage p.1)
            | .refused s c => .fail c (va + (p.1 - pa)) s
            | .wait s => .wait s
      | r => r) (EngR.ok [] s)
    match r with
    | .ok d s =>
      let full := (grainsOf [(pa, bs.length)]).filter fun g => decide (pa ≤ g * 512) && decide (g * 512 + 512 ≤ pa + bs.length)
      .ok d ((full.foldl State.wholeWritten s).engAnswered core pa bs.length)
    | .fail c va s => .fail c va (s.engAnswered core pa bs.length)
    | r => r

/-- The physical address an engine uses on a page: the visible side, or the shadow side of a publishable page (R299). -/
def State.engPa (s : State) (shadow : Bool) (g : Seg) : Nat :=
  if shadow && pteBit g.leaf.pte 15 then g.leaf.pa (!s.sideOf g.leaf) g.va else g.pa

/-- Reads a range of virtual memory. -/
def State.engRead (s : State) (who : Nat) (c : Ctx) (core asid va n : Nat) (sysRight : Bool) : EngR :=
  if n == 0 then .ok [] s
  else
    match s.range c core asid va n with
    | (.ok segs, s) =>
      segs.foldl (fun r g =>
        match r with
        | .ok d s =>
          match s.checkLeaf g.leaf g.pa core .engineRead sysRight 0 with
          | some c => .fail c g.va s
          | none =>
            match s.engReadSeg who core g.va g.pa g.len g.leaf.pte with
            | .ok x s => .ok (d ++ x) s
            | r => r
        | r => r) (.ok [] s)
    | (.fail c va, s) => .fail c va s
    | (.away g w, s) => .wait (s.request g w)

/-- What an engine writes: the shadow side of a destination, a drain's destination, or a record that a program sees (R286, R298, R299). -/
inductive DestKind where
  | shadow
  | drain
  | record
  deriving DecidableEq, Repr

/-- What a destination page of an engine must be: publishable and neither WS nor IP when the write goes to a shadow side (R304), and
never IP for a drain (R287); the owner of an IP page may have a record there (Table 8·4). -/
def destFault (k : DestKind) (pte : BitVec 64) : Option FaultCode :=
  match k with
  | .shadow => if !pteBit pte 15 || 2 ≤ pteClass pte then some .engineDest else none
  | .drain => if pteClass pte == 3 then some .classOp else none
  | .record => none

/-- Writes one page-sized part of a range after its checks; `s` has made the leaf's entry writable for the dirty bit. -/
def State.engPut (s : State) (c : Ctx) (core asid : Nat) (k : DestKind) (sysRight : Bool) (g : Seg) (bs : List Byte) : EngR :=
  match s.checkLeaf g.leaf g.pa core .engineWrite sysRight 0, destFault k g.leaf.pte with
  -- a page that no core may name as the destination is refused as such, whoever owns it (R287)
  | some .moveRights, some c => .fail c g.va s
  | some c, _ => .fail c g.va s
  | none, some c => .fail c g.va s
  | none, none => (s.setDirty c core asid g.va g.leaf).engWriteSeg core g.va (s.engPa (k == .shadow) g) g.leaf.pte bs

/-- The parts of a range by 4 KiB page of virtual memory: address and length. -/
def pagesOf (va n : Nat) : List (Nat × Nat) :=
  ((List.range ((va + n - 1) / 4096 + 1 - va / 4096)).map fun i =>
    let lo := max va ((va / 4096 + i) * 4096)
    (lo, min (va + n) ((va / 4096 + i + 1) * 4096) - lo)).filter fun p => p.2 != 0

/-- Writes a range of virtual memory page by page. The pages that pass are written and the rest are not when `goOn`; otherwise the
first failure stops it. Answers the first failure. -/
def State.engWrite (s : State) (c : Ctx) (core asid va : Nat) (k : DestKind) (sysRight goOn : Bool) (bs : List Byte) : EngR :=
  (pagesOf va bs.length).foldl (fun r p =>
    let go := fun (s : State) (old : Option (FaultCode × Nat)) =>
      let keep := fun (r : EngR) => match r, old with
        | .ok _ s, some (c, va) => EngR.fail c va s
        | .fail _ _ s, some (c, va) => .fail c va s
        | r, _ => r
      match s.translateStore c core asid p.1 with
      | (.leaf l pa, s) =>
        keep (s.engPut c core asid k sysRight { va := p.1, pa := pa, len := p.2, leaf := l } ((bs.drop (p.1 - va)).take p.2))
      | (.absent, s) => keep (.fail .pageNotPresent p.1 s)
      | (.malformed, s) => keep (.fail .pageProt p.1 s)
      | (.away g w, s) => .wait (s.request g w)
    match r with
    | .ok _ s => go s none
    | .fail c va s => if goOn then go s (some (c, va)) else r
    | r => r) (.ok [] s)

/-- The number of a command that reads. -/
def Command.reader (c : Command) : Nat :=
  match c.event, c.walk with
  | some e, _ => e
  | _, some (ctx, slot) => 2 ^ 49 + ctx * 16 + slot
  | _, _ => 2 ^ 49 + c.gid

/-- Reads through a handle at an offset. -/
def State.handleRead (s : State) (who : Nat) (c : Ctx) (core : Nat) (h : HandleBits) (off n : Nat) : EngR :=
  s.engRead who c core (handleAsid h) (vaOf h off) n (handleHas h 7)

/-- Writes through a handle at an offset. -/
def State.handleWrite (s : State) (c : Ctx) (core : Nat) (h : HandleBits) (off : Nat) (k : DestKind) (goOn : Bool) (bs : List Byte) :
    EngR :=
  s.engWrite c core (handleAsid h) (vaOf h off) k (handleHas h 7) goOn bs

/-- The range that bytes of virtual memory take (R279, R300). -/
def memRange (asid lo n : Nat) : Range := { space := 0, owner := asid, lo := lo, hi := lo + n }

/-- The range that bytes of a team's window take. -/
def bufRange (team space core lo n : Nat) : Range := { space := space, owner := bufOwner team space core, lo := lo, hi := lo + n }

end Sys2Proof.Machine
end

