-- ==== Sys2Proof/Machine/Matrix.lean ====
section
/-!
DEFINITION. The matrix instructions (R266 to R296): gangs and the rendezvous, the reservation table, the block passes with their
checks, and the drain path.
-/

namespace Sys2Proof.Machine

/-! ### Operands of format E -/

/-- The address that a format E instruction forms from A and imm12 in a unit (R182, R288). -/
def Issue.addrE (iss : Issue) (f : FE) (ls : Lits) (unit : Nat) : Int := offsetOf (iss.uniformM f.a (litAt ls 0)) f.imm unit

/-- The uniform B operand. -/
def Issue.uniformB (iss : Issue) (f : FE) (ls : Lits) : Word := iss.uniformM f.b (litB ls f.a)

/-- Why a record at an address of the issuing core's A-buffer window cannot be read, if it cannot: its extent first, then its
alignment (R285, R304). -/
def State.recordFault (s : State) (iss : Issue) (a : Int) (n align : Nat) : Option FaultCode :=
  if a < 0 || (((s.teamOf iss.gid).window 1 : Nat) : Int) < a + n then some .bufBounds
  else if a % (align : Int) != 0 then some .misaligned
  else none

/-- A record of n bytes in the issuing core's A-buffer window, as a little-endian number. -/
def State.record (s : State) (iss : Issue) (a n : Nat) : Nat :=
  s.bufNat (s.group iss.gid).team 1 (unitOf 1 iss.before.core) a n

/-- Whether a command may read its record: every earlier access of the bundle's threads has been performed (R211). -/
def State.mayRead? (s : State) (iss : Issue) : Bool := s.accessesDone iss.gid iss.lanes

/-! ### gang (R274, R289) -/

/-- The members that a GANG value lists. -/
def gangMembers (x : Nat) : List Nat := (List.range (bits x 32 30)).map fun i => bits x (5 * i + 4) (5 * i)

/-- The tag of a GANG value. -/
def gangTag (x : Nat) : Nat := bits x 40 33

/-- Whether a non-zero GANG value breaks a rule of R289. -/
def gangBad (x groups own : Nat) : Bool :=
  let n := bits x 32 30
  let ms := gangMembers x
  n < 2 || 6 < n || !ms.Nodup || (ms.any fun m => groups ≤ m) || bits x 29 (5 * n) != 0 || !ms.contains own ||
    x / 2 ^ 41 != 0

/-- gang (R289). -/
def execGang (f : FE) (ls : Lits) (s : State) : Result :=
  s.withIssue fun iss s =>
    let x := iss.uniform f.a (litAt ls 0)
    if x != 0 && gangBad x.toNat (s.teamOf iss.gid).groups.length iss.before.index then s.faultAll iss .gangMember
    else s.finish iss (2 + ls.length) [.setGang x]

/-! ### The format word and the records (R271, R272) -/

/-- The bits of an element of a matrix format (R267). -/
def mxBits (code : Nat) : Nat := if code ≤ 1 then 16 else if code ≤ 3 then 8 else 4

/-- A matrix format (Table 12·1). -/
def mxFmt (code : Nat) : FpFmt :=
  match code with
  | 0 => bf16
  | 1 => fp16
  | 2 => e4m3
  | 3 => e5m2
  | _ => e2m1

/-- Whether a format word is legal (R271). -/
def formatLegal (x : Nat) (sparse : Bool) : Bool :=
  let a := bits x 2 0
  let b := bits x 6 4
  let sp := bits x 10 9
  a ≤ 4 && b ≤ 4 && mxBits a == mxBits b && !(mxBits a == 16 && bitAt x 8) && (if sparse then sp == 1 || sp == 2 else sp == 0) &&
    !bitAt x 3 && !bitAt x 7 && x / 2 ^ 11 == 0

/-- The kept values of sixteen under a format word; 16 when dense. -/
def keptOf (x : Nat) : Nat :=
  match bits x 10 9 with
  | 1 => 8
  | 2 => 4
  | _ => 16

/-- The bytes of n elements of a format. -/
def elemBytes (code n : Nat) : Nat := n * mxBits code / 8

/-- The bytes of one column of B in its slice: values, then indices (R268). -/
def columnBytes (x k : Nat) : Nat × Nat :=
  if bits x 10 9 == 0 then (elemBytes (bits x 6 4) k, 0) else (elemBytes (bits x 6 4) (k / 16 * keptOf x), k / 16 * keptOf x / 2)

/-- The rows of a tile of 64 rows as ranges of the C-buffer. -/
def tileRanges (team caddr cstride : Nat) : List Range :=
  (List.range 64).map fun i => bufRange team 2 0 (caddr + i * cstride) 256

/-- Whether a tile is placed as R272 asks of the C record and lies in the team's window. -/
def Team.tileOk (t : Team) (caddr cstride : Nat) : Bool :=
  caddr % 256 == 0 && cstride % 256 == 0 && 256 ≤ cstride && decide (caddr + 63 * cstride + 256 ≤ t.window 2)

/-- Whether a member's A and A-scale records are well formed (R272), from its record block as a number. -/
def memberOk (r x k : Nat) (window : Nat) : Bool :=
  let addr := bits r 31 0
  let stride := bits r 47 32
  let row0 := bits r 53 48
  let nrows := bits r 62 56
  let saddr := bits r 287 256
  addr % 64 == 0 && stride % 64 == 0 && bits r 55 54 == 0 && bits r 255 63 == 0 && 1 ≤ nrows && row0 + nrows ≤ 64 &&
    decide (addr + (nrows - 1) * stride + elemBytes (bits x 2 0) k ≤ window) &&
    (!bitAt x 8 || (bits r 511 288 == 0 && saddr % 64 == 0 && decide (saddr + nrows * (k / 256) ≤ window)))

/-- Whether the shared B, B-scale and C records are well formed (R272). -/
def sharedOk (t : Team) (r x : Nat) (sparse : Bool) : Bool :=
  let b := bits r 767 512
  let base := bits b 17 0
  let k := bits b 49 32
  let ibase := bits b 81 64
  let sbase := bits r 785 768
  let c := bits r 1279 1024
  let caddr := bits c 19 0
  let cstride := bits c 39 20
  let status := bits c 59 40
  let (vb, ib) := columnBytes x k
  bits b 31 18 == 0 && bits b 63 50 == 0 && bits b 255 82 == 0 && base % 8 == 0 && ibase % 8 == 0 && (sparse || ibase == 0) &&
    64 ≤ k && k ≤ 131072 && k % (if mxBits (bits x 2 0) == 16 then 64 else 256) == 0 &&
    decide (base + vb ≤ t.window 3) && (!sparse || decide (ibase + ib ≤ t.window 3)) &&
    (!bitAt x 8 || (bits r 1023 786 == 0 && decide (sbase + k / 256 ≤ t.window 3))) &&
    bits c 255 60 == 0 && t.tileOk caddr cstride && status % 16 == 0 && decide (status + 16 ≤ t.window 2) &&
    !Range.meet [bufRange 0 2 0 status 16] (tileRanges 0 caddr cstride)

/-! ### The rendezvous (R275 to R277) -/

/-- What an arrived clause asks: its opcode, destination, format word of each lane and record address. -/
structure Arrival where
  sparse : Bool
  vd : Nat
  fmts : List Word
  rec' : Int

/-- The arrival that a clause at a latch holds. -/
def Issue.arrival (iss : Issue) : Arrival :=
  let get := fun (sparse : Bool) (f : FE) (ls : Lits) (x : LaneVals) =>
    ({ sparse := sparse, vd := f.d.toNat, fmts := (Lanes.list iss.lanes).map x.at, rec' := iss.addrE f ls 32 } : Arrival)
  match iss.effects with
  | .act (.mmx f ls) _ _ x _ _ _ :: _ => get false f ls x
  | .act (.mmxs f ls) _ _ x _ _ _ :: _ => get true f ls x
  | _ => { sparse := false, vd := 0, fmts := [], rec' := 0 }

/-- The key of the latch that a group's arrival takes, beside its team: GANG.tag (R275). -/
def Issue.latchTag (iss : Issue) : Nat := gangTag iss.before.gang.toNat

/-- Whether a group runs the operation alone: GANG.n is 0 (R274). -/
def Issue.alone (iss : Issue) : Bool := bits iss.before.gang.toNat 32 30 == 0

/-- The members that an arrival's GANG lists. -/
def Issue.gangList (iss : Issue) : List Nat := if iss.alone then [iss.before.index] else gangMembers iss.before.gang.toNat

/-- A member's record block, when it is aligned and lies in its window. -/
def State.recordBlock (s : State) (iss : Issue) : Option Nat :=
  let a := iss.arrival.rec'
  if (s.recordFault iss a 160 32).isSome then none else some (s.record iss a.toNat 160)

/-- The row ranges that a member's A record and A-scale record name. -/
def memberReads (team core r x k : Nat) : List Range :=
  let rows := bits r 62 56
  ((List.range rows).map fun i => bufRange team 1 core (bits r 31 0 + i * bits r 47 32) (elemBytes (bits x 2 0) k)) ++
    (if bitAt x 8 then [bufRange team 1 core (bits r 287 256) (rows * (k / 256))] else [])

/-- Whether the members' rows cover 0 to 63 exactly once. -/
def rowsCover (rs : List Nat) : Bool :=
  (rs.foldl (fun n r => n + bits r 62 56) 0 == 64) &&
    (List.range 64).all fun i => (rs.filter fun r => decide (bits r 53 48 ≤ i) && decide (i < bits r 53 48 + bits r 62 56)).length == 1

/-- MATRIX_RENDEZVOUS: the checks of R276 in order, and the operation that passes them. -/
def State.rendezvousCheck (s : State) (cluster tid : Nat) (arr : List Issue) : Except FaultCode Work :=
  let t := s.team tid
  let as := arr.map Issue.arrival
  let gangs := arr.map fun i => i.before.gang
  let sparse := (as.headD { sparse := false, vd := 0, fmts := [], rec' := 0 }).sparse
  let fmts := as.flatMap (·.fmts)
  let fmt := fmts.headD 0
  let x := fmt.toNat
  let blocks := arr.map fun i => (i, s.recordBlock i)
  let rs := blocks.filterMap (·.2)
  let r0 := rs.headD 0
  let k := bits r0 561 544
  if (gangs.any fun g => some g != gangs.head?) || as.any fun a => a.sparse != sparse then .error .gangMember
  else if fmts.any fun y => y != fmt then .error .formatDivergence
  else if !formatLegal x sparse then .error .matrixFormat
  else if rs.any fun r => bits r 1279 512 != bits r0 1279 512 then .error .gangMember
  else if (blocks.any fun b => b.2.isNone) || !sharedOk t r0 x sparse || (rs.any fun r => !memberOk r x k (t.window 1)) ||
      !rowsCover rs then .error .matrixRecord
  else
    let c := bits r0 1279 1024
    let caddr := bits c 19 0
    let cstride := bits c 39 20
    let (vb, ib) := columnBytes x k
    let b := bits r0 767 512
    let tile := tileRanges tid caddr cstride
    .ok
      { kind := .entry, team := tid, cluster := cluster, prio := t.prio, sparse := sparse, fmt := fmt, base := bits b 17 0, k := k,
        ibase := bits b 81 64, sbase := bits r0 785 768, caddr := caddr, cstride := cstride, status := bits c 59 40,
        members := (arr.zip rs).map fun p =>
          { gid := p.1.gid, core := p.1.before.core, event := 0, addr := bits p.2 31 0, stride := bits p.2 47 32,
            row0 := bits p.2 53 48, nrows := bits p.2 62 56, saddr := bits p.2 287 256 }
        reads := ((arr.zip rs).flatMap fun p => memberReads tid p.1.before.core p.2 x k) ++
          [bufRange tid 3 0 (bits b 17 0) vb, bufRange tid 3 0 (bits b 81 64) ib] ++
          (if bitAt x 8 then [bufRange tid 3 0 (bits r0 785 768) (k / 256)] else []) ++ tile
        writes := tile ++ [bufRange tid 2 0 (bits c 59 40) 16] }

/-- The threads of a group that has arrived leave their wait. -/
def State.unlatch (s : State) (iss : Issue) : State :=
  s.modGroup iss.gid fun g => g.modThreads iss.lanes fun _ t => t.endWait fun w => match w with
    | .rendezvous .. => true
    | _ => false

/-- A fault raised precisely in a member that has arrived: its clause is discarded (R276). -/
def State.failArrival (s : State) (iss : Issue) (code : FaultCode) : State :=
  let s := s.unlatch iss
  let rest := s.issuing
  { ({ s with issuing := iss :: rest }.raise iss code iss.lanes) with issuing := rest }

/-- The latches of a cluster. -/
def State.clusterLatches (s : State) (q : Nat) : List Latch := s.latches.get q []

/-- Replaces the latches of a cluster. -/
def State.setLatches (s : State) (q : Nat) (l : List Latch) : State :=
  { s with latches := if l.isEmpty then s.latches.erase q else s.latches.insert q l }

/-- Whether a latch has a key. -/
def Latch.isKey (l : Latch) (team tag : Nat) : Bool := l.team == team && l.tag == tag

/-- Fails the rendezvous of a latch in every member that has arrived, and frees it. -/
def State.failLatch (s : State) (q : Nat) (l : Latch) (code : FaultCode) : State :=
  l.arrivals.foldl (fun s i => s.failArrival i code) (s.setLatches q ((s.clusterLatches q).filter fun m => !m.isKey l.team l.tag))

/-- Completes a latch's rendezvous when every listed group has arrived, or at once when an arrival's GANG.n is 0: the checks are made, and
a passing operation waits for its entry (R275, R276). -/
def State.rendezvous (s : State) (q team tag : Nat) : State :=
  match (s.clusterLatches q).find? fun l => l.isKey team tag with
  | none => s
  | some l =>
    let here := l.arrivals.map fun i => i.before.index
    let listed := (l.arrivals.head?.map Issue.gangList).getD []
    if l.work.isSome || listed.isEmpty || !(listed.all here.contains || l.arrivals.any Issue.alone) then s
    else
      match s.rendezvousCheck q team l.arrivals with
      | .error c => s.failLatch q l c
      | .ok w => s.setLatches q ((s.clusterLatches q).map fun m => if m.isKey team tag then { m with work := some w } else m)

/-- An arrival enters the latch of its key, takes a free one, or waits for one (R275). -/
def State.joinLatch (s : State) (q : Nat) (iss : Issue) : State :=
  let team := iss.before.team
  let tag := iss.latchTag
  let ls := s.clusterLatches q
  let wait := { s with latchWaits := s.latchWaits.insert q (s.latchWaits.get q [] ++ [iss]) }
  match ls.find? fun l => l.isKey team tag with
  | some l =>
    if l.work.isSome then wait
    else (s.setLatches q (ls.map fun m => if m.isKey team tag then { m with arrivals := m.arrivals ++ [iss] } else m)).rendezvous q team tag
  | none =>
    if ls.length < 8 then (s.setLatches q (ls ++ [{ team := team, tag := tag, arrivals := [iss] }])).rendezvous q team tag else wait

/-- mmx and mmxs: the bundle blocks, releases its slot and arrives (R275, R291). An instruction that follows in the clause is looked at
first, and its framing fault is the clause's. -/
def matrixExec (i : Instr) (f : FE) (ls : Lits) (s : State) : Result :=
  s.withIssue fun iss s =>
    let e : Effect := .act i iss.idx iss.lanes (iss.lanesOf (iss.operand (intLayout 5) f.b 0)) [] [] []
    if !(iss.words.drop (2 + ls.length)).isEmpty then s.finish iss (2 + ls.length) [e]
    else if !s.mayRead? iss then .next s.stall
    else
      let q := iss.before.cluster
      let iss := iss.hold [e]
      let s := { s with issuing := s.issuing.drop 1 }
      let s := s.modGroup iss.gid fun g =>
        { g.modThreads iss.lanes (fun _ t => t.block (.rendezvous q iss.before.team)) with
          bundles := g.bundles.filter fun b => b.pc != iss.pc }
      .next (s.joinLatch q iss)

/-- mmx (R291). -/
def execMmx (f : FE) (ls : Lits) (s : State) : Result := matrixExec (.mmx f ls) f ls s
/-- mmxs (R291). -/
def execMmxs (f : FE) (ls : Lits) (s : State) : Result := matrixExec (.mmxs f ls) f ls s

/-- RENDEZVOUS_LATCH_GRANT: a member that waits for a latch takes one that is free, or the one that its key now holds (R275). -/
def execRendezvousLatchGrant (cluster : Nat) (s : State) : Result :=
  match s.latchWaits.get cluster [] with
  | [] => .next s
  | iss :: rest => .next (({ s with latchWaits := if rest.isEmpty then s.latchWaits.erase cluster else s.latchWaits.insert cluster rest }).joinLatch cluster iss)

/-- A group's arrival is withdrawn by its trap entry or forced save: its clause is discarded and the others stay (R277). -/
def State.withdraw (s : State) (gid : Nat) : State :=
  let mine := (s.latches.flatMap fun p => p.2.flatMap (·.arrivals)) ++ s.latchWaits.flatMap (·.2)
  match mine.find? fun i => i.gid == gid with
  | none => s
  | some iss =>
    let strip := fun (l : Latch) =>
      if l.arrivals.any fun i => i.gid == gid then { l with arrivals := l.arrivals.filter fun i => i.gid != gid, work := none } else l
    let s := s.unlatch iss
    { s with
      latches := (s.latches.map fun p => (p.1, (p.2.map strip).filter fun l => !l.arrivals.isEmpty)).filter fun p => !p.2.isEmpty
      latchWaits := (s.latchWaits.map fun p => (p.1, p.2.filter fun i => i.gid != gid)).filter fun p => !p.2.isEmpty }

/-- A group that retires while the latch of a gang that lists it is held fails that rendezvous (R276). -/
def State.latchMemberRetired (s : State) (gid : Nat) : State :=
  let g := s.group gid
  ((s.clusterLatches g.cluster).filter fun l => l.team == g.team &&
    ((l.arrivals.head?.map Issue.gangList).getD []).contains g.index && !(l.arrivals.any fun i => i.gid == gid)).foldl
    (fun s l => s.failLatch g.cluster l .gangMember) s

/-! ### Placement (R275, R278, R283) -/

/-- The entries that a cluster's reservation table holds. -/
def State.entries (s : State) (q : Nat) : List (Nat × Work) :=
  s.works.filter fun p => p.2.cluster == q && p.2.kind == .entry && p.2.state != 5

/-- Enters a work item in the order of acceptance; answers its number. -/
def State.addWork (s : State) (w : Work) : Nat × State :=
  (s.nextId, { s with nextId := s.nextId + 1, works := s.works.insert s.nextId { w with since := s.clock, placed := s.nextId } })

/-- The commit of one member's clause: its ticket, its deferred event and its PC (R283). -/
def State.commitMember (s : State) (iss : Issue) (ticket : Nat) (wid cluster : Nat) : Nat × State :=
  let s := (s.unlatch iss).writeV iss.gid iss.arrival.vd iss.lanes (iss.lanesOf fun _ => BitVec.ofNat 64 ticket)
  let (e, s) := s.addEvent { iss.event iss.idx iss.lanes with wait := .matrix cluster wid }
  let s := s.modGroup iss.gid fun g => g.modThreads iss.lanes fun _ t => { t with pc := iss.nextPc }
  (e, s.form iss.gid)

/-- MATRIX_ENTRY_PLACEMENT: with an entry free, the members commit together and the latch is freed (R275). -/
def execMatrixEntryPlacement (cluster team tag : Nat) (s : State) : Result :=
  match (s.clusterLatches cluster).find? fun l => l.isKey team tag with
  | none => .next s
  | some l =>
    match l.work with
    | none => .next s
    | some w =>
      if 16 ≤ (s.entries cluster).length then .next s
      else
        let ticket := (s.team team).mticket
        let (id, s) := s.addWork { w with ticket := ticket, gid := (l.arrivals.head?.map (·.gid)).getD 0 }
        let s := s.modTeam team fun t => { t with mticket := (t.mticket + 1) % 2 ^ 16 }
        let (es, s) := l.arrivals.foldl (fun (p : List Nat × State) i =>
          let (e, s) := p.2.commitMember i ticket id cluster
          (p.1 ++ [e], s)) (([] : List Nat), s)
        let s := { s with works := s.works.modify id fun w =>
          { w with members := (w.members.zip es).map fun (p : Member × Nat) => { p.1 with event := p.2 } } }
        .next (s.setLatches cluster ((s.clusterLatches cluster).filter fun m => !m.isKey team tag))

/-! ### One block (R134 to R138, R282) -/

/-- The elements that bytes hold, low nibble first (R267). -/
def unpackElems (code : Nat) (bs : List Byte) : List FpVal :=
  let F := mxFmt code
  match mxBits code with
  | 4 => bs.flatMap fun b => [F.val (b.toNat % 16), F.val (b.toNat / 16)]
  | 8 => bs.map fun b => F.val b.toNat
  | _ => (List.range (bs.length / 2)).map fun i => F.val (ofBytes ((bs.drop (2 * i)).take 2))

/-- The scale of a block: `none` when it marks the block (R134, R135). -/
def blockScale (b : Byte) : Option Int := if b == 0x80 then none else some b.toInt

/-- A row of A in one block: its scale and its elements. -/
abbrev RowBlock := Option Int × List FpVal

/-- A column of B in one block: its scale and at each position the kept values. -/
abbrev ColBlock := Option Int × List (List FpVal)

/-- The length of block b (R136). -/
def blockLen (k b : Nat) : Nat := min 256 (k - 256 * b)

/-- Row i of A in block b. -/
def State.rowBlock (s : State) (w : Work) (b i : Nat) : RowBlock :=
  let x := w.fmt.toNat
  let code := bits x 2 0
  match w.members.find? fun m => decide (m.row0 ≤ i) && decide (i < m.row0 + m.nrows) with
  | none => (none, [])
  | some m =>
    let u := unitOf 1 m.core
    let sc := if bitAt x 8 then
        blockScale ((s.team w.team).bufByte 1 u false (m.saddr + (i - m.row0) * (w.k / 256) + b))
      else some 0
    (sc, unpackElems code (s.bufRead w.team 1 u false (m.addr + (i - m.row0) * m.stride + elemBytes code (256 * b))
      (elemBytes code (blockLen w.k b))))

/-- Column c of B in block b: under mmxs the kept values stand at the positions that their indices name (R268). -/
def State.colBlock (s : State) (w : Work) (b c : Nat) : ColBlock :=
  let x := w.fmt.toNat
  let code := bits x 6 4
  let n := blockLen w.k b
  let sc := if bitAt x 8 then blockScale ((s.team w.team).bufByte 3 c false (w.sbase + b)) else some 0
  if !w.sparse then
    (sc, (unpackElems code (s.bufRead w.team 3 c false (w.base + elemBytes code (256 * b)) (elemBytes code n))).map fun v => [v])
  else
    let N := keptOf x
    let g := 16 * b
    let vals := unpackElems code (s.bufRead w.team 3 c false (w.base + elemBytes code (g * N)) (elemBytes code (n / 16 * N)))
    let idx := (s.bufRead w.team 3 c false (w.ibase + g * N / 2) (n / 16 * N / 2)).flatMap fun y => [y.toNat % 16, y.toNat / 16]
    let placed := (vals.zip idx).zipIdx.map fun p => (p.2 / N * 16 + p.1.2, p.1.1)
    (sc, (List.range n).map fun k => (placed.filter fun p => p.1 == k).map (·.2))

/-- A block sum of one cell (R136, R137): no contribution, NaN, an infinity, or an exact number of 2^−320 with whether every product
is a negative zero. -/
inductive CellSum where
  | none
  | nan
  | inf (neg : Bool)
  | fin (negZero : Bool) (x : Int)
  deriving DecidableEq, Repr

/-- A finite value times 2^s as a number of 2^−160; exact, since no element lies below 2^−160. -/
def fixedOf (v : FpVal) (s : Int) : Int :=
  match v with
  | .fin neg m e => (if neg then -1 else 1) * ((m * 2 ^ (e + s + 160).toNat : Nat) : Int)
  | _ => 0

/-- The block sum of one cell. -/
def cellSum (row : RowBlock) (col : ColBlock) : CellSum :=
  match row.1, col.1 with
  | some sa, some sb =>
    let ps := (row.2.zip col.2).flatMap fun p => p.2.map fun y => (p.1, y)
    let infs := (ps.filter fun p => p.1.isInf || p.2.isInf).map fun p => p.1.neg != p.2.neg
    if ps.any fun p => p.1.isNan || p.2.isNan || (p.1.isInf && p.2.isZero) || (p.1.isZero && p.2.isInf) then .nan
    else
      match infs with
      | n :: ns => if ns.any (· != n) then .nan else .inf n
      | [] => .fin (ps.all fun p => (p.1.isZero || p.2.isZero) && p.1.neg != p.2.neg)
          (ps.foldl (fun a p => a + fixedOf p.1 sa * fixedOf p.2 sb) 0)
  | _, _ => .none

/-- The number in a finite sum. -/
def CellSum.num : CellSum → Int
  | .fin _ x => x
  | _ => 0

/-- Adds to a finite sum. -/
def CellSum.add (c : CellSum) (d : Int) : CellSum :=
  match c with
  | .fin z x => .fin z (x + d)
  | c => c

/-- The value of a sum. -/
def CellSum.val : CellSum → FpVal
  | .none => .fin false 0 0
  | .nan => .nan false
  | .inf n => .inf n
  | .fin z x => if x == 0 then .fin z 0 0 else .fin (decide (x < 0)) x.natAbs (-320)

/-- One element of C after a block (R136): a cell without a contribution keeps its bits. -/
def addCell (c : Nat) (x : CellSum) : Nat :=
  match x with
  | .none => c
  | x => (fp32.addVal .rne (fp32.val c) x.val).bits

/-- Whether a block has a used element that is NaN or infinite: it is added without a check (R282). -/
def uncheckedBlock (rows : List RowBlock) (cols : List ColBlock) : Bool :=
  let bad := fun (v : FpVal) => v.isNan || v.isInf
  let liveRows := rows.filter fun r => r.1.isSome
  let liveCols := cols.filter fun c => c.1.isSome
  (liveCols.any fun c => !liveRows.isEmpty && c.2.any fun y => y.any bad) ||
    liveRows.any fun r => r.2.any bad && liveCols.any fun c => (r.2.zip c.2).any fun p => bad p.1 && !p.2.isEmpty

/-- a′ or b′ at each position of a row or column (R282); a marked one is zero. -/
def fixedRow (r : RowBlock) (n : Nat) : List Int :=
  match r.1 with
  | some s => r.2.map fun v => fixedOf v s
  | none => List.replicate n 0

/-- b′ at each position of a column: the kept values that name it. -/
def fixedCol (c : ColBlock) (n : Nat) : List Int :=
  match c.1 with
  | some s => c.2.map fun vs => vs.foldl (fun a v => a + fixedOf v s) 0
  | none => List.replicate n 0

/-- The exact product of two lists of numbers of 2^−160, as a number of 2^−320. -/
def dotFixed (x y : List Int) : Int := (x.zip y).foldl (fun a p => a + p.1 * p.2) 0

/-- The sum of lists, position by position. -/
def sumLists (n : Nat) (xs : List (List Int)) : List Int :=
  xs.foldl (fun a x => (a.zip x).map fun p => p.1 + p.2) (List.replicate n 0)

/-- The checksum row and column of R282. -/
def checksums (n : Nat) (rows : List RowBlock) (cols : List ColBlock) (S : List (List CellSum)) : List Int × List Int :=
  let a := rows.map fun r => fixedRow r n
  let b := cols.map fun c => fixedCol c n
  let sa := sumLists n a
  let sb := sumLists n b
  let r := (b.zipIdx).map fun p => S.foldl (fun t row => t + (row.getD p.2 .none).num) 0 - dotFixed sa p.1
  let q := (a.zip S).map fun p => (p.2.foldl (fun t c => t + c.num) 0) - dotFixed p.1 sb
  (r, q)

/-- What a pass's check decides (R282): the sums to add, whether the block was checked, the correction, or a stop. -/
inductive PassResult where
  | add (S : List (List CellSum)) (unchecked : Bool) (corrected : Option (Nat × Nat))
  | stop
  deriving DecidableEq, Repr

/-- The positions of the non-zero numbers of a list. -/
def nonzeros (x : List Int) : List (Nat × Int) := (x.zipIdx.filter fun p => p.1 != 0).map fun p => (p.2, p.1)

/-- Changes one cell of a block of sums. -/
def bumpCell (S : List (List CellSum)) (i j : Nat) (d : Int) : List (List CellSum) :=
  S.zipIdx.map fun p => if p.2 == i then p.1.zipIdx.map fun c => if c.2 == j then c.1.add d else c.1 else p.1

/-- The check of a block's sums. -/
def checkPass (n : Nat) (rows : List RowBlock) (cols : List ColBlock) (S : List (List CellSum)) : PassResult :=
  if uncheckedBlock rows cols then .add S true none
  else
    let (r, q) := checksums n rows cols S
    match nonzeros q, nonzeros r with
    | [], [] => .add S false none
    | [(i, d)], [(j, e)] => if d == e then .add (bumpCell S i j (-d)) false (some (i, j)) else .stop
    | _, _ => .stop

/-- The test flip of inj.mat as a cell and a number of 2^−320 (R390). -/
def flipOf (p : Nat) : Nat × Nat × Int :=
  let wt : Int := ((2 ^ (signedOf 8 (bits p 19 12) + 320).toNat : Nat) : Int)
  (bits p 5 0, bits p 11 6, if bitAt p 20 then -wt else wt)

/-- The key of a matrix check counter of a cluster (Table 12·8). -/
def mcksKey (q n : Nat) : Nat := q * 4 + n

/-- Advances a matrix check counter. -/
def State.bumpMcks (s : State) (q n : Nat) : State :=
  { s with mcks := s.mcks.put (mcksKey q n) (s.mcks.get (mcksKey q n) 0 + 1) 0 }

/-- The blocks of an entry. -/
def Work.total (w : Work) : Nat := ceilDiv w.k 256

/-- Adds one block into C, or stops the entry (R281, R282). -/
def State.runBlock (s : State) (id : Nat) (w : Work) : State :=
  let b := w.done
  let n := blockLen w.k b
  let rows := (List.range 64).map (s.rowBlock w b)
  let cols := (List.range 64).map (s.colBlock w b)
  let S := rows.map fun r => cols.map (cellSum r)
  let flip := s.injMat.find? w.cluster
  let S := match flip with
    | some (p, _) => let (i, j, d) := flipOf p; bumpCell S i j d
    | none => S
  let s := match flip with
    | some (_, e) => { s.completeEvent e with injMat := s.injMat.erase w.cluster }
    | none => s
  let s := s.bumpMcks w.cluster 3
  let put := fun (s : State) (f : Work → Work) => { s with works := s.works.modify id fun w => { f w with since := s.clock, first := false } }
  match checkPass n rows cols S with
  | .stop => put (s.bumpMcks w.cluster 1) fun w => { w with state := 3 }
  | .add S un fix =>
    let s := if un then s.bumpMcks w.cluster 2 else s
    let s := if fix.isSome then s.bumpMcks w.cluster 0 else s
    let s := S.zipIdx.foldl (fun (s : State) p =>
      let a := w.caddr + p.2 * w.cstride
      s.bufWrite w.team 2 0 false a ((p.1.zipIdx).flatMap fun c =>
        toBytes 4 (addCell (s.bufNat w.team 2 0 (a + 4 * c.2) 4) c.1))) s
    put s fun w =>
      let w := match fix with
        | some (i, j) => { w with corr := min 255 (w.corr + 1), crow := i, ccol := j, cblk := b }
        | none => w
      { w with done := w.done + 1, unchk := if un then min 15 (w.unchk + 1) else w.unchk,
               state := if w.done + 1 == w.total then 2 else 1 }

/-! ### The arbiter (R278, R279) -/

/-- Whether an earlier work item that overlaps this one holds it back (R279). -/
def State.workHeld (s : State) (id : Nat) (w : Work) : Bool :=
  s.works.any fun p => decide (p.1 < id) && p.2.state != 5 &&
    (Range.meet w.writes p.2.reads || Range.meet w.writes p.2.writes || Range.meet w.reads p.2.writes)

/-- The work of a team stands still while its context pauses for a snapshot record or has stopped (R347, R373); a drain that has started
runs to its end before the record (R359). -/
def State.workPaused (s : State) (w : Work) : Bool :=
  let c := (s.team w.team).ctx
  !s.ctxRuns c || (s.pausing c && !(w.kind == .drain && w.state == 1))

/-- The entries that may receive a pass. -/
def State.runnable (s : State) (q : Nat) : List (Nat × Work) :=
  (s.entries q).filter fun p => p.2.state ≤ 1 && !s.workHeld p.1 p.2 && !s.workPaused p.2

/-- Whether an entry has received no pass for 4,096 ACLK since its placement or its last pass (R278). -/
def State.starved (s : State) (w : Work) : Bool := w.first || decide (w.since + 8192 ≤ s.clock)

/-- The oldest placement among some entries; one placed again at a resumption is as old as that placement (R278, R280). -/
def oldestPlaced : List (Nat × Work) → Option (Nat × Work)
  | [] => none
  | p :: ps => some (ps.foldl (fun a b => if b.2.placed < a.2.placed then b else a) p)

/-- The entry that the arbiter grants the next pass (R278): those that have starved first, then the highest priority, the oldest of
them. -/
def State.arbitrate (s : State) (q : Nat) : Option (Nat × Work) :=
  let rs := s.runnable q
  match oldestPlaced (rs.filter fun p => s.starved p.2) with
  | some p => some p
  | none =>
    let top := rs.foldl (fun n p => max n p.2.prio) 0
    oldestPlaced (rs.filter fun p => p.2.prio == top)

/-- MATRIX_PASS (R278). -/
def execMatrixPass (cluster : Nat) (s : State) : Result :=
  match s.arbitrate cluster with
  | some (id, w) => .next (s.runBlock id w)
  | none => .next s

/-- MATRIX_STARVATION_PRIORITY: an entry without a pass for 4,096 ACLK comes first (R278). -/
def execMatrixStarvationPriority (cluster id : Nat) (s : State) : Result :=
  .next { s with works := s.works.modify id fun w =>
    if w.cluster == cluster && w.kind == .entry && w.state ≤ 1 && decide (w.since + 8192 ≤ s.clock) then { w with first := true } else w }

/-! ### Completion (R283) -/

/-- The status record of an entry (Table 12·4). -/
def Work.statusWord (w : Work) (state : Nat) : Nat :=
  state + w.ticket * 2 ^ 4 + w.done * 2 ^ 20 + w.total * 2 ^ 32 + w.corr * 2 ^ 44 + w.unchk * 2 ^ 52 + w.crow * 2 ^ 64 +
    w.ccol * 2 ^ 70 + w.cblk * 2 ^ 76

/-- Writes an entry's status record. -/
def State.writeStatus (s : State) (w : Work) (state : Nat) : State :=
  s.bufWrite w.team 2 0 false w.status (toBytes 16 (w.statusWord state))

/-- A stale word of mstat and mcancel: the ticket names no entry. -/
def staleWord (t : Nat) : Word := BitVec.ofNat 64 (8 + t % 2 ^ 16 * 2 ^ 4)

/-- The status word goes to the lanes of a waiting mcancel that named the ticket. -/
def State.cancelLands (s : State) (e : Nat) (ticket word : Nat) : State :=
  let fill := fun (x : Word) => if bits x.toNat 3 0 == 0 && bits x.toNat 63 4 == ticket then BitVec.ofNat 64 word else x
  (s.modEvent e fun d => { d with v := d.v.map fun p => (p.1, p.2.map fill) }).accessLanded e

/-- The completion of an entry: its status record, and the landing in every member together (R283). -/
def State.completeEntry (s : State) (id : Nat) (w : Work) : State :=
  let s := { s.writeStatus w w.state with works := s.works.erase id }
  let s := w.members.foldl (fun (s : State) m =>
    let s := if w.state == 3 then s.modEvent m.event fun d => d.addFault .matrixIntegrity d.lanes 0 (BitVec.ofNat 64 w.ticket) else s
    (s.land m.event).acquireAll w.cluster 1) s
  (w.cancels.foldl (fun s e => s.cancelLands e w.ticket (w.statusWord w.state % 2 ^ 64)) s).settle

/-- MATRIX_COMPLETION (R283). -/
def execMatrixCompletion (cluster id : Nat) (s : State) : Result :=
  match s.works.find? id with
  | some w =>
    if w.kind == .entry && w.cluster == cluster && 2 ≤ w.state && w.state ≤ 4 then .next (s.completeEntry id w) else .next s
  | none => .next s

/-! ### The drain path (R285 to R287, R290) -/

/-- The format of a drain's destination (Table 12·6). -/
def drainFmt (r : Nat) : FpFmt :=
  match bits r 42 40 with
  | 0 => fp32
  | 1 => bf16
  | 2 => e4m3
  | _ => e5m2

/-- The byte size of a drain's destination element. -/
def drainSize (r : Nat) : Nat := (drainFmt r).w / 8

/-- The bytes that a drain's destination spans. -/
def drainSpan (r : Nat) : Nat := 63 * bits r 127 96 + 64 * drainSize r

/-- The rows of a drain's destination as ranges. -/
def drainRanges (team core r : Nat) (dh : HandleBits) : List Range :=
  (List.range 64).map fun i =>
    let o := bits r 191 128 + i * bits r 127 96
    if bitAt r 45 then memRange (handleAsid dh) (vaOf dh o) (64 * drainSize r) else bufRange team 1 core o (64 * drainSize r)

/-- Whether a handle lacks a right or is of an address space outside the context's set (R168). -/
def lacksRight (c : Ctx) (h : HandleBits) (r : Nat) : Bool := checkHandle c h 0 0 1 [r] [] == some .handleRights

/-- The checks of R287 on a drain record, each step on both handles before the next: rights, extents, alignment. -/
def State.drainFault (s : State) (iss : Issue) (r : Nat) : Option (FaultCode × Nat) :=
  let t := s.teamOf iss.gid
  let c := s.ctxI iss
  let stride := bits r 127 96
  let doff := bits r 191 128
  let aoff := bits r 255 192
  let dh := iss.hreg (bits r 51 48)
  let ah := iss.hreg (bits r 55 52)
  if 3 < bits r 42 40 || bits r 63 56 != 0 || !t.tileOk (bits r 19 0) (bits r 39 20) || stride % 64 != 0 ||
      stride < 64 * drainSize r then some (.matrixRecord, 0)
  else if !bitAt r 45 && (2 ^ 32 ≤ doff || doff % 64 != 0 || decide (t.window 1 < doff + drainSpan r)) then some (.matrixRecord, 0)
  else if bitAt r 45 && lacksRight c dh 1 then some (.handleRights, vaOf dh doff)
  else if bitAt r 46 && lacksRight c ah 3 then some (.handleRights, vaOf ah aoff)
  else
    let dst := fun (align : Nat) => if bitAt r 45 then (checkHandle c dh doff (drainSpan r) align [1] []).map fun f => (f, vaOf dh doff) else none
    let word := fun (align : Nat) => if bitAt r 46 then (checkHandle c ah aoff 4 align [3] []).map fun f => (f, vaOf ah aoff) else none
    (((dst 1).or (word 1)).or (dst 64)).or <| (word 4).or <|
      if bitAt r 46 && s.detI iss then some (.detAtomic, 0) else none

/-- mdrain (R285, R287, R292): its checks are those of the record as it stands; the clause's commit reads it and makes them again, which
is the acceptance. -/
def execMdrain (f : FE) (ls : Lits) (s : State) : Result :=
  s.withIssue fun iss s =>
    let a := iss.addrE f ls 32
    if !s.mayRead? iss then .next s.stall
    else
      match s.recordFault iss a 32 32 with
      | some c => s.faultAll iss c
      | none =>
        match s.drainFault iss (s.record iss a.toNat 32) with
        | some (c, va) => s.faultAll iss c va
        | none => s.finish iss (2 + ls.length) [.act (.mdrain f ls) iss.idx iss.lanes [] [] [] [a.toNat]]

/-- How many drains and zeros a cluster's drain path holds (R285). -/
def State.drainsHeld (s : State) (q : Nat) : Nat :=
  (s.works.filter fun p => p.2.cluster == q && p.2.kind != .entry && p.2.state != 5).length

/-- The commit of mdrain: the drain is accepted with the record as it stands now (R285). -/
def commitMdrain (f : FE) (iss : Issue) (idx : Nat) (n : List Nat) (s : State) : State :=
  let r := s.record iss (n.headD 0) 32
  let t := iss.before.team
  let (e, s) := s.addEvent { iss.event idx iss.lanes with wait := .matrix iss.before.cluster s.nextId, v := [(f.d.toNat, zeroVals)] }
  let tile := tileRanges t (bits r 19 0) (bits r 39 20)
  let dh := iss.hreg (bits r 51 48)
  (s.addWork
    { kind := .drain, team := t, cluster := iss.before.cluster, gid := iss.gid, core := iss.before.core, record := r, dst := dh,
      amaxH := iss.hreg (bits r 55 52), event := some e, caddr := bits r 19 0, cstride := bits r 39 20, reads := tile,
      writes := drainRanges t iss.before.core r dh ++ (if bitAt r 47 then tile else []) }).2

/-- mzero (R290). -/
def execMzero (f : FE) (ls : Lits) (s : State) : Result :=
  s.withIssue fun iss s =>
    let a := iss.addrE f ls 256
    let st := (iss.uniformB f ls).toNat
    if a < 0 || !(s.teamOf iss.gid).tileOk a.toNat st then s.faultAll iss .matrixRecord
    else s.finish iss (2 + ls.length) [.act (.mzero f ls) iss.idx iss.lanes [] [] [] [a.toNat, st]]

/-- The commit of mzero. -/
def commitMzero (iss : Issue) (idx : Nat) (n : List Nat) (s : State) : State :=
  let (e, s) := s.addEvent { iss.event idx iss.lanes with wait := .matrix iss.before.cluster s.nextId }
  (s.addWork
    { kind := .zero, team := iss.before.team, cluster := iss.before.cluster, gid := iss.gid, core := iss.before.core, event := some e,
      caddr := n.headD 0, cstride := n.getD 1 0, writes := tileRanges iss.before.team (n.headD 0) (n.getD 1 0) }).2

/-- Writes +0 to a tile. -/
def State.clearTile (s : State) (w : Work) : State :=
  (List.range 64).foldl (fun s i => s.bufWrite w.team 2 0 false (w.caddr + i * w.cstride) (List.replicate 256 0)) s

/-- One element of a drain (R286): the converted bits, the FP32 bits of its magnitude, whether it overflowed and whether it is NaN. -/
def drainElem (r x : Nat) : Nat × Nat × Bool × Bool :=
  let a : FpRes := if bitAt r 44 then fp32.mulVal .rne (fp32.val x) (fp32.val (bits r 95 64)) else { bits := x }
  let F := drainFmt r
  let z : FpRes := if bits r 42 40 == 0 then { bits := a.bits } else F.convert fp32 .rne (bitAt r 43) a.bits
  let nan := (F.val z.bits).isNan
  let m := if nan then 0x7FC00000 else (fp32.convert F .rne false z.bits).bits % 2 ^ 31
  (z.bits, m, (a.fl ||| z.fl).getLsbD 2, nan)

/-- The rows of a tile, element by element. -/
def State.tileRows (s : State) (w : Work) : List (List Nat) :=
  (List.range 64).map fun i => (List.range 64).map fun j => s.bufNat w.team 2 0 (w.caddr + i * w.cstride + 4 * j) 4

/-- Bytes at an offset cut where their address, `base` beyond the offset, passes from one 128-byte sector to the next. -/
def cutAtSector (base : Nat) (o : Nat) (bs : List Byte) : List (Nat × List Byte) :=
  let n := 128 - (base + o) % 128
  if bs.length ≤ n then [(o, bs)] else [(o, bs.take n), (o + n, bs.drop n)]

/-- A drain writes its destination by pieces of at most 64 bytes, each of one sector and so of one grain, since a handle's base is a multiple
of 16 only: those of a tile, row by row, each with its offset (R286). -/
def drainPieces (r base : Nat) (rows : List (List Byte)) : List (Nat × List Byte) :=
  rows.zipIdx.flatMap fun p =>
    (List.range (drainSize r)).flatMap fun j =>
      cutAtSector base (bits r 191 128 + p.2 * bits r 127 96 + 64 * j) ((p.1.drop (64 * j)).take 64)

/-- Writes one piece of a drain's destination; its failure is its event's. Answers whether it is done. -/
def State.drainPiece (s : State) (w : Work) (e o : Nat) (bs : List Byte) : Bool × State :=
  if bitAt w.record 45 then
    match s.handleWrite (s.ctx (s.team w.team).ctx) w.core w.dst o .drain true bs with
    | .ok _ s => (true, s)
    | .fail c va s => (true, s.modEvent e fun d => d.addFault c d.lanes va)
    | .wait s => (false, s)
  else (true, s.bufWrite w.team 1 (unitOf 1 w.core) false o bs)

/-- Writes the pieces of a drain that are left: how many are done now, and whether all are. -/
def State.drainPiecesFrom (s : State) (w : Work) (e n : Nat) : List (Nat × List Byte) → Nat × Bool × State
  | [] => (n, true, s)
  | p :: ps =>
    match s.drainPiece w e p.1 p.2 with
    | (true, s) => s.drainPiecesFrom w e (n + 1) ps
    | (false, s) => (n, false, s)

/-- The merge of a drain's amax, as red.max.n32 at the scope of its page's reach; a page that fails takes no merge (R286, R287). -/
def State.drainMerge (s : State) (w : Work) (amax : Nat) (e : Nat) : Option (Option (FaultCode × Nat)) × State :=
  let va := vaOf w.amaxH (bits w.record 255 192)
  let c := s.ctx (s.team w.team).ctx
  match s.translateStore c w.core (handleAsid w.amaxH) va with
  | (.leaf l pa, s) =>
    match (s.checkLeaf l pa w.core .red (handleHas w.amaxH 7) 0).or (if pteHost l.pte then s.hostAtomicCheck pa 5 0 false else none) with
    | some c => (some (some (c, va)), s)
    | none =>
      let s := (s.setDirty c w.core (handleAsid w.amaxH) va l).modEvent e fun d => { d with wait := .accesses 1 }
      (some none, s.submit
        { engAccess w.core pa 4 l.pte (.atomic 5 0 false [amax]) with
          va := va, scope := reachScope (pteReach l.pte), event := some e, whole := true
          bundle := ((s.deferred.find? e).map (·.lanes)).getD 0 })
  | (.absent, s) => (some (some (.pageNotPresent, va)), s)
  | (.malformed, s) => (some (some (.pageProt, va)), s)
  | (.away g x, s) => (none, s.request g x)

/-- Runs a drain on from where it stands, to its end or until it must wait for a grain (R286); the work keeps how many pieces it has
written. -/
def State.runDrain (s : State) (id : Nat) (w : Work) : State :=
  match w.event with
  | none => s
  | some e =>
    let es := (s.tileRows w).map fun r => r.map (drainElem w.record)
    let size := drainSize w.record
    let ps := drainPieces w.record (if bitAt w.record 45 then handleBase w.dst else 0) (es.map fun r => r.flatMap fun x => toBytes size x.1)
    let (n, all, s) := s.drainPiecesFrom w e w.done (ps.drop w.done)
    let s := { s with works := s.works.modify id fun w => { w with state := 1, done := n } }
    if !all then s
    else
      let xs := es.flatten
      let amax := xs.foldl (fun n x => max n x.2.1) 0
      let word := amax + (xs.filter fun x => x.2.2.1).length * 2 ^ 32 + (xs.filter fun x => x.2.2.2).length * 2 ^ 45
      let s := s.modEvent e fun d => { d with v := d.v.map fun p => (p.1, LaneVals.of fun _ => BitVec.ofNat 64 word), wait := .done }
      let (m, s) := if bitAt w.record 46 then s.drainMerge w amax e else (some none, s)
      match m with
      | none => s.modEvent e fun d => { d with wait := .matrix w.cluster id }
      | some f =>
        let s := match f with
          | some f => s.modEvent e fun d => d.addFault f.1 d.lanes f.2
          | none => s
        let s := if bitAt w.record 47 then s.clearTile w else s
        ({ s with works := s.works.erase id }).settle

/-- The next work of the drain path of a kind: the oldest that nothing holds. -/
def State.nextDrain (s : State) (q : Nat) (k : WorkKind) : Option (Nat × Work) :=
  List.find? (fun p : Nat × Work =>
    p.2.cluster == q && p.2.kind == k && p.2.state != 5 && !s.workHeld p.1 p.2 && !s.workPaused p.2) s.works

/-- MATRIX_DRAIN_RUN (R286). -/
def execMatrixDrainRun (cluster : Nat) (s : State) : Result :=
  match s.nextDrain cluster .drain with
  | some (id, w) => .next (s.runDrain id w)
  | none => .next s

/-- MATRIX_ZERO_RUN (R290). -/
def execMatrixZeroRun (cluster : Nat) (s : State) : Result :=
  match s.nextDrain cluster .zero with
  | some (id, w) =>
    let s := { s.clearTile w with works := s.works.erase id }
    .next (match w.event with
      | some e => s.completeEvent e
      | none => s).settle
  | none => .next s

/-! ### mstat, mcks, mcancel (R293 to R295) -/

/-- The team's entry that carries a ticket. -/
def State.entryOf (s : State) (team ticket : Nat) : Option (Nat × Work) :=
  List.find? (fun p : Nat × Work => p.2.kind == .entry && p.2.team == team && p.2.ticket == ticket % 2 ^ 16) s.works

/-- The ticket operand of one lane. -/
def Issue.ticket (iss : Issue) (f : FE) (ls : Lits) (lane : Nat) : Nat := (iss.operand (intLayout 5) f.a (litAt ls 0) lane).toNat

/-- An instruction that hands per-lane tickets to its commit; some raise DET_ATOMIC in a deterministic grid (R405). -/
def ticketExec (det : Bool) (i : Instr) (f : FE) (ls : Lits) (s : State) : Result :=
  s.withIssue fun iss s =>
    if det && s.detI iss then s.faultAll iss .detAtomic
    else
      s.finish iss (2 + ls.length)
        [.act i iss.idx iss.lanes (iss.lanesOf fun l => BitVec.ofNat 64 (iss.ticket f ls l)) [] [] []]

/-- mstat (R293, R405). -/
def execMstat (f : FE) (ls : Lits) (s : State) : Result := ticketExec true (.mstat f ls) f ls s

/-- A deferred result known at commit, written to vD when it lands. -/
def State.laterResult (s : State) (iss : Issue) (idx : Nat) (d : BitVec 7) (x : LaneVals) : State :=
  (s.addEvent { iss.event idx iss.lanes with v := [(d.toNat, x)] }).2

/-- The commit of mstat: the word as it stands. -/
def commitMstat (f : FE) (iss : Issue) (idx : Nat) (x : LaneVals) (s : State) : State :=
  s.laterResult iss idx f.d (iss.lanesOf fun l =>
    match s.entryOf iss.before.team (x.at l).toNat with
    | some (_, w) => BitVec.ofNat 64 (w.statusWord w.state)
    | none => staleWord (x.at l).toNat)

/-- mcks (R294, R405). -/
def execMcks (f : FE) (ls : Lits) (s : State) : Result :=
  s.withIssue fun iss s =>
    if s.detI iss then s.faultAll iss .detAtomic
    else s.finish iss (2 + ls.length) [.act (.mcks f ls) iss.idx iss.lanes [] [] [] []]

/-- The commit of mcks. -/
def commitMcks (f : FE) (iss : Issue) (idx : Nat) (s : State) : State :=
  s.laterResult iss idx f.d (iss.lanesOf fun _ => s.mcks.get (mcksKey iss.before.cluster f.sub.toNat) 0)

/-- mcancel (R295, R405). -/
def execMcancel (f : FE) (ls : Lits) (s : State) : Result := ticketExec true (.mcancel f ls) f ls s

/-- The commit of mcancel: each entry named stops and its word comes when it has; a ticket of no entry gives a stale word. An entry
whose last pass has ended only waits for its completion. -/
def commitMcancel (f : FE) (iss : Issue) (idx : Nat) (x : LaneVals) (s : State) : State :=
  let ts := ((Lanes.list iss.lanes).map fun l => (x.at l).toNat % 2 ^ 16).eraseDups
  let es := ts.filterMap fun t => s.entryOf iss.before.team t
  let word := fun l => match s.entryOf iss.before.team (x.at l).toNat with
    | some _ => BitVec.ofNat 64 ((x.at l).toNat % 2 ^ 16 * 2 ^ 4)
    | none => staleWord (x.at l).toNat
  let (e, s) := s.addEvent
    { iss.event idx iss.lanes with v := [(f.d.toNat, iss.lanesOf word)], wait := if es.isEmpty then .done else .accesses es.length }
  es.foldl (fun (s : State) p => { s with works := s.works.modify p.1 fun w =>
    { w with state := if w.state ≤ 1 then 4 else w.state, cancels := w.cancels ++ [e] } }) s

end Sys2Proof.Machine
end

