-- ==== Sys2Proof/Machine/Sha256.lean ====
section
/-!
DEFINITION. The SHA-256 of digests and image headers (R310, R387), by the equations of FIPS 180-4: its constants are computed from the
primes that the standard names, and a block's compression is two recurrences, one for each half of the working variables.
-/

namespace Sys2Proof.Machine

/-- A 32-bit word of the hash. -/
abbrev HashWord := BitVec 32

/-! ### The constants -/

/-- The first 64 primes. -/
def hashPrimes : List Nat := (List.range 312).filter fun p => decide (2 ≤ p) && (List.range p).all fun d => decide (d < 2) || p % d != 0

/-- The integer part of the k-th root of n, the bits below b of it still to be settled. -/
def rootFrom (k n : Nat) : Nat → Nat → Nat
  | 0, r => r
  | b + 1, r => rootFrom k n b (if (r + 2 ^ b) ^ k ≤ n then r + 2 ^ b else r)

/-- The first 32 bits of the fraction of a prime's k-th root. -/
def rootFraction (k p : Nat) : HashWord := BitVec.ofNat 32 (rootFrom k (p * 2 ^ (32 * k)) 36 0)

/-- The constant of each of the 64 rounds: from the cube roots. -/
def roundConstants : List HashWord := hashPrimes.map (rootFraction 3)

/-- The hash value before the first block: from the square roots of the first eight primes. -/
def firstHash : List HashWord := (hashPrimes.take 8).map (rootFraction 2)

/-! ### Blocks -/

/-- The sum of three rotations, or of two and a shift when the third counts from 32. -/
def turned (x : HashWord) (i j k : Nat) : HashWord :=
  x.rotateRight i ^^^ x.rotateRight j ^^^ (if k < 32 then x.rotateRight k else x >>> (k - 32))

/-- The words of some bytes, the first byte of each its most significant. -/
def bigEndianWords : List Byte → List HashWord
  | a :: b :: c :: d :: r => (a ++ b ++ c ++ d) :: bigEndianWords r
  | _ => []

/-- A word's bytes, the most significant first. -/
def bigEndianBytes (x : HashWord) : List Byte := [x.extractLsb' 24 8, x.extractLsb' 16 8, x.extractLsb' 8 8, x.extractLsb' 0 8]

/-- Some words of a schedule extended by n, the last word at the head. -/
def extendSchedule : Nat → List HashWord → List HashWord
  | 0, w => w
  | n + 1, w => extendSchedule n
      ((turned (w.getD 1 0) 17 19 42 + w.getD 6 0 + turned (w.getD 14 0) 7 18 35 + w.getD 15 0) :: w)

/-- The two halves of the working variables through the rounds, the newest word of each at the head: the half that a to d pass along,
and the half that e to h do. -/
def hashRounds : List (HashWord × HashWord) → List HashWord × List HashWord → List HashWord × List HashWord
  | [], v => v
  | (k, w) :: rest, (as, es) =>
    let e := fun i => es.getD i 0
    let a := fun i => as.getD i 0
    let choice := e 2 ^^^ (e 0 &&& (e 1 ^^^ e 2))
    let majority := (a 0 &&& (a 1 ||| a 2)) ||| (a 1 &&& a 2)
    let t := k + w + choice + turned (e 0) 6 11 25 + e 3
    hashRounds rest ((t + majority + turned (a 0) 2 13 22) :: as, (t + a 3) :: es)

/-- A hash value after one more block. -/
def hashBlock (h block : List HashWord) : List HashWord :=
  let w := (extendSchedule 48 block.reverse).reverse
  let (as, es) := hashRounds (roundConstants.zip w) (h.take 4, h.drop 4)
  List.zipWith (· + ·) h (as.take 4 ++ es.take 4)

/-- A hash value after n blocks of sixteen words. -/
def hashBlocks : Nat → List HashWord → List HashWord → List HashWord
  | 0, h, _ => h
  | n + 1, h, ws => hashBlocks n (hashBlock h (ws.take 16)) (ws.drop 16)

/-- A message with the bit 1, zeros to the end of a block but eight bytes, and its length in bits. -/
def padded (m : List Byte) : List Byte :=
  let bits := 8 * m.length
  m ++ 0x80 :: List.replicate ((119 - m.length % 64) % 64) 0 ++
    (bigEndianBytes (BitVec.ofNat 32 (bits / 2 ^ 32)) ++ bigEndianBytes (BitVec.ofNat 32 bits))

/-- The digest of a message, 32 bytes. -/
def sha256 (m : List Byte) : List Byte :=
  let p := padded m
  (hashBlocks (p.length / 64) firstHash (bigEndianWords p)).flatMap bigEndianBytes

end Sys2Proof.Machine
end

