-- ==== Sys2Proof/Machine/Engine.lean ====
section
/-!
DEFINITION. The copy and digest engines, publish, ewait and estat (R297 to R306, R309 to R314).
-/

namespace Sys2Proof.Machine

/-! ### Status records and completion (R297, R298) -/

/-- Whether a kind of command has a ticket that ewait and estat accept (R297, R313, R329). -/
def CmdKind.ticketed : CmdKind → Bool
  | .copy | .migrate | .digest | .put | .get | .send | .receive => true
  | _ => false

/-- Where a command's status record lies, from its operands: 0 an A-buffer window address, 1 an offset through the fourth handle, 2
nowhere. -/
def Command.statusAt (c : Command) : Nat × Nat := if c.kind.ticketed then (c.n.headD 2, c.n.getD 1 0) else (2, 0)

/-- Word 0 of a command's status (Table 13·1). -/
def Command.word0 (c : Command) : Nat := c.state + (if c.state == 3 then c.code * 2 ^ 8 else 0) + c.ticket * 2 ^ 16

/-- Writes a command's status record; matrix work that reads the place holds the write (R279). -/
def State.putStatus (s : State) (c : Command) : EngR :=
  let bs := toBytes 8 c.word0 ++ toBytes 8 c.progress
  match c.statusAt with
  | (0, a) =>
    if workHolds s.works [] [bufRange c.team 1 c.core a 16] then .wait s
    else .ok [] (s.bufWrite c.team 1 (unitOf 1 c.core) false a bs)
  | (1, o) =>
    let h := c.handles.getD 3 0
    if workHolds s.works [] [memRange (handleAsid h) (vaOf h o) 16] then .wait s
    else s.handleWrite (s.ctx c.ctx) c.core h o .record false bs
  | _ => .ok [] s

/-- Replaces a command. -/
def State.setCommand (s : State) (id : Nat) (c : Command) : State := { s with commands := s.commands.insert id c }

/-- A command has ended: its state is kept, and its event lands, with a deferred fault when it failed (R34, R297). Its landing acquires
what the engine wrote (R211). -/
def State.settleCommand (s : State) (id : Nat) (c : Command) (f : Option (FaultCode × Nat)) : State :=
  let s := ((s.setCommand id { c with owed := false }).engDone c.reader).acquireAll (c.core / 4) 1
  match c.event with
  | none => s
  | some e =>
    let s := match f with
      | some (code, va) => s.modEvent e fun d => d.addFault code d.lanes va (BitVec.ofNat 64 (c.ticket % 2 ^ 18))
      | none => s
    s.completeEvent e

/-- Ends a command with a state or a fault once its status record is written; a write that must wait leaves the command to be ended
by a later step, and one that faults is the command's fault (R298). -/
def State.endCommand (s : State) (id : Nat) (c : Command) (f : Option (FaultCode × Nat)) : State :=
  let stop := fun (x : FaultCode × Nat) => { c with state := 3, code := x.1.num }
  let c' := match f with
    | some x => stop x
    | none => { c with state := 2 }
  match s.putStatus c' with
  | .ok _ s => s.settleCommand id c' f
  | .fail code va s =>
    let x := f.getD (code, va)
    s.settleCommand id (stop x) (some x)
  | .wait s => s.setCommand id c

/-- A command that goes on has a new state or progress: its status record is written, or the write is owed; a write that faults stops the
command (R298). -/
def State.noteCommand (s : State) (id : Nat) (c : Command) : State :=
  match s.putStatus c with
  | .ok _ s => s.setCommand id { c with owed := false, noted := s.clock }
  | .wait s => s.setCommand id { c with owed := true }
  | .fail code va s =>
    if c.state == 2 || c.state == 3 then s.setCommand id { c with owed := false }
    else s.settleCommand id { c with state := 3, code := code.num } (some (code, va))

/-- A team's command that carries a ticket: the last one accepted. -/
def State.commandOf (s : State) (team ticket : Nat) : Option (Nat × Command) :=
  (List.filter (fun p : Nat × Command =>
    p.2.team == team && p.2.ticket == ticket && p.2.kind.ticketed && p.2.event.isSome)
    s.commands).getLast?

/-- Accepts a command of an engine at commit: its ticket is written to vD in every thread of the bundle, and word 0 of its status is
written (R297, R298). -/
def State.acceptCommand (s : State) (iss : Issue) (idx : Nat) (d : BitVec 7) (engine : Nat) (c : Command) : State :=
  let ticket := (s.team iss.before.team).eticket + engine * 2 ^ 16
  let s := s.modTeam iss.before.team fun t => { t with eticket := (t.eticket + 1) % 2 ^ 16 }
  let s := s.writeV iss.gid d.toNat iss.lanes (iss.lanesOf fun _ => BitVec.ofNat 64 ticket)
  let (e, s) := s.addEvent { iss.event idx iss.lanes with wait := .command s.nextId }
  let c := { c with ctx := s.ctxOf iss.gid, team := iss.before.team, gid := iss.gid, core := iss.before.core,
                    lane := lowestLane iss.lanes, event := some e, ticket := ticket }
  let (id, s) := s.addCommand c
  (s.modEvent e fun d => { d with wait := .command id }).noteCommand id { c with since := s.clock }

/-! ### The copy command record (R301 to R303) -/

/-- A copy command record (Table 13·2). -/
structure CopyRec where
  op : Nat
  esize : Nat
  skind : Nat
  dkind : Nat
  sh : Nat
  dh : Nat
  xh : Nat
  sth : Nat
  stloc : Bool
  pmode : Nat
  soff : Nat
  doff : Nat
  n0 : Nat
  n1 : Nat
  n2 : Nat
  sstr1 : Nat
  sstr2 : Nat
  dstr1 : Nat
  dstr2 : Nat
  value : Nat
  staddr : Nat
  plo0 : Nat
  phi0 : Nat
  plo1 : Nat
  phi1 : Nat
  reserved : Bool
  deriving DecidableEq, Repr

/-- The record in eight words. -/
def CopyRec.ofWords (ws : List Nat) : CopyRec :=
  let w := fun i => ws.getD i 0
  { op := bits (w 0) 3 0, esize := bits (w 0) 6 4, skind := bits (w 0) 9 8, dkind := bits (w 0) 11 10, sh := bits (w 0) 15 12,
    dh := bits (w 0) 19 16, xh := bits (w 0) 23 20, sth := bits (w 0) 27 24, stloc := bitAt (w 0) 28, pmode := bits (w 0) 30 29,
    soff := w 1, doff := w 2, n0 := bits (w 3) 19 0, n1 := bits (w 3) 39 20, n2 := bits (w 3) 59 40, sstr1 := bits (w 4) 31 0,
    sstr2 := bits (w 4) 63 32, dstr1 := bits (w 5) 31 0, dstr2 := bits (w 5) 63 32, value := w 6, staddr := bits (w 7) 31 0,
    plo0 := bits (w 7) 39 32, phi0 := bits (w 7) 47 40, plo1 := bits (w 7) 55 48, phi1 := bits (w 7) 63 56,
    reserved := bitAt (w 0) 7 || bits (w 0) 63 31 != 0 || bits (w 3) 63 60 != 0 || 5 < bits (w 0) 3 0 || 4 < bits (w 0) 6 4 }

/-- The bits of an element. -/
def CopyRec.ebits (r : CopyRec) : Nat := 4 * 2 ^ r.esize

/-- The bytes of n elements. -/
def CopyRec.bytes (r : CopyRec) (n : Nat) : Nat := n * r.ebits / 8

/-- The kept values of sixteen of a wpack; 16 when dense. -/
def CopyRec.kept (r : CopyRec) : Nat := if r.pmode == 1 then 8 else if r.pmode == 2 then 4 else 16

/-- The elements per row, rows and planes of the destination. -/
def CopyRec.shape (r : CopyRec) : Nat × Nat × Nat :=
  match r.op with
  | 1 => (r.n1, r.n0, 1)
  | 4 => (r.n0 + r.plo0 + r.phi0, r.n1 + r.plo1 + r.phi1, 1)
  | _ => (r.n0, r.n1, r.n2)

/-- The bytes from an operand's first to its last. -/
def spanOf (rowBytes rows planes str1 str2 : Nat) : Nat := (planes - 1) * str2 + (rows - 1) * str1 + rowBytes

/-- The span of the source. -/
def CopyRec.srcSpan (r : CopyRec) : Nat := spanOf (r.bytes r.n0) r.n1 r.n2 r.sstr1 r.sstr2

/-- The parts of the destination window that a command writes: start and length; of a W-store, offsets in every slice. -/
def CopyRec.dstParts (r : CopyRec) : List (Nat × Nat) :=
  if r.op == 5 then
    match r.pmode with
    | 0 => [(r.doff, r.bytes r.n1)]
    | 3 => [(r.doff, r.n1)]
    | _ => [(r.doff, r.bytes (r.n1 / 16 * r.kept)), (bits r.value 17 0, r.n1 / 16 * r.kept / 2)]
  else
    let (e, rows, planes) := r.shape
    let n := spanOf (r.bytes e) rows planes r.dstr1 r.dstr2
    if r.dkind == 3 then [(r.doff / 512 * 8, ((r.doff + n - 1) / 512 + 1) * 8 - r.doff / 512 * 8)] else [(r.doff, n)]

/-- Whether part of a window lies wholly in publish pairs. -/
def Team.pairedRange (t : Team) (space lo n : Nat) : Bool :=
  decide (lo + n ≤ t.window space) &&
    (List.range ((lo + n - 1) / bankSize space + 1 - lo / bankSize space)).all fun i => t.paired space (lo / bankSize space + i)

/-- Whether part of a window lies wholly outside publish pairs. -/
def Team.unpairedRange (t : Team) (space lo n : Nat) : Bool :=
  (List.range ((lo + n - 1) / bankSize space + 1 - lo / bankSize space)).all fun i => !t.paired space (lo / bankSize space + i)

/-- Whether a field that an op does not use is not zero (R301). -/
def CopyRec.unused (r : CopyRec) : Bool :=
  (r.skind != 0 && r.sh != 0) || (r.dkind != 0 && r.dh != 0) || (r.op != 2 && r.xh != 0) || (!r.stloc && r.sth != 0) ||
  (r.op != 5 && r.pmode != 0) ||
  (r.op != 4 && (r.plo0 != 0 || r.phi0 != 0 || r.plo1 != 0 || r.phi1 != 0)) ||
  ((r.op == 0 || r.op == 1) && r.value != 0) ||
  (r.op == 5 && (r.dstr1 != 0 || r.dstr2 != 0 || (if r.pmode == 1 || r.pmode == 2 then r.value / 2 ^ 18 != 0 else r.value != 0))) ||
  (r.op == 3 && (r.skind != 0 || r.sh != 0 || r.soff != 0 || r.sstr1 != 0 || r.sstr2 != 0))

/-- Whether a record breaks a limit of R302 or R303. -/
def CopyRec.limits (r : CopyRec) : Bool :=
  let e := if r.esize == 0 then 1 else r.ebits / 8
  r.n0 == 0 || r.n1 == 0 || r.n2 == 0 ||
  (r.op == 1 && (r.esize == 4 || r.n2 != 1)) || ((r.op == 4 || r.op == 2 || r.op == 5) && r.n2 != 1) ||
  (r.op == 5 && (r.dkind != 3 || 2 ≤ r.skind || r.n0 != 64 || (r.pmode == 3 && r.esize != 1) ||
    ((r.pmode == 1 || r.pmode == 2) && r.n1 % 16 != 0))) ||
  (r.op == 2 && 2 ≤ r.skind) ||
  (r.esize == 0 && (r.n0 % 2 != 0 || r.plo0 % 2 != 0 || r.phi0 % 2 != 0 || ((r.op == 1 || r.op == 5) && r.n1 % 2 != 0))) ||
  r.sstr1 % e != 0 || r.sstr2 % e != 0 || r.dstr1 % e != 0 || r.dstr2 % e != 0

/-- The ops of the mnemonics cpy, cpyg and cfill, by sub-op. -/
def copyOps (sub : Nat) : List Nat :=
  match sub with
  | 0 => [0, 1, 4, 5]
  | 1 => [2]
  | _ => [3]

/-- Check 2 of R304. -/
def CopyRec.malformed (r : CopyRec) (t : Team) (sub : Nat) : Bool :=
  r.reserved || !(copyOps sub).contains r.op || r.limits || r.unused || r.staddr % 16 != 0 ||
  (r.dkind != 0 && !(r.dstParts.all fun p => t.pairedRange r.dkind p.1 p.2)) ||
  (!r.stloc && !t.unpairedRange 1 r.staddr 16)

/-- The extents of R304 check 4 through a handle or in a window. -/
def CopyRec.extents (r : CopyRec) (iss : Issue) (t : Team) : Option (FaultCode × Nat) :=
  let mem := fun (h o n : Nat) =>
    if handleLen (iss.hreg h) < o + n then some (FaultCode.handleBounds, vaOf (iss.hreg h) o) else none
  let buf := fun (space o n : Nat) =>
    if t.window space * (if space == 3 then 64 else 1) < o + n then some (FaultCode.bufBounds, 0) else none
  let src := if r.op == 3 then none else if r.skind == 0 then mem r.sh r.soff r.srcSpan else buf r.skind r.soff r.srcSpan
  let (e, rows, planes) := r.shape
  let dst := if r.dkind == 0 then mem r.dh r.doff (spanOf (r.bytes e) rows planes r.dstr1 r.dstr2)
    else if (r.dstParts.any fun p => decide (t.window r.dkind < p.1 + p.2)) then some (.bufBounds, 0) else none
  let idx := if r.op == 2 then mem r.xh r.value (4 * r.n1) else none
  let st := if r.stloc then mem r.sth r.staddr 16 else buf 1 r.staddr 16
  [src, dst, idx, st].findSome? id

/-- The rights of R304 check 3. -/
def CopyRec.rights (r : CopyRec) (iss : Issue) (c : Ctx) : Option FaultCode :=
  let need := fun (h right : Nat) => checkHandle c (iss.hreg h) 0 0 1 [right] []
  [if r.op != 3 && r.skind == 0 then need r.sh 0 else none, if r.op == 2 then need r.xh 0 else none,
   if r.dkind == 0 then need r.dh 4 else none, if r.stloc then need r.sth 1 else none].findSome? id

/-- Checks 2 to 4 of R304 on a record. -/
def State.copyFault (s : State) (iss : Issue) (sub : Nat) (r : CopyRec) : Option (FaultCode × Nat) :=
  if r.malformed (s.teamOf iss.gid) sub then some (.engineRecord, 0)
  else
    match r.rights iss (s.ctxI iss) with
    | some c => some (c, 0)
    | none => r.extents iss (s.teamOf iss.gid)

/-- Bytes as eight-byte words. -/
def wordsOf (bs : List Byte) : List Nat := (List.range (bs.length / 8)).map fun i => ofBytes ((bs.drop (8 * i)).take 8)

/-- Reads a command record of n bytes from the A-buffer window or, under `mem`, through a handle before commit (R301): its bytes, or
how the instruction ends. -/
def State.fetchRecord (s : State) (iss : Issue) (f : FE) (ls : Lits) (mem : Bool) (n unit : Nat) (k : State → List Byte → Result) :
    Result :=
  let a := iss.addrE f ls unit
  if !s.mayRead? iss then .next s.stall
  else if mem then
    let h := iss.hreg f.h.toNat
    match checkHandle (s.ctxI iss) h a n 64 [0] [] with
    | some c => s.faultAll iss c (vaOf h a)
    | none =>
      match s.handleRead iss.reader (s.ctxI iss) iss.before.core h a.toNat n with
      | .ok bs s => k s bs
      | .fail c va s => s.faultAll iss c va
      | .wait s => .next s.stall
  else
    match s.recordFault iss a n 64 with
    | some c => s.faultAll iss c
    | none => k s (s.bufRead iss.before.team 1 (unitOf 1 iss.before.core) false a.toNat n)

/-- cpy, cpyg and cfill (R301, R304). -/
def copyExec (i : Instr) (f : FE) (ls : Lits) (s : State) : Result :=
  s.withIssue fun iss s =>
    s.fetchRecord iss f ls (f.aux.getLsbD 0) 64 64 fun s bs =>
      match s.copyFault iss f.sub.toNat (CopyRec.ofWords (wordsOf bs)) with
      | some (c, va) => s.faultAll iss c va
      | none => s.finish iss (2 + ls.length) [.act i iss.idx iss.lanes [] [] [] (wordsOf bs)]

/-- cpy (R302). -/
def execCpy (f : FE) (ls : Lits) (s : State) : Result := copyExec (.cpy f ls) f ls s
/-- cpyg (R302). -/
def execCpyg (f : FE) (ls : Lits) (s : State) : Result := copyExec (.cpyg f ls) f ls s
/-- cfill (R302). -/
def execCfill (f : FE) (ls : Lits) (s : State) : Result := copyExec (.cfill f ls) f ls s

/-- The ranges that a copy command reads and writes (R279, R305). -/
def CopyRec.ranges (r : CopyRec) (iss : Issue) : List Range × List Range :=
  let t := iss.before.team
  let at' := fun (kind h o n : Nat) =>
    if kind == 0 then memRange (handleAsid (iss.hreg h)) (vaOf (iss.hreg h) o) n else bufRange t kind iss.before.core o n
  let src := if r.op == 3 then []
    else if r.skind == 3 then [bufRange t 3 0 (r.soff / 512 * 8) (((r.soff + r.srcSpan - 1) / 512 + 1) * 8 - r.soff / 512 * 8)]
    else [at' r.skind r.sh r.soff r.srcSpan]
  let idx := if r.op == 2 then [at' 0 r.xh r.value (4 * r.n1)] else []
  (src ++ idx, r.dstParts.map fun p => at' r.dkind r.dh p.1 p.2)

/-- The commit of cpy, cpyg and cfill (R297, R305). -/
def commitCopy (f : FE) (iss : Issue) (idx : Nat) (n : List Nat) (s : State) : State :=
  let r := CopyRec.ofWords n
  let (rd, wr) := r.ranges iss
  s.acceptCommand iss idx f.d 0
    { kind := .copy, ctx := 0, team := 0, words := n, handles := [r.sh, r.dh, r.xh, r.sth].map iss.hreg,
      n := [if r.stloc then 1 else 0, r.staddr], reads := rd, writes := wr }

/-! ### Running a copy command -/

/-- Continues with an engine access's bytes. -/
def EngR.andThen (r : EngR) (k : List Byte → State → EngR) : EngR :=
  match r with
  | .ok d s => k d s
  | r => r

/-- Bytes of a source or of the visible side of a window; of a W-store at linear addresses (R301). -/
def State.copyRead (s : State) (c : Command) (kind h o n : Nat) : EngR :=
  match kind with
  | 0 => s.handleRead c.reader (s.ctx c.ctx) c.core (c.handles.getD h 0) o n
  | 3 => .ok ((List.range n).map fun i => (s.team c.team).bufByte 3 (wstoreAt (o + i)).1 false (wstoreAt (o + i)).2) s
  | _ => .ok (s.bufRead c.team kind (unitOf kind c.core) false o n) s

/-- Writes to the shadow side of a destination (R299). -/
def State.copyWrite (s : State) (c : Command) (kind o : Nat) (bs : List Byte) : EngR :=
  match kind with
  | 0 => s.handleWrite (s.ctx c.ctx) c.core (c.handles.getD 1 0) o .shadow false bs
  | 3 => .ok [] (bs.zipIdx.foldl (fun (s : State) p => s.bufWrite c.team 3 (wstoreAt (o + p.2)).1 true (wstoreAt (o + p.2)).2 [p.1]) s)
  | _ => .ok [] (s.bufWrite c.team kind (unitOf kind c.core) true o bs)

/-- The elements in bytes. -/
def CopyRec.elems (r : CopyRec) (bs : List Byte) : List Nat :=
  if r.esize == 0 then bs.flatMap fun b => [b.toNat % 16, b.toNat / 16]
  else (List.range (bs.length / (r.ebits / 8))).map fun i => ofBytes ((bs.drop (i * (r.ebits / 8))).take (r.ebits / 8))

/-- Elements as bytes; 4-bit elements come in pairs. -/
def CopyRec.pack (r : CopyRec) (es : List Nat) : List Byte :=
  if r.esize == 0 then (List.range (es.length / 2)).map fun i => BitVec.ofNat 8 (es.getD (2 * i) 0 % 16 + es.getD (2 * i + 1) 0 % 16 * 16)
  else es.flatMap fun e => toBytes (r.ebits / 8) e

/-- Row j of plane p of the source. -/
def State.srcRow (s : State) (c : Command) (r : CopyRec) (p j : Nat) : EngR :=
  s.copyRead c r.skind 0 (r.soff + p * r.sstr2 + j * r.sstr1) (r.bytes r.n0)

/-- Column i of the source's plane 0, for transpose: its elements as bytes of the destination row. -/
def State.srcColumn (s : State) (c : Command) (r : CopyRec) (i : Nat) : EngR :=
  let step := fun (x : EngR) (j : Nat) => x.andThen fun d s =>
    (s.copyRead c r.skind 0 (r.soff + j * r.sstr1 + i * r.ebits / 8) (max 1 (r.ebits / 8))).andThen fun bs s =>
      .ok (d ++ (if r.esize == 0 then [BitVec.ofNat 8 (if i % 2 == 0 then ofBytes bs % 16 else ofBytes bs / 16)] else bs)) s
  ((List.range r.n1).foldl step (.ok [] s)).andThen fun d s => .ok (if r.esize == 0 then r.pack (d.map (·.toNat)) else d) s

/-- The bytes of n elements of the constant. -/
def CopyRec.constant (r : CopyRec) (n : Nat) : List Byte := r.pack (List.replicate n (r.value % 2 ^ r.ebits))

/-- Destination row k in order (plane p, row j) of every op but wpack (R302). -/
def State.copyRow (s : State) (c : Command) (r : CopyRec) (k : Nat) : EngR :=
  let (e, rows, _) := r.shape
  let p := k / rows
  let j := k % rows
  let row := match r.op with
    | 0 => s.srcRow c r p j
    | 1 => s.srcColumn c r j
    | 2 => (s.copyRead c 0 2 (r.value + 4 * j) 4).andThen fun x s =>
        if r.n1 ≤ ofBytes x then .fail .handleBounds (vaOf (c.handles.headD 0) (r.soff + ofBytes x * r.sstr1)) s
        else s.srcRow c r 0 (ofBytes x)
    | 4 =>
      if j < r.plo1 || r.plo1 + r.n1 ≤ j then .ok (r.constant e) s
      else (s.srcRow c r 0 (j - r.plo1)).andThen fun d s => .ok (r.constant r.plo0 ++ d ++ r.constant r.phi0) s
    | _ => .ok (r.constant e) s
  row.andThen fun d s => s.copyWrite c r.dkind (r.doff + p * r.dstr2 + j * r.dstr1) d

/-- Writes one element of a slice's shadow side; a 4-bit element merges into its byte. -/
def State.sliceElem (s : State) (c : Command) (r : CopyRec) (slice base k x : Nat) : State :=
  if r.esize == 0 then
    let a := base + k / 2
    let old := ((s.team c.team).bufByte 3 slice true a).toNat
    let b := if k % 2 == 0 then old / 16 * 16 + x % 16 else old % 16 + x % 16 * 16
    s.bufWrite c.team 3 slice true a [BitVec.ofNat 8 b]
  else s.bufWrite c.team 3 slice true (base + r.bytes k) (toBytes (r.ebits / 8) x)

/-- The kept positions of a group of sixteen (R303): those not zero in value, then the lowest others, in ascending order; `none` when
too many are not zero. -/
def keepPositions (ebits kept : Nat) (xs : List Nat) : Option (List Nat) :=
  let nz := (List.range 16).filter fun k => xs.getD k 0 % 2 ^ (ebits - 1) != 0
  if kept < nz.length then none
  else
    let more := ((List.range 16).filter fun k => !nz.contains k).take (kept - nz.length)
    some ((List.range 16).filter fun k => nz.contains k || more.contains k)

/-- One group of sixteen rows of a sparse wpack. -/
def State.packGroup (s : State) (c : Command) (r : CopyRec) (g : Nat) : EngR :=
  let rows := (List.range 16).foldl (fun (x : EngR × List (List Nat)) k =>
    match x.1 with
    | .ok _ s =>
      match s.srcRow c r 0 (16 * g + k) with
      | .ok d s => (.ok [] s, x.2 ++ [r.elems d])
      | f => (f, x.2)
    | f => (f, x.2)) (EngR.ok [] s, [])
  rows.1.andThen fun _ s =>
    let cols := (List.range 64).map fun c => rows.2.map fun row => row.getD c 0
    match cols.mapM (keepPositions r.ebits r.kept) with
    | none => .fail .packDensity 0 s
    | some ps =>
      .ok [] (((cols.zip ps).zipIdx).foldl (fun (s : State) x =>
        (x.1.2.zipIdx).foldl (fun (s : State) q =>
          let v := x.1.1.getD q.1 0
          let v := if v % 2 ^ (r.ebits - 1) == 0 then 0 else v
          let n := g * r.kept + q.2
          let s := s.sliceElem c r x.2 r.doff n v
          s.sliceElem c { r with esize := 0 } x.2 (bits r.value 17 0) n q.1) s) s)

/-- One unit of a wpack: a source row, or sixteen of them when sparse (R303). -/
def State.packRow (s : State) (c : Command) (r : CopyRec) (k : Nat) : EngR :=
  if r.pmode == 1 || r.pmode == 2 then s.packGroup c r k
  else
    (s.srcRow c r 0 k).andThen fun d s =>
      .ok [] ((r.elems d).zipIdx.foldl (fun (s : State) p => s.sliceElem c r p.2 r.doff k p.1) s)

/-- The units of a command and the rows that each counts in its progress. -/
def CopyRec.units (r : CopyRec) : Nat × Nat :=
  if r.op == 5 then (if r.pmode == 1 || r.pmode == 2 then (r.n1 / 16, 16) else (r.n1, 1))
  else
    let (_, rows, planes) := r.shape
    (rows * planes, 1)

/-- A copy of a COPY node: page by page from one range of the context's own address space to the shadow side of another (R395). -/
def State.walkCopyPage (s : State) (c : Command) (k : Nat) : EngR :=
  let x := s.ctx c.ctx
  let at' := fun i => c.words.getD i 0 + 4096 * k
  (s.engRead c.reader x c.core x.asid (at' 0) 4096 true).andThen fun d s => s.engWrite x c.core x.asid (at' 1) .shadow true false d

/-- Runs a copy command from where it stands (R302): it ends, or keeps how far it came and waits. -/
def State.runCopy (s : State) (id : Nat) (c : Command) : State :=
  let r := CopyRec.ofWords c.words
  let (units, per) := if c.walk.isSome then (c.words.getD 2 0 / 4096, 1) else r.units
  let unit := fun (s : State) (k : Nat) =>
    if c.walk.isSome then s.walkCopyPage c k else if r.op == 5 then s.packRow c r k else s.copyRow c r k
  let first := c.progress / per
  let (n, res) := (List.range (units - first)).foldl (fun (x : Nat × EngR) i =>
    match x.2 with
    | .ok _ s =>
      match unit s (first + i) with
      | .ok _ s => (x.1 + per, EngR.ok [] s)
      | f => (x.1, f)
    | _ => x) (first * per, EngR.ok [] s)
  let c := { c with progress := n }
  match res with
  | .ok _ s => s.endCommand id c none
  | .fail code va s => s.endCommand id c (some (code, va))
  | .wait s => s.setCommand id c

/-! ### The copy engine's queue (R305) -/

/-- Whether a command is queued or running. -/
def Command.live (c : Command) : Bool := c.state ≤ 1

/-- The copy commands that a cluster's engine holds. -/
def State.copiesHeld (s : State) (q : Nat) : List (Nat × Command) :=
  s.commands.filter fun p => p.2.kind == .copy && p.2.core / 4 == q && p.2.live

/-- Whether the pending publication of a round holds back a later command of a context on some ranges (R300, R338). -/
def State.roundClaims (s : State) (id ctx : Nat) (rs : List Range) : Bool :=
  s.combines.any fun p => p.2.rounds.any fun r => match r.2.claim with
    | some (k, cs) => decide (k ≤ id) && cs.any fun c => c.1 == ctx && Range.meet rs [c.2]
    | none => false

/-- Whether a pending publish of an overlapping range, or publication of a round, holds back a later command's start (R300, R338). -/
def State.publishPending (s : State) (id : Nat) (c : Command) : Bool :=
  (s.commands.any fun p => decide (p.1 < id) && p.2.live && p.2.kind == .publish && p.2.ctx == c.ctx && Range.meet (c.reads ++ c.writes) p.2.writes) ||
  s.roundClaims id c.ctx (c.reads ++ c.writes)

/-- Whether an earlier command, publish or publication of a round, or matrix work, holds a copy command back (R279, R300, R305); one that a
save has stopped has not ended. -/
def State.copyHeld (s : State) (id : Nat) (c : Command) : Bool :=
  (s.commands.any fun p => decide (p.1 < id) && (p.2.live || p.2.state == 4) && p.2.kind == .copy && p.2.core / 4 == c.core / 4 &&
    (Range.meet c.reads p.2.writes || Range.meet c.writes p.2.writes || Range.meet c.writes p.2.reads)) ||
  s.publishPending id c || workHolds s.works c.reads []

/-- COPY_COMMAND_START: the oldest queued command starts when fewer than four run and nothing holds it (R305). -/
def execCopyCommandStart (cluster id : Nat) (s : State) : Result :=
  let held := s.copiesHeld cluster
  match held.find? fun p => p.2.state == 0 with
  | some (k, c) =>
    .next (if k == id && (held.filter fun p => p.2.state == 1).length < 4 && !s.copyHeld k c then s.noteCommand k { c with state := 1 } else s)
  | none => .next s

/-- COPY_COMMAND_COMPLETION: a running command has read its source and written its destination, and completes (R305). -/
def execCopyCommandCompletion (cluster id : Nat) (s : State) : Result :=
  match s.commands.find? id with
  | some c =>
    if c.kind == .copy && c.core / 4 == cluster && c.state == 1 then .next (s.runCopy id c).settle else .next s
  | none => .next s

/-- ENGINE_STATUS_UPDATE: word 1 of a running command's status is written, or a state that is still owed (R298). -/
def execEngineStatusUpdate (id : Nat) (s : State) : Result :=
  match s.commands.find? id with
  | some c => .next (if c.state == 1 || c.owed then s.noteCommand id c else s)
  | none => .next s

/-- Whether a command's status record is due to be written: a change of state is owed, or 4,096 ACLK of running have passed (R298). -/
def State.statusDue (s : State) (c : Command) : Bool := c.owed || (c.state == 1 && decide (c.noted + 8192 ≤ s.clock))

/-! ### publish (R300, R312) -/

/-- publish (R312). -/
def execPublish (f : FE) (ls : Lits) (s : State) : Result :=
  s.withIssue fun iss s =>
    let kind := bits f.aux.toNat 1 0
    let n := (iss.uniformB f ls).toNat
    if kind == 3 then
      let h := iss.hreg f.h.toNat
      let e := iss.addrE f ls 4096
      match checkHandle (s.ctxI iss) h e n 4096 (rightsAt f.scope.toNat [4]) [] with
      | some c => s.faultAll iss c (vaOf h e)
      | none =>
        if n % 4096 != 0 then s.faultAll iss .misaligned (vaOf h e)
        else if !s.mayRead? iss then .next s.stall
        else s.finish iss (2 + ls.length) [.act (.publish f ls) iss.idx iss.lanes [] [] [] [3, vaOf h e, n, handleAsid h]]
    else
      let space := kind + 1
      let a := iss.addrE f ls (bankSize space)
      let t := s.teamOf iss.gid
      let b := (a / (bankSize space : Int)).toNat
      if a % (bankSize space : Int) != 0 then s.faultAll iss .misaligned
      else if a < 0 || n == 0 || 16 < n || !((List.range n).all fun i => t.paired space (b + i)) then s.faultAll iss .engineRecord
      else if !s.mayRead? iss then .next s.stall
      else s.finish iss (2 + ls.length) [.act (.publish f ls) iss.idx iss.lanes [] [] [] [kind, a.toNat, n * bankSize space, 0]]

/-- The commit of publish: it is accepted and holds until R300 lets it act. -/
def commitPublish (iss : Issue) (idx : Nat) (n : List Nat) (s : State) : State :=
  let (e, s) := s.addEvent { iss.event idx iss.lanes with wait := .command s.nextId }
  let a := n.getD 1 0
  let w := if n.headD 0 == 3 then memRange (n.getD 3 0) a (n.getD 2 0) else bufRange iss.before.team (n.headD 0 + 1) iss.before.core a (n.getD 2 0)
  let (id, s) := s.addCommand
    { kind := .publish, ctx := s.ctxOf iss.gid, team := iss.before.team, gid := iss.gid, core := iss.before.core,
      lane := lowestLane iss.lanes, event := some e, n := n, writes := [w] }
  s.modEvent e fun d => { d with wait := .command id }

/-- Whether an earlier command of the context whose destination or publish overlaps, or matrix work, holds a publish (R279, R300). -/
def State.publishHeld (s : State) (id : Nat) (c : Command) : Bool :=
  (s.commands.any fun p => decide (p.1 < id) && p.2.ctx == c.ctx && (p.2.live || p.2.state == 4) && Range.meet c.writes p.2.writes) ||
    s.roundClaims id c.ctx c.writes || workHolds s.works [] c.writes

/-- A publish swap of one pair: both banks are preserved before it (R349, R350). -/
def State.swapPair (s : State) (team space unit bank : Nat) : State :=
  let k := pairKey space unit bank
  let units := if space == 3 then List.range 64 else [unit]
  let s := units.foldl (fun (s : State) u => [false, true].foldl (fun (s : State) side =>
    s.cow (5 + space) team (bankIndex u bank side) fun s => s.bankBytes team space u bank side) s) s
  s.modTeam team fun t => { t with swapped := t.swapped.put k (!t.swapped.get k false) false }

/-- The pages of a flip as a flat list: base, page size and reach; the leaves of a 64 KiB page are one page (R171, R299). -/
def flipList (ls : List Leaf) : List Nat := (ls.map fun l => [l.pageBase, l.pageSize, pteReach l.pte]).eraseDups.flatten

/-- Triples from a flat list. -/
def triplesOf : List Nat → List (Nat × Nat × Nat)
  | a :: b :: c :: r => (a, b, c) :: triplesOf r
  | _ => []

/-- Whether some page of a flip is in transition. -/
def State.flipping (s : State) (ps : List Nat) : Bool := (triplesOf ps).any fun p => (s.pageOps.find? (p.1 / 4096)).isSome

/-- The pages of a flip go into transition with both their sides, at their homes and on every chip within their reach (R300 step 4). -/
def State.flipBegin (s : State) (ps : List Nat) : State :=
  (triplesOf ps).foldl (fun (s : State) p => s.pageBegin p.1 (2 * p.2.1) p.2.2) s

/-- Whether every page of a flip has been shot down, its accesses performed and its lines dropped everywhere. -/
def State.flipReady (s : State) (ps : List Nat) : Bool := (triplesOf ps).all fun p => s.pageReady p.1

/-- Whether a page of a flip is no longer in transition, because its home could not be reached (R327). -/
def State.flipLost (s : State) (ps : List Nat) : Bool := (triplesOf ps).any fun p => (s.pageOps.find? (p.1 / 4096)).isNone

/-- Flips the sides of pages at one instant and lets their translations resume; a page of another home is flipped there and stays in
transition here until its home says so (R300 step 4). -/
def State.flipEnd (s : State) (ps : List Nat) : State :=
  (triplesOf ps).foldl (fun (s : State) p =>
    let side := !s.sides.contains p.1
    let arg := if side then 1 else 0
    if chipOf p.1 == s.chip then (s.setSide p.1 side).pageClose p.1 (2 * p.2.1) shootFlip arg (s.pageChips p.2.2)
    else s.sendCoh (chipOf p.1) .convert p.1 0 (pageAsk p.1) (toBytes 1 shootFlip ++ toBytes 8 (2 * p.2.1) ++ toBytes 1 arg)) s

/-- Gives up a flip: its pages leave transition as they were. -/
def State.flipAbandon (s : State) (ps : List Nat) : State :=
  (triplesOf ps).foldl (fun (s : State) p =>
    if chipOf p.1 == s.chip then s.pageClose p.1 (2 * p.2.1) shootEnd 0 (s.pageChips p.2.2)
    else s.sendCoh (chipOf p.1) .convert p.1 0 (pageAsk p.1) (toBytes 1 shootEnd ++ toBytes 8 (2 * p.2.1) ++ toBytes 1 0)) s

/-- The command of a COPY node's publish, or one of a program, has acted. -/
def State.publishDone (s : State) (id : Nat) (c : Command) (f : Option (FaultCode × Nat)) : State :=
  (s.settleCommand id { c with state := if f.isSome then 3 else 2, code := (f.map fun x => x.1.num).getD 0 } f).settle

/-- A publish of memory (R300, R312): every page must be publishable before any flips. The command's words are the stage of its flip (1 shot
down, 2 flipped) and the pages. -/
def State.publishMem (s : State) (id : Nat) (c : Command) : State :=
  let ps := c.words.drop 1
  if c.words.headD 0 == 1 then
    let s := s.pageDrain
    if s.flipLost ps then (s.flipAbandon ps).publishDone id c (some (.fabLoss, c.n.getD 1 0))
    else if s.flipReady ps then (s.flipEnd ps).setCommand id { c with words := 2 :: ps }
    else s
  else if c.words.headD 0 == 2 then if s.flipping ps then s else s.publishDone id c none
  else
  match s.range (s.ctx c.ctx) c.core (c.n.getD 3 0) (c.n.getD 1 0) (c.n.getD 2 0) with
  | (.fail code va, s) => s.publishDone id c (some (code, va))
  | (.away g w, s) => s.request g w
  | (.ok segs, s) =>
    match segs.find? fun g => !pteBit g.leaf.pte 15 with
    | some g => s.publishDone id c (some (.engineDest, g.va))
    | none =>
      let ps := flipList (segs.map (·.leaf))
      if s.flipping ps then s else (s.flipBegin ps).setCommand id { c with words := 1 :: ps }

/-- PUBLISH_EXECUTION: a publish that nothing holds swaps its banks or flips its pages, and lands (R300); none begins while its context
pauses for a snapshot record (R347). -/
def execPublishExecution (id : Nat) (s : State) : Result :=
  match s.commands.find? id with
  | some c =>
    if c.kind != .publish || !c.live || s.publishHeld id c || (c.words.isEmpty && s.pausing c.ctx) then .next s
    else if c.n.headD 0 == 3 then .next (s.publishMem id c)
    else
      let space := c.n.headD 0 + 1
      let s := (List.range (c.n.getD 2 0 / bankSize space)).foldl (fun (s : State) i =>
        s.swapPair c.team space (unitOf space c.core) (c.n.getD 1 0 / bankSize space + i)) s
      .next (s.publishDone id c none)
  | none => .next s

/-! ### ewait and estat (R313) -/

/-- A stale word of ewait and estat. -/
def staleEngine (t : Nat) : Word := BitVec.ofNat 64 (8 + t % 2 ^ 18 * 2 ^ 16)

/-- The status word that a ticket gives: stale when the team has no such command. -/
def State.engineWord (s : State) (team ticket : Nat) : Word :=
  match s.commandOf team (ticket % 2 ^ 18) with
  | some (_, c) => BitVec.ofNat 64 c.word0
  | none => staleEngine ticket

/-- ewait (R313). -/
def execEwait (f : FE) (ls : Lits) (s : State) : Result := ticketExec false (.ewait f ls) f ls s

/-- estat (R313, R405). -/
def execEstat (f : FE) (ls : Lits) (s : State) : Result := ticketExec true (.estat f ls) f ls s

/-- The commit of ewait: its event holds each lane's ticket until it lands. -/
def commitEwait (i : Instr) (f : FE) (iss : Issue) (idx : Nat) (x : LaneVals) (s : State) : State :=
  (s.addEvent { iss.event idx iss.lanes with wait := .condition i [iss.before.team], v := [(f.d.toNat, x)] }).2

/-- The commit of estat: the word as it stands. -/
def commitEstat (f : FE) (iss : Issue) (idx : Nat) (x : LaneVals) (s : State) : State :=
  s.laterResult iss idx f.d (iss.lanesOf fun l => s.engineWord iss.before.team (x.at l).toNat)

/-- The landing of ewait once every command that its lanes name has ended. -/
def State.ewaitLands (s : State) (id : Nat) (d : Deferred) (n : List Nat) : Option State :=
  let team := n.headD 0
  let ts := (d.v.headD (0, [])).2
  let ended := fun l => match s.commandOf team ((ts.at l).toNat % 2 ^ 18) with
    | some (_, c) => c.state == 2 || c.state == 3
    | none => true
  if (Lanes.list d.lanes).all ended then
    let w := LaneVals.of fun l => if d.lanes.has l then s.engineWord team (ts.at l).toNat else 0
    some ((s.modEvent id fun d => { d with v := d.v.map fun p => (p.1, w) }).acquireAll (s.group d.gid).cluster 1)
  else none

/-! ### Digests (R309, R310) -/

/-- The entries of a digest record: offset and length. -/
def digestEntries (n : Nat) (bs : List Byte) : List (Nat × Nat) :=
  (List.range n).map fun i => (ofBytes ((bs.drop (16 + 16 * i)).take 8), ofBytes ((bs.drop (24 + 16 * i)).take 8))

/-- Whether ranges are pairwise disjoint. -/
def disjointRanges : List (Nat × Nat) → Bool
  | [] => true
  | p :: ps => (ps.all fun q => decide (p.1 + p.2 ≤ q.1) || decide (q.1 + q.2 ≤ p.1)) && disjointRanges ps

/-- Whether entries keep the limits of Table 13·3. -/
def entriesOk (es : List (Nat × Nat)) : Bool := (es.all fun p => 1 ≤ p.2 && decide (p.2 < 2 ^ 40)) && disjointRanges es

/-- Whether part of the A-buffer window lies in it and outside publish pairs. -/
def Team.plainRange (t : Team) (lo n : Nat) : Bool := decide (lo + n ≤ t.window 1) && t.unpairedRange 1 lo n

/-- dgst (R309). -/
def execDgst (f : FE) (ls : Lits) (s : State) : Result :=
  s.withIssue fun iss s =>
    let a := iss.addrE f ls 64
    let t := s.teamOf iss.gid
    if !s.mayRead? iss then .next s.stall
    else
      match s.recordFault iss a 16 1 with
      | some c => s.faultAll iss c
      | none =>
        let r := s.record iss a.toNat 16
        let n := bits r 6 0
        match s.recordFault iss a (16 + 16 * n) 64 with
        | some c => s.faultAll iss c
        | none =>
          let es := digestEntries n (s.bufRead iss.before.team 1 (unitOf 1 iss.before.core) false a.toNat (16 + 16 * n))
          let h := iss.hreg f.h.toNat
          let out := bits r 47 16
          let st := bits r 79 48
          if n == 0 || 64 < n || bits r 15 7 != 0 || bits r 127 80 != 0 || !entriesOk es || out % 32 != 0 || st % 16 != 0 ||
              !t.plainRange out 32 || !t.plainRange st 16 then s.faultAll iss .engineRecord
          else
            match checkHandle (s.ctxI iss) h 0 0 1 [0] [] with
            | some c => s.faultAll iss c
            | none =>
              match es.find? fun p => decide (handleLen h < p.1 + p.2) with
              | some p => s.faultAll iss .handleBounds (vaOf h p.1)
              | none =>
                s.finish iss (2 + ls.length)
                  [.act (.dgst f ls) iss.idx iss.lanes [] [] [] (st :: out :: es.flatMap fun p => [p.1, p.2])]

/-- The commit of dgst. -/
def commitDgst (f : FE) (iss : Issue) (idx : Nat) (n : List Nat) (s : State) : State :=
  let h := iss.hreg f.h.toNat
  s.acceptCommand iss idx f.d 2
    { kind := .digest, ctx := 0, team := 0, words := n.drop 1, handles := [h], n := [0, n.headD 0],
      reads := (pairsOf (n.drop 2)).map fun p => memRange (handleAsid h) (vaOf h p.1) p.2 }

/-- The digest commands that the engine holds. -/
def State.digestsHeld (s : State) : List (Nat × Command) :=
  s.commands.filter fun p => (p.2.kind == .digest || p.2.kind == .gridDigest) && p.2.live

/-- Inserts a range in ascending order of its start. -/
def insertRange (p : Nat × Nat) : List (Nat × Nat) → List (Nat × Nat)
  | [] => [p]
  | q :: qs => if p.1 ≤ q.1 then p :: q :: qs else q :: insertRange p qs

/-- The message of a digest: its ranges' bytes in ascending order (R310). -/
def State.digestRead (s : State) (who : Nat) (c : Ctx) (core : Nat) (h : HandleBits) (es : List (Nat × Nat)) : EngR :=
  (es.foldr insertRange []).foldl (fun (x : EngR) p => x.andThen fun d s =>
    (s.handleRead who c core h p.1 p.2).andThen fun b s => .ok (d ++ b) s) (.ok [] s)

/-- Runs a program's digest command: it starts once no publish of its ranges is pending (R300), and its digest and the end of its status
record are written in one step, after the last byte is read (R310). -/
def State.runDigest (s : State) (id : Nat) (c : Command) : State :=
  if c.state == 0 then if s.publishPending id c then s else s.noteCommand id { c with state := 1 }
  else if workHolds s.works [] [bufRange c.team 1 c.core c.statusAt.2 16] then s
  else
  match s.digestRead c.reader (s.ctx c.ctx) c.core (c.handles.headD 0) (pairsOf (c.words.drop 1)) with
  | .ok m s =>
    (s.bufWrite c.team 1 (unitOf 1 c.core) false (c.words.headD 0) (sha256 m)).endCommand id { c with progress := m.length } none
  | .fail code va s => s.endCommand id c (some (code, va))
  | .wait s => s

end Sys2Proof.Machine
end

