-- ==== Sys2Proof/Machine/Migrate.lean ====
section
/-!
DEFINITION. The migration engine (R188, R307, R308, R379): frame pools, moving a page, choosing one to evict, mig and preq; and the
removal of TLB entries (R389).
-/

namespace Sys2Proof.Machine

/-! ### Pages as the tables hold them -/

/-- The leaf of an address, resident or not, as the tables in memory hold it; a table whose grain another chip must send is away. -/
def State.rawWalk (s : State) (va table level : Nat) : Nat → Tr
  | 0 => .malformed
  | n + 1 =>
    let ea := table + 8 * (va / levelSize level % 1024)
    let p := s.pteAt ea
    if !s.mayRead (grainOf ea) then .away (grainOf ea) false
    else if !pteBit p 0 then .absent
    else if pteBit p 1 then
      if level == 0 || pteReach p == 3 then .malformed
      else .leaf { pte := p, size := levelSize level, vbase := va / levelSize level * levelSize level, pteAddr := ea } 0
    else if level == 3 then .malformed
    else s.rawWalk va (pteFrame p) (level + 1) n

/-- The page of an address: a leaf, or the sixteen of a 64 KiB page as one (R171). -/
def State.rawLeaf (s : State) (c : Ctx) (asid va : Nat) : Tr :=
  match c.root asid with
  | none => .absent
  | some t =>
    match s.rawWalk va t 0 4 with
    | .leaf l pa =>
      if l.size == 4096 && pteBit l.pte 14 then
        let i := l.vbase / 4096 % 16
        let first := l.pteAddr - 8 * i
        .leaf { l with pte := s.pteAt first, size := 65536, vbase := l.vbase - 4096 * i, pteAddr := first } pa
      else .leaf l pa
    | r => r

/-- The size code of a frame pool for a page size (R379). -/
def sizeCode (size : Nat) : Nat :=
  if size == 4096 then 0 else if size == 65536 then 1 else if size == 2 ^ 22 then 2 else 3

/-- A number in memory that a context's page maps and holds resident, as the engine may look ahead at it. -/
def State.peekNat (s : State) (c : Ctx) (va n : Nat) : Option Nat :=
  match s.rawLeaf c c.asid va with
  | .leaf l _ => if pteBit l.pte 10 && !pteHost l.pte then some (s.readNat (l.pa (s.sideOf l) va) n) else none
  | _ => none

/-! ### Frame pools (R379) -/

/-- The entry of a frame pool that a frame of a size is taken from: the highest-numbered one. -/
def State.poolEntry (s : State) (pool size : Nat) : Option Nat :=
  if pool == 0 then none
  else (List.range (s.readNat pool 4)).reverse.find? fun i => bits (s.readNat (pool + 8 + 8 * i) 8) 1 0 == size

/-- A write of the migration engine to a pool or a table, sector by sector. -/
def State.migWrite (s : State) (pa : Nat) (bs : List Byte) : State :=
  if bs.isEmpty then s
  else (sectorsOf pa bs.length).foldl (fun (s : State) p => (s.recall (grainOf p.1)).homePut p.1 ((bs.drop (p.1 - pa)).take p.2)) s

/-- The first grain of a frame pool that this chip may not yet write: the header's, then those of its entries and of the next. -/
def State.poolAway (s : State) (pool : Nat) : Option Nat :=
  if pool == 0 then none
  else if !s.mayWrite (grainOf pool) then some (grainOf pool)
  else (grainsOf [(pool, 16 + 8 * s.readNat pool 4)]).find? fun g => !s.mayWrite g

/-- Takes a frame of a size from a pool, the entries above its own moving down. -/
def State.poolTake (s : State) (pool size : Nat) : Option (Nat × State) :=
  (s.poolEntry pool size).map fun i =>
    let n := s.readNat pool 4
    let entry := fun i => s.readNat (pool + 8 + 8 * i) 8
    let above := (List.range (n - 1 - i)).flatMap fun k => toBytes 8 (entry (i + 1 + k))
    (bits (entry i) 51 12 * 4096, (s.migWrite (pool + 8 + 8 * i) above).migWrite pool (toBytes 4 (n - 1)))

/-- Returns a frame to a pool that has room. -/
def State.poolPut (s : State) (pool size frame : Nat) : State :=
  let n := s.readNat pool 4
  if pool == 0 || s.readNat (pool + 4) 4 ≤ n then s
  else (s.migWrite (pool + 8 + 8 * n) (toBytes 8 (frame + size))).migWrite pool (toBytes 4 (n + 1))

/-! ### Where a page's data lies -/

/-- Where a page is, and where a migration takes it (R307): resident in HBM, not resident, or resident in host memory. -/
inductive Target where
  | hbm
  | tier
  | host
  deriving DecidableEq, Repr

/-- Where a page is. -/
def Leaf.place (l : Leaf) : Target := if !pteBit l.pte 10 then .tier else if pteHost l.pte then .host else .hbm

/-- Whether the tier port has a tier (Table 17·2). -/
def State.hasTier (s : State) : Bool := bitAt s.feat0 3

/-- Whether the data of a place is held in host memory: that of a page that is not resident is, when there is no tier (R307). -/
def State.inHost (s : State) (p : Target) : Bool := p == .host || (p == .tier && !s.hasTier)

/-- The frame pool of a place. The spec names no pool of host frames beside a tier: they come from the tier pool too (DESIGN CHOICE,
notes/assumptions/96). -/
def Ctx.poolOf (c : Ctx) (p : Target) : Nat := if p == .hbm then c.hbmPool else c.tierPool

/-- The non-zero bytes of a page, by offset. -/
def cellsOf (bs : List Byte) : List (Nat × Byte) := (bs.zipIdx.filter fun p => p.1 != 0).map fun p => (p.2, p.1)

/-- The bytes of a page from its cells. -/
def bytesOf (n : Nat) (cells : List (Nat × Byte)) : List Byte :=
  (List.range n).map fun i => ((List.find? (fun p : Nat × Byte => p.1 == i) cells).map (·.2)).getD 0

/-- The part of a map that lies in a frame, by offset. -/
def mapWithin {α : Type} (m : List (Nat × α)) (base n unit : Nat) : List (Nat × α) :=
  (m.filter fun c => decide (base ≤ c.1 * unit) && decide (c.1 * unit < base + n)).map fun c => (c.1 - base / unit, c.2)

/-- The part of a map that lies outside a frame. -/
def mapWithout {α : Type} (m : List (Nat × α)) (base n unit : Nat) : List (Nat × α) :=
  m.filter fun c => !(decide (base ≤ c.1 * unit) && decide (c.1 * unit < base + n))

/-- The non-zero bytes of a page, its tags, its write-once masks and the stamps of its sectors. -/
structure PageData where
  cells : List (Nat × Byte)
  tags : List (Nat × BitVec 64)
  masks : List (Nat × BitVec 512) := []
  sectors : List (Nat × Sector) := []
  deriving DecidableEq, Repr

/-- The tags of the data that host memory or a tier holds: host frames are numbered from 2^52. -/
def hostFrame (base : Nat) : Nat := 2 ^ 52 + base

/-- Where the masks and stamps of a frame are kept: those of a tier frame are numbered from 2^53. -/
def State.frameKey (s : State) (p : Target) (base : Nat) : Nat :=
  if s.inHost p then hostFrame base else if p == .hbm then base else 2 ^ 53 + base

/-- Empties a frame: bytes and tags of a tier frame, tags of a host frame or of one of HBM, and its masks and stamps. What a live snapshot
lacks of it is preserved first (R351). -/
def State.frameClear (s : State) (p : Target) (base n : Nat) : State :=
  let s : State := if s.inHost p then s else s.preserveFrame (p == .tier) base n
  let s := { s with wsMask := mapWithout s.wsMask (s.frameKey p base) n 512, sectors := mapWithout s.sectors (s.frameKey p base) n 128 }
  if s.inHost p then { s with tierTags := mapWithout s.tierTags (hostFrame base) n 512 }
  else if p == .hbm then { s with tags := mapWithout s.tags base n 512 }
  else { s with tier := mapWithout s.tier base n 1, tierTags := mapWithout s.tierTags base n 512 }

/-- Puts a page into a frame of a place; no write of the model (R307). -/
def State.framePut (s : State) (p : Target) (base n : Nat) (d : PageData) : State :=
  let s : State := s.frameClear p base n
  let k := s.frameKey p base
  let s : State :=
    { s with wsMask := d.masks.foldl (fun (m : SMap (BitVec 512)) x => m.insert (k / 512 + x.1) x.2) s.wsMask
             sectors := d.sectors.foldl (fun (m : SMap Sector) x => m.insert (k / 128 + x.1) x.2) s.sectors }
  let tag := fun (m : SMap (BitVec 64)) (b : Nat) => d.tags.foldl (fun m t => SMap.put m (b / 512 + t.1) t.2 0) m
  if s.inHost p then { s with tierTags := tag s.tierTags (hostFrame base) }.hostPut base (bytesOf n d.cells) (bitAt (s.cfgVal 0x55) 0)
  else if p == .hbm then
    State.usePage { s with mem := d.cells.foldl (fun m c => Memory.write m (base + c.1) c.2) (mapWithout s.mem base n 1)
                           tags := tag s.tags base } base
  else
    { s with tier := d.cells.foldl (fun m c => SMap.put m (base + c.1) c.2 0) s.tier, tierTags := tag s.tierTags base }

/-- What a page in a place holds; host memory is read line by line. -/
def State.frameData (s : State) (who : Nat) (l : Leaf) : EngR × PageData :=
  let p := l.place
  let k := s.frameKey p l.base
  let page := fun (cells : List (Nat × Byte)) (tags : List (Nat × BitVec 64)) =>
    ({ cells := cells, tags := tags, masks := mapWithin s.wsMask k l.size 512, sectors := mapWithin s.sectors k l.size 128 } : PageData)
  if s.inHost p then
    match s.engHostRead who l.vbase l.base l.size with
    | .ok bs s => (.ok [] s, page (cellsOf bs) (mapWithin s.tierTags (hostFrame l.base) l.size 512))
    | r => (r, { cells := [], tags := [] })
  else if p == .hbm then (.ok [] s, page (mapWithin s.mem l.base l.size 1) (mapWithin s.tags l.base l.size 512))
  else (.ok [] s, page (mapWithin s.tier l.base l.size 1) (mapWithin s.tierTags l.base l.size 512))

/-- Whether a frame of a place is one that the tier does not have, so that an access to it fails (R422). -/
def State.beyondTier (s : State) (p : Target) (base n : Nat) : Bool :=
  p == .tier && !s.inHost p && decide (s.cfgVal 0x56 * 2 ^ 30 < base + n)

/-! ### Moving one page (R307) -/

/-- What a move of a page gives: done, a failure, or a wait; `frame` says that the wait is for a frame. -/
inductive Moved where
  | done (s : State)
  | fail (c : FaultCode) (s : State)
  | wait (frame : Bool) (s : State)
  deriving DecidableEq, Repr

/-- Rewrites the leaves of a page (R307). -/
def State.rewriteLeaf (s : State) (l : Leaf) (frame : Nat) (p : Target) : State :=
  let n := if l.size == 65536 then 16 else 1
  (List.range n).foldl (fun (s : State) i =>
    let ea := l.pteAddr + 8 * i
    let e := tagSet (s.pteAt ea) 55 16 ((frame + 4096 * i) / 4096)
    let e := tagSet e 10 10 (if p == .tier then 0 else 1)
    s.migWrite ea (toBytes 8 (tagSet e 56 56 (if p == .host then 1 else 0)).toNat)) s

/-- The bus address of a page's frame. -/
def Leaf.bus (l : Leaf) : Nat := busAddr l.pte l.base

/-- A page ends its transition here and on the chips that were told of it. -/
def State.moveEnds (s : State) (l : Leaf) : State :=
  if l.place == .tier then s else s.pageClose l.bus l.size shootEnd 0 (s.pageChips (pteReach l.pte))

/-- Moves the data of a page that is in transition, or of one that is not resident, to a place. The grains that other chips hold come
home first, and the grain of the leaf. Data that stays where it is keeps its frame. A tier access beyond the tier's size fails and is counted
(R422). -/
def State.moveData (s : State) (who : Nat) (c : Ctx) (l : Leaf) (to' : Target) : Moved :=
  let from' := l.place
  let gs := if from' == .hbm then s.tagged l.base l.size else []
  let s := gs.foldl State.recall s
  match gs.find? fun g => !s.mayWrite g && tagClass (s.tag g) < 2 with
  | some g => .wait false (s.request g true)
  | none =>
    if !s.mayWrite (grainOf l.pteAddr) then .wait false (s.request (grainOf l.pteAddr) true)
    else if s.inHost from' && s.inHost to' then .done ((s.rewriteLeaf l l.base to').moveEnds l)
    else
    match (s.poolAway (c.poolOf to')).or (s.poolAway (c.poolOf from')) with
    | some g => .wait false (s.request g true)
    | none =>
      if s.beyondTier from' l.base l.size then .fail .migFail (s.hostErr.moveEnds l)
      else
      match s.frameData who l with
      | (.wait s, _) => .wait false s
      | (.fail _ _ s, _) => .fail .migFail (s.moveEnds l)
      | (.ok _ s, d) =>
        match s.poolTake (c.poolOf to') (sizeCode l.size) with
        | none => if to' == .hbm then .wait true (s.moveEnds l) else .fail .migFail (s.moveEnds l)
        | some (frame, s) =>
          if s.beyondTier to' frame l.size then .fail .migFail ((s.poolPut (c.poolOf to') (sizeCode l.size) frame).hostErr.moveEnds l)
          else
          let s := (s.frameClear from' l.base l.size).framePut to' frame l.size d
          .done (((s.poolPut (c.poolOf from') (sizeCode l.size) l.base).rewriteLeaf l frame to').moveEnds l)

/-! ### Choosing a page to evict (R308) -/

/-- The leaves under a table, with their addresses. -/
def State.leavesUnder (s : State) (va table level : Nat) : Nat → List Leaf
  | 0 => []
  | n + 1 =>
    (List.range 1024).flatMap fun i =>
      let ea := table + 8 * i
      let p := BitVec.ofNat 64 (s.readNat ea 8)
      let v := va + i * levelSize level
      if !pteBit p 0 then []
      else if pteBit p 1 then
        if level == 0 || pteReach p == 3 then [] else [{ pte := p, size := levelSize level, vbase := v, pteAddr := ea }]
      else if level == 3 then []
      else s.leavesUnder v (pteFrame p) (level + 1) n

/-- The pages of a context's own address space that could be evicted: resident in this chip's HBM, of one size, and not publishable. -/
def State.evictable (s : State) (c : Ctx) (size : Nat) : List Leaf :=
  let ls := (s.leavesUnder 0 c.table0 0 4).filter fun l =>
    pteBit l.pte 10 && !pteHost l.pte && !pteBit l.pte 15 && chipOf l.base == s.chip
  if size == 65536 then
    (ls.filter fun l => l.size == 4096 && pteBit l.pte 14 && l.vbase % 65536 == 0).map fun l => { l with size := 65536 }
  else ls.filter fun l => l.size == size && !(pteBit l.pte 14 && l.size == 4096)

/-- The ranges that a node lists (Table 17·3). -/
def State.nodeRanges (s : State) (c : Ctx) (node : Nat) : List (Nat × Nat) :=
  match s.peekNat c node 8, s.peekNat c (node + 16) 8 with
  | some w0, some w2 => (List.range (bits w0 23 16)).filterMap fun i =>
      match s.peekNat c (bits w2 51 0 + 16 * i) 8, s.peekNat c (bits w2 51 0 + 16 * i + 8) 8 with
      | some a, some n => some (a, n)
      | _, _ => none
  | _, _ => []

/-- The successors of a node (R395). -/
def State.nodeNext (s : State) (c : Ctx) (node : Nat) : List Nat :=
  match s.peekNat c node 8, s.peekNat c (node + 8) 8, s.peekNat c (node + 48) 8 with
  | some w0, some w1, some w6 =>
    if bits w0 3 0 == 0 then [] else if bits w0 3 0 == 4 || bits w0 3 0 == 5 then [bits w1 51 0, bits w6 51 0] else [bits w1 51 0]
  | _, _, _ => []

/-- The nodes queued from some nodes on, as far as their records can be read, in the order in which a walk may first reach them: both
branches of a COND or WHILE node lie ahead of it (R308). The fuel is the number of node addresses. -/
def State.nodesAhead (s : State) (c : Ctx) (seen : List Nat) : List Nat → Nat → List (List Nat)
  | _, 0 => []
  | ns, n + 1 =>
    let ns := ns.eraseDups.filter fun a => !seen.contains a
    if ns.isEmpty then [] else ns :: s.nodesAhead c (seen ++ ns) (ns.flatMap (s.nodeNext c)) n

/-- Whether a page overlaps one of some ranges. -/
def Leaf.listed (l : Leaf) (rs : List (Nat × Nat)) : Bool :=
  rs.any fun r => decide (r.1 < l.vbase + l.size) && decide (l.vbase < r.1 + r.2)

/-- When a page was last used. -/
def State.lastUse (s : State) (l : Leaf) : Nat :=
  s.pageUse.foldl (fun n p => if l.base / 4096 ≤ p.1 && decide (p.1 < (l.base + l.size) / 4096) then max n p.2 else n) 0

/-- The node addresses of an address space. -/
def nodeCount : Nat := 2 ^ 46

/-- The page to evict (R308): pages of running nodes never, which are the nodes that walks wait in and those of grids that have not ended;
pages that no queued node lists first, least recently used; then the page whose first listing lies farthest ahead; the lower VA on a
tie. -/
def State.chooseEviction (s : State) (c : Ctx) (ctx size : Nat) : Option Leaf :=
  let live := c.walks.filter fun p => p.2.state != .ended
  let waits := fun (w : Walk) => w.state == .waiting || w.state == .held false
  let grids := (s.grids.filter fun g => g.2.ctx == ctx && (g.2.state == .queued || g.2.state == .running)).map (·.2.nodeVa)
  let running := ((live.filter fun p => waits p.2).map (·.2.node) ++ grids).flatMap (s.nodeRanges c)
  let queued := live.map fun p =>
    (s.nodesAhead c [] [if waits p.2 then p.2.next else p.2.node] nodeCount).map fun ns => ns.flatMap (s.nodeRanges c)
  let ps := (s.evictable c size).filter fun l => !l.listed running
  let first := fun (l : Leaf) => (queued.filterMap fun rss => rss.findIdx? fun rs => l.listed rs).foldl
    (fun (m : Option Nat) i => some (min i (m.getD i))) none
  match ps.filter fun l => (first l).isNone with
  | p :: rest => some (rest.foldl (fun a b => if s.lastUse b < s.lastUse a then b else a) p)
  | [] =>
    match ps with
    | p :: rest => some (rest.foldl (fun a b => if (first a).getD 0 < (first b).getD 0 then b else a) p)
    | [] => none

/-! ### mig and preq (R188, R307, R312) -/

/-- mig (R307, R312). -/
def execMig (f : FE) (ls : Lits) (s : State) : Result :=
  s.withIssue fun iss s =>
    let h := iss.hreg f.h.toNat
    let e := iss.addrE f ls 1
    let n := (iss.uniformB f ls).toNat
    match checkHandle (s.ctxI iss) h e n 4096 [1] [] with
    | some c => s.faultAll iss c (vaOf h e)
    | none =>
      if n % 4096 != 0 then s.faultAll iss .misaligned (vaOf h e)
      else if !s.mayRead? iss then .next s.stall
      else
        s.finish iss (2 + ls.length)
          [.act (.mig f ls) iss.idx iss.lanes [] [] [] [bits f.aux.toNat 1 0, vaOf h e, vaOf h e + n, handleAsid h]]

/-- The commit of mig. DESIGN CHOICE (notes/assumptions/113): R298 gives each command a status record, and mig's form (Table 13.4) names
none; mig has none here, and ewait and estat alone show its state. -/
def commitMig (f : FE) (iss : Issue) (idx : Nat) (n : List Nat) (s : State) : State :=
  let lo := n.getD 1 0
  s.acceptCommand iss idx f.d 1
    { kind := .migrate, ctx := 0, team := 0, words := n, n := [2], reads := [memRange (n.getD 3 0) lo (n.getD 2 0 - lo)] }

/-- What a migration command asks: target, where it stands, its end, its ASID. -/
def Command.migration (c : Command) : Target × Nat × Nat × Nat :=
  if c.kind == .preq then (.hbm, c.n.headD 0 + c.progress, c.n.headD 0 + c.n.getD 1 0, c.n.getD 2 0)
  else ((match c.words.headD 0 with
    | 0 => .hbm
    | 1 => .tier
    | _ => .host), c.words.getD 1 0, c.words.getD 2 0, c.words.getD 3 0)

/-- A migration command moved past a page that ends at an address. -/
def Command.past (c : Command) (va : Nat) : Command :=
  if c.kind == .preq then { c with progress := va - c.n.headD 0, frameWait := none, moving := none }
  else { c with words := [c.words.headD 0, va, c.words.getD 2 0, c.words.getD 3 0], progress := c.progress + 1, frameWait := none,
                moving := none }

/-- A page of a command could not be moved: its fault waits for the landing, and the engine goes on (R188, R307). -/
def State.pageFails (s : State) (c : Command) (code : FaultCode) (va : Nat) : State × Command :=
  let code := if c.kind == .preq then .pageNotPresent else code
  ((match c.event with
    | some e => s.modEvent e fun d => d.addFault code d.lanes va (BitVec.ofNat 64 (c.ticket % 2 ^ 18))
    | none => s), { c with code := if c.code == 0 then code.num else c.code })

/-- Keeps a command, or completes it when no page is left. -/
def State.afterPage (s : State) (id : Nat) (c : Command) : State :=
  let (_, va, fin, _) := c.migration
  if va < fin then s.setCommand id { c with state := 1 }
  else s.settleCommand id { c with state := if c.code == 0 then 2 else 3 } none

/-- The command that the migration engine works on. -/
def State.migrating (s : State) : Option (Nat × Command) :=
  List.find? (fun p : Nat × Command => (p.2.kind == .migrate || p.2.kind == .preq) && p.2.live) s.commands

/-- Whether a page already is where a command takes it, and is left alone (R188, R307). -/
def Command.leaves (c : Command) (to' : Target) (l : Leaf) : Bool := l.place == to' || (c.kind == .preq && pteBit l.pte 10)

/-- Why a page cannot be moved to a target at all (R307): one of another reach than SYSTEM to host memory, a publishable page, or one in
another chip's HBM. -/
def State.moveFault (s : State) (l : Leaf) (to' : Target) : Option FaultCode :=
  if to' == .host && pteReach l.pte != 2 then some .reach
  else if pteBit l.pte 15 || (l.place == .hbm && chipOf l.base != s.chip) then some .migFail
  else none

/-- A page that is to leave where it is goes into transition, unless it is in one already (R236, R307). -/
def State.moveBegins (s : State) (l : Leaf) : Option State :=
  if l.place == .tier then some s
  else if (s.pageOps.find? (l.bus / 4096)).isSome then none
  else some (s.pageOpen l.bus l.size s.chip (s.pageChips (pteReach l.pte)))

/-- The page that a command takes next: the one that it moves, or one to evict when that one needs a frame of HBM and none is left
(R308). No eviction begins without a frame of the tier to take it (notes/assumptions/33). -/
def State.nextMove (s : State) (c : Ctx) (ctx : Nat) (l : Leaf) (to' : Target) : Option (Leaf × Bool) :=
  let empty := fun pool => (s.poolEntry pool (sizeCode l.size)).isNone
  if to' == .hbm && empty c.hbmPool then
    if empty c.tierPool then none else (s.chooseEviction c ctx l.size).map fun v => (v, true)
  else some (l, false)

/-- One step of the move of a command's page (R307, R308): the page, or one evicted for it, goes into transition, waits until its accesses
have been performed everywhere, and moves. None begins in a context that is to be killed (R373). -/
def State.movePage (s : State) (c : Command) (asid : Nat) (l : Leaf) (to' : Target) : Moved × Option (Nat × Bool) :=
  let x := s.ctx c.ctx
  match c.moving with
  | none =>
    if !x.kills.isEmpty then (.wait false s, none) else
    match (s.poolAway x.hbmPool).or (s.poolAway x.tierPool) with
    | some g => (.wait false (s.request g true), none)
    | none =>
    match s.nextMove x c.ctx l to' with
    | none => (.wait true s, none)
    | some (v, out) =>
      match s.moveBegins v with
      | none => (.wait false s, none)
      | some s => (.wait false s, some (v.vbase, out))
  | some (va, out) =>
    match s.rawLeaf x (if out then x.asid else asid) va with
    | .leaf v _ =>
      let s := s.pageDrain
      if v.place != .tier && !s.pageReady v.bus then (.wait false s, some (va, out))
      else
        match s.moveData c.reader x v (if out then .tier else to') with
        | .done s => if out then (.wait false (s.engDone c.reader), none) else (.done (s.engDone c.reader), none)
        | .fail code s => if out then (.wait true s, none) else (.fail code s, none)
        | .wait frame s => (.wait frame s, if frame then none else some (va, out))
    | .away g w => (.wait false (s.request g w), some (va, out))
    | _ => (.fail .migFail s, none)

/-- MIGRATION_PAGE_MOVE: the engine goes on with the next page of its first command (R307). -/
def execMigrationPageMove (s : State) : Result :=
  match s.migrating with
  | none => .next s
  | some (id, c) =>
    let (to', va, fin, asid) := c.migration
    if c.state == 0 && s.publishPending id c then .next s
    else if fin ≤ va then .next (s.afterPage id c).settle
    else
    match s.rawLeaf (s.ctx c.ctx) asid va with
    | .away g w => .next (s.request g w)
    | .leaf l _ =>
      let next := l.vbase + l.size
      if c.leaves to' l then .next (s.afterPage id (c.past next)).settle
      else
        match s.moveFault l to' with
        | some code =>
          let (s, c) := s.pageFails c code va
          .next (s.afterPage id (c.past next)).settle
        | none =>
          match s.movePage c asid l to' with
          | (.done s, _) => .next (s.afterPage id (c.past next)).pump
          | (.fail code s, _) =>
            let (s, c) := s.pageFails c code va
            .next (s.afterPage id (c.past next)).pump
          | (.wait frame s, m) =>
            .next (State.pump (s.setCommand id
              { c with state := 1, moving := m, frameWait := if frame then some (c.frameWait.getD (s.clock + s.wsWait)) else c.frameWait }))
    | _ =>
      let (s, c) := s.pageFails c .migFail va
      .next (s.afterPage id (c.past ((va / 4096 + 1) * 4096))).settle

/-- FRAME_POOL_WAIT_EXPIRY: a request that has waited for a frame for the WS_WAIT in force when its wait began fails for its page (R308,
R385). -/
def execFramePoolWaitExpiry (s : State) : Result :=
  match s.migrating with
  | none => .next s
  | some (id, c) =>
    match c.frameWait with
    | none => .next s
    | some t =>
      if s.clock < t || c.moving.isSome then .next s
      else
        let (_, va, _, asid) := c.migration
        let next := match s.rawLeaf (s.ctx c.ctx) asid va with
          | .leaf l _ => l.vbase + l.size
          | _ => (va / 4096 + 1) * 4096
        let (s, c) := s.pageFails c .migFail va
        .next (s.afterPage id (c.past next))

/-! ### TLB invalidation (R389) -/

/-- tlbinv (R389). -/
def execTlbinv (f : FE) (ls : Lits) (s : State) : Result :=
  s.withIssue fun iss s =>
    let h := iss.hreg f.h.toNat
    let e := iss.addrE f ls 1
    let n := (iss.uniformB f ls).toNat
    match checkHandle (s.ctxI iss) h e n 1 [] [] with
    | some c => s.faultAll iss c (vaOf h e)
    | none =>
      s.finish iss (2 + ls.length)
        [.act (.tlbinv f ls) iss.idx iss.lanes [] [] [] [handleAsid h, vaOf h e, n, f.aux.toNat % 2, f.scope.toNat]]

/-- asidinv (R389). -/
def execAsidinv (f : FE) (ls : Lits) (s : State) : Result :=
  s.withIssue fun iss s =>
    let asid := (iss.uniformM f.a (litAt ls 0)).toNat % 1024
    s.finish iss (2 + ls.length)
      [.act (.asidinv f ls) iss.idx iss.lanes [] [] [] [asid, 0, 2 ^ 52, f.aux.toNat % 2, f.scope.toNat]]

/-- The commit of tlbinv and asidinv: the entries go at once, what was translated through them is remembered, and under POD scope every
other chip is asked to do the same and answers once it has (R389). -/
def commitTlbinv (i : Instr) (iss : Issue) (idx : Nat) (n : List Nat) (s : State) : State :=
  let (asid, va, len, also) := (n.headD 0, n.getD 1 0, n.getD 2 0, n.getD 3 0)
  let (ids, s) := s.tlbRemove asid va len (also == 1)
  let (e, s) := s.addEvent { iss.event idx iss.lanes with wait := .condition i ids, asks := some 0 }
  if n.getD 4 0 == 3 then
    ((List.range s.podSize).filter (· != s.chip)).foldl (fun (s : State) c =>
      (s.sendCoh c .tlbInv 0 0 e (tlbInvData asid va len also)).modEvent e fun d => { d with asks := d.asks.map (· + 1) }) s
  else s

/-- The landing of tlbinv and asidinv, once what was translated through the entries has been performed here and every chip asked has
answered. -/
def State.tlbinvLands (s : State) (d : Deferred) (n : List Nat) : Option State :=
  if d.asks != some 0 || s.translatedLeft n then none else some s

end Sys2Proof.Machine
end

