-- ==== Sys2Proof/Machine/FabricCode.lean ====
section
/-!
DEFINITION. The fragment of the fabric: its header (Table 14·1), its CRC (R317), and the Reed–Solomon code of a stripe (R316).
-/

namespace Sys2Proof.Machine

/-! ### GF(2^8) -/

/-- Twice an element of GF(2^8), reduced by x^8 + x^4 + x^3 + x^2 + 1. -/
def gfDouble (a : Nat) : Nat := if a < 128 then 2 * a else (2 * a) ^^^ 0x11D

/-- The product of two elements, from the bits of the first, high to low. -/
def gfMul (a b : Nat) : Nat :=
  (List.range 8).foldl (fun r i => gfDouble r ^^^ (if bitAt a (7 - i) then b else 0)) 0

/-- A power of an element. -/
def gfPow (a : Nat) : Nat → Nat
  | 0 => 1
  | n + 1 => gfMul a (gfPow a n)

/-- The inverse of an element other than 0. -/
def gfInv (a : Nat) : Nat := gfPow a 254

/-- C[p][j] of R316. -/
def cauchy (p j : Nat) : Nat := gfMul (gfMul (32 + p) (32 ^^^ j)) (gfInv (gfMul ((32 + p) ^^^ j) 32))

/-- A row of bytes scaled. -/
def gfScale (c : Nat) (r : List Nat) : List Nat := r.map (gfMul c)

/-- The sum of two rows. -/
def gfAdd (a b : List Nat) : List Nat := a.zipWith (· ^^^ ·) b

/-- Parity fragment p of a stripe's data fragments. -/
def parityOf (data : List (List Byte)) (p : Nat) : List Byte :=
  (data.zipIdx.foldl (fun r d => gfAdd r (gfScale (cauchy p d.2) (d.1.map BitVec.toNat))) (List.replicate 256 0)).map (BitVec.ofNat 8)

/-- Clears column c of the other rows by a row whose entry there is 1. -/
def clearColumn (c : Nat) (pivot : List Nat) (rows : List (List Nat)) : List (List Nat) :=
  rows.map fun r => gfAdd r (gfScale (r.getD c 0) pivot)

/-- Gauss–Jordan elimination of rows of coefficients followed by bytes: the solved rows, in column order. -/
def gfSolve (rows : List (List Nat)) (n : Nat) : List (List Nat) :=
  ((List.range n).foldl (fun (p : List (List Nat) × List (List Nat)) c =>
    match p.2.find? fun r => r.getD c 0 != 0 with
    | none => p
    | some r =>
      let u := gfScale (gfInv (r.getD c 0)) r
      (clearColumn c u p.1 ++ [u], clearColumn c u (p.2.erase r))) (([] : List (List Nat)), rows)).1

/-- The data fragments of a stripe from ks of its fragments with distinct indices (R315, R316). -/
def decodeStripe (ks : Nat) (frags : SMap (List Byte)) : List (List Byte) :=
  let rows := (frags.take ks).map fun (p : Nat × List Byte) =>
    ((List.range ks).map fun j => if p.1 < ks then (if j == p.1 then 1 else 0) else cauchy (p.1 - ks) j) ++ p.2.map BitVec.toNat
  (gfSolve rows ks).map fun r => (r.drop ks).map (BitVec.ofNat 8)

/-! ### Headers -/

/-- The fields of a fragment header but for its CRC (Table 14·1). -/
structure Header where
  src : Nat
  dst : Nat
  phys : Nat
  cls : Nat
  kind : Nat
  seq : Nat
  len : Nat
  ks : Nat
  m : Nat
  stripe : Nat
  index : Nat
  gen : Nat
  route : Nat
  hops : Nat
  info : Nat
  deriving DecidableEq, Repr

/-- The header's bits [223:0]. -/
def Header.bits224 (h : Header) : Nat :=
  h.src + h.dst * 2 ^ 12 + h.phys * 2 ^ 24 + h.cls * 2 ^ 40 + h.kind * 2 ^ 43 + h.seq % 2 ^ 32 * 2 ^ 46 + (h.len - 1) * 2 ^ 78 +
    (h.ks - 1) * 2 ^ 93 + h.m * 2 ^ 98 + h.stripe * 2 ^ 102 + h.index * 2 ^ 108 + h.gen * 2 ^ 114 + h.route * 2 ^ 116 +
    h.hops % 16 * 2 ^ 119 + h.info % 2 ^ 96 * 2 ^ 128

/-- The fields of a header word. -/
def Header.ofWord (x : BitVec 256) : Header :=
  let b := bits x.toNat
  { src := b 11 0, dst := b 23 12, phys := b 39 24, cls := b 42 40, kind := b 45 43, seq := b 77 46, len := b 92 78 + 1,
    ks := b 97 93 + 1, m := b 101 98, stripe := b 107 102, index := b 113 108, gen := b 115 114, route := b 118 116,
    hops := b 122 119, info := b 223 128 }

/-- One byte of CRC-32C in its reflected form. -/
def crcByte (c : Nat) (b : Byte) : Nat :=
  (List.range 8).foldl (fun c _ => if c % 2 == 1 then (c / 2) ^^^ 0x82F63B78 else c / 2) (c ^^^ b.toNat)

/-- CRC-32C of some bytes. -/
def crc32c (bs : List Byte) : Nat := (bs.foldl crcByte 0xFFFFFFFF) ^^^ 0xFFFFFFFF

/-- The CRC of a fragment: 28 header bytes, then the payload (R317). -/
def fragmentCrc (low224 : Nat) (payload : List Byte) : Nat := crc32c (toBytes 28 low224 ++ payload)

/-- The header word that a fragment carries; `flip` inverts its CRC (R390). -/
def Header.word (h : Header) (payload : List Byte) (flip : Bool) : BitVec 256 :=
  let n := h.bits224
  let c := fragmentCrc n payload
  BitVec.ofNat 256 (n + (if flip then c ^^^ 0xFFFFFFFF else c) * 2 ^ 224)

/-- Whether a fragment's CRC holds and its reserved field is zero (R317). -/
def fragmentSound (x : BitVec 256) (payload : List Byte) : Bool :=
  bits x.toNat 255 224 == fragmentCrc (x.toNat % 2 ^ 224) payload && bits x.toNat 127 123 == 0

/-- The data fragments of a payload, the last padded with zeros (R315). -/
def fragmentsOf (payload : List Byte) : List (List Byte) :=
  (List.range (ceilDiv payload.length 256)).map fun i =>
    let d := (payload.drop (256 * i)).take 256
    d ++ List.replicate (256 - d.length) 0

/-- The data fragments of stripe j of a message coded at k. -/
def stripeData (payload : List Byte) (k j : Nat) : List (List Byte) := ((fragmentsOf payload).drop (k * j)).take k

/-- How many stripes a payload of a length takes. -/
def stripeCount (len k : Nat) : Nat := ceilDiv (ceilDiv len 256) k

end Sys2Proof.Machine
end

