-- ==== Sys2Proof/Machine/Collective.lean ====
section
/-!
DEFINITION. Routes and placement (R319, R320), what a module has to send, and in-router combining (R335 to R340): the tree's fixed
fold, the rounds and the instructions cinit, cpost, cwait, cbar and cfree.
-/

namespace Sys2Proof.Machine

/-! ### Routes and placement -/

/-- Word i of a chip's path entry (R319). -/
def State.pathWord (s : State) (chip i : Nat) : Nat := (s.path.get (chip * 8 + i) 0).toNat

/-- The hop count of a route word; 0 is unused. -/
def routeHops (w : Nat) : Nat := bits w 63 60

/-- The output port of hop h of a route word. -/
def routePort (w h : Nat) : Nat := bits w (5 * h + 4) (5 * h)

/-- The path count P of a chip's entry: its used routes, or 0 while the entry fails its check (R319). -/
def State.pathCount (s : State) (chip : Nat) : Nat :=
  let used := (List.range 8).filter fun i => routeHops (s.pathWord chip i) != 0
  let ws := used.map (s.pathWord chip)
  if used == List.range used.length && (ws.all fun w => routeHops w ≤ 12 &&
      (List.range (routeHops w)).all fun h => routePort w h ≤ 17) && (ws.map fun w => routePort w 0).Nodup then used.length
  else 0

/-- The placement entry of a logical chip: at reset, entry 0 holds this module's identity, valid (R320). -/
def State.placement (s : State) (chip : Nat) : BitVec 32 :=
  s.place.get chip (if chip == 0 then (Config.fabSelf.zeroExtend 32) ||| 0x10000 else 0)

/-- The physical identity that a placement entry names. -/
def placedAt (p : BitVec 32) : Nat := bits p.toNat 15 0

/-- Whether a logical chip's valid entry names this module. -/
def State.isSelf (s : State) (chip : Nat) : Bool :=
  (s.placement chip).getLsbD 16 && placedAt (s.placement chip) == Config.fabSelf.toNat

/-- Whether a chip has a route and a valid placement (R321, R331). -/
def State.routable (s : State) (chip : Nat) : Bool := (s.placement chip).getLsbD 16 && s.pathCount chip != 0

/-- Advances a fabric counter (Table 14·10). -/
def State.fabBump (s : State) (i n : Nat) : State :=
  { s with fabCount := s.fabCount.put i (s.fabCount.get i 0 + BitVec.ofNat 64 n) 0 }

/-! ### Elements and the fold (R335, R337) -/

/-- The bytes of one element. -/
def Combine.size (c : Combine) : Nat :=
  match c.op with
  | 0 => 4
  | 1 => 2
  | 5 => 4 * (c.d + 2)
  | _ => if c.ty == 5 then 2 else if c.ty == 2 || c.ty == 3 then 8 else 4

/-- The bytes of a contribution. -/
def Combine.bytes (c : Combine) : Nat := c.count * c.size

/-- An FP32 operation on bit patterns, RNE with canonical NaNs. -/
def fold32 (f : FpVal → FpVal → FpRes) (a b : Nat) : Nat := (f (fp32.val a) (fp32.val b)).bits

/-- The sum of two FP32 numbers. -/
def add32 (a b : Nat) : Nat := fold32 (fp32.addVal .rne) a b

/-- The product of two FP32 numbers. -/
def mul32 (a b : Nat) : Nat := fold32 (fp32.mulVal .rne) a b

/-- An FP32 number with a NaN made canonical (R123). -/
def canon32 (a : Nat) : Nat := if (fp32.val a).isNan then fp32.canonicalNan else a

/-- combine of two softmax triples, each as its words m, l, o0, … (R337). Every NaN of the result is canonical, of an operand returned because the
other's m is −∞ too (R123). -/
def softmaxCombine (a b : List Nat) : List Nat :=
  let inf := 0xFF800000
  let am := a.headD 0
  let bm := b.headD 0
  if am == inf && bm == inf then inf :: (a.drop 1).map fun _ => 0
  else if bm == inf then a.map canon32
  else if am == inf then b.map canon32
  else
    let m := (fp32.minMax true false am bm).bits
    let e := fun x => (fp32.sfu .exp .rne (fold32 (fun x y => fp32.addVal .rne x y.negate) x m)).bits
    let ea := e am
    let eb := e bm
    m :: ((a.drop 1).zip (b.drop 1)).map fun p => add32 (mul32 p.1 ea) (mul32 p.2 eb)

/-- combine of two elements other than softmax triples. -/
def Combine.elem (c : Combine) (a b : Nat) : Nat :=
  let w := 8 * c.size
  let F := if c.ty == 5 then bf16 else fp32
  let less := if c.ty % 2 == 0 then decide (signedOf w a < signedOf w b) else decide (a < b)
  match c.op with
  | 0 => add32 a b
  | 1 => (bf16.addVal .rne (bf16.val a) (bf16.val b)).bits
  | 2 => (a + b) % 2 ^ w
  | 3 => if 4 ≤ c.ty then (F.minMax true false a b).bits else if less then b else a
  | _ => if 4 ≤ c.ty then (F.minMax false false a b).bits else if less then a else b

/-- Some bytes cut into pieces of n. -/
def piecesOf (bs : List Byte) (n : Nat) : List (List Byte) := (List.range (bs.length / n)).map fun i => (bs.drop (n * i)).take n

/-- combine of two contributions; an empty one contributes nothing (R336, R337). -/
def Combine.fold2 (c : Combine) (a b : List Byte) : List Byte :=
  if a.isEmpty then b
  else if b.isEmpty then a
  else
    ((piecesOf a c.size).zip (piecesOf b c.size)).flatMap fun p =>
      if c.op == 5 then
        let words := fun x => (piecesOf x 4).map ofBytes
        (softmaxCombine (words p.1) (words p.2)).flatMap (toBytes 4)
      else toBytes c.size (c.elem (ofBytes p.1) (ofBytes p.2))

/-- The fold of a round: members in ascending index, then children in child order. -/
def Combine.foldRound (c : Combine) (r : Round) : List Byte :=
  let ls := (List.range c.nlocal).map fun i => ((r.locals.find? i).map Contribution.data).getD []
  let cs := (List.range c.childs.length).map fun i => r.childs.get i []
  (ls ++ cs).foldl c.fold2 []

/-- Whether every member and child has contributed. -/
def Combine.complete (c : Combine) (r : Round) : Bool :=
  ((List.range c.nlocal).all fun i => (r.locals.find? i).any fun x => x.reading.isNone) &&
    (List.range c.childs.length).all fun i => (r.childs.find? i).isSome

/-! ### Messages of rounds -/

/-- The fault code of a number. -/
def codeOfNum (n : Nat) : Option FaultCode :=
  [FaultCode.illegalOpcode, .clauseFraming, .reservedField, .priv, .regRange, .handleBounds, .handleRights, .handleSeal,
    .misaligned, .pageNotPresent, .pageProt, .classAlias, .classOp, .reach, .moveRights, .wsForeign, .wsRewrite, .wsTimeout,
    .poison, .bufBounds, .moveTimeout, .xlExited, .xlSelf, .xlMismatch, .xlIndex, .formatDivergence, .gangMember,
    .matrixRecord, .matrixIntegrity, .matrixFormat, .sysAtomicUnsupported, .hostAbort, .fabLoss, .fabNoroute, .fabRecord,
    .collState, .collMismatch, .fabTrunc, .detAtomic, .detSignature, .launchFeature, .launchArgs, .snapBusy, .snapState,
    .gridStarve, .barOrder, .stepMode, .trapSw, .breakpoint, .callDepth, .engineRecord, .engineDest, .migFail, .packDensity,
    .ctxState, .ctxImage, .tretState, .ctxKill].find? fun c => c.num == n

/-- The info field of a contribution or result (notes/assumptions/61): context, failure, whether it is empty, the agreed fields and
the round. -/
def roundInfo (ctx n : Nat) (c : Combine) (fail : Option FaultCode) (empty : Bool) : Nat :=
  ctx + ((fail.map FaultCode.num).getD 0) * 2 ^ 8 + (if empty then 2 ^ 16 else 0) + c.op * 2 ^ 17 + c.ty * 2 ^ 21 + c.d * 2 ^ 24 +
    c.count * 2 ^ 30 + c.dtag * 2 ^ 46 + n % 2 ^ 18 * 2 ^ 78

/-- The agreed fields of a received info. -/
def infoAgreed (x : Nat) : CombineAgreed :=
  { op := bits x 20 17, ty := bits x 23 21, count := bits x 45 30, d := bits x 29 24, dtag := bits x 77 46 }

/-- The round that a received info names: the one nearest to what the context has seen. -/
def Combine.roundOf (c : Combine) (x : Nat) : Nat :=
  let low := bits x 95 78
  let base := max (c.ended.foldl (fun n p => max n (p.1 + 1)) 0) (c.posts.foldl (fun n p => max n p.2) 0)
  (if base ≤ low then 0 else (base - low + 2 ^ 17) / 2 ^ 18 * 2 ^ 18) + low

/-- Sends a contribution (kind 6) or a result (kind 7) of a round to a chip. -/
def State.sendRound (s : State) (chip ctx n : Nat) (c : Combine) (role : MsgRole) (data : List Byte) (fail : Option FaultCode) : State :=
  s.enqueue { chip := chip, cls := 4, role := role, kind := if role == .contribution then 6 else 7,
              info := roundInfo ctx n c fail data.isEmpty, payload := if data.isEmpty then [0] else data, round := some (ctx, n) }

/-! ### A round's end (R338) -/

/-- Changes a configured context, preserving it first when a snapshot marks it (R350). -/
def State.modCombine (s : State) (ctx : Nat) (f : Combine → Combine) : State :=
  let s := s.cow 9 0 ctx fun s => Config.imageBody s.freeCtr
  { s with combines := s.combines.modify ctx f }

/-- Changes a round of a context, opening it when it is new. -/
def State.modRound (s : State) (ctx n : Nat) (f : Round → Round) : State :=
  s.modCombine ctx fun c => { c with rounds := c.rounds.insert n (f (c.rounds.get n {})) }

/-- The fields of a post record (R336): kinds and registers of source and destination, member, offsets. -/
def Contribution.dkind (x : Contribution) : Nat := bits (x.words.headD 0) 3 2

/-- The destination offset of a contribution. -/
def Contribution.doff (x : Contribution) : Nat := x.words.getD 2 0

/-- Whether a contribution's result is written nowhere. -/
def Contribution.nowhere (x : Contribution) (n : Nat) : Bool := x.dkind == 3 || n == 0

/-- Writes a result to the shadow side of one member's destination. -/
def State.writeResult (s : State) (x : Contribution) (data : List Byte) : EngR :=
  if x.nowhere data.length then .ok [] s
  else if x.dkind == 0 then s.handleWrite (s.ctx x.ctx) x.core x.dst x.doff .shadow true data
  else .ok [] (s.bufWrite x.team x.dkind (unitOf x.dkind x.core) true x.doff data)

/-- The range of a member's destination, with its context. -/
def Contribution.range (x : Contribution) (n : Nat) : Nat × Range :=
  (x.ctx, if x.dkind == 0 then memRange (handleAsid x.dst) (vaOf x.dst x.doff) n else bufRange x.team x.dkind x.core x.doff n)

/-- The ranges of the members' destinations. -/
def Round.ranges (r : Round) (n : Nat) : List (Nat × Range) :=
  (r.locals.filter fun x => !x.2.nowhere n && x.2.fail.isNone).map fun x => x.2.range n

/-- The leaves of the members' destinations in memory. -/
def State.resultLeaves (s : State) (xs : List Contribution) (n : Nat) : List Leaf × State :=
  xs.foldl (fun p x =>
    if x.nowhere n || x.dkind != 0 then p
    else
      match p.2.range (p.2.ctx x.ctx) x.core (handleAsid x.dst) (vaOf x.dst x.doff) n with
      | (.ok segs, s) => (p.1 ++ segs.map (·.leaf), s)
      | (_, s) => (p.1, s)) ([], s)

/-- The pairs of the members' destinations in windows: team, space, unit and bank, each once. -/
def resultPairs (xs : List Contribution) (n : Nat) : List (Nat × Nat × Nat × Nat) :=
  (xs.flatMap fun x =>
    if x.nowhere n || x.dkind == 0 then []
    else
      let b := bankSize x.dkind
      (List.range ((x.doff + n - 1) / b + 1 - x.doff / b)).map fun i =>
        (x.team, x.dkind, unitOf x.dkind x.core, x.doff / b + i)).eraseDups

/-- Whether an earlier accepted command, or matrix work, holds back the publication of a round's result (R279, R300). -/
def State.resultHeld (s : State) (r : Round) (n : Nat) : Bool :=
  let rs := r.ranges n
  workHolds s.works [] (rs.map (·.2)) ||
    s.commands.any fun p => decide (p.1 < (r.claim.getD (0, [])).1) && (p.2.live || p.2.state == 4) &&
      rs.any fun x => x.1 == p.2.ctx && Range.meet [x.2] p.2.writes

/-- The threads blocked in cwait of a round become ready; of a failed one they take its code as a deferred fault at their clause
(R339). -/
def State.wakeRound (s : State) (ctx n : Nat) (fail : Option FaultCode) : State :=
  let mine := fun (w : Wait) => match w with
    | .cwait c r _ _ _ => c == ctx && r == n
    | _ => false
  let waits := fun (t : Thread) => (match t.status with
    | .blocked ws | .held ws => ws
    | _ => []) ++ t.suspended
  s.groups.foldl (fun (s : State) p =>
    let ws := (p.2.threads.flatMap fun t => (waits t).filter mine).eraseDups
    if ws.isEmpty then s
    else
      let s := match fail with
        | none => s
        | some code => ws.foldl (fun (s : State) w =>
            let lanes := Lanes.of fun l => (waits (p.2.thread l)).contains w
            match w with
            | .cwait _ _ pc idx handler => s.queueFault p.1
                { code := code, pc := BitVec.ofNat 52 pc, index := idx, deferred := true, lane := lowestLane lanes, lanes := lanes,
                  bundle := lanes, inHandler := handler }
            | _ => s) s
      let s := s.modGroup p.1 fun g => { g with threads := g.threads.map fun t => t.endWait mine }
      s.acquireAll p.2.cluster 3) s

/-- A fault that names a member's post: deferred, or of the COLL node that posted (R338, R397). -/
def State.postFault (s : State) (x : Contribution) (code : FaultCode) (va : Nat) : State :=
  match x.walk with
  | some (ctx, slot) => s.modCtx ctx fun c => { c with walks := c.walks.modify slot fun w => { w with code := code.num } }
  | none =>
    s.queueFault x.gid
      { code := code, pc := x.pc, index := x.idx, deferred := true, lane := lowestLane x.bundle, lanes := x.bundle, va := va,
        bundle := x.bundle, inHandler := x.inHandler }

/-- The event of a post whose source is no longer read lands. -/
def State.readOver (s : State) (x : Contribution) : State :=
  match x.reading with
  | some e => (s.engDone e).completeEvent e
  | none => s

/-- A round ends on this chip: it counts as published, or has failed, and its waiters are woken (R338, R339). -/
def State.closeRound (s : State) (ctx n : Nat) (fail : Option FaultCode) : State :=
  let xs := (((s.combines.find? ctx).bind fun c => c.rounds.find? n).map fun r => r.locals.map (·.2)).getD []
  let s := xs.foldl State.readOver s
  (s.modCombine ctx fun c => { c with rounds := c.rounds.erase n, ended := c.ended.insert n fail }).wakeRound ctx n fail

/-- A round fails on this chip, and the failure goes down the tree (R338). One whose result has been written counts as published. -/
def State.failRound (s : State) (ctx n : Nat) (code : FaultCode) : State :=
  match s.combines.find? ctx with
  | none => s
  | some c =>
    if (c.ended.find? n).isSome || ((c.rounds.find? n).bind Round.pages).isSome then s
    else
      let s := c.childs.foldl (fun (s : State) ch => s.sendRound ch ctx n c .result [] (some code)) s
      s.closeRound ctx n (some code)

/-- The result of a round is here: it goes down the tree, and its publication claims the members' destinations from now on (R300, R337,
R338). -/
def State.setResult (s : State) (ctx n : Nat) (c : Combine) (data : List Byte) : State :=
  c.childs.foldl (fun (s : State) ch => s.sendRound ch ctx n c .result data none)
    (s.modRound ctx n fun r => { r with up := true, result := some data, claim := some (s.nextId, r.ranges data.length) })

/-- The pages of a member's destination in memory, by their bases. -/
def State.resultPages (s : State) (x : Contribution) (n : Nat) : List Nat :=
  if x.nowhere n || x.dkind != 0 then []
  else (pagesOf (vaOf x.dst x.doff) n).filterMap fun p =>
    match s.rawLeaf (s.ctx x.ctx) (handleAsid x.dst) p.1 with
    | .leaf l _ => some l.pageBase
    | _ => none

/-- Writes a result for every local member once nothing holds it, and puts the pages written into transition: each page once. A member
whose write faults is left out and takes its fault (R338). None begins while a member's context pauses for a snapshot record (R347). -/
def State.publishBegin (s : State) (ctx n : Nat) (r : Round) (data : List Byte) : State :=
  if s.resultHeld r data.length || r.locals.any fun x => s.pausing x.2.ctx then s
  else
    let ms := r.locals.filter fun x => x.2.fail.isNone
    let (ok, fs, s) := ms.foldl (fun (p : Bool × List (Nat × FaultCode × Nat) × State) x =>
      match p.2.2.writeResult x.2 data with
      | .ok _ s => (p.1, p.2.1, s)
      | .fail code va s => (p.1, p.2.1 ++ [(x.1, code, va)], s)
      | .wait s => (false, p.2.1, s)) (true, ([] : List (Nat × FaultCode × Nat)), s)
    let good := (ms.filter fun x => !fs.any fun f => f.1 == x.1).map (·.2)
    let (ls, s) := s.resultLeaves good data.length
    let ps := flipList ls
    if !ok || s.flipping ps then s
    else
      let s := fs.foldl (fun (s : State) f => match r.locals.find? f.1 with
        | some x => s.postFault x f.2.1 f.2.2
        | none => s) s
      (s.flipBegin ps).modRound ctx n fun r => { r with
        pages := some (1 :: ps)
        locals := r.locals.map fun (x : Nat × Contribution) => (x.1, match fs.find? fun f => f.1 == x.1 with
          | some f => { x.2 with fail := some f.2.1 }
          | none => x.2) }

/-- A page whose home cannot be reached (R327) leaves out the members whose destinations lie on it, each with FAB_LOSS; the pages of the others
go on, and the round with them (R338). -/
def State.publishWithout (s : State) (ctx n : Nat) (r : Round) (size : Nat) (ps : List Nat) : State :=
  let gone := ((triplesOf ps).filter fun p => (s.pageOps.find? (p.1 / 4096)).isNone).map (·.1)
  let ms := r.locals.filter fun x => x.2.fail.isNone
  let bad := ms.filter fun x => (s.resultPages x.2 size).any gone.contains
  let kept := (ms.filter fun x => !bad.any fun b => b.1 == x.1).flatMap fun x => s.resultPages x.2 size
  let flat := fun (xs : List (Nat × Nat × Nat)) => xs.flatMap fun p => [p.1, p.2.1, p.2.2]
  let live := (triplesOf ps).filter fun p => !gone.contains p.1
  let s := s.flipAbandon (flat (live.filter fun p => !kept.contains p.1))
  let s := bad.foldl (fun (s : State) x => s.postFault x.2 .fabLoss (vaOf x.2.dst x.2.doff)) s
  s.modRound ctx n fun r => { r with
    pages := some (1 :: flat (live.filter fun p => kept.contains p.1))
    locals := r.locals.map fun (x : Nat × Contribution) => (x.1, if bad.any fun b => b.1 == x.1 then { x.2 with fail := some .fabLoss } else x.2) }

/-- The pages and pairs of a result flip, each once and all at one instant, when the pages have been shot down everywhere (R300). -/
def State.publishFlip (s : State) (ctx n : Nat) (r : Round) (data : List Byte) (ps : List Nat) : State :=
  let s := s.pageDrain
  if s.flipLost ps then s.publishWithout ctx n r data.length ps
  else if !s.flipReady ps || s.resultHeld r data.length then s
  else
    let good := (r.locals.filter fun x => x.2.fail.isNone).map (·.2)
    let s := (resultPairs good data.length).foldl (fun (s : State) p => s.swapPair p.1 p.2.1 p.2.2.1 p.2.2.2) s
    (s.flipEnd ps).modRound ctx n fun r => { r with pages := some (2 :: ps) }

/-- A published round ends here once its pages have flipped everywhere. -/
def State.publishEnd (s : State) (ctx n : Nat) (ps : List Nat) : State :=
  if s.flipping ps then s else s.closeRound ctx n none

/-- An open round of a context. -/
def State.roundAt (s : State) (ctx n : Nat) : Option Round := (s.combines.find? ctx).bind fun c => c.rounds.find? n

/-- Goes on with the publication of a round's result; what must wait leaves the round as it is (R338). -/
def State.publishRound (s : State) (ctx n : Nat) (data : List Byte) : State :=
  let s := match s.roundAt ctx n with
    | some r => if r.pages.isNone then s.publishBegin ctx n r data else s
    | none => s
  let s := match s.roundAt ctx n with
    | some r => match r.pages with
      | some (1 :: ps) => s.publishFlip ctx n r data ps
      | _ => s
    | none => s
  match (s.roundAt ctx n).bind Round.pages with
  | some (2 :: ps) => s.publishEnd ctx n ps
  | _ => s

/-- COMBINE_FOLD: a failure goes to the root, and a complete round is folded and sent up, or ends at the root (R337, R338). -/
def State.foldCheck (s : State) (ctx n : Nat) : State :=
  match s.combines.find? ctx with
  | none => s
  | some c =>
    match c.rounds.find? n with
    | none => s
    | some r =>
      match r.result with
      | some d => s.publishRound ctx n d
      | none =>
        if r.up then s
        else
          match r.fail with
          | some code =>
            if c.root then s.failRound ctx n code
            else (s.modRound ctx n fun r => { r with up := true }).sendRound c.parent ctx n c .contribution [] (some code)
          | none =>
            if !c.complete r then s
            else
              let v := c.foldRound r
              if c.root then (s.setResult ctx n c v).publishRound ctx n v
              else (s.modRound ctx n fun r => { r with up := true }).sendRound c.parent ctx n c .contribution v none

/-- A failure is found in a round that has not ended: it travels up and then down in place of the result. -/
def State.roundFails (s : State) (ctx n : Nat) (code : FaultCode) : State :=
  if ((s.combines.find? ctx).bind fun c => c.ended.find? n).isSome then s
  else (s.modRound ctx n fun r => { r with fail := r.fail.or (some code) }).foldCheck ctx n

/-- COMBINE_CONTRIBUTION_RECEIVE (R337, R338, R340). -/
def execCombineContributionReceive (ctx chip round : Nat) (agreed : CombineAgreed) (fail : Option FaultCode) (data : List (BitVec 8))
    (s : State) : Result :=
  match s.combines.find? ctx with
  | none => .next (s.fabBump 12 1)
  | some c =>
    if (c.ended.find? round).isSome then .next s
    else if !c.childs.contains chip || agreed != { op := c.op, ty := c.ty, count := c.count, d := c.d, dtag := c.dtag } then
      .next (s.roundFails ctx round .collMismatch)
    else
      match fail with
      | some code => .next (s.roundFails ctx round code)
      | none =>
        .next ((s.modRound ctx round fun r => { r with childs := r.childs.insert (c.childs.idxOf chip) data }).foldCheck ctx round)

/-- COMBINE_RESULT_RECEIVE (R338): the result is written and published, or the round fails. -/
def execCombineResultReceive (ctx round : Nat) (fail : Option FaultCode) (data : List (BitVec 8)) (s : State) : Result :=
  match s.combines.find? ctx with
  | none => .next s
  | some c =>
    if (c.ended.find? round).isSome then .next s
    else
      match fail with
      | some code => .next (s.failRound ctx round code)
      | none =>
        let s := if ((s.roundAt ctx round).bind Round.result).isSome then s else s.setResult ctx round c data
        .next (s.foldCheck ctx round)

/-! ### cinit (R335) -/

/-- Word i of a record held as a number. -/
def recWord (r i : Nat) : Nat := bits r (64 * i + 63) (64 * i)

/-- The context that a record of Table 14·6 configures. -/
def combineOf (r : Nat) : Combine :=
  let a := recWord r 0
  let b := recWord r 1
  { op := bits a 11 8, ty := bits a 14 12, nlocal := bits a 20 15, count := bits a 36 21, d := bits a 42 37, parent := bits b 11 0,
    root := bitAt b 12, dtag := bits (recWord r 4) 31 0
    childs := (List.range (bits b 16 13)).map fun i => bits (recWord r (2 + i / 4)) (12 * (i % 4) + 11) (12 * (i % 4)) }

/-- Whether a combine record breaks a rule of Table 14·6. -/
def combineBad (r : Nat) : Bool :=
  let c := combineOf r
  let tyOk := match c.op with
    | 2 => c.ty ≤ 3
    | 3 | 4 => c.ty ≤ 5
    | _ => c.ty == 0
  5 < c.op || !tyOk || 32 < c.nlocal || c.count == 0 || (if c.op == 5 then c.d == 0 || 62 < c.d else c.d != 0) ||
    bits (recWord r 0) 63 43 != 0 || (c.root && c.parent != 0) || 8 < c.childs.length || bits (recWord r 1) 63 17 != 0 ||
    bits (recWord r 2) 63 48 != 0 || bits (recWord r 3) 63 48 != 0 || bits (recWord r 4) 63 32 != 0 ||
    recWord r 5 != 0 || recWord r 6 != 0 || recWord r 7 != 0 || 16384 < c.bytes || (c.nlocal == 0 && c.childs.isEmpty)

/-- cinit (R335). -/
def execCinit (f : FE) (ls : Lits) (s : State) : Result :=
  s.withIssue fun iss s =>
    let a := iss.addrE f ls 64
    if !s.mayRead? iss then .next s.stall
    else
      match s.recordFault iss a 64 64 with
      | some c => s.faultAll iss c
      | none =>
        let r := s.record iss a.toNat 64
        let c := combineOf r
        if s.detI iss then s.faultAll iss .detAtomic
        else if combineBad r then s.faultAll iss .fabRecord
        else if (s.combines.find? (bits r 7 0)).isSome then s.faultAll iss .collState
        else if (!c.root && !s.routable c.parent) || c.childs.any fun ch => !s.routable ch then s.faultAll iss .fabNoroute
        else s.finish iss (2 + ls.length) [.act (.cinit f ls) iss.idx iss.lanes [] [] [] [r]]

/-- The commit of cinit. -/
def commitCinit (iss : Issue) (idx : Nat) (n : List Nat) (s : State) : State :=
  let r := n.headD 0
  let s := s.cow 9 0 (bits r 7 0) fun s => Config.imageBody s.freeCtr
  ({ s with combines := s.combines.insert (bits r 7 0) { combineOf r with owner := s.ctxOf iss.gid } }.addEvent (iss.event idx iss.lanes)).2

/-! ### cpost and cbar (R336) -/

/-- The number of the member's next round, and whether it has two rounds posted and not yet published or failed. -/
def Combine.memberRound (c : Combine) (member : Nat) : Nat × Bool :=
  let n := c.posts.get member 0
  (n, 2 ≤ ((List.range n).filter fun k => (c.ended.find? k).isNone).length)

/-- The rights and extents of a post: source first, then destination (R336). -/
def State.postFaultOf (s : State) (iss : Issue) (w0 soff doff n : Nat) : Option (FaultCode × Nat) :=
  let t := s.teamOf iss.gid
  let skind := bits w0 1 0
  let dkind := bits w0 3 2
  let right := fun (h r : Nat) => (checkHandle (s.ctxI iss) (iss.hreg h) 0 0 1 [r] []).map fun c => (c, 0)
  let mem := fun (h o : Nat) =>
    if handleLen (iss.hreg h) < o + n then some (FaultCode.handleBounds, vaOf (iss.hreg h) o) else none
  let buf := fun (space o : Nat) => if t.window space < o + n then some (FaultCode.bufBounds, 0) else none
  [if skind == 0 then right (bits w0 7 4) 0 else none, if dkind == 0 then right (bits w0 11 8) 4 else none,
   if skind == 0 then mem (bits w0 7 4) soff else buf skind soff,
   if dkind == 3 then none else if dkind == 0 then mem (bits w0 11 8) doff else buf dkind doff].findSome? id

/-- cpost (R336). -/
def execCpost (f : FE) (ls : Lits) (s : State) : Result :=
  s.withIssue fun iss s =>
    let a := iss.addrE f ls 32
    let x := (iss.uniformB f ls).toNat
    if !s.mayRead? iss then .next s.stall
    else
      match s.recordFault iss a 32 32 with
      | some c => s.faultAll iss c
      | none =>
        let r := s.record iss a.toNat 32
        let w0 := recWord r 0
        let t := s.teamOf iss.gid
        if s.detI iss then s.faultAll iss .detAtomic
        else if x / 256 != 0 || bits w0 1 0 == 3 || bits w0 63 17 != 0 || recWord r 3 != 0 then s.faultAll iss .fabRecord
        else
          match s.combines.find? x with
          | none => s.faultAll iss .collState
          | some c =>
            let dk := bits w0 3 2
            if c.nlocal ≤ bits w0 16 12 then s.faultAll iss .collState
            else if (dk == 1 || dk == 2) && recWord r 2 + c.bytes ≤ t.window dk && !t.pairedRange dk (recWord r 2) c.bytes then
              s.faultAll iss .fabRecord
            else
              match s.postFaultOf iss w0 (recWord r 1) (recWord r 2) c.bytes with
              | some (code, va) => s.faultAll iss code va
              | none =>
                if (c.memberRound (bits w0 16 12)).2 then .next s.stall
                else s.finish iss (2 + ls.length) [.act (.cpost f ls) iss.idx iss.lanes [] [] [] [x, w0, recWord r 1, recWord r 2]]

/-- Reads the source of a post through its captured record: matrix work that writes the place holds the read (R279). -/
def State.postSource (s : State) (e : Nat) (x : Contribution) (n : Nat) : EngR :=
  let w0 := x.words.headD 0
  let o := x.words.getD 1 0
  let k := bits w0 1 0
  if k == 0 then s.handleRead e (s.ctx x.ctx) x.core x.src o n
  else if workHolds s.works [bufRange x.team k x.core o n] [] then .wait s
  else .ok (s.bufRead x.team k (unitOf k x.core) false o n) s

/-- Goes on reading the source of a member's post: its event lands when it has been read, with a deferred fault when it could not be, which
fails the round (R336, R338). -/
def State.readPost (s : State) (ctx n : Nat) (c : Combine) (m : Nat) (x : Contribution) : State :=
  match x.reading with
  | none => s
  | some e =>
    let joins := fun (s : State) (x : Contribution) =>
      (s.readOver { x with reading := some e }).modRound ctx n fun r => { r with locals := r.locals.insert m x }
    match s.postSource e x c.bytes with
    | .ok d s => joins s { x with data := d, reading := none }
    | .fail code va s =>
      (joins (s.modEvent e fun d => d.addFault code d.lanes va) { x with fail := some code, reading := none }).roundFails ctx n code
    | .wait s => s

/-- Goes on with an open round: sources still to be read, then the fold, then the publication (R336 to R338). -/
def State.roundStep (s : State) (ctx n : Nat) : State :=
  match s.combines.find? ctx, s.roundAt ctx n with
  | some c, some r => (r.locals.foldl (fun (s : State) x => s.readPost ctx n c x.1 x.2) s).foldCheck ctx n
  | _, _ => s

/-- Goes on with every open round that waits. -/
def State.roundsStep (s : State) : State :=
  (s.combines.flatMap fun p => p.2.rounds.map fun r => (p.1, r.1)).foldl (fun (s : State) x => s.roundStep x.1 x.2) s

/-- A contribution joins its member's next round; to one that has ended already it adds nothing. -/
def State.postRound (s : State) (ctx member : Nat) (x : Contribution) : State :=
  match s.combines.find? ctx with
  | none => s
  | some c =>
    let n := (c.memberRound member).1
    let s := s.modCombine ctx fun c => { c with posts := c.posts.insert member (n + 1) }
    if (c.ended.find? n).isSome then s.readOver x
    else
      let s := s.modRound ctx n fun r => { r with locals := r.locals.insert member x }
      match x.fail with
      | some code => s.roundFails ctx n code
      | none => s.roundStep ctx n

/-- The round that a member's post makes (R336). -/
def State.nextRound (s : State) (ctx member : Nat) : Nat := ((s.combines.find? ctx).map fun c => (c.memberRound member).1).getD 0

/-- The contribution of a post at a clause's commit. -/
def State.postOf (s : State) (iss : Issue) (idx : Nat) (words : List Nat) : Contribution :=
  { ctx := s.ctxOf iss.gid, team := iss.before.team, gid := iss.gid, core := iss.before.core, pc := iss.pc, idx := idx, bundle := iss.lanes,
    inHandler := iss.before.inHandler, words := words, src := iss.hreg (bits (words.headD 0) 7 4), dst := iss.hreg (bits (words.headD 0) 11 8) }

/-- The commit of cpost: vD takes the round, and the event lands when the source has been read (R336). -/
def commitCpost (f : FE) (ls : Lits) (iss : Issue) (idx : Nat) (n : List Nat) (s : State) : State :=
  let m := bits (n.getD 1 0) 16 12
  let round := s.nextRound (n.headD 0) m
  let x := s.postOf iss idx (n.drop 1)
  let s := s.writeV iss.gid f.d.toNat iss.lanes (iss.lanesOf fun _ => BitVec.ofNat 64 (round % 2 ^ 32))
  let (e, s) := s.addEvent { iss.event idx iss.lanes with wait := .condition (.cpost f ls) [] }
  s.postRound (n.headD 0) m { x with reading := some e }

/-- cbar (R336). -/
def execCbar (f : FE) (ls : Lits) (s : State) : Result :=
  s.withIssue fun iss s =>
    let x := (iss.uniform f.a (litAt ls 0)).toNat
    let m := (iss.uniformB f ls).toNat
    if s.detI iss then s.faultAll iss .detAtomic
    else if x / 256 != 0 then s.faultAll iss .fabRecord
    else
      match s.combines.find? x with
      | none => s.faultAll iss .collState
      | some c =>
        if c.nlocal ≤ m then s.faultAll iss .collState
        else if (c.memberRound m).2 || !s.mayRead? iss then .next s.stall
        else s.finish iss (2 + ls.length) [.act (.cbar f ls) iss.idx iss.lanes [] [] [] [x, m]]

/-- The commit of cbar: an empty contribution, with no destination. -/
def commitCbar (f : FE) (iss : Issue) (idx : Nat) (n : List Nat) (s : State) : State :=
  let m := n.getD 1 0
  let round := s.nextRound (n.headD 0) m
  let x := s.postOf iss idx [3 * 4, 0, 0]
  let s := s.writeV iss.gid f.d.toNat iss.lanes (iss.lanesOf fun _ => BitVec.ofNat 64 (round % 2 ^ 32))
  (s.addEvent (iss.event idx iss.lanes)).2.postRound (n.headD 0) m x

/-! ### cwait and cfree (R339, R340) -/

/-- cwait (R339). -/
def execCwait (f : FE) (ls : Lits) (s : State) : Result :=
  s.withIssue fun iss s =>
    let x := (iss.uniform f.a (litAt ls 0)).toNat
    let n := (iss.uniformB f ls).toNat
    if x / 256 != 0 then s.faultAll iss .fabRecord
    else
      match s.combines.find? x with
      | none => s.faultAll iss .collState
      | some c =>
        if c.posts.all fun p => p.2 ≤ n then s.faultAll iss .collState
        else s.finish iss (2 + ls.length) [.act (.cwait f ls) iss.idx iss.lanes [] [] [] [x, n]]

/-- The commit of cwait: the threads block until the round has ended on this chip. -/
def commitCwait (iss : Issue) (idx : Nat) (n : List Nat) (s : State) : State :=
  let s := s.modGroup iss.gid fun g =>
    g.modThreads iss.lanes fun _ t => t.block (.cwait (n.headD 0) (n.getD 1 0) iss.pc.toNat idx iss.before.inHandler)
  match (s.combines.find? (n.headD 0)).bind fun c => c.ended.find? (n.getD 1 0) with
  | some fail => s.wakeRound (n.headD 0) (n.getD 1 0) fail
  | none => s

/-- cfree (R340). -/
def execCfree (f : FE) (ls : Lits) (s : State) : Result :=
  s.withIssue fun iss s =>
    let x := (iss.uniform f.a (litAt ls 0)).toNat
    if x / 256 != 0 then s.faultAll iss .fabRecord
    else
      match s.combines.find? x with
      | none => s.faultAll iss .collState
      | some c =>
        if !c.rounds.isEmpty then s.faultAll iss .collState
        else s.finish iss (2 + ls.length) [.act (.cfree f ls) iss.idx iss.lanes [] [] [] [x]]

/-- The commit of cfree. -/
def commitCfree (iss : Issue) (idx : Nat) (n : List Nat) (s : State) : State :=
  let s := s.cow 9 0 (n.headD 0) fun s => Config.imageBody s.freeCtr
  ({ s with combines := s.combines.erase (n.headD 0) }.addEvent (iss.event idx iss.lanes)).2

end Sys2Proof.Machine
end

