-- ==== Sys2Proof/Machine/Fabric.lean ====
section
/-!
DEFINITION. The fabric (R315 to R334, R341, R342): injection and retention at the sender, decoding, delivery and loss at the
receiver, and the commands fput, fget, fsend, frecv and fstat.
-/

namespace Sys2Proof.Machine

/-! ### Memory at its home, for the fabric and the host -/

/-- A leaf with the class and reach of a leaf word. -/
def wordPte (x : Nat) : BitVec 64 := BitVec.ofNat 64 (leafClass x * 2 ^ 5 + leafReach x * 2 ^ 7)

/-- The leaf word of a tag. -/
def tagLeaf (t : BitVec 64) : Nat := tagClass t + 4 * tagReach t

/-- Bytes of device memory read at their home (R332, R415), through a leaf when it is known and otherwise as the tags say. -/
def State.homeRead (s : State) (pa n : Nat) (leaf : Option Nat := none) : EngR :=
  (sectorsOf pa n).foldl (fun (r : EngR) p => r.andThen fun d s =>
    (s.engReadSeg (2 ^ 50) 0 0 p.1 p.2 (wordPte (leaf.getD (tagLeaf (s.tag (grainOf p.1)))))).andThen fun x s => .ok (d ++ x) s) (.ok [] s)

/-- The pieces of a range that lie in one grain each: address and length. -/
def grainPieces (pa n : Nat) : List (Nat × Nat) :=
  ((List.range ((pa + n - 1) / 512 + 1 - pa / 512)).map fun i =>
    let lo := max pa ((pa / 512 + i) * 512)
    (lo, min (pa + n) ((pa / 512 + i + 1) * 512) - lo)).filter fun p => p.2 != 0

/-- The leaf through which a home writes a grain: with bit 9 when its page has replicas, which the write reaches too (R206, R233). -/
def State.homePte (s : State) (pa leaf : Nat) : BitVec 64 :=
  wordPte leaf ||| (if leafClass leaf == 0 && !(s.replicaList pa).isEmpty then BitVec.ofNat 64 (2 ^ 9) else 0)

/-- Bytes of device memory written at their home, grain by grain. -/
def State.homeWrite (s : State) (pa : Nat) (bs : List Byte) (leaf : Option Nat := none) : EngR :=
  (grainPieces pa bs.length).foldl (fun (r : EngR) p => r.andThen fun _ s =>
    s.engWriteSeg 0 0 p.1 (s.homePte p.1 (leaf.getD (tagLeaf (s.tag (grainOf p.1))))) ((bs.drop (p.1 - pa)).take p.2)) (.ok [] s)

/-! ### Sending -/

/-- The key of a message: its channel and seq. -/
def msgKey (chan seq : Nat) : Nat := chan * 2 ^ 32 + seq % 2 ^ 32

/-- FAULTAUX of FAB_LOSS (Table 16·5). -/
def lossAux (chip cls seq : Nat) : Word := BitVec.ofNat 64 (seq % 2 ^ 32 + chip * 2 ^ 32 + cls * 2 ^ 44)

/-- The code rate of a message: that of its class, or class 1's for a marker; a single class has k = 1 (R318, R355). -/
def State.codeRate (s : State) (m : Msg) : Nat × Nat :=
  let x := s.cfgVal (0x60 + if m.kind == 5 then 1 else m.cls)
  (if bitAt x 12 then 1 else bits x 5 0, bits x 11 8)

/-- The kinds of class 6 that answer for another message (Table 14·1). -/
def ackKind : Nat := 1
/-- A NACK. -/
def nackKind : Nat := 2
/-- A busy reply. -/
def busyKind : Nat := 3
/-- A loss notice. -/
def lossKind : Nat := 4

/-- The class under whose key a chip numbers its answers of class 6 to another: 7, which no message has. -/
def answerClass : Nat := 7

/-- Sends an answer of class 6 about a message: one fragment and its copies, with the message's seq and, in the info field, its class
(R317, R318; notes/assumptions/89). To a chip without a route nothing goes. DESIGN CHOICE (notes/assumptions/114): the spec does not say how
R322 to R326 apply to the answers themselves; they carry the seq that they are about and a number of their own, by which the receiver drops
the second copy of one, and they are not kept, slotted or acknowledged. -/
def State.sendControl (s : State) (src chip kind seq info : Nat) (payload : List Byte) : State :=
  let P := s.pathCount chip
  if !s.isSelf chip && !s.routable chip then s
  else
    let num := s.outKey (chanKey chip answerClass)
    let info := info + s.sendSeq.get num 0 * 2 ^ 32
    let s := { s with sendSeq := s.sendSeq.insert num ((s.sendSeq.get num 0 + 1) % 2 ^ 32) }
    let body := if payload.isEmpty then [0] else payload
    let m := bits (s.cfgVal 0x66) 11 8
    (List.range (1 + m)).foldl (fun (s : State) i =>
      let route := if P == 0 then 0 else (seq + i) % P
      let h : Header :=
        { src := src, dst := chip, phys := placedAt (s.placement chip), cls := 6, kind := kind, seq := seq, len := body.length, ks := 1
          m := m, stripe := 0, index := i, gen := 0, route := route, hops := 0, info := info }
      let bytes := body ++ List.replicate (256 - body.length) 0
      let w := h.word bytes false
      let s := s.fabBump 0 1
      if s.isSelf chip then { s with agenda := s.agenda ++ [(0, .dataFragmentReceive w bytes)] }
      else s.send (.fragment (routePort (s.pathWord chip route) 0) h.phys w bytes)) s

/-- What a loss notice says of the lost message, beside its kind: its info, and above that one more than its length with its first 13
bytes (notes/assumptions/89). -/
def lossSaid (info len head : Nat) : Nat := info % 2 ^ 96 + (1 + len + head * 2 ^ 16) * 2 ^ 96

/-- The loss notice of a message (R327). -/
def State.sendLoss (s : State) (m : Msg) (seq : Nat) : State :=
  s.sendControl s.chip m.chip lossKind seq m.cls
    (toBytes 1 m.kind ++ toBytes 12 m.info ++ toBytes 2 m.payload.length ++ m.payload.take 13)

/-- Whether an armed inj.frag applies to a fragment, and the state once it has (R390). -/
def State.fragFlip (s : State) (m : Msg) (isData : Bool) (route : Nat) : Bool × State :=
  match s.injFrag with
  | some (chip, cls, r, e) =>
    if isData && chip == m.chip && cls == m.cls && r == route then (true, { s with injFrag := none }.completeEvent e)
    else (false, s)
  | none => (false, s)

/-- Sends one attempt of a stripe: fragment f of the message on route (seq + f) mod P (R321, R326), but for the fragments that the retention
buffer has lost (R423). -/
def State.emitStripe (s : State) (x : Kept) (seq j gen : Nat) : State :=
  let m := x.msg
  let data := stripeData m.payload x.k j
  let frs := data ++ (List.range x.m).map (parityOf data)
  let P := s.pathCount m.chip
  frs.zipIdx.foldl (fun (s : State) p =>
    let route := if P == 0 then 0 else (seq + j * (x.k + x.m) + p.2) % P
    let h : Header :=
      { src := s.chip, dst := m.chip, phys := placedAt (s.placement m.chip), cls := m.cls, kind := m.kind, seq := seq,
        len := m.payload.length, ks := data.length, m := x.m, stripe := j, index := p.2, gen := gen, route := route, hops := 0,
        info := m.info }
    if x.dropped.contains (j, p.2) then s
    else
    let (flip, s) := s.fragFlip m (p.2 < data.length) route
    let w := h.word p.1 flip
    let s := s.fabBump 0 1
    if s.isSelf m.chip then { s with agenda := s.agenda ++ [(0, .dataFragmentReceive w p.1)] }
    else s.send (.fragment (routePort (s.pathWord m.chip route) 0) h.phys w p.1)) s

/-- Sends every stripe of a kept message at its present attempts. -/
def State.emitAll (s : State) (x : Kept) (seq : Nat) : State :=
  x.gens.zipIdx.foldl (fun (s : State) p => s.emitStripe x seq p.2 p.1) s

/-- The bytes that the retention buffer holds (R326). -/
def State.retained (s : State) : Nat :=
  s.kept.foldl (fun n p => n + ceilDiv p.2.msg.payload.length 256 * 256) 0

/-- A fabric command has moved `n` more bytes and ends, unless it has already; while its status record cannot be written it stays as
it was. -/
def State.endFabric (s : State) (id n : Nat) (f : Option (FaultCode × Nat)) : State :=
  match s.commands.find? id with
  | some c =>
    if !c.live then s
    else
      let t := s.endCommand id { c with progress := c.progress + n } f
      if ((t.commands.find? id).map Command.live).getD false then { t with commands := s.commands } else t
  | none => s

/-- Whether a fabric command has ended. -/
def State.fabricEnded (s : State) (id : Nat) : Bool := ((s.commands.find? id).map fun c => !c.live).getD true

/-- A command loses its message: FAB_LOSS with the message named in FAULTAUX (R327, Table 16·5). -/
def State.loseCommand (s : State) (id : Nat) (aux : Word) : State :=
  match s.commands.find? id with
  | some c =>
    if !c.live then s
    else
      let c := { c with state := 3, code := FaultCode.fabLoss.num }
      -- a status write that must wait is owed (R298)
      let (owed, s) := match s.putStatus c with
        | .wait s => (true, s)
        | r => (false, r.state)
      let s := match c.event with
        | some e => s.modEvent e fun d => d.addFault .fabLoss d.lanes 0 aux
        | none => s
      let s := s.settleCommand id c none
      { s with commands := s.commands.modify id fun c => { c with owed := owed } }
  | none => s

/-- A message of a stepped grid was lost: FAB_LOSS follows at the step clause in every group of the grid (R91, R92). -/
def State.stepLoses (s : State) (gr : Nat) (aux : Word) : State :=
  if (s.grid gr).stepped then s.modGrid gr fun g => { g with stepLost := g.stepLost ++ [aux] } else s

/-- FAB_LOSS at the step clause of every running grid that a test picks (R92). -/
def State.stepsLose (s : State) (p : Grid → Bool) (aux : Word) : State :=
  (s.grids.filter fun (g : Nat × Grid) => g.2.state == .running && p g.2).foldl (fun (s : State) g => s.stepLoses g.1 aux) s

/-- A message of classes 2 to 5 from another chip was declared lost here: the grids whose step domain the chip belongs to hear of it, and the
notices of their phases say whose it is (R92). -/
def State.stepHears (s : State) (src : Nat) (aux : Word) : State :=
  if !s.stepPeers.contains src then s
  else { s with grids := s.grids.map fun (g : Nat × Grid) =>
      if g.2.stag != 0 && g.2.stepped && g.2.state == .running then (g.1, { g.2 with stepHeard := g.2.stepHeard ++ [aux] }) else g }

/-- The chips of the snapshot domain (R344). -/
def State.domChips (s : State) : List Nat := (List.range (s.cfgVal 0x75)).map (· + s.cfgVal 0x74)

/-- Tells a snapshot's initiator that it has failed; the initiator itself tells every chip (R356, R357). -/
def State.tellFailure (s : State) (colour initiator : Nat) : State :=
  if initiator == s.chip then
    s.domChips.foldl (fun (s : State) c => if c == s.chip then s else s.send (.notice c "SnapshotFailed" [colour])) s
  else s.send (.notice initiator "SnapshotFailed" [colour])

/-- The chip's epoch becomes that of a record: what waited for it is handled, and the groups that paused go on (R347, R352). -/
def State.takeEpoch (s : State) (epoch : Nat) : State :=
  let s := { s with epoch := epoch, agenda := (s.heldMsgs.map fun i => (0, i)) ++ s.agenda, heldMsgs := [] }
  s.takeAnswers.formAll

/-- A snapshot fails on this chip with a cause: its marks are cleared. One that is still recording takes its epoch at once, so that the chip
stays in step and what it holds back is handled (DESIGN CHOICE, notes/assumptions/120). -/
def State.failSnap (s : State) (colour cause : Nat) : State :=
  let x := s.snaps.get colour {}
  if x.state == 0 || 4 ≤ x.state then s
  else
    let s := { s with snaps := s.snaps.insert colour { x with state := 5, cause := cause, marks := [] } }
    if x.state == 1 then s.takeEpoch x.epoch else s

/-- A snapshot fails on this chip of its own, and its initiator is told (Table 15·3). -/
def State.snapFail (s : State) (colour cause : Nat) : State :=
  let x := s.snaps.get colour {}
  if x.state == 0 || 4 ≤ x.state then s else (s.failSnap colour cause).tellFailure colour x.initiator

/-- Records an event in the management controller's log, a ring of 65,536; the stamp is the PTP clock's, a free value (R431). -/
def State.logError (s : State) (ty unit addr : Nat) : State :=
  let (x, s) := s.fresh
  let log := s.errorLog ++ [{ stamp := x, ty := ty, unit := unit, addr := addr }]
  if 65536 < log.length then { s with errorLog := log.drop 1, logLost := s.logLost + 1 } else { s with errorLog := log }

/-- The parts of a class 0 message that carries no grain's data: kind, leaf word, operand. -/
def cohParts (payload : List Byte) : CohKind × Nat × Nat :=
  (cohKinds.getD (ofBytes (payload.take 1)) .snapRead, ofBytes ((payload.drop 1).take 4), ofBytes ((payload.drop 5).take 8))

/-- The address in the info field of a class 0 message. -/
def cohAddr (info : Nat) : Nat := bits info 84 32

/-- A grain that this chip asked for will not come: the accesses that wait for it end with a fault, and a load lands zero (R327). -/
def State.grainLost (s : State) (g : Nat) (c : FaultCode) (aux : Word) : State :=
  let waits := s.accesses.filter fun a => a.space == 0 && !pteHost a.pte && !a.sent && grainOf a.pa == g
  waits.foldl (fun (s : State) a => s.refuseAccess a c aux) { s with requested := s.requested.erase g }

/-- An access that another home was to perform will not be. -/
def State.accessLost (s : State) (id : Nat) (c : FaultCode) (aux : Word) : State :=
  match s.accesses.find? fun a => a.id == id && a.sent with
  | some a =>
    if a.gid == engGid && a.event.isNone then s.awayAnswer a (some c) [] else s.refuseAccess a c aux
  | none => s.modEvent id fun d => { d.addFault c d.bundle 0 aux with asks := d.asks.map (· - 1) }

/-- What the loss of a message of class 0 does at its sender (R327): a request ends the access behind it; an answer that will not come is
taken as given, and a requester that will get no data is told so. -/
def State.cohLost (s : State) (m : Msg) (c : FaultCode) (aux : Word) : State :=
  let pa := cohAddr m.info
  let g := grainOf pa
  if m.payload.length == 256 then { s with putting := s.putting.filter (· != g) }
  else
    let (k, _, arg) := cohParts m.payload
    match k with
    | .getS | .getM | .upgrade => s.grainLost g c aux
    | .store | .atomic | .readTag | .move | .close | .reset | .replicAdd | .replicRem | .awaitOwner | .fence | .tlbInv | .poison =>
      s.accessLost arg c aux
    | .replicAsk | .clear => s.opAnswered pa arg c.num []
    | .dropped =>
      -- the chip that held the replica cannot be reached: its page is off the list, and the request is over
      if 2 ^ 59 ≤ arg then s.opAnswered pa arg 0 [] else if arg == 0 then s else s.accessLost arg c aux
    | .convert => { s with pageOps := s.pageOps.erase (pa / 4096) }
    | .putM | .putO => { s with putting := s.putting.filter (· != g) }
    | .invalidate | .unlock => match execCoherenceAck m.chip pa false s with
      | .next s => s
      | _ => s
    | .forwardS | .forwardM =>
      let s := if arg == s.chip then { s with txns := s.txns.modify g fun t => { t with data := false } }
        else s.sendCoh arg .answer pa c.num (2 ^ 61) []
      match execCoherenceAck m.chip pa false s with
      | .next s => s
      | _ => s
    | .shootDown => { s with pageOps := s.pageOps.modify (pa / 4096) fun p => { p with acks := p.acks.erase m.chip } }
    | _ => s

/-- The grids of the local members of a round. -/
def State.roundGrids (s : State) (ctx n : Nat) : List Nat :=
  (((s.roundAt ctx n).map fun r => r.locals.map fun x => (s.team x.2.team).grid).getD []).eraseDups

/-- What the loss of a message does at its sender (R327, R431). -/
def State.senderLoss (s : State) (m : Msg) (seq : Nat) : State :=
  let aux := lossAux m.chip m.cls seq
  let s := (s.fabBump 9 1).logError 7 0 0
  match m.role with
  | .put | .getReq | .send =>
    match m.cmd with
    | some id =>
      let gr := ((s.commands.find? id).map fun c => (s.team c.team).grid).getD 0
      (s.loseCommand id aux).stepLoses gr aux
    | none => s
  | .getData => s
  | .contribution | .result =>
    match m.round with
    | some (ctx, n) =>
      -- a contribution is a message of the phase of its members' steps (R92)
      ((s.roundGrids ctx n).foldl (fun (s : State) gr => s.stepLoses gr aux) s).failRound ctx n .fabLoss
    | none => s
  | .marker | .report => s.snapFail (m.epoch % 2) 2
  | .coherence => s.cohLost m .fabLoss aux
  | .notice => s.stepsLose (fun g => g.stag == m.info % 2 ^ 32) aux

/-- A message is lost at its sender: the loss notice goes out, to be repeated until it is acknowledged (R327). -/
def State.loseKept (s : State) (key : Nat) (x : Kept) : State :=
  let seq := key % 2 ^ 32
  let s := { s with kept := s.kept.insert key { x with notice := some s.clock } }
  (s.senderLoss x.msg seq).sendLoss x.msg seq

/-- An attempt of a stripe has failed: it is sent again with the next gen, and the third failure loses the message (R326). -/
def State.attemptFails (s : State) (key j : Nat) : State :=
  match s.kept.find? key with
  | none => s
  | some x =>
    if x.notice.isSome || x.acked || x.gens.length ≤ j then s
    else if 2 ≤ x.gens.getD j 0 then s.loseKept key x
    else
      let x := { x with gens := x.gens.set j (x.gens.getD j 0 + 1), sent := x.sent.set j s.clock }
      (({ s with kept := s.kept.insert key x }).fabBump 8 1).emitStripe x (key % 2 ^ 32) j (x.gens.getD j 0)

/-- The key of a marker's seq: channel, and whether the channel leads into the module. -/
def markerKey (chan : Nat) (into : Bool) : Nat := chan * 2 + if into then 1 else 0

/-- Notes the seq of a marker of an epoch, for restoration (R361). -/
def State.noteMarker (s : State) (epoch chan seq : Nat) (into : Bool) : State :=
  { s with snapSaved := s.snapSaved.modify (epoch % 2) fun x => { x with markers := x.markers.insert (markerKey chan into) seq } }

/-- MESSAGE_INJECTION: the channel's next message is coded and sent when the retention buffer has room for it (R321, R322, R326); one
whose destination has no route cannot be sent. -/
def execMessageInjection (dst cls : Nat) (s : State) : Result :=
  let chan := chanKey dst cls
  match (s.sendQ.get chan [] : List Msg) with
  | [] => .next s
  | m :: rest =>
    let t := { s with sendQ := if rest.isEmpty then s.sendQ.erase chan else s.sendQ.insert chan rest }
    if !s.isSelf dst && !s.routable dst then
      .next (match m.cmd, m.round with
        | some id, _ =>
          let u := t.endFabric id 0 (some (.fabNoroute, 0))
          if u.fabricEnded id then u else { u with sendQ := s.sendQ }
        | none, some (ctx, n) => t.failRound ctx n .fabNoroute
        | none, none =>
          if m.role == MsgRole.marker || m.role == MsgRole.report then t.snapFail (m.epoch % 2) 2
          else if m.role == MsgRole.coherence then (t.cohLost m .fabNoroute 0).pump
          else t)
    else if 8388608 < s.retained + ceilDiv m.payload.length 256 * 256 then .next s
    else
      let seq := s.sendSeq.get (s.outKey chan) 0
      let (k, mm) := s.codeRate m
      let n := stripeCount m.payload.length k
      let x : Kept := { msg := m, k := k, m := mm, gens := List.replicate n 0, sent := List.replicate n s.clock,
                        ackWait := s.cfgVal 0x6A, busyWait := s.cfgVal 0x6B }
      let t := { t with kept := t.kept.insert (msgKey chan seq) x, sendSeq := t.sendSeq.insert (s.outKey chan) ((seq + 1) % 2 ^ 32) }
      let t := match m.cmd with
        | some id =>
          match t.commands.find? id with
          | some c => if c.live then t.noteCommand id { c with state := 1, n := c.n ++ [seq] } else t
          | none => t
        | none => if m.role == MsgRole.marker then t.noteMarker m.epoch chan seq false else t
      .next (t.emitAll x seq)

/-- The messages kept on a channel, with their keys. -/
def State.keptOn (s : State) (chan : Nat) : List (Nat × Kept) := s.kept.filter fun p => p.1 / 2 ^ 32 == chan

/-- What an acknowledged message still has to do before it is released: the last of a put, or a send, ends its command. -/
def State.release (s : State) (key : Nat) (x : Kept) : State :=
  let drop := fun (s : State) => { s with kept := s.kept.erase key }
  match x.msg.role, x.msg.cmd with
  | .put, some id | .send, some id =>
    if x.notice.isSome then drop s
    else
      let va := ((s.commands.find? id).map fun c => vaOf (c.handles.getD 1 0) (c.words.getD 2 0)).getD 0
      let more := (s.kept.any fun p => p.1 != key && p.2.msg.cmd == some id) ||
        s.sendQ.any fun p => p.2.any fun m => m.cmd == some id
      let n := x.msg.payload.length
      if x.fault.isSome then
        -- a put that met a fault at its peer stops with state 3 (R331)
        let s' := s.endFabric id 0 (x.fault.map fun c => (c, va))
        if s'.fabricEnded id then drop s' else s'
      else if more then
        drop { s with commands := s.commands.modify id fun c => if c.live then { c with progress := c.progress + n } else c }
      else
        let s' := s.endFabric id n none
        if s'.fabricEnded id then drop s' else s'
  | _, _ => drop s

/-- A cumulative acknowledgement releases the messages up to its seq (R325, R326). -/
def State.ackReceived (s : State) (chan seq : Nat) : State :=
  let hit := (s.keptOn chan).filter fun p => !seqBefore seq (p.1 % 2 ^ 32)
  let s := hit.foldl (fun (s : State) p => { s with kept := s.kept.modify p.1 fun x => { x with acked := true } }) s
  hit.foldl (fun (s : State) p => s.release p.1 p.2) s

/-- ACK_RECEIVE (R325, R326). -/
def execAckReceive (dst cls seq : Nat) (s : State) : Result := .next (s.ackReceived (chanKey dst cls) seq)

/-- The faults of puts that an acknowledgement names: seqs and codes (notes/assumptions/89). -/
def State.putFaults (s : State) (chan : Nat) (payload : List Byte) : State :=
  (piecesOf payload 5).foldl (fun (s : State) b =>
    { s with kept := s.kept.modify (msgKey chan (ofBytes (b.take 4))) fun x => { x with fault := codeOfNum (ofBytes (b.drop 4)) } }) s

/-- NACK_RECEIVE (R326). -/
def execNackReceive (dst cls seq stripe : Nat) (s : State) : Result :=
  .next (s.attemptFails (msgKey (chanKey dst cls) seq) stripe)

/-- A NACK that names an attempt: only the present one fails. -/
def State.nackReceived (s : State) (key stripe gen : Nat) : State :=
  if ((s.kept.find? key).map fun x => x.gens.getD stripe 0) == some gen then s.attemptFails key stripe else s

/-- A busy reply holds a message for FAB_BUSY_WAIT; no attempt has failed (R323). -/
def State.busyReceived (s : State) (key : Nat) : State :=
  { s with kept := s.kept.modify key fun x => { x with busy := some (s.clock + x.busyWait) } }

/-- BUSY_REPLY_RECEIVE (R323). -/
def execBusyReplyReceive (dst cls seq : Nat) (s : State) : Result := .next (s.busyReceived (msgKey (chanKey dst cls) seq))

/-- BUSY_WAIT_EXPIRY: the held message is sent again with the same gens (R323). -/
def execBusyWaitExpiry (dst cls seq : Nat) (s : State) : Result :=
  let key := msgKey (chanKey dst cls) seq
  match s.kept.find? key with
  | some x =>
    if x.busy.any (· ≤ s.clock) && x.notice.isNone && !x.acked then
      let x := { x with busy := none, sent := x.sent.map fun _ => s.clock }
      .next ({ s with kept := s.kept.insert key x }.emitAll x (seq % 2 ^ 32))
    else .next s
  | none => .next s

/-- ACK_WAIT_EXPIRY: an attempt without acknowledgement or NACK within FAB_ACK_WAIT has failed (R326). -/
def execAckWaitExpiry (dst cls seq stripe : Nat) (s : State) : Result :=
  let key := msgKey (chanKey dst cls) seq
  match s.kept.find? key with
  | some x =>
    if x.busy.isNone && x.sent.getD stripe s.clock + x.ackWait ≤ s.clock then .next (s.attemptFails key stripe) else .next s
  | none => .next s

/-- LOSS_NOTICE_REPEAT (R327). -/
def execLossNoticeRepeat (dst cls seq : Nat) (s : State) : Result :=
  let key := msgKey (chanKey dst cls) seq
  match s.kept.find? key with
  | some x =>
    if x.notice.any fun t => t + x.ackWait ≤ s.clock then
      .next (({ s with kept := s.kept.insert key { x with notice := some s.clock } }).sendLoss x.msg (seq % 2 ^ 32))
    else .next s
  | none => .next s

/-! ### Receiving -/

/-- The number under which a channel into this module is kept: its source, with the destination when that is another of the module's
logical chips (R320). -/
def State.inChip (s : State) (src dst : Nat) : Nat := if dst == s.chip then src else 4096 * (dst + 1) + src

/-- The source of an incoming channel's number. -/
def srcOf (n : Nat) : Nat := n % 4096

/-- The destination of an incoming channel's number. -/
def State.dstOf (s : State) (n : Nat) : Nat := if n < 4096 then s.chip else n / 4096 - 1

/-- An incoming channel. -/
def State.recvOf (s : State) (chan : Nat) : RecvChan := s.recv.get chan {}

/-- The seqs of a channel in the completed-message filter. -/
def State.filtered (s : State) (chan : Nat) : List Nat := (s.filter.filter fun p => p.1 / 2 ^ 32 == chan).map fun p => p.1 % 2 ^ 32

/-- The watermark: the lowest seq that is in the filter or not yet delivered (R325). -/
def State.watermark (s : State) (chan : Nat) : Nat :=
  (s.filtered chan).foldl (fun n q => if seqBefore q n then q else n) (s.recvOf chan).next

/-- An acknowledgement of a channel is owed, to be coalesced within 64 MCLK (R325). -/
def State.oweAck (s : State) (chan : Nat) : State :=
  let r := s.recvOf chan
  { s with recv := s.recv.insert chan { r with owed := r.owed.or (some s.clock) } }

/-- Whether a slot of an X-die is free for a class: of 2,048, 64 are kept for classes 0, 1 and 6; and the decode buffer has room for
a payload (R323). DESIGN CHOICE (notes/assumptions/116): the spec does not say which slots those classes fill first; a message of another
class is let in while fewer than 1,984 slots hold messages of any class. -/
def State.slotFree (s : State) (src cls kind : Nat) (new : Bool) : Bool :=
  let mine := s.slots.filter fun p => bits p.2.header.toNat 11 0 % 2 == src % 2
  let kept := kind == 5 || cls == 0 || cls == 1 || cls == 6
  let frags := mine.foldl (fun n p => p.2.stripes.foldl (fun n q => n + q.2.frags.length) n) 0
  frags < 32768 && (!new || mine.length < if kept then 2048 else 1984)

/-- The data of a decoded message, when every stripe of it is decoded (R315, R325). -/
def Slot.data? (x : Slot) : Option (List Byte) :=
  let h := Header.ofWord x.header
  match x.stripes.find? 0 with
  | none => none
  | some r =>
    let n := stripeCount h.len r.ks
    if (List.range n).all fun j => ((x.stripes.find? j).map StripeRx.done).getD false then
      some (((List.range n).flatMap fun j => (((x.stripes.find? j).map fun (q : StripeRx) => q.frags.flatMap (·.2)).getD [])).take h.len)
    else none

/-- A fragment joins its stripe (Table 14·4). -/
def State.takeFragment (s : State) (key : Nat) (x : Slot) (h : Header) (payload : List Byte) : State :=
  let r : StripeRx := (x.stripes.find? h.stripe).getD { ks := h.ks, since := s.clock }
  let put := fun (s : State) (r : StripeRx) => { s with slots := s.slots.insert key { x with stripes := x.stripes.insert h.stripe r } }
  if r.done then s.fabBump 3 1
  else
    let r := if r.gens.contains h.gen then r else { r with gens := r.gens ++ [h.gen], since := s.clock, timed := true }
    if (r.frags.find? h.index).isSome then put (s.fabBump 5 1) r
    else
      let fs := r.frags.insert h.index payload
      let s := s.fabBump 1 1
      if fs.length < r.ks then put s { r with frags := fs }
      else
        let s := if fs.any fun p => r.ks ≤ p.1 then s.fabBump 11 1 else s
        put s { r with done := true, timed := false, frags := (decodeStripe r.ks fs).zipIdx.map fun (p : List Byte × Nat) => (p.2, p.1) }

/-- FRAGMENT_FORWARD: an intermediate router checks a fragment, counts the hop and sends it on. Table 14·1 gives a header no list of
ports, so the port is a free value (R317, R319, R320; notes/assumptions/62). -/
def execFragmentForward (hdr : BitVec 256) (payload : List (BitVec 8)) (s : State) : Result :=
  if !fragmentSound hdr payload then .next (s.fabBump 2 1)
  else
    let h := Header.ofWord hdr
    let (x, s) := s.fresh
    .next (s.send (.fragment (x.toNat % 18) h.phys ({ h with hops := h.hops + 1 }.word payload false) payload))

/-! ### Loss at the receiver, and the order of matching (R327, R332) -/

/-- Whether a receive has met its loss and waits for the event area with it (R420). -/
def State.losing (s : State) (id : Nat) : Bool := s.ctxs.any fun p => p.2.events.any fun e => e.receive == some id

/-- The posted receives that a message of a class, from a chip and with a tag, may match, oldest first; any tag when it is not known. -/
def State.receives (s : State) (chip cls : Nat) (tag : Option Nat) : List (Nat × Command) :=
  s.commands.filter fun p =>
    let w := p.2.words.headD 0
    p.2.kind == .receive && p.2.live && !s.losing p.1 && bits w 33 22 == chip && bits w 21 19 == cls && (tag.isNone || tag == some (bits w 49 34))

/-- Raises an event for a context's event area: a HOSTSIG (kind 1) with its own vector, any other with the record's. Without an event
area it is discarded and counted, and the vector signalled at once (R420). -/
def State.hostEvent (s : State) (ctx : Nat) (e : HostEvent) : State :=
  let c := s.ctx ctx
  let v := if e.kind == 1 then e.vector else c.msix
  if c.eventArea == 0 then s.hostErr.send (.msix v)
  else s.modCtx ctx fun c => { c with events := c.events ++ [{ e with clock := s.clock, vector := v }] }

/-- Whether the event area of a context has no free entry, by the consumer count last read. -/
def Ctx.areaFull (c : Ctx) : Bool := (c.producer + 2 ^ 32 - c.consumer % 2 ^ 32) % 2 ^ 32 == 2 ^ c.q

/-- Whether what raises an event for a context now waits with it: the area is full, or earlier events wait (R420). -/
def Ctx.eventWaits (c : Ctx) : Bool := c.eventArea != 0 && (c.areaFull || !c.events.isEmpty)

/-- A receive matches the place of a lost message: it completes with FAB_LOSS, and its context is told by an event (R327), which it waits with
when the event area takes none (R420). -/
def State.receiveLost (s : State) (id : Nat) (l : LostSend) : State :=
  let aux := lossAux l.src l.cls l.seq
  match s.commands.find? id with
  | some c =>
    let e : HostEvent := { kind := 5, code := FaultCode.fabLoss.num, aux := aux.toNat }
    if (s.ctx c.ctx).eventWaits then s.hostEvent c.ctx { e with receive := some id } else (s.loseCommand id aux).hostEvent c.ctx e
  | none => s

/-- A lost send that its channel has passed matches the oldest receive for it, or waits in the matching order. -/
def State.matchLost (s : State) (chan seq : Nat) : State :=
  match s.lostSends.find? fun l => chanKey l.src l.cls == chan && l.seq == seq with
  | none => s
  | some l =>
    match s.receives (srcOf l.src) l.cls l.tag with
    | (id, _) :: _ => { s with lostSends := s.lostSends.erase l }.receiveLost id l
    | [] => s

/-- The first in seq order of some lost sends. -/
def firstLost : List LostSend → Option LostSend
  | [] => none
  | l :: ls => some (ls.foldl (fun a b => if seqBefore b.seq a.seq then b else a) l)

/-- A receive takes its place in the matching order when it is accepted: a lost send that its channel has passed and that waits there is its
match (R327, R332). -/
def State.matchPosted (s : State) (id : Nat) (chip cls tag : Nat) : State :=
  let passed := fun (l : LostSend) => srcOf l.src == chip && l.cls == cls && (l.tag.isNone || l.tag == some tag) &&
    seqBefore l.seq (s.recvOf (chanKey l.src l.cls)).next
  match firstLost (s.lostSends.filter passed) with
  | some l => { s with lostSends := s.lostSends.erase l }.receiveLost id l
  | none => s

/-- A channel passes a lost half of a grain's data: the half delivered before it goes, or the one that comes after it will (R225). -/
def State.passHalf (s : State) (chan : Nat) : State :=
  { s with halves := if (s.halves.find? chan).isSome then s.halves.erase chan else s.halves.insert chan (2 ^ 60, []) }

/-- A channel passes the seqs that have been declared lost and come next (R325). -/
def State.passLost (s : State) (chan : Nat) : Nat → State
  | 0 => s
  | n + 1 =>
    let r := s.recvOf chan
    if r.lost.contains r.next then
      let s := if r.lostHalves.contains r.next then s.passHalf chan else s
      let q := { r with next := (r.next + 1) % 2 ^ 32, lost := r.lost.erase r.next, lostHalves := r.lostHalves.erase r.next }
      let s := { s with recv := s.recv.insert chan q }
      ((s.matchLost chan r.next).oweAck chan).passLost chan n
    else s

/-- What a header says a message is for: 0 put, 1 get request, 2 get data, 3 send (notes/assumptions/61). -/
def infoRole (x : Nat) : Nat := bits x 95 92

/-- What the loss of a message of class 0 does at its receiver (R327): of data or an answer, the requesting access ends with a fault; an answer
that this home awaits is taken as given; of a request nothing more. `said` is as `lossSaid` has it, with nothing above the info when only
the header is known. -/
def State.cohLostIn (s : State) (chan src : Nat) (said : Nat) (aux : Word) : State :=
  let pa := cohAddr said
  let g := grainOf pa
  let up := said / 2 ^ 96
  let known := up != 0
  let len := (up - 1) % 2 ^ 16
  let (k, _, arg) := cohParts (toBytes 13 ((up - 1) / 2 ^ 16))
  let ack := fun (s : State) => match execCoherenceAck src pa false s with
    | .next s => s
    | _ => s
  if known && len == 256 then
    let g := match s.halves.find? chan with
      | some h => grainOf h.1
      | none => g
    if chipOf (g * 512) == s.chip then ({ s with txns := s.txns.modify g fun t => { t with data := false } }).finishTxn g
    else s.grainLost g .fabLoss aux
  else if known then
    match k with
    | .answer =>
      -- a page's transition is given up, a query or a dropped replica counts as answered, and an access or an event ends with the loss
      if 2 ^ 61 ≤ arg then s.grainLost g .fabLoss aux
      else if 2 ^ 60 ≤ arg then { s with pageOps := s.pageOps.erase (pa / 4096) }
      else if 2 ^ 58 ≤ arg then s.opAnswered pa arg FaultCode.fabLoss.num (toBytes 8 0) else s.accessLost arg .fabLoss aux
    | .grant => s.grainLost g .fabLoss aux
    | .ack | .ackDirty | .ackClean => ack { s with putting := s.putting.filter (· != g) }
    | .shotDown => { s with pageOps := s.pageOps.modify (pa / 4096) fun p => { p with acks := p.acks.erase src } }
    | _ => s
  else if (s.requested.find? g).isSome then s.grainLost g .fabLoss aux
  else ack s

/-- What the loss of a message of a kind and info does at its receiver (R327); `said` is what `cohLostIn` takes. -/
def State.lossActs (s : State) (chan kind info said : Nat) (aux : Word) : State :=
  let src := srcOf (chan / 8)
  let cls := chan % 8
  let ctx := bits info 7 0
  if kind == 5 then s.snapFail (bits info 32 32) 2
  else if kind == 6 || kind == 7 then
    match s.combines.find? ctx with
    | some c => if kind == 6 then s.roundFails ctx (c.roundOf info) .fabLoss else s.failRound ctx (c.roundOf info) .fabLoss
    | none => s
  else if kind != 0 then s
  else if cls == 1 then s.snapFail (bits info 0 0) 2
  else if cls == 0 then s.cohLostIn chan src said aux
  else if cls == 6 then
    -- a lost step notice counts as met, and fails the step (R403)
    let x : StepNotice := { chip := src, stag := info % 2 ^ 32, n := bits info 95 32, seqs := [] }
    State.stepsLose { s with stepNotices := s.stepNotices ++ [x] } (fun g => g.stag == x.stag) aux
  else if 2 ≤ cls && cls ≤ 5 && infoRole info == 2 then
    -- the issuer of a get reports the loss of its answer
    let id := bits info 91 58
    let gr := ((s.commands.find? id).map fun (c : Command) => (s.team c.team).grid).getD 0
    (s.loseCommand id aux).stepLoses gr aux
  else s

/-- The receiver declares a seq lost (R327): its slot is freed, FAB_LOSS raised where the rule says, and the channel goes on. `said` is the
kind and info of the lost message that a loss notice names (notes/assumptions/89). -/
def State.declareLost (s : State) (chan seq : Nat) (said : Option (Nat × Nat)) : State :=
  let r := s.recvOf chan
  if seqBefore seq r.next || r.lost.contains seq then s.oweAck chan
  else
    let key := msgKey chan seq
    let seen := (s.slots.find? key).map fun x => Header.ofWord x.header
    let h := (seen.map fun x => (x.kind, x.info)).or said
    let cls := chan % 8
    let aux := lossAux (srcOf (chan / 8)) cls seq
    let half := cls == 0 && ((seen.map fun x => x.len == 256).or
      (said.map fun x => decide (2 ^ 96 ≤ x.2) && (x.2 / 2 ^ 96 - 1) % 2 ^ 16 == 256)).getD false
    let q := { r with lost := r.lost ++ [seq], lostHalves := if half then r.lostHalves ++ [seq] else r.lostHalves }
    let s : State := { (s.fabBump 9 1).logError 7 0 0 with slots := s.slots.erase key, recv := s.recv.insert chan q }
    let isSend := match h with
      | some h => h.1 == 0 && 2 ≤ cls && cls ≤ 5 && infoRole h.2 == 3
      | none => cls == 3
    let s : State := if isSend then
        { s with lostSends := s.lostSends ++ [{ src := chan / 8, cls := cls, seq := seq, tag := h.map fun h => bits h.2 15 0 }] }
      else s
    let s : State := match h with
      | some h =>
        s.lossActs chan h.1 h.2 (if half && (said.all fun x => x.2 < 2 ^ 96) then lossSaid h.2 256 0 else (said.getD h).2) aux
      | none => s
    let s := if 2 ≤ cls && cls ≤ 5 then s.stepHears (srcOf (chan / 8)) aux else s
    ((s.passLost chan (s.recvOf chan).lost.length).oweAck chan).podCheckAll

/-- LOSS_NOTICE_RECEIVE (R327). -/
def execLossNoticeReceive (src cls seq kind info : Nat) (s : State) : Result :=
  .next (s.declareLost (chanKey src cls) seq (some (kind, info)))

/-- Whether the message that a channel delivers next is a decoded send for which no receive is posted (R332). -/
def State.sendWaits (s : State) (chan : Nat) : Bool :=
  match s.slots.find? (msgKey chan (s.recvOf chan).next) with
  | some x =>
    let h := Header.ofWord x.header
    h.kind == 0 && 2 ≤ h.cls && h.cls ≤ 5 && infoRole h.info == 3 && x.data?.isSome &&
      (s.receives (srcOf (chan / 8)) h.cls (some (bits h.info 15 0))).isEmpty
  | none => false

/-- A busy reply about a message of a channel, which is counted (R323, R342). -/
def State.sendBusy (s : State) (chan seq : Nat) : State :=
  (s.fabBump 10 1).sendControl (s.dstOf (chan / 8)) (srcOf (chan / 8)) busyKind seq (chan % 8) []

/-- Busy replies for the decoded messages that wait behind a send without a receive: a resend of one of them never counts as a failed
attempt (R323, R332). -/
def State.busyBehind (s : State) (chan : Nat) : State :=
  if !s.sendWaits chan then s
  else
    ((s.slots.filter fun p => p.1 / 2 ^ 32 == chan && p.2.data?.isSome).map fun p => p.1 % 2 ^ 32).foldl (fun (s : State) q => s.sendBusy chan q) s

/-- A message of class 6 that answers for another: an acknowledgement, a NACK, a busy reply or a loss notice (notes/assumptions/89). -/
def State.control (s : State) (h : Header) (payload : List Byte) : State :=
  let cls := bits h.info 2 0
  let chan := chanKey h.src cls
  let key := msgKey chan h.seq
  let body := payload.take h.len
  if h.kind == ackKind then (s.putFaults chan body).ackReceived chan h.seq
  else if h.kind == nackKind then s.nackReceived key (bits h.info 8 3) (bits h.info 10 9)
  else if h.kind == busyKind then s.busyReceived key
  else
    let said := lossSaid (ofBytes ((body.drop 1).take 12)) (ofBytes ((body.drop 13).take 2)) (ofBytes (body.drop 15))
    s.declareLost (chanKey (s.inChip h.src h.dst) cls) h.seq (some (ofBytes (body.take 1), said))

/-- An answer of class 6 comes: its first copy acts, and a later one is dropped by the filter (notes/assumptions/114). -/
def State.answerArrives (s : State) (h : Header) (payload : List Byte) : State :=
  let key := msgKey (chanKey (s.inChip h.src h.dst) answerClass) (bits h.info 63 32)
  if (s.filter.find? key).isSome then s.fabBump 3 1
  else ({ s with filter := s.filter.insert key (s.clock + s.cfgVal 0x68) }.fabBump 1 1).control h payload

/-- DATA_FRAGMENT_RECEIVE (R317, R320, R323 to R325). DESIGN CHOICE (notes/assumptions/117): a fragment of this module's identity whose dst is
no logical chip of this module is dropped and counted as a placement mismatch; the spec speaks of the identity alone. -/
def execDataFragmentReceive (hdr : BitVec 256) (payload : List (BitVec 8)) (s : State) : Result :=
  let h := Header.ofWord hdr
  if !fragmentSound hdr payload then .next (s.fabBump 2 1)
  else if h.phys != Config.fabSelf.toNat || !s.isSelf h.dst then .next (s.fabBump 6 1)
  else if h.cls == 6 && ackKind ≤ h.kind && h.kind ≤ lossKind then .next (s.answerArrives h payload).settle
  else
    let n := s.inChip h.src h.dst
    let chan := chanKey n h.cls
    let key := msgKey chan h.seq
    if (s.filter.find? key).isSome then .next (s.fabBump 3 1)
    else if seqBefore h.seq (s.recvOf chan).next || (s.recvOf chan).lost.contains h.seq then
      .next (if seqBefore h.seq (s.watermark chan) then s.fabBump 4 1 else s)
    else
      let old := s.slots.find? key
      if !s.slotFree h.src h.cls h.kind old.isNone then .next (s.sendBusy chan h.seq)
      else
        let s := s.takeFragment key (old.getD { header := hdr, deadline := s.cfgVal 0x69, dispose := s.cfgVal 0x68 }) h payload
        .next (if ((s.slots.find? key).bind Slot.data?).isSome then s.busyBehind chan else s)

/-- DECODE_DEADLINE_EXPIRY: fewer than three attempts seen send a NACK; the deadline of the third loses the message (R324). -/
def execDecodeDeadlineExpiry (src cls seq stripe : Nat) (s : State) : Result :=
  let chan := chanKey src cls
  let key := msgKey chan seq
  match s.slots.find? key with
  | none => .next s
  | some x =>
    match x.stripes.find? stripe with
    | none => .next s
    | some r =>
      if r.done || !r.timed || s.clock < r.since + x.deadline then .next s
      else if r.gens.contains 2 then .next (s.declareLost chan seq none)
      else
        let s := { s with slots := s.slots.insert key { x with stripes := x.stripes.insert stripe { r with timed := false } } }
        .next ((s.fabBump 7 1).sendControl (s.dstOf src) (srcOf src) nackKind seq
          (cls + stripe * 2 ^ 3 + r.gens.foldl max 0 * 2 ^ 9) [])

/-! ### Delivery (R325, R332) -/

/-- What a delivery comes to: done, or it must wait. -/
inductive Delivery where
  | done (s : State)
  | wait (s : State)
  deriving DecidableEq, Repr

/-- The delivery that an engine's access gives, with the fault that it met. -/
def EngR.delivered (r : EngR) (k : State → Option FaultCode → Delivery) : Delivery :=
  match r with
  | .ok _ s => k s none
  | .fail c _ s => k s (some c)
  | .wait s => .wait s

/-- The delivery that an event of the machine makes in a state. -/
def State.deliveredBy (s : State) (k : State → Result) : Delivery :=
  match k s with
  | .next s => .done s
  | _ => .done s

/-- The side of a publishable page that an address of its first frame means: the visible or the shadow (R299). -/
def State.sidePa (s : State) (pa log : Nat) (shadow : Bool) : Nat :=
  pa + if s.sides.contains (pa / 2 ^ log * 2 ^ log) != shadow then 2 ^ log else 0

/-- Writes data into the local side of a get or a receive (R330), and ends the command. -/
def State.deliverTo (s : State) (id : Nat) (data : List Byte) : Delivery :=
  match s.commands.find? id with
  | none => .done s
  | some c =>
    if !c.live then .done s
    else
      let w := c.words.headD 0
      let cap := bits (c.words.getD 3 0) 14 0
      let d := data.take cap
      let kind := bits w 5 4
      let off := c.words.getD 1 0
      let r := if s.publishPending id c then .wait s
        else if kind == 0 then s.handleWrite (s.ctx c.ctx) c.core (c.handles.headD 0) off .shadow true d
        else .ok [] (s.bufWrite c.team kind (unitOf kind c.core) true off d)
      let finish := fun (s : State) (f : Option (FaultCode × Nat)) =>
        let s := (s.endFabric id d.length f).acquireAll (c.core / 4) 3
        if s.fabricEnded id then Delivery.done s else .wait s
      match r with
      | .ok _ s => finish s (if cap < data.length then some (.fabTrunc, 0) else none)
      | .fail code va s => finish s (some (code, va))
      | .wait s => .wait s

/-- The pieces that a get request lists: address, length, page size and leaf word (notes/assumptions/61). -/
def getPieces (bs : List Byte) : List (Nat × Nat × Nat × Nat) :=
  ((piecesOf bs 16).map fun b => (ofBytes (b.take 8), ofBytes ((b.drop 8).take 4), ofBytes ((b.drop 12).take 2), ofBytes (b.drop 14))).filter
    fun p => p.2.1 != 0

/-- The peer's part of a get: its visible bytes, or the code of the fault that reading them met, go back in one message (R332). -/
def State.answerGet (s : State) (src cls cmd : Nat) (data : List Byte) : Delivery :=
  let r := (getPieces data).foldl (fun (r : EngR) p => r.andThen fun d s =>
    (if s.stalled p.1 then .wait s else s.homeRead (s.sidePa p.1 p.2.2.1 false) p.2.1 (some p.2.2.2)).andThen fun x s => .ok (d ++ x) s) (.ok [] s)
  let answer := fun (s : State) (code : Nat) (d : List Byte) =>
    Delivery.done (s.enqueue { chip := src, cls := cls, role := .getData, info := 2 * 2 ^ 92 + cmd * 2 ^ 58 + code,
                               payload := if d.isEmpty then [0] else d })
  match r with
  | .ok d s => answer s 0 d
  | .fail c _ s => answer s c.num []
  | .wait s => .wait s

/-- A marker reaches this chip (R356): one of an epoch not yet recorded starts the record and waits for it; a bad one fails its
snapshot; otherwise its channel's logging ends. -/
def State.markerArrives (s : State) (src cls epoch initiator dtag : Nat) : Delivery :=
  let colour := epoch % 2
  if s.epoch + 1 < epoch || dtag != s.cfgVal 0x77 then
    let s := if (s.snaps.get colour {}).state == 0 then
        { s with snaps := s.snaps.insert colour { state := 5, epoch := epoch, cause := 3, initiator := initiator } }
      else s
    .done (s.tellFailure colour initiator)
  else if s.epoch < epoch then .wait (s.startRecord epoch initiator 0)
  else
    .done { s with snaps := s.snaps.modify colour fun x =>
      if x.epoch == epoch then { x with awaiting := x.awaiting.filter (· != (src, cls)) } else x }

/-- Delivers a message of class 0: a half of a grain's data, which acts with the second, or a message of another kind (R225;
notes/assumptions/89). -/
def State.deliverCoherence (s : State) (chan chip : Nat) (h : Header) (data : List Byte) : Delivery :=
  let epoch := bits h.info 31 0
  if data.length != 256 then
    let (k, leaf, arg) := cohParts data
    s.deliveredBy (State.cohMessage · chip k (cohAddr h.info) epoch leaf arg (data.drop 13))
  else
    match s.halves.find? chan with
    | none => .done { s with halves := s.halves.insert chan (cohAddr h.info, data) }
    | some (pa, first) =>
      let s := { s with halves := s.halves.erase chan }
      if 2 ^ 60 ≤ pa then .done s
      else s.deliveredBy fun s => execGrainData chip epoch pa (BitVec.ofNat 64 (bits h.info 95 32)) (first ++ data) s

/-- Notes the fault that a put has met at this chip, which its acknowledgement names (R331). -/
def State.notePut (s : State) (chan seq : Nat) (c : Option FaultCode) : State :=
  match c with
  | some c => { s with recv := s.recv.insert chan { s.recvOf chan with faults := (s.recvOf chan).faults.insert seq c.num } }
  | none => s

/-- Delivers one message (R325, R332, R338, R356). -/
def State.deliver (s : State) (n cls : Nat) (h : Header) (data : List Byte) : Delivery :=
  let x := h.info
  match h.kind with
  | 0 =>
    if cls == 0 then s.deliverCoherence (chanKey n cls) h.src h data
    else if cls == 6 then
      s.deliveredBy (execStepNoticeReceive h.src (x % 2 ^ 32) (bits x 95 32) ((piecesOf data 4).map ofBytes))
    else if cls == 1 then .done { s with agenda := s.agenda ++ [(0, .snapshotReportReceive h.src (BitVec.ofNat 1 (bits x 0 0)))] }
    else if cls < 2 || 5 < cls then .done s
    else
      match infoRole x with
      | 0 =>
        if s.stalled (bits x 51 0) then .wait s
        else
          (s.homeWrite (s.sidePa (bits x 51 0) (bits x 57 52) true) data (some (bits x 61 58))).delivered fun s c =>
            .done (s.notePut (chanKey n cls) h.seq c)
      | 1 => s.answerGet h.src cls (bits x 91 58) data
      | 2 =>
        match codeOfNum (bits x 7 0) with
        | some c =>
          let s := s.endFabric (bits x 91 58) 0 (some (c, 0))
          if s.fabricEnded (bits x 91 58) then .done s else .wait s
        | none => s.deliverTo (bits x 91 58) data
      | _ =>
        match s.receives (srcOf n) cls (some (bits x 15 0)) with
        | (id, _) :: _ => s.deliverTo id data
        | [] => .wait s
  | 5 => s.markerArrives h.src cls (bits x 31 0) (bits x 44 33) (bits x 76 45)
  | 6 =>
    let ctx := bits x 7 0
    let round := ((s.combines.find? ctx).map fun c => c.roundOf x).getD 0
    match execCombineContributionReceive ctx h.src round (infoAgreed x) (codeOfNum (bits x 15 8)) (if bitAt x 16 then [] else data) s with
    | .next s => .done s
    | _ => .done s
  | 7 =>
    let ctx := bits x 7 0
    let round := ((s.combines.find? ctx).map fun c => c.roundOf x).getD 0
    match execCombineResultReceive ctx round (codeOfNum (bits x 15 8)) (if bitAt x 16 then [] else data) s with
    | .next s => .done s
    | _ => .done s
  | _ => .done s

/-- Logs a delivered message as channel state of every snapshot whose marker its channel still awaits (R356); its header is kept
beside it for the replay (R361). -/
def State.logDelivery (s : State) (n cls seq : Nat) (hdr : BitVec 256) (data : List Byte) : State :=
  s.snaps.foldl (fun (s : State) p =>
    if p.2.state == 2 && p.2.awaiting.contains (srcOf n, cls) then
      let s := s.stage p.1 { ty := 11, key := srcOf n + cls * 2 ^ 12 + seq * 2 ^ 32, body := data }
      { s with snapSaved := s.snapSaved.modify p.1 fun x => { x with replay := x.replay ++ [(n, cls, hdr, data)] } }
    else s) s

/-- MESSAGE_DELIVERY: a decoded message whose predecessors have been delivered or declared lost is delivered (R325). -/
def execMessageDelivery (src cls : Nat) (s : State) : Result :=
  let chan := chanKey src cls
  let r := s.recvOf chan
  let key := msgKey chan r.next
  match s.slots.find? key with
  | none => .next s
  | some x =>
    match x.data? with
    | none => .next s
    | some data =>
      let h := Header.ofWord x.header
      match s.deliver src cls h data with
      | .wait s => .next s
      | .done s =>
        let s := if h.kind == 5 then s.noteMarker (bits h.info 31 0) chan r.next true else s.logDelivery src cls r.next x.header data
        let r := s.recvOf chan
        let s := { s with
          slots := s.slots.erase key
          filter := s.filter.insert key (s.clock + x.dispose)
          recv := s.recv.insert chan { r with next := (r.next + 1) % 2 ^ 32 } }
        .next ((s.passLost chan (s.recvOf chan).lost.length).oweAck chan).podCheckAll.pump

/-- Puts a seq's fault into the order of seqs (R322). -/
def insertFault (f : Nat × Nat) : List (Nat × Nat) → List (Nat × Nat)
  | [] => [f]
  | g :: gs => if seqBefore f.1 g.1 then f :: g :: gs else g :: insertFault f gs

/-- How many faults of puts one acknowledgement names. -/
def ackFaults : Nat := 51

/-- ACK_COALESCE_EXPIRY: the cumulative acknowledgement of a channel goes out with the faults that the puts it covers have met (R325, R331).
When they are too many for one payload it covers the messages up to the last that it names, and the rest is owed. A fault that it has
named is named again as long as the filter holds its message. -/
def execAckCoalesceExpiry (src cls : Nat) (s : State) : Result :=
  let chan := chanKey src cls
  let r := s.recvOf chan
  if r.owed.any fun t => t + 64 ≤ s.clock then
    let fs := r.faults.foldr insertFault []
    let more := ackFaults < fs.length
    let named := fs.take ackFaults
    let seq := if more then (named.getLast?.map (·.1)).getD 0 else (r.next + 2 ^ 32 - 1) % 2 ^ 32
    let kept := r.faults.filter fun f => if more then !named.any fun g => g.1 == f.1 else (s.filter.find? (msgKey chan f.1)).isSome
    .next ({ s with recv := s.recv.insert chan { r with owed := if more then some s.clock else none, faults := kept } }.sendControl (s.dstOf src)
      (srcOf src) ackKind seq cls (named.flatMap fun (f : Nat × Nat) => toBytes 4 f.1 ++ toBytes 1 f.2))
  else .next s

/-- FILTER_ENTRY_EXPIRY: after DISPOSE_WINDOW a delivered message leaves no state behind (R325). -/
def execFilterEntryExpiry (src cls seq : Nat) (s : State) : Result :=
  let key := msgKey (chanKey src cls) seq
  let chan := chanKey src cls
  if !(s.filter.find? key).any (· ≤ s.clock) then .next s
  else
    let s := { s with filter := s.filter.erase key }
    -- a fault that no acknowledgement has named yet stays until one does
    .next (if (s.recvOf chan).faults.isEmpty || (s.recvOf chan).owed.isSome then s
      else { s with recv := s.recv.insert chan { s.recvOf chan with faults := (s.recvOf chan).faults.erase (seq % 2 ^ 32) } })

/-! ### The commands (R329 to R334) -/

/-- The op, class, chip and tag of a record's word 0, its length and status address. -/
structure FabRec where
  op : Nat
  lkind : Nat
  lh : Nat
  rh : Nat
  sth : Nat
  stloc : Bool
  cls : Nat
  chip : Nat
  tag : Nat
  loff : Nat
  roff : Nat
  len : Nat
  staddr : Nat
  reserved : Bool
  deriving DecidableEq, Repr

/-- A fabric command record from its eight words (Table 14·5). -/
def FabRec.ofWords (ws : List Nat) : FabRec :=
  let w := fun i => ws.getD i 0
  { op := bits (w 0) 3 0, lkind := bits (w 0) 5 4, lh := bits (w 0) 9 6, rh := bits (w 0) 13 10, sth := bits (w 0) 17 14,
    stloc := bitAt (w 0) 18, cls := bits (w 0) 21 19, chip := bits (w 0) 33 22, tag := bits (w 0) 49 34, loff := w 1, roff := w 2,
    len := bits (w 3) 14 0, staddr := bits (w 7) 31 0,
    reserved := bits (w 0) 63 50 != 0 || bits (w 3) 63 15 != 0 || w 4 != 0 || w 5 != 0 || w 6 != 0 || bits (w 7) 63 32 != 0 }

/-- Whether the op reads its local side. -/
def FabRec.readsLocal (r : FabRec) : Bool := r.op == 0 || r.op == 2

/-- Whether the op has a remote side. -/
def FabRec.remote (r : FabRec) : Bool := r.op ≤ 1

/-- Check 3 of R331. DESIGN CHOICE (notes/assumptions/118): a typed destination that runs beyond its window also fails check 5, and the spec does
not say which of the two names it; it is left to check 5, BUF_BOUNDS. -/
def FabRec.malformed (r : FabRec) (op : Nat) (t : Team) : Bool :=
  r.reserved || r.op != op || r.lkind == 3 || r.cls < 2 || 5 < r.cls || r.len == 0 || 16384 < r.len || r.staddr % 16 != 0 ||
  (r.lkind != 0 && r.lh != 0) || (!r.remote && (r.rh != 0 || r.roff != 0)) || (r.remote && (r.chip != 0 || r.tag != 0)) ||
  (!r.stloc && r.sth != 0) ||
  (!r.readsLocal && r.lkind != 0 && r.loff + r.len ≤ t.window r.lkind && !t.pairedRange r.lkind r.loff r.len) ||
  (!r.stloc && !t.unpairedRange 1 r.staddr 16)

/-- Checks 4 to 6 of R331. -/
def State.fabricCheck (s : State) (iss : Issue) (r : FabRec) : Option (FaultCode × Nat) :=
  let t := s.teamOf iss.gid
  let right := fun (h x : Nat) => (checkHandle (s.ctxI iss) (iss.hreg h) 0 0 1 [x] []).map fun c => (c, 0)
  let mem := fun (h o n : Nat) =>
    if handleLen (iss.hreg h) < o + n then some (FaultCode.handleBounds, vaOf (iss.hreg h) o) else none
  let buf := fun (space o n : Nat) => if t.window space < o + n then some (FaultCode.bufBounds, 0) else none
  [if r.lkind == 0 then right r.lh (if r.readsLocal then 0 else 4) else none,
   if r.remote then right r.rh (if r.op == 0 then 4 else 0) else none, if r.stloc then right r.sth 1 else none,
   if r.lkind == 0 then mem r.lh r.loff r.len else buf r.lkind r.loff r.len,
   if r.remote then mem r.rh r.roff r.len else none, if r.stloc then mem r.sth r.staddr 16 else buf 1 r.staddr 16,
   if !r.remote && !s.routable r.chip then some (.fabNoroute, 0) else none].findSome? id

/-- fput, fget, fsend and frecv (R329, R331). -/
def fabricExec (i : Instr) (op : Nat) (f : FE) (ls : Lits) (s : State) : Result :=
  s.withIssue fun iss s =>
    let a := iss.addrE f ls 64
    if !s.mayRead? iss then .next s.stall
    else
      match s.recordFault iss a 64 64 with
      | some c => s.faultAll iss c
      | none =>
        let ws := wordsOf (s.bufRead iss.before.team 1 (unitOf 1 iss.before.core) false a.toNat 64)
        let r := FabRec.ofWords ws
        if s.detI iss then s.faultAll iss .detAtomic
        else if r.malformed op (s.teamOf iss.gid) then s.faultAll iss .fabRecord
        else
          match s.fabricCheck iss r with
          | some (c, va) => s.faultAll iss c va
          | none => s.finish iss (2 + ls.length) [.act i iss.idx iss.lanes [] [] [] ws]

/-- fput (R332). -/
def execFput (f : FE) (ls : Lits) (s : State) : Result := fabricExec (.fput f ls) 0 f ls s
/-- fget (R332). -/
def execFget (f : FE) (ls : Lits) (s : State) : Result := fabricExec (.fget f ls) 1 f ls s
/-- fsend (R332). -/
def execFsend (f : FE) (ls : Lits) (s : State) : Result := fabricExec (.fsend f ls) 2 f ls s
/-- frecv (R332). -/
def execFrecv (f : FE) (ls : Lits) (s : State) : Result := fabricExec (.frecv f ls) 3 f ls s

/-- The local bytes of a put or send (R330, R333); matrix work may hold them back (R279). -/
def State.fabricLocal (s : State) (who : Nat) (c : Ctx) (team core : Nat) (r : FabRec) (h : HandleBits) : EngR :=
  if !r.readsLocal then .ok [] s
  else if r.lkind == 0 then s.handleRead who c core h r.loff r.len
  else if workHolds s.works [bufRange team r.lkind core r.loff r.len] [] then .wait s
  else .ok (s.bufRead team r.lkind (unitOf r.lkind core) false r.loff r.len) s

/-- The faults of the pages of a remote side, found after acceptance (R330, R331). -/
def State.remoteFault (s : State) (core : Nat) (put sysRight : Bool) (segs : List Seg) : Option (FaultCode × Nat) :=
  let chip := chipOf ((segs.head?.map (·.pa)).getD 0)
  match segs.findSome? fun g =>
      ((s.checkLeaf g.leaf g.pa core (if put then .engineWrite else .engineRead) sysRight 0).or
        (if put then destFault .shadow g.leaf.pte else none)).map fun c => (c, g.va) with
  | some f => some f
  | none =>
    match segs.find? fun g => pteHost g.leaf.pte || chipOf g.pa != chip with
    | some g => some (.fabNoroute, g.va)
    | none => if s.isSelf chip || s.routable chip then none else some (.fabNoroute, (segs.head?.map (·.va)).getD 0)

/-- The base-two logarithm of a page size of R169. -/
def sizeLog (n : Nat) : Nat := Nat.log2 n

/-- The address of a piece on the first side of its page. -/
def Seg.flat (g : Seg) : Nat := g.leaf.base + (g.va - g.leaf.vbase)

/-- The messages of an accepted command whose pages and bytes are at hand (R332). -/
def fabricMessages (id : Nat) (r : FabRec) (segs : List Seg) (data : List Byte) : List Msg :=
  let chip := chipOf ((segs.head?.map (·.pa)).getD 0)
  let va0 := (segs.head?.map (·.va)).getD 0
  match r.op with
  | 0 => segs.map fun g =>
      { chip := chip, cls := r.cls, role := .put, info := g.flat + sizeLog g.leaf.pageSize * 2 ^ 52 + leafWord g.leaf.pte 0 * 2 ^ 58,
        payload := (data.drop (g.va - va0)).take g.len, cmd := some id }
  | 1 =>
    let body := segs.flatMap fun g => toBytes 8 g.flat ++ toBytes 4 g.len ++ toBytes 2 (sizeLog g.leaf.pageSize) ++ toBytes 2 (leafWord g.leaf.pte 0)
    [{ chip := chip, cls := r.cls, role := .getReq, info := 2 ^ 92 + id * 2 ^ 58,
       payload := body ++ List.replicate (256 - body.length) 0, cmd := some id }]
  | 2 => [{ chip := r.chip, cls := r.cls, role := .send, info := 3 * 2 ^ 92 + r.tag, payload := data, cmd := some id }]
  | _ => []

/-- What a command does once it is accepted: it reads its local bytes, translates its remote side and hands its messages to the
channel; a receive has its place in the matching order already. -/
def State.startFabric (s : State) (id : Nat) (c : Command) : EngR :=
  let r := FabRec.ofWords c.words
  let x := s.ctx c.ctx
  (s.fabricLocal c.reader x c.team c.core r (c.handles.headD 0)).andThen fun data s =>
    if r.remote then
      let h := c.handles.getD 1 0
      match s.range x c.core (handleAsid h) (vaOf h r.roff) r.len with
      | (.fail code va, s) => .fail code va s
      | (.away g w, s) => .wait (s.request g w)
      | (.ok segs, s) =>
        match s.remoteFault c.core (r.op == 0) (handleHas h 7) segs with
        | some (code, va) => .fail code va s
        | none =>
          match if r.op == 0 then segs.findSome? fun g => s.dirtyAway x (handleAsid h) g.va g.leaf else none with
          | some (g, w) => .wait (s.request g w)
          | none =>
            let s := if r.op == 0 then segs.foldl (fun (s : State) g => s.setDirty x c.core (handleAsid h) g.va g.leaf) s else s
            .ok [] ((fabricMessages id r segs data).foldl State.enqueue s)
    else if r.op == 2 then .ok [] ((fabricMessages id r [] data).foldl State.enqueue s)
    else .ok [] s

/-- The command that a record asks for. -/
def fabricCommand (iss : Issue) (s : State) (n : List Nat) : Command :=
  let r := FabRec.ofWords n
  let mem := fun (h o : Nat) => memRange (handleAsid (iss.hreg h)) (vaOf (iss.hreg h) o) r.len
  let here := if r.lkind == 0 then mem r.lh r.loff else bufRange iss.before.team r.lkind iss.before.core r.loff r.len
  { kind := match r.op with
      | 0 => .put
      | 1 => .get
      | 2 => .send
      | _ => .receive
    ctx := s.ctxOf iss.gid, team := iss.before.team, gid := iss.gid, core := iss.before.core, words := n
    handles := [r.lh, r.rh, 0, r.sth].map iss.hreg, n := [if r.stloc then 1 else 0, r.staddr]
    reads := if r.readsLocal then [here] else []
    writes := if r.op == 0 then [mem r.rh r.roff] else if r.op == 2 then [] else [here] }

/-- Begins a fabric command, if nothing holds it: an earlier one of its context that has not begun, which goes first on its channel (R333),
a publish of what it writes (R300), or bytes and table entries still to come. -/
def State.beginFabric (s : State) (id : Nat) (c : Command) : State :=
  if c.begun || !c.live || !c.kind.fabric then s
  else if (s.commands.any fun p => decide (p.1 < id) && p.2.kind.fabric && p.2.live && !p.2.begun && p.2.ctx == c.ctx) ||
      s.publishPending id c then s
  else
    match s.startFabric id c with
    | .ok _ s => { s with commands := s.commands.modify id fun c => { c with begun := true } }
    | .wait s => s
    | .fail code va s => s.endCommand id c (some (code, va))

/-- Begins every fabric command that can begin. -/
def State.fabricStep (s : State) : State := s.commands.foldl (fun (s : State) p => s.beginFabric p.1 p.2) s

/-- The commit of fput, fget, fsend and frecv: the command is accepted, and begins at once when it can. -/
def commitFabric (f : FE) (iss : Issue) (idx : Nat) (n : List Nat) (s : State) : State :=
  let r := FabRec.ofWords n
  let t := s.acceptCommand iss idx f.d 3 (fabricCommand iss s n)
  let t := if r.op == 3 then
      match t.commands.getLast? with
      | some (id, c) => if c.live then t.matchPosted id r.chip r.cls r.tag else t
      | none => t
    else t
  t.fabricStep

/-- fstat (R342, R405). -/
def execFstat (f : FE) (ls : Lits) (s : State) : Result :=
  s.withIssue fun iss s =>
    if s.detI iss then s.faultAll iss .detAtomic
    else s.finish iss (2 + ls.length) [.act (.fstat f ls) iss.idx iss.lanes [] [] [] []]

/-- The commit of fstat. -/
def commitFstat (f : FE) (iss : Issue) (idx : Nat) (s : State) : State :=
  s.laterResult iss idx f.d (iss.lanesOf fun _ => s.fabCount.get f.aux.toNat 0)

end Sys2Proof.Machine
end

