-- ==== Sys2Proof/Machine/Snapshot.lean ====
section
/-!
DEFINITION. Snapshots (R344 to R365, R311): the record instant, the sweep, the lake, completion and sealing, drops, restoration,
and the instructions snap, snapst, snapwait and snapdrop.
-/

namespace Sys2Proof.Machine

/-! ### The domain (R344) -/

/-- Whether a chip belongs to the domain. -/
def State.inDomain (s : State) (chip : Nat) : Bool := s.domChips.contains chip

/-- The classes that SNAP_TC_MASK enables. -/
def State.snapClasses (s : State) : List Nat := [2, 3, 4, 5].filter fun t => bitAt (s.cfgVal 0x76) t

/-- Whether a context is of the domain: a member that has been live. -/
def Ctx.inSnap (c : Ctx) : Bool := c.snapmem && c.status != .free

/-- Whether a team is of the domain. -/
def State.teamInSnap (s : State) (t : Team) : Bool := (s.ctx t.ctx).inSnap && t.status != .retired

/-- The teams of the domain, by number. -/
def State.domTeams (s : State) : List Nat := (s.teams.filter fun p => s.teamInSnap p.2).map (·.1)

/-- The groups of the domain. -/
def State.domGroups (s : State) : List Nat := s.domTeams.flatMap fun t => (s.team t).groups

/-- A snapshot colour; idle when never used. -/
def State.snap (s : State) (c : Nat) : Snap := s.snaps.get c {}

/-- Changes a colour. -/
def State.modSnap (s : State) (c : Nat) (f : Snap → Snap) : State := { s with snaps := s.snaps.insert c (f (s.snap c)) }

/-- The half of the lake (R358). -/
def State.halfSize (s : State) : Nat := s.cfgVal 0x72 / 2

/-! ### The record instant (R347 to R349, R355) -/

/-- Whether the answer to an access has come with an epoch that this chip has not recorded: it is held for the record (R352), which does not
wait for it, so the access is recorded as not yet performed (DESIGN CHOICE, notes/assumptions/120). -/
def State.answerHeld (s : State) (a : Access) : Bool :=
  (s.heldMsgs.any fun i => match i with
    | .grainData _ _ pa _ _ => grainOf pa == grainOf a.pa
    | _ => false) ||
  s.remoteOps.any fun o => decide (s.epoch < o.epoch) &&
    ((o.kind == .grant && grainOf o.pa == grainOf a.pa) || (o.kind == .answer && o.arg == a.id))

/-- Whether every domain group has reached the record point: no clause of it in a slot, its results landed and its writes
performed, its drains that have started finished (R359), and no publication of the domain's contexts between its beginning and its flip's
end (R347). -/
def State.domQuiet (s : State) : Bool :=
  let gs := s.domGroups
  let due := fun (a : Access) => !a.isAwait && !s.answerHeld a
  let waits := fun (id : Nat) => s.accesses.any fun a => a.event == some id && s.answerHeld a
  !(s.issuing.any fun i => gs.contains i.gid && !i.waiting) &&
    !(s.deferred.any fun p => gs.contains p.2.gid && p.2.result && !waits p.1) &&
    !(s.accesses.any fun a => due a && (gs.contains a.gid || (a.gid == engGid && match a.event.bind s.deferred.find? with
      | some d => gs.contains d.gid
      | none => false))) &&
    !(s.works.any fun p => p.2.kind == .drain && p.2.state == 1 && s.domTeams.contains p.2.team) &&
    !(s.commands.any fun p => p.2.kind == .publish && p.2.live && !p.2.words.isEmpty && (s.ctx p.2.ctx).inSnap) &&
    !(s.combines.any fun c => c.2.rounds.any fun r => r.2.pages.isSome && r.2.locals.any fun x => (s.ctx x.2.ctx).inSnap)

/-- What the private records hold of the domain's state (R348): the groups with their pending rendezvous not arrived (R277). -/
def State.domSaved (s : State) : Saved :=
  let ts := s.domTeams
  let gs := s.domGroups
  let s : State := gs.foldl State.withdraw s
  { ctxs := s.ctxs.filter fun p => p.2.inSnap
    teams := s.teams.filter fun p => ts.contains p.1
    groups := s.groups.filter fun p => gs.contains p.1
    grids := s.grids.filter fun p => (s.ctx p.2.ctx).inSnap
    works := s.works.filter fun p => ts.contains p.2.team
    commands := s.commands.filter fun p => (s.ctx p.2.ctx).inSnap
    deferred := s.deferred.filter fun p => gs.contains p.2.gid
    combines := s.combines.filter fun p => p.2.dtag == s.cfgVal 0x77
    sides := s.sides, sendSeq := s.sendSeq, recv := s.recv, lostSends := s.lostSends
    accesses := s.accesses.filter fun a => gs.contains a.gid, wsMask := s.wsMask }

/-- How many grains a frame touches. -/
def SnapFrame.grains (f : SnapFrame) : Nat := if f.size == 0 then 0 else (f.base + f.size - 1) / 512 + 1 - f.base / 512

/-- How many grains the frames of a snapshot touch. -/
def Snap.grains (x : Snap) : Nat := x.frames.foldl (fun n f => n + f.grains) 0

/-- How far a sweep has come, in percent: by its grains. -/
def Snap.percent (x : Snap) : Nat := if x.swept then 100 else if x.grains == 0 then 0 else min 100 (100 * x.sweepAt / x.grains)

/-- The incoming channels whose marker a snapshot awaits: all of them while it records (R355, R357). -/
def State.pendingChannels (s : State) (x : Snap) : Nat :=
  if x.state == 1 then s.cfgVal 0x75 * s.snapClasses.length else x.awaiting.length

/-- The status word of a colour (Table 15·6). -/
def State.snapWord (s : State) (c : Nat) : Word :=
  let x := s.snap c
  BitVec.ofNat 64 (x.state + (if s.cfgVal 0x73 == s.chip then 8 else 0) + (if x.state == 5 then x.cause * 2 ^ 4 else 0) +
    x.epoch % 2 ^ 32 * 2 ^ 8 + min (s.pendingChannels x) 65535 * 2 ^ 40 + x.percent * 2 ^ 56)

/-- The events of a record's snap land at its record instant, with the status word as it stands then; they are recorded so, and give the same
word in a restored run (R362, R448). -/
def State.snapRecorded (s : State) (c epoch : Nat) : State :=
  let word := s.snapWord c
  { s with deferred := s.deferred.map fun (p : Nat × Deferred) =>
      match p.2.wait with
      | .condition (.snap ..) n =>
        if n == [c, epoch] then
          (p.1, { p.2 with wait := .done, v := p.2.v.map fun r => (r.1, LaneVals.of fun l => if p.2.lanes.has l then word else 0) })
        else p
      | _ => p }

/-- The marked objects of one team (Table 15·2): register blocks, and the banks of its windows on both sides of a pair; of a saved team the
W-store window alone, since its other state lies in the save area (R344). -/
def State.teamMarks (s : State) (tid : Nat) : List Nat :=
  let t := s.team tid
  let banks := fun (space unit n : Nat) => (List.range n).flatMap fun b =>
    (if t.paired space b then [false, true] else [t.swapped.get (pairKey space unit b) false]).map fun side =>
      markKey (5 + space) tid (bankIndex unit b side)
  let cores := (t.groups.map fun g => (s.group g).core % 4).eraseDups
  (if t.status == .saved then []
    else (t.groups.flatMap fun g => (List.range (s.group g).blocks).map fun b => markKey 5 g b) ++
      (cores.flatMap fun u => banks 1 u t.abanks) ++ banks 2 0 t.cbanks) ++ (List.range 64).flatMap fun u => banks 3 u t.wsub

/-- The leaves of a context's own tables and of those of the shared ASIDs of its set. -/
def State.ctxLeaves (s : State) (c : Ctx) : List Leaf := c.asidSet.flatMap fun p => s.leavesUnder 0 p.2 0 4

/-- The publishable pages of the domain homed on this chip, with their sides (R348, type 15). -/
def State.sideMap (s : State) : List Nat :=
  let ls := (s.ctxs.filter fun p => p.2.inSnap).flatMap fun p => s.ctxLeaves p.2
  ((ls.filter fun l => pteBit l.pte 15 && !pteHost l.pte && chipOf l.base == s.chip).map fun l =>
    l.pageBase + if s.sides.contains l.pageBase then 1 else 0).eraseDups

/-- A record whose body is private to the part (R358). -/
def privateRecord (ty n : Nat) : LakeRec := { ty := ty, key := 0, body := Config.imageBody n }

/-- The records that the record instant stages (R348, R358). -/
def State.recordsAt (s : State) (x : Snap) : List LakeRec :=
  let v := s.domSaved
  let header : LakeRec := { ty := 1, key := x.epoch % 2 ^ 32 + x.initiator * 2 ^ 32 + s.chip * 2 ^ 44, body := [] }
  let objs := (v.ctxs.map fun _ => 2) ++ (v.teams.map fun _ => 3) ++ (v.groups.map fun _ => 4) ++
    ((v.works.map fun _ => 12) ++ v.commands.map fun _ => 12)
  let map := s.sideMap
  header :: (objs.zipIdx.map fun p => privateRecord p.1 (s.freeCtr + p.2)) ++
    (if map.isEmpty then [] else [{ ty := 15, key := map.headD 0 / 2 * 2, body := map.flatMap (toBytes 8) }])

/-- The marker of a snapshot on a channel (R355). -/
def State.marker (s : State) (x : Snap) (d t : Nat) : Msg :=
  { chip := d, cls := t, role := .marker, kind := 5, payload := [0], epoch := x.epoch
    info := x.epoch % 2 ^ 32 + x.epoch % 2 * 2 ^ 32 + x.initiator * 2 ^ 33 + s.cfgVal 0x77 * 2 ^ 45 }

/-- Puts a marker before the messages that its channel has not injected yet, behind the markers among them. -/
def State.enqueueFirst (s : State) (m : Msg) : State :=
  let q := s.sendQ.get (chanKey m.chip m.cls) []
  let first := fun (x : Msg) => x.role == MsgRole.marker
  { s with sendQ := s.sendQ.insert (chanKey m.chip m.cls) (q.takeWhile first ++ m :: q.dropWhile first) }

/-- The tables under a table: their frames. -/
def State.tablesUnder (s : State) (table level : Nat) : Nat → List Nat
  | 0 => []
  | n + 1 =>
    table :: (List.range 1024).flatMap fun i =>
      let p := s.pteAt (table + 8 * i)
      if pteBit p 0 && !pteBit p 1 && level < 3 then s.tablesUnder (pteFrame p) (level + 1) n else []

/-- Puts a frame into ascending order. -/
def insertFrame (f : SnapFrame) : List SnapFrame → List SnapFrame
  | [] => [f]
  | g :: gs => if f.base < g.base then f :: g :: gs else if f == g then g :: gs else g :: insertFrame f gs

/-- The frames that a snapshot takes in (R344), ascending, those of HBM first: the frames that the tables of the domain contexts' ASIDs use and
map, both sides of publishable pages among them, which the model takes to be the frames allocated from their pools (DEDUCED,
notes/assumptions/97), and the contexts' records and save areas. Host memory is not covered. -/
def State.domFrames (s : State) : List SnapFrame :=
  let all := (s.ctxs.filter fun (p : Nat × Ctx) => p.2.inSnap).flatMap fun (p : Nat × Ctx) =>
    let c := p.2
    ((c.asidSet.flatMap fun a => s.tablesUnder a.2 0 4).map fun t => ({ tier := false, base := t, size := 8192 } : SnapFrame)) ++
      ((s.ctxLeaves c).filter fun l => !s.inHost l.place).map (fun l =>
        { tier := l.place == .tier, base := l.pageBase, size := if pteBit l.pte 15 then 2 * l.pageSize else l.pageSize }) ++
      [{ tier := false, base := s.cfgVal 0x09 + 128 * p.1, size := 128 }, { tier := false, base := c.saveArea, size := Config.saveAreaBytes }]
  let sorted := all.foldl (fun (l : List SnapFrame) f => insertFrame f l) []
  (sorted.filter fun f => !f.tier) ++ sorted.filter fun f => f.tier

/-- SNAPSHOT_RECORD_INSTANT: the last domain group has paused; the epoch advances, the state is recorded, the objects are marked, the
markers go out and what waited for the record is handled (R347 to R349, R352, R355). -/
def execSnapshotRecordInstant (s : State) : Result :=
  match List.find? (fun p : Nat × Snap => p.2.state == 1) s.snaps with
  | none => .next s
  | some (c, x) =>
    if !s.domQuiet then .next s
    else
      let recs := s.recordsAt x
      let chans := s.domChips.flatMap fun d => s.snapClasses.map fun t => (d, t)
      let frames := s.domFrames
      let marks := s.domTeams.flatMap s.teamMarks ++ s.domSaved.combines.map fun p => markKey 9 0 p.1
      let s := (s.modSnap c fun x =>
        { x with state := if x.dropHeld then 6 else 2, awaiting := chans, marks := if x.dropHeld then [] else marks,
                 frames := frames, staged := if x.dropHeld then [] else recs }).snapRecorded c x.epoch
      let s := { s with
        snapSaved := s.snapSaved.insert c s.domSaved
        freeCtr := s.freeCtr + recs.length }
      let s := chans.foldl (fun (s : State) p => s.enqueueFirst (s.marker x p.1 p.2)) s
      .next (s.takeEpoch x.epoch)

/-! ### The sweep (R353, R354) -/

/-- The n-th grain of some frames, and whether it is one of the tier. -/
def grainAt : List SnapFrame → Nat → Option (Bool × Nat)
  | [], _ => none
  | f :: fs, n => if n < f.grains then some (f.tier, f.base / 512 + n) else grainAt fs (n - f.grains)

/-- The sweep's step on a grain (R353): one that a live snapshot lacks is preserved and takes the chip's epoch, and every other is left alone.
One that another chip holds is first read through a snapshot read, which changes no ownership. Answers whether it is done; `read` says that
the read has come back. -/
def State.sweepGrain (s : State) (tier : Bool) (g : Nat) (read : Bool) : Bool × State :=
  let t := s.tag g
  if tier then (true, if (s.lacking true g (tagEpoch (s.tierTags.get g 0))).isSome then s.preserveTier g else s)
  else if chipOf (g * 512) != s.chip then (true, s)
  else if (s.txns.find? g).isSome then (false, s)
  else if !read && !tagFree t && heldElsewhere s.chip t && (s.lacking false g (tagEpoch t)).isSome then
    let o := tagPtr t 0
    let s := s.sendMsg o .snapRead g
    (false, { s with txns := s.txns.insert g { chip := s.chip, getM := false, data := true, next := t, nextDirty := t, reply := 3,
                                               epoch := s.epoch } })
  else
    let s := s.recall g
    (true, if (s.lacking false g (tagEpoch (s.tag g))).isSome then s.preserve g else s)

/-- SNAPSHOT_SWEEP: the sweep takes the next grain of its frames in ascending address, and after the last the marked objects that no write
has preserved (R353). -/
def execSnapshotSweep (colour : BitVec 1) (s : State) : Result :=
  let c := colour.toNat
  let x := s.snap c
  if x.state != 2 || x.swept then .next s
  else
    match grainAt x.frames x.sweepAt with
    | some (tier, g) =>
      let asked := match s.txns.find? g with
        | some t => x.read && t.reply == 3
        | none => true
      let (swept, s) := s.sweepGrain tier g x.read
      .next (s.modSnap c fun x => if swept then { x with sweepAt := x.sweepAt + 1, read := false } else { x with read := asked })
    | none =>
      let s := x.marks.foldl (fun (s : State) k => if (s.snap c).marks.contains k then s.sweepMark k else s) s
      .next (s.modSnap c fun x => { x with swept := true })

/-! ### The lake (R311, R358) -/

/-- The bytes of a record in the lake. -/
def LakeRec.size (r : LakeRec) : Nat := 16 + roundUp r.body.length 16

/-- The bytes that some records take. -/
def lakeUsed (rs : List LakeRec) : Nat := rs.foldl (fun n r => n + r.size) 0

/-- A record as bytes: header (Table 15·4), body, padding. -/
def LakeRec.image (r : LakeRec) : List Byte :=
  toBytes 8 (r.ty + r.body.length * 2 ^ 8) ++ toBytes 8 r.key ++ r.body ++ List.replicate (roundUp r.body.length 16 - r.body.length) 0

/-- Writes bytes at a lake address: tier memory, or host memory through the host port (Table 15·1). -/
def State.lakeBytes (s : State) (a : Nat) (bs : List Byte) : State :=
  if bitAt (s.cfgVal 0x71) 52 then s.hostPut a bs (bitAt (s.cfgVal 0x55) 0)
  else { s with tier := bs.zipIdx.foldl (fun (m : SMap Byte) p => m.put (a + p.2) p.1 0) s.tier }

/-- Appends a record to a colour's half of the lake; a half that fills fails the snapshot, and so does one of the tier that the tier's size
ends, which is counted (R358, R422). -/
def State.lakeAppend (s : State) (c : Nat) (r : LakeRec) : State :=
  let x := s.snap c
  let used := lakeUsed x.lake
  let a := bits (s.cfgVal 0x71) 51 0 + c * s.halfSize + used
  if s.halfSize < used + r.size then s.snapFail c 1
  else if !bitAt (s.cfgVal 0x71) 52 && decide (s.cfgVal 0x56 * 2 ^ 30 < a + r.size) then s.hostErr.snapFail c 1
  else
    (s.lakeBytes a r.image).modSnap c fun x => { x with lake := x.lake ++ [r] }

/-- MORDANT_LAKE_WRITE: the oldest staged record goes to the lake (R311, R358). -/
def execMordantLakeWrite (s : State) : Result :=
  match List.find? (fun p : Nat × Snap => !p.2.staged.isEmpty) s.snaps with
  | none => .next s
  | some (c, x) =>
    match x.staged with
    | [] => .next s
    | r :: rest =>
      let s := s.modSnap c fun x => { x with staged := rest }
      .next (if x.state == 2 || x.state == 3 || x.state == 4 then s.lakeAppend c r else s)

/-! ### Completion and sealing (R357) -/

/-- The end record of a half: how many records of each type it holds. -/
def endRecord (rs : List LakeRec) : LakeRec :=
  { ty := 13, key := 0, body := (List.range 16).flatMap fun t => toBytes 8 (rs.filter fun r => r.ty == t && t != 0).length }

/-- The report of a snapshot to its initiator, a message of class 1 (R357). -/
def State.snapReport (s : State) (c : Nat) : State :=
  let x := s.snap c
  if x.initiator == s.chip then { s with agenda := s.agenda ++ [(0, .snapshotReportReceive s.chip (BitVec.ofNat 1 c))] }
  else s.enqueue { chip := x.initiator, cls := 1, role := .report, info := c % 2, payload := [BitVec.ofNat 8 c], epoch := x.epoch }

/-- A notice of a snapshot to a chip, or to this one as the event itself. -/
def State.snapNotice (s : State) (chip : Nat) (kind : String) (c : Nat) (i : Instr) : State :=
  if chip == s.chip then { s with agenda := s.agenda ++ [(0, i)] } else s.send (.notice chip kind [c])

/-- SNAPSHOT_CHIP_COMPLETE: markers delivered, sweep done, staging drained: the end record is written and the report goes to the
initiator (R357). -/
def execSnapshotChipComplete (colour : BitVec 1) (s : State) : Result :=
  let c := colour.toNat
  let x := s.snap c
  if x.state != 2 || !x.awaiting.isEmpty || !x.swept || !x.staged.isEmpty then .next s
  else
    let s := s.lakeAppend c (endRecord x.lake)
    if (s.snap c).state != 2 then .next s
    else .next ((s.modSnap c fun x => { x with state := 3 }).snapReport c)

/-- SNAPSHOT_REPORT_RECEIVE: the last report seals the snapshot: the seal record is written and every chip told (R357). -/
def execSnapshotReportReceive (chip : Nat) (colour : BitVec 1) (s : State) : Result :=
  let c := colour.toNat
  let s := s.modSnap c fun x => { x with reports := if x.reports.contains chip then x.reports else x.reports ++ [chip] }
  let x := s.snap c
  if x.state == 3 && s.domChips.all x.reports.contains then
    let body := toBytes 4 (s.cfgVal 0x77) ++ toBytes 4 (s.cfgVal 0x74 + s.cfgVal 0x75 * 2 ^ 12) ++ toBytes 4 x.tag ++ toBytes 4 0
    let s := s.lakeAppend c { ty := 14, key := 0, body := body }
    if (s.snap c).state != 3 then .next s
    else
      let s := s.modSnap c fun x => { x with state := 4 }
      .next (s.domChips.foldl (fun (s : State) d => if d == s.chip then s else s.send (.notice d "Seal" [c])) s)
  else .next s

/-- SEAL_NOTICE_RECEIVE (R357). -/
def execSealNoticeReceive (colour : BitVec 1) (s : State) : Result :=
  .next (if (s.snap colour.toNat).state == 3 then s.modSnap colour.toNat fun x => { x with state := 4 } else s)

/-- FAILURE_NOTICE_RECEIVE: the snapshot has failed elsewhere. The initiator tells every chip, once; it does so for a colour that it holds for no
failed snapshot too, since a marker that named it was bad (R356, R357). -/
def execFailureNoticeReceive (colour : BitVec 1) (s : State) : Result :=
  let c := colour.toNat
  let x := s.snap c
  let s := s.failSnap c 4
  .next (if x.state != 5 && (s.cfgVal 0x73 == s.chip || (x.initiator == s.chip && x.epoch != 0)) then s.tellFailure c s.chip else s)

/-! ### Drops (R354, R357, R364) -/

/-- A drop reaches this chip (Table 15·3). -/
def State.dropSnap (s : State) (c : Nat) : State :=
  match (s.snap c).state with
  | 1 => s.modSnap c fun x => { x with dropHeld := true }
  | 2 | 3 | 4 | 5 => s.modSnap c fun x => { x with state := 6, lake := [], staged := [], marks := [] }
  | _ => s

/-- DROP_NOTICE_RECEIVE (R364). -/
def execDropNoticeReceive (colour : BitVec 1) (s : State) : Result := .next (s.dropSnap colour.toNat)

/-- An epoch under relabelling: one that lags by `n` or more becomes the chip's epoch minus n − 1 (R354). -/
def State.relabelled (s : State) (n : Nat) (t : BitVec 64) : BitVec 64 :=
  if n ≤ (s.epoch + 4 - tagEpoch t) % 4 then tagSet t 9 8 ((s.epoch + 4 - (n - 1)) % 4) else t

/-- Relabels a grain. -/
def State.relabel (s : State) (g n : Nat) : State := s.setTag g (s.relabelled n (s.tag g))

/-- Relabels a grain of the tier. -/
def State.relabelTier (s : State) (g n : Nat) : State := { s with tierTags := s.tierTags.put g (s.relabelled n (s.tierTags.get g 0)) 0 }

/-- Relabels every grain of this home that a snapshot takes in, in place of the rest of its sweep (R354). -/
def State.relabelAll (s : State) (x : Snap) : State :=
  (List.range x.grains).foldl (fun (s : State) n => match grainAt x.frames n with
    | some (true, g) => s.relabelTier g 2
    | some (false, g) => if chipOf (g * 512) == s.chip then s.relabel g 2 else s
    | none => s) s

/-- SNAPSHOT_DROP_FINISH: an unfinished sweep ends in relabel-only mode; the colour is idle and the initiator is told (R354). -/
def execSnapshotDropFinish (colour : BitVec 1) (s : State) : Result :=
  let c := colour.toNat
  let x := s.snap c
  if x.state != 6 then .next s
  else
    let s := if x.swept then s else s.relabelAll x
    let s := s.modSnap c fun x => { epoch := x.epoch, initiator := x.initiator, dropReports := x.dropReports }
    .next ({ s with snapSaved := s.snapSaved.erase c }.snapNotice x.initiator "DropReport" c (.dropReportReceive s.chip colour))

/-- DROP_REPORT_RECEIVE (R364). -/
def execDropReportReceive (chip : Nat) (colour : BitVec 1) (s : State) : Result :=
  .next (s.modSnap colour.toNat fun x =>
    { x with dropReports := if x.dropReports.contains chip then x.dropReports else x.dropReports ++ [chip] })

/-! ### Markers from outside (R356) -/

/-- MARKER_RECEIVE: a marker is delivered; one that must wait for the record is held until its instant (R356). -/
def execMarkerReceive (src cls epoch initiator dtag : Nat) (s : State) : Result :=
  match s.markerArrives src cls epoch initiator dtag with
  | .done s =>
    let chan := chanKey src cls
    let r := s.recvOf chan
    .next ({ s with recv := s.recv.insert chan { r with next := (r.next + 1) % 2 ^ 32 } }.noteMarker epoch chan r.next true)
  | .wait s => .next { s with heldMsgs := s.heldMsgs ++ [.markerReceive src cls epoch initiator dtag] }

/-! ### The instructions (R362 to R364) -/

/-- The colour of a form. -/
def snapColour (f : FE) : Nat := bits f.aux.toNat 0 0

/-- The checks of snap (R363). -/
def State.snapCheck (s : State) (c : Ctx) (colour : Nat) : Option FaultCode :=
  if s.cfgVal 0x72 == 0 || s.cfgVal 0x75 == 0 || !s.inDomain s.chip || !c.snapmem || s.cfgVal 0x73 != s.chip then some .snapState
  else if (s.snap colour).state != 0 || 2 ≤ (s.snaps.filter fun p => p.2.state != 0).length then some .snapBusy
  else if colour != (s.epoch + 1) % 2 then some .snapState
  else none

/-- snap (R363, R405). -/
def execSnap (f : FE) (ls : Lits) (s : State) : Result :=
  s.withIssue fun iss s =>
    if s.detI iss then s.faultAll iss .detAtomic
    else
      match s.snapCheck (s.ctxI iss) (snapColour f) with
      | some c => s.faultAll iss c
      | none =>
        s.finish iss (2 + ls.length)
          [.act (.snap f ls) iss.idx iss.lanes [] [] [] [(iss.uniformM f.a (litAt ls 0)).toNat % 2 ^ 32]]

/-- An event that lands with a colour's status word once its condition holds. -/
def State.snapEvent (s : State) (i : Instr) (f : FE) (iss : Issue) (idx : Nat) (n : List Nat) : State :=
  (s.addEvent { iss.event idx iss.lanes with wait := .condition i n, v := [(f.d.toNat, iss.lanesOf fun _ => 0)] }).2

/-- The commit of snap: the record of the next epoch starts. -/
def commitSnap (f : FE) (ls : Lits) (iss : Issue) (idx : Nat) (n : List Nat) (s : State) : State :=
  (s.startRecord (s.epoch + 1) s.chip (n.headD 0)).snapEvent (.snap f ls) f iss idx [snapColour f, s.epoch + 1]

/-- snapst (R364, R405). -/
def execSnapst (f : FE) (ls : Lits) (s : State) : Result :=
  s.withIssue fun iss s =>
    if s.detI iss then s.faultAll iss .detAtomic
    else s.finish iss (2 + ls.length) [.act (.snapst f ls) iss.idx iss.lanes [] [] [] []]

/-- The commit of snapst. -/
def commitSnapst (f : FE) (iss : Issue) (idx : Nat) (s : State) : State :=
  s.laterResult iss idx f.d (iss.lanesOf fun _ => s.snapWord (snapColour f))

/-- snapwait (R364, R405). -/
def execSnapwait (f : FE) (ls : Lits) (s : State) : Result :=
  s.withIssue fun iss s =>
    if s.detI iss then s.faultAll iss .detAtomic
    else s.finish iss (2 + ls.length) [.act (.snapwait f ls) iss.idx iss.lanes [] [] [] []]

/-- The commit of snapwait. -/
def commitSnapwait (f : FE) (ls : Lits) (iss : Issue) (idx : Nat) (s : State) : State :=
  s.snapEvent (.snapwait f ls) f iss idx [snapColour f]

/-- Why snapdrop cannot act (R364). -/
def State.snapdropCheck (s : State) (c : Nat) : Option FaultCode :=
  if s.cfgVal 0x73 != s.chip || (s.snap c).state == 0 || (s.snap c).state == 6 then some .snapState else none

/-- snapdrop (R364, R405). -/
def execSnapdrop (f : FE) (ls : Lits) (s : State) : Result :=
  s.withIssue fun iss s =>
    if s.detI iss then s.faultAll iss .detAtomic
    else
      match s.snapdropCheck (snapColour f) with
      | some c => s.faultAll iss c
      | none => s.finish iss (2 + ls.length) [.act (.snapdrop f ls) iss.idx iss.lanes [] [] [] []]

/-- The commit of snapdrop: drop notices go out, and the colour drops here. -/
def commitSnapdrop (f : FE) (ls : Lits) (iss : Issue) (idx : Nat) (s : State) : State :=
  let c := snapColour f
  let n := (s.snap c).epoch
  let s := s.domChips.foldl (fun (s : State) d => if d == s.chip then s else s.send (.notice d "Drop" [c])) s
  ((s.modSnap c fun x => { x with dropReports := [] }).dropSnap c).snapEvent (.snapdrop f ls) f iss idx [c, n]

/-- The landing of snap, snapwait and snapdrop, once their condition holds. -/
def State.snapLands (s : State) (id : Nat) (i : Instr) (n : List Nat) : Option State :=
  let c := n.headD 0
  let x := s.snap c
  let ready := match i with
    | .snap .. => x.epoch != n.getD 1 0 || x.state != 1
    | .snapwait .. => x.state == 4 || x.state == 5 || x.state == 0
    | _ => s.domChips.all x.dropReports.contains
  if ready then
    some (s.modEvent id fun d => { d with v := d.v.map fun p => (p.1, LaneVals.of fun l => if d.lanes.has l then s.snapWord c else 0) })
  else none

/-! ### Restoration (R359 to R361) -/

/-- The grains of this home that a snapshot of epoch s holds in some lake records: address, tag and data. -/
def State.restoreGrains (s : State) (epoch : Nat) (rs : List LakeRec) : List (Nat × BitVec 64 × List Byte) :=
  rs.filterMap fun r =>
    if r.ty == 10 && decide (ofBytes (r.body.take 4) < epoch) && decide (epoch ≤ ofBytes ((r.body.drop 4).take 4)) &&
        (decide (2 ^ 52 ≤ r.key) || chipOf r.key == s.chip) then
      some (r.key, BitVec.ofNat 64 (ofBytes ((r.body.drop 8).take 8)), r.body.drop 16)
    else none

/-- The tag of a restored grain (R361 step 3): class, reach and poison kept, state 0 or its write-once state, the snapshot's epoch. A private
grain keeps the owner that its pointers name, a claimed one its claimant; a FULL one has no sharer left. -/
def restoredTag (t : BitVec 64) (epoch : Nat) : BitVec 64 :=
  let st := tagState t
  let t' := if tagClass t == 3 then tagSetState t 0
    else if st == 7 then tagSet (tagNoPtrs t) 7 7 0
    else if st == 5 || st == 6 then t
    else tagSetState (tagZeroPtrs t) 0
  tagSet (tagSet t' 9 8 (epoch % 4)) 11 11 0

/-- Puts one restored grain in place; one in state 0 with data counts as written. -/
def State.restoreGrain (s : State) (epoch : Nat) (r : Nat × BitVec 64 × List Byte) : State :=
  let t := restoredTag r.2.1 epoch
  if 2 ^ 52 ≤ r.1 then
    let a := r.1 - 2 ^ 52
    { s with tier := r.2.2.zipIdx.foldl (fun (m : SMap Byte) p => m.put (a + p.2) p.1 0) s.tier, tierTags := s.tierTags.put (grainOf a) t 0 }
  else (s.putMem r.1 r.2.2).setTag (grainOf r.1) (if tagState t == 0 && tagClass t < 2 && !tagFree t then tagSet t 12 12 1 else t)

/-- Where a recorded command resumes (R359); the record of one that was running is owed its new state (R298). -/
def Command.restart (c : Command) : Command :=
  match c.kind with
  | .copy | .digest | .gridDigest => if c.live then { c with state := 0, progress := 0, owed := c.owed || c.state == 1 } else c
  | _ => c

/-- Whether a message of a recorded command had not been delivered at the record instant of the chip that it goes to (R360): by this chip's own
record when it goes to itself, and otherwise by a record that this module does not see, a free choice (notes/assumptions/121). -/
def State.undelivered (s : State) (v : Saved) (r : FabRec) (seq : Nat) : Bool × State :=
  if s.isSelf r.chip then (!seqBefore seq (v.recv.get (chanKey r.chip r.cls) {}).next, s)
  else
    let (x, s) := s.fresh
    (x.getLsbD 0, s)

/-- What becomes of a recorded fabric command (R360): a put or send injected before the record is complete; one not yet injected starts
afresh; a get or receive waits. Of a class whose markers were not enabled, one whose message was under way at the cut is lost. -/
def State.restoreFabric (s : State) (v : Saved) (id : Nat) (c : Command) : State :=
  let r := FabRec.ofWords c.words
  let injected := 2 < c.n.length
  let seq := if r.op == 3 then (v.recv.get (chanKey r.chip r.cls) {}).next else c.n.getD 2 0
  if !c.live then s
  else
    let (lost, s) := if s.snapClasses.contains r.cls || !(injected || r.op == 3) then (false, s) else s.undelivered v r seq
    if lost then s.loseCommand id (lossAux r.chip r.cls seq)
    else if injected then if r.readsLocal then s.endFabric id r.len none else s
    else if r.op == 3 then s
    else { s with commands := s.commands.modify id fun c => { c with begun := false } }

/-- What becomes of the open rounds of a recorded combine context when the class of their messages was not enabled: one whose contribution or
result was under way at the cut fails (R338, R360), which the records of other chips tell. -/
def State.restoreRounds (s : State) (ctx : Nat) (c : Combine) : State :=
  if s.snapClasses.contains 4 || (c.root && c.childs.isEmpty) then s
  else c.rounds.foldl (fun (s : State) r =>
    let (x, s) := s.fresh
    if x.getLsbD 0 then s.failRound ctx r.1 .fabLoss else s) s

/-- A logged message as one decoded in a slot, to be delivered again at its own seq. -/
def replaySlot (h : Header) (hdr : BitVec 256) (data : List Byte) : Slot :=
  let fs := fragmentsOf data
  { header := hdr, stripes := [(0, { ks := max 1 (ceilDiv h.len 256), frags := fs.zipIdx.map fun (p : List Byte × Nat) => (p.2, p.1), done := true,
                                     timed := false })] }

/-- The channels after restoration (R361 steps 4 and 5): a marked channel goes on after its marker, and its logged messages, whose seqs end
before the marker's, come first; every other starts again at 0. -/
def State.restoreChannels (s : State) (v : Saved) : State :=
  let out := v.markers.filterMap fun p => if p.1 % 2 == 0 then some (p.1 / 2, (p.2 + 1) % 2 ^ 32) else none
  let into := v.markers.filterMap fun p => if p.1 % 2 == 1 then some (p.1 / 2, p.2) else none
  let slots := v.replay.foldl (fun (m : SMap Slot) x =>
    let h := Header.ofWord x.2.2.1
    m.insert (msgKey (chanKey x.1 x.2.1) h.seq) (replaySlot h x.2.2.1 x.2.2.2)) []
  let first := fun (chan seq : Nat) => (v.replay.filter fun x => chanKey x.1 x.2.1 == chan).foldl (fun n x =>
    let q := (Header.ofWord x.2.2.1).seq
    if seqBefore q n then q else n) seq
  let recv : SMap RecvChan := into.foldl (fun (m : SMap RecvChan) (p : Nat × Nat) =>
    let q := first p.1 p.2
    m.insert p.1 (if q == p.2 then { next := (p.2 + 1) % 2 ^ 32 } else { next := q, lost := [p.2] })) []
  { s with sendSeq := out.foldl (fun (m : SMap Nat) (p : Nat × Nat) => m.insert (s.outKey p.1) p.2) [], sendQ := [], kept := [], filter := [],
           slots := slots, recv := recv, lostSends := v.lostSends }

/-- The snapshot that SNAPSHOT_RESTORATION reloads, and the lake records of it: the sealed one of a colour that this module holds, or, on
quiesced modules of another place, one that others took, whose records the model does not see (R361, notes/assumptions/121). -/
def State.restorable (s : State) (c : Nat) : Option (Nat × Saved × List LakeRec) :=
  let x := s.snap c
  match s.snapSaved.find? c with
  | some v =>
    if x.state == 4 then some (x.epoch, v, (s.snaps.flatMap fun p => p.2.lake) ++ Config.lakesElsewhere s.freeCtr) else none
  | none =>
    if x.state == 0 && !s.anyLive then
      some (2 * (s.freeCtr + 1) + c, Config.lakeSaved s.freeCtr, Config.lakesElsewhere s.freeCtr)
    else none

/-- The contexts and all they hold as a snapshot recorded them, with nothing under way: what was not recorded is gone (R361 step 4). -/
def State.reload (s : State) (epoch : Nat) (v : Saved) : State :=
  let overlay := fun {α : Type} (m n : SMap α) => n.foldl (fun (m : SMap α) (p : Nat × α) => m.insert p.1 p.2) m
  let mine := fun (ctx : Nat) => (v.ctxs.find? ctx).isSome
  { s with
    epoch := epoch, sides := v.sides, wsMask := v.wsMask, issuing := [], latches := [], latchWaits := [], sfu := []
    accesses := v.accesses.map fun (a : Access) => { a with sent := false }
    ctxs := overlay s.ctxs v.ctxs
    teams := overlay (s.teams.filter fun p => !mine p.2.ctx) v.teams
    groups := overlay (s.groups.filter fun p => !mine (s.team p.2.team).ctx) (v.groups.map fun (p : Nat × Group) => (p.1, { p.2 with bundles := [] }))
    grids := overlay (s.grids.filter fun p => !mine p.2.ctx) v.grids
    works := overlay (s.works.filter fun p => !mine (s.team p.2.team).ctx) v.works
    commands := overlay (s.commands.filter fun p => !mine p.2.ctx) (v.commands.map fun (p : Nat × Command) => (p.1, p.2.restart))
    deferred := overlay (s.deferred.filter fun p => !mine (s.ctxOf p.2.gid)) v.deferred
    combines := overlay s.combines v.combines }

/-- SNAPSHOT_RESTORATION: a sealed snapshot is reloaded onto this quiesced module, its logged messages are delivered first, and
dispatch and issue resume (R361). -/
def execSnapshotRestoration (colour : BitVec 1) (s : State) : Result :=
  match s.restorable colour.toNat with
  | none => .next s
  | some (epoch, v, lake) =>
    let s := (s.restoreGrains epoch lake).foldl (fun (s : State) r => s.restoreGrain epoch r)
      { s with freeCtr := s.freeCtr + 1,
               lines := [], coreTlb := [], clusterTlb := [], engineGrains := [], held := [], txns := [], waitingReqs := [],
               requested := [], replicas := [], replicaStores := [], sectors := [], pageOps := [], heldMsgs := [],
               putting := [], replicaHere := [], replicaCopies := [], remoteOps := [], halves := [], granted := [], hostClean := [], recalled := [], clearing := [],
               icache := [], engLines := [], engAsked := [], engAnswers := [], readWaits := [], overtaken := [] }
    let s := (s.reload epoch v).restoreChannels v
    let s := v.commands.foldl (fun (s : State) p =>
      if p.2.kind.fabric then s.restoreFabric v p.1 p.2 else s) s
    let s := v.combines.foldl (fun (s : State) p => s.restoreRounds p.1 p.2) s
    .next s.fabricStep.formAll

end Sys2Proof.Machine
end

