-- ==== Sys2Proof/Machine/System.lean ====
section
/-!
DEFINITION. Trap entry (R366 to R372), kills and halts (R373 to R375), drains and forced saves (R380, R381), context images (R387,
R388), a context becoming live (R378), test injection (R390) and preempt (R391).
-/

namespace Sys2Proof.Machine

/-! ### Groups at their boundaries -/

/-- The groups of a context that have not retired. -/
def State.ctxGroups (s : State) (c : Nat) : List Nat :=
  (s.groups.filter fun p => (s.team p.2.team).ctx == c && !p.2.retired).map (·.1)

/-- The resident teams of a context. -/
def State.residentTeams (s : State) (c : Nat) : List Nat :=
  (s.teams.filter fun p => p.2.ctx == c && p.2.status == .resident).map (·.1)

/-- Whether groups can be stopped: none has a clause that can still go on, their results have landed, and their writes and page
conversions have been performed (R221, R243, R373, R381). -/
def State.quiet (s : State) (gs : List Nat) : Bool :=
  !(s.issuing.any fun i => gs.contains i.gid && !i.waiting) && gs.all s.resultsLanded &&
    !(s.accesses.any fun a => gs.contains a.gid && !a.isAwait) &&
    !(s.deferred.any fun p => gs.contains p.2.gid && match p.2.wait with
      | .condition (.pgclass ..) _ => true
      | _ => false)

/-- The clauses of groups that stall before their commit are discarded, and arrivals at rendezvous withdrawn (R26, R277, R373). -/
def State.discard (s : State) (gs : List Nat) : State :=
  let s := { s with issuing := s.issuing.filter fun i => !gs.contains i.gid }
  gs.foldl (fun (s : State) gid => (s.withdraw gid).modGroup gid fun g => { g with bundles := [] }) s

/-! ### Trap entry (R366 to R371) -/

/-- A group whose debugger is told of a breakpoint keeps its state whole: the fault is over, and each active thread's EPC is where it
stands (R375). -/
def Group.breakHere (g : Group) (f : FaultRec) : Group :=
  { (g.modThreads (g.activeFor f) fun _ t => { t with epc := t.pc }) with taking := none }

/-- The cause of a kill by an unhandled fault (Table 16·2). -/
def killCause (g : Group) (f : FaultRec) : Nat := if g.inHandler then 1 else if f.code == .gridStarve then 4 else 0

/-- TRAP_ENTRY: the group's next fault is taken at its boundary: it is in taking from then on, and once the group's results have landed its
handler starts, or the context is to be killed, or halted by a breakpoint under debug (R366 to R371, R375, R277). A breakpoint in the handler
kills, under debug too (R371). -/
def execTrapEntry (gid : Nat) (s : State) : Result :=
  let g := s.group gid
  let ctx := s.ctxOf gid
  let c := s.ctx ctx
  if !g.resident || (s.teamOf gid).saving || !s.ctxIssues ctx || (s.issuing.any fun i => i.gid == gid) then .next s
  else
    match g.choose with
    | none => .next s
    | some (f, g') =>
      let s := s.setGroup gid g'
      if !s.resultsLanded gid then .next s
      else if f.code == .breakpoint && c.debug && !g.inHandler then
        .next ((s.modGroup gid fun g => g.breakHere f).askKill ctx { code := f.code, cause := 3, gid := some gid, fault := some f })
      else if c.handles g f then .next (((s.withdraw gid).modGroup gid fun g => g.takeFault f c.handler).form gid)
      else
        .next (s.askKill ctx
          { code := f.code, cause := killCause g f, gid := some gid, fault := some f, earlier := if g.inHandler then g.handlerCode else 0 })

/-! ### Kills and halts (R373 to R375) -/

/-- The order among kills raised for one context: the lowest cluster, then the lowest core-local index, then the lowest core; those of
no group last (R373). -/
def State.killKey (s : State) (k : KillReq) : Nat :=
  match k.gid with
  | some gid => ((s.group gid).cluster * 64 + (s.group gid).slot) * 4 + (s.group gid).core % 4
  | none => 2 ^ 20

/-- The kill to carry out among those raised; a halt gives way to a kill. -/
def State.chosenKill (s : State) (c : Ctx) : Option KillReq :=
  let ks := match c.kills.filter fun k => k.cause != 3 with
    | [] => c.kills
    | l => l
  match ks with
  | [] => none
  | k :: r => some (r.foldl (fun a b => if s.killKey b < s.killKey a then b else a) k)

/-- The host fault record (Table 16·2). -/
def State.faultRecord (s : State) (ctx : Nat) (k : KillReq) : List Byte :=
  let f := k.fault.getD { code := k.code, pc := 0 }
  let g := (k.gid.map s.group).getD noGroup
  let w0 := k.code.num + f.index * 2 ^ 8 + (if f.deferred then 2 ^ 12 else 0) + k.cause * 2 ^ 13 + f.lane * 2 ^ 16 + f.lanes.toNat * 2 ^ 32
  let w4 := ctx + (s.ctx ctx).asid * 2 ^ 10 + g.cluster * 2 ^ 20 + g.core % 4 * 2 ^ 29 + g.slot * 2 ^ 31 + g.index * 2 ^ 35
  [w0, f.pc.toNat, f.va, f.aux.toNat, w4, (s.team g.team).index, s.clock, k.earlier].flatMap (toBytes 8)

/-- Writes a context's fault record and signals its vector (R373 step 5, Table 16·4). -/
def State.reportKill (s : State) (ctx : Nat) (k : KillReq) : State :=
  let c := s.ctx ctx
  (if c.faultArea == 0 then s else s.hostPut c.faultArea (s.faultRecord ctx k) false).send (.msix c.msix)

/-- Stops a command: state 3 with the code of the kill, in its status record too (R373 step 3); pages that its publish has put into
transition leave it as they were. -/
def State.stopCommand (s : State) (code : FaultCode) (id : Nat) : State :=
  match s.commands.find? id with
  | none => s
  | some c =>
    if !c.live && c.state != 4 then s
    else
      let s := if c.kind == .publish && c.words.headD 0 == 1 then s.flipAbandon (c.words.drop 1) else s
      let c := { c with state := 3, code := code.num }
      if c.kind.ticketed then s.noteCommand id c else s.setCommand id c

/-- Stops a matrix work item; an entry's status record takes state 3 (R373 step 3). -/
def State.stopWork (s : State) (id : Nat) : State :=
  match s.works.find? id with
  | none => s
  | some w => { (if w.kind == .entry then s.writeStatus w 3 else s) with works := s.works.erase id }

/-- A live walk ends with its context. -/
def Walk.kill (w : Walk) : Walk := if w.state == .ended then w else { w with state := .ended, status := .killed }

/-- What stops with a context: its commands, matrix work, messages not yet injected, open rounds, launches and walks (R373). -/
def State.stopContext (s : State) (ctx : Nat) (code : FaultCode) : State :=
  let gs := s.ctxGroups ctx
  let s := s.discard gs
  let mine := (s.commands.filter fun p => p.2.ctx == ctx).map (·.1)
  let s := mine.foldl (fun (s : State) id => s.stopCommand code id) s
  let s := ((s.works.filter fun p => (s.team p.2.team).ctx == ctx).map (·.1)).foldl State.stopWork s
  let s := { s with
    sendQ := s.sendQ.map fun (p : Nat × List Msg) => (p.1, p.2.filter fun m => !(m.cmd.any mine.contains))
    accesses := s.accesses.filter fun a => !gs.contains a.gid
    grids := s.grids.map fun (p : Nat × Grid) =>
      (p.1, if p.2.ctx == ctx && (p.2.state == LaunchState.queued || p.2.state == LaunchState.running) then { p.2 with state := .killed }
        else p.2) }
  let s := s.modCtx ctx fun c =>
    { c with walks := c.walks.map fun (p : Nat × Walk) => (p.1, p.2.kill) }
  (s.combines.filter fun p => p.2.owner == ctx).foldl (fun (s : State) p =>
    (p.2.rounds.map (·.1)).foldl (fun (s : State) n => s.roundFails p.1 n code) s) s

/-- A drain has ended: the instructions that wait for it land with the counts of teams that retired and that were saved (R380, R391). -/
def State.drainEnds (s : State) (ctx : Nat) (st : CtxStatus) : State :=
  let c := s.ctx ctx
  let word := BitVec.ofNat 64 (c.drainRetired % 2 ^ 32 + c.drainSaved % 2 ^ 32 * 2 ^ 32)
  let s := c.drainWaits.foldl (fun (s : State) e => (s.modEvent e fun d =>
    { d with v := d.v.map fun p => (p.1, LaneVals.of fun l => if d.lanes.has l then word else 0) }).completeEvent e) s
  s.modCtx ctx fun c => { c with status := st, drainWaits := [] }

/-- Whether the migration engine is moving a page for a context. -/
def State.movesPage (s : State) (ctx : Nat) : Bool := s.commands.any fun p => p.2.ctx == ctx && p.2.live && p.2.moving.isSome

/-- CONTEXT_KILL: the kill or halt of a context is carried out once its groups stand at boundaries and no page is half moved for it
(R373 to R375). -/
def execContextKill (ctx : Nat) (s : State) : Result :=
  let c := s.ctx ctx
  match s.chosenKill c with
  | none => .next s
  | some k =>
    if c.status == .free || c.status == .killed || !s.quiet (s.ctxGroups ctx) || s.movesPage ctx then .next s
    else if k.cause == 3 then
      .next ((s.reportKill ctx k).modCtx ctx fun c => { c with status := .halted, haltedFrom := c.status, kills := [] })
    else
      let s := s.stopContext ctx k.code
      .next (((s.reportKill ctx k).drainEnds ctx .killed).modCtx ctx fun c => { c with killWritten := true, kills := [] })

/-- A kill that no fault caused: code CTX_KILL, cause 5 (R373). -/
def systemKill : KillReq := { code := .ctxKill, cause := 5 }

/-! ### Becoming live (R378) -/

/-- The record of a context as memory holds it. -/
def State.recordOf (s : State) (ctx : Nat) : BitVec 1024 := BitVec.ofNat 1024 (s.readNat (s.cfgVal 0x09 + 128 * ctx) 128)

/-- Whether a record is refused when it is read: a field that must be zero, a handler not a multiple of four, or the q of an event area
outside 4 to 16 (R378, R420). -/
def recordBad (r : BitVec 1024) (q : Nat) : Bool :=
  let zero := fun hi lo => recBits r hi lo != 0
  zero 63 40 || zero 76 64 || zero 127 116 || zero 511 436 || zero 639 628 || zero 703 692 || zero 767 756 || zero 831 820 ||
    zero 895 884 || zero 911 905 || zero 1023 946 ||
    ((List.range 4).any fun i => zero (140 + 64 * i) (139 + 64 * i) || zero (191 + 64 * i) (180 + 64 * i)) ||
    recBits r 385 384 != 0 || (recBits r 691 640 != 0 && (q < 4 || 16 < q))

/-- A refused record: the context does not become live, and the refusal is reported as a kill (R378). -/
def State.refuseRecord (s : State) (ctx : Nat) (r : BitVec 1024) : State :=
  let old := (s.ctx ctx).record
  ((s.modCtx ctx fun c => { c with record := r }).reportKill ctx { code := .ctxImage, cause := 5 }).modCtx ctx fun c => { c with record := old }

/-- A walk held by a drain goes on (Table 17·5). -/
def Walk.unhold (w : Walk) : Walk :=
  match w.state with
  | .held v => { w with state := if v then .visiting else .waiting }
  | _ => w

/-- A live walk is held (Table 17·5). -/
def Walk.hold (w : Walk) : Walk :=
  match w.state with
  | .visiting => { w with state := .held true }
  | .waiting => { w with state := .held false }
  | _ => w

/-- The identity of the host reads of the event areas' headers: one to each context. -/
def areaReadId : Nat := 2 ^ 61

/-- CONTEXT_BECOMES_LIVE: a free or saved context becomes live with its record as read; a saved one goes on where it stood (R378,
R382). `q` is what the read of word 2 of its event area's header answers (R420). A module that no placement entry names refuses it (R320); one held in reset or in recovery runs
nothing (R430, R432). -/
def execContextBecomesLive (ctx q : Nat) (s : State) : Result :=
  let c := s.ctx ctx
  let r := s.recordOf ctx
  if s.inReset || s.recovery || 1024 ≤ ctx || !(c.status == .free || c.status == .saved) then .next s
  else
  let s := if recBits r 691 640 == 0 then s else s.send (.hostRead (areaReadId + ctx) (recBits r 691 640 + 16) 8)
  if recordBad r q || !s.isSelf s.chip then .next (s.refuseRecord ctx r)
  else
    .next (s.setCtx ctx { c with
      status := .live, record := r, q := if recBits r 691 640 == 0 then c.q else q
      walks := c.walks.map fun (p : Nat × Walk) => (p.1, p.2.unhold) })

/-! ### Drains (R380) -/

/-- Every resident team of a context is to be force-saved. -/
def State.saveAll (s : State) (ctx : Nat) : State :=
  { s with teams := s.teams.map fun (p : Nat × Team) => (p.1, if p.2.ctx == ctx && p.2.status == TeamStatus.resident then { p.2 with saving := true } else p.2) }

/-- A drain ends when no team of the context is resident (R380). -/
def State.drainCheck (s : State) (ctx : Nat) : State :=
  if (s.ctx ctx).status == .draining && (s.residentTeams ctx).isEmpty then s.drainEnds ctx .saved else s

/-- A drain of a context is requested: a live one starts to drain, and one that drains goes on; `now` or a limit of 0 saves its teams
at once (R380). -/
def State.beginDrain (s : State) (ctx : Nat) (now : Bool) : State :=
  let c := s.ctx ctx
  let s := if c.status == .live then
      s.setCtx ctx { c with
        status := .draining, drainSince := s.clock, drainRetired := 0, drainSaved := 0
        walks := c.walks.map fun (p : Nat × Walk) => (p.1, p.2.hold) }
    else s
  let s := if now || s.cfgVal 0x20 == 0 then s.saveAll ctx else s
  s.drainCheck ctx

/-- DRAIN_LIMIT_EXPIRY (R380). -/
def execDrainLimitExpiry (ctx : Nat) (s : State) : Result :=
  let c := s.ctx ctx
  if c.status == .draining && decide (c.drainSince + s.cfgVal 0x20 * mclkPerUs ≤ s.clock) then .next (s.saveAll ctx) else .next s

/-! ### Forced saves (R381) -/

/-- Stores the matrix work of a team: an entry that has ended completes, the others keep what they have done, and their status records
say so (R280, R283). -/
def State.saveWorks (s : State) (tid : Nat) : State :=
  (s.works.filter fun p => p.2.team == tid).foldl (fun (s : State) p =>
    if p.2.kind == .entry && 2 ≤ p.2.state && p.2.state ≤ 4 then s.completeEntry p.1 p.2
    else
      let s := if p.2.kind == .entry then s.writeStatus p.2 5 else s
      { s with works := s.works.modify p.1 fun w => { w with state := 5, first := false } }) s

/-- Stops the copy commands of a team and marks them saved (R306). -/
def State.saveCopies (s : State) (tid : Nat) : State :=
  (s.commands.filter fun p => p.2.team == tid && p.2.kind == .copy && p.2.live && p.2.walk.isNone).foldl (fun (s : State) p =>
    s.noteCommand p.1 { p.2 with state := 4 }) s

/-- The waits of some groups are no longer parked: an answer that is on its way tells them nothing (R264). -/
def State.unpark (s : State) (gs : List Nat) : State :=
  { s with accesses := s.accesses.map fun (a : Access) => if gs.contains a.gid && a.isAwait then { a with sent := false } else a }

/-- Writes a team's state to its context's save area: bytes and a place in it that the spec leaves open (R381 step 4, notes/assumptions/71).
What the write changes is memory and what keeps it coherent. -/
def State.writeSaved (s : State) (tid : Nat) : State :=
  let c := s.ctx (s.team tid).ctx
  let at' := Config.savePlace s.freeCtr % max 1 Config.saveAreaBytes
  let t := s.migWrite (c.saveArea + at') ((Config.imageBody s.freeCtr).take (Config.saveAreaBytes - at'))
  { s with mem := t.mem, tags := t.tags, snaps := t.snaps, sectors := t.sectors, lines := t.lines, lts := t.lts, floor := t.floor
           engineGrains := t.engineGrains, held := t.held, freeCtr := s.freeCtr + 1 }

/-- Takes a team off its cluster with all its state; every group stands at a boundary (R381). -/
def State.saveTeam (s : State) (tid : Nat) : State :=
  let gs := (s.team tid).groups
  let s := s.writeSaved tid
  let s := (((s.discard gs).unpark gs).saveWorks tid).saveCopies tid
  let s := gs.foldl (fun (s : State) gid => s.modGroup gid fun g => { g with resident := false, bundles := [] }) s
  (s.modTeam tid fun t => { t with status := .saved, saving := false }).modCtx (s.team tid).ctx fun c =>
    { c with drainSaved := c.drainSaved + 1, left := c.left.insert (s.team tid).cluster s.clock }

/-- Whether the work that a save lets finish has: drains that have started, with the merges of their maxima (R280), and the local reads
of puts and sends (R334). -/
def State.unitsQuiet (s : State) (tid : Nat) : Bool :=
  let merges := fun (a : Access) => a.gid == engGid && match a.event.bind s.deferred.find? with
    | some d => (s.team tid).groups.contains d.gid
    | none => false
  !(s.works.any fun p => p.2.team == tid && p.2.kind == .drain && p.2.state == 1) && !s.accesses.any merges &&
    !(s.commands.any fun p => p.2.team == tid && (p.2.kind == .put || p.2.kind == .send) && p.2.live && !p.2.begun)

/-- Whether a forced save of a team can complete: its groups stand still, as do the units that it lets finish, and no snapshot record of
its domain is pending (R280, R334, R381). -/
def State.canSave (s : State) (tid : Nat) : Bool :=
  s.quiet (s.team tid).groups && s.unitsQuiet tid && !s.pausing (s.team tid).ctx

/-- FORCED_SAVE: a team that is to be saved leaves its cluster (R381). -/
def execForcedSave (team : Nat) (s : State) : Result :=
  let t := s.team team
  if t.status != .resident || !t.saving || !s.canSave team || (s.ctx t.ctx).status == .killed || (s.ctx t.ctx).status == .halted then .next s
  else .next ((s.saveTeam team).drainCheck t.ctx)

/-! ### Context images (R387, R388) -/

/-- What an image of a context holds: the context with its walks and launches, its grids, and its teams that have not retired with
their groups, matrix work, copy commands, posted receives, parked waits and deferred events (R387). -/
def State.imageOf (s : State) (ctx : Nat) : Saved :=
  let ts := s.teams.filter fun p => p.2.ctx == ctx
  let gs := s.groups.filter fun p => (s.team p.2.team).ctx == ctx
  let has := fun (gid : Nat) => (SMap.find? gs gid).isSome
  { ctxs := s.ctxs.filter fun p => p.1 == ctx
    teams := ts
    groups := gs
    grids := s.grids.filter fun p => p.2.ctx == ctx
    works := s.works.filter fun p => (SMap.find? ts p.2.team).isSome
    commands := s.commands.filter fun p => p.2.ctx == ctx
    deferred := s.deferred.filter fun p => has p.2.gid
    accesses := s.accesses.filter fun a => has a.gid }

/-- The bytes of an image with its header (R387). -/
def State.imageBytes (s : State) (ctx n : Nat) : List Byte :=
  let body := Config.imageBody n
  toBytes 4 0x0100 ++ toBytes 4 (32 + body.length) ++ toBytes 8 (ctx + s.cfgVal 0x00 * 2 ^ 10) ++ (sha256 body).take 16 ++ body

/-- The result word of ctxsave and ctxload: the image's length in KiB and the number of saved teams (R387). -/
def imageWord (len teams : Nat) : Word := BitVec.ofNat 64 (ceilDiv len 1024 % 2 ^ 32 + teams % 2 ^ 32 * 2 ^ 32)

/-- The saved teams of a context. -/
def savedTeams (v : Saved) (ctx : Nat) : Nat := (v.teams.filter fun p => p.2.ctx == ctx && p.2.status == .saved).length

/-- Frees a context: its teams, windows, groups, launches, work and ASID (R387, R416). -/
def State.freeContext (s : State) (ctx : Nat) : State :=
  let s := (s.teams.filter fun p => p.2.ctx == ctx).foldl (fun (s : State) p => s.keepMarks p.1) s
  let gone := fun (t : Nat) => (s.team t).ctx == ctx
  let gs := (s.groups.filter fun p => gone p.2.team).map (·.1)
  { s with
    ctxs := s.ctxs.erase ctx
    teams := s.teams.filter fun p => p.2.ctx != ctx
    groups := s.groups.filter fun p => !gs.contains p.1
    grids := s.grids.filter fun p => p.2.ctx != ctx
    works := s.works.filter fun p => !gone p.2.team
    commands := s.commands.filter fun p => p.2.ctx != ctx || (p.2.live && p.2.kind.fabric && p.2.kind != .receive)
    deferred := s.deferred.filter fun p => !gs.contains p.2.gid
    accesses := s.accesses.filter fun a => !gs.contains a.gid }

/-- An event that lands with a word in every thread of the bundle once its condition holds. -/
def State.sysEvent (s : State) (i : Instr) (iss : Issue) (idx : Nat) (d : BitVec 7) (n : List Nat) : Nat × State :=
  s.addEvent { iss.event idx iss.lanes with wait := .condition i n, v := [(d.toNat, iss.lanesOf fun _ => 0)] }

/-- Sets the word that an event lands with. -/
def State.eventWord (s : State) (e : Nat) (w : Word) : State :=
  s.modEvent e fun d => { d with v := d.v.map fun p => (p.1, LaneVals.of fun l => if d.lanes.has l then w else 0) }

/-- ctxsave (R387): the image handle's bounds at its first byte, its alignment and right, then the context's state. -/
def execCtxsave (f : FE) (ls : Lits) (s : State) : Result :=
  s.withIssue fun iss s =>
    let h := iss.hreg f.h.toNat
    let e := iss.addrE f ls 4096
    let c := (iss.uniformB f ls).toNat % 1024
    match checkHandle (s.ctxI iss) h e 1 4096 [1] [] with
    | some code => s.faultAll iss code (vaOf h e)
    | none =>
      if c == s.ctxOf iss.gid || (s.ctx c).status != .live then s.faultAll iss .ctxState
      else s.finish iss (2 + ls.length) [.act (.ctxsave f ls) iss.idx iss.lanes [] [] [] [c, e.toNat, f.h.toNat]]

/-- The commit of ctxsave: the context's teams are force-saved. -/
def commitCtxsave (f : FE) (ls : Lits) (iss : Issue) (idx : Nat) (n : List Nat) (s : State) : State :=
  let (_, s) := s.sysEvent (.ctxsave f ls) iss idx f.d (n ++ [(iss.hreg f.h.toNat).toNat, s.ctxOf iss.gid, iss.before.core])
  s.beginDrain (n.headD 0) true

/-- The landing of ctxsave: once no team is resident and no command of the context that a save does not stop still runs, the image is
written (R381, R387). Posts whose sources are still read run on too. -/
def State.ctxsaveLands (s : State) (id : Nat) (f : FE) (n : List Nat) : State × Bool :=
  let c := n.headD 0
  let h : HandleBits := BitVec.ofNat 128 (n.getD 3 0)
  let runs := s.commands.any fun p => p.2.ctx == c && p.2.live &&
    (p.2.kind == .migrate || p.2.kind == .preq || p.2.kind == .digest || p.2.kind == .put || p.2.kind == .get || p.2.kind == .send || p.2.kind == .publish)
  let posts := s.combines.any fun x => x.2.rounds.any fun r => r.2.locals.any fun p => p.2.ctx == c && p.2.reading.isSome
  if (s.ctx c).status == .draining || runs || posts then (s, false)
  else if (s.ctx c).status != .saved then (s, true)
  else
    let bs := s.imageBytes c s.freeCtr
    if handleLen h < n.getD 1 0 + bs.length then
      (s.modEvent id fun d => d.addFault .handleBounds d.lanes (vaOf h (n.getD 1 0)), true)
    else
      match s.handleWrite (s.ctx (n.getD 4 0)) (n.getD 5 0) h (n.getD 1 0) .record false bs with
      | .wait s => (s, false)
      | .fail code va s => (s.modEvent id fun d => d.addFault code d.lanes va, true)
      | .ok _ s =>
        let v := s.imageOf c
        let s := { s with images := s.images.insert s.freeCtr v, freeCtr := s.freeCtr + 1 }.eventWord id (imageWord bs.length (savedTeams v c))
        (if f.aux.getLsbD 0 then s.freeContext c else s, true)

/-- ctxload (R388): the context must be free, and the ASID of its record held by no live context. -/
def execCtxload (f : FE) (ls : Lits) (s : State) : Result :=
  s.withIssue fun iss s =>
    let h := iss.hreg f.h.toNat
    let e := iss.addrE f ls 4096
    let c := (iss.uniformB f ls).toNat % 1024
    match checkHandle (s.ctxI iss) h e 1 4096 [0] [] with
    | some code => s.faultAll iss code (vaOf h e)
    | none =>
      let asid := recBits (s.recordOf c) 9 0
      if (s.ctx c).status != .free || s.ctxs.any fun p => p.2.status == .live && p.2.asid == asid then s.faultAll iss .ctxState
      else s.finish iss (2 + ls.length) [.act (.ctxload f ls) iss.idx iss.lanes [] [] [] [c, e.toNat, f.h.toNat]]

/-- The commit of ctxload: the image is read when its event lands. -/
def commitCtxload (f : FE) (ls : Lits) (iss : Issue) (idx : Nat) (n : List Nat) (s : State) : State :=
  (s.sysEvent (.ctxload f ls) iss idx f.d (n ++ [(iss.hreg f.h.toNat).toNat, s.ctxOf iss.gid, iss.before.core])).2

/-- The numbers of an image's objects moved past those in use, and its context renamed, so that it can stand beside anything that the
module holds. -/
def Saved.rename (v : Saved) (b ctx : Nat) : Saved :=
  let wait := fun (w : Wait) => match w with
    | .await id => Wait.await (id + b)
    | .rendezvous q t => .rendezvous q (t + b)
    | w => w
  let status := fun (t : ThreadStatus) => match t with
    | .blocked ws => ThreadStatus.blocked (ws.map wait)
    | .held ws => .held (ws.map wait)
    | t => t
  let walk := fun (w : Option (Nat × Nat)) => w.map fun p => (ctx, p.2)
  let wwait := fun (w : WalkWait) => match w with
    | .grid g => WalkWait.grid (g + b)
    | .copy c => .copy (c + b)
    | .publish c => .publish (c + b)
    | w => w
  { v with
    ctxs := v.ctxs.map fun p => (ctx, { p.2 with
      walks := p.2.walks.map fun w => (w.1, { w.2 with grids := w.2.grids.map (· + b), wait := w.2.wait.map wwait }) })
    teams := v.teams.map fun p => (p.1 + b, { p.2 with
      ctx := ctx, grid := p.2.grid + b, groups := p.2.groups.map (· + b) })
    groups := v.groups.map fun p => (p.1 + b, { p.2 with
      team := p.2.team + b
      threads := p.2.threads.map fun t => { t with status := status t.status, suspended := t.suspended.map wait } })
    grids := v.grids.map fun p => (p.1 + b, { p.2 with ctx := ctx })
    works := v.works.map fun p => (p.1 + b, { p.2 with
      team := p.2.team + b, gid := p.2.gid + b, event := p.2.event.map (· + b), cancels := p.2.cancels.map (· + b)
      members := p.2.members.map fun m => { m with gid := m.gid + b, event := m.event + b } })
    commands := v.commands.map fun p => (p.1 + b, { p.2 with
      ctx := ctx, team := p.2.team + b, gid := p.2.gid + b, event := p.2.event.map (· + b), walk := walk p.2.walk })
    deferred := v.deferred.map fun p => (p.1 + b, { p.2 with
      gid := p.2.gid + b
      wait := match p.2.wait with
        | .command id => .command (id + b)
        | .matrix q id => .matrix q (id + b)
        | .condition (.ewait f l) n => .condition (.ewait f l) (n.map (· + b))
        | .condition (.gwait f l) n => .condition (.gwait f l) (ctx :: n.drop 1)
        | w => w })
    accesses := v.accesses.map fun a => { a with id := a.id + b, gid := a.gid + b, event := a.event.map (· + b) } }

/-- A number that exceeds those of an image's objects. -/
def Saved.bound (v : Saved) : Nat :=
  let top := fun (ks : List Nat) => ks.foldl max 0
  top (v.teams.map (·.1)) + top (v.groups.map (·.1)) + top (v.grids.map (·.1)) + top (v.works.map (·.1)) + top (v.commands.map (·.1)) +
    top (v.deferred.map (·.1)) + top (v.accesses.map (·.id)) + 1

/-- Installs an image as a context: its teams are queued as saved ones (R382, R388). -/
def State.install (s : State) (ctx : Nat) (v : Saved) : State :=
  let b := s.nextId
  let w := v.rename b ctx
  let add := fun {α : Type} (m n : SMap α) => n.foldl (fun (m : SMap α) (p : Nat × α) => m.insert p.1 p.2) m
  let s := { s with
    nextId := b + v.bound
    ctxs := add s.ctxs w.ctxs, teams := add s.teams w.teams, groups := add s.groups w.groups, grids := add s.grids w.grids
    works := add s.works w.works, commands := add s.commands w.commands, deferred := add s.deferred w.deferred
    accesses := s.accesses ++ w.accesses }
  let s := { s with
    teams := s.teams.map fun (p : Nat × Team) =>
      (p.1, if p.2.ctx == ctx && p.2.status == TeamStatus.saved then { p.2 with cluster := 288 } else p.2) }
  s.modCtx ctx fun c =>
    { c with status := .live, drainWaits := [], walks := c.walks.map fun (p : Nat × Walk) => (p.1, p.2.unhold) }

/-- Writes a context's record to its slot of the context table. -/
def State.putRecord (s : State) (ctx : Nat) (r : BitVec 1024) : State := s.writeMem (s.cfgVal 0x09 + 128 * ctx) (toBytes 128 r.toNat)

/-- What the body of an image stands for: one that this module wrote, or another module's, which is a free value (R387,
notes/assumptions/56). -/
def State.imageSays (s : State) (body : List Byte) : Saved :=
  ((List.find? (fun p : Nat × Saved => Config.imageBody p.1 == body) s.images).map (·.2)).getD (Config.imageSaved body)

/-- The landing of ctxload: the header is checked, then the body's digest, then the record that it holds (R378, R388). Answers
whether it lands. -/
def State.ctxloadLands (s : State) (id : Nat) (n : List Nat) : State × Bool :=
  let ctx := n.headD 0
  let e := n.getD 1 0
  let h : HandleBits := BitVec.ofNat 128 (n.getD 3 0)
  let fail := fun (s : State) (code : FaultCode) (va : Nat) => (s.modEvent id fun d => d.addFault code d.lanes va, true)
  let read := fun (s : State) (off len : Nat) => s.handleRead id (s.ctx (n.getD 4 0)) (n.getD 5 0) h off len
  match read s e 32 with
  | .wait s => (s, false)
  | .fail code va s => fail s code va
  | .ok hd s =>
    let w0 := ofBytes (hd.take 8)
    let w1 := ofBytes ((hd.drop 8).take 8)
    let len := bits w0 63 32
    if bits w0 31 0 != 0x0100 || bits w1 63 42 != 0 || bits w1 41 10 != s.cfgVal 0x00 || len < 32 || handleLen h < e + len then
      fail s .ctxImage (vaOf h e)
    else
      match read s (e + 32) (len - 32) with
      | .wait s => (s, false)
      | .fail code va s => fail s code va
      | .ok body s =>
        let v := s.imageSays body
        let c := (v.ctxs.map (·.2)).headD {}
        if (sha256 body).take 16 != hd.drop 16 || (s.ctx ctx).status != .free then fail s .ctxImage (vaOf h e)
        else if recordBad c.record c.q || !s.isSelf s.chip then (s.refuseRecord ctx c.record, true)
        else
          (((s.putRecord ctx c.record).install ctx v).eventWord id
            (imageWord len (savedTeams v ((v.ctxs.map (·.1)).headD 0))), true)

/-! ### inj (R390) -/

/-- inj.mat and inj.frag: INJ_ENABLE is checked, and the parameter is kept. -/
def injExec (i : Instr) (f : FE) (ls : Lits) (s : State) : Result :=
  s.withIssue fun iss s =>
    if s.cfgVal 0x21 == 0 then s.faultAll iss .priv
    else s.finish iss (2 + ls.length) [.act i iss.idx iss.lanes [] [] [] [(iss.uniformM f.a (litAt ls 0)).toNat]]

/-- inj.mat (R390). -/
def execInjMat (f : FE) (ls : Lits) (s : State) : Result := injExec (.injMat f ls) f ls s
/-- inj.frag (R390). -/
def execInjFrag (f : FE) (ls : Lits) (s : State) : Result := injExec (.injFrag f ls) f ls s

/-- The event of an armed error, which waits until the error is applied or replaced. -/
def State.armEvent (s : State) (i : Instr) (iss : Issue) (idx : Nat) : Nat × State :=
  s.addEvent { iss.event idx iss.lanes with wait := .condition i [] }

/-- The commit of inj.mat: the error is armed on the cluster, and the event of one that it replaces lands. -/
def commitInjMat (f : FE) (ls : Lits) (iss : Issue) (idx : Nat) (n : List Nat) (s : State) : State :=
  let q := iss.before.cluster
  let s := match s.injMat.find? q with
    | some (_, e) => s.completeEvent e
    | none => s
  let (e, s) := s.armEvent (.injMat f ls) iss idx
  { s with injMat := s.injMat.insert q (n.headD 0, e) }

/-- The commit of inj.frag. -/
def commitInjFrag (f : FE) (ls : Lits) (iss : Issue) (idx : Nat) (n : List Nat) (s : State) : State :=
  let p := n.headD 0
  let s := match s.injFrag with
    | some (_, _, _, e) => s.completeEvent e
    | none => s
  let (e, s) := s.armEvent (.injFrag f ls) iss idx
  { s with injFrag := some (bits p 11 0, bits p 14 12, bits p 17 15, e) }

/-- inj.poison (R390): the grain's address is checked as a store's is. -/
def execInjPoison (f : FE) (ls : Lits) (s : State) : Result :=
  s.withIssue fun iss s =>
    let h := iss.hreg f.h.toNat
    if s.cfgVal 0x21 == 0 then s.faultAll iss .priv
    else
      match s.checkAccess iss h (iss.addrE f ls 1) 1 [1] [] .store 0 with
      | (.fail c va, s) => s.faultAll iss c va
      | (.absent va, s) => s.faultAll iss .pageNotPresent va
      | (.away g w leaf, s) => .next (s.request g w leaf).stall
      | (.ok _ pa pte, s) =>
        s.finish iss (2 + ls.length) [.act (.injPoison f ls) iss.idx iss.lanes [] [] [] [pa, if pteHost pte then 1 else 0, pte.toNat]]

/-- The commit of inj.poison: the tag at the home, adopted from the leaf when it was unassigned (R223), takes the bit; another chip's
home is told, and its answer lets the event land. -/
def commitInjPoison (i : Instr) (iss : Issue) (idx : Nat) (n : List Nat) (s : State) : State :=
  let pa := n.headD 0
  let pte := BitVec.ofNat 64 (n.getD 2 0)
  let poison := fun (s : State) => s.modTag (grainOf pa) fun t => tagSet t 10 10 1
  if n.getD 1 0 == 1 then (s.addEvent (iss.event idx iss.lanes)).2
  else if chipOf pa == s.chip then ((poison (s.adopt (grainOf pa) pte iss.before.core)).addEvent (iss.event idx iss.lanes)).2
  else
    let (e, s) := s.addEvent { iss.event idx iss.lanes with wait := .condition i [], asks := some 1 }
    (if (s.held.find? (grainOf pa)).isSome then poison s else s).sendCoh (chipOf pa) .poison (grainOf pa * 512) (leafWord pte iss.before.core) e []

/-! ### preempt (R391) -/

/-- preempt (R391): the issuing context and a free one cannot be named. -/
def execPreempt (f : FE) (ls : Lits) (s : State) : Result :=
  s.withIssue fun iss s =>
    let c := (iss.uniformM f.a (litAt ls 0)).toNat % 1024
    if c == s.ctxOf iss.gid || (s.ctx c).status == .free then s.faultAll iss .ctxState
    else s.finish iss (2 + ls.length) [.act (.preempt f ls) iss.idx iss.lanes [] [] [] [c]]

/-- The commit of preempt: the drain starts, or is joined; a context that has nothing to drain gives zero. -/
def commitPreempt (f : FE) (ls : Lits) (iss : Issue) (idx : Nat) (n : List Nat) (s : State) : State :=
  let c := n.headD 0
  let (e, s) := s.sysEvent (.preempt f ls) iss idx f.d [c]
  if (s.ctx c).status == .live || (s.ctx c).status == .draining then
    (s.modCtx c fun x => { x with drainWaits := x.drainWaits ++ [e] }).beginDrain c (f.aux.getLsbD 0)
  else s.completeEvent e

end Sys2Proof.Machine
end

