-- ==== Sys2Proof/Machine/Place.lean ====
section
/-!
DEFINITION. Where a team fits (R18, R19, R392, R399): what is free on a cluster, what a kernel's team or a saved team needs, the
assignments of groups to cores, and the budgets that gate placement (R400).
-/

namespace Sys2Proof.Machine

/-! ### What is free -/

/-- What is free on a core: register blocks, group slots and A-buffer banks. -/
structure CoreRoom where
  blocks : Nat := 128
  slots : Nat := 16
  abanks : Nat := 16
  deriving DecidableEq, Repr

/-- What is free on a cluster: its four cores, C-buffer banks, W-store sub-banks, entries of the reservation table and places for copy
commands. -/
structure Room where
  cores : List CoreRoom := [{}, {}, {}, {}]
  cbanks : Nat := 16
  wsub : Nat := 64
  entries : Nat := 16
  copies : Nat := 32
  deriving DecidableEq, Repr

/-- The number of ones among the low w bits. -/
def ones (w x : Nat) : Nat := ((List.range w).filter fun i => bitAt x i).length

/-- The A-buffer banks of a team on each core, shadow banks of its pairs included. -/
def Team.needA (t : Team) : Nat := t.abanks + ones 16 t.apair
/-- The C-buffer banks of a team. -/
def Team.needC (t : Team) : Nat := t.cbanks + ones 16 t.cpair
/-- The W-store sub-banks of a team. -/
def Team.needW (t : Team) : Nat := t.wsub + ones 64 t.wpair

/-- The number that stands for the cluster of a team that may resume on any (R382). -/
def anyCluster : Nat := 288

/-- The groups of a team that have not retired. -/
def State.liveGroups (s : State) (t : Team) : List Group := (t.groups.map s.group).filter fun g => !g.retired

/-- What is free on a cluster when some team's groups and windows are left out; the W-store window of a saved team stays reserved
(R270). -/
def State.roomWithout (s : State) (q : Nat) (out : Option Nat) : Room :=
  let here := s.teams.filter fun p => p.2.cluster == q && p.2.status == .resident && some p.1 != out
  let bound := s.teams.filter fun p => p.2.cluster == q && (p.2.status == .resident || p.2.status == .saved)
  let gs := here.flatMap fun p => s.liveGroups p.2
  { cores := (List.range 4).map fun i =>
      let mine := gs.filter fun g => g.core % 4 == i
      let windows := here.filter fun p => p.2.groups.any fun gid => (s.group gid).core % 4 == i
      { blocks := 128 - (mine.map Group.blocks).sum, slots := 16 - mine.length, abanks := 16 - (windows.map fun p => p.2.needA).sum }
    cbanks := 16 - (here.map fun p => p.2.needC).sum
    wsub := 64 - (bound.map fun p => p.2.needW).sum
    entries := 16 - ((s.entries q).filter fun p => some p.2.team != out).length
    copies := 32 - ((s.copiesHeld q).filter fun p => some p.2.team != out).length }

/-- What is free on a cluster. -/
def State.room (s : State) (q : Nat) : Room := s.roomWithout q none

/-! ### What a team needs -/

/-- What a team needs of a cluster: its groups with the core in the cluster and the blocks of each, whether each takes a group slot,
its banks, and its saved entries and copy commands. -/
structure Demand where
  items : List (Nat × Nat × Bool)
  abanks : Nat
  cbanks : Nat
  wsub : Nat
  entries : Nat := 0
  copies : Nat := 0
  deriving DecidableEq, Repr

/-- Whether a demand fits in what is free (R399). -/
def Room.fits (r : Room) (d : Demand) : Bool :=
  ((List.range 4).all fun i =>
    let mine := d.items.filter fun x => x.1 == i
    let c := r.cores.getD i {}
    mine.isEmpty ||
      (decide ((mine.map fun x => x.2.1).sum ≤ c.blocks) && decide ((mine.filter fun x => x.2.2).length ≤ c.slots) &&
        decide (d.abanks ≤ c.abanks))) &&
    decide (d.cbanks ≤ r.cbanks) && decide (d.wsub ≤ r.wsub) && decide (d.entries ≤ r.entries) && decide (d.copies ≤ r.copies)

/-- A team of a kernel before it has groups. -/
def Kernel.team (k : Kernel) : Team :=
  { ctx := 0, grid := 0, abanks := k.abanks, apair := k.apair, cbanks := k.cbanks, cpair := k.cpair, wsub := k.wsub, wpair := k.wpair }

/-- The demand of a new team of a kernel with its groups on given cores. -/
def Kernel.demand (k : Kernel) (cores : List Nat) : Demand :=
  { items := cores.zipIdx.map fun p => (p.1 % 4, if p.2 < k.pgroups then k.pblocks else k.cblocks, true)
    abanks := k.team.needA, cbanks := k.team.needC, wsub := k.team.needW }

/-- The numbers of producers and, beside them, the most consumers that a core can take. -/
def CoreRoom.takes (r : CoreRoom) (k : Kernel) : List (Nat × Nat) :=
  if r.abanks < k.team.needA then [(0, 0)]
  else
    ((List.range (k.pgroups + 1)).reverse).filterMap fun p =>
      if p ≤ r.slots && p * k.pblocks ≤ r.blocks then
        some (p, min k.cgroups (min (r.slots - p) (if k.cblocks == 0 then 0 else (r.blocks - p * k.pblocks) / k.cblocks)))
      else none

/-- An assignment of producers and consumers to the cores of a list, when there is one. -/
def assign (k : Kernel) : List CoreRoom → Nat → Nat → Option (List (Nat × Nat))
  | [], p, c => if p == 0 && c == 0 then some [] else none
  | r :: rs, p, c =>
    (r.takes k).findSome? fun t =>
      if p < t.1 then none else (assign k rs (p - t.1) (c - min c t.2)).map fun l => (t.1, min c t.2) :: l

/-- The cores, within the cluster, of a new team's groups: producers first. -/
def Room.assignment (r : Room) (k : Kernel) : Option (List Nat) :=
  if r.cbanks < k.team.needC || r.wsub < k.team.needW then none
  else
    (assign k r.cores k.pgroups k.cgroups).map fun l =>
      (l.zipIdx.flatMap fun p => List.replicate p.1.1 p.2) ++ l.zipIdx.flatMap fun p => List.replicate p.1.2 p.2

/-- What is left after a demand is met. -/
def Room.take (r : Room) (d : Demand) : Room :=
  { r with
    cores := r.cores.zipIdx.map fun p =>
      let mine := d.items.filter fun x => x.1 == p.2
      if mine.isEmpty then p.1
      else
        { blocks := p.1.blocks - (mine.map fun x => x.2.1).sum, slots := p.1.slots - (mine.filter fun x => x.2.2).length
          abanks := p.1.abanks - d.abanks }
    cbanks := r.cbanks - d.cbanks, wsub := r.wsub - d.wsub }

/-- How many teams of a kernel, up to n, find place one after the other, each where the first assignment puts it. -/
def Room.inTurn (r : Room) (k : Kernel) : Nat → Nat
  | 0 => 0
  | n + 1 =>
    match r.assignment k with
    | some cores => 1 + (r.take (k.demand cores)).inTurn k n
    | none => 0

/-- The ways to split n groups among some cores. -/
def splits : Nat → Nat → List (List Nat)
  | 0, n => if n == 0 then [[]] else []
  | c + 1, n => (List.range (n + 1)).reverse.flatMap fun i => (splits c (n - i)).map (i :: ·)

/-- The assignments of a new team's groups to the cores of a cluster: producers first. -/
def Kernel.patterns (k : Kernel) : List (List Nat) :=
  let put := fun (l : List Nat) => l.zipIdx.flatMap fun p => List.replicate p.1 p.2
  (splits 4 k.pgroups).flatMap fun p => (splits 4 k.cgroups).map fun c => put p ++ put c

/-- A list and what is left of it after each of its elements is dropped in turn. -/
def tailsOf : List (List Nat) → List (List (List Nat))
  | [] => []
  | p :: ps => (p :: ps) :: tailsOf ps

/-- n teams placed together in what is free, each by one of some assignments, in the order of the list; the assignments when they fit. -/
def packTeams (k : Kernel) : Nat → Room → List (List Nat) → Option (List (List Nat))
  | 0, _, _ => some []
  | n + 1, r, ps => (tailsOf ps).findSome? fun t => match t with
    | [] => none
    | p :: _ => if r.fits (k.demand p) then (packTeams k n (r.take (k.demand p)) t).map (p :: ·) else none

/-- The most consumer groups that cores take beside x producer groups, by blocks and slots; none when they do not take the producers. -/
def mostBeside (k : Kernel) : List CoreRoom → Nat → Option Nat
  | [], x => if x == 0 then some 0 else none
  | r :: rs, x => (List.range (min x r.slots + 1)).foldl (fun m i =>
      if r.blocks < i * k.pblocks then m
      else
        match mostBeside k rs (x - i) with
        | some c =>
          let d := c + min (r.slots - i) (if k.cblocks == 0 then r.slots else (r.blocks - i * k.pblocks) / k.cblocks)
          some (max d (m.getD 0))
        | none => m) none

/-- Whether n teams of a kernel fit together in what is free of a cluster (R399). A team without A-buffer windows may have its groups on any
cores, so that counts of groups decide; the windows that a team has on each of its cores need an assignment. -/
def Room.holds (r : Room) (k : Kernel) (n : Nat) : Bool :=
  decide (n * k.team.needC ≤ r.cbanks) && decide (n * k.team.needW ≤ r.wsub) &&
    decide (n * (k.pgroups + k.cgroups) ≤ (r.cores.map CoreRoom.slots).sum) &&
    decide (n * (k.pgroups * k.pblocks + k.cgroups * k.cblocks) ≤ (r.cores.map CoreRoom.blocks).sum) &&
    ((mostBeside k r.cores (n * k.pgroups)).any fun c => decide (n * k.cgroups ≤ c)) &&
    (k.team.needA == 0 ||
      (decide (n * k.team.needA ≤ (r.cores.map CoreRoom.abanks).sum) && (packTeams k n r k.patterns).isSome))

/-- How many teams of a kernel fit together in what is free, up to n. -/
def Room.count (r : Room) (k : Kernel) (n : Nat) : Nat :=
  let m := r.inTurn k n
  (((List.range (n - m)).reverse.map (· + m + 1)).find? (r.holds k)).getD m

/-! ### Budgets (R400) -/

/-- The limits of a context's record: clusters, bandwidth, power and the cap of the priority; 0 is none (Table 17·6). -/
def Ctx.recordLimits (c : Ctx) : List Nat :=
  [recBits c.record 904 896, recBits c.record 927 912, recBits c.record 943 928, recBits c.record 945 944]

/-- The limits in force now: until the next window begins, those before the last change (R410). -/
def State.limitsOf (s : State) (ctx : Nat) : List Nat :=
  let c := s.ctx ctx
  if s.clock < c.limitsFrom then c.limits else c.recordLimits

/-- The dispatch priority of a grid, limited by its context's cap. -/
def State.priorityOf (s : State) (g : Grid) : Nat :=
  let cap := (s.limitsOf g.ctx).getD 3 0
  if cap == 0 then g.prio else min g.prio cap

/-- Whether a context's cluster share lets a team be placed on a cluster: one that it uses already, or one more below its limit. -/
def State.shareAllows (s : State) (ctx q : Nat) : Bool :=
  let limit := (s.limitsOf ctx).headD 0
  limit == 0 || decide (s.clustersUsed ctx < limit) || (s.clustersOf ctx).contains q

/-- Whether a context has a limit of bandwidth or power, whose use the part measures. -/
def State.measuredLimits (s : State) (ctx : Nat) : Bool := (s.limitsOf ctx).getD 1 0 != 0 || (s.limitsOf ctx).getD 2 0 != 0

/-- Whether the measured bandwidth and power of a context, free values, lie below its limits. -/
def State.measuredAllows (s : State) (ctx : Nat) : Bool × State :=
  let bw := (s.limitsOf ctx).getD 1 0
  let power := (s.limitsOf ctx).getD 2 0
  if bw == 0 && power == 0 then (true, s)
  else
    let (x, s) := s.fresh
    ((bw == 0 || decide (bits x.toNat 15 0 < bw)) && (power == 0 || decide (bits x.toNat 31 16 < power)), s)

/-! ### Candidates and their order (R399) -/

/-- A team that waits for placement: its grid, its index, and its number when it is a saved one. -/
structure Candidate where
  grid : Nat
  index : Nat
  saved : Option Nat := none
  deriving DecidableEq, Repr

/-- Whether a team of a grid has been placed. -/
def State.wasPlaced (s : State) (gr t : Nat) : Bool := s.teams.any fun p => p.2.grid == gr && p.2.index == t

/-- The teams of a grid not yet placed that its rules let be placed next (R399, R405). -/
def State.newCandidates (s : State) (gr : Nat) : List Candidate :=
  let g := s.grid gr
  if g.cancelled then []
  else if g.det then
    ((List.range g.lclusters ++ g.retired.map (· + g.lclusters)).filter fun t => decide (t < g.teams) && !s.wasPlaced gr t).map fun t =>
      { grid := gr, index := t }
  else if g.placed < g.teams && (!g.stepped || g.placed == 0) then [{ grid := gr, index := g.placed }]
  else []

/-- The saved teams of a grid. -/
def State.savedCandidates (s : State) (gr : Nat) : List Candidate :=
  (s.teams.filter fun p => p.2.grid == gr && p.2.status == .saved).map fun p => { grid := gr, index := p.2.index, saved := some p.1 }

/-- The teams of a grid that wait for placement. -/
def State.candidatesOf (s : State) (gr : Nat) : List Candidate :=
  let g := s.grid gr
  if (g.state == .queued || g.state == .running) && (s.ctx g.ctx).status == .live && (s.ctx g.ctx).kills.isEmpty then s.savedCandidates gr ++ s.newCandidates gr else []

/-- The place of a candidate in the order of R399: the least is served first. -/
def State.candRank (s : State) (c : Candidate) : Nat :=
  let g := s.grid c.grid
  (((3 - s.priorityOf g) * 2 + (if c.saved.isSome then 0 else 1)) * 2 ^ 64 + g.order) * 2 ^ 32 + c.index

/-- The demand of a saved team. -/
def State.savedDemand (s : State) (tid : Nat) : Demand :=
  let t := s.team tid
  { items := t.groups.map fun gid => let g := s.group gid; (g.core % 4, if g.retired then 0 else g.blocks, !g.retired)
    abanks := t.needA, cbanks := t.needC, wsub := if t.cluster == anyCluster then t.needW else 0
    entries := (s.works.filter fun p => p.2.team == tid && p.2.kind == .entry).length
    copies := (s.commands.filter fun p => p.2.team == tid && p.2.kind == .copy && p.2.state == 4).length }

/-- Whether a saved team may resume on a cluster (R382). -/
def Team.mayResume (t : Team) (q : Nat) : Bool := t.wsub == 0 || t.cluster == anyCluster || t.cluster == q

/-- The cores of a saved team's groups on a cluster: each keeps its place in it. -/
def State.savedCores (s : State) (tid q : Nat) : List Nat := (s.team tid).groups.map fun gid => q * 4 + (s.group gid).core % 4

/-- The cores on which a candidate can be placed in what is free of a cluster. -/
def State.coresFor (s : State) (c : Candidate) (q : Nat) (r : Room) : Option (List Nat) :=
  match c.saved with
  | some tid => if (s.team tid).mayResume q && r.fits (s.savedDemand tid) then some (s.savedCores tid q) else none
  | none => (r.assignment (s.grid c.grid).kernel).map fun l => l.map (· + q * 4)

/-- The clusters of the module. -/
def clusters : List Nat := List.range 288

/-- Where a candidate that is placed alone could go. -/
def State.choose (s : State) (c : Candidate) (budget : Bool) : Option (Nat × List Nat) :=
  clusters.findSome? fun q =>
    if budget && !s.shareAllows (s.grid c.grid).ctx q then none else (s.coresFor c q (s.room q)).map fun l => (q, l)

/-- How many teams of a grid its context's share and the room of the module take together, each cluster by a count of its own. -/
def State.roomFor (s : State) (g : Grid) (count : Room → Nat) : Nat :=
  let limit := (s.limitsOf g.ctx).headD 0
  let mine := s.clustersOf g.ctx
  let old := (clusters.filter mine.contains).map fun q => count (s.room q)
  let new := ((clusters.filter fun q => !mine.contains q).map fun q => count (s.room q)).mergeSort (fun a b => b ≤ a)
  old.sum + (if limit == 0 then new else new.take (limit - mine.length)).sum

/-- Whether all teams of a stepped grid fit together (R399): placed in turn, or else by the most that each cluster holds. -/
def State.fitsTogether (s : State) (g : Grid) : Bool :=
  decide (g.teams ≤ s.roomFor g fun r => r.inTurn g.kernel 64) || decide (g.teams ≤ s.roomFor g fun r => r.count g.kernel 64)

/-- Whether a candidate can be placed now: one of a stepped grid with all the grid's teams. -/
def State.placeable (s : State) (c : Candidate) : Bool :=
  let g := s.grid c.grid
  if g.stepped && c.saved.isNone then s.fitsTogether g else (s.choose c true).isSome

/-- The candidates of every grid. -/
def State.candidates (s : State) : List Candidate := s.grids.flatMap fun p => s.candidatesOf p.1

/-- Whether a candidate comes first among those that can be placed; what a measured budget holds back holds back no other. -/
def State.isFirst (s : State) (c : Candidate) : Bool :=
  !(s.candidates.any fun x => decide (s.candRank x < s.candRank c) && !s.measuredLimits (s.grid x.grid).ctx && s.placeable x)

/-- How many teams of a stepped grid of n an empty module holds within a cluster share: what it holds in turn, when that is enough. -/
def emptyCapacity (k : Kernel) (share n : Nat) : Nat :=
  let qs := if share == 0 then 288 else min share 288
  let m := qs * ({} : Room).inTurn k 64
  if n ≤ m then m else qs * ({} : Room).count k 64

end Sys2Proof.Machine
end

