-- ==== Sys2Proof/Machine/Node.lean ====
section
/-!
DEFINITION. Node records and kernel descriptors (R392 to R394), what the graph walker reads (R395), the acceptance of a grid in the
order of R450, and how launches and walks end (R396, R397, R409).
-/

namespace Sys2Proof.Machine

/-! ### The walker's reads -/

/-- The number under which the graph walker keeps its translations, beside the module's 1,152 cores. -/
def walkerCore : Nat := 1152

/-- The parts of a range of a context's own address space, each with the right (a bit of the leaf) that the walker needs; a page that is
IP, or of another chip at CHIP reach, gives CLASS_OP (R397). DESIGN CHOICE (notes/assumptions/99): all pages of the range are translated
before any is checked, so that of two pages that fail differently PAGE_NOT_PRESENT of the one goes before the other's right or class;
R64 does not say which is the read's own fault; and a page whose leaf breaks R174 is read without a fault of its own, since R64 and R397 name
no REACH. -/
def State.walkSegs (s : State) (ctx va n right : Nat) (k : List Seg → State → EngR) : EngR :=
  let c := s.ctx ctx
  match s.range c walkerCore c.asid va n with
  | (.fail code va, s) => .fail code va s
  | (.away g w, s) => .wait (s.request g w)
  | (.ok segs, s) =>
    let bad := fun (g : Seg) =>
      if !pteBit g.leaf.pte right then some FaultCode.pageProt
      else if pteClass g.leaf.pte == 3 || (!pteHost g.leaf.pte && pteReach g.leaf.pte == 0 && chipOf g.pa != s.chip) then some .classOp
      else none
    match segs.findSome? fun g => (bad g).map fun code => (code, g.va) with
    | some (code, va) => .fail code va s
    | none => k segs s

/-- The number under which the walker reads for a walk (`Machine.engHostKey`). -/
def walkReader (ctx slot : Nat) : Nat := 2 ^ 50 + ctx * 2 ^ 7 + slot

/-- The slot in the number under which a launch that no walk makes reads. -/
def noSlot : Nat := 127

/-- The number under which a grid's argument block and digest area are read. -/
def gridReader (gr : Nat) : Nat := 2 ^ 51 + gr

/-- Bytes that the walker or a dispatcher reads with a right: 2 for a read, 4 for an executable page. -/
def State.walkRead (s : State) (who ctx va n : Nat) (right : Nat := 2) : EngR :=
  s.walkSegs ctx va n right fun segs s =>
    segs.foldl (fun (r : EngR) g => r.andThen fun d s =>
      (s.engReadSeg who walkerCore g.va g.pa g.len g.leaf.pte).andThen fun x s => .ok (d ++ x) s) (.ok [] s)

/-! ### Node records (Tables 17·3 and 17·4) -/

/-- A node record: its eight words. -/
structure Node where
  words : List Nat
  deriving DecidableEq, Repr

/-- Word i. -/
def Node.w (n : Node) (i : Nat) : Nat := n.words.getD i 0
/-- The kind: 0 END to 7 HOSTSIG. -/
def Node.kind (n : Node) : Nat := bits (n.w 0) 3 0
/-- GRID: the dispatch priority. -/
def Node.prio (n : Node) : Nat := bits (n.w 0) 5 4
/-- GRID: all teams resident at once. -/
def Node.stepped (n : Node) : Bool := bitAt (n.w 0) 6
/-- GRID: deterministic. -/
def Node.det (n : Node) : Bool := bitAt (n.w 0) 7
/-- GRID: the next node is visited once the grid is accepted. -/
def Node.nowait (n : Node) : Bool := bitAt (n.w 0) 8
/-- The length of the range list. -/
def Node.nranges (n : Node) : Nat := bits (n.w 0) 23 16
/-- GRID with det: logical clusters. -/
def Node.lclusters (n : Node) : Nat := bits (n.w 0) 33 24
/-- GRID with stepped: the step tag. -/
def Node.stag (n : Node) : Nat := bits (n.w 0) 49 34
/-- The address of the next node. -/
def Node.next (n : Node) : Nat := bits (n.w 1) 51 0
/-- The address of the range list. -/
def Node.ranges (n : Node) : Nat := bits (n.w 2) 51 0

/-- Whether a record's form breaks R394. -/
def Node.malformed (n : Node) : Bool :=
  let va := fun (i align : Nat) => decide (2 ^ 52 ≤ n.w i) || n.w i % align != 0
  let used := fun (is : List Nat) => is.any fun i => n.w i != 0
  7 < n.kind || bits (n.w 0) 15 9 != 0 || bits (n.w 0) 63 50 != 0 || va 1 64 || va 2 1 ||
    (n.kind != 1 && (bits (n.w 0) 8 4 != 0 || bits (n.w 0) 49 24 != 0)) ||
    (match n.kind with
     | 0 => used [3, 4, 5, 6, 7]
     | 1 => va 3 128 || va 4 1 || va 6 8 || va 7 64 || (n.lclusters != 0 && !n.det) || (n.stag != 0 && !n.stepped)
     | 2 => va 3 1 || va 4 1 || va 5 4096 || used [6, 7]
     | 3 => 2 ^ 14 ≤ n.w 3 || va 4 1 || va 5 1 || used [6, 7]
     | 4 | 5 => va 3 8 || 5 < n.w 5 || va 6 64 || used [7]
     | 6 => bits (n.w 3) 31 1 != 0 || used [4, 5, 6, 7]
     | _ => 2 ^ 11 ≤ n.w 4 || used [5, 6, 7])

/-! ### Kernel descriptors (Table 17·1) -/

/-- The kernel that a descriptor names. -/
def kernelOf (d : Nat) : Kernel :=
  { entry := BitVec.ofNat 52 (bits d 51 0), pgroups := bits d 69 64, pblocks := bits d 73 70, cgroups := bits d 79 74
    cblocks := bits d 83 80, nhandles := bits d 88 84, nuniforms := bits d 93 89, abanks := bits d 100 96, apair := bits d 127 112
    cbanks := bits d 132 128, cpair := bits d 159 144, wsub := bits d 166 160, wpair := bits d 255 192, isa := bits d 271 256
    arith := bits d 279 272
    feats := (List.range 4).map fun i => BitVec.ofNat 64 (bits d (383 + 64 * i) (320 + 64 * i)) }

/-- Whether a descriptor has a reserved field that is not zero or a field outside its limits (R392). -/
def descriptorBad (d : Nat) : Bool :=
  let k := kernelOf d
  let t := k.team
  bits d 63 52 != 0 || bits d 95 94 != 0 || bits d 111 101 != 0 || bits d 143 133 != 0 || bits d 191 167 != 0 ||
    bits d 319 280 != 0 || bits d 1023 576 != 0 || bits d 1 0 != 0 ||
    k.pgroups == 0 || 32 < k.pgroups + k.cgroups || k.pblocks == 0 || 12 < k.pblocks || 12 < k.cblocks ||
    (k.cblocks == 0) != (k.cgroups == 0) || 16 < k.nhandles || 16 < k.nuniforms ||
    2 ^ k.abanks ≤ k.apair || 2 ^ k.cbanks ≤ k.cpair || 2 ^ k.wsub ≤ k.wpair || 16 < t.needA || 16 < t.needC || 64 < t.needW

/-- Whether the part refuses a kernel's version, level or features (R2, R4, R393). -/
def State.lacks (s : State) (k : Kernel) : Bool :=
  k.isa / 2 ^ 8 != s.cfgVal 0x05 / 2 ^ 8 || s.cfgVal 0x05 % 2 ^ 8 < k.isa % 2 ^ 8 || s.cfgVal 0x00 < k.arith ||
    (List.range 4).any fun i => (k.feats.getD i 0) &&& ~~~(BitVec.ofNat 64 (s.cfgModule (i + 1))) != 0

/-- Whether an argument block's header is refused for a kernel (R63, R64). DESIGN CHOICE (notes/assumptions/99): a header with n or m above
16, which Table 3·3 does not admit and R64's list does not name, is refused too. -/
def argsBad (k : Kernel) (h : Nat) : Bool :=
  let n := bits h 23 16
  let m := bits h 31 24
  bits h 47 32 != 0x0100 || bits h 127 48 != 0 || 16 < n || 16 < m || n < k.nhandles || m < k.nuniforms ||
    bits h 15 0 < 16 + 16 * n + 8 * m

/-! ### Acceptance (R450) -/

/-- What the acceptance of a GRID node gives. -/
inductive Accepted where
  | ok (g : Grid) (s : State)
  | refused (c : FaultCode) (s : State)
  | wait (s : State)
  deriving DecidableEq, Repr

/-- Continues an acceptance with bytes read. -/
def EngR.into (r : EngR) (k : List Byte → State → Accepted) : Accepted :=
  match r with
  | .ok d s => k d s
  | .fail c _ s => .refused c s
  | .wait s => .wait s

/-- Whether n bytes lie within a handle of a context's own address space. -/
def Ctx.within (c : Ctx) (h : HandleBits) (va n : Nat) : Bool :=
  handleAsid h == c.asid && decide (vaOf h 0 ≤ va) && decide (va + n ≤ vaOf h 0 + handleLen h)

/-- The checks of R450 from the second on, on a GRID node of the right form; `h` is the handle of gspawn or glaunch (R408). -/
def State.acceptGrid (s : State) (ctx nodeVa : Nat) (walk : Option Nat) (h : Option HandleBits) (n : Node) : Accepted :=
  let c := s.ctx ctx
  let outside := fun va len => match h with
    | some h => !c.within h va len
    | none => false
  if (h.map fun h => !handleHas h 2).getD false then .refused .handleRights s
  else if outside (n.w 3) 128 then .refused .handleBounds s
  else
    (s.walkRead (walkReader ctx (walk.getD noSlot)) ctx (n.w 3) 128 4).into fun d s =>
      let k := kernelOf (ofBytes d)
      if outside k.entry.toNat 1 then .refused .handleBounds s
      else
        if descriptorBad (ofBytes d) then .refused .engineRecord s
        else
          (s.walkSegs ctx k.entry.toNat 1 4 fun _ s => .ok [] s).into fun _ s =>
            if s.lacks k then .refused .launchFeature s
            else if n.det && (n.stepped || n.lclusters == 0 || 288 < n.lclusters) then .refused .detSignature s
            else
              (s.walkRead (walkReader ctx (walk.getD noSlot)) ctx (n.w 4) 16).into fun a s =>
                let teams := bits (n.w 5) 31 0 + 1
                if argsBad k (ofBytes a) then .refused .launchArgs s
                else if n.stepped && emptyCapacity k ((s.limitsOf ctx).headD 0) teams < teams then .refused .engineRecord s
                else
                  .ok
                    { ctx := ctx, launch := c.launches, kernel := k, nodeVa := nodeVa, argVa := n.w 4, teams := teams
                      seed := bits (n.w 5) 63 32, bitmapVa := n.w 6, digestVa := n.w 7, prio := n.prio, stepped := n.stepped
                      det := n.det, nowait := n.nowait, lclusters := n.lclusters, stag := n.stag, walk := walk
                      nhandles := bits (ofBytes a) 23 16, nuniforms := bits (ofBytes a) 31 24 } s

/-! ### Status words (Table 17·10) -/

/-- The number of a launch state. -/
def LaunchState.num : LaunchState → Nat
  | .queued => 0
  | .running => 1
  | .complete => 2
  | .failed => 3
  | .cancelled => 4
  | .killed => 5

/-- A launch status word. -/
def launchWord (st : LaunchState) (code retired : Nat) : Word :=
  BitVec.ofNat 64 (st.num + (if st == .failed then code * 2 ^ 8 else 0) + min retired (2 ^ 32 - 1) * 2 ^ 32)

/-- The word of a ticket that names nothing live or kept. -/
def staleLaunch : Word := 8

/-- The ticket of a walk slot (R408). -/
def walkTicket (slot : Nat) : Nat := 2 ^ 32 + slot

/-- The teams that have retired in the grids of a walk. -/
def State.walkRetired (s : State) (w : Walk) : Nat := (w.grids.map fun g => (s.grid g).retired.length).sum

/-- Whether what a ticket names has ended, and its status word as it stands (R409). -/
def State.ticketWord (s : State) (ctx t : Nat) : Bool × Word :=
  let c := s.ctx ctx
  if t < 2 ^ 32 then
    let live := List.find? (fun p : Nat × Grid =>
      p.2.ctx == ctx && p.2.launch % 2 ^ 32 == t && (p.2.state == .queued || p.2.state == .running)) s.grids
    match live, c.kept.reverse.find? fun k => k.1 % 2 ^ 32 == t with
    | some (_, g), _ => (false, launchWord g.state g.code g.retired.length)
    | none, some (_, st, code, r) => (true, launchWord st code r)
    | none, none => (true, staleLaunch)
  else
    match if t < walkTicket 16 then c.walks.find? (t - walkTicket 0) else none with
    | some w => (w.state == .ended, launchWord w.status w.code (s.walkRetired w))
    | none => (true, staleLaunch)

/-- A launch or walk has ended: each thread that waits for its ticket keeps the final word. The condition of a gwait holds the context,
the lanes that have their words, and the 32 words. -/
def State.noteEnded (s : State) (ctx t : Nat) (word : Word) : State :=
  { s with deferred := s.deferred.map fun (p : Nat × Deferred) =>
      match p.2.wait with
      | .condition (.gwait f ls) (c :: m :: ws) =>
        if c != ctx then p
        else
          let mine := fun l => ((p.2.v.headD (0, [])).2.at l).toNat == t && p.2.lanes.has l && !bitAt m l
          let m' := (List.range 32).foldl (fun m l => if mine l then m + 2 ^ l else m) m
          (p.1, { p.2 with wait := .condition (.gwait f ls) (c :: m' :: ws.zipIdx.map fun x => if mine x.2 then word.toNat else x.1) })
      | _ => p }

/-! ### The end of launches and walks -/

/-- Keeps the final status of a launch: the last 256 of a context (R409). -/
def State.keepLaunch (s : State) (ctx launch : Nat) (st : LaunchState) (code retired : Nat) : State :=
  (s.modCtx ctx fun c =>
    let l := c.kept ++ [(launch, st, code, retired)]
    { c with kept := l.drop (l.length - 256) }).noteEnded ctx (launch % 2 ^ 32) (launchWord st code retired)

/-- Changes a walk that is there. -/
def State.modWalk (s : State) (ctx slot : Nat) (f : Walk → Walk) : State :=
  s.modCtx ctx fun c => { c with walks := c.walks.modify slot f }

/-- A walk's slot is free, with the walk's final status. -/
def State.walkOver (s : State) (ctx slot : Nat) (st : LaunchState) (code : Nat) : State :=
  match (s.ctx ctx).walks.find? slot with
  | none => s
  | some w =>
    let s := s.modWalk ctx slot fun w => { w with state := .ended, wait := none, status := st, code := code, record := none, listed := false }
    s.noteEnded ctx (walkTicket slot) (launchWord st code (s.walkRetired w))

/-- A walk ends with an event (Table 17·5, Table 18·5), which it waits with when the event area takes none (R420). -/
def State.endWalk (s : State) (ctx slot : Nat) (st : LaunchState) (kind code : Nat) : State :=
  match (s.ctx ctx).walks.find? slot with
  | none => s
  | some w =>
    let waits := (s.ctx ctx).eventWaits
    let s := (s.engDone (walkReader ctx slot)).hostEvent ctx { kind := kind, code := code, slot := slot, value := w.node }
    if waits then s.modWalk ctx slot fun w => { w with state := .waiting, wait := some (.ending st code), record := none, listed := false }
    else s.walkOver ctx slot st code

/-- The node that a walk visits or waits in has failed (R397). -/
def State.nodeFails (s : State) (ctx slot : Nat) (code : Nat) : State := s.endWalk ctx slot .failed 3 code

/-- The node that a walk visits or waits in has completed: the walk goes on to its successor, or is held before it (R396). -/
def State.nodeDone (s : State) (ctx slot : Nat) : State :=
  (s.engDone (walkReader ctx slot)).modWalk ctx slot fun w => { w with
    node := w.next, wait := none, record := none, listed := false
    state := match w.state with
      | .held _ => .held true
      | .ended => .ended
      | _ => .visiting }

/-- What a waiting walk waits for; none unless it waits, held or not. -/
def State.walkWait (s : State) (ctx slot : Nat) : Option WalkWait :=
  match (s.ctx ctx).walks.find? slot with
  | some w => if w.state == .waiting || w.state == .held false then w.wait else none
  | none => none

/-- A launch that was accepted has ended: its status is kept, and the GRID node that waits for it completes, or fails with a code
(R396). -/
def State.endGrid (s : State) (gr : Nat) : State :=
  let g := s.grid gr
  let st := if g.code != 0 then LaunchState.failed else if g.cancelled then .cancelled else .complete
  let s := s.modGrid gr fun g => { g with state := st }
  let s := s.keepLaunch g.ctx g.launch st g.code g.retired.length
  match g.walk with
  | some slot =>
    if s.walkWait g.ctx slot == some (.grid gr) then
      if st == .failed then s.nodeFails g.ctx slot g.code else s.nodeDone g.ctx slot
    else s
  | none => s

/-- What a launch does: its grid is queued, it is refused, or its checks wait for memory. -/
inductive Launched where
  | started (gr : Nat) (s : State)
  | refused (c : FaultCode) (s : State)
  | wait (s : State)
  deriving DecidableEq, Repr

/-- Launches a GRID node: it takes the context's next launch number, whether accepted or refused (R399, R409). -/
def State.launchGrid (s : State) (ctx nodeVa : Nat) (walk : Option Nat) (h : Option HandleBits) (n : Node) : Launched :=
  let num := (s.ctx ctx).launches
  let who := walkReader ctx (walk.getD noSlot)
  let count := fun (s : State) => s.modCtx ctx fun c => { c with launches := c.launches + 1 }
  match s.acceptGrid ctx nodeVa walk h n with
  | .wait s => .wait s
  | .refused c s => .refused c (((count s).keepLaunch ctx num .failed c.num 0).engDone who)
  | .ok g s =>
    let s := (count s).engDone who
    .started s.nextId { s with nextId := s.nextId + 1, grids := s.grids.insert s.nextId { g with order := s.nextId } }

end Sys2Proof.Machine
end

