-- ==== Sys2Proof/Machine/Teams.lean ====
section
/-!
DEFINITION. Teams from placement to retirement: the start of a team (R64, R65), the resumption of a saved one (R382), dispatch (R399,
R400, R405), the starvation swap (R402), retirement (R81, R396), and the completion of a grid with its end digest (R396, R406).
-/

namespace Sys2Proof.Machine

/-! ### The start of a team (R64, R65, R399) -/

/-- The lowest free group slot of a core. -/
def State.freeSlot (s : State) (core : Nat) : Nat :=
  let used := (s.groups.filter fun p => p.2.core == core && p.2.resident && !p.2.retired).map fun p => p.2.slot
  ((List.range 16).find? fun i => !used.contains i).getD 0

/-- The registers that an argument block loads: the handles, the uniforms, and whether a seal failed (R64). -/
def loadArgs (c : Ctx) (n m : Nat) (bs : List Byte) : SMap HandleBits × SMap Word × Bool :=
  let word := fun i => ofBytes ((bs.drop i).take 8)
  let hs := (List.range n).map fun i => (i, openSeal c (word (16 + 16 * i)) (word (24 + 16 * i)))
  (hs.foldl (fun (h : SMap HandleBits) p => h.put p.1 (p.2.getD 0) 0) [],
   (List.range m).foldl (fun (g : SMap Word) j => g.put j (BitVec.ofNat 64 (word (16 + 16 * n + 8 * j))) 0) [],
   hs.any fun p => p.2.isNone)

/-- A fault raised at a team's first clause in a group of it (R64). DESIGN CHOICE (notes/assumptions/99): it names all 32 lanes, with the
failing page's address when the read failed and 0 when a seal did; no lane's access caused it, and R64 gives neither. -/
def firstClauseFault (entry : BitVec 52) (code : FaultCode) (va : Nat) : FaultRec :=
  { code := code, pc := entry, deferred := true, lanes := 0xFFFFFFFF, va := va, bundle := 0xFFFFFFFF }

/-- A group of a team that starts, every thread at the kernel's first clause (R65). -/
def startGroup (k : Kernel) (tid i core slot : Nat) (h : SMap HandleBits) (g : SMap Word) (fault : Option FaultRec) : Group :=
  { team := tid, index := i, role := decide (k.pgroups ≤ i), rindex := if i < k.pgroups then i else i - k.pgroups, core := core
    slot := slot, blocks := if i < k.pgroups then k.pblocks else k.cblocks, h := h, g := g
    lfsr := 0xACE1 ^^^ BitVec.ofNat 16 i, queue := fault.toList, threads := List.replicate 32 { pc := k.entry } }

/-- The argument block of a grid, as the dispatcher reads it for a team that starts. DESIGN CHOICE (notes/assumptions/99): the 16 bytes, the
handles and the uniforms are read, and bytes of the block past them are not, so that they cannot fail; R64 does not say whether they
belong to the read. -/
def State.argBlock (s : State) (gr : Nat) : EngR :=
  let g := s.grid gr
  s.walkRead (gridReader gr) g.ctx g.argVa (16 + 16 * g.nhandles + 8 * g.nuniforms)

/-- Starts a new team of a grid with its groups on the given cores; it waits while its argument block cannot be read yet. -/
def State.startTeam (s : State) (gr idx : Nat) (cores : List Nat) : EngR :=
  let g := s.grid gr
  let k := g.kernel
  let c := s.ctx g.ctx
  let go := fun (s : State) (h : SMap HandleBits) (u : SMap Word) (fault : Option FaultRec) =>
    let tid := s.nextId
    let q := cores.headD 0 / 4
    let gids := (List.range cores.length).map (· + (tid + 1))
    let s := { s with
      nextId := tid + 1 + cores.length
      teams := s.teams.insert tid
        { k.team with
          ctx := g.ctx, grid := gr, index := idx, cluster := q, lcluster := if g.det then idx % g.lclusters else q
          prio := s.priorityOf g, order := tid, groups := gids } }
    let s := cores.zipIdx.foldl (fun (s : State) p =>
      { s with groups := s.groups.insert (tid + 1 + p.2) (startGroup k tid p.2 p.1 (s.freeSlot p.1) h u fault) }) s
    let s := s.modGrid gr fun g => { g with placed := g.placed + 1, state := .running }
    let s := s.acquireAll q 2
    EngR.ok [] (gids.foldl (fun (s : State) gid => s.form gid) s)
  match s.argBlock gr with
  | .wait s => .wait s
  | .fail code va s => go s [] [] (some (firstClauseFault k.entry code va))
  | .ok bs s =>
    let (h, u, bad) := loadArgs c g.nhandles g.nuniforms bs
    go s h u (if bad then some (firstClauseFault k.entry .handleSeal 0) else none)

/-! ### The resumption of a saved team (R270, R280, R306, R378, R382) -/

/-- The core of a cluster that has the place of a core in its own. -/
def coreAt (q core : Nat) : Nat := q * 4 + core % 4

/-- Saved matrix work placed again on a cluster, as the `order`-th placement and those after it. -/
def Work.resume (w : Work) (q now order : Nat) : Work :=
  { w with
    cluster := q, core := coreAt q w.core, since := now, placed := order, state := if w.kind == .entry && w.done != 0 then 1 else 0
    members := w.members.map fun m => { m with core := coreAt q m.core } }

/-- A command of a team that resumes on a cluster: a saved copy command starts again, and its status record is to say so (R298). -/
def Command.resume (c : Command) (q : Nat) : Command :=
  let c := { c with core := coreAt q c.core }
  if c.state == 4 then { c with state := 0, progress := 0, owed := true } else c

/-- A deferred event of a team that resumes on a cluster. -/
def Deferred.resume (d : Deferred) (q : Nat) : Deferred :=
  match d.wait with
  | .matrix _ id => { d with wait := .matrix q id }
  | _ => d

/-- A saved team takes its place on a cluster: its groups form bundles again, its matrix entries are placed in their old order and go on
at their next block, its copy commands start again from their first row, and its waits are parked afresh (R264). Its cluster's clock passes
every stamp of the module and the floor, so that what it releases covers the stores that it made before, on this module or another (R221). -/
def State.resumeTeam (s : State) (tid q : Nat) : State :=
  let t := s.team tid
  let c := s.ctx t.ctx
  let r := s.recordOf t.ctx
  if recordBad r c.q then s.askKill t.ctx { code := .ctxImage, cause := 5 }
  else
    let mine := fun (gid : Nat) => t.groups.contains gid
    let theirs := (s.works.filter fun p => p.2.team == tid).map (·.2.placed)
    let s := s.modCtx t.ctx fun c => { c with record := r }
    let s := t.groups.foldl (fun (s : State) gid =>
      let core := coreAt q (s.group gid).core
      let slot := s.freeSlot core
      s.modGroup gid fun g => { g with core := core, slot := slot, resident := true, bundles := [] }) s
    let s := { s with
      works := s.works.map fun (p : Nat × Work) => (p.1, if p.2.team == tid then p.2.resume q s.clock (s.nextId + (theirs.filter (· < p.2.placed)).length) else p.2)
      commands := s.commands.map fun (p : Nat × Command) => (p.1, if p.2.team == tid then p.2.resume q else p.2)
      deferred := s.deferred.map fun (p : Nat × Deferred) => (p.1, if mine p.2.gid then p.2.resume q else p.2)
      accesses := s.accesses.map fun (a : Access) => if mine a.gid then { a with core := coreAt q a.core, since := s.clock } else a }
    let s := s.modTeam tid fun t =>
      { t with status := .resident, saving := false, cluster := q, order := s.nextId + theirs.length
               lcluster := if (s.grid t.grid).det then t.lcluster else q }
    let s := { s with nextId := s.nextId + theirs.length + 1 }.acquireAll q 3
    let s := s.parkAgain fun a => mine a.gid
    t.groups.foldl (fun (s : State) gid => s.form gid) s

/-! ### Dispatch (R399, R400, R405) -/

/-- Whether a new team of a kernel has its groups on cores of one cluster with room for it. -/
def State.coresFit (s : State) (k : Kernel) (cores : List Nat) : Bool :=
  let q := cores.headD 0 / 4
  cores.length == k.pgroups + k.cgroups && (cores.all fun c => c / 4 == q) && decide (q < 288) && (s.room q).fits (k.demand cores)

/-- Places one team where it fits. -/
def State.placeOne (s : State) (c : Candidate) (cores : List Nat) : EngR :=
  let q := cores.headD 0 / 4
  if !s.shareAllows (s.grid c.grid).ctx q then .wait s
  else
    match c.saved with
    | some tid =>
      if q < 288 && cores == s.savedCores tid q && (s.team tid).mayResume q && (s.room q).fits (s.savedDemand tid) then
        .ok [] (s.resumeTeam tid q)
      else .wait s
    | none => if s.coresFit (s.grid c.grid).kernel cores then s.startTeam c.grid c.index cores else .wait s

/-- Places the teams of a stepped grid together, the cores of one after those of the other: all of them, or none. -/
def State.placeAll (s : State) (gr n : Nat) (cores : List Nat) : EngR :=
  let per := (s.grid gr).kernel.pgroups + (s.grid gr).kernel.cgroups
  (List.range n).foldl (fun (r : EngR) i => r.andThen fun _ s =>
    s.placeOne { grid := gr, index := i } ((cores.drop (per * i)).take per)) (.ok [] s)

/-- A placement of a grid takes place whole, and then its argument block has been read, or not at all. -/
def State.orElse (s : State) (gr : Nat) (r : EngR) : State :=
  match r with
  | .ok _ s' => s'.engDone (gridReader gr)
  | _ => s

/-- Goes on once the argument block that a candidate needs can be read, or has failed; until then what the read has asked for stands. -/
def State.whenArgs (s : State) (c : Candidate) (k : State → State) : State :=
  if c.saved.isSome then k s
  else
    match s.argBlock c.grid with
    | .wait s => s
    | _ => k s

/-- Whether the dispatchers withhold teams, for power or for temperature (R15, R430). R15 names new teams; the resumption of a saved team
is withheld too (DESIGN CHOICE, notes/assumptions/101). -/
def State.withheld (s : State) : Bool := s.gate != 0 || bitAt (s.cfgVal 0x5E) 8

/-- TEAM_DISPATCH: the candidate that comes first among those that can be placed takes its place on cores of a cluster (R399). `cores`
lists the core of every group in order; a stepped grid's teams follow one another. -/
def execTeamDispatch (grid team cluster : Nat) (cores : List Nat) (s : State) : Result :=
  match (s.candidatesOf grid).find? fun c => c.index == team with
  | none => .next s
  | some c =>
    if s.withheld || cluster != cores.headD 0 / 4 || !s.isFirst c then .next s
    else
      let ctx := (s.grid grid).ctx
      let (ok, s) := s.measuredAllows ctx
      if !ok then .next s
      else if (s.grid grid).stepped && c.saved.isNone then
        .next (s.whenArgs c fun s => s.orElse grid (s.placeAll grid (s.grid grid).teams cores))
      else .next (s.whenArgs c fun s => s.orElse grid (s.placeOne c cores))

/-! ### The starvation swap (R402) -/

/-- The resident teams of a grid, the most recently placed first. -/
def State.residentOf (s : State) (gr : Nat) : List (Nat × Team) :=
  (s.teams.filter fun p => p.2.grid == gr && p.2.status == .resident).mergeSort fun a b => b.2.order ≤ a.2.order

/-- The waiting team of a grid with the lowest index. -/
def State.lowestWaiting (s : State) (gr : Nat) : Option Candidate :=
  (s.candidatesOf gr).foldl (fun (b : Option Candidate) c => match b with
    | some x => if c.index < x.index then some c else b
    | none => some c) none

/-- Whether the conditions of a swap hold now: every thread of the grid's resident teams that has not exited is blocked, and a team
waits for room and not for budget. -/
def State.starves (s : State) (gr : Nat) : Bool :=
  let g := s.grid gr
  let rs := s.residentOf gr
  let stuck := fun (t : Thread) => match t.status with
    | .exited | .blocked _ => true
    | _ => false
  !g.stepped && !g.det && !rs.isEmpty &&
    (rs.all fun p => (s.liveGroups p.2).all fun g => g.threads.all stuck && !g.mustTake) &&
    match s.lowestWaiting gr with
    | some c => (s.choose c false).isNone
    | none => false

/-- Keeps for each grid the time since which the conditions of a swap have held. -/
def State.watchStarvation (s : State) : State :=
  { s with grids := s.grids.map fun (p : Nat × Grid) =>
      (p.1, { p.2 with starvedSince :=
        if (p.2.state == .running) && s.starves p.1 then some (p.2.starvedSince.getD s.clock) else none }) }

/-- The most recently placed resident team of a grid whose place a waiting team can take, with the cores it would take. -/
def State.swapVictim (s : State) (gr : Nat) (c : Candidate) : Option (Nat × List Nat) :=
  (s.residentOf gr).findSome? fun p =>
    (s.coresFor c p.2.cluster (s.roomWithout p.2.cluster (some p.1))).map fun cores => (p.1, cores)

/-- GRID_STARVE in every resident group of a grid (R74, R402). No clause causes it: it names clause address 0 and the lanes that have not
exited (DESIGN CHOICE, notes/assumptions/100). -/
def State.starveFault (s : State) (gr : Nat) : State :=
  ((s.residentOf gr).flatMap fun p => p.2.groups).foldl (fun (s : State) gid =>
    let g := s.group gid
    if g.retired then s
    else
      s.queueFault gid { code := .gridStarve, pc := 0, deferred := true, lane := lowestLane (~~~g.exitedLanes), lanes := ~~~g.exitedLanes
                         bundle := ~~~g.exitedLanes, inHandler := g.inHandler }) s

/-- STARVATION_SWAP (R402): after STARVE_WAIT the victim is force-saved and the waiting team placed at once; without a victim the grid
faults. While teams are withheld none is placed (R15). -/
def execStarvationSwap (grid : Nat) (s : State) : Result :=
  match (s.grid grid).starvedSince, s.lowestWaiting grid with
  | some t, some c =>
    if s.clock < t + s.cfgVal 0x30 || s.withheld || !s.starves grid then .next s
    else
      match s.swapVictim grid c with
      | none => .next ((s.starveFault grid).modGrid grid fun g => { g with starvedSince := none })
      | some (victim, cores) =>
        if !s.canSave victim then .next s
        else
          .next (s.whenArgs c fun s =>
            match (s.saveTeam victim).placeOne c cores with
            | .ok _ s => (s.engDone (gridReader grid)).modGrid grid fun g => { g with starvedSince := none }
            | _ => s)
  | _, _ => .next s

/-! ### Retirement (R81, R396, R405) -/

/-- The write of a retired team's bit in its grid's completion bitmap, by red.or at CHIP scope (R396): a translation that fails gives the
grid its code. None while the walk must wait for another chip. -/
def State.setBitmap (s : State) (gr idx : Nat) : Option State × State :=
  let g := s.grid gr
  let c := s.ctx g.ctx
  let va := g.bitmapVa + 8 * (idx / 64)
  let fail := fun (s : State) (code : FaultCode) =>
    (some (s.modGrid gr fun g => { g with code := if g.code == 0 then code.num else g.code }), s)
  if g.bitmapVa == 0 then (some s, s)
  else
    match s.translateStore c walkerCore c.asid va with
    | (.away gn w, s) => (none, s.request gn w)
    | (.absent, s) => fail s .pageNotPresent
    | (.malformed, s) => fail s .pageProt
    | (.leaf l pa, s) =>
      match (s.checkLeaf l pa walkerCore .red true 2).or
          (if pteHost l.pte then s.hostAtomicCheck pa 2 2 false else none) with
      | some code => fail s code
      | none =>
        (some ((s.setDirty c walkerCore c.asid va l).submit
          { id := 0, gid := bitmapGid + gr, lane := 0, core := walkerCore, pc := 0, idx := 0, va := va, pa := pa, size := 8, pte := l.pte
            op := .atomic 2 2 false [2 ^ (idx % 64)], scope := 2 }), s)

/-- Whether a group can retire: all its threads have exited, its slots are zero, and no fault is left to take (R81). -/
def State.mayRetire (s : State) (gid : Nat) : Bool :=
  let g := s.group gid
  let st := (s.ctx (s.ctxOf gid)).status
  g.resident && !g.retired && (g.threads.all fun t => t.status == .exited) && (List.range 6).all (fun i => g.sb.get i 0 == 0) &&
    g.queue.isEmpty && g.precise.isEmpty && g.taking.isNone && !g.inHandler && !(s.issuing.any fun i => i.gid == gid) &&
    (st == .live || st == .draining) && (s.ctx (s.ctxOf gid)).kills.isEmpty

/-- A team's last group has retired: its windows and barriers are free, and its grid counts it. -/
def State.retireTeam (s : State) (tid : Nat) : State :=
  let t := s.team tid
  let s := (s.keepMarks tid).modTeam tid fun t => { t with status := .retired, barriers := [], bufs := [], swapped := [], saving := false }
  let s := s.modGrid t.grid fun g => { g with retired := g.retired ++ [t.index] }
  let s := s.modCtx t.ctx fun c =>
    { c with left := c.left.insert t.cluster s.clock, drainRetired := if c.status == .draining then c.drainRetired + 1 else c.drainRetired }
  let s := if (s.grid t.grid).stag != 0 then (s.stepNotify t.grid).podCheck t.grid else s
  s.drainCheck t.ctx

/-- GROUP_RETIRE (R81): the group's blocks are free; the team retires with its last group, once its bit can be written. -/
def execGroupRetire (gid : Nat) (s : State) : Result :=
  if !s.mayRetire gid then .next s
  else
    let tid := (s.group gid).team
    let t := s.team tid
    let last := t.groups.all fun x => x == gid || (s.group x).retired
    let retire := fun (s : State) =>
      (((s.modGroup gid fun g => { g with retired := true, bundles := [] }).latchMemberRetired gid).barriersComplete tid)
    if !last then .next (retire s)
    else
      match s.setBitmap t.grid t.index with
      | (none, s) => .next s
      | (some s, _) => .next ((retire s).retireTeam tid)

/-! ### The end of a grid (R396, R406, R407) -/

/-- The code that a grid ends with is the first that it meets. -/
def State.gridCode (s : State) (gr : Nat) (code : FaultCode) : State :=
  s.modGrid gr fun g => { g with code := if g.code == 0 then code.num else g.code }

/-- Whether no team of a grid will run on. -/
def State.teamsDone (s : State) (gr : Nat) : Bool :=
  let g := s.grid gr
  if g.cancelled then !(s.teams.any fun p => p.2.grid == gr && p.2.status != .retired) else g.retired.length == g.teams

/-- Whether a grid awaits its end digest (R406). -/
def Grid.wantsDigest (g : Grid) : Bool := g.digestVa != 0 && !g.digestDone && !g.cancelled

/-- GRID_END_DIGEST: after every team has retired and the writes are performed, the digest area is read and the digest engine takes its
entries (R406). -/
def execGridEndDigest (grid : Nat) (s : State) : Result :=
  let g := s.grid grid
  let busy := s.commands.any fun p => p.2.kind == .gridDigest && p.2.live && p.2.words.head? == some grid
  let done := fun (s : State) => s.engDone (gridReader grid)
  let stop := fun (s : State) (code : FaultCode) =>
    (Host.Outcome.next (((done s).gridCode grid code).modGrid grid fun g => { g with digestDone := true }) : Result)
  if g.state != .running || !g.wantsDigest || !s.teamsDone grid || !s.gridPerformed grid || busy || 16 ≤ s.digestsHeld.length then .next s
  else
    match s.walkRead (gridReader grid) g.ctx g.digestVa 16 with
    | .wait s => .next s
    | .fail code _ s => stop s code
    | .ok hd s =>
      let n := bits (ofBytes hd) 6 0
      if n == 0 || 64 < n || ofBytes hd / 2 ^ 7 != 0 then stop s .engineRecord
      else
        match s.walkRead (gridReader grid) g.ctx g.digestVa (16 + 16 * n) with
        | .wait s => .next s
        | .fail code _ s => stop s code
        | .ok bs s =>
          let es := digestEntries n bs
          if !entriesOk es then stop s .engineRecord
          else
            .next ((done s).addCommand
              { kind := .gridDigest, ctx := g.ctx, team := 2 ^ 40, gid := 2 ^ 40, core := walkerCore
                words := grid :: es.flatMap fun p => [p.1, p.2] }).2

/-- Runs a grid-end digest: the entries' bytes in ascending order of address are hashed, and the digest is written behind them. -/
def State.runGridDigest (s : State) (id : Nat) (c : Command) : State :=
  let gr := c.words.headD 0
  let g := s.grid gr
  let es := pairsOf (c.words.drop 1)
  let read := (es.foldr insertRange []).foldl (fun (x : EngR) p => x.andThen fun d s =>
    (s.walkRead c.reader g.ctx p.1 p.2).andThen fun b s => .ok (d ++ b) s) (.ok [] s)
  let x := s.ctx g.ctx
  let r := read.andThen fun m s => s.engWrite x walkerCore x.asid (g.digestVa + 16 + 16 * es.length) .record true true (sha256 m)
  let finish := fun (s : State) (st : Nat) => ((s.engDone c.reader).setCommand id { c with state := st }).modGrid gr fun g => { g with digestDone := true }
  match r with
  | .ok _ s => finish s 2
  | .fail code _ s => finish (s.gridCode gr code) 3
  | .wait s => s.setCommand id { c with state := 1 }

/-- DIGEST_COMPLETION: the digest engine finishes the oldest command that it holds (R309, R310). -/
def execDigestCompletion (s : State) : Result :=
  match s.digestsHeld with
  | [] => .next s
  | (id, c) :: _ => .next (if c.kind == .gridDigest then s.runGridDigest id c else s.runDigest id c)

/-- GRID_COMPLETE (R396): every team has retired, the end digest is written and the grid's writes are performed; a cancelled grid ends
when none of its teams runs on. -/
def execGridComplete (grid : Nat) (s : State) : Result :=
  let g := s.grid grid
  if (g.state == .queued || g.state == .running) && s.teamsDone grid && !g.wantsDigest && s.gridPerformed grid then
    .next (s.endGrid grid)
  else .next s

/-- A saved team is discarded with what it holds. -/
def State.discardTeam (s : State) (tid : Nat) : State :=
  let t := s.team tid
  let gs := t.groups
  let s : State := s.keepMarks tid
  let s := { s with
    works := s.works.filter fun p => p.2.team != tid
    commands := s.commands.filter fun p => !(p.2.team == tid && p.2.state == 4)
    deferred := s.deferred.filter fun p => !gs.contains p.2.gid
    accesses := s.accesses.filter fun a => !gs.contains a.gid }
  let s := gs.foldl (fun (s : State) gid => s.modGroup gid fun g => { g with retired := true }) s
  s.modTeam tid fun t => { t with status := .retired, barriers := [], bufs := [], swapped := [] }

/-- A grid is cancelled: no further team is placed, saved ones are discarded, and resident ones run to their end (R409). -/
def State.cancelGrid (s : State) (gr : Nat) : State :=
  let s := s.modGrid gr fun g => { g with cancelled := true }
  (s.savedCandidates gr).foldl (fun (s : State) c => match c.saved with
    | some tid => s.discardTeam tid
    | none => s) s

end Sys2Proof.Machine
end

