-- ==== Sys2Proof/Machine/Walk.lean ====
section
/-!
DEFINITION. Walks (R395 to R398): the start of one by the host, the visit of a node of each kind, and the completion of the node that
a walk waits in.
-/

namespace Sys2Proof.Machine

/-- The contexts of a grant word (R414). -/
def grantOf (w : Nat) : List Nat := (List.range (bits w 20 10)).map (· + bits w 9 0)

/-- The context that a host write to a control block or a start register reaches: the function that makes it is below the 2^10 places of each in
the operand, the physical function first (DESIGN CHOICE: the operand's form, notes/assumptions/124). A virtual function has the contexts of
its grant in turn, and no other (R414). -/
def State.windowCtx (s : State) (n : Nat) : Option Nat :=
  if n < 1024 then some n
  else if n < 1024 * 17 then ((grantOf (s.grants.get (n / 1024 - 1) 0).toNat)[n % 1024]?).filter (· < 1024)
  else none

/-- WALK_START_WRITE (R398, R414, R416): a write to the start register of a slot starts a walk, held when the context does not run; a write
that the rule ignores, or that a virtual function makes outside its grant, is counted in HOST_ERR. -/
def execWalkStartWrite (ctx slot : Nat) (value : BitVec 64) (s : State) : Result :=
  match s.windowCtx ctx with
  | none => .next s.hostErr
  | some ctx =>
    let c := s.ctx ctx
    let live := (c.walks.find? slot).any fun w => w.state != .ended
    let va := value.toNat
    if 16 ≤ slot || live || c.status == .free || c.status == .killed || va % 64 != 0 || 2 ^ 52 ≤ va then .next s.hostErr
    else
      .next (s.modCtx ctx fun c =>
        { c with walks := c.walks.insert slot { node := va, state := if c.status == .live then .visiting else .held true } })

/-! ### The node that a walk waits in (R395, R396) -/

/-- The command of a COPY node: the source's bytes go to the shadow side of the destination; the engine of cluster 0 runs it. -/
def walkCopy (ctx slot asid : Nat) (n : Node) : Command :=
  { kind := .copy, ctx := ctx, team := 2 ^ 40, gid := 2 ^ 40, words := [n.w 3, n.w 4, n.w 5], walk := some (ctx, slot)
    reads := [memRange asid (n.w 3) (n.w 5)], writes := [memRange asid (n.w 4) (n.w 5)] }

/-- The publish that follows the copy of a COPY node. -/
def walkPublish (asid : Nat) (c : Command) : Command :=
  { c with kind := .publish, state := 0, progress := 0, words := [], n := [3, c.words.getD 1 0, c.words.getD 2 0, asid], reads := [] }

/-- The node that a walk waits in completes or fails when what it waits for has: a copy is followed by its publish. -/
def State.walkSettle (s : State) (ctx slot : Nat) : State :=
  match s.walkWait ctx slot with
  | some (.copy id) =>
    match s.commands.find? id with
    | some c =>
      if c.state == 2 then
        let (p, s) := s.addCommand (walkPublish (s.ctx ctx).asid c)
        s.modWalk ctx slot fun w => { w with wait := some (.publish p) }
      else if c.state == 3 then s.nodeFails ctx slot c.code
      else s
    | none => s
  | some (.publish id) =>
    match s.commands.find? id with
    | some c => if c.state == 2 then s.nodeDone ctx slot else if c.state == 3 then s.nodeFails ctx slot c.code else s
    | none => s
  | some (.round x n) =>
    let own := (((s.ctx ctx).walks.find? slot).map Walk.code).getD 0
    match (s.combines.find? x).map fun c => c.ended.find? n with
    | some none => s
    | some (some (some code)) => s.nodeFails ctx slot code.num
    | _ => if own == 0 then s.nodeDone ctx slot else s.nodeFails ctx slot own
  | some (.snap colour epoch) =>
    if (s.snap colour).epoch != epoch || (s.snap colour).state != 1 then s.nodeDone ctx slot else s
  | some .event => if (s.ctx ctx).events.any fun e => e.kind == 1 && e.slot == slot then s else s.nodeDone ctx slot
  | some (.ending st code) =>
    if (s.ctx ctx).events.any fun e => decide (2 ≤ e.kind) && decide (e.kind ≤ 4) && e.slot == slot then s else s.walkOver ctx slot st code
  | _ => s

/-! ### Visits (R395) -/

/-- The rest of a visit whose record has been read: its range list is read once, and a node of the kind asked for acts. -/
def State.visitRead (s : State) (ctx slot kind : Nat) (n : Node) (act : Node → State → State) : State :=
  let keep := fun (s : State) (listed : Bool) => s.modWalk ctx slot fun w => { w with record := some n.words, listed := listed }
  if n.malformed then s.nodeFails ctx slot FaultCode.engineRecord.num
  else if (((s.ctx ctx).walks.find? slot).map Walk.listed).getD false then (if n.kind == kind then act n s else s)
  else
    match s.walkRead (walkReader ctx slot) ctx n.ranges (16 * n.nranges) with
    | .wait s => keep s false
    | .fail c _ s => s.nodeFails ctx slot c.num
    | .ok _ s => if n.kind == kind then act n (keep s true) else keep s true

/-- Reads the node that a walk visits and, when it is of a kind, acts on it. The record is read once in a visit, and kept until the walk leaves
the node. A record or range list that cannot be read, and a
malformed record, fail the visit whatever its kind (R394, R397). The visit acquires what completed before it (R396). A walk that waits
is looked at for the completion of its node instead. -/
def State.visit (s : State) (ctx slot kind : Nat) (act : Walk → Node → State → State) : Result :=
  match (s.ctx ctx).walks.find? slot with
  | none => .next s
  | some w =>
    if w.state != .visiting then .next (s.walkSettle ctx slot)
    else if (s.ctx ctx).status != .live || !(s.ctx ctx).kills.isEmpty then .next s
    else
      match w.record with
      | some ws => .next (s.visitRead ctx slot kind { words := ws } (act w))
      | none =>
        match (s.acquireAll (walkerCore / 4) 2).walkRead (walkReader ctx slot) ctx w.node 64 with
        | .wait s => .next s
        | .fail c _ s => .next (s.nodeFails ctx slot c.num)
        | .ok bs s => .next (s.visitRead ctx slot kind { words := wordsOf bs } (act w))

/-- A walk waits in its node. -/
def State.waitIn (s : State) (ctx slot : Nat) (n : Node) (x : WalkWait) : State :=
  (s.engDone (walkReader ctx slot)).modWalk ctx slot fun w => { w with state := .waiting, next := n.next, wait := some x, record := none, listed := false }

/-- NODE_VISIT_GRID (R395, R396, R450). -/
def execNodeVisitGrid (ctx slot : Nat) (s : State) : Result :=
  s.visit ctx slot 1 fun w n s =>
    match s.launchGrid ctx w.node (some slot) w.handle n with
    | .wait s => s
    | .refused c s => s.nodeFails ctx slot c.num
    | .started gr s =>
      let s := s.modWalk ctx slot fun w => { w with grids := w.grids ++ [gr], next := n.next }
      if n.nowait then s.nodeDone ctx slot else s.waitIn ctx slot n (.grid gr)

/-- NODE_VISIT_COPY (R395). -/
def execNodeVisitCopy (ctx slot : Nat) (s : State) : Result :=
  s.visit ctx slot 2 fun _ n s =>
    if n.w 4 % 4096 != 0 then s.nodeFails ctx slot FaultCode.misaligned.num
    else if n.w 5 == 0 then (s.waitIn ctx slot n .event).nodeDone ctx slot
    else if 32 ≤ (s.copiesHeld 0).length then s
    else
      let (id, s) := s.addCommand (walkCopy ctx slot (s.ctx ctx).asid n)
      s.waitIn ctx slot n (.copy id)

/-- The contribution of a COLL node: memory to memory, through the context's own address space. -/
def walkPost (ctx slot asid member dst bytes : Nat) : Contribution :=
  { ctx := ctx, team := 2 ^ 40, gid := 2 ^ 40, core := walkerCore, walk := some (ctx, slot), words := [(if dst == 0 then 3 else 0) * 2 ^ 2 + member * 2 ^ 12, 0, dst % 16]
    dst := mkHandle (dst / 16) (bytes + 16) 0xFF asid }

/-- NODE_VISIT_COLL (R336, R395). -/
def execNodeVisitColl (ctx slot : Nat) (s : State) : Result :=
  s.visit ctx slot 3 fun _ n s =>
    let x := bits (n.w 3) 7 0
    let member := bits (n.w 3) 13 8
    match s.combines.find? x with
    | none => s.nodeFails ctx slot FaultCode.collState.num
    | some c =>
      let (round, busy) := c.memberRound member
      if c.nlocal ≤ member then s.nodeFails ctx slot FaultCode.collState.num
      else if busy then s
      else
        let p := walkPost ctx slot (s.ctx ctx).asid member (n.w 5) c.bytes
        let post := fun (s : State) (p : Contribution) =>
          ((s.waitIn ctx slot n (.round x round)).modWalk ctx slot fun w => { w with code := 0 }).postRound x member p
        match s.walkRead (walkReader ctx slot) ctx (n.w 4) c.bytes with
        | .wait s => s
        | .fail code _ s => post s { p with fail := some code }
        | .ok d s => post s { p with data := d }

/-- The test of a COND or WHILE node (Table 17·4). -/
def nodeTest (test word cmp : Nat) : Bool :=
  match test with
  | 0 => word == cmp
  | 1 => word != cmp
  | 2 => decide (signedOf 64 cmp ≤ signedOf 64 word)
  | 3 => decide (signedOf 64 word < signedOf 64 cmp)
  | 4 => decide (cmp ≤ word)
  | _ => decide (word < cmp)

/-- Reads a condition word, an acquire at the scope of its page's reach, and goes to one of two nodes. -/
def State.branchNode (s : State) (ctx slot : Nat) (n : Node) (holds fails : Nat) : State :=
  match s.walkRead (walkReader ctx slot) ctx (n.w 3) 8 with
  | .wait s => s
  | .fail code _ s => s.nodeFails ctx slot code.num
  | .ok bs s =>
    ((s.acquireAll (walkerCore / 4) 3).engDone (walkReader ctx slot)).modWalk ctx slot fun w =>
      { w with node := if nodeTest (n.w 5) (ofBytes bs) (n.w 4) then holds else fails, record := none, listed := false }

/-- NODE_VISIT_COND (R395). -/
def execNodeVisitCond (ctx slot : Nat) (s : State) : Result :=
  s.visit ctx slot 4 fun _ n s => s.branchNode ctx slot n n.next (n.w 6)

/-- NODE_VISIT_WHILE (R395). -/
def execNodeVisitWhile (ctx slot : Nat) (s : State) : Result :=
  s.visit ctx slot 5 fun _ n s => s.branchNode ctx slot n (n.w 6) n.next

/-- NODE_VISIT_SNAP (R363, R395). -/
def execNodeVisitSnap (ctx slot : Nat) (s : State) : Result :=
  s.visit ctx slot 6 fun _ n s =>
    let colour := bits (n.w 3) 0 0
    match s.snapCheck (s.ctx ctx) colour with
    | some c => s.nodeFails ctx slot c.num
    | none =>
      let epoch := s.epoch + 1
      (s.startRecord epoch s.chip (bits (n.w 3) 63 32)).waitIn ctx slot n (.snap colour epoch)

/-- NODE_VISIT_HOSTSIG (R395, R420): a context without an event area does not wait for its event. -/
def execNodeVisitHostsig (ctx slot : Nat) (s : State) : Result :=
  s.visit ctx slot 7 fun _ n s =>
    let e : HostEvent := { kind := 1, slot := slot, value := n.w 3, vector := n.w 4 }
    ((s.waitIn ctx slot n .event).hostEvent ctx e).walkSettle ctx slot

/-- NODE_VISIT_END (R396, Table 17·5): the walk ends once every grid that it launched has; one that failed fails the walk. -/
def execNodeVisitEnd (ctx slot : Nat) (s : State) : Result :=
  s.visit ctx slot 0 fun w _ s =>
    let gs := w.grids.map s.grid
    if gs.any fun g => g.state == .queued || g.state == .running then s
    else
      match gs.find? fun g => g.nowait && g.state == .failed with
      | some g => s.nodeFails ctx slot g.code
      | none => s.endWalk ctx slot .complete 2 0

/-- A walk is cancelled: it visits no further node, and a GRID that it waits for is cancelled (R409). -/
def State.cancelWalk (s : State) (ctx slot : Nat) : State :=
  match s.walkWait ctx slot with
  | some (.ending ..) => s
  | some (.grid gr) => (s.cancelGrid gr).endWalk ctx slot .cancelled 4 0
  | _ => s.endWalk ctx slot .cancelled 4 0

end Sys2Proof.Machine
end

