-- ==== Sys2Proof/Machine/Launch.lean ====
section
/-!
DEFINITION. gspawn, glaunch, gwait, gcancel, budget and detsig (R407 to R411).
-/

namespace Sys2Proof.Machine

/-! ### gspawn and glaunch (R408) -/

/-- The checks of R408 on the handle and the record it names; the record's address, the handle and the words are kept for the commit. -/
def nodeExec (i : Instr) (grid : Bool) (f : FE) (ls : Lits) (s : State) : Result :=
  s.withIssue fun iss s =>
    let h := iss.hreg f.h.toNat
    let e := iss.addrE f ls 64
    if s.detI iss then s.faultAll iss .detAtomic
    else
      match checkHandle (s.ctxI iss) h e 1 64 [0] [] with
      | some c => s.faultAll iss c (vaOf h e)
      | none =>
        match s.handleRead iss.reader (s.ctxI iss) iss.before.core h e.toNat 64 with
        | .wait s => .next s.stall
        | .fail c va s => s.faultAll iss c va
        | .ok bs s =>
          let n : Node := { words := wordsOf bs }
          if n.malformed || (grid && n.kind != 1) then s.faultAll iss .engineRecord
          else s.finish iss (2 + ls.length) [.act i iss.idx iss.lanes [] [] [] (vaOf h e :: h.toNat :: n.words)]

/-- gspawn (R408). -/
def execGspawn (f : FE) (ls : Lits) (s : State) : Result := nodeExec (.gspawn f ls) false f ls s
/-- glaunch (R408). -/
def execGlaunch (f : FE) (ls : Lits) (s : State) : Result := nodeExec (.glaunch f ls) true f ls s

/-- The handle that the instruction captured. -/
def capturedHandle (n : List Nat) : HandleBits := BitVec.ofNat 128 (n.getD 1 0)

/-- The lowest walk slot of a context without a live walk. -/
def Ctx.freeWalk (c : Ctx) : Option Nat :=
  (List.range 16).find? fun i => match c.walks.find? i with
    | some w => w.state == .ended
    | none => true

/-- The commit of gspawn: the walk starts, and vD takes its ticket. Without a free slot the clause waits before its commit. -/
def commitGspawn (f : FE) (iss : Issue) (n : List Nat) (s : State) : State :=
  let ctx := s.ctxOf iss.gid
  let c := s.ctx ctx
  match c.freeWalk with
  | none => s
  | some slot =>
    let w : Walk := { node := n.headD 0, handle := some (capturedHandle n), state := if c.status == .live then .visiting else .held true }
    (s.modCtx ctx fun c => { c with walks := c.walks.insert slot w }).writeV iss.gid f.d.toNat iss.lanes
      (iss.lanesOf fun _ => BitVec.ofNat 64 (walkTicket slot))

/-- Whether a glaunch must wait for memory before its checks can be made: then the state with what it has asked for. -/
def State.glaunchWaits (s : State) (iss : Issue) (n : List Nat) : Option State :=
  match s.acceptGrid (s.ctxOf iss.gid) (n.headD 0) none (some (capturedHandle n)) { words := n.drop 2 } with
  | .wait s => some s
  | _ => none

/-- The commit of glaunch: the grid is launched or refused, and vD takes the launch number. -/
def commitGlaunch (f : FE) (iss : Issue) (n : List Nat) (s : State) : State :=
  let ctx := s.ctxOf iss.gid
  let num := (s.ctx ctx).launches
  let s := match s.launchGrid ctx (n.headD 0) none (some (capturedHandle n)) { words := n.drop 2 } with
    | .started _ s | .refused _ s | .wait s => s
  s.writeV iss.gid f.d.toNat iss.lanes (iss.lanesOf fun _ => BitVec.ofNat 64 (num % 2 ^ 32))

/-! ### gwait and gcancel (R409) -/

/-- gwait (R409). -/
def execGwait (f : FE) (ls : Lits) (s : State) : Result := ticketExec false (.gwait f ls) f ls s
/-- gcancel (R409). -/
def execGcancel (f : FE) (ls : Lits) (s : State) : Result := ticketExec false (.gcancel f ls) f ls s

/-- The commit of gwait: the lanes whose launch or walk has ended, or whose ticket names nothing, have their words at once. -/
def commitGwait (f : FE) (ls : Lits) (iss : Issue) (idx : Nat) (x : LaneVals) (s : State) : State :=
  let ctx := s.ctxOf iss.gid
  let rs := (List.range 32).map fun l => s.ticketWord ctx (x.at l).toNat
  let mask := (List.range 32).foldl (fun m l => if (rs.getD l (false, 0)).1 then m + 2 ^ l else m) 0
  (s.addEvent { iss.event idx iss.lanes with
    v := [(f.d.toNat, x)], wait := .condition (.gwait f ls) (ctx :: mask :: rs.map fun r => r.2.toNat) }).2

/-- The landing of gwait once every lane has its word: an acquire at CHIP scope. -/
def State.gwaitLands (s : State) (id : Nat) (d : Deferred) (n : List Nat) : Option State :=
  if (Lanes.list d.lanes).all fun l => bitAt (n.getD 1 0) l then
    let w := LaneVals.of fun l => if d.lanes.has l then BitVec.ofNat 64 (n.getD (2 + l) 0) else 0
    some ((s.modEvent id fun d => { d with v := d.v.map fun p => (p.1, w) }).acquireAll (s.group d.gid).cluster 2)
  else none

/-- Cancels what a ticket names, when it has not ended. -/
def State.cancelTicket (s : State) (ctx t : Nat) : State :=
  if (s.ticketWord ctx t).1 then s
  else if t < 2 ^ 32 then
    match List.find? (fun p : Nat × Grid =>
        p.2.ctx == ctx && p.2.launch % 2 ^ 32 == t && (p.2.state == .queued || p.2.state == .running)) s.grids with
    | some (gr, _) => s.cancelGrid gr
    | none => s
  else s.cancelWalk ctx (t - walkTicket 0)

/-- The commit of gcancel: the word as it stands, then the cancellation. -/
def commitGcancel (f : FE) (iss : Issue) (idx : Nat) (x : LaneVals) (s : State) : State :=
  let ctx := s.ctxOf iss.gid
  let word := iss.lanesOf fun l => (s.ticketWord ctx (x.at l).toNat).2
  let ts := ((Lanes.list iss.lanes).map fun l => (x.at l).toNat).eraseDups
  (ts.foldl (fun (s : State) t => s.cancelTicket ctx t) s).laterResult iss idx f.d word

/-! ### budget (R410) -/

/-- The lowest bit and the width of a limit's field in the context record (Table 17·6). -/
def limitField (k : Nat) : Nat × Nat :=
  match k with
  | 0 => (896, 9)
  | 1 => (912, 16)
  | 2 => (928, 16)
  | _ => (944, 2)

/-- A record with one limit set. -/
def setLimit (r : BitVec 1024) (k v : Nat) : BitVec 1024 :=
  let (lo, w) := limitField k
  BitVec.ofNat 1024 (r.toNat - bits r.toNat (lo + w - 1) lo * 2 ^ lo + v * 2 ^ lo)

/-- Whether a value is a lower limit than another; 0 is none. -/
def lowerLimit (v old : Nat) : Bool := v != 0 && (old == 0 || decide (v < old))

/-- The kind of limit of a form. -/
def limitKind (f : FE) : Nat := bits f.aux.toNat 1 0

/-- budget (R405, R410): a value too wide for its field is taken as the field's greatest. -/
def execBudget (f : FE) (ls : Lits) (s : State) : Result :=
  s.withIssue fun iss s =>
    let other := f.aux.getLsbD 2
    let c := if other then (iss.uniformB f ls).toNat % 1024 else s.ctxOf iss.gid
    let k := limitKind f
    let v := min (iss.uniformM f.a (litAt ls 0)).toNat (2 ^ (limitField k).2 - 1)
    let old := (s.ctx c).recordLimits.getD k 0
    let sys := (s.ctxI iss).sys
    if s.detI iss then s.faultAll iss .detAtomic
    else if !sys && (other || lowerLimit old v) then s.faultAll iss .priv
    else if other && (s.ctx c).status != .live then s.faultAll iss .ctxState
    else s.finish iss (2 + ls.length) [.act (.budget f ls) iss.idx iss.lanes [] [] [] [c, v]]

/-- The commit of budget: the record takes the limit, which governs from the next window on; vD takes the old one. -/
def commitBudget (f : FE) (iss : Issue) (idx : Nat) (n : List Nat) (s : State) : State :=
  let c := n.headD 0
  let v := n.getD 1 0
  let k := limitKind f
  let old := (s.ctx c).recordLimits.getD k 0
  let s := if (s.ctxI iss).sys || lowerLimit v old then
      let r := setLimit (s.recordOf c) k v
      let now := s.limitsOf c
      let s := s.writeMem (s.cfgVal 0x09 + 128 * c + 112) (toBytes 16 (recBits r 1023 896))
      s.modCtx c fun x =>
        { x with record := setLimit x.record k v, limits := now, limitsFrom := (s.clock / s.budgetWindow + 1) * s.budgetWindow }
    else s
  s.laterResult iss idx f.d (iss.lanesOf fun _ => BitVec.ofNat 64 old)

/-! ### detsig (R411) -/

/-- The word of detsig.lvl for a deterministic grid. -/
def State.sigLevel (s : State) (g : Grid) : Nat :=
  (if g.kernel.arith == 0 then s.cfgVal 0x00 else g.kernel.arith) % 2 ^ 8 + (if g.stepped then 2 ^ 8 else 0) +
    (if g.digestVa != 0 then 2 ^ 9 else 0)

/-- The word of detsig.shape. -/
def Grid.sigShape (g : Grid) : Nat :=
  g.lclusters + g.kernel.pgroups * 2 ^ 9 + g.kernel.pblocks * 2 ^ 15 + g.kernel.cgroups * 2 ^ 19 + g.kernel.cblocks * 2 ^ 25

/-- The word that detsig.F gives for a grid. -/
def State.sigWord (s : State) (g : Grid) (f : Nat) : Nat :=
  if !g.det then 0
  else
    match f with
    | 0 => s.sigLevel g
    | 1 => g.sigShape
    | 2 => g.seed
    | _ => sealHash 0 (s.sigLevel g ||| g.sigShape * 2 ^ 10) g.seed

/-- detsig (R411). -/
def execDetsig (f : FE) (ls : Lits) (s : State) : Result :=
  s.withIssue fun iss s => s.finish iss (2 + ls.length) [.act (.detsig f ls) iss.idx iss.lanes [] [] [] []]

/-- The commit of detsig. -/
def commitDetsig (f : FE) (iss : Issue) (idx : Nat) (s : State) : State :=
  s.laterResult iss idx f.d (iss.lanesOf fun _ => BitVec.ofNat 64 (s.sigWord (s.gridOf iss.gid) (limitKind f)))

end Sys2Proof.Machine
end

