-- ==== Sys2Proof/Machine/Commit.lean ====
section
/-!
DEFINITION. CLAUSE_COMMIT (R26, R27): what holds a clause back before its commit, the effects of its instructions in index order, and the
group's next bundles; DEFERRED_EVENT_LANDING (R31, R32).
-/

namespace Sys2Proof

/-- The unit whose queue a command enters at commit: 0 the cluster's copy engine, 1 the module's migration engine, 2 its digest engine,
3 the cluster's drain path (R285, R305, R307, R309). -/
def Instr.unitOf? : Instr → Option Nat
  | .cpy .. | .cpyg .. | .cfill .. => some 0
  | .mig .. | .preq .. => some 1
  | .dgst .. => some 2
  | .mdrain .. | .mzero .. => some 3
  | _ => none

end Sys2Proof

namespace Sys2Proof.Machine

/-! ### What holds a commit back -/

/-- The commands that a unit holds (R285, R305, R307, R309). -/
def State.unitHolds (s : State) (q unit : Nat) : Nat :=
  match unit with
  | 0 => (s.copiesHeld q).length
  | 1 => (s.commands.filter fun p => (p.2.kind == .migrate || p.2.kind == .preq) && p.2.live).length
  | 2 => s.digestsHeld.length
  | _ => s.drainsHeld q

/-- How many commands a unit holds at most. -/
def unitRoom (unit : Nat) : Nat :=
  match unit with
  | 0 => 32
  | 1 => 64
  | 2 => 16
  | _ => 4

/-- The instruction of a held effect. -/
def Effect.instr? : Effect → Option Instr
  | .act i .. => some i
  | _ => none

/-- How many of a clause's effects enter a unit's queue. -/
def Issue.submits (iss : Issue) (unit : Nat) : Nat :=
  (iss.effects.filter fun e => (e.instr?.bind Instr.unitOf?) == some unit).length

/-- Whether a clause stalls because a unit's queue cannot take its commands. A clause that submits more than the queue can ever hold
waits until it is empty. -/
def State.unitFull (s : State) (iss : Issue) (unit : Nat) : Bool :=
  let n := iss.submits unit
  n != 0 && decide (unitRoom unit < s.unitHolds iss.before.cluster unit + min n (unitRoom unit))

/-- How many walk slots of a context a new walk may take. -/
def Ctx.freeWalks (c : Ctx) : Nat := ((List.range 16).filter fun i => (c.walks.find? i).all fun w => w.state == .ended).length

/-- The context and member of a post among held effects. -/
def Effect.post? : Effect → Option (Nat × Nat)
  | .act (.cpost ..) _ _ _ _ _ n => some (n.headD 0, bits (n.getD 1 0) 16 12)
  | .act (.cbar ..) _ _ _ _ _ n => some (n.headD 0, n.getD 1 0)
  | _ => none

/-- How many rounds a member has posted that have not ended. -/
def State.postsOpen (s : State) (x m : Nat) : Nat :=
  ((s.combines.find? x).map fun c => ((List.range (c.posts.get m 0)).filter fun k => (c.ended.find? k).isNone).length).getD 0

/-- Whether a clause's posts would leave a member with more than two rounds posted and not ended (R336). A clause with more than two posts
of one member waits until none is open. -/
def State.postsWait (s : State) (iss : Issue) : Bool :=
  let ps := iss.effects.filterMap Effect.post?
  ps.any fun p => decide (2 < s.postsOpen p.1 p.2 + min 2 (ps.filter (· == p)).length)

/-- Whether one held effect keeps its clause from committing now: then the state with what it has asked for (R90, R173, R408). -/
def State.effectWaits (s : State) (iss : Issue) : Effect → Option State
  | .act i _ lanes x _ _ n =>
    match i with
    | .barSync .. | .barArrive .. | .step .. | .stepPod .. => if s.mayRead? iss then none else some s
    | .glaunch .. => s.glaunchWaits iss n
    | .st f _ | .atom f _ | .red f _ | .hsave f _ =>
      (s.dirtyWaits iss (iss.hreg f.h.toNat) lanes x).map fun g => s.request g.1 g.2
    | _ => none
  | _ => none

/-- What keeps a clause from committing now. -/
def State.commitWaits (s : State) (iss : Issue) : Option State :=
  let spawns := (iss.effects.filter fun e => match e.instr? with
    | some (.gspawn ..) => true
    | _ => false).length
  if (List.range 4).any (s.unitFull iss) || s.postsWait iss || decide ((s.ctxI iss).freeWalks < spawns) then some s
  else iss.effects.findSome? (s.effectWaits iss)

/-- The lanes of an access whose IP grain has passed to another core since its checks (R175, R235). -/
def State.movedLanes (s : State) (iss : Issue) (lanes : Lanes) (y z : LaneVals) : Lanes :=
  Lanes.of fun l => lanes.has l && pteClass (z.at l) == 3 && !pteHost (z.at l) && s.foreignIp iss.before.core (y.at l).toNat

/-- The first of the instructions of a clause on combine contexts whose check of the context's state fails, as they would act in turn: its
index and lanes (R335, R336, R339, R340). -/
def collFault (m : SMap Combine) : List Effect → Option (Nat × Lanes)
  | [] => none
  | .act i idx lanes _ _ _ n :: es =>
    let posts := fun (x k : Nat) =>
      match m.find? x with
      | none => some (idx, lanes)
      | some c =>
        if c.nlocal ≤ k then some (idx, lanes)
        else
          let r := (c.memberRound k).1
          collFault (m.insert x { c with posts := c.posts.insert k (r + 1)
                                         rounds := if (c.ended.find? r).isSome then c.rounds else c.rounds.insert r {} }) es
    match i with
    | .cinit .. =>
      if (m.find? (bits (n.headD 0) 7 0)).isSome then some (idx, lanes)
      else collFault (m.insert (bits (n.headD 0) 7 0) (combineOf (n.headD 0))) es
    | .cpost .. => posts (n.headD 0) (bits (n.getD 1 0) 16 12)
    | .cbar .. => posts (n.headD 0) (n.getD 1 0)
    | .cwait .. =>
      if (m.find? (n.headD 0)).all fun c => c.posts.all fun p => p.2 ≤ n.getD 1 0 then some (idx, lanes) else collFault m es
    | .cfree .. =>
      if (m.find? (n.headD 0)).all fun c => !c.rounds.isEmpty then some (idx, lanes) else collFault (m.erase (n.headD 0)) es
    | _ => collFault m es
  | _ :: es => collFault m es

/-- The lanes of an atomic on host memory whose region has been marked since its checks (R418). -/
def State.hostRefuses (s : State) (f : FM) (returns : Bool) (idx : Nat) (lanes : Lanes) (x y z : LaneVals) : Option (FaultCode × Nat × Lanes × Nat) :=
  let bad := Lanes.of fun l =>
    lanes.has l && pteHost (z.at l) && (s.hostAtomicCheck (y.at l).toNat f.sub.toNat f.t.toNat returns).isSome
  if bad == 0 then none else some (.sysAtomicUnsupported, idx, bad, (x.at (lowestLane bad)).toNat)

/-- A check that other clauses may have made fail since the instruction was executed: the barriers' of R89, the ownership of R175, the
contexts' of R335 to R340, the host link's of R418, the snapshots' of R363 and R365, and those of the record that a drain is accepted with (R285, R287). Answers the code, the index, the lanes and the address. -/
def State.commitFault (s : State) (iss : Issue) : Option (FaultCode × Nat × Lanes × Nat) :=
  match s.barFault iss.gid iss.effects with
  | some (idx, bad) => some (.barOrder, idx, bad, 0)
  | none =>
    ((collFault s.combines iss.effects).map fun p => (FaultCode.collState, p.1, p.2, 0)).or <| iss.effects.findSome? fun e =>
      match e with
      | .act (.ld ..) idx lanes x y z _ | .act (.st ..) idx lanes x y z _ | .act (.hload ..) idx lanes x y z _
      | .act (.hsave ..) idx lanes x y z _ =>
        let bad := s.movedLanes iss lanes y z
        if bad == 0 then none else some (.moveRights, idx, bad, (x.at (lowestLane bad)).toNat)
      | .act (.atom f _) idx lanes x y z _ => s.hostRefuses f true idx lanes x y z
      | .act (.red f _) idx lanes x y z _ => s.hostRefuses f false idx lanes x y z
      | .act (.snap f _) idx lanes _ _ _ _ => (s.snapCheck (s.ctxI iss) (snapColour f)).map fun c => (c, idx, lanes, 0)
      | .act (.snapdrop f _) idx lanes _ _ _ _ => (s.snapdropCheck (snapColour f)).map fun c => (c, idx, lanes, 0)
      | .act (.mdrain ..) idx lanes _ _ _ n =>
        (s.drainFault iss (s.record iss (n.headD 0) 32)).map fun f => (f.1, idx, lanes, f.2)
      | _ => none

/-! ### The effects -/

/-- The commit of one instruction of a clause. -/
def State.act (s : State) (iss : Issue) (i : Instr) (idx : Nat) (lanes : Lanes) (x y z : LaneVals) (n : List Nat) : State :=
  match i with
  | .fdiv .. | .frcp .. | .frsq .. | .fsqrt .. | .fexp2 .. | .flog2 .. | .fexp .. | .fsinpi .. | .fcospi .. | .ftanh .. =>
    commitSfu iss idx lanes x y n s
  | .ld f _ => commitLd f iss idx lanes x y z s
  | .st f _ => commitSt f iss idx lanes x y z n s
  | .lda f _ => commitBufLoad f 1 iss idx lanes y s
  | .ldc f _ => commitBufLoad f 2 iss idx lanes y s
  | .sta f _ => commitBufStore f 1 iss idx lanes y n s
  | .stc f _ => commitBufStore f 2 iss idx lanes y n s
  | .pf f _ => commitPf f iss lanes y z s
  | .preq .. => commitPreq iss idx n s
  | .cinv .. => commitCache i true iss idx n s
  | .cwb .. => commitCache i false iss idx n s
  | .hsave f _ => commitHsave f iss idx lanes x y z n s
  | .hload f _ => commitHload f iss idx lanes x y z s
  | .fence f _ => commitFence f iss idx s
  | .acq f _ => commitAcq f iss s
  | .rel f _ => commitRel f iss s
  | .wsstate f _ => commitWsstate f iss idx lanes x y z s
  | .mvrange .. | .wsclose .. | .wsreset .. => commitRange i iss idx n s
  | .mvwait .. => commitMvwait i iss idx n s
  | .pgclass .. => commitPgclass i iss idx n s
  | .replicAdd .. => commitReplicAdd i iss idx n s
  | .replicRem .. => commitReplicRem i iss idx n s
  | .atom f _ => commitAtom f iss idx lanes x y z n s
  | .red f _ => commitRed f iss idx lanes x y z n s
  | .await f _ => commitAwait f iss idx lanes x y z n s
  | .mzero .. => commitMzero iss idx n s
  | .mdrain f _ => commitMdrain f iss idx n s
  | .mstat f _ => commitMstat f iss idx x s
  | .mcks f _ => commitMcks f iss idx s
  | .mcancel f _ => commitMcancel f iss idx x s
  | .cpy f _ | .cpyg f _ | .cfill f _ => commitCopy f iss idx n s
  | .publish .. => commitPublish iss idx n s
  | .ewait f _ => commitEwait i f iss idx x s
  | .estat f _ => commitEstat f iss idx x s
  | .mig f _ => commitMig f iss idx n s
  | .dgst f _ => commitDgst f iss idx n s
  | .fput f _ | .fget f _ | .fsend f _ | .frecv f _ => commitFabric f iss idx n s
  | .fstat f _ => commitFstat f iss idx s
  | .cinit .. => commitCinit iss idx n s
  | .cpost f ls => commitCpost f ls iss idx n s
  | .cwait .. => commitCwait iss idx n s
  | .cbar f _ => commitCbar f iss idx n s
  | .cfree .. => commitCfree iss idx n s
  | .snap f ls => commitSnap f ls iss idx n s
  | .snapst f _ => commitSnapst f iss idx s
  | .snapwait f ls => commitSnapwait f ls iss idx s
  | .snapdrop f ls => commitSnapdrop f ls iss idx s
  | .gspawn f _ => commitGspawn f iss n s
  | .glaunch f _ => commitGlaunch f iss n s
  | .gwait f ls => commitGwait f ls iss idx x s
  | .gcancel f _ => commitGcancel f iss idx x s
  | .budget f _ => commitBudget f iss idx n s
  | .detsig f _ => commitDetsig f iss idx s
  | .ctxsave f ls => commitCtxsave f ls iss idx n s
  | .ctxload f ls => commitCtxload f ls iss idx n s
  | .tlbinv .. | .asidinv .. => commitTlbinv i iss idx n s
  | .injMat f ls => commitInjMat f ls iss idx n s
  | .injFrag f ls => commitInjFrag f ls iss idx n s
  | .injPoison .. => commitInjPoison i iss idx n s
  | .preempt f ls => commitPreempt f ls iss idx n s
  | .call .. | .callx .. => commitCall iss lanes x s
  | .ret .. => commitRet iss lanes s
  | .exit .. => commitExit iss s
  | .yield .. => commitYield iss n s
  | .cfgwr .. => commitCfgwr n s
  | .trap .. => commitSoft .trapSw iss idx n s
  | .brk .. => commitSoft .breakpoint iss idx n s
  | .barSync .. | .barArrive .. | .barWait .. => commitBar i iss n s
  | .step .. => commitStep .step iss idx s
  | .stepPod .. => commitStep .stepPod iss idx s
  | .tret f _ => commitTret f iss lanes x s
  | _ => s

/-- One held effect takes place. A zero written to LFSR is ignored (R87). -/
def State.effect (s : State) (iss : Issue) (e : Effect) : State :=
  let m := s.modGroup iss.gid
  match e with
  | .v r lanes x => s.writeV iss.gid r lanes x
  | .k r lanes x => m fun g => g.writeK r lanes x
  | .g r x => m fun g => { g with g := g.g.put r x 0 }
  | .h r x => m fun g => { g with h := g.h.put r x 0 }
  | .orFlags lanes x => m fun g => g.orFlags lanes x
  | .count c => s.addFlagEvents iss.before.core c
  | .setFlags lanes x => m fun g => g.modThreads lanes fun l t => { t with flags := (x.at l).truncate 5 }
  | .setDraw lanes x => m fun g => g.modThreads lanes fun l t => { t with draw := x.at l }
  | .setLfsr x => m fun g => if x.truncate 16 = 0 then g else { g with lfsr := x.truncate 16 }
  | .setFpctl x => m fun g => { g with fpctl := x }
  | .setGang x => m fun g => { g with gang := x }
  | .setPc lanes x => m fun g => g.modThreads lanes fun l t => { t with pc := (x.at l).truncate 52 }
  | .act i idx lanes x y z n => s.act iss i idx lanes x y z n

/-- The clause leaves its slot: its bundle is no longer formed, and its threads stand at the next clause unless a branch among its
effects says otherwise (R24, R66). -/
def State.leaveSlot (s : State) (iss : Issue) : State :=
  ({ s with issuing := s.issuing.drop 1 }.engDone iss.reader).modGroup iss.gid fun g =>
    { g.modThreads iss.lanes (fun _ t => { t with pc := iss.nextPc, yielded := t.yielded || iss.yields }) with
      bundles := g.bundles.filter fun b => b.pc != iss.pc }

/-- The effects of a clause in index order, then the next bundles of its group and of the groups it has woken. -/
def State.commit (s : State) (iss : Issue) : State :=
  (iss.effects.foldl (fun s e => s.effect iss e) (s.leaveSlot iss)).formAll

/-- CLAUSE_COMMIT (R26 to R28): the clause in the slot, when all of its instructions have passed their checks, commits as one; or it is
discarded by a check that has come to fail; or it waits. -/
def execClauseCommit (s : State) : Result :=
  s.withIssue fun iss s =>
    if !iss.words.isEmpty then .next s else
    match s.commitFault iss with
    | some (c, idx, bad, va) => s.faults { iss with idx := idx } c bad va
    | none =>
      match s.commitWaits iss with
      | some s => .next s.stall
      | none => .next (s.commit iss)

/-! ### Landings -/

/-- What a deferred event's landing needs: the state, and whether it lands. -/
def State.landing (s : State) (id : Nat) (d : Deferred) : State × Bool :=
  let onceSome := fun (o : Option State) => match o with
    | some s => (s, true)
    | none => (s, false)
  match d.wait with
  | .done => (s, true)
  | .condition i n =>
    match i with
    | .cinv .. | .cwb .. | .mvrange .. | .mvwait .. | .wsclose .. | .wsreset .. | .pgclass .. | .replicAdd .. | .replicRem .. =>
      s.rangeLands id d i n
    | .ewait .. => onceSome (s.ewaitLands id d n)
    | .gwait .. => onceSome (s.gwaitLands id d n)
    | .tlbinv .. | .asidinv .. => onceSome (s.tlbinvLands d n)
    | .injPoison .. => (s, d.asks == some 0)
    | .snap .. | .snapwait .. | .snapdrop .. => onceSome (s.snapLands id i n)
    | .ctxsave f _ => s.ctxsaveLands id f n
    | .ctxload .. => s.ctxloadLands id n
    | _ => (s, false)
  | _ => (s, false)

/-- DEFERRED_EVENT_LANDING (R31, R32, R34): an event whose condition holds lands. -/
def execDeferredEventLanding (id : Nat) (s : State) : Result :=
  match s.deferred.find? id with
  | none => .next s
  | some d =>
    match s.landing id d with
    | (s, true) => .next (s.land id)
    | (s, false) => .next s

end Sys2Proof.Machine
end

