-- ==== Sys2Proof/Machine/Host.lean ====
section
/-!
DEFINITION. What the host does to the module (R412 to R422): its writes to the windows, the commands of the control blocks, its accesses
to device memory, the training of the links, and the writing of the event area.
-/

namespace Sys2Proof.Machine

/-- A host write to a window: one that the windows do not take is discarded and counted (R413). In recovery no window but the recovery
buffer is there, and a module held in reset has none (R430, R432). A write by a virtual function that its windows do not take reaches no register,
no grant and no byte of W2: its operand is one that the windows do not assign (R414, notes/assumptions/124). -/
def State.windowWrite (s : State) (ok : Bool) (f : State → State) : Result :=
  if ok && !s.recovery && !s.inReset then .next (f s) else .next s.hostErr

/-- HOST_CONFIG_WRITE (R413): as cfgwr, but a register that is read-only or not held by the module takes no write. -/
def execHostConfigWrite (reg : Nat) (value : BitVec 64) (s : State) : Result :=
  s.windowWrite ((cfgInfo reg).any fun i => !i.ro && !cfgNotModule reg) fun s => s.cfgWrite reg value

/-- PATH_TABLE_WRITE (R319): the word is stored as written; a write that leaves the entry failing its check is logged. -/
def execPathTableWrite (chip word : Nat) (value : BitVec 64) (s : State) : Result :=
  s.windowWrite (decide (chip < 4096) && decide (word < 8)) fun s =>
    let s := { s with path := s.path.put (chip * 8 + word) value 0 }
    if s.pathCount chip == 0 && (List.range 8).any fun i => routeHops (s.pathWord chip i) != 0 then s.logError 7 0 chip else s

/-- The physical address of local memory under another logical chip. -/
def rehomed (old new pa : Nat) : Nat := if chipOf pa == old then new * 2 ^ 40 + pa % 2 ^ 40 else pa

/-- An incoming channel's number under another logical chip: those of the old one name it from then on, and those of the new one no longer
(R320, R322). -/
def renumbered (old new n : Nat) : Nat := if n < 4096 then 4096 * (old + 1) + n else if n / 4096 == new + 1 then n % 4096 else n

/-- The module's own memory, tags and stamps follow its logical chip, and each incoming channel stays the triple that it is. -/
def State.rehome (s : State) (new : Nat) : State :=
  let old := s.chip
  let keys := fun {α : Type} (unit : Nat) (m : SMap α) =>
    (m.filter fun p => chipOf (p.1 * unit) != new).foldl (fun (r : SMap α) p => r.insert (rehomed old new (p.1 * unit) / unit) p.2) []
  let chans := fun {α : Type} (m : SMap α) (unit : Nat) =>
    m.foldl (fun (r : SMap α) p => r.insert (renumbered old new (p.1 / unit) * unit + p.1 % unit) p.2) []
  { s with
    chip := new
    mem := keys 1 s.mem
    tags := keys 512 s.tags
    wsMask := keys 512 s.wsMask
    sectors := keys 128 s.sectors
    lines := []
    coreTlb := []
    clusterTlb := []
    recv := chans s.recv 8
    halves := chans s.halves 8
    slots := chans s.slots (8 * 2 ^ 32)
    filter := chans s.filter (8 * 2 ^ 32)
    lostSends := s.lostSends.map fun l => { l with src := renumbered old new l.src } }

/-- PLACEMENT_TABLE_WRITE (R320): the module's logical chip is the lowest valid entry that names it; without one it keeps its last. -/
def execPlacementTableWrite (entry : Nat) (value : BitVec 32) (s : State) : Result :=
  s.windowWrite (decide (entry < 4096)) fun s =>
    let s := { s with place := s.place.insert entry (value &&& 0x1FFFF) }
    match (List.range 4096).find? s.isSelf with
    | some c => if c == s.chip then s else s.rehome c
    | none => s

/-! ### Grants (R414) -/

/-- VF_GRANT_WRITE (R414): a grant changes only when none of its contexts, old or new, is live. -/
def execVfGrantWrite (vf : Nat) (value : BitVec 64) (s : State) : Result :=
  s.windowWrite (decide (vf < 16)) fun s =>
    let old := (s.grants.get vf 0).toNat
    if (grantOf old ++ grantOf value.toNat).any fun c => (s.ctx c).status == .live then s
    else { s with grants := s.grants.put vf (value &&& 0x1FFFFF) 0 }

/-! ### Control blocks (R416, Table 18·4) -/

/-- A command of a control block that a function reaches (R414), in a state that admits it. -/
def State.ctxCommand (s : State) (ctx : Nat) (admits : List CtxStatus) (f : Nat → State → State) : Result :=
  match s.windowCtx ctx with
  | none => .next s.hostErr
  | some c => s.windowWrite (admits.contains (s.ctx c).status) (f c)

/-- CTX_CMD_DRAIN (R380, R416). -/
def execCtxCmdDrain (ctx : Nat) (s : State) : Result := s.ctxCommand ctx [.live, .draining] fun c s => s.beginDrain c false

/-- CTX_CMD_DRAIN_NOW (R380, R416). -/
def execCtxCmdDrainNow (ctx : Nat) (s : State) : Result := s.ctxCommand ctx [.live, .draining] fun c s => s.beginDrain c true

/-- CTX_CMD_KILL (R373, R416). -/
def execCtxCmdKill (ctx : Nat) (s : State) : Result :=
  s.ctxCommand ctx [.live, .draining, .saved, .halted] fun c s => s.askKill c systemKill

/-- CTX_CMD_RESUME (R375, R416): a halted context goes on where it stood, and its walks with it unless it was draining (Table 17·5). -/
def execCtxCmdResume (ctx : Nat) (s : State) : Result :=
  s.ctxCommand ctx [.halted] fun n s =>
    let s := s.modCtx n fun c => { c with
      status := c.haltedFrom
      walks := if c.haltedFrom == .live then c.walks.map fun (p : Nat × Walk) => (p.1, p.2.unhold) else c.walks }
    ((s.ctxGroups n).foldl (fun (s : State) gid => s.form gid) s).drainCheck n

/-- CTX_CMD_END (R416): a killed context is freed with its teams, windows and ASID. -/
def execCtxCmdEnd (ctx : Nat) (s : State) : Result := s.ctxCommand ctx [.killed] fun c s => s.freeContext c

/-! ### What a host read of the other windows returns (R6, R413, R414, Table 18·2) -/

/-- The state of a context as a control block reports it (Table 18·4). -/
def CtxStatus.num : CtxStatus → Nat
  | .free => 0
  | .live => 1
  | .draining => 2
  | .saved => 3
  | .halted => 4
  | .killed => 5

/-- Word i of a control block: the command word is write-only and reads zero, and the second word is the state. -/
def State.controlRead (s : State) (ctx i : Nat) : Nat := if i == 1 && ctx < 1024 then (s.ctx ctx).status.num else 0

/-- The aligned eight bytes of W0 at an offset: zero where nothing is assigned. No event of the opcode table reads W0 or W1, and a read
has no effect on the module. -/
def State.w0Read (s : State) (off : Nat) : Nat :=
  let within := fun (lo n : Nat) => decide (lo ≤ off) && decide (off < lo + n)
  if s.recovery || s.inReset || off % 8 != 0 then 0
  else if within 0 0x800 then
    if (cfgInfo (off / 8)).isNone || cfgNotModule (off / 8) then 0 else s.cfgModule (off / 8)
  else if within 0x100000 0x10000 then s.controlRead ((off - 0x100000) / 64) (off % 64 / 8)
  else if within 0x200000 0x40000 then s.pathWord ((off - 0x200000) / 64) (off % 64 / 8)
  else if within 0x300000 0x4000 then
    let e := (off - 0x300000) / 4
    (s.placement e).toNat + (s.placement (e + 1)).toNat * 2 ^ 32
  else if within 0x400000 0x80 then (s.grants.get ((off - 0x400000) / 8) 0).toNat
  else 0

/-- The same of the W0 of a virtual function: the control blocks of its contexts alone (R414). -/
def State.vfW0Read (s : State) (vf off : Nat) : Nat :=
  let cs := grantOf (s.grants.get vf 0).toNat
  match if 0x100000 ≤ off && off % 8 == 0 then cs[(off - 0x100000) / 64]? else none with
  | some c => if s.recovery || s.inReset then 0 else s.controlRead c (off % 64 / 8)
  | none => 0

/-- A start register of W1 is write-only: a read returns zero (R6). -/
def State.w1Read (_ : State) (_off : Nat) : Nat := 0

/-! ### Window W2 (R415) -/

/-- The grains of a range of this module's memory whose tag has SYSTEM reach. -/
def State.systemGrains (s : State) (pa n : Nat) : List Nat := (grainsOf [(pa, n)]).filter fun g => tagReach (s.tag g) == 2

/-- HOST_W2_READ (R415): the copies of a grain of SYSTEM reach are recalled before it is served; one of CHIP or POD reach is served as the
home has it. A read that must wait for a recall, or for the host to answer a snoop of the grain, is answered when it is taken again. The host
may cache what it has read of SYSTEM reach, so that it is to be snooped again. -/
def execHostW2Read (addr len : Nat) (s : State) : Result :=
  let pa := s.chip * 2 ^ 40 + addr % 2 ^ 40
  let gs := s.systemGrains pa len
  if s.recovery || s.inReset || 2 ^ 40 < addr + len then .next (s.send (.w2Data addr ((List.range len).map fun _ => 0)))
  else if gs.any fun g => s.hostClean.find? g == some false then .next s
  else
    let (ok, s) := s.takeAllBack gs false
    if !ok then .next s
    else
      let s := s.tookBack gs
      .next ({ s with hostClean := s.hostClean.filter fun p => !gs.contains p.1 }.send (.w2Data addr (s.readMem pa len)))

/-- One grain's part of a host write: on a replicated page it goes the two steps of R233; of a grain of SYSTEM reach its new stamps pass the
module's floor. -/
def State.hostPutGrain (s : State) (pa : Nat) (bs : List Byte) : State :=
  let g := grainOf pa
  if tagClass (s.tag g) == 0 && !(s.replicaList pa).isEmpty then
    s.replicaStart { id := 2 ^ 62, gid := engGid, lane := 0, core := walkerCore, pc := 0, idx := 0, va := 0, pa := pa, size := bs.length
                     op := .store bs, pte := s.homePte pa (tagLeaf (s.tag g)) } bs none
  else
    let s := s.markWritten g
    let s := if tagReach (s.tag g) != 2 then s
      else (sectorsOf pa bs.length).foldl (fun (s : State) p =>
        let (w, s) := s.stampWrite (walkerCore / 4) p.1
        { s with floor := max s.floor w }) { s with lines := s.lines.filter fun l => !(l.2.free && grainOf (l.1 % 2 ^ 45 * 128) == g) }
    s.writeMem pa bs

/-- HOST_W2_WRITE (R415): the home performs the write; of a grain of SYSTEM reach every other copy is recalled first. A write that must wait
is performed when it is taken again. -/
def execHostW2Write (addr : Nat) (data : List (BitVec 8)) (s : State) : Result :=
  let pa := s.chip * 2 ^ 40 + addr % 2 ^ 40
  s.windowWrite (decide (addr + data.length ≤ 2 ^ 40)) fun s =>
    let gs := s.systemGrains pa data.length
    if (grainsOf [(pa, data.length)]).any s.grainBusy then s
    else
      let (ok, s) := s.takeAllBack gs true
      if !ok then s
      else
        ((grainPieces pa data.length).foldl (fun (s : State) p => s.hostPutGrain p.1 ((data.drop (p.1 - pa)).take p.2)) (s.tookBack gs)).settle

/-! ### The event area (R420) -/

/-- An event entry (Table 18·5). -/
def HostEvent.bytes (e : HostEvent) : List Byte :=
  [e.kind + e.code * 2 ^ 8 + e.slot * 2 ^ 16, e.value, e.aux, e.clock].flatMap (toBytes 8)

/-- EVENT_AREA_WRITE (R419, R420): the oldest event is written to its entry, the producer count after it, and its vector signalled. What
raised it and waited with it goes on. -/
def execEventAreaWrite (ctx : Nat) (s : State) : Result :=
  let c := s.ctx ctx
  match c.events with
  | [] => .next s
  | e :: rest =>
    if c.areaFull then .next s
    else
      let p := (c.producer + 1) % 2 ^ 32
      let s := s.hostPut (c.eventArea + 64 + 32 * (c.producer % 2 ^ c.q)) e.bytes false
      let s := (s.hostPut c.eventArea (toBytes 4 p) false).send (.msix e.vector)
      let s := s.modCtx ctx fun c => { c with events := rest, producer := p }
      .next (match e.receive with
        | some id => s.loseCommand id (BitVec.ofNat 64 e.aux)
        | none => if e.kind ≤ 4 then s.walkSettle ctx e.slot else s)

/-- EVENT_AREA_RETRY: an event waits for a full area, and 1 µs has gone since the consumer count was last read: the module reads it again,
as host memory holds it (R420). -/
def execEventAreaRetry (ctx : Nat) (consumer : BitVec 32) (s : State) : Result :=
  let c := s.ctx ctx
  .next (if c.events.isEmpty || !c.areaFull || s.clock < c.consumerRead + mclkPerUs then s
    else (s.send (.hostRead (areaReadId + ctx) (c.eventArea + 8) 8)).modCtx ctx fun c =>
      { c with consumer := consumer.toNat, consumerRead := s.clock })

/-! ### Links (R412, R422) -/

/-- What a port trains to with an end that supports a link word's rate and width, every lower one, and its features (R412, Table 18·1): the
highest rate and width that both support, and the features that both have; 64 GT/s on the host port takes Flit mode. None when there is no
common rate or width, or when what answers on the tier port is no CXL.mem device. -/
def linkTrained (tier : Bool) (w : Nat) : Option Nat :=
  let rate := min 6 (bits w 3 0)
  let cxl := bitAt w 9
  let widths := (if tier then [16, 8] else [16, 8, 4, 1]).filter fun x => decide (x ≤ bits w 8 4)
  match widths with
  | [] => none
  | width :: _ =>
    if tier then if rate < 5 || !cxl || !bitAt w 11 then none else some (rate + width * 2 ^ 4 + 2 ^ 9 + 2 ^ 11)
    else if rate == 0 then none
    else
      let flit := rate == 6 && bitAt w 12
      let gen := if rate == 6 && !flit then 5 else rate
      some (gen + width * 2 ^ 4 + (if cxl then 2 ^ 9 + (if bitAt w 10 then 2 ^ 10 else 0) + (if bitAt w 11 then 2 ^ 11 else 0) else 0) +
        if flit then 2 ^ 12 else 0)

/-- The capacity of up to four expanders, each a 16-bit count of GiB (R412, R422). The interleave among them is not seen in an address of the
tier. -/
def expanderGib (gib : Nat) : Nat := ((List.range 4).map fun i => bits gib (16 * i + 15) (16 * i)).sum

/-- LINK_TRAINING (R412, R421, R422, R432): the operand says what the other end supports (DESIGN CHOICE: the event's form,
notes/assumptions/123), and the port's link register takes what both do; in recovery the host port trains as PCIe only. A port that finds
nothing in common stays untrained, and the failure is counted; a tier port without an expander is none. Lines held through CXL.cache go
home when the link loses it. -/
def execLinkTraining (tier : Bool) (link : BitVec 13) (gib : Nat) (s : State) : Result :=
  let x := linkTrained tier link.toNat
  let s := if x.isNone && !(tier && link == 0) then s.hostErr else s
  if tier then
    let size := if x.isNone then 0 else expanderGib gib
    .next { s with cfg := (s.cfg.insert 0x51 (BitVec.ofNat 64 (x.getD 0))).insert 0x56 (BitVec.ofNat 64 (size % 2 ^ 16)) }
  else
    let w := if s.recovery then x.getD 0 &&& 0x11FF else x.getD 0
    let s := if bitAt w 10 then s
      else s.hostLines.foldl (fun (s : State) l => s.hostDrop l.1) s
    .next { s with cfg := s.cfg.insert 0x50 (BitVec.ofNat 64 w) }

end Sys2Proof.Machine
end

