-- ==== Sys2Proof/Machine/Reliability.lean ====
section
/-!
DEFINITION. Storage errors, ways and slices (R423 to R428), the patrol scrubber (R425), power and temperature (R15, R430), boot,
recovery and attestation (R431 to R433).
-/

namespace Sys2Proof.Machine

/-- POISON_CLEAR (R424, R429). -/
def execPoisonClear (pa : BitVec 64) (s : State) : Result := .next (s.cfgWrite 0x5B pa)

/-- Sets the poison bit of a grain at its home; another chip's home is told. -/
def State.poisonGrain (s : State) (pa : Nat) : State :=
  let s := if chipOf pa == s.chip then s else s.sendCoh (chipOf pa) .poison pa 0 0 [1]
  s.modTag (grainOf pa) fun t => tagSet t 10 10 1

/-- The die whose HBM holds a grain: that of the slice which the hash names, retired or not (DEDUCED from R9 and R222,
notes/assumptions/102). -/
def homeDie (pa : Nat) : Nat := sliceHash pa % 288 / 36

/-- PATROL_SCRUB (R354, R425): a grain that cannot be corrected is poisoned, and an epoch that lags by three or more is relabelled. -/
def execPatrolScrub (grain : Nat) (bad : Bool) (s : State) : Result :=
  if chipOf (grain * 512) != s.chip then .next s
  else
    let s := if bad then
        let s := s.poisonGrain (grain * 512)
        { s with cfg := s.cfg.insert 0x59 (s.cfg.get 0x59 0 + 1) }.logError 2 (homeDie (grain * 512)) (grain * 512)
      else s
    .next (s.relabel grain 3)

/-! ### Storage errors (R423, R426, R427) -/

/-- The unit field of an error record (Table 19·4): the die in [3:0], the cluster or slice in [12:4]. -/
def siteUnit : ErrorSite → Nat
  | .hbm stack => stack % 16 / 2
  | .l2 slice => slice / 36 % 16 + slice % 512 * 16
  | .clusterCache q | .iCache q | .cBuffer q | .wStore q => q / 36 + q * 16
  | .registerFile core | .aBuffer core => core / 144 + core / 4 * 16
  | .fabricBuffer die | .retention die => die % 16

/-- The key of a way of a cache set; none where no ways are counted (R426). -/
def wayKey (e : StorageError) : Option Nat :=
  match e.site with
  | .l2 slice => some ((wayUnit false slice * 2 ^ 52 + e.address % 2 ^ 52) * 64 + e.way % 64)
  | .clusterCache q => some ((wayUnit true q * 2 ^ 52 + e.address % 2 ^ 52) * 64 + e.way % 64)
  | _ => none

/-- A way is disabled: its line is written home when it is dirty, and dropped (R426). Which line stands in the way is a free value
(notes/assumptions/125). Nothing takes place between the stall of the set and its end, and what is in flight goes to another way. -/
def State.wayLeaves (s : State) (e : StorageError) : State :=
  let inWay := fun (u x : Nat) => Config.cacheSet u x == e.address % 2 ^ 52 && Config.cacheWay u x == e.way % 64
  match e.site with
  | .clusterCache q =>
    let out := fun (c pa : Nat) => c == q && inWay (wayUnit true q) (pa / 128)
    (s.writeBackAll out).dropLines out
  | .l2 slice =>
    ((s.held.filter fun p => s.sliceOf (p.1 * 512) == slice && inWay (wayUnit false slice) p.1).map (·.1)).foldl State.giveBack s
  | _ => s

/-- A correction in a way: the third within 24 hours disables it (R426). -/
def State.wayError (s : State) (e : StorageError) : State :=
  match wayKey e with
  | none => s
  | some k =>
    if s.waysOff.contains k then s
    else
      let recent := ((s.wayFaults.get k []).filter fun t => decide (e.second < t + 86400)) ++ [e.second]
      if recent.length < 3 then { s with wayFaults := s.wayFaults.insert k recent }
      else
        let s := s.wayLeaves e
        { s with wayFaults := s.wayFaults.erase k, waysOff := s.waysOff ++ [k] }.logError 3 (siteUnit e.site) e.address

/-- Counts an error in a register of Table 19·3 and logs it. -/
def State.countError (s : State) (reg ty : Nat) (e : StorageError) : State :=
  { s with cfg := s.cfg.insert reg (s.cfg.get reg 0 + 1) }.logError ty (siteUnit e.site) e.address

/-- CORRECTED_ERROR (R423, R426). -/
def execCorrectedError (err : StorageError) (s : State) : Result := .next ((s.countError 0x58 1 err).wayError err)

/-- The POISON that a group meets when it reads a word that cannot be corrected: the event is that read, and names the group (R423). -/
def State.readPoison (s : State) (gid : Nat) : State :=
  let at' := ((s.issuing.find? fun i => i.gid == gid).map fun i => (i.pc, i.idx, i.lanes)).getD (0, 0, 0xFFFFFFFF)
  s.queueFault gid
    { code := .poison, pc := at'.1, index := at'.2.1, deferred := true, lane := lowestLane at'.2.2, lanes := at'.2.2, bundle := at'.2.2
      inHandler := (s.group gid).inHandler }

/-- A word of a register file, which holds the v registers of the groups' blocks (R18), reads as zero, for a clause in its slot too: the address
names the register and the lane, 32 lanes to a register. -/
def State.zeroRegister (s : State) (gid a : Nat) : State :=
  let zero := fun (g : Group) => g.writeV (a / 32) (Lanes.of (· == a % 32)) (LaneVals.of fun _ => 0)
  let s := s.modGroup gid zero
  { s with issuing := s.issuing.map fun i => if i.gid == gid then { i with before := zero i.before } else i }

/-- The fragment of a message that a storage error of a buffer names: its stripe and its index in it. -/
def fragmentOf (e : StorageError) : Nat × Nat := (e.way / 64, e.way % 64)

/-- UNCORRECTABLE_ERROR (R423, Table 19·1). -/
def execUncorrectableError (err : StorageError) (s : State) : Result :=
  let s := s.countError 0x59 2 err
  match err.site with
  | .hbm _ => .next (s.poisonGrain err.address)
  | .l2 _ => .next ((s.poisonGrain err.address).giveBack (grainOf err.address))
  | .clusterCache q =>
    let dirty := (s.lines.find? (lineKey q err.address)).any (·.dirty)
    let s := s.dropLines fun c pa => c == q && pa == err.address / 128 * 128
    .next (if dirty then s.poisonGrain err.address else s)
  | .iCache q => .next { s with icache := s.icache.modify q fun l => l.filter (· != err.address / 128) }
  | .registerFile _ =>
    match err.gid with
    | some gid => .next ((s.zeroRegister gid err.address).readPoison gid)
    | none => .next s
  | .aBuffer core =>
    match err.gid with
    | some gid =>
      .next ((s.bufWrite (s.group gid).team 1 (unitOf 1 core) false (err.address / 8 * 8) ((List.range 8).map fun _ => 0)).readPoison gid)
    | none => .next s
  | .cBuffer _ =>
    match err.gid with
    | some gid => .next ((s.bufWrite (s.group gid).team 2 0 false (err.address / 8 * 8) ((List.range 8).map fun _ => 0)).readPoison gid)
    | none => .next s
  | .wStore q =>
    let hit := fun (r : Range) => r.space == 3 && decide (r.lo ≤ err.address) && decide (err.address < r.hi)
    match List.find? (fun p : Nat × Work => p.2.cluster == q && p.2.kind == .entry && p.2.state ≤ 1 && p.2.reads.any hit) s.works with
    | some (id, _) => .next { s with works := s.works.modify id fun w => { w with state := 3 } }
    | none =>
      match List.find? (fun p : Nat × Command => p.2.kind == .copy && p.2.state == 1 && p.2.core / 4 == q && p.2.reads.any hit) s.commands with
      | some (id, c) => .next (s.endCommand id c (some (.poison, 0)))
      | none => .next s
  | .fabricBuffer _ =>
    let (j, i) := fragmentOf err
    .next { s with slots := s.slots.modify err.address fun d =>
      { d with stripes := d.stripes.modify j fun x => if x.done then x else { x with frags := x.frags.erase i } } }
  | .retention _ => .next { s with kept := s.kept.modify err.address fun x => { x with dropped := x.dropped ++ [fragmentOf err] } }

/-- The ways of an L2 set, as the example of R428 has them (DESIGN CHOICE, notes/assumptions/125). -/
def l2Ways : Nat := 8

/-- Whether a slice has a set left with fewer than two ways (R427). -/
def State.sliceShort (s : State) (slice : Nat) : Bool :=
  let mine := (s.waysOff.filter fun k => k / 2 ^ 58 == slice * 2).map (· / 64)
  mine.any fun set => decide (l2Ways < (mine.filter (· == set)).length + 2)

/-- SLICE_RETIRE (R427, R428): a slice short of ways is out of service once no operation is in progress on a grain of it: the grains of other
homes that it holds are given back, and those of its own are at home. -/
def execSliceRetire (slice : Nat) (s : State) : Result :=
  let mine := fun (g : Nat) => s.sliceOf (g * 512) == slice
  if s.slicesOff.contains slice || !s.sliceShort slice then .next s
  else if (s.txns.any fun p => mine p.1) || s.replicaStores.any fun p => mine p.1 then .next s
  else
    let s := ((s.held.filter fun p => mine p.1).map (·.1)).foldl State.giveBack s
    .next ({ s with slicesOff := s.slicesOff ++ [slice] }.logError 4 (siteUnit (.l2 slice)) 0)

/-! ### Power and temperature (R15, R430) -/

/-- POWER_GATING (R15, R16): 0 lets all work go on, 1 withholds new teams, 2 spaces matrix passes too, 3 lowers ACLK too. -/
def execPowerGating (level : Nat) (s : State) : Result := .next { s with gate := min level 3 }

/-- Sets THERMAL: the hottest die, throttling and trip. -/
def State.setThermal (s : State) (celsius : Nat) (throttle trip : Bool) : State :=
  let w := min celsius 255 + (if throttle then 2 ^ 8 else 0) + (if trip then 2 ^ 9 else 0)
  { s with cfg := s.cfg.insert 0x5E (BitVec.ofNat 64 w) }

/-- THERMAL_THROTTLE (R430). -/
def execThermalThrottle (celsius : Nat) (s : State) : Result :=
  if celsius < 105 then .next s else .next ((s.setThermal celsius true (bitAt (s.cfgVal 0x5E) 9)).logError 5 0 0)

/-- THERMAL_THROTTLE_END (R430). -/
def execThermalThrottleEnd (celsius : Nat) (s : State) : Result :=
  if 100 ≤ celsius then .next s else .next (s.setThermal celsius false (bitAt (s.cfgVal 0x5E) 9))

/-- THERMAL_TRIP (R430): every context is to be killed, and the module holds itself in reset. -/
def execThermalTrip (celsius : Nat) (s : State) : Result :=
  if celsius < 115 then .next s
  else
    let s := (s.setThermal celsius (bitAt (s.cfgVal 0x5E) 8) true).logError 6 0 0
    let cs := (s.ctxs.filter fun p => p.2.status != .free && p.2.status != .killed).map (·.1)
    .next (cs.foldl (fun (s : State) c => s.askKill c systemKill) { s with inReset := true })

/-! ### Boot and attestation (R431 to R433) -/

/-- Whether the boot ROM accepts an image: both signatures verify, and its security version is not below the fused minimum. -/
def imageAccepted (version : BitVec 16) (ed mldsa : Bool) : Bool := ed && mldsa && decide (Config.fusedMinimum ≤ version.toNat)

/-- The module after it has booted: reset, but for what the controller's flash keeps and what lies outside the module. -/
def State.booted (s : State) (version : BitVec 16) (ed mldsa fromRecovery inRecovery : Bool) : State :=
  let status := version.toNat + (if ed then 2 ^ 16 else 0) + (if mldsa then 2 ^ 17 else 0) +
    (if fromRecovery && !inRecovery then 2 ^ 18 else 0)
  { State.reset with
    agenda := s.agenda, freeCtr := s.freeCtr, images := s.images, outbox := s.outbox, wayFaults := s.wayFaults, waysOff := s.waysOff
    slicesOff := s.slicesOff, errorLog := s.errorLog, logLost := s.logLost, recovery := inRecovery
    fwVersion := if inRecovery then s.fwVersion else version.toNat
    cfg := [(0x5F, BitVec.ofNat 64 status)] }.logError 8 0 0

/-- BOOT (R432): the image is accepted, or the module enters recovery. -/
def execBoot (_image : List (BitVec 8)) (version : BitVec 16) (ed mldsa : Bool) (s : State) : Result :=
  .next (s.booted version ed mldsa false (!imageAccepted version ed mldsa))

/-- RECOVERY_DOORBELL (R432): an image that fits the buffer and verifies is installed, and the module resets; otherwise it stays in
recovery with BOOT_STATUS set. -/
def execRecoveryDoorbell (image : List (BitVec 8)) (version : BitVec 16) (ed mldsa : Bool) (s : State) : Result :=
  if !s.recovery then .next s.hostErr
  else .next (s.booted version ed mldsa true (!(decide (image.length ≤ 2 ^ 22) && imageAccepted version ed mldsa)))

/-- SPDM_REQUEST (R433): the controller answers with a response signed by both keys, whose bytes are free values. -/
def execSpdmRequest (_request : List (BitVec 8)) (s : State) : Result :=
  .next ({ s with freeCtr := s.freeCtr + 1 }.send (.management (Config.spdmResponse s.freeCtr)))

end Sys2Proof.Machine
end

