-- ==== Sys2Proof/Machine/Dispatch.lean ====
section
/-! DEFINITION. One arm per instruction, each one call of its meaning. -/

namespace Sys2Proof.Machine

def exec (i : Instr) (s : State) : Host.Outcome State Fault Refusal :=
  match i with
  | .add f ls => Sys2Proof.Machine.execAdd f ls s
  | .sub f ls => Sys2Proof.Machine.execSub f ls s
  | .addSatSigned f ls => Sys2Proof.Machine.execAddSatSigned f ls s
  | .addSatUnsigned f ls => Sys2Proof.Machine.execAddSatUnsigned f ls s
  | .subSatSigned f ls => Sys2Proof.Machine.execSubSatSigned f ls s
  | .subSatUnsigned f ls => Sys2Proof.Machine.execSubSatUnsigned f ls s
  | .mul f ls => Sys2Proof.Machine.execMul f ls s
  | .mulhiSigned f ls => Sys2Proof.Machine.execMulhiSigned f ls s
  | .mulhiUnsigned f ls => Sys2Proof.Machine.execMulhiUnsigned f ls s
  | .mad f ls => Sys2Proof.Machine.execMad f ls s
  | .abs f ls => Sys2Proof.Machine.execAbs f ls s
  | .pack f ls => Sys2Proof.Machine.execPack f ls s
  | .minSigned f ls => Sys2Proof.Machine.execMinSigned f ls s
  | .minUnsigned f ls => Sys2Proof.Machine.execMinUnsigned f ls s
  | .maxSigned f ls => Sys2Proof.Machine.execMaxSigned f ls s
  | .maxUnsigned f ls => Sys2Proof.Machine.execMaxUnsigned f ls s
  | .and f ls => Sys2Proof.Machine.execAnd f ls s
  | .or f ls => Sys2Proof.Machine.execOr f ls s
  | .xor f ls => Sys2Proof.Machine.execXor f ls s
  | .unpack f ls => Sys2Proof.Machine.execUnpack f ls s
  | .andn f ls => Sys2Proof.Machine.execAndn f ls s
  | .shl f ls => Sys2Proof.Machine.execShl f ls s
  | .shr f ls => Sys2Proof.Machine.execShr f ls s
  | .sar f ls => Sys2Proof.Machine.execSar f ls s
  | .rol f ls => Sys2Proof.Machine.execRol f ls s
  | .clz f ls => Sys2Proof.Machine.execClz f ls s
  | .ctz f ls => Sys2Proof.Machine.execCtz f ls s
  | .popc f ls => Sys2Proof.Machine.execPopc f ls s
  | .brev f ls => Sys2Proof.Machine.execBrev f ls s
  | .bfx f ls => Sys2Proof.Machine.execBfx f ls s
  | .swz f ls => Sys2Proof.Machine.execSwz f ls s
  | .bfi f ls => Sys2Proof.Machine.execBfi f ls s
  | .cmpSigned f ls => Sys2Proof.Machine.execCmpSigned f ls s
  | .cmpUnsigned f ls => Sys2Proof.Machine.execCmpUnsigned f ls s
  | .kop f ls => Sys2Proof.Machine.execKop f ls s
  | .sel f ls => Sys2Proof.Machine.execSel f ls s
  | .lea f ls => Sys2Proof.Machine.execLea f ls s
  | .movl f ls => Sys2Proof.Machine.execMovl f ls s
  | .gmov f ls => Sys2Proof.Machine.execGmov f ls s
  | .cvti f ls => Sys2Proof.Machine.execCvti f ls s
  | .xlSh f ls => Sys2Proof.Machine.execXlSh f ls s
  | .xlBc f ls => Sys2Proof.Machine.execXlBc f ls s
  | .xlRed f ls => Sys2Proof.Machine.execXlRed f ls s
  | .xlScan f ls => Sys2Proof.Machine.execXlScan f ls s
  | .xlVoteAll f ls => Sys2Proof.Machine.execXlVoteAll f ls s
  | .xlVoteAny f ls => Sys2Proof.Machine.execXlVoteAny f ls s
  | .xlVoteUni f ls => Sys2Proof.Machine.execXlVoteUni f ls s
  | .xlBal f ls => Sys2Proof.Machine.execXlBal f ls s
  | .dp4 f ls => Sys2Proof.Machine.execDp4 f ls s
  | .rnd f ls => Sys2Proof.Machine.execRnd f ls s
  | .dp8 f ls => Sys2Proof.Machine.execDp8 f ls s
  | .fadd f ls => Sys2Proof.Machine.execFadd f ls s
  | .fsub f ls => Sys2Proof.Machine.execFsub f ls s
  | .fmul f ls => Sys2Proof.Machine.execFmul f ls s
  | .ffma f ls => Sys2Proof.Machine.execFfma f ls s
  | .fmin f ls => Sys2Proof.Machine.execFmin f ls s
  | .fmax f ls => Sys2Proof.Machine.execFmax f ls s
  | .fminn f ls => Sys2Proof.Machine.execFminn f ls s
  | .fmaxn f ls => Sys2Proof.Machine.execFmaxn f ls s
  | .fabs f ls => Sys2Proof.Machine.execFabs f ls s
  | .fneg f ls => Sys2Proof.Machine.execFneg f ls s
  | .fcmp f ls => Sys2Proof.Machine.execFcmp f ls s
  | .fclass f ls => Sys2Proof.Machine.execFclass f ls s
  | .fcvt f ls => Sys2Proof.Machine.execFcvt f ls s
  | .fcvti f ls => Sys2Proof.Machine.execFcvti f ls s
  | .icvtf f ls => Sys2Proof.Machine.execIcvtf f ls s
  | .frnd f ls => Sys2Proof.Machine.execFrnd f ls s
  | .fscl f ls => Sys2Proof.Machine.execFscl f ls s
  | .fexpo f ls => Sys2Proof.Machine.execFexpo f ls s
  | .fdiv f ls => Sys2Proof.Machine.execFdiv f ls s
  | .frcp f ls => Sys2Proof.Machine.execFrcp f ls s
  | .frsq f ls => Sys2Proof.Machine.execFrsq f ls s
  | .fsqrt f ls => Sys2Proof.Machine.execFsqrt f ls s
  | .fexp2 f ls => Sys2Proof.Machine.execFexp2 f ls s
  | .flog2 f ls => Sys2Proof.Machine.execFlog2 f ls s
  | .fexp f ls => Sys2Proof.Machine.execFexp f ls s
  | .fsinpi f ls => Sys2Proof.Machine.execFsinpi f ls s
  | .fcospi f ls => Sys2Proof.Machine.execFcospi f ls s
  | .ftanh f ls => Sys2Proof.Machine.execFtanh f ls s
  | .ld f ls => Sys2Proof.Machine.execLd f ls s
  | .st f ls => Sys2Proof.Machine.execSt f ls s
  | .lda f ls => Sys2Proof.Machine.execLda f ls s
  | .sta f ls => Sys2Proof.Machine.execSta f ls s
  | .ldc f ls => Sys2Proof.Machine.execLdc f ls s
  | .stc f ls => Sys2Proof.Machine.execStc f ls s
  | .pf f ls => Sys2Proof.Machine.execPf f ls s
  | .preq f ls => Sys2Proof.Machine.execPreq f ls s
  | .cinv f ls => Sys2Proof.Machine.execCinv f ls s
  | .cwb f ls => Sys2Proof.Machine.execCwb f ls s
  | .hmov f ls => Sys2Proof.Machine.execHmov f ls s
  | .hnarrow f ls => Sys2Proof.Machine.execHnarrow f ls s
  | .hoff f ls => Sys2Proof.Machine.execHoff f ls s
  | .hsave f ls => Sys2Proof.Machine.execHsave f ls s
  | .hload f ls => Sys2Proof.Machine.execHload f ls s
  | .hinfo f ls => Sys2Proof.Machine.execHinfo f ls s
  | .fence f ls => Sys2Proof.Machine.execFence f ls s
  | .acq f ls => Sys2Proof.Machine.execAcq f ls s
  | .rel f ls => Sys2Proof.Machine.execRel f ls s
  | .mvrange f ls => Sys2Proof.Machine.execMvrange f ls s
  | .mvwait f ls => Sys2Proof.Machine.execMvwait f ls s
  | .wsclose f ls => Sys2Proof.Machine.execWsclose f ls s
  | .wsreset f ls => Sys2Proof.Machine.execWsreset f ls s
  | .wsstate f ls => Sys2Proof.Machine.execWsstate f ls s
  | .pgclass f ls => Sys2Proof.Machine.execPgclass f ls s
  | .replicAdd f ls => Sys2Proof.Machine.execReplicAdd f ls s
  | .replicRem f ls => Sys2Proof.Machine.execReplicRem f ls s
  | .atom f ls => Sys2Proof.Machine.execAtom f ls s
  | .red f ls => Sys2Proof.Machine.execRed f ls s
  | .await f ls => Sys2Proof.Machine.execAwait f ls s
  | .gang f ls => Sys2Proof.Machine.execGang f ls s
  | .mzero f ls => Sys2Proof.Machine.execMzero f ls s
  | .mmx f ls => Sys2Proof.Machine.execMmx f ls s
  | .mmxs f ls => Sys2Proof.Machine.execMmxs f ls s
  | .mdrain f ls => Sys2Proof.Machine.execMdrain f ls s
  | .mstat f ls => Sys2Proof.Machine.execMstat f ls s
  | .mcks f ls => Sys2Proof.Machine.execMcks f ls s
  | .mcancel f ls => Sys2Proof.Machine.execMcancel f ls s
  | .cpy f ls => Sys2Proof.Machine.execCpy f ls s
  | .cpyg f ls => Sys2Proof.Machine.execCpyg f ls s
  | .cfill f ls => Sys2Proof.Machine.execCfill f ls s
  | .publish f ls => Sys2Proof.Machine.execPublish f ls s
  | .ewait f ls => Sys2Proof.Machine.execEwait f ls s
  | .estat f ls => Sys2Proof.Machine.execEstat f ls s
  | .mig f ls => Sys2Proof.Machine.execMig f ls s
  | .dgst f ls => Sys2Proof.Machine.execDgst f ls s
  | .fput f ls => Sys2Proof.Machine.execFput f ls s
  | .fget f ls => Sys2Proof.Machine.execFget f ls s
  | .fsend f ls => Sys2Proof.Machine.execFsend f ls s
  | .frecv f ls => Sys2Proof.Machine.execFrecv f ls s
  | .fstat f ls => Sys2Proof.Machine.execFstat f ls s
  | .cinit f ls => Sys2Proof.Machine.execCinit f ls s
  | .cpost f ls => Sys2Proof.Machine.execCpost f ls s
  | .cwait f ls => Sys2Proof.Machine.execCwait f ls s
  | .cbar f ls => Sys2Proof.Machine.execCbar f ls s
  | .cfree f ls => Sys2Proof.Machine.execCfree f ls s
  | .snap f ls => Sys2Proof.Machine.execSnap f ls s
  | .snapst f ls => Sys2Proof.Machine.execSnapst f ls s
  | .snapwait f ls => Sys2Proof.Machine.execSnapwait f ls s
  | .snapdrop f ls => Sys2Proof.Machine.execSnapdrop f ls s
  | .gspawn f ls => Sys2Proof.Machine.execGspawn f ls s
  | .glaunch f ls => Sys2Proof.Machine.execGlaunch f ls s
  | .gwait f ls => Sys2Proof.Machine.execGwait f ls s
  | .gcancel f ls => Sys2Proof.Machine.execGcancel f ls s
  | .budget f ls => Sys2Proof.Machine.execBudget f ls s
  | .detsig f ls => Sys2Proof.Machine.execDetsig f ls s
  | .ctxsave f ls => Sys2Proof.Machine.execCtxsave f ls s
  | .ctxload f ls => Sys2Proof.Machine.execCtxload f ls s
  | .tlbinv f ls => Sys2Proof.Machine.execTlbinv f ls s
  | .asidinv f ls => Sys2Proof.Machine.execAsidinv f ls s
  | .injMat f ls => Sys2Proof.Machine.execInjMat f ls s
  | .injFrag f ls => Sys2Proof.Machine.execInjFrag f ls s
  | .injPoison f ls => Sys2Proof.Machine.execInjPoison f ls s
  | .preempt f ls => Sys2Proof.Machine.execPreempt f ls s
  | .bra f => Sys2Proof.Machine.execBra f s
  | .call f => Sys2Proof.Machine.execCall f s
  | .brx f ls => Sys2Proof.Machine.execBrx f ls s
  | .callx f ls => Sys2Proof.Machine.execCallx f ls s
  | .ret f ls => Sys2Proof.Machine.execRet f ls s
  | .exit f ls => Sys2Proof.Machine.execExit f ls s
  | .yield f ls => Sys2Proof.Machine.execYield f ls s
  | .nop f ls => Sys2Proof.Machine.execNop f ls s
  | .srd f ls => Sys2Proof.Machine.execSrd f ls s
  | .swr f ls => Sys2Proof.Machine.execSwr f ls s
  | .trap f ls => Sys2Proof.Machine.execTrap f ls s
  | .brk f ls => Sys2Proof.Machine.execBrk f ls s
  | .barSync f ls => Sys2Proof.Machine.execBarSync f ls s
  | .barArrive f ls => Sys2Proof.Machine.execBarArrive f ls s
  | .barWait f ls => Sys2Proof.Machine.execBarWait f ls s
  | .step f ls => Sys2Proof.Machine.execStep f ls s
  | .stepPod f ls => Sys2Proof.Machine.execStepPod f ls s
  | .tret f ls => Sys2Proof.Machine.execTret f ls s
  | .cfgrd f ls => Sys2Proof.Machine.execCfgrd f ls s
  | .cfgwr f ls => Sys2Proof.Machine.execCfgwr f ls s
  | .clauseIssue gid pc => Sys2Proof.Machine.execClauseIssue gid pc s
  | .bundlePriorityAging gid pc => Sys2Proof.Machine.execBundlePriorityAging gid pc s
  | .yieldDelayExpiry gid lanes => Sys2Proof.Machine.execYieldDelayExpiry gid lanes s
  | .deferredEventLanding id => Sys2Proof.Machine.execDeferredEventLanding id s
  | .sfuEntryStart core => Sys2Proof.Machine.execSfuEntryStart core s
  | .sfuResultLanding core => Sys2Proof.Machine.execSfuResultLanding core s
  | .groupRetire gid => Sys2Proof.Machine.execGroupRetire gid s
  | .stepComplete grid => Sys2Proof.Machine.execStepComplete grid s
  | .gets chip epoch pa => Sys2Proof.Machine.execGets chip epoch pa s
  | .getm chip epoch pa => Sys2Proof.Machine.execGetm chip epoch pa s
  | .forward chip epoch pa excl => Sys2Proof.Machine.execForward chip epoch pa excl s
  | .grainData chip epoch pa tag data => Sys2Proof.Machine.execGrainData chip epoch pa tag data s
  | .wsWaitExpiry id => Sys2Proof.Machine.execWsWaitExpiry id s
  | .moveTimeoutExpiry id => Sys2Proof.Machine.execMoveTimeoutExpiry id s
  | .atomicEngineOperation cluster grain => Sys2Proof.Machine.execAtomicEngineOperation cluster grain s
  | .atomicGrainRecall cluster grain => Sys2Proof.Machine.execAtomicGrainRecall cluster grain s
  | .homeSliceAtomic grain => Sys2Proof.Machine.execHomeSliceAtomic grain s
  | .awaitTest id => Sys2Proof.Machine.execAwaitTest id s
  | .awaitRetestTimer id => Sys2Proof.Machine.execAwaitRetestTimer id s
  | .rendezvousLatchGrant cluster => Sys2Proof.Machine.execRendezvousLatchGrant cluster s
  | .matrixEntryPlacement cluster team tag => Sys2Proof.Machine.execMatrixEntryPlacement cluster team tag s
  | .matrixPass cluster => Sys2Proof.Machine.execMatrixPass cluster s
  | .matrixStarvationPriority cluster id => Sys2Proof.Machine.execMatrixStarvationPriority cluster id s
  | .matrixCompletion cluster id => Sys2Proof.Machine.execMatrixCompletion cluster id s
  | .matrixDrainRun cluster => Sys2Proof.Machine.execMatrixDrainRun cluster s
  | .matrixZeroRun cluster => Sys2Proof.Machine.execMatrixZeroRun cluster s
  | .copyCommandStart cluster id => Sys2Proof.Machine.execCopyCommandStart cluster id s
  | .copyCommandCompletion cluster id => Sys2Proof.Machine.execCopyCommandCompletion cluster id s
  | .engineStatusUpdate id => Sys2Proof.Machine.execEngineStatusUpdate id s
  | .publishExecution id => Sys2Proof.Machine.execPublishExecution id s
  | .messageInjection dst cls => Sys2Proof.Machine.execMessageInjection dst cls s
  | .dataFragmentReceive hdr payload => Sys2Proof.Machine.execDataFragmentReceive hdr payload s
  | .decodeDeadlineExpiry src cls seq stripe => Sys2Proof.Machine.execDecodeDeadlineExpiry src cls seq stripe s
  | .messageDelivery src cls => Sys2Proof.Machine.execMessageDelivery src cls s
  | .ackCoalesceExpiry src cls => Sys2Proof.Machine.execAckCoalesceExpiry src cls s
  | .filterEntryExpiry src cls seq => Sys2Proof.Machine.execFilterEntryExpiry src cls seq s
  | .ackReceive dst cls seq => Sys2Proof.Machine.execAckReceive dst cls seq s
  | .nackReceive dst cls seq stripe => Sys2Proof.Machine.execNackReceive dst cls seq stripe s
  | .busyReplyReceive dst cls seq => Sys2Proof.Machine.execBusyReplyReceive dst cls seq s
  | .busyWaitExpiry dst cls seq => Sys2Proof.Machine.execBusyWaitExpiry dst cls seq s
  | .ackWaitExpiry dst cls seq stripe => Sys2Proof.Machine.execAckWaitExpiry dst cls seq stripe s
  | .lossNoticeReceive src cls seq kind info => Sys2Proof.Machine.execLossNoticeReceive src cls seq kind info s
  | .lossNoticeRepeat dst cls seq => Sys2Proof.Machine.execLossNoticeRepeat dst cls seq s
  | .combineResultReceive ctx round fail data => Sys2Proof.Machine.execCombineResultReceive ctx round fail data s
  | .markerReceive src cls epoch initiator dtag => Sys2Proof.Machine.execMarkerReceive src cls epoch initiator dtag s
  | .snapshotSweep colour => Sys2Proof.Machine.execSnapshotSweep colour s
  | .snapshotChipComplete colour => Sys2Proof.Machine.execSnapshotChipComplete colour s
  | .snapshotReportReceive chip colour => Sys2Proof.Machine.execSnapshotReportReceive chip colour s
  | .snapshotDropFinish colour => Sys2Proof.Machine.execSnapshotDropFinish colour s
  | .trapEntry gid => Sys2Proof.Machine.execTrapEntry gid s
  | .contextKill ctx => Sys2Proof.Machine.execContextKill ctx s
  | .drainLimitExpiry ctx => Sys2Proof.Machine.execDrainLimitExpiry ctx s
  | .forcedSave team => Sys2Proof.Machine.execForcedSave team s
  | .teamDispatch grid team cluster cores => Sys2Proof.Machine.execTeamDispatch grid team cluster cores s
  | .starvationSwap grid => Sys2Proof.Machine.execStarvationSwap grid s
  | .nodeVisitGrid ctx slot => Sys2Proof.Machine.execNodeVisitGrid ctx slot s
  | .nodeVisitCopy ctx slot => Sys2Proof.Machine.execNodeVisitCopy ctx slot s
  | .nodeVisitColl ctx slot => Sys2Proof.Machine.execNodeVisitColl ctx slot s
  | .nodeVisitCond ctx slot => Sys2Proof.Machine.execNodeVisitCond ctx slot s
  | .nodeVisitWhile ctx slot => Sys2Proof.Machine.execNodeVisitWhile ctx slot s
  | .nodeVisitSnap ctx slot => Sys2Proof.Machine.execNodeVisitSnap ctx slot s
  | .nodeVisitHostsig ctx slot => Sys2Proof.Machine.execNodeVisitHostsig ctx slot s
  | .nodeVisitEnd ctx slot => Sys2Proof.Machine.execNodeVisitEnd ctx slot s
  | .gridComplete grid => Sys2Proof.Machine.execGridComplete grid s
  | .gridEndDigest grid => Sys2Proof.Machine.execGridEndDigest grid s
  | .eventAreaWrite ctx => Sys2Proof.Machine.execEventAreaWrite ctx s
  | .dropReportReceive chip colour => Sys2Proof.Machine.execDropReportReceive chip colour s
  | .contextBecomesLive ctx q => Sys2Proof.Machine.execContextBecomesLive ctx q s
  | .clauseCommit => Sys2Proof.Machine.execClauseCommit s
  | .stepNoticeReceive chip stag n seqs => Sys2Proof.Machine.execStepNoticeReceive chip stag n seqs s
  | .ltsSelfAdvance => Sys2Proof.Machine.execLtsSelfAdvance s
  | .moduleRebase => Sys2Proof.Machine.execModuleRebase s
  | .upgrade chip pa => Sys2Proof.Machine.execUpgrade chip pa s
  | .putm chip pa data => Sys2Proof.Machine.execPutm chip pa data s
  | .puto chip pa data => Sys2Proof.Machine.execPuto chip pa data s
  | .invalidate pa => Sys2Proof.Machine.execInvalidate pa s
  | .coherenceAck chip pa dirty => Sys2Proof.Machine.execCoherenceAck chip pa dirty s
  | .hostAtomicCompletion id st old => Sys2Proof.Machine.execHostAtomicCompletion id st old s
  | .hostAccessCompletion id st data => Sys2Proof.Machine.execHostAccessCompletion id st data s
  | .hostSnoop hpa => Sys2Proof.Machine.execHostSnoop hpa s
  | .migrationPageMove => Sys2Proof.Machine.execMigrationPageMove s
  | .digestCompletion => Sys2Proof.Machine.execDigestCompletion s
  | .mordantLakeWrite => Sys2Proof.Machine.execMordantLakeWrite s
  | .fragmentForward hdr payload => Sys2Proof.Machine.execFragmentForward hdr payload s
  | .combineContributionReceive ctx chip round agreed fail data => Sys2Proof.Machine.execCombineContributionReceive ctx chip round agreed fail data s
  | .snapshotRecordInstant => Sys2Proof.Machine.execSnapshotRecordInstant s
  | .sealNoticeReceive colour => Sys2Proof.Machine.execSealNoticeReceive colour s
  | .failureNoticeReceive colour => Sys2Proof.Machine.execFailureNoticeReceive colour s
  | .dropNoticeReceive colour => Sys2Proof.Machine.execDropNoticeReceive colour s
  | .patrolScrub grain bad => Sys2Proof.Machine.execPatrolScrub grain bad s
  | .walkStartWrite ctx slot value => Sys2Proof.Machine.execWalkStartWrite ctx slot value s
  | .eventAreaRetry ctx consumer => Sys2Proof.Machine.execEventAreaRetry ctx consumer s
  | .hostConfigWrite reg value => Sys2Proof.Machine.execHostConfigWrite reg value s
  | .pathTableWrite chip word value => Sys2Proof.Machine.execPathTableWrite chip word value s
  | .placementTableWrite entry value => Sys2Proof.Machine.execPlacementTableWrite entry value s
  | .vfGrantWrite vf value => Sys2Proof.Machine.execVfGrantWrite vf value s
  | .ctxCmdDrain ctx => Sys2Proof.Machine.execCtxCmdDrain ctx s
  | .ctxCmdDrainNow ctx => Sys2Proof.Machine.execCtxCmdDrainNow ctx s
  | .ctxCmdKill ctx => Sys2Proof.Machine.execCtxCmdKill ctx s
  | .ctxCmdResume ctx => Sys2Proof.Machine.execCtxCmdResume ctx s
  | .ctxCmdEnd ctx => Sys2Proof.Machine.execCtxCmdEnd ctx s
  | .hostW2Read addr len => Sys2Proof.Machine.execHostW2Read addr len s
  | .hostW2Write addr data => Sys2Proof.Machine.execHostW2Write addr data s
  | .poisonClear pa => Sys2Proof.Machine.execPoisonClear pa s
  | .linkTraining tier link gib => Sys2Proof.Machine.execLinkTraining tier link gib s
  | .boot image version ed mldsa => Sys2Proof.Machine.execBoot image version ed mldsa s
  | .recoveryDoorbell image version ed mldsa => Sys2Proof.Machine.execRecoveryDoorbell image version ed mldsa s
  | .spdmRequest request => Sys2Proof.Machine.execSpdmRequest request s
  | .powerGating level => Sys2Proof.Machine.execPowerGating level s
  | .thermalThrottle celsius => Sys2Proof.Machine.execThermalThrottle celsius s
  | .thermalThrottleEnd celsius => Sys2Proof.Machine.execThermalThrottleEnd celsius s
  | .thermalTrip celsius => Sys2Proof.Machine.execThermalTrip celsius s
  | .correctedError err => Sys2Proof.Machine.execCorrectedError err s
  | .uncorrectableError err => Sys2Proof.Machine.execUncorrectableError err s
  | .sliceRetire slice => Sys2Proof.Machine.execSliceRetire slice s
  | .framePoolWaitExpiry => Sys2Proof.Machine.execFramePoolWaitExpiry s
  | .snapshotRestoration colour => Sys2Proof.Machine.execSnapshotRestoration colour s

end Sys2Proof.Machine
end

