-- ==== Sys2Proof/Machine/Pilot.lean ====
section
/-!
DEFINITION. What the machine does by itself when nothing outside it acts: the events that its state makes possible, and the one it takes
next (the order among events that the spec leaves to the part is fixed here; notes/assumptions/1).
-/

namespace Sys2Proof.Machine

/-! ### The events that the state makes possible -/

/-- Clause issue, trap entry, delays, aging and retirement of the groups (R66, R71, R81, R366). -/
def State.groupEvents (s : State) : List Instr :=
  s.groups.flatMap fun p =>
    let due := Lanes.of fun l => match (p.2.thread l).status with
      | .delayed n => decide (n ≤ s.clock)
      | _ => false
    [.trapEntry p.1, .groupRetire p.1] ++ (if due == 0 then [] else [.yieldDelayExpiry p.1 due]) ++
      p.2.bundles.flatMap fun b => if b.inSlot then [] else [.bundlePriorityAging p.1 b.pc.toNat, .clauseIssue p.1 b.pc.toNat]

/-- Landings and the SFU queues (R31, R161, R241). -/
def State.landingEvents (s : State) : List Instr :=
  s.deferred.flatMap (fun p => [.deferredEventLanding p.1, .moveTimeoutExpiry p.1]) ++
    s.sfu.flatMap fun p => if p.2.isEmpty then [] else [.sfuResultLanding p.1, .sfuEntryStart p.1]

/-- The units that perform atomics and test waits (R252 to R255, R263, R264). -/
def State.accessEvents (s : State) : List Instr :=
  (s.remoteOps.filter fun o => o.kind == .atomic).map (fun o => .homeSliceAtomic (grainOf o.pa)) ++ s.accesses.flatMap fun a =>
    match a.op with
    | .atomic .. => [.atomicEngineOperation (a.core / 4) (grainOf a.pa), .homeSliceAtomic (grainOf a.pa), .wsWaitExpiry a.id]
    | .await .. => [if s.isParked a then .awaitTest a.id else .awaitRetestTimer a.id, .wsWaitExpiry a.id]
    | _ => [.wsWaitExpiry a.id]

/-- The matrix units (R275, R278, R283, R286, R290). -/
def State.matrixEvents (s : State) : List Instr :=
  s.latchWaits.map (fun p => .rendezvousLatchGrant p.1) ++
  s.latches.flatMap (fun p => p.2.map fun l => .matrixEntryPlacement p.1 l.team l.tag) ++
  s.works.flatMap fun p =>
    [.matrixCompletion p.2.cluster p.1, .matrixStarvationPriority p.2.cluster p.1, .matrixPass p.2.cluster, .matrixDrainRun p.2.cluster,
     .matrixZeroRun p.2.cluster]

/-- The engines (R300, R305, R307, R308, R310). -/
def State.engineEvents (s : State) : List Instr :=
  (s.commands.flatMap fun p =>
    (if s.statusDue p.2 then [.engineStatusUpdate p.1] else []) ++
    match p.2.kind with
    | .copy => [.copyCommandCompletion (p.2.core / 4) p.1, .copyCommandStart (p.2.core / 4) p.1]
    | .publish => [.publishExecution p.1]
    | _ => []) ++
  (if s.commands.isEmpty then [] else [.migrationPageMove, .framePoolWaitExpiry, .digestCompletion])

/-- The peer and class of a channel's number, and the seq of a message's. -/
def chanPeer (k : Nat) : Nat := k / 8
/-- The class of a channel's number. -/
def chanClass (k : Nat) : Nat := k % 8

/-- The fabric: injection, delivery, timers and retries (R322 to R327). -/
def State.fabricEvents (s : State) : List Instr :=
  s.sendQ.map (fun p => .messageInjection (chanPeer p.1) (chanClass p.1)) ++
  (s.kept.flatMap fun p =>
    let c := p.1 / 2 ^ 32
    let q := p.1 % 2 ^ 32
    (if p.2.acked then [.ackReceive (chanPeer c) (chanClass c) q] else []) ++
    [.busyWaitExpiry (chanPeer c) (chanClass c) q, .lossNoticeRepeat (chanPeer c) (chanClass c) q] ++
    (List.range p.2.sent.length).map fun j => .ackWaitExpiry (chanPeer c) (chanClass c) q j) ++
  s.recv.flatMap (fun p => [.messageDelivery (chanPeer p.1) (chanClass p.1), .ackCoalesceExpiry (chanPeer p.1) (chanClass p.1)]) ++
  (s.slots.flatMap fun p => let c := p.1 / 2 ^ 32
    .messageDelivery (chanPeer c) (chanClass c) ::
      p.2.stripes.map fun x => .decodeDeadlineExpiry (chanPeer c) (chanClass c) (p.1 % 2 ^ 32) x.1) ++
  s.filter.map fun p => .filterEntryExpiry (chanPeer (p.1 / 2 ^ 32)) (chanClass (p.1 / 2 ^ 32)) (p.1 % 2 ^ 32)

/-- The snapshots (R347, R353, R356, R364). -/
def State.snapEvents (s : State) : List Instr :=
  s.snaps.flatMap fun p =>
    if p.2.state == 0 then []
    else [.snapshotRecordInstant, .mordantLakeWrite, .snapshotSweep (BitVec.ofNat 1 p.1), .snapshotChipComplete (BitVec.ofNat 1 p.1),
          .snapshotDropFinish (BitVec.ofNat 1 p.1)]

/-- The cores of all teams of a stepped grid that its clusters hold together only where no team keeps the place that it would take alone:
the clusters that its context uses already first, then those that hold most. -/
def State.packedCores (s : State) (g : Grid) : Option (List Nat) :=
  let k := g.kernel
  let limit := (s.limitsOf g.ctx).headD 0
  let mine := s.clustersOf g.ctx
  let counted := fun (qs : List Nat) => qs.map fun q => (q, (s.room q).count k 64)
  let new := (counted (clusters.filter fun q => !mine.contains q)).mergeSort fun a b => b.2 ≤ a.2
  let (cores, left) := (counted (clusters.filter mine.contains) ++ if limit == 0 then new else new.take (limit - mine.length)).foldl
    (fun (p : List Nat × Nat) x =>
      match packTeams k (min p.2 x.2) (s.room x.1) k.patterns with
      | some ts => (p.1 ++ ts.flatten.map (· + x.1 * 4), p.2 - ts.length)
      | none => p) ([], g.teams)
  if left == 0 then some cores else none

/-- The cores on which the next team of a grid, or all the teams of a stepped grid, would be placed: the first that fit. Where the first
waits for its argument block (R64), its cores are answered, so that the dispatch goes on reading it. -/
def State.coresOfNext (s : State) (c : Candidate) : Option (List Nat) :=
  if (s.grid c.grid).stepped && c.saved.isNone then
    match s.choose { grid := c.grid, index := 0 } true, s.argBlock c.grid with
    | some (_, cores), .wait _ => some cores
    | _, _ =>
      ((List.range (s.grid c.grid).teams).foldl (fun (p : Option (List Nat × State)) i =>
        p.bind fun (l, t) => (t.choose { grid := c.grid, index := i } true).bind fun (_, cores) =>
          match t.placeOne { grid := c.grid, index := i } cores with
          | .ok _ t => some (l ++ cores, t)
          | _ => none) (some ([], s))).map (·.1) |>.orElse fun _ => s.packedCores (s.grid c.grid)
  else (s.choose c true).map (·.2)

/-- Placement, steps and ends of grids (R91, R396, R399, R402, R406). -/
def State.gridEvents (s : State) : List Instr :=
  s.grids.flatMap fun p =>
    let next := (s.candidatesOf p.1).findSome? fun c => (s.coresOfNext c).map fun cores => Instr.teamDispatch p.1 c.index (cores.headD 0 / 4) cores
    if p.2.state == .queued || p.2.state == .running then
      [.stepComplete p.1, .gridEndDigest p.1, .gridComplete p.1] ++ next.toList ++ [.starvationSwap p.1]
    else []

/-- Kills, drains, walks and event areas of the contexts, and forced saves of teams (R373, R380, R381, R395, R420). -/
def State.contextEvents (s : State) : List Instr :=
  (s.ctxs.flatMap fun p =>
    (if p.2.kills.isEmpty then [] else [.contextKill p.1]) ++
    (if p.2.status == .draining then [.drainLimitExpiry p.1] else []) ++
    (if p.2.events.isEmpty then [] else [.eventAreaWrite p.1]) ++
    p.2.walks.flatMap fun w =>
      if w.2.state == .ended then []
      else [.nodeVisitGrid p.1 w.1, .nodeVisitCopy p.1 w.1, .nodeVisitColl p.1 w.1, .nodeVisitCond p.1 w.1, .nodeVisitWhile p.1 w.1,
            .nodeVisitSnap p.1 w.1, .nodeVisitHostsig p.1 w.1, .nodeVisitEnd p.1 w.1]) ++
  s.teams.flatMap fun p => if p.2.saving then [.forcedSave p.1] else []

/-- Every event that the state makes possible. -/
def State.events (s : State) : List Instr :=
  s.groupEvents ++ s.landingEvents ++ s.accessEvents ++ s.matrixEvents ++ s.engineEvents ++ s.fabricEvents ++ s.snapEvents ++ s.gridEvents ++
    s.contextEvents

/-- Whether an event changes the state. -/
def State.acts (s : State) (i : Instr) : Bool :=
  match exec i s with
  | .next t => decide (t ≠ s)
  | _ => false

/-- The next event: a rebase that is due, else the first that changes the state, counted from a place that moves with time, so that none is
put off for ever. -/
def State.pick (s : State) : Option Instr :=
  if s.rebaseDue then some .moduleRebase
  else
    let es := s.events
    let k := s.clock % max 1 es.length
    (es.drop k ++ es.take k).find? s.acts

end Sys2Proof.Machine
end

