-- ==== Sys2Proof/Machine/Step.lean ====
section
/-!
DEFINITION. One step of the machine: the next event of the agenda (what the outside world does, and choices that a test fixes),
else the next instruction of a clause in a slot, else an event that the machine takes by itself, else the passing of time.
-/

namespace Sys2Proof.Machine

/-- Whether an instruction is one of a program, with words of its own. -/
def isProgram (i : Instr) : Bool := i.enc?.isSome

/-- The next thing that a clause in a slot does: its commit, a fault, or an instruction's own meaning. -/
def stepIssue (s : State) (iss : Issue) : Result :=
  match s.ready iss with
  | .commit => exec .clauseCommit s
  | .fault c => s.faults iss c iss.lanes
  | .run i => exec i s

/-- Whether a clause commits before another of its core at one clock value: the lower core-local group index, and of one group the
primary clause (R35, R161). -/
def Issue.commitsBefore (i j : Issue) : Bool :=
  i.before.core == j.before.core &&
    (decide (i.before.slot < j.before.slot) || (i.before.slot == j.before.slot && decide (i.pc.toNat < j.pc.toNat)))

/-- The clause that goes on next: the first in the slots that does not wait, or the one of its core that is to commit before it, so that
the clauses of a core that commit at one time do so in the order of R35 and R161 (notes/assumptions/88). -/
def State.nextIssue (s : State) : Option Issue :=
  (s.issuing.find? fun i => !i.waiting).map fun i =>
    (s.issuing.filter fun j => !j.waiting).foldl (fun a j => if j.commitsBefore a then j else a) i

/-- A clause that can go on is brought to the front of the slots. -/
def State.serve (s : State) (iss : Issue) : State := { s with issuing := iss :: s.issuing.erase iss }

/-- One MCLK passes, and what waits for a condition is looked at again: clauses and accesses, grains and pages, the steps of a domain, the
rounds of combining, the fabric's commands, and the conditions of a starvation swap (R402). -/
def State.tick (s : State) : State :=
  let t : State := { s.passTime 1 with issuing := s.issuing.map fun (i : Issue) => { i with waiting := false } }
  t.watchStarvation.podCheckAll.roundsStep.fabricStep.pump.formAll.watchBundles

/-- One step (R9, R17, R26, R66). A rebase that falls due before an event of the agenda comes first (R231). -/
def step (s : State) : Host.Outcome State Fault Refusal :=
  match s.agenda with
  | (n, i) :: rest =>
    let m := s.untilRebase
    if m < n then exec .moduleRebase { s.passTime m with agenda := (n - m, i) :: rest }
    else
      let s := { s.passTime n with agenda := rest }
      if isProgram i then .next s else exec i s
  | [] =>
    match s.nextIssue with
    | some iss => stepIssue (s.serve iss) iss
    | none =>
      match s.tick.pick with
      | some i => exec i s.tick
      | none => .next s.tick

/-! ### Running one instruction from outside a program -/

/-- The class of a clause that may hold an instruction (R24): the class that its encoding names, ALU for those of every class. -/
def homeClass (i : Instr) : Nat :=
  match i.enc? with
  | some e => match e.cls with
    | .num n => n
    | .alu | .branch => 0
  | none => 0

/-- A live system context with one team of one resident group of 32 threads, its clause in a slot holding the words given. -/
def State.withClause (s : State) (cls : Nat) (words : List IWord) : State :=
  let g : Group := { team := 0, threads := List.replicate 32 {} }
  let iss : Issue :=
    { gid := 0, pc := 0, lanes := 0xFFFFFFFF, header := BitVec.ofNat 32 (cls * 2 ^ 21 + 15 * 2 ^ 24), words := words, before := g,
      draws := LaneVals.of fun _ => 0 }
  { s with
    agenda := []
    ctxs := s.ctxs.insert 0 { (s.ctx 0) with status := .live, record := (s.ctx 0).record ||| (1 <<< 10) }
    grids := s.grids.insert 0 { ctx := 0 }
    teams := s.teams.insert 0 { ctx := 0, grid := 0, groups := [0] }
    groups := s.groups.insert 0 { g with bundles := [{ pc := 0, lanes := 0xFFFFFFFF, inSlot := true }] }
    issuing := [iss] }

/-- The state with an instruction, numbered as the opcode table numbers its bits, where the next step takes its next instruction:
first in the words of a clause in a slot, the words after it zero (notes/assumptions/2). -/
def State.withFetchWord (s : State) (nbits w : Nat) : State :=
  let ws := tableWords nbits w
  match decodeTableWord nbits w with
  | some i => s.withClause (homeClass i) ws
  | none => s.withClause 0 ws

end Sys2Proof.Machine
end

