-- ==== Sys2Proof/Safety.lean ====
section
/-!
DEFINITION. What counts as a safe run, in the terms that claims use: the invariants of the state, what a step may not do, and how an
instruction that runs its own effect ends.
-/

namespace Sys2Proof.Machine

/-- The module's memory is in its canonical form: addresses strictly rising, and no byte listed that equals what an unlisted address
reads as (R222). -/
abbrev State.MemoryCanonical (s : State) : Prop := Memory.wf s.mem = true

/-- A step stops the machine: it ends in a fault of the model or a refusal. -/
def Stops (r : Result) : Prop :=
  match r with
  | .next _ => False
  | _ => True

/-- A state from which the machine can go on. -/
def State.Safe (s : State) : Prop := ¬ Stops (step s)

/-! ### How an instruction of a clause completes -/

/-- A clause holds the slot served next. -/
def State.Runs (s : State) (iss : Issue) : Prop := ∃ rest, s.issuing = iss :: rest

/-- `exec` answers the next state: the clause moves past the instruction's `n` words, its effects are held back, its latch holds no
value, and nothing else of the machine changes (R26, R29). -/
def Completes (i : Instr) (s : State) (iss : Issue) (n : Nat) (es : List Effect) : Prop :=
  exec i s = .next (s.setIssue ((iss.clearLatch.hold es).advance n))

/-- `exec` answers the next state: the clause moves past the instruction's `n` words, its value stands in the instruction's latch, its
effects are held back, and nothing else of the machine changes (R26, R29). -/
def CompletesLatched (i : Instr) (s : State) (iss : Issue) (n : Nat) (x : LaneVals) (es : List Effect) : Prop :=
  exec i s = .next (s.setIssue (((iss.setLatch x).hold es).advance n))

/-- `exec` answers a next state, and it has the property given. -/
def Answers (i : Instr) (s : State) (P : State → Prop) : Prop := ∃ t, exec i s = .next t ∧ P t

/-- `exec` answers the next state of a precise fault: the clause leaves its slot with nothing of it done, and the fault waits for the
group's boundary with its code, its lanes, the clause's address and the instruction's index (R28, R366). -/
def Raises (i : Instr) (s : State) (iss : Issue) (c : FaultCode) (lanes : Lanes) (va : Nat := 0) : Prop :=
  exec i s = .next (s.raise iss c lanes va)

/-- A format A instruction completes: in every lane of its bundle, sub-element k of the value it writes is `r lane k` modulo 2^w, and
the bits above the last sub-element are zero. The value goes to the latch, and to v register d unless nw is set (R29, R94). -/
def WritesA (i : Instr) (s : State) (iss : Issue) (f : FA) (ls : Lits) (L : Layout) (r : Nat → Nat → Int) (more : List Effect := []) :
    Prop :=
  ∃ x : LaneVals,
    CompletesLatched i s iss (1 + ls.length) x ((if f.nw == 1 then [] else [.v f.d.toNat iss.lanes x]) ++ more) ∧
      ∀ l, iss.lanes.has l = true →
        (∀ k, k < L.n → ((L.sub (x.at l) k : Nat) : Int) = r l k % 2 ^ L.w) ∧ (x.at l).toNat < 2 ^ (L.w * L.n)

/-- A format X instruction completes in the same way, with two instruction words. -/
def WritesX (i : Instr) (s : State) (iss : Issue) (f : FX) (ls : Lits) (L : Layout) (r : Nat → Nat → Int) (more : List Effect := []) :
    Prop :=
  ∃ x : LaneVals,
    CompletesLatched i s iss (2 + ls.length) x ((if f.nw == 1 then [] else [.v f.d.toNat iss.lanes x]) ++ more) ∧
      ∀ l, iss.lanes.has l = true →
        (∀ k, k < L.n → ((L.sub (x.at l) k : Nat) : Int) = r l k % 2 ^ L.w) ∧ (x.at l).toNat < 2 ^ (L.w * L.n)

/-- A format A instruction that writes a predicate register completes: in every lane of its bundle, bit k of k register `d` is the
condition, and every bit from n up is zero; it writes no latch (R29, R100). -/
def WritesK (i : Instr) (s : State) (iss : Issue) (ls : Lits) (d n : Nat) (c : Nat → Nat → Bool) (more : List Effect := []) : Prop :=
  ∃ x : LaneVals,
    Completes i s iss (1 + ls.length) (.k d iss.lanes x :: more) ∧
      ∀ l, iss.lanes.has l = true → ∀ k, k < 16 → (x.at l).getLsbD k = (decide (k < n) && c l k)

/-- The sub-element of operand a of a format A instruction in a lane, in a layout. -/
def Issue.subA (iss : Issue) (f : FA) (ls : Lits) (L : Layout) (l k : Nat) : Nat := L.sub (iss.operand L f.a (litAt ls 0) l) k

/-- The sub-element of operand b: its literal stands after a's (R25). -/
def Issue.subB (iss : Issue) (f : FA) (ls : Lits) (L : Layout) (l k : Nat) : Nat := L.sub (iss.operand L f.b (litB ls f.a) l) k

/-- The sub-element of the destination as it stood before the clause (R26). -/
def Issue.subD (iss : Issue) (f : FA) (L : Layout) (l k : Nat) : Nat := L.sub (iss.vreg f.d.toNat l) k

end Sys2Proof.Machine
end

