-- ==== Sys2Proof/Certificates/Slice0/Obligations.lean ====
section
/-!
DEFINITION. The statements for the provers, from the numbered rules of the spec. A statement about a next state is an equation for the
state that `exec` answers, so it says what changes and that nothing else does; `Completes`, `CompletesLatched`, `Raises`, `WritesA`,
`WritesX` and `WritesK` of Safety.lean are such equations.
-/

open Sys2Proof Sys2Proof.Machine

/-- For every state with a clause in a slot and every operand form, add, sub, the four saturating forms, mul, both mulhi, mad, abs, and the
four min and max forms answer the next state in which, in each lane and sub-element, the value is that of Table 5·2: x and y are the
source sub-elements, taken as unsigned or as two's complement as the row says, and mad adds the destination as it stood before the
clause (R96). -/
def Obligations.IntegerArithmeticResults : Prop :=
  ∀ (s : State) (iss : Issue) (f : FA) (ls : Lits), s.Runs iss →
    let L := intLayout f.t.toNat
    let x := fun l k => ((iss.subA f ls L l k : Nat) : Int)
    let y := fun l k => ((iss.subB f ls L l k : Nat) : Int)
    let d := fun l k => ((iss.subD f L l k : Nat) : Int)
    let sx := fun l k => signedOf L.w (iss.subA f ls L l k)
    let sy := fun l k => signedOf L.w (iss.subB f ls L l k)
    let lo : Int := -2 ^ (L.w - 1)
    let hi : Int := 2 ^ (L.w - 1) - 1
    let top : Int := 2 ^ L.w - 1
    WritesA (.add f ls) s iss f ls L (fun l k => x l k + y l k) ∧
    WritesA (.sub f ls) s iss f ls L (fun l k => x l k - y l k) ∧
    WritesA (.addSatSigned f ls) s iss f ls L (fun l k => max lo (min hi (sx l k + sy l k))) ∧
    WritesA (.addSatUnsigned f ls) s iss f ls L (fun l k => max 0 (min top (x l k + y l k))) ∧
    WritesA (.subSatSigned f ls) s iss f ls L (fun l k => max lo (min hi (sx l k - sy l k))) ∧
    WritesA (.subSatUnsigned f ls) s iss f ls L (fun l k => max 0 (min top (x l k - y l k))) ∧
    WritesA (.mul f ls) s iss f ls L (fun l k => x l k * y l k) ∧
    WritesA (.mulhiSigned f ls) s iss f ls L (fun l k => sx l k * sy l k / 2 ^ L.w) ∧
    WritesA (.mulhiUnsigned f ls) s iss f ls L (fun l k => x l k * y l k / 2 ^ L.w) ∧
    WritesA (.mad f ls) s iss f ls L (fun l k => x l k * y l k + d l k) ∧
    WritesA (.abs f ls) s iss f ls L (fun l k => |sx l k|) ∧
    WritesA (.minSigned f ls) s iss f ls L (fun l k => min (sx l k) (sy l k)) ∧
    WritesA (.minUnsigned f ls) s iss f ls L (fun l k => min (x l k) (y l k)) ∧
    WritesA (.maxSigned f ls) s iss f ls L (fun l k => max (sx l k) (sy l k)) ∧
    WritesA (.maxUnsigned f ls) s iss f ls L (fun l k => max (x l k) (y l k))

/-- and, or, xor, andn, shl, shr, sar and rol answer the next state with the value of Table 5·3 in every lane and sub-element; a shift or
rotation by a count beyond the width is taken modulo the width, and sar fills with the sign (R97). -/
def Obligations.BitwiseAndShiftResults : Prop :=
  ∀ (s : State) (iss : Issue) (f : FA) (ls : Lits), s.Runs iss →
    let L := intLayout f.t.toNat
    let x := iss.subA f ls L
    let y := iss.subB f ls L
    WritesA (.and f ls) s iss f ls L (fun l k => ((x l k &&& y l k : Nat) : Int)) ∧
    WritesA (.or f ls) s iss f ls L (fun l k => ((x l k ||| y l k : Nat) : Int)) ∧
    WritesA (.xor f ls) s iss f ls L (fun l k => ((x l k ^^^ y l k : Nat) : Int)) ∧
    WritesA (.andn f ls) s iss f ls L (fun l k => (((x l k ||| y l k) - y l k : Nat) : Int)) ∧
    WritesA (.shl f ls) s iss f ls L (fun l k => (x l k : Int) * 2 ^ (y l k % L.w)) ∧
    WritesA (.shr f ls) s iss f ls L (fun l k => (x l k : Int) / 2 ^ (y l k % L.w)) ∧
    WritesA (.sar f ls) s iss f ls L (fun l k => signedOf L.w (x l k) / 2 ^ (y l k % L.w)) ∧
    WritesA (.rol f ls) s iss f ls L (fun l k =>
      (x l k : Int) * 2 ^ (y l k % L.w) % 2 ^ L.w + (x l k : Int) * 2 ^ (y l k % L.w) / 2 ^ L.w)

/-- clz, ctz, popc and brev answer the next state; in every lane and sub-element clz and ctz give w for zero, and otherwise the number of
zero bits above the highest one bit, or below the lowest; popc gives the number of one bits; bit j of brev is bit w − 1 − j of x. -/
def Obligations.BitCountResults : Prop :=
  ∀ (s : State) (iss : Issue) (f : FA) (ls : Lits), s.Runs iss →
    let L := intLayout f.t.toNat
    let x := iss.subA f ls L
    (∃ n : Nat → Nat → Nat, WritesA (.clz f ls) s iss f ls L (fun l k => n l k) ∧
      ∀ l k, iss.lanes.has l = true → n l k ≤ L.w ∧ x l k < 2 ^ (L.w - n l k) ∧ (n l k < L.w → 2 ^ (L.w - n l k - 1) ≤ x l k)) ∧
    (∃ n : Nat → Nat → Nat, WritesA (.ctz f ls) s iss f ls L (fun l k => n l k) ∧
      ∀ l k, iss.lanes.has l = true → n l k ≤ L.w ∧ 2 ^ n l k ∣ x l k ∧ (n l k < L.w → (x l k).testBit (n l k) = true)) ∧
    WritesA (.popc f ls) s iss f ls L (fun l k => ∑ j ∈ Finset.range L.w, if (x l k).testBit j then 1 else 0) ∧
    (∃ r : Nat → Nat → Nat, WritesA (.brev f ls) s iss f ls L (fun l k => r l k) ∧
      ∀ l k, iss.lanes.has l = true → r l k < 2 ^ L.w ∧ ∀ j, j < L.w → (r l k).testBit j = (x l k).testBit (L.w - 1 - j))

/-- bfx, bfi and swz answer the next state. With pos = c[5:0] and len = c[12:6] limited to w: bfx gives bits [pos + len − 1 : pos] of x, zero
above w − 1, under c[13] extended by the sign of a field that is not empty; bfi replaces those bits of the destination that lie below w by the
low bits of x and keeps the rest; swz gives sub-element t(i) of a, or zero when t(i) is n or more. bfx's and bfi's result is stated bit by
bit. -/
def Obligations.BitFieldAndSwizzleResults : Prop :=
  ∀ (s : State) (iss : Issue) (f : FA) (ls : Lits), s.Runs iss →
    let L := intLayout f.t.toNat
    let x := iss.subA f ls L
    let c := iss.subB f ls L
    let pos := fun l k => c l k % 64
    let len := fun l k => min (c l k / 64 % 128) L.w
    (∃ r : Nat → Nat → Nat, WritesA (.bfx f ls) s iss f ls L (fun l k => r l k) ∧
      ∀ l k, iss.lanes.has l = true → r l k < 2 ^ L.w ∧ ∀ j, j < L.w → (r l k).testBit j =
        if j < len l k then (x l k).testBit (pos l k + j)
        else (c l k).testBit 13 && decide (0 < len l k) && (x l k).testBit (pos l k + len l k - 1)) ∧
    (∃ r : Nat → Nat → Nat, WritesA (.bfi f ls) s iss f ls L (fun l k => r l k) ∧
      ∀ l k, iss.lanes.has l = true → r l k < 2 ^ L.w ∧ ∀ j, j < L.w → (r l k).testBit j =
        if pos l k ≤ j ∧ j < pos l k + len l k then (x l k).testBit (j - pos l k) else (iss.subD f L l k).testBit j) ∧
    WritesA (.swz f ls) s iss f ls L (fun l k =>
      let sel : Nat := if f.b == 127 then (litB ls f.a).toNat else (iss.operand L f.b (litB ls f.a) l).toNat
      let t := sel / 16 ^ k % 16
      if t < L.n then x l t else 0)

/-- For every condition value of dst [6:3] from 0 to 5, cmp answers the next state with bit i of k register dst [2:0] the comparison of
sub-element i (signed or unsigned) and every bit from n up zero; kop answers it with all 16 bits of the operation that the type selects; sel
takes a where its guard holds for the sub-element and the destination as it stood before the clause elsewhere. -/
def Obligations.ComparePredicateAndSelectResults : Prop :=
  ∀ (s : State) (iss : Issue) (f : FA) (ls : Lits), s.Runs iss →
    let L := intLayout f.t.toNat
    let cond := fun (x y : Int) => match f.d.toNat / 8 with
      | 0 => decide (x = y)
      | 1 => decide (x ≠ y)
      | 2 => decide (x < y)
      | 3 => decide (x ≤ y)
      | 4 => decide (x > y)
      | _ => decide (x ≥ y)
    let ka := fun l => iss.kreg (f.a.toNat % 8) l
    let kb := fun l => iss.kreg (f.b.toNat % 8) l
    (f.d.toNat / 8 < 6 →
      WritesK (.cmpSigned f ls) s iss ls (f.d.toNat % 8) L.n (fun l k =>
        cond (signedOf L.w (iss.subA f ls L l k)) (signedOf L.w (iss.subB f ls L l k))) ∧
      WritesK (.cmpUnsigned f ls) s iss ls (f.d.toNat % 8) L.n (fun l k => cond (iss.subA f ls L l k) (iss.subB f ls L l k))) ∧
    WritesK (.kop f ls) s iss ls (f.d.toNat % 8) 16 (fun l k => match f.t.toNat with
      | 0 => (ka l).getLsbD k && (kb l).getLsbD k
      | 1 => (ka l).getLsbD k || (kb l).getLsbD k
      | 2 => (ka l).getLsbD k != (kb l).getLsbD k
      | 3 => (ka l).getLsbD k && !(kb l).getLsbD k
      | 4 => !(ka l).getLsbD k
      | _ => (ka l).getLsbD k) ∧
    WritesA (.sel f ls) s iss f ls L (fun l k =>
      if (kb l).getLsbD k != f.b.getLsbD 3 then iss.subA f ls L l k else iss.subD f L l k)

/-- lea, movl, gmov, cvti, pack and unpack answer the next state: lea with a + b·2^S modulo 2^64; movl with its two literals as the low and
the high half; gmov with the named lane's value, in the bundle or not, in the latch of every lane and, unless nw is set, in its g register;
cvti with each source sub-element read and limited as its control field says, zero beyond the source; pack with the low bits of a below and of b
above; unpack with the half of a that ctl[0] selects, extended by sign under ctl[1]. pack and unpack are stated for the types R106 and R107
assign. -/
def Obligations.MoveAndConversionResults : Prop :=
  ∀ (s : State) (iss : Issue) (f : FA) (ls : Lits), s.Runs iss →
    let L := intLayout f.t.toNat
    let L5 := intLayout 5
    let S := intLayout (f.b.toNat % 8)
    let ctl := iss.uniform f.b (litB ls f.a)
    WritesA (.lea f ls) s iss f ls L5 (fun l k => (iss.subA f ls L5 l k : Int) + iss.subB f ls L5 l k * 2 ^ f.t.toNat) ∧
    WritesA (.movl f ls) s iss f ls L5 (fun _ _ => ((litAt ls 0).toNat : Int) + (litAt ls 1).toNat * 2 ^ 32) ∧
    (∃ x : LaneVals, (∀ l, iss.lanes.has l = true → x.at l = iss.operand L5 f.a (litAt ls 0) (ctl.toNat % 32)) ∧
      CompletesLatched (.gmov f ls) s iss (1 + ls.length) x
        (if f.nw == 1 then [] else [.g (f.d.toNat - 104) (iss.operand L5 f.a (litAt ls 0) (ctl.toNat % 32))])) ∧
    WritesA (.cvti f ls) s iss f ls L (fun l k =>
      let a := S.sub (iss.operand S f.a (litAt ls 0) l) k
      let v : Int := if k < S.n then (if f.b.getLsbD 3 then signedOf S.w a else a) else 0
      if f.b.getLsbD 4 then
        (if f.b.getLsbD 3 then max (-2 ^ (L.w - 1)) (min (2 ^ (L.w - 1) - 1) v) else max 0 (min (2 ^ L.w - 1) v))
      else v) ∧
    (f.t.toNat < 4 →
      let W := intLayout (if f.t == 3 then 5 else f.t.toNat + 1)
      WritesA (.pack f ls) s iss f ls L (fun l k => if k < L.n / 2 then iss.subA f ls W l k else iss.subB f ls W l (k - L.n / 2))) ∧
    (f.t.toNat ∈ [1, 2, 3, 5] →
      let N := intLayout (if f.t == 5 then 3 else f.t.toNat - 1)
      WritesA (.unpack f ls) s iss f ls L (fun l k =>
        let v := iss.subA f ls N l ((if ctl.getLsbD 0 then L.n else 0) + k)
        if ctl.getLsbD 1 then signedOf N.w v else v))

/-- For types 0 to 3, dp4 and dp8 answer the next state with acc plus the exact sum of the 16 or 8 products, signed below type 2, limited to
the accumulator's range at types 1 and 3, in d[31:0] and zero above. For the float types they answer the next state with the one rounding
of that sum and its flags. rnd answers it with H(K, T, DRAW + i) in sub-element i, DRAW read as the clause's earlier rnd left it and advanced by n in
every lane of the bundle, the new count held back as DRAW's write. -/
def Obligations.DotProductAndRandomResults : Prop :=
  ∀ (s : State) (iss : Issue) (f : FA) (ls : Lits), s.Runs iss →
    let t := f.t.toNat
    let acc := fun l : Nat => if t < 2 then signedOf 32 (iss.vreg f.d.toNat l).toNat else (((iss.vreg f.d.toNat l).toNat % 2 ^ 32 : Nat) : Int)
    let sum := fun (L : Layout) l => ∑ j ∈ Finset.range L.n,
      if t < 2 then signedOf L.w (iss.subA f ls L l j) * signedOf L.w (iss.subB f ls L l j)
      else (iss.subA f ls L l j : Int) * iss.subB f ls L l j
    let lim := fun v : Int => if t = 1 then max (-2 ^ 31) (min (2 ^ 31 - 1) v) else if t = 3 then max 0 (min (2 ^ 32 - 1) v) else v
    let fl := fun (F : FpFmt) (m : Nat) (l : Nat) =>
      let L : Layout := { n := m, w := F.w, fmt := some F }
      dotFloat F iss.rm ((iss.vreg f.d.toNat l).toNat % 2 ^ 32)
        ((List.range m).map fun i => (iss.subA f ls L l i, iss.subB f ls L l i))
    (t < 4 →
      WritesA (.dp4 f ls) s iss f ls (intLayout 4) (fun l _ => lim (acc l + sum (intLayout 0) l)) ∧
      WritesA (.dp8 f ls) s iss f ls (intLayout 4) (fun l _ => lim (acc l + sum (intLayout 1) l))) ∧
    (4 ≤ t →
      WritesA (.dp4 f ls) s iss f ls (intLayout 5) (fun l _ => (fl e2m1 16 l).bits) (flagEffects iss.lanes fun l => [(fl e2m1 16 l).fl]) ∧
      WritesA (.dp8 f ls) s iss f ls (intLayout 5) (fun l _ => (fl (if t = 4 then e4m3 else e5m2) 8 l).bits)
        (flagEffects iss.lanes fun l => [(fl (if t = 4 then e4m3 else e5m2) 8 l).fl])) ∧
    (let L := intLayout t
     let T := fun l => BitVec.ofNat 64 ((s.teamOf iss.gid).index * 1024 + iss.before.index * 32 + l)
     ∃ x d : LaneVals,
      exec (.rnd f ls) s = .next (s.setIssue (((({ iss with draws := d } : Issue).setLatch x).hold
        ((if f.nw == 1 then [] else [.v f.d.toNat iss.lanes x]) ++ [.setDraw iss.lanes d])).advance (1 + ls.length))) ∧
      ∀ l, iss.lanes.has l = true → d.at l = iss.draws.at l + BitVec.ofNat 64 L.n ∧
        ∀ k, k < L.n → L.sub (x.at l) k =
          (hashH (iss.greg (f.a.toNat - 104)) (T l) (iss.draws.at l + BitVec.ofNat 64 k)).toNat % 2 ^ L.w)

/-- In every lane and sub-element of the type's format, fabs gives x with its top bit cleared and fneg gives x with its top bit inverted, for
every encoding; both answer the next state that holds back the one register write and no flag effect (R150). -/
def Obligations.SignOperationsMoveBitsAndSetNoFlag : Prop :=
  ∀ (s : State) (iss : Issue) (f : FA) (ls : Lits), s.Runs iss →
    let L := floatLayout f.t.toNat
    WritesA (.fabs f ls) s iss f ls L (fun l k => iss.subA f ls L l k % 2 ^ (L.w - 1)) ∧
    WritesA (.fneg f ls) s iss f ls L (fun l k => (iss.subA f ls L l k : Int) + 2 ^ (L.w - 1))

/-- fadd, fsub, fmul, ffma, fmin, fmax, fminn, fmaxn, fclass, frnd, fscl, fexpo and fcmp answer the next state: in every lane and
sub-element the result of the format's operation under FPCTL's mode (frnd under its own), with the flags of every sub-element joined into FLAGS and
counted; fscl reads its scale as an integer of the sub-element's width, and fcmp raises NV where its condition signals. -/
def Obligations.FloatArithmeticResults : Prop :=
  ∀ (s : State) (iss : Issue) (f : FA) (ls : Lits), s.Runs iss →
    let L := floatLayout f.t.toNat
    let F := fmtOfCode f.t.toNat
    let a := iss.subA f ls L
    let b := iss.subB f ls L
    let writes := fun (i : Instr) (r : Nat → Nat → FpRes) =>
      WritesA i s iss f ls L (fun l k => (r l k).bits) (flagEffects iss.lanes fun l => (List.range L.n).map fun k => (r l k).fl)
    writes (.fadd f ls) (fun l k => F.addVal iss.rm (F.val (a l k)) (F.val (b l k))) ∧
    writes (.fsub f ls) (fun l k => F.addVal iss.rm (F.val (a l k)) (F.val (b l k)).negate) ∧
    writes (.fmul f ls) (fun l k => F.mulVal iss.rm (F.val (a l k)) (F.val (b l k))) ∧
    writes (.ffma f ls) (fun l k => F.fmaVal iss.rm (F.val (a l k)) (F.val (b l k)) (F.val (iss.subD f L l k))) ∧
    writes (.fmin f ls) (fun l k => F.minMax false false (a l k) (b l k)) ∧
    writes (.fmax f ls) (fun l k => F.minMax true false (a l k) (b l k)) ∧
    writes (.fminn f ls) (fun l k => F.minMax false true (a l k) (b l k)) ∧
    writes (.fmaxn f ls) (fun l k => F.minMax true true (a l k) (b l k)) ∧
    writes (.fclass f ls) (fun l k => { bits := F.classify (a l k) }) ∧
    writes (.frnd f ls) (fun l k => F.roundIntegral (RMode.ofBits (f.b.toNat / 4)) (a l k)) ∧
    writes (.fscl f ls) (fun l k => F.scale iss.rm (a l k)
      (signedOf L.w (L.sub (iss.operand { L with fmt := none } f.b (litB ls f.a) l) k))) ∧
    writes (.fexpo f ls) (fun l k => F.exponent (a l k)) ∧
    WritesK (.fcmp f ls) s iss ls (f.d.toNat % 8) L.n (fun l k => (F.compare (f.d.toNat / 8) (a l k) (b l k)).1)
      (flagEffects iss.lanes fun l => (List.range L.n).map fun k =>
        if (F.compare (f.d.toNat / 8) (a l k) (b l k)).2 then flagNV else 0)

/-- fcvt, fcvti and icvtf answer the next state: sub-element k, for k below the count of both layouts, is the conversion of source
sub-element k in the mode of b [3:2], saturating under b [1] (of fcvt only between two formats); the destination's further sub-elements are zero; only the conversions made raise
flags. -/
def Obligations.ConversionResults : Prop :=
  ∀ (s : State) (iss : Issue) (f : FA) (ls : Lits), s.Runs iss →
    let md := RMode.ofBits (f.b.toNat / 4)
    let c := f.b.toNat / 16
    let writes := fun (i : Instr) (D : Layout) (n : Nat) (r : Nat → Nat → FpRes) =>
      WritesA i s iss f ls D (fun l k => if k < n then (r l k).bits else 0)
        (flagEffects iss.lanes fun l => (List.range n).map fun k => (r l k).fl)
    let D := floatLayout f.t.toNat
    let I := intLayout f.t.toNat
    let S := floatLayout c
    let J := intLayout c
    writes (.fcvt f ls) D (min D.n S.n) (fun l k => (fmtOfCode f.t.toNat).convert (fmtOfCode c) md 
      (f.b.getLsbD 1 && f.t.toNat != c) (iss.subA f ls S l k)) ∧
    writes (.fcvti f ls) I (min I.n S.n) (fun l k =>
      (fmtOfCode c).toInt I.w (f.b.getLsbD 0) md (f.b.getLsbD 1) (iss.subA f ls S l k)) ∧
    writes (.icvtf f ls) D (min D.n J.n) (fun l k => (fmtOfCode f.t.toNat).ofInt md
      (if f.b.getLsbD 0 then signedOf J.w (iss.subA f ls J l k) else (iss.subA f ls J l k : Int)))

/-- fdiv, frcp, frsq, fsqrt, fexp2, flog2, fexp, fsinpi, fcospi and ftanh answer the next state that holds back one effect: at commit the
lane results, the flags of each lane and their counts go to the core's SFU queue for register d; no register changes before the result lands. -/
def Obligations.SfuInstructionsQueueTheirResults : Prop :=
  ∀ (s : State) (iss : Issue) (f : FA) (ls : Lits), s.Runs iss →
    let L := floatLayout f.t.toNat
    let F := fmtOfCode f.t.toNat
    let queues := fun (i : Instr) (r : Nat → Nat → FpRes) =>
      let fl := fun l => (List.range L.n).map fun k => (r l k).fl
      Completes i s iss (1 + ls.length) [.act i iss.idx iss.lanes
        (iss.lanesOf fun l => L.join fun k => (r l k).bits) (iss.lanesOf fun l => (orAll (fl l)).zeroExtend 64) []
        (f.d.toNat :: countFlags ((Lanes.list iss.lanes).flatMap fl))]
    let one := fun (fn : SfuFn) l k => F.sfu fn iss.rm (iss.subA f ls L l k)
    queues (.fdiv f ls) (fun l k => F.divVal iss.rm (F.val (iss.subA f ls L l k)) (F.val (iss.subB f ls L l k))) ∧
    queues (.frcp f ls) (one .rcp) ∧ queues (.frsq f ls) (one .rsq) ∧ queues (.fsqrt f ls) (one .sqrt) ∧
    queues (.fexp2 f ls) (one .exp2) ∧ queues (.flog2 f ls) (one .log2) ∧ queues (.fexp f ls) (one .exp) ∧
    queues (.fsinpi f ls) (one .sinpi) ∧ queues (.fcospi f ls) (one .cospi) ∧ queues (.ftanh f ls) (one .tanh)

/-- When every lane's mask names its own lane and only lanes of the bundle, and for the exchanges also its source lane: xl.sh answers the
next state with the source lane's sub-elements rotated by the starting one, xl.bc with that one sub-element in every position. When every member
also carries the same mask: xl.vote.all, .any and .uni write 1 exactly when p holds for all, for some, or equally in all members, and xl.bal
writes p of every member at its lane's bit and zero elsewhere, p of a lane being that its 64-bit a is not zero. -/
def Obligations.CrossLaneExchangeAndVoteResults : Prop :=
  ∀ (s : State) (iss : Issue) (f : FX) (ls : Lits), s.Runs iss →
    let L := intLayout f.t.toNat
    let L5 := intLayout 5
    let m := iss.mask f ls
    let src := fun l => (iss.xlIndex L f ls l).1
    let p := fun l => iss.srcX L5 f ls l != 0
    (∀ l, iss.lanes.has l = true → (m l).has l = true ∧ m l &&& ~~~iss.lanes = 0) →
    ((∀ l, iss.lanes.has l = true → (m l).has (src l) = true) →
      WritesX (.xlSh f ls) s iss f ls L (fun l k => L.sub (iss.srcX L f ls (src l)) (((iss.xlIndex L f ls l).2 + k) % L.n)) ∧
      WritesX (.xlBc f ls) s iss f ls L (fun l _ => L.sub (iss.srcX L f ls (src l)) (iss.xlIndex L f ls l).2)) ∧
    ((∀ l j, iss.lanes.has l = true → (m l).has j = true → m j = m l) →
      WritesX (.xlVoteAll f ls) s iss f ls L5 (fun l _ => if ∀ j ∈ Lanes.list (m l), p j = true then 1 else 0) ∧
      WritesX (.xlVoteAny f ls) s iss f ls L5 (fun l _ => if ∃ j ∈ Lanes.list (m l), p j = true then 1 else 0) ∧
      WritesX (.xlVoteUni f ls) s iss f ls L5 (fun l _ => if ∀ j ∈ Lanes.list (m l), p j = p l then 1 else 0) ∧
      ∃ x : LaneVals, CompletesLatched (.xlBal f ls) s iss (2 + ls.length) x (if f.nw == 1 then [] else [.v f.d.toNat iss.lanes x]) ∧
        ∀ l, iss.lanes.has l = true → ∀ j, j < 64 → (x.at l).getLsbD j = ((m l).has j && p j))

/-- When every lane's mask names its own lane and only lanes of the bundle, and every member carries the same mask, xl.red and xl.scan
answer the next state. Under an integer operation the value of xl.red is the fold of the members' sub-elements in ascending lane order, since these
operations are associative, and raises no flag; that of xl.scan is, under every operation, the fold in ascending lane order up to the lane's own member, or under .excl up to the member before
it, the first member receiving the operation's identity. Under a float operation xl.red gives the value and every member the flags of the
fixed tree. -/
def Obligations.CrossLaneFoldResults : Prop :=
  ∀ (s : State) (iss : Issue) (f : FX) (ls : Lits), s.Runs iss →
    let L := foldLayout f
    let op := f.sub.toNat % 32
    let m := iss.mask f ls
    let xs := fun (l k : Nat) => (Lanes.list (m l)).map fun j => L.sub (iss.srcX L f ls j) k
    let tree := fun (l k : Nat) => reduceTree (xlOp op L iss.rm) (xs l k)
    let two := fun (x y : Nat) => match op with
      | 0 => (x + y) % 2 ^ L.w
      | 1 => if signedOf L.w x ≤ signedOf L.w y then x else y
      | 2 => min x y
      | 3 => if signedOf L.w x ≤ signedOf L.w y then y else x
      | 4 => max x y
      | 5 => x &&& y
      | 6 => x ||| y
      | 7 => x ^^^ y
      | _ => (xlOp op L iss.rm x y).bits
    let fold := fun (ys : List Nat) => ys.tail.foldl two (ys.headD 0)
    (∀ l, iss.lanes.has l = true → (m l).has l = true ∧ m l &&& ~~~iss.lanes = 0) →
    (∀ l j, iss.lanes.has l = true → (m l).has j = true → m j = m l) →
    (op < 8 → WritesX (.xlRed f ls) s iss f ls L (fun l k => fold (xs l k))) ∧
    (8 ≤ op → ∃ es, WritesX (.xlRed f ls) s iss f ls L (fun l k => (tree l k).1) es ∧
      (es = [] ∧ (∀ l, iss.lanes.has l = true → orAll ((List.range L.n).flatMap fun k => (tree l k).2) = 0) ∨
        ∃ c, es = [.orFlags iss.lanes (iss.lanesOf fun l => (orAll ((List.range L.n).flatMap fun k => (tree l k).2)).zeroExtend 64), .count c])) ∧
    (f.sub.getLsbD 5 = false → ∃ es, (op < 8 → es = []) ∧
      WritesX (.xlScan f ls) s iss f ls L (fun l k => fold ((xs l k).take ((Lanes.list (m l)).idxOf l + 1))) es) ∧
    (f.sub.getLsbD 5 = true → ∃ es, (op < 8 → es = []) ∧
      WritesX (.xlScan f ls) s iss f ls L (fun l k =>
        if (Lanes.list (m l)).idxOf l = 0 then scanIdentity op L else fold ((xs l k).take ((Lanes.list (m l)).idxOf l))) es)

/-- When the checks of handle, translation and leaf pass in every acting lane from the TLB, ld (all lanes of the bundle), st (the lanes
whose guard holds) and wsstate (all lanes, WS pages) answer the next state that holds back the access of exactly those lanes, with each
lane's virtual address, physical address and leaf, and for st each lane's data; a ld with a residency destination also writes ones to its k register in
every lane. No byte of memory and no register changes before the commit. -/
def Obligations.LoadsAndStoresHoldBackTheirAccess : Prop :=
  ∀ (s : State) (iss : Issue) (f : FM) (ls : Lits), s.Runs iss →
    let h := iss.hreg f.h.toNat
    let z := 2 ^ f.t.toNat
    let e := fun l => offsetOf (iss.off f ls l) f.imm z
    let acts := iss.acting f.ge f.gn f.gk
    let on := fun (lanes : Lanes) (x : Nat → Word) => LaneVals.of fun l => if lanes.has l then x l else 0
    ∀ (va pa : Nat → Nat) (pte : Nat → BitVec 64),
      ((∀ l, iss.lanes.has l = true → s.checkAccess iss h (e l) z [0] [] .load f.scope.toNat = (.ok (va l) (pa l) (pte l), s)) →
        Completes (.ld f ls) s iss (2 + ls.length)
          (.act (.ld f ls) iss.idx iss.lanes (on iss.lanes fun l => BitVec.ofNat 64 (va l)) (on iss.lanes fun l => BitVec.ofNat 64 (pa l))
              (on iss.lanes pte) [] ::
            (if f.re == 1 then [.k f.rk.toNat iss.lanes (on iss.lanes fun _ => 0xFFFF)] else []))) ∧
      ((∀ l, acts.has l = true → s.checkAccess iss h (e l) z [1] [] .store f.scope.toNat = (.ok (va l) (pa l) (pte l), s)) →
        Completes (.st f ls) s iss (2 + ls.length)
          [.act (.st f ls) iss.idx acts (on acts fun l => BitVec.ofNat 64 (va l)) (on acts fun l => BitVec.ofNat 64 (pa l))
            (on acts pte) ((List.range 32).map (iss.storeData f ls))]) ∧
      ((∀ l, iss.lanes.has l = true → pteClass (pte l) = 2 ∧
          s.checkAccess iss h (offsetOf (iss.off f ls l) f.imm 1) 1 [0] [] (.await false) 0 = (.ok (va l) (pa l) (pte l), s)) →
        Completes (.wsstate f ls) s iss (2 + ls.length)
          [.act (.wsstate f ls) iss.idx iss.lanes (on iss.lanes fun l => BitVec.ofNat 64 (va l))
            (on iss.lanes fun l => BitVec.ofNat 64 (pa l)) (on iss.lanes pte) []])

/-- In a grid that is not deterministic, when the checks pass in every acting lane from the TLB, atom and red (the lanes whose guard
holds) and await (every lane of the bundle) answer the next state that holds back the access of exactly those lanes with each lane's addresses, leaf
and operands. -/
def Obligations.AtomicsAndWaitsHoldBackTheirAccess : Prop :=
  ∀ (s : State) (iss : Issue) (f : FM) (ls : Lits), s.Runs iss →
    let acts := iss.acting f.ge f.gn f.gk
    let on := fun (lanes : Lanes) (x : Nat → Word) => LaneVals.of fun l => if lanes.has l then x l else 0
    ∀ (va pa : Nat → Nat) (pte : Nat → BitVec 64), s.detI iss = false →
      let held := fun (i : Instr) (lanes : Lanes) (n : List Nat) =>
        Completes i s iss (2 + ls.length) [.act i iss.idx lanes (on lanes fun l => BitVec.ofNat 64 (va l))
          (on lanes fun l => BitVec.ofNat 64 (pa l)) (on lanes pte) n]
      ((∀ l, acts.has l = true → s.checkAtom iss f ls (atomSize f.t.toNat) 3 .atom true l = (.ok (va l) (pa l) (pte l), s)) →
        held (.atom f ls) acts ((List.range 32).flatMap fun l => [(iss.atomRegs f l).headD 0, (iss.atomRegs f l).getD 1 0])) ∧
      ((∀ l, acts.has l = true → s.checkAtom iss f ls (atomSize f.t.toNat) 3 .red false l = (.ok (va l) (pa l) (pte l), s)) →
        held (.red f ls) acts ((List.range 32).map (iss.atomOperand f ls))) ∧
      ((∀ l, iss.lanes.has l = true →
          s.checkAtom iss f ls (awaitSize f.t.toNat) 0 (.await (f.sub == 6)) false l = (.ok (va l) (pa l) (pte l), s)) →
        held (.await f ls) iss.lanes ((List.range 32).map (iss.atomOperand f ls)))

/-- In a group of a deterministic grid, atom with at least one acting lane, red at a scope wider than the cluster or with the FP32 sum, and
await at CHIP scope or wider raise DET_ATOMIC precisely: the clause leaves its slot with nothing of it done. -/
def Obligations.DeterministicGridRefusesAtomics : Prop :=
  ∀ (s : State) (iss : Issue) (f : FM) (ls : Lits), s.Runs iss →
    let acts := iss.acting f.ge f.gn f.gk
    s.detI iss = true →
      (acts ≠ 0 → Raises (.atom f ls) s iss .detAtomic acts) ∧
      (acts ≠ 0 → (1 < f.scope.toNat ∨ f.sub = 9) → Raises (.red f ls) s iss .detAtomic acts) ∧
      (2 ≤ f.scope.toNat → Raises (.await f ls) s iss .detAtomic iss.lanes)

/-- With the address the 32-bit offset plus imm12 times the size: when in every acting lane it is not negative, its bytes end inside the team's
window and it is a multiple of the size, lda, sta, ldc and stc answer the next state that holds back the access at those addresses; when in every acting
lane it is negative or ends past the window, and some lane acts, they raise BUF_BOUNDS in all the acting lanes and nothing is done. -/
def Obligations.TypedBufferAccessesStayInTheirWindow : Prop :=
  ∀ (s : State) (iss : Issue) (f : FM) (ls : Lits), s.Runs iss →
    let z := 2 ^ f.t.toNat
    let a := iss.bufAddr f ls
    let acts := iss.acting f.ge f.gn f.gk
    let on := fun (lanes : Lanes) (x : Nat → Word) => LaneVals.of fun l => if lanes.has l then x l else 0
    let inside := fun (space : Nat) (lanes : Lanes) => ∀ l, lanes.has l = true →
      0 ≤ a l ∧ a l + z ≤ (s.teamOf iss.gid).window space ∧ a l % z = 0
    let outside := fun (space : Nat) (lanes : Lanes) => lanes ≠ 0 ∧ ∀ l, lanes.has l = true →
      a l < 0 ∨ ((s.teamOf iss.gid).window space : Int) < a l + z
    let held := fun (i : Instr) (lanes : Lanes) (n : List Nat) =>
      Completes i s iss (2 + ls.length) [.act i iss.idx lanes (on lanes fun _ => 0) (on lanes fun l => BitVec.ofNat 64 (a l).toNat)
        (on lanes fun _ => 0) n]
    let data := (List.range 32).map (iss.storeData f ls)
    (inside 1 iss.lanes → held (.lda f ls) iss.lanes []) ∧ (inside 2 iss.lanes → held (.ldc f ls) iss.lanes []) ∧
    (inside 1 acts → held (.sta f ls) acts data) ∧ (inside 2 acts → held (.stc f ls) acts data) ∧
    (outside 1 iss.lanes → Raises (.lda f ls) s iss .bufBounds iss.lanes) ∧
    (outside 2 iss.lanes → Raises (.ldc f ls) s iss .bufBounds iss.lanes) ∧
    (outside 1 acts → Raises (.sta f ls) s iss .bufBounds acts) ∧ (outside 2 acts → Raises (.stc f ls) s iss .bufBounds acts)

/-- hmov holds back a copy of its source handle; hnarrow, with the narrow right and a length no greater than the handle's, one of the same base
and space with that length and only the rights that its mask keeps; hoff, with the right and an offset that is a multiple of 16 within the handle, one
whose base is advanced and length shortened by it; hinfo the base, length, rights or space in every lane; each answers the next state. hnarrow and
hoff without the narrow right raise HANDLE_RIGHTS. hsave and hload, their one access passing its checks from the TLB, answer the next state that
holds back that 16-byte access in the lowest lane, hsave's with the sealed image. -/
def Obligations.HandleInstructionResults : Prop :=
  ∀ (s : State) (iss : Issue) (f : FM) (ls : Lits), s.Runs iss →
    let h := iss.hreg f.h.toNat
    let len := (iss.uniformM f.off (litAt ls 0)).toNat
    let d := handleDst f
    Completes (.hmov f ls) s iss (2 + ls.length) [.h d h] ∧
    (handleHas h 5 = true → len ≤ handleLen h → ∃ h', Completes (.hnarrow f ls) s iss (2 + ls.length) [.h d h'] ∧
      handleBase h' = handleBase h ∧ handleLen h' = len ∧ handleAsid h' = handleAsid h ∧
      ∀ r, handleHas h' r = (handleHas h r && decide (r < 8) && f.imm.getLsbD r)) ∧
    (handleHas h 5 = true → len ≤ handleLen h → len % 16 = 0 → handleBase h + len < 2 ^ 56 →
      ∃ h', Completes (.hoff f ls) s iss (2 + ls.length) [.h d h'] ∧
        handleBase h' = handleBase h + len ∧ handleLen h' = handleLen h - len ∧ handleAsid h' = handleAsid h ∧
        handleRights h' = handleRights h) ∧
    (handleHas h 5 = false →
      Raises (.hnarrow f ls) s iss .handleRights iss.lanes ∧ Raises (.hoff f ls) s iss .handleRights iss.lanes) ∧
    Completes (.hinfo f ls) s iss (2 + ls.length) [.v f.d.toNat iss.lanes (iss.lanesOf fun _ => BitVec.ofNat 64
      (match f.sub.toNat with
        | 0 => handleBase h
        | 1 => handleLen h
        | 2 => handleRights h
        | _ => handleAsid h))] ∧
    ∀ (va pa : Nat) (pte : BitVec 64),
      let one := fun (x : Word) => LaneVals.of fun l => if l = lowestLane iss.lanes then x else 0
      let lane := Lanes.of fun l => l == lowestLane iss.lanes
      (bits h.toNat 51 48 = 0 → handleHas (iss.hreg d) 6 = true →
        s.checkAccess iss h (iss.uoff f ls 16) 16 [1] [] .store 0 = (.ok va pa pte, s) →
        let w := sealedImage (s.ctxI iss).sealKey (iss.hreg d)
        Completes (.hsave f ls) s iss (2 + ls.length) [.act (.hsave f ls) iss.idx lane (one (BitVec.ofNat 64 va))
          (one (BitVec.ofNat 64 pa)) (one pte) [w.1 + w.2 * 2 ^ 64]]) ∧
      (s.checkAccess iss h (iss.uoff f ls 16) 16 [0] [] .load 0 = (.ok va pa pte, s) →
        Completes (.hload f ls) s iss (2 + ls.length) [.act (.hload f ls) iss.idx lane (one (BitVec.ofNat 64 va))
          (one (BitVec.ofNat 64 pa)) (one pte) []])

/-- fence, acq and rel answer the next state in every state with a clause in a slot: each holds back its one effect. pf, when every lane's checks are
answered from the TLB, does so for the lanes that pass, with their addresses and leaf, and raises nothing for those that fail. -/
def Obligations.OrderingAndPrefetchHoldBackTheirEffect : Prop :=
  ∀ (s : State) (iss : Issue) (f : FM) (ls : Lits), s.Runs iss →
    let held := fun (i : Instr) (x : LaneVals) => Completes i s iss (2 + ls.length) [.act i iss.idx iss.lanes x [] [] []]
    held (.fence f ls) [] ∧ held (.acq f ls) [] ∧ held (.rel f ls) [] ∧
    ∀ (ok : Nat → Bool) (va pa : Nat → Nat) (pte : Nat → BitVec 64) (bad : Nat → FaultCode),
      let z := 2 ^ f.t.toNat
      let near := Lanes.of fun l => iss.lanes.has l && ok l
      let on := fun (x : Nat → Word) => LaneVals.of fun l => if near.has l then x l else 0
      (∀ l, iss.lanes.has l = true → s.checkAccess iss (iss.hreg f.h.toNat) (offsetOf (iss.off f ls l) f.imm z) z [0] [] .load 0 =
        (if ok l then .ok (va l) (pa l) (pte l) else .fail (bad l) (va l), s)) →
      Completes (.pf f ls) s iss (2 + ls.length) [.act (.pf f ls) iss.idx near (on fun l => BitVec.ofNat 64 (va l))
        (on fun l => BitVec.ofNat 64 (pa l)) (on pte) []]

/-- When the bounds, rights and alignment checks pass and the range translates page by page to the parts given with the state as it
stands: preq, cinv, cwb, mvwait (IP pages), wsclose and wsreset (WS pages), mvrange (IP grains whose assigned tags name the issuing core,
a core number in range, a target within reach), pgclass (whole pages, no class change refused) and replic.add and replic.rem (a replicated SC page, a chip of the pod that
is not its home; a list with room or the chip in it, for which another home has answered, without which CLASS_OP is raised) answer the next state that holds back one effect for those
parts. -/
def Obligations.RangeInstructionsHoldBackTheirRange : Prop :=
  ∀ (s : State) (iss : Issue) (f : FM) (ls : Lits), s.Runs iss →
    let h := iss.hreg f.h.toNat
    let e := iss.uoff f ls 1
    let va := vaOf h e
    let len := rangeLen (iss.ulen f ls)
    let c := s.ctxI iss
    let core := iss.before.core
    let held := fun (i : Instr) (n : List Nat) => Completes i s iss (2 + ls.length) [.act i iss.idx iss.lanes [] [] [] n]
    let parts := fun (segs : List Seg) => segs.flatMap fun g => [g.pa, g.len]
    let xs := fun (segs : List Seg) => rangeGrains segs core
    let near := fun (segs : List Seg) => ∀ g ∈ segs, s.breaksReach g.leaf.pte g.pa (handleHas h 7) = false
    let cls := fun (segs : List Seg) (n : Nat) => ∀ g ∈ segs, pteHost g.leaf.pte = false ∧ pteClass g.leaf.pte = n
    (checkHandle c h e len 1 [] [0, 1] = none → held (.preq f ls) [va, len, handleAsid h]) ∧
    (∀ segs, checkHandle c h e len 1 [] [0, 1] = none → s.range c core (handleAsid h) va len = (.ok segs, s) →
      held (.cinv f ls) (parts segs) ∧ held (.cwb f ls) (parts segs)) ∧
    (∀ segs, checkHandle c h e len 1 (rightsAt f.scope.toNat [0]) [] = none → e % 512 = 0 → len % 512 = 0 →
      s.range c core (handleAsid h) va len = (.ok segs, s) → near segs → cls segs 3 →
      held (.mvwait f ls) (core :: flatGrains (xs segs))) ∧
    (∀ segs, checkHandle c h e len 1 (rightsAt f.scope.toNat [1]) [] = none → e % 512 = 0 → len % 512 = 0 →
      s.range c core (handleAsid h) va len = (.ok segs, s) → near segs → cls segs 2 →
      held (.wsclose f ls) (0 :: flatGrains (xs segs)) ∧ held (.wsreset f ls) (0 :: flatGrains (xs segs))) ∧
    (∀ segs, let d := (iss.ulen f ls).toNat
      let n := bits d 39 0
      n ≠ 0 → bitAt d 63 = false → bits d 50 40 ≤ 1151 → checkHandle c h e n 1 [1] [] = none →
      checkHandle c h e n 1 (rightsAt f.scope.toNat [1]) [] = none → e % 512 = 0 → n % 512 = 0 →
      s.range c core (handleAsid h) va n = (.ok segs, s) → near segs → cls segs 3 →
      (∀ x ∈ xs segs, s.mayRead x.g = true ∧ tagFree (s.tag x.g) = false ∧ s.ownedByCore x.g core = true) →
      (∀ g ∈ segs, s.outsideReach g.leaf.pte (bits d 62 51) = false) →
      held (.mvrange f ls) ([bits d 50 40, bits d 62 51] ++ flatGrains (xs segs))) ∧
    (∀ segs, checkHandle c h e len 1 (rightsAt f.scope.toNat [1, 5]) [] = none → e % 4096 = 0 → len % 4096 = 0 →
      s.range c core (handleAsid h) va len = (.ok segs, s) → near segs →
      (∀ g ∈ segs, e % g.leaf.pageSize = 0 ∧ len % g.leaf.pageSize = 0 ∧ g.va % g.leaf.size = 0 ∧ g.len = g.leaf.size) →
      s.unknownOwner segs = none → (∀ g ∈ segs, s.classChange g core f.sub.toNat = none) →
      held (.pgclass f ls) ([core, handleAsid h, 0] ++ segs.flatMap fun g => [g.va, g.pa, g.len, g.leaf.pteAddr])) ∧
    (∀ g segs, let chip := (iss.ulen f ls).toNat
      let page := g.leaf.pageBase
      let list := s.replicaList page
      let away := chipOf page ≠ s.chip
      let ns := [page, g.leaf.pageSize, chip, leafWord g.leaf.pte core, va]
      checkHandle c h e 1 1 (rightsAt f.scope.toNat [1]) [] = none → s.range c core (handleAsid h) va 1 = (.ok (g :: segs), s) →
      near (g :: segs) → pteHost g.leaf.pte = false → pteClass g.leaf.pte = 0 → pteBit g.leaf.pte 9 = true → chip ≠ chipOf page → chip < s.podSize →
      let answered := fun (add : Bool) (i : Instr) =>
        let k := queryKey (replicQuery add page chip)
        let t : State := { s with engAnswers := s.engAnswers.erase k }
        (s.engAnswers.find? k = some 0 → Sys2Proof.Machine.exec i s =
          .next (t.setIssue ((iss.clearLatch.hold [.act i iss.idx iss.lanes [] [] [] ns]).advance (2 + ls.length)))) ∧
        (∀ c, c ≠ 0 → c ≠ 2 ^ 16 → s.engAnswers.find? k = some c → Sys2Proof.Machine.exec i s = .next (t.raise iss .classOp iss.lanes va))
      (away → answered true (.replicAdd f ls) ∧ answered false (.replicRem f ls)) ∧
      (¬ away → (list.length < 8 ∨ chip ∈ list → held (.replicAdd f ls) ns) ∧ (chip ∈ list → held (.replicRem f ls) ns)) ∧
      (¬ away → 8 ≤ list.length → chip ∉ list → Raises (.replicAdd f ls) s iss .classOp iss.lanes va) ∧
      (¬ away → chip ∉ list → Raises (.replicRem f ls) s iss .classOp iss.lanes va))

/-- bra answers the next state that holds back a transfer of its acting lanes to the header's address plus four times its signed offset. brx does
so with each acting lane's register when those are multiples of four, and raises MISALIGNED in the lanes whose target is not. call, callx and ret
complete when no lane of the bundle has a full (for ret: an empty) return stack, and raise CALL_DEPTH in the lanes that have; callx checks its
targets as brx does, after its depth. exit completes in every state. -/
def Obligations.BranchCallReturnAndExitHoldBackTheirTransfer : Prop :=
  ∀ (s : State) (iss : Issue) (f : FC) (b : FB) (ls : Lits), s.Runs iss →
    let acting := fun (ge gn : BitVec 1) (gk : BitVec 3) => iss.acting ge gn gk
    let dest := LaneVals.of fun _ => (iss.pc + 4 * b.off.signExtend 52).zeroExtend 64
    let reg := fun l => iss.operand (intLayout 5) f.a 0 l
    let depth := fun l => (iss.before.thread l).stack.length
    let held := fun (i : Instr) (n : Nat) (x : LaneVals) => Completes i s iss n [.act i iss.idx iss.lanes x [] [] []]
    let aligned := fun (lanes : Lanes) => ∀ l, lanes.has l = true → (reg l).toNat % 4 = 0
    let n := 1 + ls.length
    Completes (.bra b) s iss 1 [.setPc (acting b.ge b.gn b.gk) dest] ∧
    (aligned (acting f.ge f.gn f.gk) → Completes (.brx f ls) s iss n [.setPc (acting f.ge f.gn f.gk) (LaneVals.of reg)]) ∧
    (¬ aligned (acting f.ge f.gn f.gk) →
      Raises (.brx f ls) s iss .misaligned (Lanes.of fun l => (acting f.ge f.gn f.gk).has l && (reg l).toNat % 4 != 0)) ∧
    ((∀ l, iss.lanes.has l = true → depth l ≠ 16) →
      held (.call b) 1 dest ∧ (aligned iss.lanes → held (.callx f ls) n (LaneVals.of reg))) ∧
    ((∃ l, iss.lanes.has l = true ∧ depth l = 16) →
      Raises (.call b) s iss .callDepth (Lanes.of fun l => iss.lanes.has l && depth l == 16) ∧
      (aligned iss.lanes → Raises (.callx f ls) s iss .callDepth (Lanes.of fun l => iss.lanes.has l && depth l == 16))) ∧
    ((∀ l, iss.lanes.has l = true → depth l ≠ 16) → ¬ aligned iss.lanes →
      Raises (.callx f ls) s iss .misaligned (Lanes.of fun l => iss.lanes.has l && (reg l).toNat % 4 != 0)) ∧
    (iss.lanes ≠ 0 → (∀ l, iss.lanes.has l = true → depth l = 16) → Raises (.callx f ls) s iss .callDepth iss.lanes) ∧
    ((∀ l, iss.lanes.has l = true → depth l ≠ 0) → held (.ret f ls) n []) ∧
    ((∃ l, iss.lanes.has l = true ∧ depth l = 0) →
      Raises (.ret f ls) s iss .callDepth (Lanes.of fun l => iss.lanes.has l && depth l == 0)) ∧
    held (.exit f ls) n []

/-- srd of a number up to 0x0E answers the next state that holds back the register's value: in every lane of a v destination, or the lowest lane's for a g destination
(where a thread-held register raises RESERVED_FIELD); LANE is the lane, FLAGS, DRAW, LFSR, GANG, FAULTINFO and FPCTL stand as before the clause, and LFSR, CLOCK and LTS read zero
in a deterministic grid. swr of LFSR, FLAGS, DRAW and FPCTL answers the next state that holds back the write when the bits its
register reserves are zero, and raises RESERVED_FIELD otherwise; any other number raises ILLEGAL_OPCODE. -/
def Obligations.SpecialRegisterInstructionResults : Prop :=
  ∀ (s : State) (iss : Issue) (f : FC) (ls : Lits), s.Runs iss →
    let w := 1 + ls.length
    let nr := (iss.uniform f.b (litAt ls 0)).toNat
    let nw := (iss.uniform f.b (litB ls f.a)).toNat
    let x := fun l => iss.operand (intLayout 5) f.a (litAt ls 0) l
    let u := iss.uniform f.a (litAt ls 0)
    let uniform := OpRule.legal .uniform f.a = true
    let det := (s.gridOf iss.gid).det
    (nr ≤ 0x0E → isV f.a = true → Completes (.srd f ls) s iss w [.v f.a.toNat iss.lanes (iss.lanesOf (s.special iss nr))]) ∧
    (nr ≤ 0x0E → isG f.a = true → nr ≠ 0x00 → nr ≠ 0x0A → nr ≠ 0x0B →
      Completes (.srd f ls) s iss w [.g (f.a.toNat - 104) (s.special iss nr (lowestLane iss.lanes))]) ∧
    (isG f.a = true → nr = 0x00 ∨ nr = 0x0A ∨ nr = 0x0B → Raises (.srd f ls) s iss .reservedField iss.lanes) ∧
    (0x0E < nr → Raises (.srd f ls) s iss .illegalOpcode iss.lanes) ∧
    (∀ l, s.special iss 0x00 l = BitVec.ofNat 64 l ∧ s.special iss 0x0A l = (iss.before.thread l).flags.zeroExtend 64 ∧
      s.special iss 0x0B l = (iss.before.thread l).draw ∧ s.special iss 0x0C l = iss.before.gang ∧
      s.special iss 0x0D l = iss.before.faultInfo ∧ s.special iss 0x0E l = iss.before.fpctl ∧
      s.special iss 0x06 l = BitVec.ofNat 64 s.chip ∧
      s.special iss 0x07 l = (if det then 0 else BitVec.ofNat 64 s.clock) ∧ (det = true → s.special iss 0x08 l = 0) ∧
      s.special iss 0x09 l = (if det then 0 else iss.before.lfsr.zeroExtend 64)) ∧
    (nw = 0x09 → uniform → Completes (.swr f ls) s iss w [.setLfsr u]) ∧
    (nw = 0x0E → uniform → u.toNat < 4 → Completes (.swr f ls) s iss w [.setFpctl u]) ∧
    (nw = 0x0E → uniform → 4 ≤ u.toNat → Raises (.swr f ls) s iss .reservedField iss.lanes) ∧
    (nw = 0x0A → (∀ l, iss.lanes.has l = true → (x l).toNat < 32) →
      Completes (.swr f ls) s iss w [.setFlags iss.lanes (iss.lanesOf x)]) ∧
    (nw = 0x0A → (∃ l, iss.lanes.has l = true ∧ 32 ≤ (x l).toNat) →
      Raises (.swr f ls) s iss .reservedField (Lanes.of fun l => iss.lanes.has l && decide (32 ≤ (x l).toNat))) ∧
    (nw = 0x0B → Completes (.swr f ls) s iss w [.setDraw iss.lanes (iss.lanesOf x)]) ∧
    (nw ≠ 0x09 → nw ≠ 0x0A → nw ≠ 0x0B → nw ≠ 0x0E → Raises (.swr f ls) s iss .illegalOpcode iss.lanes)

/-- cfgrd of an assigned number other than CTX_USE's answers the next state that holds back its value in every lane of a v destination, or into a g
register: the context number, the group's FAULTADDR, FAULTVA and FAULTAUX as they stood before the clause, the core's event counters, the
live walk slots, or the module-held value; in a deterministic grid every register that reports measured state reads zero. CTX_USE answers a next state
with the clusters used in its low 16 bits. cfgwr of a writable number answers the next state that holds back the write. An unassigned number,
and cfgwr of a read-only one, raise ILLEGAL_OPCODE. -/
def Obligations.ConfigurationRegisterInstructionResults : Prop :=
  ∀ (s : State) (iss : Issue) (f : FC) (ls : Lits), s.Runs iss →
    let w := 1 + ls.length
    let nr := (iss.uniform f.b (litAt ls 0)).toNat
    let nw := (iss.uniform f.b (litB ls f.a)).toNat
    let c := s.ctxOf iss.gid
    let quiet := (s.gridOf iss.gid).det && cfgMeasured nr
    let dst := fun (x : Word) =>
      if isV f.a then Effect.v f.a.toNat iss.lanes (iss.lanesOf fun _ => x) else Effect.g (f.a.toNat - 104) x
    let reads := fun (x : Word) => Completes (.cfgrd f ls) s iss w [dst x]
    ((cfgInfo nr).isSome = true → quiet = true → reads 0) ∧
    (quiet = false → nr = 0x08 → reads (BitVec.ofNat 64 c)) ∧
    (quiet = false → nr = 0x10 → reads (iss.before.faultAddr.zeroExtend 64)) ∧
    (quiet = false → nr = 0x11 → reads (iss.before.faultVa.zeroExtend 64)) ∧
    (quiet = false → nr = 0x12 → reads iss.before.faultAux) ∧
    (quiet = false → 0x18 ≤ nr → nr ≤ 0x1C → reads (s.flagev.get (iss.before.core * 5 + (nr - 0x18)) 0)) ∧
    (quiet = false → nr = 0x33 → reads (BitVec.ofNat 64 (s.ctx c).walkLive)) ∧
    (quiet = false → (cfgInfo nr).isSome = true → cfgNotModule nr = false → nr ≠ 0x32 → nr ≠ 0x33 →
      reads (BitVec.ofNat 64 (s.cfgModule nr))) ∧
    (quiet = false → nr = 0x32 → ∃ x : Word, x.toNat % 2 ^ 16 = s.clustersUsed c % 2 ^ 16 ∧
      Sys2Proof.Machine.exec (.cfgrd f ls) s =
        .next ({ s with freeCtr := s.freeCtr + 1 }.setIssue ((iss.clearLatch.hold [dst x]).advance w))) ∧
    ((cfgInfo nr).isSome = false → Raises (.cfgrd f ls) s iss .illegalOpcode iss.lanes) ∧
    (∀ i, cfgInfo nw = some i → i.ro = false →
      Completes (.cfgwr f ls) s iss w [.act (.cfgwr f ls) iss.idx iss.lanes [] [] [] [nw, (iss.uniform f.a (litAt ls 0)).toNat]]) ∧
    (cfgInfo nw = none ∨ (∃ i, cfgInfo nw = some i ∧ i.ro = true) → Raises (.cfgwr f ls) s iss .illegalOpcode iss.lanes)

/-- nop answers the next state with no effect held back. yield with a delay up to 4095, and trap and brk with a code up to 255, hold back their
effect, and raise RESERVED_FIELD above. A barrier instruction on a barrier up to 15, with a count up to 32 and no other barrier
instruction before it in its clause, holds back its effect when no lane has an unwaited arrival and the count matches that of the phase (bar.wait:
when every lane has one), and raises BAR_ORDER in the failing lanes otherwise. step completes in a stepped grid, step.pod in one with a
step tag in a pod step domain; elsewhere they raise STEP_MODE. tret completes in the handler with an aligned target, and raises TRET_STATE outside it. -/
def Obligations.TrapBarrierStepAndYieldHoldBackTheirEffect : Prop :=
  ∀ (s : State) (iss : Issue) (f : FC) (ls : Lits), s.Runs iss →
    let w := 1 + ls.length
    let u := (iss.uniform f.a (litAt ls 0)).toNat
    let c := (iss.uniform f.b (litB ls f.a)).toNat
    let held := fun (i : Instr) (n : List Nat) => Completes i s iss w [.act i iss.idx iss.lanes [] [] [] n]
    let b := (s.teamOf iss.gid).barrier u
    let arrived := fun l => (((s.group iss.gid).thread l).pending.find? u).isSome
    let wrong := decide (b.count ≠ none ∧ b.count ≠ some c)
    let alone := ∀ e ∈ iss.effects, e.instr?.bind barParts = none
    let reg := fun l => iss.operand (intLayout 5) f.a 0 l
    let g := s.gridOf iss.gid
    Completes (.nop f ls) s iss w [] ∧
    (u ≤ 4095 → held (.yield f ls) [u]) ∧ (4095 < u → Raises (.yield f ls) s iss .reservedField iss.lanes) ∧
    (u ≤ 255 → held (.trap f ls) [u] ∧ held (.brk f ls) [u]) ∧
    (255 < u → Raises (.trap f ls) s iss .reservedField iss.lanes ∧ Raises (.brk f ls) s iss .reservedField iss.lanes) ∧
    (alone → u ≤ 15 → c ≤ 32 → (∀ l, iss.lanes.has l = true → arrived l = false ∧ wrong = false) →
      held (.barSync f ls) [u, c] ∧ held (.barArrive f ls) [u, c]) ∧
    (alone → u ≤ 15 → c ≤ 32 → (∃ l, iss.lanes.has l = true ∧ (arrived l = true ∨ wrong = true)) →
      Raises (.barSync f ls) s iss .barOrder (Lanes.of fun l => iss.lanes.has l && (arrived l || wrong)) ∧
      Raises (.barArrive f ls) s iss .barOrder (Lanes.of fun l => iss.lanes.has l && (arrived l || wrong))) ∧
    (alone → u ≤ 15 → (∀ l, iss.lanes.has l = true → arrived l = true) → held (.barWait f ls) [u, 0]) ∧
    (alone → u ≤ 15 → (∃ l, iss.lanes.has l = true ∧ arrived l = false) →
      Raises (.barWait f ls) s iss .barOrder (Lanes.of fun l => iss.lanes.has l && !arrived l)) ∧
    (15 < u → Raises (.barSync f ls) s iss .barOrder iss.lanes ∧ Raises (.barArrive f ls) s iss .barOrder iss.lanes ∧
      Raises (.barWait f ls) s iss .barOrder iss.lanes) ∧
    (32 < c → Raises (.barSync f ls) s iss .barOrder iss.lanes ∧ Raises (.barArrive f ls) s iss .barOrder iss.lanes) ∧
    (g.stepped = true → held (.step f ls) []) ∧ (g.stepped = false → Raises (.step f ls) s iss .stepMode iss.lanes) ∧
    (g.stepped = true → g.stag ≠ 0 → s.cfgVal 0x35 ≠ 0 → held (.stepPod f ls) []) ∧
    (g.stepped = false ∨ g.stag = 0 ∨ s.cfgVal 0x35 = 0 → Raises (.stepPod f ls) s iss .stepMode iss.lanes) ∧
    (iss.before.inHandler = false → Raises (.tret f ls) s iss .tretState iss.lanes) ∧
    (iss.before.inHandler = true → (f.a = 120 ∨ ∀ l, iss.lanes.has l = true → (reg l).toNat % 4 = 0) →
      Sys2Proof.Machine.exec (.tret f ls) s = .next (s.setIssue
        ((({ iss with sawTret := true }.clearLatch).hold [.act (.tret f ls) iss.idx iss.lanes (LaneVals.of reg) [] [] []]).advance w)))

/-- CONTEXT_KILL without a kill raised, or while the context's groups do not stand at boundaries or one of its pages is half moved, changes nothing; a halt (cause 3, raised by a breakpoint) reports it and halts the context with everything kept; any other kill stops the
context, and it is killed with its record written and no kill left. DRAIN_LIMIT_EXPIRY marks every resident team of a draining context for saving once DRAIN_LIMIT has passed, and changes nothing before.
FORCED_SAVE takes a team that stands still off its cluster, saved, and writes no byte but in the context's save area. CONTEXT_BECOMES_LIVE reads q from the event area where there is one, and gives a free or saved context its record and its walks back; a refused record
leaves it as it was; a live one is not touched. -/
def Obligations.ContextKillDrainAndSaveEventResults : Prop :=
  ∀ (s : State) (ctx : Nat) (k : KillReq),
    let c := s.ctx ctx
    (s.chosenKill c = none → Sys2Proof.Machine.exec (.contextKill ctx) s = .next s) ∧
    (s.quiet (s.ctxGroups ctx) = false ∨ s.movesPage ctx = true → Sys2Proof.Machine.exec (.contextKill ctx) s = .next s) ∧
    (s.chosenKill c = some k → c.status ≠ .free → c.status ≠ .killed → s.quiet (s.ctxGroups ctx) = true → s.movesPage ctx = false →
      (k.cause = 3 → Answers (.contextKill ctx) s fun t =>
        t.ctx ctx = { c with status := .halted, haltedFrom := c.status, kills := [] } ∧ t.mem = s.mem ∧ t.groups = s.groups ∧
        t.teams = s.teams ∧ .msix c.msix ∈ t.outbox) ∧
      (k.cause ≠ 3 → Answers (.contextKill ctx) s fun t =>
        (t.ctx ctx).status = .killed ∧ (t.ctx ctx).kills = [] ∧ (t.ctx ctx).killWritten = true ∧ (t.ctx ctx).drainWaits = [])) ∧
    (c.status = .draining → c.drainSince + s.cfgVal 0x20 * 1400 ≤ s.clock → Answers (.drainLimitExpiry ctx) s fun t =>
      t.mem = s.mem ∧ t.groups = s.groups ∧ ∀ i x, s.teams.find? i = some x →
        t.teams.find? i = some { x with saving := x.saving || (x.ctx == ctx && x.status == .resident) }) ∧
    (c.status ≠ .draining ∨ s.clock < c.drainSince + s.cfgVal 0x20 * 1400 → Sys2Proof.Machine.exec (.drainLimitExpiry ctx) s = .next s) ∧
    (∀ tid, (s.team tid).status ≠ .resident ∨ (s.team tid).saving = false ∨ s.canSave tid = false →
      Sys2Proof.Machine.exec (.forcedSave tid) s = .next s) ∧
    (∀ tid, (s.team tid).status = .resident → (s.team tid).saving = true → s.canSave tid = true → (s.team tid).ctx = ctx →
      c.status = .live → s.works = [] → s.commands = [] → s.latches = [] → s.latchWaits = [] → s.MemoryCanonical → Answers (.forcedSave tid) s fun t =>
        t.team tid = { s.team tid with status := .saved, saving := false } ∧ (t.ctx ctx).drainSaved = c.drainSaved + 1 ∧
        (∀ g ∈ (s.team tid).groups, (t.group g).resident = false ∧ (t.group g).threads = (s.group g).threads) ∧
        ∀ a, a < c.saveArea ∨ c.saveArea + Config.saveAreaBytes ≤ a → t.byteAt a = s.byteAt a) ∧
    (∀ q, ctx < 1024 → s.inReset = false → s.recovery = false → c.status = .free ∨ c.status = .saved →
      let area := recBits (s.recordOf ctx) 691 640
      let read := if area = 0 then s else s.send (.hostRead (areaReadId + ctx) (area + 16) 8)
      (recordBad (s.recordOf ctx) q = false → s.isSelf s.chip = true → Sys2Proof.Machine.exec (.contextBecomesLive ctx q) s =
        .next (read.setCtx ctx { c with
          status := .live, record := s.recordOf ctx, q := if recBits (s.recordOf ctx) 691 640 = 0 then c.q else q
          walks := c.walks.map fun (p : Nat × Walk) => (p.1, p.2.unhold) })) ∧
      (recordBad (s.recordOf ctx) q = true → Answers (.contextBecomesLive ctx q) s fun t =>
        t.ctx ctx = c ∧ t.mem = s.mem ∧ .msix (recBits (s.recordOf ctx) 39 29) ∈ t.outbox)) ∧
    (∀ q, c.status ≠ .free → c.status ≠ .saved → Sys2Proof.Machine.exec (.contextBecomesLive ctx q) s = .next s)

/-- DRAIN of a live context with resident teams starts its drain with its walks held; DRAIN_NOW also marks its teams for saving. KILL asks for the kill of a live, draining, saved or halted context, RESUME gives a halted one its state back, END frees a killed one. A command in any other state, or from a function that has no context there,
and any command while the module is in reset or recovery, is discarded and counted. A write to a walk's start register starts a walk of a live context at an aligned address and is counted where the rule ignores it. EVENT_AREA_WRITE puts the oldest
event into its entry, then the producer count, and signals, and the unit that raised it goes on; a full area keeps it. EVENT_AREA_RETRY takes the consumer count that the module reads again every microsecond while the area is full. -/
def Obligations.ControlBlockCommandResults : Prop :=
  ∀ (s : State) (ctx : Nat),
    let c := s.ctx ctx
    let open' := ctx < 1024 ∧ s.recovery = false ∧ s.inReset = false
    let draining := s.setCtx ctx { c with
      status := .draining, drainSince := s.clock, drainRetired := 0, drainSaved := 0
      walks := c.walks.map fun (p : Nat × Walk) => (p.1, p.2.hold) }
    (open' → c.status = .live → s.residentTeams ctx ≠ [] →
      (s.cfgVal 0x20 ≠ 0 → Sys2Proof.Machine.exec (.ctxCmdDrain ctx) s = .next draining) ∧
      Sys2Proof.Machine.exec (.ctxCmdDrainNow ctx) s = .next (draining.saveAll ctx)) ∧
    (open' → c.status = .live ∨ c.status = .draining ∨ c.status = .saved ∨ c.status = .halted →
      Sys2Proof.Machine.exec (.ctxCmdKill ctx) s = .next (s.setCtx ctx { c with kills := c.kills ++ [{ code := .ctxKill, cause := 5 }] })) ∧
    (open' → c.status = .halted → c.haltedFrom = .live → Answers (.ctxCmdResume ctx) s fun t =>
      t.ctx ctx = { c with status := .live, walks := c.walks.map fun (p : Nat × Walk) => (p.1, p.2.unhold) } ∧ t.mem = s.mem ∧ t.teams = s.teams ∧ t.deferred = s.deferred) ∧
    (open' → c.status = .killed → Answers (.ctxCmdEnd ctx) s fun t => t.ctx ctx = {} ∧ t.mem = s.mem ∧
      (∀ p ∈ t.teams, p.2.ctx ≠ ctx) ∧ (∀ p ∈ t.grids, p.2.ctx ≠ ctx) ∧ (∀ p ∈ s.teams, p.2.ctx ≠ ctx → p ∈ t.teams)) ∧
    (s.recovery = true ∨ s.inReset = true ∨ s.windowCtx ctx = none ∨ (ctx < 1024 ∧ c.status = .free) →
      ∀ i, i = .ctxCmdDrain ctx ∨ i = .ctxCmdDrainNow ctx ∨ i = .ctxCmdKill ctx ∨ i = .ctxCmdResume ctx ∨ i = .ctxCmdEnd ctx →
        Sys2Proof.Machine.exec i s = .next s.hostErr) ∧
    (∀ v i, v < 16 → i < 1024 → (grantOf (s.grants.get v 0).toNat)[i]? = some ctx → ctx < 1024 →
      let n := 1024 * (v + 1) + i
      Sys2Proof.Machine.exec (.ctxCmdDrain n) s = Sys2Proof.Machine.exec (.ctxCmdDrain ctx) s ∧
      Sys2Proof.Machine.exec (.ctxCmdDrainNow n) s = Sys2Proof.Machine.exec (.ctxCmdDrainNow ctx) s ∧
      Sys2Proof.Machine.exec (.ctxCmdKill n) s = Sys2Proof.Machine.exec (.ctxCmdKill ctx) s ∧
      Sys2Proof.Machine.exec (.ctxCmdResume n) s = Sys2Proof.Machine.exec (.ctxCmdResume ctx) s ∧
      Sys2Proof.Machine.exec (.ctxCmdEnd n) s = Sys2Proof.Machine.exec (.ctxCmdEnd ctx) s ∧
      ∀ slot value, Sys2Proof.Machine.exec (.walkStartWrite n slot value) s = Sys2Proof.Machine.exec (.walkStartWrite ctx slot value) s) ∧
    (ctx < 1024 → c.status = .live → Sys2Proof.Machine.exec (.ctxCmdResume ctx) s = .next s.hostErr ∧
      Sys2Proof.Machine.exec (.ctxCmdEnd ctx) s = .next s.hostErr) ∧
    (∀ slot value, ctx < 1024 → slot < 16 → c.walks.find? slot = none → c.status = .live → value.toNat % 64 = 0 → value.toNat < 2 ^ 52 →
      Sys2Proof.Machine.exec (.walkStartWrite ctx slot value) s =
        .next (s.setCtx ctx { c with walks := c.walks.insert slot { node := value.toNat, state := .visiting } })) ∧
    (∀ slot value, s.windowCtx ctx = none ∨ 16 ≤ slot ∨ value.toNat % 64 ≠ 0 ∨ 2 ^ 52 ≤ value.toNat ∨
        (ctx < 1024 ∧ (c.status = .free ∨ c.status = .killed ∨ ∃ w, c.walks.find? slot = some w ∧ w.state ≠ .ended)) →
      Sys2Proof.Machine.exec (.walkStartWrite ctx slot value) s = .next s.hostErr) ∧
    (c.events = [] ∨ c.areaFull = true → Sys2Proof.Machine.exec (.eventAreaWrite ctx) s = .next s) ∧
    (∀ e rest, c.events = e :: rest → c.areaFull = false → s.hostLines = [] → ∃ t, Sys2Proof.Machine.exec (.eventAreaWrite ctx) s = .next
        (match e.receive with
          | some id => t.loseCommand id (BitVec.ofNat 64 e.aux)
          | none => if e.kind ≤ 4 then t.walkSettle ctx e.slot else t) ∧
      t.ctx ctx = { c with events := rest, producer := (c.producer + 1) % 2 ^ 32 } ∧ t.mem = s.mem ∧
      t.outbox = s.outbox ++ [.hostWrite 0 (c.eventArea + 64 + 32 * (c.producer % 2 ^ c.q)) e.bytes false,
        .hostWrite 0 c.eventArea (toBytes 4 ((c.producer + 1) % 2 ^ 32)) false, .msix e.vector]) ∧
    (∀ n, c.events = [] ∨ c.areaFull = false ∨ s.clock < c.consumerRead + 1400 → Sys2Proof.Machine.exec (.eventAreaRetry ctx n) s = .next s) ∧
    (∀ n, c.events ≠ [] → c.areaFull = true → c.consumerRead + 1400 ≤ s.clock → Sys2Proof.Machine.exec (.eventAreaRetry ctx n) s =
      .next ((s.send (.hostRead (areaReadId + ctx) (c.eventArea + 8) 8)).setCtx ctx { c with consumer := n.toNat, consumerRead := s.clock }))

/-- TEAM_DISPATCH of a team that is no candidate, while dispatch is withheld, or that does not come first, changes nothing. The first team of a grid without a measured limit, where it fits and its share allows it, starts: the new team has the grid, index and cluster given, its groups stand on the cores given with every
thread at the kernel's entry, and no memory changes but by reading its arguments. STARVATION_SWAP changes nothing before STARVE_WAIT, then saves its victim and places the waiting team, and without a victim faults the grid's groups. GRID_COMPLETE ends a grid whose teams are done, digest written and writes performed, with the status that its code and its cancellation give, kept
under its launch number, and changes nothing before. GRID_END_DIGEST reads the digest area: a bad count ends it with ENGINE_RECORD, good entries enter a digest command. -/
def Obligations.PlacementAndGridEventResults : Prop :=
  ∀ (s : State) (gr idx q : Nat) (cores : List Nat),
    let g := s.grid gr
    let cand := (s.candidatesOf gr).find? fun c => c.index == idx
    let n := 16 + 16 * g.nhandles + 8 * g.nuniforms
    (cand = none → Sys2Proof.Machine.exec (.teamDispatch gr idx q cores) s = .next s) ∧
    (∀ c, cand = some c → s.withheld = true ∨ s.isFirst c = false ∨ q ≠ cores.headD 0 / 4 →
      Sys2Proof.Machine.exec (.teamDispatch gr idx q cores) s = .next s) ∧
    (∀ c u bs, cand = some c → c.saved = none → s.withheld = false → s.isFirst c = true → q = cores.headD 0 / 4 → s.measuredLimits g.ctx = false →
      g.stepped = false → c.grid = gr → s.shareAllows g.ctx q = true → s.coresFit g.kernel cores = true →
      s.walkRead (gridReader gr) g.ctx g.argVa n = .ok bs u → Answers (.teamDispatch gr idx q cores) s fun t =>
        (t.team u.nextId).grid = gr ∧ (t.team u.nextId).index = idx ∧ (t.team u.nextId).cluster = q ∧
        (t.team u.nextId).groups.length = cores.length ∧ t.mem = u.mem ∧
        ∀ i, i < cores.length → (t.team u.nextId).groups.getD i 0 = u.nextId + 1 + i ∧
          (t.group (u.nextId + 1 + i)).core = cores.getD i 0 ∧ (t.group (u.nextId + 1 + i)).index = i ∧
          ∀ l, l < 32 → ((t.group (u.nextId + 1 + i)).thread l).pc = g.kernel.entry) ∧
    (∀ c, cand = some c → c.saved = none → s.withheld = false → s.isFirst c = true → q = cores.headD 0 / 4 → s.measuredLimits g.ctx = false →
      g.stepped = true → Sys2Proof.Machine.exec (.teamDispatch gr idx q cores) s = .next
        (s.whenArgs c fun s => s.orElse gr (s.placeAll gr g.teams cores))) ∧
    (g.starvedSince = none → Sys2Proof.Machine.exec (.starvationSwap gr) s = .next s) ∧
    (∀ a, g.starvedSince = some a → s.clock < a + s.cfgVal 0x30 → Sys2Proof.Machine.exec (.starvationSwap gr) s = .next s) ∧
    (s.withheld = true → Sys2Proof.Machine.exec (.starvationSwap gr) s = .next s) ∧
    (∀ a c, g.starvedSince = some a → a + s.cfgVal 0x30 ≤ s.clock → s.withheld = false → s.starves gr = true → s.lowestWaiting gr = some c →
      s.swapVictim gr c = none → Sys2Proof.Machine.exec (.starvationSwap gr) s =
        .next ((s.starveFault gr).modGrid gr fun x => { x with starvedSince := none })) ∧
    (∀ a c victim room d v, g.starvedSince = some a → a + s.cfgVal 0x30 ≤ s.clock → s.withheld = false → s.starves gr = true → s.lowestWaiting gr = some c →
      s.swapVictim gr c = some (victim, room) → s.canSave victim = true →
      c.saved ≠ none ∨ (∀ u, s.argBlock c.grid ≠ .wait u) → (s.saveTeam victim).placeOne c room = .ok d v →
      Sys2Proof.Machine.exec (.starvationSwap gr) s = .next
        ((v.engDone (gridReader gr)).modGrid gr fun x => { x with starvedSince := none })) ∧
    (g.state = .queued ∨ g.state = .running → s.teamsDone gr = true → g.wantsDigest = false → s.gridPerformed gr = true → g.walk = none →
      (s.grids.find? gr).isSome = true → Answers (.gridComplete gr) s fun t =>
        let st := if g.code ≠ 0 then LaunchState.failed else if g.cancelled then .cancelled else .complete
        t.grid gr = { g with state := st } ∧ (t.ctx g.ctx).kept.getLast? = some (g.launch, st, g.code, g.retired.length) ∧
        t.mem = s.mem ∧ t.teams = s.teams ∧ t.groups = s.groups) ∧
    (s.teamsDone gr = false ∨ s.gridPerformed gr = false ∨ g.wantsDigest = true → Sys2Proof.Machine.exec (.gridComplete gr) s = .next s) ∧
    (s.teamsDone gr = false ∨ s.gridPerformed gr = false ∨ g.wantsDigest = false → Sys2Proof.Machine.exec (.gridEndDigest gr) s = .next s) ∧
    (g.state = .running → g.wantsDigest = true → s.teamsDone gr = true → s.gridPerformed gr = true → s.commands = [] →
      ∀ hd u, s.walkRead (gridReader gr) g.ctx g.digestVa 16 = .ok hd u →
        (ofBytes hd = 0 ∨ 64 < ofBytes hd → Sys2Proof.Machine.exec (.gridEndDigest gr) s =
          .next (((u.engDone (gridReader gr)).gridCode gr .engineRecord).modGrid gr fun x => { x with digestDone := true })) ∧
        (∀ bs v, 0 < ofBytes hd → ofBytes hd ≤ 64 → u.walkRead (gridReader gr) g.ctx g.digestVa (16 + 16 * ofBytes hd) = .ok bs v →
          entriesOk (digestEntries (ofBytes hd) bs) = true → Answers (.gridEndDigest gr) s fun t =>
            ∃ c, t.commands.find? v.nextId = some c ∧ c.kind = .gridDigest ∧ c.words.headD 0 = gr ∧ t.nextId = v.nextId + 1))

/-- A visit of a slot without a walk, of a context that is not live, or of another kind than the node's changes nothing; a record of a wrong form fails the walk with ENGINE_RECORD. The record and its range list are read once in a visit: a visit of another kind only keeps them. A visit of the node's kind: GRID launches the grid and waits in it (or goes on, under nowait), or fails with the refusal's code; COPY enters a copy command and waits in it, or fails
a misaligned destination; COLL posts its buffer to its round and waits for it, or fails for a context without a round or member; COND and WHILE read the word and go to the node that the test names; SNAP starts the record and waits, or fails the check; HOSTSIG raises its event; END ends
the walk as complete once its grids have ended. -/
def Obligations.NodeVisitResults : Prop :=
  ∀ (s : State) (ctx slot : Nat),
    let kinds : List (Nat × Instr) := [(1, .nodeVisitGrid ctx slot), (2, .nodeVisitCopy ctx slot), (3, .nodeVisitColl ctx slot),
      (4, .nodeVisitCond ctx slot), (5, .nodeVisitWhile ctx slot), (6, .nodeVisitSnap ctx slot), (7, .nodeVisitHostsig ctx slot),
      (0, .nodeVisitEnd ctx slot)]
    let who := walkReader ctx slot
    let visits := fun (w : Walk) => (s.ctx ctx).walks.find? slot = some w ∧ w.state = .visiting ∧ (s.ctx ctx).status = .live ∧
      (s.ctx ctx).kills = []
    let reads := fun (w : Walk) (n : Node) (u : State) => visits w ∧ n.malformed = false ∧
      ((w.record = some n.words ∧ w.listed = true ∧ u = s) ∨
      (w.record = none ∧ ∃ bs v ds x, (s.acquireAll 288 2).walkRead who ctx w.node 64 = .ok bs v ∧ n.words = wordsOf bs ∧
        (((v.ctx ctx).walks.find? slot).map Walk.listed).getD false = false ∧
        v.walkRead who ctx n.ranges (16 * n.nranges) = .ok ds x ∧
        u = x.modWalk ctx slot fun y => { y with record := some n.words, listed := true }))
    (∀ p ∈ kinds, ((s.ctx ctx).walks.find? slot = none → Sys2Proof.Machine.exec p.2 s = .next s) ∧
      (∀ w, (s.ctx ctx).walks.find? slot = some w → w.state = .visiting → (s.ctx ctx).status ≠ .live ∨ (s.ctx ctx).kills ≠ [] → Sys2Proof.Machine.exec p.2 s = .next s) ∧
      (∀ w bs v, visits w → w.record = none →
        (s.acquireAll 288 2).walkRead who ctx w.node 64 = .ok bs v → ({ words := wordsOf bs } : Node).malformed = true →
        Sys2Proof.Machine.exec p.2 s = .next (v.endWalk ctx slot .failed 3 FaultCode.engineRecord.num)) ∧
      (∀ w n u, reads w n u → n.kind ≠ p.1 → Sys2Proof.Machine.exec p.2 s = .next u)) ∧
    (∀ w n u, reads w n u →
      (n.kind = 1 →
        (∀ c v, u.launchGrid ctx w.node (some slot) w.handle n = .refused c v →
          Sys2Proof.Machine.exec (.nodeVisitGrid ctx slot) s = .next (v.endWalk ctx slot .failed 3 c.num)) ∧
        (∀ gr v, u.launchGrid ctx w.node (some slot) w.handle n = .started gr v →
          let launched := v.modWalk ctx slot fun w => { w with grids := w.grids ++ [gr], next := n.next }
          Sys2Proof.Machine.exec (.nodeVisitGrid ctx slot) s = .next (if n.nowait then launched.nodeDone ctx slot
            else launched.waitIn ctx slot n (.grid gr)))) ∧
      (n.kind = 2 →
        (n.w 4 % 4096 ≠ 0 → Sys2Proof.Machine.exec (.nodeVisitCopy ctx slot) s =
          .next (u.endWalk ctx slot .failed 3 FaultCode.misaligned.num)) ∧
        (n.w 4 % 4096 = 0 → n.w 5 ≠ 0 → (u.copiesHeld 0).length < 32 → Answers (.nodeVisitCopy ctx slot) s fun t =>
          t.nextId = u.nextId + 1 ∧ t.mem = u.mem ∧
          ∃ c, t.commands.find? u.nextId = some c ∧ c.kind = .copy ∧ c.words = [n.w 3, n.w 4, n.w 5] ∧ c.walk = some (ctx, slot))) ∧
      (n.kind = 3 →
        let x := bits (n.w 3) 7 0
        let m := bits (n.w 3) 13 8
        (u.combines.find? x = none → Sys2Proof.Machine.exec (.nodeVisitColl ctx slot) s =
          .next (u.endWalk ctx slot .failed 3 FaultCode.collState.num)) ∧
        (∀ c d v, u.combines.find? x = some c → m < c.nlocal → (c.memberRound m).2 = false → u.walkRead who ctx (n.w 4) c.bytes = .ok d v →
          Sys2Proof.Machine.exec (.nodeVisitColl ctx slot) s = .next (((v.waitIn ctx slot n (.round x (c.memberRound m).1)).modWalk ctx slot
            fun w => { w with code := 0 }).postRound x m { walkPost ctx slot (u.ctx ctx).asid m (n.w 5) c.bytes with data := d }))) ∧
      (∀ bs v, n.kind = 4 ∨ n.kind = 5 → u.walkRead who ctx (n.w 3) 8 = .ok bs v →
        Sys2Proof.Machine.exec (if n.kind = 4 then .nodeVisitCond ctx slot else .nodeVisitWhile ctx slot) s =
          .next (((v.acquireAll 288 3).engDone who).modWalk ctx slot fun w => { w with
            node := if nodeTest (n.w 5) (ofBytes bs) (n.w 4) = (n.kind == 4) then n.next else n.w 6, record := none, listed := false })) ∧
      (n.kind = 6 →
        (∀ c, u.snapCheck (u.ctx ctx) (bits (n.w 3) 0 0) = some c → Sys2Proof.Machine.exec (.nodeVisitSnap ctx slot) s =
          .next (u.endWalk ctx slot .failed 3 c.num)) ∧
        (u.snapCheck (u.ctx ctx) (bits (n.w 3) 0 0) = none → Sys2Proof.Machine.exec (.nodeVisitSnap ctx slot) s =
          .next ((u.startRecord (u.epoch + 1) u.chip (bits (n.w 3) 63 32)).waitIn ctx slot n (.snap (bits (n.w 3) 0 0) (u.epoch + 1))))) ∧
      (n.kind = 7 → (u.ctx ctx).eventArea ≠ 0 → Answers (.nodeVisitHostsig ctx slot) s fun t =>
        (t.ctx ctx).events = (u.ctx ctx).events ++ [{ kind := 1, slot := slot, value := n.w 3, vector := n.w 4, clock := u.clock }] ∧
        t.mem = u.mem) ∧
      (n.kind = 0 → (∀ g ∈ w.grids, (u.grid g).state = .complete ∨ (u.grid g).state = .cancelled) →
        Sys2Proof.Machine.exec (.nodeVisitEnd ctx slot) s = .next (u.endWalk ctx slot .complete 2 0)))

/-- The record instant waits for the domain to be quiet, then advances the epoch, stages the record and awaits a marker of every channel. The sweep takes one grain at a time, preserves it where the snapshot lacks it, reads one that another chip holds first, and ends after the last. A staged record goes to the lake, one that does not fit fails the snapshot. The chip is complete when markers, sweep and staging are done, and reports with a message of class 1.
The last report seals. Seal, failure and drop notices, drop reports and the end of a drop change the colour as the table says and nothing outside the row's states. A marker of an epoch not recorded starts the record and waits; of a recorded one it ends its channel's logging. SNAPSHOT_RESTORATION acts on a sealed
snapshot only, or on a module without a live context for one that others took: the chip takes its epoch, page sides and contexts, and holds no line, lease or copy. -/
def Obligations.SnapshotEventResults : Prop :=
  ∀ (s : State) (col : BitVec 1) (chip : Nat),
    let c := col.toNat
    let x := s.snap c
    ((∀ p ∈ s.snaps, p.2.state ≠ 1) ∨ s.domQuiet = false → Sys2Proof.Machine.exec .snapshotRecordInstant s = .next s) ∧
    (∀ k y, s.snaps.find? k = some y → y.state = 1 → y.dropHeld = false → s.remoteOps = [] → (∀ p ∈ s.snaps, p.1 ≠ k → p.2.state ≠ 1) → s.domQuiet = true →
      Answers .snapshotRecordInstant s fun t => t.epoch = y.epoch ∧ (t.snap k).state = 2 ∧ t.mem = s.mem ∧ t.heldMsgs = [] ∧
        (t.snap k).awaiting = (s.domChips.flatMap fun d => s.snapClasses.map fun m => (d, m)) ∧
        t.agenda = (s.heldMsgs.map fun i => (0, i)) ++ s.agenda) ∧
    (x.state ≠ 2 ∨ x.swept = true → Sys2Proof.Machine.exec (.snapshotSweep col) s = .next s) ∧
    (x.state = 2 → x.swept = false → x.marks = [] → grainAt x.frames x.sweepAt = none →
      Sys2Proof.Machine.exec (.snapshotSweep col) s = .next (s.modSnap c fun y => { y with swept := true })) ∧
    (∀ tier g, x.state = 2 → x.swept = false → grainAt x.frames x.sweepAt = some (tier, g) →
      let on := fun (u : State) => u.modSnap c fun y => { y with sweepAt := y.sweepAt + 1, read := false }
      let home := tier = false ∧ chipOf (g * 512) = s.chip ∧ s.txns.find? g = none ∧ s.engineOf g = none
      (tier = true → Sys2Proof.Machine.exec (.snapshotSweep col) s =
        .next (on (if (s.lacking true g (tagEpoch (s.tierTags.get g 0))).isSome then s.preserveTier g else s))) ∧
      (tier = false → chipOf (g * 512) ≠ s.chip → Sys2Proof.Machine.exec (.snapshotSweep col) s = .next (on s)) ∧
      (home → x.read = true ∨ tagFree (s.tag g) = true ∨ heldElsewhere s.chip (s.tag g) = false → Sys2Proof.Machine.exec (.snapshotSweep col) s =
        .next (on (if (s.lacking false g (tagEpoch (s.tag g))).isSome then s.preserve g else s))) ∧
      (home → x.read = false → tagFree (s.tag g) = false → heldElsewhere s.chip (s.tag g) = true →
        (s.lacking false g (tagEpoch (s.tag g))).isSome = true → Answers (.snapshotSweep col) s fun t =>
          t.snap c = { x with read := true } ∧ (t.txns.find? g).isSome = true ∧ t.mem = s.mem ∧ t.tags = s.tags ∧
          t.sendQ = (s.sendMsg (tagPtr (s.tag g) 0) .snapRead g).sendQ)) ∧
    ((∀ p ∈ s.snaps, p.2.staged = []) → Sys2Proof.Machine.exec .mordantLakeWrite s = .next s) ∧
    (∀ k y r rest, s.snaps = [(k, y)] → y.staged = r :: rest → y.state = 2 → bitAt (s.cfgVal 0x71) 52 = false →
      let ends := bits (s.cfgVal 0x71) 51 0 + k * s.halfSize + lakeUsed y.lake + r.size
      (lakeUsed y.lake + r.size ≤ s.halfSize → ends ≤ s.cfgVal 0x56 * 2 ^ 30 → Answers .mordantLakeWrite s fun t =>
        t.snap k = { y with staged := rest, lake := y.lake ++ [r] } ∧ t.mem = s.mem ∧ t.outbox = s.outbox) ∧
      (s.halfSize < lakeUsed y.lake + r.size → Answers .mordantLakeWrite s fun t =>
        (t.snap k).state = 5 ∧ (t.snap k).cause = 1 ∧ t.mem = s.mem ∧ t.tier = s.tier) ∧
      (lakeUsed y.lake + r.size ≤ s.halfSize → s.cfgVal 0x56 * 2 ^ 30 < ends → Answers .mordantLakeWrite s fun t =>
        (t.snap k).state = 5 ∧ (t.snap k).cause = 1 ∧ t.mem = s.mem ∧ t.tier = s.tier ∧ t.cfg = s.hostErr.cfg)) ∧
    (x.state ≠ 2 ∨ x.awaiting ≠ [] ∨ x.swept = false ∨ x.staged ≠ [] → Sys2Proof.Machine.exec (.snapshotChipComplete col) s = .next s) ∧
    (x.state = 2 → x.awaiting = [] → x.swept = true → x.staged = [] → lakeUsed x.lake + (endRecord x.lake).size ≤ s.halfSize →
      bitAt (s.cfgVal 0x71) 52 = false →
      bits (s.cfgVal 0x71) 51 0 + c * s.halfSize + lakeUsed x.lake + (endRecord x.lake).size ≤ s.cfgVal 0x56 * 2 ^ 30 →
      Answers (.snapshotChipComplete col) s fun t =>
        t.snap c = { x with state := 3, lake := x.lake ++ [endRecord x.lake] } ∧ t.outbox = s.outbox ∧ t.mem = s.mem ∧
        (x.initiator ≠ s.chip → t.agenda = s.agenda ∧ t.sendQ = (s.enqueue
          { chip := x.initiator, cls := 1, role := .report, info := c, payload := [BitVec.ofNat 8 c], epoch := x.epoch }).sendQ) ∧
        (x.initiator = s.chip → t.sendQ = s.sendQ ∧ t.agenda = s.agenda ++ [(0, .snapshotReportReceive s.chip col)])) ∧
    (x.state ≠ 3 ∨ (∃ d ∈ s.domChips, d ≠ chip ∧ d ∉ x.reports) → Sys2Proof.Machine.exec (.snapshotReportReceive chip col) s =
      .next (s.modSnap c fun y => { y with reports := if y.reports.contains chip then y.reports else y.reports ++ [chip] })) ∧
    (x.state = 3 → (∀ d ∈ s.domChips, d = chip ∨ d ∈ x.reports) → lakeUsed x.lake + 32 ≤ s.halfSize →
      bitAt (s.cfgVal 0x71) 52 = true ∨ bits (s.cfgVal 0x71) 51 0 + c * s.halfSize + lakeUsed x.lake + 32 ≤ s.cfgVal 0x56 * 2 ^ 30 →
      Answers (.snapshotReportReceive chip col) s fun t => (t.snap c).state = 4 ∧ t.mem = s.mem ∧
        ∀ d ∈ s.domChips, d ≠ s.chip → .notice d "Seal" [c] ∈ t.outbox) ∧
    (Sys2Proof.Machine.exec (.sealNoticeReceive col) s = .next (if x.state = 3 then s.modSnap c fun y => { y with state := 4 } else s)) ∧
    (x.state = 2 ∨ x.state = 3 → s.cfgVal 0x73 ≠ s.chip → x.initiator ≠ s.chip → Sys2Proof.Machine.exec (.failureNoticeReceive col) s =
      .next (s.modSnap c fun y => { y with state := 5, cause := 4, marks := [] })) ∧
    (x.state = 2 ∨ x.state = 3 → s.cfgVal 0x73 = s.chip ∨ (x.initiator = s.chip ∧ x.epoch ≠ 0) →
      Sys2Proof.Machine.exec (.failureNoticeReceive col) s =
        .next ((s.modSnap c fun y => { y with state := 5, cause := 4, marks := [] }).tellFailure c s.chip)) ∧
    (x.state = 1 → s.remoteOps = [] → Answers (.failureNoticeReceive col) s fun t =>
      (t.snap c).state = 5 ∧ (t.snap c).cause = 4 ∧ t.epoch = x.epoch ∧ t.heldMsgs = [] ∧ t.mem = s.mem) ∧
    (x.state = 5 → Sys2Proof.Machine.exec (.failureNoticeReceive col) s = .next s) ∧
    (x.state = 0 ∨ x.state = 4 ∨ x.state = 6 → s.cfgVal 0x73 ≠ s.chip → x.initiator ≠ s.chip →
      Sys2Proof.Machine.exec (.failureNoticeReceive col) s = .next s) ∧
    (x.state = 1 → Sys2Proof.Machine.exec (.dropNoticeReceive col) s = .next (s.modSnap c fun y => { y with dropHeld := true })) ∧
    (2 ≤ x.state → x.state ≤ 5 → Sys2Proof.Machine.exec (.dropNoticeReceive col) s =
      .next (s.modSnap c fun y => { y with state := 6, lake := [], staged := [], marks := [] })) ∧
    (x.state = 0 ∨ 5 < x.state → Sys2Proof.Machine.exec (.dropNoticeReceive col) s = .next s) ∧
    (x.state ≠ 6 → Sys2Proof.Machine.exec (.snapshotDropFinish col) s = .next s) ∧
    (x.state = 6 → Answers (.snapshotDropFinish col) s fun t => (t.snap c).state = 0 ∧ (t.snap c).lake = [] ∧ t.mem = s.mem ∧
      t.snapSaved.find? c = none ∧ (x.initiator ≠ s.chip → t.outbox = s.outbox ++ [.notice x.initiator "DropReport" [c]]) ∧
      (x.initiator = s.chip → t.agenda = s.agenda ++ [(0, .dropReportReceive s.chip col)]) ∧
      (x.swept = true → t.tags = s.tags) ∧ (x.swept = false → t.tags = (s.relabelAll x).tags)) ∧
    (Sys2Proof.Machine.exec (.dropReportReceive chip col) s = .next (s.modSnap c fun y =>
      { y with dropReports := if y.dropReports.contains chip then y.dropReports else y.dropReports ++ [chip] })) ∧
    (∀ cls init, Sys2Proof.Machine.exec (.markerReceive chip cls (s.epoch + 1) init (s.cfgVal 0x77)) s =
      .next { s.startRecord (s.epoch + 1) init 0 with
        heldMsgs := s.heldMsgs ++ [.markerReceive chip cls (s.epoch + 1) init (s.cfgVal 0x77)] }) ∧
    (∀ cls init e, e ≤ s.epoch → Answers (.markerReceive chip cls e init (s.cfgVal 0x77)) s fun t =>
      (∀ y, s.snaps.find? (e % 2) = some y → y.epoch = e → (t.snap (e % 2)).awaiting = y.awaiting.filter (· != (chip, cls))) ∧
      (t.recvOf (chip * 8 + cls)).next = ((s.recvOf (chip * 8 + cls)).next + 1) % 2 ^ 32 ∧ t.mem = s.mem) ∧
    (∀ cls init e tag, tag ≠ s.cfgVal 0x77 → Answers (.markerReceive chip cls e init tag) s fun t =>
      ((s.snap (e % 2)).state = 0 → (t.snap (e % 2)).state = 5 ∧ (t.snap (e % 2)).cause = 3) ∧
      ((s.snap (e % 2)).state ≠ 0 → t.snaps = s.snaps) ∧ t.epoch = s.epoch ∧ t.mem = s.mem) ∧
    (x.state ≠ 4 → s.snapSaved.find? c ≠ none ∨ x.state ≠ 0 ∨ s.anyLive = true → Sys2Proof.Machine.exec (.snapshotRestoration col) s = .next s) ∧
    (x.state = 4 → s.snapSaved.find? c = none → Sys2Proof.Machine.exec (.snapshotRestoration col) s = .next s) ∧
    (∀ v, x.state = 4 → s.snapSaved.find? c = some v → v.commands = [] → v.combines = [] → (∀ p ∈ s.commands, p.2.kind.fabric = false) → Answers (.snapshotRestoration col) s fun t =>
      t.epoch = x.epoch ∧ t.sides = v.sides ∧ t.accesses = (v.accesses.map fun a => { a with sent := false }) ∧ t.issuing = [] ∧ t.lines = [] ∧ t.held = [] ∧ t.txns = [] ∧
      t.coreTlb = [] ∧ t.clusterTlb = [] ∧ t.sendQ = [] ∧ t.lostSends = v.lostSends)

/-- A write to a window outside it, to a read-only register, or while the module is in reset or recovery is discarded and counted in HOST_ERR. A configuration register takes the value masked to its width, a path word its word, a placement entry its 17 bits, and a grant changes only when none of its contexts is live. HOST_W2_READ answers the bytes of device memory, and
zeros beyond it, and waits while the host has not answered a snoop of a grain of SYSTEM reach; HOST_W2_WRITE of grains of no SYSTEM reach changes exactly its bytes, and waits while one of its grains is under way. LINK_TRAINING puts into the port's link register the highest rate and width that both ends support, or zero, and counts a training that finds
none (the form of its operand is the model's choice, notes/assumptions/123). -/
def Obligations.HostWindowEventResults : Prop :=
  ∀ (s : State) (reg n word : Nat) (value : BitVec 64) (data : List Byte),
    let open' := s.recovery = false ∧ s.inReset = false
    (s.recovery = true ∨ s.inReset = true →
      ∀ i, i = .hostConfigWrite reg value ∨ i = .pathTableWrite n word value ∨ i = .placementTableWrite n (value.truncate 32) ∨
          i = .vfGrantWrite n value ∨ i = .hostW2Write n data →
        Sys2Proof.Machine.exec i s = .next s.hostErr) ∧
    ((∀ i, cfgInfo reg = some i → i.ro = true) → Sys2Proof.Machine.exec (.hostConfigWrite reg value) s = .next s.hostErr) ∧
    (∀ i, open' → cfgInfo reg = some i → i.ro = false → reg = 0x20 ∨ reg = 0x30 ∨ reg = 0x31 ∨ (0x40 ≤ reg ∧ reg ≤ 0x43) ∨ reg = 0x53 ∨ reg = 0x54 →
      Sys2Proof.Machine.exec (.hostConfigWrite reg value) s =
        .next { s with cfg := s.cfg.insert reg (BitVec.ofNat 64 (value.toNat % 2 ^ i.width)) }) ∧
    (4096 ≤ n ∨ 8 ≤ word → Sys2Proof.Machine.exec (.pathTableWrite n word value) s = .next s.hostErr) ∧
    (open' → n < 4096 → word < 8 → Answers (.pathTableWrite n word value) s fun t =>
      t.path = s.path.put (n * 8 + word) value 0 ∧ t.place = s.place ∧ t.mem = s.mem ∧ t.cfg = s.cfg) ∧
    (∀ v : BitVec 32, 4096 ≤ n → Sys2Proof.Machine.exec (.placementTableWrite n v) s = .next s.hostErr) ∧
    (∀ v : BitVec 32, open' → n < 4096 →
      let u : State := { s with place := s.place.insert n (v &&& 0x1FFFF) }
      (List.range 4096).find? u.isSelf = none ∨ (List.range 4096).find? u.isSelf = some s.chip →
        Sys2Proof.Machine.exec (.placementTableWrite n v) s = .next u) ∧
    (16 ≤ n → Sys2Proof.Machine.exec (.vfGrantWrite n value) s = .next s.hostErr) ∧
    (open' → n < 16 →
      let cs := grantOf (s.grants.get n 0).toNat ++ grantOf value.toNat
      ((∃ c ∈ cs, (s.ctx c).status = .live) → Sys2Proof.Machine.exec (.vfGrantWrite n value) s = .next s) ∧
      ((∀ c ∈ cs, (s.ctx c).status ≠ .live) → Sys2Proof.Machine.exec (.vfGrantWrite n value) s =
        .next { s with grants := s.grants.put n (value &&& 0x1FFFFF) 0 })) ∧
    (∀ len, s.recovery = true ∨ s.inReset = true ∨ 2 ^ 40 < n + len →
      Sys2Proof.Machine.exec (.hostW2Read n len) s = .next (s.send (.w2Data n (List.replicate len 0)))) ∧
    (∀ len, open' → n + len ≤ 2 ^ 40 →
      let pa := s.chip * 2 ^ 40 + n % 2 ^ 40
      let gs := s.systemGrains pa len
      ((∃ g ∈ gs, s.hostClean.find? g = some false) → Sys2Proof.Machine.exec (.hostW2Read n len) s = .next s) ∧
      (s.lines = [] → (∀ g ∈ gs, s.hostClean.find? g ≠ some false ∧ s.grainBusy g = false ∧ s.engineOf g = none ∧ s.mayRead g = true ∧
          (tagFree (s.tag g) = true ∨ heldElsewhere s.chip (s.tag g) = false)) →
        Sys2Proof.Machine.exec (.hostW2Read n len) s = .next
          ({ s.tookBack gs with hostClean := s.hostClean.filter fun p => !gs.contains p.1 }.send (.w2Data n (s.readMem pa len))))) ∧
    (2 ^ 40 < n + data.length → Sys2Proof.Machine.exec (.hostW2Write n data) s = .next s.hostErr) ∧
    (open' → n < 2 ^ 40 → n + data.length ≤ 2 ^ 40 → (∃ g ∈ grainsOf [(s.chip * 2 ^ 40 + n, data.length)], s.grainBusy g = true) →
      Sys2Proof.Machine.exec (.hostW2Write n data) s = .next s) ∧
    (open' → n < 2 ^ 40 → n + data.length ≤ 2 ^ 40 → s.systemGrains (s.chip * 2 ^ 40 + n) data.length = [] → s.accesses = [] → s.MemoryCanonical →
      (∀ g ∈ grainsOf [(s.chip * 2 ^ 40 + n, data.length)], s.grainBusy g = false) →
      (∀ p ∈ grainPieces (s.chip * 2 ^ 40 + n) data.length, s.replicaList p.1 = []) →
      Answers (.hostW2Write n data) s fun t => t.groups = s.groups ∧ t.MemoryCanonical ∧ ∀ a, t.byteAt a =
        if s.chip * 2 ^ 40 + n ≤ a ∧ a < s.chip * 2 ^ 40 + n + data.length then data.getD (a - (s.chip * 2 ^ 40 + n)) 0 else s.byteAt a) ∧
    (∀ (tier : Bool) (link : BitVec 13) (gib : Nat),
      (Answers (.linkTraining true link gib) s fun t =>
        t.cfgVal 0x51 = (linkTrained true link.toNat).getD 0 ∧ t.mem = s.mem ∧ t.hostLines = s.hostLines ∧ t.outbox = s.outbox ∧
        t.cfgVal 0x56 = (if (linkTrained true link.toNat).isSome then expanderGib gib % 2 ^ 16 else 0) ∧
        t.cfgVal 0x57 = if linkTrained true link.toNat = none ∧ link ≠ 0 then s.hostErr.cfgVal 0x57 else s.cfgVal 0x57) ∧
      (∀ r, linkTrained tier link.toNat = some r →
        1 ≤ bits r 3 0 ∧ bits r 3 0 ≤ 6 ∧ bits r 3 0 ≤ bits link.toNat 3 0 ∧ bits r 8 4 ≤ bits link.toNat 8 4 ∧
        (bits r 8 4 = 1 ∨ bits r 8 4 = 4 ∨ bits r 8 4 = 8 ∨ bits r 8 4 = 16) ∧ (bits r 3 0 = 6 → tier = false → bitAt r 12 = true) ∧
        (tier = true → 5 ≤ bits r 3 0 ∧ bitAt r 9 = true ∧ bitAt r 11 = true)) ∧
      (s.recovery = false → Answers (.linkTraining false link gib) s fun t =>
        let w := (linkTrained false link.toNat).getD 0
        t.cfgVal 0x50 = w ∧ t.mem = s.mem ∧ (linkTrained false link.toNat = none → t.cfgVal 0x57 = s.hostErr.cfgVal 0x57) ∧
        (bitAt w 10 = true → t.hostLines = s.hostLines) ∧
        (bitAt w 10 = false → t.hostLines = [] ∧ ∀ k l, s.hostLines.find? k = some l → .hostWrite 0 (k * 64) l false ∈ t.outbox)))

/-- gang of zero, or of a list of two to six distinct groups of the team that holds the issuing one, answers the next state that holds back the
write of GANG, and raises GANG_MEMBER otherwise. mzero of a tile placed as R272 asks, in the window, holds back its zero, and raises MATRIX_RECORD otherwise. mdrain whose
earlier accesses are performed, whose record is aligned in the window and passes its checks holds back its drain; while an access is outstanding its
clause waits. mstat, mcks and mcancel hold back their result, and raise DET_ATOMIC in a deterministic grid. -/
def Obligations.MatrixInstructionResults : Prop :=
  ∀ (s : State) (iss : Issue) (f : FE) (ls : Lits), s.Runs iss →
    let w := 2 + ls.length
    let t := s.teamOf iss.gid
    let x := (iss.uniform f.a (litAt ls 0)).toNat
    let n := bits x 32 30
    let listed := gangMembers x
    let legal := x = 0 ∨ (2 ≤ n ∧ n ≤ 6 ∧ listed.Nodup ∧ (∀ m ∈ listed, m < t.groups.length) ∧ iss.before.index ∈ listed ∧
      bits x 29 (5 * n) = 0 ∧ x < 2 ^ 41)
    let z := offsetOf (iss.uniformM f.a (litAt ls 0)) f.imm 256
    let st := (iss.uniformM f.b (litB ls f.a)).toNat
    let tile := 0 ≤ z ∧ z % 256 = 0 ∧ st % 256 = 0 ∧ 256 ≤ st ∧ z + 63 * st + 256 ≤ (t.window 2 : Nat)
    let r := offsetOf (iss.uniformM f.a (litAt ls 0)) f.imm 32
    let held := fun (i : Instr) (x : LaneVals) (n : List Nat) => Completes i s iss w [.act i iss.idx iss.lanes x [] [] n]
    let tickets := iss.lanesOf (iss.operand (intLayout 5) f.a (litAt ls 0))
    (legal → Completes (.gang f ls) s iss w [.setGang (BitVec.ofNat 64 x)]) ∧
    (¬ legal → Raises (.gang f ls) s iss .gangMember iss.lanes) ∧
    (tile → held (.mzero f ls) [] [z.toNat, st]) ∧ (¬ tile → Raises (.mzero f ls) s iss .matrixRecord iss.lanes) ∧
    (s.accessesDone iss.gid iss.lanes = false → Sys2Proof.Machine.exec (.mdrain f ls) s = .next s.stall) ∧
    (s.accessesDone iss.gid iss.lanes = true →
      (0 ≤ r → r + 32 ≤ (t.window 1 : Nat) → r % 32 = 0 → s.drainFault iss (s.record iss r.toNat 32) = none →
        held (.mdrain f ls) [] [r.toNat] ∧ ∀ idx (u : State), (commitMdrain f iss idx [r.toNat] u).works.any (fun p =>
          p.2.kind == .drain && p.2.record == u.record iss r.toNat 32) = true) ∧
      (r < 0 ∨ (t.window 1 : Int) < r + 32 → Raises (.mdrain f ls) s iss .bufBounds iss.lanes) ∧
      (0 ≤ r → r + 32 ≤ (t.window 1 : Nat) → r % 32 ≠ 0 → Raises (.mdrain f ls) s iss .misaligned iss.lanes)) ∧
    (s.detI iss = false → held (.mstat f ls) tickets [] ∧ held (.mcks f ls) [] [] ∧ held (.mcancel f ls) tickets []) ∧
    (s.detI iss = true → Raises (.mstat f ls) s iss .detAtomic iss.lanes ∧ Raises (.mcks f ls) s iss .detAtomic iss.lanes ∧
      Raises (.mcancel f ls) s iss .detAtomic iss.lanes)

/-- mmx and mmxs with words after them in their clause hold back their effect, whose framing the commit refuses; as the last words they wait while
an access of their threads is outstanding. When the earlier accesses of their threads are performed, no latch has the key and fewer than eight latches of the cluster are held, mmx (and mmxs)
answers a next state in which the clause has left its slot, every lane of the bundle that has not exited waits in the rendezvous, and the cluster has one more latch
that holds this arrival. If groups listed by its GANG are missing, the latch has no operation yet; if its group is the only one listed and the checks of
R276 give an operation, the latch holds that operation. -/
def Obligations.MatrixInstructionsArriveAtTheirRendezvous : Prop :=
  ∀ (s : State) (iss : Issue) (rest : List Issue) (f : FE) (ls : Lits) (i : Instr), s.issuing = iss :: rest →
    (i = .mmx f ls ∨ i = .mmxs f ls) →
    let q := iss.before.cluster
    let arr := iss.hold [.act i iss.idx iss.lanes (iss.lanesOf (iss.operand (intLayout 5) f.b 0)) [] [] []]
    let old := s.clusterLatches q
    let latch : Latch := { team := iss.before.team, tag := iss.latchTag, arrivals := [arr] }
    let blocked := fun (t : State) => t.issuing = rest ∧
      ∀ g, s.groups.find? iss.gid = some g → g.threads.length = 32 → ∀ l, iss.lanes.has l = true → (g.thread l).status = .ready →
        ((t.group iss.gid).thread l).status = .blocked [.rendezvous q iss.before.team]
    let last := iss.words.drop (2 + ls.length) = []
    (¬ last → Completes i s iss (2 + ls.length) [.act i iss.idx iss.lanes (iss.lanesOf (iss.operand (intLayout 5) f.b 0)) [] [] []]) ∧
    (last → s.accessesDone iss.gid iss.lanes = false → Sys2Proof.Machine.exec i s = .next s.stall) ∧
    (last → s.accessesDone iss.gid iss.lanes = true → (∀ l ∈ old, ¬ (l.team = latch.team ∧ l.tag = latch.tag)) → old.length < 8 →
    ((∃ m ∈ iss.gangList, m ≠ iss.before.index) → Answers i s fun t => t.clusterLatches q = old ++ [latch] ∧ blocked t) ∧
    (∀ w, iss.gangList = [iss.before.index] →
      (∀ t : State, t.teams = s.teams → t.clusterLatches q = old ++ [latch] → (∀ k, (t.group k).team = (s.group k).team) →
        t.rendezvousCheck q latch.team [arr] = .ok w) →
      Answers i s fun t => t.clusterLatches q = old ++ [{ latch with work := some w }] ∧ blocked t))

/-- Each event of the matrix unit answers a next state. RENDEZVOUS_LATCH_GRANT lets the first waiting arrival join. With an entry free MATRIX_ENTRY_PLACEMENT frees the latch, advances the team's ticket modulo 2^16, and commits the members: the threads stand at the next clause and vD holds the ticket. MATRIX_PASS,
when no test error is armed, adds one block: each element of C becomes its sum with that of the block, the pass is counted and the last one ends the entry; with one armed
whose cell the check finds, the pass corrects it, notes the cell in the entry, counts the correction and disarms it. MATRIX_STARVATION_PRIORITY puts an entry without a pass for 8,192 MCLK first. MATRIX_COMPLETION writes the status record
and lands the event of each member. MATRIX_ZERO_RUN writes +0 to its tile and MATRIX_DRAIN_RUN runs its drain. -/
def Obligations.MatrixUnitEventResults : Prop :=
  ∀ (s : State) (q id : Nat) (w : Work), s.works.find? id = some w → w.cluster = q →
    (∀ iss rest, s.latchWaits.get q [] = iss :: rest →
      Sys2Proof.Machine.exec (.rendezvousLatchGrant q) s = .next (({ s with
        latchWaits := if rest.isEmpty then s.latchWaits.erase q else s.latchWaits.insert q rest }).joinLatch q iss)) ∧
    (∀ team tag l x, (s.clusterLatches q).find? (fun l => l.isKey team tag) = some l → l.work = some x →
      (s.teams.find? team).isSome = true → (s.entries q).length < 16 → Answers (.matrixEntryPlacement q team tag) s fun t =>
        t.clusterLatches q = (s.clusterLatches q).filter (fun m => !m.isKey team tag) ∧
        (t.team team).mticket = ((s.team team).mticket + 1) % 2 ^ 16 ∧
        ∃ y, t.works.find? s.nextId = some y ∧ y.ticket = (s.team team).mticket ∧ y.kind = x.kind ∧ y.fmt = x.fmt ∧ y.caddr = x.caddr ∧
          ∀ i g, l.arrivals = [i] → s.groups.find? i.gid = some g → g.threads.length = 32 → ∀ l, i.lanes.has l = true →
            ((t.group i.gid).thread l).pc = i.nextPc ∧
            ((t.group i.gid).thread l).v.get i.arrival.vd 0 = BitVec.ofNat 64 (s.team team).mticket) ∧
    (s.arbitrate q = some (id, w) →
      let rows := (List.range 64).map (s.rowBlock w w.done)
      let cols := (List.range 64).map (s.colBlock w w.done)
      let S := rows.map fun r => cols.map (cellSum r)
      let cell := fun (t : State) i j => t.bufNat w.team 2 0 (w.caddr + i * w.cstride + 4 * j) 4
      let ended := if w.done + 1 = w.total then 2 else 1
      (s.injMat.find? q = none → checkPass (blockLen w.k w.done) rows cols S = .add S false none → (s.teams.find? w.team).isSome = true →
        256 ≤ w.cstride → w.caddr + 63 * w.cstride + 256 ≤ 2 ^ 21 → Answers (.matrixPass q) s fun t =>
          (t.works.get id w).done = w.done + 1 ∧ (t.works.get id w).state = ended ∧
          ∀ i j, i < 64 → j < 64 →
            cell t i j = addCell (cell s i j) (cellSum (s.rowBlock w w.done i) (s.colBlock w w.done j)) % 2 ^ 32) ∧
      (∀ p e, s.injMat.find? q = some (p, e) →
        let i := (flipOf p).1
        let j := (flipOf p).2.1
        checkPass (blockLen w.k w.done) rows cols (bumpCell S i j (flipOf p).2.2) = .add S false (some (i, j)) → Answers (.matrixPass q) s fun t =>
          (t.works.get id w).done = w.done + 1 ∧ (t.works.get id w).state = ended ∧ (t.works.get id w).corr = min 255 (w.corr + 1) ∧
          (t.works.get id w).crow = i ∧ (t.works.get id w).ccol = j ∧ t.injMat.find? q = none ∧
          t.mcks.get (mcksKey q 0) 0 = s.mcks.get (mcksKey q 0) 0 + 1)) ∧
    (w.kind = .entry → w.state ≤ 1 → w.since + 8192 ≤ s.clock →
      Sys2Proof.Machine.exec (.matrixStarvationPriority q id) s =
        .next { s with works := s.works.modify id fun w => { w with first := true } }) ∧
    (w.kind = .entry → w.state = 2 ∨ w.state = 4 → w.cancels = [] →
      Sys2Proof.Machine.exec (.matrixCompletion q id) s = .next (w.members.foldl (fun (t : State) m => (t.land m.event).acquireAll q 1)
        { s.bufWrite w.team 2 0 false w.status (toBytes 16 (w.statusWord w.state)) with works := s.works.erase id }).settle) ∧
    (s.nextDrain q .drain = some (id, w) → Sys2Proof.Machine.exec (.matrixDrainRun q) s = .next (s.runDrain id w)) ∧
    (∀ e, s.nextDrain q .zero = some (id, w) → w.event = some e → Sys2Proof.Machine.exec (.matrixZeroRun q) s = .next
      ({ (List.range 64).foldl (fun (t : State) i => t.bufWrite w.team 2 0 false (w.caddr + i * w.cstride) (List.replicate 256 0)) s with
        works := s.works.erase id }.completeEvent e).settle)

/-- POISON_CLEAR zeroes an aligned grain that no other holds and clears its poison, and waits while the grain is under way. PATROL_SCRUB of a sound grain changes nothing but the epoch of one that lags by three, and of a bad one poisons it and counts it. A corrected error outside the caches is counted and logged only, and the third of a way within 24 hours disables the way. An uncorrectable one in memory poisons its grain, in a cluster cache drops the line, in a register file zeroes the register and queues POISON for the group that read it,
in an instruction cache drops the line, in a retention buffer drops the fragment of the message that was to be repeated. SLICE_RETIRE needs a short slice, with no operation under way on its grains. POWER_GATING sets the level. THERMAL_THROTTLE, its end and THERMAL_TRIP act at 105, below 100 and at 115 degrees, the trip holding the module in reset with every context to be killed. BOOT and
RECOVERY_DOORBELL reset the module into operation or recovery. SPDM_REQUEST is answered (the response's bytes are a free value, notes/assumptions/5). -/
def Obligations.ReliabilityEventResults : Prop :=
  ∀ (s : State) (err : StorageError),
    let err' := fun (x : Nat) (y : Nat) => fun (t : State) => (t.cfg.get x 0) = s.cfg.get x 0 + 1 ∧
      ∃ r, t.errorLog = s.errorLog ++ [r] ∧ r.ty = y ∧ r.addr = err.address
    (∀ pa : BitVec 64, pa.toNat % 512 = 0 → pa.toNat < 2 ^ 52 → s.clearing = [] → s.accesses = [] → chipOf pa.toNat = s.chip →
      s.grainBusy (pa.toNat / 512) = true → Sys2Proof.Machine.exec (.poisonClear pa) s = .next { s with clearing := [pa.toNat] }) ∧
    (∀ pa : BitVec 64, pa.toNat % 512 = 0 → pa.toNat < 2 ^ 52 → s.clearing = [] → s.accesses = [] → s.lines = [] → chipOf pa.toNat = s.chip →
      s.grainBusy (pa.toNat / 512) = false → s.engineOf (pa.toNat / 512) = none → s.mayWrite (pa.toNat / 512) = true →
      heldElsewhere s.chip (s.tag (pa.toNat / 512)) = false →
      (tagClass (s.tag (pa.toNat / 512)) = 2 → tagState (s.tag (pa.toNat / 512)) = 7 → ∀ c ∈ s.sharers (s.tag (pa.toNat / 512)) 0, c = s.chip) →
      s.hostMayHold (pa.toNat / 512) = false → s.replicaList pa.toNat = [] → s.MemoryCanonical → Answers (.poisonClear pa) s fun t =>
      tagPoison (t.tag (pa.toNat / 512)) = false ∧ (∀ a, a / 512 = pa.toNat / 512 → t.byteAt a = 0) ∧
      (∀ a, a / 512 ≠ pa.toNat / 512 → t.byteAt a = s.byteAt a) ∧ t.groups = s.groups) ∧
    (∀ g bad, chipOf (g * 512) ≠ s.chip → Sys2Proof.Machine.exec (.patrolScrub g bad) s = .next s) ∧
    (∀ g, chipOf (g * 512) = s.chip → Answers (.patrolScrub g false) s fun t => t.mem = s.mem ∧ t.cfg = s.cfg ∧ (∀ h, h ≠ g → t.tag h = s.tag h) ∧
      ((s.epoch + 4 - tagEpoch (s.tag g)) % 4 < 3 → t.tag g = s.tag g) ∧
      ((s.epoch + 4 - tagEpoch (s.tag g)) % 4 = 3 → tagEpoch (t.tag g) = (s.epoch + 2) % 4)) ∧
    (∀ g, chipOf (g * 512) = s.chip → Answers (.patrolScrub g true) s fun t => tagPoison (t.tag g) = true ∧
      t.cfg.get 0x59 0 = s.cfg.get 0x59 0 + 1 ∧ t.mem = s.mem) ∧
    (wayKey err = none → s.errorLog.length < 65536 → Answers (.correctedError err) s fun t =>
      err' 0x58 1 t ∧ t.mem = s.mem ∧ t.groups = s.groups ∧ t.waysOff = s.waysOff) ∧
    (∀ k, wayKey err = some k → k ∉ s.waysOff → ((s.wayFaults.get k []).filter fun t => decide (err.second < t + 86400)).length = 2 →
      Answers (.correctedError err) s fun t => t.waysOff = s.waysOff ++ [k] ∧ t.groups = s.groups) ∧
    (∀ n, err.site = .hbm n → chipOf err.address = s.chip → s.errorLog.length < 65536 → Answers (.uncorrectableError err) s fun t =>
      err' 0x59 2 t ∧ tagPoison (t.tag (err.address / 512)) = true ∧ t.mem = s.mem ∧ t.groups = s.groups) ∧
    (∀ q, err.site = .iCache q → s.errorLog.length < 65536 → Answers (.uncorrectableError err) s fun t =>
      err' 0x59 2 t ∧ err.address / 128 ∉ t.icache.get q [] ∧ t.mem = s.mem ∧ t.tags = s.tags ∧ t.groups = s.groups) ∧
    (∀ q l, err.site = .clusterCache q → s.lines.find? (lineKey q err.address) = some l → l.dirty = false → Answers (.uncorrectableError err) s fun t =>
      t.lines = s.lines.filter (fun p => !(p.1 / 2 ^ 45 == q && p.1 % 2 ^ 45 * 128 == err.address / 128 * 128)) ∧ t.tags = s.tags ∧ t.mem = s.mem) ∧
    (∀ core gid, err.site = .registerFile core → err.gid = some gid → (s.groups.find? gid).isSome = true → (s.group gid).threads.length = 32 →
      (s.group gid).queue.length < 8 → Answers (.uncorrectableError err) s fun t =>
        ((t.group gid).thread (err.address % 32)).v.get (err.address / 32) 0 = 0 ∧
        (t.group gid).queue.length = (s.group gid).queue.length + 1 ∧ (∃ f ∈ (t.group gid).queue, f.code = .poison ∧ f.deferred = true) ∧
        t.mem = s.mem) ∧
    (∀ die k, err.site = .retention die → s.kept.find? err.address = some k → Answers (.uncorrectableError err) s fun t =>
      (t.kept.find? err.address).map Kept.dropped = some (k.dropped ++ [fragmentOf err]) ∧ t.groups = s.groups ∧ t.mem = s.mem) ∧
    (∀ n, n ∈ s.slicesOff ∨ s.sliceShort n = false → Sys2Proof.Machine.exec (.sliceRetire n) s = .next s) ∧
    (∀ n, n ∉ s.slicesOff → s.sliceShort n = true → (∃ p ∈ s.txns, s.sliceOf (p.1 * 512) = n) → Sys2Proof.Machine.exec (.sliceRetire n) s = .next s) ∧
    (∀ n, n ∉ s.slicesOff → s.sliceShort n = true → (∀ p ∈ s.txns, s.sliceOf (p.1 * 512) ≠ n) → (∀ p ∈ s.replicaStores, s.sliceOf (p.1 * 512) ≠ n) →
      (∀ p ∈ s.held, s.sliceOf (p.1 * 512) ≠ n) → Answers (.sliceRetire n) s fun t =>
        t.slicesOff = s.slicesOff ++ [n] ∧ t.mem = s.mem ∧ t.held = s.held) ∧
    (∀ n, Sys2Proof.Machine.exec (.powerGating n) s = .next { s with gate := min n 3 }) ∧
    (∀ d, (d < 105 → Sys2Proof.Machine.exec (.thermalThrottle d) s = .next s) ∧
      (105 ≤ d → Answers (.thermalThrottle d) s fun t =>
        t.cfgVal 0x5E = min d 255 + 2 ^ 8 + (if bitAt (s.cfgVal 0x5E) 9 then 2 ^ 9 else 0) ∧ t.mem = s.mem) ∧
      (100 ≤ d → Sys2Proof.Machine.exec (.thermalThrottleEnd d) s = .next s) ∧
      (d < 100 → Answers (.thermalThrottleEnd d) s fun t =>
        t.cfgVal 0x5E = d + (if bitAt (s.cfgVal 0x5E) 9 then 2 ^ 9 else 0) ∧ t.mem = s.mem) ∧
      (d < 115 → Sys2Proof.Machine.exec (.thermalTrip d) s = .next s) ∧
      (115 ≤ d → Answers (.thermalTrip d) s fun t => t.inReset = true ∧ t.mem = s.mem ∧
        ∀ c x, s.ctxs.find? c = some x → x.status ≠ .free → x.status ≠ .killed → { code := .ctxKill, cause := 5 } ∈ (t.ctx c).kills)) ∧
    (∀ (image : List (BitVec 8)) (version : BitVec 16) (ed mldsa : Bool),
      let ok := ed && mldsa && decide (Config.fusedMinimum ≤ version.toNat)
      let status := version.toNat + (if ed then 2 ^ 16 else 0) + (if mldsa then 2 ^ 17 else 0)
      (Answers (.boot image version ed mldsa) s fun t => t.recovery = !ok ∧ t.mem = [] ∧ t.ctxs = [] ∧ t.groups = [] ∧ t.tags = [] ∧
        t.epoch = 1 ∧ t.inReset = false ∧ t.cfgVal 0x5F = status) ∧
      (s.recovery = false → Sys2Proof.Machine.exec (.recoveryDoorbell image version ed mldsa) s = .next s.hostErr) ∧
      (s.recovery = true → Answers (.recoveryDoorbell image version ed mldsa) s fun t =>
        let good := decide (image.length ≤ 2 ^ 22) && ok
        t.recovery = !good ∧ t.mem = [] ∧ t.ctxs = [] ∧ t.cfgVal 0x5F = status + (if good then 2 ^ 18 else 0))) ∧
    (∀ req, Sys2Proof.Machine.exec (.spdmRequest req) s =
      .next { s with freeCtr := s.freeCtr + 1, outbox := s.outbox ++ [.management (Config.spdmResponse s.freeCtr)] })

/-- When the earlier accesses of its threads are performed, cpy, cpyg or cfill with an aligned record in the A-buffer window (or read through its
handle) that passes the checks of R304 answers the next state that holds back exactly that record; a record that fails a check raises its fault. dgst, mig and publish likewise hold
back the command that their checked operands name. While an earlier access is outstanding they wait. ewait, and estat outside a deterministic grid, hold back each
lane's ticket; estat raises DET_ATOMIC in one. tlbinv with a handle in bounds and asidinv hold back the range of entries to remove. -/
def Obligations.EngineInstructionResults : Prop :=
  ∀ (s : State) (iss : Issue) (f : FE) (ls : Lits), s.Runs iss →
    let w := 2 + ls.length
    let t := s.teamOf iss.gid
    let c := s.ctxI iss
    let h := iss.hreg f.h.toNat
    let e := fun (unit : Nat) => offsetOf (iss.uniformM f.a (litAt ls 0)) f.imm unit
    let b := (iss.uniformM f.b (litB ls f.a)).toNat
    let rd := fun (n : Nat) => s.bufRead iss.before.team 1 (unitOf 1 iss.before.core) false (e 64).toNat n
    let fits := fun (n : Nat) => 0 ≤ e 64 ∧ e 64 + n ≤ (t.window 1 : Nat) ∧ e 64 % 64 = 0
    let held := fun (i : Instr) (x : LaneVals) (n : List Nat) => Completes i s iss w [.act i iss.idx iss.lanes x [] [] n]
    let copies := fun (i : Instr) => i = .cpy f ls ∨ i = .cpyg f ls ∨ i = .cfill f ls
    let tickets := iss.lanesOf (iss.operand (intLayout 5) f.a (litAt ls 0))
    (s.accessesDone iss.gid iss.lanes = false → ∀ i, copies i ∨ i = .dgst f ls → Sys2Proof.Machine.exec i s = .next s.stall) ∧
    (s.accessesDone iss.gid iss.lanes = true →
      (∀ i, copies i → f.aux.getLsbD 0 = false → fits 64 →
        (s.copyFault iss f.sub.toNat (CopyRec.ofWords (wordsOf (rd 64))) = none → held i [] (wordsOf (rd 64))) ∧
        (∀ x va, s.copyFault iss f.sub.toNat (CopyRec.ofWords (wordsOf (rd 64))) = some (x, va) → Raises i s iss x iss.lanes va)) ∧
      (∀ i bs, copies i → f.aux.getLsbD 0 = true → checkHandle c h (e 64) 64 64 [0] [] = none →
        s.handleRead iss.reader c iss.before.core h (e 64).toNat 64 = .ok bs s →
        s.copyFault iss f.sub.toNat (CopyRec.ofWords (wordsOf bs)) = none → held i [] (wordsOf bs)) ∧
      (∀ n, n = bits (s.record iss (e 64).toNat 16) 6 0 → 1 ≤ n → n ≤ 64 → fits (16 + 16 * n) →
        let r := s.record iss (e 64).toNat 16
        let es := digestEntries n (rd (16 + 16 * n))
        let out := bits r 47 16
        let st := bits r 79 48
        bits r 15 7 = 0 → bits r 127 80 = 0 → entriesOk es = true → out % 32 = 0 → st % 16 = 0 → t.plainRange out 32 = true →
        t.plainRange st 16 = true → checkHandle c h 0 0 1 [0] [] = none → (∀ p ∈ es, p.1 + p.2 ≤ handleLen h) →
        held (.dgst f ls) [] (st :: out :: es.flatMap fun p => [p.1, p.2])) ∧
      (checkHandle c h (e 1) b 4096 [1] [] = none → b % 4096 = 0 →
        held (.mig f ls) [] [bits f.aux.toNat 1 0, vaOf h (e 1), vaOf h (e 1) + b, handleAsid h]) ∧
      (bits f.aux.toNat 1 0 = 3 → checkHandle c h (e 4096) b 4096 (rightsAt f.scope.toNat [4]) [] = none → b % 4096 = 0 →
        held (.publish f ls) [] [3, vaOf h (e 4096), b, handleAsid h]) ∧
      (∀ k space, k = bits f.aux.toNat 1 0 → k ≠ 3 → space = k + 1 → 0 ≤ e (bankSize space) → e (bankSize space) % bankSize space = 0 →
        1 ≤ b → b ≤ 16 → (∀ i, i < b → t.paired space ((e (bankSize space)).toNat / bankSize space + i) = true) →
        held (.publish f ls) [] [k, (e (bankSize space)).toNat, b * bankSize space, 0])) ∧
    held (.ewait f ls) tickets [] ∧ (s.detI iss = false → held (.estat f ls) tickets []) ∧
    (s.detI iss = true → Raises (.estat f ls) s iss .detAtomic iss.lanes) ∧
    (checkHandle c h (e 1) b 1 [] [] = none →
      held (.tlbinv f ls) [] [handleAsid h, vaOf h (e 1), b, f.aux.toNat % 2, f.scope.toNat]) ∧
    held (.asidinv f ls) [] [(iss.uniformM f.a (litAt ls 0)).toNat % 1024, 0, 2 ^ 52, f.aux.toNat % 2, f.scope.toNat]

/-- COPY_COMMAND_START starts the oldest queued command of its cluster when fewer than four run and nothing holds it: its state becomes running and
word 0 of its status says so. COPY_COMMAND_COMPLETION runs a running command. ENGINE_STATUS_UPDATE writes only the status of a command that runs or owes it. PUBLISH_EXECUTION of a typed-buffer range that nothing holds swaps
its pairs one by one and ends complete; none begins while its context pauses. MIGRATION_PAGE_MOVE leaves a page that is already at its target where it is and goes on behind it. FRAME_POOL_WAIT_EXPIRY does nothing before the WS_WAIT in force when the wait began
has passed and then fails the page with MIG_FAIL and goes on behind it. DIGEST_COMPLETION runs the first digest command held. -/
def Obligations.EngineUnitEventResults : Prop :=
  ∀ (s : State) (q id : Nat) (c : Command), s.commands.find? id = some c →
    let quiet := c.statusAt.1 = 0 ∧ workHolds s.works [] [bufRange c.team 1 c.core c.statusAt.2 16] = false
    let noted := fun (c : Command) => (s.bufWrite c.team 1 (unitOf 1 c.core) false c.statusAt.2
      (toBytes 8 (c.state + (if c.state = 3 then c.code * 2 ^ 8 else 0) + c.ticket * 2 ^ 16) ++ toBytes 8 c.progress)).setCommand id
        { c with owed := false, noted := s.clock }
    (quiet → (s.copiesHeld q).find? (fun p => p.2.state == 0) = some (id, c) →
      ((s.copiesHeld q).filter fun p => p.2.state == 1).length < 4 → s.copyHeld id c = false →
      Sys2Proof.Machine.exec (.copyCommandStart q id) s = .next (noted { c with state := 1 })) ∧
    (c.kind = .copy → c.core / 4 = q → c.state = 1 →
      Sys2Proof.Machine.exec (.copyCommandCompletion q id) s = .next (s.runCopy id c).settle) ∧
    (quiet → c.state = 1 ∨ c.owed = true → Sys2Proof.Machine.exec (.engineStatusUpdate id) s = .next (noted c)) ∧
    (c.state ≠ 1 → c.owed = false → Sys2Proof.Machine.exec (.engineStatusUpdate id) s = .next s) ∧
    (∀ k, c.kind = .publish → c.state ≤ 1 → s.publishHeld id c = false → s.pausing c.ctx = false → c.n.headD 0 = k → k < 3 → c.event = none →
      Sys2Proof.Machine.exec (.publishExecution id) s =
        .next (((((List.range (c.n.getD 2 0 / bankSize (k + 1))).foldl (fun (s : State) i =>
          s.swapPair c.team (k + 1) (unitOf (k + 1) c.core) (c.n.getD 1 0 / bankSize (k + 1) + i)) s).setCommand id
            { c with state := 2, code := 0, owed := false }).engDone c.reader).acquireAll (c.core / 4) 1).settle) ∧
    (c.kind = .publish → c.words = [] → s.pausing c.ctx = true → Sys2Proof.Machine.exec (.publishExecution id) s = .next s) ∧
    (∀ l pa, s.migrating = some (id, c) → c.kind = .migrate → c.words.headD 0 = 0 → c.words.getD 1 0 < c.words.getD 2 0 →
      c.state = 1 ∨ s.publishPending id c = false →
      s.rawLeaf (s.ctx c.ctx) (c.words.getD 3 0) (c.words.getD 1 0) = .leaf l pa → pteBit l.pte 10 = true → pteHost l.pte = false →
      Sys2Proof.Machine.exec .migrationPageMove s = .next (s.afterPage id
        { c with words := [c.words.headD 0, l.vbase + l.size, c.words.getD 2 0, c.words.getD 3 0], progress := c.progress + 1,
                 frameWait := none, moving := none }).settle) ∧
    (∀ t, s.migrating = some (id, c) → c.frameWait = some t → s.clock < t →
      Sys2Proof.Machine.exec .framePoolWaitExpiry s = .next s) ∧
    (∀ t e l pa, s.migrating = some (id, c) → c.kind = .migrate → c.frameWait = some t → t ≤ s.clock → c.moving = none →
      c.event = some e → c.code = 0 → s.rawLeaf (s.ctx c.ctx) (c.words.getD 3 0) (c.words.getD 1 0) = .leaf l pa →
      Sys2Proof.Machine.exec .framePoolWaitExpiry s = .next ((s.modEvent e fun d =>
        d.addFault .migFail d.lanes (c.words.getD 1 0) (BitVec.ofNat 64 (c.ticket % 2 ^ 18))).afterPage id
          { c with words := [c.words.headD 0, l.vbase + l.size, c.words.getD 2 0, c.words.getD 3 0], progress := c.progress + 1,
                   frameWait := none, moving := none, code := FaultCode.migFail.num })) ∧
    (s.migrating = some (id, c) → c.state = 0 → s.publishPending id c = true → Sys2Proof.Machine.exec .migrationPageMove s = .next s) ∧
    (s.migrating = none → Sys2Proof.Machine.exec .migrationPageMove s = .next s) ∧
    (∀ rest, s.digestsHeld = (id, c) :: rest → c.kind = .digest →
      Sys2Proof.Machine.exec .digestCompletion s = .next (s.runDigest id c))

/-- With earlier accesses performed and an aligned record inside the A-buffer window, each fabric command of a grid that is not deterministic whose record passes the form
checks and the checks on rights, bounds and route answers the next state that holds back that record; a record with a form error raises
FAB_RECORD, one that fails a later check raises that fault, and a deterministic grid raises DET_ATOMIC before both. A record outside the window raises BUF_BOUNDS, an unaligned one MISALIGNED. fstat completes outside
a deterministic grid and raises DET_ATOMIC in one. -/
def Obligations.FabricInstructionResults : Prop :=
  ∀ (s : State) (iss : Issue) (f : FE) (ls : Lits), s.Runs iss →
    let w := 2 + ls.length
    let t := s.teamOf iss.gid
    let e := offsetOf (iss.uniformM f.a (litAt ls 0)) f.imm 64
    let ws := wordsOf (s.bufRead iss.before.team 1 (unitOf 1 iss.before.core) false e.toNat 64)
    let r := FabRec.ofWords ws
    let op := fun (i : Instr) (n : Nat) => (i = .fput f ls ∧ n = 0) ∨ (i = .fget f ls ∧ n = 1) ∨ (i = .fsend f ls ∧ n = 2) ∨ (i = .frecv f ls ∧ n = 3)
    (∀ i n, op i n →
      (s.accessesDone iss.gid iss.lanes = false → Sys2Proof.Machine.exec i s = .next s.stall) ∧
      (s.accessesDone iss.gid iss.lanes = true → e < 0 ∨ (t.window 1 : Int) < e + 64 → Raises i s iss .bufBounds iss.lanes) ∧
      (s.accessesDone iss.gid iss.lanes = true → 0 ≤ e → e + 64 ≤ (t.window 1 : Nat) → e % 64 ≠ 0 → Raises i s iss .misaligned iss.lanes) ∧
      (s.accessesDone iss.gid iss.lanes = true → 0 ≤ e → e + 64 ≤ (t.window 1 : Nat) → e % 64 = 0 →
        (s.detI iss = true → Raises i s iss .detAtomic iss.lanes) ∧
        (s.detI iss = false → r.malformed n t = true → Raises i s iss .fabRecord iss.lanes) ∧
        (∀ c va, s.detI iss = false → r.malformed n t = false → s.fabricCheck iss r = some (c, va) → Raises i s iss c iss.lanes va) ∧
        (s.detI iss = false → r.malformed n t = false → s.fabricCheck iss r = none →
          Completes i s iss w [.act i iss.idx iss.lanes [] [] [] ws]))) ∧
    (s.detI iss = false → Completes (.fstat f ls) s iss w [.act (.fstat f ls) iss.idx iss.lanes [] [] [] []]) ∧
    (s.detI iss = true → Raises (.fstat f ls) s iss .detAtomic iss.lanes)

/-- MESSAGE_INJECTION of a routable message that fits the retention buffer takes it off its channel, keeps it under the channel's next seq with its code rate, advances the seq modulo
2^32 and sends its stripes. ACK_RECEIVE frees messages up to its seq (stated of messages that carry out no command) and none after it. The third failed attempt of a stripe (a NACK, or FAB_ACK_WAIT passed) loses the message: its loss notice is due;
an earlier failure sends the stripe again with the next gen. A busy reply holds the message for FAB_BUSY_WAIT, after which it is sent again with the same gens.
LOSS_NOTICE_REPEAT repeats a notice after FAB_ACK_WAIT. FRAGMENT_FORWARD sends a sound fragment on with one hop more and counts a bad one. -/
def Obligations.FabricSenderEventResults : Prop :=
  ∀ (s : State) (dst cls seq j : Nat) (x : Kept), cls < 8 → seq < 2 ^ 32 →
    let chan := dst * 8 + cls
    let key := chan * 2 ^ 32 + seq
    let at' := fun (t : State) => t.kept.find? key
    let later := fun (x : Kept) => { x with gens := x.gens.set j (x.gens.getD j 0 + 1), sent := x.sent.set j s.clock }
    (∀ m rest, s.sendQ.get chan [] = m :: rest → (s.isSelf dst || s.routable dst) = true →
      s.retained + ceilDiv m.payload.length 256 * 256 ≤ 8388608 → m.cmd = none → m.role ≠ .marker →
      Answers (.messageInjection dst cls) s fun t =>
        let n := s.sendSeq.get (s.outKey chan) 0
        let k := s.codeRate m
        let c := stripeCount m.payload.length k.1
        t.sendQ.get chan [] = rest ∧ t.sendSeq.get (s.outKey chan) 0 = (n + 1) % 2 ^ 32 ∧
        t.kept.find? (chan * 2 ^ 32 + n % 2 ^ 32) =
          some { msg := m, k := k.1, m := k.2, gens := List.replicate c 0, sent := List.replicate c s.clock,
                 ackWait := s.cfgVal 0x6A, busyWait := s.cfgVal 0x6B }) ∧
    (∀ q, at' s = some x → seqBefore q seq = true → (∀ p ∈ s.kept, p.2.msg.cmd = none) → Answers (.ackReceive dst cls q) s fun t => at' t = some x) ∧
    (at' s = some x → x.msg.cmd = none → (s.kept.filter fun p => p.1 / 2 ^ 32 == chan) = [(key, x)] →
      Answers (.ackReceive dst cls seq) s fun t => at' t = none) ∧
    (at' s = some x → x.notice = none → x.acked = false → j < x.gens.length → x.gens.getD j 0 < 2 →
      Sys2Proof.Machine.exec (.nackReceive dst cls seq j) s =
        .next ((({ s with kept := s.kept.insert key (later x) }).fabBump 8 1).emitStripe (later x) seq j (x.gens.getD j 0 + 1)) ∧
      (x.busy = none → x.sent.getD j s.clock + x.ackWait ≤ s.clock →
        Sys2Proof.Machine.exec (.ackWaitExpiry dst cls seq j) s = Sys2Proof.Machine.exec (.nackReceive dst cls seq j) s)) ∧
    (at' s = some x → x.notice = none → x.acked = false → j < x.gens.length → 2 ≤ x.gens.getD j 0 → x.msg.role = .getData →
      Answers (.nackReceive dst cls seq j) s fun t => at' t = some { x with notice := some s.clock }) ∧
    (at' s = some x → Answers (.busyReplyReceive dst cls seq) s fun t => at' t = some { x with busy := some (s.clock + x.busyWait) }) ∧
    (∀ b, at' s = some x → x.busy = some b → s.clock < b → Sys2Proof.Machine.exec (.busyWaitExpiry dst cls seq) s = .next s) ∧
    (∀ b, at' s = some x → x.busy = some b → b ≤ s.clock → x.notice = none → x.acked = false →
      let y := { x with busy := none, sent := x.sent.map fun _ => s.clock }
      Sys2Proof.Machine.exec (.busyWaitExpiry dst cls seq) s = .next ({ s with kept := s.kept.insert key y }.emitAll y seq)) ∧
    (∀ b, at' s = some x → x.notice = some b → b + x.ackWait ≤ s.clock →
      Sys2Proof.Machine.exec (.lossNoticeRepeat dst cls seq) s =
        .next (({ s with kept := s.kept.insert key { x with notice := some s.clock } }).sendControl s.chip x.msg.chip 4 seq x.msg.cls
          (toBytes 1 x.msg.kind ++ toBytes 12 x.msg.info ++ toBytes 2 x.msg.payload.length ++ x.msg.payload.take 13))) ∧
    (∀ h p, fragmentSound h p = false → Sys2Proof.Machine.exec (.fragmentForward h p) s = .next (s.fabBump 2 1)) ∧
    (∀ h p, fragmentSound h p = true → Answers (.fragmentForward h p) s fun t => ∃ port, port < 18 ∧
      t = { s with freeCtr := s.freeCtr + 1 }.send (.fragment port (Header.ofWord h).phys
        ({ Header.ofWord h with hops := (Header.ofWord h).hops + 1 }.word p false) p))

/-- DATA_FRAGMENT_RECEIVE drops and counts a fragment that is not sound, not for this module, or of a message in the completed-message filter, answers a full buffer with a busy reply, and
otherwise adds the fragment to its stripe, which is decoded with its k-th. MESSAGE_DELIVERY changes nothing while the next seq of its channel is not decoded, and on delivery of a message that carries nothing to memory frees its slot, enters the filter and advances the
channel. ACK_COALESCE_EXPIRY acknowledges the seqs below the next with the faults of puts among them, or as many as one payload names. The second copy of an answer of class 6 is dropped (the model's choice, notes/assumptions/114). FILTER_ENTRY_EXPIRY, DECODE_DEADLINE_EXPIRY and LOSS_NOTICE_RECEIVE act at their
deadlines and on messages not yet passed. -/
def Obligations.FabricReceiverEventResults : Prop :=
  ∀ (s : State) (src cls seq stripe : Nat) (hdr : BitVec 256) (payload : List (BitVec 8)), cls < 8 → seq < 2 ^ 32 →
    let h := Header.ofWord hdr
    let chan := src * 8 + cls
    let key := chan * 2 ^ 32 + seq
    let mine := h.phys = Config.fabSelf.toNat ∧ s.isSelf h.dst = true ∧ h.dst = s.chip ∧ h.src = src ∧ h.cls = cls ∧ h.seq = seq ∧
      (cls = 6 → h.kind = 0 ∨ 4 < h.kind)
    let fresh := s.filter.find? key = none ∧ seqBefore seq (s.recvOf chan).next = false ∧ seq ∉ (s.recvOf chan).lost
    let r := s.recvOf chan
    (fragmentSound hdr payload = false → Sys2Proof.Machine.exec (.dataFragmentReceive hdr payload) s = .next (s.fabBump 2 1)) ∧
    (fragmentSound hdr payload = true → h.phys ≠ Config.fabSelf.toNat ∨ s.isSelf h.dst = false →
      Sys2Proof.Machine.exec (.dataFragmentReceive hdr payload) s = .next (s.fabBump 6 1)) ∧
    (fragmentSound hdr payload = true → mine → (s.filter.find? key).isSome = true →
      Sys2Proof.Machine.exec (.dataFragmentReceive hdr payload) s = .next (s.fabBump 3 1)) ∧
    (fragmentSound hdr payload = true → mine → fresh → s.slots.find? key = none → s.slotFree src cls h.kind true = false →
      Sys2Proof.Machine.exec (.dataFragmentReceive hdr payload) s = .next ((s.fabBump 10 1).sendControl s.chip src 3 seq cls [])) ∧
    (fragmentSound hdr payload = true → mine → fresh → s.slots.find? key = none → s.slotFree src cls h.kind true = true → 1 < h.ks →
      Answers (.dataFragmentReceive hdr payload) s fun t => t.slots.find? key = some { header := hdr, deadline := s.cfgVal 0x69, dispose := s.cfgVal 0x68, stripes :=
        [(h.stripe, { ks := h.ks, frags := [(h.index, payload)], gens := [h.gen], since := s.clock })] }) ∧
    (fragmentSound hdr payload = true → h.phys = Config.fabSelf.toNat → s.isSelf h.dst = true → h.cls = 6 → 1 ≤ h.kind → h.kind ≤ 4 →
      (s.filter.find? (msgKey (chanKey (s.inChip h.src h.dst) 7) (bits h.info 63 32))).isSome = true →
      Sys2Proof.Machine.exec (.dataFragmentReceive hdr payload) s = .next (s.fabBump 3 1).settle) ∧
    (∀ x, s.slots.find? (chan * 2 ^ 32 + r.next % 2 ^ 32) = x → x.bind Slot.data? = none →
      Sys2Proof.Machine.exec (.messageDelivery src cls) s = .next s) ∧
    (∀ x data, s.slots.find? (chan * 2 ^ 32 + r.next % 2 ^ 32) = some x → x.data? = some data → (Header.ofWord x.header).kind = 0 →
      cls = 1 → s.snaps = [] → s.grids = [] → r.lost = [] → ∃ t : State,
        Sys2Proof.Machine.exec (.messageDelivery src cls) s = .next t.pump ∧
        t.slots = s.slots.erase (chan * 2 ^ 32 + r.next % 2 ^ 32) ∧
        t.filter = s.filter.insert (chan * 2 ^ 32 + r.next % 2 ^ 32) (s.clock + x.dispose) ∧
        t.recv.find? chan = some { r with next := (r.next + 1) % 2 ^ 32, owed := r.owed.or (some s.clock) }) ∧
    (∀ b, r.owed = some b → b + 64 ≤ s.clock → src < 4096 →
      let fs := r.faults.foldr insertFault []
      (r.faults.length ≤ 51 → Sys2Proof.Machine.exec (.ackCoalesceExpiry src cls) s =
        .next ({ s with recv := s.recv.insert chan { r with owed := none, faults := r.faults.filter fun f =>
            (s.filter.find? (chan * 2 ^ 32 + f.1 % 2 ^ 32)).isSome } }.sendControl s.chip src 1 ((r.next + 2 ^ 32 - 1) % 2 ^ 32) cls
          (fs.flatMap fun (f : Nat × Nat) => toBytes 4 f.1 ++ toBytes 1 f.2))) ∧
      (51 < r.faults.length → Answers (.ackCoalesceExpiry src cls) s fun t => (t.recvOf chan).owed = some s.clock ∧
        (t.recvOf chan).faults = r.faults.filter fun f => !(fs.take 51).any fun g => g.1 == f.1)) ∧
    ((∀ b, r.owed = some b → s.clock < b + 64) → Sys2Proof.Machine.exec (.ackCoalesceExpiry src cls) s = .next s) ∧
    (∀ b, s.filter.find? key = some b → Sys2Proof.Machine.exec (.filterEntryExpiry src cls seq) s =
      .next (if b ≤ s.clock then { s with
          filter := s.filter.erase key
          recv := if r.faults = [] ∨ r.owed.isSome = true then s.recv else s.recv.insert chan { r with faults := r.faults.erase seq } } else s)) ∧
    (∀ x y, s.slots.find? key = some x → x.stripes.find? stripe = some y → y.done = false → y.timed = true →
      (s.clock < y.since + x.deadline → Sys2Proof.Machine.exec (.decodeDeadlineExpiry src cls seq stripe) s = .next s) ∧
      (y.since + x.deadline ≤ s.clock → 2 ∉ y.gens → src < 4096 →
        Sys2Proof.Machine.exec (.decodeDeadlineExpiry src cls seq stripe) s =
          .next (({ s with slots := s.slots.insert key { x with stripes := x.stripes.insert stripe { y with timed := false } } }.fabBump 7 1).sendControl
            s.chip src 2 seq (cls + stripe * 2 ^ 3 + y.gens.foldl max 0 * 2 ^ 9) []))) ∧
    (seqBefore seq r.next = true ∨ seq ∈ r.lost → Sys2Proof.Machine.exec (.lossNoticeReceive src cls seq h.kind h.info) s =
      .next { s with recv := s.recv.insert chan { r with owed := r.owed.or (some s.clock) } }) ∧
    (seqBefore seq r.next = false → seq ∉ r.lost → seq ≠ r.next → r.next ∉ r.lost → s.slots.find? key = none → cls = 1 → s.grids = [] →
      Answers (.lossNoticeReceive src cls seq 0 h.info) s fun t =>
        t.recv.find? chan = some { r with lost := r.lost ++ [seq], owed := r.owed.or (some s.clock) })

/-- In a grid that is not deterministic and with earlier accesses performed: cinit of a legal record naming a free context and routable chips, cpost and cbar of a member of a configured context that
has fewer than two rounds pending, cwait of a round already posted and cfree of a context with no open round answer the next state that holds back their effect. A member with two rounds pending makes the clause wait. An
unconfigured context, a member beyond its count, a round not posted and an open round raise COLL_STATE; a context number above 255 raises FAB_RECORD; a deterministic grid raises DET_ATOMIC in cinit, cpost and cbar. -/
def Obligations.CollectiveInstructionResults : Prop :=
  ∀ (s : State) (iss : Issue) (f : FE) (ls : Lits), s.Runs iss →
    let w := 2 + ls.length
    let t := s.teamOf iss.gid
    let a := (iss.uniform f.a (litAt ls 0)).toNat
    let b := (iss.uniformM f.b (litB ls f.a)).toNat
    let e := fun (unit : Nat) => offsetOf (iss.uniformM f.a (litAt ls 0)) f.imm unit
    let ready := s.accessesDone iss.gid iss.lanes = true
    let fits := fun (n : Nat) => 0 ≤ e n ∧ e n + n ≤ (t.window 1 : Nat) ∧ e n % n = 0
    let held := fun (i : Instr) (n : List Nat) => Completes i s iss w [.act i iss.idx iss.lanes [] [] [] n]
    let r := s.record iss (e 64).toNat 64
    let p := s.record iss (e 32).toNat 32
    let w0 := recWord p 0
    let pending := fun (c : Combine) (m : Nat) => ((List.range (c.posts.get m 0)).filter fun k => (c.ended.find? k).isNone).length
    let routes := s.routable (combineOf r).parent = true ∨ (combineOf r).root = true
    (ready → fits 64 →
      (s.detI iss = true → Raises (.cinit f ls) s iss .detAtomic iss.lanes) ∧
      (s.detI iss = false → combineBad r = true → Raises (.cinit f ls) s iss .fabRecord iss.lanes) ∧
      (s.detI iss = false → combineBad r = false → (s.combines.find? (bits r 7 0)).isSome = true → Raises (.cinit f ls) s iss .collState iss.lanes) ∧
      (s.detI iss = false → combineBad r = false → s.combines.find? (bits r 7 0) = none →
        (routes ∧ (∀ ch ∈ (combineOf r).childs, s.routable ch = true) → held (.cinit f ls) [r]) ∧
        (¬ (routes ∧ ∀ ch ∈ (combineOf r).childs, s.routable ch = true) → Raises (.cinit f ls) s iss .fabNoroute iss.lanes))) ∧
    (ready → fits 32 → s.detI iss = true → Raises (.cpost f ls) s iss .detAtomic iss.lanes) ∧
    (ready → fits 32 → s.detI iss = false → b < 256 → bits w0 1 0 ≠ 3 → bits w0 63 17 = 0 → recWord p 3 = 0 →
      (s.combines.find? b = none → Raises (.cpost f ls) s iss .collState iss.lanes) ∧
      ∀ c, s.combines.find? b = some c →
        (c.nlocal ≤ bits w0 16 12 → Raises (.cpost f ls) s iss .collState iss.lanes) ∧
        (bits w0 16 12 < c.nlocal → bits w0 3 2 = 0 ∨ bits w0 3 2 = 3 → s.postFaultOf iss w0 (recWord p 1) (recWord p 2) c.bytes = none →
          (pending c (bits w0 16 12) < 2 → held (.cpost f ls) [b, w0, recWord p 1, recWord p 2]) ∧
          (2 ≤ pending c (bits w0 16 12) → Sys2Proof.Machine.exec (.cpost f ls) s = .next s.stall))) ∧
    (s.detI iss = true → Raises (.cbar f ls) s iss .detAtomic iss.lanes) ∧
    (s.detI iss = false → 256 ≤ a → Raises (.cbar f ls) s iss .fabRecord iss.lanes) ∧
    (256 ≤ a → Raises (.cwait f ls) s iss .fabRecord iss.lanes ∧ Raises (.cfree f ls) s iss .fabRecord iss.lanes) ∧
    (a < 256 → s.combines.find? a = none → (s.detI iss = false → Raises (.cbar f ls) s iss .collState iss.lanes) ∧
      Raises (.cwait f ls) s iss .collState iss.lanes ∧ Raises (.cfree f ls) s iss .collState iss.lanes) ∧
    ∀ c, a < 256 → s.combines.find? a = some c →
      (s.detI iss = false → c.nlocal ≤ b → Raises (.cbar f ls) s iss .collState iss.lanes) ∧
      (s.detI iss = false → b < c.nlocal → pending c b < 2 → ready → held (.cbar f ls) [a, b]) ∧
      ((∃ m ∈ c.posts, b < m.2) → held (.cwait f ls) [a, b]) ∧
      ((∀ m ∈ c.posts, m.2 ≤ b) → Raises (.cwait f ls) s iss .collState iss.lanes) ∧
      (c.rounds = [] → held (.cfree f ls) [a]) ∧ (c.rounds ≠ [] → Raises (.cfree f ls) s iss .collState iss.lanes)

/-- Outside a deterministic grid: snap on the initiator of a configured domain, from a member context, with the colour of the next epoch idle, snapst and snapwait always, and snapdrop of a snapshot that exists and is not already dropping, answer
the next state that holds back their effect; otherwise snap and snapdrop raise SNAP_STATE or SNAP_BUSY. gspawn and glaunch whose record is read and well formed (glaunch: a GRID node) hold back the
record as read. gwait, gcancel and detsig always complete. budget completes in a system context on a live one, and elsewhere on the own context for a limit that does not raise the record's, else raises PRIV. In a deterministic grid
all but gwait, gcancel and detsig raise DET_ATOMIC. -/
def Obligations.SnapshotAndLaunchInstructionResults : Prop :=
  ∀ (s : State) (iss : Issue) (f : FE) (ls : Lits), s.Runs iss →
    let w := 2 + ls.length
    let det := s.detI iss = true
    let c := s.ctxI iss
    let h := iss.hreg f.h.toNat
    let e := offsetOf (iss.uniformM f.a (litAt ls 0)) f.imm 64
    let x := iss.uniformM f.a (litAt ls 0)
    let k := bits f.aux.toNat 0 0
    let held := fun (i : Instr) (x : LaneVals) (n : List Nat) => Completes i s iss w [.act i iss.idx iss.lanes x [] [] n]
    let tickets := iss.lanesOf (iss.operand (intLayout 5) f.a (litAt ls 0))
    let dom := s.cfgVal 0x72 ≠ 0 ∧ s.cfgVal 0x75 ≠ 0 ∧ s.cfgVal 0x74 ≤ s.chip ∧ s.chip < s.cfgVal 0x74 + s.cfgVal 0x75 ∧
      c.snapmem = true ∧ s.cfgVal 0x73 = s.chip
    let free := (s.snap k).state = 0 ∧ (s.snaps.filter fun p => p.2.state != 0).length < 2
    let limit := bits f.aux.toNat 1 0
    let v := min x.toNat (2 ^ (limitField limit).2 - 1)
    let own := s.ctxOf iss.gid
    let other := (iss.uniformM f.b (litB ls f.a)).toNat % 1024
    let raises := fun (n : Nat) => n ≠ 0 ∧ (v = 0 ∨ n < v)
    (det → Raises (.snap f ls) s iss .detAtomic iss.lanes ∧ Raises (.snapst f ls) s iss .detAtomic iss.lanes ∧
      Raises (.snapwait f ls) s iss .detAtomic iss.lanes ∧ Raises (.snapdrop f ls) s iss .detAtomic iss.lanes ∧
      Raises (.gspawn f ls) s iss .detAtomic iss.lanes ∧ Raises (.glaunch f ls) s iss .detAtomic iss.lanes ∧
      Raises (.budget f ls) s iss .detAtomic iss.lanes) ∧
    (¬ det →
      (dom → free → k = (s.epoch + 1) % 2 → held (.snap f ls) [] [x.toNat % 2 ^ 32]) ∧
      (¬ dom → Raises (.snap f ls) s iss .snapState iss.lanes) ∧
      (dom → ¬ free → Raises (.snap f ls) s iss .snapBusy iss.lanes) ∧
      (dom → free → k ≠ (s.epoch + 1) % 2 → Raises (.snap f ls) s iss .snapState iss.lanes) ∧
      held (.snapst f ls) [] [] ∧ held (.snapwait f ls) [] [] ∧
      (s.cfgVal 0x73 = s.chip → (s.snap k).state ≠ 0 → (s.snap k).state ≠ 6 → held (.snapdrop f ls) [] []) ∧
      (s.cfgVal 0x73 ≠ s.chip ∨ (s.snap k).state = 0 ∨ (s.snap k).state = 6 → Raises (.snapdrop f ls) s iss .snapState iss.lanes) ∧
      (∀ bs, checkHandle c h e 1 64 [0] [] = none → s.handleRead iss.reader c iss.before.core h e.toNat 64 = .ok bs s →
        let n : Node := { words := wordsOf bs }
        (n.malformed = false → held (.gspawn f ls) [] (vaOf h e :: h.toNat :: wordsOf bs)) ∧
        (n.malformed = false → n.kind = 1 → held (.glaunch f ls) [] (vaOf h e :: h.toNat :: wordsOf bs)) ∧
        (n.malformed = true → Raises (.gspawn f ls) s iss .engineRecord iss.lanes) ∧
        (n.malformed = true ∨ n.kind ≠ 1 → Raises (.glaunch f ls) s iss .engineRecord iss.lanes)) ∧
      (f.aux.getLsbD 2 = false → c.sys = true ∨ ¬ raises ((s.ctx own).recordLimits.getD limit 0) → held (.budget f ls) [] [own, v]) ∧
      (f.aux.getLsbD 2 = false → c.sys = false → raises ((s.ctx own).recordLimits.getD limit 0) → Raises (.budget f ls) s iss .priv iss.lanes) ∧
      (f.aux.getLsbD 2 = true → c.sys = false → Raises (.budget f ls) s iss .priv iss.lanes) ∧
      (f.aux.getLsbD 2 = true → c.sys = true → (s.ctx other).status = .live → held (.budget f ls) [] [other, v]) ∧
      (f.aux.getLsbD 2 = true → c.sys = true → (s.ctx other).status ≠ .live → Raises (.budget f ls) s iss .ctxState iss.lanes)) ∧
    held (.gwait f ls) tickets [] ∧ held (.gcancel f ls) tickets [] ∧ held (.detsig f ls) [] []

/-- With an image handle that passes its check, ctxsave of another live context and ctxload of a free one whose ASID no live context holds answer the next state that holds back their effect, and raise CTX_STATE
otherwise. With INJ_ENABLE set inj.mat and inj.frag complete, and inj.poison does when its access check passes from the TLB; without it all three raise PRIV. preempt of another context that is not free completes, and raises CTX_STATE
otherwise. -/
def Obligations.SystemInstructionResults : Prop :=
  ∀ (s : State) (iss : Issue) (f : FE) (ls : Lits), s.Runs iss →
    let w := 2 + ls.length
    let h := iss.hreg f.h.toNat
    let e := fun (unit : Nat) => offsetOf (iss.uniformM f.a (litAt ls 0)) f.imm unit
    let x := (iss.uniformM f.a (litAt ls 0)).toNat
    let c := (iss.uniformM f.b (litB ls f.a)).toNat % 1024
    let own := s.ctxOf iss.gid
    let held := fun (i : Instr) (n : List Nat) => Completes i s iss w [.act i iss.idx iss.lanes [] [] [] n]
    let taken := ∃ p ∈ s.ctxs, p.2.status = .live ∧ p.2.asid = recBits (s.recordOf c) 9 0
    (checkHandle (s.ctxI iss) h (e 4096) 1 4096 [1] [] = none →
      (c ≠ own → (s.ctx c).status = .live → held (.ctxsave f ls) [c, (e 4096).toNat, f.h.toNat]) ∧
      (c = own ∨ (s.ctx c).status ≠ .live → Raises (.ctxsave f ls) s iss .ctxState iss.lanes)) ∧
    (checkHandle (s.ctxI iss) h (e 4096) 1 4096 [0] [] = none →
      ((s.ctx c).status = .free → ¬ taken → held (.ctxload f ls) [c, (e 4096).toNat, f.h.toNat]) ∧
      ((s.ctx c).status ≠ .free ∨ taken → Raises (.ctxload f ls) s iss .ctxState iss.lanes)) ∧
    (s.cfgVal 0x21 = 0 → Raises (.injMat f ls) s iss .priv iss.lanes ∧ Raises (.injFrag f ls) s iss .priv iss.lanes ∧
      Raises (.injPoison f ls) s iss .priv iss.lanes) ∧
    (s.cfgVal 0x21 ≠ 0 → held (.injMat f ls) [x] ∧ held (.injFrag f ls) [x] ∧
      ∀ va pa pte, s.checkAccess iss h (e 1) 1 [1] [] .store 0 = (.ok va pa pte, s) →
        held (.injPoison f ls) [pa, if pteHost pte then 1 else 0, pte.toNat]) ∧
    (x % 1024 ≠ own → (s.ctx (x % 1024)).status ≠ .free → held (.preempt f ls) [x % 1024]) ∧
    (x % 1024 = own ∨ (s.ctx (x % 1024)).status = .free → Raises (.preempt f ls) s iss .ctxState iss.lanes)

/-- COMBINE_CONTRIBUTION_RECEIVE for an unconfigured context only counts; for a round that has ended it changes nothing; from a child of the tree with the agreed fields it enters the child's data into the round, which stays
open while another contribution is missing. COMBINE_RESULT_RECEIVE of an unconfigured context or an ended round changes nothing. STEP_COMPLETE changes nothing until every thread of the grid has arrived or
exited and the grid's writes are performed, and then counts the step. STEP_NOTICE_RECEIVE keeps the notice for the step that needs it. -/
def Obligations.RoundAndStepEventResults : Prop :=
  ∀ (s : State) (ctx chip round gr : Nat) (c : Combine) (agreed : CombineAgreed) (fail : Option FaultCode) (data : List Byte),
    (s.combines.find? ctx = none →
      Sys2Proof.Machine.exec (.combineContributionReceive ctx chip round agreed fail data) s = .next (s.fabBump 12 1) ∧
      Sys2Proof.Machine.exec (.combineResultReceive ctx round fail data) s = .next s) ∧
    (s.combines.find? ctx = some c → (c.ended.find? round).isSome = true →
      Sys2Proof.Machine.exec (.combineContributionReceive ctx chip round agreed fail data) s = .next s ∧
      Sys2Proof.Machine.exec (.combineResultReceive ctx round fail data) s = .next s) ∧
    (s.combines.find? ctx = some c → c.ended.find? round = none → chip ∈ c.childs → s.snaps = [] → fail = none →
      agreed = { op := c.op, ty := c.ty, count := c.count, d := c.d, dtag := c.dtag } →
      (∃ i, i < c.nlocal ∧ (c.rounds.get round {}).locals.find? i = none) → (c.rounds.get round {}).result = none →
      (c.rounds.get round {}).fail = none → (c.rounds.get round {}).up = false →
      Answers (.combineContributionReceive ctx chip round agreed fail data) s fun t =>
        ∃ d r, t.combines.find? ctx = some d ∧ d.rounds.find? round = some r ∧ r.childs.find? (c.childs.idxOf chip) = some data ∧
          r.locals = (c.rounds.get round {}).locals ∧ r.result = none ∧ t.sendQ = s.sendQ) ∧
    (∀ code, s.combines.find? ctx = some c → c.ended.find? round = none → (c.rounds.find? round).bind Round.pages = none → fail = some code → c.childs = [] → s.snaps = [] → s.groups = [] →
      Answers (.combineResultReceive ctx round fail data) s fun t =>
        ∃ d, t.combines.find? ctx = some d ∧ d.rounds.find? round = none ∧ d.ended.find? round = some (some code)) ∧
    ((s.allArrived gr .step && s.gridPerformed gr) = false → Sys2Proof.Machine.exec (.stepComplete gr) s = .next s) ∧
    (s.allArrived gr .step = true → s.gridPerformed gr = true → (s.grids.find? gr).isSome = true → (s.grid gr).stepLost = [] →
      Answers (.stepComplete gr) s fun t => (t.grid gr).steps = (s.grid gr).steps + 1 ∧
        ∀ g l, g ∈ s.groupsOf gr → (s.groups.find? g).isSome = true → l < (s.group g).threads.length →
          ((s.group g).thread l).status = .blocked [.step] → ((t.group g).thread l).status = .ready) ∧
    (∀ n seqs, (∀ p ∈ s.grids, p.2.stag = 0 ∨ p.2.state ≠ .running) →
      Sys2Proof.Machine.exec (.stepNoticeReceive chip gr n seqs) s =
        .next (State.formAll { s with stepNotices := s.stepNotices ++ [{ chip := chip, stag := gr, n := n, seqs := seqs }] }))

/-- CLAUSE_ISSUE puts the clause of a formed bundle into a slot when its group may issue, no lane is missing at a meeting point, a slot, the scoreboard and the SFU queue have room, no order queue is full for a memory clause, and no bundle of the core that may go ranks before it; a fetch or
header check that fails raises its fault at the header. A bundle eligible for 2,048 MCLK is aged. A delay ends at its time. DEFERRED_EVENT_LANDING of an event that is done writes its destination in its lanes, zero where it has failed, decrements its scoreboard slot and queues its
faults; one whose accesses are outstanding changes nothing. The first SFU entry not yet started starts, behind others that have; the head lands once started. GROUP_RETIRE changes nothing until the group may retire. -/
def Obligations.IssueAndLandingEventResults : Prop :=
  ∀ (s : State) (gid pc id core : Nat) (b : Bundle) (lanes : Lanes),
    let g := s.group gid
    let thr := fun (t : State) l => (t.group gid).thread l
    (g.bundles.find? (fun b => b.pc.toNat == pc) = some b → b.inSlot = false → s.groupIssues gid = true →
      (∀ h ws, (s.fetchClause gid b.pc).1 = .ok h ws →
        (s.maySlot gid b = true ↔ g.missing b (instrsOf ws 15) = 0 ∧ s.slotsUsed g.core < 4 ∧
          g.scoreboardReady h ((instrsOf ws 15).filter Instr.isDeferred).length = true ∧
          s.sfuTaken g.core + ((instrsOf ws 15).filter Instr.isSfu).length ≤ 32 ∧
          (s.queueFull gid b.lanes = false ∨ bits h.toNat 23 21 ≠ 1 ∧ bits h.toNat 23 21 ≠ 4))) ∧
      (s.selects gid b = true ↔ s.maySlot gid b = true ∧ ∀ p ∈ s.groups, p.2.core = g.core → ∀ o ∈ p.2.bundles, s.maySlot p.1 o = true →
        rankBefore (s.rank p.1 o) (s.rank gid b) = false) ∧
      (∀ h ws u, s.fetchClause gid b.pc = (.ok h ws, u) → u.group gid = g → (∀ o ∈ g.bundles, o.pc = b.pc → u.waitsAt gid o = false) → u.selects gid b = true →
        (∀ p ∈ u.held, p.2 ≠ .u) →
        Answers (.clauseIssue gid pc) s fun t => t.mem = u.mem ∧ t.issuing = u.issuing ++
          [{ gid := gid, pc := b.pc, lanes := b.lanes, header := h, words := ws, before := g,
             draws := LaneVals.of fun l => (g.thread l).draw }]) ∧
      (∀ c u, s.fetchClause gid b.pc = (.fault c, u) → u.group gid = g → (u.groups.find? gid).isSome = true →
        Answers (.clauseIssue gid pc) s fun t => t.issuing = u.issuing ∧ ∃ f, (t.group gid).precise = g.precise ++ [f] ∧
          f.code = c ∧ f.pc = b.pc ∧ f.index = 0 ∧ f.deferred = false ∧ f.bundle = b.lanes)) ∧
    (s.groupIssues gid = false → (∀ b ∈ g.bundles, b.inSlot = false) → Sys2Proof.Machine.exec (.clauseIssue gid pc) s = .next s) ∧
    (Sys2Proof.Machine.exec (.bundlePriorityAging gid pc) s = .next (s.modGroup gid fun g => { g with bundles := g.bundles.map fun b =>
      if b.pc.toNat = pc ∧ b.inSlot = false ∧ (b.eligible.any fun e => decide (e + 2048 ≤ s.clock)) = true then { b with aged := true } else b })) ∧
    ((s.groups.find? gid).isSome = true → g.threads.length = 32 → Answers (.yieldDelayExpiry gid lanes) s fun t =>
      ∀ l n, l < 32 → (g.thread l).status = .delayed n →
        (thr t l).status = if lanes.has l ∧ n ≤ s.clock then .ready else .delayed n) ∧
    (s.deferred.find? id = none → Sys2Proof.Machine.exec (.deferredEventLanding id) s = .next s) ∧
    (∀ d n, s.deferred.find? id = some d → d.wait = .accesses n → Sys2Proof.Machine.exec (.deferredEventLanding id) s = .next s) ∧
    (∀ d r x, s.deferred.find? id = some d → d.gid = gid → d.wait = .done → d.v = [(r, x)] → d.h = none →
      (s.groups.find? gid).isSome = true → g.threads.length = 32 → (d.faults.length + g.queue.length ≤ 8) →
      Answers (.deferredEventLanding id) s fun t => t.deferred = s.deferred.erase id ∧ t.mem = s.mem ∧
        (t.group gid).sb.get d.sb 0 = g.sb.get d.sb 0 - 1 ∧ (t.group gid).queue.length = g.queue.length + d.faults.length ∧
        (∀ f, f ∈ (t.group gid).queue ↔ f ∈ g.queue ∨ f ∈ d.faults) ∧
        (∀ f, d.faults = [f] → g.landedAt ≠ s.clock → (t.group gid).queue = g.queue ++ [f]) ∧
        ∀ l k, l < 32 → (thr t l).v.get k 0 =
          if d.lanes.has l ∧ k = r then (if ∃ f ∈ d.faults, f.lanes.has l = true then 0 else x.at l) else (g.thread l).v.get k 0) ∧
    (∀ e rest, s.sfu.get core [] = e :: rest →
      (e.started = false → Sys2Proof.Machine.exec (.sfuEntryStart core) s = .next { s with sfu := s.sfu.insert core ({ e with started := true } :: rest) }) ∧
      (∀ f r, e.started = true → rest = f :: r → f.started = false → Sys2Proof.Machine.exec (.sfuEntryStart core) s =
        .next { s with sfu := s.sfu.insert core (e :: { f with started := true } :: r) }) ∧
      Sys2Proof.Machine.exec (.sfuResultLanding core) s =
        .next (if e.started then { s with sfu := s.sfu.insert core rest }.land e.event else s)) ∧
    (s.mayRetire gid = false → Sys2Proof.Machine.exec (.groupRetire gid) s = .next s) ∧
    (s.mayRetire gid = true → (∃ k ∈ (s.team g.team).groups, k ≠ gid ∧ (s.group k).retired = false) →
      Answers (.groupRetire gid) s fun t => (t.group gid).retired = true ∧ t.grids = s.grids)

/-- When every instruction of a clause has passed its checks and every effect that it holds is a register effect, its commit answers a next state in which the clause has left its slot, and in each lane each v and k register, FLAGS, DRAW and the PC, and in the group each g and handle register,
FPCTL and GANG, hold what the effects give when they are applied in index order to what stood before (the PC starts from the address after the clause). FLAGS only gains bits but for a swr. Every team and all of memory are
unchanged, and of every other group all but its formed bundles with the tie-break register and the skip and yield counts that forming them moves. -/
def Obligations.CommitWritesRegistersInIndexOrder : Prop :=
  ∀ (s : State) (iss : Issue) (rest : List Issue) (g : Group), s.issuing = iss :: rest → iss.words = [] → s.groups.find? iss.gid = some g →
    g.threads.length = 32 → (∀ i idx lanes x y z n, Effect.act i idx lanes x y z n ∉ iss.effects) →
    let lane := fun {α : Type} (start : α) (f : α → Effect → α) => iss.effects.foldl f start
    Answers .clauseCommit s fun t =>
      let u := t.group iss.gid
      t.issuing = rest ∧ t.mem = s.mem ∧ t.teams = s.teams ∧ t.tags = s.tags ∧ t.ctxs = s.ctxs ∧ t.accesses = s.accesses ∧
      (∀ k, k ≠ iss.gid → let a := t.group k
        let b := s.group k
        a = { b with bundles := a.bundles, lfsr := a.lfsr, threads := a.threads } ∧
          ∀ l, a.thread l = { b.thread l with skip := (a.thread l).skip, yielded := (a.thread l).yielded }) ∧ u.threads.length = 32 ∧
      (∀ l, l < 32 →
        (∀ r, (u.thread l).v.get r 0 = lane ((g.thread l).v.get r 0) fun y e =>
          match e with
          | .v q lanes x => if lanes.has l ∧ r = q then x.at l else y
          | _ => y) ∧
        (∀ r, (u.thread l).k.get r 0 = lane ((g.thread l).k.get r 0) fun y e =>
          match e with
          | .k q lanes x => if lanes.has l ∧ r = q then (x.at l).truncate 16 else y
          | _ => y) ∧
        (u.thread l).flags = (lane (g.thread l).flags fun y e =>
          match e with
          | .orFlags lanes x => if lanes.has l then y ||| (x.at l).truncate 5 else y
          | .setFlags lanes x => if lanes.has l then (x.at l).truncate 5 else y
          | _ => y) ∧
        (u.thread l).draw = (lane (g.thread l).draw fun y e =>
          match e with
          | .setDraw lanes x => if lanes.has l then x.at l else y
          | _ => y) ∧
        (u.thread l).pc = (lane (if iss.lanes.has l then iss.nextPc else (g.thread l).pc) fun y e =>
          match e with
          | .setPc lanes x => if lanes.has l then (x.at l).truncate 52 else y
          | _ => y) ∧
        (u.thread l).stack = (g.thread l).stack ∧ (u.thread l).status = (g.thread l).status ∧ (u.thread l).epc = (g.thread l).epc) ∧
      (∀ r, u.g.get r 0 = lane (g.g.get r 0) fun y e =>
        match e with
        | .g q x => if r = q then x else y
        | _ => y) ∧
      (∀ r, u.h.get r 0 = lane (g.h.get r 0) fun y e =>
        match e with
        | .h q x => if r = q then x else y
        | _ => y) ∧
      u.fpctl = (lane g.fpctl fun y e =>
        match e with
        | .setFpctl x => x
        | _ => y) ∧
      u.gang = (lane g.gang fun y e =>
        match e with
        | .setGang x => x
        | _ => y) ∧
      u.sb = g.sb ∧ u.queue = g.queue ∧ u.faultInfo = g.faultInfo ∧ u.faultAddr = g.faultAddr ∧ u.inHandler = g.inHandler

/-- A clause whose one effect is a call leaves in each of its lanes the address after the clause on the return stack and the target in the PC; a ret takes the newest address off the stack into the PC; exit makes the threads exited; a yield of
d > 0 delays ready threads by 2d MCLK; trap and brk add their deferred fault, with the operand, behind those queued; step blocks the threads; bar.sync of an open barrier that expects two groups of a team with one blocks them in the phase. -/
def Obligations.CommittedControlInstructionResults : Prop :=
  ∀ (s : State) (iss : Issue) (rest : List Issue) (g : Group) (x : LaneVals) (u : Nat) (f : FC) (b : FB) (ls : Lits) (idx : Nat),
    s.issuing = iss :: rest → iss.words = [] → s.groups.find? iss.gid = some g → g.threads.length = 32 → s.snaps = [] →
    let only := fun (i : Instr) (x : LaneVals) (n : List Nat) => iss.effects = [.act i idx iss.lanes x [] [] n]
    let after := fun (P : Group → Nat → Prop) => Answers .clauseCommit s fun t => t.issuing = rest ∧ t.mem = s.mem ∧
      ∀ l, l < 32 → iss.lanes.has l = true → P (t.group iss.gid) l
    let soft := fun (c : FaultCode) => Answers .clauseCommit s fun t => (t.group iss.gid).queue = g.queue ++
      [{ code := c, pc := iss.pc, index := idx, deferred := true, lane := lowestLane iss.lanes, lanes := iss.lanes, operand := u,
         bundle := iss.lanes, inHandler := iss.before.inHandler }]
    (only (.call b) x [] ∨ only (.callx f ls) x [] → after fun t l =>
      (t.thread l).stack = iss.nextPc :: (g.thread l).stack ∧ (t.thread l).pc = (x.at l).truncate 52 ∧ (t.thread l).v = (g.thread l).v) ∧
    (only (.ret f ls) [] [] → after fun t l => ∀ a r, (g.thread l).stack = a :: r →
      (t.thread l).stack = r ∧ (t.thread l).pc = a ∧ (t.thread l).v = (g.thread l).v) ∧
    (only (.exit f ls) [] [] → (s.gridOf iss.gid).stag = 0 → after fun t l => (t.thread l).status = .exited ∧ (t.thread l).v = (g.thread l).v) ∧
    (only (.yield f ls) [] [u] → 0 < u → after fun t l => (g.thread l).status = .ready → (t.thread l).status = .delayed (s.clock + 2 * u)) ∧
    (g.queue.length < 8 → g.landedAt ≠ s.clock → (only (.trap f ls) [] [u] → soft .trapSw) ∧ (only (.brk f ls) [] [u] → soft .breakpoint)) ∧
    (only (.step f ls) [] [] → s.accessesDone iss.gid iss.lanes = true →
      after fun t l => (g.thread l).status = .ready → (t.thread l).status = .blocked [.step]) ∧
    (∀ team, only (.barSync f ls) [] [u, 2] → s.accessesDone iss.gid iss.lanes = true → s.teams.find? g.team = some team →
      team.groups = [iss.gid] → team.barriers.find? u = none → (∀ l, (g.thread l).pending = []) →
      Answers .clauseCommit s fun t => (t.teamOf iss.gid).barrier u = { phase := false, count := some 2, lanes := [(iss.gid, iss.lanes)] } ∧
        ∀ l, l < 32 → iss.lanes.has l = true → (g.thread l).status = .ready →
          ((t.group iss.gid).thread l).status = .blocked [.barrier u false] ∧ ((t.group iss.gid).thread l).pending = [(u, false)])

/-- At a boundary of a resident group whose context may issue, with a fault due or in taking: the fault is in taking, the precise faults not taken are dropped, and once the group's results have landed, if the context handles it, FAULTINFO, FAULTADDR, FAULTVA and FAULTAUX take the
fault's words, each active thread saves its resume PC in EPC (the faulting clause for a precise fault, its own PC otherwise) with its waits, and stands ready at the handler; every other thread that has not exited is held; no v, k, g, handle, FLAGS or DRAW value changes. If not,
the context is to be killed with the cause of Table 16·2, a breakpoint in the handler too; a breakpoint outside it under debug halts it. Without a fault, or away from a boundary, nothing changes. -/
def Obligations.TrapEntryTakesTheNextFault : Prop :=
  ∀ (s : State) (gid : Nat) (g : Group) (f : FaultRec), s.groups.find? gid = some g → g.threads.length = 32 →
    let ctx := s.ctxOf gid
    let c := s.ctx ctx
    let idle := g.resident = true ∧ (s.teamOf gid).saving = false ∧ s.ctxIssues ctx = true ∧ ∀ i ∈ s.issuing, i.gid ≠ gid
    let due := g.taking.or g.nextFault = some f
    let queue := if g.taking.isNone then g.queue.erase f else g.queue
    let taken := s.setGroup gid { g with taking := some f, queue := queue, precise := [] }
    let free := (∀ p ∈ s.latches, ∀ l ∈ p.2, ∀ i ∈ l.arrivals, i.gid ≠ gid) ∧ ∀ p ∈ s.latchWaits, ∀ i ∈ p.2, i.gid ≠ gid
    let halts := f.code = .breakpoint ∧ c.debug = true ∧ g.inHandler = false
    let handled := c.handler ≠ 0 ∧ bitAt c.hmask (f.code.num / 8) = true ∧ g.inHandler = false
    (¬ idle → Sys2Proof.Machine.exec (.trapEntry gid) s = .next s) ∧
    (g.taking.or g.nextFault = none → Sys2Proof.Machine.exec (.trapEntry gid) s = .next s) ∧
    (idle → due → s.resultsLanded gid = false → Sys2Proof.Machine.exec (.trapEntry gid) s = .next taken) ∧
    (idle → due → s.resultsLanded gid = true → ¬ halts → ¬ handled → Sys2Proof.Machine.exec (.trapEntry gid) s = .next (taken.askKill ctx
      { code := f.code, cause := if g.inHandler then 1 else if f.code = .gridStarve then 4 else 0, gid := some gid, fault := some f,
        earlier := if g.inHandler then g.handlerCode else 0 })) ∧
    (idle → due → s.resultsLanded gid = true → halts → Answers (.trapEntry gid) s fun t =>
      (t.ctx ctx).kills = c.kills ++ [{ code := f.code, cause := 3, gid := some gid, fault := some f }] ∧ t.mem = s.mem ∧
      ∀ l, l < 32 → (t.group gid).thread l =
        if (g.activeFor f).has l then { g.thread l with epc := (g.thread l).pc } else g.thread l) ∧
    (idle → due → s.resultsLanded gid = true → free → ¬ halts → handled → Answers (.trapEntry gid) s fun t =>
      let u := t.group gid
      let active := g.activeFor f
      t.mem = s.mem ∧ t.ctxs = s.ctxs ∧ u.queue = queue ∧ u.precise = [] ∧ u.taking = none ∧ u.faultInfo = f.info (!queue.isEmpty) ∧
      u.faultAddr = f.pc ∧ u.faultVa = BitVec.ofNat 52 f.va ∧ u.faultAux = f.aux ∧ u.inHandler = true ∧ u.handlerLanes = active ∧
      u.g = g.g ∧ u.h = g.h ∧ u.sb = g.sb ∧ u.fpctl = g.fpctl ∧ u.gang = g.gang ∧
      ∀ l, l < 32 → let x := g.thread l
        let y := u.thread l
        y.v = x.v ∧ y.k = x.k ∧ y.flags = x.flags ∧ y.draw = x.draw ∧ y.stack = x.stack ∧
        (active.has l = true → y.pc = c.handler ∧ y.epc = (if f.deferred then x.pc else f.pc) ∧ y.status = .ready ∧
          (y.fromExit = true ↔ x.status = .exited) ∧ ∀ ws, x.status = .blocked ws → y.suspended = ws) ∧
        (active.has l = false → y.pc = x.pc ∧ y.epc = x.epc ∧ (x.status = .exited → y.status = .exited) ∧
          (x.status = .ready → y.status = .held []) ∧ ∀ ws, x.status = .blocked ws → y.status = .held ws))

/-- When the clause whose one effect is a tret holds every thread of its group's handler, its commit leaves the handler: each of these threads stands at EPC (tret) or at its own target (tret vA), ready, but
blocked again in its suspended waits when it resumes at EPC, and exited when it entered the handler exited; each held thread is ready, or blocked in the waits it was held with. No v or k register, no saved fault register and no byte of memory
changes but by the fresh test of an await that a thread resumes. -/
def Obligations.TretReturnsFromTheHandler : Prop :=
  ∀ (s : State) (iss : Issue) (rest : List Issue) (g : Group) (x : LaneVals) (f : FC) (ls : Lits) (idx : Nat),
    s.issuing = iss :: rest → iss.words = [] → s.groups.find? iss.gid = some g → g.threads.length = 32 →
    iss.effects = [.act (.tret f ls) idx iss.lanes x [] [] []] → g.inHandler = true → g.handlerLanes = iss.lanes →
    Answers .clauseCommit s fun t =>
      let u := t.group iss.gid
      t.issuing = rest ∧ u.inHandler = false ∧ u.faultInfo = g.faultInfo ∧ u.faultAddr = g.faultAddr ∧ u.g = g.g ∧ u.h = g.h ∧
      (∀ l, l < 32 → let a := g.thread l
        let b := u.thread l
        b.stack = a.stack ∧
        (iss.lanes.has l = true → a.fromExit = true → b.status = .exited) ∧
        (iss.lanes.has l = true → a.fromExit = false →
          b.pc = (if f.a = 120 then a.epc else (x.at l).truncate 52) ∧
          (f.a ≠ 120 ∨ a.suspended = [] → b.status = .ready)) ∧
        (iss.lanes.has l = false → b.pc = a.pc)) ∧
      ((∀ a ∈ s.accesses, a.gid = iss.gid → a.isAwait = false) → t.mem = s.mem ∧
        ∀ l, l < 32 → let a := g.thread l
          let b := u.thread l
          b.v = a.v ∧ b.k = a.k ∧ b.flags = a.flags ∧
          (iss.lanes.has l = true → a.fromExit = false → f.a = 120 → a.suspended ≠ [] → b.status = .blocked a.suspended) ∧
          (iss.lanes.has l = false → ∀ ws, a.status = .held ws → b.status = if ws = [] then .ready else .blocked ws))

/-- At the home, for a grain of a coherent class that no engine holds and that is not busy, whose unassigned tag first takes the class and reach of the request's leaf: GetS of an unowned grain grants it E with its data and of a shared one adds the sharer; GetM of an unowned grain grants M; a grant raises the module's floor past the grain's
leases (for a grain homed here log 110, the model's); GetM and Upgrade of a shared grain invalidate the other sharers first. Where the host may hold the grain a grant first asks for its back-invalidation and the request waits. A leaf that disagrees is sent the grain as it stands; a grain of CHIP reach is refused with REACH. PutM and PutO from the owner write
the data back, stamped, in the owner's epoch, and free or share the grain, and from any other chip are acknowledged and discarded. A message of a newer epoch is held, and a request for a busy grain waits in order of arrival. An acknowledgement leaves the transaction waiting for the others. GetS and GetM carry the leaf word of their access above their address
(log 61, the model's); `State.pump` then looks at what waits again. -/
def Obligations.HomeProtocolEventResults : Prop :=
  ∀ (s : State) (chip epoch pa leaf : Nat) (data : List Byte),
    let a := pa % 2 ^ 64
    let ask := atLeaf pa leaf
    let g := grainOf a
    let u := s.adoptAs g leaf chip
    let t := u.tag g
    let unlocked := s.txns.find? g = none ∧ s.replicaStores.find? g = none
    let free := s.engineOf g = none ∧ unlocked ∧ s.remoteOps = [] ∧ s.stalledFor chip (g * 512) = false ∧ epoch ≤ s.epoch ∧ chip ≠ s.chip
    let idle := free ∧ leafAgrees t leaf = true ∧ tagClass t < 2 ∧ tagReach t ≠ 0
    let granted := (u.hostUsed g).passFloor g
    let shared := u.hostMayHold g = true
    let cs := s.sharers t 0
    let owned := fun (t : BitVec 64) (st : Nat) => tagSet (tagSetPtr (tagSet (tagNoPtrs (tagSetState t st)) 7 7 0) 0 chip) 9 8 (tagEpoch t)
    let joined := s.withSharers t (if cs.contains chip then cs else cs ++ [chip])
    (s.epoch < epoch →
      Sys2Proof.Machine.exec (.gets chip epoch ask) s = .next (s.holdMessage epoch (.gets chip epoch ask)) ∧
      Sys2Proof.Machine.exec (.getm chip epoch ask) s = .next (s.holdMessage epoch (.getm chip epoch ask))) ∧
    (free → leafAgrees t leaf = false →
      Sys2Proof.Machine.exec (.gets chip epoch ask) s = .next (u.sendData chip g t).pump ∧
      Sys2Proof.Machine.exec (.getm chip epoch ask) s = .next (u.sendData chip g t).pump) ∧
    (free → leafAgrees t leaf = true → tagClass t < 2 → tagReach t = 0 →
      Sys2Proof.Machine.exec (.gets chip epoch ask) s =
        .next ((if tagState t = 0 then u.hostUsed g else u).sendCoh chip .answer (g * 512) FaultCode.reach.num (2 ^ 61) []).pump) ∧
    (idle → shared →
      let req := fun (m : Bool) => ({ chip := chip, getM := m, upgrade := false, epoch := epoch, leaf := leaf } : HomeReq)
      Sys2Proof.Machine.exec (.getm chip epoch ask) s = .next ((u.backInvalidate g).queueReq g (req true)).pump ∧
      (tagState t = 0 → Sys2Proof.Machine.exec (.gets chip epoch ask) s = .next ((u.backInvalidate g).queueReq g (req false)).pump)) ∧
    (idle → ¬ shared → tagState t = 0 →
      Sys2Proof.Machine.exec (.gets chip epoch ask) s = .next ((granted.setTag g (owned t 2)).sendData chip g (owned t 2)).pump ∧
      Sys2Proof.Machine.exec (.getm chip epoch ask) s = .next ((granted.setTag g (owned t 4)).sendData chip g (owned t 4)).pump) ∧
    (idle → tagState t = 1 →
      Sys2Proof.Machine.exec (.gets chip epoch ask) s = .next ((s.setTag g joined).sendData chip g joined).pump ∧
      (∀ e up, ¬ shared → (e = epoch ∧ up = false) ∨ (e = s.epoch ∧ up = true) →
        Sys2Proof.Machine.exec (if up then .upgrade chip a else .getm chip epoch ask) s =
          .next ((s.hostUsed g).openTxn g (cs.filter fun c => c != chip && c != s.chip) [] true
            { chip := chip, getM := true, next := ownedBy t 4 chip, nextDirty := ownedBy t 4 chip, epoch := e,
              reply := if up && cs.contains chip then 2 else 1 }).pump)) ∧
    (epoch ≤ s.epoch → (s.txns.find? g).isSome = true →
      let queue := s.waitingReqs.get g [] ++ [{ chip := chip, getM := false, upgrade := false, epoch := epoch, leaf := leaf, order := s.nextId + 1 }]
      Sys2Proof.Machine.exec (.gets chip epoch ask) s =
        .next (State.pump { s with waitingReqs := s.waitingReqs.insert g queue, nextId := s.nextId + 1 })) ∧
    let t := s.tag g
    let back := ((s.sendMsg chip .ack g).putMem (g * 512) (data.take 512)).stampGrain g
    (unlocked → tagPtr t 0 ≠ chip →
      Sys2Proof.Machine.exec (.putm chip a data) s = .next (s.sendMsg chip .ack g).pump ∧
      Sys2Proof.Machine.exec (.puto chip a data) s = .next (s.sendMsg chip .ack g).pump) ∧
    (unlocked → tagPtr t 0 = chip → tagClass t < 2 → data ≠ [] → tagState t = 2 ∨ tagState t = 4 →
      Sys2Proof.Machine.exec (.putm chip a data) s = .next (back.setTag g (tagSet (writtenTag t) 9 8 (tagEpoch t))).pump) ∧
    (unlocked → tagPtr t 0 = chip → tagClass t < 2 → data ≠ [] → tagState t = 3 → s.sharers t 1 ≠ [] →
      Sys2Proof.Machine.exec (.puto chip a data) s =
        .next (back.setTag g (tagSet (s.withSharers (tagSetState t 1) (s.sharers t 1)) 9 8 (tagEpoch t))).pump) ∧
    (∀ x dirty, s.txns.find? g = some x → x.acks.erase chip ≠ [] →
      Sys2Proof.Machine.exec (.coherenceAck chip a dirty) s = .next (State.pump { s with
        txns := s.txns.insert g { x with acks := x.acks.erase chip, dirty := x.dirty || dirty, data := x.data && !(decide (3 ≤ x.reply) && !dirty) } }))

/-- FORWARD waits for a grain's data that is on its way; of a grain not held it answers AckClean; of a held one, its dirty lines written back, it sends the data to the requester, tells the home whether the copy was dirty, and gives the copy up or keeps it shared. INVALIDATE acknowledges and, for a held grain, gives the copy up past the
module's stamp floor; a shared copy still on its way is not used when it comes. GRAIN_DATA of a grain asked for is held with the bytes, stamped, and the tag. LTS_SELF_ADVANCE adds one to every cluster's clock and changes nothing else. MODULE_REBASE does nothing before a clock reaches REBASE_AT and then starts every clock again in the other era. An engine recalled
from a grain gives it up, its stamp going to the home slice's four sectors (R252); one that does not hold it changes nothing; what waits is then tried again. HOST_SNOOP sends a held line home. -/
def Obligations.HolderAndLeaseEventResults : Prop :=
  ∀ (s : State) (chip epoch pa : Nat) (tag : BitVec 64) (data : List Byte) (excl : Bool),
    let g := grainOf pa
    let dirty := fun (h : HeldState) => h == .m || h == .o
    let v := s.clean g
    (epoch ≤ s.epoch → s.held.find? g = none → (s.requested.find? g).isSome = true →
      Sys2Proof.Machine.exec (.forward chip epoch pa excl) s = .next (State.pump { s with remoteOps := s.remoteOps ++
        [{ chip := chip, cluster := 0, kind := if excl then .forwardM else .forwardS, pa := pa, leaf := 0, epoch := epoch, arg := 0, data := [], since := s.clock }] })) ∧
    (epoch ≤ s.epoch → s.engineOf g = none → s.held.find? g = none → s.requested.find? g = none → v.held.find? g = none →
      Sys2Proof.Machine.exec (.forward chip epoch pa excl) s = .next (v.sendMsg (chipOf pa) .ackClean g).pump) ∧
    (∀ h, epoch ≤ s.epoch → s.engineOf g = none → (s.held.find? g).isSome = true → v.held.find? g = some h →
      let u := (v.sendData chip g (v.tag g)).sendMsg (chipOf pa) (if dirty h then .ackDirty else .ackClean) g
      Sys2Proof.Machine.exec (.forward chip epoch pa false) s =
        .next (State.pump { u with held := v.held.insert g (if dirty h then .o else .s) }) ∧
      Sys2Proof.Machine.exec (.forward chip epoch pa true) s = .next (u.surrender g).pump) ∧
    ((∀ a ∈ s.accesses, grainOf a.pa ≠ g) →
      (s.held.find? g = none → s.requested.find? g = none → Sys2Proof.Machine.exec (.invalidate pa) s = .next (s.sendMsg (chipOf pa) .ack g).pump) ∧
      (s.held.find? g = none → (s.requested.find? g).isSome = true → Sys2Proof.Machine.exec (.invalidate pa) s =
        .next (State.sendMsg { s with overtaken := g :: s.overtaken.filter (· != g) } (chipOf pa) .ack g).pump) ∧
      ((s.held.find? g).isSome = true → s.engineOf g = none → ∃ t : State,
        Sys2Proof.Machine.exec (.invalidate pa) s = .next (t.sendMsg (chipOf pa) .ack g).pump ∧ t.held.find? g = none ∧
        t.tag g = 0 ∧ (∀ a, a / 512 = g → ∀ b, (a, b) ∉ t.mem) ∧ (∀ c ∈ s.mem, c.1 / 512 ≠ g → c ∈ t.mem) ∧
        s.floor ≤ t.floor ∧ (∀ i, i < 4 → (s.sector (g * 512 + 128 * i)).rts < t.floor))) ∧
    (epoch ≤ s.epoch → chipOf pa ≠ s.chip → (s.requested.find? g).isSome = true → tagLock tag = false → tagClass tag ≠ 3 →
      s.held.length < s.l2Grains →
      let mine := tagPtr tag 0 = s.chip
      let kept : HeldState :=
        if chip ≠ chipOf pa then if s.requested.get g false = true then .m else .s
        else if tagState tag = 2 ∧ mine then .e else if tagState tag = 4 ∧ mine then .m
        else if (tagState tag = 1 ∨ tagState tag = 3 ∨ tagState tag = 7) ∧ s.chip ∈ s.sharers tag 0 then .s else .u
      let came : State := { s with requested := s.requested.erase g, overtaken := s.overtaken.filter (· != g) }
      (kept = .s → g ∈ s.overtaken → Sys2Proof.Machine.exec (.grainData chip epoch pa tag data) s = .next came.pump) ∧
      (kept ≠ .s ∨ g ∉ s.overtaken → Sys2Proof.Machine.exec (.grainData chip epoch pa tag data) s =
        .next (State.pump { (came.stampGrain g).putMem (g * 512) (data.take 512) with
          tags := s.tags.put g tag 0, held := s.held.insert g kept }))) ∧
    (Answers .ltsSelfAdvance s fun t => (∀ q, t.ltsOf q = s.ltsOf q + 1) ∧ t.mem = s.mem ∧ t.groups = s.groups ∧ t.sectors = s.sectors) ∧
    (s.rebaseDue = false → Sys2Proof.Machine.exec .moduleRebase s = .next s) ∧
    (s.rebaseDue = true → s.engineGrains = [] → s.accesses = [] → Answers .moduleRebase s fun t => t.era = !s.era ∧ t.floor = 0 ∧
      t.mem = s.mem ∧ (∀ q, t.ltsOf q = 1) ∧ (∀ l ∈ t.lines, l.2.free = true) ∧ ∀ p ∈ t.groups, ∀ x ∈ p.2.threads, x.seen = 0) ∧
    (∀ q grain, Sys2Proof.Machine.exec (.atomicGrainRecall q grain) s = .next (match s.engineGrains.find? (engineKey q grain) with
      | none => s.settle
      | some e => ((List.range 4).foldl (fun (u : State) i => u.setSector (grain * 512 + 128 * i) { wts := e.stamp, rts := e.stamp, era := s.era })
          { s with engineGrains := s.engineGrains.erase (engineKey q grain) }).settle)) ∧
    (s.hostLines.find? (pa / 64) = none → Sys2Proof.Machine.exec (.hostSnoop pa) s = .next s) ∧
    (∀ l, s.hostLines.find? (pa / 64) = some l → (∀ a ∈ s.accesses, pteHost a.pte = true → a.pa / 64 ≠ pa / 64) → Sys2Proof.Machine.exec (.hostSnoop pa) s =
      .next (State.send { s with hostLines := s.hostLines.erase (pa / 64) } (.hostWrite 0 (pa / 64 * 64) l false)))

/-- ATOMIC_ENGINE_OPERATION and HOME_SLICE_ATOMIC try the first atomic of their grain that no earlier access of its thread holds back: by ACLK or MCLK of its arrival, then cluster, core, core-local group index, instruction and lane (the slice: when no other chip's operation waits). AWAIT_TEST and, 4,096 MCLK after its last test, the timer complete a wait whose test holds: the thread's wait ends. WS_WAIT_EXPIRY and
MOVE_TIMEOUT_EXPIRY do nothing before the limit that WS_WAIT set, and then fail with WS_TIMEOUT and MOVE_TIMEOUT. The completion of a host access lands its data, and one that fails or is poisoned is counted and raises HOST_ABORT; an unsupported atomic marks its region. -/
def Obligations.AtomicUnitAndWaitEventResults : Prop :=
  ∀ (s : State) (q grain id : Nat) (a : Access),
    let ready := fun (u : AtomUnit) (p : Access → Bool) => s.accesses.filter fun a =>
      (p a && grainOf a.pa == grain && s.atomUnit a.pa a.pte a.scope == u) && !s.eager a && a.writes && !s.orderHeld a
    let rank := fun (n : Nat) (a : Access) => [a.since / n, a.core / 4, a.core, (s.group a.gid).slot, a.idx, a.lane]
    let first := fun (u : AtomUnit) (n : Nat) (p : Access → Bool) => ∃ before after, ready u p = before ++ a :: after ∧
      (∀ b ∈ before, rankBefore (rank n a) (rank n b) = true) ∧ ∀ b ∈ after, rankBefore (rank n b) (rank n a) = false
    let at' := s.accesses.find? fun a => a.id == id
    let host := (s.accesses.find? fun a => a.id == id && a.sent && pteHost a.pte) = some a
    (ready .engine (fun a => a.core / 4 == q) = [] → Sys2Proof.Machine.exec (.atomicEngineOperation q grain) s = .next s.settle) ∧
    (first .engine 2 (fun a => a.core / 4 == q) →
      Sys2Proof.Machine.exec (.atomicEngineOperation q grain) s = .next (s.tryAccess a.id).settle) ∧
    (s.remoteOps = [] → ready .slice (fun _ => true) = [] → Sys2Proof.Machine.exec (.homeSliceAtomic grain) s = .next s.settle) ∧
    (s.remoteOps = [] → first .slice 1 (fun _ => true) → Sys2Proof.Machine.exec (.homeSliceAtomic grain) s = .next (s.tryAccess a.id).settle) ∧
    (at' = none → Sys2Proof.Machine.exec (.awaitTest id) s = .next s ∧ Sys2Proof.Machine.exec (.awaitRetestTimer id) s = .next s ∧
      Sys2Proof.Machine.exec (.wsWaitExpiry id) s = .next s) ∧
    (at' = some a → s.clock < a.tested + 4096 → Sys2Proof.Machine.exec (.awaitRetestTimer id) s = .next s) ∧
    (∀ i v b u d w g, at' = some a →
      (i = .awaitTest id ∧ s.isParked a = true ∧ v = s ∧ b = a) ∨
      (i = .awaitRetestTimer id ∧ a.tested + 4096 ≤ s.clock ∧ b = { a with tested := s.clock } ∧ v = { s with
        accesses := s.accesses.map fun (x : Access) => if x.id == id then { x with tested := s.clock } else x }) →
      a.stale = false → v.orderHeld b = false → v.attempt b = .done u d w → (∃ sub n c, a.op = .await sub n c) → a.lane < 32 →
      u.groups.find? a.gid = some g → g.threads.length = 32 → (g.thread a.lane).status = .blocked [.await id] → Answers i s fun t =>
        ((t.group a.gid).thread a.lane).status = .ready ∧ ((t.group a.gid).thread a.lane).seen = max (g.thread a.lane).seen w ∧
        t.accesses = u.accesses.filter (fun b => b.id != id)) ∧
    (at' = some a → s.overdue a = false → Sys2Proof.Machine.exec (.wsWaitExpiry id) s = .next s) ∧
    (∀ e, at' = some a → s.overdue a = true → s.accesses = [a] → a.event = some e → (∃ sx, a.op = .load sx) →
      Sys2Proof.Machine.exec (.wsWaitExpiry id) s = .next ((({ s with accesses := [] }.modEvent e fun d =>
        d.noHandle.addFault .wsTimeout a.failLanes a.va).accessLanded e).form a.gid)) ∧
    (∀ d f ls n, s.deferred.find? id = some d → d.wait = .condition (.mvwait f ls) n →
      Sys2Proof.Machine.exec (.moveTimeoutExpiry id) s = .next (if d.since + d.limit ≤ s.clock then
        (s.modEvent id fun d => d.addFault .moveTimeout d.bundle 0).land id else s)) ∧
    (host → ∀ old,
      Sys2Proof.Machine.exec (.hostAtomicCompletion id .ok old) s = .next (s.completeAccess a (toBytes a.size old) s.readStamp).settle ∧
      (∀ st, st ≠ .ok → st ≠ .ur → Sys2Proof.Machine.exec (.hostAtomicCompletion id st old) s = .next (s.hostErr.refuseAccess a .hostAbort).settle) ∧
      Sys2Proof.Machine.exec (.hostAtomicCompletion id .ur old) s = .next ({ s with
        cfg := s.hostErr.cfg.insert 0x52 (BitVec.ofNat 64 (s.cfgAt 0x52 0 ||| 2 ^ s.hostRegion a.pa)) }.refuseAccess a .sysAtomicUnsupported).settle) ∧
    (host → id < snoopId → ∀ data st,
      (st ≠ .ok → Sys2Proof.Machine.exec (.hostAccessCompletion id st data) s = .next ((s.hostErr.refuseAccess a .hostAbort).form a.gid).settle) ∧
      (s.cxlCache = false → (∃ sx, a.op = .load sx) →
        Sys2Proof.Machine.exec (.hostAccessCompletion id .ok data) s = .next (s.completeAccess a (data.take a.size) s.readStamp).settle))

/-- Of an access of device memory whose grain nothing holds back and which the chip may reach, by a cluster whose cache has room, once an unassigned tag of this home has taken the leaf's class and reach: a leaf that disagrees with the tag gives CLASS_ALIAS. A load of an SC or RC page that no line of the cluster serves gives the bytes of memory and changes no byte, and POISON from a poisoned grain. A store of an SC or RC page that is not replicated changes
exactly its bytes. A load of a WS grain waits until it is FULL and then gives its bytes. The first store to an EMPTY grain claims it and makes its other bytes zero. A store to a FULL grain is refused with WS_REWRITE, to one claimed by another writer with WS_FOREIGN, over bytes already written with WS_REWRITE, and else changes exactly its bytes; an IP load by the owner's core gives the bytes, and an access by another core is refused with MOVE_RIGHTS. The memory keeps its canonical form. -/
def Obligations.PerformedLoadsAndStoresMoveTheirBytes : Prop :=
  ∀ (s : State) (a : Access), s.MemoryCanonical → a.size ≠ 0 →
    let g := grainOf a.pa
    let ad : State := if chipOf a.pa = s.chip then s.adopt g a.pte a.core else s
    let t := ad.tag g
    let cl := pteClass a.pte
    let free := a.space = 0 ∧ pteHost a.pte = false ∧ tagLock t = false ∧ s.txns.find? g = none ∧
      s.replicaStores.find? g = none ∧ s.engineOf g = none ∧ s.putting.contains g = false ∧ s.held.find? g ≠ some .u ∧
      ad.hostMayHold g = false ∧ (pteBit a.pte 9 = true → chipOf a.pa = s.chip) ∧
      (s.lines.filter fun l => keyCluster l.1 == a.core / 4).length + s.waysGone (· == wayUnit true (a.core / 4)) < cacheLines
    let bytes := fun (u : State) (bs : List Byte) => ∀ b, u.byteAt b =
      if a.pa ≤ b ∧ b < a.pa + bs.length then bs.getD (b - a.pa) 0 else s.byteAt b
    (free → agrees t a.pte = false → cl < 2 → s.rebaseDue = false → s.lines.find? (lineKey (a.core / 4) a.pa) = none →
      (∀ sx, a.op = .load sx → s.mayRead g = true → s.attempt a = .refused ad .classAlias) ∧
      (∀ d, a.op = .store d → s.mayWrite g = true → s.attempt a = .refused ad .classAlias)) ∧
    (∀ sx, a.op = .load sx → free → agrees t a.pte = true → s.mayRead g = true → s.rebaseDue = false →
      s.lines.find? (lineKey (a.core / 4) a.pa) = none →
      (cl < 2 → tagPoison t = true → s.attempt a = .refused ad .poison) ∧
      (cl < 2 → tagPoison t = false → ∃ u w, s.attempt a = .done u (s.readMem a.pa a.size) w ∧ u.mem = s.mem ∧ u.tags = ad.tags) ∧
      (cl = 2 → tagPoison t = false → tagState t ≠ 7 → s.attempt a = .wait ad) ∧
      (cl = 2 → tagPoison t = false → tagState t = 7 → s.attempt a = .done ad (s.readMem a.pa a.size) s.readStamp) ∧
      (cl = 3 → tagPoison t = false → tagPtr t 0 ≠ s.chip ∨ tagPtr t 1 ≠ a.core → s.attempt a = .refused ad .moveRights) ∧
      (cl = 3 → tagPoison t = false → tagPtr t 0 = s.chip → tagPtr t 1 = a.core →
        ∃ u w, s.attempt a = .done u (s.readMem a.pa a.size) w ∧ u.mem = s.mem ∧ u.tags = ad.tags)) ∧
    (∀ d, a.op = .store d → d.length = a.size → free → agrees t a.pte = true → s.mayWrite g = true → s.rebaseDue = false → pteBit a.pte 9 = false →
      (cl < 2 → ∃ u w, s.attempt a = .done u [] w ∧ bytes u d ∧ u.MemoryCanonical ∧ u.groups = s.groups) ∧
      (cl = 2 → chipOf a.pa = s.chip →
        (tagState t = 5 → ∃ u, s.attempt a = .done u [] 0 ∧ u.MemoryCanonical ∧
          tagState (u.tag g) = (if a.pa % 512 = 0 ∧ 512 ≤ a.size then 7 else 6) ∧ ∀ b, u.byteAt b =
            if a.pa ≤ b ∧ b < a.pa + d.length then d.getD (b - a.pa) 0 else if b / 512 = g then 0 else s.byteAt b) ∧
        (tagState t = 7 → s.attempt a = .refused ad .wsRewrite) ∧
        (tagState t = 6 → tagPtr t 0 ≠ s.chip ∨ tagPtr t 1 % 512 ≠ a.core / 4 → s.attempt a = .refused ad .wsForeign) ∧
        (tagState t = 6 → tagPtr t 0 = s.chip → tagPtr t 1 % 512 = a.core / 4 →
          (s.wsMask.get g 0 &&& grainMask a.pa a.size ≠ 0 → s.attempt a = .refused ad .wsRewrite) ∧
          (s.wsMask.get g 0 &&& grainMask a.pa a.size = 0 → ∃ u, s.attempt a = .done u [] 0 ∧ bytes u d ∧ u.MemoryCanonical))) ∧
      (cl = 3 → tagPtr t 0 ≠ s.chip ∨ tagPtr t 1 ≠ a.core → s.attempt a = .refused ad .moveRights)) ∧
    (a.space ≠ 0 → s.works = [] →
      (∀ sx, a.op = .load sx → s.attempt a = .done s (s.bufRead (s.group a.gid).team a.space (unitOf a.space a.core) false a.pa a.size) 0) ∧
      (∀ d, a.op = .store d → s.attempt a = .done (s.bufWrite (s.group a.gid).team a.space (unitOf a.space a.core) false a.pa d) [] 0))

/-- At the home slice, or at the cluster's engine that holds the grain, an atomic of a free, unpoisoned grain that agrees with its leaf gives the old bytes and writes the new value: for the integer types the sum, AND, OR, XOR, the signed or unsigned minimum or maximum, the wrapping increment, the operand, or the compare-and-swap value; for f32 the fadd, fmin or fmax of R258.
Every other byte is unchanged and memory keeps its canonical form. A poisoned grain refuses it with POISON. -/
def Obligations.PerformedAtomicsWriteTheValueOfTheTable : Prop :=
  ∀ (s : State) (a : Access) (sub ty : Nat) (ret : Bool) (x : List Nat), s.MemoryCanonical → a.op = .atomic sub ty ret x → a.size = atomBits ty / 8 → sub ≤ 11 →
    let g := grainOf a.pa
    let ad : State := if chipOf a.pa = s.chip then s.adopt g a.pte a.core else s
    let t := ad.tag g
    let free := a.space = 0 ∧ pteHost a.pte = false ∧ tagLock t = false ∧ s.txns.find? g = none ∧
      s.replicaStores.find? g = none ∧ s.engineOf g = none ∧ s.putting.contains g = false ∧ s.held.find? g ≠ some .u ∧
      ad.hostMayHold g = false ∧ (pteBit a.pte 9 = true → chipOf a.pa = s.chip) ∧
      (s.lines.filter fun l => keyCluster l.1 == a.core / 4).length + s.waysGone (· == wayUnit true (a.core / 4)) < cacheLines
    let bytes := fun (u : State) (bs : List Byte) => ∀ b, u.byteAt b =
      if a.pa ≤ b ∧ b < a.pa + bs.length then bs.getD (b - a.pa) 0 else s.byteAt b
    let w := atomBits ty
    let old := ofBytes (s.readMem a.pa a.size)
    let v := x.headD 0 % 2 ^ w
    let less := if ty = 1 ∨ ty = 3 then signedOf w v < signedOf w old else v < old
    let more := if ty = 1 ∨ ty = 3 then signedOf w old ≤ signedOf w v else old ≤ v
    let held := (s.engineGrains.find? (engineKey (a.core / 4) g)).isSome = true
    let at' := s.atomUnit a.pa a.pte a.scope = .slice ∧ free ∧ s.mayWrite g = true ∨
      s.atomUnit a.pa a.pte a.scope = .engine ∧ held ∧ a.space = 0 ∧ tagFree (s.tag g) = false
    at' → agrees t a.pte = true → pteBit a.pte 9 = false → s.rebaseDue = false →
      (tagPoison t = true → s.attempt a = .refused ad .poison) ∧
      (tagPoison t = false → ∃ u n stamp, s.attempt a = .done u (s.readMem a.pa a.size) stamp ∧ bytes u (toBytes a.size n) ∧ u.MemoryCanonical ∧
        u.groups = s.groups ∧
        (ty = 4 → n = (atomFloat sub old v).bits) ∧
        (ty ≠ 4 → sub = 0 → n = (old + v) % 2 ^ w) ∧ (ty ≠ 4 → sub = 1 → n = old &&& v) ∧ (ty ≠ 4 → sub = 2 → n = old ||| v) ∧
        (ty ≠ 4 → sub = 3 → n = old ^^^ v) ∧
        (ty ≠ 4 → sub = 4 → (less → n = v) ∧ (more → n = old)) ∧
        (ty ≠ 4 → sub = 5 → (less → n = old) ∧ (more → n = v)) ∧
        (ty ≠ 4 → sub = 6 → n = if v ≤ old then 0 else (old + 1) % 2 ^ w) ∧ (ty ≠ 4 → sub = 7 → n = v) ∧
        (ty ≠ 4 → sub = 8 → n = if old = v then x.getD 1 0 % 2 ^ w else old))

/-- State.reset is the module right after reset: every context free and no team, group, grid or command anywhere; every byte and tag zero with the memory in its canonical form; epoch 1 and both colours idle; logical chip 0, whose placement entry alone is valid; every channel at seq 0;
the counters zero; and the configuration registers at the reset values of their tables. -/
def Obligations.ResetState : Prop :=
  State.reset.MemoryCanonical ∧ (∀ a, State.reset.byteAt a = 0) ∧ (∀ g, State.reset.tag g = 0) ∧ (∀ c, (State.reset.ctx c).status = .free) ∧
  State.reset.teams = [] ∧ State.reset.groups = [] ∧ State.reset.grids = [] ∧ State.reset.commands = [] ∧ State.reset.issuing = [] ∧
  State.reset.epoch = 1 ∧ (∀ c, (State.reset.snap c).state = 0) ∧ State.reset.chip = 0 ∧ State.reset.inReset = false ∧
  (∀ c, (State.reset.placement c).getLsbD 16 = (c == 0)) ∧ (∀ k, State.reset.sendSeq.get k 0 = 0) ∧
  (∀ k, State.reset.fabCount.get k 0 = 0 ∧ State.reset.flagev.get k 0 = 0 ∧ State.reset.atomev.get k 0 = 0 ∧ State.reset.mcks.get k 0 = 0) ∧
  (∀ p ∈ [(0x20, 100), (0x30, 16384), (0x31, 10), (0x40, 16), (0x41, 0xF000), (0x42, 256), (0x43, 2 ^ 24), (0x44, 1), (0x54, 30), (0x55, 1),
      (0x5C, 24), (0x5D, 3000), (0x68, 65536), (0x69, 4096), (0x6A, 16384), (0x6B, 2048), (0x57, 0), (0x58, 0), (0x59, 0), (0x21, 0)],
    State.reset.cfgVal p.1 = p.2)

/-- When the agenda is empty and some clause in a slot can go on, the step serves the first such clause, or the one of its core that commits before it, by core-local group index and PC (log 88): when its next words decode to a well-formed instruction whose registers lie in the group's blocks, whose privilege the context holds and whose framing is right, the step is exec of that instruction at the state in which the clause is brought to the front and nothing else
changes; when no word is left, the step is the clause's commit. An event of the agenda is taken off it, its delay passes with the self-advances in it, and the step is exec of it; a rebase due in that time comes first (R231). A fetched word of code is the four bytes of memory at its translated address. -/
def Obligations.StepRunsTheDecodedInstruction : Prop :=
  ∀ (s : State) (iss : Issue), 
    (s.agenda = [] → s.nextIssue = some iss →
      let u : State := { s with issuing := iss :: s.issuing.erase iss }
      (iss.words = [] → Sys2Proof.Machine.step s = Sys2Proof.Machine.exec .clauseCommit u) ∧
      (∀ i e rest, decodeWords iss.words = .ok i rest → i.wellFormed = true → i.enc? = some e → e.outOfRange iss.before.blocks = false →
        e.priv = false ∨ (s.ctx (s.ctxOf iss.gid)).sys = true → iss.framing e i rest = false →
        Sys2Proof.Machine.step s = Sys2Proof.Machine.exec i u)) ∧
    (∀ i, s.issuing.find? (fun i => !i.waiting) = some i → ∃ x, s.nextIssue = some x ∧ x ∈ s.issuing ∧ x.waiting = false ∧
      x.before.core = i.before.core ∧ ∀ j ∈ s.issuing, j.waiting = false → j.before.core = x.before.core →
        x.before.slot < j.before.slot ∨ (x.before.slot = j.before.slot ∧ x.pc.toNat ≤ j.pc.toNat)) ∧
    (∀ n i rest, s.agenda = (n, i) :: rest → i.enc? = none → n ≤ s.untilRebase →
      Sys2Proof.Machine.step s = Sys2Proof.Machine.exec i { s.passTime n with agenda := rest }) ∧
    (∀ n i rest, s.agenda = (n, i) :: rest → s.untilRebase < n →
      Sys2Proof.Machine.step s = Sys2Proof.Machine.exec .moduleRebase { s.passTime s.untilRebase with agenda := (n - s.untilRebase, i) :: rest }) ∧
    (∀ gid va l pa u, s.translate (s.ctx (s.ctxOf gid)) (s.group gid).core (s.ctx (s.ctxOf gid)).asid va = (.leaf l pa, u) →
      pteBit l.pte 4 = true → pteHost l.pte = false → pteReach l.pte ≠ 0 → u.mayRead (grainOf pa) = true →
      s.fetchWord gid va = (.ok (BitVec.ofNat 32 (ofBytes ((List.range 4).map fun i => u.byteAt (pa + i)))), u.cacheCode ((u.group gid).core / 4) pa))

/-- At the next words of the clause served, with an empty agenda: words that do not decode raise the decoder's fault (ILLEGAL_OPCODE, RESERVED_FIELD or CLAUSE_FRAMING); an instruction with an unassigned type or sub-op raises ILLEGAL_OPCODE, then one with a reserved or illegal field RESERVED_FIELD, then one that names a register outside the group's blocks REG_RANGE, then a privileged one
outside system privilege PRIV, then one that breaks the clause's framing CLAUSE_FRAMING. The fault is precise, at the clause's header with the instruction's index and every lane of the bundle, and the clause leaves its slot with none of its held effects taken. A header with a bad tag, a count of 0 or class 6 or 7 raises CLAUSE_FRAMING, one with signal 6 or reserved bits RESERVED_FIELD. -/
def Obligations.ClauseChecksComeInTheOrderOfR48 : Prop :=
  ∀ (s : State) (iss : Issue), s.agenda = [] → s.nextIssue = some iss →
    let raised := fun (c : FaultCode) => Sys2Proof.Machine.step s = .next ((({ s with issuing := s.issuing.erase iss } : State).engDone iss.reader).modGroup iss.gid fun g => { g with
      bundles := g.bundles.filter fun b => b.pc != iss.pc
      precise := g.precise ++ [{ code := c, pc := iss.pc, index := iss.idx, lane := lowestLane iss.lanes, lanes := iss.lanes,
                                 bundle := iss.lanes, inHandler := iss.before.inHandler }] })
    (∀ c, iss.words ≠ [] → decodeWords iss.words = .bad c → raised c) ∧
    (∀ i e rest, decodeWords iss.words = .ok i rest → i.enc? = some e →
      let typed := e.illegal0 = false ∧ e.illegal1 = false
      let legal := typed ∧ e.reserved0 = false ∧ e.reserved1 = false
      (e.illegal0 = true ∨ e.illegal1 = true → raised .illegalOpcode) ∧
      (typed → e.reserved0 = true ∨ e.reserved1 = true → raised .reservedField) ∧
      (legal → e.outOfRange iss.before.blocks = true → raised .regRange) ∧
      (legal → e.outOfRange iss.before.blocks = false → e.priv = true → (s.ctx (s.ctxOf iss.gid)).sys = false → raised .priv) ∧
      (legal → e.outOfRange iss.before.blocks = false → e.priv = false ∨ (s.ctx (s.ctxOf iss.gid)).sys = true →
        iss.framing e i rest = true → raised .clauseFraming)) ∧
    (∀ h : IWord, let n := h.toNat
      (bits n 31 28 ≠ 0xC ∨ bits n 27 24 = 0 ∨ 6 ≤ bits n 23 21 → headerFault h = some .clauseFraming) ∧
      (bits n 31 28 = 0xC → bits n 27 24 ≠ 0 → bits n 23 21 < 6 → bits n 14 12 = 6 ∨ bits n 10 0 ≠ 0 → headerFault h = some .reservedField) ∧
      (bits n 31 28 = 0xC → bits n 27 24 ≠ 0 → bits n 23 21 < 6 → bits n 14 12 ≠ 6 → bits n 10 0 = 0 → headerFault h = none))

/-- A sanity statement: words that the spec itself writes out (Tables 2·12, 3·4, 5·9, 10·8, 11·4, 12·9, 13·5, 14·9, 15·5 and 16·6, and the worked clauses of 04_control.md) decode to their instructions with every field as the spec names it, with nothing left over; an unassigned opcode is refused with ILLEGAL_OPCODE, and a first word whose second is missing with CLAUSE_FRAMING. -/
def Obligations.WordsOfTheSpecDecode : Prop :=
  decodeWords [0x00C28205] = .ok (.add { t := 3, nw := 0, d := 10, a := 4, b := 5 } []) [] ∧
  decodeWords [0x0CC2F07F, 0x00000003] = .ok (.mul { t := 3, nw := 0, d := 11, a := 96, b := 127 } [3]) [] ∧
  decodeWords [0x430841F9] = .ok (.cmpUnsigned { t := 4, nw := 0, d := 33, a := 3, b := 121 } []) [] ∧
  decodeWords [0x54018280, 0xFA000008] = .ok (.xlRed { t := 0, nw := 0, d := 6, a := 5, b := 0, m := 125, rz := 0, sub := 8 } []) [] ∧
  decodeWords [0x90808300, 0x00000000] = .ok (.ld { t := 2, nw := 0, d := 2, h := 0, off := 96, scope := 0, imm := 0, ge := 0, gn := 0, gk := 0, re := 0, rk := 0, hint := 0, ord := 0, sub := 0 } []) [] ∧
  decodeWords [0x9280C408, 0x00000000] = .ok (.st { t := 2, nw := 0, d := 3, h := 1, off := 1, scope := 0, imm := 0, ge := 0, gn := 0, gk := 0, re := 0, rk := 0, hint := 0, ord := 0, sub := 0 } []) [] ∧
  decodeWords [0xC1018809, 0x0008800B] = .ok (.atom { t := 4, nw := 0, d := 6, h := 2, off := 1, scope := 1, imm := 0, ge := 1, gn := 0, gk := 1, re := 0, rk := 0, hint := 0, ord := 0, sub := 11 } []) [] ∧
  decodeWords [0xC4410742, 0x00000042] = .ok (.await { t := 1, nw := 0, d := 4, h := 1, off := 104, scope := 2, imm := 0, ge := 0, gn := 0, gk := 0, re := 0, rk := 0, hint := 0, ord := 1, sub := 2 } []) [] ∧
  decodeWords [0xBC1A87C0, 0x00000002] = .ok (.pgclass { t := 0, nw := 0, d := 106, h := 1, off := 120, scope := 0, imm := 0, ge := 0, gn := 0, gk := 0, re := 0, rk := 0, hint := 0, ord := 0, sub := 2 } []) [] ∧
  decodeWords [0xD4050350, 0x0002A000] = .ok (.mmx { t := 0, nw := 0, d := 20, h := 0, a := 106, scope := 0, imm := 0, b := 21, aux := 0, sub := 0 } []) [] ∧
  decodeWords [0xE0078368, 0x00000000] = .ok (.cpy { t := 0, nw := 0, d := 30, h := 0, a := 109, scope := 0, imm := 0, b := 0, aux := 0, sub := 0 } []) [] ∧
  decodeWords [0xE60A0380, 0x00000002] = .ok (.fsend { t := 0, nw := 0, d := 40, h := 0, a := 112, scope := 0, imm := 0, b := 0, aux := 0, sub := 2 } []) [] ∧
  decodeWords [0xE8000390, 0x000F0002] = .ok (.cwait { t := 0, nw := 0, d := 0, h := 0, a := 114, scope := 0, imm := 0, b := 120, aux := 0, sub := 2 } []) [] ∧
  decodeWords [0xEA014000, 0x00000043] = .ok (.snapdrop { t := 0, nw := 0, d := 5, h := 0, a := 0, scope := 0, imm := 0, b := 0, aux := 1, sub := 3 } []) [] ∧
  decodeWords [0xFA000753, 0x000D6002] = .ok (.tlbinv { t := 0, nw := 0, d := 0, h := 1, a := 106, scope := 3, imm := 0, b := 107, aux := 0, sub := 2 } []) [] ∧
  decodeWords [0xF11FFFFC] = .ok (.bra { ge := 1, gn := 0, gk := 1, off := 0xFFFFC }) [] ∧
  decodeWords [0xF400C000] = .ok (.exit { ge := 0, gn := 0, gk := 0, sub := 3, a := 0, b := 0 } []) [] ∧
  decodeWords [0xF6008079] = .ok (.srd { ge := 0, gn := 0, gk := 0, sub := 2, a := 0, b := 121 } []) [] ∧
  decodeWords [0xFC00757F, 0x00000010] = .ok (.cfgrd { ge := 0, gn := 0, gk := 0, sub := 1, a := 106, b := 127 } [0x10]) [] ∧
  decodeWords [0xFC003C00] = .ok (.tret { ge := 0, gn := 0, gk := 0, sub := 0, a := 120, b := 0 } []) [] ∧
  decodeWords [0x88000000] = .bad .illegalOpcode ∧ decodeWords [0x54018280] = .bad .clauseFraming

/-- For every well-formed instruction of the opcode table that has words, every operand at every value that the encoding admits and every literal: decoding its words, with any words after them, gives it back with exactly those words left. The other way round, whatever words decode to an instruction are that instruction's own words, followed by what is left: no bit of an encoding is dropped. -/
def Obligations.EncodingRoundTrip : Prop :=
  (∀ (i : Instr) (rest : List IWord), i.wellFormed = true → i.enc?.isSome = true → decodeWords (encode i ++ rest) = .ok i rest) ∧
  (∀ (ws rest : List IWord) (i : Instr), decodeWords ws = .ok i rest → encode i ++ rest = ws)

/-- R26, over all instructions: whichever next state exec answers for an instruction of a program (its own effect held back, a fault raised, a stall, an arrival at a rendezvous), every thread's v and k registers, FLAGS, DRAW, PC and return stack, every group's g and handle registers, FPCTL, GANG and scoreboard, and every team, grid, context, engine command, deferred event, combine context, access in the order
queue, message to be sent of the classes 1 to 7, configuration register and the clock are as before. Only the clause's commit and the events of the machine change them. -/
def Obligations.InstructionsHoldBackTheirEffects : Prop :=
  ∀ (i : Instr) (s t : State), i.enc?.isSome = true → Sys2Proof.Machine.exec i s = .next t →
    t.teams = s.teams ∧ t.grids = s.grids ∧ t.ctxs = s.ctxs ∧ t.commands = s.commands ∧ t.works = s.works ∧ t.deferred = s.deferred ∧
    t.combines = s.combines ∧ t.accesses = s.accesses ∧ t.cfg = s.cfg ∧ t.clock = s.clock ∧ (∀ k, k % 8 ≠ 0 → t.sendQ.get k [] = s.sendQ.get k []) ∧ t.epoch = s.epoch ∧
    ∀ gid, (t.group gid).h = (s.group gid).h ∧ (t.group gid).g = (s.group gid).g ∧ (t.group gid).fpctl = (s.group gid).fpctl ∧
      (t.group gid).gang = (s.group gid).gang ∧ (t.group gid).sb = (s.group gid).sb ∧ (t.group gid).queue = (s.group gid).queue ∧
      ∀ l, let x := (t.group gid).thread l
        let y := (s.group gid).thread l
        x.v = y.v ∧ x.k = y.k ∧ x.flags = y.flags ∧ x.draw = y.draw ∧ x.pc = y.pc ∧ x.stack = y.stack

/-- From every state whose memory lists rising addresses and no byte that equals what an unlisted address reads as (zero, R222), whatever next state the step answers (an instruction, a commit, an access, a coherence message, an engine, a migration, a restoration, a boot) has its memory in that form again, so that equal memories are equal data. -/
def Obligations.StepKeepsMemoryCanonical : Prop :=
  ∀ (s t : State), s.MemoryCanonical → Sys2Proof.Machine.step s = .next t → t.MemoryCanonical
end

