-- ==== Sys2Proof/Laws/Dispatch.lean ====
section
/-!
SUPPORT. What `exec` runs for each instruction: its own meaning.
-/

namespace Sys2Proof.Machine

set_option Elab.async false

@[simp] theorem exec_add (f : FA) (ls : Lits) (s : State) : exec (.add f ls) s = execAdd f ls s := rfl
@[simp] theorem exec_sub (f : FA) (ls : Lits) (s : State) : exec (.sub f ls) s = execSub f ls s := rfl
@[simp] theorem exec_addSatSigned (f : FA) (ls : Lits) (s : State) : exec (.addSatSigned f ls) s = execAddSatSigned f ls s := rfl
@[simp] theorem exec_addSatUnsigned (f : FA) (ls : Lits) (s : State) : exec (.addSatUnsigned f ls) s = execAddSatUnsigned f ls s := rfl
@[simp] theorem exec_subSatSigned (f : FA) (ls : Lits) (s : State) : exec (.subSatSigned f ls) s = execSubSatSigned f ls s := rfl
@[simp] theorem exec_subSatUnsigned (f : FA) (ls : Lits) (s : State) : exec (.subSatUnsigned f ls) s = execSubSatUnsigned f ls s := rfl
@[simp] theorem exec_mul (f : FA) (ls : Lits) (s : State) : exec (.mul f ls) s = execMul f ls s := rfl
@[simp] theorem exec_mulhiSigned (f : FA) (ls : Lits) (s : State) : exec (.mulhiSigned f ls) s = execMulhiSigned f ls s := rfl
@[simp] theorem exec_mulhiUnsigned (f : FA) (ls : Lits) (s : State) : exec (.mulhiUnsigned f ls) s = execMulhiUnsigned f ls s := rfl
@[simp] theorem exec_mad (f : FA) (ls : Lits) (s : State) : exec (.mad f ls) s = execMad f ls s := rfl
@[simp] theorem exec_abs (f : FA) (ls : Lits) (s : State) : exec (.abs f ls) s = execAbs f ls s := rfl
@[simp] theorem exec_pack (f : FA) (ls : Lits) (s : State) : exec (.pack f ls) s = execPack f ls s := rfl
@[simp] theorem exec_minSigned (f : FA) (ls : Lits) (s : State) : exec (.minSigned f ls) s = execMinSigned f ls s := rfl
@[simp] theorem exec_minUnsigned (f : FA) (ls : Lits) (s : State) : exec (.minUnsigned f ls) s = execMinUnsigned f ls s := rfl
@[simp] theorem exec_maxSigned (f : FA) (ls : Lits) (s : State) : exec (.maxSigned f ls) s = execMaxSigned f ls s := rfl
@[simp] theorem exec_maxUnsigned (f : FA) (ls : Lits) (s : State) : exec (.maxUnsigned f ls) s = execMaxUnsigned f ls s := rfl
@[simp] theorem exec_and (f : FA) (ls : Lits) (s : State) : exec (.and f ls) s = execAnd f ls s := rfl
@[simp] theorem exec_or (f : FA) (ls : Lits) (s : State) : exec (.or f ls) s = execOr f ls s := rfl
@[simp] theorem exec_xor (f : FA) (ls : Lits) (s : State) : exec (.xor f ls) s = execXor f ls s := rfl
@[simp] theorem exec_unpack (f : FA) (ls : Lits) (s : State) : exec (.unpack f ls) s = execUnpack f ls s := rfl
@[simp] theorem exec_andn (f : FA) (ls : Lits) (s : State) : exec (.andn f ls) s = execAndn f ls s := rfl
@[simp] theorem exec_shl (f : FA) (ls : Lits) (s : State) : exec (.shl f ls) s = execShl f ls s := rfl
@[simp] theorem exec_shr (f : FA) (ls : Lits) (s : State) : exec (.shr f ls) s = execShr f ls s := rfl
@[simp] theorem exec_sar (f : FA) (ls : Lits) (s : State) : exec (.sar f ls) s = execSar f ls s := rfl
@[simp] theorem exec_rol (f : FA) (ls : Lits) (s : State) : exec (.rol f ls) s = execRol f ls s := rfl
@[simp] theorem exec_clz (f : FA) (ls : Lits) (s : State) : exec (.clz f ls) s = execClz f ls s := rfl
@[simp] theorem exec_ctz (f : FA) (ls : Lits) (s : State) : exec (.ctz f ls) s = execCtz f ls s := rfl
@[simp] theorem exec_popc (f : FA) (ls : Lits) (s : State) : exec (.popc f ls) s = execPopc f ls s := rfl
@[simp] theorem exec_brev (f : FA) (ls : Lits) (s : State) : exec (.brev f ls) s = execBrev f ls s := rfl
@[simp] theorem exec_bfx (f : FA) (ls : Lits) (s : State) : exec (.bfx f ls) s = execBfx f ls s := rfl
@[simp] theorem exec_swz (f : FA) (ls : Lits) (s : State) : exec (.swz f ls) s = execSwz f ls s := rfl
@[simp] theorem exec_bfi (f : FA) (ls : Lits) (s : State) : exec (.bfi f ls) s = execBfi f ls s := rfl
@[simp] theorem exec_cmpSigned (f : FA) (ls : Lits) (s : State) : exec (.cmpSigned f ls) s = execCmpSigned f ls s := rfl
@[simp] theorem exec_cmpUnsigned (f : FA) (ls : Lits) (s : State) : exec (.cmpUnsigned f ls) s = execCmpUnsigned f ls s := rfl
@[simp] theorem exec_kop (f : FA) (ls : Lits) (s : State) : exec (.kop f ls) s = execKop f ls s := rfl
@[simp] theorem exec_sel (f : FA) (ls : Lits) (s : State) : exec (.sel f ls) s = execSel f ls s := rfl
@[simp] theorem exec_lea (f : FA) (ls : Lits) (s : State) : exec (.lea f ls) s = execLea f ls s := rfl
@[simp] theorem exec_movl (f : FA) (ls : Lits) (s : State) : exec (.movl f ls) s = execMovl f ls s := rfl
@[simp] theorem exec_gmov (f : FA) (ls : Lits) (s : State) : exec (.gmov f ls) s = execGmov f ls s := rfl
@[simp] theorem exec_cvti (f : FA) (ls : Lits) (s : State) : exec (.cvti f ls) s = execCvti f ls s := rfl
@[simp] theorem exec_xlSh (f : FX) (ls : Lits) (s : State) : exec (.xlSh f ls) s = execXlSh f ls s := rfl
@[simp] theorem exec_xlBc (f : FX) (ls : Lits) (s : State) : exec (.xlBc f ls) s = execXlBc f ls s := rfl
@[simp] theorem exec_xlRed (f : FX) (ls : Lits) (s : State) : exec (.xlRed f ls) s = execXlRed f ls s := rfl
@[simp] theorem exec_xlScan (f : FX) (ls : Lits) (s : State) : exec (.xlScan f ls) s = execXlScan f ls s := rfl
@[simp] theorem exec_xlVoteAll (f : FX) (ls : Lits) (s : State) : exec (.xlVoteAll f ls) s = execXlVoteAll f ls s := rfl
@[simp] theorem exec_xlVoteAny (f : FX) (ls : Lits) (s : State) : exec (.xlVoteAny f ls) s = execXlVoteAny f ls s := rfl
@[simp] theorem exec_xlVoteUni (f : FX) (ls : Lits) (s : State) : exec (.xlVoteUni f ls) s = execXlVoteUni f ls s := rfl
@[simp] theorem exec_xlBal (f : FX) (ls : Lits) (s : State) : exec (.xlBal f ls) s = execXlBal f ls s := rfl
@[simp] theorem exec_dp4 (f : FA) (ls : Lits) (s : State) : exec (.dp4 f ls) s = execDp4 f ls s := rfl
@[simp] theorem exec_rnd (f : FA) (ls : Lits) (s : State) : exec (.rnd f ls) s = execRnd f ls s := rfl
@[simp] theorem exec_dp8 (f : FA) (ls : Lits) (s : State) : exec (.dp8 f ls) s = execDp8 f ls s := rfl
@[simp] theorem exec_fadd (f : FA) (ls : Lits) (s : State) : exec (.fadd f ls) s = execFadd f ls s := rfl
@[simp] theorem exec_fsub (f : FA) (ls : Lits) (s : State) : exec (.fsub f ls) s = execFsub f ls s := rfl
@[simp] theorem exec_fmul (f : FA) (ls : Lits) (s : State) : exec (.fmul f ls) s = execFmul f ls s := rfl
@[simp] theorem exec_ffma (f : FA) (ls : Lits) (s : State) : exec (.ffma f ls) s = execFfma f ls s := rfl
@[simp] theorem exec_fmin (f : FA) (ls : Lits) (s : State) : exec (.fmin f ls) s = execFmin f ls s := rfl
@[simp] theorem exec_fmax (f : FA) (ls : Lits) (s : State) : exec (.fmax f ls) s = execFmax f ls s := rfl
@[simp] theorem exec_fminn (f : FA) (ls : Lits) (s : State) : exec (.fminn f ls) s = execFminn f ls s := rfl
@[simp] theorem exec_fmaxn (f : FA) (ls : Lits) (s : State) : exec (.fmaxn f ls) s = execFmaxn f ls s := rfl
@[simp] theorem exec_fabs (f : FA) (ls : Lits) (s : State) : exec (.fabs f ls) s = execFabs f ls s := rfl
@[simp] theorem exec_fneg (f : FA) (ls : Lits) (s : State) : exec (.fneg f ls) s = execFneg f ls s := rfl
@[simp] theorem exec_fcmp (f : FA) (ls : Lits) (s : State) : exec (.fcmp f ls) s = execFcmp f ls s := rfl
@[simp] theorem exec_fclass (f : FA) (ls : Lits) (s : State) : exec (.fclass f ls) s = execFclass f ls s := rfl
@[simp] theorem exec_fcvt (f : FA) (ls : Lits) (s : State) : exec (.fcvt f ls) s = execFcvt f ls s := rfl
@[simp] theorem exec_fcvti (f : FA) (ls : Lits) (s : State) : exec (.fcvti f ls) s = execFcvti f ls s := rfl
@[simp] theorem exec_icvtf (f : FA) (ls : Lits) (s : State) : exec (.icvtf f ls) s = execIcvtf f ls s := rfl
@[simp] theorem exec_frnd (f : FA) (ls : Lits) (s : State) : exec (.frnd f ls) s = execFrnd f ls s := rfl
@[simp] theorem exec_fscl (f : FA) (ls : Lits) (s : State) : exec (.fscl f ls) s = execFscl f ls s := rfl
@[simp] theorem exec_fexpo (f : FA) (ls : Lits) (s : State) : exec (.fexpo f ls) s = execFexpo f ls s := rfl
@[simp] theorem exec_fdiv (f : FA) (ls : Lits) (s : State) : exec (.fdiv f ls) s = execFdiv f ls s := rfl
@[simp] theorem exec_frcp (f : FA) (ls : Lits) (s : State) : exec (.frcp f ls) s = execFrcp f ls s := rfl
@[simp] theorem exec_frsq (f : FA) (ls : Lits) (s : State) : exec (.frsq f ls) s = execFrsq f ls s := rfl
@[simp] theorem exec_fsqrt (f : FA) (ls : Lits) (s : State) : exec (.fsqrt f ls) s = execFsqrt f ls s := rfl
@[simp] theorem exec_fexp2 (f : FA) (ls : Lits) (s : State) : exec (.fexp2 f ls) s = execFexp2 f ls s := rfl
@[simp] theorem exec_flog2 (f : FA) (ls : Lits) (s : State) : exec (.flog2 f ls) s = execFlog2 f ls s := rfl
@[simp] theorem exec_fexp (f : FA) (ls : Lits) (s : State) : exec (.fexp f ls) s = execFexp f ls s := rfl
@[simp] theorem exec_fsinpi (f : FA) (ls : Lits) (s : State) : exec (.fsinpi f ls) s = execFsinpi f ls s := rfl
@[simp] theorem exec_fcospi (f : FA) (ls : Lits) (s : State) : exec (.fcospi f ls) s = execFcospi f ls s := rfl
@[simp] theorem exec_ftanh (f : FA) (ls : Lits) (s : State) : exec (.ftanh f ls) s = execFtanh f ls s := rfl
@[simp] theorem exec_ld (f : FM) (ls : Lits) (s : State) : exec (.ld f ls) s = execLd f ls s := rfl
@[simp] theorem exec_st (f : FM) (ls : Lits) (s : State) : exec (.st f ls) s = execSt f ls s := rfl
@[simp] theorem exec_lda (f : FM) (ls : Lits) (s : State) : exec (.lda f ls) s = execLda f ls s := rfl
@[simp] theorem exec_sta (f : FM) (ls : Lits) (s : State) : exec (.sta f ls) s = execSta f ls s := rfl
@[simp] theorem exec_ldc (f : FM) (ls : Lits) (s : State) : exec (.ldc f ls) s = execLdc f ls s := rfl
@[simp] theorem exec_stc (f : FM) (ls : Lits) (s : State) : exec (.stc f ls) s = execStc f ls s := rfl
@[simp] theorem exec_pf (f : FM) (ls : Lits) (s : State) : exec (.pf f ls) s = execPf f ls s := rfl
@[simp] theorem exec_preq (f : FM) (ls : Lits) (s : State) : exec (.preq f ls) s = execPreq f ls s := rfl
@[simp] theorem exec_cinv (f : FM) (ls : Lits) (s : State) : exec (.cinv f ls) s = execCinv f ls s := rfl
@[simp] theorem exec_cwb (f : FM) (ls : Lits) (s : State) : exec (.cwb f ls) s = execCwb f ls s := rfl
@[simp] theorem exec_hmov (f : FM) (ls : Lits) (s : State) : exec (.hmov f ls) s = execHmov f ls s := rfl
@[simp] theorem exec_hnarrow (f : FM) (ls : Lits) (s : State) : exec (.hnarrow f ls) s = execHnarrow f ls s := rfl
@[simp] theorem exec_hoff (f : FM) (ls : Lits) (s : State) : exec (.hoff f ls) s = execHoff f ls s := rfl
@[simp] theorem exec_hsave (f : FM) (ls : Lits) (s : State) : exec (.hsave f ls) s = execHsave f ls s := rfl
@[simp] theorem exec_hload (f : FM) (ls : Lits) (s : State) : exec (.hload f ls) s = execHload f ls s := rfl
@[simp] theorem exec_hinfo (f : FM) (ls : Lits) (s : State) : exec (.hinfo f ls) s = execHinfo f ls s := rfl
@[simp] theorem exec_fence (f : FM) (ls : Lits) (s : State) : exec (.fence f ls) s = execFence f ls s := rfl
@[simp] theorem exec_acq (f : FM) (ls : Lits) (s : State) : exec (.acq f ls) s = execAcq f ls s := rfl
@[simp] theorem exec_rel (f : FM) (ls : Lits) (s : State) : exec (.rel f ls) s = execRel f ls s := rfl
@[simp] theorem exec_mvrange (f : FM) (ls : Lits) (s : State) : exec (.mvrange f ls) s = execMvrange f ls s := rfl
@[simp] theorem exec_mvwait (f : FM) (ls : Lits) (s : State) : exec (.mvwait f ls) s = execMvwait f ls s := rfl
@[simp] theorem exec_wsclose (f : FM) (ls : Lits) (s : State) : exec (.wsclose f ls) s = execWsclose f ls s := rfl
@[simp] theorem exec_wsreset (f : FM) (ls : Lits) (s : State) : exec (.wsreset f ls) s = execWsreset f ls s := rfl
@[simp] theorem exec_wsstate (f : FM) (ls : Lits) (s : State) : exec (.wsstate f ls) s = execWsstate f ls s := rfl
@[simp] theorem exec_pgclass (f : FM) (ls : Lits) (s : State) : exec (.pgclass f ls) s = execPgclass f ls s := rfl
@[simp] theorem exec_replicAdd (f : FM) (ls : Lits) (s : State) : exec (.replicAdd f ls) s = execReplicAdd f ls s := rfl
@[simp] theorem exec_replicRem (f : FM) (ls : Lits) (s : State) : exec (.replicRem f ls) s = execReplicRem f ls s := rfl
@[simp] theorem exec_atom (f : FM) (ls : Lits) (s : State) : exec (.atom f ls) s = execAtom f ls s := rfl
@[simp] theorem exec_red (f : FM) (ls : Lits) (s : State) : exec (.red f ls) s = execRed f ls s := rfl
@[simp] theorem exec_await (f : FM) (ls : Lits) (s : State) : exec (.await f ls) s = execAwait f ls s := rfl
@[simp] theorem exec_gang (f : FE) (ls : Lits) (s : State) : exec (.gang f ls) s = execGang f ls s := rfl
@[simp] theorem exec_mzero (f : FE) (ls : Lits) (s : State) : exec (.mzero f ls) s = execMzero f ls s := rfl
@[simp] theorem exec_mmx (f : FE) (ls : Lits) (s : State) : exec (.mmx f ls) s = execMmx f ls s := rfl
@[simp] theorem exec_mmxs (f : FE) (ls : Lits) (s : State) : exec (.mmxs f ls) s = execMmxs f ls s := rfl
@[simp] theorem exec_mdrain (f : FE) (ls : Lits) (s : State) : exec (.mdrain f ls) s = execMdrain f ls s := rfl
@[simp] theorem exec_mstat (f : FE) (ls : Lits) (s : State) : exec (.mstat f ls) s = execMstat f ls s := rfl
@[simp] theorem exec_mcks (f : FE) (ls : Lits) (s : State) : exec (.mcks f ls) s = execMcks f ls s := rfl
@[simp] theorem exec_mcancel (f : FE) (ls : Lits) (s : State) : exec (.mcancel f ls) s = execMcancel f ls s := rfl
@[simp] theorem exec_cpy (f : FE) (ls : Lits) (s : State) : exec (.cpy f ls) s = execCpy f ls s := rfl
@[simp] theorem exec_cpyg (f : FE) (ls : Lits) (s : State) : exec (.cpyg f ls) s = execCpyg f ls s := rfl
@[simp] theorem exec_cfill (f : FE) (ls : Lits) (s : State) : exec (.cfill f ls) s = execCfill f ls s := rfl
@[simp] theorem exec_publish (f : FE) (ls : Lits) (s : State) : exec (.publish f ls) s = execPublish f ls s := rfl
@[simp] theorem exec_ewait (f : FE) (ls : Lits) (s : State) : exec (.ewait f ls) s = execEwait f ls s := rfl
@[simp] theorem exec_estat (f : FE) (ls : Lits) (s : State) : exec (.estat f ls) s = execEstat f ls s := rfl
@[simp] theorem exec_mig (f : FE) (ls : Lits) (s : State) : exec (.mig f ls) s = execMig f ls s := rfl
@[simp] theorem exec_dgst (f : FE) (ls : Lits) (s : State) : exec (.dgst f ls) s = execDgst f ls s := rfl
@[simp] theorem exec_fput (f : FE) (ls : Lits) (s : State) : exec (.fput f ls) s = execFput f ls s := rfl
@[simp] theorem exec_fget (f : FE) (ls : Lits) (s : State) : exec (.fget f ls) s = execFget f ls s := rfl
@[simp] theorem exec_fsend (f : FE) (ls : Lits) (s : State) : exec (.fsend f ls) s = execFsend f ls s := rfl
@[simp] theorem exec_frecv (f : FE) (ls : Lits) (s : State) : exec (.frecv f ls) s = execFrecv f ls s := rfl
@[simp] theorem exec_fstat (f : FE) (ls : Lits) (s : State) : exec (.fstat f ls) s = execFstat f ls s := rfl
@[simp] theorem exec_cinit (f : FE) (ls : Lits) (s : State) : exec (.cinit f ls) s = execCinit f ls s := rfl
@[simp] theorem exec_cpost (f : FE) (ls : Lits) (s : State) : exec (.cpost f ls) s = execCpost f ls s := rfl
@[simp] theorem exec_cwait (f : FE) (ls : Lits) (s : State) : exec (.cwait f ls) s = execCwait f ls s := rfl
@[simp] theorem exec_cbar (f : FE) (ls : Lits) (s : State) : exec (.cbar f ls) s = execCbar f ls s := rfl
@[simp] theorem exec_cfree (f : FE) (ls : Lits) (s : State) : exec (.cfree f ls) s = execCfree f ls s := rfl
@[simp] theorem exec_snap (f : FE) (ls : Lits) (s : State) : exec (.snap f ls) s = execSnap f ls s := rfl
@[simp] theorem exec_snapst (f : FE) (ls : Lits) (s : State) : exec (.snapst f ls) s = execSnapst f ls s := rfl
@[simp] theorem exec_snapwait (f : FE) (ls : Lits) (s : State) : exec (.snapwait f ls) s = execSnapwait f ls s := rfl
@[simp] theorem exec_snapdrop (f : FE) (ls : Lits) (s : State) : exec (.snapdrop f ls) s = execSnapdrop f ls s := rfl
@[simp] theorem exec_gspawn (f : FE) (ls : Lits) (s : State) : exec (.gspawn f ls) s = execGspawn f ls s := rfl
@[simp] theorem exec_glaunch (f : FE) (ls : Lits) (s : State) : exec (.glaunch f ls) s = execGlaunch f ls s := rfl
@[simp] theorem exec_gwait (f : FE) (ls : Lits) (s : State) : exec (.gwait f ls) s = execGwait f ls s := rfl
@[simp] theorem exec_gcancel (f : FE) (ls : Lits) (s : State) : exec (.gcancel f ls) s = execGcancel f ls s := rfl
@[simp] theorem exec_budget (f : FE) (ls : Lits) (s : State) : exec (.budget f ls) s = execBudget f ls s := rfl
@[simp] theorem exec_detsig (f : FE) (ls : Lits) (s : State) : exec (.detsig f ls) s = execDetsig f ls s := rfl
@[simp] theorem exec_ctxsave (f : FE) (ls : Lits) (s : State) : exec (.ctxsave f ls) s = execCtxsave f ls s := rfl
@[simp] theorem exec_ctxload (f : FE) (ls : Lits) (s : State) : exec (.ctxload f ls) s = execCtxload f ls s := rfl
@[simp] theorem exec_tlbinv (f : FE) (ls : Lits) (s : State) : exec (.tlbinv f ls) s = execTlbinv f ls s := rfl
@[simp] theorem exec_asidinv (f : FE) (ls : Lits) (s : State) : exec (.asidinv f ls) s = execAsidinv f ls s := rfl
@[simp] theorem exec_injMat (f : FE) (ls : Lits) (s : State) : exec (.injMat f ls) s = execInjMat f ls s := rfl
@[simp] theorem exec_injFrag (f : FE) (ls : Lits) (s : State) : exec (.injFrag f ls) s = execInjFrag f ls s := rfl
@[simp] theorem exec_injPoison (f : FE) (ls : Lits) (s : State) : exec (.injPoison f ls) s = execInjPoison f ls s := rfl
@[simp] theorem exec_preempt (f : FE) (ls : Lits) (s : State) : exec (.preempt f ls) s = execPreempt f ls s := rfl
@[simp] theorem exec_bra (f : FB) (s : State) : exec (.bra f) s = execBra f s := rfl
@[simp] theorem exec_call (f : FB) (s : State) : exec (.call f) s = execCall f s := rfl
@[simp] theorem exec_brx (f : FC) (ls : Lits) (s : State) : exec (.brx f ls) s = execBrx f ls s := rfl
@[simp] theorem exec_callx (f : FC) (ls : Lits) (s : State) : exec (.callx f ls) s = execCallx f ls s := rfl
@[simp] theorem exec_ret (f : FC) (ls : Lits) (s : State) : exec (.ret f ls) s = execRet f ls s := rfl
@[simp] theorem exec_exit (f : FC) (ls : Lits) (s : State) : exec (.exit f ls) s = execExit f ls s := rfl
@[simp] theorem exec_yield (f : FC) (ls : Lits) (s : State) : exec (.yield f ls) s = execYield f ls s := rfl
@[simp] theorem exec_nop (f : FC) (ls : Lits) (s : State) : exec (.nop f ls) s = execNop f ls s := rfl
@[simp] theorem exec_srd (f : FC) (ls : Lits) (s : State) : exec (.srd f ls) s = execSrd f ls s := rfl
@[simp] theorem exec_swr (f : FC) (ls : Lits) (s : State) : exec (.swr f ls) s = execSwr f ls s := rfl
@[simp] theorem exec_trap (f : FC) (ls : Lits) (s : State) : exec (.trap f ls) s = execTrap f ls s := rfl
@[simp] theorem exec_brk (f : FC) (ls : Lits) (s : State) : exec (.brk f ls) s = execBrk f ls s := rfl
@[simp] theorem exec_barSync (f : FC) (ls : Lits) (s : State) : exec (.barSync f ls) s = execBarSync f ls s := rfl
@[simp] theorem exec_barArrive (f : FC) (ls : Lits) (s : State) : exec (.barArrive f ls) s = execBarArrive f ls s := rfl
@[simp] theorem exec_barWait (f : FC) (ls : Lits) (s : State) : exec (.barWait f ls) s = execBarWait f ls s := rfl
@[simp] theorem exec_step (f : FC) (ls : Lits) (s : State) : exec (.step f ls) s = execStep f ls s := rfl
@[simp] theorem exec_stepPod (f : FC) (ls : Lits) (s : State) : exec (.stepPod f ls) s = execStepPod f ls s := rfl
@[simp] theorem exec_tret (f : FC) (ls : Lits) (s : State) : exec (.tret f ls) s = execTret f ls s := rfl
@[simp] theorem exec_cfgrd (f : FC) (ls : Lits) (s : State) : exec (.cfgrd f ls) s = execCfgrd f ls s := rfl
@[simp] theorem exec_cfgwr (f : FC) (ls : Lits) (s : State) : exec (.cfgwr f ls) s = execCfgwr f ls s := rfl
@[simp] theorem exec_clauseIssue (gid pc : Nat) (s : State) : exec (.clauseIssue gid pc) s = execClauseIssue gid pc s := rfl
@[simp] theorem exec_bundlePriorityAging (gid pc : Nat) (s : State) : exec (.bundlePriorityAging gid pc) s = execBundlePriorityAging gid pc s := rfl
@[simp] theorem exec_yieldDelayExpiry (gid : Nat) (lanes : BitVec 32) (s : State) : exec (.yieldDelayExpiry gid lanes) s = execYieldDelayExpiry gid lanes s := rfl
@[simp] theorem exec_deferredEventLanding (id : Nat) (s : State) : exec (.deferredEventLanding id) s = execDeferredEventLanding id s := rfl
@[simp] theorem exec_sfuEntryStart (core : Nat) (s : State) : exec (.sfuEntryStart core) s = execSfuEntryStart core s := rfl
@[simp] theorem exec_sfuResultLanding (core : Nat) (s : State) : exec (.sfuResultLanding core) s = execSfuResultLanding core s := rfl
@[simp] theorem exec_groupRetire (gid : Nat) (s : State) : exec (.groupRetire gid) s = execGroupRetire gid s := rfl
@[simp] theorem exec_stepComplete (grid : Nat) (s : State) : exec (.stepComplete grid) s = execStepComplete grid s := rfl
@[simp] theorem exec_gets (chip epoch pa : Nat) (s : State) : exec (.gets chip epoch pa) s = execGets chip epoch pa s := rfl
@[simp] theorem exec_getm (chip epoch pa : Nat) (s : State) : exec (.getm chip epoch pa) s = execGetm chip epoch pa s := rfl
@[simp] theorem exec_forward (chip epoch pa : Nat) (excl : Bool) (s : State) : exec (.forward chip epoch pa excl) s = execForward chip epoch pa excl s := rfl
@[simp] theorem exec_grainData (chip epoch pa : Nat) (tag : BitVec 64) (data : List (BitVec 8)) (s : State) : exec (.grainData chip epoch pa tag data) s = execGrainData chip epoch pa tag data s := rfl
@[simp] theorem exec_wsWaitExpiry (id : Nat) (s : State) : exec (.wsWaitExpiry id) s = execWsWaitExpiry id s := rfl
@[simp] theorem exec_moveTimeoutExpiry (id : Nat) (s : State) : exec (.moveTimeoutExpiry id) s = execMoveTimeoutExpiry id s := rfl
@[simp] theorem exec_atomicEngineOperation (cluster grain : Nat) (s : State) : exec (.atomicEngineOperation cluster grain) s = execAtomicEngineOperation cluster grain s := rfl
@[simp] theorem exec_atomicGrainRecall (cluster grain : Nat) (s : State) : exec (.atomicGrainRecall cluster grain) s = execAtomicGrainRecall cluster grain s := rfl
@[simp] theorem exec_homeSliceAtomic (grain : Nat) (s : State) : exec (.homeSliceAtomic grain) s = execHomeSliceAtomic grain s := rfl
@[simp] theorem exec_awaitTest (id : Nat) (s : State) : exec (.awaitTest id) s = execAwaitTest id s := rfl
@[simp] theorem exec_awaitRetestTimer (id : Nat) (s : State) : exec (.awaitRetestTimer id) s = execAwaitRetestTimer id s := rfl
@[simp] theorem exec_rendezvousLatchGrant (cluster : Nat) (s : State) : exec (.rendezvousLatchGrant cluster) s = execRendezvousLatchGrant cluster s := rfl
@[simp] theorem exec_matrixEntryPlacement (cluster team tag : Nat) (s : State) : exec (.matrixEntryPlacement cluster team tag) s = execMatrixEntryPlacement cluster team tag s := rfl
@[simp] theorem exec_matrixPass (cluster : Nat) (s : State) : exec (.matrixPass cluster) s = execMatrixPass cluster s := rfl
@[simp] theorem exec_matrixStarvationPriority (cluster id : Nat) (s : State) : exec (.matrixStarvationPriority cluster id) s = execMatrixStarvationPriority cluster id s := rfl
@[simp] theorem exec_matrixCompletion (cluster id : Nat) (s : State) : exec (.matrixCompletion cluster id) s = execMatrixCompletion cluster id s := rfl
@[simp] theorem exec_matrixDrainRun (cluster : Nat) (s : State) : exec (.matrixDrainRun cluster) s = execMatrixDrainRun cluster s := rfl
@[simp] theorem exec_matrixZeroRun (cluster : Nat) (s : State) : exec (.matrixZeroRun cluster) s = execMatrixZeroRun cluster s := rfl
@[simp] theorem exec_copyCommandStart (cluster id : Nat) (s : State) : exec (.copyCommandStart cluster id) s = execCopyCommandStart cluster id s := rfl
@[simp] theorem exec_copyCommandCompletion (cluster id : Nat) (s : State) : exec (.copyCommandCompletion cluster id) s = execCopyCommandCompletion cluster id s := rfl
@[simp] theorem exec_engineStatusUpdate (id : Nat) (s : State) : exec (.engineStatusUpdate id) s = execEngineStatusUpdate id s := rfl
@[simp] theorem exec_publishExecution (id : Nat) (s : State) : exec (.publishExecution id) s = execPublishExecution id s := rfl
@[simp] theorem exec_messageInjection (dst cls : Nat) (s : State) : exec (.messageInjection dst cls) s = execMessageInjection dst cls s := rfl
@[simp] theorem exec_dataFragmentReceive (hdr : BitVec 256) (payload : List (BitVec 8)) (s : State) : exec (.dataFragmentReceive hdr payload) s = execDataFragmentReceive hdr payload s := rfl
@[simp] theorem exec_decodeDeadlineExpiry (src cls seq stripe : Nat) (s : State) : exec (.decodeDeadlineExpiry src cls seq stripe) s = execDecodeDeadlineExpiry src cls seq stripe s := rfl
@[simp] theorem exec_messageDelivery (src cls : Nat) (s : State) : exec (.messageDelivery src cls) s = execMessageDelivery src cls s := rfl
@[simp] theorem exec_ackCoalesceExpiry (src cls : Nat) (s : State) : exec (.ackCoalesceExpiry src cls) s = execAckCoalesceExpiry src cls s := rfl
@[simp] theorem exec_filterEntryExpiry (src cls seq : Nat) (s : State) : exec (.filterEntryExpiry src cls seq) s = execFilterEntryExpiry src cls seq s := rfl
@[simp] theorem exec_ackReceive (dst cls seq : Nat) (s : State) : exec (.ackReceive dst cls seq) s = execAckReceive dst cls seq s := rfl
@[simp] theorem exec_nackReceive (dst cls seq stripe : Nat) (s : State) : exec (.nackReceive dst cls seq stripe) s = execNackReceive dst cls seq stripe s := rfl
@[simp] theorem exec_busyReplyReceive (dst cls seq : Nat) (s : State) : exec (.busyReplyReceive dst cls seq) s = execBusyReplyReceive dst cls seq s := rfl
@[simp] theorem exec_busyWaitExpiry (dst cls seq : Nat) (s : State) : exec (.busyWaitExpiry dst cls seq) s = execBusyWaitExpiry dst cls seq s := rfl
@[simp] theorem exec_ackWaitExpiry (dst cls seq stripe : Nat) (s : State) : exec (.ackWaitExpiry dst cls seq stripe) s = execAckWaitExpiry dst cls seq stripe s := rfl
@[simp] theorem exec_lossNoticeReceive (src cls seq kind info : Nat) (s : State) : exec (.lossNoticeReceive src cls seq kind info) s = execLossNoticeReceive src cls seq kind info s := rfl
@[simp] theorem exec_lossNoticeRepeat (dst cls seq : Nat) (s : State) : exec (.lossNoticeRepeat dst cls seq) s = execLossNoticeRepeat dst cls seq s := rfl
@[simp] theorem exec_combineResultReceive (ctx round : Nat) (fail : Option FaultCode) (data : List (BitVec 8)) (s : State) : exec (.combineResultReceive ctx round fail data) s = execCombineResultReceive ctx round fail data s := rfl
@[simp] theorem exec_markerReceive (src cls epoch initiator dtag : Nat) (s : State) : exec (.markerReceive src cls epoch initiator dtag) s = execMarkerReceive src cls epoch initiator dtag s := rfl
@[simp] theorem exec_snapshotSweep (colour : BitVec 1) (s : State) : exec (.snapshotSweep colour) s = execSnapshotSweep colour s := rfl
@[simp] theorem exec_snapshotChipComplete (colour : BitVec 1) (s : State) : exec (.snapshotChipComplete colour) s = execSnapshotChipComplete colour s := rfl
@[simp] theorem exec_snapshotReportReceive (chip : Nat) (colour : BitVec 1) (s : State) : exec (.snapshotReportReceive chip colour) s = execSnapshotReportReceive chip colour s := rfl
@[simp] theorem exec_snapshotDropFinish (colour : BitVec 1) (s : State) : exec (.snapshotDropFinish colour) s = execSnapshotDropFinish colour s := rfl
@[simp] theorem exec_trapEntry (gid : Nat) (s : State) : exec (.trapEntry gid) s = execTrapEntry gid s := rfl
@[simp] theorem exec_contextKill (ctx : Nat) (s : State) : exec (.contextKill ctx) s = execContextKill ctx s := rfl
@[simp] theorem exec_drainLimitExpiry (ctx : Nat) (s : State) : exec (.drainLimitExpiry ctx) s = execDrainLimitExpiry ctx s := rfl
@[simp] theorem exec_forcedSave (team : Nat) (s : State) : exec (.forcedSave team) s = execForcedSave team s := rfl
@[simp] theorem exec_teamDispatch (grid team cluster : Nat) (cores : List Nat) (s : State) : exec (.teamDispatch grid team cluster cores) s = execTeamDispatch grid team cluster cores s := rfl
@[simp] theorem exec_starvationSwap (grid : Nat) (s : State) : exec (.starvationSwap grid) s = execStarvationSwap grid s := rfl
@[simp] theorem exec_nodeVisitGrid (ctx slot : Nat) (s : State) : exec (.nodeVisitGrid ctx slot) s = execNodeVisitGrid ctx slot s := rfl
@[simp] theorem exec_nodeVisitCopy (ctx slot : Nat) (s : State) : exec (.nodeVisitCopy ctx slot) s = execNodeVisitCopy ctx slot s := rfl
@[simp] theorem exec_nodeVisitColl (ctx slot : Nat) (s : State) : exec (.nodeVisitColl ctx slot) s = execNodeVisitColl ctx slot s := rfl
@[simp] theorem exec_nodeVisitCond (ctx slot : Nat) (s : State) : exec (.nodeVisitCond ctx slot) s = execNodeVisitCond ctx slot s := rfl
@[simp] theorem exec_nodeVisitWhile (ctx slot : Nat) (s : State) : exec (.nodeVisitWhile ctx slot) s = execNodeVisitWhile ctx slot s := rfl
@[simp] theorem exec_nodeVisitSnap (ctx slot : Nat) (s : State) : exec (.nodeVisitSnap ctx slot) s = execNodeVisitSnap ctx slot s := rfl
@[simp] theorem exec_nodeVisitHostsig (ctx slot : Nat) (s : State) : exec (.nodeVisitHostsig ctx slot) s = execNodeVisitHostsig ctx slot s := rfl
@[simp] theorem exec_nodeVisitEnd (ctx slot : Nat) (s : State) : exec (.nodeVisitEnd ctx slot) s = execNodeVisitEnd ctx slot s := rfl
@[simp] theorem exec_gridComplete (grid : Nat) (s : State) : exec (.gridComplete grid) s = execGridComplete grid s := rfl
@[simp] theorem exec_gridEndDigest (grid : Nat) (s : State) : exec (.gridEndDigest grid) s = execGridEndDigest grid s := rfl
@[simp] theorem exec_eventAreaWrite (ctx : Nat) (s : State) : exec (.eventAreaWrite ctx) s = execEventAreaWrite ctx s := rfl
@[simp] theorem exec_dropReportReceive (chip : Nat) (colour : BitVec 1) (s : State) : exec (.dropReportReceive chip colour) s = execDropReportReceive chip colour s := rfl
@[simp] theorem exec_contextBecomesLive (ctx q : Nat) (s : State) : exec (.contextBecomesLive ctx q) s = execContextBecomesLive ctx q s := rfl
@[simp] theorem exec_clauseCommit (s : State) : exec (.clauseCommit) s = execClauseCommit s := rfl
@[simp] theorem exec_stepNoticeReceive (chip stag n : Nat) (seqs : List Nat) (s : State) : exec (.stepNoticeReceive chip stag n seqs) s = execStepNoticeReceive chip stag n seqs s := rfl
@[simp] theorem exec_ltsSelfAdvance (s : State) : exec (.ltsSelfAdvance) s = execLtsSelfAdvance s := rfl
@[simp] theorem exec_moduleRebase (s : State) : exec (.moduleRebase) s = execModuleRebase s := rfl
@[simp] theorem exec_upgrade (chip pa : Nat) (s : State) : exec (.upgrade chip pa) s = execUpgrade chip pa s := rfl
@[simp] theorem exec_putm (chip pa : Nat) (data : List (BitVec 8)) (s : State) : exec (.putm chip pa data) s = execPutm chip pa data s := rfl
@[simp] theorem exec_puto (chip pa : Nat) (data : List (BitVec 8)) (s : State) : exec (.puto chip pa data) s = execPuto chip pa data s := rfl
@[simp] theorem exec_invalidate (pa : Nat) (s : State) : exec (.invalidate pa) s = execInvalidate pa s := rfl
@[simp] theorem exec_coherenceAck (chip pa : Nat) (dirty : Bool) (s : State) : exec (.coherenceAck chip pa dirty) s = execCoherenceAck chip pa dirty s := rfl
@[simp] theorem exec_hostAtomicCompletion (id : Nat) (st : HostStatus) (old : Nat) (s : State) : exec (.hostAtomicCompletion id st old) s = execHostAtomicCompletion id st old s := rfl
@[simp] theorem exec_hostAccessCompletion (id : Nat) (st : HostStatus) (data : List (BitVec 8)) (s : State) : exec (.hostAccessCompletion id st data) s = execHostAccessCompletion id st data s := rfl
@[simp] theorem exec_hostSnoop (hpa : Nat) (s : State) : exec (.hostSnoop hpa) s = execHostSnoop hpa s := rfl
@[simp] theorem exec_migrationPageMove (s : State) : exec (.migrationPageMove) s = execMigrationPageMove s := rfl
@[simp] theorem exec_digestCompletion (s : State) : exec (.digestCompletion) s = execDigestCompletion s := rfl
@[simp] theorem exec_mordantLakeWrite (s : State) : exec (.mordantLakeWrite) s = execMordantLakeWrite s := rfl
@[simp] theorem exec_fragmentForward (hdr : BitVec 256) (payload : List (BitVec 8)) (s : State) : exec (.fragmentForward hdr payload) s = execFragmentForward hdr payload s := rfl
@[simp] theorem exec_combineContributionReceive (ctx chip round : Nat) (agreed : CombineAgreed) (fail : Option FaultCode) (data : List (BitVec 8)) (s : State) : exec (.combineContributionReceive ctx chip round agreed fail data) s = execCombineContributionReceive ctx chip round agreed fail data s := rfl
@[simp] theorem exec_snapshotRecordInstant (s : State) : exec (.snapshotRecordInstant) s = execSnapshotRecordInstant s := rfl
@[simp] theorem exec_sealNoticeReceive (colour : BitVec 1) (s : State) : exec (.sealNoticeReceive colour) s = execSealNoticeReceive colour s := rfl
@[simp] theorem exec_failureNoticeReceive (colour : BitVec 1) (s : State) : exec (.failureNoticeReceive colour) s = execFailureNoticeReceive colour s := rfl
@[simp] theorem exec_dropNoticeReceive (colour : BitVec 1) (s : State) : exec (.dropNoticeReceive colour) s = execDropNoticeReceive colour s := rfl
@[simp] theorem exec_patrolScrub (grain : Nat) (bad : Bool) (s : State) : exec (.patrolScrub grain bad) s = execPatrolScrub grain bad s := rfl
@[simp] theorem exec_walkStartWrite (ctx slot : Nat) (value : BitVec 64) (s : State) : exec (.walkStartWrite ctx slot value) s = execWalkStartWrite ctx slot value s := rfl
@[simp] theorem exec_eventAreaRetry (ctx : Nat) (consumer : BitVec 32) (s : State) : exec (.eventAreaRetry ctx consumer) s = execEventAreaRetry ctx consumer s := rfl
@[simp] theorem exec_hostConfigWrite (reg : Nat) (value : BitVec 64) (s : State) : exec (.hostConfigWrite reg value) s = execHostConfigWrite reg value s := rfl
@[simp] theorem exec_pathTableWrite (chip word : Nat) (value : BitVec 64) (s : State) : exec (.pathTableWrite chip word value) s = execPathTableWrite chip word value s := rfl
@[simp] theorem exec_placementTableWrite (entry : Nat) (value : BitVec 32) (s : State) : exec (.placementTableWrite entry value) s = execPlacementTableWrite entry value s := rfl
@[simp] theorem exec_vfGrantWrite (vf : Nat) (value : BitVec 64) (s : State) : exec (.vfGrantWrite vf value) s = execVfGrantWrite vf value s := rfl
@[simp] theorem exec_ctxCmdDrain (ctx : Nat) (s : State) : exec (.ctxCmdDrain ctx) s = execCtxCmdDrain ctx s := rfl
@[simp] theorem exec_ctxCmdDrainNow (ctx : Nat) (s : State) : exec (.ctxCmdDrainNow ctx) s = execCtxCmdDrainNow ctx s := rfl
@[simp] theorem exec_ctxCmdKill (ctx : Nat) (s : State) : exec (.ctxCmdKill ctx) s = execCtxCmdKill ctx s := rfl
@[simp] theorem exec_ctxCmdResume (ctx : Nat) (s : State) : exec (.ctxCmdResume ctx) s = execCtxCmdResume ctx s := rfl
@[simp] theorem exec_ctxCmdEnd (ctx : Nat) (s : State) : exec (.ctxCmdEnd ctx) s = execCtxCmdEnd ctx s := rfl
@[simp] theorem exec_hostW2Read (addr len : Nat) (s : State) : exec (.hostW2Read addr len) s = execHostW2Read addr len s := rfl
@[simp] theorem exec_hostW2Write (addr : Nat) (data : List (BitVec 8)) (s : State) : exec (.hostW2Write addr data) s = execHostW2Write addr data s := rfl
@[simp] theorem exec_poisonClear (pa : BitVec 64) (s : State) : exec (.poisonClear pa) s = execPoisonClear pa s := rfl
@[simp] theorem exec_linkTraining (tier : Bool) (link : BitVec 13) (gib : Nat) (s : State) : exec (.linkTraining tier link gib) s = execLinkTraining tier link gib s := rfl
@[simp] theorem exec_boot (image : List (BitVec 8)) (version : BitVec 16) (ed mldsa : Bool) (s : State) : exec (.boot image version ed mldsa) s = execBoot image version ed mldsa s := rfl
@[simp] theorem exec_recoveryDoorbell (image : List (BitVec 8)) (version : BitVec 16) (ed mldsa : Bool) (s : State) : exec (.recoveryDoorbell image version ed mldsa) s = execRecoveryDoorbell image version ed mldsa s := rfl
@[simp] theorem exec_spdmRequest (request : List (BitVec 8)) (s : State) : exec (.spdmRequest request) s = execSpdmRequest request s := rfl
@[simp] theorem exec_powerGating (level : Nat) (s : State) : exec (.powerGating level) s = execPowerGating level s := rfl
@[simp] theorem exec_thermalThrottle (celsius : Nat) (s : State) : exec (.thermalThrottle celsius) s = execThermalThrottle celsius s := rfl
@[simp] theorem exec_thermalThrottleEnd (celsius : Nat) (s : State) : exec (.thermalThrottleEnd celsius) s = execThermalThrottleEnd celsius s := rfl
@[simp] theorem exec_thermalTrip (celsius : Nat) (s : State) : exec (.thermalTrip celsius) s = execThermalTrip celsius s := rfl
@[simp] theorem exec_correctedError (err : StorageError) (s : State) : exec (.correctedError err) s = execCorrectedError err s := rfl
@[simp] theorem exec_uncorrectableError (err : StorageError) (s : State) : exec (.uncorrectableError err) s = execUncorrectableError err s := rfl
@[simp] theorem exec_sliceRetire (slice : Nat) (s : State) : exec (.sliceRetire slice) s = execSliceRetire slice s := rfl
@[simp] theorem exec_framePoolWaitExpiry (s : State) : exec (.framePoolWaitExpiry) s = execFramePoolWaitExpiry s := rfl
@[simp] theorem exec_snapshotRestoration (colour : BitVec 1) (s : State) : exec (.snapshotRestoration colour) s = execSnapshotRestoration colour s := rfl

end Sys2Proof.Machine
end

