-- ==== Sys2Proof/Laws/Encoding.lean ====
section
/-!
SUPPORT. Every field of formats A, X, M, E, B and C is read back from the words it was packed into, and no bit of a word is dropped.
-/

namespace Sys2Proof

set_option Elab.async false

/-- The opcode of a format A word. -/
theorem FA.opOf_toWord (op : BitVec 7) (f : FA) : opOf (f.toWord op) = op := by
  simp only [opOf, FA.toWord]
  ext i hi; simp only [BitVec.getElem_extractLsb', BitVec.getLsbD_append]; interval_cases i <;> simp

/-- The fields of a format A word are the ones packed. -/
theorem FA.ofWord_toWord (op : BitVec 7) (f : FA) : FA.ofWord (f.toWord op) = f := by
  obtain ⟨t, nw, d, a, b⟩ := f
  simp only [FA.ofWord, FA.toWord, FA.mk.injEq]
  refine ⟨?_, ?_, ?_, ?_, ?_⟩ <;> (ext i hi; simp only [BitVec.getElem_extractLsb', BitVec.getLsbD_append]; interval_cases i <;> simp)

/-- Packing the fields of a word gives the word back. -/
theorem FA.toWord_ofWord (w : IWord) : (FA.ofWord w).toWord (opOf w) = w := by
  apply BitVec.eq_of_getLsbD_eq
  intro i hi
  simp only [opOf, FA.ofWord, FA.toWord, BitVec.getLsbD_append, BitVec.getLsbD_extractLsb']
  interval_cases i <;> simp

/-- The opcode of a format X word. -/
theorem FX.opOf_word0 (op : BitVec 7) (f : FX) : opOf (f.word0 op) = op := by
  simp only [opOf, FX.word0]
  ext i hi; simp only [BitVec.getElem_extractLsb', BitVec.getLsbD_append]; interval_cases i <;> simp

/-- The fields of a format X pair of words are the ones packed. -/
theorem FX.ofWords_words (op : BitVec 7) (f : FX) : FX.ofWords (f.word0 op) f.word1 = f := by
  obtain ⟨t, nw, d, a, b, m, rz, sub⟩ := f
  simp only [FX.ofWords, FX.word0, FX.word1, FX.mk.injEq]
  and_intros <;> (ext i hi; simp only [BitVec.getElem_extractLsb', BitVec.getLsbD_append]; interval_cases i <;> simp)

/-- Packing the fields of a pair of words gives the first word back. -/
theorem FX.word0_ofWords (w v : IWord) : (FX.ofWords w v).word0 (opOf w) = w := by
  apply BitVec.eq_of_getLsbD_eq
  intro i hi
  simp only [opOf, FX.ofWords, FX.word0, BitVec.getLsbD_append, BitVec.getLsbD_extractLsb']
  interval_cases i <;> simp

/-- Packing the fields of a pair of words gives the second word back. -/
theorem FX.word1_ofWords (w v : IWord) : (FX.ofWords w v).word1 = v := by
  apply BitVec.eq_of_getLsbD_eq
  intro i hi
  simp only [FX.ofWords, FX.word1, BitVec.getLsbD_append, BitVec.getLsbD_extractLsb']
  interval_cases i <;> simp

/-- The opcode of a format M word. -/
theorem FM.opOf_word0 (op : BitVec 7) (f : FM) : opOf (f.word0 op) = op := by
  simp only [opOf, FM.word0]
  ext i hi; simp only [BitVec.getElem_extractLsb', BitVec.getLsbD_append]; interval_cases i <;> simp

/-- The fields of a format M pair of words are the ones packed. -/
theorem FM.ofWords_words (op : BitVec 7) (f : FM) : FM.ofWords (f.word0 op) f.word1 = f := by
  obtain ⟨t, nw, d, h, off, scope, imm, ge, gn, gk, re, rk, hint, ord, sub⟩ := f
  simp only [FM.ofWords, FM.word0, FM.word1, FM.mk.injEq]
  and_intros <;> (ext i hi; simp only [BitVec.getElem_extractLsb', BitVec.getLsbD_append]; interval_cases i <;> simp)

/-- Packing the fields of a pair of words gives the first word back. -/
theorem FM.word0_ofWords (w v : IWord) : (FM.ofWords w v).word0 (opOf w) = w := by
  apply BitVec.eq_of_getLsbD_eq
  intro i hi
  simp only [opOf, FM.ofWords, FM.word0, BitVec.getLsbD_append, BitVec.getLsbD_extractLsb']
  interval_cases i <;> simp

/-- Packing the fields of a pair of words gives the second word back. -/
theorem FM.word1_ofWords (w v : IWord) : (FM.ofWords w v).word1 = v := by
  apply BitVec.eq_of_getLsbD_eq
  intro i hi
  simp only [FM.ofWords, FM.word1, BitVec.getLsbD_append, BitVec.getLsbD_extractLsb']
  interval_cases i <;> simp

/-- The opcode of a format E word. -/
theorem FE.opOf_word0 (op : BitVec 7) (f : FE) : opOf (f.word0 op) = op := by
  simp only [opOf, FE.word0]
  ext i hi; simp only [BitVec.getElem_extractLsb', BitVec.getLsbD_append]; interval_cases i <;> simp

/-- The fields of a format E pair of words are the ones packed. -/
theorem FE.ofWords_words (op : BitVec 7) (f : FE) : FE.ofWords (f.word0 op) f.word1 = f := by
  obtain ⟨t, nw, d, h, a, scope, imm, b, aux, sub⟩ := f
  simp only [FE.ofWords, FE.word0, FE.word1, FE.mk.injEq]
  and_intros <;> (ext i hi; simp only [BitVec.getElem_extractLsb', BitVec.getLsbD_append]; interval_cases i <;> simp)

/-- Packing the fields of a pair of words gives the first word back. -/
theorem FE.word0_ofWords (w v : IWord) : (FE.ofWords w v).word0 (opOf w) = w := by
  apply BitVec.eq_of_getLsbD_eq
  intro i hi
  simp only [opOf, FE.ofWords, FE.word0, BitVec.getLsbD_append, BitVec.getLsbD_extractLsb']
  interval_cases i <;> simp

/-- Packing the fields of a pair of words gives the second word back. -/
theorem FE.word1_ofWords (w v : IWord) : (FE.ofWords w v).word1 = v := by
  apply BitVec.eq_of_getLsbD_eq
  intro i hi
  simp only [FE.ofWords, FE.word1, BitVec.getLsbD_append, BitVec.getLsbD_extractLsb']
  interval_cases i <;> simp

/-- The opcode of a format B word. -/
theorem FB.opOf_toWord (op : BitVec 7) (f : FB) : opOf (f.toWord op) = op := by
  simp only [opOf, FB.toWord]
  ext i hi; simp only [BitVec.getElem_extractLsb', BitVec.getLsbD_append]; interval_cases i <;> simp

/-- The fields of a format B word are the ones packed. -/
theorem FB.ofWord_toWord (op : BitVec 7) (f : FB) : FB.ofWord (f.toWord op) = f := by
  obtain ⟨ge, gn, gk, off⟩ := f
  simp only [FB.ofWord, FB.toWord, FB.mk.injEq]
  refine ⟨?_, ?_, ?_, ?_⟩ <;> (ext i hi; simp only [BitVec.getElem_extractLsb', BitVec.getLsbD_append]; interval_cases i <;> simp)

/-- Packing the fields of a word gives the word back. -/
theorem FB.toWord_ofWord (w : IWord) : (FB.ofWord w).toWord (opOf w) = w := by
  apply BitVec.eq_of_getLsbD_eq
  intro i hi
  simp only [opOf, FB.ofWord, FB.toWord, BitVec.getLsbD_append, BitVec.getLsbD_extractLsb']
  interval_cases i <;> simp

/-- The opcode of a format C word. -/
theorem FC.opOf_toWord (op : BitVec 7) (f : FC) : opOf (f.toWord op) = op := by
  simp only [opOf, FC.toWord]
  ext i hi; simp only [BitVec.getElem_extractLsb', BitVec.getLsbD_append]; interval_cases i <;> simp

/-- The fields of a format C word are the ones packed. -/
theorem FC.ofWord_toWord (op : BitVec 7) (f : FC) : FC.ofWord (f.toWord op) = f := by
  obtain ⟨ge, gn, gk, sub, a, b⟩ := f
  simp only [FC.ofWord, FC.toWord, FC.mk.injEq]
  and_intros <;> (ext i hi; simp only [BitVec.getElem_extractLsb', BitVec.getLsbD_append]; interval_cases i <;> simp)

/-- Packing the fields of a word gives the word back. -/
theorem FC.toWord_ofWord (w : IWord) : (FC.ofWord w).toWord (opOf w) = w := by
  apply BitVec.eq_of_getLsbD_eq
  intro i hi
  simp only [opOf, FC.ofWord, FC.toWord, BitVec.getLsbD_append, BitVec.getLsbD_extractLsb']
  interval_cases i <;> simp

end Sys2Proof
end

