-- ==== Sys2Proof/Laws/Map.lean ====
section
/-!
SUPPORT. What the sparse maps, lane sets, lane values and element layouts give back: reads after writes, and sub-elements of a joined
register.
-/

namespace Sys2Proof

set_option Elab.async false

/-! ### Maps -/

@[simp] theorem SMap.find?_insert_same {α : Type} (m : SMap α) (k : Nat) (a : α) : (m.insert k a).find? k = some a := by
  induction m with
  | nil => simp [SMap.insert, SMap.find?]
  | cons p m ih =>
    obtain ⟨i, b⟩ := p
    by_cases h : k < i
    · simp [SMap.insert, SMap.find?, h]
    · by_cases h' : k = i
      · simp [SMap.insert, SMap.find?, h']
      · simp [SMap.insert, SMap.find?, h, h', Ne.symm h', ih]

theorem SMap.find?_insert_other {α : Type} (m : SMap α) {k j : Nat} (a : α) (h : j ≠ k) : (m.insert k a).find? j = m.find? j := by
  induction m with
  | nil => simp [SMap.insert, SMap.find?, Ne.symm h]
  | cons p m ih =>
    obtain ⟨i, b⟩ := p
    by_cases h1 : k < i
    · simp [SMap.insert, SMap.find?, h1, Ne.symm h]
    · by_cases h2 : k = i
      · subst h2
        simp [SMap.insert, SMap.find?, Ne.symm h]
      · simp [SMap.insert, SMap.find?, h1, h2, ih]

@[simp] theorem SMap.get_insert_same {α : Type} (m : SMap α) (k : Nat) (a d : α) : (m.insert k a).get k d = a := by
  simp [SMap.get]

theorem SMap.get_insert_other {α : Type} (m : SMap α) {k j : Nat} (a d : α) (h : j ≠ k) : (m.insert k a).get j d = m.get j d := by
  simp [SMap.get, SMap.find?_insert_other m a h]

@[simp] theorem SMap.find?_erase_same {α : Type} (m : SMap α) (k : Nat) : (m.erase k).find? k = none := by
  induction m with
  | nil => simp [SMap.erase, SMap.find?]
  | cons p m ih =>
    obtain ⟨i, b⟩ := p
    by_cases h : i = k <;> simp [SMap.erase, SMap.find?, h, ih]

theorem SMap.find?_erase_other {α : Type} (m : SMap α) {k j : Nat} (h : j ≠ k) : (m.erase k).find? j = m.find? j := by
  induction m with
  | nil => simp [SMap.erase]
  | cons p m ih =>
    obtain ⟨i, b⟩ := p
    by_cases h1 : i = k
    · subst h1
      simp [SMap.erase, SMap.find?, ih, Ne.symm h]
    · have e : SMap.erase ((i, b) :: m) k = (i, b) :: SMap.erase m k := by simp [SMap.erase, h1]
      simp [e, SMap.find?, ih]

@[simp] theorem SMap.get_put_same {α : Type} [DecidableEq α] (m : SMap α) (k : Nat) (a d : α) : (m.put k a d).get k d = a := by
  by_cases h : a = d <;> simp [SMap.put, SMap.get, h]

theorem SMap.get_put_other {α : Type} [DecidableEq α] (m : SMap α) {k j : Nat} (a d : α) (h : j ≠ k) :
    (m.put k a d).get j d = m.get j d := by
  by_cases h' : a = d
  · simp [SMap.put, SMap.get, h', SMap.find?_erase_other m h]
  · simp [SMap.put, SMap.get, h', SMap.find?_insert_other m a h]

@[simp] theorem SMap.find?_modify_same {α : Type} (m : SMap α) (k : Nat) (f : α → α) :
    (m.modify k f).find? k = (m.find? k).map f := by
  induction m with
  | nil => simp [SMap.modify, SMap.find?]
  | cons p m ih =>
    obtain ⟨i, b⟩ := p
    by_cases h : i = k <;> simp [SMap.modify, SMap.find?, h, ih]

theorem SMap.find?_modify_other {α : Type} (m : SMap α) {k j : Nat} (f : α → α) (h : j ≠ k) :
    (m.modify k f).find? j = m.find? j := by
  induction m with
  | nil => simp [SMap.modify]
  | cons p m ih =>
    obtain ⟨i, b⟩ := p
    by_cases h1 : i = k
    · subst h1
      simp [SMap.modify, SMap.find?, Ne.symm h]
    · have e : SMap.modify ((i, b) :: m) k f = (i, b) :: SMap.modify m k f := by simp [SMap.modify, h1]
      simp [e, SMap.find?, ih]

/-! ### Lanes -/

/-- A lane outside the 32 of a group is in no set. -/
theorem Lanes.has_lt {s : Lanes} {l : Nat} (h : s.has l = true) : l < 32 := by
  by_contra h'
  simp [Lanes.has, BitVec.getLsbD_of_ge s l (by omega)] at h

@[simp] theorem Lanes.mem_list {s : Lanes} {l : Nat} : l ∈ s.list ↔ s.has l = true := by
  constructor
  · intro h
    simpa [Lanes.has] using (List.mem_filter.mp h).2
  · intro h
    exact List.mem_filter.mpr ⟨List.mem_range.mpr (Lanes.has_lt h), h⟩

/-- The sum of distinct powers that a fold gathers has exactly the bits gathered. -/
theorem Lanes.foldl_bits (p : Nat → Bool) (n : Nat) :
    (List.range n).foldl (fun a l => if p l then a + 2 ^ l else a) 0 < 2 ^ n ∧
      ∀ l, ((List.range n).foldl (fun a l => if p l then a + 2 ^ l else a) 0).testBit l = (decide (l < n) && p l) := by
  induction n with
  | zero => simp
  | succ n ih =>
    rw [List.range_succ, List.foldl_append]
    obtain ⟨h1, h2⟩ := ih
    set v := (List.range n).foldl (fun a l => if p l then a + 2 ^ l else a) 0 with hv
    simp only [List.foldl_cons, List.foldl_nil]
    by_cases hp : p n
    · simp only [hp, if_true]
      refine ⟨by rw [pow_succ]; omega, fun l => ?_⟩
      rcases lt_trichotomy l n with hl | hl | hl
      · rw [Nat.add_comm, Nat.testBit_two_pow_add_gt hl, h2]
        simp [hl, Nat.lt_succ_of_lt hl]
      · subst hl
        rw [Nat.add_comm, Nat.testBit_two_pow_add_eq, h2]
        simp [hp]
      · have h3 : v + 2 ^ n < 2 ^ l := calc
            v + 2 ^ n < 2 ^ n + 2 ^ n := by omega
            _ = 2 ^ (n + 1) := by rw [pow_succ]; omega
            _ ≤ 2 ^ l := Nat.pow_le_pow_right (by omega) hl
        rw [Nat.testBit_lt_two_pow h3]
        have h4 : ¬ l < n + 1 := by omega
        simp [h4]
    · simp only [hp]
      refine ⟨by rw [pow_succ]; simp; omega, fun l => ?_⟩
      simp only [Bool.false_eq_true, if_false, h2]
      rcases lt_trichotomy l n with hl | hl | hl
      · simp [hl, Nat.lt_succ_of_lt hl]
      · subst hl
        simp [hp]
      · have h4 : ¬ l < n + 1 := by omega
        have h5 : ¬ l < n := by omega
        simp [h4, h5]

/-- A lane is in the set of the lanes that satisfy a test exactly when it is one of the 32 and does. -/
@[simp] theorem Lanes.has_of (p : Nat → Bool) (l : Nat) : (Lanes.of p).has l = (decide (l < 32) && p l) := by
  obtain ⟨h1, h2⟩ := Lanes.foldl_bits p 32
  rw [Lanes.has, Lanes.of, BitVec.getLsbD_ofNat, h2]
  by_cases h : l < 32 <;> simp [h]

@[simp] theorem LaneVals.at_of (f : Nat → Word) {l : Nat} (h : l < 32) : (LaneVals.of f).at l = f l := by
  simp [LaneVals.at, LaneVals.of, List.getD, h]

theorem LaneVals.at_of_ge (f : Nat → Word) {l : Nat} (h : 32 ≤ l) : (LaneVals.of f).at l = 0 := by
  simp [LaneVals.at, LaneVals.of, List.getD, h]

namespace Machine

/-! ### Layouts -/

/-- The value of each lane of the clause's bundle. -/
theorem Issue.at_lanesOf (iss : Issue) (f : Nat → Word) {l : Nat} (h : iss.lanes.has l = true) : (iss.lanesOf f).at l = f l := by
  simp [Issue.lanesOf, LaneVals.at_of _ (Lanes.has_lt h), h]

/-- Fields below 2^w, packed at multiples of w, read back. -/
theorem Layout.fold_sub (w : Nat) (f : Nat → Nat) (n : Nat) :
    (List.range n).foldl (fun a i => a + (f i % 2 ^ w) * 2 ^ (w * i)) 0 < 2 ^ (w * n) ∧
      ∀ i, ((List.range n).foldl (fun a i => a + (f i % 2 ^ w) * 2 ^ (w * i)) 0) / 2 ^ (w * i) % 2 ^ w =
        if i < n then f i % 2 ^ w else 0 := by
  induction n with
  | zero => simp
  | succ n ih =>
    rw [List.range_succ, List.foldl_append]
    obtain ⟨h1, h2⟩ := ih
    set v := (List.range n).foldl (fun a i => a + (f i % 2 ^ w) * 2 ^ (w * i)) 0 with hv
    simp only [List.foldl_cons, List.foldl_nil]
    have hm : f n % 2 ^ w < 2 ^ w := Nat.mod_lt _ (by positivity)
    have hb : v + f n % 2 ^ w * 2 ^ (w * n) < 2 ^ (w * (n + 1)) := by
      have e : 2 ^ (w * (n + 1)) = 2 ^ w * 2 ^ (w * n) := by rw [← pow_add]; ring_nf
      rw [e]
      nlinarith
    refine ⟨hb, fun i => ?_⟩
    rcases lt_trichotomy i n with hi | hi | hi
    · rw [if_pos (by omega)]
      have e : 2 ^ (w * n) = 2 ^ (w * i) * (2 ^ w * 2 ^ (w * (n - i - 1))) := by
        rw [← pow_add, ← pow_add]
        congr 1
        obtain ⟨k, rfl⟩ : ∃ k, n = i + 1 + k := ⟨n - i - 1, by omega⟩
        have : i + 1 + k - i - 1 = k := by omega
        rw [this]
        ring
      rw [e, show f n % 2 ^ w * (2 ^ (w * i) * (2 ^ w * 2 ^ (w * (n - i - 1)))) =
        2 ^ (w * i) * (2 ^ w * (f n % 2 ^ w * 2 ^ (w * (n - i - 1)))) by ring,
        Nat.add_mul_div_left _ _ (by positivity), Nat.add_mul_mod_self_left, h2, if_pos hi]
    · subst hi
      rw [if_pos (by omega), Nat.mul_comm (f i % 2 ^ w), Nat.add_mul_div_left _ _ (by positivity), Nat.div_eq_of_lt h1]
      simp
    · rw [if_neg (by omega), Nat.div_eq_of_lt]
      · simp
      · exact lt_of_lt_of_le hb (Nat.pow_le_pow_right (by omega) (Nat.mul_le_mul_left w hi))

/-- A register joined from sub-elements gives them back, each modulo 2^w (R94). -/
theorem Layout.sub_join (L : Layout) (f : Nat → Nat) (h : L.w * L.n ≤ 64) {i : Nat} (hi : i < L.n) :
    L.sub (L.join f) i = f i % 2 ^ L.w := by
  obtain ⟨h1, h2⟩ := Layout.fold_sub L.w f L.n
  have h3 := lt_of_lt_of_le h1 (Nat.pow_le_pow_right (show 0 < 2 by omega) h)
  rw [Layout.sub, Layout.join, BitVec.toNat_ofNat, Nat.mod_eq_of_lt h3, h2, if_pos hi]

/-- A joined register is zero above its last sub-element (R94). -/
theorem Layout.join_lt (L : Layout) (f : Nat → Nat) (h : L.w * L.n ≤ 64) : (L.join f).toNat < 2 ^ (L.w * L.n) := by
  obtain ⟨h1, -⟩ := Layout.fold_sub L.w f L.n
  have h3 := lt_of_lt_of_le h1 (Nat.pow_le_pow_right (show 0 < 2 by omega) h)
  rw [Layout.join, BitVec.toNat_ofNat, Nat.mod_eq_of_lt h3]
  exact h1

/-- A sub-element is below 2^w. -/
theorem Layout.sub_lt (L : Layout) (x : Word) (i : Nat) : L.sub x i < 2 ^ L.w := Nat.mod_lt _ (by positivity)

theorem intLayout_fits (t : Nat) : (intLayout t).w * (intLayout t).n ≤ 64 := by
  unfold intLayout
  split <;> simp

theorem intLayout_pos (t : Nat) : 0 < (intLayout t).w := by
  unfold intLayout
  split <;> simp

theorem floatLayout_fits (t : Nat) : (floatLayout t).w * (floatLayout t).n ≤ 64 := by
  have h : ∀ w : Nat, w * (64 / w) ≤ 64 := fun w => Nat.mul_div_le 64 w
  by_cases ht : t = 0
  · subst ht
    decide
  · simpa [floatLayout, ht] using h _

end Machine

end Sys2Proof
end

