-- ==== Sys2Proof/Laws/State.lean ====
section
/-!
SUPPORT. The fields of the state after each of its plain updates: one lemma per field and update, so that no proof unfolds a record
update.
-/

namespace Sys2Proof.Machine

/-! ### The clause in a slot -/

@[simp] theorem State.setIssue_clock (s : State) (i : Issue) : (s.setIssue i).clock = s.clock := rfl
@[simp] theorem State.setIssue_freeCtr (s : State) (i : Issue) : (s.setIssue i).freeCtr = s.freeCtr := rfl
@[simp] theorem State.setIssue_nextId (s : State) (i : Issue) : (s.setIssue i).nextId = s.nextId := rfl
@[simp] theorem State.setIssue_agenda (s : State) (i : Issue) : (s.setIssue i).agenda = s.agenda := rfl
@[simp] theorem State.setIssue_issuing (s : State) (i : Issue) : (s.setIssue i).issuing = i :: s.issuing.drop 1 := rfl
@[simp] theorem State.setIssue_groups (s : State) (i : Issue) : (s.setIssue i).groups = s.groups := rfl
@[simp] theorem State.setIssue_teams (s : State) (i : Issue) : (s.setIssue i).teams = s.teams := rfl
@[simp] theorem State.setIssue_grids (s : State) (i : Issue) : (s.setIssue i).grids = s.grids := rfl
@[simp] theorem State.setIssue_ctxs (s : State) (i : Issue) : (s.setIssue i).ctxs = s.ctxs := rfl
@[simp] theorem State.setIssue_cfg (s : State) (i : Issue) : (s.setIssue i).cfg = s.cfg := rfl
@[simp] theorem State.setIssue_flagev (s : State) (i : Issue) : (s.setIssue i).flagev = s.flagev := rfl
@[simp] theorem State.setIssue_sfu (s : State) (i : Issue) : (s.setIssue i).sfu = s.sfu := rfl
@[simp] theorem State.setIssue_deferred (s : State) (i : Issue) : (s.setIssue i).deferred = s.deferred := rfl
@[simp] theorem State.setIssue_accesses (s : State) (i : Issue) : (s.setIssue i).accesses = s.accesses := rfl
@[simp] theorem State.setIssue_mem (s : State) (i : Issue) : (s.setIssue i).mem = s.mem := rfl
@[simp] theorem State.setIssue_tags (s : State) (i : Issue) : (s.setIssue i).tags = s.tags := rfl
@[simp] theorem State.setIssue_wsMask (s : State) (i : Issue) : (s.setIssue i).wsMask = s.wsMask := rfl
@[simp] theorem State.setIssue_held (s : State) (i : Issue) : (s.setIssue i).held = s.held := rfl
@[simp] theorem State.setIssue_requested (s : State) (i : Issue) : (s.setIssue i).requested = s.requested := rfl
@[simp] theorem State.setIssue_overtaken (s : State) (i : Issue) : (s.setIssue i).overtaken = s.overtaken := rfl
@[simp] theorem State.setIssue_putting (s : State) (i : Issue) : (s.setIssue i).putting = s.putting := rfl
@[simp] theorem State.setIssue_sectors (s : State) (i : Issue) : (s.setIssue i).sectors = s.sectors := rfl
@[simp] theorem State.setIssue_lines (s : State) (i : Issue) : (s.setIssue i).lines = s.lines := rfl
@[simp] theorem State.setIssue_lts (s : State) (i : Issue) : (s.setIssue i).lts = s.lts := rfl
@[simp] theorem State.setIssue_ltsBase (s : State) (i : Issue) : (s.setIssue i).ltsBase = s.ltsBase := rfl
@[simp] theorem State.setIssue_floor (s : State) (i : Issue) : (s.setIssue i).floor = s.floor := rfl
@[simp] theorem State.setIssue_era (s : State) (i : Issue) : (s.setIssue i).era = s.era := rfl
@[simp] theorem State.setIssue_effectiveCfg (s : State) (i : Issue) : (s.setIssue i).effectiveCfg = s.effectiveCfg := rfl
@[simp] theorem State.setIssue_coreTlb (s : State) (i : Issue) : (s.setIssue i).coreTlb = s.coreTlb := rfl
@[simp] theorem State.setIssue_clusterTlb (s : State) (i : Issue) : (s.setIssue i).clusterTlb = s.clusterTlb := rfl
@[simp] theorem State.setIssue_sides (s : State) (i : Issue) : (s.setIssue i).sides = s.sides := rfl
@[simp] theorem State.setIssue_pageOps (s : State) (i : Issue) : (s.setIssue i).pageOps = s.pageOps := rfl
@[simp] theorem State.setIssue_replicas (s : State) (i : Issue) : (s.setIssue i).replicas = s.replicas := rfl
@[simp] theorem State.setIssue_replicaHere (s : State) (i : Issue) : (s.setIssue i).replicaHere = s.replicaHere := rfl
@[simp] theorem State.setIssue_replicaCopies (s : State) (i : Issue) : (s.setIssue i).replicaCopies = s.replicaCopies := rfl
@[simp] theorem State.setIssue_replicaStores (s : State) (i : Issue) : (s.setIssue i).replicaStores = s.replicaStores := rfl
@[simp] theorem State.setIssue_txns (s : State) (i : Issue) : (s.setIssue i).txns = s.txns := rfl
@[simp] theorem State.setIssue_waitingReqs (s : State) (i : Issue) : (s.setIssue i).waitingReqs = s.waitingReqs := rfl
@[simp] theorem State.setIssue_remoteOps (s : State) (i : Issue) : (s.setIssue i).remoteOps = s.remoteOps := rfl
@[simp] theorem State.setIssue_halves (s : State) (i : Issue) : (s.setIssue i).halves = s.halves := rfl
@[simp] theorem State.setIssue_granted (s : State) (i : Issue) : (s.setIssue i).granted = s.granted := rfl
@[simp] theorem State.setIssue_hostClean (s : State) (i : Issue) : (s.setIssue i).hostClean = s.hostClean := rfl
@[simp] theorem State.setIssue_recalled (s : State) (i : Issue) : (s.setIssue i).recalled = s.recalled := rfl
@[simp] theorem State.setIssue_clearing (s : State) (i : Issue) : (s.setIssue i).clearing = s.clearing := rfl
@[simp] theorem State.setIssue_icache (s : State) (i : Issue) : (s.setIssue i).icache = s.icache := rfl
@[simp] theorem State.setIssue_engineGrains (s : State) (i : Issue) : (s.setIssue i).engineGrains = s.engineGrains := rfl
@[simp] theorem State.setIssue_atomev (s : State) (i : Issue) : (s.setIssue i).atomev = s.atomev := rfl
@[simp] theorem State.setIssue_chip (s : State) (i : Issue) : (s.setIssue i).chip = s.chip := rfl
@[simp] theorem State.setIssue_epoch (s : State) (i : Issue) : (s.setIssue i).epoch = s.epoch := rfl
@[simp] theorem State.setIssue_snaps (s : State) (i : Issue) : (s.setIssue i).snaps = s.snaps := rfl
@[simp] theorem State.setIssue_heldMsgs (s : State) (i : Issue) : (s.setIssue i).heldMsgs = s.heldMsgs := rfl
@[simp] theorem State.setIssue_hostLines (s : State) (i : Issue) : (s.setIssue i).hostLines = s.hostLines := rfl
@[simp] theorem State.setIssue_engLines (s : State) (i : Issue) : (s.setIssue i).engLines = s.engLines := rfl
@[simp] theorem State.setIssue_engAsked (s : State) (i : Issue) : (s.setIssue i).engAsked = s.engAsked := rfl
@[simp] theorem State.setIssue_engAnswers (s : State) (i : Issue) : (s.setIssue i).engAnswers = s.engAnswers := rfl
@[simp] theorem State.setIssue_readWaits (s : State) (i : Issue) : (s.setIssue i).readWaits = s.readWaits := rfl
@[simp] theorem State.setIssue_posted (s : State) (i : Issue) : (s.setIssue i).posted = s.posted := rfl
@[simp] theorem State.setIssue_works (s : State) (i : Issue) : (s.setIssue i).works = s.works := rfl
@[simp] theorem State.setIssue_latches (s : State) (i : Issue) : (s.setIssue i).latches = s.latches := rfl
@[simp] theorem State.setIssue_latchWaits (s : State) (i : Issue) : (s.setIssue i).latchWaits = s.latchWaits := rfl
@[simp] theorem State.setIssue_mcks (s : State) (i : Issue) : (s.setIssue i).mcks = s.mcks := rfl
@[simp] theorem State.setIssue_injMat (s : State) (i : Issue) : (s.setIssue i).injMat = s.injMat := rfl
@[simp] theorem State.setIssue_commands (s : State) (i : Issue) : (s.setIssue i).commands = s.commands := rfl
@[simp] theorem State.setIssue_sendQ (s : State) (i : Issue) : (s.setIssue i).sendQ = s.sendQ := rfl
@[simp] theorem State.setIssue_sendSeq (s : State) (i : Issue) : (s.setIssue i).sendSeq = s.sendSeq := rfl
@[simp] theorem State.setIssue_kept (s : State) (i : Issue) : (s.setIssue i).kept = s.kept := rfl
@[simp] theorem State.setIssue_recv (s : State) (i : Issue) : (s.setIssue i).recv = s.recv := rfl
@[simp] theorem State.setIssue_slots (s : State) (i : Issue) : (s.setIssue i).slots = s.slots := rfl
@[simp] theorem State.setIssue_filter (s : State) (i : Issue) : (s.setIssue i).filter = s.filter := rfl
@[simp] theorem State.setIssue_lostSends (s : State) (i : Issue) : (s.setIssue i).lostSends = s.lostSends := rfl
@[simp] theorem State.setIssue_fabCount (s : State) (i : Issue) : (s.setIssue i).fabCount = s.fabCount := rfl
@[simp] theorem State.setIssue_path (s : State) (i : Issue) : (s.setIssue i).path = s.path := rfl
@[simp] theorem State.setIssue_place (s : State) (i : Issue) : (s.setIssue i).place = s.place := rfl
@[simp] theorem State.setIssue_combines (s : State) (i : Issue) : (s.setIssue i).combines = s.combines := rfl
@[simp] theorem State.setIssue_injFrag (s : State) (i : Issue) : (s.setIssue i).injFrag = s.injFrag := rfl
@[simp] theorem State.setIssue_stepNotices (s : State) (i : Issue) : (s.setIssue i).stepNotices = s.stepNotices := rfl
@[simp] theorem State.setIssue_pageUse (s : State) (i : Issue) : (s.setIssue i).pageUse = s.pageUse := rfl
@[simp] theorem State.setIssue_tier (s : State) (i : Issue) : (s.setIssue i).tier = s.tier := rfl
@[simp] theorem State.setIssue_tierTags (s : State) (i : Issue) : (s.setIssue i).tierTags = s.tierTags := rfl
@[simp] theorem State.setIssue_images (s : State) (i : Issue) : (s.setIssue i).images = s.images := rfl
@[simp] theorem State.setIssue_snapSaved (s : State) (i : Issue) : (s.setIssue i).snapSaved = s.snapSaved := rfl
@[simp] theorem State.setIssue_grants (s : State) (i : Issue) : (s.setIssue i).grants = s.grants := rfl
@[simp] theorem State.setIssue_wayFaults (s : State) (i : Issue) : (s.setIssue i).wayFaults = s.wayFaults := rfl
@[simp] theorem State.setIssue_waysOff (s : State) (i : Issue) : (s.setIssue i).waysOff = s.waysOff := rfl
@[simp] theorem State.setIssue_slicesOff (s : State) (i : Issue) : (s.setIssue i).slicesOff = s.slicesOff := rfl
@[simp] theorem State.setIssue_errorLog (s : State) (i : Issue) : (s.setIssue i).errorLog = s.errorLog := rfl
@[simp] theorem State.setIssue_logLost (s : State) (i : Issue) : (s.setIssue i).logLost = s.logLost := rfl
@[simp] theorem State.setIssue_fwVersion (s : State) (i : Issue) : (s.setIssue i).fwVersion = s.fwVersion := rfl
@[simp] theorem State.setIssue_recovery (s : State) (i : Issue) : (s.setIssue i).recovery = s.recovery := rfl
@[simp] theorem State.setIssue_inReset (s : State) (i : Issue) : (s.setIssue i).inReset = s.inReset := rfl
@[simp] theorem State.setIssue_gate (s : State) (i : Issue) : (s.setIssue i).gate = s.gate := rfl
@[simp] theorem State.setIssue_outbox (s : State) (i : Issue) : (s.setIssue i).outbox = s.outbox := rfl

/-! ### Groups, teams, grids, contexts -/

@[simp] theorem State.setGroup_clock (s : State) (k : Nat) (g : Group) : (s.setGroup k g).clock = s.clock := rfl
@[simp] theorem State.setGroup_freeCtr (s : State) (k : Nat) (g : Group) : (s.setGroup k g).freeCtr = s.freeCtr := rfl
@[simp] theorem State.setGroup_nextId (s : State) (k : Nat) (g : Group) : (s.setGroup k g).nextId = s.nextId := rfl
@[simp] theorem State.setGroup_agenda (s : State) (k : Nat) (g : Group) : (s.setGroup k g).agenda = s.agenda := rfl
@[simp] theorem State.setGroup_issuing (s : State) (k : Nat) (g : Group) : (s.setGroup k g).issuing = s.issuing := rfl
@[simp] theorem State.setGroup_groups (s : State) (k : Nat) (g : Group) : (s.setGroup k g).groups = s.groups.insert k g := rfl
@[simp] theorem State.setGroup_teams (s : State) (k : Nat) (g : Group) : (s.setGroup k g).teams = s.teams := rfl
@[simp] theorem State.setGroup_grids (s : State) (k : Nat) (g : Group) : (s.setGroup k g).grids = s.grids := rfl
@[simp] theorem State.setGroup_ctxs (s : State) (k : Nat) (g : Group) : (s.setGroup k g).ctxs = s.ctxs := rfl
@[simp] theorem State.setGroup_cfg (s : State) (k : Nat) (g : Group) : (s.setGroup k g).cfg = s.cfg := rfl
@[simp] theorem State.setGroup_flagev (s : State) (k : Nat) (g : Group) : (s.setGroup k g).flagev = s.flagev := rfl
@[simp] theorem State.setGroup_sfu (s : State) (k : Nat) (g : Group) : (s.setGroup k g).sfu = s.sfu := rfl
@[simp] theorem State.setGroup_deferred (s : State) (k : Nat) (g : Group) : (s.setGroup k g).deferred = s.deferred := rfl
@[simp] theorem State.setGroup_accesses (s : State) (k : Nat) (g : Group) : (s.setGroup k g).accesses = s.accesses := rfl
@[simp] theorem State.setGroup_mem (s : State) (k : Nat) (g : Group) : (s.setGroup k g).mem = s.mem := rfl
@[simp] theorem State.setGroup_tags (s : State) (k : Nat) (g : Group) : (s.setGroup k g).tags = s.tags := rfl
@[simp] theorem State.setGroup_wsMask (s : State) (k : Nat) (g : Group) : (s.setGroup k g).wsMask = s.wsMask := rfl
@[simp] theorem State.setGroup_held (s : State) (k : Nat) (g : Group) : (s.setGroup k g).held = s.held := rfl
@[simp] theorem State.setGroup_requested (s : State) (k : Nat) (g : Group) : (s.setGroup k g).requested = s.requested := rfl
@[simp] theorem State.setGroup_overtaken (s : State) (k : Nat) (g : Group) : (s.setGroup k g).overtaken = s.overtaken := rfl
@[simp] theorem State.setGroup_putting (s : State) (k : Nat) (g : Group) : (s.setGroup k g).putting = s.putting := rfl
@[simp] theorem State.setGroup_sectors (s : State) (k : Nat) (g : Group) : (s.setGroup k g).sectors = s.sectors := rfl
@[simp] theorem State.setGroup_lines (s : State) (k : Nat) (g : Group) : (s.setGroup k g).lines = s.lines := rfl
@[simp] theorem State.setGroup_lts (s : State) (k : Nat) (g : Group) : (s.setGroup k g).lts = s.lts := rfl
@[simp] theorem State.setGroup_ltsBase (s : State) (k : Nat) (g : Group) : (s.setGroup k g).ltsBase = s.ltsBase := rfl
@[simp] theorem State.setGroup_floor (s : State) (k : Nat) (g : Group) : (s.setGroup k g).floor = s.floor := rfl
@[simp] theorem State.setGroup_era (s : State) (k : Nat) (g : Group) : (s.setGroup k g).era = s.era := rfl
@[simp] theorem State.setGroup_effectiveCfg (s : State) (k : Nat) (g : Group) : (s.setGroup k g).effectiveCfg = s.effectiveCfg := rfl
@[simp] theorem State.setGroup_coreTlb (s : State) (k : Nat) (g : Group) : (s.setGroup k g).coreTlb = s.coreTlb := rfl
@[simp] theorem State.setGroup_clusterTlb (s : State) (k : Nat) (g : Group) : (s.setGroup k g).clusterTlb = s.clusterTlb := rfl
@[simp] theorem State.setGroup_sides (s : State) (k : Nat) (g : Group) : (s.setGroup k g).sides = s.sides := rfl
@[simp] theorem State.setGroup_pageOps (s : State) (k : Nat) (g : Group) : (s.setGroup k g).pageOps = s.pageOps := rfl
@[simp] theorem State.setGroup_replicas (s : State) (k : Nat) (g : Group) : (s.setGroup k g).replicas = s.replicas := rfl
@[simp] theorem State.setGroup_replicaHere (s : State) (k : Nat) (g : Group) : (s.setGroup k g).replicaHere = s.replicaHere := rfl
@[simp] theorem State.setGroup_replicaCopies (s : State) (k : Nat) (g : Group) : (s.setGroup k g).replicaCopies = s.replicaCopies := rfl
@[simp] theorem State.setGroup_replicaStores (s : State) (k : Nat) (g : Group) : (s.setGroup k g).replicaStores = s.replicaStores := rfl
@[simp] theorem State.setGroup_txns (s : State) (k : Nat) (g : Group) : (s.setGroup k g).txns = s.txns := rfl
@[simp] theorem State.setGroup_waitingReqs (s : State) (k : Nat) (g : Group) : (s.setGroup k g).waitingReqs = s.waitingReqs := rfl
@[simp] theorem State.setGroup_remoteOps (s : State) (k : Nat) (g : Group) : (s.setGroup k g).remoteOps = s.remoteOps := rfl
@[simp] theorem State.setGroup_halves (s : State) (k : Nat) (g : Group) : (s.setGroup k g).halves = s.halves := rfl
@[simp] theorem State.setGroup_granted (s : State) (k : Nat) (g : Group) : (s.setGroup k g).granted = s.granted := rfl
@[simp] theorem State.setGroup_hostClean (s : State) (k : Nat) (g : Group) : (s.setGroup k g).hostClean = s.hostClean := rfl
@[simp] theorem State.setGroup_recalled (s : State) (k : Nat) (g : Group) : (s.setGroup k g).recalled = s.recalled := rfl
@[simp] theorem State.setGroup_clearing (s : State) (k : Nat) (g : Group) : (s.setGroup k g).clearing = s.clearing := rfl
@[simp] theorem State.setGroup_icache (s : State) (k : Nat) (g : Group) : (s.setGroup k g).icache = s.icache := rfl
@[simp] theorem State.setGroup_engineGrains (s : State) (k : Nat) (g : Group) : (s.setGroup k g).engineGrains = s.engineGrains := rfl
@[simp] theorem State.setGroup_atomev (s : State) (k : Nat) (g : Group) : (s.setGroup k g).atomev = s.atomev := rfl
@[simp] theorem State.setGroup_chip (s : State) (k : Nat) (g : Group) : (s.setGroup k g).chip = s.chip := rfl
@[simp] theorem State.setGroup_epoch (s : State) (k : Nat) (g : Group) : (s.setGroup k g).epoch = s.epoch := rfl
@[simp] theorem State.setGroup_snaps (s : State) (k : Nat) (g : Group) : (s.setGroup k g).snaps = s.snaps := rfl
@[simp] theorem State.setGroup_heldMsgs (s : State) (k : Nat) (g : Group) : (s.setGroup k g).heldMsgs = s.heldMsgs := rfl
@[simp] theorem State.setGroup_hostLines (s : State) (k : Nat) (g : Group) : (s.setGroup k g).hostLines = s.hostLines := rfl
@[simp] theorem State.setGroup_engLines (s : State) (k : Nat) (g : Group) : (s.setGroup k g).engLines = s.engLines := rfl
@[simp] theorem State.setGroup_engAsked (s : State) (k : Nat) (g : Group) : (s.setGroup k g).engAsked = s.engAsked := rfl
@[simp] theorem State.setGroup_engAnswers (s : State) (k : Nat) (g : Group) : (s.setGroup k g).engAnswers = s.engAnswers := rfl
@[simp] theorem State.setGroup_readWaits (s : State) (k : Nat) (g : Group) : (s.setGroup k g).readWaits = s.readWaits := rfl
@[simp] theorem State.setGroup_posted (s : State) (k : Nat) (g : Group) : (s.setGroup k g).posted = s.posted := rfl
@[simp] theorem State.setGroup_works (s : State) (k : Nat) (g : Group) : (s.setGroup k g).works = s.works := rfl
@[simp] theorem State.setGroup_latches (s : State) (k : Nat) (g : Group) : (s.setGroup k g).latches = s.latches := rfl
@[simp] theorem State.setGroup_latchWaits (s : State) (k : Nat) (g : Group) : (s.setGroup k g).latchWaits = s.latchWaits := rfl
@[simp] theorem State.setGroup_mcks (s : State) (k : Nat) (g : Group) : (s.setGroup k g).mcks = s.mcks := rfl
@[simp] theorem State.setGroup_injMat (s : State) (k : Nat) (g : Group) : (s.setGroup k g).injMat = s.injMat := rfl
@[simp] theorem State.setGroup_commands (s : State) (k : Nat) (g : Group) : (s.setGroup k g).commands = s.commands := rfl
@[simp] theorem State.setGroup_sendQ (s : State) (k : Nat) (g : Group) : (s.setGroup k g).sendQ = s.sendQ := rfl
@[simp] theorem State.setGroup_sendSeq (s : State) (k : Nat) (g : Group) : (s.setGroup k g).sendSeq = s.sendSeq := rfl
@[simp] theorem State.setGroup_kept (s : State) (k : Nat) (g : Group) : (s.setGroup k g).kept = s.kept := rfl
@[simp] theorem State.setGroup_recv (s : State) (k : Nat) (g : Group) : (s.setGroup k g).recv = s.recv := rfl
@[simp] theorem State.setGroup_slots (s : State) (k : Nat) (g : Group) : (s.setGroup k g).slots = s.slots := rfl
@[simp] theorem State.setGroup_filter (s : State) (k : Nat) (g : Group) : (s.setGroup k g).filter = s.filter := rfl
@[simp] theorem State.setGroup_lostSends (s : State) (k : Nat) (g : Group) : (s.setGroup k g).lostSends = s.lostSends := rfl
@[simp] theorem State.setGroup_fabCount (s : State) (k : Nat) (g : Group) : (s.setGroup k g).fabCount = s.fabCount := rfl
@[simp] theorem State.setGroup_path (s : State) (k : Nat) (g : Group) : (s.setGroup k g).path = s.path := rfl
@[simp] theorem State.setGroup_place (s : State) (k : Nat) (g : Group) : (s.setGroup k g).place = s.place := rfl
@[simp] theorem State.setGroup_combines (s : State) (k : Nat) (g : Group) : (s.setGroup k g).combines = s.combines := rfl
@[simp] theorem State.setGroup_injFrag (s : State) (k : Nat) (g : Group) : (s.setGroup k g).injFrag = s.injFrag := rfl
@[simp] theorem State.setGroup_stepNotices (s : State) (k : Nat) (g : Group) : (s.setGroup k g).stepNotices = s.stepNotices := rfl
@[simp] theorem State.setGroup_pageUse (s : State) (k : Nat) (g : Group) : (s.setGroup k g).pageUse = s.pageUse := rfl
@[simp] theorem State.setGroup_tier (s : State) (k : Nat) (g : Group) : (s.setGroup k g).tier = s.tier := rfl
@[simp] theorem State.setGroup_tierTags (s : State) (k : Nat) (g : Group) : (s.setGroup k g).tierTags = s.tierTags := rfl
@[simp] theorem State.setGroup_images (s : State) (k : Nat) (g : Group) : (s.setGroup k g).images = s.images := rfl
@[simp] theorem State.setGroup_snapSaved (s : State) (k : Nat) (g : Group) : (s.setGroup k g).snapSaved = s.snapSaved := rfl
@[simp] theorem State.setGroup_grants (s : State) (k : Nat) (g : Group) : (s.setGroup k g).grants = s.grants := rfl
@[simp] theorem State.setGroup_wayFaults (s : State) (k : Nat) (g : Group) : (s.setGroup k g).wayFaults = s.wayFaults := rfl
@[simp] theorem State.setGroup_waysOff (s : State) (k : Nat) (g : Group) : (s.setGroup k g).waysOff = s.waysOff := rfl
@[simp] theorem State.setGroup_slicesOff (s : State) (k : Nat) (g : Group) : (s.setGroup k g).slicesOff = s.slicesOff := rfl
@[simp] theorem State.setGroup_errorLog (s : State) (k : Nat) (g : Group) : (s.setGroup k g).errorLog = s.errorLog := rfl
@[simp] theorem State.setGroup_logLost (s : State) (k : Nat) (g : Group) : (s.setGroup k g).logLost = s.logLost := rfl
@[simp] theorem State.setGroup_fwVersion (s : State) (k : Nat) (g : Group) : (s.setGroup k g).fwVersion = s.fwVersion := rfl
@[simp] theorem State.setGroup_recovery (s : State) (k : Nat) (g : Group) : (s.setGroup k g).recovery = s.recovery := rfl
@[simp] theorem State.setGroup_inReset (s : State) (k : Nat) (g : Group) : (s.setGroup k g).inReset = s.inReset := rfl
@[simp] theorem State.setGroup_gate (s : State) (k : Nat) (g : Group) : (s.setGroup k g).gate = s.gate := rfl
@[simp] theorem State.setGroup_outbox (s : State) (k : Nat) (g : Group) : (s.setGroup k g).outbox = s.outbox := rfl
@[simp] theorem State.modGroup_clock (s : State) (k : Nat) (f : Group → Group) : (s.modGroup k f).clock = s.clock := rfl
@[simp] theorem State.modGroup_freeCtr (s : State) (k : Nat) (f : Group → Group) : (s.modGroup k f).freeCtr = s.freeCtr := rfl
@[simp] theorem State.modGroup_nextId (s : State) (k : Nat) (f : Group → Group) : (s.modGroup k f).nextId = s.nextId := rfl
@[simp] theorem State.modGroup_agenda (s : State) (k : Nat) (f : Group → Group) : (s.modGroup k f).agenda = s.agenda := rfl
@[simp] theorem State.modGroup_issuing (s : State) (k : Nat) (f : Group → Group) : (s.modGroup k f).issuing = s.issuing := rfl
@[simp] theorem State.modGroup_groups (s : State) (k : Nat) (f : Group → Group) : (s.modGroup k f).groups = s.groups.modify k f := rfl
@[simp] theorem State.modGroup_teams (s : State) (k : Nat) (f : Group → Group) : (s.modGroup k f).teams = s.teams := rfl
@[simp] theorem State.modGroup_grids (s : State) (k : Nat) (f : Group → Group) : (s.modGroup k f).grids = s.grids := rfl
@[simp] theorem State.modGroup_ctxs (s : State) (k : Nat) (f : Group → Group) : (s.modGroup k f).ctxs = s.ctxs := rfl
@[simp] theorem State.modGroup_cfg (s : State) (k : Nat) (f : Group → Group) : (s.modGroup k f).cfg = s.cfg := rfl
@[simp] theorem State.modGroup_flagev (s : State) (k : Nat) (f : Group → Group) : (s.modGroup k f).flagev = s.flagev := rfl
@[simp] theorem State.modGroup_sfu (s : State) (k : Nat) (f : Group → Group) : (s.modGroup k f).sfu = s.sfu := rfl
@[simp] theorem State.modGroup_deferred (s : State) (k : Nat) (f : Group → Group) : (s.modGroup k f).deferred = s.deferred := rfl
@[simp] theorem State.modGroup_accesses (s : State) (k : Nat) (f : Group → Group) : (s.modGroup k f).accesses = s.accesses := rfl
@[simp] theorem State.modGroup_mem (s : State) (k : Nat) (f : Group → Group) : (s.modGroup k f).mem = s.mem := rfl
@[simp] theorem State.modGroup_tags (s : State) (k : Nat) (f : Group → Group) : (s.modGroup k f).tags = s.tags := rfl
@[simp] theorem State.modGroup_wsMask (s : State) (k : Nat) (f : Group → Group) : (s.modGroup k f).wsMask = s.wsMask := rfl
@[simp] theorem State.modGroup_held (s : State) (k : Nat) (f : Group → Group) : (s.modGroup k f).held = s.held := rfl
@[simp] theorem State.modGroup_requested (s : State) (k : Nat) (f : Group → Group) : (s.modGroup k f).requested = s.requested := rfl
@[simp] theorem State.modGroup_overtaken (s : State) (k : Nat) (f : Group → Group) : (s.modGroup k f).overtaken = s.overtaken := rfl
@[simp] theorem State.modGroup_putting (s : State) (k : Nat) (f : Group → Group) : (s.modGroup k f).putting = s.putting := rfl
@[simp] theorem State.modGroup_sectors (s : State) (k : Nat) (f : Group → Group) : (s.modGroup k f).sectors = s.sectors := rfl
@[simp] theorem State.modGroup_lines (s : State) (k : Nat) (f : Group → Group) : (s.modGroup k f).lines = s.lines := rfl
@[simp] theorem State.modGroup_lts (s : State) (k : Nat) (f : Group → Group) : (s.modGroup k f).lts = s.lts := rfl
@[simp] theorem State.modGroup_ltsBase (s : State) (k : Nat) (f : Group → Group) : (s.modGroup k f).ltsBase = s.ltsBase := rfl
@[simp] theorem State.modGroup_floor (s : State) (k : Nat) (f : Group → Group) : (s.modGroup k f).floor = s.floor := rfl
@[simp] theorem State.modGroup_era (s : State) (k : Nat) (f : Group → Group) : (s.modGroup k f).era = s.era := rfl
@[simp] theorem State.modGroup_effectiveCfg (s : State) (k : Nat) (f : Group → Group) : (s.modGroup k f).effectiveCfg = s.effectiveCfg := rfl
@[simp] theorem State.modGroup_coreTlb (s : State) (k : Nat) (f : Group → Group) : (s.modGroup k f).coreTlb = s.coreTlb := rfl
@[simp] theorem State.modGroup_clusterTlb (s : State) (k : Nat) (f : Group → Group) : (s.modGroup k f).clusterTlb = s.clusterTlb := rfl
@[simp] theorem State.modGroup_sides (s : State) (k : Nat) (f : Group → Group) : (s.modGroup k f).sides = s.sides := rfl
@[simp] theorem State.modGroup_pageOps (s : State) (k : Nat) (f : Group → Group) : (s.modGroup k f).pageOps = s.pageOps := rfl
@[simp] theorem State.modGroup_replicas (s : State) (k : Nat) (f : Group → Group) : (s.modGroup k f).replicas = s.replicas := rfl
@[simp] theorem State.modGroup_replicaHere (s : State) (k : Nat) (f : Group → Group) : (s.modGroup k f).replicaHere = s.replicaHere := rfl
@[simp] theorem State.modGroup_replicaCopies (s : State) (k : Nat) (f : Group → Group) : (s.modGroup k f).replicaCopies = s.replicaCopies := rfl
@[simp] theorem State.modGroup_replicaStores (s : State) (k : Nat) (f : Group → Group) : (s.modGroup k f).replicaStores = s.replicaStores := rfl
@[simp] theorem State.modGroup_txns (s : State) (k : Nat) (f : Group → Group) : (s.modGroup k f).txns = s.txns := rfl
@[simp] theorem State.modGroup_waitingReqs (s : State) (k : Nat) (f : Group → Group) : (s.modGroup k f).waitingReqs = s.waitingReqs := rfl
@[simp] theorem State.modGroup_remoteOps (s : State) (k : Nat) (f : Group → Group) : (s.modGroup k f).remoteOps = s.remoteOps := rfl
@[simp] theorem State.modGroup_halves (s : State) (k : Nat) (f : Group → Group) : (s.modGroup k f).halves = s.halves := rfl
@[simp] theorem State.modGroup_granted (s : State) (k : Nat) (f : Group → Group) : (s.modGroup k f).granted = s.granted := rfl
@[simp] theorem State.modGroup_hostClean (s : State) (k : Nat) (f : Group → Group) : (s.modGroup k f).hostClean = s.hostClean := rfl
@[simp] theorem State.modGroup_recalled (s : State) (k : Nat) (f : Group → Group) : (s.modGroup k f).recalled = s.recalled := rfl
@[simp] theorem State.modGroup_clearing (s : State) (k : Nat) (f : Group → Group) : (s.modGroup k f).clearing = s.clearing := rfl
@[simp] theorem State.modGroup_icache (s : State) (k : Nat) (f : Group → Group) : (s.modGroup k f).icache = s.icache := rfl
@[simp] theorem State.modGroup_engineGrains (s : State) (k : Nat) (f : Group → Group) : (s.modGroup k f).engineGrains = s.engineGrains := rfl
@[simp] theorem State.modGroup_atomev (s : State) (k : Nat) (f : Group → Group) : (s.modGroup k f).atomev = s.atomev := rfl
@[simp] theorem State.modGroup_chip (s : State) (k : Nat) (f : Group → Group) : (s.modGroup k f).chip = s.chip := rfl
@[simp] theorem State.modGroup_epoch (s : State) (k : Nat) (f : Group → Group) : (s.modGroup k f).epoch = s.epoch := rfl
@[simp] theorem State.modGroup_snaps (s : State) (k : Nat) (f : Group → Group) : (s.modGroup k f).snaps = s.snaps := rfl
@[simp] theorem State.modGroup_heldMsgs (s : State) (k : Nat) (f : Group → Group) : (s.modGroup k f).heldMsgs = s.heldMsgs := rfl
@[simp] theorem State.modGroup_hostLines (s : State) (k : Nat) (f : Group → Group) : (s.modGroup k f).hostLines = s.hostLines := rfl
@[simp] theorem State.modGroup_engLines (s : State) (k : Nat) (f : Group → Group) : (s.modGroup k f).engLines = s.engLines := rfl
@[simp] theorem State.modGroup_engAsked (s : State) (k : Nat) (f : Group → Group) : (s.modGroup k f).engAsked = s.engAsked := rfl
@[simp] theorem State.modGroup_engAnswers (s : State) (k : Nat) (f : Group → Group) : (s.modGroup k f).engAnswers = s.engAnswers := rfl
@[simp] theorem State.modGroup_readWaits (s : State) (k : Nat) (f : Group → Group) : (s.modGroup k f).readWaits = s.readWaits := rfl
@[simp] theorem State.modGroup_posted (s : State) (k : Nat) (f : Group → Group) : (s.modGroup k f).posted = s.posted := rfl
@[simp] theorem State.modGroup_works (s : State) (k : Nat) (f : Group → Group) : (s.modGroup k f).works = s.works := rfl
@[simp] theorem State.modGroup_latches (s : State) (k : Nat) (f : Group → Group) : (s.modGroup k f).latches = s.latches := rfl
@[simp] theorem State.modGroup_latchWaits (s : State) (k : Nat) (f : Group → Group) : (s.modGroup k f).latchWaits = s.latchWaits := rfl
@[simp] theorem State.modGroup_mcks (s : State) (k : Nat) (f : Group → Group) : (s.modGroup k f).mcks = s.mcks := rfl
@[simp] theorem State.modGroup_injMat (s : State) (k : Nat) (f : Group → Group) : (s.modGroup k f).injMat = s.injMat := rfl
@[simp] theorem State.modGroup_commands (s : State) (k : Nat) (f : Group → Group) : (s.modGroup k f).commands = s.commands := rfl
@[simp] theorem State.modGroup_sendQ (s : State) (k : Nat) (f : Group → Group) : (s.modGroup k f).sendQ = s.sendQ := rfl
@[simp] theorem State.modGroup_sendSeq (s : State) (k : Nat) (f : Group → Group) : (s.modGroup k f).sendSeq = s.sendSeq := rfl
@[simp] theorem State.modGroup_kept (s : State) (k : Nat) (f : Group → Group) : (s.modGroup k f).kept = s.kept := rfl
@[simp] theorem State.modGroup_recv (s : State) (k : Nat) (f : Group → Group) : (s.modGroup k f).recv = s.recv := rfl
@[simp] theorem State.modGroup_slots (s : State) (k : Nat) (f : Group → Group) : (s.modGroup k f).slots = s.slots := rfl
@[simp] theorem State.modGroup_filter (s : State) (k : Nat) (f : Group → Group) : (s.modGroup k f).filter = s.filter := rfl
@[simp] theorem State.modGroup_lostSends (s : State) (k : Nat) (f : Group → Group) : (s.modGroup k f).lostSends = s.lostSends := rfl
@[simp] theorem State.modGroup_fabCount (s : State) (k : Nat) (f : Group → Group) : (s.modGroup k f).fabCount = s.fabCount := rfl
@[simp] theorem State.modGroup_path (s : State) (k : Nat) (f : Group → Group) : (s.modGroup k f).path = s.path := rfl
@[simp] theorem State.modGroup_place (s : State) (k : Nat) (f : Group → Group) : (s.modGroup k f).place = s.place := rfl
@[simp] theorem State.modGroup_combines (s : State) (k : Nat) (f : Group → Group) : (s.modGroup k f).combines = s.combines := rfl
@[simp] theorem State.modGroup_injFrag (s : State) (k : Nat) (f : Group → Group) : (s.modGroup k f).injFrag = s.injFrag := rfl
@[simp] theorem State.modGroup_stepNotices (s : State) (k : Nat) (f : Group → Group) : (s.modGroup k f).stepNotices = s.stepNotices := rfl
@[simp] theorem State.modGroup_pageUse (s : State) (k : Nat) (f : Group → Group) : (s.modGroup k f).pageUse = s.pageUse := rfl
@[simp] theorem State.modGroup_tier (s : State) (k : Nat) (f : Group → Group) : (s.modGroup k f).tier = s.tier := rfl
@[simp] theorem State.modGroup_tierTags (s : State) (k : Nat) (f : Group → Group) : (s.modGroup k f).tierTags = s.tierTags := rfl
@[simp] theorem State.modGroup_images (s : State) (k : Nat) (f : Group → Group) : (s.modGroup k f).images = s.images := rfl
@[simp] theorem State.modGroup_snapSaved (s : State) (k : Nat) (f : Group → Group) : (s.modGroup k f).snapSaved = s.snapSaved := rfl
@[simp] theorem State.modGroup_grants (s : State) (k : Nat) (f : Group → Group) : (s.modGroup k f).grants = s.grants := rfl
@[simp] theorem State.modGroup_wayFaults (s : State) (k : Nat) (f : Group → Group) : (s.modGroup k f).wayFaults = s.wayFaults := rfl
@[simp] theorem State.modGroup_waysOff (s : State) (k : Nat) (f : Group → Group) : (s.modGroup k f).waysOff = s.waysOff := rfl
@[simp] theorem State.modGroup_slicesOff (s : State) (k : Nat) (f : Group → Group) : (s.modGroup k f).slicesOff = s.slicesOff := rfl
@[simp] theorem State.modGroup_errorLog (s : State) (k : Nat) (f : Group → Group) : (s.modGroup k f).errorLog = s.errorLog := rfl
@[simp] theorem State.modGroup_logLost (s : State) (k : Nat) (f : Group → Group) : (s.modGroup k f).logLost = s.logLost := rfl
@[simp] theorem State.modGroup_fwVersion (s : State) (k : Nat) (f : Group → Group) : (s.modGroup k f).fwVersion = s.fwVersion := rfl
@[simp] theorem State.modGroup_recovery (s : State) (k : Nat) (f : Group → Group) : (s.modGroup k f).recovery = s.recovery := rfl
@[simp] theorem State.modGroup_inReset (s : State) (k : Nat) (f : Group → Group) : (s.modGroup k f).inReset = s.inReset := rfl
@[simp] theorem State.modGroup_gate (s : State) (k : Nat) (f : Group → Group) : (s.modGroup k f).gate = s.gate := rfl
@[simp] theorem State.modGroup_outbox (s : State) (k : Nat) (f : Group → Group) : (s.modGroup k f).outbox = s.outbox := rfl
@[simp] theorem State.modTeam_clock (s : State) (k : Nat) (f : Team → Team) : (s.modTeam k f).clock = s.clock := rfl
@[simp] theorem State.modTeam_freeCtr (s : State) (k : Nat) (f : Team → Team) : (s.modTeam k f).freeCtr = s.freeCtr := rfl
@[simp] theorem State.modTeam_nextId (s : State) (k : Nat) (f : Team → Team) : (s.modTeam k f).nextId = s.nextId := rfl
@[simp] theorem State.modTeam_agenda (s : State) (k : Nat) (f : Team → Team) : (s.modTeam k f).agenda = s.agenda := rfl
@[simp] theorem State.modTeam_issuing (s : State) (k : Nat) (f : Team → Team) : (s.modTeam k f).issuing = s.issuing := rfl
@[simp] theorem State.modTeam_groups (s : State) (k : Nat) (f : Team → Team) : (s.modTeam k f).groups = s.groups := rfl
@[simp] theorem State.modTeam_teams (s : State) (k : Nat) (f : Team → Team) : (s.modTeam k f).teams = s.teams.modify k f := rfl
@[simp] theorem State.modTeam_grids (s : State) (k : Nat) (f : Team → Team) : (s.modTeam k f).grids = s.grids := rfl
@[simp] theorem State.modTeam_ctxs (s : State) (k : Nat) (f : Team → Team) : (s.modTeam k f).ctxs = s.ctxs := rfl
@[simp] theorem State.modTeam_cfg (s : State) (k : Nat) (f : Team → Team) : (s.modTeam k f).cfg = s.cfg := rfl
@[simp] theorem State.modTeam_flagev (s : State) (k : Nat) (f : Team → Team) : (s.modTeam k f).flagev = s.flagev := rfl
@[simp] theorem State.modTeam_sfu (s : State) (k : Nat) (f : Team → Team) : (s.modTeam k f).sfu = s.sfu := rfl
@[simp] theorem State.modTeam_deferred (s : State) (k : Nat) (f : Team → Team) : (s.modTeam k f).deferred = s.deferred := rfl
@[simp] theorem State.modTeam_accesses (s : State) (k : Nat) (f : Team → Team) : (s.modTeam k f).accesses = s.accesses := rfl
@[simp] theorem State.modTeam_mem (s : State) (k : Nat) (f : Team → Team) : (s.modTeam k f).mem = s.mem := rfl
@[simp] theorem State.modTeam_tags (s : State) (k : Nat) (f : Team → Team) : (s.modTeam k f).tags = s.tags := rfl
@[simp] theorem State.modTeam_wsMask (s : State) (k : Nat) (f : Team → Team) : (s.modTeam k f).wsMask = s.wsMask := rfl
@[simp] theorem State.modTeam_held (s : State) (k : Nat) (f : Team → Team) : (s.modTeam k f).held = s.held := rfl
@[simp] theorem State.modTeam_requested (s : State) (k : Nat) (f : Team → Team) : (s.modTeam k f).requested = s.requested := rfl
@[simp] theorem State.modTeam_overtaken (s : State) (k : Nat) (f : Team → Team) : (s.modTeam k f).overtaken = s.overtaken := rfl
@[simp] theorem State.modTeam_putting (s : State) (k : Nat) (f : Team → Team) : (s.modTeam k f).putting = s.putting := rfl
@[simp] theorem State.modTeam_sectors (s : State) (k : Nat) (f : Team → Team) : (s.modTeam k f).sectors = s.sectors := rfl
@[simp] theorem State.modTeam_lines (s : State) (k : Nat) (f : Team → Team) : (s.modTeam k f).lines = s.lines := rfl
@[simp] theorem State.modTeam_lts (s : State) (k : Nat) (f : Team → Team) : (s.modTeam k f).lts = s.lts := rfl
@[simp] theorem State.modTeam_ltsBase (s : State) (k : Nat) (f : Team → Team) : (s.modTeam k f).ltsBase = s.ltsBase := rfl
@[simp] theorem State.modTeam_floor (s : State) (k : Nat) (f : Team → Team) : (s.modTeam k f).floor = s.floor := rfl
@[simp] theorem State.modTeam_era (s : State) (k : Nat) (f : Team → Team) : (s.modTeam k f).era = s.era := rfl
@[simp] theorem State.modTeam_effectiveCfg (s : State) (k : Nat) (f : Team → Team) : (s.modTeam k f).effectiveCfg = s.effectiveCfg := rfl
@[simp] theorem State.modTeam_coreTlb (s : State) (k : Nat) (f : Team → Team) : (s.modTeam k f).coreTlb = s.coreTlb := rfl
@[simp] theorem State.modTeam_clusterTlb (s : State) (k : Nat) (f : Team → Team) : (s.modTeam k f).clusterTlb = s.clusterTlb := rfl
@[simp] theorem State.modTeam_sides (s : State) (k : Nat) (f : Team → Team) : (s.modTeam k f).sides = s.sides := rfl
@[simp] theorem State.modTeam_pageOps (s : State) (k : Nat) (f : Team → Team) : (s.modTeam k f).pageOps = s.pageOps := rfl
@[simp] theorem State.modTeam_replicas (s : State) (k : Nat) (f : Team → Team) : (s.modTeam k f).replicas = s.replicas := rfl
@[simp] theorem State.modTeam_replicaHere (s : State) (k : Nat) (f : Team → Team) : (s.modTeam k f).replicaHere = s.replicaHere := rfl
@[simp] theorem State.modTeam_replicaCopies (s : State) (k : Nat) (f : Team → Team) : (s.modTeam k f).replicaCopies = s.replicaCopies := rfl
@[simp] theorem State.modTeam_replicaStores (s : State) (k : Nat) (f : Team → Team) : (s.modTeam k f).replicaStores = s.replicaStores := rfl
@[simp] theorem State.modTeam_txns (s : State) (k : Nat) (f : Team → Team) : (s.modTeam k f).txns = s.txns := rfl
@[simp] theorem State.modTeam_waitingReqs (s : State) (k : Nat) (f : Team → Team) : (s.modTeam k f).waitingReqs = s.waitingReqs := rfl
@[simp] theorem State.modTeam_remoteOps (s : State) (k : Nat) (f : Team → Team) : (s.modTeam k f).remoteOps = s.remoteOps := rfl
@[simp] theorem State.modTeam_halves (s : State) (k : Nat) (f : Team → Team) : (s.modTeam k f).halves = s.halves := rfl
@[simp] theorem State.modTeam_granted (s : State) (k : Nat) (f : Team → Team) : (s.modTeam k f).granted = s.granted := rfl
@[simp] theorem State.modTeam_hostClean (s : State) (k : Nat) (f : Team → Team) : (s.modTeam k f).hostClean = s.hostClean := rfl
@[simp] theorem State.modTeam_recalled (s : State) (k : Nat) (f : Team → Team) : (s.modTeam k f).recalled = s.recalled := rfl
@[simp] theorem State.modTeam_clearing (s : State) (k : Nat) (f : Team → Team) : (s.modTeam k f).clearing = s.clearing := rfl
@[simp] theorem State.modTeam_icache (s : State) (k : Nat) (f : Team → Team) : (s.modTeam k f).icache = s.icache := rfl
@[simp] theorem State.modTeam_engineGrains (s : State) (k : Nat) (f : Team → Team) : (s.modTeam k f).engineGrains = s.engineGrains := rfl
@[simp] theorem State.modTeam_atomev (s : State) (k : Nat) (f : Team → Team) : (s.modTeam k f).atomev = s.atomev := rfl
@[simp] theorem State.modTeam_chip (s : State) (k : Nat) (f : Team → Team) : (s.modTeam k f).chip = s.chip := rfl
@[simp] theorem State.modTeam_epoch (s : State) (k : Nat) (f : Team → Team) : (s.modTeam k f).epoch = s.epoch := rfl
@[simp] theorem State.modTeam_snaps (s : State) (k : Nat) (f : Team → Team) : (s.modTeam k f).snaps = s.snaps := rfl
@[simp] theorem State.modTeam_heldMsgs (s : State) (k : Nat) (f : Team → Team) : (s.modTeam k f).heldMsgs = s.heldMsgs := rfl
@[simp] theorem State.modTeam_hostLines (s : State) (k : Nat) (f : Team → Team) : (s.modTeam k f).hostLines = s.hostLines := rfl
@[simp] theorem State.modTeam_engLines (s : State) (k : Nat) (f : Team → Team) : (s.modTeam k f).engLines = s.engLines := rfl
@[simp] theorem State.modTeam_engAsked (s : State) (k : Nat) (f : Team → Team) : (s.modTeam k f).engAsked = s.engAsked := rfl
@[simp] theorem State.modTeam_engAnswers (s : State) (k : Nat) (f : Team → Team) : (s.modTeam k f).engAnswers = s.engAnswers := rfl
@[simp] theorem State.modTeam_readWaits (s : State) (k : Nat) (f : Team → Team) : (s.modTeam k f).readWaits = s.readWaits := rfl
@[simp] theorem State.modTeam_posted (s : State) (k : Nat) (f : Team → Team) : (s.modTeam k f).posted = s.posted := rfl
@[simp] theorem State.modTeam_works (s : State) (k : Nat) (f : Team → Team) : (s.modTeam k f).works = s.works := rfl
@[simp] theorem State.modTeam_latches (s : State) (k : Nat) (f : Team → Team) : (s.modTeam k f).latches = s.latches := rfl
@[simp] theorem State.modTeam_latchWaits (s : State) (k : Nat) (f : Team → Team) : (s.modTeam k f).latchWaits = s.latchWaits := rfl
@[simp] theorem State.modTeam_mcks (s : State) (k : Nat) (f : Team → Team) : (s.modTeam k f).mcks = s.mcks := rfl
@[simp] theorem State.modTeam_injMat (s : State) (k : Nat) (f : Team → Team) : (s.modTeam k f).injMat = s.injMat := rfl
@[simp] theorem State.modTeam_commands (s : State) (k : Nat) (f : Team → Team) : (s.modTeam k f).commands = s.commands := rfl
@[simp] theorem State.modTeam_sendQ (s : State) (k : Nat) (f : Team → Team) : (s.modTeam k f).sendQ = s.sendQ := rfl
@[simp] theorem State.modTeam_sendSeq (s : State) (k : Nat) (f : Team → Team) : (s.modTeam k f).sendSeq = s.sendSeq := rfl
@[simp] theorem State.modTeam_kept (s : State) (k : Nat) (f : Team → Team) : (s.modTeam k f).kept = s.kept := rfl
@[simp] theorem State.modTeam_recv (s : State) (k : Nat) (f : Team → Team) : (s.modTeam k f).recv = s.recv := rfl
@[simp] theorem State.modTeam_slots (s : State) (k : Nat) (f : Team → Team) : (s.modTeam k f).slots = s.slots := rfl
@[simp] theorem State.modTeam_filter (s : State) (k : Nat) (f : Team → Team) : (s.modTeam k f).filter = s.filter := rfl
@[simp] theorem State.modTeam_lostSends (s : State) (k : Nat) (f : Team → Team) : (s.modTeam k f).lostSends = s.lostSends := rfl
@[simp] theorem State.modTeam_fabCount (s : State) (k : Nat) (f : Team → Team) : (s.modTeam k f).fabCount = s.fabCount := rfl
@[simp] theorem State.modTeam_path (s : State) (k : Nat) (f : Team → Team) : (s.modTeam k f).path = s.path := rfl
@[simp] theorem State.modTeam_place (s : State) (k : Nat) (f : Team → Team) : (s.modTeam k f).place = s.place := rfl
@[simp] theorem State.modTeam_combines (s : State) (k : Nat) (f : Team → Team) : (s.modTeam k f).combines = s.combines := rfl
@[simp] theorem State.modTeam_injFrag (s : State) (k : Nat) (f : Team → Team) : (s.modTeam k f).injFrag = s.injFrag := rfl
@[simp] theorem State.modTeam_stepNotices (s : State) (k : Nat) (f : Team → Team) : (s.modTeam k f).stepNotices = s.stepNotices := rfl
@[simp] theorem State.modTeam_pageUse (s : State) (k : Nat) (f : Team → Team) : (s.modTeam k f).pageUse = s.pageUse := rfl
@[simp] theorem State.modTeam_tier (s : State) (k : Nat) (f : Team → Team) : (s.modTeam k f).tier = s.tier := rfl
@[simp] theorem State.modTeam_tierTags (s : State) (k : Nat) (f : Team → Team) : (s.modTeam k f).tierTags = s.tierTags := rfl
@[simp] theorem State.modTeam_images (s : State) (k : Nat) (f : Team → Team) : (s.modTeam k f).images = s.images := rfl
@[simp] theorem State.modTeam_snapSaved (s : State) (k : Nat) (f : Team → Team) : (s.modTeam k f).snapSaved = s.snapSaved := rfl
@[simp] theorem State.modTeam_grants (s : State) (k : Nat) (f : Team → Team) : (s.modTeam k f).grants = s.grants := rfl
@[simp] theorem State.modTeam_wayFaults (s : State) (k : Nat) (f : Team → Team) : (s.modTeam k f).wayFaults = s.wayFaults := rfl
@[simp] theorem State.modTeam_waysOff (s : State) (k : Nat) (f : Team → Team) : (s.modTeam k f).waysOff = s.waysOff := rfl
@[simp] theorem State.modTeam_slicesOff (s : State) (k : Nat) (f : Team → Team) : (s.modTeam k f).slicesOff = s.slicesOff := rfl
@[simp] theorem State.modTeam_errorLog (s : State) (k : Nat) (f : Team → Team) : (s.modTeam k f).errorLog = s.errorLog := rfl
@[simp] theorem State.modTeam_logLost (s : State) (k : Nat) (f : Team → Team) : (s.modTeam k f).logLost = s.logLost := rfl
@[simp] theorem State.modTeam_fwVersion (s : State) (k : Nat) (f : Team → Team) : (s.modTeam k f).fwVersion = s.fwVersion := rfl
@[simp] theorem State.modTeam_recovery (s : State) (k : Nat) (f : Team → Team) : (s.modTeam k f).recovery = s.recovery := rfl
@[simp] theorem State.modTeam_inReset (s : State) (k : Nat) (f : Team → Team) : (s.modTeam k f).inReset = s.inReset := rfl
@[simp] theorem State.modTeam_gate (s : State) (k : Nat) (f : Team → Team) : (s.modTeam k f).gate = s.gate := rfl
@[simp] theorem State.modTeam_outbox (s : State) (k : Nat) (f : Team → Team) : (s.modTeam k f).outbox = s.outbox := rfl
@[simp] theorem State.modGrid_clock (s : State) (k : Nat) (f : Grid → Grid) : (s.modGrid k f).clock = s.clock := rfl
@[simp] theorem State.modGrid_freeCtr (s : State) (k : Nat) (f : Grid → Grid) : (s.modGrid k f).freeCtr = s.freeCtr := rfl
@[simp] theorem State.modGrid_nextId (s : State) (k : Nat) (f : Grid → Grid) : (s.modGrid k f).nextId = s.nextId := rfl
@[simp] theorem State.modGrid_agenda (s : State) (k : Nat) (f : Grid → Grid) : (s.modGrid k f).agenda = s.agenda := rfl
@[simp] theorem State.modGrid_issuing (s : State) (k : Nat) (f : Grid → Grid) : (s.modGrid k f).issuing = s.issuing := rfl
@[simp] theorem State.modGrid_groups (s : State) (k : Nat) (f : Grid → Grid) : (s.modGrid k f).groups = s.groups := rfl
@[simp] theorem State.modGrid_teams (s : State) (k : Nat) (f : Grid → Grid) : (s.modGrid k f).teams = s.teams := rfl
@[simp] theorem State.modGrid_grids (s : State) (k : Nat) (f : Grid → Grid) : (s.modGrid k f).grids = s.grids.modify k f := rfl
@[simp] theorem State.modGrid_ctxs (s : State) (k : Nat) (f : Grid → Grid) : (s.modGrid k f).ctxs = s.ctxs := rfl
@[simp] theorem State.modGrid_cfg (s : State) (k : Nat) (f : Grid → Grid) : (s.modGrid k f).cfg = s.cfg := rfl
@[simp] theorem State.modGrid_flagev (s : State) (k : Nat) (f : Grid → Grid) : (s.modGrid k f).flagev = s.flagev := rfl
@[simp] theorem State.modGrid_sfu (s : State) (k : Nat) (f : Grid → Grid) : (s.modGrid k f).sfu = s.sfu := rfl
@[simp] theorem State.modGrid_deferred (s : State) (k : Nat) (f : Grid → Grid) : (s.modGrid k f).deferred = s.deferred := rfl
@[simp] theorem State.modGrid_accesses (s : State) (k : Nat) (f : Grid → Grid) : (s.modGrid k f).accesses = s.accesses := rfl
@[simp] theorem State.modGrid_mem (s : State) (k : Nat) (f : Grid → Grid) : (s.modGrid k f).mem = s.mem := rfl
@[simp] theorem State.modGrid_tags (s : State) (k : Nat) (f : Grid → Grid) : (s.modGrid k f).tags = s.tags := rfl
@[simp] theorem State.modGrid_wsMask (s : State) (k : Nat) (f : Grid → Grid) : (s.modGrid k f).wsMask = s.wsMask := rfl
@[simp] theorem State.modGrid_held (s : State) (k : Nat) (f : Grid → Grid) : (s.modGrid k f).held = s.held := rfl
@[simp] theorem State.modGrid_requested (s : State) (k : Nat) (f : Grid → Grid) : (s.modGrid k f).requested = s.requested := rfl
@[simp] theorem State.modGrid_overtaken (s : State) (k : Nat) (f : Grid → Grid) : (s.modGrid k f).overtaken = s.overtaken := rfl
@[simp] theorem State.modGrid_putting (s : State) (k : Nat) (f : Grid → Grid) : (s.modGrid k f).putting = s.putting := rfl
@[simp] theorem State.modGrid_sectors (s : State) (k : Nat) (f : Grid → Grid) : (s.modGrid k f).sectors = s.sectors := rfl
@[simp] theorem State.modGrid_lines (s : State) (k : Nat) (f : Grid → Grid) : (s.modGrid k f).lines = s.lines := rfl
@[simp] theorem State.modGrid_lts (s : State) (k : Nat) (f : Grid → Grid) : (s.modGrid k f).lts = s.lts := rfl
@[simp] theorem State.modGrid_ltsBase (s : State) (k : Nat) (f : Grid → Grid) : (s.modGrid k f).ltsBase = s.ltsBase := rfl
@[simp] theorem State.modGrid_floor (s : State) (k : Nat) (f : Grid → Grid) : (s.modGrid k f).floor = s.floor := rfl
@[simp] theorem State.modGrid_era (s : State) (k : Nat) (f : Grid → Grid) : (s.modGrid k f).era = s.era := rfl
@[simp] theorem State.modGrid_effectiveCfg (s : State) (k : Nat) (f : Grid → Grid) : (s.modGrid k f).effectiveCfg = s.effectiveCfg := rfl
@[simp] theorem State.modGrid_coreTlb (s : State) (k : Nat) (f : Grid → Grid) : (s.modGrid k f).coreTlb = s.coreTlb := rfl
@[simp] theorem State.modGrid_clusterTlb (s : State) (k : Nat) (f : Grid → Grid) : (s.modGrid k f).clusterTlb = s.clusterTlb := rfl
@[simp] theorem State.modGrid_sides (s : State) (k : Nat) (f : Grid → Grid) : (s.modGrid k f).sides = s.sides := rfl
@[simp] theorem State.modGrid_pageOps (s : State) (k : Nat) (f : Grid → Grid) : (s.modGrid k f).pageOps = s.pageOps := rfl
@[simp] theorem State.modGrid_replicas (s : State) (k : Nat) (f : Grid → Grid) : (s.modGrid k f).replicas = s.replicas := rfl
@[simp] theorem State.modGrid_replicaHere (s : State) (k : Nat) (f : Grid → Grid) : (s.modGrid k f).replicaHere = s.replicaHere := rfl
@[simp] theorem State.modGrid_replicaCopies (s : State) (k : Nat) (f : Grid → Grid) : (s.modGrid k f).replicaCopies = s.replicaCopies := rfl
@[simp] theorem State.modGrid_replicaStores (s : State) (k : Nat) (f : Grid → Grid) : (s.modGrid k f).replicaStores = s.replicaStores := rfl
@[simp] theorem State.modGrid_txns (s : State) (k : Nat) (f : Grid → Grid) : (s.modGrid k f).txns = s.txns := rfl
@[simp] theorem State.modGrid_waitingReqs (s : State) (k : Nat) (f : Grid → Grid) : (s.modGrid k f).waitingReqs = s.waitingReqs := rfl
@[simp] theorem State.modGrid_remoteOps (s : State) (k : Nat) (f : Grid → Grid) : (s.modGrid k f).remoteOps = s.remoteOps := rfl
@[simp] theorem State.modGrid_halves (s : State) (k : Nat) (f : Grid → Grid) : (s.modGrid k f).halves = s.halves := rfl
@[simp] theorem State.modGrid_granted (s : State) (k : Nat) (f : Grid → Grid) : (s.modGrid k f).granted = s.granted := rfl
@[simp] theorem State.modGrid_hostClean (s : State) (k : Nat) (f : Grid → Grid) : (s.modGrid k f).hostClean = s.hostClean := rfl
@[simp] theorem State.modGrid_recalled (s : State) (k : Nat) (f : Grid → Grid) : (s.modGrid k f).recalled = s.recalled := rfl
@[simp] theorem State.modGrid_clearing (s : State) (k : Nat) (f : Grid → Grid) : (s.modGrid k f).clearing = s.clearing := rfl
@[simp] theorem State.modGrid_icache (s : State) (k : Nat) (f : Grid → Grid) : (s.modGrid k f).icache = s.icache := rfl
@[simp] theorem State.modGrid_engineGrains (s : State) (k : Nat) (f : Grid → Grid) : (s.modGrid k f).engineGrains = s.engineGrains := rfl
@[simp] theorem State.modGrid_atomev (s : State) (k : Nat) (f : Grid → Grid) : (s.modGrid k f).atomev = s.atomev := rfl
@[simp] theorem State.modGrid_chip (s : State) (k : Nat) (f : Grid → Grid) : (s.modGrid k f).chip = s.chip := rfl
@[simp] theorem State.modGrid_epoch (s : State) (k : Nat) (f : Grid → Grid) : (s.modGrid k f).epoch = s.epoch := rfl
@[simp] theorem State.modGrid_snaps (s : State) (k : Nat) (f : Grid → Grid) : (s.modGrid k f).snaps = s.snaps := rfl
@[simp] theorem State.modGrid_heldMsgs (s : State) (k : Nat) (f : Grid → Grid) : (s.modGrid k f).heldMsgs = s.heldMsgs := rfl
@[simp] theorem State.modGrid_hostLines (s : State) (k : Nat) (f : Grid → Grid) : (s.modGrid k f).hostLines = s.hostLines := rfl
@[simp] theorem State.modGrid_engLines (s : State) (k : Nat) (f : Grid → Grid) : (s.modGrid k f).engLines = s.engLines := rfl
@[simp] theorem State.modGrid_engAsked (s : State) (k : Nat) (f : Grid → Grid) : (s.modGrid k f).engAsked = s.engAsked := rfl
@[simp] theorem State.modGrid_engAnswers (s : State) (k : Nat) (f : Grid → Grid) : (s.modGrid k f).engAnswers = s.engAnswers := rfl
@[simp] theorem State.modGrid_readWaits (s : State) (k : Nat) (f : Grid → Grid) : (s.modGrid k f).readWaits = s.readWaits := rfl
@[simp] theorem State.modGrid_posted (s : State) (k : Nat) (f : Grid → Grid) : (s.modGrid k f).posted = s.posted := rfl
@[simp] theorem State.modGrid_works (s : State) (k : Nat) (f : Grid → Grid) : (s.modGrid k f).works = s.works := rfl
@[simp] theorem State.modGrid_latches (s : State) (k : Nat) (f : Grid → Grid) : (s.modGrid k f).latches = s.latches := rfl
@[simp] theorem State.modGrid_latchWaits (s : State) (k : Nat) (f : Grid → Grid) : (s.modGrid k f).latchWaits = s.latchWaits := rfl
@[simp] theorem State.modGrid_mcks (s : State) (k : Nat) (f : Grid → Grid) : (s.modGrid k f).mcks = s.mcks := rfl
@[simp] theorem State.modGrid_injMat (s : State) (k : Nat) (f : Grid → Grid) : (s.modGrid k f).injMat = s.injMat := rfl
@[simp] theorem State.modGrid_commands (s : State) (k : Nat) (f : Grid → Grid) : (s.modGrid k f).commands = s.commands := rfl
@[simp] theorem State.modGrid_sendQ (s : State) (k : Nat) (f : Grid → Grid) : (s.modGrid k f).sendQ = s.sendQ := rfl
@[simp] theorem State.modGrid_sendSeq (s : State) (k : Nat) (f : Grid → Grid) : (s.modGrid k f).sendSeq = s.sendSeq := rfl
@[simp] theorem State.modGrid_kept (s : State) (k : Nat) (f : Grid → Grid) : (s.modGrid k f).kept = s.kept := rfl
@[simp] theorem State.modGrid_recv (s : State) (k : Nat) (f : Grid → Grid) : (s.modGrid k f).recv = s.recv := rfl
@[simp] theorem State.modGrid_slots (s : State) (k : Nat) (f : Grid → Grid) : (s.modGrid k f).slots = s.slots := rfl
@[simp] theorem State.modGrid_filter (s : State) (k : Nat) (f : Grid → Grid) : (s.modGrid k f).filter = s.filter := rfl
@[simp] theorem State.modGrid_lostSends (s : State) (k : Nat) (f : Grid → Grid) : (s.modGrid k f).lostSends = s.lostSends := rfl
@[simp] theorem State.modGrid_fabCount (s : State) (k : Nat) (f : Grid → Grid) : (s.modGrid k f).fabCount = s.fabCount := rfl
@[simp] theorem State.modGrid_path (s : State) (k : Nat) (f : Grid → Grid) : (s.modGrid k f).path = s.path := rfl
@[simp] theorem State.modGrid_place (s : State) (k : Nat) (f : Grid → Grid) : (s.modGrid k f).place = s.place := rfl
@[simp] theorem State.modGrid_combines (s : State) (k : Nat) (f : Grid → Grid) : (s.modGrid k f).combines = s.combines := rfl
@[simp] theorem State.modGrid_injFrag (s : State) (k : Nat) (f : Grid → Grid) : (s.modGrid k f).injFrag = s.injFrag := rfl
@[simp] theorem State.modGrid_stepNotices (s : State) (k : Nat) (f : Grid → Grid) : (s.modGrid k f).stepNotices = s.stepNotices := rfl
@[simp] theorem State.modGrid_pageUse (s : State) (k : Nat) (f : Grid → Grid) : (s.modGrid k f).pageUse = s.pageUse := rfl
@[simp] theorem State.modGrid_tier (s : State) (k : Nat) (f : Grid → Grid) : (s.modGrid k f).tier = s.tier := rfl
@[simp] theorem State.modGrid_tierTags (s : State) (k : Nat) (f : Grid → Grid) : (s.modGrid k f).tierTags = s.tierTags := rfl
@[simp] theorem State.modGrid_images (s : State) (k : Nat) (f : Grid → Grid) : (s.modGrid k f).images = s.images := rfl
@[simp] theorem State.modGrid_snapSaved (s : State) (k : Nat) (f : Grid → Grid) : (s.modGrid k f).snapSaved = s.snapSaved := rfl
@[simp] theorem State.modGrid_grants (s : State) (k : Nat) (f : Grid → Grid) : (s.modGrid k f).grants = s.grants := rfl
@[simp] theorem State.modGrid_wayFaults (s : State) (k : Nat) (f : Grid → Grid) : (s.modGrid k f).wayFaults = s.wayFaults := rfl
@[simp] theorem State.modGrid_waysOff (s : State) (k : Nat) (f : Grid → Grid) : (s.modGrid k f).waysOff = s.waysOff := rfl
@[simp] theorem State.modGrid_slicesOff (s : State) (k : Nat) (f : Grid → Grid) : (s.modGrid k f).slicesOff = s.slicesOff := rfl
@[simp] theorem State.modGrid_errorLog (s : State) (k : Nat) (f : Grid → Grid) : (s.modGrid k f).errorLog = s.errorLog := rfl
@[simp] theorem State.modGrid_logLost (s : State) (k : Nat) (f : Grid → Grid) : (s.modGrid k f).logLost = s.logLost := rfl
@[simp] theorem State.modGrid_fwVersion (s : State) (k : Nat) (f : Grid → Grid) : (s.modGrid k f).fwVersion = s.fwVersion := rfl
@[simp] theorem State.modGrid_recovery (s : State) (k : Nat) (f : Grid → Grid) : (s.modGrid k f).recovery = s.recovery := rfl
@[simp] theorem State.modGrid_inReset (s : State) (k : Nat) (f : Grid → Grid) : (s.modGrid k f).inReset = s.inReset := rfl
@[simp] theorem State.modGrid_gate (s : State) (k : Nat) (f : Grid → Grid) : (s.modGrid k f).gate = s.gate := rfl
@[simp] theorem State.modGrid_outbox (s : State) (k : Nat) (f : Grid → Grid) : (s.modGrid k f).outbox = s.outbox := rfl
@[simp] theorem State.setCtx_clock (s : State) (k : Nat) (c : Ctx) : (s.setCtx k c).clock = s.clock := rfl
@[simp] theorem State.setCtx_freeCtr (s : State) (k : Nat) (c : Ctx) : (s.setCtx k c).freeCtr = s.freeCtr := rfl
@[simp] theorem State.setCtx_nextId (s : State) (k : Nat) (c : Ctx) : (s.setCtx k c).nextId = s.nextId := rfl
@[simp] theorem State.setCtx_agenda (s : State) (k : Nat) (c : Ctx) : (s.setCtx k c).agenda = s.agenda := rfl
@[simp] theorem State.setCtx_issuing (s : State) (k : Nat) (c : Ctx) : (s.setCtx k c).issuing = s.issuing := rfl
@[simp] theorem State.setCtx_groups (s : State) (k : Nat) (c : Ctx) : (s.setCtx k c).groups = s.groups := rfl
@[simp] theorem State.setCtx_teams (s : State) (k : Nat) (c : Ctx) : (s.setCtx k c).teams = s.teams := rfl
@[simp] theorem State.setCtx_grids (s : State) (k : Nat) (c : Ctx) : (s.setCtx k c).grids = s.grids := rfl
@[simp] theorem State.setCtx_ctxs (s : State) (k : Nat) (c : Ctx) : (s.setCtx k c).ctxs = s.ctxs.insert k c := rfl
@[simp] theorem State.setCtx_cfg (s : State) (k : Nat) (c : Ctx) : (s.setCtx k c).cfg = s.cfg := rfl
@[simp] theorem State.setCtx_flagev (s : State) (k : Nat) (c : Ctx) : (s.setCtx k c).flagev = s.flagev := rfl
@[simp] theorem State.setCtx_sfu (s : State) (k : Nat) (c : Ctx) : (s.setCtx k c).sfu = s.sfu := rfl
@[simp] theorem State.setCtx_deferred (s : State) (k : Nat) (c : Ctx) : (s.setCtx k c).deferred = s.deferred := rfl
@[simp] theorem State.setCtx_accesses (s : State) (k : Nat) (c : Ctx) : (s.setCtx k c).accesses = s.accesses := rfl
@[simp] theorem State.setCtx_mem (s : State) (k : Nat) (c : Ctx) : (s.setCtx k c).mem = s.mem := rfl
@[simp] theorem State.setCtx_tags (s : State) (k : Nat) (c : Ctx) : (s.setCtx k c).tags = s.tags := rfl
@[simp] theorem State.setCtx_wsMask (s : State) (k : Nat) (c : Ctx) : (s.setCtx k c).wsMask = s.wsMask := rfl
@[simp] theorem State.setCtx_held (s : State) (k : Nat) (c : Ctx) : (s.setCtx k c).held = s.held := rfl
@[simp] theorem State.setCtx_requested (s : State) (k : Nat) (c : Ctx) : (s.setCtx k c).requested = s.requested := rfl
@[simp] theorem State.setCtx_overtaken (s : State) (k : Nat) (c : Ctx) : (s.setCtx k c).overtaken = s.overtaken := rfl
@[simp] theorem State.setCtx_putting (s : State) (k : Nat) (c : Ctx) : (s.setCtx k c).putting = s.putting := rfl
@[simp] theorem State.setCtx_sectors (s : State) (k : Nat) (c : Ctx) : (s.setCtx k c).sectors = s.sectors := rfl
@[simp] theorem State.setCtx_lines (s : State) (k : Nat) (c : Ctx) : (s.setCtx k c).lines = s.lines := rfl
@[simp] theorem State.setCtx_lts (s : State) (k : Nat) (c : Ctx) : (s.setCtx k c).lts = s.lts := rfl
@[simp] theorem State.setCtx_ltsBase (s : State) (k : Nat) (c : Ctx) : (s.setCtx k c).ltsBase = s.ltsBase := rfl
@[simp] theorem State.setCtx_floor (s : State) (k : Nat) (c : Ctx) : (s.setCtx k c).floor = s.floor := rfl
@[simp] theorem State.setCtx_era (s : State) (k : Nat) (c : Ctx) : (s.setCtx k c).era = s.era := rfl
@[simp] theorem State.setCtx_effectiveCfg (s : State) (k : Nat) (c : Ctx) : (s.setCtx k c).effectiveCfg = s.effectiveCfg := rfl
@[simp] theorem State.setCtx_coreTlb (s : State) (k : Nat) (c : Ctx) : (s.setCtx k c).coreTlb = s.coreTlb := rfl
@[simp] theorem State.setCtx_clusterTlb (s : State) (k : Nat) (c : Ctx) : (s.setCtx k c).clusterTlb = s.clusterTlb := rfl
@[simp] theorem State.setCtx_sides (s : State) (k : Nat) (c : Ctx) : (s.setCtx k c).sides = s.sides := rfl
@[simp] theorem State.setCtx_pageOps (s : State) (k : Nat) (c : Ctx) : (s.setCtx k c).pageOps = s.pageOps := rfl
@[simp] theorem State.setCtx_replicas (s : State) (k : Nat) (c : Ctx) : (s.setCtx k c).replicas = s.replicas := rfl
@[simp] theorem State.setCtx_replicaHere (s : State) (k : Nat) (c : Ctx) : (s.setCtx k c).replicaHere = s.replicaHere := rfl
@[simp] theorem State.setCtx_replicaCopies (s : State) (k : Nat) (c : Ctx) : (s.setCtx k c).replicaCopies = s.replicaCopies := rfl
@[simp] theorem State.setCtx_replicaStores (s : State) (k : Nat) (c : Ctx) : (s.setCtx k c).replicaStores = s.replicaStores := rfl
@[simp] theorem State.setCtx_txns (s : State) (k : Nat) (c : Ctx) : (s.setCtx k c).txns = s.txns := rfl
@[simp] theorem State.setCtx_waitingReqs (s : State) (k : Nat) (c : Ctx) : (s.setCtx k c).waitingReqs = s.waitingReqs := rfl
@[simp] theorem State.setCtx_remoteOps (s : State) (k : Nat) (c : Ctx) : (s.setCtx k c).remoteOps = s.remoteOps := rfl
@[simp] theorem State.setCtx_halves (s : State) (k : Nat) (c : Ctx) : (s.setCtx k c).halves = s.halves := rfl
@[simp] theorem State.setCtx_granted (s : State) (k : Nat) (c : Ctx) : (s.setCtx k c).granted = s.granted := rfl
@[simp] theorem State.setCtx_hostClean (s : State) (k : Nat) (c : Ctx) : (s.setCtx k c).hostClean = s.hostClean := rfl
@[simp] theorem State.setCtx_recalled (s : State) (k : Nat) (c : Ctx) : (s.setCtx k c).recalled = s.recalled := rfl
@[simp] theorem State.setCtx_clearing (s : State) (k : Nat) (c : Ctx) : (s.setCtx k c).clearing = s.clearing := rfl
@[simp] theorem State.setCtx_icache (s : State) (k : Nat) (c : Ctx) : (s.setCtx k c).icache = s.icache := rfl
@[simp] theorem State.setCtx_engineGrains (s : State) (k : Nat) (c : Ctx) : (s.setCtx k c).engineGrains = s.engineGrains := rfl
@[simp] theorem State.setCtx_atomev (s : State) (k : Nat) (c : Ctx) : (s.setCtx k c).atomev = s.atomev := rfl
@[simp] theorem State.setCtx_chip (s : State) (k : Nat) (c : Ctx) : (s.setCtx k c).chip = s.chip := rfl
@[simp] theorem State.setCtx_epoch (s : State) (k : Nat) (c : Ctx) : (s.setCtx k c).epoch = s.epoch := rfl
@[simp] theorem State.setCtx_snaps (s : State) (k : Nat) (c : Ctx) : (s.setCtx k c).snaps = s.snaps := rfl
@[simp] theorem State.setCtx_heldMsgs (s : State) (k : Nat) (c : Ctx) : (s.setCtx k c).heldMsgs = s.heldMsgs := rfl
@[simp] theorem State.setCtx_hostLines (s : State) (k : Nat) (c : Ctx) : (s.setCtx k c).hostLines = s.hostLines := rfl
@[simp] theorem State.setCtx_engLines (s : State) (k : Nat) (c : Ctx) : (s.setCtx k c).engLines = s.engLines := rfl
@[simp] theorem State.setCtx_engAsked (s : State) (k : Nat) (c : Ctx) : (s.setCtx k c).engAsked = s.engAsked := rfl
@[simp] theorem State.setCtx_engAnswers (s : State) (k : Nat) (c : Ctx) : (s.setCtx k c).engAnswers = s.engAnswers := rfl
@[simp] theorem State.setCtx_readWaits (s : State) (k : Nat) (c : Ctx) : (s.setCtx k c).readWaits = s.readWaits := rfl
@[simp] theorem State.setCtx_posted (s : State) (k : Nat) (c : Ctx) : (s.setCtx k c).posted = s.posted := rfl
@[simp] theorem State.setCtx_works (s : State) (k : Nat) (c : Ctx) : (s.setCtx k c).works = s.works := rfl
@[simp] theorem State.setCtx_latches (s : State) (k : Nat) (c : Ctx) : (s.setCtx k c).latches = s.latches := rfl
@[simp] theorem State.setCtx_latchWaits (s : State) (k : Nat) (c : Ctx) : (s.setCtx k c).latchWaits = s.latchWaits := rfl
@[simp] theorem State.setCtx_mcks (s : State) (k : Nat) (c : Ctx) : (s.setCtx k c).mcks = s.mcks := rfl
@[simp] theorem State.setCtx_injMat (s : State) (k : Nat) (c : Ctx) : (s.setCtx k c).injMat = s.injMat := rfl
@[simp] theorem State.setCtx_commands (s : State) (k : Nat) (c : Ctx) : (s.setCtx k c).commands = s.commands := rfl
@[simp] theorem State.setCtx_sendQ (s : State) (k : Nat) (c : Ctx) : (s.setCtx k c).sendQ = s.sendQ := rfl
@[simp] theorem State.setCtx_sendSeq (s : State) (k : Nat) (c : Ctx) : (s.setCtx k c).sendSeq = s.sendSeq := rfl
@[simp] theorem State.setCtx_kept (s : State) (k : Nat) (c : Ctx) : (s.setCtx k c).kept = s.kept := rfl
@[simp] theorem State.setCtx_recv (s : State) (k : Nat) (c : Ctx) : (s.setCtx k c).recv = s.recv := rfl
@[simp] theorem State.setCtx_slots (s : State) (k : Nat) (c : Ctx) : (s.setCtx k c).slots = s.slots := rfl
@[simp] theorem State.setCtx_filter (s : State) (k : Nat) (c : Ctx) : (s.setCtx k c).filter = s.filter := rfl
@[simp] theorem State.setCtx_lostSends (s : State) (k : Nat) (c : Ctx) : (s.setCtx k c).lostSends = s.lostSends := rfl
@[simp] theorem State.setCtx_fabCount (s : State) (k : Nat) (c : Ctx) : (s.setCtx k c).fabCount = s.fabCount := rfl
@[simp] theorem State.setCtx_path (s : State) (k : Nat) (c : Ctx) : (s.setCtx k c).path = s.path := rfl
@[simp] theorem State.setCtx_place (s : State) (k : Nat) (c : Ctx) : (s.setCtx k c).place = s.place := rfl
@[simp] theorem State.setCtx_combines (s : State) (k : Nat) (c : Ctx) : (s.setCtx k c).combines = s.combines := rfl
@[simp] theorem State.setCtx_injFrag (s : State) (k : Nat) (c : Ctx) : (s.setCtx k c).injFrag = s.injFrag := rfl
@[simp] theorem State.setCtx_stepNotices (s : State) (k : Nat) (c : Ctx) : (s.setCtx k c).stepNotices = s.stepNotices := rfl
@[simp] theorem State.setCtx_pageUse (s : State) (k : Nat) (c : Ctx) : (s.setCtx k c).pageUse = s.pageUse := rfl
@[simp] theorem State.setCtx_tier (s : State) (k : Nat) (c : Ctx) : (s.setCtx k c).tier = s.tier := rfl
@[simp] theorem State.setCtx_tierTags (s : State) (k : Nat) (c : Ctx) : (s.setCtx k c).tierTags = s.tierTags := rfl
@[simp] theorem State.setCtx_images (s : State) (k : Nat) (c : Ctx) : (s.setCtx k c).images = s.images := rfl
@[simp] theorem State.setCtx_snapSaved (s : State) (k : Nat) (c : Ctx) : (s.setCtx k c).snapSaved = s.snapSaved := rfl
@[simp] theorem State.setCtx_grants (s : State) (k : Nat) (c : Ctx) : (s.setCtx k c).grants = s.grants := rfl
@[simp] theorem State.setCtx_wayFaults (s : State) (k : Nat) (c : Ctx) : (s.setCtx k c).wayFaults = s.wayFaults := rfl
@[simp] theorem State.setCtx_waysOff (s : State) (k : Nat) (c : Ctx) : (s.setCtx k c).waysOff = s.waysOff := rfl
@[simp] theorem State.setCtx_slicesOff (s : State) (k : Nat) (c : Ctx) : (s.setCtx k c).slicesOff = s.slicesOff := rfl
@[simp] theorem State.setCtx_errorLog (s : State) (k : Nat) (c : Ctx) : (s.setCtx k c).errorLog = s.errorLog := rfl
@[simp] theorem State.setCtx_logLost (s : State) (k : Nat) (c : Ctx) : (s.setCtx k c).logLost = s.logLost := rfl
@[simp] theorem State.setCtx_fwVersion (s : State) (k : Nat) (c : Ctx) : (s.setCtx k c).fwVersion = s.fwVersion := rfl
@[simp] theorem State.setCtx_recovery (s : State) (k : Nat) (c : Ctx) : (s.setCtx k c).recovery = s.recovery := rfl
@[simp] theorem State.setCtx_inReset (s : State) (k : Nat) (c : Ctx) : (s.setCtx k c).inReset = s.inReset := rfl
@[simp] theorem State.setCtx_gate (s : State) (k : Nat) (c : Ctx) : (s.setCtx k c).gate = s.gate := rfl
@[simp] theorem State.setCtx_outbox (s : State) (k : Nat) (c : Ctx) : (s.setCtx k c).outbox = s.outbox := rfl
@[simp] theorem State.modCtx_clock (s : State) (k : Nat) (f : Ctx → Ctx) : (s.modCtx k f).clock = s.clock := rfl
@[simp] theorem State.modCtx_freeCtr (s : State) (k : Nat) (f : Ctx → Ctx) : (s.modCtx k f).freeCtr = s.freeCtr := rfl
@[simp] theorem State.modCtx_nextId (s : State) (k : Nat) (f : Ctx → Ctx) : (s.modCtx k f).nextId = s.nextId := rfl
@[simp] theorem State.modCtx_agenda (s : State) (k : Nat) (f : Ctx → Ctx) : (s.modCtx k f).agenda = s.agenda := rfl
@[simp] theorem State.modCtx_issuing (s : State) (k : Nat) (f : Ctx → Ctx) : (s.modCtx k f).issuing = s.issuing := rfl
@[simp] theorem State.modCtx_groups (s : State) (k : Nat) (f : Ctx → Ctx) : (s.modCtx k f).groups = s.groups := rfl
@[simp] theorem State.modCtx_teams (s : State) (k : Nat) (f : Ctx → Ctx) : (s.modCtx k f).teams = s.teams := rfl
@[simp] theorem State.modCtx_grids (s : State) (k : Nat) (f : Ctx → Ctx) : (s.modCtx k f).grids = s.grids := rfl
@[simp] theorem State.modCtx_ctxs (s : State) (k : Nat) (f : Ctx → Ctx) : (s.modCtx k f).ctxs = s.ctxs.insert k (f (s.ctx k)) := rfl
@[simp] theorem State.modCtx_cfg (s : State) (k : Nat) (f : Ctx → Ctx) : (s.modCtx k f).cfg = s.cfg := rfl
@[simp] theorem State.modCtx_flagev (s : State) (k : Nat) (f : Ctx → Ctx) : (s.modCtx k f).flagev = s.flagev := rfl
@[simp] theorem State.modCtx_sfu (s : State) (k : Nat) (f : Ctx → Ctx) : (s.modCtx k f).sfu = s.sfu := rfl
@[simp] theorem State.modCtx_deferred (s : State) (k : Nat) (f : Ctx → Ctx) : (s.modCtx k f).deferred = s.deferred := rfl
@[simp] theorem State.modCtx_accesses (s : State) (k : Nat) (f : Ctx → Ctx) : (s.modCtx k f).accesses = s.accesses := rfl
@[simp] theorem State.modCtx_mem (s : State) (k : Nat) (f : Ctx → Ctx) : (s.modCtx k f).mem = s.mem := rfl
@[simp] theorem State.modCtx_tags (s : State) (k : Nat) (f : Ctx → Ctx) : (s.modCtx k f).tags = s.tags := rfl
@[simp] theorem State.modCtx_wsMask (s : State) (k : Nat) (f : Ctx → Ctx) : (s.modCtx k f).wsMask = s.wsMask := rfl
@[simp] theorem State.modCtx_held (s : State) (k : Nat) (f : Ctx → Ctx) : (s.modCtx k f).held = s.held := rfl
@[simp] theorem State.modCtx_requested (s : State) (k : Nat) (f : Ctx → Ctx) : (s.modCtx k f).requested = s.requested := rfl
@[simp] theorem State.modCtx_overtaken (s : State) (k : Nat) (f : Ctx → Ctx) : (s.modCtx k f).overtaken = s.overtaken := rfl
@[simp] theorem State.modCtx_putting (s : State) (k : Nat) (f : Ctx → Ctx) : (s.modCtx k f).putting = s.putting := rfl
@[simp] theorem State.modCtx_sectors (s : State) (k : Nat) (f : Ctx → Ctx) : (s.modCtx k f).sectors = s.sectors := rfl
@[simp] theorem State.modCtx_lines (s : State) (k : Nat) (f : Ctx → Ctx) : (s.modCtx k f).lines = s.lines := rfl
@[simp] theorem State.modCtx_lts (s : State) (k : Nat) (f : Ctx → Ctx) : (s.modCtx k f).lts = s.lts := rfl
@[simp] theorem State.modCtx_ltsBase (s : State) (k : Nat) (f : Ctx → Ctx) : (s.modCtx k f).ltsBase = s.ltsBase := rfl
@[simp] theorem State.modCtx_floor (s : State) (k : Nat) (f : Ctx → Ctx) : (s.modCtx k f).floor = s.floor := rfl
@[simp] theorem State.modCtx_era (s : State) (k : Nat) (f : Ctx → Ctx) : (s.modCtx k f).era = s.era := rfl
@[simp] theorem State.modCtx_effectiveCfg (s : State) (k : Nat) (f : Ctx → Ctx) : (s.modCtx k f).effectiveCfg = s.effectiveCfg := rfl
@[simp] theorem State.modCtx_coreTlb (s : State) (k : Nat) (f : Ctx → Ctx) : (s.modCtx k f).coreTlb = s.coreTlb := rfl
@[simp] theorem State.modCtx_clusterTlb (s : State) (k : Nat) (f : Ctx → Ctx) : (s.modCtx k f).clusterTlb = s.clusterTlb := rfl
@[simp] theorem State.modCtx_sides (s : State) (k : Nat) (f : Ctx → Ctx) : (s.modCtx k f).sides = s.sides := rfl
@[simp] theorem State.modCtx_pageOps (s : State) (k : Nat) (f : Ctx → Ctx) : (s.modCtx k f).pageOps = s.pageOps := rfl
@[simp] theorem State.modCtx_replicas (s : State) (k : Nat) (f : Ctx → Ctx) : (s.modCtx k f).replicas = s.replicas := rfl
@[simp] theorem State.modCtx_replicaHere (s : State) (k : Nat) (f : Ctx → Ctx) : (s.modCtx k f).replicaHere = s.replicaHere := rfl
@[simp] theorem State.modCtx_replicaCopies (s : State) (k : Nat) (f : Ctx → Ctx) : (s.modCtx k f).replicaCopies = s.replicaCopies := rfl
@[simp] theorem State.modCtx_replicaStores (s : State) (k : Nat) (f : Ctx → Ctx) : (s.modCtx k f).replicaStores = s.replicaStores := rfl
@[simp] theorem State.modCtx_txns (s : State) (k : Nat) (f : Ctx → Ctx) : (s.modCtx k f).txns = s.txns := rfl
@[simp] theorem State.modCtx_waitingReqs (s : State) (k : Nat) (f : Ctx → Ctx) : (s.modCtx k f).waitingReqs = s.waitingReqs := rfl
@[simp] theorem State.modCtx_remoteOps (s : State) (k : Nat) (f : Ctx → Ctx) : (s.modCtx k f).remoteOps = s.remoteOps := rfl
@[simp] theorem State.modCtx_halves (s : State) (k : Nat) (f : Ctx → Ctx) : (s.modCtx k f).halves = s.halves := rfl
@[simp] theorem State.modCtx_granted (s : State) (k : Nat) (f : Ctx → Ctx) : (s.modCtx k f).granted = s.granted := rfl
@[simp] theorem State.modCtx_hostClean (s : State) (k : Nat) (f : Ctx → Ctx) : (s.modCtx k f).hostClean = s.hostClean := rfl
@[simp] theorem State.modCtx_recalled (s : State) (k : Nat) (f : Ctx → Ctx) : (s.modCtx k f).recalled = s.recalled := rfl
@[simp] theorem State.modCtx_clearing (s : State) (k : Nat) (f : Ctx → Ctx) : (s.modCtx k f).clearing = s.clearing := rfl
@[simp] theorem State.modCtx_icache (s : State) (k : Nat) (f : Ctx → Ctx) : (s.modCtx k f).icache = s.icache := rfl
@[simp] theorem State.modCtx_engineGrains (s : State) (k : Nat) (f : Ctx → Ctx) : (s.modCtx k f).engineGrains = s.engineGrains := rfl
@[simp] theorem State.modCtx_atomev (s : State) (k : Nat) (f : Ctx → Ctx) : (s.modCtx k f).atomev = s.atomev := rfl
@[simp] theorem State.modCtx_chip (s : State) (k : Nat) (f : Ctx → Ctx) : (s.modCtx k f).chip = s.chip := rfl
@[simp] theorem State.modCtx_epoch (s : State) (k : Nat) (f : Ctx → Ctx) : (s.modCtx k f).epoch = s.epoch := rfl
@[simp] theorem State.modCtx_snaps (s : State) (k : Nat) (f : Ctx → Ctx) : (s.modCtx k f).snaps = s.snaps := rfl
@[simp] theorem State.modCtx_heldMsgs (s : State) (k : Nat) (f : Ctx → Ctx) : (s.modCtx k f).heldMsgs = s.heldMsgs := rfl
@[simp] theorem State.modCtx_hostLines (s : State) (k : Nat) (f : Ctx → Ctx) : (s.modCtx k f).hostLines = s.hostLines := rfl
@[simp] theorem State.modCtx_engLines (s : State) (k : Nat) (f : Ctx → Ctx) : (s.modCtx k f).engLines = s.engLines := rfl
@[simp] theorem State.modCtx_engAsked (s : State) (k : Nat) (f : Ctx → Ctx) : (s.modCtx k f).engAsked = s.engAsked := rfl
@[simp] theorem State.modCtx_engAnswers (s : State) (k : Nat) (f : Ctx → Ctx) : (s.modCtx k f).engAnswers = s.engAnswers := rfl
@[simp] theorem State.modCtx_readWaits (s : State) (k : Nat) (f : Ctx → Ctx) : (s.modCtx k f).readWaits = s.readWaits := rfl
@[simp] theorem State.modCtx_posted (s : State) (k : Nat) (f : Ctx → Ctx) : (s.modCtx k f).posted = s.posted := rfl
@[simp] theorem State.modCtx_works (s : State) (k : Nat) (f : Ctx → Ctx) : (s.modCtx k f).works = s.works := rfl
@[simp] theorem State.modCtx_latches (s : State) (k : Nat) (f : Ctx → Ctx) : (s.modCtx k f).latches = s.latches := rfl
@[simp] theorem State.modCtx_latchWaits (s : State) (k : Nat) (f : Ctx → Ctx) : (s.modCtx k f).latchWaits = s.latchWaits := rfl
@[simp] theorem State.modCtx_mcks (s : State) (k : Nat) (f : Ctx → Ctx) : (s.modCtx k f).mcks = s.mcks := rfl
@[simp] theorem State.modCtx_injMat (s : State) (k : Nat) (f : Ctx → Ctx) : (s.modCtx k f).injMat = s.injMat := rfl
@[simp] theorem State.modCtx_commands (s : State) (k : Nat) (f : Ctx → Ctx) : (s.modCtx k f).commands = s.commands := rfl
@[simp] theorem State.modCtx_sendQ (s : State) (k : Nat) (f : Ctx → Ctx) : (s.modCtx k f).sendQ = s.sendQ := rfl
@[simp] theorem State.modCtx_sendSeq (s : State) (k : Nat) (f : Ctx → Ctx) : (s.modCtx k f).sendSeq = s.sendSeq := rfl
@[simp] theorem State.modCtx_kept (s : State) (k : Nat) (f : Ctx → Ctx) : (s.modCtx k f).kept = s.kept := rfl
@[simp] theorem State.modCtx_recv (s : State) (k : Nat) (f : Ctx → Ctx) : (s.modCtx k f).recv = s.recv := rfl
@[simp] theorem State.modCtx_slots (s : State) (k : Nat) (f : Ctx → Ctx) : (s.modCtx k f).slots = s.slots := rfl
@[simp] theorem State.modCtx_filter (s : State) (k : Nat) (f : Ctx → Ctx) : (s.modCtx k f).filter = s.filter := rfl
@[simp] theorem State.modCtx_lostSends (s : State) (k : Nat) (f : Ctx → Ctx) : (s.modCtx k f).lostSends = s.lostSends := rfl
@[simp] theorem State.modCtx_fabCount (s : State) (k : Nat) (f : Ctx → Ctx) : (s.modCtx k f).fabCount = s.fabCount := rfl
@[simp] theorem State.modCtx_path (s : State) (k : Nat) (f : Ctx → Ctx) : (s.modCtx k f).path = s.path := rfl
@[simp] theorem State.modCtx_place (s : State) (k : Nat) (f : Ctx → Ctx) : (s.modCtx k f).place = s.place := rfl
@[simp] theorem State.modCtx_combines (s : State) (k : Nat) (f : Ctx → Ctx) : (s.modCtx k f).combines = s.combines := rfl
@[simp] theorem State.modCtx_injFrag (s : State) (k : Nat) (f : Ctx → Ctx) : (s.modCtx k f).injFrag = s.injFrag := rfl
@[simp] theorem State.modCtx_stepNotices (s : State) (k : Nat) (f : Ctx → Ctx) : (s.modCtx k f).stepNotices = s.stepNotices := rfl
@[simp] theorem State.modCtx_pageUse (s : State) (k : Nat) (f : Ctx → Ctx) : (s.modCtx k f).pageUse = s.pageUse := rfl
@[simp] theorem State.modCtx_tier (s : State) (k : Nat) (f : Ctx → Ctx) : (s.modCtx k f).tier = s.tier := rfl
@[simp] theorem State.modCtx_tierTags (s : State) (k : Nat) (f : Ctx → Ctx) : (s.modCtx k f).tierTags = s.tierTags := rfl
@[simp] theorem State.modCtx_images (s : State) (k : Nat) (f : Ctx → Ctx) : (s.modCtx k f).images = s.images := rfl
@[simp] theorem State.modCtx_snapSaved (s : State) (k : Nat) (f : Ctx → Ctx) : (s.modCtx k f).snapSaved = s.snapSaved := rfl
@[simp] theorem State.modCtx_grants (s : State) (k : Nat) (f : Ctx → Ctx) : (s.modCtx k f).grants = s.grants := rfl
@[simp] theorem State.modCtx_wayFaults (s : State) (k : Nat) (f : Ctx → Ctx) : (s.modCtx k f).wayFaults = s.wayFaults := rfl
@[simp] theorem State.modCtx_waysOff (s : State) (k : Nat) (f : Ctx → Ctx) : (s.modCtx k f).waysOff = s.waysOff := rfl
@[simp] theorem State.modCtx_slicesOff (s : State) (k : Nat) (f : Ctx → Ctx) : (s.modCtx k f).slicesOff = s.slicesOff := rfl
@[simp] theorem State.modCtx_errorLog (s : State) (k : Nat) (f : Ctx → Ctx) : (s.modCtx k f).errorLog = s.errorLog := rfl
@[simp] theorem State.modCtx_logLost (s : State) (k : Nat) (f : Ctx → Ctx) : (s.modCtx k f).logLost = s.logLost := rfl
@[simp] theorem State.modCtx_fwVersion (s : State) (k : Nat) (f : Ctx → Ctx) : (s.modCtx k f).fwVersion = s.fwVersion := rfl
@[simp] theorem State.modCtx_recovery (s : State) (k : Nat) (f : Ctx → Ctx) : (s.modCtx k f).recovery = s.recovery := rfl
@[simp] theorem State.modCtx_inReset (s : State) (k : Nat) (f : Ctx → Ctx) : (s.modCtx k f).inReset = s.inReset := rfl
@[simp] theorem State.modCtx_gate (s : State) (k : Nat) (f : Ctx → Ctx) : (s.modCtx k f).gate = s.gate := rfl
@[simp] theorem State.modCtx_outbox (s : State) (k : Nat) (f : Ctx → Ctx) : (s.modCtx k f).outbox = s.outbox := rfl

/-! ### Memory, tags and sectors -/

@[simp] theorem State.putMem_clock (s : State) (a : Nat) (bs : List Byte) : (s.putMem a bs).clock = s.clock := rfl
@[simp] theorem State.putMem_freeCtr (s : State) (a : Nat) (bs : List Byte) : (s.putMem a bs).freeCtr = s.freeCtr := rfl
@[simp] theorem State.putMem_nextId (s : State) (a : Nat) (bs : List Byte) : (s.putMem a bs).nextId = s.nextId := rfl
@[simp] theorem State.putMem_agenda (s : State) (a : Nat) (bs : List Byte) : (s.putMem a bs).agenda = s.agenda := rfl
@[simp] theorem State.putMem_issuing (s : State) (a : Nat) (bs : List Byte) : (s.putMem a bs).issuing = s.issuing := rfl
@[simp] theorem State.putMem_groups (s : State) (a : Nat) (bs : List Byte) : (s.putMem a bs).groups = s.groups := rfl
@[simp] theorem State.putMem_teams (s : State) (a : Nat) (bs : List Byte) : (s.putMem a bs).teams = s.teams := rfl
@[simp] theorem State.putMem_grids (s : State) (a : Nat) (bs : List Byte) : (s.putMem a bs).grids = s.grids := rfl
@[simp] theorem State.putMem_ctxs (s : State) (a : Nat) (bs : List Byte) : (s.putMem a bs).ctxs = s.ctxs := rfl
@[simp] theorem State.putMem_cfg (s : State) (a : Nat) (bs : List Byte) : (s.putMem a bs).cfg = s.cfg := rfl
@[simp] theorem State.putMem_flagev (s : State) (a : Nat) (bs : List Byte) : (s.putMem a bs).flagev = s.flagev := rfl
@[simp] theorem State.putMem_sfu (s : State) (a : Nat) (bs : List Byte) : (s.putMem a bs).sfu = s.sfu := rfl
@[simp] theorem State.putMem_deferred (s : State) (a : Nat) (bs : List Byte) : (s.putMem a bs).deferred = s.deferred := rfl
@[simp] theorem State.putMem_accesses (s : State) (a : Nat) (bs : List Byte) : (s.putMem a bs).accesses = s.accesses := rfl
@[simp] theorem State.putMem_mem (s : State) (a : Nat) (bs : List Byte) : (s.putMem a bs).mem = Memory.writeAll s.mem a bs := rfl
@[simp] theorem State.putMem_tags (s : State) (a : Nat) (bs : List Byte) : (s.putMem a bs).tags = s.tags := rfl
@[simp] theorem State.putMem_wsMask (s : State) (a : Nat) (bs : List Byte) : (s.putMem a bs).wsMask = s.wsMask := rfl
@[simp] theorem State.putMem_held (s : State) (a : Nat) (bs : List Byte) : (s.putMem a bs).held = s.held := rfl
@[simp] theorem State.putMem_requested (s : State) (a : Nat) (bs : List Byte) : (s.putMem a bs).requested = s.requested := rfl
@[simp] theorem State.putMem_overtaken (s : State) (a : Nat) (bs : List Byte) : (s.putMem a bs).overtaken = s.overtaken := rfl
@[simp] theorem State.putMem_putting (s : State) (a : Nat) (bs : List Byte) : (s.putMem a bs).putting = s.putting := rfl
@[simp] theorem State.putMem_sectors (s : State) (a : Nat) (bs : List Byte) : (s.putMem a bs).sectors = s.sectors := rfl
@[simp] theorem State.putMem_lines (s : State) (a : Nat) (bs : List Byte) : (s.putMem a bs).lines = s.lines := rfl
@[simp] theorem State.putMem_lts (s : State) (a : Nat) (bs : List Byte) : (s.putMem a bs).lts = s.lts := rfl
@[simp] theorem State.putMem_ltsBase (s : State) (a : Nat) (bs : List Byte) : (s.putMem a bs).ltsBase = s.ltsBase := rfl
@[simp] theorem State.putMem_floor (s : State) (a : Nat) (bs : List Byte) : (s.putMem a bs).floor = s.floor := rfl
@[simp] theorem State.putMem_era (s : State) (a : Nat) (bs : List Byte) : (s.putMem a bs).era = s.era := rfl
@[simp] theorem State.putMem_effectiveCfg (s : State) (a : Nat) (bs : List Byte) : (s.putMem a bs).effectiveCfg = s.effectiveCfg := rfl
@[simp] theorem State.putMem_coreTlb (s : State) (a : Nat) (bs : List Byte) : (s.putMem a bs).coreTlb = s.coreTlb := rfl
@[simp] theorem State.putMem_clusterTlb (s : State) (a : Nat) (bs : List Byte) : (s.putMem a bs).clusterTlb = s.clusterTlb := rfl
@[simp] theorem State.putMem_sides (s : State) (a : Nat) (bs : List Byte) : (s.putMem a bs).sides = s.sides := rfl
@[simp] theorem State.putMem_pageOps (s : State) (a : Nat) (bs : List Byte) : (s.putMem a bs).pageOps = s.pageOps := rfl
@[simp] theorem State.putMem_replicas (s : State) (a : Nat) (bs : List Byte) : (s.putMem a bs).replicas = s.replicas := rfl
@[simp] theorem State.putMem_replicaHere (s : State) (a : Nat) (bs : List Byte) : (s.putMem a bs).replicaHere = s.replicaHere := rfl
@[simp] theorem State.putMem_replicaCopies (s : State) (a : Nat) (bs : List Byte) : (s.putMem a bs).replicaCopies = s.replicaCopies := rfl
@[simp] theorem State.putMem_replicaStores (s : State) (a : Nat) (bs : List Byte) : (s.putMem a bs).replicaStores = s.replicaStores := rfl
@[simp] theorem State.putMem_txns (s : State) (a : Nat) (bs : List Byte) : (s.putMem a bs).txns = s.txns := rfl
@[simp] theorem State.putMem_waitingReqs (s : State) (a : Nat) (bs : List Byte) : (s.putMem a bs).waitingReqs = s.waitingReqs := rfl
@[simp] theorem State.putMem_remoteOps (s : State) (a : Nat) (bs : List Byte) : (s.putMem a bs).remoteOps = s.remoteOps := rfl
@[simp] theorem State.putMem_halves (s : State) (a : Nat) (bs : List Byte) : (s.putMem a bs).halves = s.halves := rfl
@[simp] theorem State.putMem_granted (s : State) (a : Nat) (bs : List Byte) : (s.putMem a bs).granted = s.granted := rfl
@[simp] theorem State.putMem_hostClean (s : State) (a : Nat) (bs : List Byte) : (s.putMem a bs).hostClean = s.hostClean := rfl
@[simp] theorem State.putMem_recalled (s : State) (a : Nat) (bs : List Byte) : (s.putMem a bs).recalled = s.recalled := rfl
@[simp] theorem State.putMem_clearing (s : State) (a : Nat) (bs : List Byte) : (s.putMem a bs).clearing = s.clearing := rfl
@[simp] theorem State.putMem_icache (s : State) (a : Nat) (bs : List Byte) : (s.putMem a bs).icache = s.icache := rfl
@[simp] theorem State.putMem_engineGrains (s : State) (a : Nat) (bs : List Byte) : (s.putMem a bs).engineGrains = s.engineGrains := rfl
@[simp] theorem State.putMem_atomev (s : State) (a : Nat) (bs : List Byte) : (s.putMem a bs).atomev = s.atomev := rfl
@[simp] theorem State.putMem_chip (s : State) (a : Nat) (bs : List Byte) : (s.putMem a bs).chip = s.chip := rfl
@[simp] theorem State.putMem_epoch (s : State) (a : Nat) (bs : List Byte) : (s.putMem a bs).epoch = s.epoch := rfl
@[simp] theorem State.putMem_snaps (s : State) (a : Nat) (bs : List Byte) : (s.putMem a bs).snaps = s.snaps := rfl
@[simp] theorem State.putMem_heldMsgs (s : State) (a : Nat) (bs : List Byte) : (s.putMem a bs).heldMsgs = s.heldMsgs := rfl
@[simp] theorem State.putMem_hostLines (s : State) (a : Nat) (bs : List Byte) : (s.putMem a bs).hostLines = s.hostLines := rfl
@[simp] theorem State.putMem_engLines (s : State) (a : Nat) (bs : List Byte) : (s.putMem a bs).engLines = s.engLines := rfl
@[simp] theorem State.putMem_engAsked (s : State) (a : Nat) (bs : List Byte) : (s.putMem a bs).engAsked = s.engAsked := rfl
@[simp] theorem State.putMem_engAnswers (s : State) (a : Nat) (bs : List Byte) : (s.putMem a bs).engAnswers = s.engAnswers := rfl
@[simp] theorem State.putMem_readWaits (s : State) (a : Nat) (bs : List Byte) : (s.putMem a bs).readWaits = s.readWaits := rfl
@[simp] theorem State.putMem_posted (s : State) (a : Nat) (bs : List Byte) : (s.putMem a bs).posted = s.posted := rfl
@[simp] theorem State.putMem_works (s : State) (a : Nat) (bs : List Byte) : (s.putMem a bs).works = s.works := rfl
@[simp] theorem State.putMem_latches (s : State) (a : Nat) (bs : List Byte) : (s.putMem a bs).latches = s.latches := rfl
@[simp] theorem State.putMem_latchWaits (s : State) (a : Nat) (bs : List Byte) : (s.putMem a bs).latchWaits = s.latchWaits := rfl
@[simp] theorem State.putMem_mcks (s : State) (a : Nat) (bs : List Byte) : (s.putMem a bs).mcks = s.mcks := rfl
@[simp] theorem State.putMem_injMat (s : State) (a : Nat) (bs : List Byte) : (s.putMem a bs).injMat = s.injMat := rfl
@[simp] theorem State.putMem_commands (s : State) (a : Nat) (bs : List Byte) : (s.putMem a bs).commands = s.commands := rfl
@[simp] theorem State.putMem_sendQ (s : State) (a : Nat) (bs : List Byte) : (s.putMem a bs).sendQ = s.sendQ := rfl
@[simp] theorem State.putMem_sendSeq (s : State) (a : Nat) (bs : List Byte) : (s.putMem a bs).sendSeq = s.sendSeq := rfl
@[simp] theorem State.putMem_kept (s : State) (a : Nat) (bs : List Byte) : (s.putMem a bs).kept = s.kept := rfl
@[simp] theorem State.putMem_recv (s : State) (a : Nat) (bs : List Byte) : (s.putMem a bs).recv = s.recv := rfl
@[simp] theorem State.putMem_slots (s : State) (a : Nat) (bs : List Byte) : (s.putMem a bs).slots = s.slots := rfl
@[simp] theorem State.putMem_filter (s : State) (a : Nat) (bs : List Byte) : (s.putMem a bs).filter = s.filter := rfl
@[simp] theorem State.putMem_lostSends (s : State) (a : Nat) (bs : List Byte) : (s.putMem a bs).lostSends = s.lostSends := rfl
@[simp] theorem State.putMem_fabCount (s : State) (a : Nat) (bs : List Byte) : (s.putMem a bs).fabCount = s.fabCount := rfl
@[simp] theorem State.putMem_path (s : State) (a : Nat) (bs : List Byte) : (s.putMem a bs).path = s.path := rfl
@[simp] theorem State.putMem_place (s : State) (a : Nat) (bs : List Byte) : (s.putMem a bs).place = s.place := rfl
@[simp] theorem State.putMem_combines (s : State) (a : Nat) (bs : List Byte) : (s.putMem a bs).combines = s.combines := rfl
@[simp] theorem State.putMem_injFrag (s : State) (a : Nat) (bs : List Byte) : (s.putMem a bs).injFrag = s.injFrag := rfl
@[simp] theorem State.putMem_stepNotices (s : State) (a : Nat) (bs : List Byte) : (s.putMem a bs).stepNotices = s.stepNotices := rfl
@[simp] theorem State.putMem_pageUse (s : State) (a : Nat) (bs : List Byte) : (s.putMem a bs).pageUse = s.pageUse := rfl
@[simp] theorem State.putMem_tier (s : State) (a : Nat) (bs : List Byte) : (s.putMem a bs).tier = s.tier := rfl
@[simp] theorem State.putMem_tierTags (s : State) (a : Nat) (bs : List Byte) : (s.putMem a bs).tierTags = s.tierTags := rfl
@[simp] theorem State.putMem_images (s : State) (a : Nat) (bs : List Byte) : (s.putMem a bs).images = s.images := rfl
@[simp] theorem State.putMem_snapSaved (s : State) (a : Nat) (bs : List Byte) : (s.putMem a bs).snapSaved = s.snapSaved := rfl
@[simp] theorem State.putMem_grants (s : State) (a : Nat) (bs : List Byte) : (s.putMem a bs).grants = s.grants := rfl
@[simp] theorem State.putMem_wayFaults (s : State) (a : Nat) (bs : List Byte) : (s.putMem a bs).wayFaults = s.wayFaults := rfl
@[simp] theorem State.putMem_waysOff (s : State) (a : Nat) (bs : List Byte) : (s.putMem a bs).waysOff = s.waysOff := rfl
@[simp] theorem State.putMem_slicesOff (s : State) (a : Nat) (bs : List Byte) : (s.putMem a bs).slicesOff = s.slicesOff := rfl
@[simp] theorem State.putMem_errorLog (s : State) (a : Nat) (bs : List Byte) : (s.putMem a bs).errorLog = s.errorLog := rfl
@[simp] theorem State.putMem_logLost (s : State) (a : Nat) (bs : List Byte) : (s.putMem a bs).logLost = s.logLost := rfl
@[simp] theorem State.putMem_fwVersion (s : State) (a : Nat) (bs : List Byte) : (s.putMem a bs).fwVersion = s.fwVersion := rfl
@[simp] theorem State.putMem_recovery (s : State) (a : Nat) (bs : List Byte) : (s.putMem a bs).recovery = s.recovery := rfl
@[simp] theorem State.putMem_inReset (s : State) (a : Nat) (bs : List Byte) : (s.putMem a bs).inReset = s.inReset := rfl
@[simp] theorem State.putMem_gate (s : State) (a : Nat) (bs : List Byte) : (s.putMem a bs).gate = s.gate := rfl
@[simp] theorem State.putMem_outbox (s : State) (a : Nat) (bs : List Byte) : (s.putMem a bs).outbox = s.outbox := rfl
@[simp] theorem State.setTag_clock (s : State) (g : Nat) (t : BitVec 64) : (s.setTag g t).clock = s.clock := rfl
@[simp] theorem State.setTag_freeCtr (s : State) (g : Nat) (t : BitVec 64) : (s.setTag g t).freeCtr = s.freeCtr := rfl
@[simp] theorem State.setTag_nextId (s : State) (g : Nat) (t : BitVec 64) : (s.setTag g t).nextId = s.nextId := rfl
@[simp] theorem State.setTag_agenda (s : State) (g : Nat) (t : BitVec 64) : (s.setTag g t).agenda = s.agenda := rfl
@[simp] theorem State.setTag_issuing (s : State) (g : Nat) (t : BitVec 64) : (s.setTag g t).issuing = s.issuing := rfl
@[simp] theorem State.setTag_groups (s : State) (g : Nat) (t : BitVec 64) : (s.setTag g t).groups = s.groups := rfl
@[simp] theorem State.setTag_teams (s : State) (g : Nat) (t : BitVec 64) : (s.setTag g t).teams = s.teams := rfl
@[simp] theorem State.setTag_grids (s : State) (g : Nat) (t : BitVec 64) : (s.setTag g t).grids = s.grids := rfl
@[simp] theorem State.setTag_ctxs (s : State) (g : Nat) (t : BitVec 64) : (s.setTag g t).ctxs = s.ctxs := rfl
@[simp] theorem State.setTag_cfg (s : State) (g : Nat) (t : BitVec 64) : (s.setTag g t).cfg = s.cfg := rfl
@[simp] theorem State.setTag_flagev (s : State) (g : Nat) (t : BitVec 64) : (s.setTag g t).flagev = s.flagev := rfl
@[simp] theorem State.setTag_sfu (s : State) (g : Nat) (t : BitVec 64) : (s.setTag g t).sfu = s.sfu := rfl
@[simp] theorem State.setTag_deferred (s : State) (g : Nat) (t : BitVec 64) : (s.setTag g t).deferred = s.deferred := rfl
@[simp] theorem State.setTag_accesses (s : State) (g : Nat) (t : BitVec 64) : (s.setTag g t).accesses = s.accesses := rfl
@[simp] theorem State.setTag_mem (s : State) (g : Nat) (t : BitVec 64) : (s.setTag g t).mem = s.mem := rfl
@[simp] theorem State.setTag_tags (s : State) (g : Nat) (t : BitVec 64) : (s.setTag g t).tags = s.tags.put g t 0 := rfl
@[simp] theorem State.setTag_wsMask (s : State) (g : Nat) (t : BitVec 64) : (s.setTag g t).wsMask = s.wsMask := rfl
@[simp] theorem State.setTag_held (s : State) (g : Nat) (t : BitVec 64) : (s.setTag g t).held = s.held := rfl
@[simp] theorem State.setTag_requested (s : State) (g : Nat) (t : BitVec 64) : (s.setTag g t).requested = s.requested := rfl
@[simp] theorem State.setTag_overtaken (s : State) (g : Nat) (t : BitVec 64) : (s.setTag g t).overtaken = s.overtaken := rfl
@[simp] theorem State.setTag_putting (s : State) (g : Nat) (t : BitVec 64) : (s.setTag g t).putting = s.putting := rfl
@[simp] theorem State.setTag_sectors (s : State) (g : Nat) (t : BitVec 64) : (s.setTag g t).sectors = s.sectors := rfl
@[simp] theorem State.setTag_lines (s : State) (g : Nat) (t : BitVec 64) : (s.setTag g t).lines = s.lines := rfl
@[simp] theorem State.setTag_lts (s : State) (g : Nat) (t : BitVec 64) : (s.setTag g t).lts = s.lts := rfl
@[simp] theorem State.setTag_ltsBase (s : State) (g : Nat) (t : BitVec 64) : (s.setTag g t).ltsBase = s.ltsBase := rfl
@[simp] theorem State.setTag_floor (s : State) (g : Nat) (t : BitVec 64) : (s.setTag g t).floor = s.floor := rfl
@[simp] theorem State.setTag_era (s : State) (g : Nat) (t : BitVec 64) : (s.setTag g t).era = s.era := rfl
@[simp] theorem State.setTag_effectiveCfg (s : State) (g : Nat) (t : BitVec 64) : (s.setTag g t).effectiveCfg = s.effectiveCfg := rfl
@[simp] theorem State.setTag_coreTlb (s : State) (g : Nat) (t : BitVec 64) : (s.setTag g t).coreTlb = s.coreTlb := rfl
@[simp] theorem State.setTag_clusterTlb (s : State) (g : Nat) (t : BitVec 64) : (s.setTag g t).clusterTlb = s.clusterTlb := rfl
@[simp] theorem State.setTag_sides (s : State) (g : Nat) (t : BitVec 64) : (s.setTag g t).sides = s.sides := rfl
@[simp] theorem State.setTag_pageOps (s : State) (g : Nat) (t : BitVec 64) : (s.setTag g t).pageOps = s.pageOps := rfl
@[simp] theorem State.setTag_replicas (s : State) (g : Nat) (t : BitVec 64) : (s.setTag g t).replicas = s.replicas := rfl
@[simp] theorem State.setTag_replicaHere (s : State) (g : Nat) (t : BitVec 64) : (s.setTag g t).replicaHere = s.replicaHere := rfl
@[simp] theorem State.setTag_replicaCopies (s : State) (g : Nat) (t : BitVec 64) : (s.setTag g t).replicaCopies = s.replicaCopies := rfl
@[simp] theorem State.setTag_replicaStores (s : State) (g : Nat) (t : BitVec 64) : (s.setTag g t).replicaStores = s.replicaStores := rfl
@[simp] theorem State.setTag_txns (s : State) (g : Nat) (t : BitVec 64) : (s.setTag g t).txns = s.txns := rfl
@[simp] theorem State.setTag_waitingReqs (s : State) (g : Nat) (t : BitVec 64) : (s.setTag g t).waitingReqs = s.waitingReqs := rfl
@[simp] theorem State.setTag_remoteOps (s : State) (g : Nat) (t : BitVec 64) : (s.setTag g t).remoteOps = s.remoteOps := rfl
@[simp] theorem State.setTag_halves (s : State) (g : Nat) (t : BitVec 64) : (s.setTag g t).halves = s.halves := rfl
@[simp] theorem State.setTag_granted (s : State) (g : Nat) (t : BitVec 64) : (s.setTag g t).granted = s.granted := rfl
@[simp] theorem State.setTag_hostClean (s : State) (g : Nat) (t : BitVec 64) : (s.setTag g t).hostClean = s.hostClean := rfl
@[simp] theorem State.setTag_recalled (s : State) (g : Nat) (t : BitVec 64) : (s.setTag g t).recalled = s.recalled := rfl
@[simp] theorem State.setTag_clearing (s : State) (g : Nat) (t : BitVec 64) : (s.setTag g t).clearing = s.clearing := rfl
@[simp] theorem State.setTag_icache (s : State) (g : Nat) (t : BitVec 64) : (s.setTag g t).icache = s.icache := rfl
@[simp] theorem State.setTag_engineGrains (s : State) (g : Nat) (t : BitVec 64) : (s.setTag g t).engineGrains = s.engineGrains := rfl
@[simp] theorem State.setTag_atomev (s : State) (g : Nat) (t : BitVec 64) : (s.setTag g t).atomev = s.atomev := rfl
@[simp] theorem State.setTag_chip (s : State) (g : Nat) (t : BitVec 64) : (s.setTag g t).chip = s.chip := rfl
@[simp] theorem State.setTag_epoch (s : State) (g : Nat) (t : BitVec 64) : (s.setTag g t).epoch = s.epoch := rfl
@[simp] theorem State.setTag_snaps (s : State) (g : Nat) (t : BitVec 64) : (s.setTag g t).snaps = s.snaps := rfl
@[simp] theorem State.setTag_heldMsgs (s : State) (g : Nat) (t : BitVec 64) : (s.setTag g t).heldMsgs = s.heldMsgs := rfl
@[simp] theorem State.setTag_hostLines (s : State) (g : Nat) (t : BitVec 64) : (s.setTag g t).hostLines = s.hostLines := rfl
@[simp] theorem State.setTag_engLines (s : State) (g : Nat) (t : BitVec 64) : (s.setTag g t).engLines = s.engLines := rfl
@[simp] theorem State.setTag_engAsked (s : State) (g : Nat) (t : BitVec 64) : (s.setTag g t).engAsked = s.engAsked := rfl
@[simp] theorem State.setTag_engAnswers (s : State) (g : Nat) (t : BitVec 64) : (s.setTag g t).engAnswers = s.engAnswers := rfl
@[simp] theorem State.setTag_readWaits (s : State) (g : Nat) (t : BitVec 64) : (s.setTag g t).readWaits = s.readWaits := rfl
@[simp] theorem State.setTag_posted (s : State) (g : Nat) (t : BitVec 64) : (s.setTag g t).posted = s.posted := rfl
@[simp] theorem State.setTag_works (s : State) (g : Nat) (t : BitVec 64) : (s.setTag g t).works = s.works := rfl
@[simp] theorem State.setTag_latches (s : State) (g : Nat) (t : BitVec 64) : (s.setTag g t).latches = s.latches := rfl
@[simp] theorem State.setTag_latchWaits (s : State) (g : Nat) (t : BitVec 64) : (s.setTag g t).latchWaits = s.latchWaits := rfl
@[simp] theorem State.setTag_mcks (s : State) (g : Nat) (t : BitVec 64) : (s.setTag g t).mcks = s.mcks := rfl
@[simp] theorem State.setTag_injMat (s : State) (g : Nat) (t : BitVec 64) : (s.setTag g t).injMat = s.injMat := rfl
@[simp] theorem State.setTag_commands (s : State) (g : Nat) (t : BitVec 64) : (s.setTag g t).commands = s.commands := rfl
@[simp] theorem State.setTag_sendQ (s : State) (g : Nat) (t : BitVec 64) : (s.setTag g t).sendQ = s.sendQ := rfl
@[simp] theorem State.setTag_sendSeq (s : State) (g : Nat) (t : BitVec 64) : (s.setTag g t).sendSeq = s.sendSeq := rfl
@[simp] theorem State.setTag_kept (s : State) (g : Nat) (t : BitVec 64) : (s.setTag g t).kept = s.kept := rfl
@[simp] theorem State.setTag_recv (s : State) (g : Nat) (t : BitVec 64) : (s.setTag g t).recv = s.recv := rfl
@[simp] theorem State.setTag_slots (s : State) (g : Nat) (t : BitVec 64) : (s.setTag g t).slots = s.slots := rfl
@[simp] theorem State.setTag_filter (s : State) (g : Nat) (t : BitVec 64) : (s.setTag g t).filter = s.filter := rfl
@[simp] theorem State.setTag_lostSends (s : State) (g : Nat) (t : BitVec 64) : (s.setTag g t).lostSends = s.lostSends := rfl
@[simp] theorem State.setTag_fabCount (s : State) (g : Nat) (t : BitVec 64) : (s.setTag g t).fabCount = s.fabCount := rfl
@[simp] theorem State.setTag_path (s : State) (g : Nat) (t : BitVec 64) : (s.setTag g t).path = s.path := rfl
@[simp] theorem State.setTag_place (s : State) (g : Nat) (t : BitVec 64) : (s.setTag g t).place = s.place := rfl
@[simp] theorem State.setTag_combines (s : State) (g : Nat) (t : BitVec 64) : (s.setTag g t).combines = s.combines := rfl
@[simp] theorem State.setTag_injFrag (s : State) (g : Nat) (t : BitVec 64) : (s.setTag g t).injFrag = s.injFrag := rfl
@[simp] theorem State.setTag_stepNotices (s : State) (g : Nat) (t : BitVec 64) : (s.setTag g t).stepNotices = s.stepNotices := rfl
@[simp] theorem State.setTag_pageUse (s : State) (g : Nat) (t : BitVec 64) : (s.setTag g t).pageUse = s.pageUse := rfl
@[simp] theorem State.setTag_tier (s : State) (g : Nat) (t : BitVec 64) : (s.setTag g t).tier = s.tier := rfl
@[simp] theorem State.setTag_tierTags (s : State) (g : Nat) (t : BitVec 64) : (s.setTag g t).tierTags = s.tierTags := rfl
@[simp] theorem State.setTag_images (s : State) (g : Nat) (t : BitVec 64) : (s.setTag g t).images = s.images := rfl
@[simp] theorem State.setTag_snapSaved (s : State) (g : Nat) (t : BitVec 64) : (s.setTag g t).snapSaved = s.snapSaved := rfl
@[simp] theorem State.setTag_grants (s : State) (g : Nat) (t : BitVec 64) : (s.setTag g t).grants = s.grants := rfl
@[simp] theorem State.setTag_wayFaults (s : State) (g : Nat) (t : BitVec 64) : (s.setTag g t).wayFaults = s.wayFaults := rfl
@[simp] theorem State.setTag_waysOff (s : State) (g : Nat) (t : BitVec 64) : (s.setTag g t).waysOff = s.waysOff := rfl
@[simp] theorem State.setTag_slicesOff (s : State) (g : Nat) (t : BitVec 64) : (s.setTag g t).slicesOff = s.slicesOff := rfl
@[simp] theorem State.setTag_errorLog (s : State) (g : Nat) (t : BitVec 64) : (s.setTag g t).errorLog = s.errorLog := rfl
@[simp] theorem State.setTag_logLost (s : State) (g : Nat) (t : BitVec 64) : (s.setTag g t).logLost = s.logLost := rfl
@[simp] theorem State.setTag_fwVersion (s : State) (g : Nat) (t : BitVec 64) : (s.setTag g t).fwVersion = s.fwVersion := rfl
@[simp] theorem State.setTag_recovery (s : State) (g : Nat) (t : BitVec 64) : (s.setTag g t).recovery = s.recovery := rfl
@[simp] theorem State.setTag_inReset (s : State) (g : Nat) (t : BitVec 64) : (s.setTag g t).inReset = s.inReset := rfl
@[simp] theorem State.setTag_gate (s : State) (g : Nat) (t : BitVec 64) : (s.setTag g t).gate = s.gate := rfl
@[simp] theorem State.setTag_outbox (s : State) (g : Nat) (t : BitVec 64) : (s.setTag g t).outbox = s.outbox := rfl
@[simp] theorem State.setSector_clock (s : State) (a : Nat) (x : Sector) : (s.setSector a x).clock = s.clock := rfl
@[simp] theorem State.setSector_freeCtr (s : State) (a : Nat) (x : Sector) : (s.setSector a x).freeCtr = s.freeCtr := rfl
@[simp] theorem State.setSector_nextId (s : State) (a : Nat) (x : Sector) : (s.setSector a x).nextId = s.nextId := rfl
@[simp] theorem State.setSector_agenda (s : State) (a : Nat) (x : Sector) : (s.setSector a x).agenda = s.agenda := rfl
@[simp] theorem State.setSector_issuing (s : State) (a : Nat) (x : Sector) : (s.setSector a x).issuing = s.issuing := rfl
@[simp] theorem State.setSector_groups (s : State) (a : Nat) (x : Sector) : (s.setSector a x).groups = s.groups := rfl
@[simp] theorem State.setSector_teams (s : State) (a : Nat) (x : Sector) : (s.setSector a x).teams = s.teams := rfl
@[simp] theorem State.setSector_grids (s : State) (a : Nat) (x : Sector) : (s.setSector a x).grids = s.grids := rfl
@[simp] theorem State.setSector_ctxs (s : State) (a : Nat) (x : Sector) : (s.setSector a x).ctxs = s.ctxs := rfl
@[simp] theorem State.setSector_cfg (s : State) (a : Nat) (x : Sector) : (s.setSector a x).cfg = s.cfg := rfl
@[simp] theorem State.setSector_flagev (s : State) (a : Nat) (x : Sector) : (s.setSector a x).flagev = s.flagev := rfl
@[simp] theorem State.setSector_sfu (s : State) (a : Nat) (x : Sector) : (s.setSector a x).sfu = s.sfu := rfl
@[simp] theorem State.setSector_deferred (s : State) (a : Nat) (x : Sector) : (s.setSector a x).deferred = s.deferred := rfl
@[simp] theorem State.setSector_accesses (s : State) (a : Nat) (x : Sector) : (s.setSector a x).accesses = s.accesses := rfl
@[simp] theorem State.setSector_mem (s : State) (a : Nat) (x : Sector) : (s.setSector a x).mem = s.mem := rfl
@[simp] theorem State.setSector_tags (s : State) (a : Nat) (x : Sector) : (s.setSector a x).tags = s.tags := rfl
@[simp] theorem State.setSector_wsMask (s : State) (a : Nat) (x : Sector) : (s.setSector a x).wsMask = s.wsMask := rfl
@[simp] theorem State.setSector_held (s : State) (a : Nat) (x : Sector) : (s.setSector a x).held = s.held := rfl
@[simp] theorem State.setSector_requested (s : State) (a : Nat) (x : Sector) : (s.setSector a x).requested = s.requested := rfl
@[simp] theorem State.setSector_overtaken (s : State) (a : Nat) (x : Sector) : (s.setSector a x).overtaken = s.overtaken := rfl
@[simp] theorem State.setSector_putting (s : State) (a : Nat) (x : Sector) : (s.setSector a x).putting = s.putting := rfl
@[simp] theorem State.setSector_sectors (s : State) (a : Nat) (x : Sector) : (s.setSector a x).sectors = s.sectors.insert (a / 128) x := rfl
@[simp] theorem State.setSector_lines (s : State) (a : Nat) (x : Sector) : (s.setSector a x).lines = s.lines := rfl
@[simp] theorem State.setSector_lts (s : State) (a : Nat) (x : Sector) : (s.setSector a x).lts = s.lts := rfl
@[simp] theorem State.setSector_ltsBase (s : State) (a : Nat) (x : Sector) : (s.setSector a x).ltsBase = s.ltsBase := rfl
@[simp] theorem State.setSector_floor (s : State) (a : Nat) (x : Sector) : (s.setSector a x).floor = s.floor := rfl
@[simp] theorem State.setSector_era (s : State) (a : Nat) (x : Sector) : (s.setSector a x).era = s.era := rfl
@[simp] theorem State.setSector_effectiveCfg (s : State) (a : Nat) (x : Sector) : (s.setSector a x).effectiveCfg = s.effectiveCfg := rfl
@[simp] theorem State.setSector_coreTlb (s : State) (a : Nat) (x : Sector) : (s.setSector a x).coreTlb = s.coreTlb := rfl
@[simp] theorem State.setSector_clusterTlb (s : State) (a : Nat) (x : Sector) : (s.setSector a x).clusterTlb = s.clusterTlb := rfl
@[simp] theorem State.setSector_sides (s : State) (a : Nat) (x : Sector) : (s.setSector a x).sides = s.sides := rfl
@[simp] theorem State.setSector_pageOps (s : State) (a : Nat) (x : Sector) : (s.setSector a x).pageOps = s.pageOps := rfl
@[simp] theorem State.setSector_replicas (s : State) (a : Nat) (x : Sector) : (s.setSector a x).replicas = s.replicas := rfl
@[simp] theorem State.setSector_replicaHere (s : State) (a : Nat) (x : Sector) : (s.setSector a x).replicaHere = s.replicaHere := rfl
@[simp] theorem State.setSector_replicaCopies (s : State) (a : Nat) (x : Sector) : (s.setSector a x).replicaCopies = s.replicaCopies := rfl
@[simp] theorem State.setSector_replicaStores (s : State) (a : Nat) (x : Sector) : (s.setSector a x).replicaStores = s.replicaStores := rfl
@[simp] theorem State.setSector_txns (s : State) (a : Nat) (x : Sector) : (s.setSector a x).txns = s.txns := rfl
@[simp] theorem State.setSector_waitingReqs (s : State) (a : Nat) (x : Sector) : (s.setSector a x).waitingReqs = s.waitingReqs := rfl
@[simp] theorem State.setSector_remoteOps (s : State) (a : Nat) (x : Sector) : (s.setSector a x).remoteOps = s.remoteOps := rfl
@[simp] theorem State.setSector_halves (s : State) (a : Nat) (x : Sector) : (s.setSector a x).halves = s.halves := rfl
@[simp] theorem State.setSector_granted (s : State) (a : Nat) (x : Sector) : (s.setSector a x).granted = s.granted := rfl
@[simp] theorem State.setSector_hostClean (s : State) (a : Nat) (x : Sector) : (s.setSector a x).hostClean = s.hostClean := rfl
@[simp] theorem State.setSector_recalled (s : State) (a : Nat) (x : Sector) : (s.setSector a x).recalled = s.recalled := rfl
@[simp] theorem State.setSector_clearing (s : State) (a : Nat) (x : Sector) : (s.setSector a x).clearing = s.clearing := rfl
@[simp] theorem State.setSector_icache (s : State) (a : Nat) (x : Sector) : (s.setSector a x).icache = s.icache := rfl
@[simp] theorem State.setSector_engineGrains (s : State) (a : Nat) (x : Sector) : (s.setSector a x).engineGrains = s.engineGrains := rfl
@[simp] theorem State.setSector_atomev (s : State) (a : Nat) (x : Sector) : (s.setSector a x).atomev = s.atomev := rfl
@[simp] theorem State.setSector_chip (s : State) (a : Nat) (x : Sector) : (s.setSector a x).chip = s.chip := rfl
@[simp] theorem State.setSector_epoch (s : State) (a : Nat) (x : Sector) : (s.setSector a x).epoch = s.epoch := rfl
@[simp] theorem State.setSector_snaps (s : State) (a : Nat) (x : Sector) : (s.setSector a x).snaps = s.snaps := rfl
@[simp] theorem State.setSector_heldMsgs (s : State) (a : Nat) (x : Sector) : (s.setSector a x).heldMsgs = s.heldMsgs := rfl
@[simp] theorem State.setSector_hostLines (s : State) (a : Nat) (x : Sector) : (s.setSector a x).hostLines = s.hostLines := rfl
@[simp] theorem State.setSector_engLines (s : State) (a : Nat) (x : Sector) : (s.setSector a x).engLines = s.engLines := rfl
@[simp] theorem State.setSector_engAsked (s : State) (a : Nat) (x : Sector) : (s.setSector a x).engAsked = s.engAsked := rfl
@[simp] theorem State.setSector_engAnswers (s : State) (a : Nat) (x : Sector) : (s.setSector a x).engAnswers = s.engAnswers := rfl
@[simp] theorem State.setSector_readWaits (s : State) (a : Nat) (x : Sector) : (s.setSector a x).readWaits = s.readWaits := rfl
@[simp] theorem State.setSector_posted (s : State) (a : Nat) (x : Sector) : (s.setSector a x).posted = s.posted := rfl
@[simp] theorem State.setSector_works (s : State) (a : Nat) (x : Sector) : (s.setSector a x).works = s.works := rfl
@[simp] theorem State.setSector_latches (s : State) (a : Nat) (x : Sector) : (s.setSector a x).latches = s.latches := rfl
@[simp] theorem State.setSector_latchWaits (s : State) (a : Nat) (x : Sector) : (s.setSector a x).latchWaits = s.latchWaits := rfl
@[simp] theorem State.setSector_mcks (s : State) (a : Nat) (x : Sector) : (s.setSector a x).mcks = s.mcks := rfl
@[simp] theorem State.setSector_injMat (s : State) (a : Nat) (x : Sector) : (s.setSector a x).injMat = s.injMat := rfl
@[simp] theorem State.setSector_commands (s : State) (a : Nat) (x : Sector) : (s.setSector a x).commands = s.commands := rfl
@[simp] theorem State.setSector_sendQ (s : State) (a : Nat) (x : Sector) : (s.setSector a x).sendQ = s.sendQ := rfl
@[simp] theorem State.setSector_sendSeq (s : State) (a : Nat) (x : Sector) : (s.setSector a x).sendSeq = s.sendSeq := rfl
@[simp] theorem State.setSector_kept (s : State) (a : Nat) (x : Sector) : (s.setSector a x).kept = s.kept := rfl
@[simp] theorem State.setSector_recv (s : State) (a : Nat) (x : Sector) : (s.setSector a x).recv = s.recv := rfl
@[simp] theorem State.setSector_slots (s : State) (a : Nat) (x : Sector) : (s.setSector a x).slots = s.slots := rfl
@[simp] theorem State.setSector_filter (s : State) (a : Nat) (x : Sector) : (s.setSector a x).filter = s.filter := rfl
@[simp] theorem State.setSector_lostSends (s : State) (a : Nat) (x : Sector) : (s.setSector a x).lostSends = s.lostSends := rfl
@[simp] theorem State.setSector_fabCount (s : State) (a : Nat) (x : Sector) : (s.setSector a x).fabCount = s.fabCount := rfl
@[simp] theorem State.setSector_path (s : State) (a : Nat) (x : Sector) : (s.setSector a x).path = s.path := rfl
@[simp] theorem State.setSector_place (s : State) (a : Nat) (x : Sector) : (s.setSector a x).place = s.place := rfl
@[simp] theorem State.setSector_combines (s : State) (a : Nat) (x : Sector) : (s.setSector a x).combines = s.combines := rfl
@[simp] theorem State.setSector_injFrag (s : State) (a : Nat) (x : Sector) : (s.setSector a x).injFrag = s.injFrag := rfl
@[simp] theorem State.setSector_stepNotices (s : State) (a : Nat) (x : Sector) : (s.setSector a x).stepNotices = s.stepNotices := rfl
@[simp] theorem State.setSector_pageUse (s : State) (a : Nat) (x : Sector) : (s.setSector a x).pageUse = s.pageUse := rfl
@[simp] theorem State.setSector_tier (s : State) (a : Nat) (x : Sector) : (s.setSector a x).tier = s.tier := rfl
@[simp] theorem State.setSector_tierTags (s : State) (a : Nat) (x : Sector) : (s.setSector a x).tierTags = s.tierTags := rfl
@[simp] theorem State.setSector_images (s : State) (a : Nat) (x : Sector) : (s.setSector a x).images = s.images := rfl
@[simp] theorem State.setSector_snapSaved (s : State) (a : Nat) (x : Sector) : (s.setSector a x).snapSaved = s.snapSaved := rfl
@[simp] theorem State.setSector_grants (s : State) (a : Nat) (x : Sector) : (s.setSector a x).grants = s.grants := rfl
@[simp] theorem State.setSector_wayFaults (s : State) (a : Nat) (x : Sector) : (s.setSector a x).wayFaults = s.wayFaults := rfl
@[simp] theorem State.setSector_waysOff (s : State) (a : Nat) (x : Sector) : (s.setSector a x).waysOff = s.waysOff := rfl
@[simp] theorem State.setSector_slicesOff (s : State) (a : Nat) (x : Sector) : (s.setSector a x).slicesOff = s.slicesOff := rfl
@[simp] theorem State.setSector_errorLog (s : State) (a : Nat) (x : Sector) : (s.setSector a x).errorLog = s.errorLog := rfl
@[simp] theorem State.setSector_logLost (s : State) (a : Nat) (x : Sector) : (s.setSector a x).logLost = s.logLost := rfl
@[simp] theorem State.setSector_fwVersion (s : State) (a : Nat) (x : Sector) : (s.setSector a x).fwVersion = s.fwVersion := rfl
@[simp] theorem State.setSector_recovery (s : State) (a : Nat) (x : Sector) : (s.setSector a x).recovery = s.recovery := rfl
@[simp] theorem State.setSector_inReset (s : State) (a : Nat) (x : Sector) : (s.setSector a x).inReset = s.inReset := rfl
@[simp] theorem State.setSector_gate (s : State) (a : Nat) (x : Sector) : (s.setSector a x).gate = s.gate := rfl
@[simp] theorem State.setSector_outbox (s : State) (a : Nat) (x : Sector) : (s.setSector a x).outbox = s.outbox := rfl

/-! ### Deferred events and what leaves the module -/

@[simp] theorem State.modEvent_clock (s : State) (k : Nat) (f : Deferred → Deferred) : (s.modEvent k f).clock = s.clock := rfl
@[simp] theorem State.modEvent_freeCtr (s : State) (k : Nat) (f : Deferred → Deferred) : (s.modEvent k f).freeCtr = s.freeCtr := rfl
@[simp] theorem State.modEvent_nextId (s : State) (k : Nat) (f : Deferred → Deferred) : (s.modEvent k f).nextId = s.nextId := rfl
@[simp] theorem State.modEvent_agenda (s : State) (k : Nat) (f : Deferred → Deferred) : (s.modEvent k f).agenda = s.agenda := rfl
@[simp] theorem State.modEvent_issuing (s : State) (k : Nat) (f : Deferred → Deferred) : (s.modEvent k f).issuing = s.issuing := rfl
@[simp] theorem State.modEvent_groups (s : State) (k : Nat) (f : Deferred → Deferred) : (s.modEvent k f).groups = s.groups := rfl
@[simp] theorem State.modEvent_teams (s : State) (k : Nat) (f : Deferred → Deferred) : (s.modEvent k f).teams = s.teams := rfl
@[simp] theorem State.modEvent_grids (s : State) (k : Nat) (f : Deferred → Deferred) : (s.modEvent k f).grids = s.grids := rfl
@[simp] theorem State.modEvent_ctxs (s : State) (k : Nat) (f : Deferred → Deferred) : (s.modEvent k f).ctxs = s.ctxs := rfl
@[simp] theorem State.modEvent_cfg (s : State) (k : Nat) (f : Deferred → Deferred) : (s.modEvent k f).cfg = s.cfg := rfl
@[simp] theorem State.modEvent_flagev (s : State) (k : Nat) (f : Deferred → Deferred) : (s.modEvent k f).flagev = s.flagev := rfl
@[simp] theorem State.modEvent_sfu (s : State) (k : Nat) (f : Deferred → Deferred) : (s.modEvent k f).sfu = s.sfu := rfl
@[simp] theorem State.modEvent_deferred (s : State) (k : Nat) (f : Deferred → Deferred) : (s.modEvent k f).deferred = s.deferred.modify k f := rfl
@[simp] theorem State.modEvent_accesses (s : State) (k : Nat) (f : Deferred → Deferred) : (s.modEvent k f).accesses = s.accesses := rfl
@[simp] theorem State.modEvent_mem (s : State) (k : Nat) (f : Deferred → Deferred) : (s.modEvent k f).mem = s.mem := rfl
@[simp] theorem State.modEvent_tags (s : State) (k : Nat) (f : Deferred → Deferred) : (s.modEvent k f).tags = s.tags := rfl
@[simp] theorem State.modEvent_wsMask (s : State) (k : Nat) (f : Deferred → Deferred) : (s.modEvent k f).wsMask = s.wsMask := rfl
@[simp] theorem State.modEvent_held (s : State) (k : Nat) (f : Deferred → Deferred) : (s.modEvent k f).held = s.held := rfl
@[simp] theorem State.modEvent_requested (s : State) (k : Nat) (f : Deferred → Deferred) : (s.modEvent k f).requested = s.requested := rfl
@[simp] theorem State.modEvent_overtaken (s : State) (k : Nat) (f : Deferred → Deferred) : (s.modEvent k f).overtaken = s.overtaken := rfl
@[simp] theorem State.modEvent_putting (s : State) (k : Nat) (f : Deferred → Deferred) : (s.modEvent k f).putting = s.putting := rfl
@[simp] theorem State.modEvent_sectors (s : State) (k : Nat) (f : Deferred → Deferred) : (s.modEvent k f).sectors = s.sectors := rfl
@[simp] theorem State.modEvent_lines (s : State) (k : Nat) (f : Deferred → Deferred) : (s.modEvent k f).lines = s.lines := rfl
@[simp] theorem State.modEvent_lts (s : State) (k : Nat) (f : Deferred → Deferred) : (s.modEvent k f).lts = s.lts := rfl
@[simp] theorem State.modEvent_ltsBase (s : State) (k : Nat) (f : Deferred → Deferred) : (s.modEvent k f).ltsBase = s.ltsBase := rfl
@[simp] theorem State.modEvent_floor (s : State) (k : Nat) (f : Deferred → Deferred) : (s.modEvent k f).floor = s.floor := rfl
@[simp] theorem State.modEvent_era (s : State) (k : Nat) (f : Deferred → Deferred) : (s.modEvent k f).era = s.era := rfl
@[simp] theorem State.modEvent_effectiveCfg (s : State) (k : Nat) (f : Deferred → Deferred) : (s.modEvent k f).effectiveCfg = s.effectiveCfg := rfl
@[simp] theorem State.modEvent_coreTlb (s : State) (k : Nat) (f : Deferred → Deferred) : (s.modEvent k f).coreTlb = s.coreTlb := rfl
@[simp] theorem State.modEvent_clusterTlb (s : State) (k : Nat) (f : Deferred → Deferred) : (s.modEvent k f).clusterTlb = s.clusterTlb := rfl
@[simp] theorem State.modEvent_sides (s : State) (k : Nat) (f : Deferred → Deferred) : (s.modEvent k f).sides = s.sides := rfl
@[simp] theorem State.modEvent_pageOps (s : State) (k : Nat) (f : Deferred → Deferred) : (s.modEvent k f).pageOps = s.pageOps := rfl
@[simp] theorem State.modEvent_replicas (s : State) (k : Nat) (f : Deferred → Deferred) : (s.modEvent k f).replicas = s.replicas := rfl
@[simp] theorem State.modEvent_replicaHere (s : State) (k : Nat) (f : Deferred → Deferred) : (s.modEvent k f).replicaHere = s.replicaHere := rfl
@[simp] theorem State.modEvent_replicaCopies (s : State) (k : Nat) (f : Deferred → Deferred) : (s.modEvent k f).replicaCopies = s.replicaCopies := rfl
@[simp] theorem State.modEvent_replicaStores (s : State) (k : Nat) (f : Deferred → Deferred) : (s.modEvent k f).replicaStores = s.replicaStores := rfl
@[simp] theorem State.modEvent_txns (s : State) (k : Nat) (f : Deferred → Deferred) : (s.modEvent k f).txns = s.txns := rfl
@[simp] theorem State.modEvent_waitingReqs (s : State) (k : Nat) (f : Deferred → Deferred) : (s.modEvent k f).waitingReqs = s.waitingReqs := rfl
@[simp] theorem State.modEvent_remoteOps (s : State) (k : Nat) (f : Deferred → Deferred) : (s.modEvent k f).remoteOps = s.remoteOps := rfl
@[simp] theorem State.modEvent_halves (s : State) (k : Nat) (f : Deferred → Deferred) : (s.modEvent k f).halves = s.halves := rfl
@[simp] theorem State.modEvent_granted (s : State) (k : Nat) (f : Deferred → Deferred) : (s.modEvent k f).granted = s.granted := rfl
@[simp] theorem State.modEvent_hostClean (s : State) (k : Nat) (f : Deferred → Deferred) : (s.modEvent k f).hostClean = s.hostClean := rfl
@[simp] theorem State.modEvent_recalled (s : State) (k : Nat) (f : Deferred → Deferred) : (s.modEvent k f).recalled = s.recalled := rfl
@[simp] theorem State.modEvent_clearing (s : State) (k : Nat) (f : Deferred → Deferred) : (s.modEvent k f).clearing = s.clearing := rfl
@[simp] theorem State.modEvent_icache (s : State) (k : Nat) (f : Deferred → Deferred) : (s.modEvent k f).icache = s.icache := rfl
@[simp] theorem State.modEvent_engineGrains (s : State) (k : Nat) (f : Deferred → Deferred) : (s.modEvent k f).engineGrains = s.engineGrains := rfl
@[simp] theorem State.modEvent_atomev (s : State) (k : Nat) (f : Deferred → Deferred) : (s.modEvent k f).atomev = s.atomev := rfl
@[simp] theorem State.modEvent_chip (s : State) (k : Nat) (f : Deferred → Deferred) : (s.modEvent k f).chip = s.chip := rfl
@[simp] theorem State.modEvent_epoch (s : State) (k : Nat) (f : Deferred → Deferred) : (s.modEvent k f).epoch = s.epoch := rfl
@[simp] theorem State.modEvent_snaps (s : State) (k : Nat) (f : Deferred → Deferred) : (s.modEvent k f).snaps = s.snaps := rfl
@[simp] theorem State.modEvent_heldMsgs (s : State) (k : Nat) (f : Deferred → Deferred) : (s.modEvent k f).heldMsgs = s.heldMsgs := rfl
@[simp] theorem State.modEvent_hostLines (s : State) (k : Nat) (f : Deferred → Deferred) : (s.modEvent k f).hostLines = s.hostLines := rfl
@[simp] theorem State.modEvent_engLines (s : State) (k : Nat) (f : Deferred → Deferred) : (s.modEvent k f).engLines = s.engLines := rfl
@[simp] theorem State.modEvent_engAsked (s : State) (k : Nat) (f : Deferred → Deferred) : (s.modEvent k f).engAsked = s.engAsked := rfl
@[simp] theorem State.modEvent_engAnswers (s : State) (k : Nat) (f : Deferred → Deferred) : (s.modEvent k f).engAnswers = s.engAnswers := rfl
@[simp] theorem State.modEvent_readWaits (s : State) (k : Nat) (f : Deferred → Deferred) : (s.modEvent k f).readWaits = s.readWaits := rfl
@[simp] theorem State.modEvent_posted (s : State) (k : Nat) (f : Deferred → Deferred) : (s.modEvent k f).posted = s.posted := rfl
@[simp] theorem State.modEvent_works (s : State) (k : Nat) (f : Deferred → Deferred) : (s.modEvent k f).works = s.works := rfl
@[simp] theorem State.modEvent_latches (s : State) (k : Nat) (f : Deferred → Deferred) : (s.modEvent k f).latches = s.latches := rfl
@[simp] theorem State.modEvent_latchWaits (s : State) (k : Nat) (f : Deferred → Deferred) : (s.modEvent k f).latchWaits = s.latchWaits := rfl
@[simp] theorem State.modEvent_mcks (s : State) (k : Nat) (f : Deferred → Deferred) : (s.modEvent k f).mcks = s.mcks := rfl
@[simp] theorem State.modEvent_injMat (s : State) (k : Nat) (f : Deferred → Deferred) : (s.modEvent k f).injMat = s.injMat := rfl
@[simp] theorem State.modEvent_commands (s : State) (k : Nat) (f : Deferred → Deferred) : (s.modEvent k f).commands = s.commands := rfl
@[simp] theorem State.modEvent_sendQ (s : State) (k : Nat) (f : Deferred → Deferred) : (s.modEvent k f).sendQ = s.sendQ := rfl
@[simp] theorem State.modEvent_sendSeq (s : State) (k : Nat) (f : Deferred → Deferred) : (s.modEvent k f).sendSeq = s.sendSeq := rfl
@[simp] theorem State.modEvent_kept (s : State) (k : Nat) (f : Deferred → Deferred) : (s.modEvent k f).kept = s.kept := rfl
@[simp] theorem State.modEvent_recv (s : State) (k : Nat) (f : Deferred → Deferred) : (s.modEvent k f).recv = s.recv := rfl
@[simp] theorem State.modEvent_slots (s : State) (k : Nat) (f : Deferred → Deferred) : (s.modEvent k f).slots = s.slots := rfl
@[simp] theorem State.modEvent_filter (s : State) (k : Nat) (f : Deferred → Deferred) : (s.modEvent k f).filter = s.filter := rfl
@[simp] theorem State.modEvent_lostSends (s : State) (k : Nat) (f : Deferred → Deferred) : (s.modEvent k f).lostSends = s.lostSends := rfl
@[simp] theorem State.modEvent_fabCount (s : State) (k : Nat) (f : Deferred → Deferred) : (s.modEvent k f).fabCount = s.fabCount := rfl
@[simp] theorem State.modEvent_path (s : State) (k : Nat) (f : Deferred → Deferred) : (s.modEvent k f).path = s.path := rfl
@[simp] theorem State.modEvent_place (s : State) (k : Nat) (f : Deferred → Deferred) : (s.modEvent k f).place = s.place := rfl
@[simp] theorem State.modEvent_combines (s : State) (k : Nat) (f : Deferred → Deferred) : (s.modEvent k f).combines = s.combines := rfl
@[simp] theorem State.modEvent_injFrag (s : State) (k : Nat) (f : Deferred → Deferred) : (s.modEvent k f).injFrag = s.injFrag := rfl
@[simp] theorem State.modEvent_stepNotices (s : State) (k : Nat) (f : Deferred → Deferred) : (s.modEvent k f).stepNotices = s.stepNotices := rfl
@[simp] theorem State.modEvent_pageUse (s : State) (k : Nat) (f : Deferred → Deferred) : (s.modEvent k f).pageUse = s.pageUse := rfl
@[simp] theorem State.modEvent_tier (s : State) (k : Nat) (f : Deferred → Deferred) : (s.modEvent k f).tier = s.tier := rfl
@[simp] theorem State.modEvent_tierTags (s : State) (k : Nat) (f : Deferred → Deferred) : (s.modEvent k f).tierTags = s.tierTags := rfl
@[simp] theorem State.modEvent_images (s : State) (k : Nat) (f : Deferred → Deferred) : (s.modEvent k f).images = s.images := rfl
@[simp] theorem State.modEvent_snapSaved (s : State) (k : Nat) (f : Deferred → Deferred) : (s.modEvent k f).snapSaved = s.snapSaved := rfl
@[simp] theorem State.modEvent_grants (s : State) (k : Nat) (f : Deferred → Deferred) : (s.modEvent k f).grants = s.grants := rfl
@[simp] theorem State.modEvent_wayFaults (s : State) (k : Nat) (f : Deferred → Deferred) : (s.modEvent k f).wayFaults = s.wayFaults := rfl
@[simp] theorem State.modEvent_waysOff (s : State) (k : Nat) (f : Deferred → Deferred) : (s.modEvent k f).waysOff = s.waysOff := rfl
@[simp] theorem State.modEvent_slicesOff (s : State) (k : Nat) (f : Deferred → Deferred) : (s.modEvent k f).slicesOff = s.slicesOff := rfl
@[simp] theorem State.modEvent_errorLog (s : State) (k : Nat) (f : Deferred → Deferred) : (s.modEvent k f).errorLog = s.errorLog := rfl
@[simp] theorem State.modEvent_logLost (s : State) (k : Nat) (f : Deferred → Deferred) : (s.modEvent k f).logLost = s.logLost := rfl
@[simp] theorem State.modEvent_fwVersion (s : State) (k : Nat) (f : Deferred → Deferred) : (s.modEvent k f).fwVersion = s.fwVersion := rfl
@[simp] theorem State.modEvent_recovery (s : State) (k : Nat) (f : Deferred → Deferred) : (s.modEvent k f).recovery = s.recovery := rfl
@[simp] theorem State.modEvent_inReset (s : State) (k : Nat) (f : Deferred → Deferred) : (s.modEvent k f).inReset = s.inReset := rfl
@[simp] theorem State.modEvent_gate (s : State) (k : Nat) (f : Deferred → Deferred) : (s.modEvent k f).gate = s.gate := rfl
@[simp] theorem State.modEvent_outbox (s : State) (k : Nat) (f : Deferred → Deferred) : (s.modEvent k f).outbox = s.outbox := rfl
@[simp] theorem State.send_clock (s : State) (o : Out) : (s.send o).clock = s.clock := rfl
@[simp] theorem State.send_freeCtr (s : State) (o : Out) : (s.send o).freeCtr = s.freeCtr := rfl
@[simp] theorem State.send_nextId (s : State) (o : Out) : (s.send o).nextId = s.nextId := rfl
@[simp] theorem State.send_agenda (s : State) (o : Out) : (s.send o).agenda = s.agenda := rfl
@[simp] theorem State.send_issuing (s : State) (o : Out) : (s.send o).issuing = s.issuing := rfl
@[simp] theorem State.send_groups (s : State) (o : Out) : (s.send o).groups = s.groups := rfl
@[simp] theorem State.send_teams (s : State) (o : Out) : (s.send o).teams = s.teams := rfl
@[simp] theorem State.send_grids (s : State) (o : Out) : (s.send o).grids = s.grids := rfl
@[simp] theorem State.send_ctxs (s : State) (o : Out) : (s.send o).ctxs = s.ctxs := rfl
@[simp] theorem State.send_cfg (s : State) (o : Out) : (s.send o).cfg = s.cfg := rfl
@[simp] theorem State.send_flagev (s : State) (o : Out) : (s.send o).flagev = s.flagev := rfl
@[simp] theorem State.send_sfu (s : State) (o : Out) : (s.send o).sfu = s.sfu := rfl
@[simp] theorem State.send_deferred (s : State) (o : Out) : (s.send o).deferred = s.deferred := rfl
@[simp] theorem State.send_accesses (s : State) (o : Out) : (s.send o).accesses = s.accesses := rfl
@[simp] theorem State.send_mem (s : State) (o : Out) : (s.send o).mem = s.mem := rfl
@[simp] theorem State.send_tags (s : State) (o : Out) : (s.send o).tags = s.tags := rfl
@[simp] theorem State.send_wsMask (s : State) (o : Out) : (s.send o).wsMask = s.wsMask := rfl
@[simp] theorem State.send_held (s : State) (o : Out) : (s.send o).held = s.held := rfl
@[simp] theorem State.send_requested (s : State) (o : Out) : (s.send o).requested = s.requested := rfl
@[simp] theorem State.send_overtaken (s : State) (o : Out) : (s.send o).overtaken = s.overtaken := rfl
@[simp] theorem State.send_putting (s : State) (o : Out) : (s.send o).putting = s.putting := rfl
@[simp] theorem State.send_sectors (s : State) (o : Out) : (s.send o).sectors = s.sectors := rfl
@[simp] theorem State.send_lines (s : State) (o : Out) : (s.send o).lines = s.lines := rfl
@[simp] theorem State.send_lts (s : State) (o : Out) : (s.send o).lts = s.lts := rfl
@[simp] theorem State.send_ltsBase (s : State) (o : Out) : (s.send o).ltsBase = s.ltsBase := rfl
@[simp] theorem State.send_floor (s : State) (o : Out) : (s.send o).floor = s.floor := rfl
@[simp] theorem State.send_era (s : State) (o : Out) : (s.send o).era = s.era := rfl
@[simp] theorem State.send_effectiveCfg (s : State) (o : Out) : (s.send o).effectiveCfg = s.effectiveCfg := rfl
@[simp] theorem State.send_coreTlb (s : State) (o : Out) : (s.send o).coreTlb = s.coreTlb := rfl
@[simp] theorem State.send_clusterTlb (s : State) (o : Out) : (s.send o).clusterTlb = s.clusterTlb := rfl
@[simp] theorem State.send_sides (s : State) (o : Out) : (s.send o).sides = s.sides := rfl
@[simp] theorem State.send_pageOps (s : State) (o : Out) : (s.send o).pageOps = s.pageOps := rfl
@[simp] theorem State.send_replicas (s : State) (o : Out) : (s.send o).replicas = s.replicas := rfl
@[simp] theorem State.send_replicaHere (s : State) (o : Out) : (s.send o).replicaHere = s.replicaHere := rfl
@[simp] theorem State.send_replicaCopies (s : State) (o : Out) : (s.send o).replicaCopies = s.replicaCopies := rfl
@[simp] theorem State.send_replicaStores (s : State) (o : Out) : (s.send o).replicaStores = s.replicaStores := rfl
@[simp] theorem State.send_txns (s : State) (o : Out) : (s.send o).txns = s.txns := rfl
@[simp] theorem State.send_waitingReqs (s : State) (o : Out) : (s.send o).waitingReqs = s.waitingReqs := rfl
@[simp] theorem State.send_remoteOps (s : State) (o : Out) : (s.send o).remoteOps = s.remoteOps := rfl
@[simp] theorem State.send_halves (s : State) (o : Out) : (s.send o).halves = s.halves := rfl
@[simp] theorem State.send_granted (s : State) (o : Out) : (s.send o).granted = s.granted := rfl
@[simp] theorem State.send_hostClean (s : State) (o : Out) : (s.send o).hostClean = s.hostClean := rfl
@[simp] theorem State.send_recalled (s : State) (o : Out) : (s.send o).recalled = s.recalled := rfl
@[simp] theorem State.send_clearing (s : State) (o : Out) : (s.send o).clearing = s.clearing := rfl
@[simp] theorem State.send_icache (s : State) (o : Out) : (s.send o).icache = s.icache := rfl
@[simp] theorem State.send_engineGrains (s : State) (o : Out) : (s.send o).engineGrains = s.engineGrains := rfl
@[simp] theorem State.send_atomev (s : State) (o : Out) : (s.send o).atomev = s.atomev := rfl
@[simp] theorem State.send_chip (s : State) (o : Out) : (s.send o).chip = s.chip := rfl
@[simp] theorem State.send_epoch (s : State) (o : Out) : (s.send o).epoch = s.epoch := rfl
@[simp] theorem State.send_snaps (s : State) (o : Out) : (s.send o).snaps = s.snaps := rfl
@[simp] theorem State.send_heldMsgs (s : State) (o : Out) : (s.send o).heldMsgs = s.heldMsgs := rfl
@[simp] theorem State.send_hostLines (s : State) (o : Out) : (s.send o).hostLines = s.hostLines := rfl
@[simp] theorem State.send_engLines (s : State) (o : Out) : (s.send o).engLines = s.engLines := rfl
@[simp] theorem State.send_engAsked (s : State) (o : Out) : (s.send o).engAsked = s.engAsked := rfl
@[simp] theorem State.send_engAnswers (s : State) (o : Out) : (s.send o).engAnswers = s.engAnswers := rfl
@[simp] theorem State.send_readWaits (s : State) (o : Out) : (s.send o).readWaits = s.readWaits := rfl
@[simp] theorem State.send_posted (s : State) (o : Out) : (s.send o).posted = s.posted := rfl
@[simp] theorem State.send_works (s : State) (o : Out) : (s.send o).works = s.works := rfl
@[simp] theorem State.send_latches (s : State) (o : Out) : (s.send o).latches = s.latches := rfl
@[simp] theorem State.send_latchWaits (s : State) (o : Out) : (s.send o).latchWaits = s.latchWaits := rfl
@[simp] theorem State.send_mcks (s : State) (o : Out) : (s.send o).mcks = s.mcks := rfl
@[simp] theorem State.send_injMat (s : State) (o : Out) : (s.send o).injMat = s.injMat := rfl
@[simp] theorem State.send_commands (s : State) (o : Out) : (s.send o).commands = s.commands := rfl
@[simp] theorem State.send_sendQ (s : State) (o : Out) : (s.send o).sendQ = s.sendQ := rfl
@[simp] theorem State.send_sendSeq (s : State) (o : Out) : (s.send o).sendSeq = s.sendSeq := rfl
@[simp] theorem State.send_kept (s : State) (o : Out) : (s.send o).kept = s.kept := rfl
@[simp] theorem State.send_recv (s : State) (o : Out) : (s.send o).recv = s.recv := rfl
@[simp] theorem State.send_slots (s : State) (o : Out) : (s.send o).slots = s.slots := rfl
@[simp] theorem State.send_filter (s : State) (o : Out) : (s.send o).filter = s.filter := rfl
@[simp] theorem State.send_lostSends (s : State) (o : Out) : (s.send o).lostSends = s.lostSends := rfl
@[simp] theorem State.send_fabCount (s : State) (o : Out) : (s.send o).fabCount = s.fabCount := rfl
@[simp] theorem State.send_path (s : State) (o : Out) : (s.send o).path = s.path := rfl
@[simp] theorem State.send_place (s : State) (o : Out) : (s.send o).place = s.place := rfl
@[simp] theorem State.send_combines (s : State) (o : Out) : (s.send o).combines = s.combines := rfl
@[simp] theorem State.send_injFrag (s : State) (o : Out) : (s.send o).injFrag = s.injFrag := rfl
@[simp] theorem State.send_stepNotices (s : State) (o : Out) : (s.send o).stepNotices = s.stepNotices := rfl
@[simp] theorem State.send_pageUse (s : State) (o : Out) : (s.send o).pageUse = s.pageUse := rfl
@[simp] theorem State.send_tier (s : State) (o : Out) : (s.send o).tier = s.tier := rfl
@[simp] theorem State.send_tierTags (s : State) (o : Out) : (s.send o).tierTags = s.tierTags := rfl
@[simp] theorem State.send_images (s : State) (o : Out) : (s.send o).images = s.images := rfl
@[simp] theorem State.send_snapSaved (s : State) (o : Out) : (s.send o).snapSaved = s.snapSaved := rfl
@[simp] theorem State.send_grants (s : State) (o : Out) : (s.send o).grants = s.grants := rfl
@[simp] theorem State.send_wayFaults (s : State) (o : Out) : (s.send o).wayFaults = s.wayFaults := rfl
@[simp] theorem State.send_waysOff (s : State) (o : Out) : (s.send o).waysOff = s.waysOff := rfl
@[simp] theorem State.send_slicesOff (s : State) (o : Out) : (s.send o).slicesOff = s.slicesOff := rfl
@[simp] theorem State.send_errorLog (s : State) (o : Out) : (s.send o).errorLog = s.errorLog := rfl
@[simp] theorem State.send_logLost (s : State) (o : Out) : (s.send o).logLost = s.logLost := rfl
@[simp] theorem State.send_fwVersion (s : State) (o : Out) : (s.send o).fwVersion = s.fwVersion := rfl
@[simp] theorem State.send_recovery (s : State) (o : Out) : (s.send o).recovery = s.recovery := rfl
@[simp] theorem State.send_inReset (s : State) (o : Out) : (s.send o).inReset = s.inReset := rfl
@[simp] theorem State.send_gate (s : State) (o : Out) : (s.send o).gate = s.gate := rfl
@[simp] theorem State.send_outbox (s : State) (o : Out) : (s.send o).outbox = s.outbox ++ [o] := rfl
@[simp] theorem State.serve_clock (s : State) (i : Issue) : (s.serve i).clock = s.clock := rfl
@[simp] theorem State.serve_freeCtr (s : State) (i : Issue) : (s.serve i).freeCtr = s.freeCtr := rfl
@[simp] theorem State.serve_nextId (s : State) (i : Issue) : (s.serve i).nextId = s.nextId := rfl
@[simp] theorem State.serve_agenda (s : State) (i : Issue) : (s.serve i).agenda = s.agenda := rfl
@[simp] theorem State.serve_issuing (s : State) (i : Issue) : (s.serve i).issuing = i :: s.issuing.erase i := rfl
@[simp] theorem State.serve_groups (s : State) (i : Issue) : (s.serve i).groups = s.groups := rfl
@[simp] theorem State.serve_teams (s : State) (i : Issue) : (s.serve i).teams = s.teams := rfl
@[simp] theorem State.serve_grids (s : State) (i : Issue) : (s.serve i).grids = s.grids := rfl
@[simp] theorem State.serve_ctxs (s : State) (i : Issue) : (s.serve i).ctxs = s.ctxs := rfl
@[simp] theorem State.serve_cfg (s : State) (i : Issue) : (s.serve i).cfg = s.cfg := rfl
@[simp] theorem State.serve_flagev (s : State) (i : Issue) : (s.serve i).flagev = s.flagev := rfl
@[simp] theorem State.serve_sfu (s : State) (i : Issue) : (s.serve i).sfu = s.sfu := rfl
@[simp] theorem State.serve_deferred (s : State) (i : Issue) : (s.serve i).deferred = s.deferred := rfl
@[simp] theorem State.serve_accesses (s : State) (i : Issue) : (s.serve i).accesses = s.accesses := rfl
@[simp] theorem State.serve_mem (s : State) (i : Issue) : (s.serve i).mem = s.mem := rfl
@[simp] theorem State.serve_tags (s : State) (i : Issue) : (s.serve i).tags = s.tags := rfl
@[simp] theorem State.serve_wsMask (s : State) (i : Issue) : (s.serve i).wsMask = s.wsMask := rfl
@[simp] theorem State.serve_held (s : State) (i : Issue) : (s.serve i).held = s.held := rfl
@[simp] theorem State.serve_requested (s : State) (i : Issue) : (s.serve i).requested = s.requested := rfl
@[simp] theorem State.serve_overtaken (s : State) (i : Issue) : (s.serve i).overtaken = s.overtaken := rfl
@[simp] theorem State.serve_putting (s : State) (i : Issue) : (s.serve i).putting = s.putting := rfl
@[simp] theorem State.serve_sectors (s : State) (i : Issue) : (s.serve i).sectors = s.sectors := rfl
@[simp] theorem State.serve_lines (s : State) (i : Issue) : (s.serve i).lines = s.lines := rfl
@[simp] theorem State.serve_lts (s : State) (i : Issue) : (s.serve i).lts = s.lts := rfl
@[simp] theorem State.serve_ltsBase (s : State) (i : Issue) : (s.serve i).ltsBase = s.ltsBase := rfl
@[simp] theorem State.serve_floor (s : State) (i : Issue) : (s.serve i).floor = s.floor := rfl
@[simp] theorem State.serve_era (s : State) (i : Issue) : (s.serve i).era = s.era := rfl
@[simp] theorem State.serve_effectiveCfg (s : State) (i : Issue) : (s.serve i).effectiveCfg = s.effectiveCfg := rfl
@[simp] theorem State.serve_coreTlb (s : State) (i : Issue) : (s.serve i).coreTlb = s.coreTlb := rfl
@[simp] theorem State.serve_clusterTlb (s : State) (i : Issue) : (s.serve i).clusterTlb = s.clusterTlb := rfl
@[simp] theorem State.serve_sides (s : State) (i : Issue) : (s.serve i).sides = s.sides := rfl
@[simp] theorem State.serve_pageOps (s : State) (i : Issue) : (s.serve i).pageOps = s.pageOps := rfl
@[simp] theorem State.serve_replicas (s : State) (i : Issue) : (s.serve i).replicas = s.replicas := rfl
@[simp] theorem State.serve_replicaHere (s : State) (i : Issue) : (s.serve i).replicaHere = s.replicaHere := rfl
@[simp] theorem State.serve_replicaCopies (s : State) (i : Issue) : (s.serve i).replicaCopies = s.replicaCopies := rfl
@[simp] theorem State.serve_replicaStores (s : State) (i : Issue) : (s.serve i).replicaStores = s.replicaStores := rfl
@[simp] theorem State.serve_txns (s : State) (i : Issue) : (s.serve i).txns = s.txns := rfl
@[simp] theorem State.serve_waitingReqs (s : State) (i : Issue) : (s.serve i).waitingReqs = s.waitingReqs := rfl
@[simp] theorem State.serve_remoteOps (s : State) (i : Issue) : (s.serve i).remoteOps = s.remoteOps := rfl
@[simp] theorem State.serve_halves (s : State) (i : Issue) : (s.serve i).halves = s.halves := rfl
@[simp] theorem State.serve_granted (s : State) (i : Issue) : (s.serve i).granted = s.granted := rfl
@[simp] theorem State.serve_hostClean (s : State) (i : Issue) : (s.serve i).hostClean = s.hostClean := rfl
@[simp] theorem State.serve_recalled (s : State) (i : Issue) : (s.serve i).recalled = s.recalled := rfl
@[simp] theorem State.serve_clearing (s : State) (i : Issue) : (s.serve i).clearing = s.clearing := rfl
@[simp] theorem State.serve_icache (s : State) (i : Issue) : (s.serve i).icache = s.icache := rfl
@[simp] theorem State.serve_engineGrains (s : State) (i : Issue) : (s.serve i).engineGrains = s.engineGrains := rfl
@[simp] theorem State.serve_atomev (s : State) (i : Issue) : (s.serve i).atomev = s.atomev := rfl
@[simp] theorem State.serve_chip (s : State) (i : Issue) : (s.serve i).chip = s.chip := rfl
@[simp] theorem State.serve_epoch (s : State) (i : Issue) : (s.serve i).epoch = s.epoch := rfl
@[simp] theorem State.serve_snaps (s : State) (i : Issue) : (s.serve i).snaps = s.snaps := rfl
@[simp] theorem State.serve_heldMsgs (s : State) (i : Issue) : (s.serve i).heldMsgs = s.heldMsgs := rfl
@[simp] theorem State.serve_hostLines (s : State) (i : Issue) : (s.serve i).hostLines = s.hostLines := rfl
@[simp] theorem State.serve_engLines (s : State) (i : Issue) : (s.serve i).engLines = s.engLines := rfl
@[simp] theorem State.serve_engAsked (s : State) (i : Issue) : (s.serve i).engAsked = s.engAsked := rfl
@[simp] theorem State.serve_engAnswers (s : State) (i : Issue) : (s.serve i).engAnswers = s.engAnswers := rfl
@[simp] theorem State.serve_readWaits (s : State) (i : Issue) : (s.serve i).readWaits = s.readWaits := rfl
@[simp] theorem State.serve_posted (s : State) (i : Issue) : (s.serve i).posted = s.posted := rfl
@[simp] theorem State.serve_works (s : State) (i : Issue) : (s.serve i).works = s.works := rfl
@[simp] theorem State.serve_latches (s : State) (i : Issue) : (s.serve i).latches = s.latches := rfl
@[simp] theorem State.serve_latchWaits (s : State) (i : Issue) : (s.serve i).latchWaits = s.latchWaits := rfl
@[simp] theorem State.serve_mcks (s : State) (i : Issue) : (s.serve i).mcks = s.mcks := rfl
@[simp] theorem State.serve_injMat (s : State) (i : Issue) : (s.serve i).injMat = s.injMat := rfl
@[simp] theorem State.serve_commands (s : State) (i : Issue) : (s.serve i).commands = s.commands := rfl
@[simp] theorem State.serve_sendQ (s : State) (i : Issue) : (s.serve i).sendQ = s.sendQ := rfl
@[simp] theorem State.serve_sendSeq (s : State) (i : Issue) : (s.serve i).sendSeq = s.sendSeq := rfl
@[simp] theorem State.serve_kept (s : State) (i : Issue) : (s.serve i).kept = s.kept := rfl
@[simp] theorem State.serve_recv (s : State) (i : Issue) : (s.serve i).recv = s.recv := rfl
@[simp] theorem State.serve_slots (s : State) (i : Issue) : (s.serve i).slots = s.slots := rfl
@[simp] theorem State.serve_filter (s : State) (i : Issue) : (s.serve i).filter = s.filter := rfl
@[simp] theorem State.serve_lostSends (s : State) (i : Issue) : (s.serve i).lostSends = s.lostSends := rfl
@[simp] theorem State.serve_fabCount (s : State) (i : Issue) : (s.serve i).fabCount = s.fabCount := rfl
@[simp] theorem State.serve_path (s : State) (i : Issue) : (s.serve i).path = s.path := rfl
@[simp] theorem State.serve_place (s : State) (i : Issue) : (s.serve i).place = s.place := rfl
@[simp] theorem State.serve_combines (s : State) (i : Issue) : (s.serve i).combines = s.combines := rfl
@[simp] theorem State.serve_injFrag (s : State) (i : Issue) : (s.serve i).injFrag = s.injFrag := rfl
@[simp] theorem State.serve_stepNotices (s : State) (i : Issue) : (s.serve i).stepNotices = s.stepNotices := rfl
@[simp] theorem State.serve_pageUse (s : State) (i : Issue) : (s.serve i).pageUse = s.pageUse := rfl
@[simp] theorem State.serve_tier (s : State) (i : Issue) : (s.serve i).tier = s.tier := rfl
@[simp] theorem State.serve_tierTags (s : State) (i : Issue) : (s.serve i).tierTags = s.tierTags := rfl
@[simp] theorem State.serve_images (s : State) (i : Issue) : (s.serve i).images = s.images := rfl
@[simp] theorem State.serve_snapSaved (s : State) (i : Issue) : (s.serve i).snapSaved = s.snapSaved := rfl
@[simp] theorem State.serve_grants (s : State) (i : Issue) : (s.serve i).grants = s.grants := rfl
@[simp] theorem State.serve_wayFaults (s : State) (i : Issue) : (s.serve i).wayFaults = s.wayFaults := rfl
@[simp] theorem State.serve_waysOff (s : State) (i : Issue) : (s.serve i).waysOff = s.waysOff := rfl
@[simp] theorem State.serve_slicesOff (s : State) (i : Issue) : (s.serve i).slicesOff = s.slicesOff := rfl
@[simp] theorem State.serve_errorLog (s : State) (i : Issue) : (s.serve i).errorLog = s.errorLog := rfl
@[simp] theorem State.serve_logLost (s : State) (i : Issue) : (s.serve i).logLost = s.logLost := rfl
@[simp] theorem State.serve_fwVersion (s : State) (i : Issue) : (s.serve i).fwVersion = s.fwVersion := rfl
@[simp] theorem State.serve_recovery (s : State) (i : Issue) : (s.serve i).recovery = s.recovery := rfl
@[simp] theorem State.serve_inReset (s : State) (i : Issue) : (s.serve i).inReset = s.inReset := rfl
@[simp] theorem State.serve_gate (s : State) (i : Issue) : (s.serve i).gate = s.gate := rfl
@[simp] theorem State.serve_outbox (s : State) (i : Issue) : (s.serve i).outbox = s.outbox := rfl

/-! ### Counters, page uses, floor and snapshots -/

@[simp] theorem State.hostErr_clock (s : State) : (s.hostErr).clock = s.clock := rfl
@[simp] theorem State.hostErr_freeCtr (s : State) : (s.hostErr).freeCtr = s.freeCtr := rfl
@[simp] theorem State.hostErr_nextId (s : State) : (s.hostErr).nextId = s.nextId := rfl
@[simp] theorem State.hostErr_agenda (s : State) : (s.hostErr).agenda = s.agenda := rfl
@[simp] theorem State.hostErr_issuing (s : State) : (s.hostErr).issuing = s.issuing := rfl
@[simp] theorem State.hostErr_groups (s : State) : (s.hostErr).groups = s.groups := rfl
@[simp] theorem State.hostErr_teams (s : State) : (s.hostErr).teams = s.teams := rfl
@[simp] theorem State.hostErr_grids (s : State) : (s.hostErr).grids = s.grids := rfl
@[simp] theorem State.hostErr_ctxs (s : State) : (s.hostErr).ctxs = s.ctxs := rfl
@[simp] theorem State.hostErr_cfg (s : State) : (s.hostErr).cfg = s.cfg.insert 0x57 (s.cfg.get 0x57 0 + 1) := rfl
@[simp] theorem State.hostErr_flagev (s : State) : (s.hostErr).flagev = s.flagev := rfl
@[simp] theorem State.hostErr_sfu (s : State) : (s.hostErr).sfu = s.sfu := rfl
@[simp] theorem State.hostErr_deferred (s : State) : (s.hostErr).deferred = s.deferred := rfl
@[simp] theorem State.hostErr_accesses (s : State) : (s.hostErr).accesses = s.accesses := rfl
@[simp] theorem State.hostErr_mem (s : State) : (s.hostErr).mem = s.mem := rfl
@[simp] theorem State.hostErr_tags (s : State) : (s.hostErr).tags = s.tags := rfl
@[simp] theorem State.hostErr_wsMask (s : State) : (s.hostErr).wsMask = s.wsMask := rfl
@[simp] theorem State.hostErr_held (s : State) : (s.hostErr).held = s.held := rfl
@[simp] theorem State.hostErr_requested (s : State) : (s.hostErr).requested = s.requested := rfl
@[simp] theorem State.hostErr_overtaken (s : State) : (s.hostErr).overtaken = s.overtaken := rfl
@[simp] theorem State.hostErr_putting (s : State) : (s.hostErr).putting = s.putting := rfl
@[simp] theorem State.hostErr_sectors (s : State) : (s.hostErr).sectors = s.sectors := rfl
@[simp] theorem State.hostErr_lines (s : State) : (s.hostErr).lines = s.lines := rfl
@[simp] theorem State.hostErr_lts (s : State) : (s.hostErr).lts = s.lts := rfl
@[simp] theorem State.hostErr_ltsBase (s : State) : (s.hostErr).ltsBase = s.ltsBase := rfl
@[simp] theorem State.hostErr_floor (s : State) : (s.hostErr).floor = s.floor := rfl
@[simp] theorem State.hostErr_era (s : State) : (s.hostErr).era = s.era := rfl
@[simp] theorem State.hostErr_effectiveCfg (s : State) : (s.hostErr).effectiveCfg = s.effectiveCfg := rfl
@[simp] theorem State.hostErr_coreTlb (s : State) : (s.hostErr).coreTlb = s.coreTlb := rfl
@[simp] theorem State.hostErr_clusterTlb (s : State) : (s.hostErr).clusterTlb = s.clusterTlb := rfl
@[simp] theorem State.hostErr_sides (s : State) : (s.hostErr).sides = s.sides := rfl
@[simp] theorem State.hostErr_pageOps (s : State) : (s.hostErr).pageOps = s.pageOps := rfl
@[simp] theorem State.hostErr_replicas (s : State) : (s.hostErr).replicas = s.replicas := rfl
@[simp] theorem State.hostErr_replicaHere (s : State) : (s.hostErr).replicaHere = s.replicaHere := rfl
@[simp] theorem State.hostErr_replicaCopies (s : State) : (s.hostErr).replicaCopies = s.replicaCopies := rfl
@[simp] theorem State.hostErr_replicaStores (s : State) : (s.hostErr).replicaStores = s.replicaStores := rfl
@[simp] theorem State.hostErr_txns (s : State) : (s.hostErr).txns = s.txns := rfl
@[simp] theorem State.hostErr_waitingReqs (s : State) : (s.hostErr).waitingReqs = s.waitingReqs := rfl
@[simp] theorem State.hostErr_remoteOps (s : State) : (s.hostErr).remoteOps = s.remoteOps := rfl
@[simp] theorem State.hostErr_halves (s : State) : (s.hostErr).halves = s.halves := rfl
@[simp] theorem State.hostErr_granted (s : State) : (s.hostErr).granted = s.granted := rfl
@[simp] theorem State.hostErr_hostClean (s : State) : (s.hostErr).hostClean = s.hostClean := rfl
@[simp] theorem State.hostErr_recalled (s : State) : (s.hostErr).recalled = s.recalled := rfl
@[simp] theorem State.hostErr_clearing (s : State) : (s.hostErr).clearing = s.clearing := rfl
@[simp] theorem State.hostErr_icache (s : State) : (s.hostErr).icache = s.icache := rfl
@[simp] theorem State.hostErr_engineGrains (s : State) : (s.hostErr).engineGrains = s.engineGrains := rfl
@[simp] theorem State.hostErr_atomev (s : State) : (s.hostErr).atomev = s.atomev := rfl
@[simp] theorem State.hostErr_chip (s : State) : (s.hostErr).chip = s.chip := rfl
@[simp] theorem State.hostErr_epoch (s : State) : (s.hostErr).epoch = s.epoch := rfl
@[simp] theorem State.hostErr_snaps (s : State) : (s.hostErr).snaps = s.snaps := rfl
@[simp] theorem State.hostErr_heldMsgs (s : State) : (s.hostErr).heldMsgs = s.heldMsgs := rfl
@[simp] theorem State.hostErr_hostLines (s : State) : (s.hostErr).hostLines = s.hostLines := rfl
@[simp] theorem State.hostErr_engLines (s : State) : (s.hostErr).engLines = s.engLines := rfl
@[simp] theorem State.hostErr_engAsked (s : State) : (s.hostErr).engAsked = s.engAsked := rfl
@[simp] theorem State.hostErr_engAnswers (s : State) : (s.hostErr).engAnswers = s.engAnswers := rfl
@[simp] theorem State.hostErr_readWaits (s : State) : (s.hostErr).readWaits = s.readWaits := rfl
@[simp] theorem State.hostErr_posted (s : State) : (s.hostErr).posted = s.posted := rfl
@[simp] theorem State.hostErr_works (s : State) : (s.hostErr).works = s.works := rfl
@[simp] theorem State.hostErr_latches (s : State) : (s.hostErr).latches = s.latches := rfl
@[simp] theorem State.hostErr_latchWaits (s : State) : (s.hostErr).latchWaits = s.latchWaits := rfl
@[simp] theorem State.hostErr_mcks (s : State) : (s.hostErr).mcks = s.mcks := rfl
@[simp] theorem State.hostErr_injMat (s : State) : (s.hostErr).injMat = s.injMat := rfl
@[simp] theorem State.hostErr_commands (s : State) : (s.hostErr).commands = s.commands := rfl
@[simp] theorem State.hostErr_sendQ (s : State) : (s.hostErr).sendQ = s.sendQ := rfl
@[simp] theorem State.hostErr_sendSeq (s : State) : (s.hostErr).sendSeq = s.sendSeq := rfl
@[simp] theorem State.hostErr_kept (s : State) : (s.hostErr).kept = s.kept := rfl
@[simp] theorem State.hostErr_recv (s : State) : (s.hostErr).recv = s.recv := rfl
@[simp] theorem State.hostErr_slots (s : State) : (s.hostErr).slots = s.slots := rfl
@[simp] theorem State.hostErr_filter (s : State) : (s.hostErr).filter = s.filter := rfl
@[simp] theorem State.hostErr_lostSends (s : State) : (s.hostErr).lostSends = s.lostSends := rfl
@[simp] theorem State.hostErr_fabCount (s : State) : (s.hostErr).fabCount = s.fabCount := rfl
@[simp] theorem State.hostErr_path (s : State) : (s.hostErr).path = s.path := rfl
@[simp] theorem State.hostErr_place (s : State) : (s.hostErr).place = s.place := rfl
@[simp] theorem State.hostErr_combines (s : State) : (s.hostErr).combines = s.combines := rfl
@[simp] theorem State.hostErr_injFrag (s : State) : (s.hostErr).injFrag = s.injFrag := rfl
@[simp] theorem State.hostErr_stepNotices (s : State) : (s.hostErr).stepNotices = s.stepNotices := rfl
@[simp] theorem State.hostErr_pageUse (s : State) : (s.hostErr).pageUse = s.pageUse := rfl
@[simp] theorem State.hostErr_tier (s : State) : (s.hostErr).tier = s.tier := rfl
@[simp] theorem State.hostErr_tierTags (s : State) : (s.hostErr).tierTags = s.tierTags := rfl
@[simp] theorem State.hostErr_images (s : State) : (s.hostErr).images = s.images := rfl
@[simp] theorem State.hostErr_snapSaved (s : State) : (s.hostErr).snapSaved = s.snapSaved := rfl
@[simp] theorem State.hostErr_grants (s : State) : (s.hostErr).grants = s.grants := rfl
@[simp] theorem State.hostErr_wayFaults (s : State) : (s.hostErr).wayFaults = s.wayFaults := rfl
@[simp] theorem State.hostErr_waysOff (s : State) : (s.hostErr).waysOff = s.waysOff := rfl
@[simp] theorem State.hostErr_slicesOff (s : State) : (s.hostErr).slicesOff = s.slicesOff := rfl
@[simp] theorem State.hostErr_errorLog (s : State) : (s.hostErr).errorLog = s.errorLog := rfl
@[simp] theorem State.hostErr_logLost (s : State) : (s.hostErr).logLost = s.logLost := rfl
@[simp] theorem State.hostErr_fwVersion (s : State) : (s.hostErr).fwVersion = s.fwVersion := rfl
@[simp] theorem State.hostErr_recovery (s : State) : (s.hostErr).recovery = s.recovery := rfl
@[simp] theorem State.hostErr_inReset (s : State) : (s.hostErr).inReset = s.inReset := rfl
@[simp] theorem State.hostErr_gate (s : State) : (s.hostErr).gate = s.gate := rfl
@[simp] theorem State.hostErr_outbox (s : State) : (s.hostErr).outbox = s.outbox := rfl
@[simp] theorem State.usePage_clock (s : State) (a : Nat) : (s.usePage a).clock = s.clock := rfl
@[simp] theorem State.usePage_freeCtr (s : State) (a : Nat) : (s.usePage a).freeCtr = s.freeCtr := rfl
@[simp] theorem State.usePage_nextId (s : State) (a : Nat) : (s.usePage a).nextId = s.nextId := rfl
@[simp] theorem State.usePage_agenda (s : State) (a : Nat) : (s.usePage a).agenda = s.agenda := rfl
@[simp] theorem State.usePage_issuing (s : State) (a : Nat) : (s.usePage a).issuing = s.issuing := rfl
@[simp] theorem State.usePage_groups (s : State) (a : Nat) : (s.usePage a).groups = s.groups := rfl
@[simp] theorem State.usePage_teams (s : State) (a : Nat) : (s.usePage a).teams = s.teams := rfl
@[simp] theorem State.usePage_grids (s : State) (a : Nat) : (s.usePage a).grids = s.grids := rfl
@[simp] theorem State.usePage_ctxs (s : State) (a : Nat) : (s.usePage a).ctxs = s.ctxs := rfl
@[simp] theorem State.usePage_cfg (s : State) (a : Nat) : (s.usePage a).cfg = s.cfg := rfl
@[simp] theorem State.usePage_flagev (s : State) (a : Nat) : (s.usePage a).flagev = s.flagev := rfl
@[simp] theorem State.usePage_sfu (s : State) (a : Nat) : (s.usePage a).sfu = s.sfu := rfl
@[simp] theorem State.usePage_deferred (s : State) (a : Nat) : (s.usePage a).deferred = s.deferred := rfl
@[simp] theorem State.usePage_accesses (s : State) (a : Nat) : (s.usePage a).accesses = s.accesses := rfl
@[simp] theorem State.usePage_mem (s : State) (a : Nat) : (s.usePage a).mem = s.mem := rfl
@[simp] theorem State.usePage_tags (s : State) (a : Nat) : (s.usePage a).tags = s.tags := rfl
@[simp] theorem State.usePage_wsMask (s : State) (a : Nat) : (s.usePage a).wsMask = s.wsMask := rfl
@[simp] theorem State.usePage_held (s : State) (a : Nat) : (s.usePage a).held = s.held := rfl
@[simp] theorem State.usePage_requested (s : State) (a : Nat) : (s.usePage a).requested = s.requested := rfl
@[simp] theorem State.usePage_overtaken (s : State) (a : Nat) : (s.usePage a).overtaken = s.overtaken := rfl
@[simp] theorem State.usePage_putting (s : State) (a : Nat) : (s.usePage a).putting = s.putting := rfl
@[simp] theorem State.usePage_sectors (s : State) (a : Nat) : (s.usePage a).sectors = s.sectors := rfl
@[simp] theorem State.usePage_lines (s : State) (a : Nat) : (s.usePage a).lines = s.lines := rfl
@[simp] theorem State.usePage_lts (s : State) (a : Nat) : (s.usePage a).lts = s.lts := rfl
@[simp] theorem State.usePage_ltsBase (s : State) (a : Nat) : (s.usePage a).ltsBase = s.ltsBase := rfl
@[simp] theorem State.usePage_floor (s : State) (a : Nat) : (s.usePage a).floor = s.floor := rfl
@[simp] theorem State.usePage_era (s : State) (a : Nat) : (s.usePage a).era = s.era := rfl
@[simp] theorem State.usePage_effectiveCfg (s : State) (a : Nat) : (s.usePage a).effectiveCfg = s.effectiveCfg := rfl
@[simp] theorem State.usePage_coreTlb (s : State) (a : Nat) : (s.usePage a).coreTlb = s.coreTlb := rfl
@[simp] theorem State.usePage_clusterTlb (s : State) (a : Nat) : (s.usePage a).clusterTlb = s.clusterTlb := rfl
@[simp] theorem State.usePage_sides (s : State) (a : Nat) : (s.usePage a).sides = s.sides := rfl
@[simp] theorem State.usePage_pageOps (s : State) (a : Nat) : (s.usePage a).pageOps = s.pageOps := rfl
@[simp] theorem State.usePage_replicas (s : State) (a : Nat) : (s.usePage a).replicas = s.replicas := rfl
@[simp] theorem State.usePage_replicaHere (s : State) (a : Nat) : (s.usePage a).replicaHere = s.replicaHere := rfl
@[simp] theorem State.usePage_replicaCopies (s : State) (a : Nat) : (s.usePage a).replicaCopies = s.replicaCopies := rfl
@[simp] theorem State.usePage_replicaStores (s : State) (a : Nat) : (s.usePage a).replicaStores = s.replicaStores := rfl
@[simp] theorem State.usePage_txns (s : State) (a : Nat) : (s.usePage a).txns = s.txns := rfl
@[simp] theorem State.usePage_waitingReqs (s : State) (a : Nat) : (s.usePage a).waitingReqs = s.waitingReqs := rfl
@[simp] theorem State.usePage_remoteOps (s : State) (a : Nat) : (s.usePage a).remoteOps = s.remoteOps := rfl
@[simp] theorem State.usePage_halves (s : State) (a : Nat) : (s.usePage a).halves = s.halves := rfl
@[simp] theorem State.usePage_granted (s : State) (a : Nat) : (s.usePage a).granted = s.granted := rfl
@[simp] theorem State.usePage_hostClean (s : State) (a : Nat) : (s.usePage a).hostClean = s.hostClean := rfl
@[simp] theorem State.usePage_recalled (s : State) (a : Nat) : (s.usePage a).recalled = s.recalled := rfl
@[simp] theorem State.usePage_clearing (s : State) (a : Nat) : (s.usePage a).clearing = s.clearing := rfl
@[simp] theorem State.usePage_icache (s : State) (a : Nat) : (s.usePage a).icache = s.icache := rfl
@[simp] theorem State.usePage_engineGrains (s : State) (a : Nat) : (s.usePage a).engineGrains = s.engineGrains := rfl
@[simp] theorem State.usePage_atomev (s : State) (a : Nat) : (s.usePage a).atomev = s.atomev := rfl
@[simp] theorem State.usePage_chip (s : State) (a : Nat) : (s.usePage a).chip = s.chip := rfl
@[simp] theorem State.usePage_epoch (s : State) (a : Nat) : (s.usePage a).epoch = s.epoch := rfl
@[simp] theorem State.usePage_snaps (s : State) (a : Nat) : (s.usePage a).snaps = s.snaps := rfl
@[simp] theorem State.usePage_heldMsgs (s : State) (a : Nat) : (s.usePage a).heldMsgs = s.heldMsgs := rfl
@[simp] theorem State.usePage_hostLines (s : State) (a : Nat) : (s.usePage a).hostLines = s.hostLines := rfl
@[simp] theorem State.usePage_engLines (s : State) (a : Nat) : (s.usePage a).engLines = s.engLines := rfl
@[simp] theorem State.usePage_engAsked (s : State) (a : Nat) : (s.usePage a).engAsked = s.engAsked := rfl
@[simp] theorem State.usePage_engAnswers (s : State) (a : Nat) : (s.usePage a).engAnswers = s.engAnswers := rfl
@[simp] theorem State.usePage_readWaits (s : State) (a : Nat) : (s.usePage a).readWaits = s.readWaits := rfl
@[simp] theorem State.usePage_posted (s : State) (a : Nat) : (s.usePage a).posted = s.posted := rfl
@[simp] theorem State.usePage_works (s : State) (a : Nat) : (s.usePage a).works = s.works := rfl
@[simp] theorem State.usePage_latches (s : State) (a : Nat) : (s.usePage a).latches = s.latches := rfl
@[simp] theorem State.usePage_latchWaits (s : State) (a : Nat) : (s.usePage a).latchWaits = s.latchWaits := rfl
@[simp] theorem State.usePage_mcks (s : State) (a : Nat) : (s.usePage a).mcks = s.mcks := rfl
@[simp] theorem State.usePage_injMat (s : State) (a : Nat) : (s.usePage a).injMat = s.injMat := rfl
@[simp] theorem State.usePage_commands (s : State) (a : Nat) : (s.usePage a).commands = s.commands := rfl
@[simp] theorem State.usePage_sendQ (s : State) (a : Nat) : (s.usePage a).sendQ = s.sendQ := rfl
@[simp] theorem State.usePage_sendSeq (s : State) (a : Nat) : (s.usePage a).sendSeq = s.sendSeq := rfl
@[simp] theorem State.usePage_kept (s : State) (a : Nat) : (s.usePage a).kept = s.kept := rfl
@[simp] theorem State.usePage_recv (s : State) (a : Nat) : (s.usePage a).recv = s.recv := rfl
@[simp] theorem State.usePage_slots (s : State) (a : Nat) : (s.usePage a).slots = s.slots := rfl
@[simp] theorem State.usePage_filter (s : State) (a : Nat) : (s.usePage a).filter = s.filter := rfl
@[simp] theorem State.usePage_lostSends (s : State) (a : Nat) : (s.usePage a).lostSends = s.lostSends := rfl
@[simp] theorem State.usePage_fabCount (s : State) (a : Nat) : (s.usePage a).fabCount = s.fabCount := rfl
@[simp] theorem State.usePage_path (s : State) (a : Nat) : (s.usePage a).path = s.path := rfl
@[simp] theorem State.usePage_place (s : State) (a : Nat) : (s.usePage a).place = s.place := rfl
@[simp] theorem State.usePage_combines (s : State) (a : Nat) : (s.usePage a).combines = s.combines := rfl
@[simp] theorem State.usePage_injFrag (s : State) (a : Nat) : (s.usePage a).injFrag = s.injFrag := rfl
@[simp] theorem State.usePage_stepNotices (s : State) (a : Nat) : (s.usePage a).stepNotices = s.stepNotices := rfl
@[simp] theorem State.usePage_pageUse (s : State) (a : Nat) : (s.usePage a).pageUse = s.pageUse.put (a / 4096) s.clock 0 := rfl
@[simp] theorem State.usePage_tier (s : State) (a : Nat) : (s.usePage a).tier = s.tier := rfl
@[simp] theorem State.usePage_tierTags (s : State) (a : Nat) : (s.usePage a).tierTags = s.tierTags := rfl
@[simp] theorem State.usePage_images (s : State) (a : Nat) : (s.usePage a).images = s.images := rfl
@[simp] theorem State.usePage_snapSaved (s : State) (a : Nat) : (s.usePage a).snapSaved = s.snapSaved := rfl
@[simp] theorem State.usePage_grants (s : State) (a : Nat) : (s.usePage a).grants = s.grants := rfl
@[simp] theorem State.usePage_wayFaults (s : State) (a : Nat) : (s.usePage a).wayFaults = s.wayFaults := rfl
@[simp] theorem State.usePage_waysOff (s : State) (a : Nat) : (s.usePage a).waysOff = s.waysOff := rfl
@[simp] theorem State.usePage_slicesOff (s : State) (a : Nat) : (s.usePage a).slicesOff = s.slicesOff := rfl
@[simp] theorem State.usePage_errorLog (s : State) (a : Nat) : (s.usePage a).errorLog = s.errorLog := rfl
@[simp] theorem State.usePage_logLost (s : State) (a : Nat) : (s.usePage a).logLost = s.logLost := rfl
@[simp] theorem State.usePage_fwVersion (s : State) (a : Nat) : (s.usePage a).fwVersion = s.fwVersion := rfl
@[simp] theorem State.usePage_recovery (s : State) (a : Nat) : (s.usePage a).recovery = s.recovery := rfl
@[simp] theorem State.usePage_inReset (s : State) (a : Nat) : (s.usePage a).inReset = s.inReset := rfl
@[simp] theorem State.usePage_gate (s : State) (a : Nat) : (s.usePage a).gate = s.gate := rfl
@[simp] theorem State.usePage_outbox (s : State) (a : Nat) : (s.usePage a).outbox = s.outbox := rfl
@[simp] theorem State.passFloor_clock (s : State) (g : Nat) : (s.passFloor g).clock = s.clock := rfl
@[simp] theorem State.passFloor_freeCtr (s : State) (g : Nat) : (s.passFloor g).freeCtr = s.freeCtr := rfl
@[simp] theorem State.passFloor_nextId (s : State) (g : Nat) : (s.passFloor g).nextId = s.nextId := rfl
@[simp] theorem State.passFloor_agenda (s : State) (g : Nat) : (s.passFloor g).agenda = s.agenda := rfl
@[simp] theorem State.passFloor_issuing (s : State) (g : Nat) : (s.passFloor g).issuing = s.issuing := rfl
@[simp] theorem State.passFloor_groups (s : State) (g : Nat) : (s.passFloor g).groups = s.groups := rfl
@[simp] theorem State.passFloor_teams (s : State) (g : Nat) : (s.passFloor g).teams = s.teams := rfl
@[simp] theorem State.passFloor_grids (s : State) (g : Nat) : (s.passFloor g).grids = s.grids := rfl
@[simp] theorem State.passFloor_ctxs (s : State) (g : Nat) : (s.passFloor g).ctxs = s.ctxs := rfl
@[simp] theorem State.passFloor_cfg (s : State) (g : Nat) : (s.passFloor g).cfg = s.cfg := rfl
@[simp] theorem State.passFloor_flagev (s : State) (g : Nat) : (s.passFloor g).flagev = s.flagev := rfl
@[simp] theorem State.passFloor_sfu (s : State) (g : Nat) : (s.passFloor g).sfu = s.sfu := rfl
@[simp] theorem State.passFloor_deferred (s : State) (g : Nat) : (s.passFloor g).deferred = s.deferred := rfl
@[simp] theorem State.passFloor_accesses (s : State) (g : Nat) : (s.passFloor g).accesses = s.accesses := rfl
@[simp] theorem State.passFloor_mem (s : State) (g : Nat) : (s.passFloor g).mem = s.mem := rfl
@[simp] theorem State.passFloor_tags (s : State) (g : Nat) : (s.passFloor g).tags = s.tags := rfl
@[simp] theorem State.passFloor_wsMask (s : State) (g : Nat) : (s.passFloor g).wsMask = s.wsMask := rfl
@[simp] theorem State.passFloor_held (s : State) (g : Nat) : (s.passFloor g).held = s.held := rfl
@[simp] theorem State.passFloor_requested (s : State) (g : Nat) : (s.passFloor g).requested = s.requested := rfl
@[simp] theorem State.passFloor_overtaken (s : State) (g : Nat) : (s.passFloor g).overtaken = s.overtaken := rfl
@[simp] theorem State.passFloor_putting (s : State) (g : Nat) : (s.passFloor g).putting = s.putting := rfl
@[simp] theorem State.passFloor_sectors (s : State) (g : Nat) : (s.passFloor g).sectors = s.sectors := rfl
@[simp] theorem State.passFloor_lines (s : State) (g : Nat) : (s.passFloor g).lines = s.lines := rfl
@[simp] theorem State.passFloor_lts (s : State) (g : Nat) : (s.passFloor g).lts = s.lts := rfl
@[simp] theorem State.passFloor_ltsBase (s : State) (g : Nat) : (s.passFloor g).ltsBase = s.ltsBase := rfl
@[simp] theorem State.passFloor_floor (s : State) (g : Nat) : (s.passFloor g).floor = (List.range 4).foldl (fun n i => max n ((s.sector (g * 512 + 128 * i)).rts + 1)) s.floor := rfl
@[simp] theorem State.passFloor_era (s : State) (g : Nat) : (s.passFloor g).era = s.era := rfl
@[simp] theorem State.passFloor_effectiveCfg (s : State) (g : Nat) : (s.passFloor g).effectiveCfg = s.effectiveCfg := rfl
@[simp] theorem State.passFloor_coreTlb (s : State) (g : Nat) : (s.passFloor g).coreTlb = s.coreTlb := rfl
@[simp] theorem State.passFloor_clusterTlb (s : State) (g : Nat) : (s.passFloor g).clusterTlb = s.clusterTlb := rfl
@[simp] theorem State.passFloor_sides (s : State) (g : Nat) : (s.passFloor g).sides = s.sides := rfl
@[simp] theorem State.passFloor_pageOps (s : State) (g : Nat) : (s.passFloor g).pageOps = s.pageOps := rfl
@[simp] theorem State.passFloor_replicas (s : State) (g : Nat) : (s.passFloor g).replicas = s.replicas := rfl
@[simp] theorem State.passFloor_replicaHere (s : State) (g : Nat) : (s.passFloor g).replicaHere = s.replicaHere := rfl
@[simp] theorem State.passFloor_replicaCopies (s : State) (g : Nat) : (s.passFloor g).replicaCopies = s.replicaCopies := rfl
@[simp] theorem State.passFloor_replicaStores (s : State) (g : Nat) : (s.passFloor g).replicaStores = s.replicaStores := rfl
@[simp] theorem State.passFloor_txns (s : State) (g : Nat) : (s.passFloor g).txns = s.txns := rfl
@[simp] theorem State.passFloor_waitingReqs (s : State) (g : Nat) : (s.passFloor g).waitingReqs = s.waitingReqs := rfl
@[simp] theorem State.passFloor_remoteOps (s : State) (g : Nat) : (s.passFloor g).remoteOps = s.remoteOps := rfl
@[simp] theorem State.passFloor_halves (s : State) (g : Nat) : (s.passFloor g).halves = s.halves := rfl
@[simp] theorem State.passFloor_granted (s : State) (g : Nat) : (s.passFloor g).granted = s.granted := rfl
@[simp] theorem State.passFloor_hostClean (s : State) (g : Nat) : (s.passFloor g).hostClean = s.hostClean := rfl
@[simp] theorem State.passFloor_recalled (s : State) (g : Nat) : (s.passFloor g).recalled = s.recalled := rfl
@[simp] theorem State.passFloor_clearing (s : State) (g : Nat) : (s.passFloor g).clearing = s.clearing := rfl
@[simp] theorem State.passFloor_icache (s : State) (g : Nat) : (s.passFloor g).icache = s.icache := rfl
@[simp] theorem State.passFloor_engineGrains (s : State) (g : Nat) : (s.passFloor g).engineGrains = s.engineGrains := rfl
@[simp] theorem State.passFloor_atomev (s : State) (g : Nat) : (s.passFloor g).atomev = s.atomev := rfl
@[simp] theorem State.passFloor_chip (s : State) (g : Nat) : (s.passFloor g).chip = s.chip := rfl
@[simp] theorem State.passFloor_epoch (s : State) (g : Nat) : (s.passFloor g).epoch = s.epoch := rfl
@[simp] theorem State.passFloor_snaps (s : State) (g : Nat) : (s.passFloor g).snaps = s.snaps := rfl
@[simp] theorem State.passFloor_heldMsgs (s : State) (g : Nat) : (s.passFloor g).heldMsgs = s.heldMsgs := rfl
@[simp] theorem State.passFloor_hostLines (s : State) (g : Nat) : (s.passFloor g).hostLines = s.hostLines := rfl
@[simp] theorem State.passFloor_engLines (s : State) (g : Nat) : (s.passFloor g).engLines = s.engLines := rfl
@[simp] theorem State.passFloor_engAsked (s : State) (g : Nat) : (s.passFloor g).engAsked = s.engAsked := rfl
@[simp] theorem State.passFloor_engAnswers (s : State) (g : Nat) : (s.passFloor g).engAnswers = s.engAnswers := rfl
@[simp] theorem State.passFloor_readWaits (s : State) (g : Nat) : (s.passFloor g).readWaits = s.readWaits := rfl
@[simp] theorem State.passFloor_posted (s : State) (g : Nat) : (s.passFloor g).posted = s.posted := rfl
@[simp] theorem State.passFloor_works (s : State) (g : Nat) : (s.passFloor g).works = s.works := rfl
@[simp] theorem State.passFloor_latches (s : State) (g : Nat) : (s.passFloor g).latches = s.latches := rfl
@[simp] theorem State.passFloor_latchWaits (s : State) (g : Nat) : (s.passFloor g).latchWaits = s.latchWaits := rfl
@[simp] theorem State.passFloor_mcks (s : State) (g : Nat) : (s.passFloor g).mcks = s.mcks := rfl
@[simp] theorem State.passFloor_injMat (s : State) (g : Nat) : (s.passFloor g).injMat = s.injMat := rfl
@[simp] theorem State.passFloor_commands (s : State) (g : Nat) : (s.passFloor g).commands = s.commands := rfl
@[simp] theorem State.passFloor_sendQ (s : State) (g : Nat) : (s.passFloor g).sendQ = s.sendQ := rfl
@[simp] theorem State.passFloor_sendSeq (s : State) (g : Nat) : (s.passFloor g).sendSeq = s.sendSeq := rfl
@[simp] theorem State.passFloor_kept (s : State) (g : Nat) : (s.passFloor g).kept = s.kept := rfl
@[simp] theorem State.passFloor_recv (s : State) (g : Nat) : (s.passFloor g).recv = s.recv := rfl
@[simp] theorem State.passFloor_slots (s : State) (g : Nat) : (s.passFloor g).slots = s.slots := rfl
@[simp] theorem State.passFloor_filter (s : State) (g : Nat) : (s.passFloor g).filter = s.filter := rfl
@[simp] theorem State.passFloor_lostSends (s : State) (g : Nat) : (s.passFloor g).lostSends = s.lostSends := rfl
@[simp] theorem State.passFloor_fabCount (s : State) (g : Nat) : (s.passFloor g).fabCount = s.fabCount := rfl
@[simp] theorem State.passFloor_path (s : State) (g : Nat) : (s.passFloor g).path = s.path := rfl
@[simp] theorem State.passFloor_place (s : State) (g : Nat) : (s.passFloor g).place = s.place := rfl
@[simp] theorem State.passFloor_combines (s : State) (g : Nat) : (s.passFloor g).combines = s.combines := rfl
@[simp] theorem State.passFloor_injFrag (s : State) (g : Nat) : (s.passFloor g).injFrag = s.injFrag := rfl
@[simp] theorem State.passFloor_stepNotices (s : State) (g : Nat) : (s.passFloor g).stepNotices = s.stepNotices := rfl
@[simp] theorem State.passFloor_pageUse (s : State) (g : Nat) : (s.passFloor g).pageUse = s.pageUse := rfl
@[simp] theorem State.passFloor_tier (s : State) (g : Nat) : (s.passFloor g).tier = s.tier := rfl
@[simp] theorem State.passFloor_tierTags (s : State) (g : Nat) : (s.passFloor g).tierTags = s.tierTags := rfl
@[simp] theorem State.passFloor_images (s : State) (g : Nat) : (s.passFloor g).images = s.images := rfl
@[simp] theorem State.passFloor_snapSaved (s : State) (g : Nat) : (s.passFloor g).snapSaved = s.snapSaved := rfl
@[simp] theorem State.passFloor_grants (s : State) (g : Nat) : (s.passFloor g).grants = s.grants := rfl
@[simp] theorem State.passFloor_wayFaults (s : State) (g : Nat) : (s.passFloor g).wayFaults = s.wayFaults := rfl
@[simp] theorem State.passFloor_waysOff (s : State) (g : Nat) : (s.passFloor g).waysOff = s.waysOff := rfl
@[simp] theorem State.passFloor_slicesOff (s : State) (g : Nat) : (s.passFloor g).slicesOff = s.slicesOff := rfl
@[simp] theorem State.passFloor_errorLog (s : State) (g : Nat) : (s.passFloor g).errorLog = s.errorLog := rfl
@[simp] theorem State.passFloor_logLost (s : State) (g : Nat) : (s.passFloor g).logLost = s.logLost := rfl
@[simp] theorem State.passFloor_fwVersion (s : State) (g : Nat) : (s.passFloor g).fwVersion = s.fwVersion := rfl
@[simp] theorem State.passFloor_recovery (s : State) (g : Nat) : (s.passFloor g).recovery = s.recovery := rfl
@[simp] theorem State.passFloor_inReset (s : State) (g : Nat) : (s.passFloor g).inReset = s.inReset := rfl
@[simp] theorem State.passFloor_gate (s : State) (g : Nat) : (s.passFloor g).gate = s.gate := rfl
@[simp] theorem State.passFloor_outbox (s : State) (g : Nat) : (s.passFloor g).outbox = s.outbox := rfl
@[simp] theorem State.modSnap_clock (s : State) (k : Nat) (f : Snap → Snap) : (s.modSnap k f).clock = s.clock := rfl
@[simp] theorem State.modSnap_freeCtr (s : State) (k : Nat) (f : Snap → Snap) : (s.modSnap k f).freeCtr = s.freeCtr := rfl
@[simp] theorem State.modSnap_nextId (s : State) (k : Nat) (f : Snap → Snap) : (s.modSnap k f).nextId = s.nextId := rfl
@[simp] theorem State.modSnap_agenda (s : State) (k : Nat) (f : Snap → Snap) : (s.modSnap k f).agenda = s.agenda := rfl
@[simp] theorem State.modSnap_issuing (s : State) (k : Nat) (f : Snap → Snap) : (s.modSnap k f).issuing = s.issuing := rfl
@[simp] theorem State.modSnap_groups (s : State) (k : Nat) (f : Snap → Snap) : (s.modSnap k f).groups = s.groups := rfl
@[simp] theorem State.modSnap_teams (s : State) (k : Nat) (f : Snap → Snap) : (s.modSnap k f).teams = s.teams := rfl
@[simp] theorem State.modSnap_grids (s : State) (k : Nat) (f : Snap → Snap) : (s.modSnap k f).grids = s.grids := rfl
@[simp] theorem State.modSnap_ctxs (s : State) (k : Nat) (f : Snap → Snap) : (s.modSnap k f).ctxs = s.ctxs := rfl
@[simp] theorem State.modSnap_cfg (s : State) (k : Nat) (f : Snap → Snap) : (s.modSnap k f).cfg = s.cfg := rfl
@[simp] theorem State.modSnap_flagev (s : State) (k : Nat) (f : Snap → Snap) : (s.modSnap k f).flagev = s.flagev := rfl
@[simp] theorem State.modSnap_sfu (s : State) (k : Nat) (f : Snap → Snap) : (s.modSnap k f).sfu = s.sfu := rfl
@[simp] theorem State.modSnap_deferred (s : State) (k : Nat) (f : Snap → Snap) : (s.modSnap k f).deferred = s.deferred := rfl
@[simp] theorem State.modSnap_accesses (s : State) (k : Nat) (f : Snap → Snap) : (s.modSnap k f).accesses = s.accesses := rfl
@[simp] theorem State.modSnap_mem (s : State) (k : Nat) (f : Snap → Snap) : (s.modSnap k f).mem = s.mem := rfl
@[simp] theorem State.modSnap_tags (s : State) (k : Nat) (f : Snap → Snap) : (s.modSnap k f).tags = s.tags := rfl
@[simp] theorem State.modSnap_wsMask (s : State) (k : Nat) (f : Snap → Snap) : (s.modSnap k f).wsMask = s.wsMask := rfl
@[simp] theorem State.modSnap_held (s : State) (k : Nat) (f : Snap → Snap) : (s.modSnap k f).held = s.held := rfl
@[simp] theorem State.modSnap_requested (s : State) (k : Nat) (f : Snap → Snap) : (s.modSnap k f).requested = s.requested := rfl
@[simp] theorem State.modSnap_overtaken (s : State) (k : Nat) (f : Snap → Snap) : (s.modSnap k f).overtaken = s.overtaken := rfl
@[simp] theorem State.modSnap_putting (s : State) (k : Nat) (f : Snap → Snap) : (s.modSnap k f).putting = s.putting := rfl
@[simp] theorem State.modSnap_sectors (s : State) (k : Nat) (f : Snap → Snap) : (s.modSnap k f).sectors = s.sectors := rfl
@[simp] theorem State.modSnap_lines (s : State) (k : Nat) (f : Snap → Snap) : (s.modSnap k f).lines = s.lines := rfl
@[simp] theorem State.modSnap_lts (s : State) (k : Nat) (f : Snap → Snap) : (s.modSnap k f).lts = s.lts := rfl
@[simp] theorem State.modSnap_ltsBase (s : State) (k : Nat) (f : Snap → Snap) : (s.modSnap k f).ltsBase = s.ltsBase := rfl
@[simp] theorem State.modSnap_floor (s : State) (k : Nat) (f : Snap → Snap) : (s.modSnap k f).floor = s.floor := rfl
@[simp] theorem State.modSnap_era (s : State) (k : Nat) (f : Snap → Snap) : (s.modSnap k f).era = s.era := rfl
@[simp] theorem State.modSnap_effectiveCfg (s : State) (k : Nat) (f : Snap → Snap) : (s.modSnap k f).effectiveCfg = s.effectiveCfg := rfl
@[simp] theorem State.modSnap_coreTlb (s : State) (k : Nat) (f : Snap → Snap) : (s.modSnap k f).coreTlb = s.coreTlb := rfl
@[simp] theorem State.modSnap_clusterTlb (s : State) (k : Nat) (f : Snap → Snap) : (s.modSnap k f).clusterTlb = s.clusterTlb := rfl
@[simp] theorem State.modSnap_sides (s : State) (k : Nat) (f : Snap → Snap) : (s.modSnap k f).sides = s.sides := rfl
@[simp] theorem State.modSnap_pageOps (s : State) (k : Nat) (f : Snap → Snap) : (s.modSnap k f).pageOps = s.pageOps := rfl
@[simp] theorem State.modSnap_replicas (s : State) (k : Nat) (f : Snap → Snap) : (s.modSnap k f).replicas = s.replicas := rfl
@[simp] theorem State.modSnap_replicaHere (s : State) (k : Nat) (f : Snap → Snap) : (s.modSnap k f).replicaHere = s.replicaHere := rfl
@[simp] theorem State.modSnap_replicaCopies (s : State) (k : Nat) (f : Snap → Snap) : (s.modSnap k f).replicaCopies = s.replicaCopies := rfl
@[simp] theorem State.modSnap_replicaStores (s : State) (k : Nat) (f : Snap → Snap) : (s.modSnap k f).replicaStores = s.replicaStores := rfl
@[simp] theorem State.modSnap_txns (s : State) (k : Nat) (f : Snap → Snap) : (s.modSnap k f).txns = s.txns := rfl
@[simp] theorem State.modSnap_waitingReqs (s : State) (k : Nat) (f : Snap → Snap) : (s.modSnap k f).waitingReqs = s.waitingReqs := rfl
@[simp] theorem State.modSnap_remoteOps (s : State) (k : Nat) (f : Snap → Snap) : (s.modSnap k f).remoteOps = s.remoteOps := rfl
@[simp] theorem State.modSnap_halves (s : State) (k : Nat) (f : Snap → Snap) : (s.modSnap k f).halves = s.halves := rfl
@[simp] theorem State.modSnap_granted (s : State) (k : Nat) (f : Snap → Snap) : (s.modSnap k f).granted = s.granted := rfl
@[simp] theorem State.modSnap_hostClean (s : State) (k : Nat) (f : Snap → Snap) : (s.modSnap k f).hostClean = s.hostClean := rfl
@[simp] theorem State.modSnap_recalled (s : State) (k : Nat) (f : Snap → Snap) : (s.modSnap k f).recalled = s.recalled := rfl
@[simp] theorem State.modSnap_clearing (s : State) (k : Nat) (f : Snap → Snap) : (s.modSnap k f).clearing = s.clearing := rfl
@[simp] theorem State.modSnap_icache (s : State) (k : Nat) (f : Snap → Snap) : (s.modSnap k f).icache = s.icache := rfl
@[simp] theorem State.modSnap_engineGrains (s : State) (k : Nat) (f : Snap → Snap) : (s.modSnap k f).engineGrains = s.engineGrains := rfl
@[simp] theorem State.modSnap_atomev (s : State) (k : Nat) (f : Snap → Snap) : (s.modSnap k f).atomev = s.atomev := rfl
@[simp] theorem State.modSnap_chip (s : State) (k : Nat) (f : Snap → Snap) : (s.modSnap k f).chip = s.chip := rfl
@[simp] theorem State.modSnap_epoch (s : State) (k : Nat) (f : Snap → Snap) : (s.modSnap k f).epoch = s.epoch := rfl
@[simp] theorem State.modSnap_snaps (s : State) (k : Nat) (f : Snap → Snap) : (s.modSnap k f).snaps = s.snaps.insert k (f (s.snap k)) := rfl
@[simp] theorem State.modSnap_heldMsgs (s : State) (k : Nat) (f : Snap → Snap) : (s.modSnap k f).heldMsgs = s.heldMsgs := rfl
@[simp] theorem State.modSnap_hostLines (s : State) (k : Nat) (f : Snap → Snap) : (s.modSnap k f).hostLines = s.hostLines := rfl
@[simp] theorem State.modSnap_engLines (s : State) (k : Nat) (f : Snap → Snap) : (s.modSnap k f).engLines = s.engLines := rfl
@[simp] theorem State.modSnap_engAsked (s : State) (k : Nat) (f : Snap → Snap) : (s.modSnap k f).engAsked = s.engAsked := rfl
@[simp] theorem State.modSnap_engAnswers (s : State) (k : Nat) (f : Snap → Snap) : (s.modSnap k f).engAnswers = s.engAnswers := rfl
@[simp] theorem State.modSnap_readWaits (s : State) (k : Nat) (f : Snap → Snap) : (s.modSnap k f).readWaits = s.readWaits := rfl
@[simp] theorem State.modSnap_posted (s : State) (k : Nat) (f : Snap → Snap) : (s.modSnap k f).posted = s.posted := rfl
@[simp] theorem State.modSnap_works (s : State) (k : Nat) (f : Snap → Snap) : (s.modSnap k f).works = s.works := rfl
@[simp] theorem State.modSnap_latches (s : State) (k : Nat) (f : Snap → Snap) : (s.modSnap k f).latches = s.latches := rfl
@[simp] theorem State.modSnap_latchWaits (s : State) (k : Nat) (f : Snap → Snap) : (s.modSnap k f).latchWaits = s.latchWaits := rfl
@[simp] theorem State.modSnap_mcks (s : State) (k : Nat) (f : Snap → Snap) : (s.modSnap k f).mcks = s.mcks := rfl
@[simp] theorem State.modSnap_injMat (s : State) (k : Nat) (f : Snap → Snap) : (s.modSnap k f).injMat = s.injMat := rfl
@[simp] theorem State.modSnap_commands (s : State) (k : Nat) (f : Snap → Snap) : (s.modSnap k f).commands = s.commands := rfl
@[simp] theorem State.modSnap_sendQ (s : State) (k : Nat) (f : Snap → Snap) : (s.modSnap k f).sendQ = s.sendQ := rfl
@[simp] theorem State.modSnap_sendSeq (s : State) (k : Nat) (f : Snap → Snap) : (s.modSnap k f).sendSeq = s.sendSeq := rfl
@[simp] theorem State.modSnap_kept (s : State) (k : Nat) (f : Snap → Snap) : (s.modSnap k f).kept = s.kept := rfl
@[simp] theorem State.modSnap_recv (s : State) (k : Nat) (f : Snap → Snap) : (s.modSnap k f).recv = s.recv := rfl
@[simp] theorem State.modSnap_slots (s : State) (k : Nat) (f : Snap → Snap) : (s.modSnap k f).slots = s.slots := rfl
@[simp] theorem State.modSnap_filter (s : State) (k : Nat) (f : Snap → Snap) : (s.modSnap k f).filter = s.filter := rfl
@[simp] theorem State.modSnap_lostSends (s : State) (k : Nat) (f : Snap → Snap) : (s.modSnap k f).lostSends = s.lostSends := rfl
@[simp] theorem State.modSnap_fabCount (s : State) (k : Nat) (f : Snap → Snap) : (s.modSnap k f).fabCount = s.fabCount := rfl
@[simp] theorem State.modSnap_path (s : State) (k : Nat) (f : Snap → Snap) : (s.modSnap k f).path = s.path := rfl
@[simp] theorem State.modSnap_place (s : State) (k : Nat) (f : Snap → Snap) : (s.modSnap k f).place = s.place := rfl
@[simp] theorem State.modSnap_combines (s : State) (k : Nat) (f : Snap → Snap) : (s.modSnap k f).combines = s.combines := rfl
@[simp] theorem State.modSnap_injFrag (s : State) (k : Nat) (f : Snap → Snap) : (s.modSnap k f).injFrag = s.injFrag := rfl
@[simp] theorem State.modSnap_stepNotices (s : State) (k : Nat) (f : Snap → Snap) : (s.modSnap k f).stepNotices = s.stepNotices := rfl
@[simp] theorem State.modSnap_pageUse (s : State) (k : Nat) (f : Snap → Snap) : (s.modSnap k f).pageUse = s.pageUse := rfl
@[simp] theorem State.modSnap_tier (s : State) (k : Nat) (f : Snap → Snap) : (s.modSnap k f).tier = s.tier := rfl
@[simp] theorem State.modSnap_tierTags (s : State) (k : Nat) (f : Snap → Snap) : (s.modSnap k f).tierTags = s.tierTags := rfl
@[simp] theorem State.modSnap_images (s : State) (k : Nat) (f : Snap → Snap) : (s.modSnap k f).images = s.images := rfl
@[simp] theorem State.modSnap_snapSaved (s : State) (k : Nat) (f : Snap → Snap) : (s.modSnap k f).snapSaved = s.snapSaved := rfl
@[simp] theorem State.modSnap_grants (s : State) (k : Nat) (f : Snap → Snap) : (s.modSnap k f).grants = s.grants := rfl
@[simp] theorem State.modSnap_wayFaults (s : State) (k : Nat) (f : Snap → Snap) : (s.modSnap k f).wayFaults = s.wayFaults := rfl
@[simp] theorem State.modSnap_waysOff (s : State) (k : Nat) (f : Snap → Snap) : (s.modSnap k f).waysOff = s.waysOff := rfl
@[simp] theorem State.modSnap_slicesOff (s : State) (k : Nat) (f : Snap → Snap) : (s.modSnap k f).slicesOff = s.slicesOff := rfl
@[simp] theorem State.modSnap_errorLog (s : State) (k : Nat) (f : Snap → Snap) : (s.modSnap k f).errorLog = s.errorLog := rfl
@[simp] theorem State.modSnap_logLost (s : State) (k : Nat) (f : Snap → Snap) : (s.modSnap k f).logLost = s.logLost := rfl
@[simp] theorem State.modSnap_fwVersion (s : State) (k : Nat) (f : Snap → Snap) : (s.modSnap k f).fwVersion = s.fwVersion := rfl
@[simp] theorem State.modSnap_recovery (s : State) (k : Nat) (f : Snap → Snap) : (s.modSnap k f).recovery = s.recovery := rfl
@[simp] theorem State.modSnap_inReset (s : State) (k : Nat) (f : Snap → Snap) : (s.modSnap k f).inReset = s.inReset := rfl
@[simp] theorem State.modSnap_gate (s : State) (k : Nat) (f : Snap → Snap) : (s.modSnap k f).gate = s.gate := rfl
@[simp] theorem State.modSnap_outbox (s : State) (k : Nat) (f : Snap → Snap) : (s.modSnap k f).outbox = s.outbox := rfl

end Sys2Proof.Machine
end

