-- ==== Sys2Proof/Laws/Memory.lean ====
section
/-!
SUPPORT. Device memory: a byte written is the byte read, every other byte is left alone, and every operation keeps the canonical form.
-/

namespace Sys2Proof.Machine

set_option Elab.async false

/-! ### One byte -/

theorem Memory.read_of_above {n k : Nat} {m : List Host.Cell} (h : Memory.above n m = true) (hk : k ≤ n) : Memory.read m k = 0 := by
  induction m with
  | nil => rfl
  | cons c m ih =>
    obtain ⟨a, b⟩ := c
    simp only [Memory.above, List.all_cons, Bool.and_eq_true, decide_eq_true_eq] at h
    rw [Memory.read, if_neg (by omega)]
    exact ih h.2

theorem Memory.above_mono {n k : Nat} {m : List Host.Cell} (h : Memory.above n m = true) (hk : k ≤ n) : Memory.above k m = true := by
  simp only [Memory.above, List.all_eq_true, decide_eq_true_eq] at h ⊢
  exact fun c hc => lt_of_le_of_lt hk (h c hc)

theorem Memory.above_write {n k : Nat} {m : List Host.Cell} (x : Byte) (h : Memory.above n m = true) (hk : n < k) :
    Memory.above n (Memory.write m k x) = true := by
  induction m with
  | nil =>
    by_cases hx : x = 0#8 <;> simp [Memory.write, hx, Memory.above, hk]
  | cons c m ih =>
    obtain ⟨a, b⟩ := c
    have h' := h
    simp only [Memory.above, List.all_cons, Bool.and_eq_true, decide_eq_true_eq] at h
    unfold Memory.write
    split
    · split
      · exact h'
      · simp only [Memory.above, List.all_cons, Bool.and_eq_true, decide_eq_true_eq]
        exact ⟨hk, h⟩
    · split
      · split
        · exact h.2
        · simp only [Memory.above, List.all_cons, Bool.and_eq_true, decide_eq_true_eq]
          exact ⟨hk, h.2⟩
      · simp only [Memory.above, List.all_cons, Bool.and_eq_true, decide_eq_true_eq]
        exact ⟨h.1, ih h.2⟩

/-- Writing a byte keeps the canonical form. -/
theorem Memory.wf_write {m : List Host.Cell} (k : Nat) (x : Byte) (h : Memory.wf m = true) : Memory.wf (Memory.write m k x) = true := by
  induction m with
  | nil =>
    by_cases hx : x = 0#8 <;> simp [Memory.write, hx, Memory.wf, Memory.above]
  | cons c m ih =>
    obtain ⟨a, b⟩ := c
    have h' := h
    simp only [Memory.wf, Bool.and_eq_true, bne_iff_ne] at h
    obtain ⟨⟨hb, ha⟩, hm⟩ := h
    unfold Memory.write
    split
    · rename_i hk
      split
      · exact h'
      · rename_i hx
        have e : Memory.above k ((a, b) :: m) = true := by
          simp only [Memory.above, List.all_cons, Bool.and_eq_true, decide_eq_true_eq]
          exact ⟨hk, Memory.above_mono ha (Nat.le_of_lt hk)⟩
        rw [Memory.wf]
        simp only [Bool.and_eq_true, bne_iff_ne]
        exact ⟨⟨hx, e⟩, h'⟩
    · split
      · rename_i hk
        subst hk
        split
        · exact hm
        · rename_i hx
          simp only [Memory.wf, Bool.and_eq_true, bne_iff_ne]
          exact ⟨⟨hx, ha⟩, hm⟩
      · simp only [Memory.wf, Bool.and_eq_true, bne_iff_ne]
        exact ⟨⟨hb, Memory.above_write x ha (by omega)⟩, ih hm⟩

/-- A byte written is the byte read. -/
@[simp] theorem Memory.read_write_same {m : List Host.Cell} (k : Nat) (x : Byte) (h : Memory.wf m = true) :
    Memory.read (Memory.write m k x) k = x := by
  induction m with
  | nil =>
    by_cases hx : x = 0#8 <;> simp [Memory.write, hx, Memory.read]
  | cons c m ih =>
    obtain ⟨a, b⟩ := c
    simp only [Memory.wf, Bool.and_eq_true, bne_iff_ne] at h
    obtain ⟨⟨hb, ha⟩, hm⟩ := h
    unfold Memory.write
    split
    · split
      · rename_i hk hx
        rw [Memory.read, if_neg (by omega), hx]
        exact Memory.read_of_above ha (Nat.le_of_lt hk)
      · simp [Memory.read]
    · split
      · rename_i hk
        subst hk
        split
        · rename_i hx
          rw [hx]
          exact Memory.read_of_above ha le_rfl
        · simp [Memory.read]
      · rw [Memory.read, if_neg (by omega)]
        exact ih hm

/-- Every other byte is left alone. -/
theorem Memory.read_write_other (m : List Host.Cell) {k j : Nat} (x : Byte) (h : Memory.wf m = true) (hj : j ≠ k) :
    Memory.read (Memory.write m k x) j = Memory.read m j := by
  induction m with
  | nil =>
    by_cases hx : x = 0#8 <;> simp [Memory.write, hx, Memory.read, Ne.symm hj]
  | cons c m ih =>
    obtain ⟨a, b⟩ := c
    simp only [Memory.wf, Bool.and_eq_true, bne_iff_ne] at h
    obtain ⟨⟨hb, ha⟩, hm⟩ := h
    unfold Memory.write
    split
    · split
      · rfl
      · rw [Memory.read, if_neg (Ne.symm hj)]
    · split
      · rename_i hk
        subst hk
        split
        · rw [Memory.read, if_neg (Ne.symm hj)]
        · rw [Memory.read, Memory.read, if_neg (Ne.symm hj), if_neg (Ne.symm hj)]
      · rw [Memory.read, Memory.read]
        split
        · rfl
        · exact ih hm

/-! ### Many bytes -/

/-- Writing bytes keeps the canonical form. -/
theorem Memory.wf_writeAll (bs : List Byte) : ∀ {m : List Host.Cell} (a : Nat), Memory.wf m = true → Memory.wf (Memory.writeAll m a bs) = true := by
  induction bs with
  | nil => exact fun _ h => h
  | cons b bs ih => exact fun a h => ih (a + 1) (Memory.wf_write a b h)

/-- A byte outside the run written is left alone. -/
theorem Memory.read_writeAll_other (bs : List Byte) : ∀ {m : List Host.Cell} (a : Nat) {j : Nat}, Memory.wf m = true →
    (j < a ∨ a + bs.length ≤ j) → Memory.read (Memory.writeAll m a bs) j = Memory.read m j := by
  induction bs with
  | nil => exact fun _ _ _ _ => rfl
  | cons b bs ih =>
    intro m a j h hj
    simp only [List.length_cons] at hj
    rw [Memory.writeAll, ih (a + 1) (Memory.wf_write a b h) (by omega)]
    exact Memory.read_write_other m b h (by omega)

/-- Byte i of the run written is the i-th byte given. -/
theorem Memory.read_writeAll_same (bs : List Byte) : ∀ {m : List Host.Cell} (a : Nat) {i : Nat}, Memory.wf m = true → i < bs.length →
    Memory.read (Memory.writeAll m a bs) (a + i) = bs.getD i 0 := by
  induction bs with
  | nil => exact fun _ _ _ h => absurd h (by simp)
  | cons b bs ih =>
    intro m a i h hi
    rw [Memory.writeAll]
    cases i with
    | zero =>
      rw [Memory.read_writeAll_other bs (a + 1) (Memory.wf_write a b h) (by omega)]
      simpa using Memory.read_write_same a b h
    | succ i =>
      have e : a + (i + 1) = a + 1 + i := by omega
      rw [e, ih (a + 1) (Memory.wf_write a b h) (by simpa using hi)]
      simp

/-! ### The state's memory -/

/-- Writing memory keeps its canonical form. -/
theorem State.putMem_canonical {s : State} (a : Nat) (bs : List Byte) (h : Memory.wf s.mem = true) :
    Memory.wf (s.putMem a bs).mem = true := Memory.wf_writeAll bs a h

@[simp] theorem State.stage_mem (s : State) (c : Nat) (r : LakeRec) : (s.stage c r).mem = s.mem := rfl

/-- Preserving a grain before a write changes no byte of memory. -/
@[simp] theorem State.preserve_mem (s : State) (g : Nat) : (s.preserve g).mem = s.mem := by
  unfold State.preserve
  dsimp only
  split
  · rfl
  · simp only [State.setTag_mem]
    split <;> rfl

theorem State.foldl_preserve_mem (gs : List Nat) : ∀ s : State, (gs.foldl State.preserve s).mem = s.mem := by
  induction gs with
  | nil => exact fun _ => rfl
  | cons g gs ih => exact fun s => by rw [List.foldl_cons, ih, State.preserve_mem]

/-- What a write of device memory leaves in it: exactly the bytes written. -/
@[simp] theorem State.writeMem_mem (s : State) (a : Nat) (bs : List Byte) : (s.writeMem a bs).mem = Memory.writeAll s.mem a bs := by
  unfold State.writeMem
  split
  · rfl
  · simp only [State.putMem_mem, State.foldl_preserve_mem]

/-- A write of device memory keeps its canonical form. -/
theorem State.writeMem_canonical {s : State} (a : Nat) (bs : List Byte) (h : Memory.wf s.mem = true) :
    Memory.wf (s.writeMem a bs).mem = true := by
  rw [State.writeMem_mem]
  exact Memory.wf_writeAll bs a h

/-- Preserving a marked object changes no byte of memory. -/
@[simp] theorem State.cow_mem (s : State) (ty owner index : Nat) (body : State → List Byte) : (s.cow ty owner index body).mem = s.mem := by
  unfold State.cow
  dsimp only
  split <;> rfl

/-- Writing a v register changes no byte of memory. -/
@[simp] theorem State.writeV_mem (s : State) (gid r : Nat) (lanes : Lanes) (x : LaneVals) : (s.writeV gid r lanes x).mem = s.mem := by
  simp [State.writeV]

/-- Memory in canonical form that reads the same at every address is the same memory. -/
theorem Memory.ext_read {m m' : List Host.Cell} (h : Memory.wf m = true) (h' : Memory.wf m' = true)
    (e : ∀ k, Memory.read m k = Memory.read m' k) : m = m' := by
  induction m generalizing m' with
  | nil =>
    cases m' with
    | nil => rfl
    | cons c m' =>
      obtain ⟨a, b⟩ := c
      simp only [Memory.wf, Bool.and_eq_true, bne_iff_ne] at h'
      have := e a
      simp only [Memory.read, if_true] at this
      exact absurd this.symm h'.1.1
  | cons c m ih =>
    obtain ⟨a, b⟩ := c
    simp only [Memory.wf, Bool.and_eq_true, bne_iff_ne] at h
    obtain ⟨⟨hb, ha⟩, hm⟩ := h
    cases m' with
    | nil =>
      have := e a
      simp only [Memory.read, if_true] at this
      exact absurd this hb
    | cons c' m' =>
      obtain ⟨a', b'⟩ := c'
      simp only [Memory.wf, Bool.and_eq_true, bne_iff_ne] at h'
      obtain ⟨⟨hb', ha'⟩, hm'⟩ := h'
      have h1 : a = a' := by
        rcases lt_trichotomy a a' with hl | hl | hl
        · have := e a
          rw [Memory.read, if_pos rfl, Memory.read, if_neg (by omega), Memory.read_of_above ha' (Nat.le_of_lt hl)] at this
          exact absurd this hb
        · exact hl
        · have := e a'
          rw [Memory.read, if_neg (by omega), Memory.read_of_above ha (Nat.le_of_lt hl), Memory.read, if_pos rfl] at this
          exact absurd this.symm hb'
      subst h1
      have h2 : b = b' := by simpa [Memory.read] using e a
      subst h2
      rw [ih hm hm' fun k => ?_]
      by_cases hk : k ≤ a
      · rw [Memory.read_of_above ha hk, Memory.read_of_above ha' hk]
      · have := e k
        rwa [Memory.read, if_neg (by omega), Memory.read, if_neg (by omega)] at this

end Sys2Proof.Machine
end

