-- ==== Sys2Proof/Laws/Ops.lean ====
section
/-!
SUPPORT. What the shared operations can do, said once: running a meaning on the clause in the slot, ending an instruction, raising a
fault, writing registers of some lanes, entering and leaving the handler.
-/

namespace Sys2Proof.Machine

set_option Elab.async false

/-! ### The clause in the slot -/

/-- With a clause in the slot, a meaning runs on it. -/
@[simp] theorem State.withIssue_cons {s : State} {iss : Issue} {rest : List Issue} (k : Issue → State → Result)
    (h : s.issuing = iss :: rest) : s.withIssue k = k iss s := by
  simp [State.withIssue, h]

/-- Without one, there is no clause to run. -/
theorem State.withIssue_nil {s : State} (k : Issue → State → Result) (h : s.issuing = []) : s.withIssue k = .fault .noClause := by
  simp [State.withIssue, h]

/-- A meaning that runs on the clause in the slot either has one, or stops for want of one. -/
theorem State.withIssue_next {s t : State} {k : Issue → State → Result} (h : s.withIssue k = .next t) :
    ∃ iss rest, s.issuing = iss :: rest ∧ k iss s = .next t := by
  unfold State.withIssue at h
  split at h
  · cases h
  · rename_i iss rest e
    exact ⟨iss, rest, e, h⟩

/-- Ending an instruction: its latch holds no value, its effects are held back, and the clause moves past its words. -/
theorem State.finish_next (s : State) (iss : Issue) (n : Nat) (es : List Effect) :
    s.finish iss n es = .next (s.setIssue ((iss.clearLatch.hold es).advance n)) := rfl

/-- Ending an ALU instruction: its value goes to its latch, its effects are held back, and the clause moves past its words. -/
theorem State.finishAlu_next (s : State) (iss : Issue) (n : Nat) (x : LaneVals) (es : List Effect) :
    s.finishAlu iss n x es = .next (s.setIssue (((iss.setLatch x).hold es).advance n)) := rfl

@[simp] theorem Issue.advance_effects (iss : Issue) (n : Nat) : (iss.advance n).effects = iss.effects := rfl
@[simp] theorem Issue.advance_words (iss : Issue) (n : Nat) : (iss.advance n).words = iss.words.drop n := rfl
@[simp] theorem Issue.advance_idx (iss : Issue) (n : Nat) : (iss.advance n).idx = iss.idx + 1 := rfl
@[simp] theorem Issue.advance_latches (iss : Issue) (n : Nat) : (iss.advance n).latches = iss.latches := rfl
@[simp] theorem Issue.advance_before (iss : Issue) (n : Nat) : (iss.advance n).before = iss.before := rfl
@[simp] theorem Issue.advance_gid (iss : Issue) (n : Nat) : (iss.advance n).gid = iss.gid := rfl
@[simp] theorem Issue.advance_lanes (iss : Issue) (n : Nat) : (iss.advance n).lanes = iss.lanes := rfl
@[simp] theorem Issue.hold_effects (iss : Issue) (es : List Effect) : (iss.hold es).effects = iss.effects ++ es := rfl
@[simp] theorem Issue.hold_latches (iss : Issue) (es : List Effect) : (iss.hold es).latches = iss.latches := rfl
@[simp] theorem Issue.hold_before (iss : Issue) (es : List Effect) : (iss.hold es).before = iss.before := rfl
@[simp] theorem Issue.hold_gid (iss : Issue) (es : List Effect) : (iss.hold es).gid = iss.gid := rfl
@[simp] theorem Issue.hold_lanes (iss : Issue) (es : List Effect) : (iss.hold es).lanes = iss.lanes := rfl
@[simp] theorem Issue.setLatch_effects (iss : Issue) (x : LaneVals) : (iss.setLatch x).effects = iss.effects := rfl
@[simp] theorem Issue.setLatch_before (iss : Issue) (x : LaneVals) : (iss.setLatch x).before = iss.before := rfl
@[simp] theorem Issue.setLatch_latches (iss : Issue) (x : LaneVals) :
    (iss.setLatch x).latches = iss.latches.insert (iss.idx % 8) x := rfl
@[simp] theorem Issue.clearLatch_effects (iss : Issue) : iss.clearLatch.effects = iss.effects := rfl
@[simp] theorem Issue.clearLatch_before (iss : Issue) : iss.clearLatch.before = iss.before := rfl
@[simp] theorem Issue.clearLatch_latches (iss : Issue) : iss.clearLatch.latches = iss.latches.erase (iss.idx % 8) := rfl

/-! ### Precise faults -/

/-- What a reader of the engines leaves behind when it ends: everything but what was fetched for it stands. -/
theorem State.engDone_frame (s : State) (who : Nat) :
    (s.engDone who).mem = s.mem ∧ (s.engDone who).tags = s.tags ∧ (s.engDone who).issuing = s.issuing ∧
      (s.engDone who).groups = s.groups ∧ (s.engDone who).teams = s.teams ∧ (s.engDone who).ctxs = s.ctxs := by
  unfold State.engDone
  split <;> simp

/-- A precise fault takes the clause out of its slot. -/
@[simp] theorem State.raise_issuing (s : State) (iss : Issue) (c : FaultCode) (lanes : Lanes) (va : Nat) (aux : Word) :
    (s.raise iss c lanes va aux).issuing = s.issuing.drop 1 := by
  simp [State.raise, State.engDone_frame]
/-- A precise fault changes no byte of memory. -/
@[simp] theorem State.raise_mem (s : State) (iss : Issue) (c : FaultCode) (lanes : Lanes) (va : Nat) (aux : Word) :
    (s.raise iss c lanes va aux).mem = s.mem := by
  simp [State.raise, State.engDone_frame]
@[simp] theorem State.raise_tags (s : State) (iss : Issue) (c : FaultCode) (lanes : Lanes) (va : Nat) (aux : Word) :
    (s.raise iss c lanes va aux).tags = s.tags := by
  simp [State.raise, State.engDone_frame]
@[simp] theorem State.raise_teams (s : State) (iss : Issue) (c : FaultCode) (lanes : Lanes) (va : Nat) (aux : Word) :
    (s.raise iss c lanes va aux).teams = s.teams := by
  simp [State.raise, State.engDone_frame]
@[simp] theorem State.raise_ctxs (s : State) (iss : Issue) (c : FaultCode) (lanes : Lanes) (va : Nat) (aux : Word) :
    (s.raise iss c lanes va aux).ctxs = s.ctxs := by
  simp [State.raise, State.engDone_frame]

theorem State.faults_next (s : State) (iss : Issue) (c : FaultCode) (lanes : Lanes) (va : Nat) :
    s.faults iss c lanes va = .next (s.raise iss c lanes va) := rfl

/-! ### Groups -/

@[simp] theorem State.group_modGroup_same {s : State} {k : Nat} (f : Group → Group) (h : (s.groups.find? k).isSome = true) :
    (s.modGroup k f).group k = f (s.group k) := by
  obtain ⟨g, hg⟩ := Option.isSome_iff_exists.mp h
  simp [State.group, SMap.get, hg]

theorem State.group_modGroup_other {s : State} {k j : Nat} (f : Group → Group) (h : j ≠ k) : (s.modGroup k f).group j = s.group j := by
  simp [State.group, SMap.get, SMap.find?_modify_other _ f h]

/-! ### Threads -/

@[simp] theorem Group.modThreads_length (g : Group) (lanes : Lanes) (f : Nat → Thread → Thread) :
    (g.modThreads lanes f).threads.length = g.threads.length := by
  simp [Group.modThreads]

/-- Changing the threads of some lanes changes those and no other. -/
theorem Group.thread_modThreads (g : Group) (lanes : Lanes) (f : Nat → Thread → Thread) {l : Nat} (h : l < g.threads.length) :
    (g.modThreads lanes f).thread l = if lanes.has l then f l (g.thread l) else g.thread l := by
  simp [Group.thread, Group.modThreads, List.getD, h]

@[simp] theorem Group.modThreads_g (g : Group) (lanes : Lanes) (f : Nat → Thread → Thread) : (g.modThreads lanes f).g = g.g := rfl
@[simp] theorem Group.modThreads_h (g : Group) (lanes : Lanes) (f : Nat → Thread → Thread) : (g.modThreads lanes f).h = g.h := rfl
@[simp] theorem Group.modThreads_sb (g : Group) (lanes : Lanes) (f : Nat → Thread → Thread) : (g.modThreads lanes f).sb = g.sb := rfl
@[simp] theorem Group.modThreads_fpctl (g : Group) (lanes : Lanes) (f : Nat → Thread → Thread) :
    (g.modThreads lanes f).fpctl = g.fpctl := rfl
@[simp] theorem Group.modThreads_inHandler (g : Group) (lanes : Lanes) (f : Nat → Thread → Thread) :
    (g.modThreads lanes f).inHandler = g.inHandler := rfl

/-- A v register after a write of some lanes of it. -/
theorem Group.v_writeV (g : Group) (r : Nat) (lanes : Lanes) (x : LaneVals) {l : Nat} (h : l < g.threads.length) (k : Nat) :
    ((g.writeV r lanes x).thread l).v.get k 0 = if lanes.has l ∧ k = r then x.at l else (g.thread l).v.get k 0 := by
  rw [Group.writeV, Group.thread_modThreads _ _ _ h]
  by_cases hl : lanes.has l
  · by_cases hk : k = r
    · simp [hl, hk]
    · simp [hl, hk, SMap.get_put_other _ _ _ hk]
  · simp [hl]

/-- A k register after a write of some lanes of it: the low 16 bits of the value. -/
theorem Group.k_writeK (g : Group) (r : Nat) (lanes : Lanes) (x : LaneVals) {l : Nat} (h : l < g.threads.length) (k : Nat) :
    ((g.writeK r lanes x).thread l).k.get k 0 = if lanes.has l ∧ k = r then (x.at l).truncate 16 else (g.thread l).k.get k 0 := by
  rw [Group.writeK, Group.thread_modThreads _ _ _ h]
  by_cases hl : lanes.has l
  · by_cases hk : k = r
    · simp [hl, hk]
    · simp [hl, hk, SMap.get_put_other _ _ _ hk]
  · simp [hl]

/-! ### The handler -/

/-- Entering the handler: the registers it fills and the threads it moves (R368). -/
theorem Group.takeFault_registers (g : Group) (f : FaultRec) (h : BitVec 52) :
    (g.takeFault f h).faultAddr = f.pc ∧ (g.takeFault f h).faultVa = BitVec.ofNat 52 f.va ∧ (g.takeFault f h).faultAux = f.aux ∧
      (g.takeFault f h).inHandler = true ∧ (g.takeFault f h).handlerLanes = g.activeFor f ∧ (g.takeFault f h).bundles = [] :=
  ⟨rfl, rfl, rfl, rfl, rfl, rfl⟩

/-- A thread of the group after the handler is entered: an active one stands at the handler, the others are held. -/
theorem Group.thread_takeFault (g : Group) (f : FaultRec) (h : BitVec 52) {l : Nat} (hl : l < g.threads.length) :
    (g.takeFault f h).thread l =
      if (g.activeFor f).has l then (g.thread l).enterHandler (if f.deferred then (g.thread l).pc else f.pc) h else (g.thread l).hold := by
  simp [Group.thread, Group.takeFault, List.getD, hl]

@[simp] theorem Thread.enterHandler_pc (t : Thread) (r h : BitVec 52) : (t.enterHandler r h).pc = h := rfl
@[simp] theorem Thread.enterHandler_epc (t : Thread) (r h : BitVec 52) : (t.enterHandler r h).epc = r := rfl
@[simp] theorem Thread.enterHandler_status (t : Thread) (r h : BitVec 52) : (t.enterHandler r h).status = .ready := rfl
@[simp] theorem Thread.enterHandler_v (t : Thread) (r h : BitVec 52) : (t.enterHandler r h).v = t.v := rfl

/-! ### Accesses of a clause -/

/-- Ends of an access: a wait for the grain of a walk, the lowest lane's failure, or the held access. -/
theorem State.endAccess_cases (s : State) (iss : Issue) (words : Nat) (i : Instr) (rs : List (Nat × LaneCheck)) (excuse : Bool)
    (n : List Nat) (more : List Effect) :
    (∃ g w leaf, awaited rs = some (g, w, leaf) ∧
        s.endAccess iss words i rs excuse n more = .next (s.request g w leaf).stall) ∨
      (∃ c lanes va, awaited rs = none ∧ firstFailure (failures excuse rs) = some (c, lanes, va) ∧
        s.endAccess iss words i rs excuse n more = .next (s.raise iss c lanes va)) ∨
      (awaited rs = none ∧ firstFailure (failures excuse rs) = none ∧
        s.endAccess iss words i rs excuse n more =
          s.finish iss words (.act i iss.idx (okLanes rs) (laneWord rs fun va _ _ => va) (laneWord rs fun _ pa _ => pa)
            (laneWord rs fun _ _ pte => pte.toNat) n :: more)) := by
  unfold State.endAccess
  split
  · rename_i g w leaf h
    exact .inl ⟨g, w, leaf, h, rfl⟩
  · rename_i h
    split
    · rename_i c lanes va h'
      exact .inr (.inl ⟨c, lanes, va, h, h', rfl⟩)
    · rename_i h'
      exact .inr (.inr ⟨h, h', rfl⟩)

end Sys2Proof.Machine
end

