-- ==== Sys2Proof/Laws/PerInstr.lean ====
section
/-!
SUPPORT. The family Fields, one lemma for each instruction: the fields of a well-formed instruction's words are read back as that very
instruction, whatever second word a one-word format is given. An event of the machine has no words.
-/

namespace Sys2Proof.Laws.Fields

set_option Elab.async false

/-- The words of the instruction, were it well formed, read back as it. -/
def Statement (i : Instr) : Prop :=
  ∀ e, i.enc? = some e → e.fault? = none →
    ∀ v : IWord, Instr.ofWords (e.encode.headD 0) (if e.body.twoWords then e.encode.getD 1 0 else v) e.lits = some i

/-- An event has no words. -/
theorem of_none {i : Instr} (h : i.enc? = none) : Statement i := fun e he => by rw [h] at he; cases he

/-- The form of the lemma for format A. -/
theorem of_a {i : Instr} {op : BitVec 7} {f : FA} {e : Enc} (h : i.enc? = some e) (hb : e.body = .a f) (ho : e.op = op)
    (hf : fmtOf op.toNat = some .a) (hi : e.fault? = none → Instr.ofA op.toNat f e.lits = some i) : Statement i := by
  intro e' he hw v
  obtain rfl : e = e' := Option.some.inj (h.symm.trans he)
  simp only [Enc.encode, hb, List.headD_cons, List.cons_append, Instr.ofWords, ho, FA.opOf_toWord, hf,
    FA.ofWord_toWord]
  exact hi hw

/-- The form of the lemma for format B. -/
theorem of_b {i : Instr} {op : BitVec 7} {f : FB} {e : Enc} (h : i.enc? = some e) (hb : e.body = .b f) (ho : e.op = op)
    (hf : fmtOf op.toNat = some .b) (hi : e.fault? = none → Instr.ofB op.toNat f = some i) : Statement i := by
  intro e' he hw v
  obtain rfl : e = e' := Option.some.inj (h.symm.trans he)
  simp only [Enc.encode, hb, List.headD_cons, List.cons_append, Instr.ofWords, ho, FB.opOf_toWord, hf,
    FB.ofWord_toWord]
  exact hi hw

/-- The form of the lemma for format C. -/
theorem of_c {i : Instr} {op : BitVec 7} {f : FC} {e : Enc} (h : i.enc? = some e) (hb : e.body = .c f) (ho : e.op = op)
    (hf : fmtOf op.toNat = some .c) (hi : e.fault? = none → Instr.ofC op.toNat f e.lits = some i) : Statement i := by
  intro e' he hw v
  obtain rfl : e = e' := Option.some.inj (h.symm.trans he)
  simp only [Enc.encode, hb, List.headD_cons, List.cons_append, Instr.ofWords, ho, FC.opOf_toWord, hf,
    FC.ofWord_toWord]
  exact hi hw

/-- The form of the lemma for format X. -/
theorem of_x {i : Instr} {op : BitVec 7} {f : FX} {e : Enc} (h : i.enc? = some e) (hb : e.body = .x f) (ho : e.op = op)
    (hf : fmtOf op.toNat = some .x) (hi : e.fault? = none → Instr.ofX op.toNat f e.lits = some i) : Statement i := by
  intro e' he hw v
  obtain rfl : e = e' := Option.some.inj (h.symm.trans he)
  simp only [Enc.encode, hb, Body.twoWords, List.headD_cons, List.cons_append, List.getD_cons_succ, List.getD_cons_zero,
    if_true, Instr.ofWords, ho, FX.opOf_word0, hf, FX.ofWords_words]
  exact hi hw

/-- The form of the lemma for format M. -/
theorem of_m {i : Instr} {op : BitVec 7} {f : FM} {e : Enc} (h : i.enc? = some e) (hb : e.body = .m f) (ho : e.op = op)
    (hf : fmtOf op.toNat = some .m) (hi : e.fault? = none → Instr.ofM op.toNat f e.lits = some i) : Statement i := by
  intro e' he hw v
  obtain rfl : e = e' := Option.some.inj (h.symm.trans he)
  simp only [Enc.encode, hb, Body.twoWords, List.headD_cons, List.cons_append, List.getD_cons_succ, List.getD_cons_zero,
    if_true, Instr.ofWords, ho, FM.opOf_word0, hf, FM.ofWords_words]
  exact hi hw

/-- The form of the lemma for format E. -/
theorem of_e {i : Instr} {op : BitVec 7} {f : FE} {e : Enc} (h : i.enc? = some e) (hb : e.body = .e f) (ho : e.op = op)
    (hf : fmtOf op.toNat = some .e) (hi : e.fault? = none → Instr.ofE op.toNat f e.lits = some i) : Statement i := by
  intro e' he hw v
  obtain rfl : e = e' := Option.some.inj (h.symm.trans he)
  simp only [Enc.encode, hb, Body.twoWords, List.headD_cons, List.cons_append, List.getD_cons_succ, List.getD_cons_zero,
    if_true, Instr.ofWords, ho, FE.opOf_word0, hf, FE.ofWords_words]
  exact hi hw

/-- What passes the first step of the encoding checks has an assigned type, sub-op and, where the form says so, aux. -/
theorem passes {e : Enc} (h : e.fault? = none) :
    e.rules.ill0 = false ∧ e.body.sub ∈ e.rules.subs ∧
      (∀ f, e.body = .e f → e.rules.auxIll = true → f.aux.toNat ∈ e.rules.auxs) := by
  unfold Enc.fault? at h
  split at h
  · cases h
  · rename_i h1
    simp only [Bool.or_eq_true, not_or, Bool.not_eq_true, Enc.illegal0, Enc.illegal1,
      Bool.not_eq_false', List.contains_iff_mem] at h1
    refine ⟨h1.1.2, h1.2.1, fun f hb ha => ?_⟩
    have h2 := h1.2.2
    rw [hb] at h2
    simpa [ha] using h2

theorem add (f : FA) (ls : Lits) : Statement (.add f ls) := of_a rfl rfl rfl rfl fun _ => rfl
theorem sub (f : FA) (ls : Lits) : Statement (.sub f ls) := of_a rfl rfl rfl rfl fun _ => rfl
theorem addSatSigned (f : FA) (ls : Lits) : Statement (.addSatSigned f ls) := of_a rfl rfl rfl rfl fun _ => rfl
theorem addSatUnsigned (f : FA) (ls : Lits) : Statement (.addSatUnsigned f ls) := of_a rfl rfl rfl rfl fun _ => rfl
theorem subSatSigned (f : FA) (ls : Lits) : Statement (.subSatSigned f ls) := of_a rfl rfl rfl rfl fun _ => rfl
theorem subSatUnsigned (f : FA) (ls : Lits) : Statement (.subSatUnsigned f ls) := of_a rfl rfl rfl rfl fun _ => rfl
theorem mul (f : FA) (ls : Lits) : Statement (.mul f ls) := of_a rfl rfl rfl rfl fun _ => rfl
theorem mulhiSigned (f : FA) (ls : Lits) : Statement (.mulhiSigned f ls) := of_a rfl rfl rfl rfl fun _ => rfl
theorem mulhiUnsigned (f : FA) (ls : Lits) : Statement (.mulhiUnsigned f ls) := of_a rfl rfl rfl rfl fun _ => rfl
theorem mad (f : FA) (ls : Lits) : Statement (.mad f ls) := of_a rfl rfl rfl rfl fun _ => rfl
theorem abs (f : FA) (ls : Lits) : Statement (.abs f ls) := of_a rfl rfl rfl rfl fun _ => rfl
theorem pack (f : FA) (ls : Lits) : Statement (.pack f ls) := of_a rfl rfl rfl rfl fun _ => rfl
theorem minSigned (f : FA) (ls : Lits) : Statement (.minSigned f ls) := of_a rfl rfl rfl rfl fun _ => rfl
theorem minUnsigned (f : FA) (ls : Lits) : Statement (.minUnsigned f ls) := of_a rfl rfl rfl rfl fun _ => rfl
theorem maxSigned (f : FA) (ls : Lits) : Statement (.maxSigned f ls) := of_a rfl rfl rfl rfl fun _ => rfl
theorem maxUnsigned (f : FA) (ls : Lits) : Statement (.maxUnsigned f ls) := of_a rfl rfl rfl rfl fun _ => rfl
theorem and (f : FA) (ls : Lits) : Statement (.and f ls) := of_a rfl rfl rfl rfl fun _ => rfl
theorem or (f : FA) (ls : Lits) : Statement (.or f ls) := of_a rfl rfl rfl rfl fun _ => rfl
theorem xor (f : FA) (ls : Lits) : Statement (.xor f ls) := of_a rfl rfl rfl rfl fun _ => rfl
theorem unpack (f : FA) (ls : Lits) : Statement (.unpack f ls) := of_a rfl rfl rfl rfl fun _ => rfl
theorem andn (f : FA) (ls : Lits) : Statement (.andn f ls) := of_a rfl rfl rfl rfl fun _ => rfl
theorem shl (f : FA) (ls : Lits) : Statement (.shl f ls) := of_a rfl rfl rfl rfl fun _ => rfl
theorem shr (f : FA) (ls : Lits) : Statement (.shr f ls) := of_a rfl rfl rfl rfl fun _ => rfl
theorem sar (f : FA) (ls : Lits) : Statement (.sar f ls) := of_a rfl rfl rfl rfl fun _ => rfl
theorem rol (f : FA) (ls : Lits) : Statement (.rol f ls) := of_a rfl rfl rfl rfl fun _ => rfl
theorem clz (f : FA) (ls : Lits) : Statement (.clz f ls) := of_a rfl rfl rfl rfl fun _ => rfl
theorem ctz (f : FA) (ls : Lits) : Statement (.ctz f ls) := of_a rfl rfl rfl rfl fun _ => rfl
theorem popc (f : FA) (ls : Lits) : Statement (.popc f ls) := of_a rfl rfl rfl rfl fun _ => rfl
theorem brev (f : FA) (ls : Lits) : Statement (.brev f ls) := of_a rfl rfl rfl rfl fun _ => rfl
theorem bfx (f : FA) (ls : Lits) : Statement (.bfx f ls) := of_a rfl rfl rfl rfl fun _ => rfl
theorem swz (f : FA) (ls : Lits) : Statement (.swz f ls) := of_a rfl rfl rfl rfl fun _ => rfl
theorem bfi (f : FA) (ls : Lits) : Statement (.bfi f ls) := of_a rfl rfl rfl rfl fun _ => rfl
theorem cmpSigned (f : FA) (ls : Lits) : Statement (.cmpSigned f ls) := of_a rfl rfl rfl rfl fun _ => rfl
theorem cmpUnsigned (f : FA) (ls : Lits) : Statement (.cmpUnsigned f ls) := of_a rfl rfl rfl rfl fun _ => rfl
theorem kop (f : FA) (ls : Lits) : Statement (.kop f ls) := of_a rfl rfl rfl rfl fun _ => rfl
theorem sel (f : FA) (ls : Lits) : Statement (.sel f ls) := of_a rfl rfl rfl rfl fun _ => rfl
theorem lea (f : FA) (ls : Lits) : Statement (.lea f ls) := of_a rfl rfl rfl rfl fun _ => rfl
theorem movl (f : FA) (ls : Lits) : Statement (.movl f ls) := of_a rfl rfl rfl rfl fun _ => rfl
theorem gmov (f : FA) (ls : Lits) : Statement (.gmov f ls) := of_a rfl rfl rfl rfl fun _ => rfl
theorem cvti (f : FA) (ls : Lits) : Statement (.cvti f ls) := of_a rfl rfl rfl rfl fun _ => rfl
theorem xlSh (f : FX) (ls : Lits) : Statement (.xlSh f ls) := of_x rfl rfl rfl rfl fun _ => rfl
theorem xlBc (f : FX) (ls : Lits) : Statement (.xlBc f ls) := of_x rfl rfl rfl rfl fun _ => rfl
theorem xlRed (f : FX) (ls : Lits) : Statement (.xlRed f ls) := of_x rfl rfl rfl rfl fun _ => rfl
theorem xlScan (f : FX) (ls : Lits) : Statement (.xlScan f ls) := of_x rfl rfl rfl rfl fun _ => rfl
theorem xlVoteAll (f : FX) (ls : Lits) : Statement (.xlVoteAll f ls) :=
  of_x rfl rfl rfl rfl fun h => by
    have h' := (passes h).2.1
    simp only [encX, rXlVote, Body.sub, List.mem_singleton] at h'
    simp [Instr.ofX, h', encX]
theorem xlVoteAny (f : FX) (ls : Lits) : Statement (.xlVoteAny f ls) :=
  of_x rfl rfl rfl rfl fun h => by
    have h' := (passes h).2.1
    simp only [encX, rXlVote, Body.sub, List.mem_singleton] at h'
    simp [Instr.ofX, h', encX]
theorem xlVoteUni (f : FX) (ls : Lits) : Statement (.xlVoteUni f ls) :=
  of_x rfl rfl rfl rfl fun h => by
    have h' := (passes h).2.1
    simp only [encX, rXlVote, Body.sub, List.mem_singleton] at h'
    simp [Instr.ofX, h', encX]
theorem xlBal (f : FX) (ls : Lits) : Statement (.xlBal f ls) :=
  of_x rfl rfl rfl rfl fun h => by
    have h' := (passes h).2.1
    simp only [encX, rXlVote, Body.sub, List.mem_singleton] at h'
    simp [Instr.ofX, h', encX]
theorem dp4 (f : FA) (ls : Lits) : Statement (.dp4 f ls) := of_a rfl rfl rfl rfl fun _ => rfl
theorem rnd (f : FA) (ls : Lits) : Statement (.rnd f ls) := of_a rfl rfl rfl rfl fun _ => rfl
theorem dp8 (f : FA) (ls : Lits) : Statement (.dp8 f ls) := of_a rfl rfl rfl rfl fun _ => rfl
theorem fadd (f : FA) (ls : Lits) : Statement (.fadd f ls) := of_a rfl rfl rfl rfl fun _ => rfl
theorem fsub (f : FA) (ls : Lits) : Statement (.fsub f ls) := of_a rfl rfl rfl rfl fun _ => rfl
theorem fmul (f : FA) (ls : Lits) : Statement (.fmul f ls) := of_a rfl rfl rfl rfl fun _ => rfl
theorem ffma (f : FA) (ls : Lits) : Statement (.ffma f ls) := of_a rfl rfl rfl rfl fun _ => rfl
theorem fmin (f : FA) (ls : Lits) : Statement (.fmin f ls) := of_a rfl rfl rfl rfl fun _ => rfl
theorem fmax (f : FA) (ls : Lits) : Statement (.fmax f ls) := of_a rfl rfl rfl rfl fun _ => rfl
theorem fminn (f : FA) (ls : Lits) : Statement (.fminn f ls) := of_a rfl rfl rfl rfl fun _ => rfl
theorem fmaxn (f : FA) (ls : Lits) : Statement (.fmaxn f ls) := of_a rfl rfl rfl rfl fun _ => rfl
theorem fabs (f : FA) (ls : Lits) : Statement (.fabs f ls) := of_a rfl rfl rfl rfl fun _ => rfl
theorem fneg (f : FA) (ls : Lits) : Statement (.fneg f ls) := of_a rfl rfl rfl rfl fun _ => rfl
theorem fcmp (f : FA) (ls : Lits) : Statement (.fcmp f ls) := of_a rfl rfl rfl rfl fun _ => rfl
theorem fclass (f : FA) (ls : Lits) : Statement (.fclass f ls) := of_a rfl rfl rfl rfl fun _ => rfl
theorem fcvt (f : FA) (ls : Lits) : Statement (.fcvt f ls) := of_a rfl rfl rfl rfl fun _ => rfl
theorem fcvti (f : FA) (ls : Lits) : Statement (.fcvti f ls) := of_a rfl rfl rfl rfl fun _ => rfl
theorem icvtf (f : FA) (ls : Lits) : Statement (.icvtf f ls) := of_a rfl rfl rfl rfl fun _ => rfl
theorem frnd (f : FA) (ls : Lits) : Statement (.frnd f ls) := of_a rfl rfl rfl rfl fun _ => rfl
theorem fscl (f : FA) (ls : Lits) : Statement (.fscl f ls) := of_a rfl rfl rfl rfl fun _ => rfl
theorem fexpo (f : FA) (ls : Lits) : Statement (.fexpo f ls) := of_a rfl rfl rfl rfl fun _ => rfl
theorem fdiv (f : FA) (ls : Lits) : Statement (.fdiv f ls) := of_a rfl rfl rfl rfl fun _ => rfl
theorem frcp (f : FA) (ls : Lits) : Statement (.frcp f ls) :=
  of_a rfl rfl rfl rfl fun h => by
    have h' := (passes h).1
    simp only [encSfu, decide_eq_false_iff_not, not_not] at h'
    simp [Instr.ofA, h', encSfu]
theorem frsq (f : FA) (ls : Lits) : Statement (.frsq f ls) :=
  of_a rfl rfl rfl rfl fun h => by
    have h' := (passes h).1
    simp only [encSfu, decide_eq_false_iff_not, not_not] at h'
    simp [Instr.ofA, h', encSfu]
theorem fsqrt (f : FA) (ls : Lits) : Statement (.fsqrt f ls) :=
  of_a rfl rfl rfl rfl fun h => by
    have h' := (passes h).1
    simp only [encSfu, decide_eq_false_iff_not, not_not] at h'
    simp [Instr.ofA, h', encSfu]
theorem fexp2 (f : FA) (ls : Lits) : Statement (.fexp2 f ls) :=
  of_a rfl rfl rfl rfl fun h => by
    have h' := (passes h).1
    simp only [encSfu, decide_eq_false_iff_not, not_not] at h'
    simp [Instr.ofA, h', encSfu]
theorem flog2 (f : FA) (ls : Lits) : Statement (.flog2 f ls) :=
  of_a rfl rfl rfl rfl fun h => by
    have h' := (passes h).1
    simp only [encSfu, decide_eq_false_iff_not, not_not] at h'
    simp [Instr.ofA, h', encSfu]
theorem fexp (f : FA) (ls : Lits) : Statement (.fexp f ls) :=
  of_a rfl rfl rfl rfl fun h => by
    have h' := (passes h).1
    simp only [encSfu, decide_eq_false_iff_not, not_not] at h'
    simp [Instr.ofA, h', encSfu]
theorem fsinpi (f : FA) (ls : Lits) : Statement (.fsinpi f ls) :=
  of_a rfl rfl rfl rfl fun h => by
    have h' := (passes h).1
    simp only [encSfu, decide_eq_false_iff_not, not_not] at h'
    simp [Instr.ofA, h', encSfu]
theorem fcospi (f : FA) (ls : Lits) : Statement (.fcospi f ls) :=
  of_a rfl rfl rfl rfl fun h => by
    have h' := (passes h).1
    simp only [encSfu, decide_eq_false_iff_not, not_not] at h'
    simp [Instr.ofA, h', encSfu]
theorem ftanh (f : FA) (ls : Lits) : Statement (.ftanh f ls) :=
  of_a rfl rfl rfl rfl fun h => by
    have h' := (passes h).1
    simp only [encSfu, decide_eq_false_iff_not, not_not] at h'
    simp [Instr.ofA, h', encSfu]
theorem ld (f : FM) (ls : Lits) : Statement (.ld f ls) := of_m rfl rfl rfl rfl fun _ => rfl
theorem st (f : FM) (ls : Lits) : Statement (.st f ls) := of_m rfl rfl rfl rfl fun _ => rfl
theorem lda (f : FM) (ls : Lits) : Statement (.lda f ls) := of_m rfl rfl rfl rfl fun _ => rfl
theorem sta (f : FM) (ls : Lits) : Statement (.sta f ls) := of_m rfl rfl rfl rfl fun _ => rfl
theorem ldc (f : FM) (ls : Lits) : Statement (.ldc f ls) := of_m rfl rfl rfl rfl fun _ => rfl
theorem stc (f : FM) (ls : Lits) : Statement (.stc f ls) := of_m rfl rfl rfl rfl fun _ => rfl
theorem pf (f : FM) (ls : Lits) : Statement (.pf f ls) := of_m rfl rfl rfl rfl fun _ => rfl
theorem preq (f : FM) (ls : Lits) : Statement (.preq f ls) := of_m rfl rfl rfl rfl fun _ => rfl
theorem cinv (f : FM) (ls : Lits) : Statement (.cinv f ls) := of_m rfl rfl rfl rfl fun _ => rfl
theorem cwb (f : FM) (ls : Lits) : Statement (.cwb f ls) := of_m rfl rfl rfl rfl fun _ => rfl
theorem hmov (f : FM) (ls : Lits) : Statement (.hmov f ls) := of_m rfl rfl rfl rfl fun _ => rfl
theorem hnarrow (f : FM) (ls : Lits) : Statement (.hnarrow f ls) := of_m rfl rfl rfl rfl fun _ => rfl
theorem hoff (f : FM) (ls : Lits) : Statement (.hoff f ls) := of_m rfl rfl rfl rfl fun _ => rfl
theorem hsave (f : FM) (ls : Lits) : Statement (.hsave f ls) := of_m rfl rfl rfl rfl fun _ => rfl
theorem hload (f : FM) (ls : Lits) : Statement (.hload f ls) := of_m rfl rfl rfl rfl fun _ => rfl
theorem hinfo (f : FM) (ls : Lits) : Statement (.hinfo f ls) := of_m rfl rfl rfl rfl fun _ => rfl
theorem fence (f : FM) (ls : Lits) : Statement (.fence f ls) :=
  of_m rfl rfl rfl rfl fun h => by
    have h' := (passes h).2.1
    simp only [encM, Body.sub, List.mem_map, List.mem_range] at h'
    obtain ⟨k, hk, hs⟩ := h'
    have h2 : f.sub.toNat / 16 = 0 := by omega
    simp [Instr.ofM, h2, encM]
theorem acq (f : FM) (ls : Lits) : Statement (.acq f ls) :=
  of_m rfl rfl rfl rfl fun h => by
    have h' := (passes h).2.1
    simp only [encM, Body.sub, List.mem_singleton] at h'
    simp [Instr.ofM, h', encM]
theorem rel (f : FM) (ls : Lits) : Statement (.rel f ls) :=
  of_m rfl rfl rfl rfl fun h => by
    have h' := (passes h).2.1
    simp only [encM, Body.sub, List.mem_singleton] at h'
    simp [Instr.ofM, h', encM]
theorem mvrange (f : FM) (ls : Lits) : Statement (.mvrange f ls) := of_m rfl rfl rfl rfl fun _ => rfl
theorem mvwait (f : FM) (ls : Lits) : Statement (.mvwait f ls) := of_m rfl rfl rfl rfl fun _ => rfl
theorem wsclose (f : FM) (ls : Lits) : Statement (.wsclose f ls) := of_m rfl rfl rfl rfl fun _ => rfl
theorem wsreset (f : FM) (ls : Lits) : Statement (.wsreset f ls) := of_m rfl rfl rfl rfl fun _ => rfl
theorem wsstate (f : FM) (ls : Lits) : Statement (.wsstate f ls) := of_m rfl rfl rfl rfl fun _ => rfl
theorem pgclass (f : FM) (ls : Lits) : Statement (.pgclass f ls) := of_m rfl rfl rfl rfl fun _ => rfl
theorem replicAdd (f : FM) (ls : Lits) : Statement (.replicAdd f ls) :=
  of_m rfl rfl rfl rfl fun h => by
    have h' := (passes h).2.1
    simp only [encM, rRange, Body.sub, List.mem_singleton] at h'
    simp [Instr.ofM, h', encM]
theorem replicRem (f : FM) (ls : Lits) : Statement (.replicRem f ls) :=
  of_m rfl rfl rfl rfl fun h => by
    have h' := (passes h).2.1
    simp only [encM, rRange, Body.sub, List.mem_singleton] at h'
    simp [Instr.ofM, h', encM]
theorem atom (f : FM) (ls : Lits) : Statement (.atom f ls) := of_m rfl rfl rfl rfl fun _ => rfl
theorem red (f : FM) (ls : Lits) : Statement (.red f ls) := of_m rfl rfl rfl rfl fun _ => rfl
theorem await (f : FM) (ls : Lits) : Statement (.await f ls) := of_m rfl rfl rfl rfl fun _ => rfl
theorem gang (f : FE) (ls : Lits) : Statement (.gang f ls) := of_e rfl rfl rfl rfl fun _ => rfl
theorem mzero (f : FE) (ls : Lits) : Statement (.mzero f ls) := of_e rfl rfl rfl rfl fun _ => rfl
theorem mmx (f : FE) (ls : Lits) : Statement (.mmx f ls) := of_e rfl rfl rfl rfl fun _ => rfl
theorem mmxs (f : FE) (ls : Lits) : Statement (.mmxs f ls) := of_e rfl rfl rfl rfl fun _ => rfl
theorem mdrain (f : FE) (ls : Lits) : Statement (.mdrain f ls) := of_e rfl rfl rfl rfl fun _ => rfl
theorem mstat (f : FE) (ls : Lits) : Statement (.mstat f ls) := of_e rfl rfl rfl rfl fun _ => rfl
theorem mcks (f : FE) (ls : Lits) : Statement (.mcks f ls) := of_e rfl rfl rfl rfl fun _ => rfl
theorem mcancel (f : FE) (ls : Lits) : Statement (.mcancel f ls) := of_e rfl rfl rfl rfl fun _ => rfl
theorem cpy (f : FE) (ls : Lits) : Statement (.cpy f ls) :=
  of_e rfl rfl rfl rfl fun h => by
    have h' := (passes h).2.1
    simp only [encE, rE, Body.sub, List.mem_singleton] at h'
    simp [Instr.ofE, h', encE]
theorem cpyg (f : FE) (ls : Lits) : Statement (.cpyg f ls) :=
  of_e rfl rfl rfl rfl fun h => by
    have h' := (passes h).2.1
    simp only [encE, rE, Body.sub, List.mem_singleton] at h'
    simp [Instr.ofE, h', encE]
theorem cfill (f : FE) (ls : Lits) : Statement (.cfill f ls) :=
  of_e rfl rfl rfl rfl fun h => by
    have h' := (passes h).2.1
    simp only [encE, rE, Body.sub, List.mem_singleton] at h'
    simp [Instr.ofE, h', encE]
theorem publish (f : FE) (ls : Lits) : Statement (.publish f ls) := of_e rfl rfl rfl rfl fun _ => rfl
theorem ewait (f : FE) (ls : Lits) : Statement (.ewait f ls) :=
  of_e rfl rfl rfl rfl fun h => by
    have h' := (passes h).2.1
    simp only [encE, rE, Body.sub, List.mem_singleton] at h'
    simp [Instr.ofE, h', encE]
theorem estat (f : FE) (ls : Lits) : Statement (.estat f ls) :=
  of_e rfl rfl rfl rfl fun h => by
    have h' := (passes h).2.1
    simp only [encE, rE, Body.sub, List.mem_singleton] at h'
    simp [Instr.ofE, h', encE]
theorem mig (f : FE) (ls : Lits) : Statement (.mig f ls) :=
  of_e rfl rfl rfl rfl fun h => by
    have h' := (passes h).2.1
    simp only [encE, rE, Body.sub, List.mem_singleton] at h'
    simp [Instr.ofE, h', encE]
theorem dgst (f : FE) (ls : Lits) : Statement (.dgst f ls) :=
  of_e rfl rfl rfl rfl fun h => by
    have h' := (passes h).2.1
    simp only [encE, rE, Body.sub, List.mem_singleton] at h'
    simp [Instr.ofE, h', encE]
theorem fput (f : FE) (ls : Lits) : Statement (.fput f ls) :=
  of_e rfl rfl rfl rfl fun h => by
    have h' := (passes h).2.1
    simp only [encE, rE, Body.sub, List.mem_singleton] at h'
    simp [Instr.ofE, h', encE]
theorem fget (f : FE) (ls : Lits) : Statement (.fget f ls) :=
  of_e rfl rfl rfl rfl fun h => by
    have h' := (passes h).2.1
    simp only [encE, rE, Body.sub, List.mem_singleton] at h'
    simp [Instr.ofE, h', encE]
theorem fsend (f : FE) (ls : Lits) : Statement (.fsend f ls) :=
  of_e rfl rfl rfl rfl fun h => by
    have h' := (passes h).2.1
    simp only [encE, rE, Body.sub, List.mem_singleton] at h'
    simp [Instr.ofE, h', encE]
theorem frecv (f : FE) (ls : Lits) : Statement (.frecv f ls) :=
  of_e rfl rfl rfl rfl fun h => by
    have h' := (passes h).2.1
    simp only [encE, rE, Body.sub, List.mem_singleton] at h'
    simp [Instr.ofE, h', encE]
theorem fstat (f : FE) (ls : Lits) : Statement (.fstat f ls) :=
  of_e rfl rfl rfl rfl fun h => by
    have h' := (passes h).2.1
    simp only [encE, rE, Body.sub, List.mem_singleton] at h'
    simp [Instr.ofE, h', encE]
theorem cinit (f : FE) (ls : Lits) : Statement (.cinit f ls) :=
  of_e rfl rfl rfl rfl fun h => by
    have h' := (passes h).2.1
    simp only [encE, rE, Body.sub, List.mem_singleton] at h'
    simp [Instr.ofE, h', encE]
theorem cpost (f : FE) (ls : Lits) : Statement (.cpost f ls) :=
  of_e rfl rfl rfl rfl fun h => by
    have h' := (passes h).2.1
    simp only [encE, rE, Body.sub, List.mem_singleton] at h'
    simp [Instr.ofE, h', encE]
theorem cwait (f : FE) (ls : Lits) : Statement (.cwait f ls) :=
  of_e rfl rfl rfl rfl fun h => by
    have h' := (passes h).2.1
    simp only [encE, rE, Body.sub, List.mem_singleton] at h'
    simp [Instr.ofE, h', encE]
theorem cbar (f : FE) (ls : Lits) : Statement (.cbar f ls) :=
  of_e rfl rfl rfl rfl fun h => by
    have h' := (passes h).2.1
    simp only [encE, rE, Body.sub, List.mem_singleton] at h'
    simp [Instr.ofE, h', encE]
theorem cfree (f : FE) (ls : Lits) : Statement (.cfree f ls) :=
  of_e rfl rfl rfl rfl fun h => by
    have h' := (passes h).2.1
    simp only [encE, rE, Body.sub, List.mem_singleton] at h'
    simp [Instr.ofE, h', encE]
theorem snap (f : FE) (ls : Lits) : Statement (.snap f ls) :=
  of_e rfl rfl rfl rfl fun h => by
    have h' := (passes h).2.1
    simp only [encE, rE, Body.sub, List.mem_singleton] at h'
    simp [Instr.ofE, h', encE]
theorem snapst (f : FE) (ls : Lits) : Statement (.snapst f ls) :=
  of_e rfl rfl rfl rfl fun h => by
    have h' := (passes h).2.1
    simp only [encE, rE, Body.sub, List.mem_singleton] at h'
    simp [Instr.ofE, h', encE]
theorem snapwait (f : FE) (ls : Lits) : Statement (.snapwait f ls) :=
  of_e rfl rfl rfl rfl fun h => by
    have h' := (passes h).2.1
    simp only [encE, rE, Body.sub, List.mem_singleton] at h'
    simp [Instr.ofE, h', encE]
theorem snapdrop (f : FE) (ls : Lits) : Statement (.snapdrop f ls) :=
  of_e rfl rfl rfl rfl fun h => by
    have h' := (passes h).2.1
    simp only [encE, rE, Body.sub, List.mem_singleton] at h'
    simp [Instr.ofE, h', encE]
theorem gspawn (f : FE) (ls : Lits) : Statement (.gspawn f ls) :=
  of_e rfl rfl rfl rfl fun h => by
    have h' := (passes h).2.1
    simp only [encE, rE, Body.sub, List.mem_singleton] at h'
    simp [Instr.ofE, h', encE]
theorem glaunch (f : FE) (ls : Lits) : Statement (.glaunch f ls) :=
  of_e rfl rfl rfl rfl fun h => by
    have h' := (passes h).2.1
    simp only [encE, rE, Body.sub, List.mem_singleton] at h'
    simp [Instr.ofE, h', encE]
theorem gwait (f : FE) (ls : Lits) : Statement (.gwait f ls) :=
  of_e rfl rfl rfl rfl fun h => by
    have h' := (passes h).2.1
    simp only [encE, rE, Body.sub, List.mem_singleton] at h'
    simp [Instr.ofE, h', encE]
theorem gcancel (f : FE) (ls : Lits) : Statement (.gcancel f ls) :=
  of_e rfl rfl rfl rfl fun h => by
    have h' := (passes h).2.1
    simp only [encE, rE, Body.sub, List.mem_singleton] at h'
    simp [Instr.ofE, h', encE]
theorem budget (f : FE) (ls : Lits) : Statement (.budget f ls) :=
  of_e rfl rfl rfl rfl fun h => by
    have h' := (passes h).2.1
    simp only [encE, rE, Body.sub, List.mem_singleton] at h'
    simp [Instr.ofE, h', encE]
theorem detsig (f : FE) (ls : Lits) : Statement (.detsig f ls) :=
  of_e rfl rfl rfl rfl fun h => by
    have h' := (passes h).2.1
    simp only [encE, rE, Body.sub, List.mem_singleton] at h'
    simp [Instr.ofE, h', encE]
theorem ctxsave (f : FE) (ls : Lits) : Statement (.ctxsave f ls) :=
  of_e rfl rfl rfl rfl fun h => by
    have h' := (passes h).2.1
    simp only [encE, rE, Body.sub, List.mem_singleton] at h'
    simp [Instr.ofE, h', encE]
theorem ctxload (f : FE) (ls : Lits) : Statement (.ctxload f ls) :=
  of_e rfl rfl rfl rfl fun h => by
    have h' := (passes h).2.1
    simp only [encE, rE, Body.sub, List.mem_singleton] at h'
    simp [Instr.ofE, h', encE]
theorem tlbinv (f : FE) (ls : Lits) : Statement (.tlbinv f ls) :=
  of_e rfl rfl rfl rfl fun h => by
    have h' := (passes h).2.1
    simp only [encE, rE, Body.sub, List.mem_singleton] at h'
    simp [Instr.ofE, h', encE]
theorem asidinv (f : FE) (ls : Lits) : Statement (.asidinv f ls) :=
  of_e rfl rfl rfl rfl fun h => by
    have h' := (passes h).2.1
    simp only [encE, rE, Body.sub, List.mem_singleton] at h'
    simp [Instr.ofE, h', encE]
theorem injMat (f : FE) (ls : Lits) : Statement (.injMat f ls) :=
  of_e rfl rfl rfl rfl fun h => by
    have h' := (passes h).2.1
    have h2 := (passes h).2.2 f rfl rfl
    simp only [encE, rE, Body.sub, List.mem_singleton] at h' h2
    simp [Instr.ofE, h', h2, encE]
theorem injFrag (f : FE) (ls : Lits) : Statement (.injFrag f ls) :=
  of_e rfl rfl rfl rfl fun h => by
    have h' := (passes h).2.1
    have h2 := (passes h).2.2 f rfl rfl
    simp only [encE, rE, Body.sub, List.mem_singleton] at h' h2
    simp [Instr.ofE, h', h2, encE]
theorem injPoison (f : FE) (ls : Lits) : Statement (.injPoison f ls) :=
  of_e rfl rfl rfl rfl fun h => by
    have h' := (passes h).2.1
    have h2 := (passes h).2.2 f rfl rfl
    simp only [encE, rE, Body.sub, List.mem_singleton] at h' h2
    simp [Instr.ofE, h', h2, encE]
theorem preempt (f : FE) (ls : Lits) : Statement (.preempt f ls) :=
  of_e rfl rfl rfl rfl fun h => by
    have h' := (passes h).2.1
    simp only [encE, rE, Body.sub, List.mem_singleton] at h'
    simp [Instr.ofE, h', encE]
theorem bra (f : FB) : Statement (.bra f) := of_b rfl rfl rfl rfl fun _ => rfl
theorem call (f : FB) : Statement (.call f) := of_b rfl rfl rfl rfl fun _ => rfl
theorem brx (f : FC) (ls : Lits) : Statement (.brx f ls) :=
  of_c rfl rfl rfl rfl fun h => by
    have h' := (passes h).2.1
    simp only [encC, rC, Body.sub, List.mem_singleton] at h'
    simp [Instr.ofC, h', encC]
theorem callx (f : FC) (ls : Lits) : Statement (.callx f ls) :=
  of_c rfl rfl rfl rfl fun h => by
    have h' := (passes h).2.1
    simp only [encC, rC, Body.sub, List.mem_singleton] at h'
    simp [Instr.ofC, h', encC]
theorem ret (f : FC) (ls : Lits) : Statement (.ret f ls) :=
  of_c rfl rfl rfl rfl fun h => by
    have h' := (passes h).2.1
    simp only [encC, rC, Body.sub, List.mem_singleton] at h'
    simp [Instr.ofC, h', encC]
theorem exit (f : FC) (ls : Lits) : Statement (.exit f ls) :=
  of_c rfl rfl rfl rfl fun h => by
    have h' := (passes h).2.1
    simp only [encC, rC, Body.sub, List.mem_singleton] at h'
    simp [Instr.ofC, h', encC]
theorem yield (f : FC) (ls : Lits) : Statement (.yield f ls) :=
  of_c rfl rfl rfl rfl fun h => by
    have h' := (passes h).2.1
    simp only [encC, rC, Body.sub, List.mem_singleton] at h'
    simp [Instr.ofC, h', encC]
theorem nop (f : FC) (ls : Lits) : Statement (.nop f ls) :=
  of_c rfl rfl rfl rfl fun h => by
    have h' := (passes h).2.1
    simp only [encC, rC, Body.sub, List.mem_singleton] at h'
    simp [Instr.ofC, h', encC]
theorem srd (f : FC) (ls : Lits) : Statement (.srd f ls) :=
  of_c rfl rfl rfl rfl fun h => by
    have h' := (passes h).2.1
    simp only [encC, rC, Body.sub, List.mem_singleton] at h'
    simp [Instr.ofC, h', encC]
theorem swr (f : FC) (ls : Lits) : Statement (.swr f ls) :=
  of_c rfl rfl rfl rfl fun h => by
    have h' := (passes h).2.1
    simp only [encC, rC, Body.sub, List.mem_singleton] at h'
    simp [Instr.ofC, h', encC]
theorem trap (f : FC) (ls : Lits) : Statement (.trap f ls) :=
  of_c rfl rfl rfl rfl fun h => by
    have h' := (passes h).2.1
    simp only [encC, rC, Body.sub, List.mem_singleton] at h'
    simp [Instr.ofC, h', encC]
theorem brk (f : FC) (ls : Lits) : Statement (.brk f ls) :=
  of_c rfl rfl rfl rfl fun h => by
    have h' := (passes h).2.1
    simp only [encC, rC, Body.sub, List.mem_singleton] at h'
    simp [Instr.ofC, h', encC]
theorem barSync (f : FC) (ls : Lits) : Statement (.barSync f ls) :=
  of_c rfl rfl rfl rfl fun h => by
    have h' := (passes h).2.1
    simp only [encC, rC, Body.sub, List.mem_singleton] at h'
    simp [Instr.ofC, h', encC]
theorem barArrive (f : FC) (ls : Lits) : Statement (.barArrive f ls) :=
  of_c rfl rfl rfl rfl fun h => by
    have h' := (passes h).2.1
    simp only [encC, rC, Body.sub, List.mem_singleton] at h'
    simp [Instr.ofC, h', encC]
theorem barWait (f : FC) (ls : Lits) : Statement (.barWait f ls) :=
  of_c rfl rfl rfl rfl fun h => by
    have h' := (passes h).2.1
    simp only [encC, rC, Body.sub, List.mem_singleton] at h'
    simp [Instr.ofC, h', encC]
theorem step (f : FC) (ls : Lits) : Statement (.step f ls) :=
  of_c rfl rfl rfl rfl fun h => by
    have h' := (passes h).2.1
    simp only [encC, rC, Body.sub, List.mem_singleton] at h'
    simp [Instr.ofC, h', encC]
theorem stepPod (f : FC) (ls : Lits) : Statement (.stepPod f ls) :=
  of_c rfl rfl rfl rfl fun h => by
    have h' := (passes h).2.1
    simp only [encC, rC, Body.sub, List.mem_singleton] at h'
    simp [Instr.ofC, h', encC]
theorem tret (f : FC) (ls : Lits) : Statement (.tret f ls) :=
  of_c rfl rfl rfl rfl fun h => by
    have h' := (passes h).2.1
    simp only [encC, rC, Body.sub, List.mem_singleton] at h'
    simp [Instr.ofC, h', encC]
theorem cfgrd (f : FC) (ls : Lits) : Statement (.cfgrd f ls) :=
  of_c rfl rfl rfl rfl fun h => by
    have h' := (passes h).2.1
    simp only [encC, rC, Body.sub, List.mem_singleton] at h'
    simp [Instr.ofC, h', encC]
theorem cfgwr (f : FC) (ls : Lits) : Statement (.cfgwr f ls) :=
  of_c rfl rfl rfl rfl fun h => by
    have h' := (passes h).2.1
    simp only [encC, rC, Body.sub, List.mem_singleton] at h'
    simp [Instr.ofC, h', encC]
theorem clauseIssue (gid pc : Nat) : Statement (.clauseIssue gid pc) := of_none rfl
theorem bundlePriorityAging (gid pc : Nat) : Statement (.bundlePriorityAging gid pc) := of_none rfl
theorem yieldDelayExpiry (gid : Nat) (lanes : BitVec 32) : Statement (.yieldDelayExpiry gid lanes) := of_none rfl
theorem deferredEventLanding (id : Nat) : Statement (.deferredEventLanding id) := of_none rfl
theorem sfuEntryStart (core : Nat) : Statement (.sfuEntryStart core) := of_none rfl
theorem sfuResultLanding (core : Nat) : Statement (.sfuResultLanding core) := of_none rfl
theorem groupRetire (gid : Nat) : Statement (.groupRetire gid) := of_none rfl
theorem stepComplete (grid : Nat) : Statement (.stepComplete grid) := of_none rfl
theorem gets (chip epoch pa : Nat) : Statement (.gets chip epoch pa) := of_none rfl
theorem getm (chip epoch pa : Nat) : Statement (.getm chip epoch pa) := of_none rfl
theorem forward (chip epoch pa : Nat) (excl : Bool) : Statement (.forward chip epoch pa excl) := of_none rfl
theorem grainData (chip epoch pa : Nat) (tag : BitVec 64) (data : List (BitVec 8)) : Statement (.grainData chip epoch pa tag data) := of_none rfl
theorem wsWaitExpiry (id : Nat) : Statement (.wsWaitExpiry id) := of_none rfl
theorem moveTimeoutExpiry (id : Nat) : Statement (.moveTimeoutExpiry id) := of_none rfl
theorem atomicEngineOperation (cluster grain : Nat) : Statement (.atomicEngineOperation cluster grain) := of_none rfl
theorem atomicGrainRecall (cluster grain : Nat) : Statement (.atomicGrainRecall cluster grain) := of_none rfl
theorem homeSliceAtomic (grain : Nat) : Statement (.homeSliceAtomic grain) := of_none rfl
theorem awaitTest (id : Nat) : Statement (.awaitTest id) := of_none rfl
theorem awaitRetestTimer (id : Nat) : Statement (.awaitRetestTimer id) := of_none rfl
theorem rendezvousLatchGrant (cluster : Nat) : Statement (.rendezvousLatchGrant cluster) := of_none rfl
theorem matrixEntryPlacement (cluster team tag : Nat) : Statement (.matrixEntryPlacement cluster team tag) := of_none rfl
theorem matrixPass (cluster : Nat) : Statement (.matrixPass cluster) := of_none rfl
theorem matrixStarvationPriority (cluster id : Nat) : Statement (.matrixStarvationPriority cluster id) := of_none rfl
theorem matrixCompletion (cluster id : Nat) : Statement (.matrixCompletion cluster id) := of_none rfl
theorem matrixDrainRun (cluster : Nat) : Statement (.matrixDrainRun cluster) := of_none rfl
theorem matrixZeroRun (cluster : Nat) : Statement (.matrixZeroRun cluster) := of_none rfl
theorem copyCommandStart (cluster id : Nat) : Statement (.copyCommandStart cluster id) := of_none rfl
theorem copyCommandCompletion (cluster id : Nat) : Statement (.copyCommandCompletion cluster id) := of_none rfl
theorem engineStatusUpdate (id : Nat) : Statement (.engineStatusUpdate id) := of_none rfl
theorem publishExecution (id : Nat) : Statement (.publishExecution id) := of_none rfl
theorem messageInjection (dst cls : Nat) : Statement (.messageInjection dst cls) := of_none rfl
theorem dataFragmentReceive (hdr : BitVec 256) (payload : List (BitVec 8)) : Statement (.dataFragmentReceive hdr payload) := of_none rfl
theorem decodeDeadlineExpiry (src cls seq stripe : Nat) : Statement (.decodeDeadlineExpiry src cls seq stripe) := of_none rfl
theorem messageDelivery (src cls : Nat) : Statement (.messageDelivery src cls) := of_none rfl
theorem ackCoalesceExpiry (src cls : Nat) : Statement (.ackCoalesceExpiry src cls) := of_none rfl
theorem filterEntryExpiry (src cls seq : Nat) : Statement (.filterEntryExpiry src cls seq) := of_none rfl
theorem ackReceive (dst cls seq : Nat) : Statement (.ackReceive dst cls seq) := of_none rfl
theorem nackReceive (dst cls seq stripe : Nat) : Statement (.nackReceive dst cls seq stripe) := of_none rfl
theorem busyReplyReceive (dst cls seq : Nat) : Statement (.busyReplyReceive dst cls seq) := of_none rfl
theorem busyWaitExpiry (dst cls seq : Nat) : Statement (.busyWaitExpiry dst cls seq) := of_none rfl
theorem ackWaitExpiry (dst cls seq stripe : Nat) : Statement (.ackWaitExpiry dst cls seq stripe) := of_none rfl
theorem lossNoticeReceive (src cls seq kind info : Nat) : Statement (.lossNoticeReceive src cls seq kind info) := of_none rfl
theorem lossNoticeRepeat (dst cls seq : Nat) : Statement (.lossNoticeRepeat dst cls seq) := of_none rfl
theorem combineResultReceive (ctx round : Nat) (fail : Option FaultCode) (data : List (BitVec 8)) : Statement (.combineResultReceive ctx round fail data) := of_none rfl
theorem markerReceive (src cls epoch initiator dtag : Nat) : Statement (.markerReceive src cls epoch initiator dtag) := of_none rfl
theorem snapshotSweep (colour : BitVec 1) : Statement (.snapshotSweep colour) := of_none rfl
theorem snapshotChipComplete (colour : BitVec 1) : Statement (.snapshotChipComplete colour) := of_none rfl
theorem snapshotReportReceive (chip : Nat) (colour : BitVec 1) : Statement (.snapshotReportReceive chip colour) := of_none rfl
theorem snapshotDropFinish (colour : BitVec 1) : Statement (.snapshotDropFinish colour) := of_none rfl
theorem trapEntry (gid : Nat) : Statement (.trapEntry gid) := of_none rfl
theorem contextKill (ctx : Nat) : Statement (.contextKill ctx) := of_none rfl
theorem drainLimitExpiry (ctx : Nat) : Statement (.drainLimitExpiry ctx) := of_none rfl
theorem forcedSave (team : Nat) : Statement (.forcedSave team) := of_none rfl
theorem teamDispatch (grid team cluster : Nat) (cores : List Nat) : Statement (.teamDispatch grid team cluster cores) := of_none rfl
theorem starvationSwap (grid : Nat) : Statement (.starvationSwap grid) := of_none rfl
theorem nodeVisitGrid (ctx slot : Nat) : Statement (.nodeVisitGrid ctx slot) := of_none rfl
theorem nodeVisitCopy (ctx slot : Nat) : Statement (.nodeVisitCopy ctx slot) := of_none rfl
theorem nodeVisitColl (ctx slot : Nat) : Statement (.nodeVisitColl ctx slot) := of_none rfl
theorem nodeVisitCond (ctx slot : Nat) : Statement (.nodeVisitCond ctx slot) := of_none rfl
theorem nodeVisitWhile (ctx slot : Nat) : Statement (.nodeVisitWhile ctx slot) := of_none rfl
theorem nodeVisitSnap (ctx slot : Nat) : Statement (.nodeVisitSnap ctx slot) := of_none rfl
theorem nodeVisitHostsig (ctx slot : Nat) : Statement (.nodeVisitHostsig ctx slot) := of_none rfl
theorem nodeVisitEnd (ctx slot : Nat) : Statement (.nodeVisitEnd ctx slot) := of_none rfl
theorem gridComplete (grid : Nat) : Statement (.gridComplete grid) := of_none rfl
theorem gridEndDigest (grid : Nat) : Statement (.gridEndDigest grid) := of_none rfl
theorem eventAreaWrite (ctx : Nat) : Statement (.eventAreaWrite ctx) := of_none rfl
theorem dropReportReceive (chip : Nat) (colour : BitVec 1) : Statement (.dropReportReceive chip colour) := of_none rfl
theorem contextBecomesLive (ctx q : Nat) : Statement (.contextBecomesLive ctx q) := of_none rfl
theorem clauseCommit : Statement (.clauseCommit) := of_none rfl
theorem stepNoticeReceive (chip stag n : Nat) (seqs : List Nat) : Statement (.stepNoticeReceive chip stag n seqs) := of_none rfl
theorem ltsSelfAdvance : Statement (.ltsSelfAdvance) := of_none rfl
theorem moduleRebase : Statement (.moduleRebase) := of_none rfl
theorem upgrade (chip pa : Nat) : Statement (.upgrade chip pa) := of_none rfl
theorem putm (chip pa : Nat) (data : List (BitVec 8)) : Statement (.putm chip pa data) := of_none rfl
theorem puto (chip pa : Nat) (data : List (BitVec 8)) : Statement (.puto chip pa data) := of_none rfl
theorem invalidate (pa : Nat) : Statement (.invalidate pa) := of_none rfl
theorem coherenceAck (chip pa : Nat) (dirty : Bool) : Statement (.coherenceAck chip pa dirty) := of_none rfl
theorem hostAtomicCompletion (id : Nat) (st : HostStatus) (old : Nat) : Statement (.hostAtomicCompletion id st old) := of_none rfl
theorem hostAccessCompletion (id : Nat) (st : HostStatus) (data : List (BitVec 8)) : Statement (.hostAccessCompletion id st data) := of_none rfl
theorem hostSnoop (hpa : Nat) : Statement (.hostSnoop hpa) := of_none rfl
theorem migrationPageMove : Statement (.migrationPageMove) := of_none rfl
theorem digestCompletion : Statement (.digestCompletion) := of_none rfl
theorem mordantLakeWrite : Statement (.mordantLakeWrite) := of_none rfl
theorem fragmentForward (hdr : BitVec 256) (payload : List (BitVec 8)) : Statement (.fragmentForward hdr payload) := of_none rfl
theorem combineContributionReceive (ctx chip round : Nat) (agreed : CombineAgreed) (fail : Option FaultCode) (data : List (BitVec 8)) : Statement (.combineContributionReceive ctx chip round agreed fail data) := of_none rfl
theorem snapshotRecordInstant : Statement (.snapshotRecordInstant) := of_none rfl
theorem sealNoticeReceive (colour : BitVec 1) : Statement (.sealNoticeReceive colour) := of_none rfl
theorem failureNoticeReceive (colour : BitVec 1) : Statement (.failureNoticeReceive colour) := of_none rfl
theorem dropNoticeReceive (colour : BitVec 1) : Statement (.dropNoticeReceive colour) := of_none rfl
theorem patrolScrub (grain : Nat) (bad : Bool) : Statement (.patrolScrub grain bad) := of_none rfl
theorem walkStartWrite (ctx slot : Nat) (value : BitVec 64) : Statement (.walkStartWrite ctx slot value) := of_none rfl
theorem eventAreaRetry (ctx : Nat) (consumer : BitVec 32) : Statement (.eventAreaRetry ctx consumer) := of_none rfl
theorem hostConfigWrite (reg : Nat) (value : BitVec 64) : Statement (.hostConfigWrite reg value) := of_none rfl
theorem pathTableWrite (chip word : Nat) (value : BitVec 64) : Statement (.pathTableWrite chip word value) := of_none rfl
theorem placementTableWrite (entry : Nat) (value : BitVec 32) : Statement (.placementTableWrite entry value) := of_none rfl
theorem vfGrantWrite (vf : Nat) (value : BitVec 64) : Statement (.vfGrantWrite vf value) := of_none rfl
theorem ctxCmdDrain (ctx : Nat) : Statement (.ctxCmdDrain ctx) := of_none rfl
theorem ctxCmdDrainNow (ctx : Nat) : Statement (.ctxCmdDrainNow ctx) := of_none rfl
theorem ctxCmdKill (ctx : Nat) : Statement (.ctxCmdKill ctx) := of_none rfl
theorem ctxCmdResume (ctx : Nat) : Statement (.ctxCmdResume ctx) := of_none rfl
theorem ctxCmdEnd (ctx : Nat) : Statement (.ctxCmdEnd ctx) := of_none rfl
theorem hostW2Read (addr len : Nat) : Statement (.hostW2Read addr len) := of_none rfl
theorem hostW2Write (addr : Nat) (data : List (BitVec 8)) : Statement (.hostW2Write addr data) := of_none rfl
theorem poisonClear (pa : BitVec 64) : Statement (.poisonClear pa) := of_none rfl
theorem linkTraining (tier : Bool) (link : BitVec 13) (gib : Nat) : Statement (.linkTraining tier link gib) := of_none rfl
theorem boot (image : List (BitVec 8)) (version : BitVec 16) (ed mldsa : Bool) : Statement (.boot image version ed mldsa) := of_none rfl
theorem recoveryDoorbell (image : List (BitVec 8)) (version : BitVec 16) (ed mldsa : Bool) : Statement (.recoveryDoorbell image version ed mldsa) := of_none rfl
theorem spdmRequest (request : List (BitVec 8)) : Statement (.spdmRequest request) := of_none rfl
theorem powerGating (level : Nat) : Statement (.powerGating level) := of_none rfl
theorem thermalThrottle (celsius : Nat) : Statement (.thermalThrottle celsius) := of_none rfl
theorem thermalThrottleEnd (celsius : Nat) : Statement (.thermalThrottleEnd celsius) := of_none rfl
theorem thermalTrip (celsius : Nat) : Statement (.thermalTrip celsius) := of_none rfl
theorem correctedError (err : StorageError) : Statement (.correctedError err) := of_none rfl
theorem uncorrectableError (err : StorageError) : Statement (.uncorrectableError err) := of_none rfl
theorem sliceRetire (slice : Nat) : Statement (.sliceRetire slice) := of_none rfl
theorem framePoolWaitExpiry : Statement (.framePoolWaitExpiry) := of_none rfl
theorem snapshotRestoration (colour : BitVec 1) : Statement (.snapshotRestoration colour) := of_none rfl

end Sys2Proof.Laws.Fields
end

