-- ==== Sys2Proof/Tests/Slice0.lean ====
section
/-!
SUPPORT. Tests: words that the spec writes out decode to their instructions; an ill-formed term for each check of well-formedness; worked
values of the spec; and, for every statement with hypotheses, a concrete state and operands that meet them (test_meets_…).
-/

namespace Sys2Proof.Tests
open Sys2Proof Sys2Proof.Machine

set_option maxRecDepth 100000
set_option Elab.async false

/-! ### Decoding: words of the spec's worked clauses -/

/-- Table 2·12. -/
theorem test_decode_add : decodeWords [0x00C28205] = .ok (.add { t := 3, nw := 0, d := 10, a := 4, b := 5 } []) [] := by decide +kernel

/-- Table 2·12. -/
theorem test_decode_mul_literal : decodeWords [0x0CC2F07F, 0x00000003] = .ok (.mul { t := 3, nw := 0, d := 11, a := 96, b := 127 } [3]) [] := by decide +kernel

/-- 04_control.md. -/
theorem test_decode_cmp : decodeWords [0x430841F9] = .ok (.cmpUnsigned { t := 4, nw := 0, d := 33, a := 3, b := 121 } []) [] := by decide +kernel

/-- Table 5·9. -/
theorem test_decode_xlRed : decodeWords [0x54018280, 0xFA000008] = .ok (.xlRed { t := 0, nw := 0, d := 6, a := 5, b := 0, m := 125, rz := 0, sub := 8 } []) [] := by decide +kernel

/-- Table 5·9. -/
theorem test_decode_xlScan : decodeWords [0x5601C280, 0xFA000008] = .ok (.xlScan { t := 0, nw := 0, d := 7, a := 5, b := 0, m := 125, rz := 0, sub := 8 } []) [] := by decide +kernel

/-- Table 3·4. -/
theorem test_decode_ld : decodeWords [0x90808300, 0x00000000] = .ok (.ld { t := 2, nw := 0, d := 2, h := 0, off := 96, scope := 0, imm := 0, ge := 0, gn := 0, gk := 0, re := 0, rk := 0, hint := 0, ord := 0, sub := 0 } []) [] := by decide +kernel

/-- Table 3·4. -/
theorem test_decode_st : decodeWords [0x9280C408, 0x00000000] = .ok (.st { t := 2, nw := 0, d := 3, h := 1, off := 1, scope := 0, imm := 0, ge := 0, gn := 0, gk := 0, re := 0, rk := 0, hint := 0, ord := 0, sub := 0 } []) [] := by decide +kernel

/-- Table 11·4. -/
theorem test_decode_atom : decodeWords [0xC001880A, 0x00000000] = .ok (.atom { t := 0, nw := 0, d := 6, h := 2, off := 1, scope := 2, imm := 0, ge := 0, gn := 0, gk := 0, re := 0, rk := 0, hint := 0, ord := 0, sub := 0 } []) [] := by decide +kernel

/-- Table 11·4. -/
theorem test_decode_atom_guarded : decodeWords [0xC1018809, 0x0008800B] = .ok (.atom { t := 4, nw := 0, d := 6, h := 2, off := 1, scope := 1, imm := 0, ge := 1, gn := 0, gk := 1, re := 0, rk := 0, hint := 0, ord := 0, sub := 11 } []) [] := by decide +kernel

/-- Table 11·4. -/
theorem test_decode_red : decodeWords [0xC29A4C13, 0x00000080] = .ok (.red { t := 2, nw := 0, d := 105, h := 3, off := 2, scope := 3, imm := 0, ge := 0, gn := 0, gk := 0, re := 0, rk := 0, hint := 0, ord := 2, sub := 0 } []) [] := by decide +kernel

/-- Table 11·4. -/
theorem test_decode_await : decodeWords [0xC4410742, 0x00000042] = .ok (.await { t := 1, nw := 0, d := 4, h := 1, off := 104, scope := 2, imm := 0, ge := 0, gn := 0, gk := 0, re := 0, rk := 0, hint := 0, ord := 1, sub := 2 } []) [] := by decide +kernel

/-- Table 10·8. -/
theorem test_decode_mvrange : decodeWords [0xB21A8F48, 0x00000000] = .ok (.mvrange { t := 0, nw := 0, d := 106, h := 3, off := 105, scope := 0, imm := 0, ge := 0, gn := 0, gk := 0, re := 0, rk := 0, hint := 0, ord := 0, sub := 0 } []) [] := by decide +kernel

/-- Table 10·8. -/
theorem test_decode_pgclass : decodeWords [0xBC1A87C0, 0x00000002] = .ok (.pgclass { t := 0, nw := 0, d := 106, h := 1, off := 120, scope := 0, imm := 0, ge := 0, gn := 0, gk := 0, re := 0, rk := 0, hint := 0, ord := 0, sub := 2 } []) [] := by decide +kernel

/-- Table 12·9. -/
theorem test_decode_mmx : decodeWords [0xD4050350, 0x0002A000] = .ok (.mmx { t := 0, nw := 0, d := 20, h := 0, a := 106, scope := 0, imm := 0, b := 21, aux := 0, sub := 0 } []) [] := by decide +kernel

/-- Table 13·5. -/
theorem test_decode_cpy : decodeWords [0xE0078368, 0x00000000] = .ok (.cpy { t := 0, nw := 0, d := 30, h := 0, a := 109, scope := 0, imm := 0, b := 0, aux := 0, sub := 0 } []) [] := by decide +kernel

/-- Table 14·9. -/
theorem test_decode_fsend : decodeWords [0xE60A0380, 0x00000002] = .ok (.fsend { t := 0, nw := 0, d := 40, h := 0, a := 112, scope := 0, imm := 0, b := 0, aux := 0, sub := 2 } []) [] := by decide +kernel

/-- Table 14·9. -/
theorem test_decode_cwait : decodeWords [0xE8000390, 0x000F0002] = .ok (.cwait { t := 0, nw := 0, d := 0, h := 0, a := 114, scope := 0, imm := 0, b := 120, aux := 0, sub := 2 } []) [] := by decide +kernel

/-- Table 15·5. -/
theorem test_decode_snapdrop : decodeWords [0xEA014000, 0x00000043] = .ok (.snapdrop { t := 0, nw := 0, d := 5, h := 0, a := 0, scope := 0, imm := 0, b := 0, aux := 1, sub := 3 } []) [] := by decide +kernel

/-- 16_system.md. -/
theorem test_decode_tlbinv : decodeWords [0xFA000753, 0x000D6002] = .ok (.tlbinv { t := 0, nw := 0, d := 0, h := 1, a := 106, scope := 3, imm := 0, b := 107, aux := 0, sub := 2 } []) [] := by decide +kernel

/-- 16_system.md. -/
theorem test_decode_preempt : decodeWords [0xFA008358, 0x00000045] = .ok (.preempt { t := 0, nw := 0, d := 2, h := 0, a := 107, scope := 0, imm := 0, b := 0, aux := 1, sub := 5 } []) [] := by decide +kernel

/-- 04_control.md. -/
theorem test_decode_bra : decodeWords [0xF11FFFFC] = .ok (.bra { ge := 1, gn := 0, gk := 1, off := 0xFFFFC }) [] := by decide +kernel

/-- 04_control.md. -/
theorem test_decode_exit : decodeWords [0xF400C000] = .ok (.exit { ge := 0, gn := 0, gk := 0, sub := 3, a := 0, b := 0 } []) [] := by decide +kernel

/-- 04_control.md. -/
theorem test_decode_barSync : decodeWords [0xF8003DF8] = .ok (.barSync { ge := 0, gn := 0, gk := 0, sub := 0, a := 123, b := 120 } []) [] := by decide +kernel

/-- 04_control.md. -/
theorem test_decode_srd : decodeWords [0xF6008079] = .ok (.srd { ge := 0, gn := 0, gk := 0, sub := 2, a := 0, b := 121 } []) [] := by decide +kernel

/-- 16_system.md. -/
theorem test_decode_cfgrd_literal : decodeWords [0xFC00757F, 0x00000010] = .ok (.cfgrd { ge := 0, gn := 0, gk := 0, sub := 1, a := 106, b := 127 } [0x10]) [] := by decide +kernel

/-- 16_system.md. -/
theorem test_decode_tret : decodeWords [0xFC003C00] = .ok (.tret { ge := 0, gn := 0, gk := 0, sub := 0, a := 120, b := 0 } []) [] := by decide +kernel

/-! ### Well-formedness: a term that each check refuses -/

/-- Table 2·9 assigns no integer type 7. -/
theorem test_illFormed_type : (Instr.add { t := 7, nw := 0, d := 0, a := 0, b := 0 } []).wellFormed = false := by decide +kernel
/-- R42: code 124 is reserved in an integer operand. -/
theorem test_illFormed_operand : (Instr.add { t := 3, nw := 0, d := 0, a := 124, b := 0 } []).wellFormed = false := by decide +kernel
/-- R44: a destination field names a v register. -/
theorem test_illFormed_destination : (Instr.add { t := 3, nw := 0, d := 96, a := 0, b := 0 } []).wellFormed = false := by decide +kernel
/-- R40: nw is reserved in a form that always writes. -/
theorem test_illFormed_noWrite : (Instr.cmpSigned { t := 3, nw := 1, d := 0, a := 0, b := 0 } []).wellFormed = false := by decide +kernel
/-- R44: an unused field must be zero. -/
theorem test_illFormed_unused : (Instr.abs { t := 3, nw := 0, d := 0, a := 0, b := 1 } []).wellFormed = false := by decide +kernel
/-- R112: bits [24:6] of word 1 must be zero, and the mask a mask operand. -/
theorem test_illFormed_crossLane :
    (Instr.xlSh { t := 0, nw := 0, d := 0, a := 0, b := 0, m := 125, rz := 1, sub := 0 } []).wellFormed = false ∧
    (Instr.xlSh { t := 0, nw := 0, d := 0, a := 0, b := 0, m := 120, rz := 0, sub := 0 } []).wellFormed = false := by decide +kernel
/-- R182: a literal operand needs its literal word, and only that operand. -/
theorem test_illFormed_literals :
    (Instr.add { t := 3, nw := 0, d := 0, a := 127, b := 0 } []).wellFormed = false ∧
    (Instr.add { t := 3, nw := 0, d := 0, a := 0, b := 0 } [1]).wellFormed = false ∧
    (Instr.add { t := 3, nw := 0, d := 0, a := 127, b := 0 } [1]).wellFormed = true := by decide +kernel
/-- R40, R41: a form without a guard, a residency destination, a hint, an ordering, an immediate or a handle has those fields zero. -/
theorem test_illFormed_memoryFields :
    let ld : FM := { t := 2, nw := 0, d := 2, h := 0, off := 96, scope := 0, imm := 0, ge := 0, gn := 0, gk := 0, re := 0, rk := 0,
                     hint := 0, ord := 0, sub := 0 }
    (Instr.ld ld []).wellFormed = true ∧ (Instr.ld { ld with ge := 1 } []).wellFormed = false ∧
    (Instr.st { ld with re := 1 } []).wellFormed = false ∧ (Instr.st { ld with gk := 1 } []).wellFormed = false ∧
    (Instr.ld { ld with ord := 7 } []).wellFormed = false ∧ (Instr.ld { ld with scope := 7 } []).wellFormed = false ∧
    (Instr.ld { ld with sub := 63 } []).wellFormed = false ∧ (Instr.st { ld with t := 4, d := 3 } []).wellFormed = false ∧
    (Instr.hmov { ld with t := 0, d := 1, off := 0, imm := 1 } []).wellFormed = false := by decide +kernel
/-- R44, R312: aux and the fields of format E. -/
theorem test_illFormed_engineFields :
    let f : FE := { t := 0, nw := 0, d := 0, h := 0, a := 0, scope := 0, imm := 0, b := 0, aux := 127, sub := 0 }
    (Instr.cpy f []).wellFormed = false ∧ (Instr.gang { f with aux := 0, h := 1, a := 120 } []).wellFormed = false := by decide +kernel
/-- R39, R40: the guard bits of a branch are zero unless its guard is enabled; exit takes no operands. -/
theorem test_illFormed_control :
    (Instr.bra { ge := 0, gn := 0, gk := 1, off := 0 }).wellFormed = false ∧
    (Instr.exit { ge := 0, gn := 0, gk := 0, sub := 3, a := 1, b := 0 } []).wellFormed = false := by decide +kernel
/-- R48: an unassigned opcode, and a first word without its second. -/
theorem test_refused_words : decodeWords [0x88000000] = .bad .illegalOpcode ∧ decodeWords [0x54018280] = .bad .clauseFraming := by
  decide +kernel

/-! ### A small state: one clause of one group in a slot -/

/-- A group of 32 threads. -/
def grp : Group := { team := 0, threads := List.replicate 32 {} }

/-- Context 0 live with system privilege, its grid, team and group 0, and a clause of all 32 lanes of group 0 in a slot. -/
def base : State := State.reset.withClause 0 []

/-- The clause in the slot of `base`. -/
def clause : Issue :=
  { gid := 0, pc := 0, lanes := 0xFFFFFFFF, header := 0x0F000000, words := [], before := grp, draws := LaneVals.of fun _ => 0 }

/-- `base` with another group 0, as it stands before the clause, and other fields of the clause. -/
def with' (g : Group) (f : Issue → Issue := id) : State :=
  { base with groups := [(0, { g with bundles := [{ pc := 0, lanes := 0xFFFFFFFF, inSlot := true }] })],
              issuing := [f { clause with before := g }] }

/-- The clause in the slot of a state. -/
def front (s : State) : Issue := s.issuing.headD clause

/-- `base` with each lane's v registers. -/
def withV (v : SMap Word) : State := with' { grp with threads := List.replicate 32 { v := v } }

/-- The value of lane 0 that the first register effect of the clause in the slot holds back. -/
def held0 (r : Result) : Option Word :=
  match r with
  | .next s => (front s).effects.findSome? fun
    | .v _ _ x => some (x.at 0)
    | _ => none
  | _ => none

/-- The code of the first fault that waits at group 0's boundary. -/
def faultCode (r : Result) : Option FaultCode :=
  match r with
  | .next s => ((s.group 0).precise.map (·.code)).head?
  | _ => none

theorem runs_front {s : State} {i : Issue} (h : s.issuing = [i]) : s.Runs (front s) := ⟨[], by simp [front, h]⟩

theorem test_base_runs : base.Runs clause := ⟨[], by decide +kernel⟩

theorem forall_lane {p : Nat → Prop} {m : Lanes} (h : ∀ l, l < 32 → m.has l = true → p l) : ∀ l, m.has l = true → p l :=
  fun l hl => h l (Lanes.has_lt hl) hl

/-! ### Worked values of the spec -/

/-- Table 2·12: add.n32x2 of v4 and v5. -/
theorem test_add_worked : held0 (exec (.add { t := 3, nw := 0, d := 10, a := 4, b := 5 } []) (withV [(4, 0x0000000700000002), (5, 0x00000005FFFFFFFF)]))
    = some 0x0000000C00000001 := by decide +kernel
/-- Table 2·12: sub of the latch b1 and v4. -/
theorem test_sub_reads_latch : held0 (exec (.sub { t := 3, nw := 0, d := 12, a := 97, b := 4 } [])
    (with' { grp with threads := List.replicate 32 { v := [(4, 0x0000000700000002)] } }
      fun i => { i with latches := [(1, LaneVals.of fun _ => 0x0000002400000003)] })) = some 0x0000001D00000001 := by decide +kernel
/-- R96: a saturating signed add stays at the largest value of its sub-element. -/
theorem test_addSat_limits : held0 (exec (.addSatSigned { t := 1, nw := 0, d := 10, a := 4, b := 5 } []) (withV [(4, 0x7F), (5, 1)])) = some 0x7F := by
  decide +kernel
/-- R98: bfx.n32 v2, v1, 0x2104. -/
theorem test_bfx_worked : held0 (exec (.bfx { t := 4, nw := 0, d := 2, a := 1, b := 127 } [0x2104]) (withV [(1, 0xABCD)]))
    = some 0xFFFFFFFC := by decide +kernel
/-- R99: swz.i16x4 d, a, 0x0123 reverses the halves. -/
theorem test_swz_worked : held0 (exec (.swz { t := 2, nw := 0, d := 2, a := 1, b := 127 } [0x0123]) (withV [(1, 0x1111222233334444)]))
    = some 0x4444333322221111 := by decide +kernel
/-- R105: cvti.i8x8.i32x2.sat of (300, −5). -/
theorem test_cvti_worked : held0 (exec (.cvti { t := 1, nw := 0, d := 2, a := 1, b := 0b11011 } []) (withV [(1, 0xFFFFFFFB0000012C)]))
    = some 0xFB7F := by decide +kernel
/-- R68: the tie-break register's worked step. -/
theorem test_lfsr_worked : lfsrStep 0xACE2 = 0x59C5 := by decide +kernel
/-- R23: the header of Table 2·12 passes its checks, and a header of another tag does not. -/
theorem test_header_worked : headerFault 0xC4007000 = none ∧ headerFault 0xA4007000 = some .clauseFraming := by decide +kernel

/-! ### States that meet the hypotheses of the statements about a program's instructions -/

/-- A page of 4 KiB at virtual address 0x10000 and physical address 0x20000, readable, writable, executable, accessed and dirty, of a
class and a reach. -/
def leafOf (cls reach : Nat) (more : Nat := 0) : Leaf :=
  { pte := BitVec.ofNat 64 (0x201C1F + cls * 32 + reach * 128 + more), size := 4096, vbase := 0x10000, pteAddr := 0x8080 }

/-- A handle of that page with every right. -/
def pageH : HandleBits := mkHandle 0x1000 0x1000 0xFF 0

/-- The tag of a grain: its state, class and reach in epoch 1, its pointers the number given. -/
def tagOf (st cls reach ptrs : Nat) : BitVec 64 := BitVec.ofNat 64 (st + cls * 8 + reach * 32 + 256 + ptrs * 4096)

/-- A group whose handles h0 and h1 name the page. -/
def hgrp : Group := { grp with h := [(0, pageH), (1, pageH)] }

/-- A state whose core 0 has a leaf in its TLB, with the tag of the page's first grain. -/
def paged (l : Leaf) (t : BitVec 64) (g : Group := hgrp) (f : Issue → Issue := id) : State :=
  { with' g f with coreTlb := [(0, [{ asid := 0, leaf := l }])], tags := [(256, t)] }

/-- A format M instruction that addresses offset 0 of h1. -/
def fm : FM :=
  { t := 2, nw := 0, d := 2, h := 1, off := 120, scope := 0, imm := 0, ge := 0, gn := 0, gk := 0, re := 0, rk := 0, hint := 0, ord := 0, sub := 0 }

/-- A page of class SC and reach CHIP, its first grain written and unshared. -/
def scPage : State := paged (leafOf 0 0) (tagOf 0 0 0 0)

/-- A page of class WS, its grains FULL. -/
def wsPage : State := paged (leafOf 2 0) (tagOf 7 2 0 0)

/-- The checks of every lane pass, under the sizes and uses of ld and st, and of wsstate. -/
theorem test_meets_LoadsAndStoresHoldBackTheirAccess :
    scPage.Runs (front scPage) ∧ wsPage.Runs (front wsPage) ∧
    (∀ l, (front scPage).lanes.has l = true → scPage.checkAccess (front scPage) ((front scPage).hreg 1)
      (offsetOf ((front scPage).off fm [] l) fm.imm 4) 4 [0] [] .load 0 = (.ok 0x10000 0x20000 (leafOf 0 0).pte, scPage)) ∧
    (∀ l, ((front scPage).acting 0 0 0).has l = true → scPage.checkAccess (front scPage) ((front scPage).hreg 1)
      (offsetOf ((front scPage).off fm [] l) fm.imm 4) 4 [1] [] .store 0 = (.ok 0x10000 0x20000 (leafOf 0 0).pte, scPage)) ∧
    (∀ l, (front wsPage).lanes.has l = true → pteClass (leafOf 2 0).pte = 2 ∧ wsPage.checkAccess (front wsPage) ((front wsPage).hreg 1)
      (offsetOf ((front wsPage).off fm [] l) fm.imm 1) 1 [0] [] (.await false) 0 = (.ok 0x10000 0x20000 (leafOf 2 0).pte, wsPage)) :=
  ⟨⟨[], by decide +kernel⟩, ⟨[], by decide +kernel⟩, forall_lane (by decide +kernel), forall_lane (by decide +kernel),
    forall_lane (by decide +kernel)⟩

/-- A group with the page's handles and, in g0 to g3, a length of one grain, of one page, a move descriptor of one grain to core 5 of
chip 0, and chip 1. -/
def rgrp : Group := { hgrp with g := [(0, 512), (1, 4096), (2, 512 + 5 * 2 ^ 40), (3, 1)] }

/-- A page of class IP whose first grain belongs to core 0. -/
def ipPage : State := paged (leafOf 3 0) (tagOf 4 3 0 0) rgrp
/-- A page of class WS, its first grain EMPTY. -/
def wsEmpty : State := paged (leafOf 2 0) (tagOf 5 2 0 0xFFFFFFFFFFFF) rgrp
/-- A replicated page of class SC in a pod of two chips. -/
def replPage (list : List Nat) : State :=
  { paged (leafOf 0 1 0x200) (tagOf 0 0 1 0) rgrp with cfg := [(0x44, 2)], replicas := if list = [] then [] else [(0x20, (4096, list))] }
/-- The part of the page that a range covers. -/
def seg (l : Leaf) (n : Nat) : Seg := { va := 0x10000, pa := 0x20000, len := n, leaf := l }
/-- A range of one grain at offset 0 of h1. -/
def rm : FM := { fm with t := 0, d := 104 }

theorem test_meets_RangeInstructionsHoldBackTheirRange :
    ipPage.Runs (front ipPage) ∧
    (let s := ipPage
     let i := front s
     let c := s.ctxI i
     checkHandle c (i.hreg 1) (i.uoff rm [] 1) (rangeLen (i.ulen rm [])) 1 [] [0, 1] = none ∧
     s.range c 0 0 0x10000 512 = (.ok [seg (leafOf 3 0) 512], s) ∧ pteClass (leafOf 3 0).pte = 3 ∧
     s.mayRead 256 = true ∧ tagFree (s.tag 256) = false ∧ s.ownedByCore 256 0 = true ∧
     bits (i.ulen { rm with d := 106 } []).toNat 39 0 = 512 ∧ bits (i.ulen { rm with d := 106 } []).toNat 50 40 = 5) ∧
    (let s := wsEmpty
     let c := s.ctxI (front s)
     s.range c 0 0 0x10000 512 = (.ok [seg (leafOf 2 0) 512], s) ∧ pteClass (leafOf 2 0).pte = 2 ∧ s.mayRead 256 = true) ∧
    (let s := scPage
     s.range (s.ctxI (front s)) 0 0 0x10000 4096 = (.ok [seg (leafOf 0 0) 4096], s) ∧ s.classChange (seg (leafOf 0 0) 4096) 0 2 = none) ∧
    (let s := replPage []
     s.range (s.ctxI (front s)) 0 0 0x10000 1 = (.ok [seg (leafOf 0 1 0x200) 1], s) ∧ pteBit (leafOf 0 1 0x200).pte 9 = true ∧ 1 < s.podSize) ∧
    (1 : Nat) ∈ (replPage [1]).replicaList 0x20000 ∧ (replPage []).replicaList 0x20000 = [] ∧
    (8 ≤ ((replPage [2, 3, 4, 5, 6, 7, 8, 9]).replicaList 0x20000).length ∧ (1 : Nat) ∉ (replPage [2, 3, 4, 5, 6, 7, 8, 9]).replicaList 0x20000) ∧
    (leafOf 0 0).pageSize = 4096 ∧ (leafOf 0 1 0x200).pageSize = (leafOf 0 1 0x200).size ∧ scPage.unknownOwner [seg (leafOf 0 0) 4096] = none ∧
    ipPage.outsideReach (leafOf 3 0).pte 0 = false := by
  refine ⟨⟨[], by decide +kernel⟩, ?_, ?_, ?_, ?_, ?_⟩ <;> decide +kernel

/-- A group whose threads hold x in v1, a return stack and arrivals not yet waited for. -/
def tgrp (x : Word) (stack : List (BitVec 52) := []) (pending : SMap Bool := []) : Group :=
  { grp with threads := List.replicate 32 { v := [(1, x)], stack := stack, pending := pending } }
/-- A format C instruction. -/
def fc (a b : BitVec 7) (sub : BitVec 6 := 0) : FC := { ge := 0, gn := 0, gk := 0, sub := sub, a := a, b := b }
/-- A state whose grid is stepped, with a step tag in a pod step domain, or deterministic. -/
def gridWith (s : State) (f : Grid → Grid) : State := { s with grids := s.grids.map fun p => (p.1, f p.2) }
/-- A stepped grid of a pod step domain. -/
def podStepped : State := { gridWith base (fun g => { g with stepped := true, stag := 1 }) with cfg := [(0x35, 2)] }
/-- A group in its handler. -/
def handlerState : State := with' { tgrp 8 with inHandler := true, handlerLanes := 0xFFFFFFFF }

theorem test_meets_BranchCallReturnAndExitHoldBackTheirTransfer :
    (let s := with' (tgrp 8)
     let i := front s
     (∀ l, l < 32 → (i.operand (intLayout 5) 1 0 l).toNat % 4 = 0) ∧ ∀ l, l < 32 → (i.before.thread l).stack.length ≠ 16) ∧
    (let i := front (with' (tgrp 9))
     ¬ ∀ l, l < 32 → (i.acting 0 0 0).has l = true → (i.operand (intLayout 5) 1 0 l).toNat % 4 = 0) ∧
    (let i := front (with' (tgrp 8 (List.replicate 16 4)))
     (∃ l, l < 32 ∧ (i.before.thread l).stack.length = 16) ∧ ∀ l, l < 32 → (i.before.thread l).stack.length ≠ 0) ∧
    ∃ l, l < 32 ∧ ((front base).before.thread l).stack.length = 0 := by decide +kernel

/-- Numbers of special registers at the ends of their ranges, as literals in b; values for FLAGS, FPCTL. -/
theorem test_meets_SpecialRegisterInstructionResults :
    (let i := front (with' (tgrp 3))
     (i.uniform 127 (litB [0x0E] 1)).toNat = 0x0E ∧ (i.uniform 127 (litB [0x0F] 1)).toNat = 0x0F ∧ (i.uniform 120 0).toNat = 0 ∧
     isV 1 = true ∧ isG 104 = true ∧ OpRule.legal .uniform 120 = true ∧ (i.uniform 120 0).toNat < 4 ∧
     (∀ l, l < 32 → (i.operand (intLayout 5) 1 0 l).toNat < 32)) ∧
    (let i := front (with' { tgrp 32 with g := [(0, 4)] })
     4 ≤ (i.uniform 104 0).toNat ∧ ∃ l, l < 32 ∧ 32 ≤ (i.operand (intLayout 5) 1 0 l).toNat) ∧
    ((gridWith base fun g => { g with det := true }).gridOf 0).det = true := by decide +kernel

/-- A measured register in a deterministic grid and outside one, a read-only and an unassigned number. -/
theorem test_meets_ConfigurationRegisterInstructionResults :
    ((gridWith base fun g => { g with det := true }).gridOf 0).det = true ∧ cfgMeasured 0x33 = true ∧ (base.gridOf 0).det = false ∧
    (cfgInfo 0x33).isSome = true ∧ (cfgInfo 0x40).isSome = true ∧ cfgNotModule 0x40 = false ∧ ((cfgInfo 0x40).map (·.ro)) = some false ∧
    ((cfgInfo 0x32).map (·.ro)) = some true ∧ cfgInfo 0x3F = none := by decide +kernel

/-- Barrier 15 with counts 32 and 33 around its range, an arrival made and none; a stepped grid; a group in its handler. -/
theorem test_meets_TrapBarrierStepAndYieldHoldBackTheirEffect :
    (∀ e ∈ (front base).effects, e.instr?.bind barParts = none) ∧
    (let i := front base
     let s := base
     (i.uniform 127 15).toNat = 15 ∧ (i.uniform 127 16).toNat = 16 ∧ (i.uniform 127 32).toNat = 32 ∧ (i.uniform 127 4095).toNat = 4095 ∧
     (i.uniform 127 4096).toNat = 4096 ∧ (i.uniform 127 255).toNat = 255 ∧ (i.uniform 127 256).toNat = 256 ∧
     ∀ l, l < 32 → (((s.group 0).thread l).pending.find? 15).isSome = false ∧ ((s.teamOf 0).barrier 15).count = none) ∧
    (let s := with' (tgrp 8 [] [(15, false)])
     ∀ l, l < 32 → (((s.group 0).thread l).pending.find? 15).isSome = true) ∧
    (base.gridOf 0).stepped = false ∧ (podStepped.gridOf 0).stepped = true ∧ (podStepped.gridOf 0).stag ≠ 0 ∧ podStepped.cfgVal 0x35 ≠ 0 ∧
    (front handlerState).before.inHandler = true ∧
    ∀ l, l < 32 → ((front handlerState).operand (intLayout 5) 1 0 l).toNat % 4 = 0 := by decide +kernel

/-- A format E instruction whose operands are zero. -/
def fe : FE := { t := 0, nw := 0, d := 2, h := 1, a := 120, scope := 0, imm := 0, b := 120, aux := 0, sub := 0 }

/-- The bytes of 64-bit words. -/
def le (ws : List Nat) : List Byte := ws.flatMap (toBytes 8)

/-- A state whose team has windows of four A-banks, two C-banks and 4 KiB of each slice, bank 1 of each a publish pair, over a page of class SC. -/
def win (g : Group := rgrp) (l : Leaf := leafOf 0 0) (t : BitVec 64 := tagOf 0 0 0 0) : State :=
  { paged l t g with teams := [(0, { ctx := 0, grid := 0, groups := [0], abanks := 4, cbanks := 2, wsub := 1, apair := 2, cpair := 2, wpair := 0 })] }

/-- A copy of 64 bytes through h1, with its status at 0x3000 of the A-buffer. -/
def copyWords : List Nat := [0x10 + 0x1000 + 0x10000, 0, 512, 64 + 2 ^ 20 + 2 ^ 40, 0, 0, 0, 0x3000]
/-- A digest of 64 bytes, its result at 0x2000 and its status at 0x3000. -/
def digestWords : List Nat := [1 + 0x2000 * 2 ^ 16 + 0x3000 % 2 ^ 16 * 2 ^ 48, 0x3000 / 2 ^ 16, 0, 64]

/-- Records in the A-buffer: a copy at 0, none at 64, a digest at 128. -/
def engines : State := win.bufWrite 0 1 0 false 0 (le copyWords ++ List.replicate 64 0 ++ le digestWords)
/-- A copy record in the page. -/
def engineMem : State := { win with mem := Memory.writeAll [] 0x20000 (le copyWords) }
/-- An access of lane 0 that is still to be performed. -/
def pendingLoad (l : Leaf := leafOf 0 0) : Access :=
  { id := 7, gid := 0, lane := 0, core := 0, pc := 0, idx := 0, va := 0x10000, pa := 0x20000, size := 4, pte := l.pte, op := .load false }

theorem test_meets_EngineInstructionResults :
    engines.Runs (front engines) ∧ ({ engines with accesses := [pendingLoad] } : State).accessesDone 0 0xFFFFFFFF = false ∧
    (let s := engines
     let i := front s
     let r := s.record i 128 16
     s.accessesDone 0 i.lanes = true ∧ s.copyFault i 0 (CopyRec.ofWords (wordsOf (s.bufRead 0 1 0 false 0 64))) = none ∧
     s.copyFault i 0 (CopyRec.ofWords (wordsOf (s.bufRead 0 1 0 false 64 64))) = some (.engineRecord, 0) ∧
     bits r 6 0 = 1 ∧ bits r 15 7 = 0 ∧ bits r 127 80 = 0 ∧ entriesOk (digestEntries 1 (s.bufRead 0 1 0 false 128 32)) = true ∧
     (s.teamOf 0).plainRange (bits r 47 16) 32 = true ∧ (s.teamOf 0).plainRange (bits r 79 48) 16 = true ∧
     checkHandle (s.ctxI i) (i.hreg 1) 0 0 4096 [1] [] = none ∧ checkHandle (s.ctxI i) (i.hreg 1) 0 0 1 [0] [] = none ∧
     (s.teamOf 0).paired 1 1 = true) ∧
    (let s := engineMem
     let i := front s
     s.handleRead i.reader (s.ctxI i) 0 (i.hreg 1) 0 64 = .ok (le copyWords) s ∧ s.copyFault i 0 (CopyRec.ofWords (wordsOf (le copyWords))) = none) := by
  refine ⟨⟨[], by decide +kernel⟩, ?_, ?_, ?_⟩ <;> decide +kernel

/-- A drain record: C tile at 0 with rows of 256 bytes, FP32 to the A-buffer at 1,024 with rows of 256 bytes. -/
def drainWords : List Nat := [256 * 2 ^ 20, 256 * 2 ^ 32, 1024, 0]
/-- A record block of a matrix operation of one group: 64 rows of A at 0 (64 BF16 elements to a row), B at 0, the C tile at 0 and its status at
16,384. -/
def blockBits : Nat := 128 * 2 ^ 32 + 64 * 2 ^ 56 + 64 * 2 ^ 32 * 2 ^ 512 + (256 * 2 ^ 20 + 16384 * 2 ^ 40) * 2 ^ 1024
/-- The window with the drain record at 0x8000 and the record block at 0x8020. -/
def matrices : State := (win.bufWrite 0 1 0 false 0x8000 (le drainWords)).bufWrite 0 1 0 false 0x8020 (toBytes 160 blockBits)
/-- A team of three groups, this one with index 0, and a GANG value in g0 that lists groups 0 and 2 with tag 5. -/
def ganged : State :=
  { paged (leafOf 0 0) 0 { hgrp with g := [(0, 2 * 2 ^ 5 + 2 * 2 ^ 30 + 5 * 2 ^ 33)], gang := 2 * 2 ^ 5 + 2 * 2 ^ 30 + 5 * 2 ^ 33 } with
    teams := [(0, { ctx := 0, grid := 0, groups := [0, 1, 2] })] }

theorem test_meets_MatrixInstructionResults :
    ganged.Runs (front ganged) ∧
    (let x := ((front ganged).uniform 104 0).toNat
     gangMembers x = [0, 2] ∧ (gangMembers x).Nodup ∧ (∀ m ∈ gangMembers x, m < (ganged.teamOf 0).groups.length) ∧
     (front ganged).before.index ∈ gangMembers x ∧ bits x 29 10 = 0 ∧ x < 2 ^ 41) ∧
    (0 : Nat) + 63 * 256 + 256 ≤ (matrices.teamOf 0).window 2 ∧
    ({ matrices with accesses := [pendingLoad] } : State).accessesDone 0 0xFFFFFFFF = false ∧
    matrices.accessesDone 0 0xFFFFFFFF = true ∧ 0x8000 + 32 ≤ (matrices.teamOf 0).window 1 ∧
    matrices.drainFault (front matrices) (matrices.record (front matrices) 0x8000 32) = none ∧
    matrices.detI (front matrices) = false ∧ (gridWith matrices fun g => { g with det := true }).detI (front matrices) = true := by
  refine ⟨⟨[], by decide +kernel⟩, ?_⟩; decide +kernel

/-- The clause of mmx as it arrives. -/
def arrived (s : State) (f : FE) : Issue :=
  (front s).hold [.act (.mmx f []) (front s).idx (front s).lanes ((front s).lanesOf ((front s).operand (intLayout 5) f.b 0)) [] [] []]
/-- mmx with its record block at 0x8020. -/
def fmx : FE := { fe with a := 127, b := 120 }
/-- mmx of a literal record address. -/
def mmxArrival : Issue :=
  (front matrices).hold [.act (.mmx fmx [0x8020]) 0 0xFFFFFFFF ((front matrices).lanesOf ((front matrices).operand (intLayout 5) fmx.b 0)) [] [] []]

/-- The same with more words in the clause. -/
def clauseOf' (ws : List IWord) : State := with' hgrp fun i => { i with words := ws }

/-- Whether a check of a rendezvous gives an operation. -/
def passes (r : Except FaultCode Work) : Bool :=
  match r with
  | .ok _ => true
  | .error _ => false

theorem test_meets_MatrixInstructionsArriveAtTheirRendezvous :
    matrices.issuing = [front matrices] ∧ matrices.accessesDone 0 0xFFFFFFFF = true ∧ matrices.clusterLatches 0 = [] ∧
    (front matrices).words.drop 3 = [] ∧ (front (clauseOf' [0, 0, 0, 0])).words.drop 3 ≠ [] ∧
    (front matrices).gangList = [0] ∧ (front matrices).before.index = 0 ∧ passes (matrices.rendezvousCheck 0 0 [mmxArrival]) = true ∧
    (∃ m ∈ (front ganged).gangList, m ≠ (front ganged).before.index) ∧
    ∃ g, matrices.groups.find? 0 = some g ∧ g.threads.length = 32 ∧ ∀ l, l < 32 → (g.thread l).status = .ready := by
  and_intros <;> decide +kernel

/-- An entry of cluster 0 with one element to a row: A of one row block at 0, B at 0, C at 0, its status at 16,384. -/
def entry0 : Work :=
  { kind := .entry, team := 0, cluster := 0, k := 1, cstride := 256, status := 16384, since := 0,
    members := [{ gid := 0, core := 0, event := 0, addr := 0, stride := 2, row0 := 0, nrows := 64, saddr := 0 }] }
/-- The entry in the table, the first element of A 1.0 and of B in slice 0 2.0 (BF16). -/
def passing : State :=
  { (win.bufWrite 0 1 0 false 0 [0x80, 0x3F]).bufWrite 0 3 0 false 0 [0, 0x40] with works := [(5, entry0)], clock := 9000 }
/-- The same with a test error of 1 armed on cell (1, 2). -/
def flipped : State := { passing with injMat := [(0, (1 + 2 * 2 ^ 6, 77))] }
/-- A drain of the tile at 0. -/
def drain0 : Work := { entry0 with kind := .drain, record := ofBytes (le drainWords), event := some 3 }
/-- A zero of the tile at 0. -/
def zero0 : Work := { entry0 with kind := .zero, event := some 4 }
/-- A drain and a zero in the table. -/
def draining : State := { matrices with works := [(5, drain0), (6, zero0)] }
/-- The latch of group 0 with its operation. -/
def latch0 : Latch := { team := 0, tag := 256, arrivals := [mmxArrival], work := some entry0 }
/-- A latch of group 0 whose checks have passed, and an entry with its last pass done. -/
def placing : State :=
  { matrices with issuing := [], works := [(5, { entry0 with state := 2 })],
                  latches := [(0, [latch0])] }

/-- Whether a check adds exactly the sums given, with the correction given. -/
def adds (r : PassResult) (S : List (List CellSum)) (fix : Option (Nat × Nat)) : Bool := decide (r = .add S false fix)

theorem test_meets_MatrixUnitEventResults :
    passing.works.find? 5 = some entry0 ∧ passing.arbitrate 0 = some (5, entry0) ∧ passing.injMat.find? 0 = none ∧
    (let rows := (List.range 64).map (passing.rowBlock entry0 0)
     let cols := (List.range 64).map (passing.colBlock entry0 0)
     let S := rows.map fun r => cols.map (cellSum r)
     adds (checkPass 1 rows cols S) S none = true ∧ adds (checkPass 1 rows cols (bumpCell S 1 2 (2 ^ 320))) S (some (1, 2)) = true) ∧
    (flipOf (1 + 2 * 2 ^ 6)).1 = 1 ∧ (flipOf (1 + 2 * 2 ^ 6)).2.1 = 2 ∧ flipped.arbitrate 0 = some (5, entry0) ∧
    entry0.since + 8192 ≤ passing.clock ∧ (passing.teams.find? 0).isSome = true ∧
    draining.nextDrain 0 .drain = some (5, drain0) ∧ draining.nextDrain 0 .zero = some (6, zero0) ∧
    (placing.clusterLatches 0).find? (fun l => l.isKey 0 256) = some latch0 ∧
    (placing.entries 0).length < 16 ∧ ({ base with latchWaits := [(0, [clause])] } : State).latchWaits.get 0 [] = [clause] := by
  decide +kernel

/-- Page tables at 0x2000, 0x4000, 0x6000 and 0x8000 that map the page by a leaf. -/
def tables (l : Leaf) : List Host.Cell :=
  [(0x2000, 4 * 65536 + 1), (0x4000, 6 * 65536 + 1), (0x6000, 8 * 65536 + 1), (0x8080, l.pte.toNat)].foldl (fun m p => Memory.writeAll m p.1 (toBytes 8 p.2)) []
/-- A state with those tables as context 0's. -/
def walked (s : State) (l : Leaf := leafOf 0 0) : State :=
  { s with mem := tables l, ctxs := s.ctxs.map fun p => (p.1, { p.2 with record := p.2.record ||| (1 <<< 77) }) }

/-- A copy command of cluster 0 with its status at 0x3000. -/
def copy0 (state : Nat) : Command := { kind := .copy, ctx := 0, team := 0, words := copyWords, handles := List.replicate 4 pageH, n := [0, 0x3000], state := state }
/-- A publish of A-bank 1. -/
def publish0 : Command := { kind := .publish, ctx := 0, team := 0, n := [0, 16384, 16384, 0] }
/-- A move of the page to HBM, with its event. -/
def migrate0 (wait : Option Nat) : Command :=
  { kind := .migrate, ctx := 0, team := 0, words := [0, 0x10000, 0x11000, 0], n := [2], event := some 9, frameWait := wait }
/-- A publish of the page and a move of it that waits for it. -/
def publishPage : Command := { kind := .publish, ctx := 0, team := 0, n := [3, 0x10000, 4096, 0], writes := [{ space := 0, owner := 0, lo := 0x10000, hi := 0x11000 }] }
def migrateHeld : Command := { migrate0 none with writes := [{ space := 0, owner := 0, lo := 0x10000, hi := 0x11000 }] }
/-- A digest command. -/
def digest0 : Command := { kind := .digest, ctx := 0, team := 0, words := [0x2000, 0, 64], handles := [pageH], n := [0, 0x3000] }
/-- The window with one command. -/
def commanded (c : Command) (more : SMap Command := []) : State := { walked win with commands := (4, c) :: more, clock := 2 ^ 25 }

theorem test_meets_EngineUnitEventResults :
    (copy0 0).statusAt.1 = 0 ∧ ((commanded (copy0 0)).copiesHeld 0).find? (fun p => p.2.state == 0) = some (4, copy0 0) ∧
    (commanded (copy0 0)).copyHeld 4 (copy0 0) = false ∧ (commanded publish0).publishHeld 4 publish0 = false ∧
    (commanded (migrate0 none)).migrating = some (4, migrate0 none) ∧
    (let s := commanded (migrate0 none)
     s.rawLeaf (s.ctx 0) 0 0x10000 = .leaf (leafOf 0 0) 0) ∧ pteBit (leafOf 0 0).pte 10 = true ∧ pteHost (leafOf 0 0).pte = false ∧
    (commanded (migrate0 (some (2 ^ 25)))).migrating = some (4, migrate0 (some (2 ^ 25))) ∧ 2 ^ 25 ≤ (commanded (migrate0 none)).clock ∧
    (commanded (migrate0 none)).clock < 2 ^ 25 + 1 ∧ (commanded (migrate0 none)).publishPending 4 (migrate0 none) = false ∧ (migrate0 none).state = 0 ∧
    ({ commanded migrateHeld with commands := [(3, publishPage), (4, migrateHeld)] } : State).publishPending 4 migrateHeld = true ∧
    (commanded (copy0 0)).migrating = none ∧ (commanded digest0).digestsHeld = [(4, digest0)] ∧
    workHolds (commanded (copy0 0)).works [] [bufRange 0 1 0 0x3000 16] = false ∧ (commanded publish0).pausing 0 = false ∧
    ({ commanded publish0 with snaps := [(0, { state := 1 })], ctxs := [(0, { status := .live, record := 2 ^ 11 })] } : State).pausing 0 = true ∧
    (migrate0 none).moving = none ∧ (migrate0 none).code = 0 ∧ ({ copy0 0 with owed := true } : Command).owed = true := by decide +kernel

/-! ### The fabric -/

/-- A module that knows a route to chip 1: one hop on port 0. -/
def routed (s : State) : State := { s with place := [(1, 0x10001)], path := [(8, BitVec.ofNat 64 (2 ^ 60))] }
/-- A put of 64 bytes from the page (h1) to the page (h1), of class 2, its status at 0x3000. -/
def putWords : List Nat := [2 ^ 6 + 2 ^ 10 + 2 * 2 ^ 19, 0, 64, 64, 0, 0, 0, 0x3000]
/-- A send of 64 bytes from the page to chip 1, and one to chip 2. -/
def sendWords (chip : Nat) : List Nat := [2 + 2 ^ 6 + 2 * 2 ^ 19 + chip * 2 ^ 22, 0, 0, 64, 0, 0, 0, 0x3000]
/-- Records of a put, of sends to chips 1 and 2, and none, in the A-buffer. -/
def fabric : State := routed (win.bufWrite 0 1 0 false 0 (le putWords ++ le (sendWords 1) ++ le (sendWords 2)))

theorem test_meets_FabricInstructionResults :
    fabric.Runs (front fabric) ∧
    (let s := fabric
     let i := front s
     let t := s.teamOf 0
     let rec' := fun (a : Nat) => FabRec.ofWords (wordsOf (s.bufRead 0 1 0 false a 64))
     s.accessesDone 0 i.lanes = true ∧ s.detI i = false ∧ (rec' 0).malformed 0 t = false ∧ s.fabricCheck i (rec' 0) = none ∧
     (rec' 64).malformed 2 t = false ∧ s.fabricCheck i (rec' 64) = none ∧ s.fabricCheck i (rec' 128) = some (.fabNoroute, 0) ∧
     (rec' 128).malformed 2 t = false ∧ (rec' 192).malformed 1 t = true ∧ (4 * 16384 : Nat) = t.window 1) ∧
    ({ fabric with accesses := [pendingLoad] } : State).accessesDone 0 0xFFFFFFFF = false ∧
    (gridWith fabric fun g => { g with det := true }).detI (front fabric) = true := by
  refine ⟨⟨[], by decide +kernel⟩, ?_⟩; decide +kernel

/-- A message of 64 bytes to chip 1 on class 2. -/
def msg1 : Msg := { chip := 1, cls := 2, role := .getData, payload := List.replicate 64 1 }
/-- A kept message at its first attempt. -/
def kept0 : Kept := { msg := msg1, k := 1, m := 0, gens := [0], sent := [0], ackWait := 16384, busyWait := 2048 }
/-- A module with a message to send to chip 1, and one kept as seq 5 of a channel. -/
def sender (x : Kept) (dst : Nat := 1) : State :=
  { routed base with clock := 2 ^ 20, sendQ := [(10, [msg1])], kept := [((dst * 8 + 2) * 2 ^ 32 + 5, x)] }
/-- The header of a fragment of chip 1's message of seq 5 on class 1 to a physical identity: stripe 0, index 1 of two. Or of an acknowledgement. -/
def header (phys : Nat) (six : Bool := false) : Header :=
  { src := 1, dst := 0, phys := phys, cls := if six then 6 else 1, kind := if six then 1 else 0, seq := 5, len := 300, ks := 2, m := 0, stripe := 0,
    index := 1, gen := 0, route := 0, hops := 0, info := if six then 5 * 2 ^ 32 else 0 }
/-- A fragment's payload. -/
def frag : List Byte := [1, 2, 3]
/-- Its header word. -/
def hdr (phys : Nat) (six : Bool := false) : BitVec 256 := (header phys six).word frag false

theorem test_meets_FabricSenderEventResults :
    (sender kept0).sendQ.get 10 [] = [msg1] ∧ ((sender kept0).isSelf 1 || (sender kept0).routable 1) = true ∧
    (sender kept0).retained + ceilDiv 64 256 * 256 ≤ 8388608 ∧ msg1.cmd = none ∧ msg1.role ≠ .marker ∧
    (sender kept0).kept.find? (10 * 2 ^ 32 + 5) = some kept0 ∧ seqBefore 4 5 = true ∧ (∀ p ∈ (sender kept0).kept, p.2.msg.cmd = none) ∧
    ((sender kept0).kept.filter fun p => p.1 / 2 ^ 32 == 10) = [(10 * 2 ^ 32 + 5, kept0)] ∧
    kept0.sent.getD 0 (2 ^ 20) + kept0.ackWait ≤ 2 ^ 20 ∧ 0 + kept0.ackWait ≤ (sender kept0).clock ∧
    (sender { kept0 with gens := [2] }).kept.find? (10 * 2 ^ 32 + 5) = some { kept0 with gens := [2] } ∧
    (sender { kept0 with busy := some (2 ^ 20) }).kept.find? (10 * 2 ^ 32 + 5) = some { kept0 with busy := some (2 ^ 20) } ∧
    (sender { kept0 with busy := some (2 ^ 20 + 1) }).kept.find? (10 * 2 ^ 32 + 5) = some { kept0 with busy := some (2 ^ 20 + 1) } ∧
    (sender { kept0 with notice := some 0 } 3).kept.find? (26 * 2 ^ 32 + 5) = some { kept0 with notice := some 0 } ∧
    (sender kept0).isSelf 3 = false ∧ fragmentSound (hdr 7) frag = true ∧ fragmentSound 0 frag = false := by
  rw [show ((sender kept0).isSelf 1 || (sender kept0).routable 1) = true by
    rw [show (sender kept0).routable 1 = true by decide +kernel, Bool.or_true]]
  decide +kernel

/-- A stripe whose two fragments are decoded. -/
def stripeDone : StripeRx := { ks := 2, frags := [(0, List.replicate 256 7), (1, List.replicate 44 7)], gens := [0], timed := false, done := true }
/-- A stripe that waits for its second fragment. -/
def stripeOpen : StripeRx := { ks := 2, frags := [(0, frag)], gens := [0], since := 0 }
/-- A message of class 1 with seq 5 from chip 1 in a slot. -/
def slotOf (x : StripeRx) : Slot := { header := hdr 7, stripes := [(0, x)], deadline := 4096, dispose := 65536 }
/-- A module that expects seq `next` of chip 1's class 1, with a slot. -/
def receiver (next : Nat) (slots : SMap Slot := []) (owed : Option Nat := none) (faults : SMap Nat := []) : State :=
  { State.reset with clock := 2 ^ 20, recv := [(9, { next := next, owed := owed, faults := faults })], slots := slots }
/-- A decode buffer of which every slot of chip 1's X-die is in use. -/
def full : State := receiver 5 ((List.range 2048).map fun i => (i, { header := hdr 7 }))

theorem test_meets_FabricReceiverEventResults :
    fragmentSound (hdr 7) frag = true ∧ fragmentSound 0 frag = false ∧ (receiver 5).isSelf 3 = false ∧
    ((receiver 5).filter.find? (9 * 2 ^ 32 + 5) = none ∧ seqBefore 5 ((receiver 5).recvOf 9).next = false ∧ 5 ∉ ((receiver 5).recvOf 9).lost) ∧
    (receiver 5).slots.find? (9 * 2 ^ 32 + 5) = none ∧ full.slotFree 1 1 0 true = false ∧ (receiver 5).slotFree 1 1 0 true = true ∧
    1 < (header 7).ks ∧
    (let s := receiver 5 [(9 * 2 ^ 32 + 5, slotOf stripeDone)]
     s.slots.find? (9 * 2 ^ 32 + 5 % 2 ^ 32) = some (slotOf stripeDone) ∧ (slotOf stripeDone).data? = some (List.replicate 300 7) ∧
     (Header.ofWord (slotOf stripeDone).header).kind = 0) ∧ (slotOf stripeOpen).data? = none ∧
    ((receiver 5 [] (some 0)).recvOf 9).owed = some 0 ∧ 0 + 64 ≤ (receiver 5).clock ∧ ((receiver 5 [] (some 0)).recvOf 9).faults.length ≤ 51 ∧
    51 < ((receiver 5 [] (some 0) ((List.range 52).map fun i => (i, 1))).recvOf 9).faults.length ∧ (2 : Nat) ^ 20 < 2 ^ 20 - 63 + 64 ∧
    ({ receiver 5 with filter := [(9 * 2 ^ 32 + 4, 7)] } : State).filter.find? (9 * 2 ^ 32 + 4) = some 7 ∧
    stripeOpen.done = false ∧ stripeOpen.timed = true ∧ stripeOpen.since + (slotOf stripeOpen).deadline ≤ (receiver 5).clock ∧ (0 : Nat) < stripeOpen.since + (slotOf stripeOpen).deadline ∧ 2 ∉ stripeOpen.gens ∧
    seqBefore 4 5 = true ∧ seqBefore 6 5 = false ∧ (receiver 5).snaps = [] ∧ (receiver 5).grids = [] ∧ ((receiver 5).recvOf 9).lost = [] := by
  decide +kernel

/-- The identity that a valid entry names. -/
theorem placedAt_entry (x : BitVec 16) : placedAt ((x.zeroExtend 32) ||| 0x10000) = x.toNat := by
  have hx := x.isLt
  have := Nat.two_pow_add_eq_or_of_lt (i := 16) hx 1
  have h : ((x.zeroExtend 32) ||| 0x10000).toNat = 2 ^ 16 * 1 + x.toNat := by
    rw [BitVec.toNat_or, Nat.or_comm, show (x.zeroExtend 32).toNat = x.toNat by simp; omega, this]
    rfl
  unfold placedAt bits
  rw [h, Nat.pow_zero, Nat.div_one]
  omega

/-- At reset chip 0 is this module, whatever its physical identity. -/
theorem reset_isSelf : State.reset.isSelf 0 = true := by
  have h (x : BitVec 16) : ((x.zeroExtend 32 ||| 0x10000).getLsbD 16 && placedAt (x.zeroExtend 32 ||| 0x10000) == x.toNat) = true := by
    rw [placedAt_entry]; simp
  exact h Config.fabSelf

/-- A step of the CRC stays within 32 bits. -/
theorem crcByte_lt {c : Nat} (b : Byte) (h : c < 2 ^ 32) : crcByte c b < 2 ^ 32 := by
  unfold crcByte
  have hb := b.isLt
  have hx : c ^^^ b.toNat < 2 ^ 32 := Nat.xor_lt_two_pow h (by omega)
  generalize c ^^^ b.toNat = x at hx
  generalize List.range 8 = l
  induction l generalizing x with
  | nil => simpa
  | cons a l ih =>
    rw [List.foldl_cons]
    apply ih
    split
    · exact Nat.xor_lt_two_pow (by omega) (by decide)
    · omega

/-- A fragment's CRC has 32 bits. -/
theorem fragmentCrc_lt (n : Nat) (p : List Byte) : fragmentCrc n p < 2 ^ 32 := by
  unfold fragmentCrc crc32c
  generalize toBytes 28 n ++ p = bs
  refine Nat.xor_lt_two_pow ?_ (by decide)
  have : (0xFFFFFFFF : Nat) < 2 ^ 32 := by decide
  generalize (0xFFFFFFFF : Nat) = x at this
  induction bs generalizing x with
  | nil => simpa
  | cons b bs ih => exact ih _ (crcByte_lt b this)


/-- The header's fields at their places. -/
theorem header_bits224 (x : Nat) (six : Bool) :
    (header x six).bits224 = 1 + x * 2 ^ 24 + (if six then 6 * 2 ^ 40 + 2 ^ 43 + 5 * 2 ^ 160 else 2 ^ 40) + 5 * 2 ^ 46 + 299 * 2 ^ 78 + 2 ^ 93 +
      2 ^ 108 := by
  cases six
  · change 1 + 0 * 2 ^ 12 + x * 2 ^ 24 + 1 * 2 ^ 40 + 0 * 2 ^ 43 + 5 % 2 ^ 32 * 2 ^ 46 + (300 - 1) * 2 ^ 78 + (2 - 1) * 2 ^ 93 + 0 * 2 ^ 98 +
      0 * 2 ^ 102 + 1 * 2 ^ 108 + 0 * 2 ^ 114 + 0 * 2 ^ 116 + 0 % 16 * 2 ^ 119 + 0 % 2 ^ 96 * 2 ^ 128 = _
    simp only [Bool.false_eq_true, if_false]
    omega
  · change 1 + 0 * 2 ^ 12 + x * 2 ^ 24 + 6 * 2 ^ 40 + 1 * 2 ^ 43 + 5 % 2 ^ 32 * 2 ^ 46 + (300 - 1) * 2 ^ 78 + (2 - 1) * 2 ^ 93 + 0 * 2 ^ 98 +
      0 * 2 ^ 102 + 1 * 2 ^ 108 + 0 * 2 ^ 114 + 0 * 2 ^ 116 + 0 % 16 * 2 ^ 119 + 5 * 2 ^ 32 % 2 ^ 96 * 2 ^ 128 = _
    simp only [if_true]
    omega

theorem header_toNat {x c : Nat} (six : Bool) (hx : x < 2 ^ 16) (hc : c < 2 ^ 32) :
    (BitVec.ofNat 256 ((header x six).bits224 + c * 2 ^ 224)).toNat = (header x six).bits224 + c * 2 ^ 224 := by
  rw [BitVec.toNat_ofNat, header_bits224]
  apply Nat.mod_eq_of_lt
  cases six <;> simp only [Bool.false_eq_true, if_false, if_true] <;> omega

theorem header_fields1 {x c : Nat} (six : Bool) (hx : x < 2 ^ 16) (hc : c < 2 ^ 32) :
    Header.ofWord (BitVec.ofNat 256 ((header x six).bits224 + c * 2 ^ 224)) = header x six := by
  unfold Header.ofWord
  rw [header_toNat six hx hc, header_bits224]
  cases six <;> simp only [bits, header, Header.mk.injEq, Bool.false_eq_true, if_false, if_true] <;> omega

theorem header_fields2 {x c : Nat} (six : Bool) (hx : x < 2 ^ 16) (hc : c < 2 ^ 32) :
    bits (BitVec.ofNat 256 ((header x six).bits224 + c * 2 ^ 224)).toNat 255 224 = c := by
  rw [header_toNat six hx hc, header_bits224]
  unfold bits
  cases six <;> simp only [Bool.false_eq_true, if_false, if_true] <;> omega

theorem header_fields3 {x c : Nat} (six : Bool) (hx : x < 2 ^ 16) (hc : c < 2 ^ 32) :
    bits (BitVec.ofNat 256 ((header x six).bits224 + c * 2 ^ 224)).toNat 127 123 = 0 := by
  rw [header_toNat six hx hc, header_bits224]
  unfold bits
  cases six <;> simp only [Bool.false_eq_true, if_false, if_true] <;> omega

theorem header_fields4 {x c : Nat} (six : Bool) (hx : x < 2 ^ 16) (hc : c < 2 ^ 32) :
    (BitVec.ofNat 256 ((header x six).bits224 + c * 2 ^ 224)).toNat % 2 ^ 224 = (header x six).bits224 := by
  rw [header_toNat six hx hc, header_bits224]
  cases six <;> simp only [Bool.false_eq_true, if_false, if_true] <;> omega
/-- The header of a fragment for a physical identity reads back, and its CRC holds. -/
theorem header_reads_back {x : Nat} (six : Bool) (hx : x < 2 ^ 16) :
    Header.ofWord (hdr x six) = header x six ∧ fragmentSound (hdr x six) frag = true := by
  have hc := fragmentCrc_lt (header x six).bits224 frag
  simp only [hdr, Header.word, fragmentSound, Bool.false_eq_true, if_false]
  refine ⟨header_fields1 six hx hc, ?_⟩
  rw [header_fields2 six hx hc, header_fields3 six hx hc, header_fields4 six hx hc]
  simp only [beq_self_eq_true, Bool.and_self]

/-- The conditions on a fragment for this module hold together, for a message not yet seen, in a free or a full buffer. -/
theorem test_meets_FabricReceiverEventResults_mine :
    (let h := Header.ofWord (hdr Config.fabSelf.toNat)
     fragmentSound (hdr Config.fabSelf.toNat) frag = true ∧ h.phys = Config.fabSelf.toNat ∧ (receiver 5).isSelf h.dst = true ∧ h.dst = (receiver 5).chip ∧
     h.src = 1 ∧ h.cls = 1 ∧ h.seq = 5 ∧ h.kind = 0 ∧ 1 < h.ks ∧ full.isSelf h.dst = true) ∧
    (receiver 5).isSelf 1 = false := by
  obtain ⟨h1, h2⟩ := header_reads_back false Config.fabSelf.isLt
  refine ⟨?_, by decide +kernel⟩
  rw [h1]
  exact ⟨h2, rfl, reset_isSelf, rfl, rfl, rfl, rfl, rfl, by decide, reset_isSelf⟩

/-- A second copy of an acknowledgement of seq 5. -/
theorem test_meets_FabricReceiverEventResults_answer :
    let h := Header.ofWord (hdr Config.fabSelf.toNat true)
    let s : State := { receiver 5 with filter := [(msgKey (chanKey ((receiver 5).inChip 1 0) 7) 5, 7)] }
    fragmentSound (hdr Config.fabSelf.toNat true) frag = true ∧ h.phys = Config.fabSelf.toNat ∧ s.isSelf h.dst = true ∧ h.cls = 6 ∧ 1 ≤ h.kind ∧ h.kind ≤ 4 ∧
      (s.filter.find? (msgKey (chanKey (s.inChip h.src h.dst) 7) (bits h.info 63 32))).isSome = true := by
  obtain ⟨h1, h2⟩ := header_reads_back true Config.fabSelf.isLt
  dsimp only
  rw [h1]
  exact ⟨h2, rfl, reset_isSelf, rfl, by decide, by decide, by decide +kernel⟩

/-- A combine record of context 3: two members, eight elements, this chip the root, one child chip. -/
def combineWords (child : Nat) : List Nat := [3 + 2 * 2 ^ 15 + 8 * 2 ^ 21, 2 ^ 12 + 2 ^ 13, child, 0, 0, 0, 0, 0]
/-- The post record of a member: from the A-buffer at 0, no destination. -/
def postWords (m : Nat) : List Nat := [1 + 3 * 4 + m * 2 ^ 12, 0, 0, 0]
/-- Context 3 of that record, with posts. -/
def combine3 (posts : SMap Nat := []) : Combine := { combineOf (ofBytes (le (combineWords 1))) with posts := posts }
/-- Records in the A-buffer: combine records with chips 1 and 2 as the child at 0 and 64, none at 128, posts of members 1 and 2 at 192 and 224. -/
def collective (cs : SMap Combine := []) : State :=
  { routed (win.bufWrite 0 1 0 false 0 (le (combineWords 1) ++ le (combineWords 2) ++ List.replicate 64 0 ++ le (postWords 1) ++ le (postWords 2)))
    with combines := cs }

theorem test_meets_CollectiveInstructionResults :
    (collective).Runs (front collective) ∧ collective.accessesDone 0 0xFFFFFFFF = true ∧ (0 + 64 ≤ (collective.teamOf 0).window 1) ∧
    (let s := collective
     let i := front s
     let r := s.record i 0 64
     let p := s.record i 192 32
     s.detI i = false ∧ combineBad r = false ∧ s.combines.find? (bits r 7 0) = none ∧ (combineOf r).root = true ∧
     (∀ ch ∈ (combineOf r).childs, s.routable ch = true) ∧ combineBad (s.record i 64 64) = false ∧
     (¬ ∀ ch ∈ (combineOf (s.record i 64 64)).childs, s.routable ch = true) ∧ combineBad (s.record i 128 64) = true ∧
     bits (recWord p 0) 1 0 ≠ 3 ∧ bits (recWord p 0) 63 17 = 0 ∧ recWord p 3 = 0 ∧ bits (recWord p 0) 3 2 = 3 ∧
     bits (recWord p 0) 16 12 < (combine3).nlocal ∧ (combine3).nlocal ≤ bits (recWord (s.record i 224 32) 0) 16 12 ∧
     s.postFaultOf i (recWord p 0) (recWord p 1) (recWord p 2) (combine3).bytes = none ∧ (combine3).rounds = []) ∧
    (collective [(3, combine3)]).combines.find? 3 = some (combine3) ∧
    ({ combine3 with rounds := [(0, {})] } : Combine).rounds ≠ [] ∧
    ((List.range ((combine3 [(1, 2)]).posts.get 1 0)).filter fun k => ((combine3).ended.find? k).isNone).length = 2 ∧
    (∃ m ∈ (combine3 [(1, 2)]).posts, 1 < m.2) ∧ (∀ m ∈ (combine3 [(1, 2)]).posts, m.2 ≤ 2) ∧
    (gridWith collective fun g => { g with det := true }).detI (front collective) = true := by
  refine ⟨⟨[], by decide +kernel⟩, ?_⟩; decide +kernel

/-- A GRID node's words. -/
def gridWords : List Nat := [1, 0, 0, 0x10000, 0, 0, 0, 0]
/-- Nodes in the page: END at 0, GRID at 64, and one of kind 8 at 128. -/
def nodes : State := { win with mem := Memory.writeAll [] 0x20000 (List.replicate 64 0 ++ le gridWords ++ le [8, 0, 0, 0, 0, 0, 0, 0]) }
/-- A state with another record of context 0: bit 10 its privilege, bit 11 its membership of the snapshot domain. -/
def withRecord (s : State) (r : Nat) : State := { s with ctxs := s.ctxs.map fun p => (p.1, { p.2 with record := BitVec.ofNat 1024 r }) }
/-- This chip as the initiator of a domain of one chip, context 0 a member with a limit of five teams, with snapshot slots. -/
def initiator (snaps : SMap Snap := []) (sys : Nat := 0) : State :=
  { withRecord nodes (2 ^ 11 + sys * 2 ^ 10 + 5 * 2 ^ 896) with cfg := [(0x72, 1), (0x75, 1)], snaps := snaps }
/-- A detached GRID node read from the page. -/
def gridNode : Node := { words := gridWords }

theorem test_meets_SnapshotAndLaunchInstructionResults :
    initiator.Runs (front initiator) ∧
    (let s := initiator
     let i := front s
     let c := s.ctxI i
     s.detI i = false ∧ s.cfgVal 0x72 ≠ 0 ∧ s.cfgVal 0x75 ≠ 0 ∧ s.cfgVal 0x74 ≤ s.chip ∧ s.chip < s.cfgVal 0x74 + s.cfgVal 0x75 ∧ c.snapmem = true ∧
     s.cfgVal 0x73 = s.chip ∧ (s.snap 0).state = 0 ∧ (s.snaps.filter fun p => p.2.state != 0).length < 2 ∧ 0 = (s.epoch + 1) % 2 ∧
     1 ≠ (s.epoch + 1) % 2 ∧ checkHandle c (i.hreg 1) 64 1 64 [0] [] = none ∧
     s.handleRead i.reader c i.before.core (i.hreg 1) 64 64 = .ok (le gridWords) s ∧ wordsOf (le gridWords) = gridWords ∧
     gridNode.malformed = false ∧ gridNode.kind = 1 ∧
     s.handleRead i.reader c i.before.core (i.hreg 1) 128 64 = .ok (le [8, 0, 0, 0, 0, 0, 0, 0]) s ∧
     ({ words := [8, 0, 0, 0, 0, 0, 0, 0] } : Node).malformed = true ∧ c.sys = false ∧ c.recordLimits.getD 0 0 = 5) ∧
    (base.cfgVal 0x72 = 0) ∧ ((initiator [(1, { state := 1 })]).snap 1).state ≠ 0 ∧ ((initiator [(1, { state := 6 })]).snap 1).state = 6 ∧
    ((initiator [] 1).ctxI (front (initiator [] 1))).sys = true ∧ ((initiator [] 1).ctx 0).status = .live ∧
    ((initiator [] 1).ctx 1).status ≠ .live ∧ (gridWith initiator fun g => { g with det := true }).detI (front initiator) = true := by
  refine ⟨⟨[], by decide +kernel⟩, ?_⟩; decide +kernel

/-- A page, the record of context 2 with ASID 7, a live context 1 with ASID 5 and error injection as given. -/
def systems (inj : Nat := 1) : State :=
  { win with mem := Memory.writeAll [] 256 (toBytes 8 7), cfg := [(0x21, inj)], ctxs := win.ctxs.insert 1 { status := .live, record := 5 } }

theorem test_meets_SystemInstructionResults :
    systems.Runs (front systems) ∧
    (let s := systems
     let i := front s
     let c := s.ctxI i
     checkHandle c (i.hreg 1) 0 1 4096 [1] [] = none ∧ checkHandle c (i.hreg 1) 0 1 4096 [0] [] = none ∧ (s.ctx 1).status = .live ∧
     (s.ctx 2).status = .free ∧ (¬ ∃ p ∈ s.ctxs, p.2.status = .live ∧ p.2.asid = recBits (s.recordOf 2) 9 0) ∧
     (∃ p ∈ s.ctxs, p.2.status = .live ∧ p.2.asid = recBits (s.recordOf 3) 9 0) ∧ s.cfgVal 0x21 ≠ 0 ∧
     s.checkAccess i (i.hreg 1) 0 1 [1] [] .store 0 = (.ok 0x10000 0x20000 (leafOf 0 0).pte, s)) ∧
    (systems 0).cfgVal 0x21 = 0 := by
  refine ⟨⟨[], by decide +kernel⟩, ?_⟩; decide +kernel

/-- The agreed fields of context 3. -/
def agreed3 : CombineAgreed := { op := 0, ty := 0, count := 8, d := 0, dtag := 0 }
/-- A round of context 3 with nothing contributed, and its children. -/
def rounds (c : Combine := combine3) : State := { State.reset with combines := [(3, c)] }
/-- Every thread of the stepped grid waits at step. -/
def stepping : State := { gridWith base (fun g => { g with stepped := true }) with issuing := [], groups := [(0, { grp with threads := List.replicate 32 { status := .blocked [.step] } })] }

theorem test_meets_RoundAndStepEventResults :
    State.reset.combines.find? 3 = none ∧ rounds.combines.find? 3 = some (combine3) ∧ (combine3).ended.find? 0 = none ∧
    (({ combine3 with ended := [(0, none)] } : Combine).ended.find? 0).isSome = true ∧ (1 : Nat) ∈ (combine3).childs ∧ rounds.snaps = [] ∧
    agreed3 = { op := (combine3).op, ty := (combine3).ty, count := (combine3).count, d := (combine3).d, dtag := (combine3).dtag } ∧
    (∃ i, i < (combine3).nlocal ∧ ((combine3).rounds.get 0 {}).locals.find? i = none) ∧ ((combine3).rounds.get 0 {}).result = none ∧ ((combine3).rounds.find? 0).bind Round.pages = none ∧
    ((combine3).rounds.get 0 {}).fail = none ∧ ((combine3).rounds.get 0 {}).up = false ∧ rounds.groups = [] ∧
    (base.allArrived 0 .step && base.gridPerformed 0) = false ∧ stepping.allArrived 0 .step = true ∧ stepping.gridPerformed 0 = true ∧
    (stepping.grids.find? 0).isSome = true ∧ (stepping.grid 0).stepLost = [] ∧ 0 ∈ stepping.groupsOf 0 ∧
    (∀ p ∈ stepping.grids, p.2.stag = 0 ∨ p.2.state ≠ .running) := by
  and_intros <;> decide +kernel

/-- A bundle of group 0 at the page's start. -/
def waiting : Bundle := { pc := 0x10000, lanes := 0xFFFFFFFF }
/-- A group whose threads stand there, with a bundle formed. -/
def fetchGroup : Group := { grp with threads := List.replicate 32 { pc := 0x10000 }, bundles := [waiting] }
/-- No clause in a slot, and a clause of add v10, v4, v5 in the page; or a header of another tag. -/
def fetching (h : Nat := 0xC1007000) : State :=
  { paged (leafOf 0 0) (tagOf 0 0 0 0) with
    issuing := [], groups := [(0, fetchGroup)], icache := [(0, [0x20000 / 128])],
    mem := Memory.writeAll [] 0x20000 (toBytes 4 h ++ toBytes 4 0x00198285) }
/-- A done event of register 9 in lanes 0 and 1, with a fault. -/
def event9 : Deferred :=
  { gid := 0, sb := 2, pc := 0, idx := 0, lanes := 3, v := [(9, LaneVals.of fun _ => 7)], faults := [{ code := .trapSw, pc := 0, deferred := true }] }
/-- A state with a done event of register 9 in lanes 0 and 1, one of an outstanding access, an SFU entry, and its group. -/
def landing (started : Bool := true) : State :=
  { base with issuing := [], groups := [(0, { grp with sb := [(2, 1)], threads := List.replicate 32 { status := .delayed 5 } })], clock := 5,
              deferred := [(4, event9),
                           (5, { gid := 0, sb := 2, pc := 0, idx := 0, wait := .accesses 1 })],
              sfu := [(0, [{ event := 4, started := started }])] }
/-- Two groups of a team, of which the first may retire. -/
def retiring : State :=
  { base with issuing := [], teams := [(0, { ctx := 0, grid := 0, groups := [0, 1] })],
              groups := [(0, { grp with threads := List.replicate 32 { status := .exited } }), (1, { grp with index := 1 })] }

/-- Whether a fetch answers a clause, leaving the state as it is. -/
def fetches (s : State) (r : Fetched × State) (h : IWord) (ws : List IWord) : Bool :=
  decide (r.2 = s) && match r.1 with
  | .ok h' ws' => decide (h' = h ∧ ws' = ws)
  | _ => false
/-- Whether it answers a fault. -/
def fetchFaults (s : State) (r : Fetched × State) (c : FaultCode) : Bool :=
  decide (r.2 = s) && match r.1 with
  | .fault d => decide (d = c)
  | _ => false

theorem test_meets_IssueAndLandingEventResults :
    (let s := fetching
     let g := s.group 0
     g.bundles.find? (fun b => b.pc.toNat == 0x10000) = some waiting ∧ s.groupIssues 0 = true ∧
     fetches s (s.fetchClause 0 0x10000) 0xC1007000 [0x00198285] = true ∧ g.missing waiting (instrsOf [0x00198285] 15) = 0 ∧ s.slotsUsed g.core < 4 ∧
     g.scoreboardReady 0xC1007000 ((instrsOf [0x00198285] 15).filter Instr.isDeferred).length = true ∧
     s.sfuTaken g.core + ((instrsOf [0x00198285] 15).filter Instr.isSfu).length ≤ 32 ∧ s.queueFull 0 waiting.lanes = false ∧
     (∀ o ∈ g.bundles, o.pc = waiting.pc → s.waitsAt 0 o = false) ∧ s.selects 0 waiting = true ∧ s.held = [] ∧ (s.groups.find? 0).isSome = true) ∧
    fetchFaults (fetching 0x41007000) ((fetching 0x41007000).fetchClause 0 0x10000) .clauseFraming = true ∧
    State.reset.groupIssues 0 = false ∧ (∀ b ∈ (State.reset.group 0).bundles, b.inSlot = false) ∧
    (landing.groups.find? 0).isSome = true ∧ (landing.group 0).threads.length = 32 ∧ landing.deferred.find? 9 = none ∧
    landing.deferred.find? 4 = some event9 ∧ event9.faults.length + (landing.group 0).queue.length ≤ 8 ∧ (landing.group 0).landedAt ≠ landing.clock ∧
    (landing.deferred.find? 5).map (·.wait) = some (.accesses 1) ∧
    landing.sfu.get 0 [] = [{ event := 4, started := true }] ∧ (landing false).sfu.get 0 [] = [{ event := 4, started := false }] ∧
    ({ landing with sfu := [(0, [{ event := 4, started := true }, { event := 5 }])] } : State).sfu.get 0 [] = [{ event := 4, started := true }, { event := 5 }] ∧
    ({ event := 5 } : SfuEntry).started = false ∧
    base.mayRetire 0 = false ∧ retiring.mayRetire 0 = true ∧
    ∃ k ∈ (retiring.team (retiring.group 0).team).groups, k ≠ 0 ∧ (retiring.group k).retired = false := by decide +kernel

/-- A clause of the slot with effects. -/
def holding (es : List Effect) (g : Group := grp) : State := { with' g fun i => { i with effects := es, words := [] } with clock := 9 }
/-- The only effect of a clause. -/
def theOnly (i : Instr) (x : LaneVals := []) (n : List Nat := []) (g : Group := grp) : State := holding [.act i 0 0xFFFFFFFF x [] [] n] g
/-- Register effects of every kind, in two lanes. -/
def registerEffects : List Effect :=
  [.v 9 3 (LaneVals.of fun _ => 7), .v 9 1 (LaneVals.of fun _ => 8), .k 2 3 (LaneVals.of fun _ => 5), .orFlags 3 (LaneVals.of fun _ => 2),
   .setFlags 1 (LaneVals.of fun _ => 4), .setDraw 3 (LaneVals.of fun _ => 6), .setPc 2 (LaneVals.of fun _ => 64), .g 1 11, .h 1 pageH, .setFpctl 5, .setGang 12]

theorem test_meets_CommitWritesRegistersInIndexOrder :
    (let s := holding registerEffects
     s.issuing = [front s] ∧ (front s).words = [] ∧ ∃ g, s.groups.find? (front s).gid = some g ∧ g.threads.length = 32) ∧
    ∀ i idx lanes x y z n, Effect.act i idx lanes x y z n ∉ (front (holding registerEffects)).effects := by
  refine ⟨⟨by decide +kernel, rfl, _, rfl, by decide +kernel⟩, ?_⟩
  intro i idx lanes x y z n h
  simp [front, holding, with', registerEffects] at h

theorem test_meets_CommittedControlInstructionResults :
    (let s := theOnly (.callx (fc 1 0) []) (LaneVals.of fun _ => 64)
     s.issuing = [front s] ∧ (front s).words = [] ∧ (s.groups.find? 0).isSome = true ∧ (s.group 0).threads.length = 32 ∧ s.snaps = [] ∧
     (front s).effects = [.act (.callx (fc 1 0) []) 0 (front s).lanes (LaneVals.of fun _ => 64) [] [] []]) ∧
    (let s := theOnly (.ret (fc 0 0) []) [] [] (tgrp 0 [4])
     (front s).effects = [.act (.ret (fc 0 0) []) 0 (front s).lanes [] [] [] []] ∧ ∀ l, l < 32 → ((s.group 0).thread l).stack = [4]) ∧
    (let s := theOnly (.exit (fc 0 0) [])
     (front s).effects = [.act (.exit (fc 0 0) []) 0 (front s).lanes [] [] [] []] ∧ (s.gridOf 0).stag = 0) ∧
    (let s := theOnly (.yield (fc 127 0) [16]) [] [16]
     (front s).effects = [.act (.yield (fc 127 0) [16]) 0 (front s).lanes [] [] [] [16]]) ∧
    (let s := theOnly (.trap (fc 127 0) [16]) [] [16]
     (front s).effects = [.act (.trap (fc 127 0) [16]) 0 (front s).lanes [] [] [] [16]] ∧ (s.group 0).queue.length < 8 ∧ (s.group 0).landedAt ≠ s.clock) ∧
    (let s := theOnly (.step (fc 0 0) [])
     (front s).effects = [.act (.step (fc 0 0) []) 0 (front s).lanes [] [] [] []] ∧ s.accessesDone 0 (front s).lanes = true ∧
     ∀ l, l < 32 → ((s.group 0).thread l).status = .ready) ∧
    (let s := theOnly (.barSync (fc 127 127) [3, 2]) [] [3, 2]
     (front s).effects = [.act (.barSync (fc 127 127) [3, 2]) 0 (front s).lanes [] [] [] [3, 2]] ∧
     ∃ team, s.teams.find? (s.group 0).team = some team ∧ team.groups = [0] ∧ team.barriers.find? 3 = none ∧
     ∀ l, l < 32 → ((s.group 0).thread l).pending = []) := by
  and_intros <;> decide +kernel

/-- A fault at the clause at 64 in lanes 0 and 1; one that an instruction left behind. -/
def preciseFault (c : FaultCode := .illegalOpcode) : FaultRec := { code := c, pc := 64, lanes := 3, bundle := 3 }
def queuedFault : FaultRec := { preciseFault .trapSw with deferred := true }
/-- No clause in a slot, and group 0 with a fault due, under a context whose handler is at an address and covers every code. -/
def trapped (f : Option FaultRec) (handler : Nat := 128) (debug : Nat := 0) : State :=
  { withRecord base (2 ^ 10 + debug * 2 ^ 12 + 0xFFFF * 2 ^ 13 + handler * 2 ^ 384) with
              issuing := [],
              groups := [(0, { grp with threads := List.replicate 16 {} ++ List.replicate 16 { status := .exited }, precise := f.toList })] }

theorem test_meets_TrapEntryTakesTheNextFault :
    (let s := trapped (some preciseFault)
     let g := s.group 0
     let c := s.ctx 0
     s.groups.find? 0 = some g ∧ g.threads.length = 32 ∧ g.resident = true ∧ (s.teamOf 0).saving = false ∧ s.ctxIssues (s.ctxOf 0) = true ∧ s.issuing = [] ∧
     s.resultsLanded 0 = true ∧ s.latches = [] ∧ s.latchWaits = [] ∧ g.taking.or g.nextFault = some preciseFault ∧ c.debug = false ∧ c.handler ≠ 0 ∧
     bitAt c.hmask (preciseFault.code.num / 8) = true ∧ g.inHandler = false) ∧
    (((trapped none).group 0).taking.or ((trapped none).group 0).nextFault) = none ∧
    ({ trapped (some preciseFault) with deferred := [(4, { event9 with result := true })] } : State).resultsLanded 0 = false ∧ ((trapped (some preciseFault) 0).ctx 0).handler = 0 ∧
    (((trapped (some (preciseFault .breakpoint)) 128 1).group 0).nextFault = some (preciseFault .breakpoint)) ∧ ((trapped (some (preciseFault .breakpoint)) 128 1).group 0).inHandler = false ∧
    ((trapped (some (preciseFault .breakpoint)) 128 1).ctx 0).debug = true ∧ base.issuing ≠ [] := by decide +kernel

/-- The threads 0 and 1 of group 0 in the handler, thread 0 exited before and thread 1 with a wait of its own; the others held. -/
def handling : Group :=
  { grp with inHandler := true, handlerLanes := 3,
             threads := [{ fromExit := true }, { epc := 32, suspended := [.step] }] ++ List.replicate 30 { status := .held [.step] } }
/-- Their clause with its one tret. -/
def returning (a : BitVec 7) : State :=
  with' handling fun i => { i with words := [], lanes := 3, effects := [.act (.tret (fc a 0) []) 0 3 (LaneVals.of fun _ => 96) [] [] []] }

theorem test_meets_TretReturnsFromTheHandler :
    (let s := returning 120
     let i := front s
     s.issuing = [i] ∧ i.words = [] ∧ s.accesses = [] ∧ (s.groups.find? i.gid).isSome = true ∧ (s.group 0).threads.length = 32 ∧
     i.effects = [.act (.tret (fc 120 0) []) 0 i.lanes (LaneVals.of fun _ => 96) [] [] []] ∧ (s.group 0).inHandler = true ∧
     (s.group 0).handlerLanes = i.lanes ∧ ((s.group 0).thread 0).fromExit = true ∧ ((s.group 0).thread 1).fromExit = false ∧
     ((s.group 0).thread 31).status = .held [.step]) ∧
    (front (returning 1)).effects = [.act (.tret (fc 1 0) []) 0 3 (LaneVals.of fun _ => 96) [] [] []] := by decide +kernel

/-- A page's tag with no pointer but the first. -/
def tagPtr0 (st cls reach chip : Nat) (more : Nat := 0xFFFFFFFFF) : BitVec 64 := tagOf st cls reach (chip + more * 4096)
/-- The page with a tag. -/
def home (t : BitVec 64) : State := paged (leafOf 0 1) t
/-- Its first grain shared by chips 2 and 3, and that grain's transaction waiting for two acknowledgements. -/
def sharedHome : State := home (tagPtr0 1 0 1 2 0xFFFFFF003)
def busyHome : State :=
  { sharedHome with txns := [(256, { chip := 1, getM := true, acks := [2, 3], next := tagPtr0 4 0 1 1, nextDirty := tagPtr0 4 0 1 1 })] }

theorem test_meets_HomeProtocolEventResults :
    (let s := home (tagOf 0 0 1 0)
     let u := s.adoptAs 256 4 1
     let t := u.tag 256
     s.epoch < 2 ∧ 1 ≤ s.epoch ∧ s.engineOf 256 = none ∧ s.txns.find? 256 = none ∧ s.remoteOps = [] ∧ s.stalledFor 1 0x20000 = false ∧ s.replicaStores.find? 256 = none ∧
     (1 : Nat) ≠ s.chip ∧ tagClass t < 2 ∧ tagReach t ≠ 0 ∧ tagState t = 0 ∧ leafAgrees t 4 = true ∧ leafAgrees t 8 = false ∧ u.hostMayHold 256 = false) ∧
    (let t := ((home (tagOf 0 0 0 1)).adoptAs 256 0 1).tag 256
     leafAgrees t 0 = true ∧ tagReach t = 0) ∧
    (let s := { home (tagOf 0 0 2 1) with cfg := [(0x50, 2 ^ 11)] }
     leafAgrees ((s.adoptAs 256 8 1).tag 256) 8 = true ∧ (s.adoptAs 256 8 1).hostMayHold 256 = true) ∧
    (let s := sharedHome
     tagState (s.tag 256) = 1 ∧ s.sharers (s.tag 256) 0 = [2, 3] ∧ s.txns.find? 256 = none ∧ tagPtr (s.tag 256) 0 ≠ 1) ∧
    (busyHome.txns.find? 256).isSome = true ∧ ((busyHome.txns.find? 256).map fun x => x.acks.erase 2) = some [3] ∧ busyHome.waitingReqs.find? 256 = none ∧
    (let t := (home (tagPtr0 4 0 1 1)).tag 256
     tagPtr t 0 = 1 ∧ tagState t = 4) ∧
    (let s := home (tagPtr0 3 0 1 1 0xFFFFFF002)
     tagPtr (s.tag 256) 0 = 1 ∧ tagState (s.tag 256) = 3 ∧ s.sharers (s.tag 256) 1 = [2]) := by decide +kernel

/-- Chip 1's grain 256 + 2 ^ 31 held in a state, or asked for. -/
def away : Nat := 2 ^ 31 + 256
def holder (h : Option HeldState) : State :=
  { base with held := h.toList.map fun h => (away, h), requested := [(away + 1, false)], tags := [(away, tagPtr0 4 0 1 0)],
              mem := Memory.writeAll [] (away * 512) [7], sectors := [(away * 4, { rts := 9 })], hostLines := [(8, List.replicate 64 1)] }

theorem test_meets_HolderAndLeaseEventResults :
    chipOf (away * 512) = 1 ∧ (holder none).chip = 0 ∧ (holder none).engineOf away = none ∧ (holder none).held.find? away = none ∧
    (holder (some .m)).held.find? away = some .m ∧ (holder (some .e)).held.find? away = some .e ∧ (holder none).accesses = [] ∧
    ((holder none).requested.find? (away + 1)).isSome = true ∧ grainOf (away * 512) = away ∧ (holder none).rebaseDue = false ∧
    ({ base with ltsBase := base.rebaseAt } : State).rebaseDue = true ∧ base.engineGrains = [] ∧ base.accesses = [] ∧
    (holder none).hostLines.find? (512 / 64) = some (List.replicate 64 1) ∧ (holder none).hostLines.find? 9 = none ∧
    tagLock (tagPtr0 4 0 1 0) = false ∧ tagClass (tagPtr0 4 0 1 0) ≠ 3 ∧
    (holder none).held.length < (holder none).l2Grains ∧ ((holder none).clean away).held.find? away = none ∧ (holder none).requested.find? away = none ∧
    ((holder (some .m)).clean away).held.find? away = some .m ∧ (away + 1) ∉ (holder none).overtaken ∧
    ({ holder none with overtaken := [away + 1] } : State).overtaken = [away + 1] := by decide +kernel

/-- An atomic add of lane 0 on the page, and a wait for its first word not to be 1. -/
def atomicAdd (scope : Nat := 2) (l : Leaf := leafOf 0 0) : Access :=
  { pendingLoad l with op := .atomic 0 0 true [5], scope := scope }
def waitNot1 : Access := { pendingLoad with op := .await 1 4 1 }
/-- A load from the host that has been sent. -/
def hostLoad : Access := { pendingLoad with pa := 0x3000, pte := 2 ^ 56, op := .load false, sent := true }
/-- A load of a write-once grain that is not full, and its event. -/
def wsLoad : Access := { pendingLoad (leafOf 2 0) with event := some 4, limit := 10 }
/-- A state with one access, thread 0 of group 0 in its wait. -/
def accessing (s : State) (a : Access) : State :=
  { s with accesses := [a], groups := [(0, { grp with threads := { status := .blocked [.await 7] } :: List.replicate 31 {} })] }
/-- A wait for a move, begun at 0 with a limit of 8 MCLK. -/
def moveWait : State := { base with deferred := [(4, { gid := 0, sb := 7, pc := 0, idx := 0, limit := 8, wait := .condition (.mvwait rm []) [0] })], clock := 8 }

/-- Whether an attempt performs its access. -/
def isDone (r : Perf) : Bool :=
  match r with
  | .done .. => true
  | _ => false

theorem test_meets_AtomicUnitAndWaitEventResults :
    base.accesses = [] ∧ (accessing scPage (atomicAdd 2)).atomUnit 0x20000 (leafOf 0 0).pte 2 = .slice ∧
    (accessing scPage (atomicAdd 1 (leafOf 1 0))).atomUnit 0x20000 (leafOf 1 0).pte 1 = .engine ∧
    (accessing scPage (atomicAdd 2)).orderHeld (atomicAdd 2) = false ∧ (accessing scPage (atomicAdd 2)).eager (atomicAdd 2) = false ∧ (accessing scPage (atomicAdd 2)).remoteOps = [] ∧ (atomicAdd 2).writes = true ∧
    (let s := accessing scPage waitNot1
     let later := { waitNot1 with tested := 5000 }
     s.accesses.find? (fun a => a.id == 7) = some waitNot1 ∧ s.isParked waitNot1 = true ∧ s.orderHeld waitNot1 = false ∧ waitNot1.stale = false ∧
     isDone (s.attempt waitNot1) = true ∧ isDone (({ accessing scPage later with clock := 5000 } : State).attempt later) = true ∧
     waitNot1.tested + 4096 ≤ 5000 ∧ s.clock < waitNot1.tested + 4096 ∧ (s.group 0).threads.length = 32 ∧ ((s.group 0).thread 0).status = .blocked [.await 7]) ∧
    (let s := { accessing wsEmpty wsLoad with clock := 10 }
     s.overdue wsLoad = true ∧ s.accesses = [wsLoad] ∧ wsLoad.event = some 4) ∧ (accessing wsEmpty wsLoad).overdue wsLoad = false ∧
    (moveWait.deferred.find? 4).map (·.wait) = some (.condition (.mvwait rm []) [0]) ∧
    (accessing base hostLoad).accesses.find? (fun a => a.id == 7 && a.sent && pteHost a.pte) = some hostLoad ∧ 7 < snoopId ∧
    base.cxlCache = false := by decide +kernel

/-- A page whose write-once first grain is claimed by cluster 0 of this chip with its first four bytes written, by another cluster, or full. -/
def claimed (st cluster mask : Nat) : State := { paged (leafOf 2 0) (tagOf st 2 0 (cluster * 4096)) with wsMask := [(256, mask)] }
/-- A store of four bytes. -/
def pendingStore (l : Leaf := leafOf 0 0) (core : Nat := 0) : Access := { pendingLoad l with op := .store [1, 2, 3, 4], core := core }

theorem test_meets_PerformedLoadsAndStoresMoveTheirBytes :
    scPage.MemoryCanonical ∧ wsEmpty.MemoryCanonical ∧
    (let s := scPage
     let t := s.tag 256
     tagLock t = false ∧ s.txns.find? 256 = none ∧ s.replicaStores.find? 256 = none ∧ s.engineOf 256 = none ∧
     s.putting.contains 256 = false ∧ s.held.find? 256 ≠ some .u ∧ s.hostMayHold 256 = false ∧
     (s.lines.filter fun l => keyCluster l.1 == 0).length + s.waysGone (· == wayUnit true 0) < cacheLines ∧ (pteBit (leafOf 0 0).pte 9 = true → chipOf 0x20000 = s.chip) ∧
     agrees t (leafOf 0 0).pte = true ∧ agrees t (leafOf 1 0).pte = false ∧ s.mayRead 256 = true ∧ s.mayWrite 256 = true ∧ s.rebaseDue = false ∧
     s.lines.find? (lineKey 0 0x20000) = none ∧ tagPoison t = false ∧ pteBit (leafOf 0 0).pte 9 = false ∧ s.works = []) ∧
    tagPoison (tagOf 4 0 0 0) = false ∧ tagPoison (tagOf 4 0 0 0 ||| 1024) = true ∧
    (let s := wsEmpty
     agrees (s.tag 256) (leafOf 2 0).pte = true ∧ tagState (s.tag 256) ≠ 7 ∧ s.mayRead 256 = true) ∧
    tagState (wsPage.tag 256) = 7 ∧
    (let t := (claimed 6 0 15).tag 256
     tagState (wsEmpty.tag 256) = 5 ∧ tagState t = 6 ∧ tagPtr t 0 = 0 ∧ tagPtr t 1 % 512 = 0 ∧ (claimed 6 0 15).wsMask.get 256 0 &&& grainMask 0x20000 4 ≠ 0 ∧
     (claimed 6 0 0).wsMask.get 256 0 &&& grainMask 0x20000 4 = 0 ∧ tagPtr ((claimed 6 1 0).tag 256) 1 % 512 ≠ 0) ∧
    agrees (ipPage.tag 256) (leafOf 3 0).pte = true ∧ tagPtr (ipPage.tag 256) 1 ≠ 1 ∧ tagPtr (ipPage.tag 256) 1 = 0 := by decide +kernel

theorem test_meets_PerformedAtomicsWriteTheValueOfTheTable :
    (atomicAdd).op = .atomic 0 0 true [5] ∧ (atomicAdd).size = atomBits 0 / 8 ∧ scPage.atomUnit 0x20000 (leafOf 0 0).pte 2 = .slice ∧
    scPage.mayWrite 256 = true ∧ agrees (scPage.tag 256) (leafOf 0 0).pte = true ∧ pteBit (leafOf 0 0).pte 9 = false ∧ scPage.rebaseDue = false ∧
    (let s := { paged (leafOf 1 0) (tagOf 0 1 0 0) with engineGrains := [(engineKey 0 256, { stamp := 0, used := 0 })] }
     s.atomUnit 0x20000 (leafOf 1 0).pte 1 = .engine ∧ tagFree (s.tag 256) = false ∧ (s.engineGrains.find? (engineKey 0 256)).isSome = true) ∧
    scPage.MemoryCanonical := by decide +kernel

/-- A kill raised by a fault, and a halt. -/
def killReq : KillReq := { code := .ctxKill, cause := 5 }
def haltReq : KillReq := { code := .breakpoint, cause := 3 }
/-- Context 0 changed, group 0 between clauses. -/
def context (f : Ctx → Ctx) (s : State := { base with issuing := [] }) : State := { s with ctxs := s.ctxs.map fun p => (p.1, f p.2) }
/-- Team 0 to be saved, standing still. -/
def toSave : State := { base with issuing := [], teams := [(0, { ctx := 0, grid := 0, groups := [0], saving := true })] }

theorem test_meets_ContextKillDrainAndSaveEventResults :
    (commanded { migrate0 none with moving := some (0, true) }).movesPage 0 = true ∧ base.chosenKill (base.ctx 0) = none ∧ base.quiet (base.ctxGroups 0) = false ∧
    (let s := context fun c => { c with kills := [killReq] }
     s.movesPage 0 = false ∧ s.chosenKill (s.ctx 0) = some killReq ∧ (s.ctx 0).status = .live ∧ s.quiet (s.ctxGroups 0) = true ∧ killReq.cause ≠ 3) ∧
    (let s := context fun c => { c with kills := [haltReq] }
     s.chosenKill (s.ctx 0) = some haltReq ∧ haltReq.cause = 3) ∧
    (let s := context fun c => { c with status := .draining }
     (s.ctx 0).status = .draining ∧ (s.ctx 0).drainSince + s.cfgVal 0x20 * 1400 ≤ 2 ^ 40 ∧ s.clock < (s.ctx 0).drainSince + s.cfgVal 0x20 * 1400) ∧
    (base.team 0).saving = false ∧
    (let s := toSave
     (s.team 0).status = .resident ∧ (s.team 0).saving = true ∧ s.canSave 0 = true ∧ (s.team 0).ctx = 0 ∧ (s.ctx 0).status = .live ∧ s.works = [] ∧
     s.commands = [] ∧ s.latches = [] ∧ s.latchWaits = []) ∧
    (State.reset.ctx 5).status = .free ∧ State.reset.inReset = false ∧ State.reset.recovery = false ∧ recordBad (State.reset.recordOf 5) 4 = false ∧
    (let s := { State.reset with mem := Memory.writeAll [] (State.reset.cfgVal 0x09 + 128 * 5 + 48) [1] }
     recordBad (s.recordOf 5) 4 = true) := by decide +kernel

/-- Its conditions hold at reset, where chip 0 is this module. -/
theorem test_meets_ContextKillDrainAndSaveEventResults_self : State.reset.isSelf State.reset.chip = true := reset_isSelf

/-- An event of a fault. -/
def event0 : HostEvent := { kind := 0 }

theorem test_meets_ControlBlockCommandResults :
    base.recovery = false ∧ base.inReset = false ∧ (base.ctx 0).status = .live ∧ base.residentTeams 0 ≠ [] ∧ base.cfgVal 0x20 ≠ 0 ∧
    (let s := context fun c => { c with status := .halted, haltedFrom := .live }
     (s.ctx 0).status = .halted ∧ (s.ctx 0).haltedFrom = .live) ∧
    ((context fun c => { c with status := .killed }).ctx 0).status = .killed ∧ (base.ctx 1).status = .free ∧
    (base.ctx 0).walks.find? 15 = none ∧ (64 : BitVec 64).toNat % 64 = 0 ∧ (65 : BitVec 64).toNat % 64 ≠ 0 ∧
    (let s := context fun c => { c with walks := [(0, {})] }
     ∃ w, (s.ctx 0).walks.find? 0 = some w ∧ w.state ≠ .ended) ∧
    (base.ctx 0).events = [] ∧
    (let s := context fun c => { c with events := [event0] }
     (s.ctx 0).events = [event0] ∧ (s.ctx 0).areaFull = false ∧ s.hostLines = [] ∧ event0.kind ≠ 1) ∧
    (let s := context fun c => { c with events := [event0], producer := 16 }
     (s.ctx 0).areaFull = true) := by
  and_intros <;> decide +kernel

/-- A grid of one team, its arguments in the page. -/
def launching (f : Grid → Grid := id) : State :=
  { walked win with issuing := [], teams := [], groups := [], nextId := 20,
                    grids := [(0, f { ctx := 0, teams := 1, argVa := 0x10000, kernel := { entry := 64 } })] }
/-- Team 0 of a grid, all its threads blocked, takes every A-bank of its core; team 1, saved, may resume beside it only. -/
def starving : State :=
  { base with issuing := [], clock := 2 ^ 30, grids := [(0, { ctx := 0, teams := 2, placed := 2, state := .running, starvedSince := some 0 })],
              teams := [(0, { ctx := 0, grid := 0, groups := [0], abanks := 16 }),
                        (1, { ctx := 0, grid := 0, index := 1, groups := [1], abanks := 1, wsub := 1, status := .saved })],
              groups := [(0, { grp with threads := List.replicate 32 { status := .blocked [.step] } }), (1, { grp with team := 1, resident := false })] }
/-- The same with a team that fits nowhere. -/
def hopeless : State :=
  { starving with teams := [(0, { ctx := 0, grid := 0, groups := [0] })],
                  grids := [(0, { ctx := 0, teams := 2, placed := 1, state := .running, starvedSince := some 0, kernel := { cbanks := 17 } })] }
/-- A grid whose team has retired; one that wants its digest read from the page. -/
def ending (f : Grid → Grid := id) : State :=
  { launching fun g => f { g with placed := 1, retired := [0], state := .running } with groups := [] }
/-- The digest area: a count of entries, and one entry of 64 bytes of the page, SC bytes compared as they are. -/
def digestArea (n : Nat) : State :=
  let s := ending fun g => { g with digestVa := 0x10000 }
  { s with mem := Memory.writeAll s.mem 0x20000 (le [n, 0, 0x10000, 64]) }

/-- Whether a read answers bytes. -/
def readsAs (r : EngR) (p : List Byte → State → Bool) : Bool :=
  match r with
  | .ok bs u => p bs u
  | _ => false

theorem test_meets_PlacementAndGridEventResults :
    (State.reset.candidatesOf 0).find? (fun c => c.index == 0) = none ∧
    (let s := launching
     (s.candidatesOf 0).find? (fun c => c.index == 0) = some { grid := 0, index := 0 } ∧ s.withheld = false ∧ s.isFirst { grid := 0, index := 0 } = true ∧
     [5].headD 0 / 4 = 1 ∧ s.measuredLimits 0 = false ∧ (s.grid 0).stepped = false ∧ s.shareAllows 0 1 = true ∧
     s.coresFit (s.grid 0).kernel [5] = true ∧ readsAs (s.walkRead (gridReader 0) 0 0x10000 16) (fun _ _ => true) = true) ∧
    ({ launching with gate := 1 } : State).withheld = true ∧ ((launching fun g => { g with stepped := true }).candidatesOf 0).length = 1 ∧
    (base.grid 0).starvedSince = none ∧ starving.cfgVal 0x30 ≤ starving.clock := by decide +kernel

theorem test_meets_PlacementAndGridEventResults_starving :
    starving.starves 0 = true ∧ starving.lowestWaiting 0 = some { grid := 0, index := 1, saved := some 1 } ∧
    starving.swapVictim 0 { grid := 0, index := 1, saved := some 1 } = some (0, [0]) ∧ starving.canSave 0 = true ∧
    readsAs ((starving.saveTeam 0).placeOne { grid := 0, index := 1, saved := some 1 } [0]) (fun _ _ => true) = true ∧
    hopeless.starves 0 = true ∧ hopeless.lowestWaiting 0 = some { grid := 0, index := 1 } ∧ hopeless.swapVictim 0 { grid := 0, index := 1 } = none := by
  decide +kernel

theorem test_meets_PlacementAndGridEventResults_ending :
    (let s := ending
     (s.grid 0).state = .running ∧ s.teamsDone 0 = true ∧ (s.grid 0).wantsDigest = false ∧ s.gridPerformed 0 = true ∧ (s.grid 0).walk = none) ∧
    launching.teamsDone 0 = false ∧
    (let s := digestArea 1
     (s.grid 0).wantsDigest = true ∧ s.teamsDone 0 = true ∧ s.gridPerformed 0 = true ∧ s.commands = [] ∧
     readsAs (s.walkRead (gridReader 0) 0 0x10000 16) (fun bs u => decide (ofBytes bs = 1) && readsAs (u.walkRead (gridReader 0) 0 0x10000 32) fun bs _ =>
       entriesOk (digestEntries 1 bs)) = true) ∧
    readsAs ((digestArea 65).walkRead (gridReader 0) 0 0x10000 16) (fun bs _ => decide (ofBytes bs = 65)) = true := by decide +kernel

/-- A walk in slot 0 that visits the node at the page's start, of the words given; at 0x10080 the descriptor of a kernel of one group at 0x10000, at
0x10100 its argument block; context 0 with an event area; combine context 3. -/
def visiting (ws : List Nat) (node : Nat := 0x10000) (status : CtxStatus := .live) : State :=
  let s := walked (initiator [] 1)
  { s with mem := Memory.writeAll s.mem 0x20000 (le (ws ++ List.replicate (16 - ws.length) 0 ++ [0x10000, 65, 0, 0, 0x0100] ++ List.replicate 11 0 ++
                    [16 + 0x0100 * 2 ^ 32, 0])),
           ctxs := s.ctxs.map fun p => (p.1, { p.2 with status := status, walks := [(0, { node := node })], record := p.2.record ||| (4096 <<< 640) }),
           combines := [(3, combine3)], nextId := 30, issuing := [] }
/-- The state once the node's record and its ranges are read. -/
def visited (ws : List Nat) : State :=
  match ((visiting ws).acquireAll 288 2).walkRead (walkReader 0 0) 0 0x10000 64 with
  | .ok _ v =>
    match v.walkRead (walkReader 0 0) 0 0 0 with
    | .ok _ u => u.modWalk 0 0 fun y => { y with record := some ws, listed := true }
    | _ => State.reset
  | _ => State.reset
/-- Nodes: GRID; COPY of 4,096 bytes, and to a misaligned address; COLL of context 3 and of none; COND; SNAP; HOSTSIG; END. -/
def gridNode' : List Nat := [1, 0x10040, 0, 0x10080, 0x10100, 0, 0, 0]
def copyNode (dst : Nat := 0x11000) : List Nat := [2, 0x10040, 0, 0x10000, dst, 4096, 0, 0]
def collNode (x : Nat := 3) : List Nat := [3, 0x10040, 0, x, 0x10000, 0x10000, 0, 0]
def condNode (kind : Nat) : List Nat := [kind, 0x10040, 0, 0x10100, 5, 4, 0x10080, 0]
def snapNode : List Nat := [6, 0x10040, 0, 7 * 2 ^ 32, 0, 0, 0, 0]
def sigNode : List Nat := [7, 0x10040, 0, 77, 3, 0, 0, 0]
def endNode : List Nat := [0, 0, 0, 0, 0, 0, 0, 0]

/-- Whether a node is well formed and its record is read. -/
def readsNode (ws : List Nat) : Bool :=
  !({ words := ws } : Node).malformed && readsAs (((visiting ws).acquireAll 288 2).walkRead (walkReader 0 0) 0 0x10000 64) fun bs v =>
    decide (wordsOf bs = ws ∧ (((v.ctx 0).walks.find? 0).map Walk.listed).getD false = false) && readsAs (v.walkRead (walkReader 0 0) 0 0 0) fun _ _ => true
/-- Whether a launch starts, and whether it is refused. -/
def starts (r : Launched) : Bool :=
  match r with
  | .started .. => true
  | _ => false
def refuses (r : Launched) : Bool :=
  match r with
  | .refused .. => true
  | _ => false

theorem test_meets_NodeVisitResults :
    (readsNode gridNode' && readsNode (copyNode) && readsNode (copyNode 0x11001) && readsNode (collNode) && readsNode (collNode 4) &&
      readsNode (condNode 4) && readsNode (condNode 5) && readsNode snapNode && readsNode sigNode && readsNode endNode) = true ∧
    State.reset.ctx 0 = {} ∧ ((visiting endNode).ctx 0).kills = [] ∧ ((visiting endNode).ctx 0).walks.find? 0 = some { node := 0x10000 } ∧ ((visiting endNode 0x10000 .saved).ctx 0).status ≠ .live ∧
    readsAs (((visiting [8]).acquireAll 288 2).walkRead (walkReader 0 0) 0 0x10000 64) (fun bs _ => ({ words := wordsOf bs } : Node).malformed) = true ∧
    starts ((visited gridNode').launchGrid 0 0x10000 (some 0) none { words := gridNode' }) = true ∧
    refuses ((visited gridNode').launchGrid 0 0x10000 (some 0) none { words := [1, 0, 0, 0x10100, 0x10100, 0, 0, 0] }) = true := by decide +kernel

theorem test_meets_NodeVisitResults_reads :
    ((visited (copyNode)).copiesHeld 0).length < 32 ∧ (visited (collNode 4)).combines.find? 4 = none ∧
    (visited (collNode)).combines.find? 3 = some (combine3) ∧ 0 < (combine3).nlocal ∧ ((combine3).memberRound 0).2 = false ∧
    readsAs ((visited (collNode)).walkRead (walkReader 0 0) 0 0x10000 (combine3).bytes) (fun _ _ => true) = true ∧
    readsAs ((visited (condNode 4)).walkRead (walkReader 0 0) 0 0x10100 8) (fun _ _ => true) = true ∧
    (visited snapNode).snapCheck ((visited snapNode).ctx 0) 0 = none ∧ (visited snapNode).snapCheck ((visited snapNode).ctx 0) 1 = some .snapState ∧
    ((visited sigNode).ctx 0).eventArea ≠ 0 ∧ ((visited sigNode).ctx 0).walks.find? 0 = some { node := 0x10000, record := some sigNode, listed := true } := by decide +kernel

/-- A record of 16 bytes in the lake. -/
def lakeRec : LakeRec := { ty := 1, key := 0, body := List.replicate 16 0 }
/-- A domain of chips from 0 on, n of them, with a lake of 1 MiB, no clause in a slot, and a colour's slot. -/
def snapping (c : Nat) (x : Snap) (n : Nat := 1) (gib : Nat := 1) : State :=
  { withRecord base (2 ^ 11) with issuing := [], cfg := [(0x56, BitVec.ofNat 64 gib), (0x72, 2 ^ 20), (0x75, BitVec.ofNat 64 n)], snaps := [(c, x)], clock := 1 }
/-- A frame of a page, in HBM or in the tier. -/
def snapFrame (tier : Bool) : SnapFrame := { tier := tier, base := 0x20000, size := 4096 }
/-- A sweep of that frame whose first grain has a tag. -/
def sweeping (t : BitVec 64) (tier : Bool := false) (read : Bool := false) : State :=
  { snapping 0 { state := 2, epoch := 2, frames := [snapFrame tier], read := read } with tags := [(256, t)], epoch := 2 }

theorem test_meets_SnapshotEventResults :
    (∀ p ∈ base.snaps, p.2.state ≠ 1) ∧
    (let s := snapping 0 { state := 1, epoch := 2 }
     s.snaps.find? 0 = some { state := 1, epoch := 2 } ∧ s.remoteOps = [] ∧ (∀ p ∈ s.snaps, p.1 ≠ 0 → p.2.state ≠ 1) ∧ s.domQuiet = true) ∧
    (let s := { snapping 0 { state := 1 } with issuing := [clause] }
     s.domQuiet = false) ∧
    (let s := snapping 0 { state := 2 }
     (s.snap 0).swept = false ∧ (s.snap 0).marks = [] ∧ grainAt (s.snap 0).frames (s.snap 0).sweepAt = none) ∧
    (let s := sweeping (tagOf 0 0 0 0)
     (s.snap 0).state = 2 ∧ (s.snap 0).swept = false ∧ grainAt (s.snap 0).frames (s.snap 0).sweepAt = some (false, 256) ∧ chipOf (256 * 512) = s.chip ∧
     s.txns.find? 256 = none ∧ s.engineOf 256 = none ∧ heldElsewhere s.chip (s.tag 256) = false) ∧
    (let s := sweeping (tagPtr0 4 0 1 1)
     (s.snap 0).read = false ∧ tagFree (s.tag 256) = false ∧ heldElsewhere s.chip (s.tag 256) = true ∧ (s.lacking false 256 (tagEpoch (s.tag 256))).isSome = true) ∧
    (let s := sweeping 0 true
     grainAt (s.snap 0).frames (s.snap 0).sweepAt = some (true, 256)) ∧ ((sweeping 0 false true).snap 0).read = true ∧
    grainAt [{ snapFrame false with base := 2 ^ 40 }] 0 = some (false, 2 ^ 31) ∧ chipOf (2 ^ 31 * 512) ≠ base.chip ∧
    (let s := snapping 1 { state := 2, staged := [lakeRec] }
     s.snaps = [(1, { state := 2, staged := [lakeRec] })] ∧ bitAt (s.cfgVal 0x71) 52 = false ∧ lakeUsed [] + lakeRec.size ≤ s.halfSize ∧
     bits (s.cfgVal 0x71) 51 0 + 1 * s.halfSize + lakeUsed [] + lakeRec.size ≤ s.cfgVal 0x56 * 2 ^ 30 ∧
     (snapping 1 {} 1 0).cfgVal 0x56 * 2 ^ 30 < bits (s.cfgVal 0x71) 51 0 + 1 * s.halfSize + lakeUsed [] + lakeRec.size) ∧
    ({ snapping 1 {} with cfg := [] } : State).halfSize < lakeUsed [] + lakeRec.size := by decide +kernel

theorem test_meets_SnapshotEventResults_notices :
    (let s := snapping 1 { state := 2, swept := true, initiator := 1 }
     (s.snap 1).awaiting = [] ∧ (s.snap 1).staged = [] ∧ lakeUsed [] + (endRecord []).size ≤ s.halfSize ∧ (s.snap 1).initiator ≠ s.chip ∧
     bitAt (s.cfgVal 0x71) 52 = false ∧ bits (s.cfgVal 0x71) 51 0 + 1 * s.halfSize + lakeUsed [] + (endRecord []).size ≤ s.cfgVal 0x56 * 2 ^ 30) ∧
    (let s := snapping 0 { state := 3 } 2
     ∃ d ∈ s.domChips, d ≠ 0 ∧ d ∉ (s.snap 0).reports) ∧
    (let s := snapping 0 { state := 3, reports := [0] } 2
     (∀ d ∈ s.domChips, d = 1 ∨ d ∈ (s.snap 0).reports) ∧ lakeUsed (s.snap 0).lake + 32 ≤ s.halfSize ∧
     bits (s.cfgVal 0x71) 51 0 + 0 * s.halfSize + lakeUsed (s.snap 0).lake + 32 ≤ s.cfgVal 0x56 * 2 ^ 30) ∧
    (let s := { snapping 0 { state := 2, initiator := 1 } with cfg := [(0x73, 1)] }
     s.cfgVal 0x73 ≠ s.chip ∧ (s.snap 0).initiator ≠ s.chip) ∧ base.cfgVal 0x73 = base.chip ∧ base.cfgVal 0x77 = 0 ∧ (snapping 0 { state := 1 }).remoteOps = [] ∧
    (let s := { snapping 0 { state := 4, epoch := 2 } with snapSaved := [(0, {})] }
     (s.snap 0).state = 4 ∧ s.snapSaved.find? 0 = some {} ∧ ({} : Saved).commands = [] ∧ ({} : Saved).combines = [] ∧ s.commands = []) ∧ base.snapSaved.find? 0 = none ∧ base.anyLive = true ∧
    (snapping 0 { state := 6, swept := true }).snap 0 = { state := 6, swept := true } := by decide +kernel

theorem test_meets_HostWindowEventResults :
    base.recovery = false ∧ base.inReset = false ∧ ({ base with recovery := true } : State).recovery = true ∧
    (cfgInfo 0x3F = none) ∧ ((cfgInfo 0x20).map (·.ro)) = some false ∧ ((cfgInfo 0x54).map (·.ro)) = some false ∧
    (∃ c ∈ grantOf (base.grants.get 0 0).toNat ++ grantOf (2 ^ 10), (base.ctx c).status = .live) ∧
    (∀ c ∈ grantOf (base.grants.get 15 0).toNat ++ grantOf (2 ^ 10 + 1), (base.ctx c).status ≠ .live) ∧
    (let s := paged (leafOf 0 2) (tagOf 0 0 2 0)
     s.systemGrains (s.chip * 2 ^ 40 + 0x20000 % 2 ^ 40) 64 = [256] ∧ s.lines = [] ∧ s.hostClean.find? 256 ≠ some false ∧ s.grainBusy 256 = false ∧
     s.engineOf 256 = none ∧ s.mayRead 256 = true ∧ heldElsewhere s.chip (s.tag 256) = false ∧ busyHome.grainBusy 256 = true ∧
     256 ∈ grainsOf [(s.chip * 2 ^ 40 + 0x20000, 64)] ∧ ({ s with hostClean := [(256, false)] } : State).hostClean.find? 256 = some false) ∧
    (∀ g ∈ grainsOf [(base.chip * 2 ^ 40 + 0x20000, 64)], base.grainBusy g = false) ∧
    (∀ p ∈ grainPieces (base.chip * 2 ^ 40 + 0x20000) 64, base.replicaList p.1 = []) ∧
    base.systemGrains (base.chip * 2 ^ 40 + 0x20000) 64 = [] ∧ base.accesses = [] ∧ base.MemoryCanonical ∧
    (linkTrained false 0x106).isSome = true ∧ (linkTrained false 0x1706).isSome = true ∧ linkTrained false 0 = none ∧ (linkTrained true 0xB06).isSome = true ∧
    bitAt ((linkTrained false 0x706).getD 0) 10 = true ∧ bitAt ((linkTrained false 0x106).getD 0) 10 = false ∧ linkTrained true 0x106 = none := by decide +kernel

/-- The entry of this module found first names this chip, as long as entry 0 stays. -/
theorem test_meets_HostWindowEventResults_placement (u : State) (h : u = { State.reset with place := State.reset.place.insert 1 (0 &&& 0x1FFFF) }) :
    (List.range 4096).find? u.isSelf = some u.chip := by
  have h0 : u.isSelf 0 = true := by
    rw [h]
    exact reset_isSelf
  rw [show List.range 4096 = 0 :: (List.range 4095).map Nat.succ from List.range_succ_eq_map, List.find?_cons_of_pos h0, h]
  rfl

/-- Errors at an HBM address, in an instruction cache, a cluster cache and a register file. -/
def errorAt (site : ErrorSite) (address : Nat := 0x20000) (gid : Option Nat := none) : StorageError := { site := site, address := address, way := 0, gid := gid, second := 0 }

theorem test_meets_ReliabilityEventResults :
    (let s := scPage
     s.clearing = [] ∧ s.accesses = [] ∧ s.lines = [] ∧ chipOf 0x20000 = s.chip ∧ s.grainBusy 256 = false ∧ s.engineOf 256 = none ∧ s.mayWrite 256 = true ∧
     heldElsewhere s.chip (s.tag 256) = false ∧ tagClass (s.tag 256) ≠ 2 ∧ s.hostMayHold 256 = false ∧ s.replicaList 0x20000 = [] ∧ s.MemoryCanonical) ∧
    busyHome.grainBusy 256 = true ∧ busyHome.clearing = [] ∧ busyHome.accesses = [] ∧
    wayKey (errorAt (.l2 0)) = some 0x800000 ∧
    ({ base with wayFaults := [(0x800000, [0, 0])] } : State).wayFaults.get 0x800000 [] = [0, 0] ∧
    (sender kept0).kept.find? (errorAt (.retention 0) (10 * 2 ^ 32 + 5)).address = some kept0 ∧ base.txns = [] ∧ base.replicaStores = [] ∧ base.held = [] ∧
    (busyHome.txns.find? 256).isSome = true ∧
    (0x20000 : BitVec 64).toNat % 512 = 0 ∧ base.MemoryCanonical ∧ chipOf (2 ^ 31 * 512) ≠ base.chip ∧ chipOf (256 * 512) = base.chip ∧
    (base.epoch + 4 - tagEpoch (scPage.tag 256)) % 4 < 3 ∧ wayKey (errorAt (.hbm 0)) = none ∧ base.errorLog.length < 65536 ∧
    (errorAt (.hbm 0)).site = .hbm 0 ∧ (errorAt (.iCache 0)).site = .iCache 0 ∧
    ({ base with lines := [(lineKey 0 0x20000, { data := [] })] } : State).lines.find? (lineKey 0 0x20000) = some { data := [] } ∧
    (errorAt (.registerFile 0) 33 (some 0)).gid = some 0 ∧ (base.groups.find? 0).isSome = true ∧ (base.group 0).threads.length = 32 ∧
    (base.group 0).queue.length < 8 ∧ base.sliceShort 0 = false ∧ ({ base with waysOff := [0, 1, 2, 3, 4, 5, 6] } : State).sliceShort 0 = true ∧ base.ctxs.find? 0 = some (base.ctx 0) ∧ (base.ctx 0).status = .live := by
  decide +kernel

/-- A slice with an operation under way may be short of ways, whichever the hash of the address makes it. -/
theorem test_meets_ReliabilityEventResults_busy (n : Nat) (h : n = busyHome.sliceOf (256 * 512)) :
    let s : State := { busyHome with waysOff := [n * 2 ^ 59, n * 2 ^ 59 + 1, n * 2 ^ 59 + 2, n * 2 ^ 59 + 3, n * 2 ^ 59 + 4, n * 2 ^ 59 + 5, n * 2 ^ 59 + 6] }
    s.sliceShort n = true ∧ ∃ p ∈ s.txns, s.sliceOf (p.1 * 512) = n := by
  refine ⟨?_, _, List.mem_cons_self, h.symm⟩
  have e (i : Nat) (hi : i < 64) : (n * 2 ^ 59 + i) / 2 ^ 58 = n * 2 ∧ (n * 2 ^ 59 + i) / 64 = n * 2 ^ 53 := by omega
  have e0 : n * 2 ^ 59 / 2 ^ 58 = n * 2 ∧ n * 2 ^ 59 / 64 = n * 2 ^ 53 := by omega
  simp only [State.sliceShort, List.filter_cons, e0.1, (e 1 (by decide)).1, (e 2 (by decide)).1, (e 3 (by decide)).1, (e 4 (by decide)).1,
    (e 5 (by decide)).1, (e 6 (by decide)).1, beq_self_eq_true, if_true, List.filter_nil, List.map_cons, List.map_nil, e0.2, (e 1 (by decide)).2,
    (e 2 (by decide)).2, (e 3 (by decide)).2, (e 4 (by decide)).2, (e 5 (by decide)).2, (e 6 (by decide)).2, List.any_cons, List.length_cons, List.length_nil]
  rfl

/-! ### Statements whose hypotheses are a clause in a slot and the ranges of fields -/

/-- Format A fields whose type and destination stand at the ends of the ranges that statements name: types 0 to 3, 4 to 7 and 5; conditions 0 and 5. -/
def fa (t : BitVec 3) (d : BitVec 7 := 0) : FA := { t := t, nw := 0, d := d, a := 0, b := 0 }

/-- The witness of IntegerArithmeticResults, BitwiseAndShiftResults, BitCountResults, BitFieldAndSwizzleResults, ComparePredicateAndSelectResults,
MoveAndConversionResults, DotProductAndRandomResults, SignOperationsMoveBitsAndSetNoFlag, FloatArithmeticResults, ConversionResults and
SfuInstructionsQueueTheirResults: their hypotheses are a clause in a slot and, in clauses, a range of a field. -/
theorem test_meets_AluResults :
    base.Runs clause ∧ (fa 0 47).d.toNat / 8 < 6 ∧ (fa 0 0).d.toNat / 8 < 6 ∧ (fa 0).t.toNat < 4 ∧ (fa 3).t.toNat < 4 ∧ 4 ≤ (fa 4).t.toNat ∧
    (fa 1).t.toNat ∈ [1, 2, 3, 5] ∧ (fa 5).t.toNat ∈ [1, 2, 3, 5] := by
  refine ⟨test_base_runs, ?_⟩; decide

/-- A format X instruction whose mask operand is v2, its index in v3. -/
def fxi (sub : BitVec 6) : FX := { t := 0, nw := 0, d := 6, a := 5, b := 3, m := 2, rz := 0, sub := sub }
/-- Every lane's mask names all lanes. -/
def masked : State := withV [(2, 0xFFFFFFFF), (5, 7)]

theorem test_meets_CrossLaneResults :
    masked.Runs (front masked) ∧
    (let i := front masked
     let m := i.mask (fxi 8) []
     (∀ l, l < 32 → (m l).has l = true ∧ m l &&& ~~~i.lanes = 0 ∧ (m l).has (i.xlIndex (intLayout 0) (fxi 0) [] l).1 = true ∧
       m l = 0xFFFFFFFF) ∧ (fxi 0).sub.toNat % 32 < 8 ∧ 8 ≤ (fxi 8).sub.toNat % 32 ∧ (fxi 0).sub.getLsbD 5 = false ∧ (fxi 32).sub.getLsbD 5 = true) := by
  refine ⟨⟨[], by decide +kernel⟩, ?_⟩; decide +kernel

theorem test_meets_AtomicsAndWaitsHoldBackTheirAccess :
    scPage.detI (front scPage) = false ∧
    (∀ l, l < 32 → scPage.checkAtom (front scPage) fm [] (atomSize fm.t.toNat) 3 .atom true l = (.ok 0x10000 0x20000 (leafOf 0 0).pte, scPage)) ∧
    (∀ l, l < 32 → scPage.checkAtom (front scPage) fm [] (atomSize fm.t.toNat) 3 .red false l = (.ok 0x10000 0x20000 (leafOf 0 0).pte, scPage)) ∧
    (∀ l, l < 32 → scPage.checkAtom (front scPage) fm [] (awaitSize fm.t.toNat) 0 (.await (fm.sub == 6)) false l =
      (.ok 0x10000 0x20000 (leafOf 0 0).pte, scPage)) := by decide +kernel

theorem test_meets_DeterministicGridRefusesAtomics :
    (let s := gridWith scPage fun g => { g with det := true }
     s.detI (front s) = true ∧ (front s).acting 0 0 0 ≠ 0) ∧ 1 < ({ fm with scope := 2 } : FM).scope.toNat ∧ ({ fm with sub := 9 } : FM).sub = 9 := by
  decide +kernel

/-- The first and the last word of a window, and the first one beyond it; below it. -/
theorem test_meets_TypedBufferAccessesStayInTheirWindow :
    (let i := front win
     let z := 2 ^ fm.t.toNat
     let w := (win.teamOf 0).window 1
     (∀ l, l < 32 → (0 ≤ i.bufAddr fm [] l ∧ i.bufAddr fm [] l + z ≤ (w : Nat) ∧ i.bufAddr fm [] l % z = 0) ∧
       i.bufAddr { fm with off := 127 } [0xFFFC] l + z = (w : Nat) ∧
       i.bufAddr { fm with off := 127 } [0x10000] l + z = (w : Nat) + z ∧
       i.bufAddr { fm with imm := 0xFFF } [] l < 0) ∧ i.acting 0 0 0 ≠ 0) := by decide +kernel

/-- A handle without rights in h2. -/
def noRights : State := paged (leafOf 0 0) (tagOf 0 0 0 0) { hgrp with h := [(0, pageH), (1, pageH), (2, mkHandle 0x1000 0x1000 0 0)] }

theorem test_meets_HandleInstructionResults :
    (let i := front noRights
     handleHas (i.hreg 1) 5 = true ∧ (i.uniformM 120 0).toNat ≤ handleLen (i.hreg 1) ∧ (i.uniformM 120 0).toNat % 16 = 0 ∧
     (i.uniformM 127 0x1000).toNat = handleLen (i.hreg 1) ∧ handleBase (i.hreg 1) + 0x1000 < 2 ^ 56 ∧ handleHas (i.hreg 2) 5 = false ∧
     bits (i.hreg 1).toNat 51 48 = 0 ∧ handleHas (i.hreg (handleDst { fm with d := 0 })) 6 = true ∧
     noRights.checkAccess i (i.hreg 1) (i.uoff fm [] 16) 16 [1] [] .store 0 = (.ok 0x10000 0x20000 (leafOf 0 0).pte, noRights) ∧
     noRights.checkAccess i (i.hreg 1) (i.uoff fm [] 16) 16 [0] [] .load 0 = (.ok 0x10000 0x20000 (leafOf 0 0).pte, noRights)) := by decide +kernel

theorem test_meets_OrderingAndPrefetchHoldBackTheirEffect : scPage.Runs (front scPage) := ⟨[], by decide +kernel⟩

/-! ### Statements about the step -/

/-- `base` with the words of a clause, and with the group's blocks. -/
def clauseOf (ws : List IWord) (g : Group := grp) : State := with' g fun i => { i with words := ws }
/-- The same without system privilege. -/
def userClause (ws : List IWord) : State := withRecord (clauseOf ws) 0
/-- A clause of an instruction that decodes and passes the checks. -/
def decodes (s : State) (ws : List IWord) (p : Instr → Enc → List IWord → Bool) : Bool :=
  decide (s.agenda = [] ∧ s.nextIssue = some (front s) ∧ (front s).words = ws) &&
    match decodeWords ws with
    | .ok i rest =>
      match i.enc? with
      | some e => p i e rest
      | none => false
    | .bad _ => false

theorem test_meets_StepRunsTheDecodedInstruction :
    decodes (clauseOf [0x00C28205]) [0x00C28205] (fun i e rest => i.wellFormed && !e.outOfRange grp.blocks && !e.priv &&
      !(front (clauseOf [0x00C28205])).framing e i rest) = true ∧
    (clauseOf []).issuing.find? (fun i => !i.waiting) = some (front (clauseOf [])) ∧ (clauseOf []).nextIssue = some (front (clauseOf [])) ∧ (front (clauseOf [])).waiting = false ∧
    (front (clauseOf [])).words = [] ∧ 5 ≤ base.untilRebase ∧ base.untilRebase < 2 ^ 40 ∧
    (Instr.ltsSelfAdvance).enc? = none ∧ ({ base with agenda := [(5, .ltsSelfAdvance)] } : State).agenda = [(5, .ltsSelfAdvance)] ∧
    (let s := paged (leafOf 0 1) (tagOf 0 0 1 0)
     s.translate (s.ctx (s.ctxOf 0)) (s.group 0).core (s.ctx (s.ctxOf 0)).asid 0x10000 = (.leaf (leafOf 0 1) 0x20000, s) ∧ pteBit (leafOf 0 1).pte 4 = true ∧
     pteHost (leafOf 0 1).pte = false ∧ pteReach (leafOf 0 1).pte ≠ 0 ∧ s.mayRead (grainOf 0x20000) = true) := by decide +kernel

/-- An undecodable word; a reserved type, a reserved field, a register out of the group's blocks, a privileged instruction of a user, and a branch that is
not last. -/
theorem test_meets_ClauseChecksComeInTheOrderOfR48 :
    decodeWords [0x88000000] = .bad .illegalOpcode ∧
    decodes (clauseOf (encode (.add { t := 7, nw := 0, d := 0, a := 0, b := 0 } []))) (encode (.add { t := 7, nw := 0, d := 0, a := 0, b := 0 } []))
      (fun _ e _ => e.illegal0 || e.illegal1) = true ∧
    decodes (clauseOf (encode (.abs { t := 3, nw := 0, d := 0, a := 0, b := 1 } []))) (encode (.abs { t := 3, nw := 0, d := 0, a := 0, b := 1 } []))
      (fun _ e _ => !e.illegal0 && !e.illegal1 && (e.reserved0 || e.reserved1)) = true ∧
    decodes (clauseOf [0x00C28205] { grp with blocks := 1 }) [0x00C28205] (fun _ e _ => e.outOfRange 1) = true ∧
    decodes (userClause [0xFA000753, 0x000D6002]) [0xFA000753, 0x000D6002] (fun _ e _ => e.priv && !e.outOfRange grp.blocks) = true ∧
    ((userClause []).ctx 0).sys = false ∧
    decodes (clauseOf [0xF11FFFFC, 0x00C28205]) [0xF11FFFFC, 0x00C28205] (fun i e rest =>
      (front (clauseOf [0xF11FFFFC, 0x00C28205])).framing e i rest) = true := by decide +kernel

theorem test_meets_EncodingRoundTrip :
    (Instr.add { t := 3, nw := 0, d := 10, a := 4, b := 5 } []).wellFormed = true ∧ (Instr.add { t := 3, nw := 0, d := 10, a := 4, b := 5 } []).enc?.isSome = true ∧
    decodeWords [0x00C28205] = .ok (.add { t := 3, nw := 0, d := 10, a := 4, b := 5 } []) [] := by decide +kernel

/-- Whether an answer is a next state. -/
def answers (r : Result) : Bool :=
  match r with
  | .next _ => true
  | _ => false

theorem test_meets_InstructionsHoldBackTheirEffects :
    answers (exec (.add { t := 3, nw := 0, d := 10, a := 4, b := 5 } []) base) = true := by decide +kernel

theorem test_meets_StepKeepsMemoryCanonical : (clauseOf [0x00C28205]).MemoryCanonical ∧ answers (step (clauseOf [0x00C28205])) = true := by decide +kernel

end Sys2Proof.Tests
end

section
/-!
PROOF. What the operations of the reliability events leave: the fields of a tag, what a write and a giving back of a grain change, the error
log, and the asking of kills.
-/

namespace Sys2Proof

theorem SMap.mem_of_find? {α : Type} {m : SMap α} {k : Nat} {a : α} (h : m.find? k = some a) : (k, a) ∈ m := by
  induction m with
  | nil => simp [SMap.find?] at h
  | cons p m ih =>
    obtain ⟨i, b⟩ := p
    by_cases hi : i = k
    · obtain rfl : b = a := by simpa [SMap.find?, hi] using h
      simp [hi]
    · exact List.mem_cons_of_mem _ (ih (by simpa [SMap.find?, hi] using h))

/-- A number filtered out of the list of a key is not in it. -/
theorem SMap.not_mem_get_modify_filter (m : SMap (List Nat)) (q x : Nat) :
    x ∉ (m.modify q fun l => l.filter (· != x)).get q [] := by
  rw [SMap.get, SMap.find?_modify_same]
  cases m.find? q <;> simp

end Sys2Proof

namespace Sys2Proof.Machine

/-! ### Fields of a tag -/

/-- A number of r bits, w bits and l bits, the field of w bits replaced. -/
theorem replaceField {n v l w r : Nat} (hn : n < 2 ^ (l + w + r)) :
    n - n / 2 ^ l % 2 ^ w * 2 ^ l + v % 2 ^ w * 2 ^ l = n % 2 ^ l + 2 ^ l * (v % 2 ^ w + 2 ^ w * (n / 2 ^ (l + w))) ∧
      n % 2 ^ l + 2 ^ l * (v % 2 ^ w + 2 ^ w * (n / 2 ^ (l + w))) < 2 ^ (l + w + r) := by
  have hc : n / 2 ^ (l + w) < 2 ^ r := Nat.div_lt_of_lt_mul (by rwa [← pow_add])
  have ha : n % 2 ^ l < 2 ^ l := Nat.mod_lt _ (by positivity)
  have hv : v % 2 ^ w < 2 ^ w := Nat.mod_lt _ (by positivity)
  have e1 := Nat.mod_add_div n (2 ^ l)
  have e2 := Nat.mod_add_div (n / 2 ^ l) (2 ^ w)
  rw [Nat.div_div_eq_div_mul, ← pow_add] at e2
  rw [pow_add 2 (l + w) r, pow_add 2 l w]
  rw [pow_add 2 l w] at hc e2
  generalize n / (2 ^ l * 2 ^ w) = c at *
  generalize n / 2 ^ l % 2 ^ w = b at *
  generalize v % 2 ^ w = x at *
  generalize n % 2 ^ l = a at *
  generalize n / 2 ^ l = q at *
  subst e2
  have hn' : n = a + 2 ^ l * (2 ^ w * c) + b * 2 ^ l := by rw [← e1]; ring
  have hx : x + 2 ^ w * c + 1 ≤ 2 ^ w * 2 ^ r := calc
    x + 2 ^ w * c + 1 ≤ 2 ^ w * (c + 1) := by rw [Nat.mul_add]; omega
    _ ≤ 2 ^ w * 2 ^ r := Nat.mul_le_mul_left _ hc
  constructor
  · rw [hn', Nat.add_sub_cancel]
    ring
  · calc
      a + 2 ^ l * (x + 2 ^ w * c) < 2 ^ l * (x + 2 ^ w * c + 1) := by rw [Nat.mul_add _ _ 1]; omega
      _ ≤ 2 ^ l * (2 ^ w * 2 ^ r) := Nat.mul_le_mul_left _ hx
      _ = 2 ^ l * 2 ^ w * 2 ^ r := (Nat.mul_assoc ..).symm

/-- A tag with a field set: what lies below it, its new value, and what lies above it. -/
theorem toNat_tagSet (t : BitVec 64) {hi lo : Nat} (v : Nat) (h : lo ≤ hi) (h' : hi < 64) :
    (tagSet t hi lo v).toNat =
      t.toNat % 2 ^ lo + 2 ^ lo * (v % 2 ^ (hi + 1 - lo) + 2 ^ (hi + 1 - lo) * (t.toNat / 2 ^ (hi + 1))) := by
  have h64 : lo + (hi + 1 - lo) + (63 - hi) = 64 := by omega
  obtain ⟨e, hlt⟩ := replaceField (v := v) (l := lo) (w := hi + 1 - lo) (r := 63 - hi) (n := t.toNat) (by rw [h64]; exact t.isLt)
  rw [show lo + (hi + 1 - lo) = hi + 1 by omega] at e hlt
  rw [tagSet, BitVec.toNat_ofNat, bits, e, Nat.mod_eq_of_lt]
  rwa [show hi + 1 + (63 - hi) = 64 by omega] at hlt

/-- A field set is the field read. -/
@[simp] theorem tagGet_tagSet_same (t : BitVec 64) {hi lo : Nat} (v : Nat) (h : lo ≤ hi) (h' : hi < 64) :
    tagGet (tagSet t hi lo v) hi lo = v % 2 ^ (hi + 1 - lo) := by
  rw [tagGet, bits, toNat_tagSet t v h h', Nat.add_mul_div_left _ _ (by positivity),
    Nat.div_eq_of_lt (Nat.mod_lt _ (by positivity)), Nat.zero_add, Nat.add_mul_mod_self_left, Nat.mod_mod]

/-- A field apart from the one set is left alone. -/
theorem tagGet_tagSet_other (t : BitVec 64) {hi lo hi' lo' : Nat} (v : Nat) (h : lo ≤ hi) (h' : hi < 64) (hl : lo' ≤ hi')
    (hd : hi' < lo ∨ hi < lo') : tagGet (tagSet t hi lo v) hi' lo' = tagGet t hi' lo' := by
  simp only [tagGet, bits, toNat_tagSet t v h h']
  rcases hd with hd | hd
  · -- the field reads what lies below 2 ^ lo
    have below (x : Nat) : x / 2 ^ lo' % 2 ^ (hi' + 1 - lo') = x % 2 ^ lo % 2 ^ (hi' + 1) / 2 ^ lo' := by
      rw [Nat.mod_mod_of_dvd x (pow_dvd_pow 2 (by omega : hi' + 1 ≤ lo)), ← Nat.mod_mul_right_div_self, ← pow_add,
        show lo' + (hi' + 1 - lo') = hi' + 1 by omega]
    rw [below, below t.toNat, Nat.add_mul_mod_self_left, Nat.mod_mod]
  · -- the field reads what lies from 2 ^ (hi + 1) up
    have above (x : Nat) : x / 2 ^ lo' = x / 2 ^ lo / 2 ^ (hi + 1 - lo) / 2 ^ (lo' - (hi + 1)) := by
      rw [Nat.div_div_eq_div_mul, Nat.div_div_eq_div_mul, ← pow_add, ← pow_add,
        show lo + (hi + 1 - lo + (lo' - (hi + 1))) = lo' by omega]
    rw [above, above t.toNat, Nat.add_mul_div_left _ _ (by positivity : 0 < 2 ^ lo),
      Nat.div_eq_of_lt (Nat.mod_lt t.toNat (by positivity : 0 < 2 ^ lo)), Nat.zero_add,
      Nat.add_mul_div_left _ _ (by positivity), Nat.div_eq_of_lt (Nat.mod_lt v (by positivity)), Nat.zero_add,
      Nat.div_div_eq_div_mul t.toNat (2 ^ lo), ← pow_add, show lo + (hi + 1 - lo) = hi + 1 by omega]

theorem tagPoison_eq (t : BitVec 64) : tagPoison t = (tagGet t 10 10 == 1) := by
  rw [tagPoison, BitVec.getLsbD, Nat.testBit_eq_decide_div_mod_eq]
  rfl

@[simp] theorem tagPoison_tagSet_one (t : BitVec 64) : tagPoison (tagSet t 10 10 1) = true := by
  rw [tagPoison_eq, tagGet_tagSet_same t 1 le_rfl (by decide)]
  rfl

@[simp] theorem tagPoison_tagSet_zero (t : BitVec 64) : tagPoison (tagSet t 10 10 0) = false := by
  rw [tagPoison_eq, tagGet_tagSet_same t 0 le_rfl (by decide)]
  rfl

/-- Setting a field that leaves bit 10 alone keeps the poison. -/
theorem tagPoison_tagSet_other (t : BitVec 64) {hi lo : Nat} (v : Nat) (h : lo ≤ hi) (h' : hi < 64) (hd : 10 < lo ∨ hi < 10) :
    tagPoison (tagSet t hi lo v) = tagPoison t := by
  rw [tagPoison_eq, tagPoison_eq, tagGet_tagSet_other t v h h' le_rfl hd]

/-! ### Tags of the state -/

@[simp] theorem State.tag_setTag_same (s : State) (g : Nat) (t : BitVec 64) : (s.setTag g t).tag g = t := by
  simp [State.tag]

theorem State.tag_setTag_other (s : State) {g h : Nat} (t : BitVec 64) (hg : h ≠ g) : (s.setTag g t).tag h = s.tag h := by
  simp [State.tag, SMap.get_put_other _ _ _ hg]

@[simp] theorem State.tag_modTag_same (s : State) (g : Nat) (f : BitVec 64 → BitVec 64) : (s.modTag g f).tag g = f (s.tag g) :=
  s.tag_setTag_same g _

/-- A tag written that keeps the poison of its grain keeps that of every grain. -/
theorem State.poison_setTag {s : State} {g : Nat} {t : BitVec 64} (ht : tagPoison t = tagPoison (s.tag g)) (h : Nat) :
    tagPoison ((s.setTag g t).tag h) = tagPoison (s.tag h) := by
  by_cases hg : h = g
  · rw [hg, State.tag_setTag_same, ht]
  · rw [State.tag_setTag_other s t hg]

/-! ### Writes of memory -/

/-- Preserving a grain changes snapshots and the epoch of a tag only. -/
theorem State.preserve_frame (s : State) (g : Nat) :
    (∃ sn tg, s.preserve g = { s with snaps := sn, tags := tg }) ∧ ∀ h, tagPoison ((s.preserve g).tag h) = tagPoison (s.tag h) := by
  have keeps (u : State) (hu : u.tags = s.tags) (h : Nat) :
      tagPoison ((u.setTag g (tagSet (s.tag g) 9 8 (s.epoch % 4))).tag h) = tagPoison (s.tag h) := by
    have e (k : Nat) : u.tag k = s.tag k := by rw [State.tag, State.tag, hu]
    rw [State.poison_setTag (by rw [tagPoison_tagSet_other _ _ (by decide) (by decide) (by decide), e]), e]
  unfold State.preserve
  dsimp only
  split
  · exact ⟨⟨s.snaps, s.tags, rfl⟩, fun _ => rfl⟩
  · split
    · exact ⟨⟨_, _, rfl⟩, keeps _ rfl⟩
    · exact ⟨⟨s.snaps, _, rfl⟩, keeps s rfl⟩

theorem State.foldl_preserve_frame (gs : List Nat) : ∀ s : State,
    (∃ sn tg, gs.foldl State.preserve s = { s with snaps := sn, tags := tg }) ∧
      ∀ h, tagPoison ((gs.foldl State.preserve s).tag h) = tagPoison (s.tag h) := by
  induction gs with
  | nil => exact fun s => ⟨⟨s.snaps, s.tags, rfl⟩, fun _ => rfl⟩
  | cons g gs ih =>
    intro s
    obtain ⟨⟨sn, tg, e⟩, hp⟩ := s.preserve_frame g
    obtain ⟨⟨sn', tg', e'⟩, hp'⟩ := ih (s.preserve g)
    exact ⟨⟨sn', tg', by rw [List.foldl_cons, e', e]⟩, fun h => (hp' h).trans (hp h)⟩

/-- A write of device memory changes its bytes, and what preserving the grains changes. -/
theorem State.writeMem_frame (s : State) (a : Nat) (bs : List Byte) :
    (∃ sn tg, s.writeMem a bs = { s with snaps := sn, tags := tg, mem := Memory.writeAll s.mem a bs }) ∧
      ∀ h, tagPoison ((s.writeMem a bs).tag h) = tagPoison (s.tag h) := by
  unfold State.writeMem
  dsimp only
  split
  · exact ⟨⟨s.snaps, s.tags, rfl⟩, fun _ => rfl⟩
  · obtain ⟨⟨sn, tg, e⟩, hp⟩ := State.foldl_preserve_frame
      ((List.range (grainOf (a + bs.length - 1) + 1 - grainOf a)).map (· + grainOf a)) s
    refine ⟨⟨sn, tg, by rw [e]; rfl⟩, hp⟩

@[simp] theorem State.writeMem_groups (s : State) (a : Nat) (bs : List Byte) : (s.writeMem a bs).groups = s.groups := by
  obtain ⟨⟨_, _, e⟩, -⟩ := s.writeMem_frame a bs
  rw [e]
@[simp] theorem State.writeMem_accesses (s : State) (a : Nat) (bs : List Byte) : (s.writeMem a bs).accesses = s.accesses := by
  obtain ⟨⟨_, _, e⟩, -⟩ := s.writeMem_frame a bs
  rw [e]

/-- Stamping a grain changes stamps only. -/
theorem State.stampGrain_frame (s : State) (g : Nat) : ∃ sec fl, s.stampGrain g = { s with sectors := sec, floor := fl } := by
  refine List.foldlRecOn (motive := fun t : State => ∃ sec fl, t = { s with sectors := sec, floor := fl }) _ _
    ⟨s.sectors, s.floor, rfl⟩ fun t ⟨sec, fl, e⟩ i _ => ?_
  subst e
  exact ⟨_, _, rfl⟩

@[simp] theorem State.stampGrain_tags (s : State) (g : Nat) : (s.stampGrain g).tags = s.tags := by
  obtain ⟨_, _, e⟩ := s.stampGrain_frame g
  rw [e]
@[simp] theorem State.stampGrain_mem (s : State) (g : Nat) : (s.stampGrain g).mem = s.mem := by
  obtain ⟨_, _, e⟩ := s.stampGrain_frame g
  rw [e]
@[simp] theorem State.stampGrain_groups (s : State) (g : Nat) : (s.stampGrain g).groups = s.groups := by
  obtain ⟨_, _, e⟩ := s.stampGrain_frame g
  rw [e]
@[simp] theorem State.stampGrain_accesses (s : State) (g : Nat) : (s.stampGrain g).accesses = s.accesses := by
  obtain ⟨_, _, e⟩ := s.stampGrain_frame g
  rw [e]

/-- Noting that a grain has been written changes its tag or how this chip holds it, and no poison. -/
theorem State.markWritten_frame (s : State) (g : Nat) :
    (∃ hd tg, s.markWritten g = { s with held := hd, tags := tg }) ∧ ∀ h, tagPoison ((s.markWritten g).tag h) = tagPoison (s.tag h) := by
  unfold State.markWritten
  dsimp only
  split
  · split
    · exact ⟨⟨s.held, _, rfl⟩, State.poison_setTag (tagPoison_tagSet_other _ _ (by decide) (by decide) (by decide))⟩
    · exact ⟨⟨s.held, s.tags, rfl⟩, fun _ => rfl⟩
  · exact ⟨⟨_, s.tags, rfl⟩, fun _ => rfl⟩

@[simp] theorem State.markWritten_mem (s : State) (g : Nat) : (s.markWritten g).mem = s.mem := by
  obtain ⟨⟨_, _, e⟩, -⟩ := s.markWritten_frame g
  rw [e]
@[simp] theorem State.markWritten_groups (s : State) (g : Nat) : (s.markWritten g).groups = s.groups := by
  obtain ⟨⟨_, _, e⟩, -⟩ := s.markWritten_frame g
  rw [e]
@[simp] theorem State.markWritten_accesses (s : State) (g : Nat) : (s.markWritten g).accesses = s.accesses := by
  obtain ⟨⟨_, _, e⟩, -⟩ := s.markWritten_frame g
  rw [e]

/-! ### Lines and grains given back -/

/-- Writing back a line changes memory, what preserving changes, and the lines. -/
theorem State.writeBack_frame (s : State) (key : Nat) :
    ∃ sn tg m ls, s.writeBack key = { s with snaps := sn, tags := tg, mem := m, lines := ls } := by
  unfold State.writeBack
  split
  · rename_i l hl
    split
    · obtain ⟨⟨sn, tg, e⟩, -⟩ := s.writeMem_frame (key % 2 ^ 45 * 128) l.data
      exact ⟨sn, tg, _, _, by rw [e]⟩
    · exact ⟨s.snaps, s.tags, s.mem, s.lines, rfl⟩
  · exact ⟨s.snaps, s.tags, s.mem, s.lines, rfl⟩

theorem State.writeBackAll_frame (s : State) (p : Nat → Nat → Bool) :
    ∃ sn tg m ls, s.writeBackAll p = { s with snaps := sn, tags := tg, mem := m, lines := ls } := by
  refine List.foldlRecOn (motive := fun t : State => ∃ sn tg m ls, t = { s with snaps := sn, tags := tg, mem := m, lines := ls })
    _ _ ⟨s.snaps, s.tags, s.mem, s.lines, rfl⟩ fun t ⟨sn, tg, m, ls, e⟩ x _ => ?_
  obtain ⟨sn', tg', m', ls', e'⟩ := t.writeBack_frame x.1
  exact ⟨sn', tg', m', ls', by rw [e', e]⟩

/-- Stamping the sectors of a grain changes their stamps only. -/
theorem State.foldl_setSector_frame (s : State) (g w : Nat) :
    ∃ sec, (List.range 4).foldl (fun (s : State) i => s.setSector (g * 512 + 128 * i) { wts := w, rts := w, era := s.era }) s =
      { s with sectors := sec } := by
  refine List.foldlRecOn (motive := fun t : State => ∃ sec, t = { s with sectors := sec }) _ _ ⟨s.sectors, rfl⟩ fun t ⟨sec, e⟩ i _ => ?_
  subst e
  exact ⟨_, rfl⟩

@[simp] theorem State.writeBackAll_groups (s : State) (p : Nat → Nat → Bool) : (s.writeBackAll p).groups = s.groups := by
  obtain ⟨_, _, _, _, e⟩ := s.writeBackAll_frame p
  rw [e]
@[simp] theorem State.writeBackAll_waysOff (s : State) (p : Nat → Nat → Bool) : (s.writeBackAll p).waysOff = s.waysOff := by
  obtain ⟨_, _, _, _, e⟩ := s.writeBackAll_frame p
  rw [e]

/-- Recalling a grain from its engine changes the engines' grains and the stamps of its sectors. -/
theorem State.recall_frame (s : State) (g : Nat) : ∃ eg sec, s.recall g = { s with engineGrains := eg, sectors := sec } := by
  unfold State.recall
  split
  · rename_i q _
    unfold State.engineSurrender
    split
    · exact ⟨s.engineGrains, s.sectors, rfl⟩
    · rename_i e _
      obtain ⟨sec, h⟩ := State.foldl_setSector_frame { s with engineGrains := s.engineGrains.erase (engineKey q g) } g e.stamp
      exact ⟨_, sec, h⟩
  · exact ⟨s.engineGrains, s.sectors, rfl⟩

/-- Giving back a grain of another home changes what the caches and the fabric hold. -/
theorem State.giveBack_frame (s : State) (g : Nat) :
    ∃ eg sec fl hd tg m ls sn pt sq, s.giveBack g = { s with
      engineGrains := eg, sectors := sec, floor := fl, held := hd, tags := tg, mem := m, lines := ls, snaps := sn, putting := pt, sendQ := sq } := by
  obtain ⟨eg, sec, e⟩ := s.recall_frame g
  have gone : ∃ fl hd tg m ls, s.surrender g = { s with
      engineGrains := eg, sectors := sec, floor := fl, held := hd, tags := tg, mem := m, lines := ls } := by
    rw [State.surrender, e]
    exact ⟨_, _, _, _, _, rfl⟩
  have kept : ∃ eg sec fl hd tg m ls sn pt sq, s = { s with
      engineGrains := eg, sectors := sec, floor := fl, held := hd, tags := tg, mem := m, lines := ls, snaps := sn, putting := pt, sendQ := sq } :=
    ⟨s.engineGrains, s.sectors, s.floor, s.held, s.tags, s.mem, s.lines, s.snaps, s.putting, s.sendQ, rfl⟩
  obtain ⟨fl, hd, tg, m, ls, e'⟩ := gone
  unfold State.giveBack
  split
  · exact kept
  · rw [e']
    exact ⟨_, _, _, _, _, _, _, s.snaps, s.putting, s.sendQ, rfl⟩
  · rw [e']
    exact ⟨_, _, _, _, _, _, _, s.snaps, s.putting, s.sendQ, rfl⟩
  · split
    · exact kept
    · obtain ⟨sn, tg, m, ls, ec⟩ := (s.recall g).writeBackAll_frame fun _ pa => grainOf pa == g
      rw [State.clean, ec, e]
      dsimp only
      split
      · exact ⟨_, _, s.floor, s.held, _, _, _, _, _, _, rfl⟩
      · exact ⟨_, _, s.floor, s.held, _, _, _, _, _, _, rfl⟩

theorem State.foldl_giveBack_frame (gs : List Nat) (s : State) :
    (gs.foldl State.giveBack s).groups = s.groups ∧ (gs.foldl State.giveBack s).waysOff = s.waysOff := by
  refine List.foldlRecOn (motive := fun t : State => t.groups = s.groups ∧ t.waysOff = s.waysOff) _ _ ⟨rfl, rfl⟩ fun t ht g _ => ?_
  obtain ⟨_, _, _, _, _, _, _, _, _, _, e⟩ := t.giveBack_frame g
  rw [e]
  exact ht

/-! ### The error log -/

/-- An event is added to the log, and nothing else of the module changes. -/
theorem State.logError_frame (s : State) (ty unit addr : Nat) :
    ∃ f l n, s.logError ty unit addr = { s with freeCtr := f, errorLog := l, logLost := n } := by
  unfold State.logError
  dsimp only [State.fresh]
  split
  · exact ⟨_, _, _, rfl⟩
  · exact ⟨_, _, s.logLost, rfl⟩

@[simp] theorem State.logError_chip (s : State) (ty unit addr : Nat) : (s.logError ty unit addr).chip = s.chip := by
  obtain ⟨_, _, _, e⟩ := s.logError_frame ty unit addr
  rw [e]
@[simp] theorem State.logError_cfg (s : State) (ty unit addr : Nat) : (s.logError ty unit addr).cfg = s.cfg := by
  obtain ⟨_, _, _, e⟩ := s.logError_frame ty unit addr
  rw [e]
@[simp] theorem State.logError_tags (s : State) (ty unit addr : Nat) : (s.logError ty unit addr).tags = s.tags := by
  obtain ⟨_, _, _, e⟩ := s.logError_frame ty unit addr
  rw [e]
@[simp] theorem State.logError_mem (s : State) (ty unit addr : Nat) : (s.logError ty unit addr).mem = s.mem := by
  obtain ⟨_, _, _, e⟩ := s.logError_frame ty unit addr
  rw [e]
@[simp] theorem State.logError_groups (s : State) (ty unit addr : Nat) : (s.logError ty unit addr).groups = s.groups := by
  obtain ⟨_, _, _, e⟩ := s.logError_frame ty unit addr
  rw [e]
@[simp] theorem State.logError_ctxs (s : State) (ty unit addr : Nat) : (s.logError ty unit addr).ctxs = s.ctxs := by
  obtain ⟨_, _, _, e⟩ := s.logError_frame ty unit addr
  rw [e]
@[simp] theorem State.logError_epoch (s : State) (ty unit addr : Nat) : (s.logError ty unit addr).epoch = s.epoch := by
  obtain ⟨_, _, _, e⟩ := s.logError_frame ty unit addr
  rw [e]
@[simp] theorem State.logError_waysOff (s : State) (ty unit addr : Nat) : (s.logError ty unit addr).waysOff = s.waysOff := by
  obtain ⟨_, _, _, e⟩ := s.logError_frame ty unit addr
  rw [e]
@[simp] theorem State.logError_slicesOff (s : State) (ty unit addr : Nat) : (s.logError ty unit addr).slicesOff = s.slicesOff := by
  obtain ⟨_, _, _, e⟩ := s.logError_frame ty unit addr
  rw [e]
@[simp] theorem State.logError_held (s : State) (ty unit addr : Nat) : (s.logError ty unit addr).held = s.held := by
  obtain ⟨_, _, _, e⟩ := s.logError_frame ty unit addr
  rw [e]
@[simp] theorem State.logError_lines (s : State) (ty unit addr : Nat) : (s.logError ty unit addr).lines = s.lines := by
  obtain ⟨_, _, _, e⟩ := s.logError_frame ty unit addr
  rw [e]
@[simp] theorem State.logError_icache (s : State) (ty unit addr : Nat) : (s.logError ty unit addr).icache = s.icache := by
  obtain ⟨_, _, _, e⟩ := s.logError_frame ty unit addr
  rw [e]
@[simp] theorem State.logError_kept (s : State) (ty unit addr : Nat) : (s.logError ty unit addr).kept = s.kept := by
  obtain ⟨_, _, _, e⟩ := s.logError_frame ty unit addr
  rw [e]
@[simp] theorem State.logError_recovery (s : State) (ty unit addr : Nat) : (s.logError ty unit addr).recovery = s.recovery := by
  obtain ⟨_, _, _, e⟩ := s.logError_frame ty unit addr
  rw [e]
@[simp] theorem State.logError_inReset (s : State) (ty unit addr : Nat) : (s.logError ty unit addr).inReset = s.inReset := by
  obtain ⟨_, _, _, e⟩ := s.logError_frame ty unit addr
  rw [e]
@[simp] theorem State.logError_wayFaults (s : State) (ty unit addr : Nat) : (s.logError ty unit addr).wayFaults = s.wayFaults := by
  obtain ⟨_, _, _, e⟩ := s.logError_frame ty unit addr
  rw [e]

/-- A log with room keeps what it holds and takes the event. -/
theorem State.logError_log (s : State) (ty unit addr : Nat) (h : s.errorLog.length < 65536) :
    ∃ r, (s.logError ty unit addr).errorLog = s.errorLog ++ [r] ∧ r.ty = ty ∧ r.addr = addr := by
  have hl : ¬ 65536 < s.errorLog.length + 1 := by omega
  exact ⟨{ stamp := Config.freeWord s.freeCtr, ty := ty, unit := unit, addr := addr }, by simp [State.logError, State.fresh, hl], rfl, rfl⟩

/-- An error that is counted raises its register by one, and the log takes its record. -/
theorem State.countError_counted {s : State} (reg ty : Nat) (e : StorageError) (h : s.errorLog.length < 65536) :
    (s.countError reg ty e).cfg.get reg 0 = s.cfg.get reg 0 + 1 ∧
      ∃ r, (s.countError reg ty e).errorLog = s.errorLog ++ [r] ∧ r.ty = ty ∧ r.addr = e.address :=
  ⟨by simp [State.countError], State.logError_log { s with cfg := s.cfg.insert reg (s.cfg.get reg 0 + 1) } ty (siteUnit e.site) e.address h⟩

@[simp] theorem State.countError_chip (s : State) (reg ty : Nat) (e : StorageError) : (s.countError reg ty e).chip = s.chip :=
  State.logError_chip ..
@[simp] theorem State.countError_tags (s : State) (reg ty : Nat) (e : StorageError) : (s.countError reg ty e).tags = s.tags :=
  State.logError_tags ..
@[simp] theorem State.countError_mem (s : State) (reg ty : Nat) (e : StorageError) : (s.countError reg ty e).mem = s.mem :=
  State.logError_mem ..
@[simp] theorem State.countError_groups (s : State) (reg ty : Nat) (e : StorageError) : (s.countError reg ty e).groups = s.groups :=
  State.logError_groups ..
@[simp] theorem State.countError_waysOff (s : State) (reg ty : Nat) (e : StorageError) : (s.countError reg ty e).waysOff = s.waysOff :=
  State.logError_waysOff ..
@[simp] theorem State.countError_lines (s : State) (reg ty : Nat) (e : StorageError) : (s.countError reg ty e).lines = s.lines :=
  State.logError_lines ..
@[simp] theorem State.countError_icache (s : State) (reg ty : Nat) (e : StorageError) : (s.countError reg ty e).icache = s.icache :=
  State.logError_icache ..
@[simp] theorem State.countError_kept (s : State) (reg ty : Nat) (e : StorageError) : (s.countError reg ty e).kept = s.kept :=
  State.logError_kept ..
@[simp] theorem State.countError_wayFaults (s : State) (reg ty : Nat) (e : StorageError) :
    (s.countError reg ty e).wayFaults = s.wayFaults :=
  State.logError_wayFaults ..

/-! ### Kills asked for -/

/-- Asking for kills changes no memory, and holds or frees no reset. -/
theorem State.foldl_askKill_frame (k : KillReq) (cs : List Nat) (s : State) :
    (cs.foldl (fun (s : State) c => s.askKill c k) s).mem = s.mem ∧
      (cs.foldl (fun (s : State) c => s.askKill c k) s).inReset = s.inReset :=
  List.foldlRecOn (motive := fun t : State => t.mem = s.mem ∧ t.inReset = s.inReset) _ _ ⟨rfl, rfl⟩ fun _ h _ _ => h

/-- A kill asked for stays among a context's kills. -/
theorem State.mem_kills_askKill {s : State} {k : KillReq} {c d : Nat} (h : k ∈ (s.ctx c).kills ∨ c = d) :
    k ∈ ((s.askKill d k).ctx c).kills := by
  by_cases hc : c = d
  · simp [hc, State.askKill, State.modCtx, State.ctx]
  · simpa [State.askKill, State.modCtx, State.ctx, SMap.get_insert_other _ _ _ hc] using h.resolve_right hc

/-- Every context for which a kill is asked has it. -/
theorem State.mem_kills_foldl_askKill (k : KillReq) (c : Nat) (cs : List Nat) : ∀ s : State, k ∈ (s.ctx c).kills ∨ c ∈ cs →
    k ∈ ((cs.foldl (fun (s : State) c => s.askKill c k) s).ctx c).kills := by
  induction cs with
  | nil => exact fun s h => by simpa using h
  | cons d cs ih =>
    intro s h
    rw [List.foldl_cons]
    refine ih _ ?_
    by_cases hd : k ∈ (s.ctx c).kills ∨ c = d
    · exact .inl (State.mem_kills_askKill hd)
    · obtain ⟨hk, hcd⟩ := not_or.mp hd
      exact .inr ((List.mem_cons.mp (h.resolve_left hk)).resolve_left hcd)

/-! ### Queued faults -/

theorem FaultRec.length_joins (f : FaultRec) (q : List FaultRec) : (f.joins q).length = q.length + 1 := by
  induction q with
  | nil => rfl
  | cons g q ih =>
    unfold FaultRec.joins
    split <;> simp [ih]

theorem FaultRec.mem_joins (f : FaultRec) (q : List FaultRec) : f ∈ f.joins q := by
  induction q with
  | nil => simp [FaultRec.joins]
  | cons g q ih =>
    unfold FaultRec.joins
    split <;> simp [ih]

/-- A fault that lands makes the queue one longer. -/
theorem Group.length_enqueueFault (g : Group) (now : Nat) (f : FaultRec) : (g.enqueueFault now f).queue.length = g.queue.length + 1 := by
  simp only [Group.enqueueFault, List.length_append, List.length_take, FaultRec.length_joins, List.length_drop]
  omega

/-- A fault that lands is in the queue. -/
theorem Group.mem_enqueueFault (g : Group) (now : Nat) (f : FaultRec) : f ∈ (g.enqueueFault now f).queue :=
  List.mem_append.mpr (.inr (f.mem_joins _))

end Sys2Proof.Machine
end

section
/-!
PROOF. The events of chapter 19: POISON_CLEAR and PATROL_SCRUB (R424, R425), storage errors, ways and slices (R423, R426, R427), power and
temperature (R15, R430), boot, recovery and attestation (R431 to R433).
-/

namespace Sys2Proof.Machine

/-! ### POISON_CLEAR (R424) -/

/-- With no access in the queue there is nothing to try. -/
theorem State.settle_of_no_accesses {s : State} (h : s.accesses = []) : s.settle = s := by
  simp [State.settle, h]

/-- A write of an address of this home to POISON_CLEAR, with no clear under way, makes that clear. -/
theorem execPoisonClear_here {s : State} {pa : BitVec 64} (ha : pa.toNat % 512 = 0) (hb : pa.toNat < 2 ^ 52) (hc : s.clearing = [])
    (hh : chipOf pa.toNat = s.chip) :
    exec (.poisonClear pa) s = .next ({ s with clearing := [pa.toNat] } : State).clearStep.settle := by
  have hw : s.cfgWrite 0x5B pa = s.clearPoison pa.toNat := rfl
  have hok : ¬ (pa.toNat % 512 != 0 || 2 ^ 52 ≤ pa.toNat || s.clearing.contains pa.toNat) = true := by
    simp only [ha, hc, Nat.not_le.mpr hb]
    simp
  rw [exec_poisonClear, execPoisonClear, hw, State.clearPoison, if_neg hok]
  simp [hc, hh]

/-- One clear is made, or waits. -/
theorem State.clearStep_one {s t : State} {pa : Nat} {ok : Bool} (hc : s.clearing = [pa]) (hh : chipOf pa = s.chip)
    (hg : s.clearGrain (grainOf pa) = (ok, t)) : s.clearStep = if ok then { t with clearing := t.clearing.erase pa } else t := by
  cases ok <;> simp [State.clearStep, hc, hh, hg]

theorem State.clearGrain_busy {s : State} {g : Nat} (h : s.grainBusy g = true) : s.clearGrain g = (false, s) := by
  simp [State.clearGrain, State.takeBack, h]

/-- A grain of this home that no other chip holds needs no recall for a write. -/
theorem State.takeBack_free {s : State} {g : Nat} (hb : s.grainBusy g = false) (he : s.engineOf g = none) (hl : s.lines = [])
    (hw : s.mayWrite g = true) (hh : heldElsewhere s.chip (s.tag g) = false)
    (hs : tagClass (s.tag g) = 2 → tagState (s.tag g) = 7 → ∀ c ∈ s.sharers (s.tag g) 0, c = s.chip) :
    s.takeBack g true = (true, s) := by
  have hrc : (s.recall g).clean g = s := by
    simp [State.recall, he, State.clean, State.writeBackAll, hl]
  have hsh : tagClass (s.tag g) = 2 → tagState (s.tag g) = 7 → (s.sharers (s.tag g) 0).filter (· != s.chip) = [] :=
    fun h1 h2 => List.filter_eq_nil_iff.mpr fun c hc => by simp [hs h1 h2 c hc]
  unfold State.takeBack
  simp only [hb, hrc, hh, hw, Bool.and_false, Bool.false_and, Bool.false_eq_true, if_false, if_true, Bool.not_true, Bool.true_and]
  rw [if_neg]
  simp only [Bool.and_eq_true, beq_iff_eq, Bool.not_eq_true', not_and, Bool.not_eq_false]
  exact fun ⟨hclass, hstate⟩ => List.isEmpty_iff.mpr (hsh hclass hstate)

/-- A grain written with zeros as one write of its home. -/
def State.writeZeros (s : State) (g : Nat) : State :=
  let t := (s.stampGrain g).writeMem (g * 512) (List.replicate 512 0)
  if tagFree (t.tag g) then t else t.markWritten g

/-- Writing zeros to a grain changes its bytes and keeps its poison. -/
theorem State.writeZeros_spec (s : State) (g : Nat) :
    tagPoison ((s.writeZeros g).tag g) = tagPoison (s.tag g) ∧
      (s.writeZeros g).mem = Memory.writeAll s.mem (g * 512) (List.replicate 512 0) ∧ (s.writeZeros g).groups = s.groups ∧
      (s.writeZeros g).accesses = s.accesses := by
  have hpoison : tagPoison (((s.stampGrain g).writeMem (g * 512) (List.replicate 512 0)).tag g) = tagPoison (s.tag g) := by
    rw [((s.stampGrain g).writeMem_frame _ _).2 g, State.tag, State.stampGrain_tags, State.tag]
  have hmem : ((s.stampGrain g).writeMem (g * 512) (List.replicate 512 0)).mem =
      Memory.writeAll s.mem (g * 512) (List.replicate 512 0) := by
    rw [State.writeMem_mem, State.stampGrain_mem]
  have hgroups := ((s.stampGrain g).writeMem_groups (g * 512) (List.replicate 512 0)).trans (s.stampGrain_groups g)
  have hacc := ((s.stampGrain g).writeMem_accesses (g * 512) (List.replicate 512 0)).trans (s.stampGrain_accesses g)
  unfold State.writeZeros
  dsimp only
  split
  · exact ⟨hpoison, hmem, hgroups, hacc⟩
  · exact ⟨((State.markWritten_frame _ g).2 g).trans hpoison, (State.markWritten_mem ..).trans hmem,
      (State.markWritten_groups ..).trans hgroups, (State.markWritten_accesses ..).trans hacc⟩

/-- The clear of a grain that nothing else holds is done at once: its poison goes and its bytes are zero. -/
theorem State.clearGrain_done {s : State} {g : Nat} (ht : s.takeBack g true = (true, s)) (hm : s.hostMayHold g = false)
    (hr : s.replicaList (g * 512) = []) :
    ∃ u, s.clearGrain g = (true, u) ∧ tagPoison (u.tag g) = false ∧ u.mem = Memory.writeAll s.mem (g * 512) (List.replicate 512 0) ∧
      u.groups = s.groups ∧ u.accesses = s.accesses := by
  have hlist : (((s.tookBack [g]).dropLines fun _ x => grainOf x == g).modTag g fun t => tagSet t 10 10 0).replicaList (g * 512) = [] := hr
  have hdone : s.clearGrain g =
      (true, State.writeZeros (((s.tookBack [g]).dropLines fun _ x => grainOf x == g).modTag g fun t => tagSet t 10 10 0) g) := by
    simp only [State.clearGrain, ht, hm, hlist, Bool.false_eq_true, if_false, List.isEmpty_nil, Bool.not_true, Bool.and_false]
    rfl
  obtain ⟨hpoison, hmem, hgroups, hacc⟩ :=
    State.writeZeros_spec (((s.tookBack [g]).dropLines fun _ x => grainOf x == g).modTag g fun t => tagSet t 10 10 0) g
  exact ⟨_, hdone, by rw [hpoison, State.tag_modTag_same, tagPoison_tagSet_zero], hmem, hgroups, hacc⟩

/-- POISON_CLEAR of a grain under way waits. -/
theorem poisonClear_waits {s : State} {pa : BitVec 64} (ha : pa.toNat % 512 = 0) (hb : pa.toNat < 2 ^ 52) (hc : s.clearing = [])
    (hacc : s.accesses = []) (hh : chipOf pa.toNat = s.chip) (hbusy : s.grainBusy (pa.toNat / 512) = true) :
    exec (.poisonClear pa) s = .next { s with clearing := [pa.toNat] } := by
  rw [execPoisonClear_here ha hb hc hh,
    State.clearStep_one (s := { s with clearing := [pa.toNat] }) rfl hh (State.clearGrain_busy hbusy)]
  exact congrArg Host.Outcome.next (State.settle_of_no_accesses hacc)

/-- The bytes of a grain after zeros have been written to it, and all others. -/
theorem Memory.read_zeroed_grain {m : List Host.Cell} (g a : Nat) (h : Memory.wf m = true) :
    Memory.read (Memory.writeAll m (g * 512) (List.replicate 512 0)) a = if a / 512 = g then 0 else Memory.read m a := by
  split
  · rename_i hg
    obtain ⟨i, hi, rfl⟩ : ∃ i, i < 512 ∧ a = g * 512 + i := ⟨a % 512, Nat.mod_lt _ (by decide), by omega⟩
    rw [Memory.read_writeAll_same _ _ h (by rwa [List.length_replicate]), List.getD_eq_getElem?_getD, List.getElem?_replicate, if_pos hi]
    rfl
  · rename_i hg
    exact Memory.read_writeAll_other _ _ h (by simp only [List.length_replicate]; omega)

/-- POISON_CLEAR of a grain that nothing else holds clears its poison and its bytes. -/
theorem poisonClear_clears {s : State} {pa : BitVec 64} (ha : pa.toNat % 512 = 0) (hb : pa.toNat < 2 ^ 52) (hc : s.clearing = [])
    (hacc : s.accesses = []) (hh : chipOf pa.toNat = s.chip)
    (ht : ({ s with clearing := [pa.toNat] } : State).takeBack (pa.toNat / 512) true = (true, { s with clearing := [pa.toNat] }))
    (hm : s.hostMayHold (pa.toNat / 512) = false) (hr : s.replicaList pa.toNat = []) (hcan : s.MemoryCanonical) :
    Answers (.poisonClear pa) s fun t => tagPoison (t.tag (pa.toNat / 512)) = false ∧
      (∀ a, a / 512 = pa.toNat / 512 → t.byteAt a = 0) ∧ (∀ a, a / 512 ≠ pa.toNat / 512 → t.byteAt a = s.byteAt a) ∧
      t.groups = s.groups := by
  have hpa : pa.toNat / 512 * 512 = pa.toNat := by omega
  obtain ⟨u, hu, hpoison, hmem, hgroups, haccu⟩ :=
    State.clearGrain_done (s := { s with clearing := [pa.toNat] }) ht hm (by rw [hpa]; exact hr)
  refine ⟨_, execPoisonClear_here ha hb hc hh, ?_⟩
  rw [State.clearStep_one (s := { s with clearing := [pa.toNat] }) rfl hh hu, if_pos rfl,
    State.settle_of_no_accesses (s := { u with clearing := u.clearing.erase pa.toNat }) (haccu.trans hacc)]
  have hread (a : Nat) : Memory.read u.mem a = if a / 512 = pa.toNat / 512 then 0 else s.byteAt a := by
    rw [hmem]
    exact Memory.read_zeroed_grain _ a hcan
  exact ⟨hpoison, fun a h => (hread a).trans (if_pos h), fun a h => (hread a).trans (if_neg h), hgroups⟩

/-! ### PATROL_SCRUB (R354, R425) -/

theorem patrolScrub_elsewhere {s : State} {g : Nat} (bad : Bool) (h : chipOf (g * 512) ≠ s.chip) :
    exec (.patrolScrub g bad) s = .next s := by
  simp [execPatrolScrub, h]

/-- Relabelling moves an epoch that lags by `n` or more to n − 1 behind the chip's, and leaves any other. -/
theorem State.relabelled_of_lag {s : State} {n : Nat} {t : BitVec 64} (h : n ≤ (s.epoch + 4 - tagEpoch t) % 4) :
    tagEpoch (s.relabelled n t) = (s.epoch + 4 - (n - 1)) % 4 := by
  rw [State.relabelled, if_pos h, tagEpoch, tagGet_tagSet_same t _ (by decide) (by decide)]
  omega

theorem State.relabelled_of_near {s : State} {n : Nat} {t : BitVec 64} (h : (s.epoch + 4 - tagEpoch t) % 4 < n) :
    s.relabelled n t = t := by
  rw [State.relabelled, if_neg (Nat.not_le.mpr h)]

@[simp] theorem State.poison_relabelled (s : State) (n : Nat) (t : BitVec 64) : tagPoison (s.relabelled n t) = tagPoison t := by
  unfold State.relabelled
  split
  · exact tagPoison_tagSet_other t _ (by decide) (by decide) (by decide)
  · rfl

@[simp] theorem State.tag_relabel_same (s : State) (g n : Nat) : (s.relabel g n).tag g = s.relabelled n (s.tag g) :=
  s.tag_setTag_same g _

theorem patrolScrub_sound {s : State} {g : Nat} (h : chipOf (g * 512) = s.chip) :
    Answers (.patrolScrub g false) s fun t => t.mem = s.mem ∧ t.cfg = s.cfg ∧ (∀ h, h ≠ g → t.tag h = s.tag h) ∧
      ((s.epoch + 4 - tagEpoch (s.tag g)) % 4 < 3 → t.tag g = s.tag g) ∧
      ((s.epoch + 4 - tagEpoch (s.tag g)) % 4 = 3 → tagEpoch (t.tag g) = (s.epoch + 2) % 4) := by
  refine ⟨s.relabel g 3, by simp [execPatrolScrub, h], rfl, rfl, fun k hk => s.tag_setTag_other _ hk, fun hn => ?_, fun hl => ?_⟩
  · rw [State.tag_relabel_same, State.relabelled_of_near hn]
  · rw [State.tag_relabel_same, State.relabelled_of_lag hl.ge]
    omega

/-- Poisoning a grain of this home sets the poison bit of its tag. -/
theorem State.poisonGrain_here {s : State} {pa : Nat} (h : chipOf pa = s.chip) :
    s.poisonGrain pa = s.setTag (grainOf pa) (tagSet (s.tag (grainOf pa)) 10 10 1) := by
  simp [State.poisonGrain, State.modTag, h]

theorem patrolScrub_bad {s : State} {g : Nat} (h : chipOf (g * 512) = s.chip) :
    Answers (.patrolScrub g true) s fun t => tagPoison (t.tag g) = true ∧ t.cfg.get 0x59 0 = s.cfg.get 0x59 0 + 1 ∧ t.mem = s.mem := by
  have hg : grainOf (g * 512) = g := by simp [grainOf]
  refine ⟨_, by rw [exec_patrolScrub, execPatrolScrub, if_neg (by simp [h])], ?_⟩
  simp only [if_true, State.poisonGrain_here h, hg, State.tag_relabel_same, State.poison_relabelled]
  simp [State.relabel, State.tag]

/-! ### Corrected errors and ways (R423, R426) -/

theorem correctedError_outside_caches {s : State} {err : StorageError} (hk : wayKey err = none) (hl : s.errorLog.length < 65536) :
    Answers (.correctedError err) s fun t => (t.cfg.get 0x58 0 = s.cfg.get 0x58 0 + 1 ∧
      ∃ r, t.errorLog = s.errorLog ++ [r] ∧ r.ty = 1 ∧ r.addr = err.address) ∧
      t.mem = s.mem ∧ t.groups = s.groups ∧ t.waysOff = s.waysOff := by
  exact ⟨s.countError 0x58 1 err, by simp [execCorrectedError, State.wayError, hk], State.countError_counted _ _ err hl,
    by simp, by simp, by simp⟩

/-- A way that is disabled gives up its line, and neither a group nor another way notices. -/
theorem State.wayLeaves_frame (s : State) (e : StorageError) :
    (s.wayLeaves e).groups = s.groups ∧ (s.wayLeaves e).waysOff = s.waysOff := by
  unfold State.wayLeaves
  dsimp only
  split
  · exact ⟨State.writeBackAll_groups .., State.writeBackAll_waysOff ..⟩
  · exact State.foldl_giveBack_frame _ s
  · exact ⟨rfl, rfl⟩

/-- The third correction of a way within 24 hours disables it. -/
theorem State.wayError_third {s : State} {err : StorageError} {k : Nat} (hk : wayKey err = some k) (hoff : k ∉ s.waysOff)
    (h2 : ((s.wayFaults.get k []).filter fun t => decide (err.second < t + 86400)).length = 2) :
    (s.wayError err).waysOff = s.waysOff ++ [k] ∧ (s.wayError err).groups = s.groups := by
  obtain ⟨hg, hw⟩ := s.wayLeaves_frame err
  have hlen : ¬ (((s.wayFaults.get k []).filter fun t => decide (err.second < t + 86400)) ++ [err.second]).length < 3 := by
    simp [h2]
  simp only [State.wayError, hk, List.contains_eq_mem, hoff, decide_false, Bool.false_eq_true, if_false, hlen, State.logError_waysOff,
    State.logError_groups]
  exact ⟨by rw [hw], hg⟩

theorem correctedError_third {s : State} {err : StorageError} {k : Nat} (hk : wayKey err = some k) (hoff : k ∉ s.waysOff)
    (h2 : ((s.wayFaults.get k []).filter fun t => decide (err.second < t + 86400)).length = 2) :
    Answers (.correctedError err) s fun t => t.waysOff = s.waysOff ++ [k] ∧ t.groups = s.groups := by
  obtain ⟨hoff', hgroups⟩ := State.wayError_third (s := s.countError 0x58 1 err) hk (by simpa using hoff) (by simpa using h2)
  exact ⟨_, rfl, by rw [hoff', State.countError_waysOff], by rw [hgroups, State.countError_groups]⟩

/-! ### Uncorrectable errors (R423) -/

theorem uncorrectableError_hbm {s : State} {err : StorageError} {n : Nat} (hs : err.site = .hbm n) (hh : chipOf err.address = s.chip)
    (hl : s.errorLog.length < 65536) :
    Answers (.uncorrectableError err) s fun t => (t.cfg.get 0x59 0 = s.cfg.get 0x59 0 + 1 ∧
      ∃ r, t.errorLog = s.errorLog ++ [r] ∧ r.ty = 2 ∧ r.addr = err.address) ∧
      tagPoison (t.tag (err.address / 512)) = true ∧ t.mem = s.mem ∧ t.groups = s.groups := by
  have hh' : chipOf err.address = (s.countError 0x59 2 err).chip := by rw [State.countError_chip, hh]
  refine ⟨(s.countError 0x59 2 err).poisonGrain err.address, by simp [execUncorrectableError, hs], ?_⟩
  rw [State.poisonGrain_here hh']
  refine ⟨by simpa only [State.setTag_cfg, State.setTag_errorLog] using State.countError_counted _ _ err hl, ?_, by simp, by simp⟩
  rw [show err.address / 512 = grainOf err.address from rfl, State.tag_setTag_same, tagPoison_tagSet_one]

theorem uncorrectableError_iCache {s : State} {err : StorageError} {q : Nat} (hs : err.site = .iCache q) (hl : s.errorLog.length < 65536) :
    Answers (.uncorrectableError err) s fun t => (t.cfg.get 0x59 0 = s.cfg.get 0x59 0 + 1 ∧
      ∃ r, t.errorLog = s.errorLog ++ [r] ∧ r.ty = 2 ∧ r.addr = err.address) ∧
      err.address / 128 ∉ t.icache.get q [] ∧ t.mem = s.mem ∧ t.tags = s.tags ∧ t.groups = s.groups := by
  refine ⟨_, by rw [exec_uncorrectableError, execUncorrectableError, hs], ?_⟩
  exact ⟨State.countError_counted _ _ err hl, SMap.not_mem_get_modify_filter _ q _, State.countError_mem ..,
    State.countError_tags .., State.countError_groups ..⟩

theorem uncorrectableError_clusterCache {s : State} {err : StorageError} {q : Nat} {l : Line} (hs : err.site = .clusterCache q)
    (hf : s.lines.find? (lineKey q err.address) = some l) (hd : l.dirty = false) :
    Answers (.uncorrectableError err) s fun t =>
      t.lines = s.lines.filter (fun p => !(p.1 / 2 ^ 45 == q && p.1 % 2 ^ 45 * 128 == err.address / 128 * 128)) ∧
        t.tags = s.tags ∧ t.mem = s.mem := by
  have hclean : ((s.countError 0x59 2 err).lines.find? (lineKey q err.address)).any (·.dirty) = false := by
    simp [hf, hd]
  refine ⟨(s.countError 0x59 2 err).dropLines fun c pa => c == q && pa == err.address / 128 * 128, ?_,
    by simp [State.dropLines], by simp [State.dropLines], by simp [State.dropLines]⟩
  rw [exec_uncorrectableError, execUncorrectableError, hs]
  simp only [hclean, Bool.false_eq_true, if_false]

/-- A word of a register file that reads as zero: its register in its lane is zero, and the group's queue is left alone. -/
theorem Group.writeV_zero {g : Group} (a : Nat) (h : g.threads.length = 32) :
    ((g.writeV (a / 32) (Lanes.of (· == a % 32)) (LaneVals.of fun _ => 0)).thread (a % 32)).v.get (a / 32) 0 = 0 ∧
      (g.writeV (a / 32) (Lanes.of (· == a % 32)) (LaneVals.of fun _ => 0)).queue = g.queue := by
  have hlane : a % 32 < 32 := Nat.mod_lt _ (by decide)
  refine ⟨?_, rfl⟩
  rw [Group.v_writeV _ _ _ _ (by omega), if_pos ⟨by simp [hlane], rfl⟩, LaneVals.at_of _ hlane]

/-- A group whose queue has room takes the POISON of its read, and nothing else of it changes. -/
theorem State.readPoison_group {s : State} {gid : Nat} (hg : (s.groups.find? gid).isSome = true) (hq : (s.group gid).queue.length < 8) :
    ∃ f : FaultRec, (s.readPoison gid).group gid = (s.group gid).enqueueFault s.clock f ∧ f.code = .poison ∧ f.deferred = true ∧
      (s.readPoison gid).mem = s.mem := by
  rw [State.readPoison, State.queueFault, if_pos hq]
  exact ⟨_, State.group_modGroup_same _ hg, rfl, rfl, rfl⟩

/-- The group of a register-file error after its word reads as zero. -/
theorem State.zeroRegister_group {s : State} {gid : Nat} (a : Nat) (hg : (s.groups.find? gid).isSome = true) :
    (s.zeroRegister gid a).group gid = (s.group gid).writeV (a / 32) (Lanes.of (· == a % 32)) (LaneVals.of fun _ => 0) ∧
      ((s.zeroRegister gid a).groups.find? gid).isSome = true ∧ (s.zeroRegister gid a).mem = s.mem := by
  refine ⟨State.group_modGroup_same _ hg, ?_, rfl⟩
  rw [State.zeroRegister]
  simp [hg]

theorem uncorrectableError_registerFile {s : State} {err : StorageError} {core gid : Nat} (hs : err.site = .registerFile core)
    (hgid : err.gid = some gid) (hg : (s.groups.find? gid).isSome = true) (ht : (s.group gid).threads.length = 32)
    (hq : (s.group gid).queue.length < 8) :
    Answers (.uncorrectableError err) s fun t => ((t.group gid).thread (err.address % 32)).v.get (err.address / 32) 0 = 0 ∧
      (t.group gid).queue.length = (s.group gid).queue.length + 1 ∧ (∃ f ∈ (t.group gid).queue, f.code = .poison ∧ f.deferred = true) ∧
      t.mem = s.mem := by
  have hgroup : (s.countError 0x59 2 err).group gid = s.group gid := by rw [State.group, State.countError_groups, State.group]
  obtain ⟨hzero, hgz, hmem⟩ := State.zeroRegister_group (s := s.countError 0x59 2 err) err.address (by rwa [State.countError_groups])
  rw [hgroup] at hzero
  obtain ⟨hv, hqueue⟩ := Group.writeV_zero err.address ht
  rw [← hzero] at hv hqueue
  obtain ⟨f, hread, hcode, hdef, hmem'⟩ := State.readPoison_group hgz (by rwa [hqueue])
  refine ⟨((s.countError 0x59 2 err).zeroRegister gid err.address).readPoison gid, by simp [execUncorrectableError, hs, hgid], ?_⟩
  dsimp only
  rw [hread, Group.length_enqueueFault, hqueue, hmem', hmem, State.countError_mem]
  exact ⟨hv, rfl, ⟨f, Group.mem_enqueueFault .., hcode, hdef⟩, rfl⟩

theorem uncorrectableError_retention {s : State} {err : StorageError} {die : Nat} {k : Kept} (hs : err.site = .retention die)
    (hk : s.kept.find? err.address = some k) :
    Answers (.uncorrectableError err) s fun t =>
      (t.kept.find? err.address).map Kept.dropped = some (k.dropped ++ [fragmentOf err]) ∧ t.groups = s.groups ∧ t.mem = s.mem := by
  refine ⟨_, by rw [exec_uncorrectableError, execUncorrectableError, hs], ?_⟩
  exact ⟨by simp [hk], State.countError_groups .., State.countError_mem ..⟩

/-! ### SLICE_RETIRE (R427) -/

theorem sliceRetire_kept {s : State} {n : Nat} (h : n ∈ s.slicesOff ∨ s.sliceShort n = false) : exec (.sliceRetire n) s = .next s := by
  rcases h with h | h <;> simp [execSliceRetire, h]

theorem sliceRetire_busy {s : State} {n : Nat} (hb : ∃ p ∈ s.txns, s.sliceOf (p.1 * 512) = n) : exec (.sliceRetire n) s = .next s := by
  have hany : (s.txns.any fun p => s.sliceOf (p.1 * 512) == n) = true := by simpa using hb
  simp [execSliceRetire, hany]

theorem sliceRetire_retires {s : State} {n : Nat} (hoff : n ∉ s.slicesOff) (hs : s.sliceShort n = true)
    (ht : ∀ p ∈ s.txns, s.sliceOf (p.1 * 512) ≠ n) (hr : ∀ p ∈ s.replicaStores, s.sliceOf (p.1 * 512) ≠ n)
    (hh : ∀ p ∈ s.held, s.sliceOf (p.1 * 512) ≠ n) :
    Answers (.sliceRetire n) s fun t => t.slicesOff = s.slicesOff ++ [n] ∧ t.mem = s.mem ∧ t.held = s.held := by
  have htx : (s.txns.any fun p => s.sliceOf (p.1 * 512) == n) = false := by simpa using ht
  have hrs : (s.replicaStores.any fun p => s.sliceOf (p.1 * 512) == n) = false := by simpa using hr
  have hnone : (s.held.filter fun p => s.sliceOf (p.1 * 512) == n) = [] := by simpa using hh
  refine ⟨State.logError { s with slicesOff := s.slicesOff ++ [n] } 4 (siteUnit (.l2 n)) 0, ?_, by simp, by simp, by simp⟩
  simp [execSliceRetire, hoff, hs, htx, hrs, hnone]

/-! ### Power and temperature (R15, R430) -/

/-- THERMAL reads what was last written to it. -/
theorem State.cfgVal_thermal (s : State) : s.cfgVal 0x5E = (s.cfg.get 0x5E 0).toNat := rfl

@[simp] theorem State.setThermal_mem (s : State) (d : Nat) (throttle trip : Bool) : (s.setThermal d throttle trip).mem = s.mem := rfl
@[simp] theorem State.setThermal_ctxs (s : State) (d : Nat) (throttle trip : Bool) : (s.setThermal d throttle trip).ctxs = s.ctxs := rfl

/-- THERMAL after it has been set: the hottest die, and the two bits. -/
theorem State.cfgVal_setThermal (s : State) (d : Nat) (throttle trip : Bool) :
    (s.setThermal d throttle trip).cfgVal 0x5E = min d 255 + (if throttle then 2 ^ 8 else 0) + (if trip then 2 ^ 9 else 0) := by
  rw [State.cfgVal_thermal, State.setThermal]
  simp only [SMap.get_insert_same, BitVec.toNat_ofNat]
  apply Nat.mod_eq_of_lt
  split <;> split <;> omega

theorem thermalThrottle_at {s : State} {d : Nat} (h : 105 ≤ d) :
    Answers (.thermalThrottle d) s fun t =>
      t.cfgVal 0x5E = min d 255 + 2 ^ 8 + (if bitAt (s.cfgVal 0x5E) 9 then 2 ^ 9 else 0) ∧ t.mem = s.mem := by
  refine ⟨_, by rw [exec_thermalThrottle, execThermalThrottle, if_neg (Nat.not_lt.mpr h)], ?_, by simp⟩
  rw [State.cfgVal_thermal, State.logError_cfg, ← State.cfgVal_thermal]
  exact s.cfgVal_setThermal d true _

theorem thermalThrottleEnd_below {s : State} {d : Nat} (h : d < 100) :
    Answers (.thermalThrottleEnd d) s fun t =>
      t.cfgVal 0x5E = d + (if bitAt (s.cfgVal 0x5E) 9 then 2 ^ 9 else 0) ∧ t.mem = s.mem := by
  refine ⟨_, by rw [exec_thermalThrottleEnd, execThermalThrottleEnd, if_neg (Nat.not_le.mpr h)], ?_, by simp⟩
  rw [State.cfgVal_setThermal, min_eq_left (by omega)]
  simp

theorem thermalTrip_at {s : State} {d : Nat} (h : 115 ≤ d) :
    Answers (.thermalTrip d) s fun t => t.inReset = true ∧ t.mem = s.mem ∧
      ∀ c x, s.ctxs.find? c = some x → x.status ≠ .free → x.status ≠ .killed → { code := .ctxKill, cause := 5 } ∈ (t.ctx c).kills := by
  refine ⟨_, by rw [exec_thermalTrip, execThermalTrip, if_neg (Nat.not_lt.mpr h)], ?_, ?_, fun c x hc hfree hkilled => ?_⟩
  · exact (State.foldl_askKill_frame systemKill _ _).2
  · exact (State.foldl_askKill_frame systemKill _ _).1.trans (by simp)
  · refine State.mem_kills_foldl_askKill systemKill c _ _ (.inr ?_)
    simp only [State.logError_ctxs, State.setThermal_ctxs]
    exact List.mem_map.mpr ⟨(c, x), List.mem_filter.mpr ⟨SMap.mem_of_find? hc, by simp [hfree, hkilled]⟩, rfl⟩

/-! ### Boot and recovery (R432) -/

/-- BOOT_STATUS reads what was last written to it. -/
theorem State.cfgVal_bootStatus (s : State) : s.cfgVal 0x5F = (s.cfg.get 0x5F 0).toNat := rfl

/-- The word that a boot leaves in BOOT_STATUS. -/
def bootStatus (version : BitVec 16) (ed mldsa installed : Bool) : Nat :=
  version.toNat + (if ed then 2 ^ 16 else 0) + (if mldsa then 2 ^ 17 else 0) + (if installed then 2 ^ 18 else 0)

theorem bootStatus_lt (version : BitVec 16) (ed mldsa installed : Bool) : bootStatus version ed mldsa installed < 2 ^ 64 := by
  have hv := version.isLt
  unfold bootStatus
  split <;> split <;> split <;> omega

/-- A booted module is at reset, with the outcome of the boot in its status. -/
theorem State.booted_spec (s : State) (version : BitVec 16) (ed mldsa fromRecovery inRecovery : Bool) :
    let t := s.booted version ed mldsa fromRecovery inRecovery
    t.recovery = inRecovery ∧ t.mem = [] ∧ t.ctxs = [] ∧ t.groups = [] ∧ t.tags = [] ∧ t.epoch = 1 ∧ t.inReset = false ∧
      t.cfgVal 0x5F = bootStatus version ed mldsa (fromRecovery && !inRecovery) := by
  refine ⟨?_, ?_, ?_, ?_, ?_, ?_, ?_, ?_⟩
  rotate_left 7
  · rw [State.cfgVal_bootStatus, State.booted, State.logError_cfg]
    exact (BitVec.toNat_ofNat ..).trans (Nat.mod_eq_of_lt (bootStatus_lt version ed mldsa _))
  all_goals simp [State.booted, State.reset]

theorem boot_boots (s : State) (image : List (BitVec 8)) (version : BitVec 16) (ed mldsa : Bool) :
    Answers (.boot image version ed mldsa) s fun t => t.recovery = !imageAccepted version ed mldsa ∧ t.mem = [] ∧ t.ctxs = [] ∧
      t.groups = [] ∧ t.tags = [] ∧ t.epoch = 1 ∧ t.inReset = false ∧ t.cfgVal 0x5F = bootStatus version ed mldsa false :=
  ⟨_, exec_boot image version ed mldsa s, s.booted_spec version ed mldsa false _⟩

theorem recoveryDoorbell_ignored {s : State} (image : List (BitVec 8)) (version : BitVec 16) (ed mldsa : Bool) (h : s.recovery = false) :
    exec (.recoveryDoorbell image version ed mldsa) s = .next s.hostErr := by
  simp [execRecoveryDoorbell, h]

theorem recoveryDoorbell_boots {s : State} (image : List (BitVec 8)) (version : BitVec 16) (ed mldsa : Bool) (h : s.recovery = true) :
    Answers (.recoveryDoorbell image version ed mldsa) s fun t =>
      let good := decide (image.length ≤ 2 ^ 22) && imageAccepted version ed mldsa
      t.recovery = !good ∧ t.mem = [] ∧ t.ctxs = [] ∧ t.cfgVal 0x5F = bootStatus version ed mldsa good := by
  obtain ⟨hrec, hmem, hctxs, -, -, -, -, hst⟩ :=
    s.booted_spec version ed mldsa true (!(decide (image.length ≤ 2 ^ 22) && imageAccepted version ed mldsa))
  refine ⟨_, by rw [exec_recoveryDoorbell, execRecoveryDoorbell, if_neg (by simp [h])], hrec, hmem, hctxs, ?_⟩
  rw [hst, Bool.true_and, Bool.not_not]

/-- Settles O34: each event's meaning is one of its documented cases, and the frames of the operations that it is made of say what stays. -/
theorem reliabilityEventResults : Obligations.ReliabilityEventResults := by
  unfold Obligations.ReliabilityEventResults
  intro s err
  refine ⟨fun pa ha hb hc hacc hh hbusy => poisonClear_waits ha hb hc hacc hh hbusy,
    fun pa ha hb hc hacc hl hh hbusy he hw hheld hs hm hr hcan => poisonClear_clears ha hb hc hacc hh
      (State.takeBack_free (s := { s with clearing := [pa.toNat] }) hbusy he hl hw hheld hs) hm hr hcan,
    fun g bad => patrolScrub_elsewhere bad, fun g => patrolScrub_sound, fun g => patrolScrub_bad,
    correctedError_outside_caches, fun k => correctedError_third,
    fun n => uncorrectableError_hbm, fun q => uncorrectableError_iCache, fun q l => uncorrectableError_clusterCache,
    fun core gid => uncorrectableError_registerFile, fun die k => uncorrectableError_retention,
    fun n => sliceRetire_kept, fun n _ _ => sliceRetire_busy, fun n => sliceRetire_retires, fun n => exec_powerGating n s,
    fun d => ⟨fun h => ?_, thermalThrottle_at, fun h => ?_, thermalThrottleEnd_below, fun h => ?_, thermalTrip_at⟩,
    fun image version ed mldsa => ⟨?_, recoveryDoorbell_ignored image version ed mldsa, ?_⟩, fun req => exec_spdmRequest req s⟩
  · simp [execThermalThrottle, h]
  · simp [execThermalThrottleEnd, h]
  · simp [execThermalTrip, h]
  · exact boot_boots s image version ed mldsa
  · exact recoveryDoorbell_boots image version ed mldsa

end Sys2Proof.Machine
end

section
/-!
PROOF. Which clause a step serves, and what it runs: the order of commits of a core's clauses (notes/assumptions/88), the checks of R48
passed, and the events of the agenda.
-/

namespace Sys2Proof.Machine

/-! ### The order in which the clauses of a core commit -/

/-- A clause does not commit after another of its core: by core-local group index, then by PC. -/
def Issue.NotAfter (x j : Issue) : Prop :=
  x.before.slot < j.before.slot ∨ (x.before.slot = j.before.slot ∧ x.pc.toNat ≤ j.pc.toNat)

theorem Issue.notAfter_refl (x : Issue) : x.NotAfter x := .inr ⟨rfl, le_rfl⟩

theorem Issue.NotAfter.trans {x y z : Issue} (h : x.NotAfter y) (h' : y.NotAfter z) : x.NotAfter z := by
  simp only [Issue.NotAfter] at *
  omega

theorem Issue.commitsBefore_iff {i j : Issue} :
    i.commitsBefore j = true ↔ i.before.core = j.before.core ∧ ¬ j.NotAfter i := by
  simp only [Issue.commitsBefore, Issue.NotAfter, Bool.and_eq_true, Bool.or_eq_true, beq_iff_eq, decide_eq_true_eq]
  omega

/-- The clause that a list of clauses leaves first: the one given, or the one of its core that is to commit before it. -/
def Issue.firstOf (i : Issue) (l : List Issue) : Issue := l.foldl (fun a j => if j.commitsBefore a then j else a) i

/-- One more clause takes the place of the first, or does not commit before it. -/
theorem Issue.step_firstOf (a j : Issue) :
    let b := if j.commitsBefore a then j else a
    (b = a ∨ b = j) ∧ b.before.core = a.before.core ∧ b.NotAfter a ∧ (j.before.core = a.before.core → b.NotAfter j) := by
  by_cases h : j.commitsBefore a = true
  · obtain ⟨hc, hn⟩ := Issue.commitsBefore_iff.mp h
    simp only [h, if_true]
    refine ⟨.inr trivial, hc, ?_, fun _ => j.notAfter_refl⟩
    simp only [Issue.NotAfter] at *
    omega
  · simp only [h]
    refine ⟨.inl rfl, rfl, a.notAfter_refl, fun hc => ?_⟩
    by_contra hn
    exact h (Issue.commitsBefore_iff.mpr ⟨hc, hn⟩)

theorem Issue.firstOf_spec (l : List Issue) : ∀ i : Issue,
    (i.firstOf l = i ∨ i.firstOf l ∈ l) ∧ (i.firstOf l).before.core = i.before.core ∧ (i.firstOf l).NotAfter i ∧
      ∀ j ∈ l, j.before.core = i.before.core → (i.firstOf l).NotAfter j := by
  induction l with
  | nil => exact fun i => ⟨.inl rfl, rfl, i.notAfter_refl, by simp⟩
  | cons j l ih =>
    intro a
    obtain ⟨hb, hcore, hbefore, hj⟩ := Issue.step_firstOf a j
    rw [show a.firstOf (j :: l) = Issue.firstOf (if j.commitsBefore a then j else a) l from rfl]
    generalize (if j.commitsBefore a then j else a) = b at hb hcore hbefore hj
    obtain ⟨hm, hc, hn, hall⟩ := ih b
    refine ⟨?_, hc.trans hcore, hn.trans hbefore, fun k hk hkc => ?_⟩
    · rcases hm with hm | hm
      · rw [hm]
        exact hb.imp_right fun h => List.mem_cons.mpr (.inl h)
      · exact .inr (List.mem_cons_of_mem j hm)
    · rcases List.mem_cons.mp hk with rfl | hk
      · exact hn.trans (hj hkc)
      · exact hall k hk (hkc.trans hcore.symm)

/-- The clause served next goes on, and no clause of its core that goes on commits before it. -/
theorem State.nextIssue_first {s : State} {i : Issue} (h : s.issuing.find? (fun i => !i.waiting) = some i) :
    ∃ x, s.nextIssue = some x ∧ x ∈ s.issuing ∧ x.waiting = false ∧ x.before.core = i.before.core ∧
      ∀ j ∈ s.issuing, j.waiting = false → j.before.core = x.before.core → x.NotAfter j := by
  have hi : i ∈ s.issuing ∧ i.waiting = false := ⟨List.mem_of_find?_eq_some h, by simpa using List.find?_some h⟩
  obtain ⟨hm, hcore, -, hall⟩ := Issue.firstOf_spec (s.issuing.filter fun j => !j.waiting) i
  refine ⟨i.firstOf (s.issuing.filter fun j => !j.waiting), by simp [State.nextIssue, h, Issue.firstOf], ?_⟩
  have hx : i.firstOf (s.issuing.filter fun j => !j.waiting) ∈ s.issuing ∧
      (i.firstOf (s.issuing.filter fun j => !j.waiting)).waiting = false := by
    rcases hm with hm | hm
    · rwa [hm]
    · simpa using List.mem_filter.mp hm
  exact ⟨hx.1, hx.2, hcore, fun j hj hw hc => hall j (List.mem_filter.mpr ⟨hj, by simp [hw]⟩) (hc.trans hcore)⟩

/-! ### What the clause served runs -/

/-- A well-formed instruction passes the checks of its encoding. -/
theorem wellFormed_fault? {i : Instr} {e : Enc} (h : i.wellFormed = true) (he : i.enc? = some e) : e.fault? = none := by
  simp only [Instr.wellFormed, he, Bool.and_eq_true, beq_iff_eq] at h
  exact h.1

theorem State.ready_commit {s : State} {iss : Issue} (h : iss.words = []) : s.ready iss = .commit := by
  simp [State.ready, h]

/-- Only words decode. -/
theorem words_ne_nil_of_decodeWords {ws rest : List IWord} {i : Instr} (h : decodeWords ws = .ok i rest) : ws ≠ [] := by
  rintro rfl
  simp [decodeWords] at h

/-- Words that decode to a well-formed instruction, whose registers, privilege and framing are right, run that instruction (R48). -/
theorem State.ready_run {s : State} {iss : Issue} {i : Instr} {e : Enc} {rest : List IWord} (hd : decodeWords iss.words = .ok i rest)
    (hw : i.wellFormed = true) (he : i.enc? = some e) (hr : e.outOfRange iss.before.blocks = false)
    (hp : e.priv = false ∨ (s.ctx (s.ctxOf iss.gid)).sys = true) (hf : iss.framing e i rest = false) : s.ready iss = .run i := by
  have hpriv : (e.priv && !(s.ctx (s.ctxOf iss.gid)).sys) = false := by
    rcases hp with hp | hp <;> simp [hp]
  have hne := words_ne_nil_of_decodeWords hd
  unfold State.ready
  split
  · contradiction
  · simp [hd, he, wellFormed_fault? hw he, hr, hpriv, hf]

/-- With nothing on the agenda, the step is that of the clause served next. -/
theorem step_serves {s : State} {iss : Issue} (ha : s.agenda = []) (hn : s.nextIssue = some iss) :
    step s = stepIssue (s.serve iss) iss := by
  simp [step, ha, hn]

/-- An event of the agenda whose delay ends before a rebase is due is run. -/
theorem step_event {s : State} {n : Nat} {i : Instr} {rest : List (Nat × Instr)} (ha : s.agenda = (n, i) :: rest) (hi : i.enc? = none)
    (hn : n ≤ s.untilRebase) : step s = exec i { s.passTime n with agenda := rest } := by
  simp [step, ha, isProgram, hi, Nat.not_lt.mpr hn]

/-- A rebase that falls due before the next event of the agenda comes first (R231). -/
theorem step_rebase {s : State} {n : Nat} {i : Instr} {rest : List (Nat × Instr)} (ha : s.agenda = (n, i) :: rest)
    (hn : s.untilRebase < n) :
    step s = exec .moduleRebase { s.passTime s.untilRebase with agenda := (n - s.untilRebase, i) :: rest } := by
  simp [step, ha, hn]

/-! ### Code -/

/-- Four bytes of memory as one word of code. -/
theorem State.readNat_four (s : State) (pa : Nat) : s.readNat pa 4 = ofBytes ((List.range 4).map fun i => s.byteAt (pa + i)) := rfl

/-- A fetched word is that of memory at the translated address, when the page's leaf and the grain allow it (R77). -/
theorem State.fetchWord_ok {s u : State} {gid va pa : Nat} {l : Leaf}
    (ht : s.translate (s.ctx (s.ctxOf gid)) (s.group gid).core (s.ctx (s.ctxOf gid)).asid va = (.leaf l pa, u))
    (hx : pteBit l.pte 4 = true) (hh : pteHost l.pte = false) (hr : pteReach l.pte ≠ 0) (hm : u.mayRead (grainOf pa) = true) :
    s.fetchWord gid va = (.ok (BitVec.ofNat 32 (u.readNat pa 4)), u.cacheCode ((u.group gid).core / 4) pa) := by
  simp [State.fetchWord, ht, hx, hh, hr, hm]

/-- Settles O55: the fold that picks the clause served keeps the least in the order of commits, and the checks of R48 that are passed leave
the instruction to run. -/
theorem stepRunsTheDecodedInstruction : Obligations.StepRunsTheDecodedInstruction := by
  unfold Obligations.StepRunsTheDecodedInstruction
  refine fun s iss => ⟨fun ha hn => ⟨fun hw => ?_, fun i e rest hd hw he hr hp hf => ?_⟩, fun i => State.nextIssue_first,
    fun n i rest => step_event, fun n i rest => step_rebase, fun gid va l pa u ht hx hh hr hm => ?_⟩
  · rw [step_serves ha hn, stepIssue, State.ready_commit hw]
    rfl
  · have hrun : (s.serve iss).ready iss = .run i := State.ready_run hd hw he hr hp hf
    rw [step_serves ha hn, stepIssue, hrun]
    rfl
  · rw [← State.readNat_four]
    exact State.fetchWord_ok ht hx hh hr hm

end Sys2Proof.Machine
end

section
/-!
PROOF. Decoding and encoding agree: what the words of a format read as, by the rows of Table 2·8; what the decoder does with the words of
an instruction; and the two directions of the round trip.
-/

namespace Sys2Proof

/-! ### The fields of a format -/

/-- The format of an instruction's fields (Table 2·2). -/
def Body.fmt : Body → Fmt
  | .a _ => .a
  | .x _ => .x
  | .m _ => .m
  | .e _ => .e
  | .b _ => .b
  | .c _ => .c

/-- The fields of a format that words hold (R37 to R39). -/
def Body.ofWords (w v : IWord) : Fmt → Body
  | .a => .a (FA.ofWord w)
  | .x => .x (FX.ofWords w v)
  | .m => .m (FM.ofWords w v)
  | .e => .e (FE.ofWords w v)
  | .b => .b (FB.ofWord w)
  | .c => .c (FC.ofWord w)

/-- The instruction words of an opcode and fields (R36). -/
def Body.words (op : BitVec 7) : Body → List IWord
  | .a f => [f.toWord op]
  | .x f => [f.word0 op, f.word1]
  | .m f => [f.word0 op, f.word1]
  | .e f => [f.word0 op, f.word1]
  | .b f => [f.toWord op]
  | .c f => [f.toWord op]

/-- The instruction words of a format, out of a first and a second word (R36). -/
def Body.place (b : Body) (w v : IWord) : List IWord := if b.twoWords then [w, v] else [w]

/-- Whether the instructions of a format take two words (R36). -/
def Fmt.twoWords : Fmt → Bool
  | .x | .m | .e => true
  | .a | .b | .c => false

theorem Body.twoWords_eq (b : Body) : b.twoWords = b.fmt.twoWords := by
  cases b <;> rfl

@[simp] theorem Body.fmt_ofWords (w v : IWord) (F : Fmt) : (Body.ofWords w v F).fmt = F := by cases F <;> rfl

theorem Enc.encode_eq (e : Enc) : e.encode = e.body.words e.op ++ e.lits := rfl

/-- Packing the fields that words hold gives the words back: no bit is dropped. -/
theorem Body.words_ofWords (w v : IWord) (F : Fmt) : (Body.ofWords w v F).words (opOf w) = (Body.ofWords w v F).place w v := by
  cases F <;> simp [Body.ofWords, Body.words, Body.place, Body.twoWords, FA.toWord_ofWord, FX.word0_ofWords, FX.word1_ofWords,
    FM.word0_ofWords, FM.word1_ofWords, FE.word0_ofWords, FE.word1_ofWords, FB.toWord_ofWord, FC.toWord_ofWord]

/-! ### The rows of Table 2·8, read backwards -/

/-- The instruction of an opcode, fields and literals. -/
def Instr.ofBody (op : Nat) (ls : Lits) : Body → Option Instr
  | .a f => Instr.ofA op f ls
  | .x f => Instr.ofX op f ls
  | .m f => Instr.ofM op f ls
  | .e f => Instr.ofE op f ls
  | .b f => Instr.ofB op f
  | .c f => Instr.ofC op f ls

theorem Instr.ofWords_eq (w v : IWord) (ls : Lits) :
    Instr.ofWords w v ls = (fmtOf (opOf w).toNat).bind fun F => Instr.ofBody (opOf w).toNat ls (Body.ofWords w v F) := by
  rw [Instr.ofWords]
  cases fmtOf (opOf w).toNat with
  | none => rfl
  | some F => cases F <;> rfl

/-- What an instruction that opcode, fields and literals give says of them: its row holds the opcode and the fields, and the literals when
these are as many as it takes; and other literals give an instruction that takes as many. -/
structure Instr.ReadFrom (i : Instr) (op : Nat) (b : Body) (ls : Lits) : Prop where
  row : ∃ e, i.enc? = some e ∧ e.op.toNat = op ∧ e.body = b ∧ (ls.length = e.litCount → e.lits = ls)
  sameCount : ∀ ls', (Instr.ofBody op ls' b).map Instr.litCount = some i.litCount

theorem Instr.ofA_readFrom {op : Nat} {f : FA} {ls : Lits} {i : Instr} (h : Instr.ofA op f ls = some i) :
    i.ReadFrom op (.a f) ls := by
  unfold Instr.ofA at h
  split at h
  case h_63 =>
    split at h
    all_goals cases h
    all_goals exact ⟨⟨_, rfl, rfl, rfl, fun _ => rfl⟩, fun _ => by simp only [Instr.ofBody, Instr.ofA, *]; rfl⟩
  all_goals cases h
  all_goals exact ⟨⟨_, rfl, rfl, rfl, fun _ => rfl⟩, fun _ => rfl⟩

theorem Instr.ofX_readFrom {op : Nat} {f : FX} {ls : Lits} {i : Instr} (h : Instr.ofX op f ls = some i) :
    i.ReadFrom op (.x f) ls := by
  unfold Instr.ofX at h
  repeat' split at h
  all_goals cases h
  all_goals exact ⟨⟨_, rfl, rfl, rfl, fun _ => rfl⟩, fun _ => by simp only [Instr.ofBody, Instr.ofX, *]; rfl⟩

theorem Instr.ofM_readFrom {op : Nat} {f : FM} {ls : Lits} {i : Instr} (h : Instr.ofM op f ls = some i) :
    i.ReadFrom op (.m f) ls := by
  unfold Instr.ofM at h
  repeat' split at h
  all_goals cases h
  all_goals exact ⟨⟨_, rfl, rfl, rfl, fun _ => rfl⟩, fun _ => by simp only [Instr.ofBody, Instr.ofM, *]; rfl⟩

theorem Instr.ofE_readFrom {op : Nat} {f : FE} {ls : Lits} {i : Instr} (h : Instr.ofE op f ls = some i) :
    i.ReadFrom op (.e f) ls := by
  unfold Instr.ofE at h
  repeat' split at h
  all_goals cases h
  all_goals exact ⟨⟨_, rfl, rfl, rfl, fun _ => rfl⟩, fun _ => by simp only [Instr.ofBody, Instr.ofE, *]; rfl⟩

theorem Instr.ofB_readFrom {op : Nat} {f : FB} {i : Instr} (ls : Lits) (h : Instr.ofB op f = some i) : i.ReadFrom op (.b f) ls := by
  unfold Instr.ofB at h
  split at h
  all_goals cases h
  all_goals exact ⟨⟨_, rfl, rfl, rfl, fun hn => (List.length_eq_zero_iff.mp hn).symm⟩, fun _ => rfl⟩

theorem Instr.ofC_readFrom {op : Nat} {f : FC} {ls : Lits} {i : Instr} (h : Instr.ofC op f ls = some i) :
    i.ReadFrom op (.c f) ls := by
  unfold Instr.ofC at h
  repeat' split at h
  all_goals cases h
  all_goals exact ⟨⟨_, rfl, rfl, rfl, fun _ => rfl⟩, fun _ => by simp only [Instr.ofBody, Instr.ofC, *]; rfl⟩

theorem Instr.ofBody_readFrom {op : Nat} {b : Body} {ls : Lits} {i : Instr} (h : Instr.ofBody op ls b = some i) :
    i.ReadFrom op b ls :=
  match b with
  | .a _ => Instr.ofA_readFrom h
  | .x _ => Instr.ofX_readFrom h
  | .m _ => Instr.ofM_readFrom h
  | .e _ => Instr.ofE_readFrom h
  | .b _ => Instr.ofB_readFrom ls h
  | .c _ => Instr.ofC_readFrom h

/-! ### What words read as -/

/-- What words read as an instruction say of its row: the format is that of their opcode, they are the words of its fields, and its
literals are those given when these are as many as it takes. -/
theorem Instr.ofWords_row {w v : IWord} {ls : Lits} {i : Instr} (h : Instr.ofWords w v ls = some i) :
    ∃ e, i.enc? = some e ∧ fmtOf (opOf w).toNat = some e.body.fmt ∧ e.encode = e.body.place w v ++ e.lits ∧
      (ls.length = e.litCount → e.lits = ls) := by
  rw [Instr.ofWords_eq] at h
  obtain ⟨F, hF, h⟩ := Option.bind_eq_some_iff.mp h
  obtain ⟨e, he, hop, hb, hl⟩ := (Instr.ofBody_readFrom h).row
  refine ⟨e, he, by rw [hF, hb, Body.fmt_ofWords], ?_, hl⟩
  rw [Enc.encode_eq, BitVec.eq_of_toNat_eq hop, hb, Body.words_ofWords]

/-- How many literals words take does not depend on the literals (R25). -/
theorem Instr.ofWords_litCount {w v : IWord} {ls : Lits} {i : Instr} (h : Instr.ofWords w v ls = some i) (ls' : Lits) :
    ∃ j, Instr.ofWords w v ls' = some j ∧ j.litCount = i.litCount := by
  rw [Instr.ofWords_eq] at h ⊢
  obtain ⟨F, hF, h⟩ := Option.bind_eq_some_iff.mp h
  rw [hF]
  exact Option.map_eq_some_iff.mp ((Instr.ofBody_readFrom h).sameCount ls')

theorem Instr.litCount_eq {i : Instr} {e : Enc} (h : i.enc? = some e) : i.litCount = e.litCount := by
  simp [Instr.litCount, h]

/-! ### The decoder -/

/-- The words of a format go, with whatever follows them, to the reading of the literals. -/
theorem decodeWords_place {w : IWord} {b : Body} (h : fmtOf (opOf w).toNat = some b.fmt) (v : IWord) (rest : List IWord) :
    decodeWords (b.place w v ++ rest) = decodeRest w (if b.twoWords then v else 0) rest := by
  cases b <;> simp [decodeWords, h, Body.fmt, Body.place, Body.twoWords]

/-- Words that decode are those of a format, with what follows them. -/
theorem exists_place_of_decodeWords {ws rest : List IWord} {i : Instr} (h : decodeWords ws = .ok i rest) :
    ∃ w v tail, decodeRest w v tail = .ok i rest ∧ ∀ b : Body, fmtOf (opOf w).toNat = some b.fmt → ws = b.place w v ++ tail := by
  cases ws with
  | nil => simp [decodeWords] at h
  | cons w tail =>
    cases hF : fmtOf (opOf w).toNat with
    | none => simp [decodeWords, hF] at h
    | some F =>
      cases hb : F.twoWords with
      | false =>
        refine ⟨w, 0, tail, by cases F <;> simp_all [decodeWords, Fmt.twoWords], fun b hbF => ?_⟩
        simp [Body.place, Body.twoWords_eq, ← Option.some.inj (hF.symm.trans hbF), hb]
      | true =>
        cases tail with
        | nil => cases F <;> simp_all [decodeWords, Fmt.twoWords]
        | cons v rest' =>
          refine ⟨w, v, rest', by cases F <;> simp_all [decodeWords, Fmt.twoWords], fun b hbF => ?_⟩
          simp [Body.place, Body.twoWords_eq, ← Option.some.inj (hF.symm.trans hbF), hb]

/-- Words that read as an instruction with literals, as many as it takes, decode to it and leave what follows. -/
theorem decodeRest_eq_ok {w v : IWord} {ls : Lits} {i : Instr} (h : Instr.ofWords w v ls = some i) (hn : ls.length = i.litCount)
    (rest : List IWord) : decodeRest w v (ls ++ rest) = .ok i rest := by
  obtain ⟨j, hj, hc⟩ := Instr.ofWords_litCount h []
  have hlen : j.litCount = ls.length := hc.trans hn.symm
  simp [decodeRest, hj, hlen, h]

/-- What decodes to an instruction is its literals and what is left, and its words are those it was read from. -/
theorem decodeRest_ok {w v : IWord} {ws rest : List IWord} {i : Instr} (h : decodeRest w v ws = .ok i rest) :
    ∃ e, i.enc? = some e ∧ fmtOf (opOf w).toNat = some e.body.fmt ∧ e.encode ++ rest = e.body.place w v ++ ws := by
  unfold decodeRest at h
  split at h
  · cases h
  · rename_i j hj
    split at h
    · cases h
    · rename_i hlen
      split at h
      · cases h
      · rename_i k hk
        cases h
        obtain ⟨e, he, hf, hw, hl⟩ := Instr.ofWords_row hk
        obtain ⟨j', hj', hc⟩ := Instr.ofWords_litCount hk []
        obtain rfl : j = j' := Option.some.inj (hj.symm.trans hj')
        rw [Instr.litCount_eq he] at hc
        refine ⟨e, he, hf, ?_⟩
        rw [hw, hl (by rw [List.length_take]; omega), List.append_assoc, List.take_append_drop]

end Sys2Proof

namespace Sys2Proof.Laws.Fields

/-- Every instruction is read back from its words, by the lemma of its own row. -/
theorem statement (i : Instr) : Statement i := by
  cases i <;> simp only [
    add, sub, addSatSigned, addSatUnsigned, subSatSigned, subSatUnsigned, mul, mulhiSigned, mulhiUnsigned, mad, abs, pack, minSigned,
    minUnsigned, maxSigned, maxUnsigned, and, or, xor, unpack, andn, shl, shr, sar, rol, clz, ctz, popc, brev, bfx, swz, bfi,
    cmpSigned, cmpUnsigned, kop, sel, lea, movl, gmov, cvti, xlSh, xlBc, xlRed, xlScan, xlVoteAll, xlVoteAny, xlVoteUni, xlBal, dp4,
    rnd, dp8, fadd, fsub, fmul, ffma, fmin, fmax, fminn, fmaxn, fabs, fneg, fcmp, fclass, fcvt, fcvti, icvtf, frnd, fscl, fexpo, fdiv,
    frcp, frsq, fsqrt, fexp2, flog2, fexp, fsinpi, fcospi, ftanh, ld, st, lda, sta, ldc, stc, pf, preq, cinv, cwb, hmov, hnarrow,
    hoff, hsave, hload, hinfo, fence, acq, rel, mvrange, mvwait, wsclose, wsreset, wsstate, pgclass, replicAdd, replicRem, atom, red,
    await, gang, mzero, mmx, mmxs, mdrain, mstat, mcks, mcancel, cpy, cpyg, cfill, publish, ewait, estat, mig, dgst, fput, fget,
    fsend, frecv, fstat, cinit, cpost, cwait, cbar, cfree, snap, snapst, snapwait, snapdrop, gspawn, glaunch, gwait, gcancel, budget,
    detsig, ctxsave, ctxload, tlbinv, asidinv, injMat, injFrag, injPoison, preempt, bra, call, brx, callx, ret, exit, yield, nop, srd,
    swr, trap, brk, barSync, barArrive, barWait, step, stepPod, tret, cfgrd, cfgwr, clauseIssue, bundlePriorityAging,
    yieldDelayExpiry, deferredEventLanding, sfuEntryStart, sfuResultLanding, groupRetire, stepComplete, gets, getm, forward,
    grainData, wsWaitExpiry, moveTimeoutExpiry, atomicEngineOperation, atomicGrainRecall, homeSliceAtomic, awaitTest,
    awaitRetestTimer, rendezvousLatchGrant, matrixEntryPlacement, matrixPass, matrixStarvationPriority, matrixCompletion,
    matrixDrainRun, matrixZeroRun, copyCommandStart, copyCommandCompletion, engineStatusUpdate, publishExecution, messageInjection,
    dataFragmentReceive, decodeDeadlineExpiry, messageDelivery, ackCoalesceExpiry, filterEntryExpiry, ackReceive, nackReceive,
    busyReplyReceive, busyWaitExpiry, ackWaitExpiry, lossNoticeReceive, lossNoticeRepeat, combineResultReceive, markerReceive,
    snapshotSweep, snapshotChipComplete, snapshotReportReceive, snapshotDropFinish, trapEntry, contextKill, drainLimitExpiry,
    forcedSave, teamDispatch, starvationSwap, nodeVisitGrid, nodeVisitCopy, nodeVisitColl, nodeVisitCond, nodeVisitWhile,
    nodeVisitSnap, nodeVisitHostsig, nodeVisitEnd, gridComplete, gridEndDigest, eventAreaWrite, dropReportReceive, contextBecomesLive,
    clauseCommit, stepNoticeReceive, ltsSelfAdvance, moduleRebase, upgrade, putm, puto, invalidate, coherenceAck,
    hostAtomicCompletion, hostAccessCompletion, hostSnoop, migrationPageMove, digestCompletion, mordantLakeWrite, fragmentForward,
    combineContributionReceive, snapshotRecordInstant, sealNoticeReceive, failureNoticeReceive, dropNoticeReceive, patrolScrub,
    walkStartWrite, eventAreaRetry, hostConfigWrite, pathTableWrite, placementTableWrite, vfGrantWrite, ctxCmdDrain, ctxCmdDrainNow,
    ctxCmdKill, ctxCmdResume, ctxCmdEnd, hostW2Read, hostW2Write, poisonClear, linkTraining, boot, recoveryDoorbell, spdmRequest,
    powerGating, thermalThrottle, thermalThrottleEnd, thermalTrip, correctedError, uncorrectableError, sliceRetire,
    framePoolWaitExpiry, snapshotRestoration]

end Sys2Proof.Laws.Fields

namespace Sys2Proof

/-! ### The round trip -/

/-- Decoding the words of a well-formed instruction, with any words after them, gives it back (R48). -/
theorem decodeWords_encode {i : Instr} {e : Enc} (he : i.enc? = some e) (hi : e.fault? = none) (hn : e.lits.length = e.litCount)
    (rest : List IWord) : decodeWords (e.encode ++ rest) = .ok i rest := by
  have h := Laws.Fields.statement i e he hi 0
  obtain ⟨e', he', hf, hw, -⟩ := Instr.ofWords_row h
  obtain rfl : e = e' := Option.some.inj (he.symm.trans he')
  rw [hw, List.append_assoc, decodeWords_place hf]
  have hd := decodeRest_eq_ok h (hn.trans (Instr.litCount_eq he).symm) rest
  by_cases h2 : e.body.twoWords
  · simpa [h2] using hd
  · simpa [h2] using hd

/-- Decoded words are those of the instruction, followed by what is left. -/
theorem encode_of_decodeWords {ws rest : List IWord} {i : Instr} (h : decodeWords ws = .ok i rest) : encode i ++ rest = ws := by
  obtain ⟨w, v, tail, hd, hp⟩ := exists_place_of_decodeWords h
  obtain ⟨e, he, hf, hw⟩ := decodeRest_ok hd
  rw [hp e.body hf, ← hw]
  simp [encode, he]

/-- Settles O58: the words of a format are its fields and back (Table 2·8 read in both directions), and the literals follow them. -/
theorem encodingRoundTrip : Obligations.EncodingRoundTrip := by
  unfold Obligations.EncodingRoundTrip
  refine ⟨fun i rest hwf henc => ?_, fun ws rest i h => encode_of_decodeWords h⟩
  obtain ⟨e, he⟩ := Option.isSome_iff_exists.mp henc
  simp only [Instr.wellFormed, he, Bool.and_eq_true, beq_iff_eq] at hwf
  obtain ⟨hfault, hlits⟩ := hwf
  rw [show encode i = e.encode by simp [encode, he]]
  exact decodeWords_encode he hfault hlits rest

end Sys2Proof
end

section
/-!
PROOF. The words of the spec's worked clauses decode.
-/

namespace Sys2Proof

open Tests in
/-- Settles O57: each worked line is evaluated once, by the test that bears its name. -/
theorem wordsOfTheSpecDecode : Obligations.WordsOfTheSpecDecode :=
  ⟨test_decode_add, test_decode_mul_literal, test_decode_cmp, test_decode_xlRed, test_decode_ld, test_decode_st, test_decode_atom_guarded,
    test_decode_await, test_decode_pgclass, test_decode_mmx, test_decode_cpy, test_decode_fsend, test_decode_cwait, test_decode_snapdrop,
    test_decode_tlbinv, test_decode_bra, test_decode_exit, test_decode_srd, test_decode_cfgrd_literal, test_decode_tret, test_refused_words⟩

end Sys2Proof
end

section
/-!
PROOF. The checks common to all instructions, in the order of R48: which of them fails first decides the fault, and the fault is that of the
clause served. The checks of a clause header (R23).
-/

namespace Sys2Proof.Machine

/-! ### The encoding checks of an instruction -/

/-- An unassigned type or sub-op is found first. -/
theorem fault?_illegal {e : Enc} (h : e.illegal0 = true ∨ e.illegal1 = true) : e.fault? = some .illegalOpcode := by
  simp [Enc.fault?, h]

theorem fault?_reserved {e : Enc} (hi : e.illegal0 = false ∧ e.illegal1 = false) (h : e.reserved0 = true ∨ e.reserved1 = true) :
    e.fault? = some .reservedField := by
  simp [Enc.fault?, hi, h]

theorem fault?_none {e : Enc} (hi : e.illegal0 = false ∧ e.illegal1 = false) (hr : e.reserved0 = false ∧ e.reserved1 = false) :
    e.fault? = none := by
  simp [Enc.fault?, hi, hr]

/-! ### The fault that the clause served meets -/

theorem State.ready_undecoded {s : State} {iss : Issue} {c : FaultCode} (hne : iss.words ≠ []) (h : decodeWords iss.words = .bad c) :
    s.ready iss = .fault c := by
  unfold State.ready
  split
  · contradiction
  · simp [h]

/-- The checks of the encoding come first. -/
theorem State.ready_illEncoded {s : State} {iss : Issue} {i : Instr} {e : Enc} {rest : List IWord} {c : FaultCode}
    (hd : decodeWords iss.words = .ok i rest) (he : i.enc? = some e) (hf : e.fault? = some c) : s.ready iss = .fault c := by
  have hne := words_ne_nil_of_decodeWords hd
  unfold State.ready
  split
  · contradiction
  · simp [hd, he, hf]

/-- What is encoded as it should be is checked in the order register range, privilege, framing. -/
theorem State.ready_wellEncoded {s : State} {iss : Issue} {i : Instr} {e : Enc} {rest : List IWord}
    (hd : decodeWords iss.words = .ok i rest) (he : i.enc? = some e) (hf : e.fault? = none) :
    s.ready iss =
      if e.outOfRange iss.before.blocks then .fault .regRange
      else if e.priv && !(s.ctx (s.ctxOf iss.gid)).sys then .fault .priv
      else if iss.framing e i rest then .fault .clauseFraming
      else .run i := by
  have hne := words_ne_nil_of_decodeWords hd
  unfold State.ready
  split
  · contradiction
  · simp [hd, he, hf]

/-- The clause served leaves its slot when it is at the front of the slots. -/
theorem State.serve_raise (s : State) (iss : Issue) (c : FaultCode) :
    (s.serve iss).raise iss c iss.lanes =
      (({ s with issuing := s.issuing.erase iss } : State).engDone iss.reader).modGroup iss.gid fun g => { g with
        bundles := g.bundles.filter fun b => b.pc != iss.pc
        precise := g.precise ++ [{ code := c, pc := iss.pc, index := iss.idx, lane := lowestLane iss.lanes, lanes := iss.lanes,
                                   bundle := iss.lanes, inHandler := iss.before.inHandler }] } := rfl

/-- A step at a clause whose next instruction fails a check raises that check's fault. -/
theorem step_of_ready_fault {s : State} {iss : Issue} {c : FaultCode} (ha : s.agenda = []) (hn : s.nextIssue = some iss)
    (hr : (s.serve iss).ready iss = .fault c) : step s = .next ((s.serve iss).raise iss c iss.lanes) := by
  rw [step_serves ha hn, stepIssue, hr]
  rfl

/-! ### The checks of a header (R23) -/

theorem headerFault_framing {h : IWord} (hf : bits h.toNat 31 28 ≠ 0xC ∨ bits h.toNat 27 24 = 0 ∨ 6 ≤ bits h.toNat 23 21) :
    headerFault h = some .clauseFraming := by
  simp [headerFault, hf, or_assoc]

theorem headerFault_of_framed {h : IWord} (ht : bits h.toNat 31 28 = 0xC) (hc : bits h.toNat 27 24 ≠ 0) (hk : bits h.toNat 23 21 < 6) :
    headerFault h = if bits h.toNat 14 12 = 6 ∨ bits h.toNat 10 0 ≠ 0 then some .reservedField else none := by
  simp [headerFault, ht, hc, hk]

/-- Settles O56: the step of a clause that fails a check is the fault of that check, and each clause of the statement names the first check
that fails. -/
theorem clauseChecksComeInTheOrderOfR48 : Obligations.ClauseChecksComeInTheOrderOfR48 := by
  unfold Obligations.ClauseChecksComeInTheOrderOfR48
  intro s iss ha hn raised
  have hraised : ∀ c, (s.serve iss).ready iss = .fault c → raised c := fun c hr =>
    (step_of_ready_fault ha hn hr).trans (congrArg Host.Outcome.next (s.serve_raise iss c))
  refine ⟨fun c hne hd => hraised c (State.ready_undecoded hne hd), fun i e rest hd he => ?_, fun h => ?_⟩
  · have hready := fun (hf : e.fault? = none) => State.ready_wellEncoded (s := s.serve iss) hd he hf
    have hsys : ((s.serve iss).ctx ((s.serve iss).ctxOf iss.gid)).sys = (s.ctx (s.ctxOf iss.gid)).sys := rfl
    intro typed legal
    have hlegal : legal → e.fault? = none := fun ⟨hi, hr⟩ => fault?_none hi hr
    refine ⟨fun h => hraised _ ?_, fun hi h => hraised _ ?_, fun hl ho => hraised _ ?_, fun hl ho hp hs => hraised _ ?_,
      fun hl ho hp hf => hraised _ ?_⟩
    · exact State.ready_illEncoded hd he (fault?_illegal h)
    · exact State.ready_illEncoded hd he (fault?_reserved hi h)
    · simp [hready (hlegal hl), ho]
    · simp [hready (hlegal hl), ho, hp, hsys, hs]
    · rw [hready (hlegal hl)]
      rcases hp with hp | hp <;> simp [ho, hp, hsys, hf]
  · refine ⟨headerFault_framing, fun ht hc hk hr => ?_, fun ht hc hk hs hr => ?_⟩
    · rw [headerFault_of_framed ht hc hk, if_pos hr]
    · rw [headerFault_of_framed ht hc hk, if_neg (by simp [hs, hr])]

end Sys2Proof.Machine
end

section
/-!
PROOF. Forming the bundles of a clause boundary (R66 to R69): what it leaves of a group, and of the state.
-/

namespace Sys2Proof

/-! ### Maps -/

theorem SMap.modify_id {α : Type} (m : SMap α) (k : Nat) : (m.modify k fun a => a) = m := by
  induction m with
  | nil => rfl
  | cons p m ih => simp [SMap.modify, ih]

theorem SMap.modify_modify {α : Type} (m : SMap α) (k : Nat) (f g : α → α) : (m.modify k f).modify k g = m.modify k fun a => g (f a) := by
  induction m with
  | nil => rfl
  | cons p m ih =>
    by_cases h : p.1 = k
    · simp [SMap.modify, h]
    · simp [SMap.modify, h, ih]

end Sys2Proof

namespace Sys2Proof.Machine

/-! ### Folds -/

/-- A fold of steps that each leave a part leaves it. -/
theorem foldl_leaves {α β γ : Type} (π : α → γ) {f : α → β → α} (h : ∀ a b, π (f a b) = π a) (l : List β) (a : α) :
    π (l.foldl f a) = π a := by
  induction l generalizing a with
  | nil => rfl
  | cons b l ih => exact (ih _).trans (h a b)

/-! ### The threads of a group -/

/-- Changing the threads of some lanes changes no thread past the group's last. -/
theorem Group.thread_modThreads_of_le (g : Group) (lanes : Lanes) (f : Nat → Thread → Thread) {l : Nat} (h : g.threads.length ≤ l) :
    (g.modThreads lanes f).thread l = g.thread l := by
  simp [Group.thread, Group.modThreads, List.getD, h]

/-! ### A group of which bundles have been formed -/

/-- A group that is another one but for its formed bundles, and for what forming them moves: the tie-break register, and the skip and yield
counts of the threads. -/
structure Group.Reformed (a b : Group) : Prop where
  group : a = { b with bundles := a.bundles, lfsr := a.lfsr, threads := a.threads }
  count : a.threads.length = b.threads.length
  thread : ∀ l, a.thread l = { b.thread l with skip := (a.thread l).skip, yielded := (a.thread l).yielded }

theorem Group.Reformed.refl (g : Group) : g.Reformed g := ⟨rfl, rfl, fun _ => rfl⟩

theorem Group.Reformed.trans {a b c : Group} (h : a.Reformed b) (h' : b.Reformed c) : a.Reformed c := by
  refine ⟨?_, h.count.trans h'.count, fun l => ?_⟩
  · rw [h.group, h'.group]
  · rw [h.thread l, h'.thread l]

/-- Bundles put in place of a group's leave the rest of it. -/
theorem Group.Reformed.withBundles {a b : Group} (h : a.Reformed b) (bs : List Bundle) : Group.Reformed { a with bundles := bs } b :=
  ⟨by rw [h.group], h.count, h.thread⟩

/-- The boundary moves the skip and yield counts of the threads it has looked at. -/
theorem Group.Reformed.passed {a b : Group} (h : a.Reformed b) (lanes : Lanes) (p : Nat → Bool) :
    (a.modThreads lanes fun l t => t.passed (p l)).Reformed b := by
  refine Group.Reformed.trans ⟨rfl, a.modThreads_length lanes _, fun l => ?_⟩ h
  rcases Nat.lt_or_ge l a.threads.length with hl | hl
  · rw [Group.thread_modThreads _ _ _ hl]
    split <;> rfl
  · rw [Group.thread_modThreads_of_le _ _ _ hl]

/-- The choice of the PC with the most threads moves the tie-break register alone (R68). -/
theorem Group.populous_reformed (g : Group) (pool : List Nat) (x : Option Nat) : (g.populous pool x).2.Reformed g := by
  unfold Group.populous
  extract_lets ps top
  split
  · exact .refl g
  · exact .refl g
  · exact ⟨rfl, rfl, fun _ => rfl⟩

/-- Forming bundles is no more than that. -/
theorem Group.form_reformed (g : Group) (now : Nat) (meets : Bundle → Bool) : (g.form now meets).Reformed g := by
  unfold Group.form
  extract_lets ready
  split
  · split
    · exact .refl g
    · rename_i p _ _
      extract_lets first
      have hq : (if ready.any fun l => (g.thread l).pc.toNat != p then g.populous ready (some p) else (none, g)).2.Reformed g := by
        split
        · exact g.populous_reformed ready (some p)
        · exact .refl g
      split
      rename_i q g' hg
      rw [hg] at hq
      exact (hq.withBundles _).passed _ _
  · rename_i held _
    extract_lets joins held' pool
    split
    · exact (Group.Reformed.refl g).withBundles _
    · rename_i f skip _
      have hp : (if skip || decide (f < held'.pc.toNat) then (some f, g) else g.populous pool none).2.Reformed g := by
        split
        · exact .refl g
        · exact g.populous_reformed pool none
      split
      rename_i p g' hg
      rw [hg] at hp
      split
      · exact hp.withBundles _
      · exact (hp.withBundles _).passed _ _
  · exact .refl g

/-! ### The state -/

/-- Preserving an object for a live snapshot moves the snapshots alone (R350). -/
theorem State.cow_eq (s : State) (ty owner index : Nat) (body : State → List Byte) :
    s.cow ty owner index body = { s with snaps := (s.cow ty owner index body).snaps } := by
  unfold State.cow
  extract_lets k
  split <;> rfl

/-- A write of a v register moves its group, and the snapshots that its block is preserved for. -/
theorem State.writeV_eq (s : State) (gid r : Nat) (lanes : Lanes) (x : LaneVals) :
    s.writeV gid r lanes x =
      { s with groups := s.groups.modify gid fun g => g.writeV r lanes x, snaps := (s.writeV gid r lanes x).snaps } := by
  unfold State.writeV
  rw [State.cow_eq]
  rfl

/-- What a reader of the engines leaves behind when it ends: what was fetched for it is gone. -/
theorem State.engDone_eq (s : State) (who : Nat) :
    s.engDone who = { s with engLines := (s.engDone who).engLines, engAsked := (s.engDone who).engAsked
                             readWaits := (s.engDone who).readWaits } := by
  unfold State.engDone
  split <;> rfl

theorem State.group_setGroup_same (s : State) (k : Nat) (g : Group) : (s.setGroup k g).group k = g := by
  simp [State.group]

theorem State.group_setGroup_other (s : State) {k j : Nat} (g : Group) (h : j ≠ k) : (s.setGroup k g).group j = s.group j := by
  simp [State.group, SMap.get_insert_other _ g _ h]

/-- Of the whole state, forming bundles moves the groups, and each is reformed. -/
structure State.Reforms (t s : State) : Prop where
  state : t = { s with groups := t.groups }
  group : ∀ k, (t.group k).Reformed (s.group k)

theorem State.Reforms.refl (s : State) : s.Reforms s := ⟨rfl, fun _ => .refl _⟩

theorem State.Reforms.trans {a b c : State} (h : a.Reforms b) (h' : b.Reforms c) : a.Reforms c :=
  ⟨by rw [h.state, h'.state], fun k => (h.group k).trans (h'.group k)⟩

theorem State.form_reforms (s : State) (gid : Nat) : (s.form gid).Reforms s := by
  unfold State.form
  extract_lets g
  split
  · exact .refl s
  · refine ⟨rfl, fun k => ?_⟩
    by_cases hk : k = gid
    · subst hk
      rw [State.group_setGroup_same]
      exact g.form_reformed s.clock (s.waitsAt k)
    · rw [State.group_setGroup_other s _ hk]
      exact .refl _

theorem State.foldl_form_reforms (l : List (Nat × Group)) (s : State) : (l.foldl (fun (s : State) p => s.form p.1) s).Reforms s := by
  induction l generalizing s with
  | nil => exact .refl s
  | cons p l ih => exact (ih (s.form p.1)).trans (s.form_reforms p.1)

theorem State.formAll_reforms (s : State) : s.formAll.Reforms s := State.foldl_form_reforms s.groups s

end Sys2Proof.Machine
end

section
/-!
PROOF. The commit of a clause of register effects (R26, R27): nothing holds it back, and each register takes what the effects give when they
are applied in index order.
-/

namespace Sys2Proof.Machine

/-! ### Register effects -/

/-- What an effect does to a group; an instruction's own commit is no register effect. -/
def Effect.onGroup (g : Group) : Effect → Group
  | .v r lanes x => g.writeV r lanes x
  | .k r lanes x => g.writeK r lanes x
  | .g r x => { g with g := g.g.put r x 0 }
  | .h r x => { g with h := g.h.put r x 0 }
  | .orFlags lanes x => g.orFlags lanes x
  | .setFlags lanes x => g.modThreads lanes fun l t => { t with flags := (x.at l).truncate 5 }
  | .setDraw lanes x => g.modThreads lanes fun l t => { t with draw := x.at l }
  | .setLfsr x => { g with lfsr := if x.truncate 16 = 0 then g.lfsr else x.truncate 16 }
  | .setFpctl x => { g with fpctl := x }
  | .setGang x => { g with gang := x }
  | .setPc lanes x => g.modThreads lanes fun l t => { t with pc := (x.at l).truncate 52 }
  | .count _ | .act .. => g

/-- What an effect does to a thread. -/
def Effect.onThread (l : Nat) (t : Thread) : Effect → Thread
  | .v r lanes x => { t with v := if lanes.has l then t.v.put r (x.at l) 0 else t.v }
  | .k r lanes x => { t with k := if lanes.has l then t.k.put r ((x.at l).truncate 16) 0 else t.k }
  | .orFlags lanes x => { t with flags := if lanes.has l then t.flags ||| (x.at l).truncate 5 else t.flags }
  | .setFlags lanes x => { t with flags := if lanes.has l then (x.at l).truncate 5 else t.flags }
  | .setDraw lanes x => { t with draw := if lanes.has l then x.at l else t.draw }
  | .setPc lanes x => { t with pc := if lanes.has l then (x.at l).truncate 52 else t.pc }
  | _ => t

/-- A register of a map that is put reads the value put. -/
theorem get_put_ite {w : Nat} (m : SMap (BitVec w)) (q r : Nat) (a : BitVec w) :
    (m.put q a 0).get r 0 = if r = q then a else m.get r 0 := by
  by_cases hr : r = q
  · simp [hr]
  · simp [hr, SMap.get_put_other _ _ _ hr]

/-- The same in the lanes of an effect. -/
theorem get_ite_put {w : Nat} (m : SMap (BitVec w)) (c : Prop) [Decidable c] (q r : Nat) (a : BitVec w) :
    (if c then m.put q a 0 else m).get r 0 = if c ∧ r = q then a else m.get r 0 := by
  by_cases hc : c
  · simpa [hc] using get_put_ite m q r a
  · simp [hc]

theorem Effect.onGroup_length (g : Group) (e : Effect) : (e.onGroup g).threads.length = g.threads.length := by
  cases e <;> simp only [Effect.onGroup, Group.writeV, Group.writeK, Group.orFlags, Group.modThreads_length]

theorem Effect.thread_onGroup (g : Group) (e : Effect) {l : Nat} (h : l < g.threads.length) :
    (e.onGroup g).thread l = e.onThread l (g.thread l) := by
  cases e <;> simp only [Effect.onGroup, Effect.onThread, Group.writeV, Group.writeK, Group.orFlags, Group.thread_modThreads _ _ _ h]
  case v | k | orFlags | setFlags | setDraw | setPc => split <;> rfl
  all_goals rfl

theorem length_foldl_onGroup (es : List Effect) (g : Group) :
    (es.foldl Effect.onGroup g).threads.length = g.threads.length := by
  induction es generalizing g with
  | nil => rfl
  | cons e es ih => exact (ih _).trans (e.onGroup_length g)

/-- A thread takes the effects in index order. -/
theorem thread_foldl_onGroup (es : List Effect) (g : Group) {l : Nat} (h : l < g.threads.length) :
    (es.foldl Effect.onGroup g).thread l = es.foldl (Effect.onThread l) (g.thread l) := by
  induction es generalizing g with
  | nil => rfl
  | cons e es ih =>
    rw [List.foldl_cons, List.foldl_cons, ih _ (by rwa [e.onGroup_length]), e.thread_onGroup g h]

/-- What no effect changes of a group. -/
theorem Effect.onGroup_frame (g : Group) (e : Effect) :
    (e.onGroup g).sb = g.sb ∧ (e.onGroup g).queue = g.queue ∧ (e.onGroup g).faultInfo = g.faultInfo ∧
      (e.onGroup g).faultAddr = g.faultAddr ∧ (e.onGroup g).inHandler = g.inHandler := by
  cases e <;> exact ⟨rfl, rfl, rfl, rfl, rfl⟩

theorem foldl_onGroup_frame (es : List Effect) (g : Group) :
    (es.foldl Effect.onGroup g).sb = g.sb ∧ (es.foldl Effect.onGroup g).queue = g.queue ∧
      (es.foldl Effect.onGroup g).faultInfo = g.faultInfo ∧ (es.foldl Effect.onGroup g).faultAddr = g.faultAddr ∧
      (es.foldl Effect.onGroup g).inHandler = g.inHandler := by
  induction es generalizing g with
  | nil => exact ⟨rfl, rfl, rfl, rfl, rfl⟩
  | cons e es ih =>
    obtain ⟨hsb, hqueue, hinfo, haddr, hhandler⟩ := e.onGroup_frame g
    obtain ⟨hsb', hqueue', hinfo', haddr', hhandler'⟩ := ih (e.onGroup g)
    exact ⟨hsb'.trans hsb, hqueue'.trans hqueue, hinfo'.trans hinfo, haddr'.trans haddr, hhandler'.trans hhandler⟩

/-! ### The effects of a clause on the state -/

theorem State.effect_register (s : State) (iss : Issue) {e : Effect} (h : e.instr? = none) :
    s.effect iss e = { s with groups := s.groups.modify iss.gid fun g => e.onGroup g, flagev := (s.effect iss e).flagev
                              snaps := (s.effect iss e).snaps } := by
  cases e
  case act => cases h
  case v r lanes x =>
    simp only [State.effect, Effect.onGroup]
    rw [State.writeV_eq]
  case setLfsr x =>
    have : (fun g : Group => if x.truncate 16 = 0 then g else { g with lfsr := x.truncate 16 }) = fun g => (Effect.setLfsr x).onGroup g := by
      funext g
      simp only [Effect.onGroup]
      split <;> rfl
    simp only [State.effect, this]
    rfl
  case count c =>
    simp only [State.effect, Effect.onGroup, SMap.modify_id]
    rfl
  all_goals rfl

/-- The register effects of a clause act on its group in index order, and move the counts of flags and the snapshots besides. -/
theorem State.foldl_effect_register (iss : Issue) {es : List Effect} (h : ∀ e ∈ es, e.instr? = none) (s : State) :
    es.foldl (fun s e => s.effect iss e) s =
      { s with groups := s.groups.modify iss.gid fun g => es.foldl Effect.onGroup g
               flagev := (es.foldl (fun s e => s.effect iss e) s).flagev, snaps := (es.foldl (fun s e => s.effect iss e) s).snaps } := by
  induction es generalizing s with
  | nil => simp [SMap.modify_id]
  | cons e es ih =>
    obtain ⟨he, hes⟩ := List.forall_mem_cons.mp h
    rw [List.foldl_cons, ih hes, State.effect_register s iss he]
    simp only [SMap.modify_modify, List.foldl_cons]

/-! ### Nothing holds the clause back -/

theorem barFault_register {es : List Effect} (h : ∀ e ∈ es, e.instr? = none) (s : State) (gid : Nat) : s.barFault gid es = none := by
  induction es with
  | nil => rfl
  | cons e es ih =>
    obtain ⟨he, hes⟩ := List.forall_mem_cons.mp h
    cases e
    case act => cases he
    all_goals exact ih hes

theorem collFault_register {es : List Effect} (h : ∀ e ∈ es, e.instr? = none) (m : SMap Combine) : collFault m es = none := by
  induction es with
  | nil => rw [collFault]
  | cons e es ih =>
    obtain ⟨he, hes⟩ := List.forall_mem_cons.mp h
    cases e
    case act => cases he
    all_goals
      rw [collFault]
      exact ih hes
      simp

/-- No check that other clauses may have made fail is made of register effects. -/
theorem State.commitFault_register {iss : Issue} (h : ∀ e ∈ iss.effects, e.instr? = none) (s : State) : s.commitFault iss = none := by
  unfold State.commitFault
  rw [barFault_register h, collFault_register h]
  refine List.findSome?_eq_none_iff.mpr fun e he => ?_
  have := h e he
  cases e
  case act => cases this
  all_goals rfl

theorem Issue.submits_register {iss : Issue} (h : ∀ e ∈ iss.effects, e.instr? = none) (unit : Nat) : iss.submits unit = 0 := by
  simp +contextual [Issue.submits, h]

theorem Effect.post?_register {e : Effect} (h : e.instr? = none) : e.post? = none := by
  cases e
  case act => cases h
  all_goals rfl

theorem State.effectWaits_register {e : Effect} (h : e.instr? = none) (s : State) (iss : Issue) : s.effectWaits iss e = none := by
  cases e
  case act => cases h
  all_goals rfl

/-- Register effects wait for no queue and no grain. -/
theorem State.commitWaits_register {iss : Issue} (h : ∀ e ∈ iss.effects, e.instr? = none) (s : State) : s.commitWaits iss = none := by
  have hunits : ((List.range 4).any (s.unitFull iss)) = false := by
    simp [State.unitFull, Issue.submits_register h]
  have hposts : s.postsWait iss = false := by
    have : iss.effects.filterMap Effect.post? = [] := List.filterMap_eq_nil_iff.mpr fun e he => Effect.post?_register (h e he)
    simp [State.postsWait, this]
  unfold State.commitWaits
  extract_lets spawns
  have hspawns : spawns = 0 := by
    simp +contextual [spawns, h]
  simp only [hunits, hposts, hspawns]
  simpa using fun e he => State.effectWaits_register (h e he) s iss

theorem execClauseCommit_register {s : State} {iss : Issue} {rest : List Issue} (hi : s.issuing = iss :: rest) (hw : iss.words = [])
    (h : ∀ e ∈ iss.effects, e.instr? = none) : exec .clauseCommit s = .next (s.commit iss) := by
  show execClauseCommit s = _
  rw [execClauseCommit, State.withIssue_cons _ hi]
  simp [hw, State.commitFault_register h, State.commitWaits_register h]

/-! ### The clause leaves its slot -/

theorem State.leaveSlot_eq (s : State) (iss : Issue) :
    s.leaveSlot iss = { s with
      issuing := s.issuing.drop 1, groups := (s.leaveSlot iss).groups, engLines := (s.leaveSlot iss).engLines
      engAsked := (s.leaveSlot iss).engAsked, readWaits := (s.leaveSlot iss).readWaits } := by
  unfold State.leaveSlot
  rw [State.engDone_eq]
  rfl

/-- A group whose clause leaves its slot: the clause's threads stand after it, and its bundle is no longer formed. -/
def Group.left (g : Group) (iss : Issue) : Group :=
  { g.modThreads iss.lanes (fun _ t => { t with pc := iss.nextPc, yielded := t.yielded || iss.yields }) with
    bundles := g.bundles.filter fun b => b.pc != iss.pc }

theorem State.leaveSlot_groups (s : State) (iss : Issue) :
    (s.leaveSlot iss).groups = s.groups.modify iss.gid fun g => g.left iss := by
  unfold State.leaveSlot
  rw [State.engDone_eq]
  rfl

theorem Group.thread_left (g : Group) (iss : Issue) {l : Nat} (h : l < g.threads.length) :
    (g.left iss).thread l =
      if iss.lanes.has l then { g.thread l with pc := iss.nextPc, yielded := (g.thread l).yielded || iss.yields } else g.thread l :=
  Group.thread_modThreads g iss.lanes (fun _ t => { t with pc := iss.nextPc, yielded := t.yielded || iss.yields }) h

theorem Group.length_left (g : Group) (iss : Issue) : (g.left iss).threads.length = g.threads.length :=
  g.modThreads_length iss.lanes fun _ t => { t with pc := iss.nextPc, yielded := t.yielded || iss.yields }

/-- Leaving the slot moves the PC and the yield of a thread. -/
theorem Group.thread_left_frame (g : Group) (iss : Issue) {l : Nat} (h : l < g.threads.length) :
    (g.left iss).thread l = { g.thread l with
      pc := if iss.lanes.has l then iss.nextPc else (g.thread l).pc, yielded := ((g.left iss).thread l).yielded } := by
  rw [Group.thread_left g iss h]
  split <;> rfl

/-! ### The clause commits -/

/-- The state after the effects of a clause of register effects, before the next bundles are formed. -/
theorem State.effects_leaveSlot {s : State} {iss : Issue} {g : Group} (h : ∀ e ∈ iss.effects, e.instr? = none)
    (hg : s.groups.find? iss.gid = some g) :
    ∃ u : State, s.commit iss = u.formAll ∧ u.group iss.gid = iss.effects.foldl Effect.onGroup (g.left iss) ∧
      (∀ k, k ≠ iss.gid → u.group k = s.group k) ∧
      u.issuing = s.issuing.drop 1 ∧ u.mem = s.mem ∧ u.teams = s.teams ∧ u.tags = s.tags ∧ u.ctxs = s.ctxs ∧ u.accesses = s.accesses := by
  refine ⟨_, rfl, ?_⟩
  rw [State.foldl_effect_register iss h, State.leaveSlot_eq, State.leaveSlot_groups]
  refine ⟨?_, fun k hk => ?_, rfl, rfl, rfl, rfl, rfl, rfl⟩
  · simp [State.group, SMap.get, hg]
  · simp [State.group, SMap.get, SMap.find?_modify_other _ _ hk]

/-- What a thread takes of the effects in index order, field by field. -/
theorem foldl_onThread_hom {α : Type} (π : Thread → α) {f : α → Effect → α} {l : Nat}
    (h : ∀ t e, f (π t) e = π (Effect.onThread l t e)) (es : List Effect) {t : Thread} {a : α} (ha : π t = a) :
    π (es.foldl (Effect.onThread l) t) = es.foldl f a := ha ▸ (List.foldl_hom π h).symm

/-- A field of a thread that no effect moves stands. -/
theorem foldl_onThread_keeps {α : Type} (π : Thread → α) {l : Nat} (h : ∀ t e, π (Effect.onThread l t e) = π t) (es : List Effect)
    {t : Thread} {a : α} (ha : π t = a) : π (es.foldl (Effect.onThread l) t) = a := (foldl_leaves π h es t).trans ha

/-- What a group takes of the effects in index order, field by field. -/
theorem foldl_onGroup_hom {α : Type} (π : Group → α) {f : α → Effect → α} (h : ∀ g e, f (π g) e = π (Effect.onGroup g e))
    (es : List Effect) (g : Group) :
    π (es.foldl Effect.onGroup g) = es.foldl f (π g) := (List.foldl_hom π h).symm

/-- Settles O45: nothing holds back a clause of register effects, its effects act on its group and threads field by field, and forming the
next bundles leaves every register. -/
theorem commitWritesRegistersInIndexOrder : Obligations.CommitWritesRegistersInIndexOrder := by
  unfold Obligations.CommitWritesRegistersInIndexOrder
  intro s iss rest g hi hw hg hlen hact lane
  have hreg : ∀ e ∈ iss.effects, e.instr? = none := by
    intro e he
    cases e
    case act i idx lanes x y z n => exact absurd he (hact i idx lanes x y z n)
    all_goals rfl
  refine ⟨s.commit iss, execClauseCommit_register hi hw hreg, ?_⟩
  obtain ⟨w, hcommit, hgroup, hother, hissuing, hmem, hteams, htags, hctxs, haccesses⟩ := State.effects_leaveSlot hreg hg
  have hform := hcommit ▸ w.formAll_reforms
  generalize s.commit iss = t at hform
  obtain ⟨hstate, hgroups⟩ := hform
  have hu := hgroups iss.gid
  rw [hgroup] at hu
  have hl : (g.left iss).threads.length = 32 := (g.length_left iss).trans hlen
  intro u
  refine ⟨by rw [hstate, hissuing, hi]; rfl, by rw [hstate, hmem], by rw [hstate, hteams], by rw [hstate, htags], by rw [hstate, hctxs],
    by rw [hstate, haccesses], fun k hk => ?_, ?_, fun l hl32 => ?_, ?_⟩
  · have := hgroups k
    rw [hother k hk] at this
    exact ⟨this.group, this.thread⟩
  · rw [hu.count, length_foldl_onGroup, hl]
  · rw [hu.thread l, thread_foldl_onGroup _ _ (hl.symm ▸ hl32)]
    have hstart := g.thread_left_frame iss (hlen.symm ▸ hl32)
    refine ⟨fun r => ?_, fun r => ?_, ?_, ?_, ?_, ?_, ?_, ?_⟩
    · refine foldl_onThread_hom (fun t => t.v.get r 0) (fun t e => ?_) _ (by rw [hstart])
      cases e
      case v q lanes x => exact (get_ite_put t.v _ q r _).symm
      all_goals rfl
    · refine foldl_onThread_hom (fun t => t.k.get r 0) (fun t e => ?_) _ (by rw [hstart])
      cases e
      case k q lanes x => exact (get_ite_put t.k _ q r _).symm
      all_goals rfl
    · refine foldl_onThread_hom Thread.flags (fun t e => ?_) _ (by rw [hstart])
      cases e <;> rfl
    · refine foldl_onThread_hom Thread.draw (fun t e => ?_) _ (by rw [hstart])
      cases e <;> rfl
    · refine foldl_onThread_hom Thread.pc (fun t e => ?_) _ (by rw [hstart])
      cases e <;> rfl
    · exact foldl_onThread_keeps Thread.stack (fun t e => by cases e <;> rfl) _ (by rw [hstart])
    · exact foldl_onThread_keeps Thread.status (fun t e => by cases e <;> rfl) _ (by rw [hstart])
    · exact foldl_onThread_keeps Thread.epc (fun t e => by cases e <;> rfl) _ (by rw [hstart])
  · obtain ⟨hsb, hqueue, hinfo, haddr, hhandler⟩ := foldl_onGroup_frame iss.effects (g.left iss)
    rw [show u = _ from hu.group]
    refine ⟨fun r => ?_, fun r => ?_, ?_, ?_, hsb, hqueue, hinfo, haddr, hhandler⟩
    · refine foldl_onGroup_hom (fun g => g.g.get r 0) (fun g e => ?_) iss.effects (g.left iss)
      cases e
      case g q x => exact (get_put_ite g.g q r x).symm
      all_goals rfl
    · refine foldl_onGroup_hom (fun g => g.h.get r 0) (fun g e => ?_) iss.effects (g.left iss)
      cases e
      case h q x => exact (get_put_ite g.h q r x).symm
      all_goals rfl
    · refine foldl_onGroup_hom Group.fpctl (fun g e => ?_) iss.effects (g.left iss)
      cases e <;> rfl
    · refine foldl_onGroup_hom Group.gang (fun g e => ?_) iss.effects (g.left iss)
      cases e <;> rfl

end Sys2Proof.Machine
end

section
/-!
PROOF. What stands until a clause commits (R26): the part of the state that the instructions of a clause do not move, and every operation of
theirs that leaves it.
-/

namespace Sys2Proof.Machine

/-! ### The part of the state that stands -/

/-- What stands of a thread: its registers, FLAGS, DRAW, PC and return stack. -/
structure StandingThread where
  v : SMap Word
  k : SMap (BitVec 16)
  flags : BitVec 5
  draw : Word
  pc : BitVec 52
  stack : List (BitVec 52)

/-- What stands of a group: its registers, FPCTL, GANG, scoreboard and queued faults, that it has not retired, and its threads. -/
structure StandingGroup where
  h : SMap HandleBits
  g : SMap Word
  fpctl : Word
  gang : Word
  sb : SMap Nat
  queue : List FaultRec
  retired : Bool
  thread : Nat → StandingThread

/-- What stands of the machine. Of the messages to be sent, those of class 0 carry the coherence requests that a check may make. -/
structure Standing where
  teams : SMap Team
  grids : SMap Grid
  ctxs : SMap Ctx
  commands : SMap Command
  works : SMap Work
  deferred : SMap Deferred
  combines : SMap Combine
  accesses : List Access
  cfg : SMap Word
  clock : Nat
  epoch : Nat
  messages : Nat → List Msg
  group : Nat → StandingGroup

def Thread.standing (t : Thread) : StandingThread :=
  { v := t.v, k := t.k, flags := t.flags, draw := t.draw, pc := t.pc, stack := t.stack }

def Group.standing (g : Group) : StandingGroup :=
  { h := g.h, g := g.g, fpctl := g.fpctl, gang := g.gang, sb := g.sb, queue := g.queue, retired := g.retired
    thread := fun l => (g.thread l).standing }

def State.standing (s : State) : Standing :=
  { teams := s.teams, grids := s.grids, ctxs := s.ctxs, commands := s.commands, works := s.works, deferred := s.deferred
    combines := s.combines, accesses := s.accesses, cfg := s.cfg, clock := s.clock, epoch := s.epoch
    messages := fun k => if k % 8 = 0 then [] else s.sendQ.get k []
    group := fun gid => (s.group gid).standing }

theorem State.standing_foldl {β : Type} {f : State → β → State} (h : ∀ s b, (f s b).standing = s.standing) (l : List β) (s : State) :
    (l.foldl f s).standing = s.standing := foldl_leaves State.standing h l s

theorem State.standing_ite {c : Prop} [Decidable c] {a b s : State} (ha : a.standing = s.standing) (hb : b.standing = s.standing) :
    (if c then a else b).standing = s.standing := by
  split
  · exact ha
  · exact hb

/-! ### Groups and threads -/

theorem Group.standing_modThreads {f : Nat → Thread → Thread} (h : ∀ l t, (f l t).standing = t.standing) (g : Group) (lanes : Lanes) :
    (g.modThreads lanes f).standing = g.standing := by
  have hthread : ∀ l, ((g.modThreads lanes f).thread l).standing = (g.thread l).standing := by
    intro l
    rcases Nat.lt_or_ge l g.threads.length with hl | hl
    · rw [Group.thread_modThreads _ _ _ hl]
      split
      · exact h l _
      · rfl
    · rw [Group.thread_modThreads_of_le _ _ _ hl]
  simp only [Group.standing, hthread]
  rfl

theorem State.standing_modGroup {f : Group → Group} (h : ∀ g, (f g).standing = g.standing) (s : State) (gid : Nat) :
    (s.modGroup gid f).standing = s.standing := by
  have hgroup : ∀ k, ((s.modGroup gid f).group k).standing = (s.group k).standing := by
    intro k
    by_cases hk : k = gid
    · subst hk
      cases hg : s.groups.find? k with
      | none => simp [State.group, SMap.get, hg]
      | some g => simpa [State.group, SMap.get, hg] using h g
    · rw [State.group_modGroup_other f hk]
  simp only [State.standing, hgroup]
  rfl

@[simp] theorem Thread.standing_block (t : Thread) (w : Wait) : (t.block w).standing = t.standing := by
  unfold Thread.block
  split <;> rfl

@[simp] theorem Thread.standing_endWait (t : Thread) (p : Wait → Bool) : (t.endWait p).standing = t.standing := by
  unfold Thread.endWait
  split <;> rfl

/-! ### The clause in the slot -/

@[simp] theorem State.standing_setIssue (s : State) (iss : Issue) : (s.setIssue iss).standing = s.standing := rfl

@[simp] theorem State.standing_stall (s : State) : s.stall.standing = s.standing := by
  unfold State.stall
  split <;> rfl

@[simp] theorem State.standing_engDone (s : State) (who : Nat) : (s.engDone who).standing = s.standing := by
  rw [State.engDone_eq]
  rfl

@[simp] theorem State.standing_raise (s : State) (iss : Issue) (c : FaultCode) (lanes : Lanes) (va : Nat) (aux : Word) :
    (s.raise iss c lanes va aux).standing = s.standing := by
  refine (State.standing_modGroup (fun g => ?_) _ _).trans (State.standing_engDone _ _)
  rfl

/-! ### Memory, tags and stamps -/

@[simp] theorem State.standing_putMem (s : State) (pa : Nat) (bs : List Byte) : (s.putMem pa bs).standing = s.standing := rfl
@[simp] theorem State.standing_setTag (s : State) (g : Nat) (t : BitVec 64) : (s.setTag g t).standing = s.standing := rfl
@[simp] theorem State.standing_modTag (s : State) (g : Nat) (f : BitVec 64 → BitVec 64) : (s.modTag g f).standing = s.standing := rfl
@[simp] theorem State.standing_stage (s : State) (c : Nat) (r : LakeRec) : (s.stage c r).standing = s.standing := rfl
@[simp] theorem State.standing_send (s : State) (o : Out) : (s.send o).standing = s.standing := rfl
theorem State.standing_fresh {s t : State} {x : Word} (h : s.fresh = (x, t)) : t.standing = s.standing := by
  cases h
  rfl
@[simp] theorem State.standing_setSector (s : State) (pa : Nat) (x : Sector) : (s.setSector pa x).standing = s.standing := rfl
@[simp] theorem State.standing_stampForeign (s : State) (pa : Nat) : (s.stampForeign pa).standing = s.standing := rfl
@[simp] theorem State.standing_usePage (s : State) (pa : Nat) : (s.usePage pa).standing = s.standing := rfl
@[simp] theorem State.standing_passFloor (s : State) (g : Nat) : (s.passFloor g).standing = s.standing := rfl
@[simp] theorem State.standing_unhold (s : State) (g : Nat) : (s.unhold g).standing = s.standing := rfl
@[simp] theorem State.standing_hostUsed (s : State) (g : Nat) : (s.hostUsed g).standing = s.standing := rfl
@[simp] theorem State.standing_queueReq (s : State) (g : Nat) (r : HomeReq) : (s.queueReq g r).standing = s.standing := rfl
theorem State.standing_recalled (s : State) (l : List Nat) : ({ s with recalled := l } : State).standing = s.standing := rfl
theorem State.standing_engAnswers (s : State) (m : SMap Nat) : ({ s with engAnswers := m } : State).standing = s.standing := rfl
@[simp] theorem State.standing_keepLine (s : State) (q pa : Nat) : (s.keepLine q pa).standing = s.standing := rfl
@[simp] theorem State.standing_dropLine (s : State) (q pa : Nat) : (s.dropLine q pa).standing = s.standing := rfl

@[simp] theorem State.standing_preserve (s : State) (g : Nat) : (s.preserve g).standing = s.standing := by
  unfold State.preserve
  extract_lets t te u
  split
  · rfl
  · simp only [u, State.standing_setTag]
    split <;> rfl

@[simp] theorem State.standing_writeMem (s : State) (pa : Nat) (bs : List Byte) : (s.writeMem pa bs).standing = s.standing := by
  unfold State.writeMem
  extract_lets gs
  rw [State.standing_putMem]
  split
  · rfl
  · exact State.standing_foldl State.standing_preserve gs s

@[simp] theorem State.standing_raiseLts (s : State) (q w : Nat) : (s.raiseLts q w).standing = s.standing := by
  unfold State.raiseLts
  split <;> rfl

@[simp] theorem State.standing_acquire (s : State) (q scope w : Nat) : (s.acquire q scope w).standing = s.standing := by
  unfold State.acquire
  extract_lets t
  split <;> simp [t]

@[simp] theorem State.standing_stampWrite (s : State) (q pa : Nat) : (s.stampWrite q pa).2.standing = s.standing := by
  simp [State.stampWrite]

@[simp] theorem State.standing_stampGrain (s : State) (g : Nat) : (s.stampGrain g).standing = s.standing :=
  State.standing_foldl (fun s i => s.standing_stampForeign (g * 512 + 128 * i)) _ s

@[simp] theorem State.standing_writeBack (s : State) (key : Nat) : (s.writeBack key).standing = s.standing := by
  unfold State.writeBack
  split
  · split
    · exact State.standing_writeMem s _ _
    · rfl
  · rfl

@[simp] theorem State.standing_writeBackAll (s : State) (p : Nat → Nat → Bool) : (s.writeBackAll p).standing = s.standing := by
  unfold State.writeBackAll
  refine State.standing_foldl (fun s l => ?_) _ s
  exact s.standing_writeBack l.1

@[simp] theorem State.standing_engineSurrender (s : State) (q g : Nat) : (s.engineSurrender q g).standing = s.standing := by
  unfold State.engineSurrender
  split
  · rfl
  · exact State.standing_foldl (fun s i => s.standing_setSector _ _) _ _

@[simp] theorem State.standing_recall (s : State) (g : Nat) : (s.recall g).standing = s.standing := by
  unfold State.recall
  split <;> simp

@[simp] theorem State.standing_clean (s : State) (g : Nat) : (s.clean g).standing = s.standing := s.standing_writeBackAll _

@[simp] theorem State.standing_adoptAs (s : State) (g leaf chip : Nat) : (s.adoptAs g leaf chip).standing = s.standing := by
  unfold State.adoptAs
  extract_lets t
  split <;> simp

@[simp] theorem State.standing_adopt (s : State) (g : Nat) (pte : BitVec 64) (core : Nat) : (s.adopt g pte core).standing = s.standing :=
  s.standing_adoptAs g _ s.chip

@[simp] theorem State.standing_adoptRange (s : State) (xs : List RangeGrain) : (s.adoptRange xs).standing = s.standing := by
  refine State.standing_foldl (fun s x => ?_) xs s
  split <;> simp

@[simp] theorem State.standing_markWritten (s : State) (g : Nat) : (s.markWritten g).standing = s.standing := by
  unfold State.markWritten
  split
  · extract_lets t
    split
    · exact s.standing_setTag g _
    · rfl
  · rfl

@[simp] theorem State.standing_dropUncached (s : State) (g : Nat) : (s.dropUncached g).standing = s.standing := by
  unfold State.dropUncached
  split <;> rfl

@[simp] theorem State.standing_backInvalidate (s : State) (g : Nat) : (s.backInvalidate g).standing = s.standing := by
  unfold State.backInvalidate
  split <;> rfl

/-! ### Lines -/

@[simp] theorem State.standing_evictLine (s : State) (q : Nat) : (s.evictLine q).standing = s.standing := by
  unfold State.evictLine
  extract_lets mine
  split
  · rfl
  · rcases mine with _ | ⟨m, ms⟩
    · rfl
    · exact State.standing_writeBack s _

@[simp] theorem State.standing_fillLine (s : State) (q pa : Nat) (l : Line) : (s.fillLine q pa l).standing = s.standing := by
  unfold State.fillLine
  extract_lets key t
  change t.standing = s.standing
  simp only [t]
  split <;> simp

@[simp] theorem State.standing_leaseLine (s : State) (q pa hint : Nat) : (s.leaseLine q pa hint).standing = s.standing := by
  simp [State.leaseLine]

@[simp] theorem State.standing_takeGrant (s : State) (q g reach : Nat) : (s.takeGrant q g reach).standing = s.standing := by
  unfold State.takeGrant
  split
  · exact s.standing_acquire q _ _
  · rfl

/-! ### Coherence messages -/

/-- A message of class 0 is no message of the classes 1 to 7. -/
theorem State.standing_enqueue (s : State) {m : Msg} (h : m.cls = 0) : (s.enqueue m).standing = s.standing := by
  have hq : ∀ k, (if k % 8 = 0 then [] else (s.enqueue m).sendQ.get k []) = if k % 8 = 0 then [] else s.sendQ.get k [] := by
    intro k
    split
    · rfl
    · rename_i hk
      refine SMap.get_insert_other _ _ _ fun he => hk ?_
      rw [he, chanKey, h]
      omega
  simp only [State.standing, hq]
  rfl

@[simp] theorem State.standing_sendCoh (s : State) (chip : Nat) (k : CohKind) (pa leaf arg : Nat) (data : List Byte) :
    (s.sendCoh chip k pa leaf arg data).standing = s.standing := s.standing_enqueue rfl

@[simp] theorem State.standing_sendMsg (s : State) (chip : Nat) (k : CohKind) (g : Nat) : (s.sendMsg chip k g).standing = s.standing :=
  s.standing_sendCoh chip k _ _ _ _

@[simp] theorem State.standing_sendPair (s : State) (chip g : Nat) (t : BitVec 64) (data : List Byte) :
    (s.sendPair chip g t data).standing = s.standing :=
  (State.standing_enqueue _ rfl).trans (State.standing_enqueue _ rfl)

@[simp] theorem State.standing_sendData (s : State) (chip g : Nat) (t : BitVec 64) : (s.sendData chip g t).standing = s.standing :=
  s.standing_sendPair chip g t _

/-! ### Requests to the home of a grain -/

@[simp] theorem State.standing_finishTxn (s : State) (g : Nat) : (s.finishTxn g).standing = s.standing := by
  unfold State.finishTxn
  split
  · rfl
  · rename_i t _
    split
    · rfl
    · simp only [apply_ite State.standing, State.standing_sendData, State.standing_sendMsg, State.standing_passFloor,
        State.standing_setTag]
      simp only [ite_self]
      split
      · rfl
      · split <;> rfl

@[simp] theorem State.standing_openTxn (s : State) (g : Nat) (inv fwd : List Nat) (excl : Bool) (t : Txn) :
    (s.openTxn g inv fwd excl t).standing = s.standing := by
  unfold State.openTxn
  extract_lets u v
  have hu : u.standing = s.standing := State.standing_foldl (fun s c => s.standing_sendMsg c _ g) inv s
  have hv : v.standing = u.standing := State.standing_foldl (fun s c => s.standing_sendCoh c _ _ _ _ _) fwd u
  exact (State.standing_finishTxn _ g).trans (hv.trans hu)

@[simp] theorem State.standing_homeServe (s : State) (g : Nat) (r : HomeReq) : (s.homeServe g r).standing = s.standing := by
  unfold State.homeServe
  extract_lets +onlyGivenNames s1 x own s2 t mTag st base
  have h1 : s1.standing = s.standing := s.standing_recall g
  have h2 : s2.standing = s.standing := by
    simp only [s2]
    split <;> simp [h1]
  clear_value s2
  repeat' with_reducible refine State.standing_ite ?_ ?_
  case refine_2.refine_2.refine_1.refine_2 =>
    exact (State.standing_sendData _ x g t).trans ((State.standing_recalled _ _).trans ((s2.standing_clean g).trans h2))
  case refine_2.refine_2.refine_2.refine_2.refine_1.refine_2 =>
    extract_lets t1 u t2
    exact (State.standing_sendData _ x g t2).trans ((u.standing_setTag g t2).trans ((s2.standing_passFloor g).trans h2))
  all_goals simp only [State.standing_sendData, State.standing_sendCoh, State.standing_openTxn, State.standing_setTag, h2]

@[simp] theorem State.standing_putBack (s : State) (g chip epoch : Nat) (data : List Byte) :
    (s.putBack g chip epoch data).standing = s.standing := by
  unfold State.putBack
  simp only [apply_ite State.standing, State.standing_modTag, State.standing_putMem, State.standing_stampGrain, State.standing_setTag,
    State.standing_sendMsg, ite_self]

@[simp] theorem State.standing_homeRequest (s : State) (g : Nat) (r : HomeReq) : (s.homeRequest g r).standing = s.standing := by
  unfold State.homeRequest
  extract_lets +onlyGivenNames own
  split
  · rfl
  · split
    · simp
    · simp only [apply_ite State.standing, State.standing_homeServe, State.standing_queueReq, State.standing_backInvalidate,
        State.standing_hostUsed, State.standing_adoptAs, ite_self]

@[simp] theorem State.standing_request (s : State) (g : Nat) (getM : Bool) (leaf : Nat) : (s.request g getM leaf).standing = s.standing := by
  unfold State.request
  split
  · rfl
  · split
    · simp only [apply_ite State.standing, State.standing_homeRequest, ite_self]
    · split
      · rfl
      · exact s.standing_sendCoh _ _ _ leaf 0 []

/-! ### Translation -/

@[simp] theorem State.standing_walkDone (s : State) (q : Nat) (path : List Nat) : (s.walkDone q path).standing = s.standing :=
  State.standing_foldl (fun s ea => by simp) path s

@[simp] theorem State.standing_orPte (s : State) (q : Nat) (l : Leaf) (mask : Nat) : (s.orPte q l mask).standing = s.standing := by
  unfold State.orPte
  simp only [apply_ite State.standing, State.standing_markWritten, State.standing_writeMem, State.standing_stampWrite,
    State.standing_recall, ite_self]

/-- A translation leaves what stands, whatever it answers. -/
theorem State.standing_lookup {s t : State} {c : Ctx} {core asid va : Nat} {r : Tr} (h : s.lookup c core asid va = (r, t)) :
    t.standing = s.standing := by
  suffices hs : (s.lookup c core asid va).2.standing = s.standing by rwa [h] at hs
  unfold State.lookup
  extract_lets q
  split
  · rfl
  · split
    · rfl
    · split
      · rfl
      · rename_i t _
        split
        · split
          · rfl
          · rename_i l _ _ _
            extract_lets path s' l' e
            refine (show _ = s'.standing from rfl).trans ?_
            simp only [s', State.standing_walkDone]
            split <;> simp
        · rfl
        · simp

theorem State.standing_translate {s t : State} {c : Ctx} {core asid va : Nat} {r : Tr} (h : s.translate c core asid va = (r, t)) :
    t.standing = s.standing := by
  unfold State.translate at h
  split at h
  · rename_i l pa u hu
    rw [← State.standing_lookup hu]
    split at h <;> cases h <;> rfl
  · exact State.standing_lookup h

theorem State.standing_translateStore {s t : State} {c : Ctx} {core asid va : Nat} {r : Tr}
    (h : s.translateStore c core asid va = (r, t)) : t.standing = s.standing := by
  unfold State.translateStore at h
  split at h
  · rename_i l pa u hu
    rw [← State.standing_translate hu]
    split at h
    · cases h
      rfl
    · extract_lets stale at h
      split at h
      · rename_i l' pa' v hv
        refine Eq.trans ?_ ((State.standing_translate hv).trans rfl)
        split at h <;> cases h <;> rfl
      · exact (State.standing_translate h).trans rfl
  · exact State.standing_translate h

end Sys2Proof.Machine
end

section
/-!
PROOF. The reads that a check may make, of memory and of the host's lines, leave what stands until a clause commits.
-/

namespace Sys2Proof.Machine

/-! ### Reads of device memory -/

/-- The state that the try of an access leaves. -/
def Perf.state : Perf → State
  | .done s _ _ => s
  | .refused s _ => s
  | .wait s => s

@[simp] theorem Perf.state_done (s : State) (d : List Byte) (w : Nat) : (Perf.done s d w).state = s := rfl
@[simp] theorem Perf.state_refused (s : State) (c : FaultCode) : (Perf.refused s c).state = s := rfl
@[simp] theorem Perf.state_wait (s : State) : (Perf.wait s).state = s := rfl

theorem State.standing_approach {s : State} {k : State → Perf} (hk : ∀ t, (k t).state.standing = t.standing) (pa core : Nat)
    (pte : BitVec 64) (write : Bool) : (s.approach pa core pte write k).state.standing = s.standing := by
  unfold State.approach
  extract_lets +onlyGivenNames g once s1 s2
  have h2 : s2.standing = s.standing := by
    simp only [s2, apply_ite State.standing, State.standing_adopt, s1, State.standing_recall, ite_self]
  clear_value s2
  repeat' split
  all_goals simp [h2, hk]

theorem State.standing_replicaTest {s : State} {k : State → Perf} (hk : ∀ t, (k t).state.standing = t.standing) (ra : Nat)
    (pte : BitVec 64) : (s.replicaTest ra pte k).state.standing = s.standing := by
  unfold State.replicaTest
  repeat' split
  · rfl
  · rfl
  · rfl
  · exact hk s

@[simp] theorem State.standing_loadDev (s : State) (core pa n : Nat) (pte : BitVec 64) (hint : Nat) :
    (s.loadDev core pa n pte hint).state.standing = s.standing := by
  unfold State.loadDev
  extract_lets +onlyGivenNames q g hit cl bypass leased
  clear_value hit cl
  split
  · exact State.standing_replicaTest (fun t => rfl) _ pte
  · split
    · rfl
    · split
      · split
        · repeat' split
          all_goals simp
        · rfl
      · refine State.standing_approach (fun t => ?_) pa core pte false
        extract_lets +onlyGivenNames x
        split
        · rfl
        · split
          · rfl
          · simp only [Perf.state_done]
            split <;> simp
          · split <;> rfl
          · split
            · rfl
            · split
              · simp only [Perf.state_done, apply_ite State.standing, State.standing_dropLine, State.standing_writeBack,
                  State.standing_keepLine, State.standing_takeGrant, ite_self]
              · simp only [Perf.state_done, apply_ite State.standing, State.standing_fillLine, State.standing_takeGrant, ite_self]

/-! ### Checks of accesses -/

theorem State.standing_checkAccess {s t : State} {iss : Issue} {h : HandleBits} {e : Int} {z : Nat} {need any : List Nat} {u : Use}
    {scope : Nat} {r : LaneCheck} (hr : s.checkAccess iss h e z need any u scope = (r, t)) : t.standing = s.standing := by
  unfold State.checkAccess at hr
  extract_lets c core va at hr
  split at hr
  · cases hr
    rfl
  · have htr : ∀ x w, (if u.writes then s.translateStore c core (handleAsid h) va else s.translate c core (handleAsid h) va) = (x, w) →
        w.standing = s.standing := by
      intro x w hw
      split at hw
      · exact State.standing_translateStore hw
      · exact State.standing_translate hw
    split at hr
    all_goals
      rename_i hw
      rw [← htr _ _ hw]
    · split at hr
      · cases hr
        rfl
      · split at hr <;> cases hr <;> rfl
    all_goals
      cases hr
      rfl

@[simp] theorem State.standing_checkAccess_snd (s : State) (iss : Issue) (h : HandleBits) (e : Int) (z : Nat) (need any : List Nat) (u : Use)
    (scope : Nat) : (s.checkAccess iss h e z need any u scope).2.standing = s.standing := State.standing_checkAccess (Prod.mk.eta).symm

theorem State.standing_checkAtom {s t : State} {iss : Issue} {f : FM} {ls : Lits} {size right : Nat} {u : Use} {returns : Bool} {l : Nat}
    {r : LaneCheck} (hr : s.checkAtom iss f ls size right u returns l = (r, t)) : t.standing = s.standing := by
  unfold State.checkAtom at hr
  extract_lets h at hr
  split at hr
  · rename_i hw
    rw [← State.standing_checkAccess hw]
    split at hr <;> cases hr <;> rfl
  · exact State.standing_checkAccess hr

@[simp] theorem State.standing_checkAtom_snd (s : State) (iss : Issue) (f : FM) (ls : Lits) (size right : Nat) (u : Use) (returns : Bool)
    (l : Nat) : (s.checkAtom iss f ls size right u returns l).2.standing = s.standing := State.standing_checkAtom (Prod.mk.eta).symm

/-- The checks of one lane after another leave what each leaves. -/
theorem State.standing_checkLanes {f : State → Nat → LaneCheck × State} (hf : ∀ s l, (f s l).2.standing = s.standing) (s : State)
    (lanes : List Nat) : (s.checkLanes lanes f).2.standing = s.standing :=
  foldl_leaves (fun p : List (Nat × LaneCheck) × State => p.2.standing) (fun p l => hf p.2 l) lanes ([], s)

theorem State.standing_segments {c : Ctx} {core asid : Nat} (fuel : Nat) : ∀ {s t : State} {va len : Nat} {r : Segs},
    s.segments c core asid va len fuel = (r, t) → t.standing = s.standing := by
  induction fuel with
  | zero =>
    intro s t va len r h
    cases h
    rfl
  | succ fuel ih =>
    intro s t va len r h
    unfold State.segments at h
    split at h
    · cases h
      rfl
    · split at h
      all_goals
        rename_i hw
        rw [← State.standing_translate hw]
      · extract_lets n at h
        split at h
        · rename_i hv
          cases h
          exact ih hv
        · exact ih h
      all_goals
        cases h
        rfl

theorem State.standing_range {s t : State} {c : Ctx} {core asid va len : Nat} {r : Segs} (h : s.range c core asid va len = (r, t)) :
    t.standing = s.standing := State.standing_segments _ h

theorem State.standing_cfgRead {s t : State} {iss : Issue} {n : Nat} {x : Word} (h : s.cfgRead iss n = (x, t)) :
    t.standing = s.standing := by
  unfold State.cfgRead at h
  extract_lets c g at h
  repeat' split at h
  case h_1 hf =>
    cases h
    exact State.standing_fresh hf
  all_goals
    cases h
    rfl

/-! ### Reads of a record -/

@[simp] theorem EngR.state_ok (d : List Byte) (s : State) : (EngR.ok d s).state = s := rfl
@[simp] theorem EngR.state_fail (c : FaultCode) (va : Nat) (s : State) : (EngR.fail c va s).state = s := rfl
@[simp] theorem EngR.state_wait (s : State) : (EngR.wait s).state = s := rfl

theorem State.standing_engLine {s t : State} {who line : Nat} {r : Option (Option (List Byte))} (h : s.engLine who line = (r, t)) :
    t.standing = s.standing := by
  unfold State.engLine at h
  extract_lets k at h
  repeat' split at h
  all_goals
    cases h
    rfl

@[simp] theorem State.standing_engHostRead (s : State) (who va pa n : Nat) : (s.engHostRead who va pa n).state.standing = s.standing := by
  refine foldl_leaves (fun r : EngR => r.state.standing) (fun r line => ?_) _ (.ok [] s)
  split
  · split
    all_goals
      rename_i hl
      exact State.standing_engLine hl
  · rfl

@[simp] theorem State.standing_parkRead (s : State) (who g va : Nat) : (s.parkRead who g va).state.standing = s.standing := by
  unfold State.parkRead
  extract_lets k
  repeat' split
  all_goals rfl

@[simp] theorem State.standing_unparkRead (s : State) (who g : Nat) : (s.unparkRead who g).standing = s.standing := by
  unfold State.unparkRead
  split <;> rfl

@[simp] theorem State.standing_engReadSeg (s : State) (who core va pa n : Nat) (pte : BitVec 64) :
    (s.engReadSeg who core va pa n pte).state.standing = s.standing := by
  unfold State.engReadSeg
  split
  · simp
  · refine foldl_leaves (fun r : EngR => r.state.standing) (fun r p => ?_) _ (.ok [] s)
    split
    · rename_i d u
      extract_lets g
      have hload := u.standing_loadDev core p.1 p.2 pte 3
      split
      all_goals
        rename_i hl
        rw [hl] at hload
        rw [show (EngR.ok d u).state.standing = u.standing from rfl, ← hload]
      · simp
      · simp
      · split
        · simp
        · rfl
    · rfl

@[simp] theorem State.standing_engRead (s : State) (who : Nat) (c : Ctx) (core asid va n : Nat) (sysRight : Bool) :
    (s.engRead who c core asid va n sysRight).state.standing = s.standing := by
  unfold State.engRead
  split
  · rfl
  · split
    all_goals
      rename_i hr
      rw [← State.standing_range hr]
    · refine foldl_leaves (fun r : EngR => r.state.standing) (fun r g => ?_) _ (.ok [] _)
      split
      · rename_i d u
        split
        · rfl
        · have hread := u.standing_engReadSeg who core g.va g.pa g.len g.leaf.pte
          split
          · rename_i hx
            rw [hx] at hread
            exact hread
          · exact hread
      · rfl
    · rfl
    · simp

@[simp] theorem State.standing_handleRead (s : State) (who : Nat) (c : Ctx) (core : Nat) (h : HandleBits) (off n : Nat) :
    (s.handleRead who c core h off n).state.standing = s.standing := s.standing_engRead ..

/-! ### Rendezvous -/

@[simp] theorem State.standing_unlatch (s : State) (iss : Issue) : (s.unlatch iss).standing = s.standing :=
  State.standing_modGroup (fun g => Group.standing_modThreads (fun _ t => t.standing_endWait _) g _) s _

@[simp] theorem State.standing_failArrival (s : State) (iss : Issue) (c : FaultCode) : (s.failArrival iss c).standing = s.standing := by
  unfold State.failArrival
  extract_lets u rest
  exact (State.standing_raise _ iss c iss.lanes 0 0).trans (s.standing_unlatch iss)

@[simp] theorem State.standing_setLatches (s : State) (q : Nat) (l : List Latch) : (s.setLatches q l).standing = s.standing := rfl

@[simp] theorem State.standing_failLatch (s : State) (q : Nat) (l : Latch) (c : FaultCode) : (s.failLatch q l c).standing = s.standing :=
  State.standing_foldl (fun s i => s.standing_failArrival i c) _ _

@[simp] theorem State.standing_rendezvous (s : State) (q team tag : Nat) : (s.rendezvous q team tag).standing = s.standing := by
  unfold State.rendezvous
  split
  · rfl
  · extract_lets here listed
    split
    · rfl
    · split <;> simp

@[simp] theorem State.standing_joinLatch (s : State) (q : Nat) (iss : Issue) : (s.joinLatch q iss).standing = s.standing := by
  unfold State.joinLatch
  extract_lets team tag ls wait
  have hwait : wait.standing = s.standing := rfl
  clear_value wait
  repeat' split
  all_goals simp [hwait]

end Sys2Proof.Machine
end

section
/-!
PROOF. Every instruction of a program holds back its effects (R26 to R29): the ways an instruction ends, the operations that several
instructions share, and the instructions one by one.
-/

namespace Sys2Proof.Machine

/-- A result whose next state, when it is one, keeps what stands. -/
def Keeps (s : State) (r : Result) : Prop := ∀ t, r = .next t → t.standing = s.standing

/-! ### The ways an instruction ends -/

@[simp] theorem keeps_next {s t : State} : Keeps s (.next t) ↔ t.standing = s.standing :=
  ⟨fun h => h t rfl, fun h _ ht => by cases ht; exact h⟩

@[simp] theorem keeps_finish {s t : State} {iss : Issue} {n : Nat} {es : List Effect} :
    Keeps s (t.finish iss n es) ↔ t.standing = s.standing := keeps_next

@[simp] theorem keeps_finishAlu {s t : State} {iss : Issue} {n : Nat} {x : LaneVals} {es : List Effect} :
    Keeps s (t.finishAlu iss n x es) ↔ t.standing = s.standing := keeps_next

@[simp] theorem keeps_writeA {s t : State} {iss : Issue} {f : FA} {ls : Lits} {x : LaneVals} {es : List Effect} :
    Keeps s (t.writeA iss f ls x es) ↔ t.standing = s.standing := keeps_next

@[simp] theorem keeps_writeF {s t : State} {iss : Issue} {f : FA} {ls : Lits} {L : Layout} {n : Nat} {r : Nat → Nat → FpRes} :
    Keeps s (t.writeF iss f ls L n r) ↔ t.standing = s.standing := keeps_next

@[simp] theorem keeps_writeX {s t : State} {iss : Issue} {f : FX} {ls : Lits} {x : LaneVals} {es : List Effect} :
    Keeps s (t.writeX iss f ls x es) ↔ t.standing = s.standing := keeps_next

@[simp] theorem keeps_endRange {s t : State} {iss : Issue} {ls : Lits} {i : Instr} {n : List Nat} :
    Keeps s (t.endRange iss ls i n) ↔ t.standing = s.standing := keeps_next

@[simp] theorem keeps_faults {s t : State} {iss : Issue} {c : FaultCode} {lanes : Lanes} {va : Nat} :
    Keeps s (t.faults iss c lanes va) ↔ t.standing = s.standing := by
  rw [State.faults, keeps_next, State.standing_raise]

@[simp] theorem keeps_faultAll {s t : State} {iss : Issue} {c : FaultCode} {va : Nat} :
    Keeps s (t.faultAll iss c va) ↔ t.standing = s.standing := keeps_faults

theorem keeps_withIssue {s : State} {k : Issue → State → Result} (h : ∀ iss, Keeps s (k iss s)) : Keeps s (s.withIssue k) := by
  intro t ht
  obtain ⟨iss, rest, -, hk⟩ := State.withIssue_next ht
  exact h iss t hk

theorem keeps_endAccess {s t : State} {iss : Issue} {words : Nat} {i : Instr} {rs : List (Nat × LaneCheck)} {excuse : Bool} {n : List Nat}
    {more : List Effect} (h : t.standing = s.standing) : Keeps s (t.endAccess iss words i rs excuse n more) := by
  unfold State.endAccess
  repeat' split
  all_goals simp [h]

/-! ### What instructions share -/

theorem keeps_xlRun {s : State} {fold : Bool} {L : Layout} {f : FX} {ls : Lits} {k : Issue → State → Result}
    (h : ∀ iss, Keeps s (k iss s)) : Keeps s (xlRun fold L f ls s k) := by
  refine keeps_withIssue fun iss => ?_
  split
  · simp
  · exact h iss

theorem keeps_rangeForm {s t : State} {iss : Issue} {f : FM} {ls : Lits} {len : Nat} {need : List Nat} {align : Nat}
    {k : HandleBits → Nat → List Seg → State → Result} (ht : t.standing = s.standing)
    (hk : ∀ h va segs u, u.standing = s.standing → Keeps s (k h va segs u)) : Keeps s (t.rangeForm iss f ls len need align k) := by
  unfold State.rangeForm
  extract_lets h e va c
  split
  · simp [ht]
  · split
    · simp [ht]
    · split
      all_goals
        rename_i hr
        have hu := (State.standing_range hr).trans ht
      · split
        · simp [hu]
        · exact hk _ _ _ _ hu
      · simp [hu]
      · simp [hu]

theorem keeps_fetchRecord {s : State} {iss : Issue} {f : FE} {ls : Lits} {mem : Bool} {n unit : Nat} {k : State → List Byte → Result}
    (hk : ∀ u bs, u.standing = s.standing → Keeps s (k u bs)) : Keeps s (s.fetchRecord iss f ls mem n unit k) := by
  unfold State.fetchRecord
  extract_lets a h
  split
  · simp
  · split
    · split
      · simp
      · have hread := s.standing_handleRead iss.reader (s.ctxI iss) iss.before.core h a.toNat n
        split
        all_goals
          rename_i hr
          rw [hr] at hread
        · exact hk _ _ hread
        · simpa using hread
        · simpa using hread
    · split
      · simp
      · exact hk s _ rfl

/-! ### Integer, float and cross-lane instructions -/

theorem keeps_aluInt1 (op : Nat → Nat → Nat) (f : FA) (ls : Lits) (s : State) : Keeps s (aluInt1 op f ls s) :=
  keeps_withIssue fun _ => by simp
theorem keeps_aluInt2 (op : Nat → Nat → Nat → Nat) (f : FA) (ls : Lits) (s : State) : Keeps s (aluInt2 op f ls s) :=
  keeps_withIssue fun _ => by simp
theorem keeps_aluInt3 (op : Nat → Nat → Nat → Nat → Nat) (f : FA) (ls : Lits) (s : State) : Keeps s (aluInt3 op f ls s) :=
  keeps_withIssue fun _ => by simp
theorem keeps_fpu1 (op : FpFmt → RMode → Nat → FpRes) (f : FA) (ls : Lits) (s : State) : Keeps s (fpu1 op f ls s) :=
  keeps_withIssue fun _ => by simp
theorem keeps_fpu2 (op : FpFmt → RMode → Nat → Nat → FpRes) (f : FA) (ls : Lits) (s : State) : Keeps s (fpu2 op f ls s) :=
  keeps_withIssue fun _ => by simp
theorem keeps_cmpInt (read : Nat → Nat → Int) (f : FA) (ls : Lits) (s : State) : Keeps s (cmpInt read f ls s) :=
  keeps_withIssue fun _ => by simp
theorem keeps_sfuExec (i : Instr) (L : Layout) (d : BitVec 7) (n : Nat) (res : Issue → Nat → Nat → FpRes) (s : State) :
    Keeps s (sfuExec i L d n res s) :=
  keeps_withIssue fun _ => by simp
theorem keeps_xlVote (k : Lanes → (Nat → Bool) → Word) (f : FX) (ls : Lits) (s : State) : Keeps s (xlVote k f ls s) :=
  keeps_xlRun fun _ => by simp

theorem keeps_dotExec (w m : Nat) (E : Nat → FpFmt) (f : FA) (ls : Lits) (s : State) : Keeps s (dotExec w m E f ls s) := by
  refine keeps_withIssue fun iss => ?_
  dsimp only
  split <;> simp

/-! ### Memory and handle instructions -/

theorem keeps_execLd (f : FM) (ls : Lits) (s : State) : Keeps s (execLd f ls s) := by
  refine keeps_withIssue fun iss => ?_
  dsimp only
  refine keeps_endAccess (State.standing_checkLanes (fun u l => ?_) _ _)
  simp

theorem keeps_execSt (f : FM) (ls : Lits) (s : State) : Keeps s (execSt f ls s) := by
  refine keeps_withIssue fun iss => ?_
  dsimp only
  refine keeps_endAccess (State.standing_checkLanes (fun u l => ?_) _ _)
  simp

theorem keeps_bufExec (i : Instr) (f : FM) (ls : Lits) (space : Nat) (lanes : Issue → Lanes) (data : Issue → List Nat) (s : State) :
    Keeps s (bufExec i f ls space lanes data s) :=
  keeps_withIssue fun _ => keeps_endAccess rfl

theorem keeps_execPf (f : FM) (ls : Lits) (s : State) : Keeps s (execPf f ls s) := by
  refine keeps_withIssue fun iss => ?_
  have ht := State.standing_checkLanes
    (fun u l => u.standing_checkAccess_snd iss (iss.hreg f.h.toNat) (offsetOf (iss.off f ls l) f.imm (2 ^ f.t.toNat)) (2 ^ f.t.toNat) [0] []
      .load 0) s (Lanes.list iss.lanes)
  dsimp only
  split <;> simp [ht]

theorem keeps_cacheExec (i : Instr) (f : FM) (ls : Lits) (s : State) : Keeps s (cacheExec i f ls s) := by
  refine keeps_withIssue fun iss => ?_
  dsimp only
  split
  · simp
  · split
    all_goals
      rename_i hr
      simp [State.standing_range hr]

theorem keeps_execHsave (f : FM) (ls : Lits) (s : State) : Keeps s (execHsave f ls s) := by
  refine keeps_withIssue fun iss => ?_
  dsimp only
  have ht : (if bits (iss.hreg f.h.toNat).toNat 51 48 == 0 && !handleHas (iss.hreg (handleDst f)) 6 then
      (LaneCheck.fail .handleRights (vaOf (iss.hreg f.h.toNat) (iss.uoff f ls 16)), s)
    else s.checkAccess iss (iss.hreg f.h.toNat) (iss.uoff f ls 16) 16 [1] [] .store 0).2.standing = s.standing := by
    split <;> simp
  split
  · simpa using ht
  · simpa using ht
  · exact keeps_endAccess ht

theorem keeps_execHload (f : FM) (ls : Lits) (s : State) : Keeps s (execHload f ls s) := by
  refine keeps_withIssue fun iss => ?_
  dsimp only
  split
  · simp
  · simp
  · exact keeps_endAccess (s.standing_checkAccess_snd ..)

theorem keeps_execAtom (f : FM) (ls : Lits) (s : State) : Keeps s (execAtom f ls s) := by
  refine keeps_withIssue fun iss => ?_
  dsimp only
  split
  · simp
  · refine keeps_endAccess (State.standing_checkLanes (fun u l => ?_) _ _)
    simp

theorem keeps_execRed (f : FM) (ls : Lits) (s : State) : Keeps s (execRed f ls s) := by
  refine keeps_withIssue fun iss => ?_
  dsimp only
  split
  · simp
  · refine keeps_endAccess (State.standing_checkLanes (fun u l => ?_) _ _)
    simp

theorem keeps_execAwait (f : FM) (ls : Lits) (s : State) : Keeps s (execAwait f ls s) := by
  refine keeps_withIssue fun iss => ?_
  dsimp only
  split
  · simp
  · refine keeps_endAccess (State.standing_checkLanes (fun u l => ?_) _ _)
    simp

theorem keeps_orderExec (i : Instr) (ls : Lits) (s : State) : Keeps s (orderExec i ls s) :=
  keeps_withIssue fun _ => by simp

/-! ### Instructions on ranges of grains -/

theorem keeps_execMvrange (f : FM) (ls : Lits) (s : State) : Keeps s (execMvrange f ls s) := by
  refine keeps_withIssue fun iss => ?_
  dsimp only
  split
  · simp
  · split
    · simp
    · refine keeps_rangeForm rfl fun h va segs u hu => ?_
      repeat' split
      all_goals simp [hu]

theorem keeps_execMvwait (f : FM) (ls : Lits) (s : State) : Keeps s (execMvwait f ls s) := by
  refine keeps_withIssue fun iss => keeps_rangeForm rfl fun h va segs u hu => ?_
  split <;> simp [hu]

theorem keeps_wsExec (i : Instr) (f : FM) (ls : Lits) (s : State) : Keeps s (wsExec i f ls s) := by
  refine keeps_withIssue fun iss => keeps_rangeForm rfl fun h va segs u hu => ?_
  split <;> simp [hu]

theorem keeps_execWsstate (f : FM) (ls : Lits) (s : State) : Keeps s (execWsstate f ls s) := by
  refine keeps_withIssue fun iss => ?_
  dsimp only
  refine keeps_endAccess (State.standing_checkLanes ?_ s (Lanes.list iss.lanes))
  intro u l
  split
  · exact State.standing_checkAccess ‹_›
  · exact u.standing_checkAccess_snd ..

theorem keeps_execPgclass (f : FM) (ls : Lits) (s : State) : Keeps s (execPgclass f ls s) := by
  refine keeps_withIssue fun iss => keeps_rangeForm rfl fun h va segs u hu => ?_
  repeat' split
  all_goals simp [hu]

theorem keeps_replicExec (i : Instr) (add : Bool) (f : FM) (ls : Lits) (s : State) : Keeps s (replicExec i add f ls s) := by
  refine keeps_withIssue fun iss => keeps_rangeForm rfl fun h va segs u hu => ?_
  dsimp only
  repeat' split
  all_goals simp [hu, State.standing_engAnswers]

/-! ### Control instructions -/

theorem keeps_softFault (i : Instr) (f : FC) (ls : Lits) (s : State) : Keeps s (softFault i f ls s) := by
  refine keeps_withIssue fun iss => ?_
  dsimp only
  split <;> simp

theorem keeps_barExec (i : Instr) (n c words : Nat) (s : State) (iss : Issue) : Keeps s (barExec i n c words s iss) := by
  unfold barExec
  extract_lets e
  split
  · simp
  · split <;> simp

theorem keeps_execCfgrd (f : FC) (ls : Lits) (s : State) : Keeps s (execCfgrd f ls s) := by
  refine keeps_withIssue fun iss => ?_
  dsimp only
  split
  · simp
  · rw [keeps_finish]
    exact State.standing_cfgRead (Prod.mk.eta).symm

/-! ### Matrix, engine and launch instructions -/

theorem keeps_fabricExec (i : Instr) (op : Nat) (f : FE) (ls : Lits) (s : State) : Keeps s (fabricExec i op f ls s) := by
  refine keeps_withIssue fun iss => ?_
  dsimp only
  repeat' split
  all_goals simp

theorem keeps_injExec (i : Instr) (f : FE) (ls : Lits) (s : State) : Keeps s (injExec i f ls s) := by
  refine keeps_withIssue fun iss => ?_
  split <;> simp

theorem keeps_execInjPoison (f : FE) (ls : Lits) (s : State) : Keeps s (execInjPoison f ls s) := by
  refine keeps_withIssue fun iss => ?_
  dsimp only
  split
  · simp
  · split
    all_goals
      rename_i hr
      simp [State.standing_checkAccess hr]

theorem keeps_matrixExec (i : Instr) (f : FE) (ls : Lits) (s : State) : Keeps s (matrixExec i f ls s) := by
  refine keeps_withIssue fun iss => ?_
  dsimp only
  repeat' split
  · simp
  · simp
  · rw [keeps_next, State.standing_joinLatch]
    refine State.standing_modGroup (fun g => ?_) _ _
    exact Group.standing_modThreads (fun _ t => t.standing_block _) g _

theorem keeps_ticketExec (det : Bool) (i : Instr) (f : FE) (ls : Lits) (s : State) : Keeps s (ticketExec det i f ls s) := by
  refine keeps_withIssue fun iss => ?_
  split <;> simp

theorem keeps_copyExec (i : Instr) (f : FE) (ls : Lits) (s : State) : Keeps s (copyExec i f ls s) := by
  refine keeps_withIssue fun iss => keeps_fetchRecord fun u bs hu => ?_
  split <;> simp [hu]

theorem keeps_nodeExec (i : Instr) (grid : Bool) (f : FE) (ls : Lits) (s : State) : Keeps s (nodeExec i grid f ls s) := by
  refine keeps_withIssue fun iss => ?_
  dsimp only
  split
  · simp
  · split
    · simp
    · have hread := s.standing_handleRead iss.reader (s.ctxI iss) iss.before.core (iss.hreg f.h.toNat) (iss.addrE f ls 64).toNat 64
      split
      all_goals
        rename_i hr
        rw [hr] at hread
      · simpa using hread
      · simpa using hread
      · split
        · simpa using hread
        · simpa using hread

/-! ### The instructions of a program -/

/-- Whatever next state an instruction of a program answers, what stands until the commit is as before (R26). -/
theorem keeps_exec {i : Instr} (hi : i.enc?.isSome = true) (s : State) : Keeps s (exec i s) := by
  unfold exec
  cases i
  case add f ls | sub f ls | addSatSigned f ls | addSatUnsigned f ls | subSatSigned f ls | subSatUnsigned f ls | mul f ls | mulhiSigned f ls
      | mulhiUnsigned f ls | minSigned f ls | minUnsigned f ls | maxSigned f ls | maxUnsigned f ls | and f ls | or f ls | xor f ls | andn f ls
      | shl f ls | shr f ls | sar f ls | rol f ls | bfx f ls => exact keeps_aluInt2 _ f ls s
  case mad f ls | bfi f ls => exact keeps_aluInt3 _ f ls s
  case abs f ls | clz f ls | ctz f ls | popc f ls | brev f ls => exact keeps_aluInt1 _ f ls s
  case cmpSigned f ls | cmpUnsigned f ls => exact keeps_cmpInt _ f ls s
  case dp4 f ls | dp8 f ls => exact keeps_dotExec _ _ _ f ls s
  case fadd f ls | fsub f ls | fmul f ls | fmin f ls | fmax f ls | fminn f ls | fmaxn f ls => exact keeps_fpu2 _ f ls s
  case fabs f ls | fneg f ls | fclass f ls | frnd f ls | fexpo f ls => exact keeps_fpu1 _ f ls s
  case fdiv f ls | frcp f ls | frsq f ls | fsqrt f ls | fexp2 f ls | flog2 f ls | fexp f ls | fsinpi f ls | fcospi f ls | ftanh f ls =>
    exact keeps_sfuExec _ _ _ _ _ s
  case xlVoteAll f ls | xlVoteAny f ls | xlVoteUni f ls | xlBal f ls => exact keeps_xlVote _ f ls s
  case xlSh f ls | xlBc f ls | xlRed f ls | xlScan f ls => exact keeps_xlRun fun iss => by simp
  case swz f ls | sel f ls | lea f ls | movl f ls | gmov f ls | cvti f ls | pack f ls | unpack f ls | rnd f ls | kop f ls | ffma f ls
      | fcmp f ls | fscl f ls | fcvt f ls | fcvti f ls | icvtf f ls => exact keeps_withIssue fun iss => by simp
  case ld f ls => exact keeps_execLd f ls s
  case st f ls => exact keeps_execSt f ls s
  case lda f ls | sta f ls | ldc f ls | stc f ls => exact keeps_bufExec _ f ls _ _ _ s
  case pf f ls => exact keeps_execPf f ls s
  case cinv f ls | cwb f ls => exact keeps_cacheExec _ f ls s
  case hsave f ls => exact keeps_execHsave f ls s
  case hload f ls => exact keeps_execHload f ls s
  case atom f ls => exact keeps_execAtom f ls s
  case red f ls => exact keeps_execRed f ls s
  case await f ls => exact keeps_execAwait f ls s
  case mvrange f ls => exact keeps_execMvrange f ls s
  case mvwait f ls => exact keeps_execMvwait f ls s
  case wsclose f ls | wsreset f ls => exact keeps_wsExec _ f ls s
  case wsstate f ls => exact keeps_execWsstate f ls s
  case pgclass f ls => exact keeps_execPgclass f ls s
  case replicAdd f ls | replicRem f ls => exact keeps_replicExec _ _ f ls s
  case mmx f ls | mmxs f ls => exact keeps_matrixExec _ f ls s
  case mstat f ls | mcancel f ls | ewait f ls | estat f ls | gwait f ls | gcancel f ls => exact keeps_ticketExec _ _ f ls s
  case cpy f ls | cpyg f ls | cfill f ls => exact keeps_copyExec _ f ls s
  case gspawn f ls | glaunch f ls => exact keeps_nodeExec _ _ f ls s
  case fence f ls | acq f ls | rel f ls => exact keeps_orderExec _ ls s
  case trap f ls | brk f ls => exact keeps_softFault _ f ls s
  case barSync f ls | barArrive f ls | barWait f ls => exact keeps_withIssue fun iss => keeps_barExec _ _ _ _ s iss
  case cfgrd f ls => exact keeps_execCfgrd f ls s
  case fput f ls | fget f ls | fsend f ls | frecv f ls => exact keeps_fabricExec _ _ f ls s
  case injMat f ls | injFrag f ls => exact keeps_injExec _ f ls s
  case injPoison f ls => exact keeps_execInjPoison f ls s
  case hmov f ls | hinfo f ls | bra f | exit f ls | nop f ls | detsig f ls | asidinv f ls => exact keeps_withIssue fun iss => by simp
  case call f | ret f ls | step f ls | mcks f ls | fstat f ls | snap f ls | snapst f ls | snapwait f ls | snapdrop f ls =>
    refine keeps_withIssue fun iss => ?_
    repeat' split
    all_goals simp
  case preq f ls | hnarrow f ls | hoff f ls | brx f ls | callx f ls | yield f ls | srd f ls | swr f ls | cfgwr f ls | stepPod f ls
      | tret f ls | gang f ls | mdrain f ls | mzero f ls | publish f ls | dgst f ls | mig f ls | tlbinv f ls | cinit f ls | cpost f ls
      | cbar f ls | cwait f ls | cfree f ls | ctxsave f ls | ctxload f ls | preempt f ls | budget f ls =>
    refine keeps_withIssue fun iss => ?_
    dsimp only
    repeat' split
    all_goals simp
  all_goals cases hi

/-- Settles O59: no operation that an instruction of a program makes of the state moves what stands until its clause commits. -/
theorem instructionsHoldBackTheirEffects : Obligations.InstructionsHoldBackTheirEffects := by
  unfold Obligations.InstructionsHoldBackTheirEffects
  intro i s t hi h
  have hst : t.standing = s.standing := keeps_exec hi s t h
  have hgroup : ∀ gid, (t.group gid).standing = (s.group gid).standing := congrFun (congrArg Standing.group hst)
  refine ⟨congrArg Standing.teams hst, congrArg Standing.grids hst, congrArg Standing.ctxs hst, congrArg Standing.commands hst,
    congrArg Standing.works hst, congrArg Standing.deferred hst, congrArg Standing.combines hst, congrArg Standing.accesses hst,
    congrArg Standing.cfg hst, congrArg Standing.clock hst, fun k hk => ?_, congrArg Standing.epoch hst, fun gid => ?_⟩
  · simpa [State.standing, hk] using congrFun (congrArg Standing.messages hst) k
  · have hg := hgroup gid
    refine ⟨congrArg StandingGroup.h hg, congrArg StandingGroup.g hg, congrArg StandingGroup.fpctl hg, congrArg StandingGroup.gang hg,
      congrArg StandingGroup.sb hg, congrArg StandingGroup.queue hg, fun l => ?_⟩
    have hl : ((t.group gid).thread l).standing = ((s.group gid).thread l).standing := congrFun (congrArg StandingGroup.thread hg) l
    exact ⟨congrArg StandingThread.v hl, congrArg StandingThread.k hl, congrArg StandingThread.flags hl, congrArg StandingThread.draw hl,
      congrArg StandingThread.pc hl, congrArg StandingThread.stack hl⟩

end Sys2Proof.Machine
end

section
/-!
PROOF. Issue, aging, delays, landings, the SFU queue and retirement (R23, R31 to R34, R66, R71, R81, R82, R160, R161).
-/

namespace Sys2Proof.Machine

/-! ### Which bundle takes a slot (R71) -/

/-- A bundle's clause may take a slot when no lane is missing at a meeting point and every queue and count has room. -/
theorem State.maySlot_iff {s : State} {gid : Nat} {b : Bundle} {h : IWord} {ws : List IWord} (hb : b.inSlot = false)
    (hg : s.groupIssues gid = true) (hf : (s.fetchClause gid b.pc).1 = .ok h ws) :
    s.maySlot gid b = true ↔ (s.group gid).missing b (instrsOf ws 15) = 0 ∧ s.slotsUsed (s.group gid).core < 4 ∧
      (s.group gid).scoreboardReady h ((instrsOf ws 15).filter Instr.isDeferred).length = true ∧
      s.sfuTaken (s.group gid).core + ((instrsOf ws 15).filter Instr.isSfu).length ≤ 32 ∧
      (s.queueFull gid b.lanes = false ∨ bits h.toNat 23 21 ≠ 1 ∧ bits h.toNat 23 21 ≠ 4) := by
  simp only [State.maySlot, hb, hg, hf, Bool.and_eq_true, Bool.not_eq_true', beq_iff_eq, decide_eq_true_eq, Bool.and_eq_false_iff,
    Bool.or_eq_false_iff, beq_eq_false_iff_ne, Bool.not_false, true_and, and_assoc]

/-- The core selects a bundle that may take a slot when none of the core that may do so ranks before it. -/
theorem State.selects_iff {s : State} {gid : Nat} {b : Bundle} :
    s.selects gid b = true ↔ s.maySlot gid b = true ∧ ∀ p ∈ s.groups, p.2.core = (s.group gid).core → ∀ o ∈ p.2.bundles,
      s.maySlot p.1 o = true → rankBefore (s.rank p.1 o) (s.rank gid b) = false := by
  have hany : ∀ p : Nat × Group, (p.2.core == (s.group gid).core && p.2.bundles.any fun o =>
      rankBefore (s.rank p.1 o) (s.rank gid b) && s.maySlot p.1 o) = false ↔ (p.2.core = (s.group gid).core → ∀ o ∈ p.2.bundles,
        s.maySlot p.1 o = true → rankBefore (s.rank p.1 o) (s.rank gid b) = false) := by
    intro p
    simp only [Bool.and_eq_false_imp, beq_iff_eq, List.any_eq_false, Bool.and_eq_true, not_and, Bool.not_eq_true]
    refine imp_congr_right fun _ => forall₂_congr fun o _ => ?_
    cases rankBefore (s.rank p.1 o) (s.rank gid b) <;> simp
  rw [State.selects, Bool.and_eq_true, Bool.not_eq_true', List.any_eq_false]
  simp only [Bool.not_eq_true, hany]

/-! ### Issue -/

/-- No thread joins where no bundle waits at a meeting point. -/
theorem State.joinWaiting_eq {s : State} {gid : Nat} {pc : BitVec 52}
    (h : ∀ o ∈ (s.group gid).bundles, o.pc = pc → s.waitsAt gid o = false) : s.joinWaiting gid pc = s := by
  have hany : ((s.group gid).bundles.any fun b => b.pc == pc && s.waitsAt gid b) = false := by
    simp only [List.any_eq_false, Bool.and_eq_true, beq_iff_eq, not_and, Bool.not_eq_true]
    exact h
  simp [State.joinWaiting, hany]

/-- A bundle that does not wait at a meeting point meets no fault there. -/
theorem State.meetFault_eq_none {s : State} {gid : Nat} {b : Bundle} (hb : b.inSlot = false) (h : s.waitsAt gid b = false) :
    s.meetFault gid b = none := by
  have hmiss : (s.group gid).missing b (s.peek gid b.pc) = 0 := by
    simpa [State.waitsAt, hb] using h
  have hlanes : ((List.range 32).any fun l => ((s.group gid).missing b (s.peek gid b.pc)).has l && s.cannotMeet gid b l) = false := by
    simp [hmiss, Lanes.has]
  have hwants : ((s.group gid).bundles.any fun o => s.wantsOf gid o b) = false := by
    simp [State.wantsOf, h]
  simp only [State.meetFault, hlanes, hwants]
  simp

/-- The bundle at a PC is found by its address or by its number alike. -/
theorem find?_bundle_pc {bs : List Bundle} {pc : Nat} {b : Bundle} (h : bs.find? (fun o => o.pc.toNat == pc) = some b) :
    bs.find? (fun o => o.pc == b.pc) = some b := by
  have hb : b.pc.toNat = pc := by simpa using List.find?_some h
  rw [← h]
  congr 1
  funext o
  rw [Bool.eq_iff_iff, beq_iff_eq, beq_iff_eq, ← hb]
  exact BitVec.toNat_inj.symm

section
variable {s u : State} {gid pc : Nat} {b : Bundle} (hfind : (s.group gid).bundles.find? (fun b => b.pc.toNat == pc) = some b)
  (hslot : b.inSlot = false) (hissues : s.groupIssues gid = true)
include hfind hslot hissues

/-- A formed bundle whose clause is fetched, that waits nowhere and that its core selects, takes a slot. -/
theorem State.issue_takeSlot {h : IWord} {ws : List IWord} (hfetch : s.fetchClause gid b.pc = (.ok h ws, u))
    (hgroup : u.group gid = s.group gid) (hwait : ∀ o ∈ (s.group gid).bundles, o.pc = b.pc → u.waitsAt gid o = false)
    (hsel : u.selects gid b = true) : s.issue gid pc = u.takeSlot gid b h ws := by
  have hmem : b ∈ (s.group gid).bundles := List.mem_of_find?_eq_some hfind
  have hjoin : u.joinWaiting gid b.pc = u := State.joinWaiting_eq (by rwa [hgroup])
  have hagain : (u.group gid).bundles.find? (fun o => o.pc == b.pc) = some b := by
    rw [hgroup]
    exact find?_bundle_pc hfind
  have hmeet : u.meetFault gid b = none := State.meetFault_eq_none hslot (hwait b hmem rfl)
  simp [State.issue, hfind, hslot, hissues, hfetch, hjoin, hagain, hmeet, hsel]

/-- A formed bundle whose fetch or header fails its checks raises the fault at its header. -/
theorem State.issue_raiseAt {c : FaultCode} (hfetch : s.fetchClause gid b.pc = (.fault c, u)) :
    ∃ va, s.issue gid pc = u.raiseAt gid b 0 c b.lanes va :=
  ⟨_, by simp [State.issue, hfind, hslot, hissues, hfetch]; rfl⟩

end

/-- Nothing issues from a group that may not issue and has no clause in a slot. -/
theorem State.issue_not_issues {s : State} {gid pc : Nat} (hissues : s.groupIssues gid = false)
    (hslots : ∀ b ∈ (s.group gid).bundles, b.inSlot = false) : s.issue gid pc = s := by
  unfold State.issue
  extract_lets g
  split
  · rfl
  · rename_i b hfind
    rw [if_neg (by simp [hslots b (List.mem_of_find?_eq_some hfind)]), if_pos (by simp [hissues])]

/-- When no grain is held uncached, taking a slot only puts the clause behind those in the slots and marks its bundle. -/
theorem State.takeSlot_eq {s : State} {gid : Nat} {b : Bundle} {h : IWord} {ws : List IWord} (hheld : ∀ p ∈ s.held, p.2 ≠ .u) :
    (s.takeSlot gid b h ws).mem = s.mem ∧ (s.takeSlot gid b h ws).issuing = s.issuing ++ [s.mkIssue gid b h ws] := by
  have hnone : s.held.filter (fun p => p.2 == .u) = [] := by
    simpa [List.filter_eq_nil_iff] using hheld
  simp [State.takeSlot, hnone]

/-- A fault of a bundle without a slot waits for its group's boundary, and the clauses in the slots stand. -/
theorem State.raiseAt_eq {s : State} {gid : Nat} {b : Bundle} {c : FaultCode} {va : Nat} (h : (s.groups.find? gid).isSome = true) :
    (s.raiseAt gid b 0 c b.lanes va).issuing = s.issuing ∧
      ∃ f, ((s.raiseAt gid b 0 c b.lanes va).group gid).precise = (s.group gid).precise ++ [f] ∧ f.code = c ∧ f.pc = b.pc ∧ f.index = 0 ∧
        f.deferred = false ∧ f.bundle = b.lanes := by
  refine ⟨rfl, ?_⟩
  let iss : Issue := { s.mkIssue gid b 0 [] with idx := 0 }
  have hgroups : (({ s with issuing := s.issuing } : State).engDone iss.reader).groups = s.groups := by
    simp [State.engDone_frame]
  have hgroup : (({ s with issuing := s.issuing } : State).engDone iss.reader).group gid = s.group gid := by
    simp only [State.group, hgroups]
  have hprecise := State.group_modGroup_same (s := ({ s with issuing := s.issuing } : State).engDone iss.reader) (k := gid)
    (fun g => { g with
      precise := g.precise ++ [{ code := c, pc := iss.pc, index := 0, lane := lowestLane b.lanes, lanes := b.lanes, va := va, aux := 0,
                                 bundle := iss.lanes, inHandler := iss.before.inHandler }]
      bundles := g.bundles.filter fun b => b.pc != iss.pc }) (by rw [hgroups]; exact h)
  exact ⟨_, (congrArg Group.precise hprecise).trans (by rw [hgroup]), rfl, rfl, rfl, rfl, rfl⟩

/-! ### Faults that land (R34, R366) -/

theorem FaultRec.mem_joins_iff {f x : FaultRec} {l : List FaultRec} : x ∈ f.joins l ↔ x ∈ l ∨ x = f := by
  induction l with
  | nil => simp [FaultRec.joins]
  | cons g gs ih =>
    unfold FaultRec.joins
    split
    · simp [or_comm]
    · simp [ih, or_assoc]

theorem Group.mem_enqueueFault_iff {g : Group} {now : Nat} {f x : FaultRec} :
    x ∈ (g.enqueueFault now f).queue ↔ x ∈ g.queue ∨ x = f := by
  simp only [Group.enqueueFault, List.mem_append, FaultRec.mem_joins_iff, ← or_assoc]
  rw [← List.mem_append, List.take_append_drop]

/-- The first fault to land at a time goes behind those that landed before. -/
theorem Group.enqueueFault_append {g : Group} {now : Nat} {f : FaultRec} (h : g.landedAt ≠ now) :
    (g.enqueueFault now f).queue = g.queue ++ [f] := by
  simp [Group.enqueueFault, h, FaultRec.joins]

/-- A group that takes the faults of an event, one after another. -/
def Group.enqueueFaults (now : Nat) (fs : List FaultRec) (g : Group) : Group := fs.foldl (fun g f => g.enqueueFault now f) g

theorem Group.enqueueFaults_frame (now : Nat) (fs : List FaultRec) (g : Group) :
    (g.enqueueFaults now fs).sb = g.sb ∧ (g.enqueueFaults now fs).threads = g.threads :=
  ⟨foldl_leaves (f := fun g f => g.enqueueFault now f) Group.sb (fun _ _ => rfl) fs g,
    foldl_leaves (f := fun g f => g.enqueueFault now f) Group.threads (fun _ _ => rfl) fs g⟩

theorem Group.mem_enqueueFaults {now : Nat} {fs : List FaultRec} {g : Group} {x : FaultRec} :
    x ∈ (g.enqueueFaults now fs).queue ↔ x ∈ g.queue ∨ x ∈ fs := by
  induction fs generalizing g with
  | nil => simp [Group.enqueueFaults]
  | cons f fs ih =>
    rw [show g.enqueueFaults now (f :: fs) = (g.enqueueFault now f).enqueueFaults now fs from rfl, ih, Group.mem_enqueueFault_iff]
    simp [or_assoc]

theorem Group.length_enqueueFaults (now : Nat) (fs : List FaultRec) (g : Group) :
    (g.enqueueFaults now fs).queue.length = g.queue.length + fs.length := by
  induction fs generalizing g with
  | nil => simp [Group.enqueueFaults]
  | cons f fs ih =>
    rw [show g.enqueueFaults now (f :: fs) = (g.enqueueFault now f).enqueueFaults now fs from rfl, ih, Group.length_enqueueFault,
      List.length_cons]
    omega

/-- While the queue has room for them, the faults of an event only change the group. -/
theorem State.foldl_queueFault {gid : Nat} {fs : List FaultRec} : ∀ {s : State}, (s.groups.find? gid).isSome = true →
    fs.length + (s.group gid).queue.length ≤ 8 →
    fs.foldl (fun s f => s.queueFault gid f) s = s.modGroup gid fun g => g.enqueueFaults s.clock fs := by
  induction fs with
  | nil =>
    intro s _ _
    simp only [Group.enqueueFaults, List.foldl_nil, State.modGroup, SMap.modify_id]
  | cons f fs ih =>
    intro s hs hroom
    simp only [List.length_cons] at hroom
    have hq : s.queueFault gid f = s.modGroup gid fun g => g.enqueueFault s.clock f := by
      rw [State.queueFault, if_pos (by omega)]
    have hgroup := State.group_modGroup_same (fun g => g.enqueueFault s.clock f) hs
    rw [List.foldl_cons, hq, ih (by simpa [State.modGroup] using hs) (by rw [hgroup, Group.length_enqueueFault]; omega)]
    simp only [State.modGroup, SMap.modify_modify]
    rfl

/-! ### The landing of an event (R32, R34) -/

/-- The lanes of a list of faults. -/
theorem has_foldl_lanes (fs : List FaultRec) (a : Lanes) (l : Nat) :
    (fs.foldl (fun (a : Lanes) f => a ||| f.lanes) a).has l = true ↔ a.has l = true ∨ ∃ f ∈ fs, f.lanes.has l = true := by
  induction fs generalizing a with
  | nil => simp
  | cons f fs ih =>
    rw [List.foldl_cons, ih]
    simp [Lanes.has, or_assoc]

/-- A destination receives zero in the lanes of the event's faults (R34). -/
theorem Deferred.at_kept (d : Deferred) (x : LaneVals) {l : Nat} (hl : l < 32) :
    (d.kept x).at l = if ∃ f ∈ d.faults, f.lanes.has l = true then 0 else x.at l := by
  have hbad : (d.faults.foldl (fun (a : Lanes) f => a ||| f.lanes) 0).has l = true ↔ ∃ f ∈ d.faults, f.lanes.has l = true := by
    rw [has_foldl_lanes]
    simp [Lanes.has]
  unfold Deferred.kept
  extract_lets bad
  split
  · rename_i h0
    have hnone : ¬ ∃ f ∈ d.faults, f.lanes.has l = true := by
      rw [← hbad, show d.faults.foldl (fun (a : Lanes) f => a ||| f.lanes) 0 = 0 from eq_of_beq h0]
      simp [Lanes.has]
    rw [if_neg hnone]
  · rw [LaneVals.at_of _ hl]
    exact if_congr hbad rfl rfl

/-! ### What an event changes of its group (R32, R34, R160) -/

/-- What a group has of an event once its v registers are written: its handle register, its flags, and its scoreboard slot. -/
def Deferred.settles (d : Deferred) (g : Group) : Group :=
  let g := match d.h with
    | some (r, x) => { g with h := g.h.put r (if d.faults.isEmpty then x else 0) 0 }
    | none => g
  let g := if d.flags.isEmpty then g else g.orFlags d.lanes d.flags
  { g with sb := g.sb.put d.sb (g.sb.get d.sb 0 - 1) 0 }

/-- Raising flags leaves the v registers. -/
theorem Group.v_orFlags (g : Group) (lanes : Lanes) (x : LaneVals) (l : Nat) : ((g.orFlags lanes x).thread l).v = (g.thread l).v := by
  rcases Nat.lt_or_ge l g.threads.length with hl | hl
  · rw [Group.orFlags, Group.thread_modThreads _ _ _ hl]
    split <;> rfl
  · rw [Group.orFlags, Group.thread_modThreads_of_le _ _ _ hl]

/-- An event that writes no handle register only raises flags and decrements its slot. -/
theorem Deferred.settles_frame {d : Deferred} (h : d.h = none) (g : Group) :
    (d.settles g).queue = g.queue ∧ (d.settles g).landedAt = g.landedAt ∧ (d.settles g).sb.get d.sb 0 = g.sb.get d.sb 0 - 1 ∧
      ∀ l, ((d.settles g).thread l).v = (g.thread l).v := by
  unfold Deferred.settles
  rw [h]
  extract_lets g' g''
  have hg : g''.queue = g.queue ∧ g''.landedAt = g.landedAt ∧ g''.sb = g.sb ∧ ∀ l, (g''.thread l).v = (g.thread l).v := by
    unfold g''
    split
    · exact ⟨rfl, rfl, rfl, fun _ => rfl⟩
    · exact ⟨rfl, rfl, rfl, g.v_orFlags _ _⟩
  obtain ⟨hq, ha, hsb, hv⟩ := hg
  exact ⟨hq, ha, by simp [hsb], hv⟩

/-- A state in which the destination of an event is written and the rest of the event has settled, before its faults queue. -/
def State.settleEvent (s : State) (d : Deferred) (r : Nat) (x : LaneVals) : State :=
  let s := (s.writeV d.gid r d.lanes (d.kept x)).modGroup d.gid d.settles
  if d.counts.isEmpty then s else s.addFlagEvents (s.group d.gid).core d.counts

theorem State.settleEvent_frame (s : State) (d : Deferred) (r : Nat) (x : LaneVals) :
    (s.settleEvent d r x).deferred = s.deferred ∧ (s.settleEvent d r x).mem = s.mem ∧ (s.settleEvent d r x).clock = s.clock ∧
      (s.settleEvent d r x).groups = s.groups.modify d.gid fun g => d.settles (g.writeV r d.lanes (d.kept x)) := by
  have hcounts : ∀ (u : State) (core : Nat), ∃ m, (if d.counts.isEmpty then u else u.addFlagEvents core d.counts) = { u with flagev := m } := by
    intro u core
    split
    · exact ⟨u.flagev, rfl⟩
    · exact ⟨_, rfl⟩
  unfold State.settleEvent
  extract_lets u
  obtain ⟨m, hm⟩ := hcounts u (u.group d.gid).core
  rw [hm]
  unfold u
  rw [State.writeV_eq]
  exact ⟨rfl, rfl, rfl, SMap.modify_modify ..⟩

/-- An event with one destination lands in its group: the destination is written, the rest of the event settles, and its faults queue. -/
theorem State.land_eq {s : State} {id r : Nat} {d : Deferred} {x : LaneVals} (hfind : s.deferred.find? id = some d) (hv : d.v = [(r, x)])
    (hs : (s.groups.find? d.gid).isSome = true) (hh : d.h = none) (hroom : d.faults.length + (s.group d.gid).queue.length ≤ 8) :
    (s.land id).deferred = s.deferred.erase id ∧ (s.land id).mem = s.mem ∧
      (s.land id).group d.gid = (d.settles ((s.group d.gid).writeV r d.lanes (d.kept x))).enqueueFaults s.clock d.faults := by
  have hland : s.land id = d.faults.foldl (fun s f => s.queueFault d.gid f)
      (({ s with deferred := s.deferred.erase id } : State).settleEvent d r x) := by
    unfold State.land
    rw [hfind]
    simp only [hv]
    rfl
  obtain ⟨hdef, hmem, hclock, hgroups⟩ := State.settleEvent_frame { s with deferred := s.deferred.erase id } d r x
  generalize ({ s with deferred := s.deferred.erase id } : State).settleEvent d r x = u at hland hdef hmem hclock hgroups
  have hgroup : u.group d.gid = d.settles ((s.group d.gid).writeV r d.lanes (d.kept x)) := by
    have := State.group_modGroup_same (fun g => d.settles (g.writeV r d.lanes (d.kept x))) hs
    rw [← this]
    simp only [State.group, hgroups, State.modGroup]
  have hsome : (u.groups.find? d.gid).isSome = true := by
    rw [hgroups]
    simpa using hs
  obtain ⟨hqueue, -⟩ := d.settles_frame hh ((s.group d.gid).writeV r d.lanes (d.kept x))
  have hfold := State.foldl_queueFault (fs := d.faults) hsome (by rw [hgroup, hqueue]; exact hroom)
  rw [hland, hfold]
  refine ⟨hdef, hmem, ?_⟩
  rw [State.group_modGroup_same _ hsome, hgroup, hclock]

/-- What a landing leaves in the group of its event. -/
theorem Deferred.landed_group {d : Deferred} {g t : Group} {r now : Nat} {x : LaneVals} (hh : d.h = none) (hcount : g.threads.length = 32)
    (ht : t = (d.settles (g.writeV r d.lanes (d.kept x))).enqueueFaults now d.faults) :
    t.sb.get d.sb 0 = g.sb.get d.sb 0 - 1 ∧ t.queue.length = g.queue.length + d.faults.length ∧ (∀ f, f ∈ t.queue ↔ f ∈ g.queue ∨ f ∈ d.faults) ∧
      (∀ f, d.faults = [f] → g.landedAt ≠ now → t.queue = g.queue ++ [f]) ∧
      ∀ l k, l < 32 → (t.thread l).v.get k 0 =
        if d.lanes.has l ∧ k = r then (if ∃ f ∈ d.faults, f.lanes.has l = true then 0 else x.at l) else (g.thread l).v.get k 0 := by
  obtain ⟨hq, hat, hsb, hv⟩ := d.settles_frame hh (g.writeV r d.lanes (d.kept x))
  obtain ⟨hsb', hthreads⟩ := Group.enqueueFaults_frame now d.faults (d.settles (g.writeV r d.lanes (d.kept x)))
  subst ht
  refine ⟨?_, ?_, fun f => ?_, fun f hf hnow => ?_, fun l k hl => ?_⟩
  · rw [hsb', hsb]
    rfl
  · rw [Group.length_enqueueFaults, hq]
    rfl
  · rw [Group.mem_enqueueFaults, hq]
    rfl
  · rw [hf, show ∀ g, Group.enqueueFaults now [f] g = g.enqueueFault now f from fun _ => rfl, Group.enqueueFault_append (by rw [hat]; exact hnow), hq]
    rfl
  · rw [Group.thread, hthreads, ← Group.thread, hv, Group.v_writeV _ _ _ _ (hcount ▸ hl), Deferred.at_kept d x hl]

/-- DEFERRED_EVENT_LANDING of an event that is done lands it, and one with accesses outstanding waits. -/
theorem execDeferredEventLanding_done {s : State} {id : Nat} {d : Deferred} (hfind : s.deferred.find? id = some d) (hw : d.wait = .done) :
    execDeferredEventLanding id s = .next (s.land id) := by
  simp only [execDeferredEventLanding, hfind, State.landing, hw]

theorem execDeferredEventLanding_none {s : State} {id : Nat} (hfind : s.deferred.find? id = none) :
    execDeferredEventLanding id s = .next s := by
  simp only [execDeferredEventLanding, hfind]

theorem execDeferredEventLanding_accesses {s : State} {id n : Nat} {d : Deferred} (hfind : s.deferred.find? id = some d)
    (hw : d.wait = .accesses n) : execDeferredEventLanding id s = .next s := by
  simp only [execDeferredEventLanding, hfind, State.landing, hw]

/-! ### The SFU queue (R161) -/

/-- The first entry starts when it has not, and otherwise the next that has not. -/
theorem execSfuEntryStart_of_queue {s : State} {core : Nat} {e : SfuEntry} {rest : List SfuEntry} (h : s.sfu.get core [] = e :: rest) :
    execSfuEntryStart core s = .next { s with sfu := s.sfu.insert core (startEntry (e :: rest)) } := by
  simp only [execSfuEntryStart, h]

theorem execSfuResultLanding_of_queue {s : State} {core : Nat} {e : SfuEntry} {rest : List SfuEntry} (h : s.sfu.get core [] = e :: rest) :
    execSfuResultLanding core s = .next (if e.started then { s with sfu := s.sfu.insert core rest }.land e.event else s) := by
  simp only [execSfuResultLanding, h]
  split <;> rfl

/-! ### Aging and delays (R66, R71, R82) -/

theorem execBundlePriorityAging_eq (gid pc : Nat) (s : State) :
    execBundlePriorityAging gid pc s = .next (s.modGroup gid fun g => { g with bundles := g.bundles.map fun b =>
      if b.pc.toNat = pc ∧ b.inSlot = false ∧ (b.eligible.any fun e => decide (e + 2048 ≤ s.clock)) = true then { b with aged := true } else b }) := by
  unfold execBundlePriorityAging Bundle.waitedLong
  simp only [Bool.and_eq_true, beq_iff_eq, Bool.not_eq_true', and_assoc]

/-- A thread whose delay has ended is ready. -/
def Thread.endDelay (now : Nat) (t : Thread) : Thread :=
  if (match t.status with | .delayed n => decide (n ≤ now) | _ => false) then { t with status := .ready } else t

theorem Thread.status_endDelay {t : Thread} {now n : Nat} (h : t.status = .delayed n) :
    (t.endDelay now).status = if n ≤ now then .ready else .delayed n := by
  unfold Thread.endDelay
  rw [h]
  by_cases hn : n ≤ now
  · simp [hn]
  · simp [hn, h]

theorem execYieldDelayExpiry_eq (gid : Nat) (lanes : BitVec 32) (s : State) : execYieldDelayExpiry gid lanes s =
    .next ((s.modGroup gid fun g => g.modThreads lanes fun _ t => t.endDelay s.clock).form gid) := rfl

theorem State.form_status (s : State) (gid l : Nat) : (((s.form gid).group gid).thread l).status = ((s.group gid).thread l).status := by
  rw [((s.form_reforms gid).group gid).thread l]

theorem yieldDelayExpiry_status {s : State} {gid l n : Nat} {lanes : Lanes} (hs : (s.groups.find? gid).isSome = true)
    (hl : l < (s.group gid).threads.length) (h : ((s.group gid).thread l).status = .delayed n) :
    ((((s.modGroup gid fun g => g.modThreads lanes fun _ t => t.endDelay s.clock).form gid).group gid).thread l).status =
      if lanes.has l ∧ n ≤ s.clock then .ready else .delayed n := by
  rw [State.form_status, State.group_modGroup_same _ hs, Group.thread_modThreads _ _ _ hl]
  by_cases hlane : lanes.has l
  · simp [hlane, Thread.status_endDelay h]
  · simp [hlane, h]

/-! ### Retirement (R81) -/

/-- The grids, and which groups have retired. -/
def State.retirements (s : State) : SMap Grid × (Nat → Bool) := (s.grids, fun k => (s.group k).retired)

theorem State.retirements_of_standing {s t : State} (h : t.standing = s.standing) : t.retirements = s.retirements :=
  Prod.ext (congrArg Standing.grids h) (congrArg (fun x k => (x.group k).retired) h)

theorem State.grids_of_retirements {s t : State} (h : t.retirements = s.retirements) : t.grids = s.grids := congrArg Prod.fst h

theorem State.retired_of_retirements {s t : State} (h : t.retirements = s.retirements) (gid : Nat) :
    (t.group gid).retired = (s.group gid).retired := congrFun (congrArg Prod.snd h) gid

theorem State.retirements_modGroup {f : Group → Group} (h : ∀ g, (f g).retired = g.retired) (s : State) (gid : Nat) :
    (s.modGroup gid f).retirements = s.retirements := by
  refine Prod.ext rfl (funext fun k => ?_)
  change ((s.modGroup gid f).group k).retired = (s.group k).retired
  by_cases hk : k = gid
  · subst hk
    cases hg : s.groups.find? k with
    | none => simp [State.group, SMap.get, hg]
    | some g => simpa [State.group, SMap.get, hg] using h g
  · rw [State.group_modGroup_other f hk]

/-- A barrier that completes ends waits alone. -/
theorem State.retirements_barComplete (s : State) (tid n : Nat) : (s.barComplete tid n).retirements = s.retirements := by
  unfold State.barComplete
  extract_lets t b live e old b' w u wake
  split
  · rfl
  · have hwake : ∀ (s : State) (k : Nat), (s.modGroup k fun g => { g with threads := g.threads.map wake }).retirements = s.retirements :=
      fun s k => State.retirements_modGroup (f := fun g => { g with threads := g.threads.map wake }) (fun _ => rfl) s k
    exact (State.retirements_of_standing (State.standing_acquire ..)).trans ((foldl_leaves State.retirements hwake t.groups u).trans rfl)

theorem State.retirements_barriersComplete (s : State) (tid : Nat) : (s.barriersComplete tid).retirements = s.retirements :=
  foldl_leaves State.retirements (fun s n => s.retirements_barComplete tid n) _ s

theorem State.standing_latchMemberRetired (s : State) (gid : Nat) : (s.latchMemberRetired gid).standing = s.standing :=
  State.standing_foldl (fun s l => s.standing_failLatch _ l _) _ s

/-- A group that may retire is there. -/
theorem State.isSome_of_mayRetire {s : State} {gid : Nat} (h : s.mayRetire gid = true) : (s.groups.find? gid).isSome = true := by
  cases hg : s.groups.find? gid with
  | some g => rfl
  | none => simp [State.mayRetire, State.group, SMap.get, hg, noGroup] at h

theorem execGroupRetire_not {s : State} {gid : Nat} (h : s.mayRetire gid = false) : execGroupRetire gid s = .next s := by
  simp [execGroupRetire, h]

/-- What the retirement of a group does for the rest: a latch it is listed at fails, and the barriers of its team look at their counts. -/
def State.retireGroup (s : State) (gid : Nat) : State :=
  ((s.modGroup gid fun g => { g with retired := true, bundles := [] }).latchMemberRetired gid).barriersComplete (s.group gid).team

theorem State.retireGroup_frame {s : State} {gid : Nat} (h : (s.groups.find? gid).isSome = true) :
    ((s.retireGroup gid).group gid).retired = true ∧ (s.retireGroup gid).grids = s.grids := by
  have hkeep : (s.retireGroup gid).retirements = (s.modGroup gid fun g => { g with retired := true, bundles := [] }).retirements :=
    (State.retirements_barriersComplete ..).trans (State.retirements_of_standing (State.standing_latchMemberRetired ..))
  refine ⟨?_, (State.grids_of_retirements hkeep).trans rfl⟩
  rw [State.retired_of_retirements hkeep, State.group_modGroup_same _ h]

/-- A group retires alone while another of its team has not. -/
theorem execGroupRetire_alone {s : State} {gid : Nat} (h : s.mayRetire gid = true)
    (hother : ∃ k ∈ (s.team (s.group gid).team).groups, k ≠ gid ∧ (s.group k).retired = false) :
    execGroupRetire gid s = .next (s.retireGroup gid) := by
  have hlast : ((s.team (s.group gid).team).groups.all fun x => x == gid || (s.group x).retired) = false := by
    obtain ⟨k, hk, hne, hret⟩ := hother
    exact List.all_eq_false.mpr ⟨k, hk, by simp [hne, hret]⟩
  unfold execGroupRetire
  rw [if_neg (by simp [h])]
  exact if_pos (by simp [hlast])

end Sys2Proof.Machine

namespace Sys2Proof

open Sys2Proof.Machine

/-- Settles O44: each event by the lemmas above about its operation; a landing through the group that it leaves, a delay through the
threads that forming bundles keeps, and a retirement through the grids and retired groups that the latches and barriers leave. -/
theorem issueAndLandingEventResults : Obligations.IssueAndLandingEventResults := by
  unfold Obligations.IssueAndLandingEventResults Answers
  intro s gid pc id core b lanes g thr
  simp only [exec_clauseIssue, exec_bundlePriorityAging, exec_yieldDelayExpiry, exec_deferredEventLanding, exec_sfuEntryStart,
    exec_sfuResultLanding, exec_groupRetire]
  refine ⟨fun hfind hslot hissues => ⟨fun h ws hok => State.maySlot_iff hslot hissues hok, State.selects_iff, ?_, ?_⟩, fun hnot hslots => ?_,
    execBundlePriorityAging_eq gid pc s, fun hs hcount => ?_, fun hfind => ?_, fun d n hfind hw => execDeferredEventLanding_accesses hfind hw,
    ?_, fun e rest hq => ⟨fun hstart => ?_, fun f r hstart hrest hf => ?_, execSfuResultLanding_of_queue hq⟩, execGroupRetire_not,
    fun hmay hother => ?_⟩
  · intro h ws u hfetch hgroup hwait hsel hheld
    obtain ⟨hmem, hissuing⟩ := State.takeSlot_eq (gid := gid) (b := b) (h := h) (ws := ws) hheld
    refine ⟨u.takeSlot gid b h ws, congrArg Host.Outcome.next (State.issue_takeSlot hfind hslot hissues hfetch hgroup hwait hsel), hmem, ?_⟩
    rw [hissuing, State.mkIssue, hgroup]
  · intro c u hfetch hgroup hsome
    obtain ⟨va, hissue⟩ := State.issue_raiseAt hfind hslot hissues hfetch
    obtain ⟨hissuing, hfault⟩ := State.raiseAt_eq (b := b) (c := c) (va := va) hsome
    exact ⟨u.raiseAt gid b 0 c b.lanes va, congrArg Host.Outcome.next hissue, hissuing, hgroup ▸ hfault⟩
  · exact congrArg Host.Outcome.next (State.issue_not_issues hnot hslots)
  · exact ⟨_, execYieldDelayExpiry_eq gid lanes s, fun l n hl h => yieldDelayExpiry_status hs (hcount ▸ hl) h⟩
  · exact execDeferredEventLanding_none hfind
  · intro d r x hfind hgid hw hv hh hs hcount hroom
    subst hgid
    obtain ⟨hdef, hmem, hgroup⟩ := State.land_eq hfind hv hs hh hroom
    exact ⟨s.land id, execDeferredEventLanding_done hfind hw, hdef, hmem, Deferred.landed_group hh hcount hgroup⟩
  · rw [execSfuEntryStart_of_queue hq, startEntry, if_neg (by simp [hstart])]
  · rw [execSfuEntryStart_of_queue hq, hrest, startEntry, if_pos hstart, startEntry, if_neg (by simp [hf])]
  · exact ⟨s.retireGroup gid, execGroupRetire_alone hmay hother, State.retireGroup_frame (State.isSome_of_mayRetire hmay)⟩

end Sys2Proof
end

section
/-!
PROOF. The dispatcher and the end of a grid (R64, R65, R396, R399, R402, R406): when a placement is tried, the team that a placement starts,
the starvation swap, and what the end of a grid keeps.
-/

namespace Sys2Proof.Machine

/-! ### Reading the arguments (R64) -/

/-- A placement goes on for a saved team, and where the argument block can be read or has failed. -/
theorem State.whenArgs_ready {s : State} {c : Candidate} (h : c.saved ≠ none ∨ ∀ u, s.argBlock c.grid ≠ .wait u) (k : State → State) :
    s.whenArgs c k = k s := by
  unfold State.whenArgs
  split
  · rfl
  · next hnew =>
    have hread := h.resolve_left (by simpa using hnew)
    split
    · next u hwait => exact absurd hwait (hread u)
    · rfl

/-- What was fetched for a reader that ends is in no team and no group. -/
theorem State.engDone_placed (s : State) (who : Nat) :
    (s.engDone who).mem = s.mem ∧ (s.engDone who).nextId = s.nextId ∧ (∀ tid, (s.engDone who).team tid = s.team tid) ∧
      ∀ gid, (s.engDone who).group gid = s.group gid := by
  rw [State.engDone_eq]
  exact ⟨rfl, rfl, fun _ => rfl, fun _ => rfl⟩

/-! ### The groups of a team that starts (R65) -/

/-- The groups of a new team, put on their cores one after the other: pairs of core and index. `make` gives the group of an index on a core
and in a slot. -/
def State.standGroups (s : State) (tid : Nat) (make : Nat → Nat → Nat → Group) (ps : List (Nat × Nat)) : State :=
  ps.foldl (fun (s : State) p => { s with groups := s.groups.insert (tid + 1 + p.2) (make p.2 p.1 (s.freeSlot p.1)) }) s

theorem State.standGroups_eq (s : State) (tid : Nat) (make : Nat → Nat → Nat → Group) (ps : List (Nat × Nat)) :
    s.standGroups tid make ps = { s with groups := (s.standGroups tid make ps).groups } := by
  induction ps generalizing s with
  | nil => rfl
  | cons p ps ih => exact ih _

/-- Each group of the list stands on its core, in a slot that was free. -/
theorem State.group_standGroups (s : State) (tid : Nat) (make : Nat → Nat → Nat → Group) {cores : List Nat} {i : Nat}
    (hi : i < cores.length) :
    ∃ slot, (s.standGroups tid make cores.zipIdx).group (tid + 1 + i) = make i (cores.getD i 0) slot := by
  induction cores using List.reverseRecOn with
  | nil => simp at hi
  | append_singleton cores core ih =>
    simp only [State.standGroups, List.zipIdx_append, List.foldl_append] at ih ⊢
    simp only [List.zipIdx_singleton, List.foldl_cons, List.foldl_nil, Nat.zero_add, State.group]
    by_cases hlast : i = cores.length
    · have hcore : (cores ++ [core]).getD i 0 = core := by simp [hlast]
      rw [hcore, hlast]
      exact ⟨_, SMap.get_insert_same ..⟩
    · have hlt : i < cores.length := by simp at hi; omega
      obtain ⟨slot, hslot⟩ := ih hlt
      rw [SMap.get_insert_other _ _ _ (by omega), List.getD_append _ _ _ _ hlt]
      exact ⟨slot, hslot⟩

/-- A group that starts has every thread at the kernel's first clause. -/
theorem startGroup_pc (k : Kernel) (tid i core slot : Nat) (h : SMap HandleBits) (g : SMap Word) (fault : Option FaultRec) {l : Nat}
    (hl : l < 32) : ((startGroup k tid i core slot h g fault).thread l).pc = k.entry := by
  have hthread : (startGroup k tid i core slot h g fault).thread l = { pc := k.entry } := List.getD_replicate _ hl
  rw [hthread]

/-! ### The start of a team (R64, R65, R399) -/

/-- An acquire moves the logical clocks alone. -/
theorem State.acquireAll_eq (s : State) (q scope : Nat) : s.acquireAll q scope = { s with lts := (s.acquireAll q scope).lts } := by
  have hraise : ∀ (s : State) (w : Nat), s.raiseLts q w = { s with lts := (s.raiseLts q w).lts } := by
    intro s w
    unfold State.raiseLts
    split <;> rfl
  unfold State.acquireAll State.acquire
  extract_lets u
  have hu : u = { s with lts := u.lts } := hraise s _
  split
  · rw [hraise u, hu]
  · exact hu

theorem State.foldl_form_numbers_reforms (gids : List Nat) (s : State) :
    (gids.foldl (fun (s : State) gid => s.form gid) s).Reforms s := by
  simpa [List.foldl_map] using State.foldl_form_reforms (gids.map fun gid => (gid, noGroup)) s

/-- The new team of a grid on the given cores. -/
def State.newTeam (s : State) (gr idx prio tid : Nat) (cores : List Nat) : Team :=
  { (s.grid gr).kernel.team with
    ctx := (s.grid gr).ctx, grid := gr, index := idx, cluster := cores.headD 0 / 4
    lcluster := if (s.grid gr).det then idx % (s.grid gr).lclusters else cores.headD 0 / 4
    prio := prio, order := tid, groups := (List.range cores.length).map (· + (tid + 1)) }

theorem State.newTeam_groups (s : State) (gr idx prio tid : Nat) (cores : List Nat) :
    (s.newTeam gr idx prio tid cores).groups.length = cores.length ∧
      ∀ i, i < cores.length → (s.newTeam gr idx prio tid cores).groups.getD i 0 = tid + 1 + i := by
  refine ⟨by simp [State.newTeam], fun i hi => ?_⟩
  simp [State.newTeam, hi, Nat.add_comm i]

/-- A new team takes its place under its `order`: it and its groups stand, its grid counts it, and its cluster acquires what the module
holds. -/
def State.standTeam (s : State) (team : Team) (make : Nat → Nat → Nat → Group) (cores : List Nat) : State :=
  ((({ s with nextId := team.order + 1 + cores.length, teams := s.teams.insert team.order team } : State).standGroups team.order make
    cores.zipIdx).modGrid team.grid fun g => { g with placed := g.placed + 1, state := .running }).acquireAll team.cluster 2

/-- Then the bundles of its groups are formed. -/
def State.startedTeam (s : State) (team : Team) (make : Nat → Nat → Nat → Group) (cores : List Nat) : State :=
  team.groups.foldl (fun (s : State) gid => s.form gid) (s.standTeam team make cores)

/-- With its argument block read, a team starts. -/
theorem State.startTeam_of_argBlock {s u : State} {gr : Nat} {bs : List Byte} (hargs : s.argBlock gr = .ok bs u) (idx : Nat)
    (cores : List Nat) : ∃ h g fault, s.startTeam gr idx cores = .ok []
      (u.startedTeam (s.newTeam gr idx (u.priorityOf (s.grid gr)) u.nextId cores)
        (fun i core slot => startGroup (s.grid gr).kernel u.nextId i core slot h g fault) cores) := by
  unfold State.startTeam
  rw [hargs]
  exact ⟨_, _, _, rfl⟩

section
variable (s : State) (team : Team) (make : Nat → Nat → Nat → Group) (cores : List Nat)

theorem State.startedTeam_reforms : (s.startedTeam team make cores).Reforms (s.standTeam team make cores) :=
  State.foldl_form_numbers_reforms team.groups _

/-- A placement itself changes no byte of memory, and the team is there under its number. -/
theorem State.startedTeam_frame :
    (s.startedTeam team make cores).mem = s.mem ∧ (s.startedTeam team make cores).team team.order = team := by
  rw [(s.startedTeam_reforms team make cores).state]
  unfold State.standTeam
  rw [State.acquireAll_eq, State.standGroups_eq]
  exact ⟨rfl, SMap.get_insert_same ..⟩

/-- Each of its groups stands on its core, its bundles formed. -/
theorem State.startedTeam_group {i : Nat} (hi : i < cores.length) :
    ∃ slot, ((s.startedTeam team make cores).group (team.order + 1 + i)).Reformed (make i (cores.getD i 0) slot) := by
  have hform := (s.startedTeam_reforms team make cores).group (team.order + 1 + i)
  unfold State.standTeam at hform
  rw [State.acquireAll_eq] at hform
  obtain ⟨slot, hslot⟩ := State.group_standGroups
    { s with nextId := team.order + 1 + cores.length, teams := s.teams.insert team.order team } team.order make hi
  exact ⟨slot, hslot ▸ hform⟩

end

/-- A team whose groups start at a kernel's entry has them on the cores given with every thread there. -/
theorem State.startedTeam_startGroup (s : State) (team : Team) (k : Kernel) (h : SMap HandleBits) (g : SMap Word) (fault : Option FaultRec)
    {cores : List Nat} {i : Nat} (hi : i < cores.length) :
    let x := (s.startedTeam team (fun i core slot => startGroup k team.order i core slot h g fault) cores).group (team.order + 1 + i)
    x.core = cores.getD i 0 ∧ x.index = i ∧ ∀ l, l < 32 → (x.thread l).pc = k.entry := by
  intro x
  obtain ⟨slot, hx⟩ : ∃ slot, x.Reformed (startGroup k team.order i (cores.getD i 0) slot h g fault) :=
    State.startedTeam_group s team _ cores hi
  refine ⟨by rw [hx.group]; rfl, by rw [hx.group]; rfl, fun l hl => ?_⟩
  rw [hx.thread l]
  exact startGroup_pc k team.order i _ slot h g fault hl

/-! ### Dispatch (R399, R400, R405) -/

/-- Where no measured limit is set, none holds a team back. -/
theorem State.measuredAllows_of_no_limit {s : State} {ctx : Nat} (h : s.measuredLimits ctx = false) : s.measuredAllows ctx = (true, s) := by
  obtain ⟨hbw, hpower⟩ : (s.limitsOf ctx).getD 1 0 = 0 ∧ (s.limitsOf ctx).getD 2 0 = 0 := by simpa [State.measuredLimits] using h
  unfold State.measuredAllows
  rw [hbw, hpower]
  rfl

/-- A new team with room, and with a share that allows it, is placed by its start. -/
theorem State.placeOne_new {s : State} {c : Candidate} {cores : List Nat} (hnew : c.saved = none)
    (hshare : s.shareAllows (s.grid c.grid).ctx (cores.headD 0 / 4) = true) (hfit : s.coresFit (s.grid c.grid).kernel cores = true) :
    s.placeOne c cores = s.startTeam c.grid c.index cores := by
  simp only [State.placeOne, hnew, hshare, hfit, Bool.not_true, Bool.false_eq_true, if_false, if_true]

section
variable {s : State} {gr idx q : Nat} {cores : List Nat}

theorem execTeamDispatch_none (h : (s.candidatesOf gr).find? (fun c => c.index == idx) = none) :
    execTeamDispatch gr idx q cores s = .next s := by
  simp [execTeamDispatch, h]

variable {c : Candidate} (hcand : (s.candidatesOf gr).find? (fun c => c.index == idx) = some c)
include hcand

theorem execTeamDispatch_held (h : s.withheld = true ∨ s.isFirst c = false ∨ q ≠ cores.headD 0 / 4) :
    execTeamDispatch gr idx q cores s = .next s := by
  simp only [execTeamDispatch, hcand]
  rw [if_pos (by rcases h with h | h | h <;> simp [h, -List.headD_eq_head?_getD])]

variable (hgate : s.withheld = false) (hfirst : s.isFirst c = true) (hq : q = cores.headD 0 / 4)
  (hlimit : s.measuredLimits (s.grid gr).ctx = false) (hnew : c.saved = none)
include hgate hfirst hq hlimit hnew

/-- A new team that comes first takes its place once its argument block is read, a stepped grid's teams together. -/
theorem execTeamDispatch_first :
    execTeamDispatch gr idx q cores s =
      if (s.grid gr).stepped = true then .next (s.whenArgs c fun s => s.orElse gr (s.placeAll gr (s.grid gr).teams cores))
      else .next (s.whenArgs c fun s => s.orElse gr (s.placeOne c cores)) := by
  simp [execTeamDispatch, hcand, State.measuredAllows_of_no_limit hlimit, hgate, hfirst, hq, hnew]

/-- The first team of a grid that is not stepped starts where it fits and its share allows it. -/
theorem execTeamDispatch_starts (hstep : (s.grid gr).stepped = false) (hgrid : c.grid = gr)
    (hshare : s.shareAllows (s.grid gr).ctx q = true) (hfit : s.coresFit (s.grid gr).kernel cores = true) {bs : List Byte} {u : State}
    (hargs : s.argBlock gr = .ok bs u) :
    ∃ t, execTeamDispatch gr idx q cores s = .next t ∧
      t.team u.nextId = s.newTeam gr idx (u.priorityOf (s.grid gr)) u.nextId cores ∧ t.mem = u.mem ∧
      ∀ i, i < cores.length → (t.group (u.nextId + 1 + i)).core = cores.getD i 0 ∧ (t.group (u.nextId + 1 + i)).index = i ∧
        ∀ l, l < 32 → ((t.group (u.nextId + 1 + i)).thread l).pc = (s.grid gr).kernel.entry := by
  subst hgrid
  have hidx : c.index = idx := by simpa using List.find?_some hcand
  obtain ⟨h, g, fault, hstart⟩ := State.startTeam_of_argBlock hargs idx cores
  have hdispatch := execTeamDispatch_first hcand hgate hfirst hq hlimit hnew
  rw [if_neg (by simp [hstep]), State.whenArgs_ready (.inr (by simp [hargs])), State.placeOne_new hnew (hq ▸ hshare) hfit, hidx, hstart]
    at hdispatch
  refine ⟨_, hdispatch, ?_⟩
  unfold State.orElse
  obtain ⟨hmemDone, -, hteamDone, hgroupDone⟩ := State.engDone_placed (u.startedTeam _ _ cores) (gridReader c.grid)
  obtain ⟨hmem, hteam⟩ := State.startedTeam_frame u (s.newTeam c.grid idx (u.priorityOf (s.grid c.grid)) u.nextId cores) _ cores
  refine ⟨(hteamDone _).trans hteam, hmemDone.trans hmem, fun i hi => ?_⟩
  rw [hgroupDone]
  exact u.startedTeam_startGroup (s.newTeam c.grid idx _ u.nextId cores) (s.grid c.grid).kernel h g fault hi

end

/-! ### The starvation swap (R402) -/

/-- Nothing is swapped before STARVE_WAIT, while teams are withheld, or in a grid that has not starved. -/
theorem execStarvationSwap_not {s : State} {gr : Nat}
    (h : ∀ a, (s.grid gr).starvedSince = some a → s.clock < a + s.cfgVal 0x30 ∨ s.withheld = true) :
    execStarvationSwap gr s = .next s := by
  unfold execStarvationSwap
  split
  · next a c hsince _ => rw [if_pos (by rcases h a hsince with h | h <;> simp [h])]
  · rfl

section
variable {s : State} {gr a : Nat} {c : Candidate} (hsince : (s.grid gr).starvedSince = some a) (hwait : a + s.cfgVal 0x30 ≤ s.clock)
  (hgate : s.withheld = false) (hstarves : s.starves gr = true) (hlow : s.lowestWaiting gr = some c)
include hsince hwait hgate hstarves hlow

/-- Without a victim the grid's groups fault. -/
theorem execStarvationSwap_no_victim (hvictim : s.swapVictim gr c = none) :
    execStarvationSwap gr s = .next ((s.starveFault gr).modGrid gr fun x => { x with starvedSince := none }) := by
  simp [execStarvationSwap, hsince, hlow, hgate, hstarves, hvictim, Nat.not_lt.mpr hwait]

/-- A victim that can be saved makes room for the waiting team. -/
theorem execStarvationSwap_swaps {victim : Nat} {cores : List Nat} {d : List Byte} {v : State}
    (hvictim : s.swapVictim gr c = some (victim, cores)) (hsave : s.canSave victim = true)
    (hargs : c.saved ≠ none ∨ ∀ u, s.argBlock c.grid ≠ .wait u) (hplace : (s.saveTeam victim).placeOne c cores = .ok d v) :
    execStarvationSwap gr s = .next ((v.engDone (gridReader gr)).modGrid gr fun x => { x with starvedSince := none }) := by
  simp [execStarvationSwap, hsince, hlow, hgate, hstarves, hvictim, hsave, Nat.not_lt.mpr hwait, State.whenArgs_ready hargs, hplace]

end

/-! ### The end of a grid (R396, R409) -/

theorem execGridComplete_not {s : State} {gr : Nat}
    (h : s.teamsDone gr = false ∨ s.gridPerformed gr = false ∨ (s.grid gr).wantsDigest = true) : execGridComplete gr s = .next s := by
  unfold execGridComplete
  rw [if_neg (by rcases h with h | h | h <;> simp [h])]

theorem execGridComplete_ends {s : State} {gr : Nat} (hstate : (s.grid gr).state = .queued ∨ (s.grid gr).state = .running)
    (hdone : s.teamsDone gr = true) (hdigest : (s.grid gr).wantsDigest = false) (hperf : s.gridPerformed gr = true) :
    execGridComplete gr s = .next (s.endGrid gr) := by
  unfold execGridComplete
  rw [if_pos (by simp [hstate, hdone, hdigest, hperf])]

/-- The status of a launch that ends is the last that its context keeps (R409). -/
theorem State.keepLaunch_frame (s : State) (ctx launch : Nat) (st : LaunchState) (code retired : Nat) :
    let t := s.keepLaunch ctx launch st code retired
    (t.ctx ctx).kept.getLast? = some (launch, st, code, retired) ∧ t.grids = s.grids ∧ t.mem = s.mem ∧ t.teams = s.teams ∧
      t.groups = s.groups := by
  refine ⟨?_, rfl, rfl, rfl, rfl⟩
  simp [State.keepLaunch, State.noteEnded, State.ctx, State.modCtx, State.setCtx, List.getLast?_drop]

/-- The status that a grid's code and its cancellation give it at its end. -/
def Grid.endState (g : Grid) : LaunchState := if g.code ≠ 0 then .failed else if g.cancelled then .cancelled else .complete

theorem State.endGrid_of_no_walk {s : State} {gr : Nat} (hwalk : (s.grid gr).walk = none) :
    s.endGrid gr = (s.modGrid gr fun g => { g with state := (s.grid gr).endState }).keepLaunch (s.grid gr).ctx (s.grid gr).launch
      (s.grid gr).endState (s.grid gr).code (s.grid gr).retired.length := by
  simp [State.endGrid, hwalk, Grid.endState]

/-- A grid without a node ends with that status, kept under its launch number. -/
theorem State.endGrid_frame {s : State} {gr : Nat} (hwalk : (s.grid gr).walk = none) (hsome : (s.grids.find? gr).isSome = true) :
    (s.endGrid gr).grid gr = { s.grid gr with state := (s.grid gr).endState } ∧
      ((s.endGrid gr).ctx (s.grid gr).ctx).kept.getLast? =
        some ((s.grid gr).launch, (s.grid gr).endState, (s.grid gr).code, (s.grid gr).retired.length) ∧
      (s.endGrid gr).mem = s.mem ∧ (s.endGrid gr).teams = s.teams ∧ (s.endGrid gr).groups = s.groups := by
  rw [State.endGrid_of_no_walk hwalk]
  obtain ⟨hkept, hgrids, hmem, hteams, hgroups⟩ := State.keepLaunch_frame (s.modGrid gr fun g => { g with state := (s.grid gr).endState })
    (s.grid gr).ctx (s.grid gr).launch (s.grid gr).endState (s.grid gr).code (s.grid gr).retired.length
  refine ⟨?_, hkept, hmem, hteams, hgroups⟩
  obtain ⟨g, hg⟩ := Option.isSome_iff_exists.mp hsome
  refine (congrArg (fun m => SMap.get m gr { ctx := 0 }) hgrids).trans ?_
  simp [State.grid, SMap.get, hg]

/-! ### The digest at a grid's end (R406) -/

/-- The field of a digest area's header that counts its entries. -/
theorem bits_low_seven (n : Nat) : bits n 6 0 = n % 2 ^ 7 := by
  simp [bits]

theorem execGridEndDigest_not {s : State} {gr : Nat}
    (h : s.teamsDone gr = false ∨ s.gridPerformed gr = false ∨ (s.grid gr).wantsDigest = false) : execGridEndDigest gr s = .next s := by
  unfold execGridEndDigest
  extract_lets g busy done stop
  rw [if_pos (by rcases h with h | h | h <;> simp [g, h])]

section
variable {s u : State} {gr : Nat} {hd : List Byte} (hstate : (s.grid gr).state = .running) (hdigest : (s.grid gr).wantsDigest = true)
  (hdone : s.teamsDone gr = true) (hperf : s.gridPerformed gr = true) (hcmd : s.commands = [])
  (hread : s.walkRead (gridReader gr) (s.grid gr).ctx (s.grid gr).digestVa 16 = .ok hd u)
include hstate hdigest hdone hperf hcmd hread

/-- A digest area whose count of entries is none of 1 to 64 ends the digest. -/
theorem execGridEndDigest_bad_count (hcount : ofBytes hd = 0 ∨ 64 < ofBytes hd) :
    execGridEndDigest gr s =
      .next (((u.engDone (gridReader gr)).gridCode gr .engineRecord).modGrid gr fun x => { x with digestDone := true }) := by
  have hn : (bits (ofBytes hd) 6 0 == 0 || decide (64 < bits (ofBytes hd) 6 0) || ofBytes hd / 2 ^ 7 != 0) = true := by
    simp only [bits_low_seven, Bool.or_eq_true, beq_iff_eq, decide_eq_true_eq, bne_iff_ne]
    omega
  unfold execGridEndDigest
  extract_lets g busy done stop
  rw [if_neg (by simp [g, busy, hstate, hdigest, hdone, hperf, hcmd, State.digestsHeld]), hread]
  simp only [hn, if_true]
  rfl

/-- Good entries become a digest command of the grid. -/
theorem execGridEndDigest_enters {bs : List Byte} {v : State} (hpos : 0 < ofBytes hd) (hle : ofBytes hd ≤ 64)
    (hentries : u.walkRead (gridReader gr) (s.grid gr).ctx (s.grid gr).digestVa (16 + 16 * ofBytes hd) = .ok bs v)
    (hok : entriesOk (digestEntries (ofBytes hd) bs) = true) :
    ∃ es, execGridEndDigest gr s = .next ((v.engDone (gridReader gr)).addCommand
      { kind := .gridDigest, ctx := (s.grid gr).ctx, team := 2 ^ 40, gid := 2 ^ 40, core := walkerCore, words := gr :: es }).2 := by
  have hn : bits (ofBytes hd) 6 0 = ofBytes hd := by
    rw [bits_low_seven]
    omega
  have hgood : ¬ ((ofBytes hd == 0 || decide (64 < ofBytes hd) || ofBytes hd / 2 ^ 7 != 0) = true) := by
    simp only [Bool.or_eq_true, beq_iff_eq, decide_eq_true_eq, bne_iff_ne]
    omega
  refine ⟨(digestEntries (ofBytes hd) bs).flatMap fun p => [p.1, p.2], ?_⟩
  unfold execGridEndDigest
  extract_lets g busy done stop
  rw [if_neg (by simp [g, busy, hstate, hdigest, hdone, hperf, hcmd, State.digestsHeld]), hread]
  simp only [g, hn, hgood, hentries, hok, Bool.not_true, Bool.false_eq_true, if_false]
  rfl

end

/-- A command entered stands under the next number. -/
theorem State.addCommand_frame (s : State) (c : Command) :
    (s.addCommand c).2.commands.find? s.nextId = some { c with since := s.clock } ∧ (s.addCommand c).2.nextId = s.nextId + 1 :=
  ⟨SMap.find?_insert_same .., rfl⟩

end Sys2Proof.Machine

namespace Sys2Proof

open Sys2Proof.Machine

/-- Settles O27: dispatch, swap and end of a grid by the lemmas above; a team that starts through the groups that it stands on. -/
theorem placementAndGridEventResults : Obligations.PlacementAndGridEventResults := by
  unfold Obligations.PlacementAndGridEventResults Answers
  intro s gr idx q cores g cand n
  simp only [exec_teamDispatch, exec_starvationSwap, exec_gridComplete, exec_gridEndDigest]
  refine ⟨execTeamDispatch_none, fun c hcand => execTeamDispatch_held hcand, ?_, ?_, fun h => ?_, fun a ha hwait => ?_, fun hgate => ?_,
    fun a c hsince hwait hgate hstarves hlow => execStarvationSwap_no_victim hsince hwait hgate hstarves hlow,
    fun a c victim room d v hsince hwait hgate hstarves hlow hvictim hsave hargs hplace =>
      execStarvationSwap_swaps hsince hwait hgate hstarves hlow hvictim hsave hargs hplace,
    ?_, execGridComplete_not, execGridEndDigest_not, fun hstate hdigest hdone hperf hcmd hd u hread => ⟨?_, ?_⟩⟩
  · intro c u bs hcand hnew hgate hfirst hq hlimit hstep hgrid hshare hfit hargs
    obtain ⟨t, hstart, hteam, hmem, hgroup⟩ :=
      execTeamDispatch_starts hcand hgate hfirst hq hlimit hnew hstep hgrid hshare hfit hargs
    obtain ⟨hlength, hnumber⟩ := s.newTeam_groups gr idx (u.priorityOf g) u.nextId cores
    refine ⟨t, hstart, ?_⟩
    rw [hteam]
    exact ⟨rfl, rfl, hq.symm, hlength, hmem, fun i hi => ⟨hnumber i hi, hgroup i hi⟩⟩
  · intro c hcand hnew hgate hfirst hq hlimit hstep
    exact (execTeamDispatch_first hcand hgate hfirst hq hlimit hnew).trans (if_pos hstep)
  · exact execStarvationSwap_not fun a ha => absurd (h.symm.trans ha) (by simp)
  · exact execStarvationSwap_not fun b hb => .inl (Option.some.inj (ha.symm.trans hb) ▸ hwait)
  · exact execStarvationSwap_not fun _ _ => .inr hgate
  · intro hstate hdone hdigest hperf hwalk hsome
    exact ⟨_, execGridComplete_ends hstate hdone hdigest hperf, State.endGrid_frame hwalk hsome⟩
  · exact execGridEndDigest_bad_count hstate hdigest hdone hperf hcmd hread
  · intro bs v hpos hle hentries hok
    obtain ⟨es, henters⟩ := execGridEndDigest_enters hstate hdigest hdone hperf hcmd hread hpos hle hentries hok
    obtain ⟨hfind, hnext⟩ := (v.engDone (gridReader gr)).addCommand_frame
      { kind := .gridDigest, ctx := g.ctx, team := 2 ^ 40, gid := 2 ^ 40, core := walkerCore, words := gr :: es }
    obtain ⟨-, hid, -, -⟩ := v.engDone_placed (gridReader gr)
    exact ⟨_, henters, _, hid ▸ hfind, rfl, rfl, hid ▸ hnext⟩

end Sys2Proof
end

section
/-!
PROOF. Branches, calls and exit at issue (R77 to R81): the lanes that fail a check are told from none by one lemma, and each instruction's
meaning is said once, for the clause in the slot.
-/

namespace Sys2Proof.Machine

/-! ### Lanes that fail a check -/

theorem Lanes.ext {m n : Lanes} (h : ∀ l, m.has l = n.has l) : m = n := BitVec.eq_of_getLsbD_eq fun l _ => h l

theorem Lanes.eq_zero_iff {m : Lanes} : m = 0 ↔ ∀ l, m.has l = false :=
  ⟨fun h l => by simp [h, Lanes.has], fun h => Lanes.ext fun l => (h l).trans (by simp [Lanes.has])⟩

/-- No lane of a set satisfies a test exactly when the set of those that do is empty. -/
theorem Lanes.of_has_and_eq_zero {m : Lanes} {p : Nat → Bool} :
    (Lanes.of fun l => m.has l && p l) = 0 ↔ ∀ l, m.has l = true → p l = false := by
  rw [Lanes.eq_zero_iff]
  refine ⟨fun h l hl => ?_, fun h l => ?_⟩
  · simpa [hl, Lanes.has_lt hl] using h l
  · by_cases hl : m.has l = true
    · simp [h l hl]
    · simp [hl]

theorem Lanes.of_has_and_ne_zero {m : Lanes} {p : Nat → Bool} :
    (Lanes.of fun l => m.has l && p l) ≠ 0 ↔ ∃ l, m.has l = true ∧ p l = true := by
  rw [Ne, Lanes.of_has_and_eq_zero]
  simp

/-- When every lane of a set satisfies a test, those that do are the set. -/
theorem Lanes.of_has_and_eq_self {m : Lanes} {p : Nat → Bool} (h : ∀ l, m.has l = true → p l = true) :
    (Lanes.of fun l => m.has l && p l) = m := by
  refine Lanes.ext fun l => ?_
  by_cases hm : m.has l = true
  · simp [hm, h l hm, Lanes.has_lt hm]
  · simp [hm]

/-- Per-lane failures that all carry one code are reported with the lanes that fail, and none when none does (R48). -/
theorem firstFailure_one_code {lanes : Lanes} {c : FaultCode} {va : Nat} {q : Nat → Bool} {check : Nat → Option (Nat × FaultCode × Nat)}
    (h : ∀ l, lanes.has l = true → check l = if q l then some (l, c, va) else none) :
    firstFailure ((Lanes.list lanes).filterMap check) =
      if (Lanes.of fun l => lanes.has l && q l) = 0 then none else some (c, Lanes.of fun l => lanes.has l && q l, va) := by
  have hmem : ∀ x, x ∈ (Lanes.list lanes).filterMap check ↔ lanes.has x.1 = true ∧ q x.1 = true ∧ x = (x.1, c, va) := by
    intro x
    simp only [List.mem_filterMap, Lanes.mem_list]
    constructor
    · rintro ⟨l, hl, hx⟩
      rw [h l hl] at hx
      split at hx
      · cases hx
        exact ⟨hl, ‹_›, rfl⟩
      · cases hx
    · rintro ⟨hl, hq, hx⟩
      exact ⟨x.1, hl, by rw [h _ hl, if_pos hq, ← hx]⟩
  generalize (Lanes.list lanes).filterMap check = fs at hmem
  split
  case isTrue hzero =>
    have : fs = [] := List.eq_nil_iff_forall_not_mem.mpr fun x hx => by
      obtain ⟨hl, hq, -⟩ := (hmem x).mp hx
      simp [Lanes.of_has_and_eq_zero.mp hzero _ hl] at hq
    rw [this]
    rfl
  case isFalse hne =>
    obtain ⟨l, hl, hq⟩ := Lanes.of_has_and_ne_zero.mp hne
    cases fs with
    | nil => cases (hmem (l, c, va)).mpr ⟨hl, hq, rfl⟩
    | cons x xs =>
      obtain ⟨-, -, hx⟩ := (hmem x).mp List.mem_cons_self
      rw [hx]
      simp only [firstFailure, ← hx]
      refine congrArg (fun p => some (c, Lanes.of p, va)) (funext fun k => ?_)
      rw [Bool.eq_iff_iff, List.any_eq_true]
      constructor
      · rintro ⟨y, hy, he⟩
        obtain ⟨hl, hq, -⟩ := (hmem y).mp hy
        obtain ⟨rfl, -⟩ : y.1 = k ∧ _ := by simpa using he
        simp [hl, hq]
      · intro hk
        obtain ⟨hl, hq⟩ : lanes.has k = true ∧ q k = true := by simpa using hk
        exact ⟨(k, c, va), (hmem _).mpr ⟨hl, hq, rfl⟩, by simp⟩

/-! ### Branches, calls and exit -/

section
variable {s : State} {iss : Issue} {rest : List Issue} (hrun : s.issuing = iss :: rest)
include hrun

theorem execBra_eq (f : FB) : execBra f s =
    s.finish iss 1 [.setPc (iss.acting f.ge f.gn f.gk) (LaneVals.of fun _ => (iss.target f.off).zeroExtend 64)] := by
  rw [execBra, State.withIssue_cons _ hrun]

theorem execBrx_eq (f : FC) (ls : Lits) : execBrx f ls s =
    if iss.misTargets f.a (iss.acting f.ge f.gn f.gk) = 0 then
      s.finish iss (1 + ls.length) [.setPc (iss.acting f.ge f.gn f.gk) (LaneVals.of (iss.regTarget f.a))]
    else s.faults iss .misaligned (iss.misTargets f.a (iss.acting f.ge f.gn f.gk)) := by
  rw [execBrx, State.withIssue_cons _ hrun]
  simp only [bne_iff_ne, ne_eq, ite_not]

theorem execCall_eq (f : FB) : execCall f s =
    if iss.atDepth 16 = 0 then
      s.finish iss 1 [.act (.call f) iss.idx iss.lanes (LaneVals.of fun _ => (iss.target f.off).zeroExtend 64) [] [] []]
    else s.faults iss .callDepth (iss.atDepth 16) := by
  rw [execCall, State.withIssue_cons _ hrun]
  simp only [bne_iff_ne, ne_eq, ite_not]

/-- callx of a bundle whose checks can fail with one code alone: it completes when no lane fails (R79). -/
theorem execCallx_eq (f : FC) (ls : Lits) {c : FaultCode} {q : Nat → Bool}
    (h : ∀ l, iss.lanes.has l = true →
      (if (iss.atDepth 16).has l then some (l, FaultCode.callDepth, 0)
        else if (iss.misTargets f.a iss.lanes).has l then some (l, .misaligned, 0) else none) = if q l then some (l, c, 0) else none) :
    execCallx f ls s =
      if (Lanes.of fun l => iss.lanes.has l && q l) = 0 then
        s.finish iss (1 + ls.length) [.act (.callx f ls) iss.idx iss.lanes (LaneVals.of (iss.regTarget f.a)) [] [] []]
      else s.faults iss c (Lanes.of fun l => iss.lanes.has l && q l) := by
  rw [execCallx, State.withIssue_cons _ hrun]
  simp only [firstFailure_one_code h]
  by_cases hzero : (Lanes.of fun l => iss.lanes.has l && q l) = 0
  · simp only [if_pos hzero]
  · simp only [if_neg hzero]

theorem execRet_eq (f : FC) (ls : Lits) : execRet f ls s =
    if iss.atDepth 0 = 0 then s.finish iss (1 + ls.length) [.act (.ret f ls) iss.idx iss.lanes [] [] [] []]
    else s.faults iss .callDepth (iss.atDepth 0) := by
  rw [execRet, State.withIssue_cons _ hrun]
  simp only [bne_iff_ne, ne_eq, ite_not]

theorem execExit_eq (f : FC) (ls : Lits) :
    execExit f ls s = s.finish iss (1 + ls.length) [.act (.exit f ls) iss.idx iss.lanes [] [] [] []] := by
  rw [execExit, State.withIssue_cons _ hrun]

end

/-- No lane's target is misaligned exactly when each lane's is a multiple of four (R78). -/
theorem Issue.misTargets_eq_zero {iss : Issue} {a : BitVec 7} {lanes : Lanes} :
    iss.misTargets a lanes = 0 ↔ ∀ l, lanes.has l = true → (iss.regTarget a l).toNat % 4 = 0 := by
  rw [Issue.misTargets, Lanes.of_has_and_eq_zero]
  simp

theorem Issue.atDepth_eq_zero {iss : Issue} {n : Nat} :
    iss.atDepth n = 0 ↔ ∀ l, iss.lanes.has l = true → (iss.before.thread l).stack.length ≠ n := by
  rw [Issue.atDepth, Lanes.of_has_and_eq_zero]
  simp

theorem Issue.atDepth_ne_zero {iss : Issue} {n : Nat} :
    iss.atDepth n ≠ 0 ↔ ∃ l, iss.lanes.has l = true ∧ (iss.before.thread l).stack.length = n := by
  rw [Ne, Issue.atDepth_eq_zero]
  simp

/-- Whether a lane of the bundle stands at a depth. -/
theorem Issue.has_atDepth {iss : Issue} {n l : Nat} (h : iss.lanes.has l = true) :
    (iss.atDepth n).has l = ((iss.before.thread l).stack.length == n) := by
  simp [Issue.atDepth, h, Lanes.has_lt h]

theorem Issue.has_misTargets {iss : Issue} {a : BitVec 7} {lanes : Lanes} {l : Nat} (h : lanes.has l = true) :
    (iss.misTargets a lanes).has l = ((iss.regTarget a l).toNat % 4 != 0) := by
  simp [Issue.misTargets, h, Lanes.has_lt h]

/-- With room on every stack of the bundle, callx fails in the lanes whose target is misaligned. -/
theorem execCallx_of_room {s : State} {iss : Issue} {rest : List Issue} (hrun : s.issuing = iss :: rest) (f : FC) (ls : Lits)
    (hroom : ∀ l, iss.lanes.has l = true → (iss.before.thread l).stack.length ≠ 16) : execCallx f ls s =
      if iss.misTargets f.a iss.lanes = 0 then
        s.finish iss (1 + ls.length) [.act (.callx f ls) iss.idx iss.lanes (LaneVals.of (iss.regTarget f.a)) [] [] []]
      else s.faults iss .misaligned (iss.misTargets f.a iss.lanes) :=
  execCallx_eq hrun f ls (q := fun l => (iss.regTarget f.a l).toNat % 4 != 0) fun l hl => by
    rw [Issue.has_atDepth hl, Issue.has_misTargets hl, if_neg (by simpa using hroom l hl)]

/-- With every target aligned, or every stack full, callx fails in the lanes whose stack is full. -/
theorem execCallx_of_depth {s : State} {iss : Issue} {rest : List Issue} (hrun : s.issuing = iss :: rest) (f : FC) (ls : Lits)
    (h : ∀ l, iss.lanes.has l = true → (iss.before.thread l).stack.length = 16 ∨ (iss.regTarget f.a l).toNat % 4 = 0)
    (hdeep : ∃ l, iss.lanes.has l = true ∧ (iss.before.thread l).stack.length = 16) :
    execCallx f ls s = s.faults iss .callDepth (iss.atDepth 16) :=
  (execCallx_eq hrun f ls (c := .callDepth) (q := fun l => (iss.before.thread l).stack.length == 16) fun l hl => by
    rw [Issue.has_atDepth hl, Issue.has_misTargets hl]
    rcases h l hl with hfull | halign
    · simp [hfull]
    · simp [halign]).trans (if_neg (Issue.atDepth_ne_zero.mpr hdeep))

end Sys2Proof.Machine

namespace Sys2Proof

open Sys2Proof.Machine

/-- Settles O21: an instruction completes when the set of the lanes that fail its check is empty, and faults in that set otherwise; callx,
which makes two checks, by the one of them that can fail. -/
theorem branchCallReturnAndExitHoldBackTheirTransfer : Obligations.BranchCallReturnAndExitHoldBackTheirTransfer := by
  unfold Obligations.BranchCallReturnAndExitHoldBackTheirTransfer Completes Raises
  rintro s iss f b ls ⟨rest, hrun⟩ acting dest reg depth held aligned n
  simp only [exec_bra, exec_brx, exec_call, exec_callx, exec_ret, exec_exit, held]
  have haligned (lanes : Lanes) : aligned lanes ↔ iss.misTargets f.a lanes = 0 := Issue.misTargets_eq_zero.symm
  refine ⟨execBra_eq hrun b, fun h => (execBrx_eq hrun f ls).trans (if_pos ((haligned _).mp h)),
    fun h => (execBrx_eq hrun f ls).trans (if_neg fun hz => h ((haligned _).mpr hz)), fun hroom => ⟨?_, fun h => ?_⟩,
    fun hdeep => ⟨?_, fun h => ?_⟩, fun hroom h => ?_, fun hne hall => ?_, fun h => ?_, fun h => ?_, execExit_eq hrun f ls⟩
  · exact (execCall_eq hrun b).trans (if_pos (Issue.atDepth_eq_zero.mpr hroom))
  · exact (execCallx_of_room hrun f ls hroom).trans (if_pos ((haligned _).mp h))
  · exact (execCall_eq hrun b).trans (if_neg (Issue.atDepth_ne_zero.mpr hdeep))
  · exact execCallx_of_depth hrun f ls (fun l hl => .inr (h l hl)) hdeep
  · exact (execCallx_of_room hrun f ls hroom).trans (if_neg fun hz => h ((haligned _).mpr hz))
  · have hsome : ∃ l, iss.lanes.has l = true := by
      rw [Ne, Lanes.eq_zero_iff] at hne
      simpa using hne
    have hself : iss.atDepth 16 = iss.lanes := Lanes.of_has_and_eq_self fun l hl => by simpa using hall l hl
    rw [execCallx_of_depth hrun f ls (fun l hl => .inl (hall l hl)) (hsome.imp fun l hl => ⟨hl, hall l hl⟩), hself]
    rfl
  · exact (execRet_eq hrun f ls).trans (if_pos (Issue.atDepth_eq_zero.mpr h))
  · exact (execRet_eq hrun f ls).trans (if_neg (Issue.atDepth_ne_zero.mpr h))

end Sys2Proof
end

section
/-!
PROOF. The special registers (R84 to R87, R144, R405): what srd reads of each number, and which writes swr holds back.
-/

namespace Sys2Proof.Machine

/-! ### Operand codes -/

/-- No operand code names a v register and a g register. -/
theorem isG_of_isV {c : BitVec 7} (h : isV c = true) : isG c = false := by
  simp only [isV, isG, decide_eq_true_eq, Bool.and_eq_false_iff, decide_eq_false_iff_not] at *
  omega

theorem isV_of_isG {c : BitVec 7} (h : isG c = true) : isV c = false := by
  by_contra hv
  simp [isG_of_isV (Bool.eq_true_of_not_eq_false hv)] at h

/-! ### srd and swr -/

theorem Issue.toVOrG_v (iss : Issue) {d : BitVec 7} (x : Nat → Word) (h : isV d = true) :
    iss.toVOrG d x = .v d.toNat iss.lanes (iss.lanesOf x) := if_pos h

theorem Issue.toVOrG_g (iss : Issue) {d : BitVec 7} (x : Nat → Word) (h : isG d = true) :
    iss.toVOrG d x = .g (d.toNat - 104) (x (lowestLane iss.lanes)) := if_neg (by simp [isV_of_isG h])

theorem threadHeld_iff {n : Nat} : threadHeld n = true ↔ n = 0x00 ∨ n = 0x0A ∨ n = 0x0B := by
  simp [threadHeld, or_assoc]

/-- What the special registers of Table 4·3 read that a program can name without its placement (R84, R86, R405). -/
theorem State.special_values (s : State) (iss : Issue) (l : Nat) :
    s.special iss 0x00 l = BitVec.ofNat 64 l ∧ s.special iss 0x0A l = (iss.before.thread l).flags.zeroExtend 64 ∧
      s.special iss 0x0B l = (iss.before.thread l).draw ∧ s.special iss 0x0C l = iss.before.gang ∧
      s.special iss 0x0D l = iss.before.faultInfo ∧ s.special iss 0x0E l = iss.before.fpctl ∧
      s.special iss 0x06 l = BitVec.ofNat 64 s.chip ∧
      s.special iss 0x07 l = (if (s.gridOf iss.gid).det then 0 else BitVec.ofNat 64 s.clock) ∧
      ((s.gridOf iss.gid).det = true → s.special iss 0x08 l = 0) ∧
      s.special iss 0x09 l = (if (s.gridOf iss.gid).det then 0 else iss.before.lfsr.zeroExtend 64) :=
  ⟨rfl, rfl, rfl, rfl, rfl, rfl, rfl, rfl, fun hdet => if_pos hdet, rfl⟩

/-- The lanes whose value has bits that FLAGS reserves (R87). -/
theorem Issue.flagsReserved (iss : Issue) (x : Nat → Word) :
    (Lanes.of fun l => iss.lanes.has l && ((iss.lanesOf x).at l).toNat / 32 != 0) =
      Lanes.of fun l => iss.lanes.has l && decide (32 ≤ (x l).toNat) := by
  refine congrArg Lanes.of (funext fun l => ?_)
  by_cases hl : iss.lanes.has l = true
  · rw [Issue.at_lanesOf iss x hl, Bool.eq_iff_iff]
    simp only [hl, Bool.true_and, bne_iff_ne, decide_eq_true_eq]
    omega
  · simp [hl]

section
variable {s : State} {iss : Issue} {rest : List Issue} (hrun : s.issuing = iss :: rest)
include hrun

theorem execSrd_eq (f : FC) (ls : Lits) {n : Nat} (hn : (iss.uniform f.b (litAt ls 0)).toNat = n) : execSrd f ls s =
    if 0x0E < n then s.faultAll iss .illegalOpcode
    else if isG f.a && threadHeld n then s.faultAll iss .reservedField
    else s.finish iss (1 + ls.length) [iss.toVOrG f.a (s.special iss n)] := by
  rw [execSrd, State.withIssue_cons _ hrun, ← hn]

/-- A register that the destination may take is read. -/
theorem execSrd_reads (f : FC) (ls : Lits) {n : Nat} (hn : (iss.uniform f.b (litAt ls 0)).toNat = n) (hle : n ≤ 0x0E)
    (hheld : (isG f.a && threadHeld n) = false) :
    execSrd f ls s = s.finish iss (1 + ls.length) [iss.toVOrG f.a (s.special iss n)] := by
  rw [execSrd_eq hrun f ls hn, if_neg (by omega), if_neg (by simp [hheld])]

theorem execSwr_lfsr (f : FC) (ls : Lits) (hn : (iss.uniform f.b (litB ls f.a)).toNat = 0x09) (hu : OpRule.legal .uniform f.a = true) :
    execSwr f ls s = s.finish iss (1 + ls.length) [.setLfsr (iss.uniform f.a (litAt ls 0))] := by
  rw [litB] at hn
  rw [execSwr, State.withIssue_cons _ hrun]
  simp [hn, specialWritable, hu]

/-- FPCTL has two bits; the others are reserved (R144). -/
theorem execSwr_fpctl (f : FC) (ls : Lits) (hn : (iss.uniform f.b (litB ls f.a)).toNat = 0x0E) (hu : OpRule.legal .uniform f.a = true) :
    execSwr f ls s =
      if (iss.uniform f.a (litAt ls 0)).toNat < 4 then s.finish iss (1 + ls.length) [.setFpctl (iss.uniform f.a (litAt ls 0))]
      else s.faultAll iss .reservedField := by
  rw [litB] at hn
  rw [execSwr, State.withIssue_cons _ hrun]
  by_cases h : (iss.uniform f.a (litAt ls 0)).toNat < 4 <;> simp [hn, specialWritable, hu, h]

/-- FLAGS has five bits; a lane whose value sets another faults (R87). -/
theorem execSwr_flags (f : FC) (ls : Lits) (hn : (iss.uniform f.b (litB ls f.a)).toNat = 0x0A) : execSwr f ls s =
    let x := iss.operand (intLayout 5) f.a (litAt ls 0)
    let bad := Lanes.of fun l => iss.lanes.has l && decide (32 ≤ (x l).toNat)
    if bad = 0 then s.finish iss (1 + ls.length) [.setFlags iss.lanes (iss.lanesOf x)] else s.faults iss .reservedField bad := by
  rw [litB] at hn
  rw [execSwr, State.withIssue_cons _ hrun]
  simp only [hn, Issue.flagsReserved, bne_iff_ne, ne_eq, ite_not]
  rfl

theorem execSwr_draw (f : FC) (ls : Lits) (hn : (iss.uniform f.b (litB ls f.a)).toNat = 0x0B) : execSwr f ls s =
    s.finish iss (1 + ls.length) [.setDraw iss.lanes (iss.lanesOf (iss.operand (intLayout 5) f.a (litAt ls 0)))] := by
  rw [litB] at hn
  rw [execSwr, State.withIssue_cons _ hrun]
  simp [hn, specialWritable]

theorem execSwr_not_writable (f : FC) (ls : Lits) (hn : specialWritable (iss.uniform f.b (litB ls f.a)).toNat = false) :
    execSwr f ls s = s.faultAll iss .illegalOpcode := by
  rw [litB] at hn
  rw [execSwr, State.withIssue_cons _ hrun]
  simp [hn]

end

end Sys2Proof.Machine

namespace Sys2Proof

open Sys2Proof.Machine

/-- Settles O22: srd by the destination's code and the number read, swr by the register that the number names. -/
theorem specialRegisterInstructionResults : Obligations.SpecialRegisterInstructionResults := by
  unfold Obligations.SpecialRegisterInstructionResults Completes Raises
  rintro s iss f ls ⟨rest, hrun⟩ w nr nw x u uniform det
  simp only [exec_srd, exec_swr]
  refine ⟨fun hle hv => ?_, fun hle hg h0 hA hB => ?_, fun hg hheld => ?_, fun hgt => (execSrd_eq hrun f ls rfl).trans (if_pos hgt),
    s.special_values iss, execSwr_lfsr hrun f ls, fun hn hu hlt => (execSwr_fpctl hrun f ls hn hu).trans (if_pos hlt),
    fun hn hu hge => (execSwr_fpctl hrun f ls hn hu).trans (if_neg (Nat.not_lt.mpr hge)), fun hn h => ?_, fun hn h => ?_,
    execSwr_draw hrun f ls, fun h9 hA hB hE => ?_⟩
  · rw [execSrd_reads hrun f ls rfl hle (by simp [isG_of_isV hv]), Issue.toVOrG_v iss _ hv]
    rfl
  · have hheld : threadHeld nr = false := by simp [threadHeld, h0, hA, hB]
    rw [execSrd_reads hrun f ls rfl hle (by rw [hheld, Bool.and_false]), Issue.toVOrG_g iss _ hg]
    rfl
  · rw [execSrd_eq hrun f ls rfl, if_neg (by omega), if_pos (Bool.and_eq_true_iff.mpr ⟨hg, threadHeld_iff.mpr hheld⟩)]
    rfl
  · exact (execSwr_flags hrun f ls hn).trans (if_pos (Lanes.of_has_and_eq_zero.mpr fun l hl => by simpa using h l hl))
  · refine (execSwr_flags hrun f ls hn).trans (if_neg (Lanes.of_has_and_ne_zero.mpr ?_))
    simpa using h
  · exact execSwr_not_writable hrun f ls (by simp [specialWritable, nw, h9, hA, hB, hE])

end Sys2Proof
end

section
/-!
PROOF. The rest of the control instructions at issue (R82, R83, R88 to R93, R372): yield, trap and brk by the range of their operand, the
barriers by the lanes that fail R89, step by the grid, tret by the handler.
-/

namespace Sys2Proof.Machine

/-! ### Barriers (R89) -/

/-- Effects of no barrier instruction leave the checks of the barriers as they are. -/
theorem barFault_append {es : List Effect} (h : ∀ e ∈ es, e.instr?.bind barParts = none) (s : State) (gid : Nat) (fs : List Effect) :
    s.barFault gid (es ++ fs) = s.barFault gid fs := by
  induction es with
  | nil => rfl
  | cons e es ih =>
    obtain ⟨he, hes⟩ := List.forall_mem_cons.mp h
    cases e
    case act i idx lanes x y z n =>
      have hparts : barParts i = none := he
      rw [List.cons_append, State.barFault]
      simpa only [hparts] using ih hes
    all_goals exact ih hes

/-- One barrier instruction fails in the lanes that fail the checks of R89. -/
theorem barFault_singleton {i : Instr} {a w : Bool} (h : barParts i = some (a, w)) (s : State) (gid idx n c : Nat) (lanes : Lanes) :
    s.barFault gid [.act i idx lanes [] [] [] [n, c]] =
      if s.barBad gid n c lanes a = 0 then none else some (idx, s.barBad gid n c lanes a) := by
  rw [State.barFault]
  simp only [h, List.headD_cons, bne_iff_ne, ne_eq, ite_not]
  rfl

/-- The lanes in which an arrival fails: those with an unwaited arrival, and all of them when the count is not that of the phase. -/
theorem State.barBad_arrive (s : State) (gid n c : Nat) (lanes : Lanes) :
    s.barBad gid n c lanes true = Lanes.of fun l => lanes.has l && ((((s.group gid).thread l).pending.find? n).isSome ||
      decide (((s.teamOf gid).barrier n).count ≠ none ∧ ((s.teamOf gid).barrier n).count ≠ some c)) := by
  have hcount : (((s.teamOf gid).barrier n).count.isSome && ((s.teamOf gid).barrier n).count != some c) =
      decide (((s.teamOf gid).barrier n).count ≠ none ∧ ((s.teamOf gid).barrier n).count ≠ some c) := by
    cases ((s.teamOf gid).barrier n).count <;> simp [bne, beq_eq_decide]
  rw [← hcount]
  rfl

/-- The lanes in which a wait fails: those with nothing to wait for. -/
theorem State.barBad_wait (s : State) (gid n c : Nat) (lanes : Lanes) :
    s.barBad gid n c lanes false = Lanes.of fun l => lanes.has l && !(((s.group gid).thread l).pending.find? n).isSome := rfl

theorem barExec_out_of_range {n c : Nat} (h : 15 < n ∨ 32 < c) (i : Instr) (words : Nat) (s : State) (iss : Issue) :
    barExec i n c words s iss = s.faultAll iss .barOrder := if_pos (by simpa using h)

/-- A barrier instruction with no other before it in its clause. -/
theorem barExec_alone {s : State} {iss : Issue} (halone : ∀ e ∈ iss.effects, e.instr?.bind barParts = none) {i : Instr} {a w : Bool}
    (hparts : barParts i = some (a, w)) {n c : Nat} (hn : n ≤ 15) (hc : c ≤ 32) (words : Nat) : barExec i n c words s iss =
      if s.barBad iss.gid n c iss.lanes a = 0 then s.finish iss words [.act i iss.idx iss.lanes [] [] [] [n, c]]
      else s.faults iss .barOrder (s.barBad iss.gid n c iss.lanes a) := by
  rw [barExec, if_neg (by simp; omega)]
  simp only [barFault_append halone, barFault_singleton hparts]
  by_cases hbad : s.barBad iss.gid n c iss.lanes a = 0
  · simp only [if_pos hbad]
  · simp only [if_neg hbad]

/-! ### The other instructions -/

section
variable {s : State} {iss : Issue} {rest : List Issue} (hrun : s.issuing = iss :: rest)
include hrun

theorem execNop_eq (f : FC) (ls : Lits) : execNop f ls s = s.finish iss (1 + ls.length) [] := by
  rw [execNop, State.withIssue_cons _ hrun]

theorem execYield_eq (f : FC) (ls : Lits) : execYield f ls s =
    if 4095 < (iss.uniform f.a (litAt ls 0)).toNat then s.faultAll iss .reservedField
    else s.finish iss (1 + ls.length) [.act (.yield f ls) iss.idx iss.lanes [] [] [] [(iss.uniform f.a (litAt ls 0)).toNat]] := by
  rw [execYield, State.withIssue_cons _ hrun]

theorem softFault_eq (i : Instr) (f : FC) (ls : Lits) : softFault i f ls s =
    if 255 < (iss.uniform f.a (litAt ls 0)).toNat then s.faultAll iss .reservedField
    else s.finish iss (1 + ls.length) [.act i iss.idx iss.lanes [] [] [] [(iss.uniform f.a (litAt ls 0)).toNat]] := by
  rw [softFault, State.withIssue_cons _ hrun]

theorem execBarSync_eq (f : FC) (ls : Lits) : execBarSync f ls s =
    barExec (.barSync f ls) (iss.uniform f.a (litAt ls 0)).toNat (iss.uniform f.b (litB ls f.a)).toNat (1 + ls.length) s iss := by
  rw [execBarSync, State.withIssue_cons _ hrun, litB]

theorem execBarArrive_eq (f : FC) (ls : Lits) : execBarArrive f ls s =
    barExec (.barArrive f ls) (iss.uniform f.a (litAt ls 0)).toNat (iss.uniform f.b (litB ls f.a)).toNat (1 + ls.length) s iss := by
  rw [execBarArrive, State.withIssue_cons _ hrun, litB]

theorem execBarWait_eq (f : FC) (ls : Lits) :
    execBarWait f ls s = barExec (.barWait f ls) (iss.uniform f.a (litAt ls 0)).toNat 0 (1 + ls.length) s iss := by
  rw [execBarWait, State.withIssue_cons _ hrun]

theorem execStep_eq (f : FC) (ls : Lits) : execStep f ls s =
    if (s.gridOf iss.gid).stepped = true then s.finish iss (1 + ls.length) [.act (.step f ls) iss.idx iss.lanes [] [] [] []]
    else s.faultAll iss .stepMode := by
  rw [execStep, State.withIssue_cons _ hrun]
  simp only [Bool.not_eq_true', ← Bool.not_eq_true, ite_not]

theorem execStepPod_eq (f : FC) (ls : Lits) : execStepPod f ls s =
    if (s.gridOf iss.gid).stepped = false ∨ (s.gridOf iss.gid).stag = 0 ∨ s.cfgVal 0x35 = 0 then s.faultAll iss .stepMode
    else s.finish iss (1 + ls.length) [.act (.stepPod f ls) iss.idx iss.lanes [] [] [] []] := by
  rw [execStepPod, State.withIssue_cons _ hrun]
  simp only [Bool.or_eq_true, Bool.not_eq_true', beq_iff_eq, or_assoc]

theorem execTret_outside (f : FC) (ls : Lits) (h : iss.before.inHandler = false) : execTret f ls s = s.faultAll iss .tretState := by
  rw [execTret, State.withIssue_cons _ hrun, if_pos (by simp [h])]

/-- tret in the handler, to EPC or to aligned targets. -/
theorem execTret_aligned (f : FC) (ls : Lits) (h : iss.before.inHandler = true)
    (halign : f.a = 120 ∨ iss.misTargets f.a iss.lanes = 0) : execTret f ls s =
      s.finish { iss with sawTret := true } (1 + ls.length)
        [.act (.tret f ls) iss.idx iss.lanes (LaneVals.of (iss.regTarget f.a)) [] [] []] := by
  have hnone : (if f.a == 120 then 0 else iss.misTargets f.a iss.lanes) = 0 := by
    rcases halign with hepc | hzero
    · rw [hepc]
      rfl
    · rw [hzero]
      exact ite_self _
  rw [execTret, State.withIssue_cons _ hrun, if_neg (by simp [h])]
  simp only [hnone]
  rfl

end

end Sys2Proof.Machine

namespace Sys2Proof

open Sys2Proof.Machine

/-- Settles O24: each instruction by its one check; a barrier instruction with none before it in its clause fails in the lanes that R89
names. -/
theorem trapBarrierStepAndYieldHoldBackTheirEffect : Obligations.TrapBarrierStepAndYieldHoldBackTheirEffect := by
  unfold Obligations.TrapBarrierStepAndYieldHoldBackTheirEffect Completes Raises
  rintro s iss f ls ⟨rest, hrun⟩ w u c held b arrived wrong alone reg g
  have hyield := execYield_eq hrun f ls
  have htrap := softFault_eq hrun (.trap f ls) f ls
  have hbrk := softFault_eq hrun (.brk f ls) f ls
  have hsync := execBarSync_eq hrun f ls
  have harrive := execBarArrive_eq hrun f ls
  have hwait := execBarWait_eq hrun f ls
  have hlanes : s.barBad iss.gid u c iss.lanes true = Lanes.of fun l => iss.lanes.has l && (arrived l || wrong) :=
    s.barBad_arrive iss.gid u c iss.lanes
  have hwaits : s.barBad iss.gid u 0 iss.lanes false = Lanes.of fun l => iss.lanes.has l && !arrived l :=
    s.barBad_wait iss.gid u 0 iss.lanes
  have hout {n k : Nat} (h : 15 < n ∨ 32 < k) (i : Instr) : barExec i n k w s iss = .next (s.raise iss .barOrder iss.lanes) :=
    barExec_out_of_range h i w s iss
  simp only [exec_nop, exec_yield, exec_trap, exec_brk, exec_barSync, exec_barArrive, exec_barWait, exec_step, exec_stepPod, exec_tret, held]
  refine ⟨execNop_eq hrun f ls, fun h => hyield.trans (if_neg (Nat.not_lt.mpr h)), fun h => hyield.trans (if_pos h),
    fun h => ⟨htrap.trans (if_neg (Nat.not_lt.mpr h)), hbrk.trans (if_neg (Nat.not_lt.mpr h))⟩,
    fun h => ⟨htrap.trans (if_pos h), hbrk.trans (if_pos h)⟩, fun ha hu hc h => ?_, fun ha hu hc h => ?_, fun ha hu h => ?_,
    fun ha hu h => ?_, fun h => ?_, fun h => ?_, fun h => (execStep_eq hrun f ls).trans (if_pos h),
    fun h => (execStep_eq hrun f ls).trans (if_neg (Bool.eq_false_iff.mp h)), fun hstep htag hdomain => ?_,
    fun h => (execStepPod_eq hrun f ls).trans (if_pos h), execTret_outside hrun f ls, fun h halign => ?_⟩
  · have hgood : s.barBad iss.gid u c iss.lanes true = 0 := hlanes.trans <| Lanes.of_has_and_eq_zero.mpr fun l hl => by
      obtain ⟨hnone, hcount⟩ := h l hl
      rw [hnone, hcount]
      rfl
    exact ⟨hsync.trans ((barExec_alone ha rfl hu hc w).trans (if_pos hgood)),
      harrive.trans ((barExec_alone ha rfl hu hc w).trans (if_pos hgood))⟩
  · have hbad : (Lanes.of fun l => iss.lanes.has l && (arrived l || wrong)) ≠ 0 :=
      Lanes.of_has_and_ne_zero.mpr (h.imp fun l hl => ⟨hl.1, Bool.or_eq_true_iff.mpr hl.2⟩)
    have hfaults {i : Instr} {v : Bool} (hi : barParts i = some (true, v)) :
        barExec i u c w s iss = .next (s.raise iss .barOrder (Lanes.of fun l => iss.lanes.has l && (arrived l || wrong))) := by
      rw [barExec_alone ha hi hu hc w, hlanes, if_neg hbad]
      rfl
    exact ⟨hsync.trans (hfaults rfl), harrive.trans (hfaults rfl)⟩
  · refine hwait.trans ((barExec_alone ha rfl hu (Nat.zero_le _) w).trans (if_pos (hwaits.trans ?_)))
    exact Lanes.of_has_and_eq_zero.mpr fun l hl => by rw [h l hl]; rfl
  · have hbad : (Lanes.of fun l => iss.lanes.has l && !arrived l) ≠ 0 :=
      Lanes.of_has_and_ne_zero.mpr (h.imp fun l hl => ⟨hl.1, by rw [hl.2]; rfl⟩)
    rw [hwait, barExec_alone ha rfl hu (Nat.zero_le _) w, hwaits, if_neg hbad]
    rfl
  · exact ⟨hsync.trans (hout (.inl h) _), harrive.trans (hout (.inl h) _), hwait.trans (hout (.inl h) _)⟩
  · exact ⟨hsync.trans (hout (.inr h) _), harrive.trans (hout (.inr h) _)⟩
  · refine (execStepPod_eq hrun f ls).trans (if_neg ?_)
    rintro (hfalse | hzero | hzero)
    exacts [Bool.false_ne_true (hfalse.symm.trans hstep), htag hzero, hdomain hzero]
  · exact execTret_aligned hrun f ls h (halign.imp_right Issue.misTargets_eq_zero.mpr)

end Sys2Proof
end

section
/-!
PROOF. Rounds of the combine tree and supersteps (R91, R92, R337 to R340, R403): a contribution to a round that another still misses, a
failure handed down, the end of a step, and a notice that no grid waits for.
-/

namespace Sys2Proof.Machine

/-! ### Rounds (R337, R338) -/

/-- Without a snapshot nothing is preserved before a write (R350). -/
theorem State.cow_of_no_snaps {s : State} (h : s.snaps = []) (ty owner index : Nat) (body : State → List Byte) :
    s.cow ty owner index body = s := by
  simp [State.cow, State.liveSnaps, h]

theorem State.modCombine_of_no_snaps {s : State} (h : s.snaps = []) (ctx : Nat) (f : Combine → Combine) :
    s.modCombine ctx f = { s with combines := s.combines.modify ctx f } := by
  rw [State.modCombine, State.cow_of_no_snaps h]

/-- A round misses a contribution while a local member has made none. -/
theorem Combine.complete_of_missing {c : Combine} {r : Round} {i : Nat} (hi : i < c.nlocal) (h : r.locals.find? i = none) :
    c.complete r = false := by
  have hlocals : ((List.range c.nlocal).all fun i => (r.locals.find? i).any fun x => x.reading.isNone) = false :=
    List.all_eq_false.mpr ⟨i, List.mem_range.mpr hi, by simp [h]⟩
  rw [Combine.complete, hlocals, Bool.false_and]

/-- A round without a result or a failure that misses a contribution stays open (R337). -/
theorem State.foldCheck_of_missing {s : State} {ctx n : Nat} {c : Combine} {r : Round} (hc : s.combines.find? ctx = some c)
    (hr : c.rounds.find? n = some r) (hresult : r.result = none) (hup : r.up = false) (hfail : r.fail = none)
    (hmiss : c.complete r = false) : s.foldCheck ctx n = s := by
  simp [State.foldCheck, hc, hr, hresult, hup, hfail, hmiss]

/-- A round with a child's data entered. -/
def Round.enter (r : Round) (i : Nat) (data : List Byte) : Round := { r with childs := r.childs.insert i data }

/-- A child's contribution with the agreed fields is entered, and the round looked at (R337). -/
theorem execCombineContributionReceive_enters {s : State} {ctx chip n : Nat} {c : Combine} (hc : s.combines.find? ctx = some c)
    (hopen : c.ended.find? n = none) (hchild : chip ∈ c.childs) (data : List Byte) :
    execCombineContributionReceive ctx chip n { op := c.op, ty := c.ty, count := c.count, d := c.d, dtag := c.dtag } none data s =
      .next ((s.modRound ctx n fun r => r.enter (c.childs.idxOf chip) data).foldCheck ctx n) := by
  simp [execCombineContributionReceive, hc, hopen, hchild, Round.enter]

/-- A failure from above ends a round that has written nothing (R338). -/
theorem State.failRound_of_leaf {s : State} {ctx n : Nat} {c : Combine} (hc : s.combines.find? ctx = some c)
    (hopen : c.ended.find? n = none) (hpages : (c.rounds.find? n).bind Round.pages = none) (hleaf : c.childs = []) (code : FaultCode) :
    s.failRound ctx n code = s.closeRound ctx n (some code) := by
  simp [State.failRound, hc, hopen, hpages, hleaf]

/-- What the contexts, the snapshots and the groups are to the end of a post's reading. -/
theorem State.readOver_frame (s : State) (x : Contribution) :
    ((s.readOver x).combines, (s.readOver x).snaps, (s.readOver x).groups) = (s.combines, s.snaps, s.groups) := by
  unfold State.readOver
  split
  · rw [State.completeEvent, State.engDone_eq]
    rfl
  · rfl

/-- A round that ends is no more open, and its end is kept; with no group there is no waiter to wake. -/
theorem State.closeRound_combines {s : State} (hsnaps : s.snaps = []) (hgroups : s.groups = []) (ctx n : Nat) (fail : Option FaultCode) :
    (s.closeRound ctx n fail).combines =
      s.combines.modify ctx fun c => { c with rounds := c.rounds.erase n, ended := c.ended.insert n fail } := by
  unfold State.closeRound
  extract_lets xs u
  obtain ⟨hc, hs, hg⟩ : u.combines = s.combines ∧ u.snaps = s.snaps ∧ u.groups = s.groups := by
    simpa using foldl_leaves (fun s : State => (s.combines, s.snaps, s.groups)) State.readOver_frame xs s
  rw [State.modCombine_of_no_snaps (hs.trans hsnaps), State.wakeRound, hc]
  simp only [hg, hgroups, List.foldl_nil]

/-! ### The end of a step (R91) -/

/-- A wait ends in every thread of a group. -/
def Group.endWaits (w : Wait) (g : Group) : Group := { g with threads := g.threads.map fun t => t.endWait (· == w) }

/-- A wait ends in every thread of some groups. -/
def State.endWaits (s : State) (gs : List Nat) (w : Wait) : State := gs.foldl (fun s id => s.modGroup id (Group.endWaits w)) s

theorem Thread.endWait_status_of_ready {t : Thread} (h : t.status = .ready) (p : Wait → Bool) : (t.endWait p).status = .ready := by
  simp [Thread.endWait, h]

theorem Thread.endWait_status_of_one {t : Thread} {w : Wait} (h : t.status = .blocked [w]) : (t.endWait (· == w)).status = .ready := by
  simp [Thread.endWait, h]

theorem Group.thread_endWaits (w : Wait) (g : Group) {l : Nat} (h : l < g.threads.length) :
    (g.endWaits w).thread l = (g.thread l).endWait (· == w) := by
  simp [Group.thread, Group.endWaits, List.getD, h]

/-- A thread whose one wait is among those that end is ready; one that is ready stays so, in whatever order the groups come. -/
theorem State.endWaits_status {w : Wait} {k l : Nat} (gs : List Nat) : ∀ s : State, (s.groups.find? k).isSome = true →
    l < (s.group k).threads.length →
    (((s.group k).thread l).status = .ready → (((s.endWaits gs w).group k).thread l).status = .ready) ∧
      (k ∈ gs → ((s.group k).thread l).status = .blocked [w] → (((s.endWaits gs w).group k).thread l).status = .ready) := by
  induction gs with
  | nil => exact fun s _ _ => ⟨id, fun h => absurd h List.not_mem_nil⟩
  | cons g gs ih =>
    intro s hk hl
    by_cases hg : k = g
    · subst hg
      have hgroup : (s.modGroup k (Group.endWaits w)).group k = (s.group k).endWaits w := State.group_modGroup_same _ hk
      obtain ⟨hready, -⟩ := ih (s.modGroup k (Group.endWaits w)) (by simpa using hk) (by simpa [hgroup, Group.endWaits] using hl)
      rw [hgroup, Group.thread_endWaits w _ hl] at hready
      exact ⟨fun h => hready (Thread.endWait_status_of_ready h _), fun _ h => hready (Thread.endWait_status_of_one h)⟩
    · have hgroup : (s.modGroup g (Group.endWaits w)).group k = s.group k := State.group_modGroup_other _ hg
      obtain ⟨hready, hblocked⟩ := ih (s.modGroup g (Group.endWaits w)) (by simpa [SMap.find?_modify_other _ _ hg] using hk)
        (by rwa [hgroup])
      rw [hgroup] at hready hblocked
      exact ⟨hready, fun hmem h => hblocked ((List.mem_cons.mp hmem).resolve_left hg) h⟩

/-- The end of a step with no loss to report: the waits end, and the step is counted. -/
theorem State.endStep_frame {s : State} {gr : Nat} (hlost : (s.grid gr).stepLost = []) (scope : Nat) :
    (s.endStep gr .step scope).groups = (s.endWaits (s.groupsOf gr) .step).groups ∧
      (s.endStep gr .step scope).grids = s.grids.modify gr fun g => { g with steps := g.steps + 1, stepLost := [] } := by
  unfold State.endStep
  extract_lets g gs ended acquired reported
  have hreported : reported = acquired := by
    simp only [reported, g, hlost, List.eraseDups_nil, List.foldl_nil]
    exact foldl_leaves id (fun _ _ => rfl) gs acquired
  have hacquired : acquired.groups = ended.groups ∧ acquired.grids = ended.grids :=
    ⟨foldl_leaves State.groups (fun u t => by rw [State.acquireAll_eq]) _ ended,
      foldl_leaves State.grids (fun u t => by rw [State.acquireAll_eq]) _ ended⟩
  have hended : ended.grids = s.grids := foldl_leaves State.grids (f := fun s id => s.modGroup id (Group.endWaits .step)) (fun _ _ => rfl) gs s
  rw [hreported]
  exact ⟨hacquired.1, congrArg (SMap.modify · gr _) (hacquired.2.trans hended)⟩

theorem State.formAll_status (s : State) (k l : Nat) : ((s.formAll.group k).thread l).status = ((s.group k).thread l).status := by
  rw [(s.formAll_reforms.group k).thread l]

theorem State.formAll_grids (s : State) : s.formAll.grids = s.grids := by
  rw [s.formAll_reforms.state]

/-! ### Notices (R403) -/

/-- With no running grid of a step tag there is no step to complete. -/
theorem State.podCheckAll_of_none {s : State} (h : ∀ p ∈ s.grids, p.2.stag = 0 ∨ p.2.state ≠ .running) : s.podCheckAll = s := by
  have hnone : (s.grids.filter fun p => p.2.stag != 0 && p.2.state == .running) = [] := by
    refine List.filter_eq_nil_iff.mpr fun p hp => ?_
    rcases h p hp with hzero | hstate
    · simp [hzero]
    · simp [hstate]
  rw [State.podCheckAll, hnone]
  rfl

end Sys2Proof.Machine

namespace Sys2Proof

open Sys2Proof.Machine

/-- Settles O43: a contribution by the round that it leaves open, a failed result by the round's end, a step by the waits that end and its
count, and a notice by its keeping. -/
theorem roundAndStepEventResults : Obligations.RoundAndStepEventResults := by
  unfold Obligations.RoundAndStepEventResults Answers
  intro s ctx chip round gr c agreed fail data
  simp only [exec_combineContributionReceive, exec_combineResultReceive, exec_stepComplete, exec_stepNoticeReceive]
  refine ⟨fun hc => ⟨?_, ?_⟩, fun hc hended => ⟨?_, ?_⟩, fun hc hopen hchild hsnaps hfail hagreed hmiss hresult hnofail hup => ?_,
    fun code hc hopen hpages hfail hleaf hsnaps hgroups => ?_, fun hwait => ?_, fun harrived hperformed hgrid hlost => ?_,
    fun n seqs hgrids => ?_⟩
  · simp only [execCombineContributionReceive, hc]
  · simp only [execCombineResultReceive, hc]
  · simp only [execCombineContributionReceive, hc, hended, if_true]
  · simp only [execCombineResultReceive, hc, hended, if_true]
  · subst hfail hagreed
    obtain ⟨i, hi, hnone⟩ := hmiss
    let r := (c.rounds.get round {}).enter (c.childs.idxOf chip) data
    let d := { c with rounds := c.rounds.insert round r }
    have hd : (s.modRound ctx round fun r => r.enter (c.childs.idxOf chip) data).combines.find? ctx = some d := by
      rw [State.modRound, State.modCombine_of_no_snaps hsnaps, SMap.find?_modify_same, hc]
      rfl
    have hr : d.rounds.find? round = some r := SMap.find?_insert_same ..
    refine ⟨_, execCombineContributionReceive_enters hc hopen hchild data, ?_⟩
    rw [State.foldCheck_of_missing hd hr hresult hup hnofail (Combine.complete_of_missing hi hnone)]
    refine ⟨d, r, hd, hr, SMap.find?_insert_same .., rfl, hresult, ?_⟩
    rw [State.modRound, State.modCombine_of_no_snaps hsnaps]
  · subst hfail
    refine ⟨s.closeRound ctx round (some code), ?_, ?_⟩
    · simp only [execCombineResultReceive, hc, hopen, Option.isSome_none, Bool.false_eq_true, if_false,
        State.failRound_of_leaf hc hopen hpages hleaf]
    · rw [State.closeRound_combines hsnaps hgroups, SMap.find?_modify_same, hc]
      exact ⟨_, rfl, SMap.find?_erase_same .., SMap.find?_insert_same ..⟩
  · rw [execStepComplete, hwait]
    rfl
  · obtain ⟨hgroups, hgrids⟩ := State.endStep_frame hlost 2
    refine ⟨(s.endStep gr .step 2).formAll, by rw [execStepComplete, harrived, hperformed]; rfl, ?_, fun g l hg hsome hl hblocked => ?_⟩
    · obtain ⟨x, hx⟩ := Option.isSome_iff_exists.mp hgrid
      simp [State.grid, SMap.get, State.formAll_grids, hgrids, hx]
    · rw [State.formAll_status, State.group, hgroups]
      exact (State.endWaits_status (s.groupsOf gr) s hsome hl).2 hg hblocked
  · exact congrArg (fun u : State => Host.Outcome.next u.formAll)
      (State.podCheckAll_of_none (s := { s with stepNotices := s.stepNotices ++ [{ chip := chip, stag := gr, n := n, seqs := seqs }] }) hgrids)

end Sys2Proof
end

section
/-!
PROOF. The commit of an exit can write memory. The exit of the last thread that runs a handler lets the group leave it, and the waits of the
other handler threads, which a trap had suspended, are parked again (R264, R372). A wait whose page has been in transition is first translated
anew (R212), and the walk sets the accessed bit of its leaf in the page table (R173).
-/

namespace Sys2Proof.Machine

/-- A group in its handler: lane 0 still runs it, lane 1 has executed tret and has a suspended wait to return to, the other threads are held. -/
def leavingGroup : Group :=
  { team := 0, inHandler := true, handlerLanes := 3
    threads := {} :: { status := .returned, suspended := [.await 7] } :: List.replicate 30 { status := .held [] } }

/-- The fields of exit. -/
def exitFields : FC := { ge := 0, gn := 0, gk := 0, sub := 3, a := 0, b := 0 }

/-- The clause of lane 0 whose one effect is an exit. -/
def exitClause : Issue :=
  { gid := 0, pc := 0, lanes := 1, header := 0, words := [], before := leavingGroup
    effects := [.act (.exit exitFields []) 0 1 [] [] [] []] }

/-- Lane 1's wait for the word at 0x10000 to be 5, its page in transition since its last test. -/
def suspendedWait : Access :=
  { id := 7, gid := 0, lane := 1, core := 0, pc := 0, idx := 0, va := 0x10000, pa := 0x10000, size := 4, op := .await 0 4 5, stale := true }

/-- The clause about to commit. Table 0 at address 0 names the table at 0x2000, whose first entry is a readable, resident leaf of class SC with
the accessed bit 0. -/
def leavingState : State :=
  { State.reset.withClause 0 [] with
    issuing := [exitClause], groups := [(0, leavingGroup)], accesses := [suspendedWait]
    mem := [(0, 1), (2, 2), (0x2000, 7), (0x2001, 4)] }

/-- The memory of the next state. -/
def memoryAfter : Result → Option (List Host.Cell)
  | .next t => some t.mem
  | _ => none

/-- The commit sets bit 11 of the leaf, the accessed bit. -/
theorem memoryAfter_exit : memoryAfter (exec .clauseCommit leavingState) = some [(0, 1), (2, 2), (0x2000, 7), (0x2001, 12)] := by
  decide +kernel

end Sys2Proof.Machine

namespace Sys2Proof

open Sys2Proof.Machine

/-- Refutes O46: the statement has the commit of exit leave memory as it is, also in a handler. The exit of a handler's last thread has a
wait of the group tested afresh, and the walk for it sets an accessed bit. -/
theorem not_committedControlInstructionResults : ¬ Obligations.CommittedControlInstructionResults := by
  unfold Obligations.CommittedControlInstructionResults
  intro h
  obtain ⟨-, -, hexit, -⟩ := h leavingState exitClause [] leavingGroup [] 0 exitFields
    { ge := 0, gn := 0, gk := 0, off := 0 } [] 0 rfl rfl rfl rfl rfl
  obtain ⟨t, ht, -, hmem, -⟩ := hexit rfl rfl
  have hkept : memoryAfter (exec .clauseCommit leavingState) = some leavingState.mem := by
    rw [ht]
    exact congrArg some hmem
  exact absurd (memoryAfter_exit.symm.trans hkept) (by decide)

end Sys2Proof
end

section
/-!
PROOF. How an instruction of format A or X that writes a register, or a predicate register, completes: its meaning ends by writing one
value for each lane, and that value is a register joined from sub-elements (R29, R94).
-/

namespace Sys2Proof.Machine

/-! ### The values of the lanes -/

/-- In every lane of the bundle, sub-element k of the value is `r lane k` modulo 2^w, and the bits above the last sub-element are zero. -/
def Issue.Holds (iss : Issue) (L : Layout) (x : LaneVals) (r : Nat → Nat → Int) : Prop :=
  ∀ l, iss.lanes.has l = true →
    (∀ k, k < L.n → ((L.sub (x.at l) k : Nat) : Int) = r l k % 2 ^ L.w) ∧ (x.at l).toNat < 2 ^ (L.w * L.n)

section
variable {iss : Issue} {L : Layout} {r : Nat → Nat → Int}

/-- Lane values joined from sub-elements hold what these are modulo 2^w. -/
theorem Issue.holds_join {g : Nat → Nat → Nat} (hL : L.w * L.n ≤ 64)
    (h : ∀ l k, iss.lanes.has l = true → k < L.n → (g l k : Int) ≡ r l k [ZMOD 2 ^ L.w]) :
    iss.Holds L (iss.lanesOf fun l => L.join (g l)) r := by
  intro l hl
  rw [iss.at_lanesOf _ hl]
  refine ⟨fun k hk => ?_, L.join_lt _ hL⟩
  rw [L.sub_join _ hL hk]
  push_cast
  exact h l k hl hk

/-- The one sub-element of a 64-bit layout is the register. -/
theorem sub_whole (x : Word) : (intLayout 5).sub x 0 = x.toNat := by
  simpa [Layout.sub, intLayout] using x.isLt

/-- Lane values of 64 bits hold what they are modulo 2^64. -/
theorem Issue.holds_whole {g : Nat → Word} (h : ∀ l, iss.lanes.has l = true → ((g l).toNat : Int) ≡ r l 0 [ZMOD 2 ^ 64]) :
    iss.Holds (intLayout 5) (iss.lanesOf g) r := by
  intro l hl
  rw [iss.at_lanesOf _ hl]
  refine ⟨fun k hk => ?_, (g l).isLt⟩
  obtain rfl : k = 0 := Nat.lt_one_iff.mp hk
  rw [sub_whole]
  exact (Int.emod_eq_of_lt (Int.natCast_nonneg _) (by exact_mod_cast (g l).isLt)).symm.trans (h l hl)

end

/-! ### Formats A and X -/

section
variable {i : Instr} {s : State} {iss : Issue} {ls : Lits} {L : Layout} {r : Nat → Nat → Int} {more : List Effect}

/-- A meaning that ends by writing a format A value completes with what that value holds. -/
theorem writesA_of_holds {f : FA} {x : LaneVals} (h : exec i s = s.writeA iss f ls x more) (hx : iss.Holds L x r) :
    WritesA i s iss f ls L r more := ⟨x, h, hx⟩

/-- The same for format X. -/
theorem writesX_of_holds {f : FX} {x : LaneVals} (h : exec i s = s.writeX iss f ls x more) (hx : iss.Holds L x r) :
    WritesX i s iss f ls L r more := ⟨x, h, hx⟩

/-- What an instruction is said to write counts only in the lanes of its bundle and below n. -/
theorem WritesX.congr {f : FX} {r' : Nat → Nat → Int} (h : WritesX i s iss f ls L r more)
    (hr : ∀ l k, iss.lanes.has l = true → k < L.n → r l k = r' l k) : WritesX i s iss f ls L r' more := by
  obtain ⟨x, hx, hvals⟩ := h
  exact ⟨x, hx, fun l hl => ⟨fun k hk => hr l k hl hk ▸ (hvals l hl).1 k hk, (hvals l hl).2⟩⟩

variable {rest : List Issue} (hrun : s.issuing = iss :: rest)
include hrun

/-- An integer instruction of one operand writes in each sub-element what its operation gives modulo 2^w. -/
theorem writesA_aluInt1 {f : FA} {exe : FA → Lits → State → Result} {op : Nat → Nat → Nat} (hexec : exec i s = exe f ls s)
    (hexe : exe f ls s = aluInt1 op f ls s)
    (hop : ∀ l k, (op (intLayout f.t.toNat).w (iss.subA f ls (intLayout f.t.toNat) l k) : Int) ≡ r l k [ZMOD 2 ^ (intLayout f.t.toNat).w]) :
    WritesA i s iss f ls (intLayout f.t.toNat) r :=
  writesA_of_holds ((hexec.trans hexe).trans (State.withIssue_cons _ hrun)) (Issue.holds_join (intLayout_fits _) fun l k _ _ => hop l k)

/-- An integer instruction of two operands. -/
theorem writesA_aluInt2 {f : FA} {exe : FA → Lits → State → Result} {op : Nat → Nat → Nat → Nat} (hexec : exec i s = exe f ls s)
    (hexe : exe f ls s = aluInt2 op f ls s)
    (hop : ∀ l k, (op (intLayout f.t.toNat).w (iss.subA f ls (intLayout f.t.toNat) l k) (iss.subB f ls (intLayout f.t.toNat) l k) : Int) ≡
      r l k [ZMOD 2 ^ (intLayout f.t.toNat).w]) :
    WritesA i s iss f ls (intLayout f.t.toNat) r :=
  writesA_of_holds ((hexec.trans hexe).trans (State.withIssue_cons _ hrun)) (Issue.holds_join (intLayout_fits _) fun l k _ _ => hop l k)

/-- An integer instruction of two operands that also reads its destination. -/
theorem writesA_aluInt3 {f : FA} {exe : FA → Lits → State → Result} {op : Nat → Nat → Nat → Nat → Nat} (hexec : exec i s = exe f ls s)
    (hexe : exe f ls s = aluInt3 op f ls s)
    (hop : ∀ l k, (op (intLayout f.t.toNat).w (iss.subA f ls (intLayout f.t.toNat) l k) (iss.subB f ls (intLayout f.t.toNat) l k)
      (iss.subD f (intLayout f.t.toNat) l k) : Int) ≡ r l k [ZMOD 2 ^ (intLayout f.t.toNat).w]) :
    WritesA i s iss f ls (intLayout f.t.toNat) r :=
  writesA_of_holds ((hexec.trans hexe).trans (State.withIssue_cons _ hrun)) (Issue.holds_join (intLayout_fits _) fun l k _ _ => hop l k)

end

theorem Issue.subA_lt (iss : Issue) (f : FA) (ls : Lits) (L : Layout) (l k : Nat) : iss.subA f ls L l k < 2 ^ L.w := L.sub_lt _ _
theorem Issue.subB_lt (iss : Issue) (f : FA) (ls : Lits) (L : Layout) (l k : Nat) : iss.subB f ls L l k < 2 ^ L.w := L.sub_lt _ _
theorem Issue.subD_lt (iss : Issue) (f : FA) (L : Layout) (l k : Nat) : iss.subD f L l k < 2 ^ L.w := L.sub_lt _ _

end Sys2Proof.Machine
end

section
/-!
PROOF. The arithmetic, logic and shift instructions (R96, R97): each operation of the model agrees modulo 2^w with its row of Tables 5·2
and 5·3.
-/

namespace Sys2Proof.Machine

/-! ### Numbers of w bits -/

/-- A number and its two's-complement reading agree modulo 2^w. -/
theorem signedOf_modEq (w x : Nat) : signedOf w x ≡ x [ZMOD 2 ^ w] := by
  unfold signedOf
  split <;> simp [Int.ModEq]

theorem wrapTo_cast (w : Nat) (v : Int) : (wrapTo w v : Int) = v % 2 ^ w :=
  Int.toNat_of_nonneg (Int.emod_nonneg _ (by positivity))

theorem wrapTo_modEq (w : Nat) (v : Int) : (wrapTo w v : Int) ≡ v [ZMOD 2 ^ w] := by
  rw [wrapTo_cast]
  exact Int.mod_modEq _ _

/-- A number taken modulo 2^w agrees with the integer it is a cast of. -/
theorem natMod_modEq {w a : Nat} {v : Int} (h : (a : Int) = v) : ((a % 2 ^ w : Nat) : Int) ≡ v [ZMOD 2 ^ w] := by
  subst h
  push_cast
  exact Int.mod_modEq _ _

/-- Limiting to a range that is not empty is a minimum and a maximum. -/
theorem clampInt_eq {v lo hi : Int} (h : lo ≤ hi) : clampInt v lo hi = max lo (min hi v) := by
  unfold clampInt
  split
  · rw [max_eq_left (by omega)]
  · split <;> omega

theorem sMin_le_sMax (w : Nat) : sMin w ≤ sMax w := by
  have : (0 : Int) < 2 ^ (w - 1) := by positivity
  unfold sMin sMax
  omega

theorem zero_le_uMax (w : Nat) : 0 ≤ uMax w := by
  have : (0 : Int) < 2 ^ w := by positivity
  unfold uMax
  omega

/-- A value limited to the signed range. -/
theorem wrapTo_clamp_signed (w : Nat) (v : Int) :
    (wrapTo w (clampInt v (sMin w) (sMax w)) : Int) ≡ max (-2 ^ (w - 1)) (min (2 ^ (w - 1) - 1) v) [ZMOD 2 ^ w] := by
  rw [clampInt_eq (sMin_le_sMax w)]
  exact wrapTo_modEq w _

/-- A value limited to the unsigned range. -/
theorem wrapTo_clamp_unsigned (w : Nat) (v : Int) :
    (wrapTo w (clampInt v 0 (uMax w)) : Int) ≡ max 0 (min (2 ^ w - 1) v) [ZMOD 2 ^ w] := by
  rw [clampInt_eq (zero_le_uMax w)]
  exact wrapTo_modEq w _

/-! ### Arithmetic (R96) -/

theorem abs_modEq (w x : Nat) :
    ((if 0 ≤ signedOf w x then x else wrapTo w (-(signedOf w x)) : Nat) : Int) ≡ |signedOf w x| [ZMOD 2 ^ w] := by
  split
  case isTrue h =>
    rw [abs_of_nonneg h]
    exact (signedOf_modEq w x).symm
  case isFalse h =>
    rw [abs_of_neg (not_le.mp h)]
    exact wrapTo_modEq w _

theorem minSigned_modEq (w x y : Nat) :
    ((if signedOf w x ≤ signedOf w y then x else y : Nat) : Int) ≡ min (signedOf w x) (signedOf w y) [ZMOD 2 ^ w] := by
  split
  case isTrue h => exact (min_eq_left h).symm ▸ (signedOf_modEq w x).symm
  case isFalse h => exact (min_eq_right (not_le.mp h).le).symm ▸ (signedOf_modEq w y).symm

theorem maxSigned_modEq (w x y : Nat) :
    ((if signedOf w x ≤ signedOf w y then y else x : Nat) : Int) ≡ max (signedOf w x) (signedOf w y) [ZMOD 2 ^ w] := by
  split
  case isTrue h => exact (max_eq_right h).symm ▸ (signedOf_modEq w y).symm
  case isFalse h => exact (max_eq_left (not_le.mp h).le).symm ▸ (signedOf_modEq w x).symm

/-! ### Logic and shifts (R97) -/

/-- The bits of x outside y are those that y lacks of both. -/
theorem and_complement (w : Nat) {x y : Nat} (hx : x < 2 ^ w) (hy : y < 2 ^ w) : x &&& (2 ^ w - 1 - y) = (x ||| y) - y := by
  have hdisjoint : (BitVec.ofNat w x &&& ~~~BitVec.ofNat w y) &&& BitVec.ofNat w y = 0#w := by
    ext i hi
    simp
  have hor : (BitVec.ofNat w x &&& ~~~BitVec.ofNat w y) ||| BitVec.ofNat w y = BitVec.ofNat w x ||| BitVec.ofNat w y := by
    ext i hi
    simp [Bool.or_and_distrib_right]
  have hsum := BitVec.toNat_add_of_and_eq_zero hdisjoint
  rw [BitVec.add_eq_or_of_and_eq_zero _ _ hdisjoint, hor] at hsum
  simp only [BitVec.toNat_or, BitVec.toNat_and, BitVec.toNat_not, BitVec.toNat_ofNat, Nat.mod_eq_of_lt hx, Nat.mod_eq_of_lt hy] at hsum
  omega

/-- A rotation by less than the width: what leaves at the top enters at the bottom. -/
theorem rotl_of_lt {w k : Nat} (x : Nat) (hk : k < w) : rotl w x k = x * 2 ^ k % 2 ^ w + x * 2 ^ k / 2 ^ w := by
  have hw : 2 ^ w = 2 ^ (w - k) * 2 ^ k := by rw [← pow_add, Nat.sub_add_cancel hk.le]
  rw [rotl, Nat.mod_eq_of_lt hk]
  congr 1
  rw [hw, Nat.mul_div_mul_right _ _ (by positivity)]

end Sys2Proof.Machine

namespace Sys2Proof

open Sys2Proof.Machine

/-- Settles O1: each operation agrees modulo 2^w with its row of Table 5·2. -/
theorem integerArithmeticResults : Obligations.IntegerArithmeticResults := by
  unfold Obligations.IntegerArithmeticResults
  intro s iss f ls ⟨rest, hrun⟩ L x y d sx sy lo hi top
  refine ⟨?add, ?sub, ?addSatSigned, ?addSatUnsigned, ?subSatSigned, ?subSatUnsigned, ?mul, ?mulhiSigned, ?mulhiUnsigned, ?mad, ?abs,
    ?minSigned, ?minUnsigned, ?maxSigned, ?maxUnsigned⟩
  case add => exact writesA_aluInt2 (exe := execAdd) hrun rfl rfl fun l k => natMod_modEq (Nat.cast_add _ _)
  case sub => exact writesA_aluInt2 (exe := execSub) hrun rfl rfl fun l k => wrapTo_modEq _ _
  case addSatSigned => exact writesA_aluInt2 (exe := execAddSatSigned) hrun rfl rfl fun l k => wrapTo_clamp_signed _ _
  case addSatUnsigned => exact writesA_aluInt2 (exe := execAddSatUnsigned) hrun rfl rfl fun l k => wrapTo_clamp_unsigned _ _
  case subSatSigned => exact writesA_aluInt2 (exe := execSubSatSigned) hrun rfl rfl fun l k => wrapTo_clamp_signed _ _
  case subSatUnsigned => exact writesA_aluInt2 (exe := execSubSatUnsigned) hrun rfl rfl fun l k => wrapTo_clamp_unsigned _ _
  case mul => exact writesA_aluInt2 (exe := execMul) hrun rfl rfl fun l k => natMod_modEq (Nat.cast_mul _ _)
  case mulhiSigned => exact writesA_aluInt2 (exe := execMulhiSigned) hrun rfl rfl fun l k => wrapTo_modEq _ _
  case mulhiUnsigned => exact writesA_aluInt2 (exe := execMulhiUnsigned) hrun rfl rfl fun l k => congrArg (· % _) (by push_cast; rfl)
  case mad => exact writesA_aluInt3 (exe := execMad) hrun rfl rfl fun l k => natMod_modEq (by push_cast; rfl)
  case abs => exact writesA_aluInt1 (exe := execAbs) hrun rfl rfl fun l k => abs_modEq _ _
  case minSigned => exact writesA_aluInt2 (exe := execMinSigned) hrun rfl rfl fun l k => minSigned_modEq _ _ _
  case minUnsigned => exact writesA_aluInt2 (exe := execMinUnsigned) hrun rfl rfl fun l k => congrArg (· % _) (Nat.cast_min _ _)
  case maxSigned => exact writesA_aluInt2 (exe := execMaxSigned) hrun rfl rfl fun l k => maxSigned_modEq _ _ _
  case maxUnsigned => exact writesA_aluInt2 (exe := execMaxUnsigned) hrun rfl rfl fun l k => congrArg (· % _) (Nat.cast_max _ _)

/-- Settles O2: each operation agrees modulo 2^w with its row of Table 5·3. -/
theorem bitwiseAndShiftResults : Obligations.BitwiseAndShiftResults := by
  unfold Obligations.BitwiseAndShiftResults
  intro s iss f ls ⟨rest, hrun⟩ L x y
  have hw : 0 < L.w := intLayout_pos _
  refine ⟨?and, ?or, ?xor, ?andn, ?shl, ?shr, ?sar, ?rol⟩
  case and => exact writesA_aluInt2 (exe := execAnd) hrun rfl rfl fun l k => rfl
  case or => exact writesA_aluInt2 (exe := execOr) hrun rfl rfl fun l k => rfl
  case xor => exact writesA_aluInt2 (exe := execXor) hrun rfl rfl fun l k => rfl
  case andn =>
    exact writesA_aluInt2 (exe := execAndn) hrun rfl rfl fun l k =>
      congrArg (· % _) (congrArg _ (and_complement _ (iss.subA_lt f ls L l k) (iss.subB_lt f ls L l k)))
  case shl => exact writesA_aluInt2 (exe := execShl) hrun rfl rfl fun l k => natMod_modEq (by push_cast; rfl)
  case shr => exact writesA_aluInt2 (exe := execShr) hrun rfl rfl fun l k => congrArg (· % _) (by push_cast; rfl)
  case sar => exact writesA_aluInt2 (exe := execSar) hrun rfl rfl fun l k => wrapTo_modEq _ _
  case rol =>
    refine writesA_aluInt2 (exe := execRol) hrun rfl rfl fun l k => congrArg (· % _) ?_
    rw [rotl_of_lt _ (Nat.mod_lt _ hw)]
    push_cast
    rfl

end Sys2Proof
end

section
/-!
PROOF. Bit counts, bit fields and swizzles (R97 to R99), bit by bit.
-/

namespace Sys2Proof.Machine

/-! ### Counts and reversal (R97) -/

/-- clz of one sub-element. -/
def clzOf (w x : Nat) : Nat := if x == 0 then w else w - 1 - Nat.log2 x

/-- ctz of one sub-element. -/
def ctzOf (w x : Nat) : Nat := ((List.range w).find? fun i => x.testBit i).getD w

/-- brev of one sub-element. -/
def brevOf (w x : Nat) : Nat := (List.range w).foldl (fun a j => if x.testBit (w - 1 - j) then a + 2 ^ j else a) 0

/-- The highest one bit of a number below 2^w stands right below its leading zeros. -/
theorem clzOf_spec {w x : Nat} (hx : x < 2 ^ w) :
    clzOf w x ≤ w ∧ x < 2 ^ (w - clzOf w x) ∧ (clzOf w x < w → 2 ^ (w - clzOf w x - 1) ≤ x) := by
  by_cases h0 : x = 0
  · simp [clzOf, h0]
  · have hlog : x.log2 < w := (Nat.log2_lt h0).mpr hx
    have hclz : clzOf w x = w - 1 - x.log2 := by simp [clzOf, h0]
    have htop : w - clzOf w x = x.log2 + 1 := by omega
    exact ⟨by omega, htop ▸ Nat.lt_log2_self, fun _ => by simpa [htop] using Nat.log2_self_le h0⟩

/-- A number whose low bits are zero is a multiple of their weight. -/
theorem two_pow_dvd_of_testBit {n x : Nat} (h : ∀ j, j < n → x.testBit j = false) : 2 ^ n ∣ x := by
  refine Nat.dvd_of_mod_eq_zero (Nat.eq_of_testBit_eq fun j => ?_)
  by_cases hj : j < n <;> simp [hj, h]

/-- The bits below the trailing zeros' end are zero, and the bit there is one unless all w bits are zero. -/
theorem ctzOf_spec (w x : Nat) :
    ctzOf w x ≤ w ∧ 2 ^ ctzOf w x ∣ x ∧ (ctzOf w x < w → x.testBit (ctzOf w x) = true) := by
  unfold ctzOf
  cases hfind : (List.range w).find? fun i => x.testBit i with
  | none =>
    rw [List.find?_range_eq_none] at hfind
    exact ⟨le_rfl, two_pow_dvd_of_testBit fun j hj => by simpa using hfind j hj, fun h => absurd h (lt_irrefl w)⟩
  | some n =>
    obtain ⟨hbit, hmem, hbelow⟩ := List.find?_range_eq_some.mp hfind
    exact ⟨(List.mem_range.mp hmem).le, two_pow_dvd_of_testBit fun j hj => by simpa using hbelow j hj, fun _ => hbit⟩

/-- The number of one bits as a sum over the positions. -/
theorem length_filter_testBit (w x : Nat) :
    ((List.range w).filter fun i => x.testBit i).length = ∑ j ∈ Finset.range w, if x.testBit j then 1 else 0 := by
  induction w with
  | zero => simp
  | succ w ih =>
    rw [List.range_succ, List.filter_append, List.length_append, ih, Finset.sum_range_succ]
    by_cases h : x.testBit w <;> simp [h]

theorem brevOf_spec (w x : Nat) : brevOf w x < 2 ^ w ∧ ∀ j, j < w → (brevOf w x).testBit j = x.testBit (w - 1 - j) := by
  obtain ⟨hlt, hbits⟩ := Lanes.foldl_bits (fun j => x.testBit (w - 1 - j)) w
  exact ⟨hlt, fun j hj => (hbits j).trans (by simp [hj])⟩

/-! ### Bit fields (R98) -/

/-- A natural number below 2^w wraps to itself. -/
theorem wrapTo_natCast {w v : Nat} (h : v < 2 ^ w) : wrapTo w v = v := by
  have hcast := wrapTo_cast w v
  rw [Int.emod_eq_of_lt (Int.natCast_nonneg v) (by exact_mod_cast h)] at hcast
  exact_mod_cast hcast

/-- An n-bit number less 2^n wraps to the number below ones. -/
theorem wrapTo_sub_two_pow {w n v : Nat} (hv : v < 2 ^ n) (hn : n ≤ w) :
    wrapTo w ((v : Int) - 2 ^ n) = 2 ^ n * (2 ^ (w - n) - 1) + v := by
  have hpow : 2 ^ n * 2 ^ (w - n) = 2 ^ w := by rw [← pow_add, Nat.add_sub_cancel' hn]
  have hle : 2 ^ n ≤ 2 ^ w := Nat.pow_le_pow_right (by omega) hn
  rw [Nat.mul_sub, hpow, mul_one]
  zify [hle]
  rw [wrapTo_cast, ← Int.add_emod_right, Int.emod_eq_of_lt] <;> zify at hv hle <;> omega

/-- The field that bfx takes from x. -/
def bfxField (x pos len : Nat) : Nat := x / 2 ^ pos % 2 ^ len

theorem bfxField_testBit (x pos len j : Nat) : (bfxField x pos len).testBit j = (decide (j < len) && x.testBit (pos + j)) := by
  rw [bfxField, Nat.testBit_mod_two_pow, Nat.testBit_div_two_pow, Nat.add_comm]

theorem bfxField_lt {x pos len w : Nat} (h : len ≤ w) : bfxField x pos len < 2 ^ w :=
  lt_of_lt_of_le (Nat.mod_lt _ (by positivity)) (Nat.pow_le_pow_right (by omega) h)

/-- The position and the length that a control word gives. -/
theorem bits_position (c : Nat) : bits c 5 0 = c % 64 := by simp [bits]

theorem bits_length (c : Nat) : bits c 12 6 = c / 64 % 128 := by simp [bits]

/-- bfx extends its field by ones or by zeros (R98). -/
theorem bfxOp_eq {w x c pos len : Nat} (hx : x < 2 ^ w) (hpos : bits c 5 0 = pos) (hlen : min (bits c 12 6) w = len) :
    bfxOp w x c =
      if c.testBit 13 && decide (0 < len) && x.testBit (pos + len - 1) then 2 ^ len * (2 ^ (w - len) - 1) + bfxField x pos len
      else bfxField x pos len := by
  have hfield : (if w ≤ pos then 0 else x / 2 ^ pos % 2 ^ len) = bfxField x pos len := by
    split
    case isTrue h => simp [bfxField, Nat.div_eq_of_lt (lt_of_lt_of_le hx (Nat.pow_le_pow_right (by omega) h))]
    case isFalse => rfl
  have hle : len ≤ w := hlen ▸ min_le_right _ _
  have hsign : (bitAt c 13 && decide (0 < len) && bitAt (bfxField x pos len) (len - 1)) =
      (c.testBit 13 && decide (0 < len) && x.testBit (pos + len - 1)) := by
    by_cases h0 : 0 < len
    · simp [bitAt, bfxField_testBit, h0, Nat.add_sub_assoc h0]
    · simp [h0]
  simp only [bfxOp, hpos, hlen, hfield, hsign]
  split
  · exact wrapTo_sub_two_pow (bfxField_lt le_rfl) hle
  · exact wrapTo_natCast (bfxField_lt hle)

theorem bfxOp_testBit {w x : Nat} (c : Nat) (hx : x < 2 ^ w) {j : Nat} (hj : j < w) :
    (bfxOp w x c).testBit j =
      if j < min (c / 64 % 128) w then x.testBit (c % 64 + j)
      else c.testBit 13 && decide (0 < min (c / 64 % 128) w) && x.testBit (c % 64 + min (c / 64 % 128) w - 1) := by
  rw [bfxOp_eq hx (bits_position c) (congrArg (min · w) (bits_length c))]
  generalize min (c / 64 % 128) w = len
  split
  case isTrue h =>
    rw [Nat.testBit_two_pow_mul_add _ (bfxField_lt le_rfl), bfxField_testBit, h, Nat.testBit_two_pow_sub_one]
    by_cases hjl : j < len
    · simp [hjl]
    · simp [hjl]
      omega
  case isFalse h =>
    rw [bfxField_testBit, Bool.eq_false_iff.mpr h]
    by_cases hjl : j < len <;> simp [hjl]

theorem wrapTo_lt (w : Nat) (v : Int) : wrapTo w v < 2 ^ w := by
  zify
  rw [wrapTo_cast]
  exact Int.emod_lt_of_pos _ (by positivity)

/-- The mask of bfi: ones at the places of the field that lie below w. -/
theorem bfiMask_testBit (w pos len j : Nat) :
    ((2 ^ len - 1) * 2 ^ pos % 2 ^ w).testBit j = (decide (j < w) && (decide (pos ≤ j) && decide (j - pos < len))) := by
  rw [Nat.testBit_mod_two_pow, Nat.testBit_mul_two_pow, Nat.testBit_two_pow_sub_one]

theorem bfiOp_testBit {w : Nat} (x c d : Nat) {j : Nat} (hj : j < w) :
    (bfiOp w x c d).testBit j =
      if c % 64 ≤ j ∧ j < c % 64 + min (c / 64 % 128) w then x.testBit (j - c % 64) else d.testBit j := by
  rw [bfiOp, bits_position, bits_length]
  generalize c % 64 = pos, min (c / 64 % 128) w = len
  have hmask := bfiMask_testBit w pos len j
  have hlt : (2 ^ len - 1) * 2 ^ pos % 2 ^ w < 2 ^ w := Nat.mod_lt _ (by positivity)
  rw [Nat.sub_sub, Nat.add_comm 1, Nat.testBit_or, Nat.testBit_and, Nat.testBit_and, Nat.testBit_two_pow_sub_succ hlt, hmask,
    Nat.testBit_mod_two_pow, Nat.testBit_mul_two_pow]
  by_cases hin : pos ≤ j ∧ j < pos + len
  · have hrel : j - pos < len := by omega
    simp [hj, hin, hrel]
  · have hout : (decide (pos ≤ j) && decide (j - pos < len)) = false := by
      simp
      omega
    simp [hj, hin, hout]

theorem bfiOp_lt (x c : Nat) {w d : Nat} (hd : d < 2 ^ w) : bfiOp w x c d < 2 ^ w :=
  Nat.or_lt_two_pow (lt_of_le_of_lt Nat.and_le_left hd) (Nat.and_lt_two_pow _ (Nat.mod_lt _ (by positivity)))

/-! ### Swizzles (R99) -/

/-- The selector of sub-element k of swz. -/
theorem bits_selector (x k : Nat) : bits x (4 * k + 3) (4 * k) = x / 16 ^ k % 16 := by
  rw [bits, show 4 * k + 3 + 1 - 4 * k = 4 by omega, pow_mul]
  rfl

/-- A literal that is read whole fills the low 32 bits. -/
theorem Issue.wholeB_toNat (iss : Issue) (L : Layout) (c : BitVec 7) (lit : IWord) (l : Nat) :
    (iss.wholeB L c lit l).toNat = if c == 127 then lit.toNat else (iss.operand L c lit l).toNat := by
  unfold Issue.wholeB
  split
  · exact BitVec.toNat_setWidth_of_le (by decide)
  · rfl

end Sys2Proof.Machine

namespace Sys2Proof

open Sys2Proof.Machine

/-- Settles O3: the count or reversal of each sub-element, by the operation's own specification. -/
theorem bitCountResults : Obligations.BitCountResults := by
  unfold Obligations.BitCountResults
  intro s iss f ls ⟨rest, hrun⟩ L x
  have hx : ∀ l k, x l k < 2 ^ L.w := iss.subA_lt f ls L
  refine ⟨⟨fun l k => clzOf L.w (x l k), ?clz, fun l k _ => clzOf_spec (hx l k)⟩,
    ⟨fun l k => ctzOf L.w (x l k), ?ctz, fun l k _ => ctzOf_spec _ _⟩, ?popc,
    ⟨fun l k => brevOf L.w (x l k), ?brev, fun l k _ => brevOf_spec _ _⟩⟩
  case clz => exact writesA_aluInt1 (exe := execClz) hrun rfl rfl fun l k => rfl
  case ctz => exact writesA_aluInt1 (exe := execCtz) hrun rfl rfl fun l k => rfl
  case popc =>
    exact writesA_aluInt1 (exe := execPopc) hrun rfl rfl fun l k => congrArg (· % _) (by
      rw [length_filter_testBit]
      push_cast
      rfl)
  case brev => exact writesA_aluInt1 (exe := execBrev) hrun rfl rfl fun l k => rfl

/-- Settles O4: bfx and bfi bit by bit, swz by the selector of each sub-element. -/
theorem bitFieldAndSwizzleResults : Obligations.BitFieldAndSwizzleResults := by
  unfold Obligations.BitFieldAndSwizzleResults
  intro s iss f ls ⟨rest, hrun⟩ L x c pos len
  have hx : ∀ l k, x l k < 2 ^ L.w := iss.subA_lt f ls L
  have hd : ∀ l k, iss.subD f L l k < 2 ^ L.w := iss.subD_lt f L
  refine ⟨⟨fun l k => bfxOp L.w (x l k) (c l k), ?bfx, fun l k _ => ⟨wrapTo_lt _ _, fun j hj => bfxOp_testBit _ (hx l k) hj⟩⟩,
    ⟨fun l k => bfiOp L.w (x l k) (c l k) (iss.subD f L l k), ?bfi,
      fun l k _ => ⟨bfiOp_lt _ _ (hd l k), fun j hj => bfiOp_testBit _ _ _ hj⟩⟩, ?swz⟩
  case bfx => exact writesA_aluInt2 (exe := execBfx) hrun rfl rfl fun l k => rfl
  case bfi => exact writesA_aluInt3 (exe := execBfi) hrun rfl rfl fun l k => rfl
  case swz =>
    have hexec : exec (.swz f ls) s = execSwz f ls s := rfl
    refine writesA_of_holds (hexec.trans (State.withIssue_cons _ hrun))
      (Issue.holds_join (intLayout_fits _) fun l k _ _ => congrArg (· % _) ?_)
    rw [bits_selector, Issue.wholeB_toNat]
    exact apply_ite Nat.cast _ _ _

end Sys2Proof
end

section
/-!
PROOF. Compares, predicate operations and selects (R100 to R102).
-/

namespace Sys2Proof.Machine

/-- Bit k of a predicate value is the condition of sub-element k, and zero beyond the layout. -/
theorem predOf_getLsbD (n : Nat) (c : Nat → Bool) {k : Nat} (hk : k < 64) : (predOf n c).getLsbD k = (decide (k < n) && c k) := by
  rw [predOf, BitVec.getLsbD_ofNat, (Lanes.foldl_bits c n).2]
  simp [hk]

theorem kopOp_getLsbD (t : Nat) (a b : BitVec 16) {k : Nat} (hk : k < 16) :
    (kopOp t a b).getLsbD k = match t with
      | 0 => a.getLsbD k && b.getLsbD k
      | 1 => a.getLsbD k || b.getLsbD k
      | 2 => a.getLsbD k != b.getLsbD k
      | 3 => a.getLsbD k && !b.getLsbD k
      | 4 => !a.getLsbD k
      | _ => a.getLsbD k := by
  unfold kopOp
  split <;> simp [hk]

section
variable {i : Instr} {s : State} {iss : Issue} {rest : List Issue} {f : FA} {ls : Lits} (hrun : s.issuing = iss :: rest)
include hrun

/-- A compare writes one condition for each sub-element (R100). -/
theorem writesK_cmpInt {exe : FA → Lits → State → Result} {read : Nat → Nat → Int} {c : Nat → Nat → Bool}
    (hexec : exec i s = exe f ls s) (hexe : exe f ls s = cmpInt read f ls s)
    (hc : ∀ l k, cmpCond (f.d.toNat / 8) (read (intLayout f.t.toNat).w (iss.subA f ls (intLayout f.t.toNat) l k))
      (read (intLayout f.t.toNat).w (iss.subB f ls (intLayout f.t.toNat) l k)) = c l k) :
    WritesK i s iss ls (f.d.toNat % 8) (intLayout f.t.toNat).n c := by
  refine ⟨_, (hexec.trans hexe).trans (State.withIssue_cons _ hrun), fun l hl k hk => ?_⟩
  rw [iss.at_lanesOf _ hl, predOf_getLsbD _ _ (by omega)]
  exact congrArg _ (hc l k)

end

end Sys2Proof.Machine

namespace Sys2Proof

open Sys2Proof.Machine

/-- Settles O5: cmp by its conditions, kop bit by bit, sel by its guard. -/
theorem comparePredicateAndSelectResults : Obligations.ComparePredicateAndSelectResults := by
  unfold Obligations.ComparePredicateAndSelectResults
  intro s iss f ls ⟨rest, hrun⟩ L cond ka kb
  have hcond : ∀ x y, cmpCond (f.d.toNat / 8) x y = cond x y := by
    intro x y
    simp only [cond]
    match f.d.toNat / 8 with
    | 0 | 2 | 3 | 4 | _ + 5 => rfl
    | 1 => exact (decide_not ..).symm
  refine ⟨fun _ => ⟨?cmpSigned, ?cmpUnsigned⟩, ?kop, ?sel⟩
  case cmpSigned => exact writesK_cmpInt (exe := execCmpSigned) hrun rfl rfl fun l k => hcond _ _
  case cmpUnsigned => exact writesK_cmpInt (exe := execCmpUnsigned) hrun rfl rfl fun l k => hcond _ _
  case kop =>
    have hexec : exec (.kop f ls) s = execKop f ls s := rfl
    refine ⟨_, hexec.trans (State.withIssue_cons _ hrun), fun l hl k hk => ?_⟩
    rw [iss.at_lanesOf _ hl, BitVec.zeroExtend, BitVec.getLsbD_setWidth, decide_eq_true hk, decide_eq_true (show k < 64 by omega)]
    exact congrArg (true && ·) (kopOp_getLsbD f.t.toNat (ka l) (kb l) hk)
  case sel =>
    have hexec : exec (.sel f ls) s = execSel f ls s := rfl
    refine writesA_of_holds (hexec.trans (State.withIssue_cons _ hrun))
      (Issue.holds_join (intLayout_fits _) fun l k _ _ => congrArg (· % _) ?_)
    exact apply_ite Nat.cast _ _ _

end Sys2Proof
end

section
/-!
PROOF. Moves, conversions, narrow dot products and random draws (R103 to R111).
-/

namespace Sys2Proof.Machine

/-! ### Moves (R103, R108) -/

/-- A shifted sum of 64-bit registers, in the sub-elements that hold them. -/
theorem lea_modEq (a b : Word) (n : Nat) {x y : Nat} (hx : x = a.toNat) (hy : y = b.toNat) :
    ((a + b <<< n).toNat : Int) ≡ x + y * 2 ^ n [ZMOD 2 ^ 64] := by
  subst hx hy
  rw [BitVec.toNat_add, BitVec.toNat_shiftLeft, Nat.add_mod_mod, Nat.shiftLeft_eq]
  exact natMod_modEq (by push_cast; rfl)

/-- Two words as the low and the high half of a register. -/
theorem toNat_append_cast (hi lo : IWord) : ((hi ++ lo : Word).toNat : Int) = lo.toNat + hi.toNat * 2 ^ 32 := by
  rw [BitVec.toNat_append, ← Nat.shiftLeft_add_eq_or_of_lt lo.isLt, Nat.shiftLeft_eq, Nat.add_comm]
  push_cast
  rfl

/-! ### Conversions (R105 to R107) -/

/-- The sources of pack and unpack, named by the type field. -/
theorem packSource_eq (t : BitVec 3) : packSource t.toNat = intLayout (if t == 3 then 5 else t.toNat + 1) := by
  revert t
  decide

theorem unpackSource_eq (t : BitVec 3) : unpackSource t.toNat = intLayout (if t == 5 then 3 else t.toNat - 1) := by
  revert t
  decide

/-- One sub-element of unpack, extended by sign or by zeros. -/
theorem unpack_modEq (w v x : Nat) (signed : Bool) :
    ((if signed then wrapTo w (signedOf v x) else x : Nat) : Int) ≡ if signed then signedOf v x else x [ZMOD 2 ^ w] := by
  cases signed
  · rfl
  · exact wrapTo_modEq w _

/-- One sub-element of cvti: read by sign or not, and limited to the destination's range or wrapped. -/
theorem cvti_modEq (w : Nat) (signed sat : Bool) (v : Int) :
    (wrapTo w (if sat then (if signed then clampInt v (sMin w) (sMax w) else clampInt v 0 (uMax w)) else v) : Int) ≡
      if sat then (if signed then max (-2 ^ (w - 1)) (min (2 ^ (w - 1) - 1) v) else max 0 (min (2 ^ w - 1) v)) else v [ZMOD 2 ^ w] := by
  cases sat
  · exact wrapTo_modEq w v
  · cases signed
    · exact wrapTo_clamp_unsigned w v
    · exact wrapTo_clamp_signed w v

/-! ### Narrow dot products (R109) -/

/-- Terms added one after another are their sum. -/
theorem foldl_add_range (g : Nat → Int) (m : Nat) : (List.range m).foldl (fun t i => t + g i) 0 = ∑ i ∈ Finset.range m, g i := by
  induction m with
  | zero => rfl
  | succ m ih => rw [List.range_succ, List.foldl_append, ih, Finset.sum_range_succ, List.foldl_cons, List.foldl_nil]

/-- The exact sum of the products of the sub-elements of a and b in a lane, signed below type 2. -/
def Issue.dotSum (iss : Issue) (f : FA) (ls : Lits) (L : Layout) (l : Nat) : Int :=
  ∑ j ∈ Finset.range L.n,
    if f.t.toNat < 2 then signedOf L.w (iss.subA f ls L l j) * signedOf L.w (iss.subB f ls L l j)
    else (iss.subA f ls L l j : Int) * iss.subB f ls L l j

theorem Issue.dotInt_eq (iss : Issue) (f : FA) (ls : Lits) (w m l : Nat) :
    dotInt w m (f.t.toNat < 2) (iss.operand { n := m, w := w } f.a (litAt ls 0) l) (iss.operand { n := m, w := w } f.b (litB ls f.a) l) =
      iss.dotSum f ls { n := m, w := w } l := by
  rw [dotSum, ← foldl_add_range, dotInt]
  by_cases h : f.t.toNat < 2
  · simp only [h, decide_true, if_true]
    rfl
  · simp only [h, decide_false, Bool.false_eq_true, if_false, Nat.cast_mul]
    rfl

/-- The accumulator of a lane: d[31:0], signed below type 2. -/
def Issue.dotAcc (iss : Issue) (f : FA) (l : Nat) : Int :=
  if f.t.toNat < 2 then signedOf 32 (iss.vreg f.d.toNat l).toNat else (((iss.vreg f.d.toNat l).toNat % 2 ^ 32 : Nat) : Int)

/-- The limits of a dot product: those of the accumulator at types 1 and 3, none at types 0 and 2. -/
def dotLimit (t : Nat) (v : Int) : Int :=
  if t = 1 then max (-2 ^ 31) (min (2 ^ 31 - 1) v) else if t = 3 then max 0 (min (2 ^ 32 - 1) v) else v

/-- The accumulation of an integer dot product before it wraps to 32 bits: limited at the odd types. -/
theorem dotLimit_modEq {t : Nat} (ht : t < 4) (v : Int) :
    (wrapTo 32 (if t % 2 == 1 then (if decide (t < 2) then clampInt v (sMin 32) (sMax 32) else clampInt v 0 (uMax 32)) else v) : Int) ≡
      dotLimit t v [ZMOD 2 ^ 32] := by
  interval_cases t
  · exact wrapTo_modEq 32 v
  · exact wrapTo_clamp_signed 32 v
  · exact wrapTo_modEq 32 v
  · exact wrapTo_clamp_unsigned 32 v

theorem Issue.dotAccInt_eq (iss : Issue) (f : FA) (l : Nat) (p : Int) :
    dotAccInt (f.t.toNat < 2) (f.t.toNat % 2 == 1) p (iss.vreg f.d.toNat l) =
      BitVec.ofNat 64 (wrapTo 32 (if f.t.toNat % 2 == 1 then
        (if decide (f.t.toNat < 2) then clampInt (iss.dotAcc f l + p) (sMin 32) (sMax 32) else clampInt (iss.dotAcc f l + p) 0 (uMax 32))
        else iss.dotAcc f l + p)) := by
  simp only [dotAccInt, Issue.dotAcc, decide_eq_true_eq]

/-- Values of 32 bits with zeros above hold what they are modulo 2^32. -/
theorem Issue.holds_low {iss : Issue} {g : Nat → Nat} {r : Nat → Nat → Int} (hlt : ∀ l, g l < 2 ^ 32)
    (h : ∀ l, (g l : Int) ≡ r l 0 [ZMOD 2 ^ 32]) : iss.Holds (intLayout 4) (iss.lanesOf fun l => BitVec.ofNat 64 (g l)) r := by
  intro l hl
  have hval : (BitVec.ofNat 64 (g l)).toNat = g l := by
    rw [BitVec.toNat_ofNat, Nat.mod_eq_of_lt (lt_trans (hlt l) (by decide))]
  rw [iss.at_lanesOf _ hl, hval]
  refine ⟨fun k hk => ?_, hlt l⟩
  obtain rfl : k = 0 := Nat.lt_one_iff.mp hk
  rw [Layout.sub, hval, Nat.mul_zero, pow_zero, Nat.div_one]
  push_cast
  exact h l

section
variable {i : Instr} {s : State} {iss : Issue} {rest : List Issue} {f : FA} {ls : Lits} (hrun : s.issuing = iss :: rest)
  {exe : FA → Lits → State → Result} {w m : Nat} {E : Nat → FpFmt} (hexec : exec i s = exe f ls s)
  (hexe : exe f ls s = dotExec w m E f ls s)
include hrun hexec hexe

/-- An integer dot product accumulates the exact sum (R109). -/
theorem writesA_dotExec_int (ht : f.t.toNat < 4) :
    WritesA i s iss f ls (intLayout 4) fun l _ => dotLimit f.t.toNat (iss.dotAcc f l + iss.dotSum f ls { n := m, w := w } l) := by
  refine writesA_of_holds (x := iss.lanesOf fun l => BitVec.ofNat 64 _) ((hexec.trans hexe).trans ?_)
    (Issue.holds_low (fun l => wrapTo_lt _ _) fun l => dotLimit_modEq ht _)
  rw [dotExec, State.withIssue_cons _ hrun]
  simp only [if_pos ht, Issue.dotInt_eq, Issue.dotAccInt_eq]

/-- A dot product of a float format rounds once and raises that rounding's flags (R109). -/
theorem writesA_dotExec_float (ht : 4 ≤ f.t.toNat) :
    let L : Layout := { n := m, w := (E f.t.toNat).w, fmt := some (E f.t.toNat) }
    let r := fun l => dotFloat (E f.t.toNat) iss.rm ((iss.vreg f.d.toNat l).toNat % 2 ^ 32)
      ((List.range m).map fun k => (iss.subA f ls L l k, iss.subB f ls L l k))
    WritesA i s iss f ls (intLayout 5) (fun l _ => (r l).bits) (flagEffects iss.lanes fun l => [(r l).fl]) := by
  intro L r
  refine writesA_of_holds (x := iss.lanesOf fun l => BitVec.ofNat 64 (r l).bits) ((hexec.trans hexe).trans ?_)
    (Issue.holds_whole fun l _ => natMod_modEq rfl)
  rw [dotExec, State.withIssue_cons _ hrun]
  exact if_neg (not_lt.mpr ht)

end

end Sys2Proof.Machine

namespace Sys2Proof

open Sys2Proof.Machine

/-- Settles O6: each move and conversion by the value that it joins or copies. -/
theorem moveAndConversionResults : Obligations.MoveAndConversionResults := by
  unfold Obligations.MoveAndConversionResults
  intro s iss f ls ⟨rest, hrun⟩ L L5 S ctl
  refine ⟨?lea, ?movl, ?gmov, ?cvti, fun _ => ?pack, fun _ => ?unpack⟩
  case lea =>
    have hexec : exec (.lea f ls) s = execLea f ls s := rfl
    refine writesA_of_holds (hexec.trans (State.withIssue_cons _ hrun)) (Issue.holds_whole fun l _ => ?_)
    exact lea_modEq _ _ _ (sub_whole _) (sub_whole _)
  case movl =>
    have hexec : exec (.movl f ls) s = execMovl f ls s := rfl
    refine writesA_of_holds (hexec.trans (State.withIssue_cons _ hrun)) (Issue.holds_whole fun l _ => congrArg (· % _) ?_)
    exact toNat_append_cast _ _
  case gmov =>
    have hexec : exec (.gmov f ls) s = execGmov f ls s := rfl
    exact ⟨_, fun l hl => iss.at_lanesOf _ hl, hexec.trans (State.withIssue_cons _ hrun)⟩
  case cvti =>
    have hexec : exec (.cvti f ls) s = execCvti f ls s := rfl
    refine writesA_of_holds (hexec.trans (State.withIssue_cons _ hrun)) (Issue.holds_join (intLayout_fits _) fun l k _ _ => ?_)
    exact cvti_modEq _ _ _ _
  case pack =>
    have hexec : exec (.pack f ls) s = execPack f ls s := rfl
    refine writesA_of_holds (hexec.trans (State.withIssue_cons _ hrun)) (Issue.holds_join (intLayout_fits _) fun l k _ _ => congrArg (· % _) ?_)
    rw [packSource_eq]
    exact apply_ite Nat.cast _ _ _
  case unpack =>
    have hexec : exec (.unpack f ls) s = execUnpack f ls s := rfl
    refine writesA_of_holds (hexec.trans (State.withIssue_cons _ hrun)) (Issue.holds_join (intLayout_fits _) fun l k _ _ => ?_)
    rw [unpackSource_eq]
    exact unpack_modEq _ _ _ _

/-- Settles O7: the integer dot products by their exact sum, the float ones by their one rounding, rnd by the hash of each draw. -/
theorem dotProductAndRandomResults : Obligations.DotProductAndRandomResults := by
  unfold Obligations.DotProductAndRandomResults
  intro s iss f ls ⟨rest, hrun⟩ t acc sum lim fl
  refine ⟨fun ht => ⟨?dp4, ?dp8⟩, fun ht => ⟨?fdp4, ?fdp8⟩, ?rnd⟩
  case dp4 =>
    have hexec : exec (.dp4 f ls) s = execDp4 f ls s := rfl
    exact writesA_dotExec_int hrun hexec rfl ht
  case dp8 =>
    have hexec : exec (.dp8 f ls) s = execDp8 f ls s := rfl
    exact writesA_dotExec_int hrun hexec rfl ht
  case fdp4 =>
    have hexec : exec (.dp4 f ls) s = execDp4 f ls s := rfl
    have h := writesA_dotExec_float hrun hexec rfl ht
    exact h
  case fdp8 =>
    have hexec : exec (.dp8 f ls) s = execDp8 f ls s := rfl
    have h := writesA_dotExec_float hrun hexec rfl ht
    simpa only [beq_iff_eq] using h
  case rnd =>
    have hexec : exec (.rnd f ls) s = execRnd f ls s := rfl
    refine ⟨_, _, hexec.trans (State.withIssue_cons _ hrun), fun l hl => ⟨?_, fun k hk => ?_⟩⟩
    · rw [LaneVals.at_of _ (Lanes.has_lt hl), if_pos hl]
    · rw [iss.at_lanesOf _ hl, Layout.sub_join _ _ (intLayout_fits _) hk]
      rfl

end Sys2Proof
end

section
/-!
PROOF. The cross-lane exchanges and votes (R112 to R116, R119): no thread fails a check of Table 5·7, and each lane's value is read from its
members.
-/

namespace Sys2Proof.Machine

/-! ### The checks of Table 5·7 -/

/-- No thread of the bundle fails a check when its mask names it and only lanes of the bundle, and, of a folding form, every member carries
the same mask, of an exchange, the mask names the source lane (R115). -/
theorem Issue.xlFault_eq_none {iss : Issue} {fold : Bool} {L : Layout} {f : FX} {ls : Lits} {l : Nat}
    (hself : (iss.mask f ls l).has l = true) (hin : iss.mask f ls l &&& ~~~iss.lanes = 0)
    (hagree : fold = true → ∀ j, (iss.mask f ls l).has j = true → iss.mask f ls j = iss.mask f ls l)
    (hsrc : fold = false → (iss.mask f ls l).has (iss.xlIndex L f ls l).1 = true) : iss.xlFault fold L f ls l = none := by
  have hexited : iss.mask f ls l &&& iss.before.exitedLanes &&& ~~~iss.lanes = 0 := by
    rw [BitVec.and_assoc, BitVec.and_comm iss.before.exitedLanes, ← BitVec.and_assoc, hin]
    exact BitVec.zero_and
  have hmasks : (fold && (Lanes.list (iss.mask f ls l)).any fun j => iss.mask f ls j != iss.mask f ls l) = false := by
    cases fold
    · rfl
    · simpa using hagree rfl
  have hindex : (!fold && !(iss.mask f ls l).has (iss.xlIndex L f ls l).1) = false := by
    cases fold
    · simpa using hsrc rfl
    · rfl
  simp [xlFault, hself, hin, hexited, hmasks, hindex]

/-- A cross-lane instruction whose checks pass runs its meaning. -/
theorem xlRun_of_passes {s : State} {iss : Issue} {rest : List Issue} (hrun : s.issuing = iss :: rest) {fold : Bool} {L : Layout} {f : FX}
    {ls : Lits} (h : ∀ l, iss.lanes.has l = true → iss.xlFault fold L f ls l = none) (k : Issue → State → Result) :
    xlRun fold L f ls s k = k iss s := by
  have hnone : iss.xlFaults fold L f ls = [] := by
    rw [Issue.xlFaults, List.filterMap_eq_nil_iff]
    intro l hl
    rw [h l (Lanes.mem_list.mp hl), Option.map_none]
  rw [xlRun, State.withIssue_cons _ hrun, hnone]
  rfl

/-- An instruction that writes a value and raises no flag holds back the one write. -/
theorem completesLatched_of_writeX {i : Instr} {s : State} {iss : Issue} {f : FX} {ls : Lits} {x : LaneVals}
    (h : exec i s = s.writeX iss f ls x) :
    CompletesLatched i s iss (2 + ls.length) x (if f.nw == 1 then [] else [.v f.d.toNat iss.lanes x]) := by
  rw [State.writeX, List.append_nil] at h
  exact h

/-! ### Votes (R119) -/

/-- The members that satisfy a test, as a 64-bit value. -/
theorem getLsbD_ballot (m : Lanes) (q : Nat → Bool) {j : Nat} (hj : j < 64) :
    ((Lanes.of fun j => m.has j && q j).zeroExtend 64 : Word).getLsbD j = (m.has j && q j) := by
  rw [BitVec.zeroExtend, BitVec.getLsbD_setWidth, decide_eq_true hj, Bool.true_and, ← Lanes.has, Lanes.has_of]
  by_cases h : m.has j = true
  · simp [Lanes.has_lt h]
  · simp [h]

/-- A vote as a number. -/
theorem vote_cast {b : Bool} {P : Prop} [Decidable P] (h : b = true ↔ P) :
    ((if b = true then (1 : Word) else 0).toNat : Int) = if P then 1 else 0 := by
  by_cases hP : P
  · simp [hP, h.mpr hP]
  · simp [hP, Bool.eq_false_iff.mpr (mt h.mp hP)]

/-- All members agree exactly when each agrees with one of them. -/
theorem all_or_all_not_iff {xs : List Nat} {p : Nat → Bool} {l : Nat} (hl : l ∈ xs) :
    (xs.all p || xs.all fun j => !p j) = true ↔ ∀ j ∈ xs, p j = p l := by
  simp only [Bool.or_eq_true, List.all_eq_true, Bool.not_eq_true']
  constructor
  · rintro (h | h) j hj
    · rw [h j hj, h l hl]
    · rw [h j hj, h l hl]
  · intro h
    cases hp : p l
    · exact .inr fun j hj => (h j hj).trans hp
    · exact .inl fun j hj => (h j hj).trans hp

section
variable {i : Instr} {s : State} {iss : Issue} {rest : List Issue} {f : FX} {ls : Lits} {exe : FX → Lits → State → Result}
  {k : Lanes → (Nat → Bool) → Word} (hrun : s.issuing = iss :: rest) (hexec : exec i s = exe f ls s) (hexe : exe f ls s = xlVote k f ls s)
  (h : ∀ l, iss.lanes.has l = true → iss.xlFault true (intLayout 5) f ls l = none)
include hrun hexec hexe h

theorem exec_xlVote : exec i s = s.writeX iss f ls (iss.lanesOf fun l => k (iss.mask f ls l) fun j => iss.srcX (intLayout 5) f ls j != 0) :=
  (hexec.trans hexe).trans (xlRun_of_passes hrun h _)

/-- A vote writes 1 or 0 in every lane. -/
theorem writesX_xlVote {r : Nat → Nat → Int}
    (hk : ∀ l, iss.lanes.has l = true →
      ((k (iss.mask f ls l) fun j => iss.srcX (intLayout 5) f ls j != 0).toNat : Int) = r l 0) :
    WritesX i s iss f ls (intLayout 5) r :=
  writesX_of_holds (exec_xlVote hrun hexec hexe h) (Issue.holds_whole fun l hl => congrArg (· % _) (hk l hl))

end

end Sys2Proof.Machine

namespace Sys2Proof

open Sys2Proof.Machine

/-- Settles O12: the checks pass, and each form's value is said of the source lane or of the members. -/
theorem crossLaneExchangeAndVoteResults : Obligations.CrossLaneExchangeAndVoteResults := by
  unfold Obligations.CrossLaneExchangeAndVoteResults
  intro s iss f ls ⟨rest, hrun⟩ L L5 m src p hmask
  refine ⟨fun hsrc => ⟨?sh, ?bc⟩, fun hagree => ?votes⟩
  case sh =>
    have hexec : exec (.xlSh f ls) s = execXlSh f ls s := rfl
    refine writesX_of_holds (hexec.trans (xlRun_of_passes hrun (fun l hl => ?_) _)) (Issue.holds_join (intLayout_fits _) fun l k _ _ => rfl)
    exact Issue.xlFault_eq_none (hmask l hl).1 (hmask l hl).2 nofun fun _ => hsrc l hl
  case bc =>
    have hexec : exec (.xlBc f ls) s = execXlBc f ls s := rfl
    refine writesX_of_holds (hexec.trans (xlRun_of_passes hrun (fun l hl => ?_) _)) (Issue.holds_join (intLayout_fits _) fun l k _ _ => rfl)
    exact Issue.xlFault_eq_none (hmask l hl).1 (hmask l hl).2 nofun fun _ => hsrc l hl
  case votes =>
    have hpass : ∀ l, iss.lanes.has l = true → iss.xlFault true (intLayout 5) f ls l = none := fun l hl =>
      Issue.xlFault_eq_none (hmask l hl).1 (hmask l hl).2 (fun _ j hj => hagree l j hl hj) nofun
    refine ⟨?all, ?any, ?uni, ?bal⟩
    case all =>
      have hexec : exec (.xlVoteAll f ls) s = execXlVoteAll f ls s := rfl
      exact writesX_xlVote hrun hexec rfl hpass fun l _ => vote_cast List.all_eq_true
    case any =>
      have hexec : exec (.xlVoteAny f ls) s = execXlVoteAny f ls s := rfl
      exact writesX_xlVote hrun hexec rfl hpass fun l _ => vote_cast List.any_eq_true
    case uni =>
      have hexec : exec (.xlVoteUni f ls) s = execXlVoteUni f ls s := rfl
      exact writesX_xlVote hrun hexec rfl hpass fun l hl => vote_cast (all_or_all_not_iff (Lanes.mem_list.mpr (hmask l hl).1))
    case bal =>
      have hexec : exec (.xlBal f ls) s = execXlBal f ls s := rfl
      refine ⟨_, completesLatched_of_writeX (exec_xlVote hrun hexec rfl hpass), fun l hl j hj => ?_⟩
      rw [iss.at_lanesOf _ hl]
      exact getLsbD_ballot (m l) p hj

end Sys2Proof
end

section
/-!
PROOF. The cross-lane reductions and scans (R117, R118): the tree of an associative operation is its fold in ascending lane order, and each
value of a scan is a fold of the first members.
-/

namespace Sys2Proof.Machine

/-! ### Flags -/

theorem foldl_or_eq_zero_iff (fs : List FpFlags) (a : FpFlags) : fs.foldl (· ||| ·) a = 0 ↔ a = 0 ∧ ∀ x ∈ fs, x = 0 := by
  induction fs generalizing a with
  | nil => simp
  | cons x fs ih =>
    rw [List.foldl_cons, ih, BitVec.ofNat_eq_ofNat, BitVec.or_eq_zero_iff, List.forall_mem_cons, and_assoc]

/-- No flag is raised together exactly when none is raised (R141). -/
theorem orAll_eq_zero_iff {fs : List FpFlags} : orAll fs = 0 ↔ ∀ x ∈ fs, x = 0 := by
  rw [orAll, foldl_or_eq_zero_iff]
  exact and_iff_right rfl

/-! ### Folds -/

/-- The fold of a list of values from its first, in order. -/
def foldBits (op : Nat → Nat → FpRes) (ys : List Nat) : Nat := ys.tail.foldl (fun x y => (op x y).bits) (ys.headD 0)

/-- The values of an operation are associative. -/
def BitsAssoc (op : Nat → Nat → FpRes) : Prop := ∀ x y z, (op (op x y).bits z).bits = (op x (op y z).bits).bits

/-- The first value of least rank, chosen in two steps in either order. -/
theorem least_assoc (q : Nat → Int) (x y z : Nat) :
    (if q (if q x ≤ q y then x else y) ≤ q z then (if q x ≤ q y then x else y) else z) =
      if q x ≤ q (if q y ≤ q z then y else z) then x else if q y ≤ q z then y else z := by
  split_ifs <;> omega

/-- The last value of greatest rank. -/
theorem greatest_assoc (q : Nat → Int) (x y z : Nat) :
    (if q (if q x ≤ q y then y else x) ≤ q z then z else if q x ≤ q y then y else x) =
      if q x ≤ q (if q y ≤ q z then z else y) then (if q y ≤ q z then z else y) else x := by
  split_ifs <;> omega

/-- Each integer operation of Table 5·6 is associative. -/
theorem xlOp_assoc {op : Nat} (h : op < 8) (L : Layout) (md : RMode) : BitsAssoc (xlOp op L md) := by
  intro x y z
  interval_cases op
  · change ((x + y) % 2 ^ L.w + z) % 2 ^ L.w = (x + (y + z) % 2 ^ L.w) % 2 ^ L.w
    rw [Nat.mod_add_mod, Nat.add_mod_mod, Nat.add_assoc]
  · exact least_assoc (signedOf L.w) x y z
  · exact min_assoc x y z
  · exact greatest_assoc (signedOf L.w) x y z
  · exact max_assoc x y z
  · exact Nat.and_assoc x y z
  · exact Nat.or_assoc x y z
  · exact Nat.xor_assoc x y z

/-- An integer operation raises no flag. -/
theorem xlOp_fl {op : Nat} (h : op < 8) (L : Layout) (md : RMode) (x y : Nat) : (xlOp op L md x y).fl = 0 := by
  interval_cases op <;> rfl

/-! ### The tree (R117) -/

section
variable {op : Nat → Nat → FpRes}

theorem pairUp_cons_cons (op : Nat → Nat → FpRes) (x y : Nat) (r : List Nat) :
    pairUp op (x :: y :: r) = ((op x y).bits :: (pairUp op r).1, (op x y).fl :: (pairUp op r).2) := rfl

theorem pairUp_length (op : Nat → Nat → FpRes) : ∀ xs, (pairUp op xs).1.length = (xs.length + 1) / 2
  | [] => rfl
  | [_] => by simp [pairUp]
  | x :: y :: r => by
    rw [pairUp_cons_cons, List.length_cons, pairUp_length op r, List.length_cons, List.length_cons]
    omega

/-- A level of the tree leaves the fold as it is, from any value before it. -/
theorem foldl_pairUp (h : BitsAssoc op) : ∀ xs a,
    (pairUp op xs).1.foldl (fun x y => (op x y).bits) a = xs.foldl (fun x y => (op x y).bits) a
  | [], _ | [_], _ => rfl
  | x :: y :: r, a => by
    rw [pairUp_cons_cons, List.foldl_cons, foldl_pairUp h r, ← h a x y]
    rfl

theorem foldBits_pairUp (h : BitsAssoc op) : ∀ xs, foldBits op (pairUp op xs).1 = foldBits op xs
  | [] | [_] => rfl
  | x :: y :: r => foldl_pairUp h r (op x y).bits

theorem pairUp_flags (h : ∀ x y, (op x y).fl = 0) : ∀ xs, ∀ fl ∈ (pairUp op xs).2, fl = 0
  | [] | [_] => nofun
  | x :: y :: r => List.forall_mem_cons.mpr ⟨h x y, pairUp_flags h r⟩

/-- The first levels of the tree: the values that remain, and the flags of the combines made. -/
def treeLevels (op : Nat → Nat → FpRes) (n : Nat) (xs : List Nat) : List Nat × List FpFlags :=
  (List.range n).foldl (fun (t : List Nat × List FpFlags) _ => let u := pairUp op t.1; (u.1, t.2 ++ u.2)) (xs, [])

theorem treeLevels_succ (op : Nat → Nat → FpRes) (n : Nat) (xs : List Nat) :
    treeLevels op (n + 1) xs = ((pairUp op (treeLevels op n xs).1).1, (treeLevels op n xs).2 ++ (pairUp op (treeLevels op n xs).1).2) := by
  rw [treeLevels, List.range_succ, List.foldl_append]
  rfl

/-- Each level at least halves the number of values. -/
theorem treeLevels_length (op : Nat → Nat → FpRes) (n k : Nat) (xs : List Nat) (h : xs.length ≤ 2 ^ (k + n)) :
    (treeLevels op n xs).1.length ≤ 2 ^ k := by
  induction n generalizing k with
  | zero => exact h
  | succ n ih =>
    have hprev := ih (k + 1) (by rwa [Nat.add_assoc, Nat.add_comm 1])
    rw [treeLevels_succ, pairUp_length]
    omega

theorem foldBits_treeLevels (h : BitsAssoc op) (n : Nat) (xs : List Nat) : foldBits op (treeLevels op n xs).1 = foldBits op xs := by
  induction n with
  | zero => rfl
  | succ n ih => rw [treeLevels_succ, foldBits_pairUp h, ih]

theorem treeLevels_flags (h : ∀ x y, (op x y).fl = 0) (n : Nat) (xs : List Nat) : ∀ fl ∈ (treeLevels op n xs).2, fl = 0 := by
  induction n with
  | zero => exact nofun
  | succ n ih =>
    rw [treeLevels_succ]
    exact List.forall_mem_append.mpr ⟨ih, pairUp_flags h _⟩

/-- The tree of an associative operation over the lanes of a group gives the fold in ascending order. -/
theorem reduceTree_value (h : BitsAssoc op) {xs : List Nat} (hlen : xs.length ≤ 32) : (reduceTree op xs).1 = foldBits op xs := by
  have hone : (treeLevels op 5 xs).1.length ≤ 1 := treeLevels_length op 5 0 xs hlen
  rw [← foldBits_treeLevels h 5 xs]
  change (treeLevels op 5 xs).1.headD 0 = _
  match (treeLevels op 5 xs).1, hone with
  | [], _ | [_], _ => rfl

theorem reduceTree_flags (h : ∀ x y, (op x y).fl = 0) (xs : List Nat) : ∀ fl ∈ (reduceTree op xs).2, fl = 0 :=
  treeLevels_flags h 5 xs

/-! ### The sequence (R118) -/

/-- The values of a scan's combines are the values that the fold passes through. -/
theorem map_scanSteps (op : Nat → Nat → FpRes) (a : Nat) (fl : FpFlags) (xs : List Nat) :
    a :: (scanSteps op a fl xs).map Prod.fst = xs.scanl (fun x y => (op x y).bits) a := by
  induction xs generalizing a fl with
  | nil => rfl
  | cons x xs ih => rw [scanSteps, List.map_cons, ih, List.scanl_cons]

theorem scanSteps_flags (h : ∀ x y, (op x y).fl = 0) (a : Nat) (fl : FpFlags) (xs : List Nat) :
    ∀ t ∈ scanSteps op a fl xs, t.2.2 = 0 := by
  induction xs generalizing a fl with
  | nil => exact nofun
  | cons x xs ih => exact List.forall_mem_cons.mpr ⟨h a x, ih _ _⟩

theorem scanRun_flags (h : ∀ x y, (op x y).fl = 0) (excl : Bool) (ident : Nat) (xs : List Nat) :
    ∀ fl ∈ (scanRun op excl ident xs).2, fl = 0 := by
  cases xs with
  | nil => exact nofun
  | cons x r => exact List.forall_mem_map.mpr (scanSteps_flags h x 0 _)

/-- Reading the value of one member. -/
theorem fst_getD_of_map {vs : List (Nat × FpFlags)} {i v : Nat} (h : (vs.map Prod.fst)[i]? = some v) : (vs.getD i (0, 0)).1 = v := by
  rw [List.getElem?_map] at h
  rw [List.getD_eq_getElem?_getD]
  obtain ⟨p, hp, rfl⟩ := Option.map_eq_some_iff.mp h
  rw [hp]
  rfl

/-- The fold of the first values of a list that is not empty. -/
theorem foldBits_take_succ (op : Nat → Nat → FpRes) (x i : Nat) (r : List Nat) :
    foldBits op ((x :: r).take (i + 1)) = (r.take i).foldl (fun x y => (op x y).bits) x := rfl

/-- A scan gives each member the fold up to its own value. -/
theorem scanRun_inclusive (op : Nat → Nat → FpRes) (ident : Nat) {xs : List Nat} {i : Nat} (hi : i < xs.length) :
    (((scanRun op false ident xs).1).getD i (0, 0)).1 = foldBits op (xs.take (i + 1)) := by
  cases xs with
  | nil => cases hi
  | cons x r =>
    have hvals : (scanRun op false ident (x :: r)).1.map Prod.fst = r.scanl (fun x y => (op x y).bits) x := by
      rw [← map_scanSteps op x 0]
      simp [scanRun]
    refine fst_getD_of_map ?_
    rw [hvals, List.getElem?_scanl, if_pos (Nat.lt_succ_iff.mp hi), foldBits_take_succ]

/-- Under .excl it gives the fold up to the value before, and the first member the identity. -/
theorem scanRun_exclusive (op : Nat → Nat → FpRes) (ident : Nat) {xs : List Nat} {i : Nat} (hi : i < xs.length) :
    (((scanRun op true ident xs).1).getD i (0, 0)).1 = if i = 0 then ident else foldBits op (xs.take i) := by
  cases xs with
  | nil => cases hi
  | cons x r =>
    have hvals : (scanRun op true ident (x :: r)).1.map Prod.fst =
        ident :: (r.dropLast.scanl (fun x y => (op x y).bits) x).take r.length := by
      rw [← map_scanSteps op x 0]
      simp [scanRun, List.map_take, Function.comp_def]
    refine fst_getD_of_map ?_
    rw [hvals]
    cases i with
    | zero => rfl
    | succ i =>
      have hlt : i < r.length := Nat.lt_of_succ_lt_succ hi
      rw [List.getElem?_cons_succ, List.getElem?_take_of_lt hlt, List.getElem?_scanl, if_pos (by rw [List.length_dropLast]; omega),
        if_neg (Nat.succ_ne_zero i), foldBits_take_succ, List.dropLast_eq_take, List.take_take, min_eq_left (by omega)]

end

/-! ### The layout and the members of a fold -/

theorem foldLayout_fits (f : FX) : (foldLayout f).w * (foldLayout f).n ≤ 64 := by
  unfold foldLayout
  split
  · exact intLayout_fits _
  · exact floatLayout_fits _

/-- Sub-element k of each member of a set, in ascending lane order. -/
def Issue.memberVals (iss : Issue) (f : FX) (ls : Lits) (m : Lanes) (k : Nat) : List Nat :=
  (Lanes.list m).map fun j => (foldLayout f).sub (iss.srcX (foldLayout f) f ls j) k

theorem Issue.memberVals_length_le (iss : Issue) (f : FX) (ls : Lits) (m : Lanes) (k : Nat) : (iss.memberVals f ls m k).length ≤ 32 := by
  rw [memberVals, List.length_map, Lanes.list]
  exact (List.length_filter_le _ _).trans (List.length_range ..).le

/-- A member of a set has a place among its members. -/
theorem Issue.idxOf_lt_memberVals (iss : Issue) (f : FX) (ls : Lits) {m : Lanes} {l : Nat} (h : m.has l = true) (k : Nat) :
    (Lanes.list m).idxOf l < (iss.memberVals f ls m k).length := by
  rw [memberVals, List.length_map]
  exact List.idxOf_lt_length_of_mem (Lanes.mem_list.mpr h)

/-- The lowest lane of a set that is not empty belongs to it. -/
theorem lowestLane_mem {m : Lanes} {l : Nat} (h : m.has l = true) : m.has (lowestLane m) = true := by
  rw [← Lanes.mem_list] at h ⊢
  unfold lowestLane
  cases hlist : Lanes.list m with
  | nil => exact absurd (hlist ▸ h) List.not_mem_nil
  | cons j js => exact List.mem_cons_self

/-- A lane of a set of lanes inside the bundle is a lane of the bundle. -/
theorem Lanes.has_of_subset {m n : Lanes} (h : m &&& ~~~n = 0) {l : Nat} (hl : m.has l = true) : n.has l = true := by
  have hbit := Lanes.eq_zero_iff.mp h l
  have hlt := Lanes.has_lt hl
  unfold Lanes.has at *
  simpa [hl, hlt] using hbit

/-- A lane's member set is among the distinct ones. -/
theorem Issue.mask_mem_memberSets {iss : Issue} {f : FX} {ls : Lits} {l : Nat} (hself : (iss.mask f ls l).has l = true)
    (hin : iss.mask f ls l &&& ~~~iss.lanes = 0) (hagree : ∀ j, (iss.mask f ls l).has j = true → iss.mask f ls j = iss.mask f ls l) :
    iss.mask f ls l ∈ iss.memberSets f ls := by
  have hlow := lowestLane_mem hself
  have hsame := hagree _ hlow
  rw [memberSets, List.mem_map]
  refine ⟨lowestLane (iss.mask f ls l), List.mem_filter.mpr ⟨Lanes.mem_list.mpr (Lanes.has_of_subset hin hlow), ?_⟩, hsame⟩
  rw [hsame, beq_self_eq_true]

/-! ### The two instructions -/

/-- The combine of a fold (Table 5·6). -/
def Issue.foldOp (iss : Issue) (f : FX) : Nat → Nat → FpRes := xlOp (f.sub.toNat % 32) (foldLayout f) iss.rm

/-- The flags of the trees of a member set, all sub-elements together. -/
def Issue.treeFlags (iss : Issue) (f : FX) (ls : Lits) (m : Lanes) : List FpFlags :=
  (List.range (foldLayout f).n).flatMap fun k => (reduceTree (iss.foldOp f) (iss.memberVals f ls m k)).2

/-- The scan over a member set. -/
def Issue.scanOf (iss : Issue) (f : FX) (ls : Lits) (m : Lanes) (k : Nat) : List (Nat × FpFlags) × List FpFlags :=
  scanRun (iss.foldOp f) (f.sub.getLsbD 5) (scanIdentity (f.sub.toNat % 32) (foldLayout f)) (iss.memberVals f ls m k)

section
variable {s : State} {iss : Issue} {rest : List Issue} {f : FX} {ls : Lits}

theorem Issue.treeFlags_eq_zero (h : ∀ x y, (iss.foldOp f x y).fl = 0) (m : Lanes) : ∀ x ∈ iss.treeFlags f ls m, x = 0 := by
  intro x hx
  obtain ⟨k, -, hk⟩ := List.mem_flatMap.mp hx
  exact reduceTree_flags h _ x hk

variable (hmask : ∀ l, iss.lanes.has l = true → (iss.mask f ls l).has l = true ∧ iss.mask f ls l &&& ~~~iss.lanes = 0)
  (hagree : ∀ l j, iss.lanes.has l = true → (iss.mask f ls l).has j = true → iss.mask f ls j = iss.mask f ls l)
include hmask hagree

theorem xlFault_fold_eq_none (L : Layout) (l : Nat) (hl : iss.lanes.has l = true) : iss.xlFault true L f ls l = none :=
  Issue.xlFault_eq_none (hmask l hl).1 (hmask l hl).2 (fun _ j hj => hagree l j hl hj) nofun

variable (hrun : s.issuing = iss :: rest)
include hrun

/-- xl.red writes the value of the tree; it raises no flag when no combine of a member set does, and otherwise in every member those of
its set (R117). -/
theorem writesX_xlRed :
    ∃ es, WritesX (.xlRed f ls) s iss f ls (foldLayout f)
        (fun l k => (reduceTree (iss.foldOp f) (iss.memberVals f ls (iss.mask f ls l) k)).1) es ∧
      ((∀ x y, (iss.foldOp f x y).fl = 0) → es = []) ∧
      (es = [] ∧ (∀ l, iss.lanes.has l = true → orAll (iss.treeFlags f ls (iss.mask f ls l)) = 0) ∨
        ∃ c, es = [.orFlags iss.lanes (iss.lanesOf fun l => (orAll (iss.treeFlags f ls (iss.mask f ls l))).zeroExtend 64), .count c]) := by
  have hexec : exec (.xlRed f ls) s = execXlRed f ls s := rfl
  refine ⟨_, writesX_of_holds (hexec.trans (xlRun_of_passes hrun (xlFault_fold_eq_none hmask hagree _) _))
    (Issue.holds_join (foldLayout_fits f) fun l k _ _ => rfl), fun hzero => if_pos (beq_iff_eq.mpr (orAll_eq_zero_iff.mpr fun x hx => ?_)), ?_⟩
  · obtain ⟨m, -, hm⟩ := List.mem_flatMap.mp hx
    exact Issue.treeFlags_eq_zero hzero m x hm
  · by_cases hall : orAll ((iss.memberSets f ls).flatMap (iss.treeFlags f ls)) = 0
    · refine .inl ⟨if_pos (beq_iff_eq.mpr hall), fun l hl => orAll_eq_zero_iff.mpr fun x hx => ?_⟩
      have hmem := Issue.mask_mem_memberSets (hmask l hl).1 (hmask l hl).2 (hagree l · hl)
      exact orAll_eq_zero_iff.mp hall x (List.mem_flatMap.mpr ⟨_, hmem, hx⟩)
    · exact .inr ⟨_, if_neg (mt beq_iff_eq.mp hall)⟩

/-- xl.scan writes each member's value of the sequence (R118). -/
theorem writesX_xlScan :
    ∃ es, ((∀ x y, (iss.foldOp f x y).fl = 0) → es = []) ∧ WritesX (.xlScan f ls) s iss f ls (foldLayout f)
      (fun l k => (((iss.scanOf f ls (iss.mask f ls l) k).1).getD ((Lanes.list (iss.mask f ls l)).idxOf l) (0, 0)).1) es := by
  have hexec : exec (.xlScan f ls) s = execXlScan f ls s := rfl
  refine ⟨_, fun hzero => if_pos (beq_iff_eq.mpr (orAll_eq_zero_iff.mpr fun x hx => ?_)),
    writesX_of_holds (hexec.trans (xlRun_of_passes hrun (xlFault_fold_eq_none hmask hagree _) _))
      (Issue.holds_join (foldLayout_fits f) fun l k _ _ => rfl)⟩
  obtain ⟨m, -, hm⟩ := List.mem_flatMap.mp hx
  obtain ⟨k, -, hk⟩ := List.mem_flatMap.mp hm
  exact scanRun_flags hzero _ _ _ x hk

end

end Sys2Proof.Machine

namespace Sys2Proof

open Sys2Proof.Machine

/-- Settles O13: the tree of an integer operation by its associativity, the tree of a float operation as it stands, the sequence by the
fold of its first members. -/
theorem crossLaneFoldResults : Obligations.CrossLaneFoldResults := by
  unfold Obligations.CrossLaneFoldResults
  intro s iss f ls ⟨rest, hrun⟩ L op m xs tree two fold hmask hagree
  have htwo : two = fun x y => (iss.foldOp f x y).bits := by
    funext x y
    simp only [two, op, Issue.foldOp]
    match f.sub.toNat % 32 with
    | 0 | 1 | 2 | 3 | 4 | 5 | 6 | 7 | _ + 8 => rfl
  have hfold : ∀ ys, fold ys = foldBits (iss.foldOp f) ys := fun ys => by
    simp only [fold, htwo, foldBits]
  have hplace : ∀ l k, iss.lanes.has l = true → (Lanes.list (m l)).idxOf l < (xs l k).length := fun l k hl =>
    iss.idxOf_lt_memberVals f ls (hmask l hl).1 k
  obtain ⟨es, hred, hquiet, hflags⟩ := writesX_xlRed hmask hagree hrun
  obtain ⟨es', hquiet', hscan⟩ := writesX_xlScan hmask hagree hrun
  refine ⟨fun hop => ?integer, fun _ => ⟨es, hred, hflags⟩, fun hincl => ⟨es', fun hop => hquiet' (xlOp_fl hop _ _), ?inclusive⟩,
    fun hexcl => ⟨es', fun hop => hquiet' (xlOp_fl hop _ _), ?exclusive⟩⟩
  case integer =>
    rw [hquiet (xlOp_fl hop _ _)] at hred
    refine hred.congr fun l k _ _ => ?_
    rw [hfold]
    exact congrArg _ (reduceTree_value (xlOp_assoc hop _ _) (iss.memberVals_length_le f ls _ k))
  case inclusive =>
    refine hscan.congr fun l k hl _ => ?_
    rw [hfold, Issue.scanOf, hincl]
    exact congrArg _ (scanRun_inclusive _ _ (hplace l k hl))
  case exclusive =>
    refine hscan.congr fun l k hl _ => ?_
    rw [hfold, Issue.scanOf, hexcl]
    exact (congrArg _ (scanRun_exclusive _ _ (hplace l k hl))).trans (apply_ite Nat.cast _ _ _)

end Sys2Proof
end

section
/-!
PROOF. The module right after reset: what each store of the state gives back before anything has been written to it (R222, R320, R346, R378,
Table 16·5).
-/

namespace Sys2Proof

/-- A map without entries gives back the default. -/
theorem SMap.get_nil {α : Type} (k : Nat) (d : α) : SMap.get [] k d = d := rfl

end Sys2Proof

namespace Sys2Proof.Machine

/-! ### What reads find before any write -/

theorem State.reset_memoryCanonical : State.reset.MemoryCanonical := rfl

theorem State.reset_byteAt (a : Nat) : State.reset.byteAt a = 0 := rfl

theorem State.reset_tag (g : Nat) : State.reset.tag g = 0 := SMap.get_nil g 0

/-- A context never created has the record of a free one (R378). -/
theorem State.reset_ctx (c : Nat) : State.reset.ctx c = {} := SMap.get_nil c ({} : Ctx)

/-- A colour never used is idle (R346). -/
theorem State.reset_snap (c : Nat) : State.reset.snap c = {} := SMap.get_nil c ({} : Snap)

/-! ### The placement table (R320) -/

/-- Bit 16 of the entry that holds an identity as valid is set, whatever the identity. -/
theorem getLsbD_validEntry (x : BitVec 16) : (x.zeroExtend 32 ||| 0x10000#32).getLsbD 16 = true := by
  rw [BitVec.getLsbD_or, show (0x10000#32).getLsbD 16 = true from rfl, Bool.or_true]

/-- Only the entry of chip 0 is valid. -/
theorem State.reset_placement_valid (c : Nat) : (State.reset.placement c).getLsbD 16 = (c == 0) := by
  have hentry : State.reset.placement c = if c == 0 then Config.fabSelf.zeroExtend 32 ||| 0x10000#32 else 0#32 := SMap.get_nil c _
  rw [hentry]
  cases c == 0
  case true => exact getLsbD_validEntry Config.fabSelf
  case false => rfl

/-! ### The configuration registers (Table 16·5) -/

/-- A register never written reads the reset value of its row, as a 64-bit number; an unassigned one reads zero. -/
theorem State.reset_cfgVal (n : Nat) : State.reset.cfgVal n = (cfgInfo n).elim 0 fun i => i.reset % 2 ^ 64 := by
  unfold State.cfgVal
  cases cfgInfo n with
  | none => rfl
  | some i => exact BitVec.toNat_ofNat i.reset 64

end Sys2Proof.Machine

namespace Sys2Proof

open Sys2Proof.Machine

/-- Settles O54: every store is empty, so each read gives its default, and the table's rows give the registers. -/
theorem resetState : Obligations.ResetState := by
  unfold Obligations.ResetState
  refine ⟨State.reset_memoryCanonical, State.reset_byteAt, State.reset_tag, fun c => congrArg Ctx.status (State.reset_ctx c),
    rfl, rfl, rfl, rfl, rfl, rfl, fun c => congrArg Snap.state (State.reset_snap c), rfl, rfl, State.reset_placement_valid,
    fun k => SMap.get_nil k 0, fun k => ⟨SMap.get_nil k 0, SMap.get_nil k 0, SMap.get_nil k 0, SMap.get_nil k 0⟩, ?registers⟩
  case registers =>
    simp only [State.reset_cfgVal]
    decide

end Sys2Proof
end

section
/-!
PROOF. The floating-point instructions (R148 to R159) and the SFU instructions (R160 to R163): each computes one result for every lane and
sub-element, and its flags are those of the results computed.
-/

namespace Sys2Proof.Machine

/-! ### Sign operations (R150) -/

theorem floatLayout_pos (t : Nat) : 0 < (floatLayout t).w := by
  have hpos : 0 < (fmtOfCode t).w := by
    unfold fmtOfCode
    split <;> decide
  exact hpos

/-- Inverting the top bit of a number of k + 1 bits adds 2^k to it. -/
theorem xor_two_pow_mod (x k : Nat) : (x ^^^ 2 ^ k) % 2 ^ (k + 1) = (x + 2 ^ k) % 2 ^ (k + 1) := by
  have hpos : 0 < 2 ^ k := by positivity
  have hlow : (x ^^^ 2 ^ k) % 2 ^ k = (x + 2 ^ k) % 2 ^ k := by
    rw [Nat.xor_mod_two_pow, Nat.mod_self, Nat.xor_zero, Nat.add_mod_right]
  have htop : (x ^^^ 2 ^ k) / 2 ^ k % 2 = (x + 2 ^ k) / 2 ^ k % 2 := by
    rw [Nat.xor_div_two_pow, Nat.div_self hpos, Nat.xor_mod_two_eq, Nat.add_div_right x hpos]
  rw [Nat.mod_pow_succ, Nat.mod_pow_succ, hlow, htop]

theorem xor_signBit_modEq {w : Nat} (hw : 0 < w) (x : Nat) : ((x ^^^ 2 ^ (w - 1) : Nat) : Int) ≡ x + 2 ^ (w - 1) [ZMOD 2 ^ w] := by
  obtain ⟨k, rfl⟩ := Nat.exists_eq_succ_of_ne_zero hw.ne'
  exact_mod_cast xor_two_pow_mod x k

/-! ### Results and flags (R141, R147) -/

/-- Results that raise no flag have no flag effect. -/
theorem flagEffects_eq_nil {lanes : Lanes} {f : Nat → List FpFlags} (h : ∀ l, ∀ x ∈ f l, x = 0) : flagEffects lanes f = [] := by
  refine if_pos (beq_iff_eq.mpr (orAll_eq_zero_iff.mpr fun x hx => ?_))
  obtain ⟨l, -, hl⟩ := List.mem_flatMap.mp hx
  exact h l x hl

section
variable {i : Instr} {s : State} {iss : Issue} {f : FA} {ls : Lits} {D : Layout} {r : Nat → Nat → FpRes}

/-- A floating-point meaning that computes n sub-elements writes their results, zero beyond them, and raises their flags. -/
theorem writesA_writeF {n : Nat} (hD : D.w * D.n ≤ 64) (h : exec i s = s.writeF iss f ls D n r) :
    WritesA i s iss f ls D (fun l k => if k < n then (r l k).bits else 0)
      (flagEffects iss.lanes fun l => (List.range n).map fun k => (r l k).fl) :=
  writesA_of_holds h (Issue.holds_join hD fun _ _ _ _ => congrArg (· % _) (apply_ite Nat.cast _ _ _))

/-- One that computes every sub-element of its layout writes every result. -/
theorem writesA_writeF_all (hD : D.w * D.n ≤ 64) (h : exec i s = s.writeF iss f ls D D.n r) :
    WritesA i s iss f ls D (fun l k => (r l k).bits) (flagEffects iss.lanes fun l => (List.range D.n).map fun k => (r l k).fl) :=
  writesA_of_holds h (Issue.holds_join hD fun _ _ _ hk => by rw [if_pos hk])

/-- One whose results raise no flag holds back the register write alone. -/
theorem writesA_writeF_quiet {v : Nat → Nat → Int} (hD : D.w * D.n ≤ 64) (h : exec i s = s.writeF iss f ls D D.n r)
    (hfl : ∀ l k, (r l k).fl = 0) (hv : ∀ l k, ((r l k).bits : Int) ≡ v l k [ZMOD 2 ^ D.w]) : WritesA i s iss f ls D v := by
  have hnone : (flagEffects iss.lanes fun l => (List.range D.n).map fun k => (r l k).fl) = [] :=
    flagEffects_eq_nil fun l => List.forall_mem_map.mpr fun k _ => hfl l k
  rw [State.writeF, hnone] at h
  exact writesA_of_holds h (Issue.holds_join hD fun l k _ hk => by rw [if_pos hk]; exact hv l k)

variable {rest : List Issue} (hrun : s.issuing = iss :: rest)
include hrun

/-- An operation of one operand ends with its result on every sub-element. -/
theorem fpu1_eq (op : FpFmt → RMode → Nat → FpRes) :
    fpu1 op f ls s = s.writeF iss f ls (floatLayout f.t.toNat) (floatLayout f.t.toNat).n fun l k =>
      op (fmtOfCode f.t.toNat) iss.rm (iss.subA f ls (floatLayout f.t.toNat) l k) :=
  State.withIssue_cons _ hrun

/-- An operation of two operands. -/
theorem fpu2_eq (op : FpFmt → RMode → Nat → Nat → FpRes) :
    fpu2 op f ls s = s.writeF iss f ls (floatLayout f.t.toNat) (floatLayout f.t.toNat).n fun l k =>
      op (fmtOfCode f.t.toNat) iss.rm (iss.subA f ls (floatLayout f.t.toNat) l k) (iss.subB f ls (floatLayout f.t.toNat) l k) :=
  State.withIssue_cons _ hrun

end

/-! ### The SFU queue (R160) -/

/-- What an SFU instruction holds back: at commit its lane results, the flags of each lane and their counts go to the core's queue for
register d. -/
def Issue.sfuEffect (iss : Issue) (i : Instr) (L : Layout) (d : BitVec 7) (r : Nat → Nat → FpRes) : Effect :=
  let fl := fun l => (List.range L.n).map fun k => (r l k).fl
  .act i iss.idx iss.lanes (iss.lanesOf fun l => L.join fun k => (r l k).bits) (iss.lanesOf fun l => (orAll (fl l)).zeroExtend 64) []
    (d.toNat :: countFlags ((Lanes.list iss.lanes).flatMap fl))

section
variable {i : Instr} {s : State} {iss : Issue} {rest : List Issue} (hrun : s.issuing = iss :: rest)
include hrun

theorem completes_sfuExec {L : Layout} {d : BitVec 7} {n : Nat} {res : Issue → Nat → Nat → FpRes} (h : exec i s = sfuExec i L d n res s) :
    Completes i s iss n [iss.sfuEffect i L d (res iss)] :=
  h.trans (State.withIssue_cons _ hrun)

/-- A one-operand SFU function queues its value of every sub-element of a (R163). -/
theorem completes_sfuUnary {fn : SfuFn} {f : FA} {ls : Lits} (h : exec i s = sfuUnary i fn f ls s) :
    Completes i s iss (1 + ls.length) [iss.sfuEffect i (floatLayout f.t.toNat) f.d fun l k =>
      (fmtOfCode f.t.toNat).sfu fn iss.rm (iss.subA f ls (floatLayout f.t.toNat) l k)] :=
  completes_sfuExec hrun (res := fun iss l k => (fmtOfCode f.t.toNat).sfu fn iss.rm (iss.subA f ls (floatLayout f.t.toNat) l k)) h

end

end Sys2Proof.Machine

namespace Sys2Proof

open Sys2Proof.Machine

/-- Settles O8: clearing the top bit is the remainder modulo 2^(w − 1), inverting it adds 2^(w − 1) modulo 2^w. -/
theorem signOperationsMoveBitsAndSetNoFlag : Obligations.SignOperationsMoveBitsAndSetNoFlag := by
  unfold Obligations.SignOperationsMoveBitsAndSetNoFlag
  intro s iss f ls ⟨rest, hrun⟩ L
  have hL : L.w * L.n ≤ 64 := floatLayout_fits _
  refine ⟨?fabs, ?fneg⟩
  case fabs =>
    refine writesA_writeF_quiet hL ((exec_fabs f ls s).trans (fpu1_eq hrun _)) (fun _ _ => rfl) fun l k => ?_
    exact congrArg (· % _) (by push_cast; rfl)
  case fneg =>
    refine writesA_writeF_quiet hL ((exec_fneg f ls s).trans (fpu1_eq hrun _)) (fun _ _ => rfl) fun l k => ?_
    exact xor_signBit_modEq (floatLayout_pos _) _

/-- Settles O9: each instruction writes the results of its operation on every sub-element, fcmp its conditions. -/
theorem floatArithmeticResults : Obligations.FloatArithmeticResults := by
  unfold Obligations.FloatArithmeticResults
  intro s iss f ls ⟨rest, hrun⟩ L F a b writes
  have hL : L.w * L.n ≤ 64 := floatLayout_fits _
  refine ⟨?fadd, ?fsub, ?fmul, ?ffma, ?fmin, ?fmax, ?fminn, ?fmaxn, ?fclass, ?frnd, ?fscl, ?fexpo, ?fcmp⟩
  case fadd => exact writesA_writeF_all hL ((exec_fadd f ls s).trans (fpu2_eq hrun _))
  case fsub => exact writesA_writeF_all hL ((exec_fsub f ls s).trans (fpu2_eq hrun _))
  case fmul => exact writesA_writeF_all hL ((exec_fmul f ls s).trans (fpu2_eq hrun _))
  case ffma => exact writesA_writeF_all hL ((exec_ffma f ls s).trans (State.withIssue_cons _ hrun))
  case fmin => exact writesA_writeF_all hL ((exec_fmin f ls s).trans (fpu2_eq hrun _))
  case fmax => exact writesA_writeF_all hL ((exec_fmax f ls s).trans (fpu2_eq hrun _))
  case fminn => exact writesA_writeF_all hL ((exec_fminn f ls s).trans (fpu2_eq hrun _))
  case fmaxn => exact writesA_writeF_all hL ((exec_fmaxn f ls s).trans (fpu2_eq hrun _))
  case fclass => exact writesA_writeF_all hL ((exec_fclass f ls s).trans (fpu1_eq hrun _))
  case frnd => exact writesA_writeF_all hL ((exec_frnd f ls s).trans (fpu1_eq hrun _))
  case fscl => exact writesA_writeF_all hL ((exec_fscl f ls s).trans (State.withIssue_cons _ hrun))
  case fexpo => exact writesA_writeF_all hL ((exec_fexpo f ls s).trans (fpu1_eq hrun _))
  case fcmp =>
    refine ⟨_, (exec_fcmp f ls s).trans (State.withIssue_cons _ hrun), fun l hl k hk => ?_⟩
    rw [iss.at_lanesOf _ hl]
    exact predOf_getLsbD _ _ (by omega)

/-- Settles O10: each conversion computes the sub-elements that both layouts have. -/
theorem conversionResults : Obligations.ConversionResults := by
  unfold Obligations.ConversionResults
  intro s iss f ls ⟨rest, hrun⟩ md c writes D I S J
  refine ⟨?fcvt, ?fcvti, ?icvtf⟩
  case fcvt => exact writesA_writeF (floatLayout_fits _) ((exec_fcvt f ls s).trans (State.withIssue_cons _ hrun))
  case fcvti => exact writesA_writeF (intLayout_fits _) ((exec_fcvti f ls s).trans (State.withIssue_cons _ hrun))
  case icvtf => exact writesA_writeF (floatLayout_fits _) ((exec_icvtf f ls s).trans (State.withIssue_cons _ hrun))

/-- Settles O11: every SFU instruction holds back its one effect on the queue. -/
theorem sfuInstructionsQueueTheirResults : Obligations.SfuInstructionsQueueTheirResults := by
  unfold Obligations.SfuInstructionsQueueTheirResults
  intro s iss f ls ⟨rest, hrun⟩ L F queues one
  refine ⟨?fdiv, ?frcp, ?frsq, ?fsqrt, ?fexp2, ?flog2, ?fexp, ?fsinpi, ?fcospi, ?ftanh⟩
  case fdiv =>
    exact completes_sfuExec (res := fun iss l k => F.divVal iss.rm (F.val (iss.subA f ls L l k)) (F.val (iss.subB f ls L l k))) hrun
      (exec_fdiv f ls s)
  case frcp => exact completes_sfuUnary hrun (exec_frcp f ls s)
  case frsq => exact completes_sfuUnary hrun (exec_frsq f ls s)
  case fsqrt => exact completes_sfuUnary hrun (exec_fsqrt f ls s)
  case fexp2 => exact completes_sfuUnary hrun (exec_fexp2 f ls s)
  case flog2 => exact completes_sfuUnary hrun (exec_flog2 f ls s)
  case fexp => exact completes_sfuUnary hrun (exec_fexp f ls s)
  case fsinpi => exact completes_sfuUnary hrun (exec_fsinpi f ls s)
  case fcospi => exact completes_sfuUnary hrun (exec_fcospi f ls s)
  case ftanh => exact completes_sfuUnary hrun (exec_ftanh f ls s)

end Sys2Proof
end

section
/-!
PROOF. Accesses held back until their clause commits (R178, R180, R183 to R187, R190 to R193, R242): what the checks of some lanes give is
said once, for checks that answer from the state as it stands, and each instruction that accesses memory or a window ends by it.
-/

namespace Sys2Proof

/-- A value in the lanes of a set, zero elsewhere. -/
def Lanes.vals (lanes : Lanes) (x : Nat → Word) : LaneVals := LaneVals.of fun l => if lanes.has l then x l else 0

end Sys2Proof

namespace Sys2Proof.Machine

/-! ### What the checks of some lanes give -/

/-- The checks of a set of lanes, in ascending order. -/
def checksOf (lanes : Lanes) (r : Nat → LaneCheck) : List (Nat × LaneCheck) := (Lanes.list lanes).map fun l => (l, r l)

/-- The set of one lane lists that lane. -/
theorem Lanes.list_single {l : Nat} (h : l < 32) : Lanes.list (Lanes.of (· == l)) = [l] := by
  have hhas : ∀ k ∈ List.range 32, (Lanes.of (· == l)).has k = (k == l) := fun k hk => by
    simp [List.mem_range.mp hk]
  rw [Lanes.list, show (fun k => (Lanes.of (· == l)).getLsbD k) = (Lanes.of (· == l)).has from rfl, List.filter_congr hhas,
    List.filter_beq, List.count_eq_one_of_mem List.nodup_range (List.mem_range.mpr h)]
  rfl

theorem lowestLane_lt (x : Lanes) : lowestLane x < 32 := by
  unfold lowestLane
  cases h : Lanes.list x with
  | nil => decide
  | cons l ls => exact Lanes.has_lt (Lanes.mem_list.mp (h ▸ List.mem_cons_self))

/-- Checks that leave the state as it is give each lane's result. -/
theorem State.checkLanes_eq {s : State} {f : State → Nat → LaneCheck × State} {r : Nat → LaneCheck} {lanes : Lanes}
    (h : ∀ l, lanes.has l = true → f s l = (r l, s)) : s.checkLanes (Lanes.list lanes) f = (checksOf lanes r, s) := by
  have hfold : ∀ (ls : List Nat) (acc : List (Nat × LaneCheck)), (∀ l ∈ ls, f s l = (r l, s)) →
      ls.foldl (fun p l => let (r, s) := f p.2 l; (p.1 ++ [(l, r)], s)) (acc, s) = (acc ++ ls.map fun l => (l, r l), s) := by
    intro ls
    induction ls with
    | nil => simp
    | cons l ls ih =>
      intro acc hls
      obtain ⟨hl, hrest⟩ := List.forall_mem_cons.mp hls
      simp only [List.foldl_cons, hl, ih _ hrest, List.map_cons, List.append_assoc, List.singleton_append]
  exact hfold _ [] fun l hl => h l (Lanes.mem_list.mp hl)

/-- The check of a lane among those of a set. -/
theorem find?_checksOf (lanes : Lanes) (r : Nat → LaneCheck) (l : Nat) :
    (checksOf lanes r).find? (fun p => p.1 == l) = if lanes.has l then some (l, r l) else none := by
  split
  case isTrue hl =>
    cases hf : (checksOf lanes r).find? fun p => p.1 == l with
    | none => simpa using List.find?_eq_none.mp hf (l, r l) (List.mem_map_of_mem (Lanes.mem_list.mpr hl))
    | some p =>
      obtain ⟨k, -, rfl⟩ := List.mem_map.mp (List.mem_of_find?_eq_some hf)
      obtain rfl : k = l := by simpa using List.find?_some hf
      rfl
  case isFalse hl =>
    refine List.find?_eq_none.mpr fun p hp => ?_
    obtain ⟨k, hk, rfl⟩ := List.mem_map.mp hp
    intro he
    obtain rfl : k = l := by simpa using he
    exact hl (Lanes.mem_list.mp hk)

section
variable {lanes : Lanes} {r : Nat → LaneCheck} {ok : Nat → Bool} {va pa : Nat → Nat} {pte : Nat → BitVec 64} {bad : Nat → FaultCode}
  (h : ∀ l, lanes.has l = true → r l = if ok l then .ok (va l) (pa l) (pte l) else .fail (bad l) (va l))
include h

/-- Checks that pass or fail wait for no grain. -/
theorem awaited_checks : awaited (checksOf lanes r) = none := by
  refine List.findSome?_eq_none_iff.mpr fun p hp => ?_
  obtain ⟨l, hl, rfl⟩ := List.mem_map.mp hp
  rw [h l (Lanes.mem_list.mp hl)]
  cases ok l <;> rfl

theorem okLanes_checks : okLanes (checksOf lanes r) = Lanes.of fun l => lanes.has l && ok l := by
  refine congrArg Lanes.of (funext fun l => Bool.eq_iff_iff.mpr ?_)
  rw [List.any_eq_true, Bool.and_eq_true]
  constructor
  · rintro ⟨p, hp, he⟩
    obtain ⟨k, hk, rfl⟩ := List.mem_map.mp hp
    obtain ⟨hkl, hpass⟩ := Bool.and_eq_true_iff.mp he
    obtain rfl : k = l := by simpa using hkl
    have hl := Lanes.mem_list.mp hk
    rw [h k hl] at hpass
    cases hok : ok k
    · simp [hok] at hpass
    · exact ⟨hl, rfl⟩
  · rintro ⟨hl, hok⟩
    exact ⟨(l, r l), List.mem_map_of_mem (Lanes.mem_list.mpr hl), by simp [h l hl, hok]⟩

/-- The values of the lanes that pass. -/
theorem laneWord_checks (f : Nat → Nat → BitVec 64 → Nat) :
    laneWord (checksOf lanes r) f =
      (Lanes.of fun l => lanes.has l && ok l).vals fun l => BitVec.ofNat 64 (f (va l) (pa l) (pte l)) := by
  unfold laneWord Lanes.vals LaneVals.of
  refine List.map_congr_left fun l hl => ?_
  simp only [find?_checksOf, Lanes.has_of, List.mem_range.mp hl, decide_true, Bool.true_and]
  by_cases hhas : lanes.has l = true
  · rw [h l hhas]
    cases ok l <;> simp [hhas]
  · simp [hhas]

end

/-- Checks that all pass have no failure. -/
theorem failures_checks {lanes : Lanes} {r : Nat → LaneCheck} {va pa : Nat → Nat} {pte : Nat → BitVec 64}
    (h : ∀ l, lanes.has l = true → r l = .ok (va l) (pa l) (pte l)) (excuse : Bool) : failures excuse (checksOf lanes r) = [] := by
  refine List.filterMap_eq_nil_iff.mpr fun p hp => ?_
  obtain ⟨l, hl, rfl⟩ := List.mem_map.mp hp
  rw [h l (Lanes.mem_list.mp hl)]

/-- An access whose checks pass in every lane is held back, with each lane's addresses and leaf. -/
theorem State.endAccess_ok {lanes : Lanes} {r : Nat → LaneCheck} {va pa : Nat → Nat} {pte : Nat → BitVec 64}
    (h : ∀ l, lanes.has l = true → r l = .ok (va l) (pa l) (pte l)) (s : State) (iss : Issue) (words : Nat) (i : Instr) (excuse : Bool)
    (n : List Nat) (more : List Effect) : s.endAccess iss words i (checksOf lanes r) excuse n more =
      s.finish iss words (.act i iss.idx lanes (lanes.vals fun l => BitVec.ofNat 64 (va l)) (lanes.vals fun l => BitVec.ofNat 64 (pa l))
        (lanes.vals pte) n :: more) := by
  -- no lane fails, so the code of one that does may be any
  have hok : ∀ l, lanes.has l = true → r l = if true then .ok (va l) (pa l) (pte l) else .fail .bufBounds (va l) := h
  have hall : (Lanes.of fun l => lanes.has l && true) = lanes := Lanes.of_has_and_eq_self fun _ _ => rfl
  rw [State.endAccess, awaited_checks (ok := fun _ => true) hok, failures_checks h]
  simp only [okLanes_checks (ok := fun _ => true) hok, laneWord_checks (ok := fun _ => true) hok, hall, BitVec.ofNat_toNat,
    BitVec.setWidth_eq, firstFailure]

/-- An access whose checks fail with one code in every lane raises it in all of them (R48). -/
theorem State.endAccess_fail {lanes : Lanes} {r : Nat → LaneCheck} {c : FaultCode} {va : Nat} (hne : lanes ≠ 0)
    (h : ∀ l, lanes.has l = true → r l = .fail c va) (s : State) (iss : Issue) (words : Nat) (i : Instr) (excuse : Bool) (n : List Nat)
    (more : List Effect) : s.endAccess iss words i (checksOf lanes r) excuse n more = .next (s.raise iss c lanes va) := by
  have hbad : ∀ l, lanes.has l = true → r l = if false then .ok 0 0 0 else .fail c va := h
  have hall : (Lanes.of fun l => lanes.has l && true) = lanes := Lanes.of_has_and_eq_self fun _ _ => rfl
  have hfirst : firstFailure (failures excuse (checksOf lanes r)) = some (c, lanes, va) := by
    rw [failures, checksOf, List.filterMap_map]
    refine (firstFailure_one_code (c := c) (va := va) (q := fun _ => true) fun l hl => ?_).trans ?_
    · simp [h l hl]
    · rw [hall, if_neg hne]
  rw [State.endAccess, awaited_checks (ok := fun _ => false) (va := fun _ => va) (pa := fun _ => 0) (pte := fun _ => 0) (bad := fun _ => c) hbad,
    hfirst]
  rfl

/-- The access of one lane. -/
theorem State.endAccess_one {l : Nat} (hl : l < 32) (va pa : Nat) (pte : BitVec 64) (s : State) (iss : Issue) (words : Nat) (i : Instr)
    (n : List Nat) : s.endAccess iss words i [(l, .ok va pa pte)] false n [] =
      s.finish iss words [.act i iss.idx (Lanes.of (· == l)) (LaneVals.of fun k => if k = l then BitVec.ofNat 64 va else 0)
        (LaneVals.of fun k => if k = l then BitVec.ofNat 64 pa else 0) (LaneVals.of fun k => if k = l then pte else 0) n] := by
  have hvals (x : Word) : (Lanes.of (· == l)).vals (fun _ => x) = LaneVals.of fun k => if k = l then x else 0 :=
    List.map_congr_left fun k hk => by simp [List.mem_range.mp hk]
  have hchecks : checksOf (Lanes.of (· == l)) (fun _ => .ok va pa pte) = [(l, .ok va pa pte)] := by rw [checksOf, Lanes.list_single hl]; rfl
  rw [← hchecks, State.endAccess_ok fun _ _ => rfl]
  simp only [hvals]

/-! ### Loads, stores and tag reads (R183, R184, R242) -/

section
variable {s : State} {iss : Issue} {rest : List Issue} (hrun : s.issuing = iss :: rest) (f : FM) (ls : Lits) {va pa : Nat → Nat}
  {pte : Nat → BitVec 64}
include hrun

theorem execLd_eq (h : ∀ l, iss.lanes.has l = true →
      s.checkAccess iss (iss.hreg f.h.toNat) (offsetOf (iss.off f ls l) f.imm (2 ^ f.t.toNat)) (2 ^ f.t.toNat) [0] [] .load f.scope.toNat =
        (.ok (va l) (pa l) (pte l), s)) : execLd f ls s =
    s.finish iss (2 + ls.length) (.act (.ld f ls) iss.idx iss.lanes (iss.lanes.vals fun l => BitVec.ofNat 64 (va l))
        (iss.lanes.vals fun l => BitVec.ofNat 64 (pa l)) (iss.lanes.vals pte) [] ::
      (if f.re == 1 then [.k f.rk.toNat iss.lanes (iss.lanes.vals fun _ => 0xFFFF)] else [])) := by
  have hok : okLanes (checksOf iss.lanes fun l => .ok (va l) (pa l) (pte l)) = iss.lanes :=
    (okLanes_checks (ok := fun _ => true) (bad := fun _ => .bufBounds) fun _ _ => rfl).trans (Lanes.of_has_and_eq_self fun _ _ => rfl)
  rw [execLd, State.withIssue_cons _ hrun]
  dsimp only
  rw [State.checkLanes_eq (r := fun l => .ok (va l) (pa l) (pte l)) h, hok]
  exact State.endAccess_ok (fun _ _ => rfl) ..

theorem execSt_eq (h : ∀ l, (iss.acting f.ge f.gn f.gk).has l = true →
      s.checkAccess iss (iss.hreg f.h.toNat) (offsetOf (iss.off f ls l) f.imm (2 ^ f.t.toNat)) (2 ^ f.t.toNat) [1] [] .store f.scope.toNat =
        (.ok (va l) (pa l) (pte l), s)) : execSt f ls s =
    s.finish iss (2 + ls.length) [.act (.st f ls) iss.idx (iss.acting f.ge f.gn f.gk)
      ((iss.acting f.ge f.gn f.gk).vals fun l => BitVec.ofNat 64 (va l)) ((iss.acting f.ge f.gn f.gk).vals fun l => BitVec.ofNat 64 (pa l))
      ((iss.acting f.ge f.gn f.gk).vals pte) ((List.range 32).map (iss.storeData f ls))] := by
  rw [execSt, State.withIssue_cons _ hrun]
  dsimp only
  rw [State.checkLanes_eq (r := fun l => .ok (va l) (pa l) (pte l)) h]
  exact State.endAccess_ok (fun _ _ => rfl) ..

theorem execWsstate_eq (h : ∀ l, iss.lanes.has l = true → pteClass (pte l) = 2 ∧
      s.checkAccess iss (iss.hreg f.h.toNat) (offsetOf (iss.off f ls l) f.imm 1) 1 [0] [] (.await false) 0 =
        (.ok (va l) (pa l) (pte l), s)) : execWsstate f ls s =
    s.finish iss (2 + ls.length) [.act (.wsstate f ls) iss.idx iss.lanes (iss.lanes.vals fun l => BitVec.ofNat 64 (va l))
      (iss.lanes.vals fun l => BitVec.ofNat 64 (pa l)) (iss.lanes.vals pte) []] := by
  rw [execWsstate, State.withIssue_cons _ hrun]
  dsimp only
  rw [State.checkLanes_eq (r := fun l => .ok (va l) (pa l) (pte l)) fun l hl => ?_]
  · exact State.endAccess_ok (fun _ _ => rfl) ..
  · obtain ⟨hclass, hcheck⟩ := h l hl
    simp [hcheck, hclass]

/-- pf requests the lanes that pass and is silent about the others (R187). -/
theorem execPf_eq {ok : Nat → Bool} {bad : Nat → FaultCode} (h : ∀ l, iss.lanes.has l = true →
      s.checkAccess iss (iss.hreg f.h.toNat) (offsetOf (iss.off f ls l) f.imm (2 ^ f.t.toNat)) (2 ^ f.t.toNat) [0] [] .load 0 =
        (if ok l then .ok (va l) (pa l) (pte l) else .fail (bad l) (va l), s)) : execPf f ls s =
    s.finish iss (2 + ls.length) [.act (.pf f ls) iss.idx (Lanes.of fun l => iss.lanes.has l && ok l)
      ((Lanes.of fun l => iss.lanes.has l && ok l).vals fun l => BitVec.ofNat 64 (va l))
      ((Lanes.of fun l => iss.lanes.has l && ok l).vals fun l => BitVec.ofNat 64 (pa l))
      ((Lanes.of fun l => iss.lanes.has l && ok l).vals pte) []] := by
  have hr : ∀ l, iss.lanes.has l = true → (if ok l then LaneCheck.ok (va l) (pa l) (pte l) else .fail (bad l) (va l)) =
      if ok l then .ok (va l) (pa l) (pte l) else .fail (bad l) (va l) := fun _ _ => rfl
  rw [execPf, State.withIssue_cons _ hrun]
  dsimp only
  rw [State.checkLanes_eq (r := fun l => if ok l then .ok (va l) (pa l) (pte l) else .fail (bad l) (va l)) h]
  simp only [awaited_checks hr, okLanes_checks hr, laneWord_checks hr, BitVec.ofNat_toNat, BitVec.setWidth_eq]

theorem orderExec_eq (i : Instr) :
    orderExec i ls s = s.finish iss (2 + ls.length) [.act i iss.idx iss.lanes [] [] [] []] := by
  rw [orderExec, State.withIssue_cons _ hrun]

end

/-! ### Typed buffers (R180, R186) -/

theorem bufCheck_inside {t : Team} {space : Nat} {a : Int} {z : Nat} (h0 : 0 ≤ a) (hend : a + z ≤ t.window space) (halign : a % z = 0) :
    bufCheck t space a z = .ok 0 a.toNat 0 := by
  rw [bufCheck, if_neg (by simp; omega), if_neg (by simp [halign])]

theorem bufCheck_outside {t : Team} {space : Nat} {a : Int} {z : Nat} (h : a < 0 ∨ (t.window space : Int) < a + z) :
    bufCheck t space a z = .fail .bufBounds 0 := by
  rw [bufCheck, if_pos (by simpa using h)]

section
variable {s : State} {iss : Issue} {rest : List Issue} (hrun : s.issuing = iss :: rest) (i : Instr) (f : FM) (ls : Lits) (space : Nat)
  (lanes : Issue → Lanes) (data : Issue → List Nat)
include hrun

theorem bufExec_eq : bufExec i f ls space lanes data s =
    s.endAccess iss (2 + ls.length) i
      (checksOf (lanes iss) fun l => bufCheck (s.teamOf iss.gid) space (iss.bufAddr f ls l) (2 ^ f.t.toNat)) false (data iss) [] := by
  rw [bufExec, State.withIssue_cons _ hrun]
  rfl

/-- A typed-buffer access that lies in the window in every acting lane is held back. -/
theorem bufExec_inside (h : ∀ l, (lanes iss).has l = true → 0 ≤ iss.bufAddr f ls l ∧
      iss.bufAddr f ls l + (2 ^ f.t.toNat : Nat) ≤ (s.teamOf iss.gid).window space ∧ iss.bufAddr f ls l % (2 ^ f.t.toNat : Nat) = 0) :
    bufExec i f ls space lanes data s = s.finish iss (2 + ls.length) [.act i iss.idx (lanes iss) ((lanes iss).vals fun _ => 0)
      ((lanes iss).vals fun l => BitVec.ofNat 64 (iss.bufAddr f ls l).toNat) ((lanes iss).vals fun _ => 0) (data iss)] := by
  rw [bufExec_eq hrun]
  refine State.endAccess_ok (va := fun _ => 0) (pte := fun _ => 0) (fun l hl => ?_) ..
  obtain ⟨h0, hend, halign⟩ := h l hl
  exact bufCheck_inside h0 hend halign

/-- One that lies outside it in every acting lane raises BUF_BOUNDS in them all. -/
theorem bufExec_outside (hne : lanes iss ≠ 0) (h : ∀ l, (lanes iss).has l = true → iss.bufAddr f ls l < 0 ∨
      ((s.teamOf iss.gid).window space : Int) < iss.bufAddr f ls l + (2 ^ f.t.toNat : Nat)) :
    bufExec i f ls space lanes data s = .next (s.raise iss .bufBounds (lanes iss)) := by
  rw [bufExec_eq hrun]
  exact State.endAccess_fail hne (fun l hl => bufCheck_outside (h l hl)) ..

end

end Sys2Proof.Machine

namespace Sys2Proof

open Sys2Proof.Machine

/-- Settles O14: the checks of every lane answer from the state as it stands, so the access of all acting lanes is held back. -/
theorem loadsAndStoresHoldBackTheirAccess : Obligations.LoadsAndStoresHoldBackTheirAccess := by
  unfold Obligations.LoadsAndStoresHoldBackTheirAccess
  rintro s iss f ls ⟨rest, hrun⟩ h z e acts on va pa pte
  exact ⟨fun hld => (exec_ld f ls s).trans (execLd_eq hrun f ls hld), fun hst => (exec_st f ls s).trans (execSt_eq hrun f ls hst),
    fun hws => (exec_wsstate f ls s).trans (execWsstate_eq hrun f ls hws)⟩

/-- Settles O17: the four instructions are one typed-buffer access, by its two cases. -/
theorem typedBufferAccessesStayInTheirWindow : Obligations.TypedBufferAccessesStayInTheirWindow := by
  unfold Obligations.TypedBufferAccessesStayInTheirWindow
  rintro s iss f ls ⟨rest, hrun⟩ z a acts on inside outside held data
  refine ⟨fun h => (exec_lda f ls s).trans (bufExec_inside hrun _ f ls 1 _ _ h),
    fun h => (exec_ldc f ls s).trans (bufExec_inside hrun _ f ls 2 _ _ h),
    fun h => (exec_sta f ls s).trans (bufExec_inside hrun _ f ls 1 _ _ h),
    fun h => (exec_stc f ls s).trans (bufExec_inside hrun _ f ls 2 _ _ h),
    fun ⟨hne, h⟩ => (exec_lda f ls s).trans (bufExec_outside hrun _ f ls 1 _ _ hne h),
    fun ⟨hne, h⟩ => (exec_ldc f ls s).trans (bufExec_outside hrun _ f ls 2 _ _ hne h),
    fun ⟨hne, h⟩ => (exec_sta f ls s).trans (bufExec_outside hrun _ f ls 1 _ _ hne h),
    fun ⟨hne, h⟩ => (exec_stc f ls s).trans (bufExec_outside hrun _ f ls 2 _ _ hne h)⟩

/-- Settles O19: fence, acq and rel check nothing; pf holds back the lanes that pass. -/
theorem orderingAndPrefetchHoldBackTheirEffect : Obligations.OrderingAndPrefetchHoldBackTheirEffect := by
  unfold Obligations.OrderingAndPrefetchHoldBackTheirEffect
  rintro s iss f ls ⟨rest, hrun⟩ held
  refine ⟨(exec_fence f ls s).trans (orderExec_eq hrun ls _), (exec_acq f ls s).trans (orderExec_eq hrun ls _),
    (exec_rel f ls s).trans (orderExec_eq hrun ls _), ?_⟩
  intro ok va pa pte bad z near on h
  exact (exec_pf f ls s).trans (execPf_eq hrun f ls h)

end Sys2Proof
end

section
/-!
PROOF. The handle instructions at issue (R190 to R193): the fields of a handle made of fields, and each instruction by its checks; hsave and
hload hold back the one access of the lowest lane.
-/

namespace Sys2Proof.Machine

/-! ### The fields of a handle (Table 8·1) -/

theorem bits_lt (x hi lo : Nat) : bits x hi lo < 2 ^ (hi + 1 - lo) := Nat.mod_lt _ (by positivity)

section
variable (base len rights asid : Nat)

theorem toNat_mkHandle : (mkHandle base len rights asid).toNat =
    base % 2 ^ 52 + len % 2 ^ 40 * 2 ^ 52 + rights % 256 * 2 ^ 92 + asid % 1024 * 2 ^ 100 := by
  rw [mkHandle, BitVec.toNat_ofNat, Nat.mod_eq_of_lt]
  omega

@[simp] theorem handleBase_mkHandle : handleBase (mkHandle base len rights asid) = base % 2 ^ 52 * 16 := by
  rw [handleBase, bits, toNat_mkHandle]
  omega

@[simp] theorem handleLen_mkHandle : handleLen (mkHandle base len rights asid) = len % 2 ^ 40 := by
  rw [handleLen, bits, toNat_mkHandle]
  omega

@[simp] theorem handleRights_mkHandle : handleRights (mkHandle base len rights asid) = rights % 256 := by
  rw [handleRights, bits, toNat_mkHandle]
  omega

@[simp] theorem handleAsid_mkHandle : handleAsid (mkHandle base len rights asid) = asid % 1024 := by
  rw [handleAsid, bits, toNat_mkHandle]
  omega

end

theorem handleLen_lt (h : HandleBits) : handleLen h < 2 ^ 40 := bits_lt ..

theorem handleRights_lt (h : HandleBits) : handleRights h < 256 := bits_lt ..

theorem handleAsid_lt (h : HandleBits) : handleAsid h < 1024 := bits_lt ..

/-- Rights kept by a mask of eight bits: those that the handle has and the mask keeps (R190). -/
theorem handleHas_mkHandle_mask (base len asid : Nat) (h : HandleBits) (m : BitVec 12) (r : Nat) :
    handleHas (mkHandle base len (handleRights h &&& m.toNat % 256) asid) r =
      (handleHas h r && decide (r < 8) && m.getLsbD r) := by
  rw [handleHas, handleRights_mkHandle, bitAt, show 256 = 2 ^ 8 from rfl, Nat.testBit_mod_two_pow, Nat.testBit_and, Nat.testBit_mod_two_pow,
    handleHas, bitAt, BitVec.getLsbD]
  by_cases hr : r < 8 <;> simp [hr]

/-! ### The instructions -/

section
variable {s : State} {iss : Issue} {rest : List Issue} (hrun : s.issuing = iss :: rest) (f : FM) (ls : Lits)
include hrun

theorem execHmov_eq : execHmov f ls s = s.finish iss (2 + ls.length) [.h (handleDst f) (iss.hreg f.h.toNat)] := by
  rw [execHmov, State.withIssue_cons _ hrun]

theorem execHnarrow_eq (hright : handleHas (iss.hreg f.h.toNat) 5 = true)
    (hlen : (iss.uniformM f.off (litAt ls 0)).toNat ≤ handleLen (iss.hreg f.h.toNat)) : execHnarrow f ls s =
      s.finish iss (2 + ls.length) [.h (handleDst f) (mkHandle (bits (iss.hreg f.h.toNat).toNat 51 0)
        (iss.uniformM f.off (litAt ls 0)).toNat (handleRights (iss.hreg f.h.toNat) &&& f.imm.toNat % 256)
        (handleAsid (iss.hreg f.h.toNat)))] := by
  rw [execHnarrow, State.withIssue_cons _ hrun]
  exact (if_neg (by simp [hright])).trans (if_neg (Nat.not_lt.mpr hlen))

theorem execHnarrow_without_right (hright : handleHas (iss.hreg f.h.toNat) 5 = false) :
    execHnarrow f ls s = s.faultAll iss .handleRights := by
  rw [execHnarrow, State.withIssue_cons _ hrun]
  exact if_pos (by simp [hright])

theorem execHoff_eq (hright : handleHas (iss.hreg f.h.toNat) 5 = true)
    (hlen : (iss.uniformM f.off (litAt ls 0)).toNat ≤ handleLen (iss.hreg f.h.toNat))
    (halign : (iss.uniformM f.off (litAt ls 0)).toNat % 16 = 0) : execHoff f ls s =
      s.finish iss (2 + ls.length) [.h (handleDst f)
        (mkHandle (bits (iss.hreg f.h.toNat).toNat 51 0 + (iss.uniformM f.off (litAt ls 0)).toNat / 16)
          (handleLen (iss.hreg f.h.toNat) - (iss.uniformM f.off (litAt ls 0)).toNat) (handleRights (iss.hreg f.h.toNat))
          (handleAsid (iss.hreg f.h.toNat)))] := by
  rw [execHoff, State.withIssue_cons _ hrun]
  exact ((if_neg (by simp [hright])).trans (if_neg (by simp [halign]))).trans (if_neg (Nat.not_lt.mpr hlen))

theorem execHoff_without_right (hright : handleHas (iss.hreg f.h.toNat) 5 = false) :
    execHoff f ls s = s.faultAll iss .handleRights := by
  rw [execHoff, State.withIssue_cons _ hrun]
  exact if_pos (by simp [hright])

theorem execHinfo_eq : execHinfo f ls s =
    s.finish iss (2 + ls.length) [.v f.d.toNat iss.lanes (iss.lanesOf fun _ => BitVec.ofNat 64 (match f.sub.toNat with
      | 0 => handleBase (iss.hreg f.h.toNat)
      | 1 => handleLen (iss.hreg f.h.toNat)
      | 2 => handleRights (iss.hreg f.h.toNat)
      | _ => handleAsid (iss.hreg f.h.toNat)))] :=
  State.withIssue_cons _ hrun

variable {va pa : Nat} {pte : BitVec 64}

theorem execHsave_eq (hright : handleHas (iss.hreg (handleDst f)) 6 = true)
    (h : s.checkAccess iss (iss.hreg f.h.toNat) (iss.uoff f ls 16) 16 [1] [] .store 0 = (.ok va pa pte, s)) : execHsave f ls s =
      s.finish iss (2 + ls.length) [.act (.hsave f ls) iss.idx (Lanes.of (· == lowestLane iss.lanes))
        (LaneVals.of fun k => if k = lowestLane iss.lanes then BitVec.ofNat 64 va else 0)
        (LaneVals.of fun k => if k = lowestLane iss.lanes then BitVec.ofNat 64 pa else 0)
        (LaneVals.of fun k => if k = lowestLane iss.lanes then pte else 0)
        [(sealedImage (s.ctxI iss).sealKey (iss.hreg (handleDst f))).1 +
          (sealedImage (s.ctxI iss).sealKey (iss.hreg (handleDst f))).2 * 2 ^ 64]] := by
  rw [execHsave, State.withIssue_cons _ hrun]
  simp only [hright, h, Bool.not_true, Bool.and_false, Bool.false_eq_true, if_false]
  exact State.endAccess_one (lowestLane_lt _) ..

theorem execHload_eq (h : s.checkAccess iss (iss.hreg f.h.toNat) (iss.uoff f ls 16) 16 [0] [] .load 0 = (.ok va pa pte, s)) :
    execHload f ls s = s.finish iss (2 + ls.length) [.act (.hload f ls) iss.idx (Lanes.of (· == lowestLane iss.lanes))
      (LaneVals.of fun k => if k = lowestLane iss.lanes then BitVec.ofNat 64 va else 0)
      (LaneVals.of fun k => if k = lowestLane iss.lanes then BitVec.ofNat 64 pa else 0)
      (LaneVals.of fun k => if k = lowestLane iss.lanes then pte else 0) []] := by
  rw [execHload, State.withIssue_cons _ hrun]
  simp only [h]
  exact State.endAccess_one (lowestLane_lt _) ..

end

end Sys2Proof.Machine

namespace Sys2Proof

open Sys2Proof.Machine

/-- Settles O18: each instruction by its checks; the handles of hnarrow and hoff by the fields that they are made of. -/
theorem handleInstructionResults : Obligations.HandleInstructionResults := by
  unfold Obligations.HandleInstructionResults
  rintro s iss f ls ⟨rest, hrun⟩ h len d
  refine ⟨(exec_hmov f ls s).trans (execHmov_eq hrun f ls), fun hright hlen => ?hnarrow, fun hright hlen halign hbase => ?hoff,
    fun hright => ⟨(exec_hnarrow f ls s).trans (execHnarrow_without_right hrun f ls hright),
      (exec_hoff f ls s).trans (execHoff_without_right hrun f ls hright)⟩,
    (exec_hinfo f ls s).trans (execHinfo_eq hrun f ls), fun va pa pte => ⟨fun _ hright hcheck => ?hsave, fun hcheck => ?hload⟩⟩
  case hnarrow =>
    refine ⟨_, (exec_hnarrow f ls s).trans (execHnarrow_eq hrun f ls hright hlen), ?_, ?_, ?_, handleHas_mkHandle_mask _ _ _ h f.imm⟩
    · rw [handleBase_mkHandle, Nat.mod_eq_of_lt (bits_lt ..)]
      rfl
    · rw [handleLen_mkHandle, Nat.mod_eq_of_lt (hlen.trans_lt (handleLen_lt h))]
    · rw [handleAsid_mkHandle, Nat.mod_eq_of_lt (handleAsid_lt h)]
  case hoff =>
    have hbits : handleBase h = bits (iss.hreg f.h.toNat).toNat 51 0 * 16 := rfl
    refine ⟨_, (exec_hoff f ls s).trans (execHoff_eq hrun f ls hright hlen halign), ?_, ?_, ?_, ?_⟩
    · rw [handleBase_mkHandle, Nat.mod_eq_of_lt (by omega)]
      omega
    · rw [handleLen_mkHandle, Nat.mod_eq_of_lt ((Nat.sub_le ..).trans_lt (handleLen_lt h))]
    · rw [handleAsid_mkHandle, Nat.mod_eq_of_lt (handleAsid_lt h)]
    · rw [handleRights_mkHandle, Nat.mod_eq_of_lt (handleRights_lt h)]
  case hsave => exact (exec_hsave f ls s).trans (execHsave_eq hrun f ls hright hcheck)
  case hload => exact (exec_hload f ls s).trans (execHload_eq hrun f ls hcheck)

end Sys2Proof
end

section
/-!
PROOF. The range instructions at issue (R188, R189, R238 to R244): a range form whose checks pass goes on with the parts that the range
translates to, and each instruction's own checks are said once.
-/

namespace Sys2Proof.Machine

/-! ### Range forms (Table 10·7) -/

/-- The checks of a range form pass, and its range translates to the parts given from the state as it stands: the form goes on with them. -/
def State.RangePasses (s : State) (iss : Issue) (f : FM) (ls : Lits) (len : Nat) (need : List Nat) (align : Nat) (segs : List Seg) : Prop :=
  ∀ k, s.rangeForm iss f ls len need align k =
    k (iss.hreg f.h.toNat) (vaOf (iss.hreg f.h.toNat) (iss.uoff f ls 1)) segs s

theorem State.rangePasses {s : State} {iss : Issue} {f : FM} {ls : Lits} {len : Nat} {need : List Nat} {align : Nat} {segs : List Seg}
    (hcheck : checkHandle (s.ctxI iss) (iss.hreg f.h.toNat) (iss.uoff f ls 1) len 1 (rightsAt f.scope.toNat need) [] = none)
    (he : iss.uoff f ls 1 % (align : Int) = 0) (hlen : len % align = 0)
    (hrange : s.range (s.ctxI iss) iss.before.core (handleAsid (iss.hreg f.h.toNat)) (vaOf (iss.hreg f.h.toNat) (iss.uoff f ls 1)) len =
      (.ok segs, s))
    (hnear : ∀ g ∈ segs, s.breaksReach g.leaf.pte g.pa (handleHas (iss.hreg f.h.toNat) 7) = false) :
    s.RangePasses iss f ls len need align segs := by
  have hfind : (segs.find? fun g => s.breaksReach g.leaf.pte g.pa (handleHas (iss.hreg f.h.toNat) 7)) = none :=
    List.find?_eq_none.mpr fun g hg => by simp [hnear g hg]
  intro k
  unfold State.rangeForm
  simp only [hcheck, he, hlen, bne_self_eq_false, Bool.or_self, Bool.false_eq_true, if_false, hrange, hfind]

/-- A range whose pages are all of a class has none of another. -/
theorem wrongClass_eq_none {segs : List Seg} {n : Nat} (h : ∀ g ∈ segs, pteHost g.leaf.pte = false ∧ pteClass g.leaf.pte = n) :
    wrongClass segs n = none := by
  rw [wrongClass, List.find?_eq_none.mpr fun g hg => ?_]
  · rfl
  · obtain ⟨hhost, hclass⟩ := h g hg
    simp [hhost, hclass]

/-- An assigned tag takes nothing from a leaf (R223). -/
theorem State.adoptAs_of_assigned {s : State} {g : Nat} (h : tagFree (s.tag g) = false) (leaf chip : Nat) :
    s.adoptAs g leaf chip = s := by
  unfold State.adoptAs
  exact if_pos (by simp [h])

theorem State.adoptRange_of_assigned {s : State} : ∀ {xs : List RangeGrain}, (∀ x ∈ xs, tagFree (s.tag x.g) = false) → s.adoptRange xs = s
  | [], _ => rfl
  | x :: xs, h => by
    obtain ⟨hx, hxs⟩ := List.forall_mem_cons.mp h
    have hstep : (if chipOf (x.g * 512) == s.chip then s.adoptAs x.g x.leaf s.chip else s) = s := by
      rw [State.adoptAs_of_assigned hx, ite_self]
    rw [State.adoptRange, List.foldl_cons, hstep]
    exact State.adoptRange_of_assigned hxs

/-! ### The instructions -/

section
variable {s : State} {iss : Issue} {rest : List Issue} (hrun : s.issuing = iss :: rest) {f : FM} {ls : Lits}
include hrun

theorem execPreq_eq (hcheck : checkHandle (s.ctxI iss) (iss.hreg f.h.toNat) (iss.uoff f ls 1) (rangeLen (iss.ulen f ls)) 1 [] [0, 1] = none) :
    execPreq f ls s = s.finish iss (2 + ls.length) [.act (.preq f ls) iss.idx iss.lanes [] [] []
      [vaOf (iss.hreg f.h.toNat) (iss.uoff f ls 1), rangeLen (iss.ulen f ls), handleAsid (iss.hreg f.h.toNat)]] := by
  rw [execPreq, State.withIssue_cons _ hrun]
  simp only [hcheck]

theorem cacheExec_eq {segs : List Seg}
    (hcheck : checkHandle (s.ctxI iss) (iss.hreg f.h.toNat) (iss.uoff f ls 1) (rangeLen (iss.ulen f ls)) 1 [] [0, 1] = none)
    (hrange : s.range (s.ctxI iss) iss.before.core (handleAsid (iss.hreg f.h.toNat)) (vaOf (iss.hreg f.h.toNat) (iss.uoff f ls 1))
      (rangeLen (iss.ulen f ls)) = (.ok segs, s)) (i : Instr) : cacheExec i f ls s =
    s.finish iss (2 + ls.length) [.act i iss.idx iss.lanes [] [] [] (segs.flatMap fun g => [g.pa, g.len])] := by
  rw [cacheExec, State.withIssue_cons _ hrun]
  simp only [hcheck, hrange]

theorem execMvwait_eq {segs : List Seg} (hpass : s.RangePasses iss f ls (rangeLen (iss.ulen f ls)) [0] 512 segs)
    (hclass : ∀ g ∈ segs, pteHost g.leaf.pte = false ∧ pteClass g.leaf.pte = 3) : execMvwait f ls s =
    s.endRange iss ls (.mvwait f ls) (iss.before.core :: flatGrains (rangeGrains segs iss.before.core)) := by
  rw [execMvwait, State.withIssue_cons _ hrun]
  simp only [hpass _, wrongClass_eq_none hclass]

theorem wsExec_eq {segs : List Seg} (hpass : s.RangePasses iss f ls (rangeLen (iss.ulen f ls)) [1] 512 segs)
    (hclass : ∀ g ∈ segs, pteHost g.leaf.pte = false ∧ pteClass g.leaf.pte = 2) (i : Instr) : wsExec i f ls s =
    s.endRange iss ls i (0 :: flatGrains (rangeGrains segs iss.before.core)) := by
  rw [wsExec, State.withIssue_cons _ hrun]
  simp only [hpass _, wrongClass_eq_none hclass]

/-- mvrange of a well-formed descriptor over IP grains that the issuing core owns. -/
theorem execMvrange_eq {segs : List Seg} {d n : Nat} (hd : (iss.ulen f ls).toNat = d) (hn : bits d 39 0 = n) (hn0 : n ≠ 0)
    (hreserved : bitAt d 63 = false) (hcore : bits d 50 40 ≤ 1151)
    (hcheck : checkHandle (s.ctxI iss) (iss.hreg f.h.toNat) (iss.uoff f ls 1) n 1 [1] [] = none)
    (hpass : s.RangePasses iss f ls n [1] 512 segs) (hclass : ∀ g ∈ segs, pteHost g.leaf.pte = false ∧ pteClass g.leaf.pte = 3)
    (hknown : ∀ x ∈ rangeGrains segs iss.before.core, s.mayRead x.g = true)
    (hassigned : ∀ x ∈ rangeGrains segs iss.before.core, tagFree (s.tag x.g) = false)
    (howned : ∀ x ∈ rangeGrains segs iss.before.core, s.ownedByCore x.g iss.before.core = true)
    (hreach : ∀ g ∈ segs, s.outsideReach g.leaf.pte (bits d 62 51) = false) : execMvrange f ls s =
      s.endRange iss ls (.mvrange f ls) ([bits d 50 40, bits d 62 51] ++ flatGrains (rangeGrains segs iss.before.core)) := by
  have hread : ((rangeGrains segs iss.before.core).find? fun x => !s.mayRead x.g) = none :=
    List.find?_eq_none.mpr fun x hx => by simp [hknown x hx]
  have hadopt : s.adoptRange (rangeGrains segs iss.before.core) = s := State.adoptRange_of_assigned hassigned
  have hmine : ((rangeGrains segs iss.before.core).any fun x => !s.ownedByCore x.g iss.before.core) = false :=
    List.any_eq_false.mpr fun x hx => by simp [howned x hx]
  have hinside : (segs.any fun g => s.outsideReach g.leaf.pte (bits d 62 51)) = false :=
    List.any_eq_false.mpr fun g hg => by simp [hreach g hg]
  rw [execMvrange, State.withIssue_cons _ hrun]
  simp only [hd, hn, beq_eq_false_iff_ne.mpr hn0, Bool.false_eq_true, if_false, hcheck, hreserved, Nat.not_lt.mpr hcore, decide_false,
    Bool.or_self, hpass _, wrongClass_eq_none hclass, hread, hadopt, hmine, hinside]

/-- pgclass of whole pages none of which refuses the change. -/
theorem execPgclass_eq {segs : List Seg} (hpass : s.RangePasses iss f ls (rangeLen (iss.ulen f ls)) [1, 5] 4096 segs)
    (hwhole : ∀ g ∈ segs, iss.uoff f ls 1 % g.leaf.pageSize = 0 ∧ rangeLen (iss.ulen f ls) % g.leaf.pageSize = 0 ∧
      g.va % g.leaf.size = 0 ∧ g.len = g.leaf.size)
    (hknown : s.unknownOwner segs = none) (hchange : ∀ g ∈ segs, s.classChange g iss.before.core f.sub.toNat = none) :
    execPgclass f ls s = s.endRange iss ls (.pgclass f ls) ([iss.before.core, handleAsid (iss.hreg f.h.toNat), 0] ++
      segs.flatMap fun g => [g.va, g.pa, g.len, g.leaf.pteAddr]) := by
  have hpages : (segs.any fun g => iss.uoff f ls 1 % (g.leaf.pageSize : Int) != 0 || rangeLen (iss.ulen f ls) % g.leaf.pageSize != 0 ||
      g.va % g.leaf.size != 0 || g.len != g.leaf.size) = false := List.any_eq_false.mpr fun g hg => by
    obtain ⟨he, hlen, hva, hsize⟩ := hwhole g hg
    simp [he, hlen, hva, hsize]
  have hfree : (segs.findSome? fun g => (s.classChange g iss.before.core f.sub.toNat).map fun c => (c, g.va)) = none :=
    List.findSome?_eq_none_iff.mpr fun g hg => by rw [hchange g hg]; rfl
  rw [execPgclass, State.withIssue_cons _ hrun]
  simp only [hpass _, hpages, Bool.false_eq_true, if_false, hknown, hfree]

end

/-! ### Replicas (R244) -/

theorem State.replicRefused_add {s : State} {page chip : Nat} :
    s.replicRefused true page chip = true ↔ 8 ≤ (s.replicaList page).length ∧ chip ∉ s.replicaList page := by
  simp [State.replicRefused, and_comm]

theorem State.replicRefused_rem {s : State} {page chip : Nat} : s.replicRefused false page chip = true ↔ chip ∉ s.replicaList page := by
  simp [State.replicRefused]

/-- What replic holds back at commit. -/
def Issue.replicArgs (iss : Issue) (f : FM) (ls : Lits) (g : Seg) : List Nat :=
  [g.leaf.pageBase, g.leaf.pageSize, (iss.ulen f ls).toNat, leafWord g.leaf.pte iss.before.core,
    vaOf (iss.hreg f.h.toNat) (iss.uoff f ls 1)]

section
variable {s : State} {iss : Issue} {rest : List Issue} (hrun : s.issuing = iss :: rest) {f : FM} {ls : Lits} {g : Seg} {segs : List Seg}
  (hpass : s.RangePasses iss f ls 1 [1] 1 (g :: segs)) (hhost : pteHost g.leaf.pte = false) (hclass : pteClass g.leaf.pte = 0)
  (hreplicated : pteBit g.leaf.pte 9 = true) (haway : (iss.ulen f ls).toNat ≠ chipOf g.leaf.pageBase)
  (hpod : (iss.ulen f ls).toNat < s.podSize) (i : Instr) (add : Bool)
include hrun hpass hhost hclass hreplicated haway hpod

/-- replic of a page of this home is refused as its list says. -/
theorem replicExec_home (hhome : chipOf g.leaf.pageBase = s.chip) : replicExec i add f ls s =
    if s.replicRefused add g.leaf.pageBase (iss.ulen f ls).toNat = true then
      s.faultAll iss .classOp (vaOf (iss.hreg f.h.toNat) (iss.uoff f ls 1))
    else s.endRange iss ls i (iss.replicArgs f ls g) := by
  rw [replicExec, State.withIssue_cons _ hrun, hpass]
  simp only [hhost, hclass, hreplicated, bne_self_eq_false, Bool.not_true, Bool.or_self, Bool.false_eq_true, if_false,
    beq_eq_false_iff_ne.mpr (hhome ▸ haway), Nat.not_le.mpr hpod, decide_false, hhome, beq_self_eq_true, if_true]
  rfl

/-- replic of a page of another home goes by the answer that has come. -/
theorem replicExec_answered (hhome : chipOf g.leaf.pageBase ≠ s.chip) {c : Nat} (hc : c ≠ 2 ^ 16)
    (hanswer : s.engAnswers.find? (queryKey (replicQuery add g.leaf.pageBase (iss.ulen f ls).toNat)) = some c) : replicExec i add f ls s =
      let t : State := { s with engAnswers := s.engAnswers.erase (queryKey (replicQuery add g.leaf.pageBase (iss.ulen f ls).toNat)) }
      if c = 0 then t.endRange iss ls i (iss.replicArgs f ls g)
      else t.faultAll iss .classOp (vaOf (iss.hreg f.h.toNat) (iss.uoff f ls 1)) := by
  rw [replicExec, State.withIssue_cons _ hrun, hpass]
  simp only [hhost, hclass, hreplicated, bne_self_eq_false, Bool.not_true, Bool.or_self, Bool.false_eq_true, if_false,
    beq_eq_false_iff_ne.mpr haway, Nat.not_le.mpr hpod, decide_false, beq_eq_false_iff_ne.mpr hhome, hanswer,
    beq_eq_false_iff_ne.mpr hc, beq_iff_eq]
  rfl

end

end Sys2Proof.Machine

namespace Sys2Proof

open Sys2Proof.Machine

/-- Settles O20: each instruction by its own checks, once those of its range have passed. -/
theorem rangeInstructionsHoldBackTheirRange : Obligations.RangeInstructionsHoldBackTheirRange := by
  unfold Obligations.RangeInstructionsHoldBackTheirRange
  rintro s iss f ls ⟨rest, hrun⟩ h e va len c core held parts xs near cls
  refine ⟨?preq, ?cache, ?mvwait, ?ws, ?mvrange, ?pgclass, ?replic⟩
  case preq => exact fun hcheck => (exec_preq f ls s).trans (execPreq_eq hrun hcheck)
  case cache =>
    exact fun segs hcheck hrange => ⟨(exec_cinv f ls s).trans (cacheExec_eq hrun hcheck hrange _),
      (exec_cwb f ls s).trans (cacheExec_eq hrun hcheck hrange _)⟩
  case mvwait =>
    intro segs hcheck he hlen hrange hnear hclass
    exact (exec_mvwait f ls s).trans (execMvwait_eq hrun (State.rangePasses hcheck he hlen hrange hnear) hclass)
  case ws =>
    intro segs hcheck he hlen hrange hnear hclass
    have hpass : s.RangePasses iss f ls len [1] 512 segs := State.rangePasses hcheck he hlen hrange hnear
    exact ⟨(exec_wsclose f ls s).trans (wsExec_eq hrun hpass hclass _), (exec_wsreset f ls s).trans (wsExec_eq hrun hpass hclass _)⟩
  case mvrange =>
    intro segs d n hn0 hreserved hcore hcheck hscope he hlen hrange hnear hclass hmine hreach
    obtain ⟨hknown, hrest⟩ := forall₂_and.mp hmine
    obtain ⟨hassigned, howned⟩ := forall₂_and.mp hrest
    exact (exec_mvrange f ls s).trans
      (execMvrange_eq hrun rfl rfl hn0 hreserved hcore hcheck (State.rangePasses hscope he hlen hrange hnear) hclass
        hknown hassigned howned hreach)
  case pgclass =>
    intro segs hcheck he hlen hrange hnear hwhole hknown hchange
    exact (exec_pgclass f ls s).trans (execPgclass_eq hrun (State.rangePasses hcheck he hlen hrange hnear) hwhole hknown hchange)
  case replic =>
    intro g segs chip page list away ns hcheck hrange hnear hhost hclass hreplicated hchip hpod answered
    have hpass : s.RangePasses iss f ls 1 [1] 1 (g :: segs) := State.rangePasses hcheck (Int.emod_one e) rfl hrange hnear
    have hadd := exec_replicAdd f ls s
    have hrem := exec_replicRem f ls s
    have hhome := replicExec_home hrun hpass hhost hclass hreplicated hchip hpod
    have hanswered {i : Instr} {add : Bool} (hi : exec i s = replicExec i add f ls s) (haway : away) : answered add i :=
      ⟨fun hfind => hi.trans (replicExec_answered hrun hpass hhost hclass hreplicated hchip hpod i add haway (by decide) hfind),
        fun c hc0 hc hfind => (hi.trans (replicExec_answered hrun hpass hhost hclass hreplicated hchip hpod i add haway hc hfind)).trans
          (if_neg hc0)⟩
    refine ⟨fun haway => ⟨hanswered hadd haway, hanswered hrem haway⟩, fun hin => ⟨fun hroom => ?_, fun hmem => ?_⟩,
      fun hin hfull hnot => ?_, fun hin hnot => ?_⟩
    · refine (hadd.trans (hhome _ true (not_not.mp hin))).trans (if_neg fun hrefused => ?_)
      obtain ⟨hfull, hnot⟩ := State.replicRefused_add.mp hrefused
      exact hroom.elim (Nat.not_lt.mpr hfull) hnot
    · exact (hrem.trans (hhome _ false (not_not.mp hin))).trans (if_neg fun hrefused => State.replicRefused_rem.mp hrefused hmem)
    · exact (hadd.trans (hhome _ true (not_not.mp hin))).trans (if_pos (State.replicRefused_add.mpr ⟨hfull, hnot⟩))
    · exact (hrem.trans (hhome _ false (not_not.mp hin))).trans (if_pos (State.replicRefused_rem.mpr hnot))

end Sys2Proof
end

section
/-!
PROOF. Accesses to device memory as their units perform them (R175 to R177, R207, R223, R229, R233 to R235): the grain that an access
approaches, the room of a cluster cache, what a load and a store do once their grain is reached, and write-once claims.
-/

namespace Sys2Proof.Machine

/-! ### What the parts of an access leave -/

/-- A byte of memory after a run of bytes has been written. -/
theorem Memory.read_writeAll {m : List Host.Cell} (h : Memory.wf m = true) (a : Nat) (bs : List Byte) (b : Nat) :
    Memory.read (Memory.writeAll m a bs) b = if a ≤ b ∧ b < a + bs.length then bs.getD (b - a) 0 else Memory.read m b := by
  split
  case isTrue hin =>
    obtain ⟨i, rfl⟩ := Nat.exists_eq_add_of_le hin.left
    rw [Memory.read_writeAll_same bs a h (by omega), Nat.add_sub_cancel_left]
  case isFalse hout => exact Memory.read_writeAll_other bs a h (by omega)

theorem State.raiseLts_frame (s : State) (q w : Nat) : ∃ lts, s.raiseLts q w = { s with lts := lts } := by
  unfold State.raiseLts
  split
  · exact ⟨s.lts, rfl⟩
  · exact ⟨_, rfl⟩

theorem State.acquire_frame (s : State) (q scope w : Nat) : ∃ lts, s.acquire q scope w = { s with lts := lts } := by
  obtain ⟨lts, e⟩ := s.raiseLts_frame q w
  unfold State.acquire
  rw [e]
  dsimp only
  split
  · exact State.raiseLts_frame ..
  · exact ⟨lts, rfl⟩

/-- Stamping a write changes the sector's stamps and the cluster's clock. -/
theorem State.stampFor_frame (s : State) (a : Access) : ∃ sec lts, (s.stampFor a).2 = { s with sectors := sec, lts := lts } := by
  have hstamp (u : State) : ∃ sec lts, (u.stampWrite (a.core / 4) a.pa).2 = { u with sectors := sec, lts := lts } := by
    obtain ⟨lts, e⟩ := (u.setSector a.pa { wts := (u.stampWrite (a.core / 4) a.pa).1, rts := (u.stampWrite (a.core / 4) a.pa).1,
                                           era := u.era }).raiseLts_frame (a.core / 4) (u.stampWrite (a.core / 4) a.pa).1
    exact ⟨_, lts, e⟩
  unfold State.stampFor
  dsimp only
  split
  · obtain ⟨lts, e⟩ := s.raiseLts_frame (a.core / 4) ((s.group a.gid).thread a.lane).seen
    obtain ⟨sec, lts', e'⟩ := hstamp (s.raiseLts (a.core / 4) ((s.group a.gid).thread a.lane).seen)
    exact ⟨sec, lts', by rw [e', e]⟩
  · exact hstamp s

/-- A new owner's first access changes the cluster's clock and the grants. -/
theorem State.takeGrant_frame (s : State) (q g reach : Nat) : ∃ lts gr, s.takeGrant q g reach = { s with lts := lts, granted := gr } := by
  unfold State.takeGrant
  split
  · obtain ⟨lts, e⟩ := s.acquire_frame q (reachScope reach) s.readStamp
    exact ⟨lts, _, by rw [e]⟩
  · exact ⟨s.lts, s.granted, rfl⟩

theorem State.refreshLine_frame (s : State) (q pa w : Nat) : ∃ lines, s.refreshLine q pa w = { s with lines := lines } := by
  unfold State.refreshLine
  split
  · exact ⟨_, rfl⟩
  · exact ⟨s.lines, rfl⟩

/-! ### Room in a cluster cache (R11, R177) -/

/-- A cluster's cache has room for a line: it evicts none for one. -/
def State.HasRoom (s : State) (q : Nat) : Prop :=
  (s.lines.filter fun l => keyCluster l.1 == q).length + s.waysGone (· == wayUnit true q) < cacheLines

theorem State.evictLine_of_room {s : State} {q : Nat} (h : s.HasRoom q) : s.evictLine q = s := if_pos h

theorem State.fillLine_of_room {s : State} {q : Nat} (h : s.HasRoom q) (pa : Nat) (l : Line) :
    s.fillLine q pa l = { s with lines := s.lines.insert (lineKey q pa) { l with filled := s.clock } } := by
  simp only [State.fillLine, State.evictLine_of_room h, ite_self]

theorem State.leaseLine_of_room {s : State} {q : Nat} (h : s.HasRoom q) (pa hint : Nat) :
    ∃ sec lines, s.leaseLine q pa hint = { s with sectors := sec, lines := lines } := by
  refine ⟨_, _, State.fillLine_of_room ?_ pa _⟩
  exact h

/-! ### Approaching a grain (R223, R225, R233, R236, R252, R415) -/

/-- The state once an unassigned tag of a grain of this home has taken the class and reach of the leaf. -/
def State.adopted (s : State) (pa core : Nat) (pte : BitVec 64) : State :=
  if chipOf pa = s.chip then s.adopt (grainOf pa) pte core else s

theorem State.adoptAs_frame (s : State) (g leaf chip : Nat) : ∃ tg, s.adoptAs g leaf chip = { s with tags := tg } := by
  unfold State.adoptAs
  dsimp only
  split
  · exact ⟨s.tags, rfl⟩
  · exact ⟨_, rfl⟩

theorem State.adopted_frame (s : State) (pa core : Nat) (pte : BitVec 64) : ∃ tg, s.adopted pa core pte = { s with tags := tg } := by
  unfold State.adopted
  split
  · exact s.adoptAs_frame ..
  · exact ⟨s.tags, rfl⟩

theorem tagLock_eq (t : BitVec 64) : tagLock t = (tagGet t 11 11 == 1) := by
  rw [tagLock, BitVec.getLsbD, Nat.testBit_eq_decide_div_mod_eq]
  rfl

/-- Setting a field that leaves bit 11 alone keeps the lock. -/
theorem tagLock_tagSet_other (t : BitVec 64) {hi lo : Nat} (v : Nat) (h : lo ≤ hi) (h' : hi < 64) (hd : 11 < lo ∨ hi < 11) :
    tagLock (tagSet t hi lo v) = tagLock t := by
  rw [tagLock_eq, tagLock_eq, tagGet_tagSet_other t v h h' le_rfl hd]

/-- A tag that takes a leaf's class and reach keeps its lock. -/
theorem State.tagLock_adopted (s : State) (pa core : Nat) (pte : BitVec 64) :
    tagLock ((s.adopted pa core pte).tag (grainOf pa)) = tagLock (s.tag (grainOf pa)) := by
  have hset (t : BitVec 64) (v w : Nat) : tagLock (tagSet (tagSet t 4 3 v) 6 5 w) = tagLock t := by
    rw [tagLock_tagSet_other _ _ (by decide) (by decide) (by decide), tagLock_tagSet_other _ _ (by decide) (by decide) (by decide)]
  unfold State.adopted State.adopt State.adoptAs
  dsimp only
  split
  · split
    · rfl
    · rw [State.tag_setTag_same]
      split
      · rw [tagSetState, tagLock_tagSet_other _ _ (by decide) (by decide) (by decide), hset]
      · rw [tagSetPtr, tagSetPtr, tagLock_tagSet_other _ _ (by decide) (by decide) (by decide),
          tagLock_tagSet_other _ _ (by decide) (by decide) (by decide), hset]
      · exact hset ..
  · rfl

/-- Nothing holds back an access to a grain: no lock, no transaction, no store to its replicas, no engine, no writeback under way, no copy
that its home has not recorded, and no copy of the host's. -/
structure State.Unheld (s : State) (pa core : Nat) (pte : BitVec 64) : Prop where
  lock : tagLock ((s.adopted pa core pte).tag (grainOf pa)) = false
  txn : s.txns.find? (grainOf pa) = none
  replicas : s.replicaStores.find? (grainOf pa) = none
  engine : s.engineOf (grainOf pa) = none
  putting : s.putting.contains (grainOf pa) = false
  recorded : s.held.find? (grainOf pa) ≠ some .u
  host : (s.adopted pa core pte).hostMayHold (grainOf pa) = false

/-- An access that nothing holds back, and that this chip may make, goes on at the grain when the leaf agrees with its tag. -/
theorem State.approach_of_unheld {s : State} {pa core : Nat} {pte : BitVec 64} (h : s.Unheld pa core pte) {write : Bool}
    (hmay : (if write then s.mayWrite (grainOf pa) else s.mayRead (grainOf pa)) = true) (k : State → Perf) :
    s.approach pa core pte write k =
      if agrees ((s.adopted pa core pte).tag (grainOf pa)) pte = true then k (s.adopted pa core pte)
      else .refused (s.adopted pa core pte) .classAlias := by
  have hlock : tagLock (s.tag (grainOf pa)) = false := (s.tagLock_adopted pa core pte).symm.trans h.lock
  have honce : (s.held.find? (grainOf pa) == some .u) = false := beq_eq_false_iff_ne.mpr h.recorded
  have hrecall : s.recall (grainOf pa) = s := by rw [State.recall, h.engine]
  have hadopted : (if chipOf pa == s.chip then s.adopt (grainOf pa) pte core else s) = s.adopted pa core pte := by
    simp only [State.adopted, beq_iff_eq]
  have hdrop : (s.adopted pa core pte).dropUncached (grainOf pa) = s.adopted pa core pte := by
    obtain ⟨tg, e⟩ := s.adopted_frame pa core pte
    rw [e]
    exact if_neg fun hu => h.recorded (beq_iff_eq.mp hu)
  unfold State.approach
  simp only [hlock, h.txn, h.replicas, h.putting, Option.isSome_none, Bool.or_self, Bool.false_eq_true, if_false, honce, Bool.not_false,
    hmay, Bool.not_true, Bool.and_false, hrecall, hadopted, h.host, Bool.false_and, hdrop]
  cases agrees ((s.adopted pa core pte).tag (grainOf pa)) pte <;> rfl

/-! ### Loads (R175, R177, R207, R229, R235) -/

/-- What a load of n bytes gives at a grain that it has reached, by the class of its page, when no line of its cluster serves it. -/
structure LoadsAt (core pa n : Nat) (pte : BitVec 64) (t : State) (r : Perf) : Prop where
  poison : tagPoison (t.tag (grainOf pa)) = true → r = .refused t .poison
  cached : tagPoison (t.tag (grainOf pa)) = false → pteClass pte < 2 → t.HasRoom (core / 4) →
    ∃ u w, r = .done u (t.readMem pa n) w ∧ u.mem = t.mem ∧ u.tags = t.tags
  once : tagPoison (t.tag (grainOf pa)) = false → pteClass pte = 2 →
    r = if tagState (t.tag (grainOf pa)) = 7 then .done t (t.readMem pa n) t.readStamp else .wait t
  foreign : tagPoison (t.tag (grainOf pa)) = false → pteClass pte = 3 →
    tagPtr (t.tag (grainOf pa)) 0 ≠ t.chip ∨ tagPtr (t.tag (grainOf pa)) 1 ≠ core → r = .refused t .moveRights
  own : tagPoison (t.tag (grainOf pa)) = false → pteClass pte = 3 → tagPtr (t.tag (grainOf pa)) 0 = t.chip →
    tagPtr (t.tag (grainOf pa)) 1 = core → t.HasRoom (core / 4) →
    ∃ u w, r = .done u (t.readMem pa n) w ∧ u.mem = t.mem ∧ u.tags = t.tags

/-- A load that no line serves and no replica is of approaches its grain. -/
theorem State.loadDev_approaches {s : State} {core pa n : Nat} {pte : BitVec 64} (hint : Nat)
    (hhome : pteBit pte 9 = true → chipOf pa = s.chip) (hrebase : s.rebaseDue = false)
    (hmiss : s.lines.find? (lineKey (core / 4) pa) = none) :
    ∃ k, s.loadDev core pa n pte hint = s.approach pa core pte false k ∧ ∀ t, LoadsAt core pa n pte t (k t) := by
  have hreplica : (if pteClass pte == 0 && pteBit pte 9 && chipOf pa != s.chip then s.replicaAt pa else none) = none := by
    refine if_neg fun h => ?_
    simp only [Bool.and_eq_true, bne_iff_ne] at h
    exact h.right (hhome h.left.right)
  unfold State.loadDev
  simp only [hreplica, hrebase, hmiss, Bool.and_false, Bool.false_eq_true, if_false]
  refine ⟨_, rfl, fun t => ⟨fun hpoison => by simp only [hpoison, if_true], fun hpoison hclass hroom => ?cached, fun hpoison hclass => ?once,
    fun hpoison hclass hforeign => ?foreign, fun hpoison hclass hchip hcore hroom => ?own⟩⟩
  all_goals simp only [hpoison, Bool.false_eq_true, if_false]
  case cached =>
    obtain hsc | hrc : pteClass pte = 0 ∨ pteClass pte = 1 := by omega
    · simp only [hsc]
      exact ⟨t, _, rfl, rfl, rfl⟩
    · simp only [hrc]
      split
      · exact ⟨_, _, rfl, rfl, rfl⟩
      · obtain ⟨sec, lines, e⟩ := State.leaseLine_of_room hroom pa hint
        rw [e]
        exact ⟨_, _, rfl, rfl, rfl⟩
  case once => simp only [hclass, beq_iff_eq]
  case foreign =>
    simp only [hclass]
    exact if_pos (by simpa using hforeign)
  case own =>
    obtain ⟨lts, gr, e⟩ := t.takeGrant_frame (core / 4) (grainOf pa) (pteReach pte)
    simp only [hclass, hchip, hcore, bne_self_eq_false, Bool.or_self, Bool.false_eq_true, if_false, e]
    split
    · exact ⟨_, _, rfl, rfl, rfl⟩
    · rw [State.fillLine_of_room (s := { t with lts := lts, granted := gr }) hroom]
      exact ⟨_, _, rfl, rfl, rfl⟩

/-! ### Stores (R175 to R177, R229, R235) -/

/-- A stamped write of device memory writes its bytes, and leaves the groups and the room of a cluster's cache. -/
theorem State.stampedWrite (s : State) (a : Access) (bs : List Byte) (g : Nat) {q : Nat} (hroom : s.HasRoom q) :
    (((s.stampFor a).2.writeMem a.pa bs).markWritten g).mem = Memory.writeAll s.mem a.pa bs ∧
      (((s.stampFor a).2.writeMem a.pa bs).markWritten g).groups = s.groups ∧
      (((s.stampFor a).2.writeMem a.pa bs).markWritten g).HasRoom q := by
  obtain ⟨sec, lts, hstamp⟩ := s.stampFor_frame a
  obtain ⟨⟨sn, tg, hwrite⟩, -⟩ := (s.stampFor a).2.writeMem_frame a.pa bs
  obtain ⟨⟨hd, tg', hmark⟩, -⟩ := ((s.stampFor a).2.writeMem a.pa bs).markWritten_frame g
  rw [hmark, hwrite, hstamp]
  exact ⟨rfl, rfl, hroom⟩

/-- What a store does at a grain that it has reached, by the class of its page. -/
structure StoresAt (a : Access) (bs : List Byte) (t : State) (r : Perf) : Prop where
  cached : pteClass a.pte < 2 → pteBit a.pte 9 = false → t.HasRoom (a.core / 4) →
    ∃ u w, r = .done u [] w ∧ u.mem = Memory.writeAll t.mem a.pa bs ∧ u.groups = t.groups
  once : pteClass a.pte = 2 → r = t.storeWs t.chip (a.core / 4) a.pa bs
  foreign : pteClass a.pte = 3 → tagPtr (t.tag (grainOf a.pa)) 0 ≠ t.chip ∨ tagPtr (t.tag (grainOf a.pa)) 1 ≠ a.core →
    r = .refused t .moveRights

/-- A store performed on this chip approaches its grain. -/
theorem State.storeDev_approaches {s : State} {a : Access} (bs : List Byte) (hrebase : s.rebaseDue = false)
    (haway : s.storeAway a.pa a.pte = false) :
    ∃ k, s.storeDev a bs = s.approach a.pa a.core a.pte true k ∧ ∀ t, StoresAt a bs t (k t) := by
  unfold State.storeDev
  simp only [hrebase, haway, Bool.and_false, Bool.false_eq_true, if_false]
  refine ⟨_, rfl, fun t => ⟨fun hclass hbit hroom => ?cached, fun hclass => ?once, fun hclass hforeign => ?foreign⟩⟩
  case cached =>
    obtain ⟨hmem, hgroups, hroom⟩ := t.stampedWrite a bs (grainOf a.pa) hroom
    obtain hsc | hrc : pteClass a.pte = 0 ∨ pteClass a.pte = 1 := by omega
    · simp only [hsc, hbit, Bool.false_and, Bool.false_eq_true, if_false]
      exact ⟨_, _, rfl, hmem, hgroups⟩
    · simp only [hrc]
      generalize ((t.stampFor a).2.writeMem a.pa bs).markWritten (grainOf a.pa) = u at hmem hgroups hroom ⊢
      split
      · exact ⟨_, _, rfl, hmem, hgroups⟩
      · split
        · obtain ⟨lines, e⟩ := u.refreshLine_frame (a.core / 4) a.pa (t.stampFor a).1
          rw [e]
          exact ⟨_, _, rfl, hmem, hgroups⟩
        · rw [State.fillLine_of_room hroom]
          exact ⟨_, _, rfl, hmem, hgroups⟩
  case once => simp only [hclass]
  case foreign =>
    simp only [hclass]
    exact if_pos (by simpa using hforeign)

/-! ### Write-once grains (R234) -/

/-- A store's bytes fill a grain exactly when they begin at its first and reach its last. -/
theorem grainMask_eq_allOnes {pa n : Nat} : grainMask pa n = BitVec.allOnes 512 ↔ pa % 512 = 0 ∧ 512 ≤ n := by
  have hbit (i : Nat) : (grainMask pa n).getLsbD i = (decide (i < 512) && (decide (pa % 512 ≤ i) && decide (i - pa % 512 < n))) := by
    rw [grainMask, BitVec.getLsbD_ofNat, Nat.testBit_mul_two_pow, Nat.testBit_two_pow_sub_one]
  constructor
  · intro h
    have hall (i : Nat) (hi : i < 512) : pa % 512 ≤ i ∧ i - pa % 512 < n := by
      have hset := hbit i
      rw [h, BitVec.getLsbD_allOnes] at hset
      simpa [hi] using hset
    have hfirst := hall 0 (by decide)
    have hlast := hall 511 (by decide)
    omega
  · rintro ⟨hpa, hn⟩
    refine BitVec.eq_of_getLsbD_eq fun i hi => ?_
    rw [hbit, BitVec.getLsbD_allOnes]
    simp [hi, hpa, hi.trans_le hn]

theorem tagState_tagSetState (t : BitVec 64) {v : Nat} (h : v < 8) : tagState (tagSetState t v) = v := by
  rw [tagState, tagSetState, tagGet_tagSet_same _ _ (by decide) (by decide)]
  exact Nat.mod_eq_of_lt h

/-- Setting a field above the state keeps the state. -/
theorem tagState_tagSet (t : BitVec 64) {hi lo : Nat} (v : Nat) (h : lo ≤ hi) (h' : hi < 64) (hd : 2 < lo) :
    tagState (tagSet t hi lo v) = tagState t := tagGet_tagSet_other t v h h' (by decide) (.inl hd)

/-- Preserving a grain leaves the state of every tag. -/
theorem State.tagState_preserve (s : State) (g h : Nat) : tagState ((s.preserve g).tag h) = tagState (s.tag h) := by
  have hset (u : State) (hu : u.tags = s.tags) : tagState ((u.setTag g (tagSet (s.tag g) 9 8 (s.epoch % 4))).tag h) = tagState (s.tag h) := by
    by_cases hg : h = g
    · rw [hg, State.tag_setTag_same, tagState_tagSet _ _ (by decide) (by decide) (by decide)]
    · rw [State.tag_setTag_other _ _ hg, State.tag, hu]
      rfl
  unfold State.preserve
  dsimp only
  split
  · rfl
  · split
    · exact hset _ rfl
    · exact hset s rfl

theorem State.tagState_writeMem (s : State) (pa : Nat) (bs : List Byte) (h : Nat) :
    tagState ((s.writeMem pa bs).tag h) = tagState (s.tag h) := by
  have hfold : ∀ (gs : List Nat) (s : State), tagState ((gs.foldl State.preserve s).tag h) = tagState (s.tag h) := by
    intro gs
    induction gs with
    | nil => exact fun _ => rfl
    | cons g gs ih => exact fun s => (ih _).trans (s.tagState_preserve g h)
  have hput (u : State) : (u.putMem pa bs).tag h = u.tag h := rfl
  unfold State.writeMem
  dsimp only
  rw [hput]
  split
  · rfl
  · exact hfold _ s

@[simp] theorem State.wsFull_mem (s : State) (g : Nat) : (s.wsFull g).mem = s.mem := by
  have hmark (u : State) (t : BitVec 64) (m : SMap (BitVec 512)) : ({ u.setTag g t with wsMask := m } : State).mem = u.mem := rfl
  exact (hmark (s.preserve g) _ _).trans (s.preserve_mem g)

theorem State.tagState_wsFull (s : State) (g : Nat) : tagState ((s.wsFull g).tag g) = 7 := by
  have htag (u : State) (m : SMap (BitVec 512)) (t : BitVec 64) : ({ u.setTag g t with wsMask := m } : State).tag g = t := u.tag_setTag_same g t
  unfold State.wsFull tagNoPtrs
  dsimp only
  rw [htag, tagState_tagSet _ _ (by decide) (by decide) (by decide), tagState_tagSet _ _ (by decide) (by decide) (by decide),
    tagState_tagSet _ _ (by decide) (by decide) (by decide), tagState_tagSetState _ (by decide)]

section
variable {s : State} {chip q pa : Nat} {bs : List Byte}

theorem State.storeWs_full (h : tagState (s.tag (grainOf pa)) = 7) : s.storeWs chip q pa bs = .refused s .wsRewrite :=
  if_pos (beq_iff_eq.mpr h)

theorem State.storeWs_foreign (h : tagState (s.tag (grainOf pa)) = 6)
    (hwriter : tagPtr (s.tag (grainOf pa)) 0 ≠ chip ∨ tagPtr (s.tag (grainOf pa)) 1 % 512 ≠ q) :
    s.storeWs chip q pa bs = .refused s .wsForeign := by
  simp only [State.storeWs, h, Nat.reduceBEq, Bool.false_eq_true, if_false, if_true]
  exact if_pos (by simpa using hwriter)

/-- The claim's writer stores over bytes already written, or adds its bytes to the grain. -/
theorem State.storeWs_own (h : tagState (s.tag (grainOf pa)) = 6) (hchip : tagPtr (s.tag (grainOf pa)) 0 = chip)
    (hcluster : tagPtr (s.tag (grainOf pa)) 1 % 512 = q) :
    (s.wsMask.get (grainOf pa) 0 &&& grainMask pa bs.length ≠ 0 → s.storeWs chip q pa bs = .refused s .wsRewrite) ∧
    (s.wsMask.get (grainOf pa) 0 &&& grainMask pa bs.length = 0 →
      ∃ u, s.storeWs chip q pa bs = .done u [] 0 ∧ u.mem = Memory.writeAll s.mem pa bs) := by
  simp only [State.storeWs, h, Nat.reduceBEq, hchip, hcluster, bne_self_eq_false, Bool.or_self, Bool.false_eq_true, if_false, if_true,
    bne_iff_ne]
  refine ⟨fun hover => if_pos hover, fun hfree => ?_⟩
  simp only [hfree, ne_eq, not_true_eq_false, if_false]
  refine ⟨_, rfl, ?_⟩
  split
  · rw [State.wsFull_mem, State.writeMem_mem]
  · exact State.writeMem_mem ..

/-- The first store to an EMPTY grain zeroes it and claims it, or fills it whole. -/
theorem State.storeWs_empty (h : tagState (s.tag (grainOf pa)) = 5) : ∃ u, s.storeWs chip q pa bs = .done u [] 0 ∧
    u.mem = Memory.writeAll (Memory.writeAll s.mem (grainOf pa * 512) (List.replicate 512 0)) pa bs ∧
    tagState (u.tag (grainOf pa)) = if pa % 512 = 0 ∧ 512 ≤ bs.length then 7 else 6 := by
  simp only [State.storeWs, h, Nat.reduceBEq, Bool.false_eq_true, if_false, beq_iff_eq, grainMask_eq_allOnes]
  refine ⟨_, rfl, ?_, ?_⟩
  · split
    all_goals simp only [State.wsFull_mem, State.writeMem_mem, State.setTag_mem, State.zeroGrain, State.preserve_mem]
  · split
    · exact State.tagState_wsFull ..
    · refine (State.tagState_writeMem _ pa bs _).trans ?_
      rw [State.tag_setTag_same, tagSetPtr, tagSetPtr, tagState_tagSet _ _ (by decide) (by decide) (by decide),
        tagState_tagSet _ _ (by decide) (by decide) (by decide), tagState_tagSetState _ (by decide)]

end

/-! ### One attempt (R218) -/

section
variable {s : State} {a : Access} (hspace : a.space = 0) (hhost : pteHost a.pte = false) (hunheld : s.Unheld a.pa a.core a.pte)
  (hrebase : s.rebaseDue = false)
include hspace hhost hunheld hrebase

/-- A load that nothing holds back and no line serves is performed at its grain, or refused by its tag. -/
theorem State.attempt_load {sx : Bool} (hop : a.op = .load sx) (hmay : s.mayRead (grainOf a.pa) = true)
    (hhome : pteBit a.pte 9 = true → chipOf a.pa = s.chip) (hmiss : s.lines.find? (lineKey (a.core / 4) a.pa) = none) :
    ∃ r, LoadsAt a.core a.pa a.size a.pte (s.adopted a.pa a.core a.pte) r ∧ s.attempt a =
      if agrees ((s.adopted a.pa a.core a.pte).tag (grainOf a.pa)) a.pte = true then r
      else .refused (s.adopted a.pa a.core a.pte) .classAlias := by
  obtain ⟨k, hk, hloads⟩ := State.loadDev_approaches a.hint hhome hrebase hmiss
  refine ⟨_, hloads _, ?_⟩
  rw [← State.approach_of_unheld hunheld (write := false) hmay, ← hk]
  simp [State.attempt, Access.isFence, hop, hspace, hhost]

/-- A store that nothing holds back and that this chip performs is performed at its grain, or refused by its tag. -/
theorem State.attempt_store {d : List Byte} (hop : a.op = .store d) (hmay : s.mayWrite (grainOf a.pa) = true)
    (haway : s.storeAway a.pa a.pte = false) :
    ∃ r, StoresAt a d (s.adopted a.pa a.core a.pte) r ∧ s.attempt a =
      if agrees ((s.adopted a.pa a.core a.pte).tag (grainOf a.pa)) a.pte = true then r
      else .refused (s.adopted a.pa a.core a.pte) .classAlias := by
  obtain ⟨k, hk, hstores⟩ := State.storeDev_approaches d hrebase haway
  refine ⟨_, hstores _, ?_⟩
  rw [← State.approach_of_unheld hunheld (write := true) hmay, ← hk]
  simp [State.attempt, Access.isFence, hop, hspace, hhost]

end

/-- A store to a page that is neither of class WS nor replicated, or to one of this home, is performed on this chip (R233, R234). -/
theorem State.storeAway_eq_false {s : State} {pa : Nat} {pte : BitVec 64}
    (h : chipOf pa = s.chip ∨ pteClass pte ≠ 2 ∧ pteBit pte 9 = false) : s.storeAway pa pte = false := by
  rcases h with hhome | ⟨hclass, hbit⟩
  · simp [State.storeAway, hhome]
  · simp [State.storeAway, hclass, hbit]

/-- With no matrix work, a load of a typed buffer reads the window and a store writes it (R180, R279). -/
theorem State.attempt_buffer {s : State} {a : Access} (hspace : a.space ≠ 0) (hworks : s.works = []) :
    (∀ sx, a.op = .load sx →
      s.attempt a = .done s (s.bufRead (s.group a.gid).team a.space (unitOf a.space a.core) false a.pa a.size) 0) ∧
    (∀ d, a.op = .store d →
      s.attempt a = .done (s.bufWrite (s.group a.gid).team a.space (unitOf a.space a.core) false a.pa d) [] 0) := by
  constructor <;> intro x hop
  all_goals simp [State.attempt, Access.isFence, State.bufPerform, workHolds, hop, hspace, hworks]

/-- Bytes written to memory in its canonical form are the bytes read, and the form is kept. -/
theorem State.bytes_written {s u : State} (h : s.MemoryCanonical) {pa : Nat} {bs : List Byte} (hmem : u.mem = Memory.writeAll s.mem pa bs) :
    (∀ b, u.byteAt b = if pa ≤ b ∧ b < pa + bs.length then bs.getD (b - pa) 0 else s.byteAt b) ∧ u.MemoryCanonical := by
  unfold State.byteAt State.MemoryCanonical
  rw [hmem]
  exact ⟨Memory.read_writeAll h pa bs, Memory.wf_writeAll bs pa h⟩

/-- The bytes of a claimed grain that the store does not write become zero. -/
theorem State.bytes_claimed {s u : State} (h : s.MemoryCanonical) {pa : Nat} {bs : List Byte}
    (hmem : u.mem = Memory.writeAll (Memory.writeAll s.mem (grainOf pa * 512) (List.replicate 512 0)) pa bs) :
    (∀ b, u.byteAt b = if pa ≤ b ∧ b < pa + bs.length then bs.getD (b - pa) 0
      else if b / 512 = grainOf pa then 0 else s.byteAt b) ∧ u.MemoryCanonical := by
  have hzeroed := Memory.wf_writeAll (List.replicate 512 0) (grainOf pa * 512) h
  unfold State.byteAt State.MemoryCanonical
  rw [hmem]
  refine ⟨fun b => ?_, Memory.wf_writeAll bs pa hzeroed⟩
  have hgrain : (grainOf pa * 512 ≤ b ∧ b < grainOf pa * 512 + 512) ↔ b / 512 = grainOf pa := by omega
  have hzero : (List.replicate 512 (0 : Byte)).getD (b - grainOf pa * 512) 0 = 0 := by
    rw [List.getD_eq_getElem?_getD, List.getElem?_replicate]
    split <;> rfl
  rw [Memory.read_writeAll hzeroed, Memory.read_writeAll h, List.length_replicate, hzero]
  simp only [hgrain]

end Sys2Proof.Machine

namespace Sys2Proof

open Sys2Proof.Machine

/-- Settles O52: an access that nothing holds back reaches its grain with the tag adopted, and is performed there by its page's class. -/
theorem performedLoadsAndStoresMoveTheirBytes : Obligations.PerformedLoadsAndStoresMoveTheirBytes := by
  unfold Obligations.PerformedLoadsAndStoresMoveTheirBytes
  intro s a hcanon hsize g ad t cl free bytes
  have hunheld : free → s.Unheld a.pa a.core a.pte := by
    rintro ⟨-, -, hlock, htxn, hreplicas, hengine, hputting, hrecorded, hhost, -, -⟩
    exact ⟨hlock, htxn, hreplicas, hengine, hputting, hrecorded, hhost⟩
  obtain ⟨tg, had⟩ : ∃ tg, ad = { s with tags := tg } := s.adopted_frame a.pa a.core a.pte
  have hread : ad.readMem a.pa a.size = s.readMem a.pa a.size := by rw [had]; rfl
  have hstamp : ad.readStamp = s.readStamp := by rw [had]; rfl
  have hmem : ad.mem = s.mem := by rw [had]
  have hchip : ad.chip = s.chip := by rw [had]
  have hmask : ad.wsMask = s.wsMask := by rw [had]
  have hroom : free → ad.HasRoom (a.core / 4) := by
    rintro ⟨-, -, -, -, -, -, -, -, -, -, hroom⟩
    rw [had]
    exact hroom
  refine ⟨fun hfree hdisagree hclass hrebase hmiss => ?disagrees, fun sx hop hfree hagree hmay hrebase hmiss => ?load,
    fun d hop hlen hfree hagree hmay hrebase hbit => ?store, fun hspace hworks => State.attempt_buffer hspace hworks⟩
  case disagrees =>
    have hun := hunheld hfree
    obtain ⟨hspace, hhost, -, -, -, -, -, -, -, hhome, -⟩ := hfree
    have hno : ¬ agrees t a.pte = true := by simp [hdisagree]
    refine ⟨fun sx hop hmay => ?_, fun d hop hmay => ?_⟩
    · obtain ⟨r, -, hr⟩ := State.attempt_load hspace hhost hun hrebase hop hmay hhome hmiss
      exact hr.trans (if_neg hno)
    · have haway : s.storeAway a.pa a.pte = false := by
        refine State.storeAway_eq_false ?_
        cases hbit : pteBit a.pte 9
        · exact .inr ⟨Nat.ne_of_lt hclass, rfl⟩
        · exact .inl (hhome hbit)
      obtain ⟨r, -, hr⟩ := State.attempt_store hspace hhost hun hrebase hop hmay haway
      exact hr.trans (if_neg hno)
  case load =>
    have hun := hunheld hfree
    have hrm := hroom hfree
    obtain ⟨hspace, hhost, -, -, -, -, -, -, -, hhome, -⟩ := hfree
    obtain ⟨r, hloads, hr⟩ := State.attempt_load hspace hhost hun hrebase hop hmay hhome hmiss
    rw [hr.trans (if_pos hagree)]
    rw [← hread, ← hstamp, ← hchip, ← hmem]
    exact ⟨fun _ => hloads.poison, fun hclass hpoison => hloads.cached hpoison hclass hrm,
      fun hclass hpoison hstate => (hloads.once hpoison hclass).trans (if_neg hstate),
      fun hclass hpoison hstate => (hloads.once hpoison hclass).trans (if_pos hstate),
      fun hclass hpoison => hloads.foreign hpoison hclass,
      fun hclass hpoison hown hcore => hloads.own hpoison hclass hown hcore hrm⟩
  case store =>
    have hun := hunheld hfree
    have hrm := hroom hfree
    obtain ⟨hspace, hhost, -⟩ := hfree
    have hreach (haway : s.storeAway a.pa a.pte = false) : ∃ r, StoresAt a d ad r ∧ s.attempt a = r := by
      obtain ⟨r, hstores, hr⟩ := State.attempt_store hspace hhost hun hrebase hop hmay haway
      exact ⟨r, hstores, hr.trans (if_pos hagree)⟩
    refine ⟨fun hclass => ?cached, fun hclass hhomed => ?once, fun hclass hforeign => ?foreign⟩
    case cached =>
      obtain ⟨r, hstores, hr⟩ := hreach (State.storeAway_eq_false (.inr ⟨Nat.ne_of_lt hclass, hbit⟩))
      obtain ⟨u, w, hdone, hwritten, hgroups⟩ := hstores.cached hclass hbit hrm
      obtain ⟨hbytes, hform⟩ := State.bytes_written hcanon (hmem ▸ hwritten)
      exact ⟨u, w, hr.trans hdone, hbytes, hform, hgroups.trans (by rw [had])⟩
    case once =>
      obtain ⟨r, hstores, hr⟩ := hreach (State.storeAway_eq_false (.inl hhomed))
      have hws : s.attempt a = ad.storeWs s.chip (a.core / 4) a.pa d := by rw [hr, hstores.once hclass, hchip]
      refine ⟨fun hempty => ?_, fun hfull => hws.trans (State.storeWs_full hfull),
        fun hclaimed hforeign => hws.trans (State.storeWs_foreign hclaimed hforeign), fun hclaimed hown hcluster => ?_⟩
      · obtain ⟨u, hdone, hwritten, hstate⟩ := State.storeWs_empty (chip := s.chip) (q := a.core / 4) (bs := d) hempty
        obtain ⟨hbytes, hform⟩ := State.bytes_claimed hcanon (hmem ▸ hwritten)
        exact ⟨u, hws.trans hdone, hform, hlen ▸ hstate, hbytes⟩
      · obtain ⟨hover, hadds⟩ := State.storeWs_own (bs := d) hclaimed hown hcluster
        rw [hlen, hmask] at hover hadds
        refine ⟨fun hwritten => hws.trans (hover hwritten), fun hfresh => ?_⟩
        obtain ⟨u, hdone, hwritten⟩ := hadds hfresh
        exact ⟨u, hws.trans hdone, State.bytes_written hcanon (hmem ▸ hwritten)⟩
    case foreign =>
      have hnot : pteClass a.pte ≠ 2 := fun h => absurd (hclass.symm.trans h) (by decide)
      obtain ⟨r, hstores, hr⟩ := hreach (State.storeAway_eq_false (.inr ⟨hnot, hbit⟩))
      exact hr.trans (hstores.foreign hclass (hchip ▸ hforeign))

end Sys2Proof
end

section
/-!
PROOF. The canonical form of the memory (R222) under the machine's steps: what keeps the form of a list of cells, and what a fold over
states, the result of an operation and an answer of `exec` keep when their parts do.
-/

namespace Sys2Proof.Machine

set_option Elab.async false

/-! ### Lists of cells -/

theorem Memory.above_filter {n : Nat} {m : List Host.Cell} (p : Host.Cell → Bool) (h : Memory.above n m = true) :
    Memory.above n (m.filter p) = true := by
  simp only [Memory.above, List.all_eq_true] at h ⊢
  exact fun c hc => h c (List.mem_of_mem_filter hc)

theorem Memory.wf_filter {m : List Host.Cell} (p : Host.Cell → Bool) (h : Memory.wf m = true) : Memory.wf (m.filter p) = true := by
  induction m with
  | nil => rfl
  | cons c m ih =>
    obtain ⟨a, b⟩ := c
    simp only [Memory.wf, Bool.and_eq_true] at h
    obtain ⟨⟨hb, ha⟩, hm⟩ := h
    rw [List.filter_cons]
    split
    · simp only [Memory.wf, Bool.and_eq_true]
      exact ⟨⟨hb, Memory.above_filter p ha⟩, ih hm⟩
    · exact ih hm

theorem Memory.wf_foldl_write {base : Nat} (cs : List (Nat × Byte)) {m : List Host.Cell} (h : Memory.wf m = true) :
    Memory.wf (cs.foldl (fun m c => Memory.write m (base + c.1) c.2) m) = true :=
  List.foldlRecOn (motive := fun m => Memory.wf m = true) _ _ h fun _ hm _ _ => Memory.wf_write _ _ hm

theorem Memory.ne_zero_of_mem {m : List Host.Cell} (h : Memory.wf m = true) {c : Host.Cell} (hc : c ∈ m) : c.2 ≠ 0 := by
  induction m with
  | nil => cases hc
  | cons d m ih =>
    obtain ⟨a, b⟩ := d
    simp only [Memory.wf, Bool.and_eq_true, bne_iff_ne] at h
    obtain ⟨⟨hb, -⟩, hm⟩ := h
    rcases List.mem_cons.1 hc with rfl | hc
    · exact hb
    · exact ih hm hc

/-- Setting the entry of an address to a byte that is not zero is writing it. -/
theorem Memory.insert_eq_write {k : Nat} {x : Byte} (hx : x ≠ 0) (m : List Host.Cell) : SMap.insert m k x = Memory.write m k x := by
  induction m with
  | nil => exact (if_neg hx).symm
  | cons c m ih => simp only [SMap.insert, Memory.write, if_neg hx, ih]

theorem Memory.wf_insert {m : List Host.Cell} (k : Nat) {x : Byte} (hx : x ≠ 0) (h : Memory.wf m = true) :
    Memory.wf (SMap.insert m k x) = true := by
  rw [Memory.insert_eq_write hx]
  exact Memory.wf_write k x h

/-! ### States -/

theorem State.canonical_ite {c : Prop} [Decidable c] {a b : State} (ha : a.MemoryCanonical) (hb : b.MemoryCanonical) :
    (if c then a else b).MemoryCanonical := by
  split
  · exact ha
  · exact hb

theorem State.foldl_canonical {β : Type} {f : State → β → State} (hf : ∀ s b, s.MemoryCanonical → (f s b).MemoryCanonical) {l : List β}
    {s : State} (hs : s.MemoryCanonical) : (l.foldl f s).MemoryCanonical :=
  List.foldlRecOn (motive := State.MemoryCanonical) _ _ hs fun s h b _ => hf s b h

theorem State.foldl_mem {β : Type} {f : State → β → State} (hf : ∀ s b, (f s b).mem = s.mem) {l : List β} {s : State} :
    (l.foldl f s).mem = s.mem := foldl_leaves State.mem hf l s

theorem State.foldl_snd_canonical {α β : Type} {f : α × State → β → α × State} (hf : ∀ p b, p.2.MemoryCanonical → (f p b).2.MemoryCanonical)
    {l : List β} {p : α × State} (hp : p.2.MemoryCanonical) : (l.foldl f p).2.MemoryCanonical :=
  List.foldlRecOn (motive := fun p : α × State => p.2.MemoryCanonical) _ _ hp fun p h b _ => hf p b h

theorem State.foldl_snd_mem {α β : Type} {f : α × State → β → α × State} (hf : ∀ p b, (f p b).2.mem = p.2.mem) {l : List β}
    {p : α × State} : (l.foldl f p).2.mem = p.2.mem := foldl_leaves (fun p : α × State => p.2.mem) hf l p

theorem EngR.foldl_canonical {β : Type} {f : EngR → β → EngR} (hf : ∀ r b, r.state.MemoryCanonical → (f r b).state.MemoryCanonical)
    {l : List β} {r : EngR} (hr : r.state.MemoryCanonical) : (l.foldl f r).state.MemoryCanonical :=
  List.foldlRecOn (motive := fun r : EngR => r.state.MemoryCanonical) _ _ hr fun r h b _ => hf r b h

/-! ### Results that hold a state -/

/-- The state that a delivery leaves. -/
def Delivery.state : Delivery → State
  | .done s | .wait s => s

/-- The state that the move of a page leaves. -/
def Moved.state : Moved → State
  | .done s | .fail _ s | .wait _ s => s

/-- The state that a launch leaves. -/
def Launched.state : Launched → State
  | .started _ s | .refused _ s | .wait s => s

/-- The state that an acceptance leaves. -/
def Accepted.state : Accepted → State
  | .ok _ s | .refused _ s | .wait s => s

@[simp] theorem Delivery.state_done (s : State) : (Delivery.done s).state = s := rfl
@[simp] theorem Delivery.state_wait (s : State) : (Delivery.wait s).state = s := rfl
@[simp] theorem Moved.state_done (s : State) : (Moved.done s).state = s := rfl
@[simp] theorem Moved.state_fail (c : FaultCode) (s : State) : (Moved.fail c s).state = s := rfl
@[simp] theorem Moved.state_wait (frame : Bool) (s : State) : (Moved.wait frame s).state = s := rfl
@[simp] theorem Launched.state_started (gr : Nat) (s : State) : (Launched.started gr s).state = s := rfl
@[simp] theorem Launched.state_refused (c : FaultCode) (s : State) : (Launched.refused c s).state = s := rfl
@[simp] theorem Launched.state_wait (s : State) : (Launched.wait s).state = s := rfl
@[simp] theorem Accepted.state_ok (g : Grid) (s : State) : (Accepted.ok g s).state = s := rfl
@[simp] theorem Accepted.state_refused (c : FaultCode) (s : State) : (Accepted.refused c s).state = s := rfl
@[simp] theorem Accepted.state_wait (s : State) : (Accepted.wait s).state = s := rfl

/-! ### Answers -/

/-- A result whose next state, when it is one, has its memory in canonical form. -/
def AnswersCanonical (r : Result) : Prop := ∀ t, r = .next t → t.MemoryCanonical

@[simp] theorem answersCanonical_next {s : State} : AnswersCanonical (.next s) ↔ Memory.wf s.mem = true :=
  ⟨fun h => h s rfl, fun h _ ht => by cases ht; exact h⟩

theorem answersCanonical_ite {c : Prop} [Decidable c] {a b : Result} (ha : AnswersCanonical a) (hb : AnswersCanonical b) :
    AnswersCanonical (if c then a else b) := by
  split
  · exact ha
  · exact hb

@[simp] theorem State.finish_canonical {s : State} {iss : Issue} {n : Nat} {es : List Effect} :
    AnswersCanonical (s.finish iss n es) ↔ Memory.wf s.mem = true := answersCanonical_next

@[simp] theorem State.finishAlu_canonical {s : State} {iss : Issue} {n : Nat} {x : LaneVals} {es : List Effect} :
    AnswersCanonical (s.finishAlu iss n x es) ↔ Memory.wf s.mem = true := answersCanonical_next

@[simp] theorem State.writeA_canonical {s : State} {iss : Issue} {f : FA} {ls : Lits} {x : LaneVals} {es : List Effect} :
    AnswersCanonical (s.writeA iss f ls x es) ↔ Memory.wf s.mem = true := answersCanonical_next

@[simp] theorem State.writeF_canonical {s : State} {iss : Issue} {f : FA} {ls : Lits} {L : Layout} {n : Nat} {r : Nat → Nat → FpRes} :
    AnswersCanonical (s.writeF iss f ls L n r) ↔ Memory.wf s.mem = true := answersCanonical_next

@[simp] theorem State.writeX_canonical {s : State} {iss : Issue} {f : FX} {ls : Lits} {x : LaneVals} {es : List Effect} :
    AnswersCanonical (s.writeX iss f ls x es) ↔ Memory.wf s.mem = true := answersCanonical_next

@[simp] theorem State.endRange_canonical {s : State} {iss : Issue} {ls : Lits} {i : Instr} {n : List Nat} :
    AnswersCanonical (s.endRange iss ls i n) ↔ Memory.wf s.mem = true := answersCanonical_next

@[simp] theorem State.faults_canonical {s : State} {iss : Issue} {c : FaultCode} {lanes : Lanes} {va : Nat} :
    AnswersCanonical (s.faults iss c lanes va) ↔ Memory.wf s.mem = true := by
  rw [State.faults, answersCanonical_next, State.raise_mem]

@[simp] theorem State.faultAll_canonical {s : State} {iss : Issue} {c : FaultCode} {va : Nat} :
    AnswersCanonical (s.faultAll iss c va) ↔ Memory.wf s.mem = true := State.faults_canonical

end Sys2Proof.Machine
end

section
/-!
PROOF. The operations of groups, bytes, tags and stamps keep the memory in its canonical form: of each, that it leaves
the memory as it is, or that it keeps the form whatever it writes.
-/

namespace Sys2Proof.Machine

set_option Elab.async false

variable {s : State}

/-! ### Access to groups, threads, teams and contexts -/

@[simp] theorem State.fresh_mem : s.fresh.2.mem = s.mem := rfl

/-! ### The clause in a slot -/

theorem State.withIssue_canonical {k : Issue → State → Result} (hk : ∀ iss, AnswersCanonical (k iss s)) : AnswersCanonical (s.withIssue k) := by
  intro t ht
  obtain ⟨iss, rest, -, hiss⟩ := State.withIssue_next ht
  exact hk iss t hiss

@[simp] theorem State.stall_mem : s.stall.mem = s.mem := by
  unfold State.stall
  split <;> rfl

/-! ### Readers of host memory (R304) -/

@[simp] theorem State.engDone_mem {who : Nat} : (s.engDone who).mem = s.mem := by
  unfold State.engDone
  split <;> rfl

/-! ### Faults -/

@[simp] theorem State.queueFault_mem {gid : Nat} {f : FaultRec} : (s.queueFault gid f).mem = s.mem := by
  unfold State.queueFault
  split <;> rfl

@[simp] theorem State.askKill_mem {c : Nat} {k : KillReq} : (s.askKill c k).mem = s.mem := rfl

/-! ### Shared shapes -/

theorem aluInt2_canonical {op : Nat → Nat → Nat → Nat} {f : FA} {ls : Lits} (hs : s.MemoryCanonical) :
    AnswersCanonical (aluInt2 op f ls s) :=
  State.withIssue_canonical fun _ => by simp [hs]

theorem aluInt1_canonical {op : Nat → Nat → Nat} {f : FA} {ls : Lits} (hs : s.MemoryCanonical) : AnswersCanonical (aluInt1 op f ls s) :=
  State.withIssue_canonical fun _ => by simp [hs]

theorem aluInt3_canonical {op : Nat → Nat → Nat → Nat → Nat} {f : FA} {ls : Lits} (hs : s.MemoryCanonical) :
    AnswersCanonical (aluInt3 op f ls s) :=
  State.withIssue_canonical fun _ => by simp [hs]

/-! ### Compare, predicates, select (R100 to R102) -/

theorem cmpInt_canonical {read : Nat → Nat → Int} {f : FA} {ls : Lits} (hs : s.MemoryCanonical) : AnswersCanonical (cmpInt read f ls s) :=
  State.withIssue_canonical fun _ => by simp [hs]

/-! ### Narrow dot products (R109, R140) -/

theorem dotExec_canonical {w m : Nat} {E : Nat → FpFmt} {f : FA} {ls : Lits} (hs : s.MemoryCanonical) :
    AnswersCanonical (dotExec w m E f ls s) := by
  refine State.withIssue_canonical fun iss => ?_
  dsimp only
  repeat' split
  all_goals simp [hs]

theorem fpu2_canonical {op : FpFmt → RMode → Nat → Nat → FpRes} {f : FA} {ls : Lits} (hs : s.MemoryCanonical) :
    AnswersCanonical (fpu2 op f ls s) :=
  State.withIssue_canonical fun _ => by simp [hs]

theorem fpu1_canonical {op : FpFmt → RMode → Nat → FpRes} {f : FA} {ls : Lits} (hs : s.MemoryCanonical) :
    AnswersCanonical (fpu1 op f ls s) :=
  State.withIssue_canonical fun _ => by simp [hs]

theorem xlRun_canonical {fold : Bool} {L : Layout} {f : FX} {ls : Lits} {k : Issue → State → Result} (hs : s.MemoryCanonical)
    (hk : ∀ iss, AnswersCanonical (k iss s)) : AnswersCanonical (xlRun fold L f ls s k) := by
  refine State.withIssue_canonical fun iss => ?_
  split
  · exact State.faults_canonical.2 hs
  · exact hk iss

theorem xlVote_canonical {k : Lanes → (Nat → Bool) → Word} {f : FX} {ls : Lits} (hs : s.MemoryCanonical) :
    AnswersCanonical (xlVote k f ls s) :=
  xlRun_canonical hs fun _ => by simp [hs]

/-! ### Bytes -/

@[simp] theorem State.linkError_mem {st : HostStatus} : (s.linkError st).mem = s.mem := by
  unfold State.linkError
  split <;> rfl

/-! ### Grain tags (Table 10·1) -/

@[simp] theorem State.modTag_mem {g : Nat} {f : BitVec 64 → BitVec 64} : (s.modTag g f).mem = s.mem := rfl

/-! ### Snapshots: preserving what a write is about to change (R350, R351) -/

@[simp] theorem State.preserveTier_mem {g : Nat} : (s.preserveTier g).mem = s.mem := by
  unfold State.preserveTier
  dsimp only
  split
  · rfl
  · split <;> rfl

@[simp] theorem State.preserveFrame_mem {tier : Bool} {base n : Nat} : (s.preserveFrame tier base n).mem = s.mem := by
  unfold State.preserveFrame
  grind [State.preserveTier_mem, State.preserve_mem, State.foldl_mem]

@[simp] theorem State.startRecord_mem {newer initiator tag : Nat} : (s.startRecord newer initiator tag).mem = s.mem := by
  unfold State.startRecord
  grind

@[simp] theorem State.holdMessage_mem {epoch : Nat} {i : Instr} : (s.holdMessage epoch i).mem = s.mem := by
  simp [State.holdMessage]

/-! ### Leases and logical clocks (R228 to R231) -/

@[simp] theorem State.raiseLts_mem {q w : Nat} : (s.raiseLts q w).mem = s.mem := by
  unfold State.raiseLts
  split <;> rfl

@[simp] theorem State.acquire_mem {q scope w : Nat} : (s.acquire q scope w).mem = s.mem := by
  unfold State.acquire
  split <;> simp

@[simp] theorem State.stampWrite_mem {q pa : Nat} : (s.stampWrite q pa).2.mem = s.mem := by
  simp [State.stampWrite]

@[simp] theorem State.stampForeign_mem {pa : Nat} : (s.stampForeign pa).mem = s.mem := rfl

@[simp] theorem State.dropLines_mem {p : Nat → Nat → Bool} : (s.dropLines p).mem = s.mem := rfl

theorem State.writeBack_canonical {key : Nat} (hs : s.MemoryCanonical) : (s.writeBack key).MemoryCanonical := by
  unfold State.writeBack
  grind [State.writeMem_canonical]

theorem State.writeBackAll_canonical {p : Nat → Nat → Bool} (hs : s.MemoryCanonical) : (s.writeBackAll p).MemoryCanonical := by
  unfold State.writeBackAll
  grind [State.writeBack_canonical, State.foldl_canonical]

@[simp] theorem State.addFlagEvents_mem {core : Nat} {c : List Nat} : (s.addFlagEvents core c).mem = s.mem := rfl

@[simp] theorem State.addEvent_mem {d : Deferred} : (s.addEvent d).2.mem = s.mem := rfl

@[simp] theorem State.completeEvent_mem {id : Nat} : (s.completeEvent id).mem = s.mem := rfl

@[simp] theorem State.land_mem {id : Nat} : (s.land id).mem = s.mem := by
  unfold State.land
  grind [State.addFlagEvents_mem, State.modGroup_mem, State.queueFault_mem, State.writeV_mem, State.foldl_mem]

end Sys2Proof.Machine
end

section
/-!
PROOF. The operations of the home of a grain (chapter 10) keep the memory in its canonical form: of each, that it leaves
the memory as it is, or that it keeps the form whatever it writes.
-/

namespace Sys2Proof.Machine

set_option Elab.async false

variable {s : State}

/-! ### The clusters' atomic engines (R252, R254) -/

@[simp] theorem State.engineSurrender_mem {q g : Nat} : (s.engineSurrender q g).mem = s.mem := by
  unfold State.engineSurrender
  split <;> rfl

@[simp] theorem State.recall_mem {g : Nat} : (s.recall g).mem = s.mem := by
  unfold State.recall
  split <;> simp

theorem State.clean_canonical {g : Nat} (hs : s.MemoryCanonical) : (s.clean g).MemoryCanonical := by
  unfold State.clean
  grind [State.writeBackAll_canonical]

@[simp] theorem State.engineTake_mem {q g : Nat} : (s.engineTake q g).mem = s.mem := by
  unfold State.engineTake
  grind [State.dropLines_mem, State.engineSurrender_mem, State.stampWrite_mem, State.foldl_snd_mem]

/-! ### Messages of class 0 (R225) -/

@[simp] theorem State.enqueue_mem {m : Msg} : (s.enqueue m).mem = s.mem := rfl

@[simp] theorem State.sendCoh_mem {chip : Nat} {k : CohKind} {pa leaf arg : Nat} {data : List Byte} :
    (s.sendCoh chip k pa leaf arg data).mem = s.mem := rfl

@[simp] theorem State.sendMsg_mem {chip : Nat} {k : CohKind} {g : Nat} : (s.sendMsg chip k g).mem = s.mem := rfl

@[simp] theorem State.sendData_mem {chip g : Nat} {t : BitVec 64} : (s.sendData chip g t).mem = s.mem := rfl

/-! ### Unassigned tags (R223) -/

@[simp] theorem State.adoptAs_mem {g leaf chip : Nat} : (s.adoptAs g leaf chip).mem = s.mem := by
  unfold State.adoptAs
  grind [State.setTag_mem]

/-! ### This chip's hold on grains -/

theorem State.unhold_canonical {g : Nat} (hs : s.MemoryCanonical) : (s.unhold g).MemoryCanonical := Memory.wf_filter _ hs

theorem State.surrender_canonical {g : Nat} (hs : s.MemoryCanonical) : (s.surrender g).MemoryCanonical := by
  unfold State.surrender
  grind [State.passFloor_mem, State.recall_mem, State.unhold_canonical]

theorem State.dropUncached_canonical {g : Nat} (hs : s.MemoryCanonical) : (s.dropUncached g).MemoryCanonical := by
  unfold State.dropUncached
  grind [State.unhold_canonical]

theorem State.giveBack_canonical {g : Nat} (hs : s.MemoryCanonical) : (s.giveBack g).MemoryCanonical := by
  unfold State.giveBack
  grind [State.clean_canonical, State.recall_mem, State.sendData_mem, State.sendMsg_mem, State.surrender_canonical]

theorem State.makeRoom_canonical (hs : s.MemoryCanonical) : s.makeRoom.MemoryCanonical := by
  unfold State.makeRoom
  grind [State.giveBack_canonical]

/-! ### Back-invalidation of the host (R415) -/

@[simp] theorem State.hostUsed_mem {g : Nat} : (s.hostUsed g).mem = s.mem := rfl

@[simp] theorem State.backInvalidate_mem {g : Nat} : (s.backInvalidate g).mem = s.mem := by
  unfold State.backInvalidate
  split <;> rfl

/-! ### The home (R225, R226) -/

@[simp] theorem State.finishTxn_mem {g : Nat} : (s.finishTxn g).mem = s.mem := by
  unfold State.finishTxn
  grind [State.passFloor_mem, State.sendData_mem, State.sendMsg_mem, State.setTag_mem]

@[simp] theorem State.openTxn_mem {g : Nat} {inv fwd : List Nat} {excl : Bool} {t : Txn} : (s.openTxn g inv fwd excl t).mem = s.mem := by
  unfold State.openTxn
  grind [State.finishTxn_mem, State.sendCoh_mem, State.sendMsg_mem, State.foldl_mem]

theorem State.homeServe_canonical {g : Nat} {r : HomeReq} (hs : s.MemoryCanonical) : (s.homeServe g r).MemoryCanonical := by
  unfold State.homeServe
  extract_lets +onlyGivenNames s1 x own s2 t mTag st base
  have h2 : s2.MemoryCanonical := by grind [State.recall_mem, State.adoptAs_mem]
  clear_value s2 st own base mTag
  repeat' with_reducible refine State.canonical_ite ?_ ?_
  all_goals grind [State.clean_canonical, State.openTxn_mem, State.passFloor_mem, State.sendCoh_mem, State.sendData_mem, State.setTag_mem]

theorem State.putBack_canonical {g chip epoch : Nat} {data : List Byte} (hs : s.MemoryCanonical) :
    (s.putBack g chip epoch data).MemoryCanonical := by
  unfold State.putBack
  grind [State.modTag_mem, State.putMem_canonical, State.sendMsg_mem, State.setTag_mem, State.stampGrain_mem]

@[simp] theorem State.queueReq_mem {g : Nat} {r : HomeReq} : (s.queueReq g r).mem = s.mem := rfl

theorem State.homeRequest_canonical {g : Nat} {r : HomeReq} (hs : s.MemoryCanonical) : (s.homeRequest g r).MemoryCanonical := by
  unfold State.homeRequest
  dsimp only
  repeat' split
  all_goals
    grind [State.queueReq_mem, State.putBack_canonical, State.adoptAs_mem, State.homeServe_canonical, State.backInvalidate_mem,
      State.hostUsed_mem]

theorem State.homeNext_canonical {g : Nat} (hs : s.MemoryCanonical) : (s.homeNext g).MemoryCanonical := by
  unfold State.homeNext
  grind [State.homeRequest_canonical, State.foldl_canonical]

theorem State.homeRetry_canonical (hs : s.MemoryCanonical) : s.homeRetry.MemoryCanonical := by
  unfold State.homeRetry
  grind [State.homeNext_canonical, State.foldl_canonical]

theorem State.request_canonical {g : Nat} {getM : Bool} {leaf : Nat} (hs : s.MemoryCanonical) :
    (s.request g getM leaf).MemoryCanonical := by
  unfold State.request
  grind [State.homeRequest_canonical, State.sendCoh_mem]

/-! ### Recalls for the host and the reliability interface (R225, R254, R415, R424) -/

theorem State.takeBack_canonical {g : Nat} {write : Bool} (hs : s.MemoryCanonical) : (s.takeBack g write).2.MemoryCanonical := by
  unfold State.takeBack
  grind [State.clean_canonical, State.openTxn_mem, State.recall_mem, State.request_canonical]

theorem State.takeAllBack_canonical {gs : List Nat} {write : Bool} (hs : s.MemoryCanonical) :
    (s.takeAllBack gs write).2.MemoryCanonical := by
  unfold State.takeAllBack
  grind [State.takeBack_canonical, State.foldl_snd_canonical]

@[simp] theorem State.tookBack_mem {gs : List Nat} : (s.tookBack gs).mem = s.mem := rfl

end Sys2Proof.Machine
end

section
/-!
PROOF. The operations of buffers, translation and accesses keep the memory in its canonical form: of each, that it
leaves the memory as it is, or that it keeps the form whatever it writes.
-/

namespace Sys2Proof.Machine

set_option Elab.async false

variable {s : State}

@[simp] theorem State.bankCow_mem {team space unit : Nat} {shadow : Bool} {a : Nat} :
    (s.bankCow team space unit shadow a).mem = s.mem := by
  simp [State.bankCow]

@[simp] theorem State.sweepMark_mem {k : Nat} : (s.sweepMark k).mem = s.mem := by
  simp [State.sweepMark]

@[simp] theorem State.keepMarks_mem {tid : Nat} : (s.keepMarks tid).mem = s.mem :=
  State.foldl_mem fun _ _ => by simp

@[simp] theorem State.bufWrite_mem {team space unit : Nat} {shadow : Bool} {a : Nat} {bs : List Byte} :
    (s.bufWrite team space unit shadow a bs).mem = s.mem :=
  State.foldl_mem fun _ _ => by simp

/-! ### The walk -/

theorem State.walkDone_canonical {q : Nat} {path : List Nat} (hs : s.MemoryCanonical) : (s.walkDone q path).MemoryCanonical := by
  unfold State.walkDone
  grind [State.acquire_mem, State.dropUncached_canonical, State.foldl_canonical]

theorem State.orPte_canonical {q : Nat} {l : Leaf} {mask : Nat} (hs : s.MemoryCanonical) : (s.orPte q l mask).MemoryCanonical := by
  unfold State.orPte
  grind [State.markWritten_mem, State.recall_mem, State.stampWrite_mem, State.writeMem_canonical]

theorem State.lookup_canonical {c : Ctx} {core asid va : Nat} (hs : s.MemoryCanonical) : (s.lookup c core asid va).2.MemoryCanonical := by
  unfold State.lookup
  grind [State.orPte_canonical, State.walkDone_canonical]

theorem State.translate_canonical {c : Ctx} {core asid va : Nat} (hs : s.MemoryCanonical) :
    (s.translate c core asid va).2.MemoryCanonical := by
  unfold State.translate
  grind [State.lookup_canonical]

@[simp] theorem State.tlbDrop_mem {p : TlbEntry → Bool} : (s.tlbDrop p).mem = s.mem := rfl

theorem State.setDirty_canonical {c : Ctx} {core asid va : Nat} {l : Leaf} (hs : s.MemoryCanonical) :
    (s.setDirty c core asid va l).MemoryCanonical := by
  unfold State.setDirty
  grind [State.orPte_canonical, State.walkDone_canonical]

theorem State.translateStore_canonical {c : Ctx} {core asid va : Nat} (hs : s.MemoryCanonical) :
    (s.translateStore c core asid va).2.MemoryCanonical := by
  unfold State.translateStore
  grind [State.translate_canonical]

/-! ### Results of an attempt -/

@[simp] theorem State.adopt_mem {g : Nat} {pte : BitVec 64} {core : Nat} : (s.adopt g pte core).mem = s.mem := by
  simp [State.adopt]

/-! ### The lines of a cluster cache (R11, R177) -/

theorem State.evictLine_canonical {q : Nat} (hs : s.MemoryCanonical) : (s.evictLine q).MemoryCanonical := by
  unfold State.evictLine
  grind [State.writeBack_canonical]

theorem State.fillLine_canonical {q pa : Nat} {l : Line} (hs : s.MemoryCanonical) : (s.fillLine q pa l).MemoryCanonical := by
  unfold State.fillLine
  grind [State.evictLine_canonical]

@[simp] theorem State.keepLine_mem {q pa : Nat} : (s.keepLine q pa).mem = s.mem := rfl

@[simp] theorem State.dropLine_mem {q pa : Nat} : (s.dropLine q pa).mem = s.mem := rfl

@[simp] theorem State.refreshLine_mem {q pa w : Nat} : (s.refreshLine q pa w).mem = s.mem := by
  unfold State.refreshLine
  split <;> rfl

/-! ### Replicas (R232, R233) -/

@[simp] theorem State.replicaWrite_mem {chip g : Nat} {data : List Byte} : (s.replicaWrite chip g data).mem = s.mem := rfl

@[simp] theorem State.replicaStart_mem {a : Access} {bs : List Byte} {remote : Option RemoteOp} :
    (s.replicaStart a bs remote).mem = s.mem :=
  State.foldl_mem fun _ _ => by simp

/-! ### Asking another home (R233, R234, R242, R250) -/

@[simp] theorem State.sendOp_mem {a : Access} {k : CohKind} {data : List Byte} : (s.sendOp a k data).mem = s.mem := rfl

/-! ### Accesses to device memory -/

theorem State.approach_canonical {pa core : Nat} {pte : BitVec 64} {write : Bool} {k : State → Perf} (hs : s.MemoryCanonical)
    (hk : ∀ t, t.MemoryCanonical → (k t).state.MemoryCanonical) : (s.approach pa core pte write k).state.MemoryCanonical := by
  unfold State.approach
  grind [Perf.state_refused, Perf.state_wait, State.request_canonical, State.recall_mem, State.adopt_mem, State.backInvalidate_mem,
    State.dropUncached_canonical]

@[simp] theorem State.takeGrant_mem {q g reach : Nat} : (s.takeGrant q g reach).mem = s.mem := by
  unfold State.takeGrant
  split <;> simp

theorem State.replicaTest_canonical {ra : Nat} {pte : BitVec 64} {k : State → Perf} (hs : s.MemoryCanonical)
    (hk : (k s).state.MemoryCanonical) : (s.replicaTest ra pte k).state.MemoryCanonical := by
  unfold State.replicaTest
  grind [Perf.state_refused, Perf.state_wait]

theorem State.leaseLine_canonical {q pa hint : Nat} (hs : s.MemoryCanonical) : (s.leaseLine q pa hint).MemoryCanonical := by
  unfold State.leaseLine
  grind [State.fillLine_canonical, State.setSector_mem]

theorem State.loadDev_canonical {core pa n : Nat} {pte : BitVec 64} {hint : Nat} (hs : s.MemoryCanonical) :
    (s.loadDev core pa n pte hint).state.MemoryCanonical := by
  unfold State.loadDev
  extract_lets +onlyGivenNames q g hit cl bypass leased
  clear_value hit cl
  split
  · exact State.replicaTest_canonical hs hs
  · split
    · exact hs
    · split
      · grind [Perf.state_done, Perf.state_refused, Perf.state_wait, State.keepLine_mem]
      · refine State.approach_canonical hs fun t ht => ?_
        extract_lets +onlyGivenNames x
        grind [Perf.state_done, Perf.state_refused, Perf.state_wait, State.keepLine_mem, State.dropLine_mem, State.leaseLine_canonical,
          State.takeGrant_mem, State.writeBack_canonical, State.fillLine_canonical]

theorem State.bringNear_canonical {core pa : Nat} {pte : BitVec 64} {hint : Nat} (hs : s.MemoryCanonical) :
    (s.bringNear core pa pte hint).MemoryCanonical := by
  unfold State.bringNear
  grind [State.fillLine_canonical, State.leaseLine_canonical, State.request_canonical]

theorem State.zeroGrain_canonical {g : Nat} (hs : s.MemoryCanonical) : (s.zeroGrain g).MemoryCanonical := by
  unfold State.zeroGrain
  grind [State.writeMem_canonical]

theorem State.storeWs_canonical {chip q pa : Nat} {bs : List Byte} (hs : s.MemoryCanonical) :
    (s.storeWs chip q pa bs).state.MemoryCanonical := by
  unfold State.storeWs
  grind [Perf.state_done, Perf.state_refused, State.preserve_mem, State.setTag_mem, State.writeMem_canonical, State.wsFull_mem,
    State.zeroGrain_canonical]

@[simp] theorem State.stampFor_mem {a : Access} : (s.stampFor a).2.mem = s.mem := by
  unfold State.stampFor
  split <;> simp

theorem State.storeDev_canonical {a : Access} {bs : List Byte} (hs : s.MemoryCanonical) : (s.storeDev a bs).state.MemoryCanonical := by
  unfold State.storeDev
  grind [Perf.state_done, Perf.state_refused, Perf.state_wait, State.approach_canonical, State.dropLine_mem, State.fillLine_canonical,
    State.markWritten_mem, State.modTag_mem, State.refreshLine_mem, State.replicaStart_mem, State.sendOp_mem, State.stampFor_mem,
    State.storeWs_canonical, State.takeGrant_mem, State.writeMem_canonical]

/-! ### Atomics (R250 to R258) -/

@[simp] theorem State.countAtomic_mem {fl : FpFlags} : (s.countAtomic fl).mem = s.mem := by
  unfold State.countAtomic
  split <;> rfl

theorem State.atomWrite_canonical {a : Access} {sub ty : Nat} {x : List Nat} {engine : Bool} (hs : s.MemoryCanonical) :
    (s.atomWrite a sub ty x engine).state.MemoryCanonical := by
  unfold State.atomWrite
  grind [Perf.state_done, Perf.state_refused, State.countAtomic_mem, State.markWritten_mem, State.raiseLts_mem, State.refreshLine_mem,
    State.stampFor_mem, State.writeMem_canonical]

theorem State.atomDev_canonical {a : Access} {sub ty : Nat} {x : List Nat} (hs : s.MemoryCanonical) :
    (s.atomDev a sub ty x).state.MemoryCanonical := by
  unfold State.atomDev
  grind [Perf.state_refused, Perf.state_wait, State.approach_canonical, State.atomWrite_canonical, State.engineTake_mem,
    State.hostUsed_mem, State.replicaStart_mem, State.sendOp_mem]

/-! ### Host memory (R256, R417 to R419) -/

@[simp] theorem State.hostPerform_mem {a : Access} : (s.hostPerform a).state.mem = s.mem := by
  unfold State.hostPerform
  grind [Perf.state_done, Perf.state_wait, State.countAtomic_mem, State.send_mem]

/-! ### Typed buffers -/

@[simp] theorem State.bufPerform_mem {a : Access} : (s.bufPerform a).state.mem = s.mem := by
  unfold State.bufPerform
  grind [Perf.state_done, Perf.state_wait, State.bufWrite_mem]

theorem State.awaitTest_canonical {a : Access} {sub bytes cmp : Nat} (hs : s.MemoryCanonical) :
    (s.awaitTest a sub bytes cmp).state.MemoryCanonical := by
  unfold State.awaitTest
  grind [Perf.state_done, Perf.state_refused, Perf.state_wait, State.approach_canonical, State.dropLine_mem, State.hostPerform_mem,
    State.replicaTest_canonical]

/-! ### The order queue (R197, R199, R206, R214 to R218) -/

@[simp] theorem State.askFence_mem {id : Nat} : (s.askFence id).mem = s.mem :=
  State.foldl_mem fun _ _ => by simp

theorem State.attempt_canonical {a : Access} (hs : s.MemoryCanonical) : (s.attempt a).state.MemoryCanonical := by
  unfold State.attempt
  grind [Perf.state_done, Perf.state_refused, Perf.state_wait, State.adopt_mem, State.askFence_mem, State.atomDev_canonical,
    State.awaitTest_canonical, State.bufPerform_mem, State.hostPerform_mem, State.loadDev_canonical, State.sendOp_mem,
    State.storeDev_canonical]

/-! ### Landing of accesses -/

@[simp] theorem State.queueMerged_mem {gid : Nat} {f : FaultRec} : (s.queueMerged gid f).mem = s.mem := by
  unfold State.queueMerged
  grind [State.modGroup_mem, State.queueFault_mem]

@[simp] theorem State.accessLanded_mem {id : Nat} : (s.accessLanded id).mem = s.mem := rfl

@[simp] theorem State.acquireRead_mem {a : Access} {stamp : Nat} : (s.acquireRead a stamp).mem = s.mem := by
  unfold State.acquireRead
  grind [State.acquire_mem]

@[simp] theorem State.fenceWrite_mem {a : Access} : (s.fenceWrite a).mem = s.mem := by
  unfold State.fenceWrite
  split <;> rfl

@[simp] theorem State.completeAccess_mem {a : Access} {data : List Byte} {stamp : Nat} : (s.completeAccess a data stamp).mem = s.mem := by
  unfold State.completeAccess
  grind [State.accessLanded_mem, State.acquireRead_mem, State.fenceWrite_mem, State.modEvent_mem, State.modGroup_mem, State.usePage_mem]

@[simp] theorem State.refuseAccess_mem {a : Access} {code : FaultCode} {aux : Word} : (s.refuseAccess a code aux).mem = s.mem := by
  unfold State.refuseAccess
  grind [State.accessLanded_mem, State.modEvent_mem, State.modGrid_mem, State.modGroup_mem, State.queueMerged_mem]

@[simp] theorem State.staleWaits_mem {lo n : Nat} : (s.staleWaits lo n).mem = s.mem := rfl

theorem State.freshWait_canonical {a : Access} (hs : s.MemoryCanonical) : (s.freshWait a).2.MemoryCanonical := by
  unfold State.freshWait
  grind [State.request_canonical, State.translate_canonical]

theorem State.tryAccess_canonical {id : Nat} (hs : s.MemoryCanonical) : (s.tryAccess id).MemoryCanonical := by
  unfold State.tryAccess
  grind [Perf.state_done, Perf.state_refused, Perf.state_wait, State.attempt_canonical, State.completeAccess_mem,
    State.freshWait_canonical, State.refuseAccess_mem]

theorem State.settle_canonical (hs : s.MemoryCanonical) : s.settle.MemoryCanonical := by
  unfold State.settle
  grind [State.tryAccess_canonical, State.foldl_canonical]

theorem State.submit_canonical {a : Access} (hs : s.MemoryCanonical) : (s.submit a).MemoryCanonical := by
  unfold State.submit
  grind [State.adopt_mem, State.settle_canonical, State.tryAccess_canonical]

@[simp] theorem State.acquireSeen_mem {gid lane scope : Nat} : (s.acquireSeen gid lane scope).mem = s.mem := by
  simp [State.acquireSeen]

@[simp] theorem State.acquireAll_mem {q scope : Nat} : (s.acquireAll q scope).mem = s.mem := by
  simp [State.acquireAll]

theorem sfuExec_canonical {i : Instr} {L : Layout} {d : BitVec 7} {n : Nat} {res : Issue → Nat → Nat → FpRes} (hs : s.MemoryCanonical) :
    AnswersCanonical (sfuExec i L d n res s) :=
  State.withIssue_canonical fun _ => by simp [hs]

@[simp] theorem commitSfu_mem {iss : Issue} {idx : Nat} {lanes : Lanes} {x y : LaneVals} {n : List Nat} :
    (commitSfu iss idx lanes x y n s).mem = s.mem := rfl

theorem execSfuEntryStart_canonical {core : Nat} (hs : s.MemoryCanonical) : AnswersCanonical (execSfuEntryStart core s) := by
  unfold execSfuEntryStart
  grind [answersCanonical_next]

theorem execSfuResultLanding_canonical {core : Nat} (hs : s.MemoryCanonical) : AnswersCanonical (execSfuResultLanding core s) := by
  unfold execSfuResultLanding
  grind [State.land_mem, answersCanonical_next]

end Sys2Proof.Machine
end

section
/-!
PROOF. The operations of issue and of the units that perform accesses keep the memory in its canonical form: of each,
that it leaves the memory as it is, or that it keeps the form whatever it writes.
-/

namespace Sys2Proof.Machine

set_option Elab.async false

variable {s : State}

/-! ### The words of a clause -/

@[simp] theorem State.cacheCode_mem {q pa : Nat} : (s.cacheCode q pa).mem = s.mem := by
  unfold State.cacheCode
  grind

theorem State.fetchWord_canonical {gid va : Nat} (hs : s.MemoryCanonical) : (s.fetchWord gid va).2.MemoryCanonical := by
  unfold State.fetchWord
  grind [State.cacheCode_mem, State.translate_canonical]

theorem State.fetchWords_canonical {gid va n : Nat} (hs : s.MemoryCanonical) : (s.fetchWords gid va n).2.MemoryCanonical := by
  induction n generalizing s va with
  | zero => exact hs
  | succ n ih =>
    unfold State.fetchWords
    have hw := State.fetchWord_canonical (gid := gid) (va := va) hs
    split
    all_goals
      rename_i hx
      rw [hx] at hw
    · split
      · grind
      · exact ih hw
    · exact hw

theorem State.fetchClause_canonical {gid : Nat} {pc : BitVec 52} (hs : s.MemoryCanonical) : (s.fetchClause gid pc).2.MemoryCanonical := by
  unfold State.fetchClause
  grind [State.fetchWord_canonical, State.fetchWords_canonical]

/-! ### Cross-lane meeting points (R113, R114, R275) -/

theorem State.form_canonical {gid : Nat} (hs : s.MemoryCanonical) : (s.form gid).MemoryCanonical := by
  unfold State.form
  grind [State.setGroup_mem]

theorem State.formAll_canonical (hs : s.MemoryCanonical) : s.formAll.MemoryCanonical := by
  unfold State.formAll
  grind [State.form_canonical, State.foldl_canonical]

/-! ### Issue (R71) -/

theorem State.takeSlot_canonical {gid : Nat} {b : Bundle} {h : IWord} {ws : List IWord} (hs : s.MemoryCanonical) :
    (s.takeSlot gid b h ws).MemoryCanonical := by
  unfold State.takeSlot
  grind [State.dropUncached_canonical, State.modGroup_mem, State.foldl_canonical]

@[simp] theorem State.raiseAt_mem {gid : Nat} {b : Bundle} {idx : Nat} {c : FaultCode} {lanes : Lanes} {va : Nat} :
    (s.raiseAt gid b idx c lanes va).mem = s.mem := by
  simp [State.raiseAt]

theorem State.raiseMeets_canonical {gid : Nat} (hs : s.MemoryCanonical) : (s.raiseMeets gid).MemoryCanonical := by
  unfold State.raiseMeets
  grind [State.raiseAt_mem, State.foldl_canonical]

theorem State.watchBundles_canonical (hs : s.MemoryCanonical) : s.watchBundles.MemoryCanonical := by
  unfold State.watchBundles
  grind

theorem State.joinWaiting_canonical {gid : Nat} {pc : BitVec 52} (hs : s.MemoryCanonical) : (s.joinWaiting gid pc).MemoryCanonical := by
  unfold State.joinWaiting
  grind [State.setGroup_mem]

theorem State.issue_canonical {gid pc : Nat} (hs : s.MemoryCanonical) : (s.issue gid pc).MemoryCanonical := by
  unfold State.issue
  grind [State.fetchClause_canonical, State.joinWaiting_canonical, State.raiseAt_mem, State.raiseMeets_canonical,
    State.request_canonical, State.takeSlot_canonical]

theorem execClauseIssue_canonical {gid pc : Nat} (hs : s.MemoryCanonical) : AnswersCanonical (execClauseIssue gid pc s) := by
  unfold execClauseIssue
  grind [State.issue_canonical, answersCanonical_next]

theorem execBundlePriorityAging_canonical {gid pc : Nat} (hs : s.MemoryCanonical) :
    AnswersCanonical (execBundlePriorityAging gid pc s) := by
  unfold execBundlePriorityAging
  grind [State.modGroup_mem, answersCanonical_next]

theorem execYieldDelayExpiry_canonical {gid : Nat} {lanes : BitVec 32} (hs : s.MemoryCanonical) :
    AnswersCanonical (execYieldDelayExpiry gid lanes s) := by
  unfold execYieldDelayExpiry
  grind [State.form_canonical, State.modGroup_mem, answersCanonical_next]

/-! ### Checks shared by the forms -/

theorem State.checkAccess_canonical {iss : Issue} {h : HandleBits} {e : Int} {z : Nat} {need any : List Nat} {u : Use} {scope : Nat}
    (hs : s.MemoryCanonical) :
    (s.checkAccess iss h e z need any u scope).2.MemoryCanonical := by
  unfold State.checkAccess
  grind [State.translateStore_canonical, State.translate_canonical]

theorem State.checkLanes_canonical {lanes : List Nat} {f : State → Nat → LaneCheck × State} (hs : s.MemoryCanonical)
    (hf : ∀ t l, t.MemoryCanonical → (f t l).2.MemoryCanonical) : (s.checkLanes lanes f).2.MemoryCanonical :=
  List.foldlRecOn (motive := fun p : List (Nat × LaneCheck) × State => p.2.MemoryCanonical) _ _ hs fun p hp l _ => hf p.2 l hp

theorem State.endAccess_canonical {iss : Issue} {words : Nat} {i : Instr} {rs : List (Nat × LaneCheck)} {excuse : Bool} {n : List Nat}
    {more : List Effect} (hs : s.MemoryCanonical) :
    AnswersCanonical (s.endAccess iss words i rs excuse n more) := by
  unfold State.endAccess
  grind [State.faults_canonical, State.finish_canonical, State.request_canonical, State.stall_mem, answersCanonical_next]

theorem State.submitLanes_canonical {lanes : Lanes} {f : Nat → Access} (hs : s.MemoryCanonical) :
    (s.submitLanes lanes f).MemoryCanonical := by
  unfold State.submitLanes
  grind [State.submit_canonical, State.foldl_canonical]

theorem State.dirtyPage_canonical {iss : Issue} {h : HandleBits} {va : Nat} (hs : s.MemoryCanonical) :
    (s.dirtyPage iss h va).MemoryCanonical := by
  unfold State.dirtyPage
  grind [State.setDirty_canonical, State.translate_canonical]

@[simp] theorem State.accessEvent_mem {d : Deferred} {n : Nat} : (s.accessEvent d n).2.mem = s.mem := rfl

/-! ### ld and st -/

theorem execLd_canonical {f : FM} {ls : Lits} (hs : s.MemoryCanonical) : AnswersCanonical (execLd f ls s) := by
  unfold execLd
  grind [State.checkAccess_canonical, State.checkLanes_canonical, State.endAccess_canonical, State.withIssue_canonical]

theorem commitLd_canonical {f : FM} {iss : Issue} {idx : Nat} {lanes : Lanes} {x y z : LaneVals} (hs : s.MemoryCanonical) :
    (commitLd f iss idx lanes x y z s).MemoryCanonical := by
  unfold commitLd
  grind [State.accessEvent_mem, State.submitLanes_canonical]

theorem execSt_canonical {f : FM} {ls : Lits} (hs : s.MemoryCanonical) : AnswersCanonical (execSt f ls s) := by
  unfold execSt
  grind [State.checkAccess_canonical, State.checkLanes_canonical, State.endAccess_canonical, State.withIssue_canonical]

theorem commitSt_canonical {f : FM} {iss : Issue} {idx : Nat} {lanes : Lanes} {x y z : LaneVals} {n : List Nat} (hs : s.MemoryCanonical) :
    (commitSt f iss idx lanes x y z n s).MemoryCanonical := by
  unfold commitSt
  grind [State.dirtyPage_canonical, State.submitLanes_canonical, State.foldl_canonical]

/-! ### Typed buffers (R180, R186) -/

theorem bufExec_canonical {i : Instr} {f : FM} {ls : Lits} {space : Nat} {lanes : Issue → Lanes} {data : Issue → List Nat}
    (hs : s.MemoryCanonical) :
    AnswersCanonical (bufExec i f ls space lanes data s) := by
  unfold bufExec
  grind [State.endAccess_canonical, State.withIssue_canonical]

theorem commitBufLoad_canonical {f : FM} {space : Nat} {iss : Issue} {idx : Nat} {lanes : Lanes} {y : LaneVals} (hs : s.MemoryCanonical) :
    (commitBufLoad f space iss idx lanes y s).MemoryCanonical := by
  unfold commitBufLoad
  grind [State.accessEvent_mem, State.submitLanes_canonical]

theorem commitBufStore_canonical {f : FM} {space : Nat} {iss : Issue} {idx : Nat} {lanes : Lanes} {y : LaneVals} {n : List Nat}
    (hs : s.MemoryCanonical) :
    (commitBufStore f space iss idx lanes y n s).MemoryCanonical := by
  unfold commitBufStore
  grind [State.submitLanes_canonical]

/-! ### pf -/

theorem execPf_canonical {f : FM} {ls : Lits} (hs : s.MemoryCanonical) : AnswersCanonical (execPf f ls s) := by
  unfold execPf
  grind [State.checkAccess_canonical, State.checkLanes_canonical, State.finish_canonical, State.request_canonical, State.stall_mem,
    State.withIssue_canonical, answersCanonical_next]

theorem commitPf_canonical {f : FM} {iss : Issue} {lanes : Lanes} {y z : LaneVals} (hs : s.MemoryCanonical) :
    (commitPf f iss lanes y z s).MemoryCanonical := by
  unfold commitPf
  grind [State.bringNear_canonical, State.foldl_canonical]

/-! ### Ranges -/

theorem State.segments_canonical {c : Ctx} {core asid va len fuel : Nat} (hs : s.MemoryCanonical) :
    (s.segments c core asid va len fuel).2.MemoryCanonical := by
  induction fuel generalizing s va len with
  | zero => exact hs
  | succ fuel ih =>
    unfold State.segments
    grind [State.translate_canonical]

theorem State.range_canonical {c : Ctx} {core asid va len : Nat} (hs : s.MemoryCanonical) :
    (s.range c core asid va len).2.MemoryCanonical := by
  unfold State.range
  grind [State.segments_canonical]

@[simp] theorem State.addCommand_mem {c : Command} : (s.addCommand c).2.mem = s.mem := rfl

@[simp] theorem commitPreq_mem {iss : Issue} {idx : Nat} {n : List Nat} : (commitPreq iss idx n s).mem = s.mem := rfl

theorem cacheExec_canonical {i : Instr} {f : FM} {ls : Lits} (hs : s.MemoryCanonical) : AnswersCanonical (cacheExec i f ls s) := by
  unfold cacheExec
  grind [State.faultAll_canonical, State.finish_canonical, State.range_canonical, State.request_canonical, State.stall_mem,
    State.withIssue_canonical, answersCanonical_next]

theorem State.cacheClean_canonical {q : Nat} {drop : Bool} {ps : List (Nat × Nat)} (hs : s.MemoryCanonical) :
    (s.cacheClean q drop ps).MemoryCanonical := by
  unfold State.cacheClean
  grind [State.dropLines_mem, State.writeBackAll_canonical]

theorem commitCache_canonical {i : Instr} {drop : Bool} {iss : Issue} {idx : Nat} {n : List Nat} (hs : s.MemoryCanonical) :
    (commitCache i drop iss idx n s).MemoryCanonical := by
  unfold commitCache
  grind [State.addEvent_mem, State.cacheClean_canonical]

/-! ### Handle instructions (R190 to R193) -/

theorem execHsave_canonical {f : FM} {ls : Lits} (hs : s.MemoryCanonical) : AnswersCanonical (execHsave f ls s) := by
  unfold execHsave
  grind [State.checkAccess_canonical, State.endAccess_canonical, State.faultAll_canonical, State.withIssue_canonical]

theorem commitHsave_canonical {f : FM} {iss : Issue} {idx : Nat} {lanes : Lanes} {x y z : LaneVals} {n : List Nat}
    (hs : s.MemoryCanonical) :
    (commitHsave f iss idx lanes x y z n s).MemoryCanonical := by
  unfold commitHsave
  grind [State.dirtyPage_canonical, State.submitLanes_canonical, State.foldl_canonical]

theorem execHload_canonical {f : FM} {ls : Lits} (hs : s.MemoryCanonical) : AnswersCanonical (execHload f ls s) := by
  unfold execHload
  grind [State.checkAccess_canonical, State.endAccess_canonical, State.faultAll_canonical, State.withIssue_canonical]

theorem commitHload_canonical {f : FM} {iss : Issue} {idx : Nat} {lanes : Lanes} {x y z : LaneVals} (hs : s.MemoryCanonical) :
    (commitHload f iss idx lanes x y z s).MemoryCanonical := by
  unfold commitHload
  grind [State.accessEvent_mem, State.submitLanes_canonical]

@[simp] theorem State.holdBehind_mem {gid : Nat} {lanes : Lanes} {scope : Nat} {acq : Bool} {loads stores : Access → Bool}
    {fenced : Bool} :
    (s.holdBehind gid lanes scope acq loads stores fenced).mem = s.mem := rfl

@[simp] theorem State.dropStale_mem {pod : Bool} : (s.dropStale pod).mem = s.mem := rfl

theorem State.fenceAccesses_canonical {iss : Issue} {idx : Nat} {lanes : Lanes} {loads stores : Bool} (hs : s.MemoryCanonical) :
    (s.fenceAccesses iss idx lanes loads stores).MemoryCanonical := by
  unfold State.fenceAccesses
  grind [State.submitLanes_canonical]

@[simp] theorem State.acquireLanes_mem {gid : Nat} {lanes : Lanes} {scope : Nat} : (s.acquireLanes gid lanes scope).mem = s.mem :=
  State.foldl_mem fun _ _ => by simp

@[simp] theorem State.markRelSys_mem {gid : Nat} {lanes : Lanes} : (s.markRelSys gid lanes).mem = s.mem := rfl

theorem orderExec_canonical {i : Instr} {ls : Lits} (hs : s.MemoryCanonical) : AnswersCanonical (orderExec i ls s) :=
  State.withIssue_canonical fun _ => by simp [hs]

theorem commitFence_canonical {f : FM} {iss : Issue} {idx : Nat} (hs : s.MemoryCanonical) :
    (commitFence f iss idx s).MemoryCanonical := by
  unfold commitFence
  grind [State.acquireLanes_mem, State.dropStale_mem, State.fenceAccesses_canonical, State.holdBehind_mem, State.markRelSys_mem]

@[simp] theorem commitAcq_mem {f : FM} {iss : Issue} : (commitAcq f iss s).mem = s.mem := by
  simp [commitAcq]

@[simp] theorem commitRel_mem {f : FM} {iss : Issue} : (commitRel f iss s).mem = s.mem := by
  unfold commitRel
  split <;> simp

theorem State.checkAtom_canonical {iss : Issue} {f : FM} {ls : Lits} {size right : Nat} {u : Use} {returns : Bool} {l : Nat}
    (hs : s.MemoryCanonical) :
    (s.checkAtom iss f ls size right u returns l).2.MemoryCanonical := by
  unfold State.checkAtom
  grind [State.checkAccess_canonical]

theorem execAtom_canonical {f : FM} {ls : Lits} (hs : s.MemoryCanonical) : AnswersCanonical (execAtom f ls s) := by
  unfold execAtom
  grind [State.checkAtom_canonical, State.checkLanes_canonical, State.endAccess_canonical, State.faults_canonical,
    State.withIssue_canonical]

theorem commitAtom_canonical {f : FM} {iss : Issue} {idx : Nat} {lanes : Lanes} {x y z : LaneVals} {n : List Nat}
    (hs : s.MemoryCanonical) :
    (commitAtom f iss idx lanes x y z n s).MemoryCanonical := by
  unfold commitAtom
  grind [State.accessEvent_mem, State.dirtyPage_canonical, State.submitLanes_canonical, State.foldl_canonical]

theorem execRed_canonical {f : FM} {ls : Lits} (hs : s.MemoryCanonical) : AnswersCanonical (execRed f ls s) := by
  unfold execRed
  grind [State.checkAtom_canonical, State.checkLanes_canonical, State.endAccess_canonical, State.faults_canonical,
    State.withIssue_canonical]

theorem commitRed_canonical {f : FM} {iss : Issue} {idx : Nat} {lanes : Lanes} {x y z : LaneVals} {n : List Nat}
    (hs : s.MemoryCanonical) :
    (commitRed f iss idx lanes x y z n s).MemoryCanonical := by
  unfold commitRed
  grind [State.dirtyPage_canonical, State.submitLanes_canonical, State.foldl_canonical]

theorem execAwait_canonical {f : FM} {ls : Lits} (hs : s.MemoryCanonical) : AnswersCanonical (execAwait f ls s) := by
  unfold execAwait
  grind [State.checkAtom_canonical, State.checkLanes_canonical, State.endAccess_canonical, State.faultAll_canonical,
    State.withIssue_canonical]

theorem commitAwait_canonical {f : FM} {iss : Issue} {idx : Nat} {lanes : Lanes} {x y z : LaneVals} {n : List Nat}
    (hs : s.MemoryCanonical) :
    (commitAwait f iss idx lanes x y z n s).MemoryCanonical := by
  unfold commitAwait
  grind [State.modGroup_mem, State.submit_canonical, State.foldl_canonical]

/-! ### Steps of the units -/

theorem State.firstAtomic_canonical {tick : Nat} {p : Access → Bool} (hs : s.MemoryCanonical) :
    (s.firstAtomic tick p).MemoryCanonical := by
  unfold State.firstAtomic
  grind [State.tryAccess_canonical]

theorem execAtomicEngineOperation_canonical {cluster grain : Nat} (hs : s.MemoryCanonical) :
    AnswersCanonical (execAtomicEngineOperation cluster grain s) := by
  unfold execAtomicEngineOperation
  grind [State.firstAtomic_canonical, State.settle_canonical, answersCanonical_next]

theorem execAtomicGrainRecall_canonical {cluster grain : Nat} (hs : s.MemoryCanonical) :
    AnswersCanonical (execAtomicGrainRecall cluster grain s) := by
  unfold execAtomicGrainRecall
  grind [State.engineSurrender_mem, State.settle_canonical, answersCanonical_next]

theorem execAwaitTest_canonical {id : Nat} (hs : s.MemoryCanonical) : AnswersCanonical (execAwaitTest id s) := by
  unfold execAwaitTest
  grind [State.form_canonical, State.tryAccess_canonical, answersCanonical_next]

theorem execAwaitRetestTimer_canonical {id : Nat} (hs : s.MemoryCanonical) : AnswersCanonical (execAwaitRetestTimer id s) := by
  unfold execAwaitRetestTimer
  grind [State.form_canonical, State.tryAccess_canonical, answersCanonical_next]

theorem State.parkAgain_canonical {p : Access → Bool} (hs : s.MemoryCanonical) : (s.parkAgain p).MemoryCanonical := by
  unfold State.parkAgain
  grind [State.tryAccess_canonical, State.foldl_canonical]

theorem execWsWaitExpiry_canonical {id : Nat} (hs : s.MemoryCanonical) : AnswersCanonical (execWsWaitExpiry id s) := by
  unfold execWsWaitExpiry
  grind [State.form_canonical, State.refuseAccess_mem, answersCanonical_next, State.foldl_canonical]

end Sys2Proof.Machine
end

section
/-!
PROOF. The operations of the coherence instructions and the pod protocol keep the memory in its canonical form: of each,
that it leaves the memory as it is, or that it keeps the form whatever it writes.
-/

namespace Sys2Proof.Machine

set_option Elab.async false

variable {s : State}

/-! ### Grains of a range -/

theorem State.rangeForm_canonical {iss : Issue} {f : FM} {ls : Lits} {len : Nat} {need : List Nat} {align : Nat}
    {k : HandleBits → Nat → List Seg → State → Result} (hs : s.MemoryCanonical)
    (hk : ∀ h va segs u, u.MemoryCanonical → AnswersCanonical (k h va segs u)) :
    AnswersCanonical (s.rangeForm iss f ls len need align k) := by
  unfold State.rangeForm
  grind [State.faultAll_canonical, State.range_canonical, State.request_canonical, State.stall_mem, answersCanonical_next]

@[simp] theorem State.adoptRange_mem {xs : List RangeGrain} : (s.adoptRange xs).mem = s.mem := by
  refine State.foldl_mem fun _ _ => ?_
  split <;> simp

/-! ### The instructions -/

theorem execMvrange_canonical {f : FM} {ls : Lits} (hs : s.MemoryCanonical) : AnswersCanonical (execMvrange f ls s) := by
  unfold execMvrange
  grind [State.adoptRange_mem, State.endRange_canonical, State.faultAll_canonical, State.rangeForm_canonical, State.request_canonical,
    State.stall_mem, State.withIssue_canonical, answersCanonical_next]

theorem execMvwait_canonical {f : FM} {ls : Lits} (hs : s.MemoryCanonical) : AnswersCanonical (execMvwait f ls s) := by
  unfold execMvwait
  grind [State.endRange_canonical, State.faultAll_canonical, State.rangeForm_canonical, State.withIssue_canonical]

theorem wsExec_canonical {i : Instr} {f : FM} {ls : Lits} (hs : s.MemoryCanonical) : AnswersCanonical (wsExec i f ls s) := by
  unfold wsExec
  grind [State.endRange_canonical, State.faultAll_canonical, State.rangeForm_canonical, State.withIssue_canonical]

theorem execWsstate_canonical {f : FM} {ls : Lits} (hs : s.MemoryCanonical) : AnswersCanonical (execWsstate f ls s) := by
  unfold execWsstate
  grind [State.checkAccess_canonical, State.checkLanes_canonical, State.endAccess_canonical, State.withIssue_canonical]

theorem commitWsstate_canonical {f : FM} {iss : Issue} {idx : Nat} {lanes : Lanes} {x y z : LaneVals} (hs : s.MemoryCanonical) :
    (commitWsstate f iss idx lanes x y z s).MemoryCanonical := by
  unfold commitWsstate
  grind [State.accessEvent_mem, State.submitLanes_canonical]

theorem execPgclass_canonical {f : FM} {ls : Lits} (hs : s.MemoryCanonical) : AnswersCanonical (execPgclass f ls s) := by
  unfold execPgclass
  grind [State.endRange_canonical, State.faultAll_canonical, State.rangeForm_canonical, State.request_canonical, State.stall_mem,
    State.withIssue_canonical, answersCanonical_next]

theorem replicExec_canonical {i : Instr} {add : Bool} {f : FM} {ls : Lits} (hs : s.MemoryCanonical) :
    AnswersCanonical (replicExec i add f ls s) := by
  unfold replicExec
  grind [State.endRange_canonical, State.faultAll_canonical, State.rangeForm_canonical, State.sendCoh_mem, State.stall_mem,
    State.withIssue_canonical, answersCanonical_next]

/-! ### Pages in transition (R236, R300, R307) -/

@[simp] theorem State.tlbRemove_mem {asid va n : Nat} {also : Bool} : (s.tlbRemove asid va n also).2.mem = s.mem :=
  State.foldl_mem fun _ _ => by simp

@[simp] theorem State.pageOpen_mem {lo size owner : Nat} {chips : List Nat} : (s.pageOpen lo size owner chips).mem = s.mem := by
  unfold State.pageOpen
  grind [State.recall_mem, State.sendCoh_mem, State.tlbDrop_mem, State.foldl_mem]

@[simp] theorem State.pageBegin_mem {lo size reach : Nat} : (s.pageBegin lo size reach).mem = s.mem := by
  unfold State.pageBegin
  grind [State.pageOpen_mem, State.sendCoh_mem]

theorem State.pageDrain_canonical (hs : s.MemoryCanonical) : s.pageDrain.MemoryCanonical := by
  unfold State.pageDrain
  grind [State.dropLines_mem, State.sendCoh_mem, State.writeBackAll_canonical, State.foldl_canonical]

@[simp] theorem State.pageClose_mem {lo size phase arg : Nat} {chips : List Nat} : (s.pageClose lo size phase arg chips).mem = s.mem :=
  State.foldl_mem fun _ _ => by simp

@[simp] theorem State.setSide_mem {base : Nat} {side : Bool} : (s.setSide base side).mem = s.mem := rfl

@[simp] theorem State.pageEnded_mem {lo size phase arg : Nat} : (s.pageEnded lo size phase arg).mem = s.mem := by
  unfold State.pageEnded
  grind [State.passFloor_mem, State.setSide_mem, State.setTag_mem, State.staleWaits_mem, State.foldl_mem]

@[simp] theorem State.convertTag_mem {g reach new chip core : Nat} : (s.convertTag g reach new chip core).mem = s.mem := by
  unfold State.convertTag
  grind [State.setTag_mem]

theorem State.convertGather_canonical {g : Nat} (hs : s.MemoryCanonical) : (s.convertGather g).MemoryCanonical := by
  unfold State.convertGather
  grind [State.homeServe_canonical, State.openTxn_mem]

theorem State.convertPage_canonical {lo len reach new chip core : Nat} (hs : s.MemoryCanonical) :
    (s.convertPage lo len reach new chip core).2.MemoryCanonical := by
  unfold State.convertPage
  grind [State.convertGather_canonical, State.convertTag_mem, State.passFloor_mem, State.recall_mem, State.foldl_canonical,
    State.foldl_mem]

theorem State.rewriteClass_canonical {q pteAddr new : Nat} (hs : s.MemoryCanonical) :
    (s.rewriteClass q pteAddr new).2.MemoryCanonical := by
  unfold State.rewriteClass
  grind [State.markWritten_mem, State.recall_mem, State.request_canonical, State.stampWrite_mem, State.writeMem_canonical]

/-! ### Asking other homes for a range -/

@[simp] theorem State.askHome_mem {id : Nat} {x : RangeGrain} {k : CohKind} {data : List Byte} :
    (s.askHome id x k data).mem = s.mem := rfl

@[simp] theorem State.beginAsks_mem {id : Nat} : (s.beginAsks id).mem = s.mem := rfl

@[simp] theorem State.rangeFault_mem {id : Nat} {c : FaultCode} {va : Nat} : (s.rangeFault id c va).mem = s.mem := rfl

/-! ### What the events of the range forms do -/

@[simp] theorem State.giveGrain_mem {g chip core : Nat} : (s.giveGrain g chip core).mem = s.mem := by
  unfold State.giveGrain
  grind [State.setTag_mem]

theorem State.moveRange_canonical {id q own core chip : Nat} {xs : List RangeGrain} (hs : s.MemoryCanonical) :
    (s.moveRange id q own core chip xs).MemoryCanonical := by
  unfold State.moveRange
  grind [State.askHome_mem, State.cacheClean_canonical, State.giveGrain_mem, State.rangeFault_mem, State.sendData_mem,
    State.unhold_canonical, State.foldl_canonical]

theorem State.closeGrain_canonical {g chip q : Nat} (hs : s.MemoryCanonical) : (s.closeGrain g chip q).2.MemoryCanonical := by
  unfold State.closeGrain
  grind [State.wsFull_mem, State.zeroGrain_canonical]

theorem State.closeRange_canonical {id q : Nat} {xs : List RangeGrain} (hs : s.MemoryCanonical) :
    (s.closeRange id q xs).MemoryCanonical := by
  unfold State.closeRange
  grind [State.adoptAs_mem, State.askHome_mem, State.closeGrain_canonical, State.rangeFault_mem, State.foldl_canonical]

@[simp] theorem State.resetGrain_mem {g : Nat} : (s.resetGrain g).mem = s.mem := by
  simp [State.resetGrain]

@[simp] theorem State.resetRange_mem {id : Nat} {begun : Bool} {xs : List RangeGrain} : (s.resetRange id begun xs).2.mem = s.mem := by
  induction xs generalizing s begun with
  | nil => rfl
  | cons x xs ih =>
    unfold State.resetRange
    grind [State.adoptAs_mem, State.askHome_mem, State.rangeFault_mem, State.resetGrain_mem]

theorem State.convertPages_canonical {id q core new : Nat} {phase : ConvertPhase} {ps : List (Nat × Nat × Nat × Nat)} {fuel : Nat}
    (hs : s.MemoryCanonical) :
    (s.convertPages id q core new phase ps fuel).2.MemoryCanonical := by
  induction fuel generalizing s phase ps with
  | zero =>
    unfold State.convertPages
    split
    · exact hs
    · exact hs
    · contradiction
  | succ fuel ih =>
    rcases ps with _ | ⟨⟨va, pa, len, ea⟩, ps⟩
    · exact hs
    · unfold State.convertPages
      grind [State.request_canonical, State.pageBegin_mem, State.pageDrain_canonical, State.rangeFault_mem, State.convertPage_canonical,
        State.rewriteClass_canonical, State.pageClose_mem, State.sendCoh_mem, State.sendData_mem, State.unhold_canonical,
        State.foldl_canonical]

@[simp] theorem State.replicAdd_mem {page size chip leaf : Nat} {event : Option Nat} {asker arg : Nat} :
    (s.replicAdd page size chip leaf event asker arg).mem = s.mem :=
  State.foldl_mem fun _ _ => by simp

@[simp] theorem State.replicRem_mem {page chip : Nat} : (s.replicRem page chip).mem = s.mem := rfl

@[simp] theorem State.replicList_mem {page size chip : Nat} : (s.replicList page size chip).mem = s.mem := rfl

theorem State.rangeLands_canonical {id : Nat} {d : Deferred} {i : Instr} {n : List Nat} (hs : s.MemoryCanonical) :
    (s.rangeLands id d i n).1.MemoryCanonical := by
  unfold State.rangeLands
  grind [State.acquireAll_mem, State.askHome_mem, State.beginAsks_mem, State.cacheClean_canonical, State.closeRange_canonical,
    State.convertPages_canonical, State.modEvent_mem, State.moveRange_canonical, State.replicAdd_mem, State.replicRem_mem,
    State.resetRange_mem, State.sendCoh_mem, State.foldl_canonical]

@[simp] theorem commitRange_mem {i : Instr} {iss : Issue} {idx : Nat} {n : List Nat} : (commitRange i iss idx n s).mem = s.mem := rfl

@[simp] theorem commitMvwait_mem {i : Instr} {iss : Issue} {idx : Nat} {n : List Nat} : (commitMvwait i iss idx n s).mem = s.mem := rfl

@[simp] theorem commitPgclass_mem {i : Instr} {iss : Issue} {idx : Nat} {n : List Nat} : (commitPgclass i iss idx n s).mem = s.mem := by
  simp [commitPgclass]

@[simp] theorem commitReplicAdd_mem {i : Instr} {iss : Issue} {idx : Nat} {n : List Nat} :
    (commitReplicAdd i iss idx n s).mem = s.mem := rfl

@[simp] theorem commitReplicRem_mem {i : Instr} {iss : Issue} {idx : Nat} {n : List Nat} :
    (commitReplicRem i iss idx n s).mem = s.mem := rfl

/-! ### What this home does for other chips (notes/assumptions/89) -/

@[simp] theorem State.answerOp_mem {o : RemoteOp} {code : Option FaultCode} {data : List Byte} :
    (s.answerOp o code data).mem = s.mem := rfl

theorem State.homePut_canonical {pa : Nat} {bs : List Byte} (hs : s.MemoryCanonical) : (s.homePut pa bs).MemoryCanonical := by
  unfold State.homePut
  grind [State.markWritten_mem, State.stampForeign_mem, State.writeMem_canonical]

theorem State.remoteApproach_canonical {o : RemoteOp} {write : Bool} {k : State → Bool × State} (hs : s.MemoryCanonical)
    (hk : ∀ t, t.MemoryCanonical → (k t).2.MemoryCanonical) : (s.remoteApproach o write k).2.MemoryCanonical := by
  unfold State.remoteApproach
  grind [State.recall_mem, State.adoptAs_mem, State.answerOp_mem, State.request_canonical, State.backInvalidate_mem]

theorem State.remoteStore_canonical {o : RemoteOp} (hs : s.MemoryCanonical) : (s.remoteStore o).2.MemoryCanonical := by
  unfold State.remoteStore
  grind [Perf.state_done, Perf.state_refused, Perf.state_wait, State.answerOp_mem, State.homePut_canonical,
    State.remoteApproach_canonical, State.replicaStart_mem, State.storeWs_canonical]

theorem State.remoteAtomic_canonical {o : RemoteOp} (hs : s.MemoryCanonical) : (s.remoteAtomic o).2.MemoryCanonical := by
  unfold State.remoteAtomic
  grind [State.answerOp_mem, State.homePut_canonical, State.hostUsed_mem, State.remoteApproach_canonical, State.replicaStart_mem]

theorem State.remoteConvert_canonical {o : RemoteOp} (hs : s.MemoryCanonical) : (s.remoteConvert o).2.2.MemoryCanonical := by
  unfold State.remoteConvert
  grind [State.answerOp_mem, State.convertPage_canonical, State.pageClose_mem, State.pageDrain_canonical, State.pageOpen_mem,
    State.setSide_mem]

theorem State.clearGrain_canonical {g : Nat} (hs : s.MemoryCanonical) : (s.clearGrain g).2.MemoryCanonical := by
  unfold State.clearGrain
  grind [State.backInvalidate_mem, State.dropLines_mem, State.markWritten_mem, State.modTag_mem, State.replicaStart_mem,
    State.stampGrain_mem, State.takeBack_canonical, State.tookBack_mem, State.writeMem_canonical]

theorem State.clearStep_canonical (hs : s.MemoryCanonical) : s.clearStep.MemoryCanonical := by
  unfold State.clearStep
  grind [State.clearGrain_canonical, State.foldl_canonical]

theorem State.clearPoison_canonical {pa : Nat} (hs : s.MemoryCanonical) : (s.clearPoison pa).MemoryCanonical := by
  unfold State.clearPoison
  grind [State.clearStep_canonical, State.sendCoh_mem, State.settle_canonical]

theorem State.forwardGrain_canonical {chip pa : Nat} {excl : Bool} (hs : s.MemoryCanonical) :
    (s.forwardGrain chip pa excl).MemoryCanonical := by
  unfold State.forwardGrain
  grind [State.clean_canonical, State.recall_mem, State.sendData_mem, State.sendMsg_mem, State.surrender_canonical]

theorem State.remotePerform_canonical {o : RemoteOp} (hs : s.MemoryCanonical) : (s.remotePerform o).2.2.MemoryCanonical := by
  unfold State.remotePerform
  grind [State.adoptAs_mem, State.answerOp_mem, State.clean_canonical, State.clearGrain_canonical, State.closeGrain_canonical,
    State.dropStale_mem, State.forwardGrain_canonical, State.giveGrain_mem, State.homeRequest_canonical, State.modTag_mem,
    State.recall_mem, State.remoteApproach_canonical, State.remoteConvert_canonical, State.remoteStore_canonical, State.replicAdd_mem,
    State.replicRem_mem, State.resetGrain_mem, State.sendCoh_mem, State.sendData_mem, State.sendMsg_mem, State.tlbRemove_mem]

theorem State.remoteStep_canonical (hs : s.MemoryCanonical) : s.remoteStep.MemoryCanonical := by
  unfold State.remoteStep
  grind [State.remotePerform_canonical, State.foldl_snd_canonical]

@[simp] theorem State.eventAnswered_mem {id : Nat} {code : Option FaultCode} {va : Nat} : (s.eventAnswered id code va).mem = s.mem := by
  unfold State.eventAnswered
  split <;> rfl

theorem State.replicaStep_canonical (hs : s.MemoryCanonical) : s.replicaStep.MemoryCanonical := by
  unfold State.replicaStep
  grind [State.eventAnswered_mem, State.replicList_mem, State.replicaWrite_mem, State.request_canonical, State.sendCoh_mem,
    State.foldl_canonical, State.foldl_mem]

theorem State.pump_canonical (hs : s.MemoryCanonical) : s.pump.MemoryCanonical := by
  unfold State.pump
  grind [State.clearStep_canonical, State.homeRetry_canonical, State.pageDrain_canonical, State.remoteStep_canonical,
    State.replicaStep_canonical, State.settle_canonical]

/-! ### Steps of the leases (R229, R231) -/

@[simp] theorem State.advanceLts_mem {n : Nat} : (s.advanceLts n).mem = s.mem := rfl

@[simp] theorem State.passTime_mem {n : Nat} : (s.passTime n).mem = s.mem := rfl

theorem execLtsSelfAdvance_canonical (hs : s.MemoryCanonical) : AnswersCanonical (execLtsSelfAdvance s) := by
  unfold execLtsSelfAdvance
  grind [State.advanceLts_mem, answersCanonical_next]

theorem execModuleRebase_canonical (hs : s.MemoryCanonical) : AnswersCanonical (execModuleRebase s) := by
  unfold execModuleRebase
  grind [State.engineSurrender_mem, State.settle_canonical, answersCanonical_next, State.foldl_canonical]

/-! ### Steps of the pod protocol (R225, R226, R230, R352) -/

theorem State.atEpoch_canonical {epoch : Nat} {i : Instr} {k : State → State} (hs : s.MemoryCanonical)
    (hk : (k s).MemoryCanonical) : AnswersCanonical (s.atEpoch epoch i k) := by
  unfold State.atEpoch
  split
  · rw [answersCanonical_next, State.holdMessage_mem]
    exact hs
  · exact answersCanonical_next.2 (State.pump_canonical hk)

theorem execGets_canonical {chip epoch pa : Nat} (hs : s.MemoryCanonical) : AnswersCanonical (execGets chip epoch pa s) := by
  unfold execGets
  grind [State.atEpoch_canonical, State.homeRequest_canonical]

theorem execGetm_canonical {chip epoch pa : Nat} (hs : s.MemoryCanonical) : AnswersCanonical (execGetm chip epoch pa s) := by
  unfold execGetm
  grind [State.atEpoch_canonical, State.homeRequest_canonical]

theorem execUpgrade_canonical {chip pa : Nat} (hs : s.MemoryCanonical) : AnswersCanonical (execUpgrade chip pa s) := by
  unfold execUpgrade
  grind [State.homeRequest_canonical, State.pump_canonical, answersCanonical_next]

theorem execPutm_canonical {chip pa : Nat} {data : List Byte} (hs : s.MemoryCanonical) : AnswersCanonical (execPutm chip pa data s) := by
  unfold execPutm
  grind [State.homeRequest_canonical, State.pump_canonical, answersCanonical_next]

theorem execPuto_canonical {chip pa : Nat} {data : List Byte} (hs : s.MemoryCanonical) : AnswersCanonical (execPuto chip pa data s) := by
  unfold execPuto
  grind [State.homeRequest_canonical, State.pump_canonical, answersCanonical_next]

theorem execForward_canonical {chip epoch pa : Nat} {excl : Bool} (hs : s.MemoryCanonical) :
    AnswersCanonical (execForward chip epoch pa excl s) := by
  unfold execForward
  grind [State.atEpoch_canonical, State.forwardGrain_canonical]

theorem execInvalidate_canonical {pa : Nat} (hs : s.MemoryCanonical) : AnswersCanonical (execInvalidate pa s) := by
  unfold execInvalidate
  grind [State.pump_canonical, State.sendMsg_mem, State.surrender_canonical, State.tryAccess_canonical, answersCanonical_next,
    State.foldl_canonical]

@[simp] theorem State.replicaEnd_mem {g : Nat} {r : ReplicaStore} : (s.replicaEnd g r).mem = s.mem := by
  unfold State.replicaEnd
  split <;> simp

theorem State.replicaHome_canonical {g : Nat} {r : ReplicaStore} (hs : s.MemoryCanonical) : (s.replicaHome g r).1.MemoryCanonical := by
  unfold State.replicaHome
  grind [State.countAtomic_mem, State.markWritten_mem, State.stampFor_mem, State.stampForeign_mem, State.writeMem_canonical]

theorem State.replicaAcked_canonical {g chip : Nat} (hs : s.MemoryCanonical) : (s.replicaAcked g chip).MemoryCanonical := by
  unfold State.replicaAcked
  grind [State.replicaEnd_mem, State.replicaHome_canonical, State.sendMsg_mem, State.foldl_canonical]

theorem execCoherenceAck_canonical {chip pa : Nat} {dirty : Bool} (hs : s.MemoryCanonical) :
    AnswersCanonical (execCoherenceAck chip pa dirty s) := by
  unfold execCoherenceAck
  grind [State.finishTxn_mem, State.pump_canonical, State.replicaAcked_canonical, answersCanonical_next]

@[simp] theorem State.awayAnswer_mem {a : Access} {code : Option FaultCode} {old : List Byte} :
    (s.awayAnswer a code old).mem = s.mem := by
  unfold State.awayAnswer
  grind [State.completeAccess_mem, State.countAtomic_mem, State.dropLine_mem, State.refuseAccess_mem, State.stampFor_mem]

@[simp] theorem State.opAnswered_mem {pa id code : Nat} {data : List Byte} : (s.opAnswered pa id code data).mem = s.mem := by
  unfold State.opAnswered
  grind [State.answerOp_mem, State.awayAnswer_mem, State.eventAnswered_mem, State.refuseAccess_mem, State.foldl_mem]

theorem execGrainData_canonical {chip epoch pa : Nat} {tag : BitVec 64} {data : List Byte} (hs : s.MemoryCanonical) :
    AnswersCanonical (execGrainData chip epoch pa tag data s) := by
  unfold execGrainData
  grind [State.atEpoch_canonical, State.finishTxn_mem, State.homeRequest_canonical, State.makeRoom_canonical, State.modTag_mem,
    State.putMem_canonical, State.sendMsg_mem, State.setTag_mem, State.stampGrain_mem]

@[simp] theorem State.answered_mem {o : RemoteOp} : (s.answered o).mem = s.mem := by
  unfold State.answered
  split <;> simp

@[simp] theorem State.takeAnswers_mem : s.takeAnswers.mem = s.mem :=
  State.foldl_mem fun _ _ => by simp

theorem State.cohMessage_canonical {chip : Nat} {k : CohKind} {pa epoch leaf arg : Nat} {data : List Byte} (hs : s.MemoryCanonical) :
    AnswersCanonical (s.cohMessage chip k pa epoch leaf arg data) := by
  unfold State.cohMessage
  grind [State.modTag_mem, State.pageEnded_mem, State.pageOpen_mem, State.pump_canonical, State.sendCoh_mem, State.sendMsg_mem,
    State.startRecord_mem, State.surrender_canonical, State.takeAnswers_mem, answersCanonical_next, execCoherenceAck_canonical,
    execForward_canonical, execGetm_canonical, execGets_canonical, execInvalidate_canonical]

theorem execHomeSliceAtomic_canonical {grain : Nat} (hs : s.MemoryCanonical) : AnswersCanonical (execHomeSliceAtomic grain s) := by
  unfold execHomeSliceAtomic
  grind [State.firstAtomic_canonical, State.pump_canonical, State.remoteAtomic_canonical, State.settle_canonical, answersCanonical_next]

theorem execMoveTimeoutExpiry_canonical {id : Nat} (hs : s.MemoryCanonical) : AnswersCanonical (execMoveTimeoutExpiry id s) := by
  unfold execMoveTimeoutExpiry
  grind [State.land_mem, State.modEvent_mem, answersCanonical_next]

/-! ### Host links (R256, R417, R418) -/

theorem execHostAtomicCompletion_canonical {id : Nat} {st : HostStatus} {old : Nat} (hs : s.MemoryCanonical) :
    AnswersCanonical (execHostAtomicCompletion id st old s) := by
  unfold execHostAtomicCompletion
  grind [State.completeAccess_mem, State.form_canonical, State.linkError_mem, State.queueMerged_mem, State.refuseAccess_mem,
    State.settle_canonical, answersCanonical_next]

@[simp] theorem State.hostDrop_mem {line : Nat} : (s.hostDrop line).mem = s.mem := by
  unfold State.hostDrop
  split <;> rfl

@[simp] theorem State.hostFill_mem {line : Nat} {bytes : List Byte} : (s.hostFill line bytes).mem = s.mem := by
  unfold State.hostFill
  grind [State.hostDrop_mem]

theorem execHostAccessCompletion_canonical {id : Nat} {st : HostStatus} {data : List Byte} (hs : s.MemoryCanonical) :
    AnswersCanonical (execHostAccessCompletion id st data s) := by
  unfold execHostAccessCompletion
  grind [State.completeAccess_mem, State.form_canonical, State.hostErr_mem, State.hostFill_mem, State.linkError_mem,
    State.pump_canonical, State.queueMerged_mem, State.refuseAccess_mem, State.settle_canonical, State.tryAccess_canonical,
    answersCanonical_next]

theorem execHostSnoop_canonical {hpa : Nat} (hs : s.MemoryCanonical) : AnswersCanonical (execHostSnoop hpa s) := by
  unfold execHostSnoop
  grind [State.hostDrop_mem, State.tryAccess_canonical, answersCanonical_next, State.foldl_canonical]

end Sys2Proof.Machine
end

section
/-!
PROOF. The operations of control and of the engines' accesses keep the memory in its canonical form: of each, that it
leaves the memory as it is, or that it keeps the form whatever it writes.
-/

namespace Sys2Proof.Machine

set_option Elab.async false

variable {s : State}

/-! ### Configuration registers (R383 to R385) -/

@[simp] theorem State.cfgRead_mem {iss : Issue} {n : Nat} : (s.cfgRead iss n).2.mem = s.mem := by
  unfold State.cfgRead
  grind [State.fresh_mem]

theorem State.cfgWrite_canonical {n : Nat} {v : Word} (hs : s.MemoryCanonical) : (s.cfgWrite n v).MemoryCanonical := by
  unfold State.cfgWrite
  grind [State.clearPoison_canonical]

/-! ### Branches, calls and exit -/

@[simp] theorem commitCall_mem {iss : Issue} {lanes : Lanes} {x : LaneVals} : (commitCall iss lanes x s).mem = s.mem := rfl

@[simp] theorem commitRet_mem {iss : Issue} {lanes : Lanes} : (commitRet iss lanes s).mem = s.mem := rfl

/-! ### Yield and nop -/

@[simp] theorem commitYield_mem {iss : Issue} {n : List Nat} : (commitYield iss n s).mem = s.mem := rfl

/-! ### Special and configuration registers -/

theorem execCfgrd_canonical {f : FC} {ls : Lits} (hs : s.MemoryCanonical) : AnswersCanonical (execCfgrd f ls s) := by
  unfold execCfgrd
  grind [State.cfgRead_mem, State.faultAll_canonical, State.finish_canonical, State.withIssue_canonical]

theorem commitCfgwr_canonical {n : List Nat} (hs : s.MemoryCanonical) : (commitCfgwr n s).MemoryCanonical := by
  unfold commitCfgwr
  grind [State.cfgWrite_canonical]

/-! ### Trap and breakpoint (R93) -/

theorem softFault_canonical {i : Instr} {f : FC} {ls : Lits} (hs : s.MemoryCanonical) : AnswersCanonical (softFault i f ls s) := by
  refine State.withIssue_canonical fun iss => ?_
  dsimp only
  repeat' split
  all_goals simp [hs]

@[simp] theorem commitSoft_mem {code : FaultCode} {iss : Issue} {idx : Nat} {n : List Nat} :
    (commitSoft code iss idx n s).mem = s.mem := by
  simp [commitSoft]

/-! ### Team barriers (R88 to R90) -/

@[simp] theorem State.barComplete_mem {tid n : Nat} : (s.barComplete tid n).mem = s.mem := by
  unfold State.barComplete
  grind [State.acquireAll_mem, State.modGroup_mem, State.modTeam_mem, State.foldl_mem]

@[simp] theorem State.barriersComplete_mem {tid : Nat} : (s.barriersComplete tid).mem = s.mem :=
  State.foldl_mem fun _ _ => by simp

@[simp] theorem State.barApply_mem {gid n c : Nat} {lanes : Lanes} {arrive waits : Bool} :
    (s.barApply gid n c lanes arrive waits).mem = s.mem := by
  unfold State.barApply
  grind [State.modGroup_mem, State.modTeam_mem]

theorem barExec_canonical {i : Instr} {n c words : Nat} {iss : Issue} (hs : s.MemoryCanonical) :
    AnswersCanonical (barExec i n c words s iss) := by
  unfold barExec
  grind [State.faultAll_canonical, State.faults_canonical, State.finish_canonical]

@[simp] theorem commitBar_mem {i : Instr} {iss : Issue} {n : List Nat} : (commitBar i iss n s).mem = s.mem := by
  unfold commitBar
  split <;> simp

/-! ### Supersteps (R91, R92, R403) -/

@[simp] theorem State.endStep_mem {gr : Nat} {w : Wait} {scope : Nat} : (s.endStep gr w scope).mem = s.mem := by
  unfold State.endStep
  grind [State.acquireAll_mem, State.modGrid_mem, State.modGroup_mem, State.queueFault_mem, State.foldl_mem]

theorem execStepComplete_canonical {grid : Nat} (hs : s.MemoryCanonical) : AnswersCanonical (execStepComplete grid s) := by
  unfold execStepComplete
  grind [State.endStep_mem, State.formAll_canonical, answersCanonical_next]

@[simp] theorem State.stepNotify_mem {gr : Nat} : (s.stepNotify gr).mem = s.mem := by
  unfold State.stepNotify
  grind [State.enqueue_mem, State.modGrid_mem, State.foldl_mem]

@[simp] theorem State.podCheck_mem {gr : Nat} : (s.podCheck gr).mem = s.mem := by
  unfold State.podCheck
  grind [State.endStep_mem, State.modGrid_mem]

@[simp] theorem State.podCheckAll_mem : s.podCheckAll.mem = s.mem :=
  State.foldl_mem fun _ _ => by simp

theorem execStepNoticeReceive_canonical {chip stag n : Nat} {seqs : List Nat} (hs : s.MemoryCanonical) :
    AnswersCanonical (execStepNoticeReceive chip stag n seqs s) := by
  unfold execStepNoticeReceive
  grind [State.formAll_canonical, State.podCheckAll_mem, answersCanonical_next]

@[simp] theorem commitStep_mem {w : Wait} {iss : Issue} {idx : Nat} : (commitStep w iss idx s).mem = s.mem := by
  unfold commitStep
  split <;> simp

theorem State.leaveHandler_canonical {gid : Nat} (hs : s.MemoryCanonical) : (s.leaveHandler gid).MemoryCanonical := by
  unfold State.leaveHandler
  grind [State.modGroup_mem, State.parkAgain_canonical]

theorem commitExit_canonical {iss : Issue} (hs : s.MemoryCanonical) : (commitExit iss s).MemoryCanonical := by
  unfold commitExit
  grind [State.barriersComplete_mem, State.leaveHandler_canonical, State.modGroup_mem, State.podCheck_mem, State.stepNotify_mem]

/-! ### tret (R372) -/

@[simp] theorem State.dropAwaits_mem {gid : Nat} {lanes : Lanes} : (s.dropAwaits gid lanes).mem = s.mem := rfl

theorem commitTret_canonical {f : FC} {iss : Issue} {lanes : Lanes} {x : LaneVals} (hs : s.MemoryCanonical) :
    (commitTret f iss lanes x s).MemoryCanonical := by
  unfold commitTret
  grind [State.dropAwaits_mem, State.leaveHandler_canonical, State.modGroup_mem]

@[simp] theorem State.engLine_mem {who line : Nat} : (s.engLine who line).2.mem = s.mem := by
  unfold State.engLine
  grind [State.send_mem]

@[simp] theorem State.engHostRead_mem {who va pa n : Nat} : (s.engHostRead who va pa n).state.mem = s.mem := by
  refine foldl_leaves (fun r : EngR => r.state.mem) (fun r line => ?_) _ (.ok [] s)
  grind [State.engLine_mem, EngR.state_ok, EngR.state_fail, EngR.state_wait]

@[simp] theorem State.parkRead_mem {who g va : Nat} : (s.parkRead who g va).state.mem = s.mem := by
  unfold State.parkRead
  grind [EngR.state_fail, EngR.state_wait]

@[simp] theorem State.unparkRead_mem {who g : Nat} : (s.unparkRead who g).mem = s.mem := by
  unfold State.unparkRead
  split <;> rfl

theorem State.engReadSeg_canonical {who core va pa n : Nat} {pte : BitVec 64} (hs : s.MemoryCanonical) :
    (s.engReadSeg who core va pa n pte).state.MemoryCanonical := by
  unfold State.engReadSeg
  grind [EngR.state_fail, EngR.state_ok, EngR.state_wait, Perf.state_done, Perf.state_refused, Perf.state_wait, State.engHostRead_mem,
    State.loadDev_canonical, State.parkRead_mem, State.unparkRead_mem, State.usePage_mem, EngR.foldl_canonical]

@[simp] theorem State.hostPut_mem {pa : Nat} {bs : List Byte} {ro : Bool} : (s.hostPut pa bs ro).mem = s.mem :=
  State.foldl_mem fun _ _ => by simp

theorem State.engStoreAway_canonical {core va pa : Nat} {pte : BitVec 64} {bs : List Byte} (hs : s.MemoryCanonical) :
    (s.engStoreAway core va pa pte bs).state.MemoryCanonical := by
  unfold State.engStoreAway
  grind [EngR.state_fail, EngR.state_ok, EngR.state_wait, State.submit_canonical]

@[simp] theorem State.engAnswered_mem {core pa n : Nat} : (s.engAnswered core pa n).mem = s.mem := by
  unfold State.engAnswered
  split <;> rfl

@[simp] theorem State.wholeWritten_mem {g : Nat} : (s.wholeWritten g).mem = s.mem := by
  unfold State.wholeWritten
  split <;> rfl

theorem State.engWriteSeg_canonical {core va pa : Nat} {pte : BitVec 64} {bs : List Byte} (hs : s.MemoryCanonical) :
    (s.engWriteSeg core va pa pte bs).state.MemoryCanonical := by
  unfold State.engWriteSeg
  grind [EngR.state_fail, EngR.state_ok, EngR.state_wait, Perf.state_done, Perf.state_refused, Perf.state_wait, State.engAnswered_mem,
    State.engStoreAway_canonical, State.hostPut_mem, State.storeDev_canonical, State.usePage_mem, State.wholeWritten_mem,
    State.foldl_mem, State.foldl_canonical, EngR.foldl_canonical]

theorem State.engRead_canonical {who : Nat} {c : Ctx} {core asid va n : Nat} {sysRight : Bool} (hs : s.MemoryCanonical) :
    (s.engRead who c core asid va n sysRight).state.MemoryCanonical := by
  unfold State.engRead
  have hr := State.range_canonical (c := c) (core := core) (asid := asid) (va := va) (len := n) hs
  split
  · exact hs
  · split
    all_goals
      rename_i h
      rw [h] at hr
    · refine EngR.foldl_canonical (fun r line hr => ?_) hr
      grind [State.engReadSeg_canonical, EngR.state_ok, EngR.state_fail]
    · exact hr
    · exact State.request_canonical hr

theorem State.engPut_canonical {c : Ctx} {core asid : Nat} {k : DestKind} {sysRight : Bool} {g : Seg} {bs : List Byte}
    (hs : s.MemoryCanonical) :
    (s.engPut c core asid k sysRight g bs).state.MemoryCanonical := by
  unfold State.engPut
  grind [EngR.state_fail, State.engWriteSeg_canonical, State.setDirty_canonical]

theorem State.engWrite_canonical {c : Ctx} {core asid va : Nat} {k : DestKind} {sysRight goOn : Bool} {bs : List Byte}
    (hs : s.MemoryCanonical) :
    (s.engWrite c core asid va k sysRight goOn bs).state.MemoryCanonical := by
  unfold State.engWrite
  grind [EngR.state_fail, EngR.state_ok, EngR.state_wait, State.engPut_canonical, State.request_canonical,
    State.translateStore_canonical, EngR.foldl_canonical]

theorem State.handleRead_canonical {who : Nat} {c : Ctx} {core : Nat} {h : HandleBits} {off n : Nat} (hs : s.MemoryCanonical) :
    (s.handleRead who c core h off n).state.MemoryCanonical := by
  unfold State.handleRead
  grind [State.engRead_canonical]

theorem State.handleWrite_canonical {c : Ctx} {core : Nat} {h : HandleBits} {off : Nat} {k : DestKind} {goOn : Bool} {bs : List Byte}
    (hs : s.MemoryCanonical) :
    (s.handleWrite c core h off k goOn bs).state.MemoryCanonical := by
  unfold State.handleWrite
  grind [State.engWrite_canonical]

end Sys2Proof.Machine
end

section
/-!
PROOF. The operations of the matrix units keep the memory in its canonical form: of each, that it leaves the memory as
it is, or that it keeps the form whatever it writes.
-/

namespace Sys2Proof.Machine

set_option Elab.async false

variable {s : State}

/-! ### The rendezvous (R275 to R277) -/

@[simp] theorem State.unlatch_mem {iss : Issue} : (s.unlatch iss).mem = s.mem := rfl

@[simp] theorem State.failArrival_mem {iss : Issue} {code : FaultCode} : (s.failArrival iss code).mem = s.mem := by
  simp [State.failArrival]

@[simp] theorem State.setLatches_mem {q : Nat} {l : List Latch} : (s.setLatches q l).mem = s.mem := rfl

@[simp] theorem State.failLatch_mem {q : Nat} {l : Latch} {code : FaultCode} : (s.failLatch q l code).mem = s.mem :=
  State.foldl_mem fun _ _ => by simp

@[simp] theorem State.rendezvous_mem {q team tag : Nat} : (s.rendezvous q team tag).mem = s.mem := by
  unfold State.rendezvous
  grind [State.failLatch_mem, State.setLatches_mem]

@[simp] theorem State.joinLatch_mem {q : Nat} {iss : Issue} : (s.joinLatch q iss).mem = s.mem := by
  unfold State.joinLatch
  grind [State.rendezvous_mem, State.setLatches_mem]

theorem matrixExec_canonical {i : Instr} {f : FE} {ls : Lits} (hs : s.MemoryCanonical) : AnswersCanonical (matrixExec i f ls s) := by
  unfold matrixExec
  grind [State.finish_canonical, State.joinLatch_mem, State.modGroup_mem, State.stall_mem, State.withIssue_canonical,
    answersCanonical_next]

theorem execRendezvousLatchGrant_canonical {cluster : Nat} (hs : s.MemoryCanonical) :
    AnswersCanonical (execRendezvousLatchGrant cluster s) := by
  unfold execRendezvousLatchGrant
  grind [State.joinLatch_mem, answersCanonical_next]

@[simp] theorem State.withdraw_mem {gid : Nat} : (s.withdraw gid).mem = s.mem := by
  unfold State.withdraw
  grind [State.unlatch_mem]

@[simp] theorem State.latchMemberRetired_mem {gid : Nat} : (s.latchMemberRetired gid).mem = s.mem :=
  State.foldl_mem fun _ _ => by simp

/-! ### Placement (R275, R278, R283) -/

@[simp] theorem State.addWork_mem {w : Work} : (s.addWork w).2.mem = s.mem := rfl

theorem State.commitMember_canonical {iss : Issue} {ticket wid cluster : Nat} (hs : s.MemoryCanonical) :
    (s.commitMember iss ticket wid cluster).2.MemoryCanonical := by
  unfold State.commitMember
  grind [State.addEvent_mem, State.form_canonical, State.modGroup_mem, State.unlatch_mem, State.writeV_mem]

theorem execMatrixEntryPlacement_canonical {cluster team tag : Nat} (hs : s.MemoryCanonical) :
    AnswersCanonical (execMatrixEntryPlacement cluster team tag s) := by
  unfold execMatrixEntryPlacement
  grind [State.addWork_mem, State.commitMember_canonical, State.modTeam_mem, State.setLatches_mem, answersCanonical_next,
    State.foldl_snd_canonical]

/-! ### One block (R134 to R138, R282) -/

@[simp] theorem State.bumpMcks_mem {q n : Nat} : (s.bumpMcks q n).mem = s.mem := rfl

@[simp] theorem State.runBlock_mem {id : Nat} {w : Work} : (s.runBlock id w).mem = s.mem := by
  unfold State.runBlock
  grind [State.bufWrite_mem, State.bumpMcks_mem, State.completeEvent_mem, State.foldl_mem]

/-! ### The arbiter (R278, R279) -/

theorem execMatrixPass_canonical {cluster : Nat} (hs : s.MemoryCanonical) : AnswersCanonical (execMatrixPass cluster s) := by
  unfold execMatrixPass
  grind [State.runBlock_mem, answersCanonical_next]

theorem execMatrixStarvationPriority_canonical {cluster id : Nat} (hs : s.MemoryCanonical) :
    AnswersCanonical (execMatrixStarvationPriority cluster id s) := by
  unfold execMatrixStarvationPriority
  grind [answersCanonical_next]

/-! ### Completion (R283) -/

@[simp] theorem State.writeStatus_mem {w : Work} {state : Nat} : (s.writeStatus w state).mem = s.mem := by
  simp [State.writeStatus]

@[simp] theorem State.cancelLands_mem {e ticket word : Nat} : (s.cancelLands e ticket word).mem = s.mem := rfl

theorem State.completeEntry_canonical {id : Nat} {w : Work} (hs : s.MemoryCanonical) : (s.completeEntry id w).MemoryCanonical := by
  unfold State.completeEntry
  grind [State.acquireAll_mem, State.cancelLands_mem, State.land_mem, State.modEvent_mem, State.settle_canonical, State.writeStatus_mem,
    State.foldl_canonical, State.foldl_mem]

theorem execMatrixCompletion_canonical {cluster id : Nat} (hs : s.MemoryCanonical) :
    AnswersCanonical (execMatrixCompletion cluster id s) := by
  unfold execMatrixCompletion
  grind [State.completeEntry_canonical, answersCanonical_next]

/-! ### The drain path (R285 to R287, R290) -/

@[simp] theorem commitMdrain_mem {f : FE} {iss : Issue} {idx : Nat} {n : List Nat} : (commitMdrain f iss idx n s).mem = s.mem := rfl

@[simp] theorem commitMzero_mem {iss : Issue} {idx : Nat} {n : List Nat} : (commitMzero iss idx n s).mem = s.mem := rfl

@[simp] theorem State.clearTile_mem {w : Work} : (s.clearTile w).mem = s.mem := by
  unfold State.clearTile
  grind [State.bufWrite_mem, State.foldl_mem]

theorem State.drainPiece_canonical {w : Work} {e o : Nat} {bs : List Byte} (hs : s.MemoryCanonical) :
    (s.drainPiece w e o bs).2.MemoryCanonical := by
  unfold State.drainPiece
  grind [EngR.state_fail, EngR.state_ok, EngR.state_wait, State.bufWrite_mem, State.handleWrite_canonical, State.modEvent_mem]

theorem State.drainPiecesFrom_canonical {w : Work} {e n : Nat} {ps : List (Nat × List Byte)} (hs : s.MemoryCanonical) :
    (s.drainPiecesFrom w e n ps).2.2.MemoryCanonical := by
  induction ps generalizing s n with
  | nil => exact hs
  | cons p ps ih =>
    unfold State.drainPiecesFrom
    grind [State.drainPiece_canonical]

theorem State.drainMerge_canonical {w : Work} {amax e : Nat} (hs : s.MemoryCanonical) : (s.drainMerge w amax e).2.MemoryCanonical := by
  unfold State.drainMerge
  grind [State.modEvent_mem, State.request_canonical, State.setDirty_canonical, State.submit_canonical, State.translateStore_canonical]

theorem State.runDrain_canonical {id : Nat} {w : Work} (hs : s.MemoryCanonical) : (s.runDrain id w).MemoryCanonical := by
  unfold State.runDrain
  grind [State.clearTile_mem, State.drainMerge_canonical, State.drainPiecesFrom_canonical, State.modEvent_mem, State.settle_canonical]

theorem execMatrixDrainRun_canonical {cluster : Nat} (hs : s.MemoryCanonical) : AnswersCanonical (execMatrixDrainRun cluster s) := by
  unfold execMatrixDrainRun
  grind [State.runDrain_canonical, answersCanonical_next]

theorem execMatrixZeroRun_canonical {cluster : Nat} (hs : s.MemoryCanonical) : AnswersCanonical (execMatrixZeroRun cluster s) := by
  unfold execMatrixZeroRun
  split
  · rename_i id w _
    have hu : (s.clearTile w).MemoryCanonical := by
      rw [State.MemoryCanonical, State.clearTile_mem]
      exact hs
    generalize s.clearTile w = u at hu ⊢
    grind [answersCanonical_next, State.settle_canonical, State.completeEvent_mem]
  · exact answersCanonical_next.2 hs

/-! ### mstat, mcks, mcancel (R293 to R295) -/

theorem ticketExec_canonical {det : Bool} {i : Instr} {f : FE} {ls : Lits} (hs : s.MemoryCanonical) :
    AnswersCanonical (ticketExec det i f ls s) := by
  refine State.withIssue_canonical fun iss => ?_
  repeat' split
  all_goals simp [hs]

@[simp] theorem State.laterResult_mem {iss : Issue} {idx : Nat} {d : BitVec 7} {x : LaneVals} :
    (s.laterResult iss idx d x).mem = s.mem := rfl

@[simp] theorem commitMstat_mem {f : FE} {iss : Issue} {idx : Nat} {x : LaneVals} : (commitMstat f iss idx x s).mem = s.mem := rfl

@[simp] theorem commitMcks_mem {f : FE} {iss : Issue} {idx : Nat} : (commitMcks f iss idx s).mem = s.mem := rfl

@[simp] theorem commitMcancel_mem {f : FE} {iss : Issue} {idx : Nat} {x : LaneVals} : (commitMcancel f iss idx x s).mem = s.mem :=
  State.foldl_mem fun _ _ => by simp

end Sys2Proof.Machine
end

section
/-!
PROOF. The operations of the engines and of migration keep the memory in its canonical form: of each, that it leaves the
memory as it is, or that it keeps the form whatever it writes.
-/

namespace Sys2Proof.Machine

set_option Elab.async false

variable {s : State}

/-! ### Status records and completion (R297, R298) -/

theorem State.putStatus_canonical {c : Command} (hs : s.MemoryCanonical) : (s.putStatus c).state.MemoryCanonical := by
  unfold State.putStatus
  grind [EngR.state_ok, EngR.state_wait, State.bufWrite_mem, State.handleWrite_canonical]

@[simp] theorem State.setCommand_mem {id : Nat} {c : Command} : (s.setCommand id c).mem = s.mem := rfl

@[simp] theorem State.settleCommand_mem {id : Nat} {c : Command} {f : Option (FaultCode × Nat)} :
    (s.settleCommand id c f).mem = s.mem := by
  unfold State.settleCommand
  grind [State.acquireAll_mem, State.completeEvent_mem, State.engDone_mem, State.modEvent_mem, State.setCommand_mem]

theorem State.endCommand_canonical {id : Nat} {c : Command} {f : Option (FaultCode × Nat)} (hs : s.MemoryCanonical) :
    (s.endCommand id c f).MemoryCanonical := by
  unfold State.endCommand
  grind [EngR.state_fail, EngR.state_ok, EngR.state_wait, State.putStatus_canonical, State.setCommand_mem, State.settleCommand_mem]

theorem State.noteCommand_canonical {id : Nat} {c : Command} (hs : s.MemoryCanonical) : (s.noteCommand id c).MemoryCanonical := by
  unfold State.noteCommand
  grind [EngR.state_fail, EngR.state_ok, EngR.state_wait, State.putStatus_canonical, State.setCommand_mem, State.settleCommand_mem]

theorem State.acceptCommand_canonical {iss : Issue} {idx : Nat} {d : BitVec 7} {engine : Nat} {c : Command} (hs : s.MemoryCanonical) :
    (s.acceptCommand iss idx d engine c).MemoryCanonical := by
  unfold State.acceptCommand
  grind [State.addCommand_mem, State.addEvent_mem, State.modEvent_mem, State.modTeam_mem, State.noteCommand_canonical, State.writeV_mem]

/-! ### The copy command record (R301 to R303) -/

theorem State.fetchRecord_canonical {iss : Issue} {f : FE} {ls : Lits} {mem : Bool} {n unit : Nat}
    {k : State → List Byte → Result} (hs : s.MemoryCanonical) (hk : ∀ u bs, u.MemoryCanonical → AnswersCanonical (k u bs)) :
    AnswersCanonical (s.fetchRecord iss f ls mem n unit k) := by
  unfold State.fetchRecord
  grind [State.stall_mem, State.faultAll_canonical, State.handleRead_canonical, EngR.state_ok, EngR.state_fail, EngR.state_wait,
    answersCanonical_next]

theorem copyExec_canonical {i : Instr} {f : FE} {ls : Lits} (hs : s.MemoryCanonical) : AnswersCanonical (copyExec i f ls s) := by
  unfold copyExec
  grind [State.faultAll_canonical, State.fetchRecord_canonical, State.finish_canonical, State.withIssue_canonical]

theorem commitCopy_canonical {f : FE} {iss : Issue} {idx : Nat} {n : List Nat} (hs : s.MemoryCanonical) :
    (commitCopy f iss idx n s).MemoryCanonical := by
  unfold commitCopy
  grind [State.acceptCommand_canonical]

/-! ### Running a copy command -/

theorem EngR.andThen_canonical {r : EngR} {k : List Byte → State → EngR} (hr : r.state.MemoryCanonical)
    (hk : ∀ d s, s.MemoryCanonical → (k d s).state.MemoryCanonical) : (r.andThen k).state.MemoryCanonical := by
  cases r with
  | ok d s => exact hk d s hr
  | fail c va s => exact hr
  | wait s => exact hr

theorem State.copyRead_canonical {c : Command} {kind h o n : Nat} (hs : s.MemoryCanonical) :
    (s.copyRead c kind h o n).state.MemoryCanonical := by
  unfold State.copyRead
  grind [EngR.state_ok, State.handleRead_canonical]

theorem State.copyWrite_canonical {c : Command} {kind o : Nat} {bs : List Byte} (hs : s.MemoryCanonical) :
    (s.copyWrite c kind o bs).state.MemoryCanonical := by
  unfold State.copyWrite
  grind [EngR.state_ok, State.bufWrite_mem, State.handleWrite_canonical, State.foldl_canonical]

theorem State.srcRow_canonical {c : Command} {r : CopyRec} {p j : Nat} (hs : s.MemoryCanonical) :
    (s.srcRow c r p j).state.MemoryCanonical := by
  unfold State.srcRow
  grind [State.copyRead_canonical]

theorem State.srcColumn_canonical {c : Command} {r : CopyRec} {i : Nat} (hs : s.MemoryCanonical) :
    (s.srcColumn c r i).state.MemoryCanonical := by
  unfold State.srcColumn
  grind [EngR.andThen_canonical, EngR.state_ok, State.copyRead_canonical, EngR.foldl_canonical]

theorem State.copyRow_canonical {c : Command} {r : CopyRec} {k : Nat} (hs : s.MemoryCanonical) :
    (s.copyRow c r k).state.MemoryCanonical := by
  unfold State.copyRow
  grind [EngR.andThen_canonical, EngR.state_fail, EngR.state_ok, State.copyRead_canonical, State.copyWrite_canonical,
    State.srcColumn_canonical, State.srcRow_canonical]

@[simp] theorem State.sliceElem_mem {c : Command} {r : CopyRec} {slice base k x : Nat} :
    (s.sliceElem c r slice base k x).mem = s.mem := by
  unfold State.sliceElem
  split <;> simp

theorem State.packGroup_canonical {c : Command} {r : CopyRec} {g : Nat} (hs : s.MemoryCanonical) :
    (s.packGroup c r g).state.MemoryCanonical := by
  unfold State.packGroup
  extract_lets rows
  have hrows : rows.1.state.MemoryCanonical := by
    refine List.foldlRecOn (motive := fun x : EngR × List (List Nat) => x.1.state.MemoryCanonical) _ _ hs fun x hx k _ => ?_
    grind [State.srcRow_canonical, EngR.state_ok]
  clear_value rows
  refine EngR.andThen_canonical hrows fun _ t ht => ?_
  grind [EngR.state_ok, EngR.state_fail, State.foldl_mem, State.sliceElem_mem]

theorem State.packRow_canonical {c : Command} {r : CopyRec} {k : Nat} (hs : s.MemoryCanonical) :
    (s.packRow c r k).state.MemoryCanonical := by
  unfold State.packRow
  grind [EngR.andThen_canonical, EngR.state_ok, State.packGroup_canonical, State.sliceElem_mem, State.srcRow_canonical,
    State.foldl_canonical]

theorem State.walkCopyPage_canonical {c : Command} {k : Nat} (hs : s.MemoryCanonical) : (s.walkCopyPage c k).state.MemoryCanonical := by
  unfold State.walkCopyPage
  grind [EngR.andThen_canonical, State.engRead_canonical, State.engWrite_canonical]

theorem State.runCopy_canonical {id : Nat} {c : Command} (hs : s.MemoryCanonical) : (s.runCopy id c).MemoryCanonical := by
  unfold State.runCopy
  extract_lets +onlyGivenNames r
  split
  rename_i units per hup
  extract_lets +onlyGivenNames unit first
  have hunit {t k} (ht : t.MemoryCanonical) : (unit t k).state.MemoryCanonical := by
    simp only [unit]
    split
    · exact State.walkCopyPage_canonical ht
    · split
      · exact State.packRow_canonical ht
      · exact State.copyRow_canonical ht
  clear_value unit first
  split
  rename_i n res hres
  have hrun : res.state.MemoryCanonical := by
    rw [show res = (n, res).2 from rfl, ← hres]
    refine List.foldlRecOn (motive := fun x : Nat × EngR => x.2.state.MemoryCanonical) _ _ hs fun x hx i _ => ?_
    grind [EngR.state_ok]
  extract_lets c'
  split
  · exact State.endCommand_canonical hrun
  · exact State.endCommand_canonical hrun
  · rw [State.MemoryCanonical, State.setCommand_mem]
    exact hrun

/-! ### The copy engine's queue (R305) -/

theorem execCopyCommandStart_canonical {cluster id : Nat} (hs : s.MemoryCanonical) :
    AnswersCanonical (execCopyCommandStart cluster id s) := by
  unfold execCopyCommandStart
  grind [State.noteCommand_canonical, answersCanonical_next]

theorem execCopyCommandCompletion_canonical {cluster id : Nat} (hs : s.MemoryCanonical) :
    AnswersCanonical (execCopyCommandCompletion cluster id s) := by
  unfold execCopyCommandCompletion
  grind [State.runCopy_canonical, State.settle_canonical, answersCanonical_next]

theorem execEngineStatusUpdate_canonical {id : Nat} (hs : s.MemoryCanonical) : AnswersCanonical (execEngineStatusUpdate id s) := by
  unfold execEngineStatusUpdate
  grind [State.noteCommand_canonical, answersCanonical_next]

/-! ### publish (R300, R312) -/

@[simp] theorem commitPublish_mem {iss : Issue} {idx : Nat} {n : List Nat} : (commitPublish iss idx n s).mem = s.mem := rfl

@[simp] theorem State.swapPair_mem {team space unit bank : Nat} : (s.swapPair team space unit bank).mem = s.mem :=
  State.foldl_mem fun _ _ => by simp

@[simp] theorem State.flipBegin_mem {ps : List Nat} : (s.flipBegin ps).mem = s.mem :=
  State.foldl_mem fun _ _ => by simp

@[simp] theorem State.flipEnd_mem {ps : List Nat} : (s.flipEnd ps).mem = s.mem := by
  refine State.foldl_mem fun _ _ => ?_
  split <;> simp

@[simp] theorem State.flipAbandon_mem {ps : List Nat} : (s.flipAbandon ps).mem = s.mem := by
  refine State.foldl_mem fun _ _ => ?_
  split <;> simp

theorem State.publishDone_canonical {id : Nat} {c : Command} {f : Option (FaultCode × Nat)} (hs : s.MemoryCanonical) :
    (s.publishDone id c f).MemoryCanonical := by
  unfold State.publishDone
  grind [State.settleCommand_mem, State.settle_canonical]

theorem State.publishMem_canonical {id : Nat} {c : Command} (hs : s.MemoryCanonical) : (s.publishMem id c).MemoryCanonical := by
  unfold State.publishMem
  grind [State.flipAbandon_mem, State.flipBegin_mem, State.flipEnd_mem, State.pageDrain_canonical, State.publishDone_canonical,
    State.range_canonical, State.request_canonical, State.setCommand_mem]

theorem execPublishExecution_canonical {id : Nat} (hs : s.MemoryCanonical) : AnswersCanonical (execPublishExecution id s) := by
  unfold execPublishExecution
  grind [State.publishDone_canonical, State.publishMem_canonical, State.swapPair_mem, answersCanonical_next, State.foldl_canonical]

/-! ### ewait and estat (R313) -/

@[simp] theorem commitEwait_mem {i : Instr} {f : FE} {iss : Issue} {idx : Nat} {x : LaneVals} :
    (commitEwait i f iss idx x s).mem = s.mem := rfl

@[simp] theorem commitEstat_mem {f : FE} {iss : Issue} {idx : Nat} {x : LaneVals} : (commitEstat f iss idx x s).mem = s.mem := rfl

theorem State.ewaitLands_mem {id : Nat} {d : Deferred} {n : List Nat} : ∀ t, s.ewaitLands id d n = some t → t.mem = s.mem := by
  unfold State.ewaitLands
  grind [State.acquireAll_mem, State.modEvent_mem]

/-! ### Digests (R309, R310) -/

theorem commitDgst_canonical {f : FE} {iss : Issue} {idx : Nat} {n : List Nat} (hs : s.MemoryCanonical) :
    (commitDgst f iss idx n s).MemoryCanonical := by
  unfold commitDgst
  grind [State.acceptCommand_canonical]

theorem State.digestRead_canonical {who : Nat} {c : Ctx} {core : Nat} {h : HandleBits} {es : List (Nat × Nat)} (hs : s.MemoryCanonical) :
    (s.digestRead who c core h es).state.MemoryCanonical := by
  unfold State.digestRead
  grind [EngR.andThen_canonical, EngR.state_ok, State.handleRead_canonical, EngR.foldl_canonical]

theorem State.runDigest_canonical {id : Nat} {c : Command} (hs : s.MemoryCanonical) : (s.runDigest id c).MemoryCanonical := by
  unfold State.runDigest
  grind [EngR.state_fail, EngR.state_ok, EngR.state_wait, State.bufWrite_mem, State.digestRead_canonical, State.endCommand_canonical,
    State.noteCommand_canonical]

/-! ### Frame pools (R379) -/

theorem State.migWrite_canonical {pa : Nat} {bs : List Byte} (hs : s.MemoryCanonical) : (s.migWrite pa bs).MemoryCanonical := by
  unfold State.migWrite
  grind [State.homePut_canonical, State.recall_mem, State.foldl_canonical]

theorem State.poolTake_canonical {pool size : Nat} (hs : s.MemoryCanonical) :
    ∀ t n, s.poolTake pool size = some (n, t) → t.MemoryCanonical := by
  intro t n ht
  simp only [State.poolTake, Option.map_eq_some_iff] at ht
  grind [State.migWrite_canonical]

theorem State.poolPut_canonical {pool size frame : Nat} (hs : s.MemoryCanonical) : (s.poolPut pool size frame).MemoryCanonical := by
  unfold State.poolPut
  grind [State.migWrite_canonical]

/-! ### Where a page's data lies -/

@[simp] theorem State.frameClear_mem {p : Target} {base n : Nat} : (s.frameClear p base n).mem = s.mem := by
  unfold State.frameClear
  grind [State.preserveFrame_mem]

theorem State.framePut_canonical {p : Target} {base n : Nat} {d : PageData} (hs : s.MemoryCanonical) :
    (s.framePut p base n d).MemoryCanonical := by
  unfold State.framePut
  extract_lets +onlyGivenNames u k v tag
  have hv : Memory.wf v.mem = true := by
    simp only [v, u, State.frameClear_mem]
    exact hs
  clear_value v
  split
  · rw [State.MemoryCanonical, State.hostPut_mem]
    exact hv
  · split
    · exact Memory.wf_foldl_write _ (Memory.wf_filter _ hv)
    · exact hv

@[simp] theorem State.frameData_mem {who : Nat} {l : Leaf} : (s.frameData who l).1.state.mem = s.mem := by
  unfold State.frameData
  grind [EngR.state_ok, State.engHostRead_mem]

/-! ### Moving one page (R307) -/

theorem State.rewriteLeaf_canonical {l : Leaf} {frame : Nat} {p : Target} (hs : s.MemoryCanonical) :
    (s.rewriteLeaf l frame p).MemoryCanonical := by
  unfold State.rewriteLeaf
  grind [State.migWrite_canonical, State.foldl_canonical]

@[simp] theorem State.moveEnds_mem {l : Leaf} : (s.moveEnds l).mem = s.mem := by
  unfold State.moveEnds
  split <;> simp

theorem State.moveData_canonical {who : Nat} {c : Ctx} {l : Leaf} {to' : Target} (hs : s.MemoryCanonical) :
    (s.moveData who c l to').state.MemoryCanonical := by
  unfold State.moveData
  extract_lets +onlyGivenNames src gs u
  have hu : u.MemoryCanonical := by
    refine State.foldl_canonical (fun t g ht => ?_) hs
    rw [State.MemoryCanonical, State.recall_mem]
    exact ht
  clear_value u gs
  have hends {t : State} (ht : t.MemoryCanonical) : (t.moveEnds l).MemoryCanonical := by
    rw [State.MemoryCanonical, State.moveEnds_mem]
    exact ht
  have hframe := State.frameData_mem (s := u) (who := who) (l := l)
  split
  · exact State.request_canonical hu
  · split
    · exact State.request_canonical hu
    · split
      · exact hends (State.rewriteLeaf_canonical hu)
      · split
        · exact State.request_canonical hu
        · split
          · exact hends hu
          · grind [EngR.state_ok, EngR.state_fail, EngR.state_wait, Moved.state_done, Moved.state_fail, Moved.state_wait,
              State.poolTake_canonical, State.frameClear_mem, State.framePut_canonical, State.poolPut_canonical,
              State.rewriteLeaf_canonical, State.hostErr_mem]

/-! ### mig and preq (R188, R307, R312) -/

theorem commitMig_canonical {f : FE} {iss : Issue} {idx : Nat} {n : List Nat} (hs : s.MemoryCanonical) :
    (commitMig f iss idx n s).MemoryCanonical := by
  unfold commitMig
  grind [State.acceptCommand_canonical]

@[simp] theorem State.pageFails_mem {c : Command} {code : FaultCode} {va : Nat} : (s.pageFails c code va).1.mem = s.mem := by
  unfold State.pageFails
  grind [State.modEvent_mem]

@[simp] theorem State.afterPage_mem {id : Nat} {c : Command} : (s.afterPage id c).mem = s.mem := by
  unfold State.afterPage
  grind [State.setCommand_mem, State.settleCommand_mem]

theorem State.moveBegins_mem {l : Leaf} : ∀ t, s.moveBegins l = some t → t.mem = s.mem := by
  unfold State.moveBegins
  grind [State.pageOpen_mem]

theorem State.movePage_canonical {c : Command} {asid : Nat} {l : Leaf} {to' : Target} (hs : s.MemoryCanonical) :
    (s.movePage c asid l to').1.state.MemoryCanonical := by
  unfold State.movePage
  grind [Moved.state_done, Moved.state_fail, Moved.state_wait, State.engDone_mem, State.moveBegins_mem, State.moveData_canonical,
    State.pageDrain_canonical, State.request_canonical]

theorem execMigrationPageMove_canonical (hs : s.MemoryCanonical) : AnswersCanonical (execMigrationPageMove s) := by
  unfold execMigrationPageMove
  grind [Moved.state_done, Moved.state_fail, Moved.state_wait, State.afterPage_mem, State.movePage_canonical, State.pageFails_mem,
    State.pump_canonical, State.request_canonical, State.setCommand_mem, State.settle_canonical, answersCanonical_next]

theorem execFramePoolWaitExpiry_canonical (hs : s.MemoryCanonical) : AnswersCanonical (execFramePoolWaitExpiry s) := by
  unfold execFramePoolWaitExpiry
  grind [State.afterPage_mem, State.pageFails_mem, answersCanonical_next]

/-! ### TLB invalidation (R389) -/

@[simp] theorem commitTlbinv_mem {i : Instr} {iss : Issue} {idx : Nat} {n : List Nat} : (commitTlbinv i iss idx n s).mem = s.mem := by
  unfold commitTlbinv
  grind [State.addEvent_mem, State.modEvent_mem, State.sendCoh_mem, State.tlbRemove_mem, State.foldl_mem]

theorem State.tlbinvLands_mem {d : Deferred} {n : List Nat} : ∀ t, s.tlbinvLands d n = some t → t.mem = s.mem := by
  unfold State.tlbinvLands
  grind

end Sys2Proof.Machine
end

section
/-!
PROOF. The operations of the collectives keep the memory in its canonical form: of each, that it leaves the memory as it
is, or that it keeps the form whatever it writes.
-/

namespace Sys2Proof.Machine

set_option Elab.async false

variable {s : State}

/-! ### Routes and placement -/

@[simp] theorem State.fabBump_mem {i n : Nat} : (s.fabBump i n).mem = s.mem := rfl

/-! ### Messages of rounds -/

@[simp] theorem State.sendRound_mem {chip ctx n : Nat} {c : Combine} {role : MsgRole} {data : List Byte} {fail : Option FaultCode} :
    (s.sendRound chip ctx n c role data fail).mem = s.mem := rfl

/-! ### A round's end (R338) -/

@[simp] theorem State.modCombine_mem {ctx : Nat} {f : Combine → Combine} : (s.modCombine ctx f).mem = s.mem := by
  simp [State.modCombine]

@[simp] theorem State.modRound_mem {ctx n : Nat} {f : Round → Round} : (s.modRound ctx n f).mem = s.mem := by
  simp [State.modRound]

theorem State.writeResult_canonical {x : Contribution} {data : List Byte} (hs : s.MemoryCanonical) :
    (s.writeResult x data).state.MemoryCanonical := by
  unfold State.writeResult
  grind [EngR.state_ok, State.bufWrite_mem, State.handleWrite_canonical]

theorem State.resultLeaves_canonical {xs : List Contribution} {n : Nat} (hs : s.MemoryCanonical) :
    (s.resultLeaves xs n).2.MemoryCanonical := by
  unfold State.resultLeaves
  grind [State.range_canonical, State.foldl_snd_canonical]

@[simp] theorem State.wakeRound_mem {ctx n : Nat} {fail : Option FaultCode} : (s.wakeRound ctx n fail).mem = s.mem := by
  unfold State.wakeRound
  grind [State.acquireAll_mem, State.modGroup_mem, State.queueFault_mem, State.foldl_mem]

@[simp] theorem State.postFault_mem {x : Contribution} {code : FaultCode} {va : Nat} : (s.postFault x code va).mem = s.mem := by
  unfold State.postFault
  split <;> simp

@[simp] theorem State.readOver_mem {x : Contribution} : (s.readOver x).mem = s.mem := by
  unfold State.readOver
  split <;> simp

@[simp] theorem State.closeRound_mem {ctx n : Nat} {fail : Option FaultCode} : (s.closeRound ctx n fail).mem = s.mem := by
  unfold State.closeRound
  grind [State.modCombine_mem, State.readOver_mem, State.wakeRound_mem, State.foldl_mem]

@[simp] theorem State.failRound_mem {ctx n : Nat} {code : FaultCode} : (s.failRound ctx n code).mem = s.mem := by
  unfold State.failRound
  grind [State.closeRound_mem, State.sendRound_mem, State.foldl_mem]

@[simp] theorem State.setResult_mem {ctx n : Nat} {c : Combine} {data : List Byte} : (s.setResult ctx n c data).mem = s.mem := by
  unfold State.setResult
  grind [State.modRound_mem, State.sendRound_mem, State.foldl_mem]

theorem State.publishBegin_canonical {ctx n : Nat} {r : Round} {data : List Byte} (hs : s.MemoryCanonical) :
    (s.publishBegin ctx n r data).MemoryCanonical := by
  unfold State.publishBegin
  split
  · exact hs
  · extract_lets ms
    split
    rename_i ok fs u hu
    have hwritten : u.MemoryCanonical := by
      rw [show u = (ok, fs, u).2.2 from rfl, ← hu]
      refine List.foldlRecOn (motive := fun p : Bool × List (Nat × FaultCode × Nat) × State => p.2.2.MemoryCanonical) _ _ hs fun p hp x _ => ?_
      have hx := State.writeResult_canonical (x := x.2) (data := data) hp
      split
      all_goals
        rename_i he
        rw [he] at hx
        exact hx
    extract_lets good
    have hleaves := State.resultLeaves_canonical (xs := good) (n := data.length) hwritten
    split
    rename_i ls v hv
    rw [hv] at hleaves
    extract_lets ps
    split
    · exact hleaves
    · simp only [State.MemoryCanonical, State.modRound_mem, State.flipBegin_mem]
      refine State.foldl_canonical (fun t f ht => ?_) hleaves
      split
      · rw [State.MemoryCanonical, State.postFault_mem]
        exact ht
      · exact ht

@[simp] theorem State.publishWithout_mem {ctx n : Nat} {r : Round} {size : Nat} {ps : List Nat} :
    (s.publishWithout ctx n r size ps).mem = s.mem := by
  unfold State.publishWithout
  grind [State.flipAbandon_mem, State.modRound_mem, State.postFault_mem, State.foldl_mem]

theorem State.publishFlip_canonical {ctx n : Nat} {r : Round} {data : List Byte} {ps : List Nat} (hs : s.MemoryCanonical) :
    (s.publishFlip ctx n r data ps).MemoryCanonical := by
  unfold State.publishFlip
  grind [State.flipEnd_mem, State.modRound_mem, State.pageDrain_canonical, State.publishWithout_mem, State.swapPair_mem,
    State.foldl_canonical]

@[simp] theorem State.publishEnd_mem {ctx n : Nat} {ps : List Nat} : (s.publishEnd ctx n ps).mem = s.mem := by
  unfold State.publishEnd
  split <;> simp

theorem State.publishRound_canonical {ctx n : Nat} {data : List Byte} (hs : s.MemoryCanonical) :
    (s.publishRound ctx n data).MemoryCanonical := by
  unfold State.publishRound
  grind [State.publishBegin_canonical, State.publishFlip_canonical, State.publishEnd_mem]

theorem State.foldCheck_canonical {ctx n : Nat} (hs : s.MemoryCanonical) : (s.foldCheck ctx n).MemoryCanonical := by
  unfold State.foldCheck
  grind [State.failRound_mem, State.modRound_mem, State.publishRound_canonical, State.sendRound_mem, State.setResult_mem]

theorem State.roundFails_canonical {ctx n : Nat} {code : FaultCode} (hs : s.MemoryCanonical) :
    (s.roundFails ctx n code).MemoryCanonical := by
  unfold State.roundFails
  grind [State.foldCheck_canonical, State.modRound_mem]

theorem execCombineContributionReceive_canonical {ctx chip round : Nat} {agreed : CombineAgreed} {fail : Option FaultCode}
    {data : List Byte} (hs : s.MemoryCanonical) :
    AnswersCanonical (execCombineContributionReceive ctx chip round agreed fail data s) := by
  unfold execCombineContributionReceive
  grind [State.fabBump_mem, State.foldCheck_canonical, State.modRound_mem, State.roundFails_canonical, answersCanonical_next]

theorem execCombineResultReceive_canonical {ctx round : Nat} {fail : Option FaultCode} {data : List Byte} (hs : s.MemoryCanonical) :
    AnswersCanonical (execCombineResultReceive ctx round fail data s) := by
  unfold execCombineResultReceive
  grind [State.failRound_mem, State.foldCheck_canonical, State.setResult_mem, answersCanonical_next]

/-! ### cinit (R335) -/

@[simp] theorem commitCinit_mem {iss : Issue} {idx : Nat} {n : List Nat} : (commitCinit iss idx n s).mem = s.mem := by
  simp [commitCinit]

/-! ### cpost and cbar (R336) -/

theorem State.postSource_canonical {e : Nat} {x : Contribution} {n : Nat} (hs : s.MemoryCanonical) :
    (s.postSource e x n).state.MemoryCanonical := by
  unfold State.postSource
  grind [EngR.state_ok, EngR.state_wait, State.handleRead_canonical]

theorem State.readPost_canonical {ctx n : Nat} {c : Combine} {m : Nat} {x : Contribution} (hs : s.MemoryCanonical) :
    (s.readPost ctx n c m x).MemoryCanonical := by
  unfold State.readPost
  grind [EngR.state_fail, EngR.state_ok, EngR.state_wait, State.modEvent_mem, State.modRound_mem, State.postSource_canonical,
    State.readOver_mem, State.roundFails_canonical]

theorem State.roundStep_canonical {ctx n : Nat} (hs : s.MemoryCanonical) : (s.roundStep ctx n).MemoryCanonical := by
  unfold State.roundStep
  grind [State.foldCheck_canonical, State.readPost_canonical, State.foldl_canonical]

theorem State.roundsStep_canonical (hs : s.MemoryCanonical) : s.roundsStep.MemoryCanonical := by
  unfold State.roundsStep
  grind [State.roundStep_canonical, State.foldl_canonical]

theorem State.postRound_canonical {ctx member : Nat} {x : Contribution} (hs : s.MemoryCanonical) :
    (s.postRound ctx member x).MemoryCanonical := by
  unfold State.postRound
  grind [State.modCombine_mem, State.modRound_mem, State.readOver_mem, State.roundFails_canonical, State.roundStep_canonical]

theorem commitCpost_canonical {f : FE} {ls : Lits} {iss : Issue} {idx : Nat} {n : List Nat} (hs : s.MemoryCanonical) :
    (commitCpost f ls iss idx n s).MemoryCanonical := by
  unfold commitCpost
  grind [State.addEvent_mem, State.postRound_canonical, State.writeV_mem]

theorem commitCbar_canonical {f : FE} {iss : Issue} {idx : Nat} {n : List Nat} (hs : s.MemoryCanonical) :
    (commitCbar f iss idx n s).MemoryCanonical := by
  unfold commitCbar
  grind [State.addEvent_mem, State.postRound_canonical, State.writeV_mem]

/-! ### cwait and cfree (R339, R340) -/

@[simp] theorem commitCwait_mem {iss : Issue} {idx : Nat} {n : List Nat} : (commitCwait iss idx n s).mem = s.mem := by
  unfold commitCwait
  grind [State.modGroup_mem, State.wakeRound_mem]

@[simp] theorem commitCfree_mem {iss : Issue} {idx : Nat} {n : List Nat} : (commitCfree iss idx n s).mem = s.mem := by
  simp [commitCfree]

end Sys2Proof.Machine
end

section
/-!
PROOF. The operations of the fabric keep the memory in its canonical form: of each, that it leaves the memory as it is,
or that it keeps the form whatever it writes.
-/

namespace Sys2Proof.Machine

set_option Elab.async false

variable {s : State}

/-! ### Memory at its home, for the fabric and the host -/

theorem State.homeRead_canonical {pa n : Nat} {leaf : Option Nat} (hs : s.MemoryCanonical) :
    (s.homeRead pa n leaf).state.MemoryCanonical := by
  unfold State.homeRead
  grind [EngR.andThen_canonical, EngR.state_ok, State.engReadSeg_canonical, EngR.foldl_canonical]

theorem State.homeWrite_canonical {pa : Nat} {bs : List Byte} {leaf : Option Nat} (hs : s.MemoryCanonical) :
    (s.homeWrite pa bs leaf).state.MemoryCanonical := by
  unfold State.homeWrite
  grind [EngR.andThen_canonical, EngR.state_ok, State.engWriteSeg_canonical, EngR.foldl_canonical]

/-! ### Sending -/

@[simp] theorem State.sendControl_mem {src chip kind seq info : Nat} {payload : List Byte} :
    (s.sendControl src chip kind seq info payload).mem = s.mem := by
  unfold State.sendControl
  grind [State.fabBump_mem, State.send_mem, State.foldl_mem]

@[simp] theorem State.sendLoss_mem {m : Msg} {seq : Nat} : (s.sendLoss m seq).mem = s.mem := by
  simp [State.sendLoss]

@[simp] theorem State.fragFlip_mem {m : Msg} {isData : Bool} {route : Nat} : (s.fragFlip m isData route).2.mem = s.mem := by
  unfold State.fragFlip
  grind [State.completeEvent_mem]

@[simp] theorem State.emitStripe_mem {x : Kept} {seq j gen : Nat} : (s.emitStripe x seq j gen).mem = s.mem := by
  unfold State.emitStripe
  grind [State.fabBump_mem, State.fragFlip_mem, State.send_mem, State.foldl_mem]

@[simp] theorem State.emitAll_mem {x : Kept} {seq : Nat} : (s.emitAll x seq).mem = s.mem :=
  State.foldl_mem fun _ _ => by simp

theorem State.endFabric_canonical {id n : Nat} {f : Option (FaultCode × Nat)} (hs : s.MemoryCanonical) :
    (s.endFabric id n f).MemoryCanonical := by
  unfold State.endFabric
  grind [State.endCommand_canonical]

theorem State.loseCommand_canonical {id : Nat} {aux : Word} (hs : s.MemoryCanonical) : (s.loseCommand id aux).MemoryCanonical := by
  unfold State.loseCommand
  grind [EngR.state_wait, State.modEvent_mem, State.putStatus_canonical, State.settleCommand_mem]

@[simp] theorem State.stepLoses_mem {gr : Nat} {aux : Word} : (s.stepLoses gr aux).mem = s.mem := by
  unfold State.stepLoses
  split <;> rfl

@[simp] theorem State.stepsLose_mem {p : Grid → Bool} {aux : Word} : (s.stepsLose p aux).mem = s.mem :=
  State.foldl_mem fun _ _ => by simp

@[simp] theorem State.stepHears_mem {src : Nat} {aux : Word} : (s.stepHears src aux).mem = s.mem := by
  unfold State.stepHears
  split <;> rfl

@[simp] theorem State.tellFailure_mem {colour initiator : Nat} : (s.tellFailure colour initiator).mem = s.mem := by
  unfold State.tellFailure
  grind [State.send_mem, State.foldl_mem]

theorem State.takeEpoch_canonical {epoch : Nat} (hs : s.MemoryCanonical) : (s.takeEpoch epoch).MemoryCanonical := by
  unfold State.takeEpoch
  grind [State.formAll_canonical, State.takeAnswers_mem]

theorem State.failSnap_canonical {colour cause : Nat} (hs : s.MemoryCanonical) : (s.failSnap colour cause).MemoryCanonical := by
  unfold State.failSnap
  grind [State.takeEpoch_canonical]

theorem State.snapFail_canonical {colour cause : Nat} (hs : s.MemoryCanonical) : (s.snapFail colour cause).MemoryCanonical := by
  unfold State.snapFail
  grind [State.failSnap_canonical, State.tellFailure_mem]

@[simp] theorem State.grainLost_mem {g : Nat} {c : FaultCode} {aux : Word} : (s.grainLost g c aux).mem = s.mem :=
  State.foldl_mem fun _ _ => by simp

@[simp] theorem State.accessLost_mem {id : Nat} {c : FaultCode} {aux : Word} : (s.accessLost id c aux).mem = s.mem := by
  unfold State.accessLost
  grind [State.awayAnswer_mem, State.modEvent_mem, State.refuseAccess_mem]

theorem State.cohLost_canonical {m : Msg} {c : FaultCode} {aux : Word} (hs : s.MemoryCanonical) :
    (s.cohLost m c aux).MemoryCanonical := by
  unfold State.cohLost
  grind [State.accessLost_mem, State.grainLost_mem, State.opAnswered_mem, State.sendCoh_mem, answersCanonical_next,
    execCoherenceAck_canonical]

theorem State.senderLoss_canonical {m : Msg} {seq : Nat} (hs : s.MemoryCanonical) : (s.senderLoss m seq).MemoryCanonical := by
  unfold State.senderLoss
  grind [State.cohLost_canonical, State.fabBump_mem, State.failRound_mem, State.logError_mem, State.loseCommand_canonical,
    State.snapFail_canonical, State.stepLoses_mem, State.stepsLose_mem, State.foldl_canonical]

theorem State.loseKept_canonical {key : Nat} {x : Kept} (hs : s.MemoryCanonical) : (s.loseKept key x).MemoryCanonical := by
  unfold State.loseKept
  grind [State.sendLoss_mem, State.senderLoss_canonical]

theorem State.attemptFails_canonical {key j : Nat} (hs : s.MemoryCanonical) : (s.attemptFails key j).MemoryCanonical := by
  unfold State.attemptFails
  grind [State.emitStripe_mem, State.fabBump_mem, State.loseKept_canonical]

@[simp] theorem State.noteMarker_mem {epoch chan seq : Nat} {into : Bool} : (s.noteMarker epoch chan seq into).mem = s.mem := rfl

theorem execMessageInjection_canonical {dst cls : Nat} (hs : s.MemoryCanonical) : AnswersCanonical (execMessageInjection dst cls s) := by
  unfold execMessageInjection
  grind [State.cohLost_canonical, State.emitAll_mem, State.endFabric_canonical, State.failRound_mem, State.noteCommand_canonical,
    State.noteMarker_mem, State.pump_canonical, State.snapFail_canonical, answersCanonical_next]

theorem State.release_canonical {key : Nat} {x : Kept} (hs : s.MemoryCanonical) : (s.release key x).MemoryCanonical := by
  unfold State.release
  grind [State.endFabric_canonical]

theorem State.ackReceived_canonical {chan seq : Nat} (hs : s.MemoryCanonical) : (s.ackReceived chan seq).MemoryCanonical := by
  unfold State.ackReceived
  refine State.foldl_canonical (fun t p ht => State.release_canonical ht) (State.foldl_canonical (fun t p ht => ?_) hs)
  exact ht

theorem execAckReceive_canonical {dst cls seq : Nat} (hs : s.MemoryCanonical) : AnswersCanonical (execAckReceive dst cls seq s) := by
  unfold execAckReceive
  grind [State.ackReceived_canonical, answersCanonical_next]

@[simp] theorem State.putFaults_mem {chan : Nat} {payload : List Byte} : (s.putFaults chan payload).mem = s.mem :=
  State.foldl_mem fun _ _ => by simp

theorem execNackReceive_canonical {dst cls seq stripe : Nat} (hs : s.MemoryCanonical) :
    AnswersCanonical (execNackReceive dst cls seq stripe s) := by
  unfold execNackReceive
  grind [State.attemptFails_canonical, answersCanonical_next]

theorem State.nackReceived_canonical {key stripe gen : Nat} (hs : s.MemoryCanonical) :
    (s.nackReceived key stripe gen).MemoryCanonical := by
  unfold State.nackReceived
  grind [State.attemptFails_canonical]

@[simp] theorem State.busyReceived_mem {key : Nat} : (s.busyReceived key).mem = s.mem := rfl

theorem execBusyReplyReceive_canonical {dst cls seq : Nat} (hs : s.MemoryCanonical) :
    AnswersCanonical (execBusyReplyReceive dst cls seq s) := by
  unfold execBusyReplyReceive
  grind [State.busyReceived_mem, answersCanonical_next]

theorem execBusyWaitExpiry_canonical {dst cls seq : Nat} (hs : s.MemoryCanonical) :
    AnswersCanonical (execBusyWaitExpiry dst cls seq s) := by
  unfold execBusyWaitExpiry
  grind [State.emitAll_mem, answersCanonical_next]

theorem execAckWaitExpiry_canonical {dst cls seq stripe : Nat} (hs : s.MemoryCanonical) :
    AnswersCanonical (execAckWaitExpiry dst cls seq stripe s) := by
  unfold execAckWaitExpiry
  grind [State.attemptFails_canonical, answersCanonical_next]

theorem execLossNoticeRepeat_canonical {dst cls seq : Nat} (hs : s.MemoryCanonical) :
    AnswersCanonical (execLossNoticeRepeat dst cls seq s) := by
  unfold execLossNoticeRepeat
  grind [State.sendLoss_mem, answersCanonical_next]

/-! ### Receiving -/

@[simp] theorem State.oweAck_mem {chan : Nat} : (s.oweAck chan).mem = s.mem := rfl

@[simp] theorem State.takeFragment_mem {key : Nat} {x : Slot} {h : Header} {payload : List Byte} :
    (s.takeFragment key x h payload).mem = s.mem := by
  unfold State.takeFragment
  grind [State.fabBump_mem]

theorem execFragmentForward_canonical {hdr : BitVec 256} {payload : List Byte} (hs : s.MemoryCanonical) :
    AnswersCanonical (execFragmentForward hdr payload s) := by
  unfold execFragmentForward
  grind [State.fabBump_mem, State.fresh_mem, State.send_mem, answersCanonical_next]

/-! ### Loss at the receiver, and the order of matching (R327, R332) -/

@[simp] theorem State.hostEvent_mem {ctx : Nat} {e : HostEvent} : (s.hostEvent ctx e).mem = s.mem := by
  unfold State.hostEvent
  grind [State.hostErr_mem, State.modCtx_mem, State.send_mem]

theorem State.receiveLost_canonical {id : Nat} {l : LostSend} (hs : s.MemoryCanonical) : (s.receiveLost id l).MemoryCanonical := by
  unfold State.receiveLost
  grind [State.hostEvent_mem, State.loseCommand_canonical]

theorem State.matchLost_canonical {chan seq : Nat} (hs : s.MemoryCanonical) : (s.matchLost chan seq).MemoryCanonical := by
  unfold State.matchLost
  grind [State.receiveLost_canonical]

theorem State.matchPosted_canonical {id chip cls tag : Nat} (hs : s.MemoryCanonical) :
    (s.matchPosted id chip cls tag).MemoryCanonical := by
  unfold State.matchPosted
  grind [State.receiveLost_canonical]

@[simp] theorem State.passHalf_mem {chan : Nat} : (s.passHalf chan).mem = s.mem := rfl

theorem State.passLost_canonical {chan n : Nat} (hs : s.MemoryCanonical) : (s.passLost chan n).MemoryCanonical := by
  induction n generalizing s with
  | zero => exact hs
  | succ n ih =>
    unfold State.passLost
    grind [State.passHalf_mem, State.matchLost_canonical, State.oweAck_mem]

theorem State.cohLostIn_canonical {chan src said : Nat} {aux : Word} (hs : s.MemoryCanonical) :
    (s.cohLostIn chan src said aux).MemoryCanonical := by
  unfold State.cohLostIn
  grind [State.accessLost_mem, State.finishTxn_mem, State.grainLost_mem, State.opAnswered_mem, answersCanonical_next,
    execCoherenceAck_canonical]

theorem State.lossActs_canonical {chan kind info said : Nat} {aux : Word} (hs : s.MemoryCanonical) :
    (s.lossActs chan kind info said aux).MemoryCanonical := by
  unfold State.lossActs
  grind [State.cohLostIn_canonical, State.failRound_mem, State.loseCommand_canonical, State.roundFails_canonical,
    State.snapFail_canonical, State.stepLoses_mem, State.stepsLose_mem]

theorem State.declareLost_canonical {chan seq : Nat} {said : Option (Nat × Nat)} (hs : s.MemoryCanonical) :
    (s.declareLost chan seq said).MemoryCanonical := by
  unfold State.declareLost
  extract_lets +onlyGivenNames r
  split
  · rw [State.MemoryCanonical, State.oweAck_mem]
    exact hs
  · extract_lets +onlyGivenNames key seen h cls aux half q src u isSend v w x
    clear_value h half isSend
    have hu : u.MemoryCanonical := by
      simp only [u, src, State.MemoryCanonical, State.logError_mem, State.fabBump_mem]
      exact hs
    have hv : v.MemoryCanonical := State.canonical_ite hu hu
    have hw : w.MemoryCanonical := by
      simp only [w]
      split
      · exact State.lossActs_canonical hv
      · exact hv
    have hx : x.MemoryCanonical := by
      refine State.canonical_ite ?_ hw
      rw [State.MemoryCanonical, State.stepHears_mem]
      exact hw
    rw [State.MemoryCanonical, State.podCheckAll_mem, State.oweAck_mem]
    exact State.passLost_canonical hx

theorem execLossNoticeReceive_canonical {src cls seq kind info : Nat} (hs : s.MemoryCanonical) :
    AnswersCanonical (execLossNoticeReceive src cls seq kind info s) := by
  unfold execLossNoticeReceive
  grind [State.declareLost_canonical, answersCanonical_next]

@[simp] theorem State.sendBusy_mem {chan seq : Nat} : (s.sendBusy chan seq).mem = s.mem := by
  simp [State.sendBusy]

@[simp] theorem State.busyBehind_mem {chan : Nat} : (s.busyBehind chan).mem = s.mem := by
  unfold State.busyBehind
  grind [State.sendBusy_mem, State.foldl_mem]

theorem State.control_canonical {h : Header} {payload : List Byte} (hs : s.MemoryCanonical) : (s.control h payload).MemoryCanonical := by
  unfold State.control
  grind [State.ackReceived_canonical, State.busyReceived_mem, State.declareLost_canonical, State.nackReceived_canonical,
    State.putFaults_mem]

theorem State.answerArrives_canonical {h : Header} {payload : List Byte} (hs : s.MemoryCanonical) :
    (s.answerArrives h payload).MemoryCanonical := by
  unfold State.answerArrives
  grind [State.control_canonical, State.fabBump_mem]

theorem execDataFragmentReceive_canonical {hdr : BitVec 256} {payload : List Byte} (hs : s.MemoryCanonical) :
    AnswersCanonical (execDataFragmentReceive hdr payload s) := by
  unfold execDataFragmentReceive
  dsimp only
  refine answersCanonical_ite (answersCanonical_next.2 hs) (answersCanonical_ite (answersCanonical_next.2 hs) (answersCanonical_ite ?_
    (answersCanonical_ite (answersCanonical_next.2 hs) (answersCanonical_ite ?_ (answersCanonical_ite ?_ ?_)))))
  · exact answersCanonical_next.2 (State.settle_canonical (State.answerArrives_canonical hs))
  · exact answersCanonical_next.2 (State.canonical_ite hs hs)
  · simp only [answersCanonical_next, State.sendBusy_mem]
    exact hs
  · refine answersCanonical_next.2 (State.canonical_ite ?_ ?_)
    all_goals
      simp only [State.MemoryCanonical, State.busyBehind_mem, State.takeFragment_mem]
      exact hs

theorem execDecodeDeadlineExpiry_canonical {src cls seq stripe : Nat} (hs : s.MemoryCanonical) :
    AnswersCanonical (execDecodeDeadlineExpiry src cls seq stripe s) := by
  unfold execDecodeDeadlineExpiry
  grind [State.declareLost_canonical, State.fabBump_mem, State.sendControl_mem, answersCanonical_next]

/-! ### Delivery (R325, R332) -/

theorem EngR.delivered_canonical {r : EngR} {k : State → Option FaultCode → Delivery} (hr : r.state.MemoryCanonical)
    (hk : ∀ s c, s.MemoryCanonical → (k s c).state.MemoryCanonical) : (r.delivered k).state.MemoryCanonical := by
  cases r with
  | ok d s => exact hk s none hr
  | fail c va s => exact hk s (some c) hr
  | wait s => exact hr

theorem State.deliveredBy_canonical {k : State → Result} (hs : s.MemoryCanonical) (hk : AnswersCanonical (k s)) :
    (s.deliveredBy k).state.MemoryCanonical := by
  unfold State.deliveredBy
  split
  · exact hk _ ‹_›
  · exact hs

theorem State.deliverTo_canonical {id : Nat} {data : List Byte} (hs : s.MemoryCanonical) :
    (s.deliverTo id data).state.MemoryCanonical := by
  unfold State.deliverTo
  grind [Delivery.state_done, Delivery.state_wait, EngR.state_fail, EngR.state_ok, EngR.state_wait, State.acquireAll_mem,
    State.bufWrite_mem, State.endFabric_canonical, State.handleWrite_canonical]

theorem State.answerGet_canonical {src cls cmd : Nat} {data : List Byte} (hs : s.MemoryCanonical) :
    (s.answerGet src cls cmd data).state.MemoryCanonical := by
  unfold State.answerGet
  grind [Delivery.state_done, Delivery.state_wait, EngR.andThen_canonical, EngR.state_fail, EngR.state_ok, EngR.state_wait,
    State.enqueue_mem, State.homeRead_canonical, EngR.foldl_canonical]

@[simp] theorem State.markerArrives_mem {src cls epoch initiator dtag : Nat} :
    (s.markerArrives src cls epoch initiator dtag).state.mem = s.mem := by
  unfold State.markerArrives
  grind [Delivery.state_done, Delivery.state_wait, State.startRecord_mem, State.tellFailure_mem]

theorem State.deliverCoherence_canonical {chan chip : Nat} {h : Header} {data : List Byte} (hs : s.MemoryCanonical) :
    (s.deliverCoherence chan chip h data).state.MemoryCanonical := by
  unfold State.deliverCoherence
  grind [Delivery.state_done, State.cohMessage_canonical, State.deliveredBy_canonical, execGrainData_canonical]

@[simp] theorem State.notePut_mem {chan seq : Nat} {c : Option FaultCode} : (s.notePut chan seq c).mem = s.mem := by
  unfold State.notePut
  split <;> rfl

theorem State.deliver_canonical {n cls : Nat} {h : Header} {data : List Byte} (hs : s.MemoryCanonical) :
    (s.deliver n cls h data).state.MemoryCanonical := by
  unfold State.deliver
  grind [Delivery.state_done, Delivery.state_wait, EngR.delivered_canonical, State.answerGet_canonical, State.deliverCoherence_canonical,
    State.deliverTo_canonical, State.deliveredBy_canonical, State.endFabric_canonical, State.homeWrite_canonical,
    State.markerArrives_mem, State.notePut_mem, answersCanonical_next, execCombineContributionReceive_canonical,
    execCombineResultReceive_canonical, execStepNoticeReceive_canonical]

@[simp] theorem State.logDelivery_mem {n cls seq : Nat} {hdr : BitVec 256} {data : List Byte} :
    (s.logDelivery n cls seq hdr data).mem = s.mem := by
  refine State.foldl_mem fun _ _ => ?_
  split <;> simp

theorem execMessageDelivery_canonical {src cls : Nat} (hs : s.MemoryCanonical) : AnswersCanonical (execMessageDelivery src cls s) := by
  unfold execMessageDelivery
  grind [Delivery.state_done, Delivery.state_wait, State.deliver_canonical, State.logDelivery_mem, State.noteMarker_mem,
    State.oweAck_mem, State.passLost_canonical, State.podCheckAll_mem, State.pump_canonical, answersCanonical_next]

theorem execAckCoalesceExpiry_canonical {src cls : Nat} (hs : s.MemoryCanonical) :
    AnswersCanonical (execAckCoalesceExpiry src cls s) := by
  unfold execAckCoalesceExpiry
  grind [State.sendControl_mem, answersCanonical_next]

theorem execFilterEntryExpiry_canonical {src cls seq : Nat} (hs : s.MemoryCanonical) :
    AnswersCanonical (execFilterEntryExpiry src cls seq s) := by
  unfold execFilterEntryExpiry
  grind [answersCanonical_next]

/-! ### The commands (R329 to R334) -/

theorem fabricExec_canonical {i : Instr} {op : Nat} {f : FE} {ls : Lits} (hs : s.MemoryCanonical) :
    AnswersCanonical (fabricExec i op f ls s) := by
  refine State.withIssue_canonical fun iss => ?_
  dsimp only
  repeat' split
  all_goals simp [hs]

theorem State.fabricLocal_canonical {who : Nat} {c : Ctx} {team core : Nat} {r : FabRec} {h : HandleBits} (hs : s.MemoryCanonical) :
    (s.fabricLocal who c team core r h).state.MemoryCanonical := by
  unfold State.fabricLocal
  grind [EngR.state_ok, EngR.state_wait, State.handleRead_canonical]

theorem State.startFabric_canonical {id : Nat} {c : Command} (hs : s.MemoryCanonical) : (s.startFabric id c).state.MemoryCanonical := by
  unfold State.startFabric
  grind [EngR.andThen_canonical, EngR.state_fail, EngR.state_ok, EngR.state_wait, State.enqueue_mem, State.fabricLocal_canonical,
    State.range_canonical, State.request_canonical, State.setDirty_canonical, State.foldl_canonical, State.foldl_mem]

theorem State.beginFabric_canonical {id : Nat} {c : Command} (hs : s.MemoryCanonical) : (s.beginFabric id c).MemoryCanonical := by
  unfold State.beginFabric
  grind [EngR.state_fail, EngR.state_ok, EngR.state_wait, State.endCommand_canonical, State.startFabric_canonical]

theorem State.fabricStep_canonical (hs : s.MemoryCanonical) : s.fabricStep.MemoryCanonical := by
  unfold State.fabricStep
  grind [State.beginFabric_canonical, State.foldl_canonical]

theorem commitFabric_canonical {f : FE} {iss : Issue} {idx : Nat} {n : List Nat} (hs : s.MemoryCanonical) :
    (commitFabric f iss idx n s).MemoryCanonical := by
  unfold commitFabric
  grind [State.acceptCommand_canonical, State.fabricStep_canonical, State.matchPosted_canonical]

@[simp] theorem commitFstat_mem {f : FE} {iss : Issue} {idx : Nat} : (commitFstat f iss idx s).mem = s.mem := rfl

end Sys2Proof.Machine
end

section
/-!
PROOF. The operations of the snapshots keep the memory in its canonical form: of each, that it leaves the memory as it
is, or that it keeps the form whatever it writes.
-/

namespace Sys2Proof.Machine

set_option Elab.async false

variable {s : State}

/-! ### The record instant (R347 to R349, R355) -/

@[simp] theorem State.snapRecorded_mem {c epoch : Nat} : (s.snapRecorded c epoch).mem = s.mem := rfl

@[simp] theorem State.enqueueFirst_mem {m : Msg} : (s.enqueueFirst m).mem = s.mem := rfl

theorem execSnapshotRecordInstant_canonical (hs : s.MemoryCanonical) : AnswersCanonical (execSnapshotRecordInstant s) := by
  unfold execSnapshotRecordInstant
  grind [State.enqueueFirst_mem, State.modSnap_mem, State.snapRecorded_mem, State.takeEpoch_canonical, answersCanonical_next,
    State.foldl_canonical]

/-! ### The sweep (R353, R354) -/

@[simp] theorem State.sweepGrain_mem {tier : Bool} {g : Nat} {read : Bool} : (s.sweepGrain tier g read).2.mem = s.mem := by
  unfold State.sweepGrain
  grind [State.preserveTier_mem, State.preserve_mem, State.recall_mem, State.sendMsg_mem]

theorem execSnapshotSweep_canonical {colour : BitVec 1} (hs : s.MemoryCanonical) : AnswersCanonical (execSnapshotSweep colour s) := by
  unfold execSnapshotSweep
  grind [State.modSnap_mem, State.sweepGrain_mem, State.sweepMark_mem, answersCanonical_next, State.foldl_canonical]

/-! ### The lake (R311, R358) -/

@[simp] theorem State.lakeBytes_mem {a : Nat} {bs : List Byte} : (s.lakeBytes a bs).mem = s.mem := by
  unfold State.lakeBytes
  split <;> simp

theorem State.lakeAppend_canonical {c : Nat} {r : LakeRec} (hs : s.MemoryCanonical) : (s.lakeAppend c r).MemoryCanonical := by
  unfold State.lakeAppend
  grind [State.hostErr_mem, State.lakeBytes_mem, State.modSnap_mem, State.snapFail_canonical]

theorem execMordantLakeWrite_canonical (hs : s.MemoryCanonical) : AnswersCanonical (execMordantLakeWrite s) := by
  unfold execMordantLakeWrite
  grind [State.lakeAppend_canonical, State.modSnap_mem, answersCanonical_next]

/-! ### Completion and sealing (R357) -/

@[simp] theorem State.snapReport_mem {c : Nat} : (s.snapReport c).mem = s.mem := by
  unfold State.snapReport
  grind [State.enqueue_mem]

@[simp] theorem State.snapNotice_mem {chip : Nat} {kind : String} {c : Nat} {i : Instr} : (s.snapNotice chip kind c i).mem = s.mem := by
  unfold State.snapNotice
  split <;> rfl

theorem execSnapshotChipComplete_canonical {colour : BitVec 1} (hs : s.MemoryCanonical) :
    AnswersCanonical (execSnapshotChipComplete colour s) := by
  unfold execSnapshotChipComplete
  grind [State.lakeAppend_canonical, State.modSnap_mem, State.snapReport_mem, answersCanonical_next]

theorem execSnapshotReportReceive_canonical {chip : Nat} {colour : BitVec 1} (hs : s.MemoryCanonical) :
    AnswersCanonical (execSnapshotReportReceive chip colour s) := by
  unfold execSnapshotReportReceive
  grind [State.lakeAppend_canonical, State.modSnap_mem, State.send_mem, answersCanonical_next, State.foldl_canonical]

theorem execSealNoticeReceive_canonical {colour : BitVec 1} (hs : s.MemoryCanonical) :
    AnswersCanonical (execSealNoticeReceive colour s) := by
  unfold execSealNoticeReceive
  grind [State.modSnap_mem, answersCanonical_next]

theorem execFailureNoticeReceive_canonical {colour : BitVec 1} (hs : s.MemoryCanonical) :
    AnswersCanonical (execFailureNoticeReceive colour s) := by
  unfold execFailureNoticeReceive
  grind [State.failSnap_canonical, State.tellFailure_mem, answersCanonical_next]

/-! ### Drops (R354, R357, R364) -/

@[simp] theorem State.dropSnap_mem {c : Nat} : (s.dropSnap c).mem = s.mem := by
  unfold State.dropSnap
  split <;> rfl

theorem execDropNoticeReceive_canonical {colour : BitVec 1} (hs : s.MemoryCanonical) :
    AnswersCanonical (execDropNoticeReceive colour s) := by
  unfold execDropNoticeReceive
  grind [State.dropSnap_mem, answersCanonical_next]

@[simp] theorem State.relabel_mem {g n : Nat} : (s.relabel g n).mem = s.mem := rfl

@[simp] theorem State.relabelTier_mem {g n : Nat} : (s.relabelTier g n).mem = s.mem := rfl

@[simp] theorem State.relabelAll_mem {x : Snap} : (s.relabelAll x).mem = s.mem := by
  unfold State.relabelAll
  grind [State.relabelTier_mem, State.relabel_mem, State.foldl_mem]

theorem execSnapshotDropFinish_canonical {colour : BitVec 1} (hs : s.MemoryCanonical) :
    AnswersCanonical (execSnapshotDropFinish colour s) := by
  unfold execSnapshotDropFinish
  grind [State.modSnap_mem, State.relabelAll_mem, State.snapNotice_mem, answersCanonical_next]

theorem execDropReportReceive_canonical {chip : Nat} {colour : BitVec 1} (hs : s.MemoryCanonical) :
    AnswersCanonical (execDropReportReceive chip colour s) := by
  unfold execDropReportReceive
  grind [State.modSnap_mem, answersCanonical_next]

/-! ### Markers from outside (R356) -/

theorem execMarkerReceive_canonical {src cls epoch initiator dtag : Nat} (hs : s.MemoryCanonical) :
    AnswersCanonical (execMarkerReceive src cls epoch initiator dtag s) := by
  unfold execMarkerReceive
  grind [Delivery.state_done, Delivery.state_wait, State.markerArrives_mem, State.noteMarker_mem, answersCanonical_next]

/-! ### The instructions (R362 to R364) -/

@[simp] theorem State.snapEvent_mem {i : Instr} {f : FE} {iss : Issue} {idx : Nat} {n : List Nat} :
    (s.snapEvent i f iss idx n).mem = s.mem := rfl

@[simp] theorem commitSnap_mem {f : FE} {ls : Lits} {iss : Issue} {idx : Nat} {n : List Nat} :
    (commitSnap f ls iss idx n s).mem = s.mem := by
  simp [commitSnap]

@[simp] theorem commitSnapst_mem {f : FE} {iss : Issue} {idx : Nat} : (commitSnapst f iss idx s).mem = s.mem := rfl

@[simp] theorem commitSnapwait_mem {f : FE} {ls : Lits} {iss : Issue} {idx : Nat} : (commitSnapwait f ls iss idx s).mem = s.mem := rfl

@[simp] theorem commitSnapdrop_mem {f : FE} {ls : Lits} {iss : Issue} {idx : Nat} : (commitSnapdrop f ls iss idx s).mem = s.mem := by
  unfold commitSnapdrop
  grind [State.dropSnap_mem, State.modSnap_mem, State.send_mem, State.snapEvent_mem, State.foldl_mem]

theorem State.snapLands_mem {id : Nat} {i : Instr} {n : List Nat} : ∀ t, s.snapLands id i n = some t → t.mem = s.mem := by
  unfold State.snapLands
  grind [State.modEvent_mem]

/-! ### Restoration (R359 to R361) -/

theorem State.restoreGrain_canonical {epoch : Nat} {r : Nat × BitVec 64 × List Byte} (hs : s.MemoryCanonical) :
    (s.restoreGrain epoch r).MemoryCanonical := by
  unfold State.restoreGrain
  grind [State.putMem_canonical, State.setTag_mem]

@[simp] theorem State.undelivered_mem {v : Saved} {r : FabRec} {seq : Nat} : (s.undelivered v r seq).2.mem = s.mem := by
  unfold State.undelivered
  split <;> rfl

theorem State.restoreFabric_canonical {v : Saved} {id : Nat} {c : Command} (hs : s.MemoryCanonical) :
    (s.restoreFabric v id c).MemoryCanonical := by
  unfold State.restoreFabric
  grind [State.endFabric_canonical, State.loseCommand_canonical, State.undelivered_mem]

@[simp] theorem State.restoreRounds_mem {ctx : Nat} {c : Combine} : (s.restoreRounds ctx c).mem = s.mem := by
  unfold State.restoreRounds
  grind [State.failRound_mem, State.fresh_mem, State.foldl_mem]

@[simp] theorem State.restoreChannels_mem {v : Saved} : (s.restoreChannels v).mem = s.mem := rfl

@[simp] theorem State.reload_mem {epoch : Nat} {v : Saved} : (s.reload epoch v).mem = s.mem := rfl

theorem execSnapshotRestoration_canonical {colour : BitVec 1} (hs : s.MemoryCanonical) :
    AnswersCanonical (execSnapshotRestoration colour s) := by
  unfold execSnapshotRestoration
  grind [State.fabricStep_canonical, State.formAll_canonical, State.reload_mem, State.restoreChannels_mem, State.restoreFabric_canonical,
    State.restoreGrain_canonical, State.restoreRounds_mem, answersCanonical_next, State.foldl_canonical]

end Sys2Proof.Machine
end

section
/-!
PROOF. The operations of traps, kills, saves and images keep the memory in its canonical form: of each, that it leaves
the memory as it is, or that it keeps the form whatever it writes.
-/

namespace Sys2Proof.Machine

set_option Elab.async false

variable {s : State}

/-! ### Groups at their boundaries -/

@[simp] theorem State.discard_mem {gs : List Nat} : (s.discard gs).mem = s.mem :=
  State.foldl_mem fun _ _ => by simp

/-! ### Trap entry (R366 to R371) -/

theorem execTrapEntry_canonical {gid : Nat} (hs : s.MemoryCanonical) : AnswersCanonical (execTrapEntry gid s) := by
  unfold execTrapEntry
  grind [State.askKill_mem, State.form_canonical, State.modGroup_mem, State.setGroup_mem, State.withdraw_mem, answersCanonical_next]

/-! ### Kills and halts (R373 to R375) -/

@[simp] theorem State.reportKill_mem {ctx : Nat} {k : KillReq} : (s.reportKill ctx k).mem = s.mem := by
  unfold State.reportKill
  grind [State.hostPut_mem, State.send_mem]

theorem State.stopCommand_canonical {code : FaultCode} {id : Nat} (hs : s.MemoryCanonical) : (s.stopCommand code id).MemoryCanonical := by
  unfold State.stopCommand
  grind [State.flipAbandon_mem, State.noteCommand_canonical, State.setCommand_mem]

@[simp] theorem State.stopWork_mem {id : Nat} : (s.stopWork id).mem = s.mem := by
  unfold State.stopWork
  grind [State.writeStatus_mem]

theorem State.stopContext_canonical {ctx : Nat} {code : FaultCode} (hs : s.MemoryCanonical) :
    (s.stopContext ctx code).MemoryCanonical := by
  unfold State.stopContext
  grind [State.discard_mem, State.modCtx_mem, State.roundFails_canonical, State.stopCommand_canonical, State.stopWork_mem,
    State.foldl_canonical, State.foldl_mem]

@[simp] theorem State.drainEnds_mem {ctx : Nat} {st : CtxStatus} : (s.drainEnds ctx st).mem = s.mem :=
  State.foldl_mem fun _ _ => by simp

theorem execContextKill_canonical {ctx : Nat} (hs : s.MemoryCanonical) : AnswersCanonical (execContextKill ctx s) := by
  unfold execContextKill
  grind [State.drainEnds_mem, State.modCtx_mem, State.reportKill_mem, State.stopContext_canonical, answersCanonical_next]

/-! ### Becoming live (R378) -/

@[simp] theorem State.refuseRecord_mem {ctx : Nat} {r : BitVec 1024} : (s.refuseRecord ctx r).mem = s.mem := by
  simp [State.refuseRecord]

theorem execContextBecomesLive_canonical {ctx q : Nat} (hs : s.MemoryCanonical) : AnswersCanonical (execContextBecomesLive ctx q s) := by
  unfold execContextBecomesLive
  grind [State.refuseRecord_mem, State.send_mem, State.setCtx_mem, answersCanonical_next]

/-! ### Drains (R380) -/

@[simp] theorem State.saveAll_mem {ctx : Nat} : (s.saveAll ctx).mem = s.mem := rfl

@[simp] theorem State.drainCheck_mem {ctx : Nat} : (s.drainCheck ctx).mem = s.mem := by
  unfold State.drainCheck
  split <;> simp

@[simp] theorem State.beginDrain_mem {ctx : Nat} {now : Bool} : (s.beginDrain ctx now).mem = s.mem := by
  unfold State.beginDrain
  grind [State.drainCheck_mem, State.saveAll_mem, State.setCtx_mem]

theorem execDrainLimitExpiry_canonical {ctx : Nat} (hs : s.MemoryCanonical) : AnswersCanonical (execDrainLimitExpiry ctx s) := by
  unfold execDrainLimitExpiry
  grind [State.saveAll_mem, answersCanonical_next]

/-! ### Forced saves (R381) -/

theorem State.saveWorks_canonical {tid : Nat} (hs : s.MemoryCanonical) : (s.saveWorks tid).MemoryCanonical := by
  unfold State.saveWorks
  grind [State.completeEntry_canonical, State.writeStatus_mem, State.foldl_canonical]

theorem State.saveCopies_canonical {tid : Nat} (hs : s.MemoryCanonical) : (s.saveCopies tid).MemoryCanonical := by
  unfold State.saveCopies
  grind [State.noteCommand_canonical, State.foldl_canonical]

@[simp] theorem State.unpark_mem {gs : List Nat} : (s.unpark gs).mem = s.mem := rfl

theorem State.writeSaved_canonical {tid : Nat} (hs : s.MemoryCanonical) : (s.writeSaved tid).MemoryCanonical := by
  unfold State.writeSaved
  grind [State.migWrite_canonical]

theorem State.saveTeam_canonical {tid : Nat} (hs : s.MemoryCanonical) : (s.saveTeam tid).MemoryCanonical := by
  unfold State.saveTeam
  grind [State.discard_mem, State.modCtx_mem, State.modGroup_mem, State.modTeam_mem, State.saveCopies_canonical,
    State.saveWorks_canonical, State.unpark_mem, State.writeSaved_canonical, State.foldl_canonical]

theorem execForcedSave_canonical {team : Nat} (hs : s.MemoryCanonical) : AnswersCanonical (execForcedSave team s) := by
  unfold execForcedSave
  grind [State.drainCheck_mem, State.saveTeam_canonical, answersCanonical_next]

/-! ### Context images (R387, R388) -/

@[simp] theorem State.freeContext_mem {ctx : Nat} : (s.freeContext ctx).mem = s.mem :=
  State.foldl_mem fun _ _ => by simp

@[simp] theorem State.sysEvent_mem {i : Instr} {iss : Issue} {idx : Nat} {d : BitVec 7} {n : List Nat} :
    (s.sysEvent i iss idx d n).2.mem = s.mem := rfl

@[simp] theorem State.eventWord_mem {e : Nat} {w : Word} : (s.eventWord e w).mem = s.mem := rfl

@[simp] theorem commitCtxsave_mem {f : FE} {ls : Lits} {iss : Issue} {idx : Nat} {n : List Nat} :
    (commitCtxsave f ls iss idx n s).mem = s.mem := by
  simp [commitCtxsave]

theorem State.ctxsaveLands_canonical {id : Nat} {f : FE} {n : List Nat} (hs : s.MemoryCanonical) :
    (s.ctxsaveLands id f n).1.MemoryCanonical := by
  unfold State.ctxsaveLands
  grind [EngR.state_fail, EngR.state_ok, EngR.state_wait, State.eventWord_mem, State.freeContext_mem, State.handleWrite_canonical,
    State.modEvent_mem]

@[simp] theorem commitCtxload_mem {f : FE} {ls : Lits} {iss : Issue} {idx : Nat} {n : List Nat} :
    (commitCtxload f ls iss idx n s).mem = s.mem := rfl

@[simp] theorem State.install_mem {ctx : Nat} {v : Saved} : (s.install ctx v).mem = s.mem := rfl

theorem State.putRecord_canonical {ctx : Nat} {r : BitVec 1024} (hs : s.MemoryCanonical) : (s.putRecord ctx r).MemoryCanonical := by
  unfold State.putRecord
  grind [State.writeMem_canonical]

theorem State.ctxloadLands_canonical {id : Nat} {n : List Nat} (hs : s.MemoryCanonical) : (s.ctxloadLands id n).1.MemoryCanonical := by
  unfold State.ctxloadLands
  grind [EngR.state_fail, EngR.state_ok, EngR.state_wait, State.eventWord_mem, State.handleRead_canonical, State.install_mem,
    State.modEvent_mem, State.putRecord_canonical, State.refuseRecord_mem]

/-! ### inj (R390) -/

theorem injExec_canonical {i : Instr} {f : FE} {ls : Lits} (hs : s.MemoryCanonical) : AnswersCanonical (injExec i f ls s) := by
  refine State.withIssue_canonical fun iss => ?_
  repeat' split
  all_goals simp [hs]

@[simp] theorem State.armEvent_mem {i : Instr} {iss : Issue} {idx : Nat} : (s.armEvent i iss idx).2.mem = s.mem := rfl

@[simp] theorem commitInjMat_mem {f : FE} {ls : Lits} {iss : Issue} {idx : Nat} {n : List Nat} :
    (commitInjMat f ls iss idx n s).mem = s.mem := by
  unfold commitInjMat
  grind [State.armEvent_mem, State.completeEvent_mem]

@[simp] theorem commitInjFrag_mem {f : FE} {ls : Lits} {iss : Issue} {idx : Nat} {n : List Nat} :
    (commitInjFrag f ls iss idx n s).mem = s.mem := by
  unfold commitInjFrag
  split <;> rfl

theorem execInjPoison_canonical {f : FE} {ls : Lits} (hs : s.MemoryCanonical) : AnswersCanonical (execInjPoison f ls s) := by
  unfold execInjPoison
  grind [State.checkAccess_canonical, State.faultAll_canonical, State.finish_canonical, State.request_canonical, State.stall_mem,
    State.withIssue_canonical, answersCanonical_next]

@[simp] theorem commitInjPoison_mem {i : Instr} {iss : Issue} {idx : Nat} {n : List Nat} :
    (commitInjPoison i iss idx n s).mem = s.mem := by
  unfold commitInjPoison
  grind [State.addEvent_mem, State.adopt_mem, State.modTag_mem, State.sendCoh_mem]

/-! ### preempt (R391) -/

@[simp] theorem commitPreempt_mem {f : FE} {ls : Lits} {iss : Issue} {idx : Nat} {n : List Nat} :
    (commitPreempt f ls iss idx n s).mem = s.mem := by
  unfold commitPreempt
  grind [State.beginDrain_mem, State.completeEvent_mem, State.modCtx_mem, State.sysEvent_mem]

end Sys2Proof.Machine
end

section
/-!
PROOF. The operations of teams, grids and walks keep the memory in its canonical form: of each, that it leaves the
memory as it is, or that it keeps the form whatever it writes.
-/

namespace Sys2Proof.Machine

set_option Elab.async false

variable {s : State}

/-! ### Budgets (R400) -/

@[simp] theorem State.measuredAllows_mem {ctx : Nat} : (s.measuredAllows ctx).2.mem = s.mem := by
  unfold State.measuredAllows
  grind [State.fresh_mem]

/-! ### The walker's reads -/

theorem State.walkSegs_canonical {ctx va n right : Nat} {k : List Seg → State → EngR} (hs : s.MemoryCanonical)
    (hk : ∀ segs t, t.MemoryCanonical → (k segs t).state.MemoryCanonical) : (s.walkSegs ctx va n right k).state.MemoryCanonical := by
  unfold State.walkSegs
  grind [State.range_canonical, State.request_canonical, EngR.state_fail, EngR.state_wait]

theorem State.walkRead_canonical {who ctx va n right : Nat} (hs : s.MemoryCanonical) :
    (s.walkRead who ctx va n right).state.MemoryCanonical := by
  unfold State.walkRead
  grind [EngR.andThen_canonical, EngR.state_ok, State.engReadSeg_canonical, State.walkSegs_canonical, EngR.foldl_canonical]

/-! ### Acceptance (R450) -/

theorem EngR.into_canonical {r : EngR} {k : List Byte → State → Accepted} (hr : r.state.MemoryCanonical)
    (hk : ∀ d s, s.MemoryCanonical → (k d s).state.MemoryCanonical) : (r.into k).state.MemoryCanonical := by
  cases r with
  | ok d s => exact hk d s hr
  | fail c va s => exact hr
  | wait s => exact hr

theorem State.acceptGrid_canonical {ctx nodeVa : Nat} {walk : Option Nat} {h : Option HandleBits} {n : Node} (hs : s.MemoryCanonical) :
    (s.acceptGrid ctx nodeVa walk h n).state.MemoryCanonical := by
  unfold State.acceptGrid
  dsimp only
  split
  · exact hs
  · split
    · exact hs
    · refine EngR.into_canonical (State.walkRead_canonical hs) fun d t ht => ?_
      split
      · exact ht
      · split
        · exact ht
        · refine EngR.into_canonical (State.walkSegs_canonical ht fun _ _ h => h) fun _ u hu => ?_
          split
          · exact hu
          · split
            · exact hu
            · refine EngR.into_canonical (State.walkRead_canonical hu) fun a v hv => ?_
              grind [Accepted.state_refused, Accepted.state_ok]

/-! ### The end of launches and walks -/

@[simp] theorem State.keepLaunch_mem {ctx launch : Nat} {st : LaunchState} {code retired : Nat} :
    (s.keepLaunch ctx launch st code retired).mem = s.mem := rfl

@[simp] theorem State.modWalk_mem {ctx slot : Nat} {f : Walk → Walk} : (s.modWalk ctx slot f).mem = s.mem := rfl

@[simp] theorem State.walkOver_mem {ctx slot : Nat} {st : LaunchState} {code : Nat} : (s.walkOver ctx slot st code).mem = s.mem := by
  unfold State.walkOver
  split <;> rfl

@[simp] theorem State.endWalk_mem {ctx slot : Nat} {st : LaunchState} {kind code : Nat} :
    (s.endWalk ctx slot st kind code).mem = s.mem := by
  unfold State.endWalk
  grind [State.engDone_mem, State.hostEvent_mem, State.modWalk_mem, State.walkOver_mem]

@[simp] theorem State.nodeFails_mem {ctx slot code : Nat} : (s.nodeFails ctx slot code).mem = s.mem := by
  simp [State.nodeFails]

@[simp] theorem State.nodeDone_mem {ctx slot : Nat} : (s.nodeDone ctx slot).mem = s.mem := by
  simp [State.nodeDone]

@[simp] theorem State.endGrid_mem {gr : Nat} : (s.endGrid gr).mem = s.mem := by
  unfold State.endGrid
  grind [State.keepLaunch_mem, State.modGrid_mem, State.nodeDone_mem, State.nodeFails_mem]

theorem State.launchGrid_canonical {ctx nodeVa : Nat} {walk : Option Nat} {h : Option HandleBits} {n : Node} (hs : s.MemoryCanonical) :
    (s.launchGrid ctx nodeVa walk h n).state.MemoryCanonical := by
  unfold State.launchGrid
  grind [Accepted.state_ok, Accepted.state_refused, Accepted.state_wait, Launched.state_refused, Launched.state_started,
    Launched.state_wait, State.acceptGrid_canonical, State.engDone_mem, State.keepLaunch_mem, State.modCtx_mem]

/-! ### The start of a team (R64, R65, R399) -/

theorem State.argBlock_canonical {gr : Nat} (hs : s.MemoryCanonical) : (s.argBlock gr).state.MemoryCanonical := by
  unfold State.argBlock
  grind [State.walkRead_canonical]

theorem State.startTeam_canonical {gr idx : Nat} {cores : List Nat} (hs : s.MemoryCanonical) :
    (s.startTeam gr idx cores).state.MemoryCanonical := by
  unfold State.startTeam
  grind [EngR.state_ok, EngR.state_wait, EngR.state_fail, State.argBlock_canonical, State.modGrid_mem, State.acquireAll_mem,
    State.form_canonical, State.foldl_canonical, State.foldl_mem]

/-! ### The resumption of a saved team (R270, R280, R306, R378, R382) -/

theorem State.resumeTeam_canonical {tid q : Nat} (hs : s.MemoryCanonical) : (s.resumeTeam tid q).MemoryCanonical := by
  unfold State.resumeTeam
  grind [State.acquireAll_mem, State.askKill_mem, State.form_canonical, State.modCtx_mem, State.modGroup_mem, State.modTeam_mem,
    State.parkAgain_canonical, State.foldl_canonical, State.foldl_mem]

/-! ### Dispatch (R399, R400, R405) -/

theorem State.placeOne_canonical {c : Candidate} {cores : List Nat} (hs : s.MemoryCanonical) :
    (s.placeOne c cores).state.MemoryCanonical := by
  unfold State.placeOne
  grind [EngR.state_ok, EngR.state_wait, State.resumeTeam_canonical, State.startTeam_canonical]

theorem State.placeAll_canonical {gr n : Nat} {cores : List Nat} (hs : s.MemoryCanonical) :
    (s.placeAll gr n cores).state.MemoryCanonical := by
  unfold State.placeAll
  grind [EngR.andThen_canonical, EngR.state_ok, State.placeOne_canonical, EngR.foldl_canonical]

theorem State.orElse_canonical {gr : Nat} {r : EngR} (hs : s.MemoryCanonical) (hr : r.state.MemoryCanonical) :
    (s.orElse gr r).MemoryCanonical := by
  unfold State.orElse
  split
  · rw [State.MemoryCanonical, State.engDone_mem]
    exact hr
  · exact hs

theorem State.whenArgs_canonical {c : Candidate} {k : State → State} (hs : s.MemoryCanonical)
    (hk : ∀ t, t.MemoryCanonical → (k t).MemoryCanonical) : (s.whenArgs c k).MemoryCanonical := by
  unfold State.whenArgs
  grind [State.argBlock_canonical, EngR.state_wait]

theorem execTeamDispatch_canonical {grid team cluster : Nat} {cores : List Nat} (hs : s.MemoryCanonical) :
    AnswersCanonical (execTeamDispatch grid team cluster cores s) := by
  unfold execTeamDispatch
  grind [State.measuredAllows_mem, State.orElse_canonical, State.placeAll_canonical, State.placeOne_canonical, State.whenArgs_canonical,
    answersCanonical_next]

/-! ### The starvation swap (R402) -/

@[simp] theorem State.watchStarvation_mem : s.watchStarvation.mem = s.mem := rfl

@[simp] theorem State.starveFault_mem {gr : Nat} : (s.starveFault gr).mem = s.mem := by
  unfold State.starveFault
  grind [State.queueFault_mem, State.foldl_mem]

theorem execStarvationSwap_canonical {grid : Nat} (hs : s.MemoryCanonical) : AnswersCanonical (execStarvationSwap grid s) := by
  unfold execStarvationSwap
  grind [EngR.state_ok, State.engDone_mem, State.modGrid_mem, State.placeOne_canonical, State.saveTeam_canonical, State.starveFault_mem,
    State.whenArgs_canonical, answersCanonical_next]

/-! ### Retirement (R81, R396, R405) -/

theorem State.setBitmap_canonical {gr idx : Nat} (hs : s.MemoryCanonical) :
    (s.setBitmap gr idx).2.MemoryCanonical ∧ ∀ t, (s.setBitmap gr idx).1 = some t → t.MemoryCanonical := by
  unfold State.setBitmap
  grind [State.modGrid_mem, State.request_canonical, State.setDirty_canonical, State.submit_canonical, State.translateStore_canonical]

@[simp] theorem State.retireTeam_mem {tid : Nat} : (s.retireTeam tid).mem = s.mem := by
  unfold State.retireTeam
  grind [State.drainCheck_mem, State.keepMarks_mem, State.modCtx_mem, State.modGrid_mem, State.modTeam_mem, State.podCheck_mem,
    State.stepNotify_mem]

theorem execGroupRetire_canonical {gid : Nat} (hs : s.MemoryCanonical) : AnswersCanonical (execGroupRetire gid s) := by
  unfold execGroupRetire
  grind [State.barriersComplete_mem, State.latchMemberRetired_mem, State.modGroup_mem, State.retireTeam_mem, State.setBitmap_canonical,
    answersCanonical_next]

/-! ### The end of a grid (R396, R406, R407) -/

@[simp] theorem State.gridCode_mem {gr : Nat} {code : FaultCode} : (s.gridCode gr code).mem = s.mem := rfl

theorem execGridEndDigest_canonical {grid : Nat} (hs : s.MemoryCanonical) : AnswersCanonical (execGridEndDigest grid s) := by
  unfold execGridEndDigest
  grind [EngR.state_fail, EngR.state_ok, EngR.state_wait, State.addCommand_mem, State.engDone_mem, State.gridCode_mem, State.modGrid_mem,
    State.walkRead_canonical, answersCanonical_next]

theorem State.runGridDigest_canonical {id : Nat} {c : Command} (hs : s.MemoryCanonical) : (s.runGridDigest id c).MemoryCanonical := by
  unfold State.runGridDigest
  grind [EngR.andThen_canonical, EngR.state_fail, EngR.state_ok, EngR.state_wait, State.engDone_mem, State.engWrite_canonical,
    State.gridCode_mem, State.modGrid_mem, State.setCommand_mem, State.walkRead_canonical, EngR.foldl_canonical]

theorem execDigestCompletion_canonical (hs : s.MemoryCanonical) : AnswersCanonical (execDigestCompletion s) := by
  unfold execDigestCompletion
  grind [State.runDigest_canonical, State.runGridDigest_canonical, answersCanonical_next]

theorem execGridComplete_canonical {grid : Nat} (hs : s.MemoryCanonical) : AnswersCanonical (execGridComplete grid s) := by
  unfold execGridComplete
  grind [State.endGrid_mem, answersCanonical_next]

@[simp] theorem State.discardTeam_mem {tid : Nat} : (s.discardTeam tid).mem = s.mem := by
  unfold State.discardTeam
  grind [State.keepMarks_mem, State.modGroup_mem, State.modTeam_mem, State.foldl_mem]

@[simp] theorem State.cancelGrid_mem {gr : Nat} : (s.cancelGrid gr).mem = s.mem := by
  refine State.foldl_mem fun _ _ => ?_
  split <;> simp

theorem execWalkStartWrite_canonical {ctx slot : Nat} {value : BitVec 64} (hs : s.MemoryCanonical) :
    AnswersCanonical (execWalkStartWrite ctx slot value s) := by
  unfold execWalkStartWrite
  grind [State.hostErr_mem, State.modCtx_mem, answersCanonical_next]

/-! ### The node that a walk waits in (R395, R396) -/

@[simp] theorem State.walkSettle_mem {ctx slot : Nat} : (s.walkSettle ctx slot).mem = s.mem := by
  unfold State.walkSettle
  grind [State.addCommand_mem, State.modWalk_mem, State.nodeDone_mem, State.nodeFails_mem, State.walkOver_mem]

/-! ### Visits (R395) -/

theorem State.visitRead_canonical {ctx slot kind : Nat} {n : Node} {act : Node → State → State} (hs : s.MemoryCanonical)
    (hact : ∀ n t, t.MemoryCanonical → (act n t).MemoryCanonical) : (s.visitRead ctx slot kind n act).MemoryCanonical := by
  unfold State.visitRead
  grind [State.nodeFails_mem, State.walkRead_canonical, State.modWalk_mem, EngR.state_ok, EngR.state_fail, EngR.state_wait]

theorem State.visit_canonical {ctx slot kind : Nat} {act : Walk → Node → State → State} (hs : s.MemoryCanonical)
    (hact : ∀ w n t, t.MemoryCanonical → (act w n t).MemoryCanonical) : AnswersCanonical (s.visit ctx slot kind act) := by
  unfold State.visit
  grind [State.walkSettle_mem, State.visitRead_canonical, State.acquireAll_mem, State.walkRead_canonical, State.nodeFails_mem,
    EngR.state_ok, EngR.state_fail, EngR.state_wait, answersCanonical_next]

@[simp] theorem State.waitIn_mem {ctx slot : Nat} {n : Node} {x : WalkWait} : (s.waitIn ctx slot n x).mem = s.mem := by
  simp [State.waitIn]

theorem execNodeVisitGrid_canonical {ctx slot : Nat} (hs : s.MemoryCanonical) : AnswersCanonical (execNodeVisitGrid ctx slot s) := by
  unfold execNodeVisitGrid
  grind [Launched.state_refused, Launched.state_started, Launched.state_wait, State.launchGrid_canonical, State.modWalk_mem,
    State.nodeDone_mem, State.nodeFails_mem, State.visit_canonical, State.waitIn_mem]

theorem execNodeVisitCopy_canonical {ctx slot : Nat} (hs : s.MemoryCanonical) : AnswersCanonical (execNodeVisitCopy ctx slot s) := by
  unfold execNodeVisitCopy
  grind [State.addCommand_mem, State.nodeDone_mem, State.nodeFails_mem, State.visit_canonical, State.waitIn_mem]

theorem execNodeVisitColl_canonical {ctx slot : Nat} (hs : s.MemoryCanonical) : AnswersCanonical (execNodeVisitColl ctx slot s) := by
  unfold execNodeVisitColl
  grind [EngR.state_fail, EngR.state_ok, EngR.state_wait, State.modWalk_mem, State.nodeFails_mem, State.postRound_canonical,
    State.visit_canonical, State.waitIn_mem, State.walkRead_canonical]

theorem State.branchNode_canonical {ctx slot : Nat} {n : Node} {holds fails : Nat} (hs : s.MemoryCanonical) :
    (s.branchNode ctx slot n holds fails).MemoryCanonical := by
  unfold State.branchNode
  grind [EngR.state_fail, EngR.state_ok, EngR.state_wait, State.acquireAll_mem, State.engDone_mem, State.modWalk_mem,
    State.nodeFails_mem, State.walkRead_canonical]

theorem execNodeVisitCond_canonical {ctx slot : Nat} (hs : s.MemoryCanonical) : AnswersCanonical (execNodeVisitCond ctx slot s) := by
  unfold execNodeVisitCond
  grind [State.branchNode_canonical, State.visit_canonical]

theorem execNodeVisitWhile_canonical {ctx slot : Nat} (hs : s.MemoryCanonical) : AnswersCanonical (execNodeVisitWhile ctx slot s) := by
  unfold execNodeVisitWhile
  grind [State.branchNode_canonical, State.visit_canonical]

theorem execNodeVisitSnap_canonical {ctx slot : Nat} (hs : s.MemoryCanonical) : AnswersCanonical (execNodeVisitSnap ctx slot s) := by
  unfold execNodeVisitSnap
  grind [State.nodeFails_mem, State.startRecord_mem, State.visit_canonical, State.waitIn_mem]

theorem execNodeVisitHostsig_canonical {ctx slot : Nat} (hs : s.MemoryCanonical) :
    AnswersCanonical (execNodeVisitHostsig ctx slot s) := by
  unfold execNodeVisitHostsig
  grind [State.hostEvent_mem, State.visit_canonical, State.waitIn_mem, State.walkSettle_mem]

theorem execNodeVisitEnd_canonical {ctx slot : Nat} (hs : s.MemoryCanonical) : AnswersCanonical (execNodeVisitEnd ctx slot s) := by
  unfold execNodeVisitEnd
  grind [State.endWalk_mem, State.nodeFails_mem, State.visit_canonical]

@[simp] theorem State.cancelWalk_mem {ctx slot : Nat} : (s.cancelWalk ctx slot).mem = s.mem := by
  unfold State.cancelWalk
  split <;> simp

/-! ### gspawn and glaunch (R408) -/

theorem nodeExec_canonical {i : Instr} {grid : Bool} {f : FE} {ls : Lits} (hs : s.MemoryCanonical) :
    AnswersCanonical (nodeExec i grid f ls s) := by
  unfold nodeExec
  grind [EngR.state_fail, EngR.state_ok, EngR.state_wait, State.faultAll_canonical, State.finish_canonical, State.handleRead_canonical,
    State.stall_mem, State.withIssue_canonical, answersCanonical_next]

@[simp] theorem commitGspawn_mem {f : FE} {iss : Issue} {n : List Nat} : (commitGspawn f iss n s).mem = s.mem := by
  unfold commitGspawn
  grind [State.modCtx_mem, State.writeV_mem]

theorem State.glaunchWaits_canonical {iss : Issue} {n : List Nat} (hs : s.MemoryCanonical) :
    ∀ t, s.glaunchWaits iss n = some t → t.MemoryCanonical := by
  unfold State.glaunchWaits
  grind [Accepted.state_wait, State.acceptGrid_canonical]

theorem commitGlaunch_canonical {f : FE} {iss : Issue} {n : List Nat} (hs : s.MemoryCanonical) :
    (commitGlaunch f iss n s).MemoryCanonical := by
  unfold commitGlaunch
  grind [Launched.state_refused, Launched.state_started, Launched.state_wait, State.launchGrid_canonical, State.writeV_mem]

/-! ### gwait and gcancel (R409) -/

@[simp] theorem commitGwait_mem {f : FE} {ls : Lits} {iss : Issue} {idx : Nat} {x : LaneVals} :
    (commitGwait f ls iss idx x s).mem = s.mem := rfl

theorem State.gwaitLands_mem {id : Nat} {d : Deferred} {n : List Nat} : ∀ t, s.gwaitLands id d n = some t → t.mem = s.mem := by
  unfold State.gwaitLands
  grind [State.acquireAll_mem, State.modEvent_mem]

@[simp] theorem State.cancelTicket_mem {ctx t : Nat} : (s.cancelTicket ctx t).mem = s.mem := by
  unfold State.cancelTicket
  grind [State.cancelGrid_mem, State.cancelWalk_mem]

@[simp] theorem commitGcancel_mem {f : FE} {iss : Issue} {idx : Nat} {x : LaneVals} : (commitGcancel f iss idx x s).mem = s.mem :=
  State.foldl_mem fun _ _ => by simp

/-! ### budget (R410) -/

theorem commitBudget_canonical {f : FE} {iss : Issue} {idx : Nat} {n : List Nat} (hs : s.MemoryCanonical) :
    (commitBudget f iss idx n s).MemoryCanonical := by
  unfold commitBudget
  grind [State.laterResult_mem, State.modCtx_mem, State.writeMem_canonical]

/-! ### detsig (R411) -/

@[simp] theorem commitDetsig_mem {f : FE} {iss : Issue} {idx : Nat} : (commitDetsig f iss idx s).mem = s.mem := rfl

end Sys2Proof.Machine
end

section
/-!
PROOF. The operations of the commit, the host and reliability keep the memory in its canonical form: of each, that it
leaves the memory as it is, or that it keeps the form whatever it writes.
-/

namespace Sys2Proof.Machine

set_option Elab.async false

variable {s : State}

/-! ### What holds a commit back -/

theorem State.effectWaits_canonical {iss : Issue} {e : Effect} (hs : s.MemoryCanonical) :
    ∀ t, s.effectWaits iss e = some t → t.MemoryCanonical := by
  intro t ht
  unfold State.effectWaits at ht
  split at ht
  · split at ht
    case h_5 => exact State.glaunchWaits_canonical hs t ht
    all_goals grind [Option.map_eq_some_iff, State.request_canonical]
  · cases ht

theorem State.commitWaits_canonical {iss : Issue} (hs : s.MemoryCanonical) : ∀ t, s.commitWaits iss = some t → t.MemoryCanonical := by
  intro t ht
  unfold State.commitWaits at ht
  extract_lets spawns at ht
  split at ht
  · cases ht
    exact hs
  · obtain ⟨e, -, he⟩ := List.exists_of_findSome?_eq_some ht
    exact State.effectWaits_canonical hs t he

/-! ### The effects -/

theorem State.act_canonical {iss : Issue} {i : Instr} {idx : Nat} {lanes : Lanes} {x y z : LaneVals} {n : List Nat}
    (hs : s.MemoryCanonical) :
    (s.act iss i idx lanes x y z n).MemoryCanonical := by
  unfold State.act
  grind [commitAcq_mem, commitAtom_canonical, commitAwait_canonical, commitBar_mem, commitBudget_canonical, commitBufLoad_canonical,
    commitBufStore_canonical, commitCache_canonical, commitCall_mem, commitCbar_canonical, commitCfgwr_canonical, commitCfree_mem,
    commitCinit_mem, commitCopy_canonical, commitCpost_canonical, commitCtxload_mem, commitCtxsave_mem, commitCwait_mem,
    commitDetsig_mem, commitDgst_canonical, commitEstat_mem, commitEwait_mem, commitExit_canonical, commitFabric_canonical,
    commitFence_canonical, commitFstat_mem, commitGcancel_mem, commitGlaunch_canonical, commitGspawn_mem, commitGwait_mem,
    commitHload_canonical, commitHsave_canonical, commitInjFrag_mem, commitInjMat_mem, commitInjPoison_mem, commitLd_canonical,
    commitMcancel_mem, commitMcks_mem, commitMdrain_mem, commitMig_canonical, commitMstat_mem, commitMvwait_mem, commitMzero_mem,
    commitPf_canonical, commitPgclass_mem, commitPreempt_mem, commitPreq_mem, commitPublish_mem, commitRange_mem, commitRed_canonical,
    commitRel_mem, commitReplicAdd_mem, commitReplicRem_mem, commitRet_mem, commitSfu_mem, commitSnap_mem, commitSnapdrop_mem,
    commitSnapst_mem, commitSnapwait_mem, commitSoft_mem, commitSt_canonical, commitStep_mem, commitTlbinv_mem, commitTret_canonical,
    commitWsstate_canonical, commitYield_mem]

theorem State.effect_canonical {iss : Issue} {e : Effect} (hs : s.MemoryCanonical) : (s.effect iss e).MemoryCanonical := by
  unfold State.effect
  grind [State.act_canonical, State.addFlagEvents_mem, State.modGroup_mem, State.writeV_mem]

@[simp] theorem State.leaveSlot_mem {iss : Issue} : (s.leaveSlot iss).mem = s.mem := by
  simp [State.leaveSlot]

theorem State.commit_canonical {iss : Issue} (hs : s.MemoryCanonical) : (s.commit iss).MemoryCanonical := by
  unfold State.commit
  grind [State.effect_canonical, State.formAll_canonical, State.leaveSlot_mem, State.foldl_canonical]

theorem execClauseCommit_canonical (hs : s.MemoryCanonical) : AnswersCanonical (execClauseCommit s) := by
  unfold execClauseCommit
  grind [State.commitWaits_canonical, State.commit_canonical, State.faults_canonical, State.stall_mem, State.withIssue_canonical,
    answersCanonical_next]

/-! ### Landings -/

theorem State.landing_canonical {id : Nat} {d : Deferred} (hs : s.MemoryCanonical) : (s.landing id d).1.MemoryCanonical := by
  unfold State.landing
  grind [State.ctxloadLands_canonical, State.ctxsaveLands_canonical, State.ewaitLands_mem, State.gwaitLands_mem,
    State.rangeLands_canonical, State.snapLands_mem, State.tlbinvLands_mem]

theorem execDeferredEventLanding_canonical {id : Nat} (hs : s.MemoryCanonical) : AnswersCanonical (execDeferredEventLanding id s) := by
  unfold execDeferredEventLanding
  grind [State.land_mem, State.landing_canonical, answersCanonical_next]

theorem State.windowWrite_canonical {ok : Bool} {f : State → State} (hs : s.MemoryCanonical)
    (hf : (f s).MemoryCanonical) : AnswersCanonical (s.windowWrite ok f) := by
  unfold State.windowWrite
  split
  · exact answersCanonical_next.2 hf
  · exact answersCanonical_next.2 hs

theorem execHostConfigWrite_canonical {reg : Nat} {value : BitVec 64} (hs : s.MemoryCanonical) :
    AnswersCanonical (execHostConfigWrite reg value s) := by
  unfold execHostConfigWrite
  grind [State.cfgWrite_canonical, State.windowWrite_canonical]

theorem execPathTableWrite_canonical {chip word : Nat} {value : BitVec 64} (hs : s.MemoryCanonical) :
    AnswersCanonical (execPathTableWrite chip word value s) := by
  unfold execPathTableWrite
  grind [State.logError_mem, State.windowWrite_canonical]

theorem State.rehome_canonical {new : Nat} (hs : s.MemoryCanonical) : (s.rehome new).MemoryCanonical := by
  refine List.foldlRecOn (motive := fun m : List Host.Cell => Memory.wf m = true) _ _ rfl fun m hm c hc => ?_
  exact Memory.wf_insert _ (Memory.ne_zero_of_mem hs (List.mem_of_mem_filter hc)) hm

theorem execPlacementTableWrite_canonical {entry : Nat} {value : BitVec 32} (hs : s.MemoryCanonical) :
    AnswersCanonical (execPlacementTableWrite entry value s) := by
  unfold execPlacementTableWrite
  grind [State.rehome_canonical, State.windowWrite_canonical]

/-! ### Grants (R414) -/

theorem execVfGrantWrite_canonical {vf : Nat} {value : BitVec 64} (hs : s.MemoryCanonical) :
    AnswersCanonical (execVfGrantWrite vf value s) := by
  unfold execVfGrantWrite
  grind [State.windowWrite_canonical]

/-! ### Control blocks (R416, Table 18·4) -/

theorem State.ctxCommand_canonical {ctx : Nat} {admits : List CtxStatus} {f : Nat → State → State} (hs : s.MemoryCanonical)
    (hf : ∀ c, (f c s).MemoryCanonical) : AnswersCanonical (s.ctxCommand ctx admits f) := by
  unfold State.ctxCommand
  split
  · exact answersCanonical_next.2 hs
  · exact State.windowWrite_canonical hs (hf _)

theorem execCtxCmdDrain_canonical {ctx : Nat} (hs : s.MemoryCanonical) : AnswersCanonical (execCtxCmdDrain ctx s) := by
  unfold execCtxCmdDrain
  grind [State.beginDrain_mem, State.ctxCommand_canonical]

theorem execCtxCmdDrainNow_canonical {ctx : Nat} (hs : s.MemoryCanonical) : AnswersCanonical (execCtxCmdDrainNow ctx s) := by
  unfold execCtxCmdDrainNow
  grind [State.beginDrain_mem, State.ctxCommand_canonical]

theorem execCtxCmdKill_canonical {ctx : Nat} (hs : s.MemoryCanonical) : AnswersCanonical (execCtxCmdKill ctx s) := by
  unfold execCtxCmdKill
  grind [State.askKill_mem, State.ctxCommand_canonical]

theorem execCtxCmdResume_canonical {ctx : Nat} (hs : s.MemoryCanonical) : AnswersCanonical (execCtxCmdResume ctx s) := by
  unfold execCtxCmdResume
  grind [State.ctxCommand_canonical, State.drainCheck_mem, State.form_canonical, State.modCtx_mem, State.foldl_canonical]

theorem execCtxCmdEnd_canonical {ctx : Nat} (hs : s.MemoryCanonical) : AnswersCanonical (execCtxCmdEnd ctx s) := by
  unfold execCtxCmdEnd
  grind [State.ctxCommand_canonical, State.freeContext_mem]

/-! ### Window W2 (R415) -/

theorem execHostW2Read_canonical {addr len : Nat} (hs : s.MemoryCanonical) : AnswersCanonical (execHostW2Read addr len s) := by
  unfold execHostW2Read
  extract_lets pa gs
  have h := State.takeAllBack_canonical (gs := gs) (write := false) hs
  clear_value gs pa
  refine answersCanonical_ite (answersCanonical_next.2 hs) (answersCanonical_ite (answersCanonical_next.2 hs) ?_)
  generalize s.takeAllBack gs false = r at h
  obtain ⟨ok, t⟩ := r
  exact answersCanonical_ite (answersCanonical_next.2 h) (answersCanonical_next.2 h)

theorem State.hostPutGrain_canonical {pa : Nat} {bs : List Byte} (hs : s.MemoryCanonical) : (s.hostPutGrain pa bs).MemoryCanonical := by
  unfold State.hostPutGrain
  grind [State.markWritten_mem, State.replicaStart_mem, State.stampWrite_mem, State.writeMem_canonical, State.foldl_canonical]

theorem execHostW2Write_canonical {addr : Nat} {data : List Byte} (hs : s.MemoryCanonical) :
    AnswersCanonical (execHostW2Write addr data s) := by
  unfold execHostW2Write
  extract_lets pa
  clear_value pa
  refine State.windowWrite_canonical hs ?_
  grind [State.takeAllBack_canonical, State.tookBack_mem, State.settle_canonical, State.hostPutGrain_canonical, State.foldl_canonical]

/-! ### The event area (R420) -/

theorem execEventAreaWrite_canonical {ctx : Nat} (hs : s.MemoryCanonical) : AnswersCanonical (execEventAreaWrite ctx s) := by
  unfold execEventAreaWrite
  dsimp only
  split
  · exact answersCanonical_next.2 hs
  · refine answersCanonical_ite (answersCanonical_next.2 hs) (answersCanonical_next.2 ?_)
    split
    · refine State.loseCommand_canonical ?_
      simp only [State.MemoryCanonical, State.modCtx_mem, State.send_mem, State.hostPut_mem]
      exact hs
    · refine State.canonical_ite ?_ ?_
      all_goals
        simp only [State.MemoryCanonical, State.modCtx_mem, State.send_mem, State.hostPut_mem, State.walkSettle_mem]
        exact hs

theorem execEventAreaRetry_canonical {ctx : Nat} {consumer : BitVec 32} (hs : s.MemoryCanonical) :
    AnswersCanonical (execEventAreaRetry ctx consumer s) := by
  unfold execEventAreaRetry
  grind [State.modCtx_mem, State.send_mem, answersCanonical_next]

/-! ### Links (R412, R422) -/

theorem execLinkTraining_canonical {tier : Bool} {link : BitVec 13} {gib : Nat} (hs : s.MemoryCanonical) :
    AnswersCanonical (execLinkTraining tier link gib s) := by
  unfold execLinkTraining
  grind [State.hostDrop_mem, State.hostErr_mem, answersCanonical_next, State.foldl_canonical]

theorem execPoisonClear_canonical {pa : BitVec 64} (hs : s.MemoryCanonical) : AnswersCanonical (execPoisonClear pa s) := by
  unfold execPoisonClear
  grind [State.cfgWrite_canonical, answersCanonical_next]

@[simp] theorem State.poisonGrain_mem {pa : Nat} : (s.poisonGrain pa).mem = s.mem := by
  unfold State.poisonGrain
  split <;> simp

theorem execPatrolScrub_canonical {grain : Nat} {bad : Bool} (hs : s.MemoryCanonical) :
    AnswersCanonical (execPatrolScrub grain bad s) := by
  unfold execPatrolScrub
  grind [State.logError_mem, State.poisonGrain_mem, State.relabel_mem, answersCanonical_next]

/-! ### Storage errors (R423, R426, R427) -/

theorem State.wayLeaves_canonical {e : StorageError} (hs : s.MemoryCanonical) : (s.wayLeaves e).MemoryCanonical := by
  unfold State.wayLeaves
  grind [State.dropLines_mem, State.giveBack_canonical, State.writeBackAll_canonical, State.foldl_canonical]

theorem State.wayError_canonical {e : StorageError} (hs : s.MemoryCanonical) : (s.wayError e).MemoryCanonical := by
  unfold State.wayError
  grind [State.logError_mem, State.wayLeaves_canonical]

theorem execCorrectedError_canonical {err : StorageError} (hs : s.MemoryCanonical) : AnswersCanonical (execCorrectedError err s) := by
  unfold execCorrectedError
  grind [State.countError_mem, State.wayError_canonical, answersCanonical_next]

@[simp] theorem State.readPoison_mem {gid : Nat} : (s.readPoison gid).mem = s.mem := by
  simp [State.readPoison]

@[simp] theorem State.zeroRegister_mem {gid a : Nat} : (s.zeroRegister gid a).mem = s.mem := rfl

theorem execUncorrectableError_canonical {err : StorageError} (hs : s.MemoryCanonical) :
    AnswersCanonical (execUncorrectableError err s) := by
  unfold execUncorrectableError
  grind [State.bufWrite_mem, State.countError_mem, State.dropLines_mem, State.endCommand_canonical, State.giveBack_canonical,
    State.poisonGrain_mem, State.readPoison_mem, State.zeroRegister_mem, answersCanonical_next]

theorem execSliceRetire_canonical {slice : Nat} (hs : s.MemoryCanonical) : AnswersCanonical (execSliceRetire slice s) := by
  unfold execSliceRetire
  grind [State.giveBack_canonical, State.logError_mem, answersCanonical_next, State.foldl_canonical]

/-! ### Power and temperature (R15, R430) -/

theorem execPowerGating_canonical {level : Nat} (hs : s.MemoryCanonical) : AnswersCanonical (execPowerGating level s) := by
  unfold execPowerGating
  grind [answersCanonical_next]

theorem execThermalThrottle_canonical {celsius : Nat} (hs : s.MemoryCanonical) : AnswersCanonical (execThermalThrottle celsius s) := by
  unfold execThermalThrottle
  grind [State.logError_mem, State.setThermal_mem, answersCanonical_next]

theorem execThermalThrottleEnd_canonical {celsius : Nat} (hs : s.MemoryCanonical) :
    AnswersCanonical (execThermalThrottleEnd celsius s) := by
  unfold execThermalThrottleEnd
  grind [State.setThermal_mem, answersCanonical_next]

theorem execThermalTrip_canonical {celsius : Nat} (hs : s.MemoryCanonical) : AnswersCanonical (execThermalTrip celsius s) := by
  unfold execThermalTrip
  grind [State.askKill_mem, State.logError_mem, State.setThermal_mem, answersCanonical_next, State.foldl_canonical]

/-! ### Boot and attestation (R431 to R433) -/

theorem State.booted_canonical {version : BitVec 16} {ed mldsa fromRecovery inRecovery : Bool} :
    (s.booted version ed mldsa fromRecovery inRecovery).MemoryCanonical := by
  unfold State.booted State.MemoryCanonical
  rw [State.logError_mem]
  rfl

theorem execBoot_canonical {image : List Byte} {version : BitVec 16} {ed mldsa : Bool} :
    AnswersCanonical (execBoot image version ed mldsa s) := by
  unfold execBoot
  grind [State.booted_canonical, answersCanonical_next]

theorem execRecoveryDoorbell_canonical {image : List Byte} {version : BitVec 16} {ed mldsa : Bool} (hs : s.MemoryCanonical) :
    AnswersCanonical (execRecoveryDoorbell image version ed mldsa s) := by
  unfold execRecoveryDoorbell
  grind [State.booted_canonical, State.hostErr_mem, answersCanonical_next]

theorem execSpdmRequest_canonical {data : List Byte} (hs : s.MemoryCanonical) : AnswersCanonical (execSpdmRequest data s) := by
  unfold execSpdmRequest
  grind [State.send_mem, answersCanonical_next]

theorem State.tick_canonical (hs : s.MemoryCanonical) : s.tick.MemoryCanonical := by
  unfold State.tick
  grind [State.fabricStep_canonical, State.formAll_canonical, State.passTime_mem, State.podCheckAll_mem, State.pump_canonical,
    State.roundsStep_canonical, State.watchBundles_canonical, State.watchStarvation_mem]

end Sys2Proof.Machine
end

section
/-!
PROOF. Every instruction and event, and so every step, keeps the memory in its canonical form (R222).
-/

namespace Sys2Proof.Machine

set_option Elab.async false

variable {s : State}

/-! ### The instructions of a program -/

/-- The instructions of a program touch memory only by the checks of their accesses: the walk sets bits of page-table entries (R170). -/
theorem exec_program_canonical {i : Instr} (hi : i.enc?.isSome = true) (hs : s.MemoryCanonical) : AnswersCanonical (exec i s) := by
  unfold exec
  cases i
  case add f ls | sub f ls | addSatSigned f ls | addSatUnsigned f ls | subSatSigned f ls | subSatUnsigned f ls | mul f ls | mulhiSigned f ls
      | mulhiUnsigned f ls | minSigned f ls | minUnsigned f ls | maxSigned f ls | maxUnsigned f ls | and f ls | or f ls | xor f ls | andn f ls
      | shl f ls | shr f ls | sar f ls | rol f ls | bfx f ls => exact aluInt2_canonical hs
  case mad f ls | bfi f ls => exact aluInt3_canonical hs
  case abs f ls | clz f ls | ctz f ls | popc f ls | brev f ls => exact aluInt1_canonical hs
  case cmpSigned f ls | cmpUnsigned f ls => exact cmpInt_canonical hs
  case dp4 f ls | dp8 f ls => exact dotExec_canonical hs
  case fadd f ls | fsub f ls | fmul f ls | fmin f ls | fmax f ls | fminn f ls | fmaxn f ls => exact fpu2_canonical hs
  case fabs f ls | fneg f ls | fclass f ls | frnd f ls | fexpo f ls => exact fpu1_canonical hs
  case fdiv f ls | frcp f ls | frsq f ls | fsqrt f ls | fexp2 f ls | flog2 f ls | fexp f ls | fsinpi f ls | fcospi f ls | ftanh f ls =>
    exact sfuExec_canonical hs
  case xlVoteAll f ls | xlVoteAny f ls | xlVoteUni f ls | xlBal f ls => exact xlVote_canonical hs
  case xlSh f ls | xlBc f ls | xlRed f ls | xlScan f ls => exact xlRun_canonical hs fun iss => by simp [hs]
  case swz f ls | sel f ls | lea f ls | movl f ls | gmov f ls | cvti f ls | pack f ls | unpack f ls | rnd f ls | kop f ls | ffma f ls
      | fcmp f ls | fscl f ls | fcvt f ls | fcvti f ls | icvtf f ls => exact State.withIssue_canonical fun iss => by simp [hs]
  case ld f ls => exact execLd_canonical hs
  case st f ls => exact execSt_canonical hs
  case lda f ls | sta f ls | ldc f ls | stc f ls => exact bufExec_canonical hs
  case pf f ls => exact execPf_canonical hs
  case cinv f ls | cwb f ls => exact cacheExec_canonical hs
  case hsave f ls => exact execHsave_canonical hs
  case hload f ls => exact execHload_canonical hs
  case atom f ls => exact execAtom_canonical hs
  case red f ls => exact execRed_canonical hs
  case await f ls => exact execAwait_canonical hs
  case mvrange f ls => exact execMvrange_canonical hs
  case mvwait f ls => exact execMvwait_canonical hs
  case wsclose f ls | wsreset f ls => exact wsExec_canonical hs
  case wsstate f ls => exact execWsstate_canonical hs
  case pgclass f ls => exact execPgclass_canonical hs
  case replicAdd f ls | replicRem f ls => exact replicExec_canonical hs
  case mmx f ls | mmxs f ls => exact matrixExec_canonical hs
  case mstat f ls | mcancel f ls | ewait f ls | estat f ls | gwait f ls | gcancel f ls => exact ticketExec_canonical hs
  case cpy f ls | cpyg f ls | cfill f ls => exact copyExec_canonical hs
  case gspawn f ls | glaunch f ls => exact nodeExec_canonical hs
  case fence f ls | acq f ls | rel f ls => exact orderExec_canonical hs
  case trap f ls | brk f ls => exact softFault_canonical hs
  case barSync f ls | barArrive f ls | barWait f ls => exact State.withIssue_canonical fun iss => barExec_canonical hs
  case cfgrd f ls => exact execCfgrd_canonical hs
  case fput f ls | fget f ls | fsend f ls | frecv f ls => exact fabricExec_canonical hs
  case injMat f ls | injFrag f ls => exact injExec_canonical hs
  case injPoison f ls => exact execInjPoison_canonical hs
  case hmov f ls | hinfo f ls | bra f | exit f ls | nop f ls | detsig f ls | asidinv f ls =>
    exact State.withIssue_canonical fun iss => by simp [hs]
  case call f | ret f ls | step f ls | mcks f ls | fstat f ls | snap f ls | snapst f ls | snapwait f ls | snapdrop f ls =>
    refine State.withIssue_canonical fun iss => ?_
    repeat' split
    all_goals simp [hs]
  case preq f ls | hnarrow f ls | hoff f ls | brx f ls | callx f ls | yield f ls | srd f ls | swr f ls | cfgwr f ls | stepPod f ls
      | tret f ls | gang f ls | mdrain f ls | mzero f ls | publish f ls | dgst f ls | mig f ls | tlbinv f ls | cinit f ls | cpost f ls
      | cbar f ls | cwait f ls | cfree f ls | ctxsave f ls | ctxload f ls | preempt f ls | budget f ls =>
    refine State.withIssue_canonical fun iss => ?_
    dsimp only
    repeat' split
    all_goals simp [hs]
  all_goals cases hi

/-! ### Events and steps -/

theorem exec_event_canonical {i : Instr} (hi : i.enc?.isSome = false) (hs : s.MemoryCanonical) : AnswersCanonical (exec i s) := by
  unfold exec
  cases i
  case clauseIssue gid pc => exact execClauseIssue_canonical hs
  case bundlePriorityAging gid pc => exact execBundlePriorityAging_canonical hs
  case yieldDelayExpiry gid lanes => exact execYieldDelayExpiry_canonical hs
  case deferredEventLanding id => exact execDeferredEventLanding_canonical hs
  case sfuEntryStart core => exact execSfuEntryStart_canonical hs
  case sfuResultLanding core => exact execSfuResultLanding_canonical hs
  case groupRetire gid => exact execGroupRetire_canonical hs
  case stepComplete grid => exact execStepComplete_canonical hs
  case gets chip epoch pa => exact execGets_canonical hs
  case getm chip epoch pa => exact execGetm_canonical hs
  case forward chip epoch pa excl => exact execForward_canonical hs
  case grainData chip epoch pa tag data => exact execGrainData_canonical hs
  case wsWaitExpiry id => exact execWsWaitExpiry_canonical hs
  case moveTimeoutExpiry id => exact execMoveTimeoutExpiry_canonical hs
  case atomicEngineOperation cluster grain => exact execAtomicEngineOperation_canonical hs
  case atomicGrainRecall cluster grain => exact execAtomicGrainRecall_canonical hs
  case homeSliceAtomic grain => exact execHomeSliceAtomic_canonical hs
  case awaitTest id => exact execAwaitTest_canonical hs
  case awaitRetestTimer id => exact execAwaitRetestTimer_canonical hs
  case rendezvousLatchGrant cluster => exact execRendezvousLatchGrant_canonical hs
  case matrixEntryPlacement cluster team tag => exact execMatrixEntryPlacement_canonical hs
  case matrixPass cluster => exact execMatrixPass_canonical hs
  case matrixStarvationPriority cluster id => exact execMatrixStarvationPriority_canonical hs
  case matrixCompletion cluster id => exact execMatrixCompletion_canonical hs
  case matrixDrainRun cluster => exact execMatrixDrainRun_canonical hs
  case matrixZeroRun cluster => exact execMatrixZeroRun_canonical hs
  case copyCommandStart cluster id => exact execCopyCommandStart_canonical hs
  case copyCommandCompletion cluster id => exact execCopyCommandCompletion_canonical hs
  case engineStatusUpdate id => exact execEngineStatusUpdate_canonical hs
  case publishExecution id => exact execPublishExecution_canonical hs
  case messageInjection dst cls => exact execMessageInjection_canonical hs
  case dataFragmentReceive hdr payload => exact execDataFragmentReceive_canonical hs
  case decodeDeadlineExpiry src cls seq stripe => exact execDecodeDeadlineExpiry_canonical hs
  case messageDelivery src cls => exact execMessageDelivery_canonical hs
  case ackCoalesceExpiry src cls => exact execAckCoalesceExpiry_canonical hs
  case filterEntryExpiry src cls seq => exact execFilterEntryExpiry_canonical hs
  case ackReceive dst cls seq => exact execAckReceive_canonical hs
  case nackReceive dst cls seq stripe => exact execNackReceive_canonical hs
  case busyReplyReceive dst cls seq => exact execBusyReplyReceive_canonical hs
  case busyWaitExpiry dst cls seq => exact execBusyWaitExpiry_canonical hs
  case ackWaitExpiry dst cls seq stripe => exact execAckWaitExpiry_canonical hs
  case lossNoticeReceive src cls seq kind info => exact execLossNoticeReceive_canonical hs
  case lossNoticeRepeat dst cls seq => exact execLossNoticeRepeat_canonical hs
  case combineResultReceive ctx round fail data => exact execCombineResultReceive_canonical hs
  case markerReceive src cls epoch initiator dtag => exact execMarkerReceive_canonical hs
  case snapshotSweep colour => exact execSnapshotSweep_canonical hs
  case snapshotChipComplete colour => exact execSnapshotChipComplete_canonical hs
  case snapshotReportReceive chip colour => exact execSnapshotReportReceive_canonical hs
  case snapshotDropFinish colour => exact execSnapshotDropFinish_canonical hs
  case trapEntry gid => exact execTrapEntry_canonical hs
  case contextKill ctx => exact execContextKill_canonical hs
  case drainLimitExpiry ctx => exact execDrainLimitExpiry_canonical hs
  case forcedSave team => exact execForcedSave_canonical hs
  case teamDispatch grid team cluster cores => exact execTeamDispatch_canonical hs
  case starvationSwap grid => exact execStarvationSwap_canonical hs
  case nodeVisitGrid ctx slot => exact execNodeVisitGrid_canonical hs
  case nodeVisitCopy ctx slot => exact execNodeVisitCopy_canonical hs
  case nodeVisitColl ctx slot => exact execNodeVisitColl_canonical hs
  case nodeVisitCond ctx slot => exact execNodeVisitCond_canonical hs
  case nodeVisitWhile ctx slot => exact execNodeVisitWhile_canonical hs
  case nodeVisitSnap ctx slot => exact execNodeVisitSnap_canonical hs
  case nodeVisitHostsig ctx slot => exact execNodeVisitHostsig_canonical hs
  case nodeVisitEnd ctx slot => exact execNodeVisitEnd_canonical hs
  case gridComplete grid => exact execGridComplete_canonical hs
  case gridEndDigest grid => exact execGridEndDigest_canonical hs
  case eventAreaWrite ctx => exact execEventAreaWrite_canonical hs
  case dropReportReceive chip colour => exact execDropReportReceive_canonical hs
  case contextBecomesLive ctx q => exact execContextBecomesLive_canonical hs
  case clauseCommit => exact execClauseCommit_canonical hs
  case stepNoticeReceive chip stag n seqs => exact execStepNoticeReceive_canonical hs
  case ltsSelfAdvance => exact execLtsSelfAdvance_canonical hs
  case moduleRebase => exact execModuleRebase_canonical hs
  case upgrade chip pa => exact execUpgrade_canonical hs
  case putm chip pa data => exact execPutm_canonical hs
  case puto chip pa data => exact execPuto_canonical hs
  case invalidate pa => exact execInvalidate_canonical hs
  case coherenceAck chip pa dirty => exact execCoherenceAck_canonical hs
  case hostAtomicCompletion id st old => exact execHostAtomicCompletion_canonical hs
  case hostAccessCompletion id st data => exact execHostAccessCompletion_canonical hs
  case hostSnoop hpa => exact execHostSnoop_canonical hs
  case migrationPageMove => exact execMigrationPageMove_canonical hs
  case digestCompletion => exact execDigestCompletion_canonical hs
  case mordantLakeWrite => exact execMordantLakeWrite_canonical hs
  case fragmentForward hdr payload => exact execFragmentForward_canonical hs
  case combineContributionReceive ctx chip round agreed fail data => exact execCombineContributionReceive_canonical hs
  case snapshotRecordInstant => exact execSnapshotRecordInstant_canonical hs
  case sealNoticeReceive colour => exact execSealNoticeReceive_canonical hs
  case failureNoticeReceive colour => exact execFailureNoticeReceive_canonical hs
  case dropNoticeReceive colour => exact execDropNoticeReceive_canonical hs
  case patrolScrub grain bad => exact execPatrolScrub_canonical hs
  case walkStartWrite ctx slot value => exact execWalkStartWrite_canonical hs
  case eventAreaRetry ctx consumer => exact execEventAreaRetry_canonical hs
  case hostConfigWrite reg value => exact execHostConfigWrite_canonical hs
  case pathTableWrite chip word value => exact execPathTableWrite_canonical hs
  case placementTableWrite entry value => exact execPlacementTableWrite_canonical hs
  case vfGrantWrite vf value => exact execVfGrantWrite_canonical hs
  case ctxCmdDrain ctx => exact execCtxCmdDrain_canonical hs
  case ctxCmdDrainNow ctx => exact execCtxCmdDrainNow_canonical hs
  case ctxCmdKill ctx => exact execCtxCmdKill_canonical hs
  case ctxCmdResume ctx => exact execCtxCmdResume_canonical hs
  case ctxCmdEnd ctx => exact execCtxCmdEnd_canonical hs
  case hostW2Read addr len => exact execHostW2Read_canonical hs
  case hostW2Write addr data => exact execHostW2Write_canonical hs
  case poisonClear pa => exact execPoisonClear_canonical hs
  case linkTraining tier link gib => exact execLinkTraining_canonical hs
  case boot image version ed mldsa => exact execBoot_canonical
  case recoveryDoorbell image version ed mldsa => exact execRecoveryDoorbell_canonical hs
  case spdmRequest request => exact execSpdmRequest_canonical hs
  case powerGating level => exact execPowerGating_canonical hs
  case thermalThrottle celsius => exact execThermalThrottle_canonical hs
  case thermalThrottleEnd celsius => exact execThermalThrottleEnd_canonical hs
  case thermalTrip celsius => exact execThermalTrip_canonical hs
  case correctedError err => exact execCorrectedError_canonical hs
  case uncorrectableError err => exact execUncorrectableError_canonical hs
  case sliceRetire slice => exact execSliceRetire_canonical hs
  case framePoolWaitExpiry => exact execFramePoolWaitExpiry_canonical hs
  case snapshotRestoration colour => exact execSnapshotRestoration_canonical hs
  all_goals cases hi

theorem exec_canonical (i : Instr) (hs : s.MemoryCanonical) : AnswersCanonical (exec i s) := by
  cases hi : i.enc?.isSome
  · exact exec_event_canonical hi hs
  · exact exec_program_canonical hi hs

theorem State.serve_canonical {iss : Issue} (hs : s.MemoryCanonical) : (s.serve iss).MemoryCanonical := hs

theorem stepIssue_canonical {iss : Issue} (hs : s.MemoryCanonical) : AnswersCanonical (stepIssue s iss) := by
  unfold stepIssue
  split
  · exact exec_canonical .clauseCommit hs
  · exact State.faults_canonical.2 hs
  · exact exec_canonical _ hs

/-- An event of the agenda, a clause's instruction, an event of the machine's own, or the passing of time: each keeps the form. -/
theorem step_canonical (hs : s.MemoryCanonical) : AnswersCanonical (step s) := by
  unfold step
  split
  · refine answersCanonical_ite (exec_canonical _ hs) ?_
    exact answersCanonical_ite (answersCanonical_next.2 hs) (exec_canonical _ hs)
  · split
    · exact stepIssue_canonical (State.serve_canonical hs)
    · split
      · exact exec_canonical _ (State.tick_canonical hs)
      · exact answersCanonical_next.2 (State.tick_canonical hs)

end Sys2Proof.Machine

namespace Sys2Proof

open Sys2Proof.Machine

/-- Settles O60: each step runs `exec` of one instruction or lets time pass, and every operation of these keeps the form. -/
theorem stepKeepsMemoryCanonical : Obligations.StepKeepsMemoryCanonical := by
  unfold Obligations.StepKeepsMemoryCanonical
  exact fun s t hs => step_canonical hs t

end Sys2Proof
end

section
/-!
PROOF. The home of a grain (R223 to R227, R230, R352, R415): what an unassigned tag becomes, which way a request of another chip takes at
a home that nothing holds back, and what a writeback and an acknowledgement leave.
-/

namespace Sys2Proof.Machine

set_option Elab.async false

/-! ### Unassigned tags (R223) -/

/-- A tag is unassigned only when every field but the epoch is zero. -/
theorem tagGet_of_tagFree {t : BitVec 64} (h : tagFree t = true) {hi lo : Nat} (hl : lo ≤ hi) (hd : hi < 8 ∨ 9 < lo) :
    tagGet t hi lo = 0 := by
  rw [← tagGet_tagSet_other t 0 (by decide : 8 ≤ 9) (by decide) hl hd, show tagSet t 9 8 0 = 0 from beq_iff_eq.mp h]
  simp [tagGet, bits]

theorem tagState_of_tagFree {t : BitVec 64} (h : tagFree t = true) : tagState t = 0 := tagGet_of_tagFree h (by decide) (by decide)

theorem tagFree_eq_false_of_tagState {t : BitVec 64} (h : tagState t ≠ 0) : tagFree t = false :=
  Bool.eq_false_iff.mpr fun hfree => h (tagState_of_tagFree hfree)

theorem tagFree_eq_false_of_tagClass {t : BitVec 64} (h : tagClass t ≠ 0) : tagFree t = false :=
  Bool.eq_false_iff.mpr fun hfree => h (tagGet_of_tagFree hfree (by decide) (by decide))

theorem tagClass_tagSet_other (t : BitVec 64) {hi lo : Nat} (v : Nat) (h : lo ≤ hi) (h' : hi < 64) (hd : 4 < lo) :
    tagClass (tagSet t hi lo v) = tagClass t := tagGet_tagSet_other t v h h' (by decide) (.inl hd)

/-- A request's leaf leaves a tag as it was, or assigns it as an unowned grain or an EMPTY one. -/
theorem State.adoptAs_cases (s : State) (g leaf chip : Nat) : s.adoptAs g leaf chip = s ∨
    tagFree ((s.adoptAs g leaf chip).tag g) = false ∧
      (tagState ((s.adoptAs g leaf chip).tag g) = 0 ∨ tagState ((s.adoptAs g leaf chip).tag g) = 5) := by
  unfold State.adoptAs
  extract_lets t
  split
  · exact .inl rfl
  · rename_i hassigns
    simp only [Bool.or_eq_true, Bool.not_eq_true', not_or, Bool.not_eq_false, Bool.not_eq_true] at hassigns
    obtain ⟨hfree, ht⟩ := hassigns
    have hstate : tagState t = 0 := by
      rw [tagState_tagSet _ _ (by decide) (by decide) (by decide), tagState_tagSet _ _ (by decide) (by decide) (by decide)]
      exact tagState_of_tagFree hfree
    refine .inr ?_
    rw [State.tag_setTag_same]
    split
    · have h5 : tagState (tagSetState t 5) = 5 := tagState_tagSetState t (by decide)
      exact ⟨tagFree_eq_false_of_tagState (by omega), .inr h5⟩
    · rename_i hclass
      have h3 : tagClass t = 3 := by
        rw [tagClass_tagSet_other _ _ (by decide) (by decide) (by decide), tagClass, tagGet_tagSet_same _ _ (by decide) (by decide), hclass]
        rfl
      unfold tagSetPtr
      refine ⟨tagFree_eq_false_of_tagClass ?_, .inl ?_⟩
      · rw [tagClass_tagSet_other _ _ (by decide) (by decide) (by decide), tagClass_tagSet_other _ _ (by decide) (by decide) (by decide),
          h3]
        decide
      · rw [tagState_tagSet _ _ (by decide) (by decide) (by decide), tagState_tagSet _ _ (by decide) (by decide) (by decide), hstate]
    · exact ⟨ht, .inl hstate⟩

@[simp] theorem State.adoptAs_adoptAs (s : State) (g leaf chip : Nat) :
    (s.adoptAs g leaf chip).adoptAs g leaf chip = s.adoptAs g leaf chip := by
  rcases s.adoptAs_cases g leaf chip with h | ⟨h, -⟩
  · rw [h, h]
  · exact State.adoptAs_of_assigned h leaf chip

/-- A shared grain was assigned before. -/
theorem State.adoptAs_of_shared {s : State} {g leaf chip : Nat} (h : tagState ((s.adoptAs g leaf chip).tag g) = 1) :
    s.adoptAs g leaf chip = s := by
  rcases s.adoptAs_cases g leaf chip with h' | ⟨-, h' | h'⟩
  · exact h'
  · omega
  · omega

theorem State.hostUsed_adoptAs (s : State) (g leaf chip : Nat) :
    (s.hostUsed g).adoptAs g leaf chip = (s.adoptAs g leaf chip).hostUsed g := by
  unfold State.adoptAs
  extract_lets t t'
  change (if !tagFree (s.tag g) || tagFree t' then _ else _) = _
  split <;> rfl

/-! ### A request at the home (R225, R226) -/

/-- A GetS or GetM as the home takes it up. -/
def asked (chip epoch leaf : Nat) (getM : Bool) : HomeReq := { chip := chip, getM := getM, upgrade := false, epoch := epoch, leaf := leaf }

theorem atLeaf_mod (pa leaf : Nat) : atLeaf pa leaf % 2 ^ 64 = pa % 2 ^ 64 := by
  unfold atLeaf
  omega

theorem atLeaf_div (pa leaf : Nat) : atLeaf pa leaf / 2 ^ 64 = leaf := by
  unfold atLeaf
  omega

theorem execGets_of_newer {s : State} {epoch : Nat} (h : s.epoch < epoch) (chip pa : Nat) :
    execGets chip epoch pa s = .next (s.holdMessage epoch (.gets chip epoch pa)) := if_pos h

theorem execGetm_of_newer {s : State} {epoch : Nat} (h : s.epoch < epoch) (chip pa : Nat) :
    execGetm chip epoch pa s = .next (s.holdMessage epoch (.getm chip epoch pa)) := if_pos h

theorem execGets_of_epoch {s : State} {epoch : Nat} (h : epoch ≤ s.epoch) (chip pa leaf : Nat) :
    execGets chip epoch (atLeaf pa leaf) s = .next (s.homeRequest (grainOf (pa % 2 ^ 64)) (asked chip epoch leaf false)).pump := by
  rw [execGets, State.atEpoch, if_neg (Nat.not_lt.mpr h), atLeaf_mod, atLeaf_div, asked]

theorem execGetm_of_epoch {s : State} {epoch : Nat} (h : epoch ≤ s.epoch) (chip pa leaf : Nat) :
    execGetm chip epoch (atLeaf pa leaf) s = .next (s.homeRequest (grainOf (pa % 2 ^ 64)) (asked chip epoch leaf true)).pump := by
  rw [execGetm, State.atEpoch, if_neg (Nat.not_lt.mpr h), atLeaf_mod, atLeaf_div, asked]

theorem State.grainBusy_eq_false {s : State} {g : Nat} (htxn : s.txns.find? g = none) (hstore : s.replicaStores.find? g = none) :
    s.grainBusy g = false := by
  simp [State.grainBusy, htxn, hstore]

/-- A grain whose home nothing keeps from taking up a request of another chip: no engine holds it, it is not busy, no operation of another
chip waits, and its page is not in transition. -/
structure State.Free (s : State) (g chip : Nat) : Prop where
  engine : s.engineOf g = none
  idle : s.grainBusy g = false
  ops : s.remoteOps = []
  steady : s.stalledFor chip (g * 512) = false
  other : chip ≠ s.chip

/-- The ways that a request takes whose grain is free. -/
theorem State.homeRequest_of_free {s : State} {g : Nat} {r : HomeReq} (h : s.Free g r.chip) (hput : r.put = none) :
    s.homeRequest g r =
      let u := s.adoptAs g r.leaf r.chip
      let grants := r.getM || tagState (u.tag g) == 0
      if !leafAgrees (u.tag g) r.leaf then u.homeServe g r
      else if u.parkedWs g r then u.queueReq g r
      else if grants && u.hostMayHold g then (u.backInvalidate g).queueReq g r
      else (if grants then u.hostUsed g else u).homeServe g r := by
  simp [State.homeRequest, h.idle, State.opBefore, h.ops, h.steady, hput, h.other]

/-- A state in which the home serves a request of another chip at once, whose leaf the tag has taken already. -/
structure State.Serves (s : State) (g : Nat) (r : HomeReq) : Prop where
  engine : s.engineOf g = none
  other : r.chip ≠ s.chip
  adopted : s.adoptAs g r.leaf r.chip = s

theorem State.Free.serves {s : State} {g : Nat} {r : HomeReq} (h : s.Free g r.chip) : (s.adoptAs g r.leaf r.chip).Serves g r := by
  obtain ⟨tg, e⟩ := s.adoptAs_frame g r.leaf r.chip
  refine ⟨?_, ?_, s.adoptAs_adoptAs g r.leaf r.chip⟩
  · rw [e]
    exact h.engine
  · rw [e]
    exact h.other

theorem State.Serves.hostUsed {s : State} {g : Nat} {r : HomeReq} (h : s.Serves g r) : (s.hostUsed g).Serves g r :=
  ⟨h.engine, h.other, by rw [State.hostUsed_adoptAs, h.adopted]⟩

section
variable {s : State} {g : Nat} {r : HomeReq}

theorem State.Serves.recall (h : s.Serves g r) : s.recall g = s := by
  simp [State.recall, h.engine]

theorem State.homeServe_of_disagrees (h : s.Serves g r) (hleaf : leafAgrees (s.tag g) r.leaf = false) :
    s.homeServe g r = s.sendData r.chip g (s.tag g) := by
  simp [State.homeServe, h.recall, h.other, h.adopted, hleaf]

theorem State.homeServe_of_chipReach (h : s.Serves g r) (hleaf : leafAgrees (s.tag g) r.leaf = true) (hreach : tagReach (s.tag g) = 0) :
    s.homeServe g r = s.sendCoh r.chip .answer (g * 512) FaultCode.reach.num (2 ^ 61) [] := by
  simp [State.homeServe, h.recall, h.other, h.adopted, hleaf, hreach]

theorem State.homeServe_of_unowned (h : s.Serves g r) (hleaf : leafAgrees (s.tag g) r.leaf = true) (hreach : tagReach (s.tag g) ≠ 0)
    (hclass : tagClass (s.tag g) < 2) (hstate : tagState (s.tag g) = 0) :
    s.homeServe g r =
      let t := tagSet (ownedBy (s.tag g) (if r.getM then 4 else 2) r.chip) 9 8 (tagEpoch (s.tag g))
      ((s.passFloor g).setTag g t).sendData r.chip g t := by
  have h3 : tagClass (s.tag g) ≠ 3 := by omega
  simp [State.homeServe, h.recall, h.other, h.adopted, hleaf, hreach, h3, hstate]
  rfl

theorem State.homeServe_of_shared_getS (h : s.Serves g r) (hleaf : leafAgrees (s.tag g) r.leaf = true) (hreach : tagReach (s.tag g) ≠ 0)
    (hclass : tagClass (s.tag g) < 2) (hstate : tagState (s.tag g) = 1) (hget : r.getM = false) :
    s.homeServe g r =
      let cs := s.sharers (s.tag g) 0
      let t := s.withSharers (s.tag g) (if cs.contains r.chip then cs else cs ++ [r.chip])
      (s.setTag g t).sendData r.chip g t := by
  have h3 : tagClass (s.tag g) ≠ 3 := by omega
  simp [State.homeServe, h.recall, h.other, h.adopted, hleaf, hreach, h3, hstate, hget]

theorem State.homeServe_of_shared_getM (h : s.Serves g r) (hleaf : leafAgrees (s.tag g) r.leaf = true) (hreach : tagReach (s.tag g) ≠ 0)
    (hclass : tagClass (s.tag g) < 2) (hstate : tagState (s.tag g) = 1) (hget : r.getM = true) :
    s.homeServe g r =
      let cs := s.sharers (s.tag g) 0
      let owned := ownedBy (s.tag g) 4 r.chip
      s.openTxn g (cs.filter fun c => c != r.chip && c != s.chip) [] true
        { chip := r.chip, getM := true, next := owned, nextDirty := owned, epoch := r.epoch,
          reply := if r.upgrade && cs.contains r.chip then 2 else 1 } := by
  have h3 : tagClass (s.tag g) ≠ 3 := by omega
  simp [State.homeServe, h.recall, h.other, h.adopted, hleaf, hreach, h3, hstate, hget]

theorem State.parkedWs_eq_false (h : tagClass (s.tag g) < 2) (r : HomeReq) : s.parkedWs g r = false := by
  have h2 : tagClass (s.tag g) ≠ 2 := by omega
  simp [State.parkedWs, h2]

theorem State.homeRequest_of_disagrees (h : s.Free g r.chip) (hput : r.put = none)
    (hleaf : leafAgrees ((s.adoptAs g r.leaf r.chip).tag g) r.leaf = false) :
    s.homeRequest g r = (s.adoptAs g r.leaf r.chip).sendData r.chip g ((s.adoptAs g r.leaf r.chip).tag g) := by
  rw [State.homeRequest_of_free h hput]
  simp [hleaf, State.homeServe_of_disagrees h.serves hleaf]

/-- The host is asked first for the copies of a grain that it may hold (R415). -/
theorem State.homeRequest_of_hostHeld (h : s.Free g r.chip) (hput : r.put = none)
    (hleaf : leafAgrees ((s.adoptAs g r.leaf r.chip).tag g) r.leaf = true) (hclass : tagClass ((s.adoptAs g r.leaf r.chip).tag g) < 2)
    (hgrants : (r.getM || tagState ((s.adoptAs g r.leaf r.chip).tag g) == 0) = true)
    (hhost : (s.adoptAs g r.leaf r.chip).hostMayHold g = true) :
    s.homeRequest g r = ((s.adoptAs g r.leaf r.chip).backInvalidate g).queueReq g r := by
  rw [State.homeRequest_of_free h hput]
  simp only [hleaf, hgrants, hhost, State.parkedWs_eq_false hclass]
  rfl

theorem State.homeRequest_of_grant (h : s.Free g r.chip) (hput : r.put = none)
    (hleaf : leafAgrees ((s.adoptAs g r.leaf r.chip).tag g) r.leaf = true) (hclass : tagClass ((s.adoptAs g r.leaf r.chip).tag g) < 2)
    (hgrants : (r.getM || tagState ((s.adoptAs g r.leaf r.chip).tag g) == 0) = true)
    (hhost : (s.adoptAs g r.leaf r.chip).hostMayHold g = false) :
    s.homeRequest g r = ((s.adoptAs g r.leaf r.chip).hostUsed g).homeServe g r := by
  rw [State.homeRequest_of_free h hput]
  simp only [hleaf, hgrants, hhost, State.parkedWs_eq_false hclass]
  rfl

theorem State.homeRequest_of_no_grant (h : s.Free g r.chip) (hput : r.put = none)
    (hleaf : leafAgrees ((s.adoptAs g r.leaf r.chip).tag g) r.leaf = true) (hclass : tagClass ((s.adoptAs g r.leaf r.chip).tag g) < 2)
    (hgrants : (r.getM || tagState ((s.adoptAs g r.leaf r.chip).tag g) == 0) = false) :
    s.homeRequest g r = (s.adoptAs g r.leaf r.chip).homeServe g r := by
  rw [State.homeRequest_of_free h hput]
  simp only [hleaf, hgrants, State.parkedWs_eq_false hclass]
  rfl

/-- A grain of CHIP reach never leaves its home (R174, R224). -/
theorem State.homeRequest_of_chipReach (h : s.Free g r.chip) (hput : r.put = none) (hget : r.getM = false)
    (hleaf : leafAgrees ((s.adoptAs g r.leaf r.chip).tag g) r.leaf = true) (hclass : tagClass ((s.adoptAs g r.leaf r.chip).tag g) < 2)
    (hreach : tagReach ((s.adoptAs g r.leaf r.chip).tag g) = 0) :
    s.homeRequest g r =
      let u := s.adoptAs g r.leaf r.chip
      (if tagState (u.tag g) = 0 then u.hostUsed g else u).sendCoh r.chip .answer (g * 512) FaultCode.reach.num (2 ^ 61) [] := by
  by_cases hstate : tagState ((s.adoptAs g r.leaf r.chip).tag g) = 0
  · have hhost : (s.adoptAs g r.leaf r.chip).hostMayHold g = false := by simp [State.hostMayHold, hreach]
    rw [State.homeRequest_of_grant h hput hleaf hclass (by simp [hstate]) hhost,
      State.homeServe_of_chipReach h.serves.hostUsed hleaf hreach]
    simp only [hstate, if_true]
  · rw [State.homeRequest_of_no_grant h hput hleaf hclass (by simp [hget, hstate]), State.homeServe_of_chipReach h.serves hleaf hreach]
    simp only [hstate, if_false]

/-- A busy grain's requests wait in the order in which they came (R225). -/
theorem State.homeRequest_of_busy (h : s.grainBusy g = true) (r : HomeReq) : s.homeRequest g r = s.queueReq g r := by
  simp [State.homeRequest, h]

theorem State.queueReq_of_new (s : State) (g : Nat) {r : HomeReq} (h : r.order = 0) :
    s.queueReq g r = { s with waitingReqs := s.waitingReqs.insert g (s.waitingReqs.get g [] ++ [{ r with order := s.nextId + 1 }])
                              nextId := s.nextId + 1 } := by
  simp [State.queueReq, h]

end

/-! ### Upgrades -/

theorem tagClass_lt (t : BitVec 64) : tagClass t < 4 := Nat.mod_lt _ (by decide)

theorem tagReach_lt (t : BitVec 64) : tagReach t < 4 := Nat.mod_lt _ (by decide)

theorem leafAgrees_own (t : BitVec 64) : leafAgrees t (tagClass t + 4 * tagReach t) = true := by
  have hc := tagClass_lt t
  have hr := tagReach_lt t
  simp only [leafAgrees, leafClass, leafReach, Bool.and_eq_true, beq_iff_eq]
  omega

/-- The request that an Upgrade makes, with the class and reach of the tag. -/
def upgradeOf (s : State) (chip g : Nat) : HomeReq :=
  { chip := chip, getM := true, upgrade := true, epoch := s.epoch, leaf := tagClass (s.tag g) + 4 * tagReach (s.tag g) }

theorem execUpgrade_eq (s : State) (chip pa : Nat) :
    execUpgrade chip pa s = .next (s.homeRequest (grainOf pa) (upgradeOf s chip (grainOf pa))).pump := rfl

/-- A request for M of a shared grain whose leaf agrees with its tag, for a host that holds no copy: the other sharers are invalidated. -/
theorem State.homeRequest_getM_of_shared {s : State} {g : Nat} {r : HomeReq} (h : s.Free g r.chip) (hput : r.put = none)
    (hget : r.getM = true) (hadopt : s.adoptAs g r.leaf r.chip = s) (hleaf : leafAgrees (s.tag g) r.leaf = true) (hclass : tagClass (s.tag g) < 2)
    (hreach : tagReach (s.tag g) ≠ 0) (hstate : tagState (s.tag g) = 1) (hhost : s.hostMayHold g = false) :
    s.homeRequest g r =
      let cs := s.sharers (s.tag g) 0
      let owned := ownedBy (s.tag g) 4 r.chip
      (s.hostUsed g).openTxn g (cs.filter fun c => c != r.chip && c != s.chip) [] true
        { chip := r.chip, getM := true, next := owned, nextDirty := owned, epoch := r.epoch,
          reply := if r.upgrade && cs.contains r.chip then 2 else 1 } := by
  have hserves : (s.hostUsed g).Serves g r := State.Serves.hostUsed ⟨h.engine, h.other, hadopt⟩
  rw [State.homeRequest_of_grant h hput (hadopt.symm ▸ hleaf) (hadopt.symm ▸ hclass) (by simp [hget]) (hadopt.symm ▸ hhost), hadopt,
    State.homeServe_of_shared_getM hserves hleaf hreach hclass hstate hget]
  rfl

/-! ### Writebacks (R226) -/

/-- A writeback as the home takes it up, with the epoch that the tag names. -/
def writeback (s : State) (chip g : Nat) (data : List Byte) : HomeReq :=
  { chip := chip, getM := false, upgrade := false, epoch := s.epoch, leaf := tagEpoch (s.tag g), put := some data }

theorem execPutm_eq (s : State) (chip pa : Nat) (data : List Byte) :
    execPutm chip pa data s = .next (s.homeRequest (grainOf pa) (writeback s chip (grainOf pa) data)).pump := rfl

theorem execPuto_eq (s : State) (chip pa : Nat) (data : List Byte) :
    execPuto chip pa data s = .next (s.homeRequest (grainOf pa) (writeback s chip (grainOf pa) data)).pump := rfl

section
variable {s : State} {g chip : Nat} {data : List Byte}

theorem State.homeRequest_writeback (h : s.grainBusy g = false) :
    s.homeRequest g (writeback s chip g data) = s.putBack g chip (tagEpoch (s.tag g)) data := by
  have he : tagEpoch (s.tag g) % 4 = tagEpoch (s.tag g) := Nat.mod_eq_of_lt (Nat.mod_lt _ (by decide))
  simp [State.homeRequest, h, State.opBefore, writeback, he]

/-- A writeback of a chip that is not the owner is acknowledged and its data discarded. -/
theorem State.putBack_of_other (h : tagPtr (s.tag g) 0 ≠ chip) (epoch : Nat) (data : List Byte) :
    s.putBack g chip epoch data = s.sendMsg chip .ack g := by
  simp [State.putBack, h]

/-- The home when an owner's data has been written back to it, and stamped. -/
def State.writtenBack (s : State) (g chip : Nat) (data : List Byte) : State :=
  ((s.sendMsg chip .ack g).putMem (g * 512) (data.take 512)).stampGrain g

theorem State.writtenBack_cfg : (s.writtenBack g chip data).cfg = s.cfg := by
  obtain ⟨_, _, e⟩ := ((s.sendMsg chip .ack g).putMem (g * 512) (data.take 512)).stampGrain_frame g
  rw [State.writtenBack, e]
  rfl

theorem State.granule_congr {s u : State} (h : u.cfg = s.cfg) : u.granule = s.granule := by
  simp only [State.granule, State.podSize, State.cfgAt, h]

theorem State.sharers_congr {s u : State} (h : u.cfg = s.cfg) (t : BitVec 64) (k : Nat) : u.sharers t k = s.sharers t k := by
  simp only [State.sharers, State.granule_congr h, State.podSize, State.cfgAt, h]

theorem State.withSharers_congr {s u : State} (h : u.cfg = s.cfg) (t : BitVec 64) (cs : List Nat) :
    u.withSharers t cs = s.withSharers t cs := by
  simp only [State.withSharers, State.granule_congr h]

/-- A writeback of the owner of a grain in E or M frees it. -/
theorem State.putBack_of_sole_owner (hptr : tagPtr (s.tag g) 0 = chip) (hclass : tagClass (s.tag g) < 2) (hdata : data ≠ [])
    (hstate : tagState (s.tag g) = 2 ∨ tagState (s.tag g) = 4) (epoch : Nat) :
    s.putBack g chip epoch data = (s.writtenBack g chip data).setTag g (tagSet (writtenTag (s.tag g)) 9 8 epoch) := by
  have h3 : tagClass (s.tag g) ≠ 3 := by omega
  have hne : tagState (s.tag g) ≠ 3 := by omega
  have hmem : tagState (s.tag g) ∈ [2, 3, 4] := by rcases hstate with h | h <;> simp [h]
  simp [State.putBack, hptr, h3, Nat.not_le.mpr hclass, hmem, hdata, hne, State.writtenBack]

/-- A writeback of the owner of a grain in O leaves it to the remaining sharers. -/
theorem State.putBack_of_shared_owner (hptr : tagPtr (s.tag g) 0 = chip) (hclass : tagClass (s.tag g) < 2) (hdata : data ≠ [])
    (hstate : tagState (s.tag g) = 3) (hsharers : s.sharers (s.tag g) 1 ≠ []) (epoch : Nat) :
    s.putBack g chip epoch data = (s.writtenBack g chip data).setTag g
      (tagSet (s.withSharers (tagSetState (s.tag g) 1) (s.sharers (s.tag g) 1)) 9 8 epoch) := by
  have h3 : tagClass (s.tag g) ≠ 3 := by omega
  have hs := State.sharers_congr (s.writtenBack_cfg (g := g) (chip := chip) (data := data)) (s.tag g) 1
  have hw := State.withSharers_congr (s.writtenBack_cfg (g := g) (chip := chip) (data := data)) (tagSetState (s.tag g) 1)
    (s.sharers (s.tag g) 1)
  unfold State.writtenBack at hs hw
  simp [State.putBack, hptr, h3, Nat.not_le.mpr hclass, hdata, hstate, hsharers, State.writtenBack, hs, hw]

end

/-- An acknowledgement that is not the last leaves the transaction waiting for the others. -/
theorem execCoherenceAck_of_awaiting {s : State} {chip pa : Nat} {dirty : Bool} {x : Txn} (hx : s.txns.find? (grainOf pa) = some x)
    (h : x.acks.erase chip ≠ []) : execCoherenceAck chip pa dirty s = .next (State.pump { s with
      txns := s.txns.insert (grainOf pa) { x with acks := x.acks.erase chip, dirty := x.dirty || dirty
                                                  data := x.data && !(decide (3 ≤ x.reply) && !dirty) } }) := by
  simp [execCoherenceAck, hx, State.finishTxn, h]

end Sys2Proof.Machine
end

section
namespace Sys2Proof

open Sys2Proof.Machine

/-- Settles O49: each message by the way that its request takes at the home. -/
theorem homeProtocolEventResults : Obligations.HomeProtocolEventResults := by
  unfold Obligations.HomeProtocolEventResults
  intro s chip epoch pa leaf data a ask g u t unlocked free idle granted shared cs owned joined
  have hgets (h : epoch ≤ s.epoch) : exec (.gets chip epoch ask) s = .next (s.homeRequest g (asked chip epoch leaf false)).pump :=
    execGets_of_epoch h chip pa leaf
  have hgetm (h : epoch ≤ s.epoch) : exec (.getm chip epoch ask) s = .next (s.homeRequest g (asked chip epoch leaf true)).pump :=
    execGetm_of_epoch h chip pa leaf
  have hfree (h : free) : s.Free g chip ∧ epoch ≤ s.epoch := by
    obtain ⟨hengine, ⟨htxn, hstore⟩, hops, hsteady, hepoch, hother⟩ := h
    exact ⟨⟨hengine, State.grainBusy_eq_false htxn hstore, hops, hsteady, hother⟩, hepoch⟩
  have hquiet (h : unlocked) : s.grainBusy g = false := State.grainBusy_eq_false h.1 h.2
  refine ⟨fun h => ⟨execGets_of_newer h chip ask, execGetm_of_newer h chip ask⟩, ?disagrees, ?chipReach, ?hostHeld, ?unowned, ?shared,
    ?busy, ?other, ?soleOwner, ?sharedOwner, fun x dirty => execCoherenceAck_of_awaiting⟩
  case disagrees =>
    intro h hleaf
    obtain ⟨hf, hepoch⟩ := hfree h
    rw [hgets hepoch, hgetm hepoch, State.homeRequest_of_disagrees (r := asked chip epoch leaf false) hf rfl hleaf,
      State.homeRequest_of_disagrees (r := asked chip epoch leaf true) hf rfl hleaf]
    exact ⟨rfl, rfl⟩
  case chipReach =>
    intro h hleaf hclass hreach
    obtain ⟨hf, hepoch⟩ := hfree h
    rw [hgets hepoch, State.homeRequest_of_chipReach (r := asked chip epoch leaf false) hf rfl rfl hleaf hclass hreach]
    rfl
  case hostHeld =>
    rintro ⟨h, hleaf, hclass, hreach⟩ hhost
    obtain ⟨hf, hepoch⟩ := hfree h
    refine ⟨?_, fun hstate => ?_⟩
    · rw [hgetm hepoch, State.homeRequest_of_hostHeld (r := asked chip epoch leaf true) hf rfl hleaf hclass rfl hhost]
      rfl
    · rw [hgets hepoch, State.homeRequest_of_hostHeld (r := asked chip epoch leaf false) hf rfl hleaf hclass (beq_iff_eq.mpr hstate) hhost]
      rfl
  case unowned =>
    rintro ⟨h, hleaf, hclass, hreach⟩ hhost hstate
    obtain ⟨hf, hepoch⟩ := hfree h
    have hgrants (m : Bool) : (m || tagState t == 0) = true := by simp [hstate]
    have hserve (m : Bool) : s.homeRequest g (asked chip epoch leaf m) = (granted.setTag g (owned t (if m then 4 else 2))).sendData chip g
        (owned t (if m then 4 else 2)) := by
      rw [State.homeRequest_of_grant (r := asked chip epoch leaf m) hf rfl hleaf hclass (hgrants m) (Bool.eq_false_iff.mpr hhost)]
      exact State.homeServe_of_unowned (State.Free.serves (r := asked chip epoch leaf m) hf).hostUsed hleaf hreach hclass hstate
    rw [hgets hepoch, hgetm hepoch, hserve, hserve]
    exact ⟨rfl, rfl⟩
  case shared =>
    rintro ⟨h, hleaf, hclass, hreach⟩ hstate
    obtain ⟨hf, hepoch⟩ := hfree h
    have hadopt : s.adoptAs g leaf chip = s := State.adoptAs_of_shared hstate
    have ht : t = s.tag g := congrArg (·.tag g) hadopt
    clear_value t
    subst ht
    refine ⟨?_, fun e up hhost hup => ?_⟩
    · have hserves : s.Serves g (asked chip epoch leaf false) := ⟨hf.engine, hf.other, hadopt⟩
      have htag : (s.adoptAs g leaf chip).tag g = s.tag g := congrArg (·.tag g) hadopt
      rw [hgets hepoch,
        State.homeRequest_of_no_grant (r := asked chip epoch leaf false) hf rfl (htag.symm ▸ hleaf) (htag.symm ▸ hclass)
          (by simp [asked, htag, hstate])]
      change Host.Outcome.next ((s.adoptAs g leaf chip).homeServe g (asked chip epoch leaf false)).pump = _
      rw [hadopt, State.homeServe_of_shared_getS hserves hleaf hreach hclass hstate rfl]
      rfl
    · have hheld : s.hostMayHold g = false := (congrArg (·.hostMayHold g) hadopt).symm.trans (Bool.eq_false_iff.mpr hhost)
      rcases hup with ⟨rfl, rfl⟩ | ⟨rfl, rfl⟩
      · change exec (.getm chip e ask) s = _
        rw [hgetm hepoch, State.homeRequest_getM_of_shared (r := asked chip e leaf true) hf rfl rfl hadopt hleaf hclass hreach hstate hheld]
        rfl
      · have hassigned : tagFree (s.tag g) = false := tagFree_eq_false_of_tagState (by omega)
        change exec (.upgrade chip a) s = _
        rw [exec_upgrade, execUpgrade_eq, State.homeRequest_getM_of_shared (r := upgradeOf s chip g) hf rfl rfl
          (State.adoptAs_of_assigned hassigned _ _) (leafAgrees_own _) hclass hreach hstate hheld]
        rfl
  case busy =>
    intro hepoch hbusy
    have hb : s.grainBusy g = true := by simp [State.grainBusy, hbusy]
    rw [hgets hepoch, State.homeRequest_of_busy hb, State.queueReq_of_new s g rfl]
    rfl
  case other =>
    intro h hptr
    rw [exec_putm, exec_puto, execPutm_eq, execPuto_eq, State.homeRequest_writeback (hquiet h), State.putBack_of_other hptr]
    exact ⟨rfl, rfl⟩
  case soleOwner =>
    intro h hptr hclass hdata hstate
    rw [exec_putm, execPutm_eq, State.homeRequest_writeback (hquiet h), State.putBack_of_sole_owner hptr hclass hdata hstate]
    rfl
  case sharedOwner =>
    intro h hptr hclass hdata hstate hsharers
    rw [exec_puto, execPuto_eq, State.homeRequest_writeback (hquiet h), State.putBack_of_shared_owner hptr hclass hdata hstate hsharers]
    rfl

end Sys2Proof
end

section
/-!
PROOF. What this module holds and answers with (R225, R228 to R231, R252, R254, R417): its copies under a Forward, an Invalidate, arriving
data and a snoop of the host, the clocks of its clusters, and a grain that an engine gives up.
-/

namespace Sys2Proof.Machine

set_option Elab.async false

/-! ### Forwards (R225, R230) -/

/-- Whether a copy is dirty. -/
def HeldState.dirty (h : HeldState) : Bool := h == .m || h == .o

section
variable {s : State} {chip epoch pa : Nat} {excl : Bool}

/-- A grain's data that is on its way is waited for. -/
theorem execForward_of_onItsWay (he : epoch ≤ s.epoch) (hway : s.onItsWay (grainOf pa) = true) :
    execForward chip epoch pa excl s = .next (State.pump { s with remoteOps := s.remoteOps ++
      [{ chip := chip, cluster := 0, kind := if excl then .forwardM else .forwardS, pa := pa, leaf := 0, epoch := epoch, arg := 0, data := []
         since := s.clock }] }) := by
  simp only [execForward, State.atEpoch, Nat.not_lt.mpr he, hway, if_false, if_true]

theorem execForward_of_arrived (he : epoch ≤ s.epoch) (hway : s.onItsWay (grainOf pa) = false) :
    execForward chip epoch pa excl s = .next (s.forwardGrain chip pa excl).pump := by
  simp only [execForward, State.atEpoch, Nat.not_lt.mpr he, hway, if_false, Bool.false_eq_true]

theorem State.recall_of_no_engine {g : Nat} (h : s.engineOf g = none) : s.recall g = s := by
  simp only [State.recall, h]

theorem State.forwardGrain_of_not_held (hengine : s.engineOf (grainOf pa) = none)
    (h : (s.clean (grainOf pa)).held.find? (grainOf pa) = none) :
    s.forwardGrain chip pa excl = (s.clean (grainOf pa)).sendMsg (chipOf pa) .ackClean (grainOf pa) := by
  simp only [State.forwardGrain, State.recall_of_no_engine hengine, h]

/-- The data goes to the requester, and the home learns whether the copy was dirty. -/
def State.forwarded (v : State) (chip pa : Nat) (h : HeldState) : State :=
  (v.sendData chip (grainOf pa) (v.tag (grainOf pa))).sendMsg (chipOf pa) (if h.dirty then .ackDirty else .ackClean) (grainOf pa)

theorem State.forwarded_held (v : State) (h : HeldState) : (v.forwarded chip pa h).held = v.held := rfl

theorem State.forwardGrain_of_held {h : HeldState} (hengine : s.engineOf (grainOf pa) = none)
    (hheld : (s.clean (grainOf pa)).held.find? (grainOf pa) = some h) :
    s.forwardGrain chip pa excl =
      let u := (s.clean (grainOf pa)).forwarded chip pa h
      if excl then u.surrender (grainOf pa)
      else { u with held := (s.clean (grainOf pa)).held.insert (grainOf pa) (if h.dirty then .o else .s) } := by
  rw [← State.forwarded_held (chip := chip) (pa := pa) (s.clean (grainOf pa)) h]
  simp only [State.forwardGrain, State.recall_of_no_engine hengine, hheld]
  rfl

end

/-! ### Invalidations (R225, R230) -/

theorem foldl_max_ge (f : Nat → Nat) (l : List Nat) (n : Nat) : n ≤ l.foldl (fun n i => max n (f i)) n := by
  induction l generalizing n with
  | nil => exact le_rfl
  | cons i l ih => exact (le_max_left _ _).trans (ih _)

theorem foldl_max_ge_of_mem (f : Nat → Nat) {l : List Nat} {i : Nat} (h : i ∈ l) (n : Nat) : f i ≤ l.foldl (fun n i => max n (f i)) n := by
  induction l generalizing n with
  | nil => cases h
  | cons j l ih =>
    rcases List.mem_cons.mp h with rfl | h
    · exact (le_max_right _ _).trans (foldl_max_ge f l _)
    · exact ih h _

theorem State.floor_le_passFloor (s : State) (g : Nat) : s.floor ≤ (s.passFloor g).floor :=
  foldl_max_ge (fun i => (s.sector (g * 512 + 128 * i)).rts + 1) _ _

/-- The floor passes the leases on every sector of the grain. -/
theorem State.rts_lt_passFloor (s : State) (g : Nat) {i : Nat} (h : i < 4) :
    (s.sector (g * 512 + 128 * i)).rts < (s.passFloor g).floor :=
  foldl_max_ge_of_mem (fun i => (s.sector (g * 512 + 128 * i)).rts + 1) (List.mem_range.mpr h) _

/-- A surrendered grain leaves no copy, no tag and no byte, and nothing else of the memory goes. -/
theorem State.surrender_gone {s : State} {g : Nat} (h : s.engineOf g = none) :
    (s.surrender g).held.find? g = none ∧ (s.surrender g).tag g = 0 ∧ (∀ a, a / 512 = g → ∀ b, (a, b) ∉ (s.surrender g).mem) ∧
      (∀ c ∈ s.mem, c.1 / 512 ≠ g → c ∈ (s.surrender g).mem) ∧ s.floor ≤ (s.surrender g).floor ∧
      ∀ i, i < 4 → (s.sector (g * 512 + 128 * i)).rts < (s.surrender g).floor := by
  rw [State.surrender, State.recall_of_no_engine h]
  refine ⟨SMap.find?_erase_same _ _, ?_, ?_, ?_, s.floor_le_passFloor g, fun i hi => s.rts_lt_passFloor g hi⟩
  · simp [State.tag, State.unhold, SMap.get]
  · intro a ha b hb
    simpa [ha] using (List.mem_filter.mp hb).2
  · exact fun c hc hne => List.mem_filter.mpr ⟨hc, bne_iff_ne.mpr hne⟩

theorem State.surrender_accesses (s : State) (g : Nat) : (s.surrender g).accesses = s.accesses := by
  obtain ⟨_, _, e⟩ := s.recall_frame g
  rw [State.surrender, e]
  rfl

/-- What an Invalidate does to a copy, or to one on its way. -/
def State.invalidated (s : State) (g : Nat) : State :=
  if (s.held.find? g).isSome then s.surrender g
  else if s.onItsWay g then { s with overtaken := g :: s.overtaken.filter (· != g) } else s

theorem State.invalidated_accesses (s : State) (g : Nat) : (s.invalidated g).accesses = s.accesses := by
  unfold State.invalidated
  split
  · exact s.surrender_accesses g
  · split <;> rfl

theorem execInvalidate_of_no_waits {s : State} {pa : Nat} (h : ∀ a ∈ s.accesses, grainOf a.pa ≠ grainOf pa) :
    execInvalidate pa s = .next ((s.invalidated (grainOf pa)).sendMsg (chipOf pa) .ack (grainOf pa)).pump := by
  have hwaits : ((s.invalidated (grainOf pa)).sendMsg (chipOf pa) .ack (grainOf pa)).accesses.filter
      (fun a => a.isAwait && grainOf a.pa == grainOf pa) = [] := by
    refine List.filter_eq_nil_iff.mpr fun a ha => ?_
    have hne := h a ((s.invalidated_accesses (grainOf pa)) ▸ ha)
    simp [hne]
  unfold execInvalidate
  change Host.Outcome.next (State.pump
    (List.foldl _ _ (((s.invalidated (grainOf pa)).sendMsg (chipOf pa) .ack (grainOf pa)).accesses.filter _))) = _
  rw [hwaits]
  rfl

/-! ### Arriving data (R226) -/

theorem chipOf_grain (pa : Nat) : chipOf (grainOf pa * 512) = chipOf pa := by
  simp only [chipOf, grainOf, bits]
  omega

/-- How a grain is held whose data has come for a request of it, private grains apart. -/
theorem State.heldAs_of_not_private {s : State} {tag : BitVec 64} (h : tagClass tag ≠ 3) (chip pa : Nat) (getM : Bool) :
    s.heldAs chip (grainOf pa) tag getM =
      if chip ≠ chipOf pa then if getM = true then .m else .s
      else if tagState tag = 2 ∧ tagPtr tag 0 = s.chip then .e else if tagState tag = 4 ∧ tagPtr tag 0 = s.chip then .m
      else if (tagState tag = 1 ∨ tagState tag = 3 ∨ tagState tag = 7) ∧ s.chip ∈ s.sharers tag 0 then .s else .u := by
  unfold State.heldAs
  simp only [chipOf_grain, beq_iff_eq, h, if_false, bne_iff_ne]
  split
  · rfl
  · split <;> simp_all

/-- The grain asked for has come: nothing is asked for or overtaken any more. -/
def State.came (s : State) (g : Nat) : State :=
  { s with requested := s.requested.erase g, overtaken := s.overtaken.filter (· != g) }

/-- The L2 takes a grain's bytes, its tag and the state it is held in. -/
def State.takeGrain (s : State) (g : Nat) (tag : BitVec 64) (data : List Byte) (kept : HeldState) : State :=
  { s.putMem (g * 512) (data.take 512) with tags := s.tags.put g tag 0, held := s.held.insert g kept }

theorem State.takeGrain_stampGrain (s : State) (g : Nat) (tag : BitVec 64) (data : List Byte) (kept : HeldState) :
    (s.stampGrain g).takeGrain g tag data kept =
      { (s.stampGrain g).putMem (g * 512) (data.take 512) with tags := s.tags.put g tag 0, held := s.held.insert g kept } := by
  obtain ⟨sec, fl, e⟩ := s.stampGrain_frame g
  rw [e]
  rfl

section
variable {s : State} {chip epoch pa : Nat} {tag : BitVec 64} {data : List Byte}

theorem execGrainData_of_request (he : epoch ≤ s.epoch) (hhome : chipOf pa ≠ s.chip) (hasked : (s.requested.find? (grainOf pa)).isSome = true)
    (hlock : tagLock tag = false) (hclass : tagClass tag ≠ 3) (hroom : s.held.length < s.l2Grains) :
    execGrainData chip epoch pa tag data s =
      let kept := s.heldAs chip (grainOf pa) tag (s.requested.get (grainOf pa) false)
      if kept = .s ∧ grainOf pa ∈ s.overtaken then .next (s.came (grainOf pa)).pump
      else .next (((s.came (grainOf pa)).stampGrain (grainOf pa)).takeGrain (grainOf pa) tag data kept).pump := by
  have hmake : (s.came (grainOf pa)).makeRoom = s.came (grainOf pa) := if_pos hroom
  have hsome : (s.requested.find? (grainOf pa)).isNone = false := by
    rw [← Option.not_isSome, hasked]
    rfl
  have hnot : (chipOf pa == s.chip) = false := beq_eq_false_iff_ne.mpr hhome
  have hpub : (tagClass tag == 3) = false := beq_eq_false_iff_ne.mpr hclass
  unfold execGrainData State.atEpoch
  simp only [Nat.not_lt.mpr he, if_false, hnot, Bool.false_eq_true, hlock, hpub, Bool.false_and, hsome]
  by_cases hlate : s.heldAs chip (grainOf pa) tag (s.requested.get (grainOf pa) false) = .s ∧ grainOf pa ∈ s.overtaken
  · rw [if_pos hlate, if_pos (by simpa using hlate)]
    rfl
  · rw [if_neg hlate, if_neg (by simpa using hlate)]
    change Host.Outcome.next (((s.came (grainOf pa)).makeRoom.stampGrain (grainOf pa)).takeGrain (grainOf pa) tag data _).pump = _
    rw [hmake]

end

/-! ### The clocks (R228, R229, R231) -/

theorem SMap.find?_map {α β : Type} (m : SMap α) (f : α → β) (k : Nat) :
    SMap.find? (m.map fun p => (p.1, f p.2)) k = (m.find? k).map f := by
  induction m with
  | nil => rfl
  | cons p m ih =>
    obtain ⟨i, a⟩ := p
    by_cases h : i = k
    · simp [SMap.find?, h]
    · simpa [SMap.find?, h] using ih

theorem State.ltsOf_advanceLts (s : State) (n q : Nat) : (s.advanceLts n).ltsOf q = s.ltsOf q + n := by
  unfold State.ltsOf State.advanceLts SMap.get
  rw [SMap.find?_map s.lts (· + n)]
  cases s.lts.find? q <;> rfl

/-- A module all of whose clocks start again in the other era, its lines of leased sectors gone and its threads having read nothing. -/
structure State.Rebased (s t : State) : Prop where
  era : t.era = !s.era
  floor : t.floor = 0
  mem : t.mem = s.mem
  clocks : ∀ q, t.ltsOf q = 1
  lines : ∀ l ∈ t.lines, l.2.free = true
  threads : ∀ p ∈ t.groups, ∀ x ∈ p.2.threads, x.seen = 0

theorem execModuleRebase_of_due {s : State} (hdue : s.rebaseDue = true) (hgrains : s.engineGrains = []) (hacc : s.accesses = []) :
    ∃ t, execModuleRebase s = .next t ∧ s.Rebased t := by
  unfold execModuleRebase
  simp only [hdue, hgrains, List.foldl_nil, Bool.not_true, Bool.false_eq_true, if_false]
  refine ⟨_, congrArg Host.Outcome.next (State.settle_of_no_accesses hacc), rfl, rfl, rfl, fun q => rfl, ?_, ?_⟩
  · exact fun l hl => (List.mem_filter.mp hl).2
  · intro p hp x hx
    obtain ⟨p', -, rfl⟩ := List.mem_map.mp hp
    obtain ⟨x', -, rfl⟩ := List.mem_map.mp hx
    rfl

/-! ### A grain that an engine gives up (R252, R254) -/

/-- Stamps set one after another in a state's own era. -/
theorem State.foldl_setSector_era (s : State) (grain w : Nat) (l : List Nat) : ∀ u : State, u.era = s.era →
    l.foldl (fun (u : State) i => u.setSector (grain * 512 + 128 * i) { wts := w, rts := w, era := u.era }) u =
      l.foldl (fun (u : State) i => u.setSector (grain * 512 + 128 * i) { wts := w, rts := w, era := s.era }) u := by
  induction l with
  | nil => exact fun _ _ => rfl
  | cons i l ih =>
    intro u hu
    rw [List.foldl_cons, List.foldl_cons, hu]
    exact ih _ hu

theorem State.engineSurrender_of_not_held {s : State} {q grain : Nat} (h : s.engineGrains.find? (engineKey q grain) = none) :
    s.engineSurrender q grain = s := by
  simp only [State.engineSurrender, h]

theorem State.engineSurrender_of_held {s : State} {q grain : Nat} {e : EngineGrain}
    (h : s.engineGrains.find? (engineKey q grain) = some e) :
    s.engineSurrender q grain = (List.range 4).foldl
      (fun (u : State) i => u.setSector (grain * 512 + 128 * i) { wts := e.stamp, rts := e.stamp, era := s.era })
      { s with engineGrains := s.engineGrains.erase (engineKey q grain) } := by
  simp only [State.engineSurrender, h]
  exact State.foldl_setSector_era s grain e.stamp (List.range 4) { s with engineGrains := s.engineGrains.erase (engineKey q grain) } rfl

/-! ### The host's lines (R417) -/

theorem execHostSnoop_of_not_held {s : State} {hpa : Nat} (h : s.hostLines.find? (hpa / 64) = none) : execHostSnoop hpa s = .next s := by
  simp [execHostSnoop, h]

theorem State.hostDrop_of_no_waits {s : State} {line : Nat} {l : List Byte} (h : s.hostLines.find? line = some l)
    (hwaits : ∀ a ∈ s.accesses, pteHost a.pte = true → a.pa / 64 ≠ line) :
    s.hostDrop line = State.send { s with hostLines := s.hostLines.erase line } (.hostWrite 0 (line * 64) l false) := by
  have hmap : (s.accesses.map fun a => if a.isAwait && pteHost a.pte && a.pa / 64 == line then { a with sent := false } else a) = s.accesses := by
    refine (List.map_congr_left fun a ha => if_neg ?_).trans (List.map_id _)
    cases hp : pteHost a.pte
    · simp
    · simp [hwaits a ha hp]
  unfold State.hostDrop
  rw [h]
  exact congrArg (fun accesses : List Access =>
    ({ State.send { s with hostLines := s.hostLines.erase line } (.hostWrite 0 (line * 64) l false) with accesses := accesses } : State)) hmap

theorem execHostSnoop_of_held {s : State} {hpa : Nat} {l : List Byte} (h : s.hostLines.find? (hpa / 64) = some l)
    (hwaits : ∀ a ∈ s.accesses, pteHost a.pte = true → a.pa / 64 ≠ hpa / 64) :
    execHostSnoop hpa s =
      .next (State.send { s with hostLines := s.hostLines.erase (hpa / 64) } (.hostWrite 0 (hpa / 64 * 64) l false)) := by
  have hnone : (s.accesses.filter fun a => a.isAwait && pteHost a.pte && a.pa / 64 == hpa / 64) = [] := by
    refine List.filter_eq_nil_iff.mpr fun a ha => ?_
    cases hp : pteHost a.pte
    · simp
    · simp [hwaits a ha hp]
  simp only [execHostSnoop, h, hnone, Option.isSome_some, if_true, List.map_nil, List.foldl_nil, State.hostDrop_of_no_waits h hwaits]

end Sys2Proof.Machine
end

section
namespace Sys2Proof

open Sys2Proof.Machine

/-- Settles O50: each event by the lemma that says what it leaves of this module's copies, clocks, engines' grains or lines. -/
theorem holderAndLeaseEventResults : Obligations.HolderAndLeaseEventResults := by
  unfold Obligations.HolderAndLeaseEventResults
  intro s chip epoch pa tag data excl g dirty v
  refine ⟨?onItsWay, ?notHeld, ?held, ?invalidate, ?grainData, ?advance, fun h => if_pos (by simp [h]), ?rebase, ?surrender,
    execHostSnoop_of_not_held, fun l => execHostSnoop_of_held⟩
  case onItsWay =>
    intro he hheld hasked
    exact execForward_of_onItsWay he (by simp [State.onItsWay, g, hheld, hasked])
  case notHeld =>
    intro he hengine hheld hasked hv
    rw [exec_forward, execForward_of_arrived he (by simp [State.onItsWay, g, hasked]), State.forwardGrain_of_not_held hengine hv]
  case held =>
    intro h he hengine hheld hv
    have hway : s.onItsWay g = false := by simp [State.onItsWay, ← Option.not_isSome, hheld]
    rw [exec_forward, exec_forward, execForward_of_arrived he hway, execForward_of_arrived he hway, State.forwardGrain_of_held hengine hv,
      State.forwardGrain_of_held hengine hv]
    exact ⟨rfl, rfl⟩
  case invalidate =>
    intro hwaits
    rw [exec_invalidate, execInvalidate_of_no_waits hwaits, State.invalidated]
    refine ⟨fun hheld hasked => ?_, fun hheld hasked => ?_, fun hheld hengine => ⟨s.surrender g, ?_, State.surrender_gone hengine⟩⟩
    · simp only [State.onItsWay, g, hheld, hasked]
      rfl
    · simp only [State.onItsWay, g, hheld, hasked]
      rfl
    · rw [if_pos hheld]
  case grainData =>
    intro he hhome hasked hlock hclass hroom mine kept came
    have hkept : s.heldAs chip g tag (s.requested.get g false) = kept := State.heldAs_of_not_private hclass chip pa _
    have hdata := execGrainData_of_request (chip := chip) (data := data) he hhome hasked hlock hclass hroom
    dsimp only at hdata
    rw [exec_grainData, hdata, hkept, State.takeGrain_stampGrain]
    refine ⟨fun hs hover => if_pos ⟨hs, hover⟩, fun hne => if_neg ?_⟩
    rintro ⟨hs, hover⟩
    exact hne.elim (· hs) (· hover)
  case advance =>
    exact ⟨s.advanceLts 1, rfl, s.ltsOf_advanceLts 1, rfl, rfl, rfl⟩
  case rebase =>
    intro hdue hgrains hacc
    obtain ⟨t, ht, hera, hfloor, hmem, hclocks, hlines, hthreads⟩ := execModuleRebase_of_due hdue hgrains hacc
    exact ⟨t, ht, hera, hfloor, hmem, hclocks, hlines, hthreads⟩
  case surrender =>
    intro q grain
    rw [exec_atomicGrainRecall, execAtomicGrainRecall]
    split
    · rename_i h
      rw [State.engineSurrender_of_not_held h]
    · rename_i e h
      rw [State.engineSurrender_of_held h]

end Sys2Proof
end

section
/-!
PROOF. The atomic units and the waits (R252 to R255, R262 to R264) and the completions of the host (R417, R418): which access an event
tries, and what the end of a wait, a limit that runs out and a completion do to it.
-/

namespace Sys2Proof.Machine

set_option Elab.async false

/-! ### The first operation of a unit -/

theorem foldl_earliest_of_after {α : Type} (r : α → List Nat) (a : α) (after : List α)
    (h : ∀ b ∈ after, rankBefore (r b) (r a) = false) :
    after.foldl (fun m b => if rankBefore (r b) (r m) then b else m) a = a := by
  induction after with
  | nil => rfl
  | cons b after ih =>
    rw [List.foldl_cons, if_neg (by simp [h b List.mem_cons_self])]
    exact ih fun c hc => h c (List.mem_cons_of_mem b hc)

/-- Keeping the earlier of two, and of two of one place the first: what all before it follow and none after it precedes is kept. -/
theorem foldl_earliest {α : Type} (r : α → List Nat) (a m : α) (before after : List α) (hm : rankBefore (r a) (r m) = true)
    (hbefore : ∀ b ∈ before, rankBefore (r a) (r b) = true) (hafter : ∀ b ∈ after, rankBefore (r b) (r a) = false) :
    (before ++ a :: after).foldl (fun m b => if rankBefore (r b) (r m) then b else m) m = a := by
  induction before generalizing m with
  | nil =>
    rw [List.nil_append, List.foldl_cons, if_pos hm]
    exact foldl_earliest_of_after r a after hafter
  | cons b before ih =>
    rw [List.cons_append, List.foldl_cons]
    refine ih _ ?_ fun c hc => hbefore c (List.mem_cons_of_mem b hc)
    split
    · exact hbefore b List.mem_cons_self
    · exact hm

/-- The atomics that a unit may try. -/
def State.readyAtomics (s : State) (p : Access → Bool) : List Access :=
  s.accesses.filter fun a => p a && !s.eager a && a.writes && !s.orderHeld a

theorem State.firstAtomic_of_none {s : State} {p : Access → Bool} (tick : Nat) (h : s.readyAtomics p = []) :
    s.firstAtomic tick p = s := by
  unfold State.readyAtomics at h
  simp only [State.firstAtomic, h]

theorem State.firstAtomic_of_first {s : State} {p : Access → Bool} {tick : Nat} {a : Access} {before after : List Access}
    (h : s.readyAtomics p = before ++ a :: after) (hbefore : ∀ b ∈ before, rankBefore (s.atomRank tick a) (s.atomRank tick b) = true)
    (hafter : ∀ b ∈ after, rankBefore (s.atomRank tick b) (s.atomRank tick a) = false) :
    s.firstAtomic tick p = s.tryAccess a.id := by
  unfold State.readyAtomics at h
  cases before with
  | nil =>
    simp only [State.firstAtomic, h, List.nil_append]
    rw [foldl_earliest_of_after (s.atomRank tick) a after hafter]
  | cons b before =>
    simp only [State.firstAtomic, h, List.cons_append]
    rw [foldl_earliest (s.atomRank tick) a b before after (hbefore b List.mem_cons_self)
      (fun c hc => hbefore c (List.mem_cons_of_mem b hc)) hafter]

/-- With no operation of another chip waiting, a slice takes the first of this chip's. -/
theorem execHomeSliceAtomic_of_no_ops {s : State} (h : s.remoteOps = []) (grain : Nat) : execHomeSliceAtomic grain s =
    .next (s.firstAtomic 1 fun a => grainOf a.pa == grain && s.atomUnit a.pa a.pte a.scope == .slice).settle := by
  simp [execHomeSliceAtomic, h, firstOp]

/-! ### Waits -/

theorem State.tryAccess_of_done {s u : State} {a : Access} {id w : Nat} {d : List Byte}
    (hfind : s.accesses.find? (fun a => a.id == id) = some a) (hheld : s.orderHeld a = false) (hstale : a.stale = false)
    (hdone : s.attempt a = .done u d w) : s.tryAccess id = u.completeAccess a d w := by
  simp [State.tryAccess, hfind, hheld, hstale, hdone]

theorem State.acquireRead_frame (s : State) (a : Access) (w : Nat) : ∃ lts, s.acquireRead a w = { s with lts := lts } := by
  unfold State.acquireRead
  split
  · exact s.acquire_frame _ _ w
  · split
    · exact s.acquire_frame _ _ w
    · exact ⟨s.lts, rfl⟩

theorem State.fenceWrite_frame (s : State) (a : Access) : ∃ lines, s.fenceWrite a = { s with lines := lines } := by
  unfold State.fenceWrite
  split
  · exact ⟨_, rfl⟩
  · exact ⟨s.lines, rfl⟩

@[simp] theorem Thread.endWait_seen (t : Thread) (p : Wait → Bool) : (t.endWait p).seen = t.seen := by
  unfold Thread.endWait
  split <;> rfl

/-- The end of a wait in the thread of a lane, which records the stamp of what it has read. -/
def Group.awaited (g : Group) (lane id w : Nat) : Group :=
  (g.modThreads (Lanes.of (· == lane)) fun _ t => { t with seen := max t.seen w }).modThreads (Lanes.of (· == lane)) fun _ t =>
    t.endWait (· == .await id)

theorem Group.thread_awaited {g : Group} {lane : Nat} (h32 : lane < 32) (h : lane < g.threads.length) (id w : Nat) :
    (g.awaited lane id w).thread lane = { g.thread lane with seen := max (g.thread lane).seen w }.endWait (· == Wait.await id) := by
  rw [Group.awaited, Group.thread_modThreads _ _ _ (by simpa using h), Group.thread_modThreads _ _ _ h]
  simp [h32]

theorem State.completeAccess_await {s : State} {a : Access} {sub n c : Nat} (hop : a.op = .await sub n c) (d : List Byte) (w : Nat) :
    (s.completeAccess a d w).groups = s.groups.modify a.gid (Group.awaited · a.lane a.id w) ∧
      (s.completeAccess a d w).accesses = s.accesses.filter fun b => b.id != a.id := by
  unfold State.completeAccess
  extract_lets u v x seen n
  have hv : v.groups = s.groups ∧ v.accesses = s.accesses.filter fun b => b.id != a.id := by
    simp only [v]
    split <;> exact ⟨rfl, rfl⟩
  obtain ⟨lts, hlts⟩ := v.acquireRead_frame a w
  obtain ⟨lines, hlines⟩ := (v.acquireRead a w).fenceWrite_frame a
  have hx : x.groups = s.groups ∧ x.accesses = s.accesses.filter fun b => b.id != a.id := by
    simp only [x, hlines, hlts]
    exact hv
  clear_value x
  simp only [hop, seen, State.modGroup_groups, State.modGroup_accesses, hx, SMap.modify_modify, Group.awaited]
  exact ⟨trivial, trivial⟩

/-- A wait whose test holds ends: its thread goes on, and has seen the stamp of what it read. -/
theorem State.awaited_form {u : State} {a : Access} {sub n c : Nat} {g : Group} (hop : a.op = .await sub n c) (hlane : a.lane < 32)
    (hg : u.groups.find? a.gid = some g) (hlen : g.threads.length = 32) (hst : (g.thread a.lane).status = .blocked [.await a.id])
    (d : List Byte) (w : Nat) :
    let t := (u.completeAccess a d w).form a.gid
    ((t.group a.gid).thread a.lane).status = .ready ∧ ((t.group a.gid).thread a.lane).seen = max (g.thread a.lane).seen w ∧
      t.accesses = u.accesses.filter fun b => b.id != a.id := by
  intro t
  obtain ⟨hgroups, haccesses⟩ := State.completeAccess_await (s := u) hop d w
  have hgroup : (u.completeAccess a d w).group a.gid = g.awaited a.lane a.id w := by
    simp [State.group, SMap.get, hgroups, hg]
  have hform : t.Reforms (u.completeAccess a d w) := State.form_reforms _ _
  rw [(hform.group a.gid).thread a.lane, hgroup, Group.thread_awaited hlane (hlen ▸ hlane), hform.state]
  exact ⟨Thread.endWait_status_of_one hst, Thread.endWait_seen _ _, haccesses⟩

theorem find?_map_of_same {α : Type} {p : α → Bool} {f : α → α} {a : α} {l : List α} (hf : ∀ x, p (f x) = p x)
    (h : l.find? p = some a) : (l.map f).find? p = some (f a) := by
  rw [List.find?_map, show p ∘ f = p from funext hf, h]
  rfl

theorem execAwaitTest_of_parked {s : State} {a : Access} {id : Nat} (hfind : s.accesses.find? (fun a => a.id == id) = some a)
    (h : s.isParked a = true) : execAwaitTest id s = .next ((s.tryAccess id).form a.gid) := by
  simp [execAwaitTest, hfind, h]

/-- The wait of a number is marked as tested now. -/
def State.retested (s : State) (id : Nat) : State :=
  { s with accesses := s.accesses.map fun (x : Access) => if x.id == id then { x with tested := s.clock } else x }

theorem State.retested_find? {s : State} {a : Access} {id : Nat} (h : s.accesses.find? (fun a => a.id == id) = some a) :
    (s.retested id).accesses.find? (fun a => a.id == id) = some { a with tested := s.clock } := by
  have hid : (a.id == id) = true := List.find?_some (p := fun a : Access => a.id == id) h
  have hmap := find?_map_of_same (f := fun x : Access => if x.id == id then { x with tested := s.clock } else x)
    (fun x => by split <;> rfl) h
  rwa [if_pos hid] at hmap

theorem execAwaitRetestTimer_of_due {s : State} {a : Access} {id : Nat} (hfind : s.accesses.find? (fun a => a.id == id) = some a)
    (h : a.tested + 4096 ≤ s.clock) : execAwaitRetestTimer id s = .next (((s.retested id).tryAccess id).form a.gid) := by
  simp [execAwaitRetestTimer, hfind, Nat.not_lt.mpr h, State.retested]

theorem execAwaitRetestTimer_of_early {s : State} {a : Access} {id : Nat} (hfind : s.accesses.find? (fun a => a.id == id) = some a)
    (h : s.clock < a.tested + 4096) : execAwaitRetestTimer id s = .next s := by
  simp [execAwaitRetestTimer, hfind, h]

/-- The slice's test, or the timer's once it is due, of a wait that stands first and whose test holds: the wait ends. -/
theorem answers_awaited {i : Instr} {s v u : State} {a b : Access} {id sub n c w : Nat} {d : List Byte} {g : Group}
    (hfind : s.accesses.find? (fun a => a.id == id) = some a)
    (hi : (i = .awaitTest id ∧ s.isParked a = true ∧ v = s ∧ b = a) ∨
      (i = .awaitRetestTimer id ∧ a.tested + 4096 ≤ s.clock ∧ b = { a with tested := s.clock } ∧ v = s.retested id))
    (hstale : a.stale = false) (hheld : v.orderHeld b = false) (hdone : v.attempt b = .done u d w) (hop : a.op = .await sub n c)
    (hlane : a.lane < 32) (hg : u.groups.find? a.gid = some g) (hlen : g.threads.length = 32)
    (hst : (g.thread a.lane).status = .blocked [.await id]) :
    Answers i s fun t => ((t.group a.gid).thread a.lane).status = .ready ∧
      ((t.group a.gid).thread a.lane).seen = max (g.thread a.lane).seen w ∧ t.accesses = u.accesses.filter fun b => b.id != id := by
  obtain rfl : a.id = id := by simpa using List.find?_some hfind
  rcases hi with ⟨rfl, hparked, rfl, rfl⟩ | ⟨rfl, hdue, rfl, rfl⟩
  · refine ⟨_, execAwaitTest_of_parked hfind hparked, ?_⟩
    rw [State.tryAccess_of_done hfind hheld hstale hdone]
    exact State.awaited_form hop hlane hg hlen hst d w
  · refine ⟨_, execAwaitRetestTimer_of_due hfind hdue, ?_⟩
    rw [State.tryAccess_of_done (State.retested_find? hfind) hheld hstale hdone]
    exact State.awaited_form (a := { a with tested := s.clock }) hop hlane hg hlen hst d w

/-! ### Limits that run out -/

theorem execWsWaitExpiry_of_early {s : State} {a : Access} {id : Nat} (hfind : s.accesses.find? (fun a => a.id == id) = some a)
    (h : s.overdue a = false) : execWsWaitExpiry id s = .next s := by
  simp [execWsWaitExpiry, hfind, h]

theorem execWsWaitExpiry_of_overdue_load {s : State} {a : Access} {id e : Nat} {sx : Bool}
    (hfind : s.accesses.find? (fun a => a.id == id) = some a) (h : s.overdue a = true) (honly : s.accesses = [a])
    (hevent : a.event = some e) (hop : a.op = .load sx) :
    execWsWaitExpiry id s = .next ((({ s with accesses := [] }.modEvent e fun d =>
      d.noHandle.addFault .wsTimeout a.failLanes a.va).accessLanded e).form a.gid) := by
  have hstands : (s.overdue a && (!a.isAwait || s.waitStands a)) = true := by simp [h, Access.isAwait, hop]
  unfold execWsWaitExpiry
  rw [hfind]
  dsimp only
  rw [if_pos hstands, honly]
  simp [h, Access.isAwait, State.refuseAccess, hop, hevent, honly]

theorem execMoveTimeoutExpiry_of_mvwait {s : State} {d : Deferred} {id : Nat} {f : FM} {ls : Lits} {n : List Nat}
    (hd : s.deferred.find? id = some d) (hwait : d.wait = .condition (.mvwait f ls) n) :
    execMoveTimeoutExpiry id s = .next (if d.since + d.limit ≤ s.clock then
      (s.modEvent id fun d => d.addFault .moveTimeout d.bundle 0).land id else s) := by
  simp only [execMoveTimeoutExpiry, hd, hwait]
  split <;> rfl

/-! ### Completions of the host -/

section
variable {s : State} {a : Access} {id : Nat}

theorem execHostAtomicCompletion_ok (h : (s.accesses.find? fun a => a.id == id && a.sent && pteHost a.pte) = some a) (old : Nat) :
    execHostAtomicCompletion id .ok old s = .next (s.completeAccess a (toBytes a.size old) s.readStamp).settle := by
  simp [execHostAtomicCompletion, h, State.linkError]

theorem execHostAtomicCompletion_failed (h : (s.accesses.find? fun a => a.id == id && a.sent && pteHost a.pte) = some a) {st : HostStatus}
    (hok : st ≠ .ok) (hur : st ≠ .ur) (old : Nat) :
    execHostAtomicCompletion id st old s = .next (s.hostErr.refuseAccess a .hostAbort).settle := by
  cases st <;> simp_all [execHostAtomicCompletion, State.linkError]

theorem State.hostErr_cfgAt {n : Nat} (h : n ≠ 0x57) (s : State) (reset : Nat) : s.hostErr.cfgAt n reset = s.cfgAt n reset := by
  rw [State.cfgAt, State.hostErr_cfg, SMap.get_insert_other _ _ _ h]
  rfl

theorem execHostAtomicCompletion_unsupported (h : (s.accesses.find? fun a => a.id == id && a.sent && pteHost a.pte) = some a) (old : Nat) :
    execHostAtomicCompletion id .ur old s = .next ({ s with
      cfg := s.hostErr.cfg.insert 0x52 (BitVec.ofNat 64 (s.cfgAt 0x52 0 ||| 2 ^ s.hostRegion a.pa)) }.refuseAccess a
        .sysAtomicUnsupported).settle := by
  have hregion : s.hostErr.hostRegion a.pa = s.hostRegion a.pa := by
    unfold State.hostRegion
    rw [State.hostErr_cfgAt (by decide)]
  simp only [execHostAtomicCompletion, h, State.linkError, beq_iff_eq, reduceCtorEq, if_false, hregion,
    State.hostErr_cfgAt (n := 0x52) (by decide)]
  rfl

theorem execHostAccessCompletion_of_access (h : (s.accesses.find? fun a => a.id == id && a.sent && pteHost a.pte) = some a)
    (hid : id < snoopId) (st : HostStatus) (data : List Byte) :
    (st ≠ .ok → execHostAccessCompletion id st data s = .next ((s.hostErr.refuseAccess a .hostAbort).form a.gid).settle) ∧
      (s.cxlCache = false → (∃ sx, a.op = .load sx) →
        execHostAccessCompletion id .ok data s = .next (s.completeAccess a (data.take a.size) s.readStamp).settle) := by
  have heng : ¬ engHostId ≤ id := by
    unfold engHostId
    unfold snoopId at hid
    omega
  constructor
  · intro hst
    simp [execHostAccessCompletion, heng, Nat.not_le.mpr hid, h, hst]
  · rintro hcxl ⟨sx, hop⟩
    simp [execHostAccessCompletion, heng, Nat.not_le.mpr hid, h, hcxl, hop]

end

end Sys2Proof.Machine
end

section
namespace Sys2Proof

open Sys2Proof.Machine

/-- Settles O51: each event by the lemma that says which access it tries, ends or refuses. -/
theorem atomicUnitAndWaitEventResults : Obligations.AtomicUnitAndWaitEventResults := by
  unfold Obligations.AtomicUnitAndWaitEventResults
  intro s q grain id a ready rank first at' host
  have hnone : at' = none → execAwaitTest id s = .next s ∧ execAwaitRetestTimer id s = .next s ∧ execWsWaitExpiry id s = .next s := by
    intro h
    simp only [at'] at h
    simp [execAwaitTest, execAwaitRetestTimer, execWsWaitExpiry, h]
  refine ⟨?engineNone, ?engineFirst, ?sliceNone, ?sliceFirst, hnone, execAwaitRetestTimer_of_early, ?awaited,
    execWsWaitExpiry_of_early, ?wsTimeout, fun d f ls n => execMoveTimeoutExpiry_of_mvwait, ?hostAtomic,
    fun h hid data st => execHostAccessCompletion_of_access h hid st data⟩
  case engineNone =>
    intro h
    exact congrArg (fun t : State => Host.Outcome.next t.settle) (State.firstAtomic_of_none 2 h)
  case engineFirst =>
    rintro ⟨before, after, h, hbefore, hafter⟩
    exact congrArg (fun t : State => Host.Outcome.next t.settle) (State.firstAtomic_of_first (tick := 2) h hbefore hafter)
  case sliceNone =>
    intro hops h
    rw [exec_homeSliceAtomic, execHomeSliceAtomic_of_no_ops hops]
    exact congrArg (fun t : State => Host.Outcome.next t.settle) (State.firstAtomic_of_none 1 h)
  case sliceFirst =>
    rintro hops ⟨before, after, h, hbefore, hafter⟩
    rw [exec_homeSliceAtomic, execHomeSliceAtomic_of_no_ops hops]
    exact congrArg (fun t : State => Host.Outcome.next t.settle) (State.firstAtomic_of_first (tick := 1) h hbefore hafter)
  case awaited =>
    rintro i v b u d w g hfind hi hstale hheld hdone ⟨sub, n, c, hop⟩ hlane hg hlen hst
    exact answers_awaited hfind hi hstale hheld hdone hop hlane hg hlen hst
  case wsTimeout =>
    rintro e hfind hdue honly hevent ⟨sx, hop⟩
    exact execWsWaitExpiry_of_overdue_load hfind hdue honly hevent hop
  case hostAtomic =>
    exact fun h old => ⟨execHostAtomicCompletion_ok h old, fun _ hok hur => execHostAtomicCompletion_failed h hok hur old,
      execHostAtomicCompletion_unsupported h old⟩

end Sys2Proof
end

section
/-!
PROOF. Atomics and waits at issue (R249, R257, R262): in a deterministic grid the forms that Table 11·8 does not permit raise DET_ATOMIC;
elsewhere the access of the lanes whose checks pass is held back.
-/

namespace Sys2Proof.Machine

section
variable {s : State} {iss : Issue} {rest : List Issue} (hrun : s.issuing = iss :: rest) (f : FM) (ls : Lits)
include hrun

/-! ### In a deterministic grid (R405, Table 11·8) -/

theorem execAtom_det (hdet : s.detI iss = true) (hne : iss.acting f.ge f.gn f.gk ≠ 0) :
    execAtom f ls s = .next (s.raise iss .detAtomic (iss.acting f.ge f.gn f.gk)) := by
  rw [execAtom, State.withIssue_cons _ hrun]
  exact if_pos (by simpa [hdet] using hne)

theorem execRed_det (hdet : s.detI iss = true) (hne : iss.acting f.ge f.gn f.gk ≠ 0)
    (hform : detPermits true f.sub.toNat f.scope.toNat = false) :
    execRed f ls s = .next (s.raise iss .detAtomic (iss.acting f.ge f.gn f.gk)) := by
  rw [execRed, State.withIssue_cons _ hrun]
  exact if_pos (by simpa [hdet, hform] using hne)

theorem execAwait_det (hdet : s.detI iss = true) (hscope : 2 ≤ f.scope.toNat) :
    execAwait f ls s = .next (s.raise iss .detAtomic iss.lanes) := by
  rw [execAwait, State.withIssue_cons _ hrun]
  exact if_pos (by simp [hdet, hscope])

/-! ### Elsewhere -/

variable (hdet : s.detI iss = false) {va pa : Nat → Nat} {pte : Nat → BitVec 64}
include hdet

theorem execAtom_eq (h : ∀ l, (iss.acting f.ge f.gn f.gk).has l = true →
      s.checkAtom iss f ls (atomSize f.t.toNat) 3 .atom true l = (.ok (va l) (pa l) (pte l), s)) : execAtom f ls s =
    s.finish iss (2 + ls.length) [.act (.atom f ls) iss.idx (iss.acting f.ge f.gn f.gk)
      ((iss.acting f.ge f.gn f.gk).vals fun l => BitVec.ofNat 64 (va l)) ((iss.acting f.ge f.gn f.gk).vals fun l => BitVec.ofNat 64 (pa l))
      ((iss.acting f.ge f.gn f.gk).vals pte) ((List.range 32).flatMap fun l => [(iss.atomRegs f l).headD 0, (iss.atomRegs f l).getD 1 0])] := by
  rw [execAtom, State.withIssue_cons _ hrun]
  dsimp only
  rw [if_neg (by simp [hdet]), State.checkLanes_eq (r := fun l => .ok (va l) (pa l) (pte l)) h]
  exact State.endAccess_ok (fun _ _ => rfl) ..

theorem execRed_eq (h : ∀ l, (iss.acting f.ge f.gn f.gk).has l = true →
      s.checkAtom iss f ls (atomSize f.t.toNat) 3 .red false l = (.ok (va l) (pa l) (pte l), s)) : execRed f ls s =
    s.finish iss (2 + ls.length) [.act (.red f ls) iss.idx (iss.acting f.ge f.gn f.gk)
      ((iss.acting f.ge f.gn f.gk).vals fun l => BitVec.ofNat 64 (va l)) ((iss.acting f.ge f.gn f.gk).vals fun l => BitVec.ofNat 64 (pa l))
      ((iss.acting f.ge f.gn f.gk).vals pte) ((List.range 32).map (iss.atomOperand f ls))] := by
  rw [execRed, State.withIssue_cons _ hrun]
  dsimp only
  rw [if_neg (by simp [hdet]), State.checkLanes_eq (r := fun l => .ok (va l) (pa l) (pte l)) h]
  exact State.endAccess_ok (fun _ _ => rfl) ..

theorem execAwait_eq (h : ∀ l, iss.lanes.has l = true →
      s.checkAtom iss f ls (awaitSize f.t.toNat) 0 (.await (f.sub == 6)) false l = (.ok (va l) (pa l) (pte l), s)) : execAwait f ls s =
    s.finish iss (2 + ls.length) [.act (.await f ls) iss.idx iss.lanes (iss.lanes.vals fun l => BitVec.ofNat 64 (va l))
      (iss.lanes.vals fun l => BitVec.ofNat 64 (pa l)) (iss.lanes.vals pte) ((List.range 32).map (iss.atomOperand f ls))] := by
  rw [execAwait, State.withIssue_cons _ hrun]
  dsimp only
  rw [if_neg (by simp [hdet]), State.checkLanes_eq (r := fun l => .ok (va l) (pa l) (pte l)) h]
  exact State.endAccess_ok (fun _ _ => rfl) ..

end

end Sys2Proof.Machine

namespace Sys2Proof

open Sys2Proof.Machine

/-- Settles O15: outside a deterministic grid the checks of every lane answer from the state as it stands, so the access of all acting
lanes is held back. -/
theorem atomicsAndWaitsHoldBackTheirAccess : Obligations.AtomicsAndWaitsHoldBackTheirAccess := by
  unfold Obligations.AtomicsAndWaitsHoldBackTheirAccess
  rintro s iss f ls ⟨rest, hrun⟩ acts on va pa pte hdet held
  exact ⟨fun h => (exec_atom f ls s).trans (execAtom_eq hrun f ls hdet h), fun h => (exec_red f ls s).trans (execRed_eq hrun f ls hdet h),
    fun h => (exec_await f ls s).trans (execAwait_eq hrun f ls hdet h)⟩

/-- Settles O16: each of the three is refused before any check of its lanes; red in the forms that Table 11·8 does not permit. -/
theorem deterministicGridRefusesAtomics : Obligations.DeterministicGridRefusesAtomics := by
  unfold Obligations.DeterministicGridRefusesAtomics
  rintro s iss f ls ⟨rest, hrun⟩ acts hdet
  refine ⟨fun hne => (exec_atom f ls s).trans (execAtom_det hrun f ls hdet hne),
    fun hne hform => (exec_red f ls s).trans (execRed_det hrun f ls hdet hne ?_),
    fun hscope => (exec_await f ls s).trans (execAwait_det hrun f ls hdet hscope)⟩
  rcases hform with hwide | hsum
  · simp [detPermits, Nat.not_le.mpr hwide]
  · simp [detPermits, hsum]

end Sys2Proof
end

section
/-!
PROOF. An atomic at the home slice of a grain that the host has given up uses that answer up (R415), whether or not the grain is poisoned.
-/

namespace Sys2Proof.Machine

/-- A module that has trained CXL.mem, its first grain poisoned, of class SC and reach SYSTEM, and just given up by the host. -/
def clearedPoison : State :=
  { State.reset with cfg := [(0x50, 2 ^ 11)], tags := [(0, 0x440)], hostClean := [(0, true)] }

/-- A red of a word of that grain. -/
def clearedAdd : Access :=
  { id := 0, gid := 0, lane := 0, core := 0, pc := 0, idx := 0, va := 0, pa := 0, size := 4, pte := 0x100, op := .atomic 0 0 false [1] }

/-- The refusal takes the host's answer with it: the next atomic asks again. -/
theorem hostClean_attempt_clearedAdd : (clearedPoison.attempt clearedAdd).state.hostClean = [] := by
  decide +kernel

end Sys2Proof.Machine

namespace Sys2Proof

open Sys2Proof.Machine

/-- Refutes O53: the statement has the refusal of a poisoned grain change nothing but the adopted tag. At the home slice the host's answer,
that it holds no copy, is used up before the poison is looked at. -/
theorem not_performedAtomicsWriteTheValueOfTheTable : ¬ Obligations.PerformedAtomicsWriteTheValueOfTheTable := by
  unfold Obligations.PerformedAtomicsWriteTheValueOfTheTable
  intro h
  have hat : clearedPoison.atomUnit clearedAdd.pa clearedAdd.pte clearedAdd.scope = .slice := by decide +kernel
  obtain ⟨hrefuses, -⟩ := h clearedPoison clearedAdd 0 0 false [1] (by decide +kernel) rfl rfl (by decide)
    (.inl ⟨hat, by decide +kernel, by decide +kernel⟩) (by decide +kernel) (by decide +kernel) (by decide +kernel)
  have hrefused := hostClean_attempt_clearedAdd
  rw [hrefuses (by decide +kernel)] at hrefused
  exact absurd hrefused (by decide +kernel)

end Sys2Proof
end

section
/-!
PROOF. The clauses in the slots and the groups, which no operation on grains, lines, requests and translations moves (R169 to R177, R225 to
R252).
-/

namespace Sys2Proof.Machine

/-! ### The clauses in the slots and the groups -/

/-- The part of the state that an attempt to perform an access leaves. What a record update leaves of it is proved by `(rfl)`: a lemma that
`simp` rewrites with, where one proved by `rfl` would have it unfold the states. -/
def State.seats (s : State) : List Issue × SMap Group := (s.issuing, s.groups)

theorem State.seats_foldl {β : Type} {f : State → β → State} (h : ∀ s b, (f s b).seats = s.seats) (l : List β) (s : State) :
    (l.foldl f s).seats = s.seats := foldl_leaves State.seats h l s

theorem State.seats_foldl_snd {α β : Type} {f : α × State → β → α × State} (h : ∀ p b, (f p b).2.seats = p.2.seats) (l : List β)
    (p : α × State) : (l.foldl f p).2.seats = p.2.seats := foldl_leaves (fun p : α × State => p.2.seats) h l p

theorem State.seats_ite {c : Prop} [Decidable c] {a b s : State} (ha : a.seats = s.seats) (hb : b.seats = s.seats) :
    (if c then a else b).seats = s.seats := by
  split
  · exact ha
  · exact hb

/-! ### Memory, tags, stamps and lines -/

@[simp] theorem State.seats_setTag (s : State) (g : Nat) (t : BitVec 64) : (s.setTag g t).seats = s.seats := (rfl)
@[simp] theorem State.seats_modTag (s : State) (g : Nat) (f : BitVec 64 → BitVec 64) : (s.modTag g f).seats = s.seats := (rfl)
@[simp] theorem State.seats_setSector (s : State) (pa : Nat) (x : Sector) : (s.setSector pa x).seats = s.seats := (rfl)
@[simp] theorem State.seats_send (s : State) (o : Out) : (s.send o).seats = s.seats := (rfl)
@[simp] theorem State.seats_passFloor (s : State) (g : Nat) : (s.passFloor g).seats = s.seats := (rfl)
@[simp] theorem State.seats_hostUsed (s : State) (g : Nat) : (s.hostUsed g).seats = s.seats := (rfl)
@[simp] theorem State.seats_queueReq (s : State) (g : Nat) (r : HomeReq) : (s.queueReq g r).seats = s.seats := (rfl)
@[simp] theorem State.seats_keepLine (s : State) (q pa : Nat) : (s.keepLine q pa).seats = s.seats := (rfl)
@[simp] theorem State.seats_dropLine (s : State) (q pa : Nat) : (s.dropLine q pa).seats = s.seats := (rfl)
@[simp] theorem State.seats_dropLines (s : State) (p : Nat → Nat → Bool) : (s.dropLines p).seats = s.seats := (rfl)
theorem State.seats_engineGrains (s : State) (m : SMap EngineGrain) : ({ s with engineGrains := m } : State).seats = s.seats := (rfl)
theorem State.seats_recalled (s : State) (l : List Nat) : ({ s with recalled := l } : State).seats = s.seats := (rfl)
@[simp] theorem State.seats_enqueue (s : State) (m : Msg) : (s.enqueue m).seats = s.seats := (rfl)
@[simp] theorem State.seats_sendCoh (s : State) (chip : Nat) (k : CohKind) (pa leaf arg : Nat) (data : List Byte) :
    (s.sendCoh chip k pa leaf arg data).seats = s.seats := s.seats_enqueue _
@[simp] theorem State.seats_sendMsg (s : State) (chip : Nat) (k : CohKind) (g : Nat) : (s.sendMsg chip k g).seats = s.seats :=
  s.seats_sendCoh chip k _ _ _ _
@[simp] theorem State.seats_sendPair (s : State) (chip g : Nat) (t : BitVec 64) (data : List Byte) :
    (s.sendPair chip g t data).seats = s.seats := (State.seats_enqueue _ _).trans (s.seats_enqueue _)
@[simp] theorem State.seats_sendData (s : State) (chip g : Nat) (t : BitVec 64) : (s.sendData chip g t).seats = s.seats :=
  s.seats_sendPair chip g t _
@[simp] theorem State.seats_sendOp (s : State) (a : Access) (k : CohKind) (data : List Byte) : (s.sendOp a k data).seats = s.seats :=
  s.seats_sendCoh _ k _ _ _ data

@[simp] theorem State.seats_preserve (s : State) (g : Nat) : (s.preserve g).seats = s.seats := by
  obtain ⟨⟨_, _, e⟩, -⟩ := s.preserve_frame g
  rw [e]
  rfl

@[simp] theorem State.seats_writeMem (s : State) (pa : Nat) (bs : List Byte) : (s.writeMem pa bs).seats = s.seats := by
  obtain ⟨⟨_, _, e⟩, -⟩ := s.writeMem_frame pa bs
  rw [e]
  rfl

@[simp] theorem State.seats_raiseLts (s : State) (q w : Nat) : (s.raiseLts q w).seats = s.seats := by
  obtain ⟨_, e⟩ := s.raiseLts_frame q w
  rw [e]
  rfl

@[simp] theorem State.seats_acquire (s : State) (q scope w : Nat) : (s.acquire q scope w).seats = s.seats := by
  obtain ⟨_, e⟩ := s.acquire_frame q scope w
  rw [e]
  rfl

@[simp] theorem State.seats_stampWrite (s : State) (q pa : Nat) : (s.stampWrite q pa).2.seats = s.seats := State.seats_raiseLts _ q _

@[simp] theorem State.seats_stampFor (s : State) (a : Access) : (s.stampFor a).2.seats = s.seats := by
  obtain ⟨_, _, e⟩ := s.stampFor_frame a
  rw [e]
  rfl

@[simp] theorem State.seats_takeGrant (s : State) (q g reach : Nat) : (s.takeGrant q g reach).seats = s.seats := by
  obtain ⟨_, _, e⟩ := s.takeGrant_frame q g reach
  rw [e]
  rfl

@[simp] theorem State.seats_markWritten (s : State) (g : Nat) : (s.markWritten g).seats = s.seats := by
  obtain ⟨⟨_, _, e⟩, -⟩ := s.markWritten_frame g
  rw [e]
  rfl

@[simp] theorem State.seats_writeBack (s : State) (key : Nat) : (s.writeBack key).seats = s.seats := by
  obtain ⟨_, _, _, _, e⟩ := s.writeBack_frame key
  rw [e]
  rfl

@[simp] theorem State.seats_clean (s : State) (g : Nat) : (s.clean g).seats = s.seats := by
  obtain ⟨_, _, _, _, e⟩ := s.writeBackAll_frame fun _ pa => grainOf pa == g
  rw [State.clean, e]
  rfl

@[simp] theorem State.seats_refreshLine (s : State) (q pa w : Nat) : (s.refreshLine q pa w).seats = s.seats := by
  obtain ⟨_, e⟩ := s.refreshLine_frame q pa w
  rw [e]
  rfl

@[simp] theorem State.seats_evictLine (s : State) (q : Nat) : (s.evictLine q).seats = s.seats := by
  unfold State.evictLine
  extract_lets mine
  split
  · rfl
  · rcases mine with _ | ⟨m, ms⟩
    · rfl
    · exact State.seats_writeBack s _

@[simp] theorem State.seats_fillLine (s : State) (q pa : Nat) (l : Line) : (s.fillLine q pa l).seats = s.seats :=
  State.seats_ite rfl (s.seats_evictLine q)

@[simp] theorem State.seats_leaseLine (s : State) (q pa hint : Nat) : (s.leaseLine q pa hint).seats = s.seats :=
  State.seats_fillLine _ q pa _

/-! ### The engines and the grains of other homes -/

@[simp] theorem State.seats_engineSurrender (s : State) (q g : Nat) : (s.engineSurrender q g).seats = s.seats := by
  unfold State.engineSurrender
  split
  · rfl
  · exact State.seats_foldl (fun s i => s.seats_setSector _ _) _ _

@[simp] theorem State.seats_recall (s : State) (g : Nat) : (s.recall g).seats = s.seats := by
  obtain ⟨_, _, e⟩ := s.recall_frame g
  rw [e]
  rfl

@[simp] theorem State.seats_engineTake (s : State) (q g : Nat) : (s.engineTake q g).seats = s.seats := by
  unfold State.engineTake
  grind [State.seats_dropLines, State.seats_engineSurrender, State.seats_stampWrite, State.seats_foldl_snd, State.seats_engineGrains]

@[simp] theorem State.seats_adoptAs (s : State) (g leaf chip : Nat) : (s.adoptAs g leaf chip).seats = s.seats := by
  obtain ⟨_, e⟩ := s.adoptAs_frame g leaf chip
  rw [e]
  rfl

@[simp] theorem State.seats_adopt (s : State) (g : Nat) (pte : BitVec 64) (core : Nat) : (s.adopt g pte core).seats = s.seats :=
  s.seats_adoptAs g _ s.chip

@[simp] theorem State.seats_dropUncached (s : State) (g : Nat) : (s.dropUncached g).seats = s.seats := State.seats_ite rfl rfl

@[simp] theorem State.seats_backInvalidate (s : State) (g : Nat) : (s.backInvalidate g).seats = s.seats := State.seats_ite rfl rfl

/-! ### Requests to the home of a grain -/

@[simp] theorem State.seats_finishTxn (s : State) (g : Nat) : (s.finishTxn g).seats = s.seats := by
  unfold State.finishTxn
  split
  · rfl
  · simp only [apply_ite State.seats, State.seats_sendData, State.seats_sendMsg, State.seats_passFloor, State.seats_setTag, ite_self]
    repeat' split
    all_goals rfl

@[simp] theorem State.seats_openTxn (s : State) (g : Nat) (inv fwd : List Nat) (excl : Bool) (t : Txn) :
    (s.openTxn g inv fwd excl t).seats = s.seats := by
  unfold State.openTxn
  extract_lets u v
  have hu : u.seats = s.seats := State.seats_foldl (fun s c => s.seats_sendMsg c _ g) inv s
  have hv : v.seats = u.seats := State.seats_foldl (fun s c => s.seats_sendCoh c _ _ _ _ _) fwd u
  exact (State.seats_finishTxn _ g).trans (hv.trans hu)

@[simp] theorem State.seats_homeServe (s : State) (g : Nat) (r : HomeReq) : (s.homeServe g r).seats = s.seats := by
  unfold State.homeServe
  extract_lets +onlyGivenNames s1 x own s2 t
  have h2 : s2.seats = s.seats := by
    simp only [s2, s1, apply_ite State.seats, State.seats_adoptAs, State.seats_recall, ite_self]
  clear_value s2
  extract_lets +onlyGivenNames mTag st base
  simp only [apply_ite State.seats, State.seats_sendData, State.seats_sendCoh, State.seats_openTxn, State.seats_setTag,
    State.seats_passFloor, State.seats_recalled, State.seats_clean, h2, ite_self]

@[simp] theorem State.seats_putBack (s : State) (g chip epoch : Nat) (data : List Byte) : (s.putBack g chip epoch data).seats = s.seats := by
  have hstamp (u : State) : (u.stampGrain g).seats = u.seats := by
    obtain ⟨_, _, e⟩ := u.stampGrain_frame g
    rw [e]
    rfl
  have hput (u : State) (pa : Nat) (bs : List Byte) : (u.putMem pa bs).seats = u.seats := rfl
  unfold State.putBack
  simp only [apply_ite State.seats, State.seats_modTag, hput, hstamp, State.seats_setTag, State.seats_sendMsg, ite_self]

@[simp] theorem State.seats_homeRequest (s : State) (g : Nat) (r : HomeReq) : (s.homeRequest g r).seats = s.seats := by
  unfold State.homeRequest
  extract_lets +onlyGivenNames own
  split
  · rfl
  · split
    · simp
    · simp only [apply_ite State.seats, State.seats_homeServe, State.seats_queueReq, State.seats_backInvalidate, State.seats_hostUsed,
        State.seats_adoptAs, ite_self]

@[simp] theorem State.seats_request (s : State) (g : Nat) (getM : Bool) (leaf : Nat) : (s.request g getM leaf).seats = s.seats :=
  State.seats_ite rfl <| State.seats_ite (State.seats_ite rfl (s.seats_homeRequest g _)) (State.seats_ite rfl rfl)

/-! ### Translation -/

@[simp] theorem State.seats_walkDone (s : State) (q : Nat) (path : List Nat) : (s.walkDone q path).seats = s.seats :=
  State.seats_foldl (fun s ea => by simp) path s

@[simp] theorem State.seats_orPte (s : State) (q : Nat) (l : Leaf) (mask : Nat) : (s.orPte q l mask).seats = s.seats := by
  unfold State.orPte
  simp only [apply_ite State.seats, State.seats_markWritten, State.seats_writeMem, State.seats_stampWrite, State.seats_recall, ite_self]

theorem State.seats_lookup (s : State) (c : Ctx) (core asid va : Nat) : (s.lookup c core asid va).2.seats = s.seats := by
  unfold State.lookup
  extract_lets q
  split
  · rfl
  · split
    · rfl
    · split
      · rfl
      · split
        · split
          · rfl
          · rename_i l _ _ _
            extract_lets path u
            have hu : u.seats = s.seats := by
              simp only [u, State.seats_walkDone, apply_ite State.seats, State.seats_orPte, ite_self]
            exact hu
        · rfl
        · simp

theorem State.seats_translate {s t : State} {c : Ctx} {core asid va : Nat} {r : Tr} (h : s.translate c core asid va = (r, t)) :
    t.seats = s.seats := by
  have hlook := s.seats_lookup c core asid va
  unfold State.translate at h
  split at h
  · rename_i hl
    rw [hl] at hlook
    split at h <;> cases h <;> exact hlook
  · rw [h] at hlook
    exact hlook

end Sys2Proof.Machine
end

section
/-!
PROOF. What the try of an access in the queue moves (R196 to R218, R262 to R264): its attempt leaves the clauses in the slots and the groups;
its completion or its refusal may end a wait, record a stamp or queue a fault.
-/

namespace Sys2Proof.Machine

/-! ### Attempts -/

theorem State.seats_approach {s : State} {k : State → Perf} (hk : ∀ t, (k t).state.seats = t.seats) (pa core : Nat) (pte : BitVec 64)
    (write : Bool) : (s.approach pa core pte write k).state.seats = s.seats := by
  unfold State.approach
  grind [Perf.state_refused, Perf.state_wait, State.seats_request, State.seats_recall, State.seats_adopt, State.seats_backInvalidate,
    State.seats_dropUncached]

theorem State.seats_replicaTest {s : State} {k : State → Perf} (hk : (k s).state.seats = s.seats) (ra : Nat) (pte : BitVec 64) :
    (s.replicaTest ra pte k).state.seats = s.seats := by
  unfold State.replicaTest
  grind [Perf.state_refused, Perf.state_wait]

@[simp] theorem State.seats_loadDev (s : State) (core pa n : Nat) (pte : BitVec 64) (hint : Nat) :
    (s.loadDev core pa n pte hint).state.seats = s.seats := by
  unfold State.loadDev
  extract_lets +onlyGivenNames q g hit cl bypass leased
  clear_value hit cl
  split
  · exact State.seats_replicaTest rfl _ pte
  · split
    · rfl
    · split
      · grind [Perf.state_done, Perf.state_refused, Perf.state_wait, State.seats_keepLine]
      · refine State.seats_approach (fun t => ?_) pa core pte false
        extract_lets +onlyGivenNames x
        grind [Perf.state_done, Perf.state_refused, Perf.state_wait, State.seats_keepLine, State.seats_dropLine, State.seats_leaseLine,
          State.seats_takeGrant, State.seats_writeBack, State.seats_fillLine]

theorem State.seats_wsMask (s : State) (m : SMap (BitVec 512)) : ({ s with wsMask := m } : State).seats = s.seats := (rfl)

@[simp] theorem State.seats_wsFull (s : State) (g : Nat) : (s.wsFull g).seats = s.seats := by
  unfold State.wsFull
  rw [State.seats_wsMask, State.seats_setTag, State.seats_preserve]

@[simp] theorem State.seats_zeroGrain (s : State) (g : Nat) : (s.zeroGrain g).seats = s.seats := s.seats_writeMem _ _

@[simp] theorem State.seats_storeWs (s : State) (chip q pa : Nat) (bs : List Byte) : (s.storeWs chip q pa bs).state.seats = s.seats := by
  unfold State.storeWs
  grind [Perf.state_done, Perf.state_refused, State.seats_preserve, State.seats_setTag, State.seats_writeMem, State.seats_wsFull,
    State.seats_zeroGrain, State.seats_wsMask]

theorem State.seats_replicaStores (s : State) (m : SMap ReplicaStore) : ({ s with replicaStores := m } : State).seats = s.seats := (rfl)

@[simp] theorem State.seats_replicaStart (s : State) (a : Access) (bs : List Byte) (remote : Option RemoteOp) :
    (s.replicaStart a bs remote).seats = s.seats :=
  (State.seats_replicaStores _ _).trans (State.seats_foldl (fun s _ => s.seats_sendPair ..) _ s)

theorem State.seats_lines (s : State) (m : SMap Line) : ({ s with lines := m } : State).seats = s.seats := (rfl)

@[simp] theorem State.seats_storeDev (s : State) (a : Access) (bs : List Byte) : (s.storeDev a bs).state.seats = s.seats := by
  unfold State.storeDev
  grind [Perf.state_done, Perf.state_refused, Perf.state_wait, State.seats_approach, State.seats_dropLine, State.seats_fillLine,
    State.seats_markWritten, State.seats_modTag, State.seats_refreshLine, State.seats_replicaStart, State.seats_sendOp,
    State.seats_stampFor, State.seats_storeWs, State.seats_takeGrant, State.seats_writeMem, State.seats_lines]

@[simp] theorem State.seats_countAtomic (s : State) (fl : FpFlags) : (s.countAtomic fl).seats = s.seats := State.seats_ite rfl rfl

@[simp] theorem State.seats_atomWrite (s : State) (a : Access) (sub ty : Nat) (x : List Nat) (engine : Bool) :
    (s.atomWrite a sub ty x engine).state.seats = s.seats := by
  unfold State.atomWrite
  grind [Perf.state_done, Perf.state_refused, State.seats_countAtomic, State.seats_markWritten, State.seats_raiseLts,
    State.seats_refreshLine, State.seats_stampFor, State.seats_writeMem, State.seats_engineGrains]

@[simp] theorem State.seats_atomDev (s : State) (a : Access) (sub ty : Nat) (x : List Nat) :
    (s.atomDev a sub ty x).state.seats = s.seats := by
  unfold State.atomDev
  grind [Perf.state_refused, Perf.state_wait, State.seats_approach, State.seats_atomWrite, State.seats_engineTake, State.seats_hostUsed,
    State.seats_replicaStart, State.seats_sendOp]

theorem State.seats_hostLines (s : State) (m : SMap (List Byte)) : ({ s with hostLines := m } : State).seats = s.seats := (rfl)
theorem State.seats_posted (s : State) (l : List Access) : ({ s with posted := l } : State).seats = s.seats := (rfl)

@[simp] theorem State.seats_hostPerform (s : State) (a : Access) : (s.hostPerform a).state.seats = s.seats := by
  unfold State.hostPerform
  grind [Perf.state_done, Perf.state_wait, State.seats_countAtomic, State.seats_send, State.seats_hostLines, State.seats_posted]

@[simp] theorem State.seats_bufWrite (s : State) (team space unit : Nat) (shadow : Bool) (a : Nat) (bs : List Byte) :
    (s.bufWrite team space unit shadow a bs).seats = s.seats := by
  refine State.seats_foldl (fun s p => ?_) _ s
  rw [State.bankCow, State.cow_eq]
  rfl

@[simp] theorem State.seats_bufPerform (s : State) (a : Access) : (s.bufPerform a).state.seats = s.seats := by
  unfold State.bufPerform
  grind [Perf.state_done, Perf.state_wait, State.seats_bufWrite]

@[simp] theorem State.seats_awaitTest (s : State) (a : Access) (sub bytes cmp : Nat) :
    (s.awaitTest a sub bytes cmp).state.seats = s.seats := by
  unfold State.awaitTest
  grind [Perf.state_done, Perf.state_refused, Perf.state_wait, State.seats_approach, State.seats_dropLine, State.seats_hostPerform,
    State.seats_replicaTest]

@[simp] theorem State.seats_askFence (s : State) (id : Nat) : (s.askFence id).seats = s.seats :=
  State.seats_foldl (fun s _ => s.seats_sendCoh ..) _ s

/-- One attempt to perform an access leaves the clauses in the slots and the groups. -/
theorem State.seats_attempt (s : State) (a : Access) : (s.attempt a).state.seats = s.seats := by
  unfold State.attempt
  grind [Perf.state_done, Perf.state_refused, Perf.state_wait, State.seats_adopt, State.seats_askFence, State.seats_atomDev,
    State.seats_awaitTest, State.seats_bufPerform, State.seats_hostPerform, State.seats_loadDev, State.seats_sendOp, State.seats_storeDev]

theorem State.seats_accesses (s : State) (l : List Access) : ({ s with accesses := l } : State).seats = s.seats := (rfl)

theorem State.seats_freshWait (s : State) (a : Access) : (s.freshWait a).2.seats = s.seats := by
  unfold State.freshWait
  extract_lets full
  split
  all_goals
    rename_i ht
    rw [← State.seats_translate ht]
  · split
    · rfl
    · exact State.seats_accesses _ _
  · exact State.seats_request ..

/-! ### What the completion and the refusal of accesses move -/

/-- A group that is another one but for its queued faults, and for what ended waits and performed reads move of its threads: no thread that
is ready or has exited stands otherwise. -/
structure Group.Tested (a b : Group) : Prop where
  group : a = { b with queue := a.queue, landedAt := a.landedAt, landedNow := a.landedNow, threads := a.threads }
  thread : ∀ l, a.thread l = { b.thread l with
    status := (a.thread l).status, suspended := (a.thread l).suspended, seen := (a.thread l).seen }
  status : ∀ l, (b.thread l).status = .ready ∨ (b.thread l).status = .exited → (a.thread l).status = (b.thread l).status

theorem Group.Tested.refl (g : Group) : g.Tested g := ⟨rfl, fun _ => rfl, fun _ _ => rfl⟩

theorem Group.Tested.trans {a b c : Group} (h : a.Tested b) (h' : b.Tested c) : a.Tested c := by
  refine ⟨?_, fun l => ?_, fun l hl => ?_⟩
  · rw [h.group, h'.group]
  · rw [h.thread l, h'.thread l]
  · have hb := h'.status l hl
    exact (h.status l (hb ▸ hl)).trans hb

/-- Faults that are queued leave the rest of the group. -/
theorem Group.tested_queue (g : Group) (q : List FaultRec) (at' now : Nat) :
    Group.Tested { g with queue := q, landedAt := at', landedNow := now } g := ⟨rfl, fun _ => rfl, fun _ _ => rfl⟩

/-- A thread whose stamp or waits an access has moved. -/
theorem Group.tested_modThreads (g : Group) (lanes : Lanes) {f : Nat → Thread → Thread}
    (hthread : ∀ l t, f l t = { t with status := (f l t).status, suspended := (f l t).suspended, seen := (f l t).seen })
    (hstatus : ∀ l t, t.status = .ready ∨ t.status = .exited → (f l t).status = t.status) : (g.modThreads lanes f).Tested g := by
  have hcases (l : Nat) : (g.modThreads lanes f).thread l = g.thread l ∨ (g.modThreads lanes f).thread l = f l (g.thread l) := by
    rcases Nat.lt_or_ge l g.threads.length with hl | hl
    · rw [Group.thread_modThreads _ _ _ hl]
      split
      · exact .inr rfl
      · exact .inl rfl
    · exact .inl (Group.thread_modThreads_of_le _ _ _ hl)
  refine ⟨rfl, fun l => ?_, fun l hl => ?_⟩
  · rcases hcases l with h | h <;> rw [h]
    exact hthread l _
  · rcases hcases l with h | h <;> rw [h]
    exact hstatus l _ hl

theorem Thread.endWait_eq (t : Thread) (p : Wait → Bool) :
    t.endWait p = { t with status := (t.endWait p).status, suspended := (t.endWait p).suspended } := by
  unfold Thread.endWait
  split <;> rfl

theorem Thread.endWait_status_of_exited {t : Thread} (h : t.status = .exited) (p : Wait → Bool) : (t.endWait p).status = .exited := by
  simp [Thread.endWait, h]

theorem Group.tested_endWait (g : Group) (lanes : Lanes) (p : Wait → Bool) :
    (g.modThreads lanes fun _ t => t.endWait p).Tested g := by
  refine g.tested_modThreads lanes (fun _ t => ?_) fun _ t ht => ?_
  · rw [t.endWait_eq p]
  · rcases ht with ht | ht <;> rw [ht]
    · exact Thread.endWait_status_of_ready ht p
    · exact Thread.endWait_status_of_exited ht p

theorem Group.tested_enqueueFault (g : Group) (now : Nat) (f : FaultRec) : (g.enqueueFault now f).Tested g := g.tested_queue ..

/-- Of the clauses in the slots and the groups, the accesses that have been tried move the groups, and each is tested. -/
structure State.Tests (t s : State) : Prop where
  issuing : t.issuing = s.issuing
  group : ∀ k, (t.group k).Tested (s.group k)

theorem State.Tests.of_seats {t s : State} (h : t.seats = s.seats) : t.Tests s := by
  obtain ⟨hi, hg⟩ := Prod.mk.inj h
  refine ⟨hi, fun k => ?_⟩
  rw [State.group, hg]
  exact .refl _

theorem State.Tests.refl (s : State) : s.Tests s := .of_seats rfl

theorem State.Tests.trans {a b c : State} (h : a.Tests b) (h' : b.Tests c) : a.Tests c :=
  ⟨h.issuing.trans h'.issuing, fun k => (h.group k).trans (h'.group k)⟩

theorem State.tests_modGroup {f : Group → Group} (hf : ∀ g, (f g).Tested g) (s : State) (gid : Nat) : (s.modGroup gid f).Tests s := by
  refine ⟨rfl, fun k => ?_⟩
  by_cases hk : k = gid
  · subst hk
    cases hg : s.groups.find? k with
    | none => simpa [State.group, SMap.get, hg] using Group.Tested.refl noGroup
    | some g => simpa [State.group, SMap.get, hg] using hf g
  · rw [State.group_modGroup_other f hk]
    exact .refl _

theorem State.tests_foldl {β : Type} {f : State → β → State} (h : ∀ s b, (f s b).Tests s) (l : List β) (s : State) :
    (l.foldl f s).Tests s :=
  List.foldlRecOn (motive := fun t : State => t.Tests s) _ _ (.refl s) fun t ht b _ => (h t b).trans ht

theorem State.tests_queueFault (s : State) (gid : Nat) (f : FaultRec) : (s.queueFault gid f).Tests s := by
  unfold State.queueFault
  split
  · exact s.tests_modGroup (fun g => g.tested_enqueueFault _ f) gid
  · exact .of_seats rfl

theorem State.tests_queueMerged (s : State) (gid : Nat) (f : FaultRec) : (s.queueMerged gid f).Tests s := by
  unfold State.queueMerged
  extract_lets alike join
  split
  · exact s.tests_modGroup (fun g => g.tested_queue _ _ _) gid
  · exact s.tests_queueFault gid f

theorem State.tests_completeAccess (s : State) (a : Access) (data : List Byte) (stamp : Nat) : (s.completeAccess a data stamp).Tests s := by
  unfold State.completeAccess
  extract_lets u v x seen n
  have hx : x.Tests s := by
    refine .of_seats ?_
    obtain ⟨lts, hlts⟩ := v.acquireRead_frame a stamp
    obtain ⟨lines, hlines⟩ := (v.acquireRead a stamp).fenceWrite_frame a
    rw [show x = _ from hlines, hlts]
    exact State.seats_ite (b := u) rfl rfl
  have hseen (w : State) : (seen w).Tests w :=
    w.tests_modGroup (fun g => g.tested_modThreads _ (f := fun _ t => { t with seen := max t.seen stamp }) (fun _ _ => rfl)
      fun _ _ _ => rfl) _
  clear_value x seen
  split
  · exact (State.tests_modGroup (fun g => g.tested_endWait _ _) _ _).trans ((hseen x).trans hx)
  · exact .trans (b := seen x) (.of_seats rfl) ((hseen x).trans hx)
  · exact .trans (b := seen x) (.of_seats rfl) ((hseen x).trans hx)
  · exact .trans (b := seen x) (.of_seats rfl) ((hseen x).trans hx)
  · exact .trans (b := x) (.of_seats rfl) hx
  · exact .trans (b := x) (.of_seats rfl) hx
  · exact hx

theorem State.tests_refuseAccess (s : State) (a : Access) (code : FaultCode) (aux : Word) : (s.refuseAccess a code aux).Tests s := by
  unfold State.refuseAccess
  extract_lets u f
  have hu : u.Tests s := .of_seats rfl
  split
  · exact (State.tests_queueMerged _ _ _).trans ((u.tests_modGroup (fun g => g.tested_endWait _ _) _).trans hu)
  · exact .trans (b := u) (.of_seats rfl) hu
  · split
    · exact .trans (b := u) (.of_seats rfl) hu
    · exact (u.tests_queueMerged _ _).trans hu

/-- The try of an access in the queue. -/
theorem State.tests_tryAccess (s : State) (id : Nat) : (s.tryAccess id).Tests s := by
  have hfresh (a : Access) : (if a.stale && s.waitStands a then s.freshWait a else (.ok a, s)).2.seats = s.seats := by
    split
    · exact s.seats_freshWait a
    · rfl
  unfold State.tryAccess
  split
  · exact .refl s
  · rename_i a _
    split
    · exact .refl s
    · specialize hfresh a
      generalize (if a.stale && s.waitStands a then s.freshWait a else (.ok a, s)) = r at hfresh
      obtain ⟨o, u⟩ := r
      have hu : u.Tests s := .of_seats hfresh
      rcases o with (_ | c) | b
      · exact hu
      · exact (u.tests_refuseAccess a c 0).trans hu
      · have htry := u.seats_attempt b
        dsimp only
        split
        all_goals
          rename_i hr
          rw [hr] at htry
        · exact (State.tests_completeAccess ..).trans ((State.Tests.of_seats htry).trans hu)
        · exact (State.tests_refuseAccess ..).trans ((State.Tests.of_seats htry).trans hu)
        · split
          · exact (State.Tests.of_seats ((State.seats_accesses _ _).trans htry)).trans hu
          · exact (State.Tests.of_seats htry).trans hu

theorem State.tests_parkAgain (s : State) (p : Access → Bool) : (s.parkAgain p).Tests s :=
  (State.tests_foldl State.tests_tryAccess _ _).trans (.of_seats rfl)

/-- Without a wait that a test selects none is parked again. -/
theorem State.parkAgain_of_none {s : State} {p : Access → Bool} (h : ∀ a ∈ s.accesses, (a.isAwait && p a) = false) : s.parkAgain p = s := by
  have hnone (u : State) : (s.accesses.filter fun a => a.isAwait && p a && u.waitStands a) = [] :=
    List.filter_eq_nil_iff.mpr fun a ha => by simp [h a ha]
  unfold State.parkAgain
  simp [hnone]

end Sys2Proof.Machine
end

section
/-!
PROOF. The last tret of a handler (R264, R372): nothing holds its clause back, every thread of the handler returns at once, and the waits
that are parked again move no thread that is ready or has exited.
-/

namespace Sys2Proof.Machine

/-! ### The commit of a clause of one tret -/

section
variable {s : State} {iss : Issue} {f : FC} {ls : Lits} {idx : Nat} {lanes : Lanes} {x : LaneVals}
  (h : iss.effects = [.act (.tret f ls) idx lanes x [] [] []])
include h

theorem State.commitFault_of_tret : s.commitFault iss = none := by
  simp [State.commitFault, h, State.barFault, barParts, collFault]

theorem State.commitWaits_of_tret : s.commitWaits iss = none := by
  simp [State.commitWaits, State.unitFull, Issue.submits, State.postsWait, Effect.post?, State.effectWaits, Effect.instr?, Instr.unitOf?, h]

theorem State.commit_of_tret : s.commit iss = (commitTret f iss lanes x (s.leaveSlot iss)).formAll := by
  rw [State.commit, h]
  rfl

theorem execClauseCommit_of_tret {rest : List Issue} (hi : s.issuing = iss :: rest) (hw : iss.words = []) :
    exec .clauseCommit s = .next (commitTret f iss lanes x (s.leaveSlot iss)).formAll := by
  show execClauseCommit s = _
  rw [execClauseCommit, State.withIssue_cons _ hi]
  simp [hw, State.commitFault_of_tret h, State.commitWaits_of_tret h, State.commit_of_tret h]

end

/-! ### The threads -/

/-- What a tret makes of the thread of a lane: it goes to EPC or to its own target. -/
def Thread.returns (f : FC) (x : LaneVals) (l : Nat) (t : Thread) : Thread :=
  t.tret (if f.a == 120 then t.epc else (x.at l).truncate 52) (f.a == 120)

/-- The threads of some lanes execute tret. -/
def Group.returning (g : Group) (f : FC) (lanes : Lanes) (x : LaneVals) : Group := g.modThreads lanes (Thread.returns f x)

/-- A thread that executes tret when its group leaves the handler: it has exited again, or goes on at its target, in its suspended waits
only from EPC. -/
theorem Thread.release_tret (t : Thread) (target : BitVec 52) (atEpc : Bool) : (t.tret target atEpc).release =
    if t.fromExit then { t with status := .exited, fromExit := false, suspended := [] }
    else { t with pc := target, suspended := [], status := if atEpc = true ∧ t.suspended ≠ [] then .blocked t.suspended else .ready } := by
  unfold Thread.tret
  cases t.fromExit
  · cases atEpc
    · rfl
    · cases t.suspended <;> simp [Thread.release]
  · rfl

theorem Thread.returns_status (f : FC) (x : LaneVals) (l : Nat) (t : Thread) :
    (t.returns f x l).status = .returned ∨ (t.returns f x l).status = .exited := by
  unfold Thread.returns Thread.tret
  split
  · exact .inr rfl
  · exact .inl rfl

/-- A release moves a thread's status, and the waits that it takes up again. -/
theorem Thread.release_eq (t : Thread) :
    t.release = { t with status := t.release.status, suspended := t.release.suspended } := by
  unfold Thread.release
  repeat' split
  all_goals rfl

/-- A thread as its group leaves the handler, against what it was there: an active one returns, another stays where it is. -/
structure Thread.Released (f : FC) (target : BitVec 52) (active : Bool) (a b : Thread) : Prop where
  v : b.v = a.v
  k : b.k = a.k
  flags : b.flags = a.flags
  stack : b.stack = a.stack
  exits : active = true → a.fromExit = true → b.status = .exited
  pc : active = true → a.fromExit = false → b.pc = if f.a = 120 then a.epc else target
  status : active = true → a.fromExit = false → b.status = if f.a = 120 ∧ a.suspended ≠ [] then .blocked a.suspended else .ready
  stays : active = false → b.pc = a.pc
  frees : active = false → ∀ ws, a.status = .held ws → b.status = if ws = [] then .ready else .blocked ws

/-- A handler thread that returns, wherever its clause has left its PC. -/
theorem Thread.released_returns (f : FC) (x : LaneVals) (l : Nat) (t : Thread) (pc : BitVec 52) (yielded : Bool) :
    Thread.Released f ((x.at l).truncate 52) true t (Thread.returns f x l { t with pc := pc, yielded := yielded }).release := by
  rw [Thread.returns, Thread.release_tret]
  cases hexit : t.fromExit
  · simp only [Bool.false_eq_true, if_false, beq_iff_eq]
    exact ⟨rfl, rfl, rfl, rfl, by simp [hexit], fun _ _ => rfl, fun _ _ => rfl, nofun, nofun⟩
  · simp only [if_true]
    exact ⟨rfl, rfl, rfl, rfl, fun _ _ => rfl, by simp [hexit], by simp [hexit], nofun, nofun⟩

/-- A thread that was held. -/
theorem Thread.released_release (f : FC) (target : BitVec 52) (t : Thread) (yielded : Bool) :
    Thread.Released f target false t (Thread.release { t with yielded := yielded }) := by
  rw [Thread.release_eq]
  refine ⟨rfl, rfl, rfl, rfl, nofun, nofun, nofun, fun _ => rfl, fun _ ws hws => ?_⟩
  simp [Thread.release, hws]

section
variable {g : Group} {f : FC} {lanes : Lanes} {x : LaneVals} (hlen : g.threads.length = 32) (hin : g.inHandler = true)
  (hlanes : g.handlerLanes = lanes)
include hlen hin hlanes

/-- A group whose handler's threads all execute tret leaves it. -/
theorem Group.leaveHandler_returning : (g.returning f lanes x).leaveHandler =
    { g with inHandler := false, handlerLanes := 0, bundles := [], threads := (g.returning f lanes x).threads.map Thread.release } := by
  refine if_neg ?_
  have hwait : ((Lanes.list lanes).any fun l =>
      ((g.returning f lanes x).thread l).status != .returned && ((g.returning f lanes x).thread l).status != .exited) = false := by
    refine List.any_eq_false.mpr fun l hl => ?_
    have hhas := Lanes.mem_list.mp hl
    rw [Group.returning, Group.thread_modThreads _ _ _ (hlen ▸ Lanes.has_lt hhas), if_pos hhas]
    rcases (g.thread l).returns_status f x l with h | h <;> simp [h]
  have hlanes' : (g.returning f lanes x).handlerLanes = lanes := hlanes
  have hin' : (g.returning f lanes x).inHandler = true := hin
  rw [hlanes', hwait, hin']
  decide

theorem Group.thread_leaveHandler_returning {l : Nat} (hl : l < 32) : (g.returning f lanes x).leaveHandler.thread l =
    (if lanes.has l then (g.thread l).returns f x l else g.thread l).release := by
  have hl' : l < (g.returning f lanes x).threads.length := by rwa [Group.returning, Group.modThreads_length, hlen]
  have hthread : (g.returning f lanes x).thread l = if lanes.has l then (g.thread l).returns f x l else g.thread l :=
    Group.thread_modThreads g lanes (Thread.returns f x) (hlen.symm ▸ hl)
  rw [← hthread, Group.leaveHandler_returning hlen hin hlanes]
  simp [Group.thread, List.getD, hl']

end

/-- The threads of the group whose clause of one tret has left its slot. -/
theorem Group.released_left {g : Group} {iss : Issue} {f : FC} {x : LaneVals} (hlen : g.threads.length = 32) (hin : g.inHandler = true)
    (hlanes : g.handlerLanes = iss.lanes) {l : Nat} (hl : l < 32) : Thread.Released f ((x.at l).truncate 52) (iss.lanes.has l) (g.thread l)
      (((g.left iss).returning f iss.lanes x).leaveHandler.thread l) := by
  rw [Group.thread_leaveHandler_returning ((g.length_left iss).trans hlen) hin hlanes hl, Group.thread_left_frame g iss (hlen.symm ▸ hl)]
  cases iss.lanes.has l
  · exact Thread.released_release ..
  · exact Thread.released_returns ..

/-! ### The state -/

theorem State.leaveHandler_tests (s : State) (gid : Nat) : (s.leaveHandler gid).Tests (s.modGroup gid Group.leaveHandler) := by
  unfold State.leaveHandler
  extract_lets g back t
  split
  · exact t.tests_parkAgain back
  · exact .refl _

theorem State.leaveHandler_of_no_awaits {s : State} {gid : Nat} (h : ∀ a ∈ s.accesses, a.gid = gid → a.isAwait = false) :
    s.leaveHandler gid = s.modGroup gid Group.leaveHandler := by
  unfold State.leaveHandler
  extract_lets g back t
  have hnone : ∀ a ∈ t.accesses, (a.isAwait && back a) = false := by
    intro a ha
    by_cases hgid : a.gid = gid
    · simp [h a ha hgid]
    · simp [back, hgid]
  rw [State.parkAgain_of_none hnone, ite_self]

/-- The commit of tret before any wait is parked again. -/
def State.returned (s : State) (f : FC) (iss : Issue) (x : LaneVals) : State :=
  (((s.leaveSlot iss).modGroup iss.gid fun g => g.returning f iss.lanes x).dropAwaits iss.gid iss.lanes).modGroup iss.gid Group.leaveHandler

theorem State.returned_frame (s : State) (f : FC) (iss : Issue) (x : LaneVals) :
    (s.returned f iss x).issuing = s.issuing.drop 1 ∧ (s.returned f iss x).mem = s.mem := by
  unfold State.returned
  rw [State.leaveSlot_eq]
  exact ⟨rfl, rfl⟩

theorem State.returned_group {s : State} {iss : Issue} {g : Group} (hg : s.groups.find? iss.gid = some g) (f : FC) (x : LaneVals) :
    (s.returned f iss x).group iss.gid = ((g.left iss).returning f iss.lanes x).leaveHandler := by
  have hgroups : (s.returned f iss x).groups =
      ((s.leaveSlot iss).groups.modify iss.gid fun g => g.returning f iss.lanes x).modify iss.gid Group.leaveHandler := rfl
  simp [State.group, SMap.get, hgroups, State.leaveSlot_groups, hg]

theorem commitTret_tests (s : State) (f : FC) (iss : Issue) (x : LaneVals) :
    (commitTret f iss iss.lanes x (s.leaveSlot iss)).Tests (s.returned f iss x) := State.leaveHandler_tests _ _

theorem commitTret_of_no_awaits {s : State} {iss : Issue} (h : ∀ a ∈ s.accesses, a.gid = iss.gid → a.isAwait = false) (f : FC)
    (x : LaneVals) : commitTret f iss iss.lanes x (s.leaveSlot iss) = s.returned f iss x := by
  refine State.leaveHandler_of_no_awaits fun a ha => h a ?_
  have haccesses : (s.leaveSlot iss).accesses = s.accesses := by rw [State.leaveSlot_eq]
  exact haccesses ▸ List.mem_of_mem_filter ha

end Sys2Proof.Machine

namespace Sys2Proof

open Sys2Proof.Machine

/-- Settles O48: the commit leaves the handler with every thread returned, and what it then tests moves no thread that is ready or has
exited; without a wait of the group it tests nothing. -/
theorem tretReturnsFromTheHandler : Obligations.TretReturnsFromTheHandler := by
  unfold Obligations.TretReturnsFromTheHandler
  intro s iss rest g x f ls idx hi hw hg hlen heffects hin hlanes
  refine ⟨_, execClauseCommit_of_tret heffects hi hw, ?_⟩
  obtain ⟨hissuing, hmem⟩ := s.returned_frame f iss x
  have hgroup := State.returned_group hg f x
  have hleft := Group.leaveHandler_returning (f := f) (x := x) ((g.length_left iss).trans hlen) hin hlanes
  have hreleased {l : Nat} (hl : l < 32) := Group.released_left (f := f) (x := x) hlen hin hlanes hl
  have htests := commitTret_tests s f iss x
  have hnone (h : ∀ a ∈ s.accesses, a.gid = iss.gid → a.isAwait = false) := commitTret_of_no_awaits h f x
  generalize commitTret f iss iss.lanes x (s.leaveSlot iss) = v at htests hnone
  obtain ⟨hv, hvgroup⟩ := htests
  obtain ⟨hgroupv, hthread, hstatus⟩ := hvgroup iss.gid
  have hform := v.formAll_reforms
  obtain ⟨hgroupt, -, hthreadt⟩ := hform.group iss.gid
  rw [hgroup] at hgroupv hthread hstatus
  intro u
  have hframe : u.inHandler = false ∧ u.faultInfo = g.faultInfo ∧ u.faultAddr = g.faultAddr ∧ u.g = g.g ∧ u.h = g.h := by
    rw [show u = _ from hgroupt, hgroupv, hleft]
    exact ⟨rfl, rfl, rfl, rfl, rfl⟩
  obtain ⟨hout, hinfo, haddr, hregs, hhandles⟩ := hframe
  refine ⟨?issuing, hout, hinfo, haddr, hregs, hhandles, fun l hl => ?thread, fun hno => ?quiet⟩
  case issuing =>
    rw [hform.state, hv, hissuing, hi]
    rfl
  case thread =>
    have hr := hreleased hl
    rw [show u.thread l = _ from hthreadt l, hthread l]
    have hready : iss.lanes.has l = true → (g.thread l).fromExit = false → f.a ≠ 120 ∨ (g.thread l).suspended = [] →
        ((v.group iss.gid).thread l).status = .ready := by
      intro hactive hexit hgoes
      have h := (hr.status hactive hexit).trans (if_neg fun hwaits => hgoes.elim (· hwaits.left) hwaits.right)
      exact (hstatus l (.inl h)).trans h
    have hexited : iss.lanes.has l = true → (g.thread l).fromExit = true → ((v.group iss.gid).thread l).status = .exited := by
      intro hactive hexit
      have h := hr.exits hactive hexit
      exact (hstatus l (.inr h)).trans h
    exact ⟨hr.stack, hexited, fun hactive hexit => ⟨hr.pc hactive hexit, hready hactive hexit⟩, hr.stays⟩
  case quiet =>
    have hvg : v.group iss.gid = _ := (congrArg (State.group · iss.gid) (hnone hno)).trans hgroup
    refine ⟨by rw [hform.state, hnone hno, hmem], fun l hl => ?_⟩
    have hr := hreleased hl
    rw [show u.thread l = _ from hthreadt l, hvg]
    exact ⟨hr.v, hr.k, hr.flags, fun hactive hexit hepc hwaits => (hr.status hactive hexit).trans (if_pos ⟨hepc, hwaits⟩), hr.frees⟩

end Sys2Proof
end

section
/-!
PROOF. The matrix instructions at issue (R289 to R295): gang, mzero and mdrain by their checks, and mstat, mcks and mcancel by R405.
-/

namespace Sys2Proof.Machine

/-! ### The checks (R272, R285, R289) -/

theorem gangBad_eq_false_iff {x groups own : Nat} : gangBad x groups own = false ↔
    2 ≤ bits x 32 30 ∧ bits x 32 30 ≤ 6 ∧ (gangMembers x).Nodup ∧ (∀ m ∈ gangMembers x, m < groups) ∧ own ∈ gangMembers x ∧
      bits x 29 (5 * bits x 32 30) = 0 ∧ x < 2 ^ 41 := by
  simp only [gangBad, Bool.or_eq_false_iff, decide_eq_false_iff_not, Bool.not_eq_false', bne_eq_false_iff_eq, List.any_eq_false,
    decide_eq_true_eq, List.contains_iff_mem, Nat.not_lt, Nat.not_le, Nat.div_eq_zero_iff]
  simp only [Nat.reducePow, OfNat.ofNat_ne_zero, false_or]
  tauto

theorem Team.tileOk_iff {t : Team} {z : Int} {st : Nat} : 0 ≤ z ∧ t.tileOk z.toNat st = true ↔
    0 ≤ z ∧ z % 256 = 0 ∧ st % 256 = 0 ∧ 256 ≤ st ∧ z + 63 * st + 256 ≤ (t.window 2 : Nat) := by
  simp only [Team.tileOk, Bool.and_eq_true, beq_iff_eq, decide_eq_true_eq]
  omega

section
variable {s : State} {iss : Issue} {a : Int} {n align : Nat}

theorem State.recordFault_outside (h : a < 0 ∨ ((s.teamOf iss.gid).window 1 : Int) < a + n) :
    s.recordFault iss a n align = some .bufBounds :=
  if_pos (by simpa using h)

theorem State.recordFault_inside (h : 0 ≤ a) (hn : a + n ≤ ((s.teamOf iss.gid).window 1 : Nat)) :
    s.recordFault iss a n align = if a % (align : Int) != 0 then some .misaligned else none :=
  if_neg (by simpa using ⟨h, hn⟩)

end

/-! ### The instructions -/

section
variable {s : State} {iss : Issue} {rest : List Issue} (hrun : s.issuing = iss :: rest) (f : FE) (ls : Lits)
include hrun

theorem execGang_eq : execGang f ls s =
    if (iss.uniform f.a (litAt ls 0) != 0 &&
      gangBad (iss.uniform f.a (litAt ls 0)).toNat (s.teamOf iss.gid).groups.length iss.before.index) then s.faultAll iss .gangMember
    else s.finish iss (2 + ls.length) [.setGang (iss.uniform f.a (litAt ls 0))] :=
  State.withIssue_cons _ hrun

theorem execMzero_eq : execMzero f ls s =
    if (decide (iss.addrE f ls 256 < 0) || !(s.teamOf iss.gid).tileOk (iss.addrE f ls 256).toNat (iss.uniformB f ls).toNat) then
      s.faultAll iss .matrixRecord
    else s.finish iss (2 + ls.length)
      [.act (.mzero f ls) iss.idx iss.lanes [] [] [] [(iss.addrE f ls 256).toNat, (iss.uniformB f ls).toNat]] :=
  State.withIssue_cons _ hrun

theorem execMdrain_waits (h : s.accessesDone iss.gid iss.lanes = false) : execMdrain f ls s = .next s.stall := by
  rw [execMdrain, State.withIssue_cons _ hrun]
  exact if_pos (by simp [State.mayRead?, h])

section
variable (h : s.accessesDone iss.gid iss.lanes = true)
include h

theorem execMdrain_of_recordFault {c : FaultCode} (hr : s.recordFault iss (iss.addrE f ls 32) 32 32 = some c) :
    execMdrain f ls s = s.faultAll iss c := by
  rw [execMdrain, State.withIssue_cons _ hrun]
  simp [State.mayRead?, h, hr]

theorem execMdrain_accepts (hr : s.recordFault iss (iss.addrE f ls 32) 32 32 = none)
    (hd : s.drainFault iss (s.record iss (iss.addrE f ls 32).toNat 32) = none) :
    execMdrain f ls s = s.finish iss (2 + ls.length) [.act (.mdrain f ls) iss.idx iss.lanes [] [] [] [(iss.addrE f ls 32).toNat]] := by
  rw [execMdrain, State.withIssue_cons _ hrun]
  simp [State.mayRead?, h, hr, hd]

end

theorem ticketExec_det (i : Instr) (h : s.detI iss = true) : ticketExec true i f ls s = s.faultAll iss .detAtomic := by
  rw [ticketExec, State.withIssue_cons _ hrun]
  exact if_pos (by simp [h])

theorem ticketExec_eq (i : Instr) (h : s.detI iss = false) : ticketExec true i f ls s = s.finish iss (2 + ls.length)
    [.act i iss.idx iss.lanes (iss.lanesOf (iss.operand (intLayout 5) f.a (litAt ls 0))) [] [] []] := by
  rw [ticketExec, State.withIssue_cons _ hrun]
  simp [h, Issue.ticket]

theorem execMcks_det (h : s.detI iss = true) : execMcks f ls s = s.faultAll iss .detAtomic := by
  rw [execMcks, State.withIssue_cons _ hrun]
  exact if_pos h

theorem execMcks_eq (h : s.detI iss = false) :
    execMcks f ls s = s.finish iss (2 + ls.length) [.act (.mcks f ls) iss.idx iss.lanes [] [] [] []] := by
  rw [execMcks, State.withIssue_cons _ hrun]
  exact if_neg (by simp [h])

end

/-- The commit of mdrain enters a drain of the record as it stands at the commit (R285). -/
theorem commitMdrain_works (f : FE) (iss : Issue) (idx n : Nat) (s : State) :
    ∃ k w, (commitMdrain f iss idx [n] s).works = s.works.insert k w ∧ w.kind = .drain ∧ w.record = s.record iss n 32 :=
  ⟨_, _, rfl, rfl, rfl⟩

end Sys2Proof.Machine

namespace Sys2Proof

open Sys2Proof.Machine

/-- Settles O31: gang and mzero by the conditions of their one check each, mdrain by the checks of its record in their order, the others by
R405. -/
theorem matrixInstructionResults : Obligations.MatrixInstructionResults := by
  unfold Obligations.MatrixInstructionResults
  rintro s iss f ls ⟨rest, hrun⟩ w t x n listed legal z st tile r held tickets
  have hgang : legal ↔ ¬ ((iss.uniform f.a (litAt ls 0) != 0 && gangBad x t.groups.length iss.before.index) = true) := by
    have hx : x = 0 ↔ iss.uniform f.a (litAt ls 0) = 0 := by simp [x, ← BitVec.toNat_inj]
    rw [Bool.not_eq_true, Bool.and_eq_false_iff, gangBad_eq_false_iff, bne_eq_false_iff_eq, ← hx]
  have htile : tile ↔ ¬ ((decide (z < 0) || !t.tileOk z.toNat st) = true) :=
    (Team.tileOk_iff (z := z)).symm.trans (by simp)
  refine ⟨fun h => ?legal, fun h => ?illegal, fun h => ?tile, fun h => ?misplaced,
    fun h => (exec_mdrain f ls s).trans (execMdrain_waits hrun f ls h), fun hdone => ⟨fun h0 hr hal hd => ⟨?drains, fun idx u => ?record⟩,
      fun h => ?outside, fun h0 hr hal => ?misaligned⟩, fun h => ⟨?_, ?_, ?_⟩, fun h => ⟨?_, ?_, ?_⟩⟩
  case legal =>
    have hx : BitVec.ofNat 64 x = iss.uniform f.a (litAt ls 0) := by simp [x]
    rw [hx]
    exact (exec_gang f ls s).trans ((execGang_eq hrun f ls).trans (if_neg (hgang.mp h)))
  case illegal => exact (exec_gang f ls s).trans ((execGang_eq hrun f ls).trans (if_pos (not_not.mp (mt hgang.mpr h))))
  case tile => exact (exec_mzero f ls s).trans ((execMzero_eq hrun f ls).trans (if_neg (htile.mp h)))
  case misplaced => exact (exec_mzero f ls s).trans ((execMzero_eq hrun f ls).trans (if_pos (not_not.mp (mt htile.mpr h))))
  case drains =>
    have hfault := (State.recordFault_inside (align := 32) h0 hr).trans (if_neg (by simpa using hal))
    exact (exec_mdrain f ls s).trans (execMdrain_accepts hrun f ls hdone hfault hd)
  case record =>
    obtain ⟨k, w, hworks, hkind, hrecord⟩ := commitMdrain_works f iss idx r.toNat u
    rw [hworks, List.any_eq_true]
    exact ⟨(k, w), SMap.mem_of_find? (SMap.find?_insert_same ..), by simp [hkind, hrecord]⟩
  case outside => exact (exec_mdrain f ls s).trans (execMdrain_of_recordFault hrun f ls hdone (State.recordFault_outside h))
  case misaligned =>
    have hfault := (State.recordFault_inside (align := 32) h0 hr).trans (if_pos (by simpa using hal))
    exact (exec_mdrain f ls s).trans (execMdrain_of_recordFault hrun f ls hdone hfault)
  · exact (exec_mstat f ls s).trans (ticketExec_eq hrun f ls _ h)
  · exact (exec_mcks f ls s).trans (execMcks_eq hrun f ls h)
  · exact (exec_mcancel f ls s).trans (ticketExec_eq hrun f ls _ h)
  · exact (exec_mstat f ls s).trans (ticketExec_det hrun f ls _ h)
  · exact (exec_mcks f ls s).trans (execMcks_det hrun f ls h)
  · exact (exec_mcancel f ls s).trans (ticketExec_det hrun f ls _ h)

end Sys2Proof
end

section
/-!
PROOF. mmx and mmxs (R275, R276, R291): what the arrival of a bundle leaves of the state, the latch that it takes, and the rendezvous of a
gang of one.
-/

namespace Sys2Proof.Machine

/-! ### Latches -/

@[simp] theorem Latch.isKey_iff {l : Latch} {team tag : Nat} : l.isKey team tag = true ↔ l.team = team ∧ l.tag = tag := by
  simp [Latch.isKey]

@[simp] theorem State.clusterLatches_setLatches (s : State) (q : Nat) (l : List Latch) : (s.setLatches q l).clusterLatches q = l := by
  cases l <;> simp [State.setLatches, State.clusterLatches, SMap.get]

theorem Issue.gangList_of_alone {iss : Issue} (h : iss.alone = true) : iss.gangList = [iss.before.index] := if_pos h

section
variable {s : State} {q team tag : Nat} {l : Latch}

/-- A rendezvous that a listed group is missing from does not complete (R275). -/
theorem State.rendezvous_of_missing {iss : Issue} (hl : ((s.clusterLatches q).find? fun l => l.isKey team tag) = some l)
    (harr : l.arrivals = [iss]) (hm : ∃ m ∈ iss.gangList, m ≠ iss.before.index) : s.rendezvous q team tag = s := by
  obtain ⟨m, hmem, hne⟩ := hm
  have hall : iss.gangList.all [iss.before.index].contains = false := List.all_eq_false.mpr ⟨m, hmem, by simp [hne]⟩
  have halone : iss.alone = false := by
    by_contra h
    rw [Issue.gangList_of_alone (by simpa using h)] at hmem
    exact hne (List.mem_singleton.mp hmem)
  unfold State.rendezvous
  rw [hl]
  exact if_pos (by simp [harr, hall, halone])

/-- One that all the listed groups have come to, and whose operation passes its checks, holds that operation (R276). -/
theorem State.rendezvous_of_ok {iss : Issue} {w : Work} (hl : ((s.clusterLatches q).find? fun l => l.isKey team tag) = some l)
    (harr : l.arrivals = [iss]) (hnone : l.work = none) (hgang : iss.gangList = [iss.before.index])
    (hok : s.rendezvousCheck q team [iss] = .ok w) :
    s.rendezvous q team tag =
      s.setLatches q ((s.clusterLatches q).map fun m => if m.isKey team tag then { m with work := some w } else m) := by
  unfold State.rendezvous
  rw [hl]
  refine (if_neg (by simp [harr, hnone, hgang])).trans ?_
  rw [harr, hok]

end

/-! ### The arrival -/

/-- The latch that an arrival takes. -/
def Issue.latch (iss : Issue) : Latch := { team := iss.before.team, tag := iss.latchTag, arrivals := [iss] }

section
variable {s : State} {q : Nat} {iss : Issue}

/-- An arrival whose key no latch of the cluster has, while one is free, takes it (R275). -/
theorem State.joinLatch_of_new (hnew : ∀ l ∈ s.clusterLatches q, ¬ (l.team = iss.before.team ∧ l.tag = iss.latchTag))
    (hfree : (s.clusterLatches q).length < 8) :
    s.joinLatch q iss = (s.setLatches q (s.clusterLatches q ++ [iss.latch])).rendezvous q iss.before.team iss.latchTag := by
  have hnone : ((s.clusterLatches q).find? fun l => l.isKey iss.before.team iss.latchTag) = none :=
    List.find?_eq_none.mpr fun l hl => by simpa using hnew l hl
  unfold State.joinLatch
  simp only [hnone]
  exact if_pos hfree

theorem find?_append_latch {old : List Latch} (hnew : ∀ l ∈ old, ¬ (l.team = iss.before.team ∧ l.tag = iss.latchTag)) :
    ((old ++ [iss.latch]).find? fun l => l.isKey iss.before.team iss.latchTag) = some iss.latch := by
  have hnone : (old.find? fun l => l.isKey iss.before.team iss.latchTag) = none :=
    List.find?_eq_none.mpr fun l hl => by simpa using hnew l hl
  rw [List.find?_append, hnone]
  simp [Issue.latch]

theorem map_append_latch {old : List Latch} (hnew : ∀ l ∈ old, ¬ (l.team = iss.before.team ∧ l.tag = iss.latchTag)) (w : Work) :
    ((old ++ [iss.latch]).map fun m => if m.isKey iss.before.team iss.latchTag then { m with work := some w } else m) =
      old ++ [{ iss.latch with work := some w }] := by
  rw [List.map_append]
  congr 1
  · exact (List.map_congr_left fun l hl => if_neg (by simpa using hnew l hl)).trans (List.map_id' _)
  · simp [Issue.latch]

end

/-- A group whose bundle waits in the rendezvous (R291). -/
def Group.waitsLatched (g : Group) (iss : Issue) : Group :=
  { g.modThreads iss.lanes (fun _ t => t.block (.rendezvous iss.before.cluster iss.before.team)) with
    bundles := g.bundles.filter fun b => b.pc != iss.pc }

/-- The state in which a clause of mmx or mmxs has left its slot, before it joins a latch (R291). -/
def State.arriving (s : State) (iss : Issue) : State :=
  ({ s with issuing := s.issuing.drop 1 } : State).modGroup iss.gid fun g => g.waitsLatched iss

section
variable {s : State} {iss : Issue} {rest : List Issue} (hrun : s.issuing = iss :: rest)

theorem State.arriving_team (k : Nat) : ((s.arriving iss).group k).team = (s.group k).team := by
  by_cases hk : k = iss.gid
  · subst hk
    cases hg : s.groups.find? iss.gid <;> simp [State.arriving, State.group, SMap.get, hg, Group.waitsLatched, Group.modThreads]
  · exact congrArg Group.team (State.group_modGroup_other _ hk)

theorem State.arriving_blocked {g : Group} (hg : s.groups.find? iss.gid = some g) (hlen : g.threads.length = 32) {l : Nat}
    (hl : iss.lanes.has l = true) (hready : (g.thread l).status = .ready) :
    (((s.arriving iss).group iss.gid).thread l).status = .blocked [.rendezvous iss.before.cluster iss.before.team] := by
  have hgroup : (s.arriving iss).group iss.gid = g.waitsLatched iss := by simp [State.arriving, State.group, SMap.get, hg]
  have hthread : (g.waitsLatched iss).thread l = (g.thread l).block (.rendezvous iss.before.cluster iss.before.team) :=
    (g.thread_modThreads iss.lanes (fun _ t => t.block (.rendezvous iss.before.cluster iss.before.team))
      (hlen.symm ▸ Lanes.has_lt hl)).trans (if_pos hl)
  simp [hgroup, hthread, Thread.block, hready]

include hrun
variable (i : Instr) (f : FE) (ls : Lits)

theorem matrixExec_inside (h : iss.words.drop (2 + ls.length) ≠ []) : matrixExec i f ls s = s.finish iss (2 + ls.length)
    [.act i iss.idx iss.lanes (iss.lanesOf (iss.operand (intLayout 5) f.b 0)) [] [] []] := by
  rw [matrixExec, State.withIssue_cons _ hrun]
  exact if_pos (by simpa using h)

variable (hlast : iss.words.drop (2 + ls.length) = [])
include hlast

theorem matrixExec_waits (h : s.accessesDone iss.gid iss.lanes = false) : matrixExec i f ls s = .next s.stall := by
  rw [matrixExec, State.withIssue_cons _ hrun]
  exact (if_neg (by simp [hlast])).trans (if_pos (by simp [State.mayRead?, h]))

theorem matrixExec_arrives (h : s.accessesDone iss.gid iss.lanes = true) :
    matrixExec i f ls s = .next ((s.arriving iss).joinLatch iss.before.cluster
      (iss.hold [.act i iss.idx iss.lanes (iss.lanesOf (iss.operand (intLayout 5) f.b 0)) [] [] []])) := by
  rw [matrixExec, State.withIssue_cons _ hrun]
  exact (if_neg (by simp [hlast])).trans (if_neg (by simp [State.mayRead?, h]))

end

end Sys2Proof.Machine

namespace Sys2Proof

open Sys2Proof.Machine

/-- Settles O32: the arrival takes a latch of its own; a missing group leaves it without an operation, and a gang of one is complete. -/
theorem matrixInstructionsArriveAtTheirRendezvous : Obligations.MatrixInstructionsArriveAtTheirRendezvous := by
  unfold Obligations.MatrixInstructionsArriveAtTheirRendezvous
  intro s iss rest f ls i hrun hi q arr old latch blocked last
  have hexec : Sys2Proof.Machine.exec i s = matrixExec i f ls s := by rcases hi with rfl | rfl <;> rfl
  refine ⟨fun h => hexec.trans (matrixExec_inside hrun i f ls h), fun hlast h => hexec.trans (matrixExec_waits hrun i f ls hlast h),
    fun hlast hdone hnew hfree => ?_⟩
  let u : State := (s.arriving iss).setLatches q (old ++ [latch])
  have hjoins : Sys2Proof.Machine.exec i s = .next (u.rendezvous q latch.team latch.tag) :=
    hexec.trans ((matrixExec_arrives hrun i f ls hlast hdone).trans (congrArg _ (State.joinLatch_of_new hnew hfree)))
  have hlatches : u.clusterLatches q = old ++ [latch] := State.clusterLatches_setLatches ..
  have hfind : ((u.clusterLatches q).find? fun l => l.isKey latch.team latch.tag) = some latch :=
    hlatches ▸ find?_append_latch (iss := arr) hnew
  have hissuing : u.issuing = rest := congrArg (List.drop 1) hrun
  have hblocked : ∀ ls, blocked (u.setLatches q ls) := fun ls =>
    ⟨hissuing, fun g hg hlen l hl hready => State.arriving_blocked hg hlen hl hready⟩
  refine ⟨fun hmissing => ⟨u, ?_, hlatches, hissuing,
      fun g hg hlen l hl hready => State.arriving_blocked hg hlen hl hready⟩,
    fun w hgang hok => ?_⟩
  · rw [hjoins, State.rendezvous_of_missing hfind rfl hmissing]
  · have hheld := State.rendezvous_of_ok hfind rfl rfl hgang (hok u rfl hlatches State.arriving_team)
    refine ⟨_, hjoins.trans (congrArg _ hheld), ?_, hblocked _⟩
    rw [State.clusterLatches_setLatches, hlatches]
    exact map_append_latch (iss := arr) hnew w

end Sys2Proof
end

section
/-!
PROOF. The typed buffers (R179 to R181): what a window reads after a write of bytes.
-/

namespace Sys2Proof

/-! ### Numbers as bytes -/

@[simp] theorem length_toBytes (n x : Nat) : (toBytes n x).length = n := by simp [toBytes]

theorem toBytes_succ (n x : Nat) : toBytes (n + 1) x = BitVec.ofNat 8 x :: toBytes n (x / 256) := by
  simp [toBytes, List.range_succ_eq_map, Nat.pow_succ', Nat.div_div_eq_div_mul, Function.comp_def]

theorem ofBytes_toBytes (n x : Nat) : ofBytes (toBytes n x) = x % 256 ^ n := by
  induction n generalizing x with
  | zero => simp [toBytes, ofBytes, Nat.mod_one]
  | succ n ih =>
    rw [toBytes_succ, ofBytes, ih, pow_succ', Nat.mod_mul]
    simp

/-- A part of a list made of parts of one length. -/
theorem take_drop_flatMap {α β : Type} {f : α → List β} {n : Nat} (hf : ∀ x, (f x).length = n) (xs : List α) {j : Nat}
    (hj : j < xs.length) : ((xs.flatMap f).drop (n * j)).take n = f xs[j] := by
  induction xs generalizing j with
  | nil => simp at hj
  | cons x xs ih =>
    cases j with
    | zero => simp [List.take_left' (hf x)]
    | succ j =>
      rw [List.flatMap_cons, Nat.mul_succ, Nat.add_comm, ← List.drop_drop, List.drop_left' (hf x)]
      exact ih (by simpa using hj)

end Sys2Proof

namespace Sys2Proof.Machine

/-! ### The windows of a team -/

/-- Writes bytes of a window. -/
def Team.setBufBytes (t : Team) (space unit : Nat) (shadow : Bool) (a : Nat) (bs : List Byte) : Team :=
  bs.zipIdx.foldl (fun t p => t.setBufByte space unit shadow (a + p.2) p.1) t

section
variable (t : Team) (space unit : Nat) (shadow : Bool) (a : Nat)

theorem Team.setBufBytes_append_one (bs : List Byte) (x : Byte) : t.setBufBytes space unit shadow a (bs ++ [x]) =
    (t.setBufBytes space unit shadow a bs).setBufByte space unit shadow (a + bs.length) x := by
  simp [Team.setBufBytes, List.zipIdx_append]

variable {b : Nat} (hb : b < 2 ^ 21)
include hb

theorem bufKey_ne {x y : Bool} (ha : a < 2 ^ 21) (h : b ≠ a) : bufKey space unit x b ≠ bufKey space unit y a := by
  unfold bufKey
  omega

theorem Team.bufByte_setBufByte (ha : a < 2 ^ 21) (x : Byte) : (t.setBufByte space unit shadow a x).bufByte space unit shadow b =
    if b = a then x else t.bufByte space unit shadow b := by
  split
  next h =>
    subst h
    exact SMap.get_put_same ..
  next h => exact SMap.get_put_other _ _ _ (bufKey_ne space unit a hb ha h)

/-- A byte of a window after a write of bytes. -/
theorem Team.bufByte_setBufBytes (bs : List Byte) (ha : a + bs.length ≤ 2 ^ 21) :
    (t.setBufBytes space unit shadow a bs).bufByte space unit shadow b =
      if a ≤ b ∧ b < a + bs.length then bs.getD (b - a) 0 else t.bufByte space unit shadow b := by
  induction bs using List.reverseRecOn with
  | nil => simp [Team.setBufBytes, show ¬ (a ≤ b ∧ b < a) by omega]
  | append_singleton bs x ih =>
    rw [List.length_append, List.length_singleton] at ha
    rw [Team.setBufBytes_append_one, Team.bufByte_setBufByte _ _ _ _ _ hb (by omega), ih (by omega), List.length_append,
      List.length_singleton]
    rcases Nat.lt_trichotomy b (a + bs.length) with h | h | h
    · rw [if_neg (by omega)]
      refine ite_congr (by simp; omega) (fun hab => ?_) fun _ => rfl
      rw [List.getD_append _ _ _ _ (by omega)]
    · rw [if_pos h, if_pos (by omega), List.getD_append_right _ _ _ _ (by omega), show b - a - bs.length = 0 by omega]
      rfl
    · rw [if_neg (by omega), if_neg (by omega), if_neg (by omega)]

end

/-! ### The windows of the state -/

section
variable (s : State) (tid space unit : Nat) (shadow : Bool) (a : Nat)

theorem State.bankCow_eq :
    s.bankCow tid space unit shadow a = { s with snaps := (s.bankCow tid space unit shadow a).snaps } := by
  rw [State.bankCow]
  exact State.cow_eq ..

/-- A write of a window moves its team, and the snapshots that its banks are preserved for. -/
theorem State.bufWrite_eq (bs : List Byte) : s.bufWrite tid space unit shadow a bs =
    { s with teams := (s.bufWrite tid space unit shadow a bs).teams, snaps := (s.bufWrite tid space unit shadow a bs).snaps } := by
  refine List.foldlRecOn (motive := fun t : State => t = { s with teams := t.teams, snaps := t.snaps }) _ _ rfl fun t ht p _ => ?_
  rw [State.bankCow_eq, ht]
  rfl

theorem State.bufWrite_append_one (bs : List Byte) (x : Byte) : s.bufWrite tid space unit shadow a (bs ++ [x]) =
    ((s.bufWrite tid space unit shadow a bs).bankCow tid space unit shadow (a + bs.length)).modTeam tid
      fun t => t.setBufByte space unit shadow (a + bs.length) x := by
  simp [State.bufWrite, List.zipIdx_append]

theorem State.find?_bufWrite (bs : List Byte) : (s.bufWrite tid space unit shadow a bs).teams.find? tid =
    (s.teams.find? tid).map fun t => t.setBufBytes space unit shadow a bs := by
  induction bs using List.reverseRecOn with
  | nil => simp [State.bufWrite, Team.setBufBytes]
  | append_singleton bs x ih =>
    rw [State.bufWrite_append_one, State.bankCow_eq]
    show SMap.find? (SMap.modify _ _ _) _ = _
    rw [SMap.find?_modify_same, ih, Option.map_map]
    exact congrArg (Option.map · _) (funext fun t => (t.setBufBytes_append_one ..).symm)

variable {s tid} (h : (s.teams.find? tid).isSome = true)
include h

theorem State.isSome_bufWrite (bs : List Byte) : ((s.bufWrite tid space unit shadow a bs).teams.find? tid).isSome = true := by
  rw [State.find?_bufWrite, Option.isSome_map, h]

theorem State.team_bufWrite (bs : List Byte) :
    (s.bufWrite tid space unit shadow a bs).team tid = (s.team tid).setBufBytes space unit shadow a bs := by
  obtain ⟨t, ht⟩ := Option.isSome_iff_exists.mp h
  rw [State.team, SMap.get, State.find?_bufWrite, State.team, SMap.get, ht]
  rfl

variable {bs : List Byte} (ha : a + bs.length ≤ 2 ^ 21) {b n : Nat}
include ha

/-- A number of a window in what has been written. -/
theorem State.bufNat_bufWrite_inside (hlo : a ≤ b) (hhi : b + n ≤ a + bs.length) :
    (s.bufWrite tid space unit false a bs).bufNat tid space unit b n = ofBytes ((bs.drop (b - a)).take n) := by
  refine congrArg ofBytes (List.ext_getElem (by simp [State.bufRead]; omega) fun i hi hi' => ?_)
  simp only [State.bufRead, List.length_map, List.length_range] at hi
  simp only [State.bufRead, State.team_bufWrite _ _ _ _ h, List.getElem_map, List.getElem_range, List.getElem_take, List.getElem_drop]
  rw [Team.bufByte_setBufBytes _ _ _ _ _ (by omega) _ ha, if_pos (by omega), List.getD_eq_getElem _ _ (by omega)]
  congr 1
  omega

/-- A number of a window beside what has been written. -/
theorem State.bufNat_bufWrite_outside (hb : b + n ≤ 2 ^ 21) (hout : b + n ≤ a ∨ a + bs.length ≤ b) :
    (s.bufWrite tid space unit false a bs).bufNat tid space unit b n = s.bufNat tid space unit b n := by
  refine congrArg ofBytes (List.map_congr_left fun i hi => ?_)
  rw [List.mem_range] at hi
  rw [State.team_bufWrite _ _ _ _ h, Team.bufByte_setBufBytes _ _ _ _ _ (by omega) _ ha, if_neg (by omega)]

end

end Sys2Proof.Machine
end

section
/-!
PROOF. The placement of an operation (R275, R278, R283): what the commit of the members leaves of the matrix unit, and what it gives each
member's threads.
-/

namespace Sys2Proof.Machine

/-! ### The commit of the members -/

/-- A member's group out of the rendezvous, with the ticket in vD (R283). -/
def Group.ticketed (g : Group) (iss : Issue) (ticket : Nat) : Group :=
  (g.modThreads iss.lanes fun _ t => t.endWait fun w => match w with
    | .rendezvous .. => true
    | _ => false).writeV iss.arrival.vd iss.lanes (iss.lanesOf fun _ => BitVec.ofNat 64 ticket)

/-- A member's group as its clause commits: besides, its threads stand at the next clause, and one more result is outstanding in the clause's
slot. -/
def Group.memberCommitted (g : Group) (iss : Issue) (ticket : Nat) : Group :=
  { (g.ticketed iss ticket).modThreads iss.lanes fun _ t => { t with pc := iss.nextPc } with
    sb := g.sb.put iss.signal (g.sb.get iss.signal 0 + 1) 0 }

theorem Group.thread_memberCommitted {g : Group} (hlen : g.threads.length = 32) {iss : Issue} {l : Nat} (hl : iss.lanes.has l = true)
    (ticket : Nat) : ((g.memberCommitted iss ticket).thread l).pc = iss.nextPc ∧
      ((g.memberCommitted iss ticket).thread l).v.get iss.arrival.vd 0 = BitVec.ofNat 64 ticket := by
  have hticketed : l < (g.ticketed iss ticket).threads.length := by simpa [Group.ticketed, Group.writeV, hlen] using Lanes.has_lt hl
  have hthread : (g.memberCommitted iss ticket).thread l = { (g.ticketed iss ticket).thread l with pc := iss.nextPc } :=
    (Group.thread_modThreads _ iss.lanes (fun _ t => { t with pc := iss.nextPc }) hticketed).trans (if_pos hl)
  rw [hthread]
  refine ⟨rfl, ?_⟩
  rw [Group.ticketed, Group.v_writeV _ _ _ _ (by simpa [hlen] using Lanes.has_lt hl), if_pos ⟨hl, rfl⟩, Issue.at_lanesOf _ _ hl]

section
variable (s : State) (iss : Issue) (ticket wid q : Nat)

/-- The commit of a member changes its group as above, then forms the group's bundles; of the teams and the matrix unit it moves nothing. -/
theorem State.commitMember_forms : ∃ u : State, (s.commitMember iss ticket wid q).2 = u.form iss.gid ∧
    u.groups = (s.groups.modify iss.gid fun g => g.memberCommitted iss ticket) ∧ u.teams = s.teams ∧ u.latches = s.latches ∧
      u.works = s.works := by
  refine ⟨_, rfl, ?_, ?_⟩ <;> rw [State.writeV_eq]
  · show SMap.modify (SMap.modify (SMap.modify (SMap.modify s.groups iss.gid _) iss.gid _) iss.gid _) iss.gid _ = _
    rw [SMap.modify_modify, SMap.modify_modify, SMap.modify_modify]
    rfl
  · exact ⟨rfl, rfl, rfl⟩

/-- The part of the state that the commit of members leaves. -/
def State.matrixPart (s : State) : SMap Team × SMap (List Latch) × SMap Work := (s.teams, s.latches, s.works)

theorem State.matrixPart_commitMember : (s.commitMember iss ticket wid q).2.matrixPart = s.matrixPart := by
  obtain ⟨u, hu, -, hteams, hlatches, hworks⟩ := s.commitMember_forms iss ticket wid q
  rw [hu, (u.form_reforms iss.gid).state, State.matrixPart, State.matrixPart, ← hteams, ← hlatches, ← hworks]

variable {s iss}

theorem State.commitMember_thread {g : Group} (hg : s.groups.find? iss.gid = some g) (hlen : g.threads.length = 32) {l : Nat}
    (hl : iss.lanes.has l = true) : (((s.commitMember iss ticket wid q).2.group iss.gid).thread l).pc = iss.nextPc ∧
      (((s.commitMember iss ticket wid q).2.group iss.gid).thread l).v.get iss.arrival.vd 0 = BitVec.ofNat 64 ticket := by
  obtain ⟨u, hu, hgroups, -⟩ := s.commitMember_forms iss ticket wid q
  have hgroup : u.group iss.gid = g.memberCommitted iss ticket := by simp [State.group, SMap.get, hgroups, hg]
  rw [hu, ((u.form_reforms iss.gid).group iss.gid).thread l, hgroup]
  exact Group.thread_memberCommitted hlen hl ticket

end

/-- The commit of the members of an operation, in the order of their arrival: their events, and the state (R275). -/
def State.commitMembers (s : State) (is : List Issue) (ticket wid q : Nat) : List Nat × State :=
  is.foldl (fun p i => (p.1 ++ [(p.2.commitMember i ticket wid q).1], (p.2.commitMember i ticket wid q).2)) ([], s)

theorem State.matrixPart_commitMembers (s : State) (is : List Issue) (ticket wid q : Nat) :
    (s.commitMembers is ticket wid q).2.matrixPart = s.matrixPart :=
  foldl_leaves (fun p : List Nat × State => p.2.matrixPart) (fun p i => p.2.matrixPart_commitMember i ticket wid q) is ([], s)

/-! ### The placement -/

/-- The state with an operation entered in the table, its team's next ticket its own (R283). -/
def State.entered (s : State) (team : Nat) (l : Latch) (x : Work) : State :=
  ((s.addWork { x with ticket := (s.team team).mticket, gid := (l.arrivals.head?.map (·.gid)).getD 0 }).2).modTeam team
    fun t => { t with mticket := (t.mticket + 1) % 2 ^ 16 }

theorem State.entered_groups (s : State) (team : Nat) (l : Latch) (x : Work) : (s.entered team l x).groups = s.groups := rfl

theorem State.group_setLatches (s : State) (q : Nat) (ls : List Latch) (k : Nat) : (s.setLatches q ls).group k = s.group k := rfl

theorem State.group_works (s : State) (m : SMap Work) (k : Nat) : ({ s with works := m } : State).group k = s.group k := rfl

/-- The events of the members go to an operation. -/
def Work.withEvents (w : Work) (es : List Nat) : Work :=
  { w with members := (w.members.zip es).map fun (p : Member × Nat) => { p.1 with event := p.2 } }

theorem execMatrixEntryPlacement_places {s : State} {q team tag : Nat} {l : Latch} {x : Work}
    (hl : ((s.clusterLatches q).find? fun l => l.isKey team tag) = some l) (hx : l.work = some x) (hfree : (s.entries q).length < 16) :
    ∃ v : List Nat × State, v = (s.entered team l x).commitMembers l.arrivals (s.team team).mticket s.nextId q ∧
      execMatrixEntryPlacement q team tag s =
        .next (({ v.2 with works := v.2.works.modify s.nextId fun w => w.withEvents v.1 } : State).setLatches q
          ((v.2.clusterLatches q).filter fun m => !m.isKey team tag)) := by
  refine ⟨_, rfl, ?_⟩
  unfold execMatrixEntryPlacement
  rw [hl]
  simp only [hx]
  exact if_neg (Nat.not_le.mpr hfree)

/-- A placement enters the operation with its team's ticket, advances the ticket, frees the latch and commits the member of a gang of one
(R275, R278, R283). -/
theorem matrixEntryPlacement_places {s : State} {q team tag : Nat} {l : Latch} {x : Work}
    (hl : ((s.clusterLatches q).find? fun l => l.isKey team tag) = some l) (hx : l.work = some x)
    (hteam : (s.teams.find? team).isSome = true) (hfree : (s.entries q).length < 16) : Answers (.matrixEntryPlacement q team tag) s fun t =>
      t.clusterLatches q = (s.clusterLatches q).filter (fun m => !m.isKey team tag) ∧
      (t.team team).mticket = ((s.team team).mticket + 1) % 2 ^ 16 ∧
      ∃ y, t.works.find? s.nextId = some y ∧ y.ticket = (s.team team).mticket ∧ y.kind = x.kind ∧ y.fmt = x.fmt ∧ y.caddr = x.caddr ∧
        ∀ i g, l.arrivals = [i] → s.groups.find? i.gid = some g → g.threads.length = 32 → ∀ l, i.lanes.has l = true →
          ((t.group i.gid).thread l).pc = i.nextPc ∧
          ((t.group i.gid).thread l).v.get i.arrival.vd 0 = BitVec.ofNat 64 (s.team team).mticket := by
  obtain ⟨v, hv, hexec⟩ := execMatrixEntryPlacement_places hl hx hfree
  have hpart := (s.entered team l x).matrixPart_commitMembers l.arrivals (s.team team).mticket s.nextId q
  rw [← hv] at hpart
  obtain ⟨hteams, hrest⟩ := Prod.mk.inj hpart
  obtain ⟨hlatches, hworks⟩ := Prod.mk.inj hrest
  obtain ⟨t, ht⟩ := Option.isSome_iff_exists.mp hteam
  refine ⟨_, (exec_matrixEntryPlacement q team tag s).trans hexec, ?latches, ?ticket, ?_, ?work, ?_, ?_, ?_, ?_, fun i g harr hg hlen k hk => ?_⟩
  case latches =>
    rw [State.clusterLatches_setLatches]
    exact congrArg (fun m : SMap (List Latch) => (m.get q []).filter fun m => !m.isKey team tag) hlatches
  case ticket =>
    show (SMap.get v.2.teams team _).mticket = ((SMap.get s.teams team _).mticket + 1) % 2 ^ 16
    rw [hteams]
    simp [State.entered, State.addWork, State.modTeam, SMap.get, ht]
  case work =>
    show SMap.find? (SMap.modify v.2.works _ _) _ = _
    rw [SMap.find?_modify_same, hworks]
    show Option.map _ (SMap.find? (SMap.insert _ _ _) _) = _
    rw [SMap.find?_insert_same]
    rfl
  · rfl
  · rfl
  · rfl
  · rfl
  · have hmember : v.2 = ((s.entered team l x).commitMember i (s.team team).mticket s.nextId q).2 := by
      rw [hv, harr]
      rfl
    rw [State.group_setLatches, State.group_works, hmember]
    exact State.commitMember_thread _ _ _ (by rwa [State.entered_groups]) hlen hk

end Sys2Proof.Machine
end

section
/-!
PROOF. A pass (R281, R282): the block is added to C cell by cell, and the entry is moved on.
-/

namespace Sys2Proof.Machine

/-! ### The cells of a tile -/

/-- One cell of an operation's tile. -/
def State.cell (s : State) (w : Work) (i j : Nat) : Nat := s.bufNat w.team 2 0 (w.caddr + i * w.cstride + 4 * j) 4

/-- Adds a row of sums into the tile. -/
def State.addRow (s : State) (w : Work) (i : Nat) (row : List CellSum) : State :=
  s.bufWrite w.team 2 0 false (w.caddr + i * w.cstride) (row.zipIdx.flatMap fun c => toBytes 4 (addCell (s.cell w i c.2) c.1))

/-- Adds a block of sums into the tile, row by row. -/
def State.addBlock (s : State) (w : Work) (S : List (List CellSum)) : State := S.zipIdx.foldl (fun s p => s.addRow w p.2 p.1) s

theorem State.addBlock_append_one (s : State) (w : Work) (S : List (List CellSum)) (row : List CellSum) :
    s.addBlock w (S ++ [row]) = (s.addBlock w S).addRow w S.length row := by
  simp [State.addBlock, List.zipIdx_append]

/-- Adding a block moves the team, and the snapshots that its banks are preserved for. -/
theorem State.addBlock_eq (s : State) (w : Work) (S : List (List CellSum)) :
    s.addBlock w S = { s with teams := (s.addBlock w S).teams, snaps := (s.addBlock w S).snaps } := by
  refine List.foldlRecOn (motive := fun t : State => t = { s with teams := t.teams, snaps := t.snaps }) _ _ rfl fun t ht p _ => ?_
  rw [State.addRow, State.bufWrite_eq, ht]

section
variable {s : State} {w : Work} (hteam : (s.teams.find? w.team).isSome = true) (hstride : 256 ≤ w.cstride)
  (hfits : w.caddr + 63 * w.cstride + 256 ≤ 2 ^ 21) {row : List CellSum} (hrow : row.length = 64) {i j : Nat} (hi : i < 64) (hj : j < 64)
include hteam hstride hfits hrow hi hj

omit hstride in
theorem State.cell_addRow_same : (s.addRow w i row).cell w i j = addCell (s.cell w i j) row[j] % 2 ^ 32 := by
  have hlen : (row.zipIdx.flatMap fun c => toBytes 4 (addCell (s.cell w i c.2) c.1)).length = 256 := by
    simp [List.length_flatMap, hrow]
  have := Nat.mul_le_mul_right w.cstride (Nat.le_of_lt_succ hi)
  rw [State.cell, State.addRow, State.bufNat_bufWrite_inside _ _ _ hteam (by omega) (by omega) (by omega), Nat.add_sub_cancel_left,
    take_drop_flatMap (by simp) _ (by simpa [hrow] using hj), ofBytes_toBytes]
  simp

theorem State.cell_addRow_other {k : Nat} (hk : k < 64) (h : k ≠ i) : (s.addRow w i row).cell w k j = s.cell w k j := by
  have hlen : (row.zipIdx.flatMap fun c => toBytes 4 (addCell (s.cell w i c.2) c.1)).length = 256 := by
    simp [List.length_flatMap, hrow]
  have := Nat.mul_le_mul_right w.cstride (Nat.le_of_lt_succ hi)
  have := Nat.mul_le_mul_right w.cstride (Nat.le_of_lt_succ hk)
  refine State.bufNat_bufWrite_outside _ _ _ hteam (by omega) (by omega) ?_
  rw [hlen]
  rcases Nat.lt_or_gt_of_ne h with h | h
  · have := Nat.mul_le_mul_right w.cstride h
    rw [Nat.succ_mul] at this
    omega
  · have := Nat.mul_le_mul_right w.cstride h
    rw [Nat.succ_mul] at this
    omega

end

section
variable {s : State} {w : Work} (hteam : (s.teams.find? w.team).isSome = true) (hstride : 256 ≤ w.cstride)
  (hfits : w.caddr + 63 * w.cstride + 256 ≤ 2 ^ 21)
include hteam

theorem State.isSome_addBlock (S : List (List CellSum)) : ((s.addBlock w S).teams.find? w.team).isSome = true :=
  List.foldlRecOn (motive := fun t : State => (t.teams.find? w.team).isSome = true) _ _ hteam fun _ ht _ _ =>
    State.isSome_bufWrite _ _ _ _ ht _

include hstride hfits

/-- A cell of the tile after rows of sums are added: in those rows its sum with theirs. -/
theorem State.cell_addBlock (S : List (List CellSum)) (hS : S.length ≤ 64) (hrows : ∀ row ∈ S, row.length = 64) {i j : Nat} (hi : i < 64)
    (hj : j < 64) : (s.addBlock w S).cell w i j =
      if i < S.length then addCell (s.cell w i j) ((S.getD i []).getD j .none) % 2 ^ 32 else s.cell w i j := by
  induction S using List.reverseRecOn with
  | nil => rfl
  | append_singleton S row ih =>
    rw [List.length_append, List.length_singleton] at hS
    have hrow : row.length = 64 := hrows row (by simp)
    have hbefore := ih (by omega) fun r hr => hrows r (List.mem_append_left _ hr)
    have hsome := State.isSome_addBlock hteam S
    rw [State.addBlock_append_one, List.length_append, List.length_singleton]
    rcases Nat.lt_trichotomy i S.length with h | h | h
    · rw [State.cell_addRow_other hsome hstride hfits hrow (by omega) hj hi (by omega), hbefore, if_pos h, if_pos (by omega),
        List.getD_append _ _ _ _ h]
    · subst h
      have hlast : (S ++ [row]).getD S.length [] = row := by simp
      rw [State.cell_addRow_same hsome hfits hrow hi hj, hbefore, if_neg (by omega), if_pos (by omega), hlast,
        List.getD_eq_getElem row _ (hrow.symm ▸ hj)]
    · rw [State.cell_addRow_other hsome hstride hfits hrow (by omega) hj hi (by omega), hbefore, if_neg (by omega), if_neg (by omega)]

end

/-! ### The pass -/

/-- The rows of an entry's next block. -/
def State.blockRows (s : State) (w : Work) : List RowBlock := (List.range 64).map (s.rowBlock w w.done)
/-- Its columns. -/
def State.blockCols (s : State) (w : Work) : List ColBlock := (List.range 64).map (s.colBlock w w.done)
/-- Its sums. -/
def State.blockSums (s : State) (w : Work) : List (List CellSum) := (s.blockRows w).map fun r => (s.blockCols w).map (cellSum r)

theorem State.length_blockSums (s : State) (w : Work) : (s.blockSums w).length = 64 := by simp [State.blockSums, State.blockRows]

theorem State.length_of_mem_blockSums {s : State} {w : Work} : ∀ row ∈ s.blockSums w, row.length = 64 := by
  intro row hrow
  obtain ⟨r, -, rfl⟩ := List.mem_map.mp hrow
  simp [State.blockCols]

theorem State.getD_blockSums (s : State) (w : Work) {i j : Nat} (hi : i < 64) (hj : j < 64) :
    ((s.blockSums w).getD i []).getD j .none = cellSum (s.rowBlock w w.done i) (s.colBlock w w.done j) := by
  simp [State.blockSums, State.blockRows, State.blockCols, List.getD, hi, hj]

/-- An entry after a pass of a block that adds it: one block more, and the corrected cell noted (R281 to R283). -/
def Work.passed (w : Work) (b now : Nat) (fix : Option (Nat × Nat)) : Work :=
  let w := match fix with
    | some (i, j) => { w with corr := min 255 (w.corr + 1), crow := i, ccol := j, cblk := b }
    | none => w
  { w with done := w.done + 1, state := if w.done + 1 == w.total then 2 else 1, since := now, first := false }

theorem Work.passed_state (w : Work) (b now : Nat) (fix : Option (Nat × Nat)) :
    (w.passed b now fix).state = if w.done + 1 = w.total then 2 else 1 := by
  cases fix with
  | none => simp only [Work.passed, beq_iff_eq]
  | some c =>
    simp only [Work.passed, beq_iff_eq]
    rfl

/-- The state with the pass counted, and with it the correction of a cell (R282). -/
def State.passCounted (s : State) (q : Nat) (fix : Option (Nat × Nat)) : State :=
  if fix.isSome then (s.bumpMcks q 3).bumpMcks q 0 else s.bumpMcks q 3

/-- The state with a block added and its entry moved on. -/
def State.blockAdded (s : State) (id : Nat) (w : Work) (S : List (List CellSum)) (fix : Option (Nat × Nat)) : State :=
  let v := (s.passCounted w.cluster fix).addBlock w S
  { v with works := v.works.modify id fun x => x.passed w.done v.clock fix }

theorem State.cell_blockAdded (s : State) (id : Nat) (w : Work) (S : List (List CellSum)) (fix : Option (Nat × Nat)) (i j : Nat) :
    (s.blockAdded id w S fix).cell w i j = ((s.passCounted w.cluster fix).addBlock w S).cell w i j := rfl

theorem State.teams_passCounted (s : State) (q : Nat) (fix : Option (Nat × Nat)) : (s.passCounted q fix).teams = s.teams := by
  cases fix <;> rfl

theorem State.cell_passCounted (s : State) (q : Nat) (fix : Option (Nat × Nat)) (w : Work) (i j : Nat) :
    (s.passCounted q fix).cell w i j = s.cell w i j := by
  cases fix <;> rfl

/-- The state in which the test error of a cluster has been used (R390). -/
def State.disarmed (s : State) (q e : Nat) : State := { s.completeEvent e with injMat := s.injMat.erase q }

section
variable {s : State} {id : Nat} {w : Work} {S : List (List CellSum)}

theorem State.runBlock_of_clean (hflip : s.injMat.find? w.cluster = none)
    (hcheck : checkPass (blockLen w.k w.done) (s.blockRows w) (s.blockCols w) (s.blockSums w) = .add S false none) :
    s.runBlock id w = s.blockAdded id w S none := by
  unfold State.blockSums State.blockRows State.blockCols at hcheck
  unfold State.runBlock
  simp only [hflip, hcheck]
  rfl

theorem State.runBlock_of_flip {p e : Nat} {fix : Nat × Nat} (hflip : s.injMat.find? w.cluster = some (p, e))
    (hcheck : checkPass (blockLen w.k w.done) (s.blockRows w) (s.blockCols w)
      (bumpCell (s.blockSums w) (flipOf p).1 (flipOf p).2.1 (flipOf p).2.2) = .add S false (some fix)) :
    s.runBlock id w = (s.disarmed w.cluster e).blockAdded id w S (some fix) := by
  unfold State.blockSums State.blockRows State.blockCols at hcheck
  unfold State.runBlock
  simp only [hflip, hcheck]
  rfl

theorem State.works_blockAdded (hw : s.works.find? id = some w) (S : List (List CellSum)) (fix : Option (Nat × Nat)) :
    (s.blockAdded id w S fix).works.get id w = w.passed w.done s.clock fix := by
  unfold State.blockAdded State.passCounted
  rw [State.addBlock_eq]
  show SMap.get (SMap.modify _ _ _) _ _ = _
  rw [SMap.get, SMap.find?_modify_same]
  split <;> (show Option.getD (Option.map _ (SMap.find? s.works id)) _ = _; rw [hw]; rfl)

end

section
variable {s : State} {q id : Nat} {w : Work} (hq : w.cluster = q) (hw : s.works.find? id = some w) (hpass : s.arbitrate q = some (id, w))
include hq hw hpass

/-- A pass without a test error adds the block's sum to each cell of C (R281, R282). -/
theorem matrixPass_adds (hflip : s.injMat.find? q = none)
    (hcheck : checkPass (blockLen w.k w.done) (s.blockRows w) (s.blockCols w) (s.blockSums w) = .add (s.blockSums w) false none)
    (hteam : (s.teams.find? w.team).isSome = true) (hstride : 256 ≤ w.cstride) (hfits : w.caddr + 63 * w.cstride + 256 ≤ 2 ^ 21) :
    Answers (.matrixPass q) s fun t => (t.works.get id w).done = w.done + 1 ∧
      (t.works.get id w).state = (if w.done + 1 = w.total then 2 else 1) ∧ ∀ i j, i < 64 → j < 64 →
        t.cell w i j = addCell (s.cell w i j) (cellSum (s.rowBlock w w.done i) (s.colBlock w w.done j)) % 2 ^ 32 := by
  subst hq
  refine ⟨s.blockAdded id w (s.blockSums w) none, ?_, ?_, ?_, fun i j hi hj => ?_⟩
  · rw [exec_matrixPass, execMatrixPass, hpass, ← State.runBlock_of_clean hflip hcheck]
  · rw [State.works_blockAdded hw]
    rfl
  · rw [State.works_blockAdded hw, Work.passed_state]
  · have hcounted : ((s.passCounted w.cluster none).teams.find? w.team).isSome = true := by rwa [State.teams_passCounted]
    rw [State.cell_blockAdded, State.cell_addBlock hcounted hstride hfits _ (s.length_blockSums w).le State.length_of_mem_blockSums hi hj,
      s.length_blockSums w, if_pos hi, s.getD_blockSums w hi hj, State.cell_passCounted]

/-- A pass with a test error that its check finds corrects the cell, notes and counts it, and uses the error up (R282, R390). -/
theorem matrixPass_corrects {p e i j : Nat} {S : List (List CellSum)} (hflip : s.injMat.find? q = some (p, e))
    (hcheck : checkPass (blockLen w.k w.done) (s.blockRows w) (s.blockCols w)
      (bumpCell (s.blockSums w) (flipOf p).1 (flipOf p).2.1 (flipOf p).2.2) = .add S false (some (i, j))) :
    Answers (.matrixPass q) s fun t => (t.works.get id w).done = w.done + 1 ∧
      (t.works.get id w).state = (if w.done + 1 = w.total then 2 else 1) ∧ (t.works.get id w).corr = min 255 (w.corr + 1) ∧
      (t.works.get id w).crow = i ∧ (t.works.get id w).ccol = j ∧ t.injMat.find? q = none ∧
      t.mcks.get (mcksKey q 0) 0 = s.mcks.get (mcksKey q 0) 0 + 1 := by
  subst hq
  have hworks := State.works_blockAdded (s := s.disarmed w.cluster e) hw S (some (i, j))
  refine ⟨(s.disarmed w.cluster e).blockAdded id w S (some (i, j)), ?_, ?_, ?_, ?_, ?_, ?_, ?_, ?_⟩
  · rw [exec_matrixPass, execMatrixPass, hpass, ← State.runBlock_of_flip hflip hcheck]
  · rw [hworks]
    rfl
  · rw [hworks, Work.passed_state]
  · rw [hworks]
    rfl
  · rw [hworks]
    rfl
  · rw [hworks]
    rfl
  · rw [State.blockAdded, State.addBlock_eq]
    exact SMap.find?_erase_same ..
  · rw [State.blockAdded, State.addBlock_eq]
    show ((s.bumpMcks w.cluster 3).bumpMcks w.cluster 0).mcks.get _ 0 = _
    simp only [State.bumpMcks, SMap.get_put_same]
    rw [SMap.get_put_other _ _ _ (by simp [mcksKey])]

end

end Sys2Proof.Machine
end

section
/-!
PROOF. The other events of the matrix unit (R275, R278, R283, R286, R290), and the statement of them all.
-/

namespace Sys2Proof

/-- A change of an entry of a map is what it gives of that entry. -/
theorem SMap.modify_congr {α : Type} {m : SMap α} {k : Nat} {a : α} (h : m.find? k = some a) {f g : α → α} (hfg : f a = g a) :
    m.modify k f = m.modify k g := by
  induction m with
  | nil => rfl
  | cons p m ih =>
    obtain ⟨i, b⟩ := p
    by_cases hi : i = k
    · obtain rfl : b = a := by simpa [SMap.find?, hi] using h
      simp [SMap.modify, hi, hfg]
    · simp [SMap.modify, hi, ih (by simpa [SMap.find?, hi] using h)]

end Sys2Proof

namespace Sys2Proof.Machine

section
variable {s : State} {q id : Nat} {w : Work}

theorem execRendezvousLatchGrant_joins {iss : Issue} {rest : List Issue} (h : s.latchWaits.get q [] = iss :: rest) :
    execRendezvousLatchGrant q s = .next (({ s with
      latchWaits := if rest.isEmpty then s.latchWaits.erase q else s.latchWaits.insert q rest } : State).joinLatch q iss) := by
  unfold execRendezvousLatchGrant
  rw [h]

theorem execMatrixStarvationPriority_first (hw : s.works.find? id = some w) (hq : w.cluster = q) (hkind : w.kind = .entry)
    (hstate : w.state ≤ 1) (hsince : w.since + 8192 ≤ s.clock) :
    execMatrixStarvationPriority q id s = .next { s with works := s.works.modify id fun w => { w with first := true } } := by
  unfold execMatrixStarvationPriority
  refine congrArg (fun m => Host.Outcome.next { s with works := m }) (SMap.modify_congr hw ?_)
  exact if_pos (by simp [hq, hkind, hstate, hsince])

theorem execMatrixCompletion_completes (hw : s.works.find? id = some w) (hq : w.cluster = q) (hkind : w.kind = .entry)
    (hstate : w.state = 2 ∨ w.state = 4) (hcancels : w.cancels = []) :
    execMatrixCompletion q id s = .next (w.members.foldl (fun (t : State) m => (t.land m.event).acquireAll q 1)
      { s.bufWrite w.team 2 0 false w.status (toBytes 16 (w.statusWord w.state)) with works := s.works.erase id }).settle := by
  have hstops : (w.state == 3) = false := by rcases hstate with h | h <;> simp [h]
  have hends : 2 ≤ w.state ∧ w.state ≤ 4 := by omega
  unfold execMatrixCompletion
  rw [hw]
  refine (if_pos (by simp [hkind, hq, hends])).trans ?_
  unfold State.completeEntry
  simp only [hstops, hcancels, hq]
  rfl

theorem execMatrixDrainRun_runs (h : s.nextDrain q .drain = some (id, w)) : execMatrixDrainRun q s = .next (s.runDrain id w) := by
  unfold execMatrixDrainRun
  rw [h]

theorem execMatrixZeroRun_clears {e : Nat} (h : s.nextDrain q .zero = some (id, w)) (he : w.event = some e) :
    execMatrixZeroRun q s = .next (({ s.clearTile w with works := s.works.erase id } : State).completeEvent e).settle := by
  unfold execMatrixZeroRun
  rw [h]
  simp only [he]

end

end Sys2Proof.Machine

namespace Sys2Proof

open Sys2Proof.Machine

/-- Settles O33: the placement, the pass and its correction by what they give of the state, the other events by their one case each. -/
theorem matrixUnitEventResults : Obligations.MatrixUnitEventResults := by
  unfold Obligations.MatrixUnitEventResults
  intro s q id w hw hq
  refine ⟨fun iss rest h => (exec_rendezvousLatchGrant q s).trans (execRendezvousLatchGrant_joins h),
    fun team tag l x hl hx hteam hfree => matrixEntryPlacement_places hl hx hteam hfree, fun hpass => ⟨fun hflip hcheck hteam hstride hfits =>
      matrixPass_adds hq hw hpass hflip hcheck hteam hstride hfits, fun p e hflip hcheck => matrixPass_corrects hq hw hpass hflip hcheck⟩,
    fun hkind hstate hsince => (exec_matrixStarvationPriority q id s).trans (execMatrixStarvationPriority_first hw hq hkind hstate hsince),
    fun hkind hstate hcancels => (exec_matrixCompletion q id s).trans (execMatrixCompletion_completes hw hq hkind hstate hcancels),
    fun h => (exec_matrixDrainRun q s).trans (execMatrixDrainRun_runs h),
    fun e h he => (exec_matrixZeroRun q s).trans (execMatrixZeroRun_clears h he)⟩

end Sys2Proof
end

section
/-!
PROOF. The instructions of the engines, the fabric and the collectives at issue (R300 to R313, R329 to R340, R389): a command's record is
fetched once the earlier accesses of its threads are performed, and a record that passes its checks is held back as it was read.
-/

namespace Sys2Proof.Machine

section
variable {s : State} {iss : Issue} {f : FE} {ls : Lits}

/-! ### Records (R211, R285, R301, R304) -/

theorem State.recordFault_none {n : Nat} {unit align : Nat} (h0 : 0 ≤ iss.addrE f ls unit)
    (hn : iss.addrE f ls unit + n ≤ ((s.teamOf iss.gid).window 1 : Nat)) (hal : iss.addrE f ls unit % (align : Int) = 0) :
    s.recordFault iss (iss.addrE f ls unit) n align = none :=
  (State.recordFault_inside h0 hn).trans (if_neg (by simpa using hal))

theorem State.recordFault_misaligned {n : Nat} {unit align : Nat} (h0 : 0 ≤ iss.addrE f ls unit)
    (hn : iss.addrE f ls unit + n ≤ ((s.teamOf iss.gid).window 1 : Nat)) (hal : iss.addrE f ls unit % (align : Int) ≠ 0) :
    s.recordFault iss (iss.addrE f ls unit) n align = some .misaligned :=
  (State.recordFault_inside h0 hn).trans (if_pos (by simpa using hal))

theorem State.fetchRecord_waits {mem : Bool} {n unit : Nat} {k : State → List Byte → Result}
    (h : s.accessesDone iss.gid iss.lanes = false) : s.fetchRecord iss f ls mem n unit k = .next s.stall :=
  if_pos (by simp [State.mayRead?, h])

section
variable (hdone : s.accessesDone iss.gid iss.lanes = true) {n unit : Nat} {k : State → List Byte → Result}
include hdone

theorem State.fetchRecord_window (hr : s.recordFault iss (iss.addrE f ls unit) n 64 = none) :
    s.fetchRecord iss f ls false n unit k =
      k s (s.bufRead iss.before.team 1 (unitOf 1 iss.before.core) false (iss.addrE f ls unit).toNat n) := by
  simp [State.fetchRecord, State.mayRead?, hdone, hr]

theorem State.fetchRecord_handle {bs : List Byte}
    (hc : checkHandle (s.ctxI iss) (iss.hreg f.h.toNat) (iss.addrE f ls unit) n 64 [0] [] = none)
    (hread : s.handleRead iss.reader (s.ctxI iss) iss.before.core (iss.hreg f.h.toNat) (iss.addrE f ls unit).toNat n = .ok bs s) :
    s.fetchRecord iss f ls true n unit k = k s bs := by
  simp [State.fetchRecord, State.mayRead?, hdone, hc, hread]

end

end

section
variable {s : State} {iss : Issue} {rest : List Issue} (hrun : s.issuing = iss :: rest) (f : FE) (ls : Lits)
include hrun

/-! ### Copy commands (R301, R304) -/

theorem copyExec_eq (i : Instr) : copyExec i f ls s = s.fetchRecord iss f ls (f.aux.getLsbD 0) 64 64 fun s bs =>
    match s.copyFault iss f.sub.toNat (CopyRec.ofWords (wordsOf bs)) with
    | some (c, va) => s.faultAll iss c va
    | none => s.finish iss (2 + ls.length) [.act i iss.idx iss.lanes [] [] [] (wordsOf bs)] :=
  State.withIssue_cons _ hrun

theorem copyExec_waits (i : Instr) (h : s.accessesDone iss.gid iss.lanes = false) : copyExec i f ls s = .next s.stall :=
  (copyExec_eq hrun f ls i).trans (State.fetchRecord_waits h)

section
variable (hdone : s.accessesDone iss.gid iss.lanes = true)
include hdone

theorem copyExec_window (i : Instr) (haux : f.aux.getLsbD 0 = false) (hr : s.recordFault iss (iss.addrE f ls 64) 64 64 = none)
    {ws : List Nat}
    (hws : wordsOf (s.bufRead iss.before.team 1 (unitOf 1 iss.before.core) false (iss.addrE f ls 64).toNat 64) = ws) :
    copyExec i f ls s =
      match s.copyFault iss f.sub.toNat (CopyRec.ofWords ws) with
      | some (c, va) => s.faultAll iss c va
      | none => s.finish iss (2 + ls.length) [.act i iss.idx iss.lanes [] [] [] ws] := by
  rw [copyExec_eq hrun, haux, State.fetchRecord_window hdone hr, hws]

theorem copyExec_handle (i : Instr) {bs : List Byte} (haux : f.aux.getLsbD 0 = true)
    (hc : checkHandle (s.ctxI iss) (iss.hreg f.h.toNat) (iss.addrE f ls 64) 64 64 [0] [] = none)
    (hread : s.handleRead iss.reader (s.ctxI iss) iss.before.core (iss.hreg f.h.toNat) (iss.addrE f ls 64).toNat 64 = .ok bs s)
    (hfault : s.copyFault iss f.sub.toNat (CopyRec.ofWords (wordsOf bs)) = none) :
    copyExec i f ls s = s.finish iss (2 + ls.length) [.act i iss.idx iss.lanes [] [] [] (wordsOf bs)] := by
  rw [copyExec_eq hrun, haux, State.fetchRecord_handle hdone hc hread, hfault]

/-! ### Digests (R309) -/

theorem execDgst_accepts {n out st : Nat} {es : List (Nat × Nat)} (hn : bits (s.record iss (iss.addrE f ls 64).toNat 16) 6 0 = n)
    (hpos : 1 ≤ n) (hle : n ≤ 64) (hhead : s.recordFault iss (iss.addrE f ls 64) 16 1 = none)
    (hr : s.recordFault iss (iss.addrE f ls 64) (16 + 16 * n) 64 = none)
    (hes : digestEntries n
      (s.bufRead iss.before.team 1 (unitOf 1 iss.before.core) false (iss.addrE f ls 64).toNat (16 + 16 * n)) = es)
    (hout : bits (s.record iss (iss.addrE f ls 64).toNat 16) 47 16 = out)
    (hst : bits (s.record iss (iss.addrE f ls 64).toNat 16) 79 48 = st)
    (hlow : bits (s.record iss (iss.addrE f ls 64).toNat 16) 15 7 = 0)
    (hhigh : bits (s.record iss (iss.addrE f ls 64).toNat 16) 127 80 = 0) (hok : entriesOk es = true) (houtal : out % 32 = 0)
    (hstal : st % 16 = 0) (houtin : (s.teamOf iss.gid).plainRange out 32 = true) (hstin : (s.teamOf iss.gid).plainRange st 16 = true)
    (hc : checkHandle (s.ctxI iss) (iss.hreg f.h.toNat) 0 0 1 [0] [] = none)
    (hlen : ∀ p ∈ es, p.1 + p.2 ≤ handleLen (iss.hreg f.h.toNat)) :
    execDgst f ls s = s.finish iss (2 + ls.length)
      [.act (.dgst f ls) iss.idx iss.lanes [] [] [] (st :: out :: es.flatMap fun p => [p.1, p.2])] := by
  have hfind : (es.find? fun p => decide (handleLen (iss.hreg f.h.toNat) < p.1 + p.2)) = none :=
    List.find?_eq_none.mpr fun p hp => by simpa using hlen p hp
  have hzero : ¬ n = 0 := by omega
  rw [execDgst, State.withIssue_cons _ hrun]
  simp [State.mayRead?, hdone, hhead, hn, hr, hes, hout, hst, hlow, hhigh, hok, houtal, hstal, houtin, hstin, hc, hfind, hzero, hle]

theorem execMig_accepts (hc : checkHandle (s.ctxI iss) (iss.hreg f.h.toNat) (iss.addrE f ls 1) (iss.uniformB f ls).toNat 4096 [1] [] = none)
    (hal : (iss.uniformB f ls).toNat % 4096 = 0) : execMig f ls s = s.finish iss (2 + ls.length)
      [.act (.mig f ls) iss.idx iss.lanes [] [] [] [bits f.aux.toNat 1 0, vaOf (iss.hreg f.h.toNat) (iss.addrE f ls 1),
        vaOf (iss.hreg f.h.toNat) (iss.addrE f ls 1) + (iss.uniformB f ls).toNat, handleAsid (iss.hreg f.h.toNat)]] := by
  rw [execMig, State.withIssue_cons _ hrun]
  simp [hc, hal, State.mayRead?, hdone]

theorem execPublish_memory (hk : bits f.aux.toNat 1 0 = 3) (hc : checkHandle (s.ctxI iss) (iss.hreg f.h.toNat) (iss.addrE f ls 4096)
      (iss.uniformB f ls).toNat 4096 (rightsAt f.scope.toNat [4]) [] = none) (hal : (iss.uniformB f ls).toNat % 4096 = 0) :
    execPublish f ls s = s.finish iss (2 + ls.length) [.act (.publish f ls) iss.idx iss.lanes [] [] []
      [3, vaOf (iss.hreg f.h.toNat) (iss.addrE f ls 4096), (iss.uniformB f ls).toNat, handleAsid (iss.hreg f.h.toNat)]] := by
  rw [execPublish, State.withIssue_cons _ hrun]
  simp [hk, hc, hal, State.mayRead?, hdone]

theorem execPublish_buffer {k : Nat} (hk : bits f.aux.toNat 1 0 = k) (h3 : k ≠ 3) (h0 : 0 ≤ iss.addrE f ls (bankSize (k + 1)))
    (hal : iss.addrE f ls (bankSize (k + 1)) % bankSize (k + 1) = 0) (hpos : 1 ≤ (iss.uniformB f ls).toNat)
    (hle : (iss.uniformB f ls).toNat ≤ 16) (hpairs : ∀ i, i < (iss.uniformB f ls).toNat →
      (s.teamOf iss.gid).paired (k + 1) ((iss.addrE f ls (bankSize (k + 1))).toNat / bankSize (k + 1) + i) = true) :
    execPublish f ls s = s.finish iss (2 + ls.length) [.act (.publish f ls) iss.idx iss.lanes [] [] []
      [k, (iss.addrE f ls (bankSize (k + 1))).toNat, (iss.uniformB f ls).toNat * bankSize (k + 1), 0]] := by
  have hb : (iss.addrE f ls (bankSize (k + 1)) / (bankSize (k + 1) : Int)).toNat =
      (iss.addrE f ls (bankSize (k + 1))).toNat / bankSize (k + 1) := by
    obtain ⟨m, hm⟩ := Int.eq_ofNat_of_zero_le h0
    rw [hm]
    exact Int.toNat_natCast _
  have hn : ¬ (iss.uniformB f ls).toNat = 0 := by omega
  have hall : ((List.range (iss.uniformB f ls).toNat).all fun i =>
      (s.teamOf iss.gid).paired (k + 1) ((iss.addrE f ls (bankSize (k + 1))).toNat / bankSize (k + 1) + i)) = true :=
    List.all_eq_true.mpr fun i hi => hpairs i (List.mem_range.mp hi)
  rw [execPublish, State.withIssue_cons _ hrun]
  simp only [hk, beq_iff_eq, h3, if_false, hal, hb, hall]
  simp [Int.not_lt.mpr h0, hn, Nat.not_lt.mpr hle, State.mayRead?, hdone]

end

theorem execDgst_waits (h : s.accessesDone iss.gid iss.lanes = false) : execDgst f ls s = .next s.stall := by
  rw [execDgst, State.withIssue_cons _ hrun]
  exact if_pos (by simp [State.mayRead?, h])

/-! ### Tickets and translations (R313, R389) -/

/-- A ticket instruction that every grid may use holds back each lane's ticket. -/
theorem ticketExec_everywhere (i : Instr) : ticketExec false i f ls s = s.finish iss (2 + ls.length)
    [.act i iss.idx iss.lanes (iss.lanesOf (iss.operand (intLayout 5) f.a (litAt ls 0))) [] [] []] := by
  rw [ticketExec, State.withIssue_cons _ hrun]
  simp [Issue.ticket]

theorem execTlbinv_accepts
    (hc : checkHandle (s.ctxI iss) (iss.hreg f.h.toNat) (iss.addrE f ls 1) (iss.uniformB f ls).toNat 1 [] [] = none) :
    execTlbinv f ls s = s.finish iss (2 + ls.length) [.act (.tlbinv f ls) iss.idx iss.lanes [] [] []
      [handleAsid (iss.hreg f.h.toNat), vaOf (iss.hreg f.h.toNat) (iss.addrE f ls 1), (iss.uniformB f ls).toNat, f.aux.toNat % 2,
        f.scope.toNat]] := by
  rw [execTlbinv, State.withIssue_cons _ hrun]
  simp [hc]

theorem execAsidinv_eq : execAsidinv f ls s = s.finish iss (2 + ls.length) [.act (.asidinv f ls) iss.idx iss.lanes [] [] []
    [(iss.uniformM f.a (litAt ls 0)).toNat % 1024, 0, 2 ^ 52, f.aux.toNat % 2, f.scope.toNat]] :=
  State.withIssue_cons _ hrun

/-! ### Fabric commands (R329, R331) -/

theorem fabricExec_waits (i : Instr) (op : Nat) (h : s.accessesDone iss.gid iss.lanes = false) :
    fabricExec i op f ls s = .next s.stall := by
  rw [fabricExec, State.withIssue_cons _ hrun]
  exact if_pos (by simp [State.mayRead?, h])

section
variable (hdone : s.accessesDone iss.gid iss.lanes = true)
include hdone

theorem fabricExec_of_recordFault (i : Instr) (op : Nat) {c : FaultCode} (hr : s.recordFault iss (iss.addrE f ls 64) 64 64 = some c) :
    fabricExec i op f ls s = s.faultAll iss c := by
  rw [fabricExec, State.withIssue_cons _ hrun]
  simp [State.mayRead?, hdone, hr]

/-- The checks of R331 on a record that can be read, in their order. -/
theorem fabricExec_checks (i : Instr) (op : Nat) (hr : s.recordFault iss (iss.addrE f ls 64) 64 64 = none) {ws : List Nat}
    (hws : wordsOf (s.bufRead iss.before.team 1 (unitOf 1 iss.before.core) false (iss.addrE f ls 64).toNat 64) = ws) :
    fabricExec i op f ls s =
      if s.detI iss then s.faultAll iss .detAtomic
      else if (FabRec.ofWords ws).malformed op (s.teamOf iss.gid) then s.faultAll iss .fabRecord
      else
        match s.fabricCheck iss (FabRec.ofWords ws) with
        | some (c, va) => s.faultAll iss c va
        | none => s.finish iss (2 + ls.length) [.act i iss.idx iss.lanes [] [] [] ws] := by
  rw [fabricExec, State.withIssue_cons _ hrun]
  simp only [State.mayRead?, hdone, hr, hws]
  rfl

end

theorem execFstat_det (h : s.detI iss = true) : execFstat f ls s = s.faultAll iss .detAtomic := by
  rw [execFstat, State.withIssue_cons _ hrun]
  exact if_pos h

theorem execFstat_eq (h : s.detI iss = false) :
    execFstat f ls s = s.finish iss (2 + ls.length) [.act (.fstat f ls) iss.idx iss.lanes [] [] [] []] := by
  rw [execFstat, State.withIssue_cons _ hrun]
  exact if_neg (by simp [h])

end

end Sys2Proof.Machine

namespace Sys2Proof

open Sys2Proof.Machine

/-- Settles O35: a copy command by the fetch of its record, the other commands by their checks in their order. -/
theorem engineInstructionResults : Obligations.EngineInstructionResults := by
  unfold Obligations.EngineInstructionResults
  rintro s iss f ls ⟨rest, hrun⟩ w t c h e b rd fits held copies tickets
  have hcopy {i : Instr} (hi : copies i) : exec i s = copyExec i f ls s := by
    rcases hi with rfl | rfl | rfl <;> rfl
  have hrecord {n : Nat} (hf : fits n) : s.recordFault iss (iss.addrE f ls 64) n 64 = none := by
    obtain ⟨h0, hn, hal⟩ := hf
    exact State.recordFault_none h0 hn hal
  refine ⟨fun hbusy i hi => ?waits, fun hdone => ⟨fun i hi haux hf => ⟨fun hnone => ?window, fun x va hsome => ?refused⟩,
      fun i bs hi haux hc hread hnone => ?handle, ?digest,
      fun hc hal => (exec_mig f ls s).trans (execMig_accepts hrun f ls hdone hc hal),
      fun hk hc hal => (exec_publish f ls s).trans (execPublish_memory hrun f ls hdone hk hc hal), ?buffer⟩,
    (exec_ewait f ls s).trans (ticketExec_everywhere hrun f ls _), fun hdet => (exec_estat f ls s).trans (ticketExec_eq hrun f ls _ hdet),
    fun hdet => (exec_estat f ls s).trans (ticketExec_det hrun f ls _ hdet),
    fun hc => (exec_tlbinv f ls s).trans (execTlbinv_accepts hrun f ls hc), (exec_asidinv f ls s).trans (execAsidinv_eq hrun f ls)⟩
  case waits =>
    rcases hi with hi | rfl
    · exact (hcopy hi).trans (copyExec_waits hrun f ls i hbusy)
    · exact (exec_dgst f ls s).trans (execDgst_waits hrun f ls hbusy)
  case window =>
    refine (hcopy hi).trans ?_
    rw [copyExec_window hrun f ls hdone i haux (hrecord hf) (ws := wordsOf (rd 64)) rfl, hnone]
    rfl
  case refused =>
    refine (hcopy hi).trans ?_
    rw [copyExec_window hrun f ls hdone i haux (hrecord hf) (ws := wordsOf (rd 64)) rfl, hsome]
    rfl
  case handle => exact (hcopy hi).trans (copyExec_handle hrun f ls hdone i haux hc hread hnone)
  case digest =>
    intro n hn hpos hle hf r es out st hlow hhigh hok hout hst houtin hstin hc hlen
    have hhead : s.recordFault iss (iss.addrE f ls 64) 16 1 = none := by
      obtain ⟨h0, hin, -⟩ := hf
      have hin : iss.addrE f ls 64 + ((16 + 16 * n : Nat) : Int) ≤ ((s.teamOf iss.gid).window 1 : Nat) := hin
      exact State.recordFault_none h0 (by push_cast at hin ⊢; omega) (Int.emod_one _)
    exact (exec_dgst f ls s).trans (execDgst_accepts hrun f ls hdone hn.symm hpos hle hhead (hrecord hf) rfl rfl rfl hlow hhigh hok hout
      hst houtin hstin hc hlen)
  case buffer =>
    rintro k space hk h3 rfl h0 hal hpos hle hpairs
    exact (exec_publish f ls s).trans (execPublish_buffer hrun f ls hdone hk.symm h3 h0 hal hpos hle hpairs)

/-- Settles O37: the four commands are one instruction, by the checks of R331 in their order. -/
theorem fabricInstructionResults : Obligations.FabricInstructionResults := by
  unfold Obligations.FabricInstructionResults
  rintro s iss f ls ⟨rest, hrun⟩ w t e ws r op
  have hop {i : Instr} {n : Nat} (hi : op i n) : exec i s = fabricExec i n f ls s := by
    rcases hi with ⟨rfl, rfl⟩ | ⟨rfl, rfl⟩ | ⟨rfl, rfl⟩ | ⟨rfl, rfl⟩ <;> rfl
  refine ⟨fun i n hi => ⟨fun hbusy => (hop hi).trans (fabricExec_waits hrun f ls i n hbusy), fun hdone hout => ?outside,
      fun hdone h0 hn hal => ?misaligned, fun hdone h0 hn hal => ?_⟩,
    fun hdet => (exec_fstat f ls s).trans (execFstat_eq hrun f ls hdet), fun hdet => (exec_fstat f ls s).trans (execFstat_det hrun f ls hdet)⟩
  case outside =>
    exact (hop hi).trans (fabricExec_of_recordFault hrun f ls hdone i n (State.recordFault_outside hout))
  case misaligned =>
    exact (hop hi).trans (fabricExec_of_recordFault hrun f ls hdone i n (State.recordFault_misaligned h0 hn hal))
  · have hchecks := (hop hi).trans (fabricExec_checks hrun f ls hdone i n (State.recordFault_none h0 hn hal) (ws := ws) rfl)
    refine ⟨fun hdet => hchecks.trans (if_pos hdet), fun hdet hbad => hchecks.trans ?_, fun c va hdet hok hc => hchecks.trans ?_,
      fun hdet hok hc => hchecks.trans ?_⟩
    · exact (if_neg (by simp [hdet])).trans (if_pos hbad)
    · refine (if_neg (by simp [hdet])).trans ((if_neg (by simpa using hok)).trans ?_)
      rw [hc]
      rfl
    · refine (if_neg (by simp [hdet])).trans ((if_neg (by simpa using hok)).trans ?_)
      rw [hc]
      rfl


end Sys2Proof
end

section
/-!
PROOF. The collective instructions at issue (R335, R336, R339, R340): cinit and cpost by the checks of their records, cbar, cwait and cfree
by those of the context that they name.
-/

namespace Sys2Proof.Machine

/-- The chips that a tree names are routable, but for the parent of a root (R335). -/
theorem State.unrouted_iff {s : State} {c : Combine} :
    ((!c.root && !s.routable c.parent) || c.childs.any fun ch => !s.routable ch) = true ↔
      ¬ ((s.routable c.parent = true ∨ c.root = true) ∧ ∀ ch ∈ c.childs, s.routable ch = true) := by
  rw [Bool.or_eq_true, Bool.and_eq_true, List.any_eq_true]
  simp only [Bool.not_eq_true', ← Bool.not_eq_true]
  push Not
  tauto

/-- A member has two rounds pending when two of those that it posted have not ended (R336). -/
theorem Combine.memberRound_full (c : Combine) (m : Nat) : (c.memberRound m).2 =
    decide (2 ≤ ((List.range (c.posts.get m 0)).filter fun k => (c.ended.find? k).isNone).length) := rfl

section
variable {s : State} {iss : Issue} {rest : List Issue} (hrun : s.issuing = iss :: rest) (f : FE) (ls : Lits)
include hrun

/-! ### cinit (R335) -/

theorem execCinit_checks (hdone : s.accessesDone iss.gid iss.lanes = true) (hr : s.recordFault iss (iss.addrE f ls 64) 64 64 = none)
    {r : Nat} (hrec : s.record iss (iss.addrE f ls 64).toNat 64 = r) :
    execCinit f ls s =
      if s.detI iss then s.faultAll iss .detAtomic
      else if combineBad r then s.faultAll iss .fabRecord
      else if (s.combines.find? (bits r 7 0)).isSome then s.faultAll iss .collState
      else if (!(combineOf r).root && !s.routable (combineOf r).parent) || (combineOf r).childs.any fun ch => !s.routable ch then
        s.faultAll iss .fabNoroute
      else s.finish iss (2 + ls.length) [.act (.cinit f ls) iss.idx iss.lanes [] [] [] [r]] := by
  rw [execCinit, State.withIssue_cons _ hrun]
  simp only [State.mayRead?, hdone, hr, hrec]
  rfl

/-! ### cpost (R336) -/

theorem execCpost_det (hdone : s.accessesDone iss.gid iss.lanes = true) (hr : s.recordFault iss (iss.addrE f ls 32) 32 32 = none)
    (hdet : s.detI iss = true) : execCpost f ls s = s.faultAll iss .detAtomic := by
  rw [execCpost, State.withIssue_cons _ hrun]
  simp [State.mayRead?, hdone, hr, hdet]

/-- A post whose record is in form goes on with the checks of its context. -/
theorem execCpost_checks (hdone : s.accessesDone iss.gid iss.lanes = true) (hr : s.recordFault iss (iss.addrE f ls 32) 32 32 = none)
    (hdet : s.detI iss = false) {x p : Nat} (hx : (iss.uniformB f ls).toNat = x) (hrec : s.record iss (iss.addrE f ls 32).toNat 32 = p)
    (hlt : x < 256) (hkind : bits (recWord p 0) 1 0 ≠ 3) (hzero : bits (recWord p 0) 63 17 = 0) (hlast : recWord p 3 = 0) :
    execCpost f ls s =
      match s.combines.find? x with
      | none => s.faultAll iss .collState
      | some c =>
        let dk := bits (recWord p 0) 3 2
        if c.nlocal ≤ bits (recWord p 0) 16 12 then s.faultAll iss .collState
        else if (dk == 1 || dk == 2) && recWord p 2 + c.bytes ≤ (s.teamOf iss.gid).window dk &&
            !(s.teamOf iss.gid).pairedRange dk (recWord p 2) c.bytes then
          s.faultAll iss .fabRecord
        else
          match s.postFaultOf iss (recWord p 0) (recWord p 1) (recWord p 2) c.bytes with
          | some (code, va) => s.faultAll iss code va
          | none =>
            if (c.memberRound (bits (recWord p 0) 16 12)).2 then .next s.stall
            else s.finish iss (2 + ls.length)
              [.act (.cpost f ls) iss.idx iss.lanes [] [] [] [x, recWord p 0, recWord p 1, recWord p 2]] := by
  have hform : (x / 256 != 0 || bits (recWord p 0) 1 0 == 3 || bits (recWord p 0) 63 17 != 0 || recWord p 3 != 0) = false := by
    simp [hlt, hkind, hzero, hlast]
  rw [execCpost, State.withIssue_cons _ hrun]
  simp only [State.mayRead?, hdone, hr, hrec, hx, hdet, hform]
  rfl

/-! ### cbar, cwait and cfree (R336, R339, R340) -/

theorem execCbar_det (hdet : s.detI iss = true) : execCbar f ls s = s.faultAll iss .detAtomic := by
  rw [execCbar, State.withIssue_cons _ hrun]
  exact if_pos hdet

section
variable {x m : Nat} (hx : (iss.uniform f.a (litAt ls 0)).toNat = x)
include hx

theorem execCbar_range (hdet : s.detI iss = false) (hge : 256 ≤ x) : execCbar f ls s = s.faultAll iss .fabRecord := by
  rw [execCbar, State.withIssue_cons _ hrun]
  simp [hx, hdet, hge]

theorem execCwait_range (hge : 256 ≤ x) : execCwait f ls s = s.faultAll iss .fabRecord := by
  rw [execCwait, State.withIssue_cons _ hrun]
  simp [hx, hge]

theorem execCfree_range (hge : 256 ≤ x) : execCfree f ls s = s.faultAll iss .fabRecord := by
  rw [execCfree, State.withIssue_cons _ hrun]
  simp [hx, hge]

section
variable (hlt : x < 256)
include hlt

theorem execCbar_context (hm : (iss.uniformB f ls).toNat = m) (hdet : s.detI iss = false) : execCbar f ls s =
    match s.combines.find? x with
    | none => s.faultAll iss .collState
    | some c =>
      if c.nlocal ≤ m then s.faultAll iss .collState
      else if (c.memberRound m).2 || !s.mayRead? iss then .next s.stall
      else s.finish iss (2 + ls.length) [.act (.cbar f ls) iss.idx iss.lanes [] [] [] [x, m]] := by
  rw [execCbar, State.withIssue_cons _ hrun]
  simp only [hx, hm, hdet, Nat.div_eq_of_lt hlt]
  rfl

theorem execCwait_context (hm : (iss.uniformB f ls).toNat = m) : execCwait f ls s =
    match s.combines.find? x with
    | none => s.faultAll iss .collState
    | some c =>
      if c.posts.all fun p => p.2 ≤ m then s.faultAll iss .collState
      else s.finish iss (2 + ls.length) [.act (.cwait f ls) iss.idx iss.lanes [] [] [] [x, m]] := by
  rw [execCwait, State.withIssue_cons _ hrun]
  simp only [hx, hm, Nat.div_eq_of_lt hlt]
  rfl

theorem execCfree_context : execCfree f ls s =
    match s.combines.find? x with
    | none => s.faultAll iss .collState
    | some c =>
      if !c.rounds.isEmpty then s.faultAll iss .collState
      else s.finish iss (2 + ls.length) [.act (.cfree f ls) iss.idx iss.lanes [] [] [] [x]] := by
  rw [execCfree, State.withIssue_cons _ hrun]
  simp only [hx, Nat.div_eq_of_lt hlt]
  rfl

end

end

end

end Sys2Proof.Machine

namespace Sys2Proof

open Sys2Proof.Machine

/-- Settles O40: each instruction by its checks, those of a record before those of the context that it names. -/
theorem collectiveInstructionResults : Obligations.CollectiveInstructionResults := by
  unfold Obligations.CollectiveInstructionResults
  rintro s iss f ls ⟨rest, hrun⟩ w t a b e ready fits held r p w0 pending routes
  have hroutes := State.unrouted_iff (s := s) (c := combineOf r)
  have hfull (c : Combine) (m : Nat) : (c.memberRound m).2 = true ↔ 2 ≤ pending c m := by
    rw [Combine.memberRound_full, decide_eq_true_iff]
  refine ⟨fun hdone hf => ?init, fun hdone hf hdet => ?postDet, fun hdone hf hdet hlt hkind hzero hlast => ?post,
    fun hdet => (exec_cbar f ls s).trans (execCbar_det hrun f ls hdet),
    fun hdet hge => (exec_cbar f ls s).trans (execCbar_range hrun f ls rfl hdet hge),
    fun hge => ⟨(exec_cwait f ls s).trans (execCwait_range hrun f ls rfl hge), (exec_cfree f ls s).trans (execCfree_range hrun f ls rfl hge)⟩,
    fun hlt hnone => ⟨fun hdet => ?_, ?_, ?_⟩, fun c hlt hc => ?context⟩
  case init =>
    obtain ⟨h0, hn, hal⟩ := hf
    have hchecks := (exec_cinit f ls s).trans (execCinit_checks hrun f ls hdone (State.recordFault_none h0 hn hal) (r := r) rfl)
    refine ⟨fun hdet => hchecks.trans (if_pos hdet), fun hdet hbad => hchecks.trans ?_, fun hdet hok hused => hchecks.trans ?_,
      fun hdet hok hfree => ⟨fun h => hchecks.trans ?_, fun h => hchecks.trans ?_⟩⟩
    · exact (if_neg (by simp [hdet])).trans (if_pos hbad)
    · exact (if_neg (by simp [hdet])).trans ((if_neg (by simp [hok])).trans (if_pos hused))
    · exact (if_neg (by simp [hdet])).trans ((if_neg (by simp [hok])).trans ((if_neg (by simp [hfree])).trans (if_neg (mt hroutes.mp (not_not.mpr h)))))
    · exact (if_neg (by simp [hdet])).trans ((if_neg (by simp [hok])).trans ((if_neg (by simp [hfree])).trans (if_pos (hroutes.mpr h))))
  case postDet =>
    obtain ⟨h0, hn, hal⟩ := hf
    exact (exec_cpost f ls s).trans (execCpost_det hrun f ls hdone (State.recordFault_none h0 hn hal) hdet)
  case post =>
    obtain ⟨h0, hn, hal⟩ := hf
    have hchecks := (exec_cpost f ls s).trans (execCpost_checks hrun f ls hdone (State.recordFault_none h0 hn hal) hdet (x := b) (p := p)
      rfl rfl hlt hkind hzero hlast)
    refine ⟨fun hnone => ?_, fun c hc => ?_⟩
    · rw [hnone] at hchecks
      exact hchecks
    · rw [hc] at hchecks
      refine ⟨fun hm => hchecks.trans (if_pos hm), fun hm hdk hnone => ?_⟩
      have hpair : ((bits w0 3 2 == 1 || bits w0 3 2 == 2) && decide (recWord p 2 + c.bytes ≤ (s.teamOf iss.gid).window (bits w0 3 2)) &&
          !(s.teamOf iss.gid).pairedRange (bits w0 3 2) (recWord p 2) c.bytes) = false := by
        rcases hdk with h | h <;> simp [h]
      have hgo := hchecks.trans ((if_neg (Nat.not_le.mpr hm)).trans (if_neg (by simpa using hpair)))
      rw [hnone] at hgo
      exact ⟨fun h => hgo.trans (if_neg (mt (hfull c _).mp (Nat.not_le.mpr h))), fun h => hgo.trans (if_pos ((hfull c _).mpr h))⟩
  · have h := (exec_cbar f ls s).trans (execCbar_context hrun f ls (x := a) rfl hlt rfl hdet)
    rw [hnone] at h
    exact h
  · have h := (exec_cwait f ls s).trans (execCwait_context hrun f ls (x := a) rfl hlt rfl)
    rw [hnone] at h
    exact h
  · have h := (exec_cfree f ls s).trans (execCfree_context hrun f ls (x := a) rfl hlt)
    rw [hnone] at h
    exact h
  case context =>
    have hbar := fun hdet => (exec_cbar f ls s).trans (execCbar_context hrun f ls (x := a) (m := b) rfl hlt rfl hdet)
    have hwait := (exec_cwait f ls s).trans (execCwait_context hrun f ls (x := a) (m := b) rfl hlt rfl)
    have hfree := (exec_cfree f ls s).trans (execCfree_context hrun f ls (x := a) rfl hlt)
    rw [hc] at hbar hwait hfree
    refine ⟨fun hdet hm => (hbar hdet).trans (if_pos hm), fun hdet hm hp hdone => (hbar hdet).trans ?_, fun h => hwait.trans ?_,
      fun h => hwait.trans ?_, fun h => hfree.trans ?_, fun h => hfree.trans ?_⟩
    · have hnot : (c.memberRound b).2 = false := by simpa using mt (hfull c b).mp (Nat.not_le.mpr hp)
      have hread : s.mayRead? iss = true := hdone
      exact (if_neg (Nat.not_le.mpr hm)).trans (if_neg (by rw [hnot, hread]; simp))
    · exact if_neg (by simpa using h)
    · exact if_pos (by simpa using h)
    · exact if_neg (by simp [h])
    · exact if_pos (by simpa using h)

end Sys2Proof
end

section
/-!
PROOF. The snapshot, launch, configuration and system instructions at issue (R363 to R365, R384, R385, R387 to R391, R408 to R411).
-/

namespace Sys2Proof.Machine

/-! ### The checks of snap and budget (R363, R410) -/

theorem State.inDomain_iff {s : State} {chip : Nat} :
    s.inDomain chip = true ↔ s.cfgVal 0x74 ≤ chip ∧ chip < s.cfgVal 0x74 + s.cfgVal 0x75 := by
  simp only [State.inDomain, State.domChips, List.contains_iff_mem, List.mem_map, List.mem_range]
  exact ⟨fun ⟨i, hi, h⟩ => by omega, fun ⟨h, h'⟩ => ⟨chip - s.cfgVal 0x74, by omega, by omega⟩⟩

/-- The first check of snap: the chip initiates for a domain that it belongs to, from a member context (R363). -/
theorem State.snapOutside_iff {s : State} {c : Ctx} :
    (s.cfgVal 0x72 == 0 || s.cfgVal 0x75 == 0 || !s.inDomain s.chip || !c.snapmem || s.cfgVal 0x73 != s.chip) = true ↔
      ¬ (s.cfgVal 0x72 ≠ 0 ∧ s.cfgVal 0x75 ≠ 0 ∧ s.cfgVal 0x74 ≤ s.chip ∧ s.chip < s.cfgVal 0x74 + s.cfgVal 0x75 ∧ c.snapmem = true ∧
        s.cfgVal 0x73 = s.chip) := by
  rw [← and_assoc (a := s.cfgVal 0x74 ≤ s.chip), ← State.inDomain_iff]
  simp only [Bool.or_eq_true, beq_iff_eq, Bool.not_eq_true', bne_iff_ne, ← Bool.not_eq_true]
  tauto

theorem State.snapBusy_iff {s : State} {k : Nat} :
    ((s.snap k).state != 0 || decide (2 ≤ (s.snaps.filter fun p => p.2.state != 0).length)) = true ↔
      ¬ ((s.snap k).state = 0 ∧ (s.snaps.filter fun p => p.2.state != 0).length < 2) := by
  simp only [Bool.or_eq_true, bne_iff_ne, decide_eq_true_iff]
  omega

theorem State.snapdropCheck_eq {s : State} {k : Nat} : s.snapdropCheck k =
    if s.cfgVal 0x73 ≠ s.chip ∨ (s.snap k).state = 0 ∨ (s.snap k).state = 6 then some .snapState else none := by
  simp [State.snapdropCheck, or_assoc]

/-! ### What cfgrd reads (R384, R405) -/

section
variable (s : State) (iss : Issue) {n : Nat}

theorem State.cfgRead_quiet (h : ((s.gridOf iss.gid).det && cfgMeasured n) = true) : s.cfgRead iss n = (0, s) := if_pos h

section
variable (hquiet : ((s.gridOf iss.gid).det && cfgMeasured n) = false)
include hquiet

/-- The registers of a group or a core, and the measures of a context (R384). -/
theorem State.cfgRead_held : (n = 0x08 → s.cfgRead iss n = (BitVec.ofNat 64 (s.ctxOf iss.gid), s)) ∧
    (n = 0x10 → s.cfgRead iss n = (iss.before.faultAddr.zeroExtend 64, s)) ∧
    (n = 0x11 → s.cfgRead iss n = (iss.before.faultVa.zeroExtend 64, s)) ∧ (n = 0x12 → s.cfgRead iss n = (iss.before.faultAux, s)) ∧
    (n = 0x33 → s.cfgRead iss n = (BitVec.ofNat 64 (s.ctx (s.ctxOf iss.gid)).walkLive, s)) := by
  refine ⟨?_, ?_, ?_, ?_, ?_⟩
  all_goals
    rintro rfl
    rw [State.cfgRead]
    exact if_neg (by simp [hquiet])

theorem State.cfgRead_counter (h : 0x18 ≤ n) (h' : n ≤ 0x1C) :
    s.cfgRead iss n = (s.flagev.get (iss.before.core * 5 + (n - 0x18)) 0, s) := by
  simp only [State.cfgRead, hquiet, h, h', beq_iff_eq, show ¬ n = 0x08 by omega, show ¬ n = 0x10 by omega, show ¬ n = 0x11 by omega,
    show ¬ n = 0x12 by omega]
  simp

/-- CTX_USE: its bandwidth and power are measured, a free value above the clusters used (R384, R400). -/
theorem State.cfgRead_use (h : n = 0x32) : s.cfgRead iss n =
    (BitVec.ofNat 64 (s.clustersUsed (s.ctxOf iss.gid) + s.fresh.1.toNat % 2 ^ 32 * 2 ^ 16), { s with freeCtr := s.freeCtr + 1 }) := by
  subst h
  rw [State.cfgRead]
  exact if_neg (by simp [hquiet])

theorem State.cfgRead_module (hheld : cfgNotModule n = false) (h32 : n ≠ 0x32) (h33 : n ≠ 0x33) :
    s.cfgRead iss n = (BitVec.ofNat 64 (s.cfgModule n), s) := by
  simp only [cfgNotModule, Bool.or_eq_false_iff, beq_eq_false_iff_ne, Bool.and_eq_false_iff, decide_eq_false_iff_not] at hheld
  obtain ⟨⟨h8, h10⟩, h18⟩ := hheld
  have hcounter : (decide (0x18 ≤ n) && decide (n ≤ 0x1C)) = false := by
    simp only [Bool.and_eq_false_iff, decide_eq_false_iff_not]
    exact h18
  simp only [State.cfgRead, hquiet, hcounter, beq_iff_eq, h8, h32, h33, show ¬ n = 0x10 by omega, show ¬ n = 0x11 by omega,
    show ¬ n = 0x12 by omega]
  simp

end

end

theorem lowerLimit_iff {v old : Nat} : lowerLimit old v = true ↔ old ≠ 0 ∧ (v = 0 ∨ old < v) := by
  simp [lowerLimit]

section
variable {s : State} {iss : Issue} {rest : List Issue} (hrun : s.issuing = iss :: rest)
include hrun

section
variable (f : FE) (ls : Lits)

/-! ### Snapshots (R363 to R365) -/

theorem execSnap_det (hdet : s.detI iss = true) : execSnap f ls s = s.faultAll iss .detAtomic := by
  rw [execSnap, State.withIssue_cons _ hrun]
  exact if_pos hdet

theorem execSnap_checks (hdet : s.detI iss = false) {k : Nat} (hk : snapColour f = k) : execSnap f ls s =
    match s.snapCheck (s.ctxI iss) k with
    | some c => s.faultAll iss c
    | none => s.finish iss (2 + ls.length) [.act (.snap f ls) iss.idx iss.lanes [] [] [] [(iss.uniformM f.a (litAt ls 0)).toNat % 2 ^ 32]] := by
  rw [execSnap, State.withIssue_cons _ hrun, hk]
  exact if_neg (by simp [hdet])

theorem execSnapst_det (hdet : s.detI iss = true) : execSnapst f ls s = s.faultAll iss .detAtomic := by
  rw [execSnapst, State.withIssue_cons _ hrun]
  exact if_pos hdet

theorem execSnapst_eq (hdet : s.detI iss = false) :
    execSnapst f ls s = s.finish iss (2 + ls.length) [.act (.snapst f ls) iss.idx iss.lanes [] [] [] []] := by
  rw [execSnapst, State.withIssue_cons _ hrun]
  exact if_neg (by simp [hdet])

theorem execSnapwait_det (hdet : s.detI iss = true) : execSnapwait f ls s = s.faultAll iss .detAtomic := by
  rw [execSnapwait, State.withIssue_cons _ hrun]
  exact if_pos hdet

theorem execSnapwait_eq (hdet : s.detI iss = false) :
    execSnapwait f ls s = s.finish iss (2 + ls.length) [.act (.snapwait f ls) iss.idx iss.lanes [] [] [] []] := by
  rw [execSnapwait, State.withIssue_cons _ hrun]
  exact if_neg (by simp [hdet])

theorem execSnapdrop_det (hdet : s.detI iss = true) : execSnapdrop f ls s = s.faultAll iss .detAtomic := by
  rw [execSnapdrop, State.withIssue_cons _ hrun]
  exact if_pos hdet

theorem execSnapdrop_checks (hdet : s.detI iss = false) {k : Nat} (hk : snapColour f = k) : execSnapdrop f ls s =
    match s.snapdropCheck k with
    | some c => s.faultAll iss c
    | none => s.finish iss (2 + ls.length) [.act (.snapdrop f ls) iss.idx iss.lanes [] [] [] []] := by
  rw [execSnapdrop, State.withIssue_cons _ hrun, hk]
  exact if_neg (by simp [hdet])

/-! ### Launches (R408 to R411) -/

theorem nodeExec_det (i : Instr) (grid : Bool) (hdet : s.detI iss = true) : nodeExec i grid f ls s = s.faultAll iss .detAtomic := by
  rw [nodeExec, State.withIssue_cons _ hrun]
  exact if_pos hdet

/-- A node record that has been read is held back when it is well formed (R408). -/
theorem nodeExec_read (i : Instr) (grid : Bool) (hdet : s.detI iss = false) {bs : List Byte}
    (hc : checkHandle (s.ctxI iss) (iss.hreg f.h.toNat) (iss.addrE f ls 64) 1 64 [0] [] = none)
    (hread : s.handleRead iss.reader (s.ctxI iss) iss.before.core (iss.hreg f.h.toNat) (iss.addrE f ls 64).toNat 64 = .ok bs s) :
    nodeExec i grid f ls s =
      if ({ words := wordsOf bs } : Node).malformed || (grid && ({ words := wordsOf bs } : Node).kind != 1) then
        s.faultAll iss .engineRecord
      else s.finish iss (2 + ls.length) [.act i iss.idx iss.lanes [] [] []
        (vaOf (iss.hreg f.h.toNat) (iss.addrE f ls 64) :: (iss.hreg f.h.toNat).toNat :: wordsOf bs)] := by
  rw [nodeExec, State.withIssue_cons _ hrun]
  simp only [hdet, hc, hread]
  rfl



theorem execDetsig_eq : execDetsig f ls s = s.finish iss (2 + ls.length) [.act (.detsig f ls) iss.idx iss.lanes [] [] [] []] :=
  State.withIssue_cons _ hrun

theorem execBudget_det (hdet : s.detI iss = true) : execBudget f ls s = s.faultAll iss .detAtomic := by
  rw [execBudget, State.withIssue_cons _ hrun]
  exact if_pos hdet

/-- The checks of budget, on the context that the instruction names (R410). -/
theorem execBudget_checks (hdet : s.detI iss = false) {c k v : Nat} (hk : limitKind f = k)
    (hc : (if f.aux.getLsbD 2 then (iss.uniformB f ls).toNat % 1024 else s.ctxOf iss.gid) = c)
    (hv : min (iss.uniformM f.a (litAt ls 0)).toNat (2 ^ (limitField k).2 - 1) = v) : execBudget f ls s =
      if !(s.ctxI iss).sys && (f.aux.getLsbD 2 || lowerLimit ((s.ctx c).recordLimits.getD k 0) v) then s.faultAll iss .priv
      else if f.aux.getLsbD 2 && (s.ctx c).status != .live then s.faultAll iss .ctxState
      else s.finish iss (2 + ls.length) [.act (.budget f ls) iss.idx iss.lanes [] [] [] [c, v]] := by
  rw [execBudget, State.withIssue_cons _ hrun]
  simp only [hk, hc, hv]
  exact if_neg (by simp [hdet])

/-! ### Contexts and injected errors (R387 to R391) -/

theorem execCtxsave_checks {c : Nat} (hc : (iss.uniformB f ls).toNat % 1024 = c)
    (hh : checkHandle (s.ctxI iss) (iss.hreg f.h.toNat) (iss.addrE f ls 4096) 1 4096 [1] [] = none) : execCtxsave f ls s =
      if c == s.ctxOf iss.gid || (s.ctx c).status != .live then s.faultAll iss .ctxState
      else s.finish iss (2 + ls.length)
        [.act (.ctxsave f ls) iss.idx iss.lanes [] [] [] [c, (iss.addrE f ls 4096).toNat, f.h.toNat]] := by
  rw [execCtxsave, State.withIssue_cons _ hrun]
  simp only [hc, hh]

theorem execCtxload_checks {c : Nat} (hc : (iss.uniformB f ls).toNat % 1024 = c)
    (hh : checkHandle (s.ctxI iss) (iss.hreg f.h.toNat) (iss.addrE f ls 4096) 1 4096 [0] [] = none) : execCtxload f ls s =
      if (s.ctx c).status != .free || s.ctxs.any fun p => p.2.status == .live && p.2.asid == recBits (s.recordOf c) 9 0 then
        s.faultAll iss .ctxState
      else s.finish iss (2 + ls.length)
        [.act (.ctxload f ls) iss.idx iss.lanes [] [] [] [c, (iss.addrE f ls 4096).toNat, f.h.toNat]] := by
  rw [execCtxload, State.withIssue_cons _ hrun]
  simp only [hc, hh]

theorem injExec_eq (i : Instr) : injExec i f ls s =
    if s.cfgVal 0x21 == 0 then s.faultAll iss .priv
    else s.finish iss (2 + ls.length) [.act i iss.idx iss.lanes [] [] [] [(iss.uniformM f.a (litAt ls 0)).toNat]] :=
  State.withIssue_cons _ hrun

theorem execInjPoison_disabled (h : s.cfgVal 0x21 = 0) : execInjPoison f ls s = s.faultAll iss .priv := by
  rw [execInjPoison, State.withIssue_cons _ hrun]
  exact if_pos (by simp [h])

theorem execInjPoison_accepts (h : s.cfgVal 0x21 ≠ 0) {va pa : Nat} {pte : BitVec 64}
    (hc : s.checkAccess iss (iss.hreg f.h.toNat) (iss.addrE f ls 1) 1 [1] [] .store 0 = (.ok va pa pte, s)) :
    execInjPoison f ls s = s.finish iss (2 + ls.length)
      [.act (.injPoison f ls) iss.idx iss.lanes [] [] [] [pa, if pteHost pte then 1 else 0, pte.toNat]] := by
  rw [execInjPoison, State.withIssue_cons _ hrun]
  simp only [hc]
  exact if_neg (by simp [h])

theorem execPreempt_eq {c : Nat} (hc : (iss.uniformM f.a (litAt ls 0)).toNat % 1024 = c) : execPreempt f ls s =
    if c == s.ctxOf iss.gid || (s.ctx c).status == .free then s.faultAll iss .ctxState
    else s.finish iss (2 + ls.length) [.act (.preempt f ls) iss.idx iss.lanes [] [] [] [c]] := by
  rw [execPreempt, State.withIssue_cons _ hrun]
  simp only [hc]

end

/-! ### Configuration registers (R384, R385) -/

section
variable (f : FC) (ls : Lits)

theorem execCfgrd_unassigned (h : (cfgInfo (iss.uniform f.b (litAt ls 0)).toNat).isSome = false) :
    execCfgrd f ls s = s.faultAll iss .illegalOpcode := by
  rw [execCfgrd, State.withIssue_cons _ hrun]
  exact if_pos (by simpa using h)

theorem execCfgrd_assigned {n : Nat} (hn : (iss.uniform f.b (litAt ls 0)).toNat = n) (h : (cfgInfo n).isSome = true) {x : Word} {t : State}
    (hread : s.cfgRead iss n = (x, t)) : execCfgrd f ls s = t.finish iss (1 + ls.length) [iss.toVOrG f.a fun _ => x] := by
  rw [execCfgrd, State.withIssue_cons _ hrun]
  simp only [hn, hread]
  exact if_neg (by simp [Option.isSome_iff_ne_none.mp h])

theorem execCfgwr_writable {i : CfgInfo} (hi : cfgInfo (iss.uniform f.b (litB ls f.a)).toNat = some i) (hro : i.ro = false) :
    execCfgwr f ls s = s.finish iss (1 + ls.length) [.act (.cfgwr f ls) iss.idx iss.lanes [] [] []
      [(iss.uniform f.b (litB ls f.a)).toNat, (iss.uniform f.a (litAt ls 0)).toNat]] := by
  rw [litB] at *
  rw [execCfgwr, State.withIssue_cons _ hrun]
  simp only [hi]
  exact if_neg (by simp [hro])

theorem execCfgwr_refused (h : cfgInfo (iss.uniform f.b (litB ls f.a)).toNat = none ∨
      ∃ i, cfgInfo (iss.uniform f.b (litB ls f.a)).toNat = some i ∧ i.ro = true) :
    execCfgwr f ls s = s.faultAll iss .illegalOpcode := by
  rw [litB] at *
  rw [execCfgwr, State.withIssue_cons _ hrun]
  rcases h with h | ⟨i, h, hro⟩
  · simp only [h]
  · simp only [h]
    exact if_pos hro

end

end

end Sys2Proof.Machine

namespace Sys2Proof

open Sys2Proof.Machine

/-- Settles O23: cfgrd by what the number reads, cfgwr by whether the number is assigned and writable. -/
theorem configurationRegisterInstructionResults : Obligations.ConfigurationRegisterInstructionResults := by
  unfold Obligations.ConfigurationRegisterInstructionResults
  rintro s iss f ls ⟨rest, hrun⟩ w nr nw c quiet dst reads
  have hreads {x : Word} (h : (cfgInfo nr).isSome = true) (hread : s.cfgRead iss nr = (x, s)) : reads x :=
    (exec_cfgrd f ls s).trans (execCfgrd_assigned hrun f ls rfl h hread)
  have hheld := fun hquiet => s.cfgRead_held iss (n := nr) hquiet
  refine ⟨fun h hquiet => hreads h (s.cfgRead_quiet iss hquiet), fun hquiet hn => ?_, fun hquiet hn => ?_, fun hquiet hn => ?_,
    fun hquiet hn => ?_, fun hquiet hlo hhi => hreads ?_ (s.cfgRead_counter iss hquiet hlo hhi), fun hquiet hn => ?_,
    fun hquiet h hmod h32 h33 => hreads h (s.cfgRead_module iss hquiet hmod h32 h33), fun hquiet hn => ?use,
    fun h => (exec_cfgrd f ls s).trans (execCfgrd_unassigned hrun f ls h),
    fun i hi hro => (exec_cfgwr f ls s).trans (execCfgwr_writable hrun f ls hi hro),
    fun h => (exec_cfgwr f ls s).trans (execCfgwr_refused hrun f ls h)⟩
  all_goals obtain ⟨hctx, haddr, hva, haux, hwalks⟩ := hheld hquiet
  · exact hreads (by rw [hn]; rfl) (hctx hn)
  · exact hreads (by rw [hn]; rfl) (haddr hn)
  · exact hreads (by rw [hn]; rfl) (hva hn)
  · exact hreads (by rw [hn]; rfl) (haux hn)
  · interval_cases nr <;> rfl
  · exact hreads (by rw [hn]; rfl) (hwalks hn)
  case use =>
    refine ⟨_, ?_, (exec_cfgrd f ls s).trans (execCfgrd_assigned hrun f ls (n := nr) rfl (by rw [hn]; rfl) (s.cfgRead_use iss hquiet hn))⟩
    rw [BitVec.toNat_ofNat, Nat.mod_mod_of_dvd _ (by decide : 2 ^ 16 ∣ 2 ^ 64), Nat.add_mul_mod_self_right]

/-- Settles O41: the snapshot instructions by the checks of R363 and R364, gspawn and glaunch by the record that they read, budget by the
checks of R410. -/
theorem snapshotAndLaunchInstructionResults : Obligations.SnapshotAndLaunchInstructionResults := by
  unfold Obligations.SnapshotAndLaunchInstructionResults
  rintro s iss f ls ⟨rest, hrun⟩ w det c h e x k held tickets dom free limit v own other raises
  have hdom := State.snapOutside_iff (s := s) (c := c)
  have hfree := State.snapBusy_iff (s := s) (k := k)
  refine ⟨fun hdet => ⟨(exec_snap f ls s).trans (execSnap_det hrun f ls hdet), (exec_snapst f ls s).trans (execSnapst_det hrun f ls hdet),
      (exec_snapwait f ls s).trans (execSnapwait_det hrun f ls hdet), (exec_snapdrop f ls s).trans (execSnapdrop_det hrun f ls hdet),
      (exec_gspawn f ls s).trans (nodeExec_det hrun f ls _ _ hdet), (exec_glaunch f ls s).trans (nodeExec_det hrun f ls _ _ hdet),
      (exec_budget f ls s).trans (execBudget_det hrun f ls hdet)⟩,
    fun hdet => ?outside, (exec_gwait f ls s).trans (ticketExec_everywhere hrun f ls _),
    (exec_gcancel f ls s).trans (ticketExec_everywhere hrun f ls _), (exec_detsig f ls s).trans (execDetsig_eq hrun f ls)⟩
  have hdet : s.detI iss = false := by simpa [det] using hdet
  have hsnap := (exec_snap f ls s).trans (execSnap_checks hrun f ls hdet (k := k) rfl)
  have hdrop := (exec_snapdrop f ls s).trans (execSnapdrop_checks hrun f ls hdet (k := k) rfl)
  have hsnapFault {code : FaultCode} (h : s.snapCheck c k = some code) : Raises (.snap f ls) s iss code iss.lanes := by
    rw [show s.snapCheck (s.ctxI iss) k = some code from h] at hsnap
    exact hsnap
  have hown (h : f.aux.getLsbD 2 = false) := (exec_budget f ls s).trans
    (execBudget_checks hrun f ls hdet (c := own) (k := limit) (v := v) rfl (if_neg (by rw [h]; exact Bool.false_ne_true)) rfl)
  have hother (h : f.aux.getLsbD 2 = true) := (exec_budget f ls s).trans
    (execBudget_checks hrun f ls hdet (c := other) (k := limit) (v := v) rfl (if_pos h) rfl)
  refine ⟨fun hd hf hk => ?snap, fun hd => hsnapFault (if_pos (hdom.mpr hd)),
    fun hd hf => hsnapFault ((if_neg (mt hdom.mp (not_not.mpr hd))).trans (if_pos (hfree.mpr hf))),
    fun hd hf hk => hsnapFault ((if_neg (mt hdom.mp (not_not.mpr hd))).trans ((if_neg (mt hfree.mp (not_not.mpr hf))).trans
      (if_pos (by simpa using hk)))),
    (exec_snapst f ls s).trans (execSnapst_eq hrun f ls hdet), (exec_snapwait f ls s).trans (execSnapwait_eq hrun f ls hdet),
    fun hchip h0 h6 => ?drops, fun h => ?dropFault, fun bs hc hread => ?node, fun haux hsys => ?limits, fun haux hsys hr => ?lowers,
    fun haux hsys => ?foreign, fun haux hsys hlive => ?system, fun haux hsys hlive => ?dead⟩
  case snap =>
    have hnone : s.snapCheck (s.ctxI iss) k = none :=
      (if_neg (mt hdom.mp (not_not.mpr hd))).trans ((if_neg (mt hfree.mp (not_not.mpr hf))).trans (if_neg (by simpa using hk)))
    rw [hnone] at hsnap
    exact hsnap
  case drops =>
    have hnone : s.snapdropCheck k = none := State.snapdropCheck_eq.trans (if_neg (by
      rintro (h | h | h)
      · exact h hchip
      · exact h0 h
      · exact h6 h))
    rw [hnone] at hdrop
    exact hdrop
  case dropFault =>
    rw [State.snapdropCheck_eq.trans (if_pos h)] at hdrop
    exact hdrop
  case node =>
    have hgspawn := (exec_gspawn f ls s).trans (nodeExec_read hrun f ls (.gspawn f ls) false hdet hc hread)
    have hglaunch := (exec_glaunch f ls s).trans (nodeExec_read hrun f ls (.glaunch f ls) true hdet hc hread)
    exact ⟨fun hn => hgspawn.trans (if_neg (by simpa using hn)), fun hn hkind => hglaunch.trans (if_neg (by simp [hn, hkind])),
      fun hn => hgspawn.trans (if_pos (by simpa using hn)), fun hn => hglaunch.trans (if_pos (by simpa using hn))⟩
  case limits =>
    refine (hown haux).trans ((if_neg ?_).trans (if_neg (by rw [haux]; exact Bool.false_ne_true)))
    rw [haux, Bool.false_or, Bool.and_eq_true, lowerLimit_iff, Bool.not_eq_true']
    rintro ⟨hnot, hlower⟩
    exact hsys.elim (fun h => Bool.false_ne_true (hnot.symm.trans h)) (fun h => h hlower)
  case lowers =>
    refine (hown haux).trans (if_pos ?_)
    rw [haux, Bool.false_or, Bool.and_eq_true, lowerLimit_iff, Bool.not_eq_true']
    exact ⟨hsys, hr⟩
  case foreign =>
    refine (hother haux).trans (if_pos ?_)
    rw [haux, Bool.true_or, Bool.and_true, Bool.not_eq_true']
    exact hsys
  case system => exact (hother haux).trans ((if_neg (by rw [hsys]; simp)).trans (if_neg (by simp [hlive])))
  case dead => exact (hother haux).trans ((if_neg (by rw [hsys]; simp)).trans (if_pos (by rw [haux]; simpa using hlive)))

/-- Settles O42: each instruction by its checks. -/
theorem systemInstructionResults : Obligations.SystemInstructionResults := by
  unfold Obligations.SystemInstructionResults
  rintro s iss f ls ⟨rest, hrun⟩ w h e x c own held taken
  have htaken : (s.ctxs.any fun p => p.2.status == .live && p.2.asid == recBits (s.recordOf c) 9 0) = true ↔ taken := by
    simp [taken]
  refine ⟨fun hc => ?save, fun hc => ?load, fun h => ⟨(exec_injMat f ls s).trans ((injExec_eq hrun f ls _).trans (if_pos (by simpa using h))),
      (exec_injFrag f ls s).trans ((injExec_eq hrun f ls _).trans (if_pos (by simpa using h))),
      (exec_injPoison f ls s).trans (execInjPoison_disabled hrun f ls h)⟩,
    fun h => ⟨(exec_injMat f ls s).trans ((injExec_eq hrun f ls _).trans (if_neg (by simpa using h))),
      (exec_injFrag f ls s).trans ((injExec_eq hrun f ls _).trans (if_neg (by simpa using h))),
      fun va pa pte hc => (exec_injPoison f ls s).trans (execInjPoison_accepts hrun f ls h hc)⟩, fun hne hlive => ?_, fun h => ?_⟩
  case save =>
    have hchecks := (exec_ctxsave f ls s).trans (execCtxsave_checks hrun f ls (c := c) rfl hc)
    exact ⟨fun hne hlive => hchecks.trans (if_neg (by simpa using ⟨hne, hlive⟩)), fun h => hchecks.trans (if_pos (by simpa using h))⟩
  case load =>
    have hchecks := (exec_ctxload f ls s).trans (execCtxload_checks hrun f ls (c := c) rfl hc)
    refine ⟨fun hfree hnot => hchecks.trans (if_neg ?_), fun h => hchecks.trans (if_pos ?_)⟩
    · rw [Bool.or_eq_true, htaken]
      simpa using ⟨hfree, hnot⟩
    · rw [Bool.or_eq_true, htaken]
      simpa using h
  · exact (exec_preempt f ls s).trans ((execPreempt_eq hrun f ls rfl).trans (if_neg (by simpa using ⟨hne, hlive⟩)))
  · exact (exec_preempt f ls s).trans ((execPreempt_eq hrun f ls rfl).trans (if_pos (by simpa using h)))

end Sys2Proof
end

section
/-!
PROOF. TRAP_ENTRY (R366 to R371, R373, R375): which fault a group takes at its boundary, and what the entry of the handler leaves of the
group and its threads.
-/

namespace Sys2Proof.Machine

/-! ### The choice of the fault (R366) -/

/-- The group that takes a fault: it leaves the queue, unless it was in taking already, and the precise faults not taken are dropped. -/
def Group.chosen (g : Group) (f : FaultRec) : Group :=
  { g with taking := some f, queue := if g.taking.isNone then g.queue.erase f else g.queue, precise := [] }

theorem Group.choose_of_due {g : Group} {f : FaultRec} (h : g.taking.or g.nextFault = some f) : g.choose = some (f, g.chosen f) := by
  rw [Group.choose, h]
  rfl

theorem Group.choose_of_none {g : Group} (h : g.taking.or g.nextFault = none) : g.choose = none := by
  rw [Group.choose, h]
  rfl

/-- Which threads run the handler depends on the group's threads alone (R368). -/
theorem Group.activeFor_chosen (g : Group) (f : FaultRec) : (g.chosen f).activeFor f = g.activeFor f := rfl

theorem Ctx.handles_iff {c : Ctx} {g : Group} {f : FaultRec} :
    c.handles g f = true ↔ c.handler ≠ 0 ∧ bitAt c.hmask (f.code.num / 8) = true ∧ g.inHandler = false := by
  simp [Ctx.handles, and_assoc]

theorem killCause_eq (g : Group) (f : FaultRec) :
    killCause g f = if g.inHandler then 1 else if f.code = .gridStarve then 4 else 0 := by
  simp [killCause]

/-- A group that has arrived at no latch withdraws nothing (R277). -/
theorem State.withdraw_of_no_arrival {s : State} {gid : Nat} (hl : ∀ p ∈ s.latches, ∀ l ∈ p.2, ∀ i ∈ l.arrivals, i.gid ≠ gid)
    (hw : ∀ p ∈ s.latchWaits, ∀ i ∈ p.2, i.gid ≠ gid) : s.withdraw gid = s := by
  have hnone : ((s.latches.flatMap fun p => p.2.flatMap (·.arrivals)) ++ s.latchWaits.flatMap (·.2)).find? (fun i => i.gid == gid) =
      none := by
    rw [List.find?_eq_none]
    intro i hi
    rw [List.mem_append, List.mem_flatMap, List.mem_flatMap] at hi
    rcases hi with ⟨p, hp, hi⟩ | ⟨p, hp, hi⟩
    · obtain ⟨l, hmem, hi⟩ := List.mem_flatMap.mp hi
      simpa using hl p hp l hmem i hi
    · simpa using hw p hp i hi
  unfold State.withdraw
  extract_lets mine
  rw [show mine.find? _ = none from hnone]

/-! ### The group that enters its handler (R368) -/

/-- A thread that enters the handler keeps its registers, and its waits are suspended. -/
theorem Thread.enterHandler_frame (t : Thread) (r h : BitVec 52) :
    (t.enterHandler r h).v = t.v ∧ (t.enterHandler r h).k = t.k ∧ (t.enterHandler r h).flags = t.flags ∧
      (t.enterHandler r h).draw = t.draw ∧ (t.enterHandler r h).stack = t.stack ∧
      ((t.enterHandler r h).fromExit = true ↔ t.status = .exited) ∧ ∀ ws, t.status = .blocked ws → (t.enterHandler r h).suspended = ws := by
  refine ⟨rfl, rfl, rfl, rfl, rfl, by simp [Thread.enterHandler], fun ws hws => ?_⟩
  simp [Thread.enterHandler, hws]

/-- A held thread stands where it stood. -/
theorem Thread.hold_frame (t : Thread) : t.hold = { t with status := t.hold.status } ∧ (t.status = .exited → t.hold.status = .exited) ∧
    (t.status = .ready → t.hold.status = .held []) ∧ ∀ ws, t.status = .blocked ws → t.hold.status = .held ws := by
  refine ⟨?_, fun h => ?_, fun h => ?_, fun ws h => ?_⟩
  · unfold Thread.hold
    split <;> rfl
  all_goals simp [Thread.hold, h]

theorem State.group_of_find? {s : State} {gid : Nat} {g : Group} (hg : s.groups.find? gid = some g) : s.group gid = g := by
  simp [State.group, SMap.get, hg]

section
variable {s : State} {gid : Nat} {f : FaultRec}

/-- What forming bundles leaves of a group. -/
theorem Group.Reformed.frame {u g : Group} (hr : u.Reformed g) : u.queue = g.queue ∧ u.precise = g.precise ∧ u.taking = g.taking ∧
    u.faultInfo = g.faultInfo ∧ u.faultAddr = g.faultAddr ∧ u.faultVa = g.faultVa ∧ u.faultAux = g.faultAux ∧
    u.inHandler = g.inHandler ∧ u.handlerLanes = g.handlerLanes ∧ u.g = g.g ∧ u.h = g.h ∧ u.sb = g.sb ∧ u.fpctl = g.fpctl ∧
    u.gang = g.gang := by
  rw [hr.group]
  exact ⟨rfl, rfl, rfl, rfl, rfl, rfl, rfl, rfl, rfl, rfl, rfl, rfl, rfl, rfl⟩

/-- A group keeps its queue and its registers whatever its fault registers, handler and threads become. -/
theorem Group.entry_unmoved (g : Group) (info aux : Word) (addr va : BitVec 52) (lanes : Lanes) (code : Nat) (ts : List Thread) :
    let t : Group := { g with taking := none, precise := [], bundles := [], faultInfo := info, faultAddr := addr, faultVa := va
                              faultAux := aux, inHandler := true, handlerLanes := lanes, handlerCode := code, threads := ts }
    t.queue = g.queue ∧ t.g = g.g ∧ t.h = g.h ∧ t.sb = g.sb ∧ t.fpctl = g.fpctl ∧ t.gang = g.gang :=
  ⟨rfl, rfl, rfl, rfl, rfl, rfl⟩

theorem Group.takeFault_unmoved (g : Group) (f : FaultRec) (h : BitVec 52) :
    (g.takeFault f h).queue = g.queue ∧ (g.takeFault f h).g = g.g ∧ (g.takeFault f h).h = g.h ∧ (g.takeFault f h).sb = g.sb ∧
      (g.takeFault f h).fpctl = g.fpctl ∧ (g.takeFault f h).gang = g.gang :=
  g.entry_unmoved ..

/-- The registers of a group that has entered its handler and formed its bundles (R368). -/
theorem Group.Reformed.entered_registers {u g : Group} {f : FaultRec} {handler : BitVec 52} (hr : u.Reformed (g.takeFault f handler)) :
    u.queue = g.queue ∧ u.precise = [] ∧ u.taking = none ∧ u.faultInfo = f.info (!g.queue.isEmpty) ∧ u.faultAddr = f.pc ∧
      u.faultVa = BitVec.ofNat 52 f.va ∧ u.faultAux = f.aux ∧ u.inHandler = true ∧ u.handlerLanes = g.activeFor f ∧ u.g = g.g ∧
      u.h = g.h ∧ u.sb = g.sb ∧ u.fpctl = g.fpctl ∧ u.gang = g.gang := by
  obtain ⟨hqueue, hprecise, htaking, hinfo, haddr, hva, haux, hin, hlanes, hregs, hhandles, hsb, hfpctl, hgang⟩ := hr.frame
  obtain ⟨hqueue', hregs', hhandles', hsb', hfpctl', hgang'⟩ := g.takeFault_unmoved f handler
  exact ⟨hqueue.trans hqueue', hprecise, htaking, hinfo, haddr, hva, haux, hin, hlanes, hregs.trans hregs', hhandles.trans hhandles',
    hsb.trans hsb', hfpctl.trans hfpctl', hgang.trans hgang'⟩

/-- The threads of a group that has entered its handler and formed its bundles: the active ones stand ready at the handler, the others are
held (R368). -/
theorem Group.Reformed.entered {u g : Group} {f : FaultRec} {handler : BitVec 52} (hr : u.Reformed (g.takeFault f handler)) {l : Nat}
    (hl : l < g.threads.length) :
    let x := g.thread l
    let y := u.thread l
    y.v = x.v ∧ y.k = x.k ∧ y.flags = x.flags ∧ y.draw = x.draw ∧ y.stack = x.stack ∧
      ((g.activeFor f).has l = true → y.pc = handler ∧ y.epc = (if f.deferred then x.pc else f.pc) ∧ y.status = .ready ∧
        (y.fromExit = true ↔ x.status = .exited) ∧ ∀ ws, x.status = .blocked ws → y.suspended = ws) ∧
      ((g.activeFor f).has l = false → y.pc = x.pc ∧ y.epc = x.epc ∧ (x.status = .exited → y.status = .exited) ∧
        (x.status = .ready → y.status = .held []) ∧ ∀ ws, x.status = .blocked ws → y.status = .held ws) := by
  intro x y
  have hy := hr.thread l
  rw [Group.thread_takeFault g f handler hl] at hy
  by_cases hactive : (g.activeFor f).has l = true
  · rw [if_pos hactive] at hy
    obtain ⟨hv, hk, hflags, hdraw, hstack, hexit, hwaits⟩ := x.enterHandler_frame (if f.deferred then x.pc else f.pc) handler
    rw [show y = _ from hy]
    exact ⟨hv, hk, hflags, hdraw, hstack, fun _ => ⟨rfl, rfl, rfl, hexit, hwaits⟩, fun hnot => absurd (hactive.symm.trans hnot) (by simp)⟩
  · rw [if_neg hactive] at hy
    obtain ⟨hframe, hexited, hready, hwaits⟩ := x.hold_frame
    rw [show y = _ from hy, show (g.thread l).hold = _ from hframe]
    exact ⟨rfl, rfl, rfl, rfl, rfl, fun h => absurd h hactive, fun _ => ⟨rfl, rfl, hexited, hready, hwaits⟩⟩

/-- The threads of a group whose debugger is told of a breakpoint (R375). -/
theorem Group.thread_breakHere (g : Group) (f : FaultRec) {l : Nat} (hl : l < g.threads.length) :
    (g.breakHere f).thread l = if (g.activeFor f).has l then { g.thread l with epc := (g.thread l).pc } else g.thread l :=
  g.thread_modThreads (g.activeFor f) (fun _ t => { t with epc := t.pc }) hl

/-- A group that has been put in place and then changed. -/
theorem State.group_modGroup_setGroup (s : State) (gid : Nat) (g : Group) (f : Group → Group) :
    ((s.setGroup gid g).modGroup gid f).group gid = f g := by
  rw [State.group_modGroup_same _ (by simp), State.group_setGroup_same]

/-! ### TRAP_ENTRY -/

/-- Whether a group stands at a boundary at which a fault may be taken (R366). -/
def State.atBoundary (s : State) (gid : Nat) : Prop :=
  (s.group gid).resident = true ∧ (s.teamOf gid).saving = false ∧ s.ctxIssues (s.ctxOf gid) = true ∧ ∀ i ∈ s.issuing, i.gid ≠ gid

theorem execTrapEntry_away (h : ¬ s.atBoundary gid) : execTrapEntry gid s = .next s := by
  refine if_pos ?_
  simp only [State.atBoundary, ← Bool.not_eq_true, ne_eq] at h
  simp only [Bool.or_eq_true, Bool.not_eq_true', List.any_eq_true, beq_iff_eq, ← Bool.not_eq_true]
  push Not at h ⊢
  tauto

theorem execTrapEntry_none (h : (s.group gid).taking.or (s.group gid).nextFault = none) : execTrapEntry gid s = .next s := by
  unfold execTrapEntry
  simp only [Group.choose_of_none h]
  exact ite_self _

section
variable (hat : s.atBoundary gid) (hdue : (s.group gid).taking.or (s.group gid).nextFault = some f)
include hat hdue

/-- At a boundary the fault due is in taking, and what the context does with it waits for the group's results (R366, R367). -/
theorem execTrapEntry_takes : execTrapEntry gid s =
    let t := s.setGroup gid ((s.group gid).chosen f)
    let c := s.ctx (s.ctxOf gid)
    if !s.resultsLanded gid then .next t
    else if f.code == .breakpoint && c.debug && !(s.group gid).inHandler then
      .next ((t.modGroup gid fun g => g.breakHere f).askKill (s.ctxOf gid)
        { code := f.code, cause := 3, gid := some gid, fault := some f })
    else if c.handles (s.group gid) f then .next (((t.withdraw gid).modGroup gid fun g => g.takeFault f c.handler).form gid)
    else .next (t.askKill (s.ctxOf gid)
      { code := f.code, cause := killCause (s.group gid) f, gid := some gid, fault := some f,
        earlier := if (s.group gid).inHandler then (s.group gid).handlerCode else 0 }) := by
  obtain ⟨hres, hsaving, hissues, hidle⟩ := hat
  have hstands : (!(s.group gid).resident || (s.teamOf gid).saving || !s.ctxIssues (s.ctxOf gid) || s.issuing.any fun i => i.gid == gid) =
      false := by
    simpa [hres, hsaving, hissues] using hidle
  unfold execTrapEntry
  simp only [hstands, Group.choose_of_due hdue]
  rfl

theorem execTrapEntry_waits (hlanded : s.resultsLanded gid = false) :
    execTrapEntry gid s = .next (s.setGroup gid ((s.group gid).chosen f)) :=
  (execTrapEntry_takes hat hdue).trans (if_pos (by simp [hlanded]))

section
variable (hlanded : s.resultsLanded gid = true)
include hlanded

/-- A breakpoint under debug halts the context: each active thread's EPC is where it stands (R375). -/
theorem execTrapEntry_halts (hbreak : f.code = .breakpoint) (hdebug : (s.ctx (s.ctxOf gid)).debug = true)
    (hin : (s.group gid).inHandler = false) : execTrapEntry gid s =
      .next (((s.setGroup gid ((s.group gid).chosen f)).modGroup gid fun g => g.breakHere f).askKill (s.ctxOf gid)
        { code := f.code, cause := 3, gid := some gid, fault := some f }) :=
  (execTrapEntry_takes hat hdue).trans ((if_neg (by simp [hlanded])).trans (if_pos (by simp [hbreak, hdebug, hin])))

section
variable (hgoes : ¬ (f.code = .breakpoint ∧ (s.ctx (s.ctxOf gid)).debug = true ∧ (s.group gid).inHandler = false))
include hgoes

theorem execTrapEntry_unhandled (h : (s.ctx (s.ctxOf gid)).handles (s.group gid) f = false) : execTrapEntry gid s =
    .next ((s.setGroup gid ((s.group gid).chosen f)).askKill (s.ctxOf gid)
      { code := f.code, cause := killCause (s.group gid) f, gid := some gid, fault := some f,
        earlier := if (s.group gid).inHandler then (s.group gid).handlerCode else 0 }) :=
  (execTrapEntry_takes hat hdue).trans ((if_neg (by simp [hlanded])).trans ((if_neg (by simpa [and_assoc] using hgoes)).trans
    (if_neg (by simp [h]))))

theorem execTrapEntry_enters (h : (s.ctx (s.ctxOf gid)).handles (s.group gid) f = true) : execTrapEntry gid s =
    .next ((((s.setGroup gid ((s.group gid).chosen f)).withdraw gid).modGroup gid fun g =>
      g.takeFault f (s.ctx (s.ctxOf gid)).handler).form gid) :=
  (execTrapEntry_takes hat hdue).trans ((if_neg (by simp [hlanded])).trans ((if_neg (by simpa [and_assoc] using hgoes)).trans
    (if_pos h)))

end

end

end

end

end Sys2Proof.Machine

namespace Sys2Proof

open Sys2Proof.Machine

/-- Settles O47: the choice of the fault by R366, then the way that the context takes it; forming the bundles afterwards reforms the group. -/
theorem trapEntryTakesTheNextFault : Obligations.TrapEntryTakesTheNextFault := by
  unfold Obligations.TrapEntryTakesTheNextFault
  intro s gid g f hfind hlen ctx c idle due queue taken free halts handled
  have hg := State.group_of_find? hfind
  have hidle : idle ↔ s.atBoundary gid := by rw [State.atBoundary, hg]
  have hhandled : handled ↔ c.handles g f = true := Ctx.handles_iff.symm
  simp only [exec_trapEntry]
  refine ⟨fun h => execTrapEntry_away (mt hidle.mpr h), fun h => execTrapEntry_none (by rwa [hg]), fun hat hdue hlanded => ?waits,
    fun hat hdue hlanded hgoes hno => ?kills, fun hat hdue hlanded hhalts => ?halts, fun hat hdue hlanded hfree hgoes hyes => ?enters⟩
  all_goals
    replace hat := hidle.mp hat
    replace hdue : (s.group gid).taking.or (s.group gid).nextFault = some f := by rwa [hg]
  case waits => rw [execTrapEntry_waits hat hdue hlanded, hg]; rfl
  case kills =>
    rw [execTrapEntry_unhandled hat hdue hlanded (by rwa [hg]) (by rw [hg]; simpa using mt hhandled.mpr hno), hg, killCause_eq]
    rfl
  case halts =>
    obtain ⟨hbreak, hdebug, hin⟩ := hhalts
    refine ⟨_, (exec_trapEntry gid s).trans (execTrapEntry_halts hat hdue hlanded hbreak hdebug (by rwa [hg])), ?_, ?_, ?_⟩
    · simp [State.askKill, State.modCtx, State.ctx, c, ctx]
    · simp [State.askKill]
    · intro l hl
      have hgroup := (s.group_modGroup_setGroup gid ((s.group gid).chosen f) fun g => g.breakHere f)
      rw [hg] at hgroup ⊢
      exact (congrArg (Group.thread · l) hgroup).trans ((g.chosen f).thread_breakHere f (hl.trans_eq hlen.symm))
  case enters =>
    obtain ⟨hl, hw⟩ := hfree
    refine ⟨_, (exec_trapEntry gid s).trans (execTrapEntry_enters hat hdue hlanded (by rwa [hg]) (by rw [hg]; exact hhandled.mp hyes)), ?_⟩
    rw [hg, State.withdraw_of_no_arrival (s := s.setGroup gid (g.chosen f)) hl hw]
    have hform := (((s.setGroup gid (g.chosen f)).modGroup gid fun g => g.takeFault f c.handler)).form_reforms gid
    have hgroup := s.group_modGroup_setGroup gid (g.chosen f) fun g => g.takeFault f c.handler
    change _ ∧ _
    generalize ((s.setGroup gid (g.chosen f)).modGroup gid fun g => g.takeFault f c.handler).form gid = t at hform ⊢
    have hreforms := hgroup ▸ hform.group gid
    obtain ⟨hqueue, hprecise, htaking, hinfo, haddr, hva, haux, hin, hlanes, hregs, hhandles, hsb, hfpctl, hgang⟩ :=
      hreforms.entered_registers
    rw [Group.activeFor_chosen] at hlanes
    refine ⟨by rw [hform.state]; rfl, by rw [hform.state]; rfl, hqueue, hprecise, htaking, hinfo, haddr, hva, haux, hin, hlanes, hregs,
      hhandles, hsb, hfpctl, hgang, fun l hl => ?_⟩
    have hentered := hreforms.entered (hl.trans_eq hlen.symm)
    rw [Group.activeFor_chosen] at hentered
    exact hentered

end Sys2Proof
end

section
/-!
PROOF. The events of the engines (R298, R300, R305, R307, R308, R310): the start of a copy command and the writes of status records, a
publish of a typed-buffer range, and the engine's way past a page that it leaves or gives up.
-/

namespace Sys2Proof.Machine

section
variable {s : State} {id : Nat} {c : Command}

/-! ### Status records (R298) -/

/-- A status record in an A-buffer window that no matrix work holds is written at once. -/
theorem State.noteCommand_window (hat : c.statusAt.1 = 0)
    (hfree : workHolds s.works [] [bufRange c.team 1 c.core c.statusAt.2 16] = false) :
    s.noteCommand id c = (s.bufWrite c.team 1 (unitOf 1 c.core) false c.statusAt.2 (toBytes 8 c.word0 ++ toBytes 8 c.progress)).setCommand
      id { c with owed := false, noted := s.clock } := by
  have hput : s.putStatus c =
      .ok [] (s.bufWrite c.team 1 (unitOf 1 c.core) false c.statusAt.2 (toBytes 8 c.word0 ++ toBytes 8 c.progress)) := by
    obtain ⟨a, ha⟩ : ∃ a, c.statusAt = (0, a) := ⟨_, Prod.ext hat rfl⟩
    rw [ha] at hfree ⊢
    unfold State.putStatus
    rw [ha]
    exact if_neg (by simp [hfree])
  rw [State.noteCommand, hput]
  simp only
  rw [State.bufWrite_eq]

theorem Command.word0_eq (c : Command) : c.word0 = c.state + (if c.state = 3 then c.code * 2 ^ 8 else 0) + c.ticket * 2 ^ 16 := by
  simp [Command.word0]

/-! ### The copy engine's queue (R305) -/

theorem execCopyCommandStart_starts {q : Nat} (hfirst : (s.copiesHeld q).find? (fun p => p.2.state == 0) = some (id, c))
    (hroom : ((s.copiesHeld q).filter fun p => p.2.state == 1).length < 4) (hfree : s.copyHeld id c = false) :
    execCopyCommandStart q id s = .next (s.noteCommand id { c with state := 1 }) := by
  unfold execCopyCommandStart
  extract_lets held
  rw [show held.find? _ = _ from hfirst]
  simp [held, hroom, hfree]

theorem execCopyCommandCompletion_runs {q : Nat} (hc : s.commands.find? id = some c) (hkind : c.kind = .copy) (hq : c.core / 4 = q)
    (hstate : c.state = 1) : execCopyCommandCompletion q id s = .next (s.runCopy id c).settle := by
  unfold execCopyCommandCompletion
  rw [hc]
  exact if_pos (by simp [hkind, hq, hstate])

theorem execEngineStatusUpdate_eq (hc : s.commands.find? id = some c) :
    execEngineStatusUpdate id s = .next (if c.state = 1 ∨ c.owed = true then s.noteCommand id c else s) := by
  unfold execEngineStatusUpdate
  rw [hc]
  simp

/-! ### Publishes (R300, R312) -/

theorem execPublishExecution_swaps (hc : s.commands.find? id = some c) (hkind : c.kind = .publish) (hlive : c.state ≤ 1)
    (hheld : s.publishHeld id c = false) (hpause : s.pausing c.ctx = false) {k : Nat} (hk : c.n.headD 0 = k) (hlt : k < 3) :
    execPublishExecution id s =
      .next (((List.range (c.n.getD 2 0 / bankSize (k + 1))).foldl (fun (s : State) i =>
        s.swapPair c.team (k + 1) (unitOf (k + 1) c.core) (c.n.getD 1 0 / bankSize (k + 1) + i)) s).publishDone id c none) := by
  unfold execPublishExecution
  rw [hc]
  simp only [hk]
  refine (if_neg ?_).trans (if_neg ?_)
  · simp [hkind, hheld, hpause, Command.live, hlive]
  · simp only [beq_iff_eq]
    omega

theorem State.publishDone_of_no_event (hevent : c.event = none) : s.publishDone id c none =
    (((s.setCommand id { c with state := 2, code := 0, owed := false }).engDone c.reader).acquireAll (c.core / 4) 1).settle := by
  unfold State.publishDone State.settleCommand
  simp [hevent, Command.reader]

theorem execPublishExecution_pauses (hc : s.commands.find? id = some c) (hwords : c.words = []) (hpause : s.pausing c.ctx = true) :
    execPublishExecution id s = .next s := by
  unfold execPublishExecution
  rw [hc]
  exact if_pos (by simp [hwords, hpause])

/-! ### Migration (R307, R308) -/

theorem Command.migration_of_migrate (h : c.kind = .migrate) (hto : c.words.headD 0 = 0) :
    c.migration = (.hbm, c.words.getD 1 0, c.words.getD 2 0, c.words.getD 3 0) := by
  rw [Command.migration, if_neg (by simp [h]), hto]
  rfl

theorem Command.past_of_migrate (h : c.kind = .migrate) (va : Nat) : c.past va =
    { c with words := [c.words.headD 0, va, c.words.getD 2 0, c.words.getD 3 0], progress := c.progress + 1, frameWait := none
             moving := none } := by
  simp [Command.past, h]

/-- The first page that fails leaves its fault for the landing, and its code in the command (R307). -/
theorem State.pageFails_of_event (hkind : c.kind = .migrate) {e : Nat} (hevent : c.event = some e) (hcode : c.code = 0) (code : FaultCode)
    (va : Nat) : s.pageFails c code va =
      (s.modEvent e fun d => d.addFault code d.lanes va (BitVec.ofNat 64 (c.ticket % 2 ^ 18)), { c with code := code.num }) := by
  unfold State.pageFails
  rw [if_neg (by simp [hkind]), hevent, hcode]
  rfl

theorem Leaf.place_of_resident {l : Leaf} (hres : pteBit l.pte 10 = true) (hhost : pteHost l.pte = false) : l.place = .hbm := by
  simp [Leaf.place, hres, hhost]

section
variable (hfirst : s.migrating = some (id, c))
include hfirst

/-- A page that is in device memory already is left where it is (R188, R307). -/
theorem execMigrationPageMove_leaves (hkind : c.kind = .migrate) (hto : c.words.headD 0 = 0) (hva : c.words.getD 1 0 < c.words.getD 2 0)
    (hgo : c.state = 1 ∨ s.publishPending id c = false) {l : Leaf} {pa : Nat}
    (hleaf : s.rawLeaf (s.ctx c.ctx) (c.words.getD 3 0) (c.words.getD 1 0) = .leaf l pa) (hplace : l.place = .hbm) :
    execMigrationPageMove s = .next (s.afterPage id (c.past (l.vbase + l.size))).settle := by
  have hstarts : (c.state == 0 && s.publishPending id c) = false := by rcases hgo with h | h <;> simp [h]
  unfold execMigrationPageMove
  rw [hfirst]
  simp only [Command.migration_of_migrate hkind hto, hstarts, hleaf]
  exact (if_neg Bool.false_ne_true).trans ((if_neg (Nat.not_le.mpr hva)).trans (if_pos (by simp [Command.leaves, hplace])))

theorem execMigrationPageMove_held (hstate : c.state = 0) (hpending : s.publishPending id c = true) :
    execMigrationPageMove s = .next s := by
  unfold execMigrationPageMove
  rw [hfirst]
  exact if_pos (by simp [hstate, hpending])

theorem execFramePoolWaitExpiry_early {t : Nat} (hwait : c.frameWait = some t) (hearly : s.clock < t) :
    execFramePoolWaitExpiry s = .next s := by
  unfold execFramePoolWaitExpiry
  rw [hfirst]
  simp [hwait, hearly]

/-- Once its wait for a frame is over, the page fails with MIG_FAIL (R308). -/
theorem execFramePoolWaitExpiry_fails {t e : Nat} {l : Leaf} {pa : Nat} (hkind : c.kind = .migrate) (hwait : c.frameWait = some t)
    (hdue : t ≤ s.clock) (hmoving : c.moving = none) (hevent : c.event = some e) (hcode : c.code = 0)
    (hleaf : s.rawLeaf (s.ctx c.ctx) (c.words.getD 3 0) (c.words.getD 1 0) = .leaf l pa) :
    execFramePoolWaitExpiry s = .next ((s.modEvent e fun d =>
      d.addFault .migFail d.lanes (c.words.getD 1 0) (BitVec.ofNat 64 (c.ticket % 2 ^ 18))).afterPage id
        (({ c with code := FaultCode.migFail.num } : Command).past (l.vbase + l.size))) := by
  obtain ⟨to', hmigration⟩ : ∃ to', c.migration = (to', c.words.getD 1 0, c.words.getD 2 0, c.words.getD 3 0) :=
    ⟨_, Prod.ext rfl (by simp [Command.migration, hkind])⟩
  unfold execFramePoolWaitExpiry
  rw [hfirst]
  simp only [hwait]
  refine (if_neg (by simp [Nat.not_lt.mpr hdue, hmoving])).trans ?_
  simp only [hmigration, hleaf, State.pageFails_of_event hkind hevent hcode]
  rw [hwait]

end

end

theorem execMigrationPageMove_idle {s : State} (h : s.migrating = none) : execMigrationPageMove s = .next s := by
  unfold execMigrationPageMove
  rw [h]

/-! ### Digests (R310) -/

theorem execDigestCompletion_runs {s : State} {id : Nat} {c : Command} {rest : List (Nat × Command)}
    (h : s.digestsHeld = (id, c) :: rest) (hkind : c.kind = .digest) : execDigestCompletion s = .next (s.runDigest id c) := by
  unfold execDigestCompletion
  rw [h]
  simp [hkind]

end Sys2Proof.Machine

namespace Sys2Proof

open Sys2Proof.Machine

/-- Settles O36: each event by what it does with the command that it serves. -/
theorem engineUnitEventResults : Obligations.EngineUnitEventResults := by
  unfold Obligations.EngineUnitEventResults
  intro s q id c hc quiet noted
  have hnote (d : Command) (hteam : d.team = c.team) (hcore : d.core = c.core) (hat : d.statusAt = c.statusAt) (h : quiet) :
      s.noteCommand id d = noted d := by
    obtain ⟨h0, hfree⟩ := h
    rw [State.noteCommand_window (by rw [hat]; exact h0) (by rw [hteam, hcore, hat]; exact hfree), Command.word0_eq]
  refine ⟨fun hquiet hfirst hroom hfree => ?start, fun hkind hcore hstate => ?copy, fun hquiet hdue => ?update, fun hstate howed => ?kept,
    fun k hkind hlive hheld hpause hk hlt hevent => ?swap, fun hkind hwords hpause => ?pauses, ?leaves, fun t hfirst hwait hearly => ?early,
    ?expiry, fun hfirst hstate hpending => ?held, fun hnone => ?idle, fun rest hheld hkind => ?digest⟩
  case start =>
    exact (exec_copyCommandStart q id s).trans ((execCopyCommandStart_starts hfirst hroom hfree).trans
      (congrArg _ (hnote { c with state := 1 } rfl rfl rfl hquiet)))
  case copy => exact (exec_copyCommandCompletion q id s).trans (execCopyCommandCompletion_runs hc hkind hcore hstate)
  case update =>
    rw [exec_engineStatusUpdate, execEngineStatusUpdate_eq hc, if_pos hdue, hnote c rfl rfl rfl hquiet]
  case kept => rw [exec_engineStatusUpdate, execEngineStatusUpdate_eq hc, if_neg (by simp [hstate, howed])]
  case swap =>
    rw [exec_publishExecution, execPublishExecution_swaps hc hkind hlive hheld hpause hk hlt, State.publishDone_of_no_event hevent]
  case pauses => exact (exec_publishExecution id s).trans (execPublishExecution_pauses hc hwords hpause)
  case leaves =>
    intro l pa hfirst hkind hto hva hgo hleaf hres hhost
    rw [exec_migrationPageMove, execMigrationPageMove_leaves hfirst hkind hto hva hgo hleaf (Leaf.place_of_resident hres hhost),
      Command.past_of_migrate hkind]
  case early => exact (exec_framePoolWaitExpiry s).trans (execFramePoolWaitExpiry_early hfirst hwait hearly)
  case expiry =>
    intro t e l pa hfirst hkind hwait hdue hmoving hevent hcode hleaf
    rw [exec_framePoolWaitExpiry, execFramePoolWaitExpiry_fails hfirst hkind hwait hdue hmoving hevent hcode hleaf,
      Command.past_of_migrate (c := { c with code := FaultCode.migFail.num }) hkind]
  case held => exact (exec_migrationPageMove s).trans (execMigrationPageMove_held hfirst hstate hpending)
  case idle => exact (exec_migrationPageMove s).trans (execMigrationPageMove_idle hnone)
  case digest => exact (exec_digestCompletion s).trans (execDigestCompletion_runs hheld hkind)

end Sys2Proof
end

section
/-!
PROOF. Messages are kept at their sender until they are acknowledged, sent again or lost (R321 to R327).
-/
namespace Sys2Proof.Machine

/-! ### What sending changes -/

/-- One state is another after fragments have left: only counters, the armed injection and its event, and what goes out are different. -/
def State.EmitsTo (s t : State) : Prop :=
  ∃ f i d a o, t = { s with fabCount := f, injFrag := i, deferred := d, agenda := a, outbox := o }

theorem State.EmitsTo.refl (s : State) : s.EmitsTo s := ⟨_, _, _, _, _, rfl⟩

theorem State.EmitsTo.trans {s t u : State} (h : s.EmitsTo t) (h' : t.EmitsTo u) : s.EmitsTo u := by
  obtain ⟨_, _, _, _, _, rfl⟩ := h
  obtain ⟨_, _, _, _, _, rfl⟩ := h'
  exact ⟨_, _, _, _, _, rfl⟩

theorem State.EmitsTo.foldl {α : Type} {f : State → α → State} (h : ∀ (s : State) a, s.EmitsTo (f s a)) (l : List α) (s : State) :
    s.EmitsTo (l.foldl f s) := by
  induction l generalizing s with
  | nil => exact .refl s
  | cons a l ih => exact (h s a).trans (ih _)

theorem State.fragFlip_emits (s : State) (m : Msg) (isData : Bool) (route : Nat) : s.EmitsTo (s.fragFlip m isData route).2 := by
  unfold State.fragFlip
  split
  · split
    · exact ⟨_, _, _, _, _, rfl⟩
    · exact .refl s
  · exact .refl s

/-- A fragment goes to the module itself or out of it. -/
theorem State.emit_emits (s : State) (own : Bool) (a : List (Nat × Instr)) (o : Out) :
    s.EmitsTo (if own then { s.fabBump 0 1 with agenda := a } else (s.fabBump 0 1).send o) := by
  cases own <;> exact ⟨_, _, _, _, _, rfl⟩

theorem State.emitStripe_emits (s : State) (x : Kept) (seq j gen : Nat) : s.EmitsTo (s.emitStripe x seq j gen) := by
  refine State.EmitsTo.foldl (fun s p => ?_) _ s
  dsimp only
  split
  · exact .refl s
  · exact (s.fragFlip_emits _ _ _).trans (State.emit_emits _ _ _ _)

theorem State.emitAll_emits (s : State) (x : Kept) (seq : Nat) : s.EmitsTo (s.emitAll x seq) :=
  State.EmitsTo.foldl (fun s _ => s.emitStripe_emits _ _ _ _) _ s

/-- An answer of class 6 takes a number, and its fragments leave. -/
theorem State.sendControl_emits (s : State) (src chip kind seq info : Nat) (payload : List Byte) :
    ∃ n, ({ s with sendSeq := n } : State).EmitsTo (s.sendControl src chip kind seq info payload) := by
  unfold State.sendControl
  dsimp only
  split
  · exact ⟨_, .refl s⟩
  · exact ⟨_, State.EmitsTo.foldl (fun s _ => s.emit_emits _ _ _) _ _⟩

@[simp] theorem State.sendControl_kept (s : State) (src chip kind seq info : Nat) (payload : List Byte) :
    (s.sendControl src chip kind seq info payload).kept = s.kept := by
  obtain ⟨_, _, _, _, _, _, e⟩ := s.sendControl_emits src chip kind seq info payload
  rw [e]

/-! ### Keys -/

theorem msgKey_of_lt {chan seq : Nat} (h : seq < 2 ^ 32) : msgKey chan seq = chan * 2 ^ 32 + seq := by
  rw [msgKey, Nat.mod_eq_of_lt h]

theorem msgKey_mod (chan seq : Nat) : msgKey chan seq % 2 ^ 32 = seq % 2 ^ 32 := by
  unfold msgKey
  omega

theorem seqBefore_self (n : Nat) : seqBefore n n = false := by simp [seqBefore]

/-! ### Injection and acknowledgement -/

theorem execMessageInjection_sends {s : State} {dst cls : Nat} {m : Msg} {rest : List Msg}
    (hq : s.sendQ.get (chanKey dst cls) [] = m :: rest) (hroute : (s.isSelf dst || s.routable dst) = true)
    (hroom : s.retained + ceilDiv m.payload.length 256 * 256 ≤ 8388608) (hcmd : m.cmd = none) (hrole : m.role ≠ .marker) :
    let n := s.sendSeq.get (s.outKey (chanKey dst cls)) 0
    let c := stripeCount m.payload.length (s.codeRate m).1
    let x : Kept := { msg := m, k := (s.codeRate m).1, m := (s.codeRate m).2, gens := List.replicate c 0, sent := List.replicate c s.clock,
                      ackWait := s.cfgVal 0x6A, busyWait := s.cfgVal 0x6B }
    execMessageInjection dst cls s = .next (State.emitAll
      { s with sendQ := if rest.isEmpty then s.sendQ.erase (chanKey dst cls) else s.sendQ.insert (chanKey dst cls) rest
               kept := s.kept.insert (msgKey (chanKey dst cls) n) x
               sendSeq := s.sendSeq.insert (s.outKey (chanKey dst cls)) ((n + 1) % 2 ^ 32) } x n) := by
  have hgo : ¬ (!s.isSelf dst && !s.routable dst) = true := by
    cases hs : s.isSelf dst <;> cases hr : s.routable dst <;> simp_all
  intro n c x
  unfold execMessageInjection
  dsimp only
  rw [hq]
  simp only [hgo, Nat.not_lt.mpr hroom, hcmd, beq_eq_false_iff_ne.mpr hrole, if_false, Bool.false_eq_true]
  rfl

theorem SMap.get_of_emptied {α : Type} (q : SMap (List α)) (k : Nat) (l : List α) :
    SMap.get (if l.isEmpty then q.erase k else q.insert k l) k [] = l := by
  cases l <;> simp [SMap.get]

/-- A message that carries out no command is simply taken off the retention buffer. -/
theorem State.release_of_no_command {s : State} {key : Nat} {x : Kept} (h : x.msg.cmd = none) :
    s.release key x = { s with kept := s.kept.erase key } := by
  unfold State.release
  rw [h]
  cases x.msg.role <;> rfl

theorem State.foldl_release_find? {l : List (Nat × Kept)} (hcmd : ∀ p ∈ l, p.2.msg.cmd = none) {k : Nat} (hk : ∀ p ∈ l, p.1 ≠ k)
    (s : State) : (l.foldl (fun (s : State) p => s.release p.1 p.2) s).kept.find? k = s.kept.find? k := by
  induction l generalizing s with
  | nil => rfl
  | cons p l ih =>
    rw [List.foldl_cons, ih (fun q hq => hcmd q (.tail _ hq)) (fun q hq => hk q (.tail _ hq)),
      State.release_of_no_command (hcmd p (.head _))]
    exact SMap.find?_erase_other _ (hk p (.head _)).symm

theorem State.foldl_acked_find? {l : List (Nat × Kept)} {k : Nat} (hk : ∀ p ∈ l, p.1 ≠ k) (s : State) :
    (l.foldl (fun (s : State) p => { s with kept := s.kept.modify p.1 fun x => { x with acked := true } }) s).kept.find? k =
      s.kept.find? k := by
  induction l generalizing s with
  | nil => rfl
  | cons p l ih =>
    rw [List.foldl_cons, ih fun q hq => hk q (.tail _ hq)]
    exact SMap.find?_modify_other _ _ (hk p (.head _)).symm

/-- An acknowledgement leaves what is kept behind its seq. -/
theorem State.ackReceived_find?_later {s : State} {chan q seq : Nat} (hseq : seq < 2 ^ 32) (hq : seqBefore q seq = true)
    (hcmd : ∀ p ∈ s.kept, p.2.msg.cmd = none) :
    (s.ackReceived chan q).kept.find? (chan * 2 ^ 32 + seq) = s.kept.find? (chan * 2 ^ 32 + seq) := by
  have hmem : ∀ p ∈ (s.keptOn chan).filter (fun p => !seqBefore q (p.1 % 2 ^ 32)), p ∈ s.kept ∧ p.1 ≠ chan * 2 ^ 32 + seq := by
    intro p hp
    obtain ⟨hp, hlate⟩ := List.mem_filter.mp hp
    refine ⟨(List.mem_filter.mp hp).1, fun e => ?_⟩
    have : p.1 % 2 ^ 32 = seq := by omega
    rw [this, hq] at hlate
    exact Bool.false_ne_true hlate
  exact (State.foldl_release_find? (fun p hp => hcmd p (hmem p hp).1) (fun p hp => (hmem p hp).2) _).trans
    (State.foldl_acked_find? (fun p hp => (hmem p hp).2) s)

/-- The acknowledgement of the only message kept on a channel takes it off. -/
theorem State.ackReceived_find?_only {s : State} {chan seq : Nat} {x : Kept} (hseq : seq < 2 ^ 32) (hcmd : x.msg.cmd = none)
    (honly : s.keptOn chan = [(chan * 2 ^ 32 + seq, x)]) : (s.ackReceived chan seq).kept.find? (chan * 2 ^ 32 + seq) = none := by
  have hmod : (chan * 2 ^ 32 + seq) % 2 ^ 32 = seq := by omega
  unfold State.ackReceived
  rw [honly]
  simp only [List.filter_cons, hmod, seqBefore_self, Bool.not_false, if_true, List.filter_nil, List.foldl_cons, List.foldl_nil,
    State.release_of_no_command hcmd]
  exact SMap.find?_erase_same _ _

/-! ### Failed attempts, loss and repeated messages -/

section
variable {s : State} {key j : Nat} {x : Kept}

theorem State.attemptFails_again (hx : s.kept.find? key = some x) (hnotice : x.notice = none) (hacked : x.acked = false)
    (hj : j < x.gens.length) (hgen : x.gens.getD j 0 < 2) {y : Kept}
    (hy : { x with gens := x.gens.set j (x.gens.getD j 0 + 1), sent := x.sent.set j s.clock } = y) :
    s.attemptFails key j =
      (({ s with kept := s.kept.insert key y }).fabBump 8 1).emitStripe y (key % 2 ^ 32) j (x.gens.getD j 0 + 1) := by
  subst hy
  have hgen' : (x.gens.set j (x.gens.getD j 0 + 1)).getD j 0 = x.gens.getD j 0 + 1 := by
    simp [List.getD, hj]
  unfold State.attemptFails
  rw [hx]
  dsimp only
  rw [if_neg (by simp [hnotice, hacked, hj]), if_neg (Nat.not_le.mpr hgen), hgen']

theorem State.attemptFails_lost (hx : s.kept.find? key = some x) (hnotice : x.notice = none) (hacked : x.acked = false)
    (hj : j < x.gens.length) (hgen : 2 ≤ x.gens.getD j 0) : s.attemptFails key j = s.loseKept key x := by
  unfold State.attemptFails
  rw [hx]
  dsimp only
  rw [if_neg (by simp [hnotice, hacked, hj]), if_pos hgen]

/-- The loss of a get's data leaves the message kept, with its notice due. -/
theorem State.loseKept_getData (hrole : x.msg.role = .getData) :
    (s.loseKept key x).kept.find? key = some { x with notice := some s.clock } := by
  unfold State.loseKept State.sendLoss State.senderLoss
  rw [hrole]
  simp only [State.sendControl_kept, State.logError_kept]
  exact SMap.find?_insert_same _ _ _

end

end Sys2Proof.Machine

namespace Sys2Proof
open Sys2Proof.Machine

/-- Settles O38: each event of the sender is its equation, and sending changes neither what is kept nor what waits. -/
theorem fabricSenderEventResults : Obligations.FabricSenderEventResults := by
  unfold Obligations.FabricSenderEventResults
  intro s dst cls seq j x hcls hseq chan key at' later
  have hkey : msgKey (chanKey dst cls) seq = key := msgKey_of_lt hseq
  have hmod : key % 2 ^ 32 = seq := by omega
  have hseqmod : seq % 2 ^ 32 = seq := Nat.mod_eq_of_lt hseq
  refine ⟨?_, ?_, ?_, ?_, ?_, ?_, ?_, ?_, ?_, ?_, ?_⟩
  · intro m rest hq hroute hroom hcmd hrole
    refine ⟨_, execMessageInjection_sends hq hroute hroom hcmd hrole, ?_⟩
    obtain ⟨_, _, _, _, _, e⟩ := State.emitAll_emits _ _ _
    rw [e]
    exact ⟨SMap.get_of_emptied _ _ _, SMap.get_insert_same _ _ _ _, SMap.find?_insert_same _ _ _⟩
  · exact fun q hx hq hcmd => ⟨_, rfl, (State.ackReceived_find?_later hseq hq hcmd).trans hx⟩
  · exact fun hx hcmd honly => ⟨_, rfl, State.ackReceived_find?_only hseq hcmd honly⟩
  · intro hx hnotice hacked hj hgen
    refine ⟨?_, fun hbusy hdue => ?_⟩
    · rw [exec_nackReceive, execNackReceive, hkey, State.attemptFails_again hx hnotice hacked hj hgen rfl, hmod]
    · rw [exec_nackReceive, execNackReceive, exec_ackWaitExpiry, execAckWaitExpiry, hkey]
      have hx' : s.kept.find? key = some x := hx
      simp only [hx', hbusy, hdue, Option.isNone_none, decide_true, Bool.and_self, if_true]
  · intro hx hnotice hacked hj hgen hrole
    refine ⟨_, rfl, ?_⟩
    rw [hkey, State.attemptFails_lost hx hnotice hacked hj hgen]
    exact State.loseKept_getData hrole
  · intro hx
    refine ⟨_, rfl, ?_⟩
    rw [hkey]
    exact (SMap.find?_modify_same _ _ _).trans (congrArg _ hx)
  · intro b hx hbusy hwait
    have hx' : s.kept.find? key = some x := hx
    rw [exec_busyWaitExpiry, execBusyWaitExpiry, hkey]
    simp [hx', hbusy, Nat.not_le.mpr hwait]
  · intro b hx hbusy hdue hnotice hacked y
    have hx' : s.kept.find? key = some x := hx
    rw [exec_busyWaitExpiry, execBusyWaitExpiry, hkey]
    dsimp only
    rw [hx']
    dsimp only
    rw [if_pos (by simp [hbusy, hnotice, hacked, hdue]), hseqmod]
  · intro b hx hnotice hdue
    have hx' : s.kept.find? key = some x := hx
    rw [exec_lossNoticeRepeat, execLossNoticeRepeat, hkey]
    simp only [hx', hnotice, hseqmod, hdue, Option.any_some, decide_true, if_true]
    rfl
  · intro h p hbad
    rw [exec_fragmentForward, execFragmentForward, hbad]
    rfl
  · intro h p hsound
    rw [Answers, exec_fragmentForward, execFragmentForward, hsound]
    exact ⟨_, rfl, _, Nat.mod_lt _ (by decide), rfl⟩

end Sys2Proof
end

section
/-!
PROOF. Fragments are collected, and messages delivered once and in order, at their receiver (R323 to R327).
-/
namespace Sys2Proof.Machine

/-! ### What a snapshot's failure leaves of the channels -/

/-- What a receiver's channels hold, with the time and whether there is no grid: a module that takes up its epoch's answers leaves all three. -/
def State.inbound (s : State) : SMap RecvChan × Nat × Bool := (s.recv, s.clock, s.grids.isEmpty)

theorem State.inbound_foldl {β : Type} {f : State → β → State} (h : ∀ s b, (f s b).inbound = s.inbound) (l : List β) (s : State) :
    (l.foldl f s).inbound = s.inbound := foldl_leaves State.inbound h l s

theorem State.inbound_ite {c : Prop} [Decidable c] {a b s : State} (ha : a.inbound = s.inbound) (hb : b.inbound = s.inbound) :
    (if c then a else b).inbound = s.inbound := by
  split
  · exact ha
  · exact hb

theorem State.inbound_eq_iff {s t : State} : t.inbound = s.inbound ↔ t.recv = s.recv ∧ t.clock = s.clock ∧ t.grids.isEmpty = s.grids.isEmpty := by
  simp [State.inbound]

@[simp] theorem State.inbound_modGroup (s : State) (gid : Nat) (f : Group → Group) : (s.modGroup gid f).inbound = s.inbound := (rfl)
@[simp] theorem State.inbound_modCtx (s : State) (c : Nat) (f : Ctx → Ctx) : (s.modCtx c f).inbound = s.inbound := (rfl)
@[simp] theorem State.inbound_modEvent (s : State) (e : Nat) (f : Deferred → Deferred) : (s.modEvent e f).inbound = s.inbound := (rfl)
@[simp] theorem State.inbound_accessLanded (s : State) (e : Nat) : (s.accessLanded e).inbound = s.inbound := (rfl)
@[simp] theorem State.inbound_dropLine (s : State) (q pa : Nat) : (s.dropLine q pa).inbound = s.inbound := (rfl)
@[simp] theorem State.inbound_usePage (s : State) (pa : Nat) : (s.usePage pa).inbound = s.inbound := (rfl)
@[simp] theorem State.inbound_send (s : State) (o : Out) : (s.send o).inbound = s.inbound := (rfl)
@[simp] theorem State.inbound_rangeFault (s : State) (id : Nat) (c : FaultCode) (va : Nat) : (s.rangeFault id c va).inbound = s.inbound := (rfl)
@[simp] theorem State.inbound_answerOp (s : State) (o : RemoteOp) (code : Option FaultCode) (data : List Byte) :
    (s.answerOp o code data).inbound = s.inbound := (rfl)
theorem State.inbound_accesses (s : State) (l : List Access) : ({ s with accesses := l } : State).inbound = s.inbound := (rfl)

@[simp] theorem State.inbound_modGrid (s : State) (gr : Nat) (f : Grid → Grid) : (s.modGrid gr f).inbound = s.inbound := by
  refine State.inbound_eq_iff.mpr ⟨rfl, rfl, ?_⟩
  change (s.grids.modify gr f).isEmpty = s.grids.isEmpty
  rcases s.grids with _ | ⟨⟨k, g⟩, gs⟩
  · rfl
  · unfold SMap.modify
    split <;> rfl

@[simp] theorem State.inbound_countAtomic (s : State) (fl : FpFlags) : (s.countAtomic fl).inbound = s.inbound := State.inbound_ite rfl rfl

@[simp] theorem State.inbound_acquireRead (s : State) (a : Access) (w : Nat) : (s.acquireRead a w).inbound = s.inbound := by
  obtain ⟨_, e⟩ := s.acquireRead_frame a w
  rw [e]
  rfl

@[simp] theorem State.inbound_fenceWrite (s : State) (a : Access) : (s.fenceWrite a).inbound = s.inbound := by
  obtain ⟨_, e⟩ := s.fenceWrite_frame a
  rw [e]
  rfl

@[simp] theorem State.inbound_stampFor (s : State) (a : Access) : (s.stampFor a).2.inbound = s.inbound := by
  obtain ⟨_, _, e⟩ := s.stampFor_frame a
  rw [e]
  rfl

@[simp] theorem State.inbound_queueFault (s : State) (gid : Nat) (f : FaultRec) : (s.queueFault gid f).inbound = s.inbound :=
  State.inbound_ite rfl rfl

@[simp] theorem State.inbound_queueMerged (s : State) (gid : Nat) (f : FaultRec) : (s.queueMerged gid f).inbound = s.inbound :=
  State.inbound_ite rfl (s.inbound_queueFault gid f)

@[simp] theorem State.inbound_refuseAccess (s : State) (a : Access) (c : FaultCode) (aux : Word) :
    (s.refuseAccess a c aux).inbound = s.inbound := by
  unfold State.refuseAccess
  extract_lets s' f
  have hs' : s'.inbound = s.inbound := rfl
  split
  · simp [hs']
  · simp [hs']
  · split <;> simp [hs']

@[simp] theorem State.inbound_completeAccess (s : State) (a : Access) (data : List Byte) (w : Nat) :
    (s.completeAccess a data w).inbound = s.inbound := by
  unfold State.completeAccess
  grind [State.inbound_accesses, State.inbound_usePage, State.inbound_acquireRead, State.inbound_fenceWrite, State.inbound_modGroup,
    State.inbound_modEvent, State.inbound_accessLanded]

@[simp] theorem State.inbound_awayAnswer (s : State) (a : Access) (code : Option FaultCode) (old : List Byte) :
    (s.awayAnswer a code old).inbound = s.inbound := by
  have hstamp : (if code.isNone && a.writes && decide (pteClass a.pte < 2) then (s.stampFor a).2 else s).inbound = s.inbound :=
    State.inbound_ite (s.inbound_stampFor a) rfl
  unfold State.awayAnswer
  generalize (if code.isNone && a.writes && decide (pteClass a.pte < 2) then (s.stampFor a).2 else s) = s' at hstamp ⊢
  rw [← hstamp]
  dsimp only
  split
  · rfl
  · split
    · exact s'.inbound_refuseAccess a _ 0
    · generalize hline : (if a.writes then s'.dropLine (a.core / 4) a.pa else s') = s''
      have hdrop : s''.inbound = s'.inbound := hline ▸ State.inbound_ite rfl rfl
      rw [← hdrop]
      split
      · simp
      · split
        · simp
        · rfl
      · simp

@[simp] theorem State.inbound_eventAnswered (s : State) (id : Nat) (c : Option FaultCode) (va : Nat) :
    (s.eventAnswered id c va).inbound = s.inbound := by cases c <;> rfl

@[simp] theorem State.inbound_opAnswered (s : State) (pa id code : Nat) (data : List Byte) :
    (s.opAnswered pa id code data).inbound = s.inbound := by
  unfold State.opAnswered
  dsimp only
  repeat' refine State.inbound_ite ?_ ?_
  · exact State.inbound_foldl (fun s a => s.inbound_refuseAccess a _ 0) _ _
  · rfl
  · split <;> rfl
  · rfl
  · rfl
  · split
    · exact s.inbound_awayAnswer _ _ _
    · exact s.inbound_eventAnswered _ _ _

@[simp] theorem State.inbound_answered (s : State) (o : RemoteOp) : (s.answered o).inbound = s.inbound :=
  State.inbound_ite rfl (s.inbound_opAnswered _ _ _ _)

@[simp] theorem State.inbound_takeAnswers (s : State) : s.takeAnswers.inbound = s.inbound :=
  State.inbound_foldl (fun s o => s.inbound_answered o) _ _

@[simp] theorem State.inbound_takeEpoch (s : State) (epoch : Nat) : (s.takeEpoch epoch).inbound = s.inbound := by
  unfold State.takeEpoch
  rw [(State.formAll_reforms _).state]
  exact State.inbound_takeAnswers _

@[simp] theorem State.inbound_failSnap (s : State) (colour cause : Nat) : (s.failSnap colour cause).inbound = s.inbound := by
  unfold State.failSnap
  dsimp only
  refine State.inbound_ite rfl (State.inbound_ite ?_ rfl)
  exact State.inbound_takeEpoch _ _

@[simp] theorem State.inbound_tellFailure (s : State) (colour initiator : Nat) : (s.tellFailure colour initiator).inbound = s.inbound :=
  State.inbound_ite (State.inbound_foldl (fun s _ => State.inbound_ite rfl (s.inbound_send _)) _ _) rfl

@[simp] theorem State.inbound_snapFail (s : State) (colour cause : Nat) : (s.snapFail colour cause).inbound = s.inbound := by
  unfold State.snapFail
  dsimp only
  refine State.inbound_ite rfl ?_
  rw [State.inbound_tellFailure, State.inbound_failSnap]

/-! ### Fragments -/

section
variable {s : State} {hdr : BitVec 256} {payload : List (BitVec 8)}

theorem Header.ofWord_src_lt (x : BitVec 256) : (Header.ofWord x).src < 4096 := Nat.mod_lt _ (by decide)

/-- A sound fragment of a message for this chip, that is no answer of class 6, is looked at by its seq. -/
theorem execDataFragmentReceive_mine (hsound : fragmentSound hdr payload = true) (hphys : (Header.ofWord hdr).phys = Config.fabSelf.toNat)
    (hself : s.isSelf (Header.ofWord hdr).dst = true) (hdst : (Header.ofWord hdr).dst = s.chip)
    (hkind : (Header.ofWord hdr).cls = 6 → (Header.ofWord hdr).kind = 0 ∨ 4 < (Header.ofWord hdr).kind)
    {h : Header} (hh : Header.ofWord hdr = h) {chan key : Nat} (hchan : chanKey h.src h.cls = chan) (hkey : msgKey chan h.seq = key) :
    execDataFragmentReceive hdr payload s =
      if (s.filter.find? key).isSome then .next (s.fabBump 3 1)
      else if seqBefore h.seq (s.recvOf chan).next || (s.recvOf chan).lost.contains h.seq then
        .next (if seqBefore h.seq (s.watermark chan) then s.fabBump 4 1 else s)
      else if !s.slotFree h.src h.cls h.kind (s.slots.find? key).isNone then .next (s.sendBusy chan h.seq)
      else
        let t := s.takeFragment key ((s.slots.find? key).getD { header := hdr, deadline := s.cfgVal 0x69, dispose := s.cfgVal 0x68 }) h payload
        .next (if ((t.slots.find? key).bind Slot.data?).isSome then t.busyBehind chan else t) := by
  subst hh hkey hchan
  have hin : s.inChip (Header.ofWord hdr).src (Header.ofWord hdr).dst = (Header.ofWord hdr).src := by simp [State.inChip, hdst]
  have hanswer : ¬ ((Header.ofWord hdr).cls == 6 && decide (ackKind ≤ (Header.ofWord hdr).kind) &&
      decide ((Header.ofWord hdr).kind ≤ lossKind)) = true := by
    intro hc
    simp only [Bool.and_eq_true, beq_iff_eq, decide_eq_true_eq] at hc
    obtain ⟨⟨hcls, (hlo : 1 ≤ _)⟩, (hhi : _ ≤ 4)⟩ := hc
    have hzero := hkind hcls
    omega
  unfold execDataFragmentReceive
  dsimp only
  rw [if_neg (by simp [hsound]), if_neg (by simp [hphys, hself]), if_neg hanswer, hin]

/-- The first fragment of a message of several takes a slot with its stripe. -/
theorem State.takeFragment_first {key : Nat} {x : Slot} {h : Header} (hx : x.stripes = []) (hks : 1 < h.ks) :
    s.takeFragment key x h payload =
      let y : StripeRx := { ks := h.ks, frags := [(h.index, payload)], gens := [h.gen], since := s.clock }
      { s.fabBump 1 1 with slots := s.slots.insert key { x with stripes := [(h.stripe, y)] } } := by
  unfold State.takeFragment
  rw [hx]
  simp [SMap.find?, SMap.insert, hks]
  rfl

@[simp] theorem State.sendControl_slots (s : State) (src chip kind seq info : Nat) (p : List Byte) :
    (s.sendControl src chip kind seq info p).slots = s.slots := by
  obtain ⟨_, _, _, _, _, _, e⟩ := s.sendControl_emits src chip kind seq info p
  rw [e]

@[simp] theorem State.sendControl_recvOf (s : State) (src chip kind seq info : Nat) (p : List Byte) (chan : Nat) :
    (s.sendControl src chip kind seq info p).recvOf chan = s.recvOf chan := by
  obtain ⟨_, _, _, _, _, _, e⟩ := s.sendControl_emits src chip kind seq info p
  rw [e]
  rfl

@[simp] theorem State.busyBehind_slots (s : State) (chan : Nat) : (s.busyBehind chan).slots = s.slots := by
  unfold State.busyBehind
  split
  · rfl
  · exact foldl_leaves State.slots (fun s q => (State.sendControl_slots _ _ _ _ _ _ _ : (s.sendBusy chan q).slots = s.slots)) _ s

end

/-! ### Delivery and acknowledgement -/

theorem State.passLost_zero (s : State) (chan : Nat) : s.passLost chan 0 = s := rfl

/-- A channel whose next seq is not lost passes nothing. -/
theorem State.passLost_of_not_lost {s : State} {chan : Nat} (h : (s.recvOf chan).next ∉ (s.recvOf chan).lost) (n : Nat) :
    s.passLost chan n = s := by
  cases n with
  | zero => rfl
  | succ n =>
    unfold State.passLost
    simp [h]

theorem State.recvOf_eq {s : State} {chan : Nat} {m : SMap RecvChan} {r : RecvChan} (h : s.recv = m.insert chan r) : s.recvOf chan = r := by
  rw [State.recvOf, h]
  exact SMap.get_insert_same _ _ _ _

theorem State.logDelivery_of_no_snaps {s : State} (h : s.snaps = []) (n cls seq : Nat) (hdr : BitVec 256) (data : List Byte) :
    s.logDelivery n cls seq hdr data = s := by
  rw [State.logDelivery, h]
  rfl

theorem chanKey_div {n cls : Nat} (h : cls < 8) : chanKey n cls / 8 = n := by
  unfold chanKey
  omega

theorem chanKey_mod {n cls : Nat} (h : cls < 8) : chanKey n cls % 8 = cls := by
  unfold chanKey
  omega

/-- A report is handled by an event of its own. -/
theorem State.deliver_report (s : State) (n : Nat) {h : Header} (data : List Byte) (hkind : h.kind = 0) :
    ∃ agenda, s.deliver n 1 h data = .done { s with agenda := agenda } := by
  unfold State.deliver
  rw [hkind]
  exact ⟨_, rfl⟩

/-- The delivery of a message of class 1 that carries a snapshot's report. -/
theorem execMessageDelivery_report {s : State} {src : Nat} {x : Slot} {data : List Byte} {chan : Nat} (hchan : chanKey src 1 = chan)
    {r : RecvChan} (hr : s.recvOf chan = r) {key : Nat} (hkey : msgKey chan r.next = key) (hx : s.slots.find? key = some x)
    (hdata : x.data? = some data) (hkind : (Header.ofWord x.header).kind = 0) (hsnaps : s.snaps = []) (hgrids : s.grids = [])
    (hlost : r.lost = []) : ∃ agenda, execMessageDelivery src 1 s = .next (State.oweAck
      { s with agenda := agenda, slots := s.slots.erase key, filter := s.filter.insert key (s.clock + x.dispose)
               recv := s.recv.insert chan { r with next := (r.next + 1) % 2 ^ 32 } } chan).pump := by
  subst hkey hchan hr
  obtain ⟨agenda, hdeliver⟩ := s.deliver_report src data hkind
  generalize ht : ({ s with agenda := agenda } : State) = t at hdeliver
  refine ⟨agenda, ?_⟩
  unfold execMessageDelivery
  dsimp only
  rw [hx]
  dsimp only
  rw [hdata]
  dsimp only
  rw [hdeliver]
  dsimp only
  rw [if_neg (by simp [hkind]), State.logDelivery_of_no_snaps (by rw [← ht]; exact hsnaps)]
  subst ht
  rw [State.passLost_of_not_lost, State.podCheckAll_of_none]
  · rfl
  · simp [State.oweAck, hgrids]
  · rw [State.recvOf_eq rfl]
    exact hlost ▸ List.not_mem_nil

theorem insertFault_length (f : Nat × Nat) (l : List (Nat × Nat)) : (insertFault f l).length = l.length + 1 := by
  induction l with
  | nil => rfl
  | cons g l ih =>
    unfold insertFault
    split
    · rfl
    · simp [ih]

theorem foldr_insertFault_length (l : List (Nat × Nat)) : (l.foldr insertFault []).length = l.length := by
  induction l with
  | nil => rfl
  | cons f l ih => simp [insertFault_length, ih]

section
variable {s : State} {src cls : Nat} {chan : Nat} {r : RecvChan} {b : Nat}

theorem execAckCoalesceExpiry_early (hchan : chanKey src cls = chan) (hr : s.recvOf chan = r)
    (hearly : ∀ b, r.owed = some b → s.clock < b + 64) : execAckCoalesceExpiry src cls s = .next s := by
  subst hchan hr
  unfold execAckCoalesceExpiry
  dsimp only
  rw [if_neg]
  cases howed : (s.recvOf (chanKey src cls)).owed with
  | none => simp
  | some b => simpa using hearly b howed

/-- An acknowledgement names all the faults that fit its payload. -/
theorem execAckCoalesceExpiry_all (hchan : chanKey src cls = chan) (hr : s.recvOf chan = r) (howed : r.owed = some b) (hdue : b + 64 ≤ s.clock)
    (hfew : r.faults.length ≤ 51) :
    execAckCoalesceExpiry src cls s =
      .next (State.sendControl { s with recv := s.recv.insert chan { r with owed := none, faults := r.faults.filter fun f =>
          (s.filter.find? (msgKey chan f.1)).isSome } }
        (s.dstOf src) (srcOf src) ackKind ((r.next + 2 ^ 32 - 1) % 2 ^ 32) cls
        ((r.faults.foldr insertFault []).flatMap fun (f : Nat × Nat) => toBytes 4 f.1 ++ toBytes 1 f.2)) := by
  subst hchan hr
  have hlen := foldr_insertFault_length (s.recvOf (chanKey src cls)).faults
  have hmore : ¬ ackFaults < ((s.recvOf (chanKey src cls)).faults.foldr insertFault []).length := by
    rw [hlen]
    exact Nat.not_lt.mpr hfew
  have htake : ((s.recvOf (chanKey src cls)).faults.foldr insertFault []).take ackFaults =
      (s.recvOf (chanKey src cls)).faults.foldr insertFault [] := List.take_of_length_le (by rw [hlen]; exact hfew)
  unfold execAckCoalesceExpiry
  dsimp only
  rw [if_pos (by simp [howed, hdue])]
  simp only [hmore, htake, if_false]

/-- With more faults than one payload names, the rest is owed. -/
theorem execAckCoalesceExpiry_more (hchan : chanKey src cls = chan) (hr : s.recvOf chan = r) (howed : r.owed = some b) (hdue : b + 64 ≤ s.clock)
    (hmany : 51 < r.faults.length) :
    ∃ t, execAckCoalesceExpiry src cls s = .next t ∧ (t.recvOf chan).owed = some s.clock ∧
      (t.recvOf chan).faults = r.faults.filter fun f => !((r.faults.foldr insertFault []).take 51).any fun g => g.1 == f.1 := by
  subst hchan hr
  have hmore : ackFaults < ((s.recvOf (chanKey src cls)).faults.foldr insertFault []).length := by
    rw [foldr_insertFault_length]
    exact hmany
  unfold execAckCoalesceExpiry
  dsimp only
  rw [if_pos (by simp [howed, hdue])]
  refine ⟨_, rfl, ?_⟩
  rw [State.sendControl_recvOf, State.recvOf_eq rfl]
  simp only [hmore, if_true, true_and]
  rfl

end

/-! ### Deadlines -/

section
variable {s : State} {src cls seq : Nat}

theorem execFilterEntryExpiry_eq (hseq : seq < 2 ^ 32) {chan : Nat} (hchan : chanKey src cls = chan) {key : Nat} (hkey : msgKey chan seq = key)
    {r : RecvChan} (hr : s.recvOf chan = r) {b : Nat} (hb : s.filter.find? key = some b) :
    execFilterEntryExpiry src cls seq s = .next (if b ≤ s.clock then { s with
      filter := s.filter.erase key
      recv := if r.faults = [] ∨ r.owed.isSome = true then s.recv else s.recv.insert chan { r with faults := r.faults.erase seq } } else s) := by
  subst hchan hkey hr
  unfold execFilterEntryExpiry
  extract_lets key chan t r
  have hr : t.recvOf chan = s.recvOf chan := rfl
  by_cases hdue : b ≤ s.clock
  · rw [if_neg (by simp [key, hb, hdue]), if_pos hdue, Nat.mod_eq_of_lt hseq, hr]
    simp only [Bool.or_eq_true, List.isEmpty_iff]
    by_cases hkeep : (s.recvOf chan).faults = [] ∨ (s.recvOf chan).owed.isSome = true
    · rw [if_pos hkeep, if_pos hkeep]
    · rw [if_neg hkeep, if_neg hkeep]
      rfl
  · rw [if_pos (by simp [key, hb, hdue]), if_neg hdue]

theorem execDecodeDeadlineExpiry_eq {stripe : Nat} {key : Nat} (hkey : msgKey (chanKey src cls) seq = key) {x : Slot} {y : StripeRx}
    (hx : s.slots.find? key = some x) (hy : x.stripes.find? stripe = some y) (hdone : y.done = false) (htimed : y.timed = true) :
    execDecodeDeadlineExpiry src cls seq stripe s =
      if s.clock < y.since + x.deadline then .next s
      else if 2 ∈ y.gens then .next (s.declareLost (chanKey src cls) seq none)
      else .next (({ s with slots := s.slots.insert key { x with stripes := x.stripes.insert stripe { y with timed := false } } }.fabBump
        7 1).sendControl (s.dstOf src) (srcOf src) nackKind seq (cls + stripe * 2 ^ 3 + y.gens.foldl max 0 * 2 ^ 9) []) := by
  subst hkey
  unfold execDecodeDeadlineExpiry
  extract_lets chan key
  rw [hx]
  dsimp only
  rw [hy]
  simp only [hdone, htimed, Bool.not_true, Bool.or_self, Bool.false_or, decide_eq_true_eq, List.contains_iff_mem]
  rfl

end

/-! ### Loss at the receiver -/

theorem State.lossActs_report (s : State) {chan : Nat} (hcls : chan % 8 = 1) (info said : Nat) (aux : Word) :
    s.lossActs chan 0 info said aux = s.snapFail (bits info 0 0) 2 := by
  unfold State.lossActs
  simp [hcls]

/-- The loss of a message of class 1 that is not the next: its place is noted, and an acknowledgement owed. -/
theorem State.declareLost_report {s : State} {src seq info : Nat} {chan : Nat} (hchan : chanKey src 1 = chan) {r : RecvChan}
    (hr : s.recvOf chan = r) (hbefore : seqBefore seq r.next = false) (hnew : seq ∉ r.lost) (hnext : seq ≠ r.next) (hpassed : r.next ∉ r.lost)
    (hslot : s.slots.find? (msgKey chan seq) = none) (hgrids : s.grids = []) :
    (s.declareLost chan seq (some (0, info))).recv.find? chan = some { r with lost := r.lost ++ [seq], owed := r.owed.or (some s.clock) } := by
  have hcls : chan % 8 = 1 := hchan ▸ chanKey_mod (by decide)
  subst hr
  unfold State.declareLost
  extract_lets r key seen h cls aux half q logged s1 isSend s2 s3 s4
  rw [if_neg (by simp [r, hbefore, hnew])]
  have hhalf : half = false := by simp [half, cls, hcls]
  have hq : q = { r with lost := r.lost ++ [seq] } := by simp [q, hhalf]
  have hs2 : s2 = s1 := if_neg (by simp [isSend, h, seen, key, hslot, cls, hcls])
  have hs3 : s3 = s1.snapFail (bits info 0 0) 2 := by
    rw [← hs2]
    simp only [s3, h, seen, key, hslot, Option.map_none, Option.none_or]
    exact s2.lossActs_report hcls _ _ _
  have hs4 : s4 = s1.snapFail (bits info 0 0) 2 := by
    rw [← hs3]
    exact if_neg (by simp [cls, hcls])
  have hin : s4.inbound = s1.inbound := by rw [hs4, State.inbound_snapFail]
  obtain ⟨hrecv, hclock, hempty⟩ := State.inbound_eq_iff.mp hin
  have hrecv4 : s4.recv = s.recv.insert chan q := hrecv
  have hclock4 : s4.clock = s.clock := by
    rw [hclock]
    obtain ⟨_, _, _, e⟩ := (s.fabBump 9 1).logError_frame 7 0 0
    simp only [s1, logged, e]
    rfl
  have hgrids4 : s4.grids = [] := by
    rw [← List.isEmpty_iff, hempty]
    obtain ⟨_, _, _, e⟩ := (s.fabBump 9 1).logError_frame 7 0 0
    simp only [s1, logged, e]
    exact List.isEmpty_iff.mpr hgrids
  have hrecvOf : s4.recvOf chan = q := State.recvOf_eq hrecv4
  rw [State.passLost_of_not_lost (by rw [hrecvOf, hq]; simp [hpassed, hnext.symm, r]), State.podCheckAll_of_none (by simp [State.oweAck, hgrids4]),
    State.oweAck, hrecvOf, hclock4, hq]
  exact SMap.find?_insert_same _ _ _

end Sys2Proof.Machine

namespace Sys2Proof
open Sys2Proof.Machine

/-- Settles O39: each event of the receiver is its equation; the failure of a snapshot that a lost report causes leaves the channels. -/
theorem fabricReceiverEventResults : Obligations.FabricReceiverEventResults := by
  unfold Obligations.FabricReceiverEventResults
  intro s src cls seq stripe hdr payload hcls hseq h chan key mine fresh r
  have hkey : msgKey chan seq = key := msgKey_of_lt hseq
  have hdiv : chan / 8 = src := chanKey_div hcls
  have hmod : chan % 8 = cls := chanKey_mod hcls
  have hnearSrc : src < 4096 → srcOf src = src := Nat.mod_eq_of_lt
  have hnearDst : src < 4096 → s.dstOf src = s.chip := fun hsrc => if_pos hsrc
  have hmine : fragmentSound hdr payload = true → mine → execDataFragmentReceive hdr payload s =
      if (s.filter.find? key).isSome then .next (s.fabBump 3 1)
      else if seqBefore seq r.next || r.lost.contains seq then .next (if seqBefore seq (s.watermark chan) then s.fabBump 4 1 else s)
      else if !s.slotFree src cls h.kind (s.slots.find? key).isNone then .next (s.sendBusy chan seq)
      else
        let t := s.takeFragment key ((s.slots.find? key).getD { header := hdr, deadline := s.cfgVal 0x69, dispose := s.cfgVal 0x68 }) h payload
        .next (if ((t.slots.find? key).bind Slot.data?).isSome then t.busyBehind chan else t) := by
    intro hsound ⟨hphys, hself, hdst, hsrc, hcls', hseq', hkind⟩
    rw [execDataFragmentReceive_mine (chan := chan) (key := key) hsound hphys hself hdst (fun h6 => hkind (hcls'.symm.trans h6)) rfl
      (by rw [hsrc, hcls']; rfl) (by rw [hseq', hkey]), hsrc, hcls', hseq']
  have hsrc4096 : mine → src < 4096 := fun ⟨_, _, _, hsrc, _⟩ => hsrc ▸ Header.ofWord_src_lt hdr
  have hfresh : fresh → ¬ (s.filter.find? key).isSome = true ∧ ¬ (seqBefore seq r.next || r.lost.contains seq) = true := by
    intro ⟨hfilter, hbefore, hlost⟩
    exact ⟨by simp [hfilter], by simp [r, hbefore, hlost]⟩
  refine ⟨?_, ?_, ?_, ?_, ?_, ?_, ?_, ?_, ?_, ?_, ?_, ?_, ?_, ?_⟩
  · intro hbad
    rw [exec_dataFragmentReceive, execDataFragmentReceive, hbad]
    rfl
  · intro hsound hother
    rw [exec_dataFragmentReceive, execDataFragmentReceive]
    dsimp only
    rw [if_neg (by simp [hsound]), if_pos]
    rcases hother with hphys | hself
    · simp [h, bne_iff_ne.mpr hphys]
    · simp [h, hself]
  · intro hsound hm hseen
    rw [exec_dataFragmentReceive, hmine hsound hm, if_pos hseen]
  · intro hsound hm hf hslot hfull
    obtain ⟨hunseen, hnew⟩ := hfresh hf
    rw [exec_dataFragmentReceive, hmine hsound hm, if_neg hunseen, if_neg hnew, hslot, if_pos (by simp [hfull]), State.sendBusy, hdiv, hmod,
      hnearSrc (hsrc4096 hm), hnearDst (hsrc4096 hm)]
    rfl
  · intro hsound hm hf hslot hfree hks
    obtain ⟨hunseen, hnew⟩ := hfresh hf
    rw [Answers, exec_dataFragmentReceive, hmine hsound hm, if_neg hunseen, if_neg hnew, hslot, if_neg (by simp [hfree]),
      Option.getD_none, State.takeFragment_first rfl hks]
    refine ⟨_, rfl, ?_⟩
    rw [apply_ite State.slots, State.busyBehind_slots, ite_self]
    exact SMap.find?_insert_same _ _ _
  · intro hsound hphys hself h6 hlo hhi hseen
    rw [exec_dataFragmentReceive, execDataFragmentReceive]
    dsimp only
    rw [if_neg (by simp [hsound]), if_neg (by simp [h, hphys, hself]) , if_pos (by simp [h6, ackKind, lossKind, hlo, hhi, h]), State.answerArrives]
    exact congrArg (fun t : State => Host.Outcome.next t.settle) (if_pos hseen)
  · intro x hx hdata
    subst hx
    rw [exec_messageDelivery, execMessageDelivery]
    dsimp only
    split
    · rfl
    · next x hx =>
      rw [show s.slots.find? (chan * 2 ^ 32 + r.next % 2 ^ 32) = some x from hx] at hdata
      rw [show x.data? = none from hdata]
  · intro x data hx hdata hkind hone hsnaps hgrids hlost
    subst hone
    obtain ⟨agenda, hdeliver⟩ := execMessageDelivery_report (chan := chan) rfl (r := r) rfl rfl hx hdata hkind hsnaps hgrids hlost
    refine ⟨_, hdeliver, rfl, rfl, ?_⟩
    rw [State.oweAck, State.recvOf_eq rfl]
    exact SMap.find?_insert_same _ _ _
  · intro b howed hdue hsrc fs
    refine ⟨fun hfew => ?_, fun hmany => ?_⟩
    · rw [exec_ackCoalesceExpiry, execAckCoalesceExpiry_all (chan := chan) rfl rfl howed hdue hfew, hnearSrc hsrc, hnearDst hsrc]
      rfl
    · exact execAckCoalesceExpiry_more (chan := chan) rfl rfl howed hdue hmany
  · exact fun hearly => execAckCoalesceExpiry_early (chan := chan) rfl rfl hearly
  · intro b hb
    exact execFilterEntryExpiry_eq hseq (chan := chan) rfl hkey rfl hb
  · intro x y hx hy hdone htimed
    have hdeadline := execDecodeDeadlineExpiry_eq (src := src) (cls := cls) hkey hx hy hdone htimed
    refine ⟨fun hearly => hdeadline.trans (if_pos hearly), fun hdue hgens hsrc => hdeadline.trans ?_⟩
    rw [if_neg (Nat.not_lt.mpr hdue), if_neg hgens, hnearSrc hsrc, hnearDst hsrc]
    rfl
  · intro hpassed
    rw [exec_lossNoticeReceive, execLossNoticeReceive, State.declareLost]
    dsimp only
    rw [if_pos]
    · rfl
    · simpa [r, chan, chanKey] using hpassed
  · intro hbefore hnew hnext hpassed hslot hone hgrids
    subst hone
    exact ⟨_, rfl, State.declareLost_report (chan := chan) rfl rfl hbefore hnew hnext hpassed ((congrArg s.slots.find? hkey).trans hslot) hgrids⟩

end Sys2Proof
end

section
/-!
PROOF. The visit of a node reads its record and range list once and acts as the node's kind says (R394 to R398).
-/
namespace Sys2Proof.Machine

/-! ### Reading a node -/

/-- A walk visits a node of a live context that is not to be killed. -/
def State.Visits (s : State) (ctx slot : Nat) (w : Walk) : Prop :=
  (s.ctx ctx).walks.find? slot = some w ∧ w.state = .visiting ∧ (s.ctx ctx).status = .live ∧ (s.ctx ctx).kills = []

/-- A visit has a well-formed node's record and range list, kept from before or read now, and is then in the second state. -/
def State.VisitReads (s : State) (ctx slot : Nat) (w : Walk) (n : Node) (u : State) : Prop :=
  s.Visits ctx slot w ∧ n.malformed = false ∧
    ((w.record = some n.words ∧ w.listed = true ∧ u = s) ∨
    (w.record = none ∧ ∃ bs v ds x, (s.acquireAll 288 2).walkRead (walkReader ctx slot) ctx w.node 64 = .ok bs v ∧ n.words = wordsOf bs ∧
      (((v.ctx ctx).walks.find? slot).map Walk.listed).getD false = false ∧
      v.walkRead (walkReader ctx slot) ctx n.ranges (16 * n.nranges) = .ok ds x ∧
      u = x.modWalk ctx slot fun y => { y with record := some n.words, listed := true }))

section
variable {s u : State} {ctx slot kind : Nat} {w : Walk} {n : Node} {act : Walk → Node → State → State}

theorem State.visit_of_none (h : (s.ctx ctx).walks.find? slot = none) : s.visit ctx slot kind act = .next s := by
  rw [State.visit, h]

theorem State.visit_of_not_live (hw : (s.ctx ctx).walks.find? slot = some w) (hstate : w.state = .visiting)
    (hdead : (s.ctx ctx).status ≠ .live ∨ (s.ctx ctx).kills ≠ []) : s.visit ctx slot kind act = .next s := by
  rw [State.visit, hw]
  dsimp only
  rw [if_neg (by simp [hstate]), if_pos (by simpa using hdead)]

/-- A visit whose record is not kept reads it. -/
theorem State.visit_of_unread (hv : s.Visits ctx slot w) (hrecord : w.record = none) {bs : List Byte} {v : State}
    (hread : (s.acquireAll 288 2).walkRead (walkReader ctx slot) ctx w.node 64 = .ok bs v) :
    s.visit ctx slot kind act = .next (v.visitRead ctx slot kind { words := wordsOf bs } (act w)) := by
  obtain ⟨hw, hstate, hlive, hkills⟩ := hv
  rw [State.visit, hw]
  dsimp only
  rw [if_neg (by simp [hstate]), if_neg (by simp [hlive, hkills]), hrecord]
  dsimp only
  rw [show walkerCore / 4 = 288 from rfl, hread]

theorem State.visitRead_malformed (h : n.malformed = true) {act : Node → State → State} :
    s.visitRead ctx slot kind n act = s.nodeFails ctx slot FaultCode.engineRecord.num := if_pos h

/-- Once its record and range list are read, a node acts in a visit of its kind, and in another nothing happens. -/
theorem State.visit_of_reads (h : s.VisitReads ctx slot w n u) :
    s.visit ctx slot kind act = .next (if n.kind = kind then act w n u else u) := by
  obtain ⟨hv, hform, hcase⟩ := h
  have hform' : ¬ n.malformed = true := by simp [hform]
  rcases hcase with ⟨hrecord, hlisted, rfl⟩ | ⟨hrecord, bs, v, ds, x, hread, hn, hunlisted, hranges, rfl⟩
  · obtain ⟨hw, hstate, hlive, hkills⟩ := hv
    rw [State.visit, hw]
    dsimp only
    rw [if_neg (by simp [hstate]), if_neg (by simp [hlive, hkills]), hrecord]
    dsimp only
    rw [State.visitRead]
    dsimp only
    rw [if_neg hform', if_pos (by simp [hw, hlisted])]
    simp only [beq_iff_eq]
  · obtain ⟨words⟩ := n
    subst hn
    rw [State.visit_of_unread hv hrecord hread, State.visitRead]
    dsimp only
    rw [if_neg hform', if_neg (by simp [hunlisted]), hranges]
    simp only [beq_iff_eq]

end

/-- A condition word that is read sends the walk to one of two nodes. -/
theorem State.branchNode_read {s : State} {ctx slot : Nat} {n : Node} {holds fails : Nat} {bs : List Byte} {v : State}
    (hread : s.walkRead (walkReader ctx slot) ctx (n.w 3) 8 = .ok bs v) :
    s.branchNode ctx slot n holds fails = ((v.acquireAll 288 3).engDone (walkReader ctx slot)).modWalk ctx slot fun w =>
      { w with node := if nodeTest (n.w 5) (ofBytes bs) (n.w 4) then holds else fails, record := none, listed := false } := by
  rw [State.branchNode, hread]
  rfl

/-! ### What waiting leaves -/

section
variable (s : State) (ctx slot : Nat)

theorem State.engDone_ctx (who k : Nat) : (s.engDone who).ctx k = s.ctx k := by
  rw [State.engDone_eq]
  rfl

theorem State.ctx_modCtx_same (f : Ctx → Ctx) : (s.modCtx ctx f).ctx ctx = f (s.ctx ctx) := SMap.get_insert_same _ _ _ _

/-- A walk as it waits in a node. -/
def Walk.waiting (n : Node) (x : WalkWait) (w : Walk) : Walk :=
  { w with state := .waiting, next := n.next, wait := some x, record := none, listed := false }

theorem State.waitIn_ctx (n : Node) (x : WalkWait) :
    (s.waitIn ctx slot n x).ctx ctx = { s.ctx ctx with walks := (s.ctx ctx).walks.modify slot (Walk.waiting n x) } := by
  rw [State.waitIn, State.modWalk, State.ctx_modCtx_same, State.engDone_ctx]
  rfl

/-- A walk that waits in a node waits for what it was told to, if it is there. -/
theorem Walk.wait_of_waiting {c : Ctx} {n : Node} {x : WalkWait} {ws : SMap Walk} (hc : c.walks = ws.modify slot (Walk.waiting n x))
    (hs : s.ctx ctx = c) : s.walkWait ctx slot = some x ∨ s.walkWait ctx slot = none := by
  rw [State.walkWait, hs, hc, SMap.find?_modify_same]
  cases ws.find? slot with
  | none => exact .inr rfl
  | some w => exact .inl rfl

@[simp] theorem State.waitIn_nextId (n : Node) (x : WalkWait) : (s.waitIn ctx slot n x).nextId = s.nextId := by
  rw [State.waitIn, State.engDone_eq]
  rfl

@[simp] theorem State.waitIn_clock (n : Node) (x : WalkWait) : (s.waitIn ctx slot n x).clock = s.clock := by
  rw [State.waitIn, State.engDone_eq]
  rfl

@[simp] theorem State.waitIn_commands (n : Node) (x : WalkWait) : (s.waitIn ctx slot n x).commands = s.commands := by
  rw [State.waitIn, State.engDone_eq]
  rfl



/-- A walk that waits for the event it has raised waits until the event area has taken it. -/
theorem State.walkSettle_of_event (hwait : s.walkWait ctx slot = some .event ∨ s.walkWait ctx slot = none)
    (hevent : (s.ctx ctx).events.any (fun e => e.kind == 1 && e.slot == slot) = true) : s.walkSettle ctx slot = s := by
  unfold State.walkSettle
  rcases hwait with hwait | hwait
  · rw [hwait]
    exact if_pos hevent
  · rw [hwait]

/-- A HOSTSIG node of a context with an event area raises its event, behind those that wait, and waits for the area to take it. -/
theorem State.signals (n : Node) (harea : (s.ctx ctx).eventArea ≠ 0) :
    let t := (((s.waitIn ctx slot n .event).hostEvent ctx { kind := 1, slot := slot, value := n.w 3, vector := n.w 4 }).walkSettle ctx slot)
    (t.ctx ctx).events = (s.ctx ctx).events ++ [{ kind := 1, slot := slot, value := n.w 3, vector := n.w 4, clock := s.clock }] ∧
      t.mem = s.mem := by
  extract_lets t
  have hc := s.waitIn_ctx ctx slot n .event
  have hevents : ∀ u : State, u = (s.waitIn ctx slot n .event).hostEvent ctx { kind := 1, slot := slot, value := n.w 3, vector := n.w 4 } →
      u.ctx ctx = { (s.waitIn ctx slot n .event).ctx ctx with
        events := (s.ctx ctx).events ++ [{ kind := 1, slot := slot, value := n.w 3, vector := n.w 4, clock := s.clock }] } ∧ u.mem = s.mem := by
    rintro u rfl
    unfold State.hostEvent
    extract_lets c v
    have harea' : c.eventArea = (s.ctx ctx).eventArea := by
      rw [show c = _ from hc]
      rfl
    have hbefore : ((s.waitIn ctx slot n .event).ctx ctx).events = (s.ctx ctx).events := by rw [hc]
    rw [if_neg (by simp [harea', harea]), State.ctx_modCtx_same, State.modCtx_mem, State.waitIn_mem, hbefore, State.waitIn_clock]
    exact ⟨rfl, rfl⟩
  obtain ⟨hctx, hmem⟩ := hevents _ rfl
  have ht : t = (s.waitIn ctx slot n .event).hostEvent ctx { kind := 1, slot := slot, value := n.w 3, vector := n.w 4 } :=
    State.walkSettle_of_event _ _ _ (Walk.wait_of_waiting _ _ _ (by rw [hctx, hc]) rfl) (by rw [hctx]; simp)
  rw [ht, hctx]
  exact ⟨rfl, hmem⟩

end

end Sys2Proof.Machine

namespace Sys2Proof
open Sys2Proof.Machine

/-- Settles O28: a visit has its node's record and range list, and acts by the node's kind. -/
theorem nodeVisitResults : Obligations.NodeVisitResults := by
  unfold Obligations.NodeVisitResults
  intro s ctx slot kinds who visits reads
  have hkinds : ∀ p ∈ kinds, ∃ act, exec p.2 s = s.visit ctx slot p.1 act := by
    intro p hp
    simp only [kinds, List.mem_cons, List.not_mem_nil, or_false] at hp
    rcases hp with rfl | rfl | rfl | rfl | rfl | rfl | rfl | rfl <;> exact ⟨_, rfl⟩
  refine ⟨fun p hp => ?_, fun w n u hreads => ?_⟩
  · obtain ⟨act, hact⟩ := hkinds p hp
    rw [hact]
    refine ⟨State.visit_of_none, fun w => State.visit_of_not_live, ?_, ?_⟩
    · intro w bs v hv hrecord hread hform
      rw [State.visit_of_unread hv hrecord hread, State.visitRead_malformed hform, State.nodeFails]
    · intro w n u hreads hother
      rw [State.visit_of_reads hreads, if_neg hother]
  · replace hreads : s.VisitReads ctx slot w n u := hreads
    refine ⟨fun hkind => ?_, fun hkind => ?_, fun hkind => ?_, fun bs v hkind hread => ?_, fun hkind => ?_, fun hkind harea => ?_,
      fun hkind hgrids => ?_⟩
    · rw [exec_nodeVisitGrid, execNodeVisitGrid, State.visit_of_reads hreads, if_pos hkind]
      refine ⟨fun c v hlaunch => ?_, fun gr v hlaunch => ?_⟩
      · rw [hlaunch]
        rfl
      · rw [hlaunch]
    · rw [Answers, exec_nodeVisitCopy, execNodeVisitCopy, State.visit_of_reads hreads, if_pos hkind]
      refine ⟨fun hbad => ?_, fun hgood hlen hroom => ⟨_, rfl, ?_⟩⟩
      · rw [if_pos (by simpa using hbad)]
        rfl
      · rw [if_neg (by simpa using hgood), if_neg (by simpa using hlen), if_neg (Nat.not_le.mpr hroom)]
        simp only [State.waitIn_nextId, State.waitIn_mem, State.waitIn_commands]
        exact ⟨rfl, rfl, _, SMap.find?_insert_same _ _ _, rfl, rfl, rfl⟩
    · rw [exec_nodeVisitColl, execNodeVisitColl, State.visit_of_reads hreads, if_pos hkind]
      refine ⟨fun hnone => ?_, fun c d v hsome hmember hfree hread => ?_⟩
      · dsimp only
        rw [hnone]
        rfl
      · dsimp only
        rw [hsome]
        dsimp only
        rw [if_neg (Nat.not_le.mpr hmember), if_neg (by simp [hfree]), hread]
    · rcases hkind with hkind | hkind
      · rw [if_pos hkind, exec_nodeVisitCond, execNodeVisitCond, State.visit_of_reads hreads, if_pos hkind, State.branchNode_read hread]
        simp only [hkind, beq_self_eq_true]
        rfl
      · rw [if_neg (by simp [hkind]), exec_nodeVisitWhile, execNodeVisitWhile, State.visit_of_reads hreads, if_pos hkind, State.branchNode_read hread]
        have hwhile : ∀ test : Bool, (if test then n.w 6 else n.next) = if test = (5 == 4) then n.next else n.w 6 := by
          intro test
          cases test <;> rfl
        simp only [hkind, hwhile]
        rfl
    · rw [exec_nodeVisitSnap, execNodeVisitSnap, State.visit_of_reads hreads, if_pos hkind]
      refine ⟨fun c hcheck => ?_, fun hcheck => ?_⟩
      · dsimp only
        rw [hcheck]
        rfl
      · dsimp only
        rw [hcheck]
    · rw [Answers, exec_nodeVisitHostsig, execNodeVisitHostsig, State.visit_of_reads hreads, if_pos hkind]
      exact ⟨_, rfl, State.signals _ _ _ _ harea⟩
    · rw [exec_nodeVisitEnd, execNodeVisitEnd, State.visit_of_reads hreads, if_pos hkind]
      have hended : ∀ g ∈ w.grids.map u.grid, g.state = .complete ∨ g.state = .cancelled := by simpa using hgrids
      have hrunning : (w.grids.map u.grid).any (fun g => g.state == .queued || g.state == .running) = false :=
        List.any_eq_false.mpr fun g hg => by rcases hended g hg with h | h <;> simp [h]
      have hfailed : (w.grids.map u.grid).find? (fun g => g.nowait && g.state == .failed) = none :=
        List.find?_eq_none.mpr fun g hg => by rcases hended g hg with h | h <;> simp [h]
      dsimp only
      rw [if_neg (by simp [hrunning]), hfailed]

end Sys2Proof
end

section
/-!
PROOF. The commands of a control block act where a context's state admits them (R416), and events reach the event area (R420).
-/
namespace Sys2Proof.Machine

/-! ### The windows -/

section
variable {s : State} {ctx : Nat}

theorem State.windowCtx_of_lt (h : ctx < 1024) : s.windowCtx ctx = some ctx := if_pos h

/-- A virtual function has the contexts of its grant in turn. -/
theorem State.windowCtx_of_grant {v i : Nat} (hv : v < 16) (hi : i < 1024) (hgrant : (grantOf (s.grants.get v 0).toNat)[i]? = some ctx)
    (hctx : ctx < 1024) : s.windowCtx (1024 * (v + 1) + i) = some ctx := by
  have hdiv : (1024 * (v + 1) + i) / 1024 - 1 = v := by omega
  have hmod : (1024 * (v + 1) + i) % 1024 = i := by omega
  rw [State.windowCtx, if_neg (by omega), if_pos (by omega), hdiv, hmod, hgrant]
  simp [hctx]

/-- A command in a state that admits it acts on its context. -/
theorem State.ctxCommand_of_admitted {admits : List CtxStatus} {f : Nat → State → State} (hctx : ctx < 1024) (hrec : s.recovery = false)
    (hreset : s.inReset = false) (h : admits.contains (s.ctx ctx).status = true) : s.ctxCommand ctx admits f = .next (f ctx s) := by
  rw [State.ctxCommand, State.windowCtx_of_lt hctx]
  exact if_pos (by simp only [h, hrec, hreset, Bool.not_false, Bool.and_self])

/-- A command of a context in no state that admits it is counted. -/
theorem State.ctxCommand_of_refused {admits : List CtxStatus} {f : Nat → State → State} (hctx : ctx < 1024)
    (h : admits.contains (s.ctx ctx).status = false) : s.ctxCommand ctx admits f = .next s.hostErr := by
  rw [State.ctxCommand, State.windowCtx_of_lt hctx]
  exact if_neg (by simp only [h, Bool.false_and, Bool.false_eq_true, not_false_eq_true])

theorem State.ctxCommand_of_closed {admits : List CtxStatus} {f : Nat → State → State}
    (h : s.recovery = true ∨ s.inReset = true ∨ s.windowCtx ctx = none) : s.ctxCommand ctx admits f = .next s.hostErr := by
  rw [State.ctxCommand]
  cases hw : s.windowCtx ctx with
  | none => rfl
  | some c => exact if_neg (by rcases h with h | h | h <;> simp_all)

theorem State.ctxCommand_congr {n : Nat} (h : s.windowCtx n = s.windowCtx ctx) (admits : List CtxStatus) (f : Nat → State → State) :
    s.ctxCommand n admits f = s.ctxCommand ctx admits f := by
  rw [State.ctxCommand, h, State.ctxCommand]

end

/-! ### Drains, resumptions and ends -/

section
variable {s : State} {ctx : Nat}

/-- A draining context with resident teams goes on draining. -/
theorem State.drainCheck_of_resident (h : s.residentTeams ctx ≠ []) : s.drainCheck ctx = s := if_neg (by simp [h])

theorem State.drainCheck_of_status (h : (s.ctx ctx).status ≠ .draining) : s.drainCheck ctx = s := if_neg (by simp [h])

@[simp] theorem State.saveAll_residentTeams : (s.saveAll ctx).residentTeams ctx = s.residentTeams ctx := by
  simp only [State.residentTeams, State.saveAll, List.filter_map, List.map_map]
  refine congrArg _ (List.filter_congr fun p _ => ?_)
  simp only [Function.comp]
  split <;> rfl

/-- A live context as its drain starts, its walks held. -/
def Ctx.draining (c : Ctx) (now : Nat) : Ctx :=
  { c with status := .draining, drainSince := now, drainRetired := 0, drainSaved := 0
           walks := c.walks.map fun (p : Nat × Walk) => (p.1, p.2.hold) }

theorem State.beginDrain_of_live {now : Bool} (hlive : (s.ctx ctx).status = .live) (hteams : s.residentTeams ctx ≠ []) :
    s.beginDrain ctx now = if now || s.cfgVal 0x20 == 0 then (s.setCtx ctx ((s.ctx ctx).draining s.clock)).saveAll ctx
      else s.setCtx ctx ((s.ctx ctx).draining s.clock) := by
  unfold State.beginDrain
  extract_lets c t u
  have ht : t = s.setCtx ctx ((s.ctx ctx).draining s.clock) := if_pos (by simp [c, hlive])
  have hu : u.residentTeams ctx ≠ [] := by
    have hteams' : t.residentTeams ctx ≠ [] := ht ▸ hteams
    simp only [u]
    split
    · rwa [State.saveAll_residentTeams]
    · exact hteams'
  rw [State.drainCheck_of_resident hu]
  simp only [u, ht]
  rfl

theorem State.foldl_form_gids_reforms (l : List Nat) (s : State) : (l.foldl (fun (s : State) gid => s.form gid) s).Reforms s := by
  induction l generalizing s with
  | nil => exact .refl s
  | cons gid l ih => exact (ih (s.form gid)).trans (s.form_reforms gid)

/-- A context that was live when it halted goes on, with its walks. -/
theorem State.resumed_spec (hfrom : (s.ctx ctx).haltedFrom = .live) :
    let r := s.modCtx ctx fun c => { c with
      status := c.haltedFrom
      walks := if c.haltedFrom == .live then c.walks.map fun (p : Nat × Walk) => (p.1, p.2.unhold) else c.walks }
    let t := ((r.ctxGroups ctx).foldl (fun (s : State) gid => s.form gid) r).drainCheck ctx
    t.ctx ctx = { s.ctx ctx with status := .live, walks := (s.ctx ctx).walks.map fun (p : Nat × Walk) => (p.1, p.2.unhold) } ∧
      t.mem = s.mem ∧ t.teams = s.teams ∧ t.deferred = s.deferred := by
  extract_lets r t
  have hr : r.ctx ctx = { s.ctx ctx with status := .live, walks := (s.ctx ctx).walks.map fun (p : Nat × Walk) => (p.1, p.2.unhold) } := by
    simp only [r, State.ctx_modCtx_same, hfrom]
    rfl
  obtain ⟨f, hf⟩ : ∃ f, (r.ctxGroups ctx).foldl (fun (s : State) gid => s.form gid) r = f := ⟨_, rfl⟩
  have hstate := (hf ▸ State.foldl_form_gids_reforms (r.ctxGroups ctx) r : f.Reforms r).state
  have hctx : f.ctx ctx = r.ctx ctx := by
    rw [hstate]
    rfl
  have ht : t = f := (congrArg (fun f : State => f.drainCheck ctx) hf).trans (State.drainCheck_of_status (by rw [hctx, hr]; simp))
  rw [ht, hctx, hr, hstate]
  exact ⟨rfl, rfl, rfl, rfl⟩

/-- Preserving the marked objects of freed teams changes the snapshots alone. -/
theorem State.foldl_keepMarks_eq (l : List (Nat × Team)) (s : State) :
    ∃ x, l.foldl (fun (s : State) p => s.keepMarks p.1) s = { s with snaps := x } := by
  have hmarks : ∀ (ks : List Nat) (s : State), ∃ x, ks.foldl State.sweepMark s = { s with snaps := x } := by
    intro ks
    induction ks with
    | nil => exact fun s => ⟨_, rfl⟩
    | cons k ks ih =>
      intro s
      obtain ⟨x, hx⟩ := ih (s.sweepMark k)
      exact ⟨x, by rw [List.foldl_cons, hx, State.sweepMark, State.cow_eq]⟩
  induction l generalizing s with
  | nil => exact ⟨_, rfl⟩
  | cons p l ih =>
    obtain ⟨x, hx⟩ := ih (s.keepMarks p.1)
    obtain ⟨y, hy⟩ := hmarks _ s
    exact ⟨x, by rw [List.foldl_cons, hx, State.keepMarks, hy]⟩

/-- A freed context is as it was never used, and its teams and grids are gone. -/
theorem State.freeContext_spec (s : State) (ctx : Nat) : (s.freeContext ctx).ctx ctx = {} ∧ (s.freeContext ctx).mem = s.mem ∧
    (s.freeContext ctx).teams = s.teams.filter (fun p => p.2.ctx != ctx) ∧ (s.freeContext ctx).grids = s.grids.filter (fun p => p.2.ctx != ctx) := by
  unfold State.freeContext
  extract_lets t gone gs
  obtain ⟨x, hx⟩ := State.foldl_keepMarks_eq (s.teams.filter fun p => p.2.ctx == ctx) s
  have ht : t = { s with snaps := x } := hx
  refine ⟨?_, ?_, ?_, ?_⟩
  · simp [State.ctx, SMap.get]
  · rw [ht]
  · rw [ht]
  · rw [ht]

end

/-! ### Walks and events -/

section
variable {s : State} {ctx : Nat}

theorem execWalkStartWrite_congr {n : Nat} (h : s.windowCtx n = s.windowCtx ctx) (slot : Nat) (value : BitVec 64) :
    execWalkStartWrite n slot value s = execWalkStartWrite ctx slot value s := by
  rw [execWalkStartWrite, h, execWalkStartWrite]

theorem execEventAreaWrite_idle (h : (s.ctx ctx).events = [] ∨ (s.ctx ctx).areaFull = true) : execEventAreaWrite ctx s = .next s := by
  unfold execEventAreaWrite
  extract_lets c
  cases hevents : c.events with
  | nil => rfl
  | cons e rest =>
    rcases h with hnone | hfull
    · rw [show c.events = [] from hnone] at hevents
      cases hevents
    · exact if_pos hfull

/-- The state in which an event has been written to its entry and signalled. -/
def State.eventWritten (s : State) (ctx : Nat) (e : HostEvent) (rest : List HostEvent) : State :=
  let c := s.ctx ctx
  let p := (c.producer + 1) % 2 ^ 32
  (((s.hostPut (c.eventArea + 64 + 32 * (c.producer % 2 ^ c.q)) e.bytes false).hostPut c.eventArea (toBytes 4 p) false).send
    (.msix e.vector)).modCtx ctx fun c => { c with events := rest, producer := p }

theorem execEventAreaWrite_writes {e : HostEvent} {rest : List HostEvent} (hevents : (s.ctx ctx).events = e :: rest)
    (hroom : (s.ctx ctx).areaFull = false) : execEventAreaWrite ctx s = .next (match e.receive with
      | some id => (s.eventWritten ctx e rest).loseCommand id (BitVec.ofNat 64 e.aux)
      | none => if e.kind ≤ 4 then (s.eventWritten ctx e rest).walkSettle ctx e.slot else s.eventWritten ctx e rest) := by
  unfold execEventAreaWrite
  dsimp only
  rw [hevents]
  dsimp only
  rw [if_neg (by simp [hroom])]
  rfl

theorem State.hostPut_of_no_lines (h : s.hostLines = []) (pa : Nat) (bs : List Byte) (ro : Bool) :
    s.hostPut pa bs ro = s.send (.hostWrite 0 pa bs ro) := by
  rw [State.hostPut, h]
  rfl

theorem State.eventWritten_eq (h : s.hostLines = []) {e : HostEvent} {rest : List HostEvent} :
    s.eventWritten ctx e rest = { s with
      outbox := s.outbox ++ [.hostWrite 0 ((s.ctx ctx).eventArea + 64 + 32 * ((s.ctx ctx).producer % 2 ^ (s.ctx ctx).q)) e.bytes false,
        .hostWrite 0 (s.ctx ctx).eventArea (toBytes 4 (((s.ctx ctx).producer + 1) % 2 ^ 32)) false, .msix e.vector]
      ctxs := s.ctxs.insert ctx { s.ctx ctx with events := rest, producer := ((s.ctx ctx).producer + 1) % 2 ^ 32 } } := by
  rw [State.eventWritten]
  dsimp only
  rw [State.hostPut_of_no_lines h, State.hostPut_of_no_lines (s := s.send _) h]
  simp only [State.send, State.modCtx, State.setCtx, List.append_assoc, List.cons_append, List.nil_append]
  rfl

end

end Sys2Proof.Machine

namespace Sys2Proof
open Sys2Proof.Machine

/-- Settles O26: a command acts as its equation says in the states that its list admits, and is counted elsewhere. -/
theorem controlBlockCommandResults : Obligations.ControlBlockCommandResults := by
  unfold Obligations.ControlBlockCommandResults
  intro s ctx c open' draining
  refine ⟨?_, ?_, ?_, ?_, ?_, ?_, ?_, ?_, ?_, ?_, ?_, ?_, ?_⟩
  · intro ⟨hctx, hrec, hreset⟩ hlive hteams
    have hadmits : [CtxStatus.live, .draining].contains (s.ctx ctx).status = true := by
      rw [show (s.ctx ctx).status = .live from hlive]
      rfl
    refine ⟨fun hlimit => ?_, ?_⟩
    · rw [exec_ctxCmdDrain, execCtxCmdDrain, State.ctxCommand_of_admitted hctx hrec hreset hadmits, State.beginDrain_of_live hlive hteams,
        if_neg (by simp [hlimit])]
      rfl
    · rw [exec_ctxCmdDrainNow, execCtxCmdDrainNow, State.ctxCommand_of_admitted hctx hrec hreset hadmits,
        State.beginDrain_of_live hlive hteams]
      rfl
  · intro ⟨hctx, hrec, hreset⟩ hstatus
    have hadmits : [CtxStatus.live, .draining, .saved, .halted].contains (s.ctx ctx).status = true := by
      rcases hstatus with h | h | h | h <;> rw [show (s.ctx ctx).status = _ from h] <;> rfl
    rw [exec_ctxCmdKill, execCtxCmdKill, State.ctxCommand_of_admitted hctx hrec hreset hadmits]
    rfl
  · intro ⟨hctx, hrec, hreset⟩ hhalted hfrom
    have hadmits : [CtxStatus.halted].contains (s.ctx ctx).status = true := by
      rw [show (s.ctx ctx).status = .halted from hhalted]
      rfl
    rw [Answers, exec_ctxCmdResume, execCtxCmdResume, State.ctxCommand_of_admitted hctx hrec hreset hadmits]
    refine ⟨_, rfl, ?_⟩
    exact State.resumed_spec hfrom
  · intro ⟨hctx, hrec, hreset⟩ hkilled
    have hadmits : [CtxStatus.killed].contains (s.ctx ctx).status = true := by
      rw [show (s.ctx ctx).status = .killed from hkilled]
      rfl
    rw [Answers, exec_ctxCmdEnd, execCtxCmdEnd, State.ctxCommand_of_admitted hctx hrec hreset hadmits]
    obtain ⟨hc, hmem, hteams, hgrids⟩ := s.freeContext_spec ctx
    refine ⟨_, rfl, hc, hmem, ?_, ?_, ?_⟩
    · rw [hteams]
      exact fun p hp => by simpa using (List.mem_filter.mp hp).2
    · rw [hgrids]
      exact fun p hp => by simpa using (List.mem_filter.mp hp).2
    · rw [hteams]
      exact fun p hp hother => List.mem_filter.mpr ⟨hp, by simpa using hother⟩
  · intro hclosed i hi
    have hrefused : ∀ admits f, admits.contains CtxStatus.free = false → s.ctxCommand ctx admits f = .next s.hostErr := by
      intro admits f hfree
      rcases hclosed with h | h | h | ⟨hctx, hstatus⟩
      · exact State.ctxCommand_of_closed (.inl h)
      · exact State.ctxCommand_of_closed (.inr (.inl h))
      · exact State.ctxCommand_of_closed (.inr (.inr h))
      · exact State.ctxCommand_of_refused hctx ((congrArg admits.contains hstatus).trans hfree)
    rcases hi with rfl | rfl | rfl | rfl | rfl <;> exact hrefused _ _ rfl
  · intro v i hv hi hgrant hctx n
    have hn : s.windowCtx n = s.windowCtx ctx := (State.windowCtx_of_grant hv hi hgrant hctx).trans (State.windowCtx_of_lt hctx).symm
    exact ⟨State.ctxCommand_congr hn _ _, State.ctxCommand_congr hn _ _, State.ctxCommand_congr hn _ _, State.ctxCommand_congr hn _ _,
      State.ctxCommand_congr hn _ _, execWalkStartWrite_congr hn⟩
  · intro hctx hlive
    have hstatus : (s.ctx ctx).status = .live := hlive
    exact ⟨State.ctxCommand_of_refused hctx (by rw [hstatus]; rfl), State.ctxCommand_of_refused hctx (by rw [hstatus]; rfl)⟩
  · intro slot value hctx hslot hfree hlive halign hva
    rw [exec_walkStartWrite, execWalkStartWrite, State.windowCtx_of_lt hctx]
    have hstatus : (s.ctx ctx).status = .live := hlive
    have hnone : (s.ctx ctx).walks.find? slot = none := hfree
    dsimp only
    rw [if_neg (by simpa [hstatus, hnone, halign, Nat.not_le.mpr hslot] using hva), State.modCtx, hstatus]
    rfl
  · intro slot value hbad
    rw [exec_walkStartWrite, execWalkStartWrite]
    cases hw : s.windowCtx ctx with
    | none => rfl
    | some k =>
      refine if_pos ?_
      rcases hbad with h | h | h | h | ⟨hctx, h⟩
      · simp [h] at hw
      · simp [h]
      · simp [h]
      · exact Bool.or_eq_true_iff.mpr (.inr (decide_eq_true h))
      · obtain rfl : ctx = k := by simpa [State.windowCtx_of_lt hctx] using hw
        rcases h with h | h | ⟨w, hfind, hlive⟩
        · simp [show (s.ctx ctx).status = .free from h]
        · simp [show (s.ctx ctx).status = .killed from h]
        · simp [show (s.ctx ctx).walks.find? slot = some w from hfind, hlive]
  · exact execEventAreaWrite_idle
  · intro e rest hevents hroom hlines
    refine ⟨s.eventWritten ctx e rest, execEventAreaWrite_writes hevents hroom, ?_, ?_, ?_⟩
    · rw [State.eventWritten_eq hlines]
      exact SMap.get_insert_same _ _ _ _
    · rw [State.eventWritten_eq hlines]
    · rw [State.eventWritten_eq hlines]
  · intro n hidle
    refine congrArg Host.Outcome.next (if_pos ?_)
    rcases hidle with h | h | h
    · simp [show (s.ctx ctx).events = [] from h]
    · simp [show (s.ctx ctx).areaFull = false from h]
    · simp [show s.clock < (s.ctx ctx).consumerRead + mclkPerUs from h]
  · intro n hevents hfull hdue
    refine congrArg Host.Outcome.next (if_neg ?_)
    simp [show (s.ctx ctx).areaFull = true from hfull, show ¬ s.clock < (s.ctx ctx).consumerRead + mclkPerUs from Nat.not_lt.mpr hdue,
      show (s.ctx ctx).events ≠ [] from hevents]

end Sys2Proof
end

section
/-!
PROOF. What the host writes to the windows and to device memory, and how a link trains (R412 to R415).
-/
namespace Sys2Proof.Machine

/-! ### Erasing from a map -/

theorem SMap.erase_eq_filter {α : Type} (m : SMap α) (k : Nat) : m.erase k = m.filter fun p => p.1 != k := by
  induction m with
  | nil => rfl
  | cons p m ih =>
    unfold SMap.erase
    split
    · next h => simp [h, ih]
    · next h => simp [h, ih]

theorem SMap.erase_of_find?_none {α : Type} {m : SMap α} {k : Nat} (h : m.find? k = none) : m.erase k = m := by
  induction m with
  | nil => rfl
  | cons p m ih =>
    unfold SMap.find? at h
    unfold SMap.erase
    split at h
    · cases h
    · next hne => rw [if_neg hne, ih h]

/-! ### Link training -/

/-- The fields of a link word: rate, width, what CXL carries, and Flit mode. -/
theorem linkWord_fields {rate width k : Nat} (hrate : rate < 16) (hwidth : width < 32) (hk : k < 8) (flit : Bool) {r : Nat}
    (hr : r = rate + width * 2 ^ 4 + 512 * k + if flit then 2 ^ 12 else 0) :
    bits r 3 0 = rate ∧ bits r 8 4 = width ∧ bitAt r 12 = flit ∧ bitAt r 9 = bitAt k 0 ∧ bitAt r 11 = bitAt k 2 ∧ r < 2 ^ 13 := by
  simp only [bits, bitAt, Nat.testBit_eq_decide_div_mod_eq]
  cases flit <;> simp at hr ⊢ <;> omega

theorem linkWord_carried (cxl cache mem : Bool) : ∃ k, k < 8 ∧
    (if cxl then 2 ^ 9 + (if cache then 2 ^ 10 else 0) + (if mem then 2 ^ 11 else 0) else 0) = 512 * k := by
  cases cxl
  · exact ⟨0, by decide, rfl⟩
  · refine ⟨1 + (if cache then 2 else 0) + (if mem then 4 else 0), ?_, ?_⟩ <;> cases cache <;> cases mem <;> decide

/-- What a trained link word says of the two ends. -/
def LinkFits (tier : Bool) (w r : Nat) : Prop :=
  1 ≤ bits r 3 0 ∧ bits r 3 0 ≤ 6 ∧ bits r 3 0 ≤ bits w 3 0 ∧ bits r 8 4 ≤ bits w 8 4 ∧
    (bits r 8 4 = 1 ∨ bits r 8 4 = 4 ∨ bits r 8 4 = 8 ∨ bits r 8 4 = 16) ∧ (bits r 3 0 = 6 → tier = false → bitAt r 12 = true) ∧
    (tier = true → 5 ≤ bits r 3 0 ∧ bitAt r 9 = true ∧ bitAt r 11 = true)

theorem linkTrained_fits {tier : Bool} {w r : Nat} (h : linkTrained tier w = some r) : LinkFits tier w r ∧ r < 2 ^ 13 := by
  unfold linkTrained at h
  extract_lets rate cxl widths flit gen at h
  have hwidths : ∀ x ∈ widths, (x = 1 ∨ x = 4 ∨ x = 8 ∨ x = 16) ∧ x ≤ bits w 8 4 := by
    intro x hx
    obtain ⟨hx, hle⟩ := List.mem_filter.mp hx
    refine ⟨?_, of_decide_eq_true hle⟩
    cases tier <;> simp at hx <;> omega
  have hrate : rate ≤ 6 ∧ rate ≤ bits w 3 0 := ⟨Nat.min_le_left _ _, Nat.min_le_right _ _⟩
  cases hw : widths with
  | nil => simp [hw] at h
  | cons width rest =>
    obtain ⟨hwidth, hfits⟩ := hwidths width (hw ▸ .head _)
    rw [hw] at h
    dsimp only at h
    cases tier with
    | true =>
      rw [if_pos rfl] at h
      split at h
      · cases h
      · next hgood =>
        simp only [Bool.or_eq_true, decide_eq_true_eq, not_or] at hgood
        obtain ⟨hrate', hwidth', hflit, hcxl, hmem, hlt⟩ := linkWord_fields (rate := rate) (width := width) (k := 5) (by omega) (by omega)
          (by decide) false (r := r) (by have := Option.some.inj h; simp; omega)
        refine ⟨⟨by omega, by omega, by omega, by omega, by omega, by simp, fun _ => ⟨by omega, hcxl, hmem⟩⟩, hlt⟩
    | false =>
      rw [if_neg (by simp)] at h
      split at h
      · cases h
      · next hzero =>
        have hzero' : rate ≠ 0 := by simpa using hzero
        have hgen : 1 ≤ gen ∧ gen ≤ rate ∧ (gen = 6 → flit = true) := by
          by_cases h6 : rate = 6 <;> cases hf : flit <;> simp [gen, h6, hf] <;> omega
        obtain ⟨k, hk, hcarried⟩ := linkWord_carried cxl (bitAt w 10) (bitAt w 11)
        obtain ⟨hrate', hwidth', hflit, -, -, hlt⟩ := linkWord_fields (rate := gen) (width := width) (by omega) (by omega) hk flit (r := r)
          (by rw [← hcarried]; exact (Option.some.inj h).symm)
        refine ⟨⟨by omega, by omega, by omega, by omega, by omega, fun h6 _ => ?_, by simp⟩, hlt⟩
        rw [hflit]
        exact hgen.2.2 (hrate'.symm.trans h6)

/-- A line that goes home leaves memory and the registers, and is written to the host. -/
theorem State.hostDrop_frame (s : State) (k : Nat) : (s.hostDrop k).mem = s.mem ∧ (s.hostDrop k).cfg = s.cfg ∧
    (s.hostDrop k).hostLines = s.hostLines.erase k ∧ (∀ o ∈ s.outbox, o ∈ (s.hostDrop k).outbox) ∧
    ∀ l, s.hostLines.find? k = some l → .hostWrite 0 (k * 64) l false ∈ (s.hostDrop k).outbox := by
  unfold State.hostDrop
  cases hfind : s.hostLines.find? k with
  | none =>
    refine ⟨rfl, rfl, ?_, fun _ ho => ho, by simp⟩
    exact (SMap.erase_of_find?_none hfind).symm
  | some l =>
    refine ⟨rfl, rfl, rfl, fun o ho => List.mem_append_left _ ho, fun l' hl => ?_⟩
    obtain rfl := Option.some.inj hl
    exact List.mem_append_right _ (.head _)

/-- The lines that all go home are written, each as it was held. -/
theorem State.foldl_hostDrop_frame (ls : List (Nat × List Byte)) (s : State) :
    let t := ls.foldl (fun (s : State) l => s.hostDrop l.1) s
    t.mem = s.mem ∧ t.cfg = s.cfg ∧ t.hostLines = s.hostLines.filter (fun p => !(ls.map (·.1)).contains p.1) ∧ (∀ o ∈ s.outbox, o ∈ t.outbox) ∧
      ∀ k ∈ ls.map (·.1), ∀ l, s.hostLines.find? k = some l → .hostWrite 0 (k * 64) l false ∈ t.outbox := by
  induction ls generalizing s with
  | nil => exact ⟨rfl, rfl, by simp, fun _ ho => ho, by simp⟩
  | cons p ls ih =>
    obtain ⟨hmem, hcfg, hlines, hout, hwrites⟩ := s.hostDrop_frame p.1
    obtain ⟨hmem', hcfg', hlines', hout', hwrites'⟩ := ih (s.hostDrop p.1)
    refine ⟨hmem'.trans hmem, hcfg'.trans hcfg, ?_, fun o ho => hout' o (hout o ho), fun k hk l hl => ?_⟩
    · rw [List.foldl_cons, hlines', hlines, SMap.erase_eq_filter, List.filter_filter]
      refine List.filter_congr fun q _ => ?_
      simp [Bool.and_comm, bne]
    · by_cases hkp : k = p.1
      · subst hkp
        exact hout' _ (hwrites l hl)
      · refine hwrites' k (by simpa [hkp] using hk) l ?_
        rw [hlines, SMap.find?_erase_other _ hkp]
        exact hl

/-! ### Writes to device memory -/

/-- Of the state, stamping moves stamps and lines. -/
def State.StampsTo (s t : State) : Prop :=
  ∃ sectors floor lts lines, t = { s with sectors := sectors, floor := floor, lts := lts, lines := lines }

theorem State.StampsTo.trans {s t u : State} (h : s.StampsTo t) (h' : t.StampsTo u) : s.StampsTo u := by
  obtain ⟨_, _, _, _, rfl⟩ := h
  obtain ⟨_, _, _, _, rfl⟩ := h'
  exact ⟨_, _, _, _, rfl⟩

theorem State.stampWrite_stamps (s : State) (q pa : Nat) : s.StampsTo (s.stampWrite q pa).2 := by
  have hraise : ∀ x w, s.StampsTo ((s.setSector pa x).raiseLts q w) := by
    intro x w
    obtain ⟨_, e⟩ := (s.setSector pa x).raiseLts_frame q w
    rw [e]
    exact ⟨_, _, _, _, rfl⟩
  exact hraise _ _

/-- A host write to a grain of a page without replicas. -/
theorem State.hostPutGrain_writes (s : State) {pa : Nat} (bs : List Byte) (hrep : s.replicaList pa = []) :
    let t := s.hostPutGrain pa bs
    t.mem = Memory.writeAll s.mem pa bs ∧ t.groups = s.groups ∧ t.accesses = s.accesses ∧ ∀ a, t.replicaList a = s.replicaList a := by
  have hstamp : ∀ (u : State) (l : List (Nat × Nat)), u.StampsTo (l.foldl (fun (s : State) p =>
      let (w, s) := s.stampWrite (walkerCore / 4) p.1
      { s with floor := max s.floor w }) u) := by
    intro u l
    induction l generalizing u with
    | nil => exact ⟨_, _, _, _, rfl⟩
    | cons p l ih =>
      refine State.StampsTo.trans ?_ (ih _)
      exact State.StampsTo.trans (u.stampWrite_stamps (walkerCore / 4) p.1) ⟨_, _, _, _, rfl⟩
  unfold State.hostPutGrain
  extract_lets g t u final
  have hfinal : final = u.writeMem pa bs := if_neg (by simp [hrep])
  obtain ⟨⟨_, _, ht⟩, -⟩ := s.markWritten_frame g
  have hu : t.StampsTo u := by
    simp only [u]
    split
    · exact ⟨_, _, _, _, rfl⟩
    · exact State.StampsTo.trans ⟨_, _, _, _, rfl⟩ (hstamp _ _)
  obtain ⟨_, _, _, _, hu⟩ := hu
  obtain ⟨⟨_, _, e⟩, -⟩ := u.writeMem_frame pa bs
  rw [hfinal, e, hu, show t = _ from ht]
  exact ⟨rfl, rfl, rfl, fun _ => rfl⟩

/-- The bytes of some pieces of a range, written to each. -/
theorem State.foldl_hostPutGrain_bytes {pa : Nat} {data : List Byte} (ps : List (Nat × Nat))
    (hin : ∀ p ∈ ps, pa ≤ p.1 ∧ p.1 + p.2 ≤ pa + data.length) {s : State} (hrep : ∀ p ∈ ps, s.replicaList p.1 = [])
    (hcan : s.MemoryCanonical) :
    let t := ps.foldl (fun (s : State) p => s.hostPutGrain p.1 ((data.drop (p.1 - pa)).take p.2)) s
    t.groups = s.groups ∧ t.accesses = s.accesses ∧ t.MemoryCanonical ∧
      ∀ a, t.byteAt a = if ∃ p ∈ ps, p.1 ≤ a ∧ a < p.1 + p.2 then data.getD (a - pa) 0 else s.byteAt a := by
  induction ps generalizing s with
  | nil => exact ⟨rfl, rfl, hcan, fun a => by simp⟩
  | cons p ps ih =>
    obtain ⟨hlo, hhi⟩ := hin p (.head _)
    obtain ⟨hmem, hgroups, haccesses, hreplicas⟩ := s.hostPutGrain_writes ((data.drop (p.1 - pa)).take p.2) (hrep p (.head _))
    have hcan' : (s.hostPutGrain p.1 ((data.drop (p.1 - pa)).take p.2)).MemoryCanonical := State.hostPutGrain_canonical hcan
    obtain ⟨hgroups', haccesses', hcan'', hbytes⟩ := ih (fun q hq => hin q (.tail _ hq))
      (fun q hq => (hreplicas q.1).trans (hrep q (.tail _ hq))) hcan'
    refine ⟨hgroups'.trans hgroups, haccesses'.trans haccesses, hcan'', fun a => (hbytes a).trans ?_⟩
    have hlen : ((data.drop (p.1 - pa)).take p.2).length = p.2 := by
      rw [List.length_take, List.length_drop]
      omega
    by_cases hlater : ∃ q ∈ ps, q.1 ≤ a ∧ a < q.1 + q.2
    · have hsome : ∃ q ∈ p :: ps, q.1 ≤ a ∧ a < q.1 + q.2 := hlater.imp fun q hq => ⟨.tail _ hq.1, hq.2⟩
      rw [if_pos hlater, if_pos hsome]
    · rw [if_neg hlater, State.byteAt, hmem]
      by_cases hmine : p.1 ≤ a ∧ a < p.1 + p.2
      · rw [if_pos ⟨p, .head _, hmine⟩]
        obtain ⟨i, rfl⟩ := Nat.exists_eq_add_of_le hmine.1
        have hi : i < p.2 := by omega
        rw [Memory.read_writeAll_same _ _ hcan (by rw [hlen]; exact hi), List.getD_eq_getElem?_getD, List.getElem?_take_of_lt hi,
          List.getElem?_drop, List.getD_eq_getElem?_getD, show p.1 - pa + i = p.1 + i - pa by omega]
      · rw [if_neg]
        · exact Memory.read_writeAll_other _ _ hcan (by rw [hlen]; omega)
        · rintro ⟨q, hq, ha⟩
          rcases List.mem_cons.mp hq with rfl | hq
          · exact hmine ha
          · exact hlater ⟨q, hq, ha⟩

/-- The pieces of a range lie in it and cover it. -/
theorem grainPieces_within {pa n : Nat} {p : Nat × Nat} (hp : p ∈ grainPieces pa n) : pa ≤ p.1 ∧ p.1 + p.2 ≤ pa + n := by
  obtain ⟨hp, hne⟩ := List.mem_filter.mp hp
  obtain ⟨i, hi, rfl⟩ := List.mem_map.mp hp
  have hpos : 0 < min (pa + n) ((pa / 512 + i + 1) * 512) - max pa ((pa / 512 + i) * 512) := by
    have := bne_iff_ne.mp hne
    dsimp only at this
    omega
  dsimp only
  omega

theorem grainPieces_cover {pa n a : Nat} : (∃ p ∈ grainPieces pa n, p.1 ≤ a ∧ a < p.1 + p.2) ↔ pa ≤ a ∧ a < pa + n := by
  constructor
  · rintro ⟨p, hp, ha⟩
    have := grainPieces_within hp
    omega
  · intro ha
    refine ⟨_, List.mem_filter.mpr ⟨List.mem_map.mpr ⟨a / 512 - pa / 512, List.mem_range.mpr ?_, rfl⟩, ?_⟩, ?_⟩
    · omega
    · simp only [bne_iff_ne, ne_eq]
      omega
    · dsimp only
      omega

theorem State.takeAllBack_nil (s : State) (write : Bool) : s.takeAllBack [] write = (true, s) := rfl

/-- A host write of grains that nothing else holds or copies changes its bytes and no other. -/
theorem execHostW2Write_writes {s : State} {n : Nat} {data : List Byte} (hrec : s.recovery = false) (hreset : s.inReset = false)
    (hn : n < 2 ^ 40) (hlen : n + data.length ≤ 2 ^ 40) {pa : Nat} (hpa : s.chip * 2 ^ 40 + n = pa) (hsystem : s.systemGrains pa data.length = [])
    (haccesses : s.accesses = []) (hcan : s.MemoryCanonical) (hbusy : ∀ g ∈ grainsOf [(pa, data.length)], s.grainBusy g = false)
    (hrep : ∀ p ∈ grainPieces pa data.length, s.replicaList p.1 = []) :
    ∃ t, execHostW2Write n data s = .next t ∧ t.groups = s.groups ∧ t.MemoryCanonical ∧
      ∀ a, t.byteAt a = if pa ≤ a ∧ a < pa + data.length then data.getD (a - pa) 0 else s.byteAt a := by
  have hpa' : s.chip * 2 ^ 40 + n % 2 ^ 40 = pa := by rw [Nat.mod_eq_of_lt hn, hpa]
  have hidle : ¬ (grainsOf [(pa, data.length)]).any s.grainBusy = true := by
    simpa using hbusy
  have hnone : s.tookBack [] = s := by simp [State.tookBack]
  obtain ⟨hgroups, hacc, hcan', hbytes⟩ := State.foldl_hostPutGrain_bytes (pa := pa) (data := data) (grainPieces pa data.length)
    (fun p hp => grainPieces_within hp) hrep hcan
  refine ⟨_, ?_, hgroups, hcan', fun a => (hbytes a).trans (by rw [if_congr grainPieces_cover rfl rfl])⟩
  unfold execHostW2Write
  extract_lets pa'
  rw [show pa' = pa from hpa', State.windowWrite, if_pos (by simpa [hrec, hreset] using hlen), if_neg hidle, hsystem, State.takeAllBack_nil]
  simp only [Bool.not_true, Bool.false_eq_true, if_false, hnone]
  rw [State.settle_of_no_accesses (hacc.trans haccesses)]

/-! ### Configuration registers -/

/-- A register that has no rule of its own takes the value cut to its width. -/
theorem State.cfgWrite_plain {s : State} {reg : Nat} {value : Word} {i : CfgInfo} (hinfo : cfgInfo reg = some i) (hrw : i.ro = false)
    (hreg : reg = 0x20 ∨ reg = 0x30 ∨ reg = 0x31 ∨ (0x40 ≤ reg ∧ reg ≤ 0x43) ∨ reg = 0x53 ∨ reg = 0x54) :
    s.cfgWrite reg value = { s with cfg := s.cfg.insert reg (BitVec.ofNat 64 (value.toNat % 2 ^ i.width)) } := by
  rw [State.cfgWrite, hinfo]
  dsimp only
  rw [if_neg (by simp [hrw]), if_neg (by simp; omega), if_neg (by simp; omega), if_neg (by simp; omega), if_neg (by simp; omega),
    if_neg (by simp; omega)]

/-- A placement entry that leaves the module's logical chip where it is changes itself alone. -/
theorem execPlacementTableWrite_kept {s u : State} {n : Nat} {v : BitVec 32} (hrec : s.recovery = false) (hreset : s.inReset = false)
    (hn : n < 4096) (hu : { s with place := s.place.insert n (v &&& 0x1FFFF) } = u)
    (hself : (List.range 4096).find? u.isSelf = none ∨ (List.range 4096).find? u.isSelf = some s.chip) :
    execPlacementTableWrite n v s = .next u := by
  subst hu
  rw [execPlacementTableWrite, State.windowWrite, if_pos (by simp [hrec, hreset, hn])]
  dsimp only
  rcases hself with hself | hself <;> rw [hself]
  exact congrArg Host.Outcome.next (if_pos (by simp))

/-! ### The registers of the links -/

section
variable {s : State} {link : BitVec 13} {gib : Nat}

theorem State.cfgVal_insert_same (m : SMap Word) {k : Nat} (x : Word) (hk : (cfgInfo k).isSome = true) :
    ({ s with cfg := m.insert k x } : State).cfgVal k = x.toNat := by
  obtain ⟨i, hi⟩ := Option.isSome_iff_exists.mp hk
  rw [State.cfgVal, hi]
  exact congrArg BitVec.toNat (SMap.get_insert_same m k x _)

theorem State.cfgVal_congr {t : State} {k : Nat} (h : t.cfg.find? k = s.cfg.find? k) : t.cfgVal k = s.cfgVal k := by
  simp only [State.cfgVal, State.cfgAt, SMap.get, h]

theorem linkTrained_toNat (tier : Bool) (w : Nat) : (BitVec.ofNat 64 ((linkTrained tier w).getD 0)).toNat = (linkTrained tier w).getD 0 := by
  rw [BitVec.toNat_ofNat]
  refine Nat.mod_eq_of_lt ?_
  cases h : linkTrained tier w with
  | none => decide
  | some r =>
    have := (linkTrained_fits h).2
    rw [Option.getD_some]
    omega

/-- The port of the tier takes what it trained to and the capacity behind it. -/
theorem execLinkTraining_tier : ∃ t, execLinkTraining true link gib s = .next t ∧
    t.cfgVal 0x51 = (linkTrained true link.toNat).getD 0 ∧ t.mem = s.mem ∧ t.hostLines = s.hostLines ∧ t.outbox = s.outbox ∧
    t.cfgVal 0x56 = (if (linkTrained true link.toNat).isSome then expanderGib gib % 2 ^ 16 else 0) ∧
    t.cfgVal 0x57 = if linkTrained true link.toNat = none ∧ link ≠ 0 then s.hostErr.cfgVal 0x57 else s.cfgVal 0x57 := by
  unfold execLinkTraining
  extract_lets x u size
  rw [if_pos rfl]
  have hu : u = if linkTrained true link.toNat = none ∧ link ≠ 0 then s.hostErr else s := by
    simp only [u, x]
    congr 1
    simp
  have hframe : u.mem = s.mem ∧ u.hostLines = s.hostLines ∧ u.outbox = s.outbox := by
    rw [hu]
    split <;> exact ⟨rfl, rfl, rfl⟩
  obtain ⟨hmem, hlines, hout⟩ := hframe
  refine ⟨_, rfl, ?_, hmem, hlines, hout, ?_, ?_⟩
  · refine (State.cfgVal_congr (s := { u with cfg := u.cfg.insert 0x51 (BitVec.ofNat 64 (x.getD 0)) })
      (SMap.find?_insert_other _ _ (by decide))).trans ?_
    rw [State.cfgVal_insert_same _ _ rfl, linkTrained_toNat]
  · rw [State.cfgVal_insert_same _ _ rfl, BitVec.toNat_ofNat, Nat.mod_eq_of_lt (Nat.lt_trans (Nat.mod_lt _ (by decide)) (by decide))]
    by_cases hx : (linkTrained true link.toNat).isSome = true
    · have hsize : size = expanderGib gib := if_neg (by simpa [x, Option.isSome_iff_ne_none] using hx)
      rw [hsize, if_pos hx]
    · have hsize : size = 0 := if_pos (by simpa [x] using hx)
      rw [hsize, if_neg hx, Nat.zero_mod]
  · rw [← apply_ite (fun t : State => t.cfgVal 0x57), ← hu]
    exact State.cfgVal_congr ((SMap.find?_insert_other _ _ (by decide)).trans (SMap.find?_insert_other _ _ (by decide)))

/-- The host port takes what it trained to; lines held through CXL.cache go home when the link loses it. -/
theorem execLinkTraining_host (hrec : s.recovery = false) : ∃ t, execLinkTraining false link gib s = .next t ∧
    let w := (linkTrained false link.toNat).getD 0
    t.cfgVal 0x50 = w ∧ t.mem = s.mem ∧ (linkTrained false link.toNat = none → t.cfgVal 0x57 = s.hostErr.cfgVal 0x57) ∧
    (bitAt w 10 = true → t.hostLines = s.hostLines) ∧
    (bitAt w 10 = false → t.hostLines = [] ∧ ∀ k l, s.hostLines.find? k = some l → .hostWrite 0 (k * 64) l false ∈ t.outbox) := by
  unfold execLinkTraining
  extract_lets x u size w t
  rw [if_neg Bool.false_ne_true]
  have hu : u = if linkTrained false link.toNat = none then s.hostErr else s := by
    simp only [u, x]
    congr 1
    simp
  have hframe : u.mem = s.mem ∧ u.hostLines = s.hostLines ∧ u.recovery = s.recovery := by
    rw [hu]
    split <;> exact ⟨rfl, rfl, rfl⟩
  obtain ⟨hmem, hlines, hrec'⟩ := hframe
  have hw : w = (linkTrained false link.toNat).getD 0 := if_neg (by rw [hrec', hrec]; decide)
  obtain ⟨hmem', hcfg', hlines', -, hwrites⟩ := u.foldl_hostDrop_frame u.hostLines
  have hkeep : t.mem = u.mem ∧ t.cfg = u.cfg := by
    simp only [t]
    split
    · exact ⟨rfl, rfl⟩
    · exact ⟨hmem', hcfg'⟩
  refine ⟨_, rfl, ?_, hkeep.1.trans hmem, fun hnone => ?_, fun hcache => ?_, fun (hcache : bitAt ((linkTrained false link.toNat).getD 0) 10 = false) => ⟨?_, fun k l hl => ?_⟩⟩
  · rw [State.cfgVal_insert_same _ _ rfl, hw, linkTrained_toNat]
  · have hu' : u = s.hostErr := hu.trans (if_pos hnone)
    rw [← hu']
    refine State.cfgVal_congr ((SMap.find?_insert_other _ _ (by decide)).trans ?_)
    rw [hkeep.2]
  · have ht : t = u := if_pos (hw ▸ hcache)
    exact (congrArg State.hostLines ht).trans hlines
  · have ht : t = u.hostLines.foldl (fun (s : State) l => s.hostDrop l.1) u := if_neg (by rw [hw, hcache]; decide)
    refine (congrArg State.hostLines ht).trans (hlines'.trans ?_)
    refine List.filter_eq_nil_iff.mpr fun p hp => ?_
    simpa using ⟨p.2, hp⟩
  · have ht : t = u.hostLines.foldl (fun (s : State) l => s.hostDrop l.1) u := if_neg (by rw [hw, hcache]; decide)
    have hl' : u.hostLines.find? k = some l := by rw [hlines, hl]
    rw [show State.outbox _ = t.outbox from rfl, ht]
    exact hwrites k (List.mem_map.mpr ⟨_, SMap.mem_of_find? hl', rfl⟩) l hl'

end

/-! ### Reads of device memory -/

/-- A grain that this chip may read, and that no other chip holds back, needs no recall for a read. -/
theorem State.takeBack_readable {s : State} {g : Nat} (hbusy : s.grainBusy g = false) (hengine : s.engineOf g = none) (hlines : s.lines = [])
    (hread : s.mayRead g = true) (hheld : tagFree (s.tag g) = true ∨ heldElsewhere s.chip (s.tag g) = false) :
    s.takeBack g false = (true, s) := by
  have hclean : (s.recall g).clean g = s := by
    simp [State.recall, hengine, State.clean, State.writeBackAll, hlines]
  unfold State.takeBack
  rw [hclean]
  simp only [hbusy, hread]
  rcases hheld with hfree | hfree <;> simp [hfree]

theorem State.takeAllBack_readable {s : State} {gs : List Nat} (h : ∀ g ∈ gs, s.takeBack g false = (true, s)) :
    s.takeAllBack gs false = (true, s) := by
  unfold State.takeAllBack
  induction gs with
  | nil => rfl
  | cons g gs ih =>
    rw [List.foldl_cons, h g (.head _)]
    exact ih fun k hk => h k (.tail _ hk)

section
variable {s : State} {n len pa : Nat} {gs : List Nat}

theorem execHostW2Read_outside (h : s.recovery = true ∨ s.inReset = true ∨ 2 ^ 40 < n + len) :
    execHostW2Read n len s = .next (s.send (.w2Data n (List.replicate len 0))) := by
  have hzeros : ((List.range len).map fun _ => (0 : Byte)) = List.replicate len 0 := by simp
  rw [execHostW2Read, ← hzeros]
  exact if_pos (by simpa [or_assoc] using h)

theorem execHostW2Read_waits (hrec : s.recovery = false) (hreset : s.inReset = false) (hlen : n + len ≤ 2 ^ 40)
    (hpa : s.chip * 2 ^ 40 + n % 2 ^ 40 = pa) (hgs : s.systemGrains pa len = gs) (hsnoop : ∃ g ∈ gs, s.hostClean.find? g = some false) :
    execHostW2Read n len s = .next s := by
  unfold execHostW2Read
  extract_lets pa' gs'
  rw [if_neg (by simpa [hrec, hreset] using hlen), if_pos]
  rw [show gs' = gs by rw [← hgs, ← hpa]]
  simpa using hsnoop

theorem execHostW2Read_reads (hrec : s.recovery = false) (hreset : s.inReset = false) (hlen : n + len ≤ 2 ^ 40)
    (hpa : s.chip * 2 ^ 40 + n % 2 ^ 40 = pa) (hgs : s.systemGrains pa len = gs) (hsnoop : ∀ g ∈ gs, s.hostClean.find? g ≠ some false)
    (htake : s.takeAllBack gs false = (true, s)) :
    execHostW2Read n len s = .next
      (State.send { s.tookBack gs with hostClean := s.hostClean.filter fun p => !gs.contains p.1 } (.w2Data n (s.readMem pa len))) := by
  unfold execHostW2Read
  extract_lets pa' gs'
  have hgs' : gs' = gs := by rw [← hgs, ← hpa]
  rw [if_neg (by simpa [hrec, hreset] using hlen), if_neg (by simpa [hgs'] using hsnoop), hgs', htake, show pa' = pa from hpa]
  simp only [Bool.not_true, Bool.false_eq_true, if_false]
  rfl

end

end Sys2Proof.Machine

namespace Sys2Proof
open Sys2Proof.Machine

/-- Settles O30: a window takes what lies in it and is open, a write to memory covers its pieces, and a link word packs what both ends support. -/
theorem hostWindowEventResults : Obligations.HostWindowEventResults := by
  unfold Obligations.HostWindowEventResults
  intro s reg n word value data open'
  have hrefused : ∀ ok f, ok = false → s.windowWrite ok f = .next s.hostErr := fun ok f h => if_neg (by simp [h])
  have hopen : open' → ∀ ok f, ok = true → s.windowWrite ok f = .next (f s) := fun ⟨hrec, hreset⟩ ok f h => if_pos (by simp [h, hrec, hreset])
  refine ⟨?_, ?_, ?_, ?_, ?_, ?_, ?_, ?_, ?_, ?_, ?_, ?_, ?_, ?_, ?_⟩
  · intro hclosed i hi
    have hshut : ∀ ok f, s.windowWrite ok f = .next s.hostErr := fun ok f => if_neg (by rcases hclosed with h | h <;> simp [h])
    rcases hi with rfl | rfl | rfl | rfl | rfl
    · exact (exec_hostConfigWrite _ _ _).trans (by rw [execHostConfigWrite, hshut])
    · exact (exec_pathTableWrite _ _ _ _).trans (by rw [execPathTableWrite, hshut])
    · exact (exec_placementTableWrite _ _ _).trans (by rw [execPlacementTableWrite, hshut])
    · exact (exec_vfGrantWrite _ _ _).trans (by rw [execVfGrantWrite, hshut])
    · exact (exec_hostW2Write _ _ _).trans (by rw [execHostW2Write, hshut])
  · intro hro
    rw [exec_hostConfigWrite, execHostConfigWrite, hrefused]
    cases hinfo : cfgInfo reg with
    | none => rfl
    | some i => simp [hro i hinfo]
  · intro i hopen' hinfo hrw hreg
    have hmodule : cfgNotModule reg = false := by
      simp [cfgNotModule]
      omega
    rw [exec_hostConfigWrite, execHostConfigWrite, hopen hopen' _ _ (by simp [hinfo, hrw, hmodule]), State.cfgWrite_plain hinfo hrw hreg]
  · intro hout
    rw [exec_pathTableWrite, execPathTableWrite, hrefused _ _ (by rcases hout with h | h <;> simp [Nat.not_lt.mpr h])]
  · intro hopen' hn hword
    rw [Answers, exec_pathTableWrite, execPathTableWrite, hopen hopen' _ _ (by simp [hn, hword])]
    refine ⟨_, rfl, ?_⟩
    dsimp only
    split
    · obtain ⟨_, _, _, e⟩ := State.logError_frame { s with path := s.path.put (n * 8 + word) value 0 } 7 0 n
      rw [e]
      exact ⟨rfl, rfl, rfl, rfl⟩
    · exact ⟨rfl, rfl, rfl, rfl⟩
  · intro v hn
    rw [exec_placementTableWrite, execPlacementTableWrite, hrefused _ _ (decide_eq_false (Nat.not_lt.mpr hn))]
  · intro v hopen' hn u hself
    exact (exec_placementTableWrite n v s).trans (execPlacementTableWrite_kept (u := u) hopen'.1 hopen'.2 hn rfl hself)
  · intro hn
    rw [exec_vfGrantWrite, execVfGrantWrite, hrefused _ _ (decide_eq_false (Nat.not_lt.mpr hn))]
  · intro hopen' hn cs
    rw [exec_vfGrantWrite, execVfGrantWrite, hopen hopen' _ _ (decide_eq_true hn)]
    dsimp only
    refine ⟨fun ⟨c, hc, hlive⟩ => ?_, fun hnone => ?_⟩
    · exact congrArg Host.Outcome.next (if_pos (List.any_eq_true.mpr ⟨c, hc, by simp [hlive]⟩))
    · refine congrArg Host.Outcome.next (if_neg ?_)
      rw [List.any_eq_true]
      exact fun ⟨c, hc, hlive⟩ => hnone c hc (beq_iff_eq.mp hlive)
  · intro len hzero
    rw [exec_hostW2Read, execHostW2Read_outside hzero]
  · intro len ⟨hrec, hreset⟩ hlen pa gs
    refine ⟨execHostW2Read_waits hrec hreset hlen rfl rfl, fun hlines hgrains => ?_⟩
    refine execHostW2Read_reads hrec hreset hlen rfl rfl (fun g hg => (hgrains g hg).1) (State.takeAllBack_readable fun g hg => ?_)
    obtain ⟨-, hbusy, hengine, hread, hheld⟩ := hgrains g hg
    exact State.takeBack_readable hbusy hengine hlines hread hheld
  · intro hlen
    rw [exec_hostW2Write, execHostW2Write, hrefused _ _ (decide_eq_false (Nat.not_le.mpr hlen))]
  · intro hopen' hn hlen hbusy
    rw [exec_hostW2Write, execHostW2Write, hopen hopen' _ _ (decide_eq_true hlen), Nat.mod_eq_of_lt hn]
    exact congrArg Host.Outcome.next (if_pos (List.any_eq_true.mpr hbusy))
  · intro ⟨hrec, hreset⟩ hn hlen hsystem hacc hcan hbusy hrep
    exact execHostW2Write_writes hrec hreset hn hlen rfl hsystem hacc hcan hbusy hrep
  · intro tier link gib
    refine ⟨?_, ?_, ?_⟩
    · exact execLinkTraining_tier
    · exact fun r hr => (linkTrained_fits hr).1
    · exact execLinkTraining_host (gib := gib)

end Sys2Proof
end

section
/-!
PROOF. Kills, halts, drains and forced saves, and a context becoming live (R373 to R382).
-/
namespace Sys2Proof.Machine

/-! ### Reports to the host -/

/-- One state is another after the host has been written to: of the state only its lines, what goes out and the waits on a line are different. -/
def State.TellsTo (s t : State) : Prop := ∃ h o a, t = { s with hostLines := h, outbox := o, accesses := a }

theorem State.TellsTo.refl (s : State) : s.TellsTo s := ⟨_, _, _, rfl⟩

theorem State.TellsTo.trans {s t u : State} (h : s.TellsTo t) (h' : t.TellsTo u) : s.TellsTo u := by
  obtain ⟨_, _, _, rfl⟩ := h
  obtain ⟨_, _, _, rfl⟩ := h'
  exact ⟨_, _, _, rfl⟩

theorem State.TellsTo.frame {s t : State} (h : s.TellsTo t) :
    (∀ c, t.ctx c = s.ctx c) ∧ t.mem = s.mem ∧ t.groups = s.groups ∧ t.teams = s.teams := by
  obtain ⟨_, _, _, rfl⟩ := h
  exact ⟨fun _ => rfl, rfl, rfl, rfl⟩

theorem State.hostDrop_tells (s : State) (line : Nat) : s.TellsTo (s.hostDrop line) := by
  unfold State.hostDrop
  split
  · exact .refl s
  · exact ⟨_, _, _, rfl⟩

theorem State.hostPut_tells (s : State) (pa : Nat) (bs : List Byte) (ro : Bool) : s.TellsTo (s.hostPut pa bs ro) := by
  have hfold : ∀ (l : List (Nat × List Byte)) (s : State), s.TellsTo (l.foldl (fun (s : State) l => s.hostDrop l.1) s) := by
    intro l
    induction l with
    | nil => exact .refl
    | cons p l ih => exact fun s => (s.hostDrop_tells p.1).trans (ih _)
  exact (hfold _ s).trans ⟨_, _, _, rfl⟩

/-- A kill is reported to the host with the context's vector. -/
theorem State.reportKill_tells (s : State) (ctx : Nat) (k : KillReq) :
    s.TellsTo (s.reportKill ctx k) ∧ .msix (s.ctx ctx).msix ∈ (s.reportKill ctx k).outbox := by
  unfold State.reportKill
  extract_lets c
  refine ⟨?_, List.mem_append_right _ (.head _)⟩
  split
  · exact ⟨_, _, _, rfl⟩
  · exact (s.hostPut_tells _ _ _).trans ⟨_, _, _, rfl⟩

/-! ### Kills and halts -/

section
variable {s : State} {ctx : Nat} {k : KillReq}

theorem execContextKill_none (h : s.chosenKill (s.ctx ctx) = none) : execContextKill ctx s = .next s := by
  rw [execContextKill, h]

theorem execContextKill_waits (h : s.quiet (s.ctxGroups ctx) = false ∨ s.movesPage ctx = true) : execContextKill ctx s = .next s := by
  unfold execContextKill
  dsimp only
  split
  · rfl
  · exact if_pos (by rcases h with h | h <;> simp [h])

theorem execContextKill_acts (hk : s.chosenKill (s.ctx ctx) = some k) (hfree : (s.ctx ctx).status ≠ .free) (hkilled : (s.ctx ctx).status ≠ .killed)
    (hquiet : s.quiet (s.ctxGroups ctx) = true) (hmoves : s.movesPage ctx = false) :
    execContextKill ctx s = if k.cause == 3 then
        .next ((s.reportKill ctx k).modCtx ctx fun c => { c with status := .halted, haltedFrom := c.status, kills := [] })
      else .next ((((s.stopContext ctx k.code).reportKill ctx k).drainEnds ctx .killed).modCtx ctx fun c =>
        { c with killWritten := true, kills := [] }) := by
  unfold execContextKill
  dsimp only
  rw [hk]
  exact if_neg (by simp [hfree, hkilled, hquiet, hmoves])

/-- The end of a drain gives the context its state, and no instruction waits for it any more. -/
theorem State.drainEnds_ctx (s : State) (ctx : Nat) (st : CtxStatus) :
    ∃ c : Ctx, (s.drainEnds ctx st).ctx ctx = { c with status := st, drainWaits := [] } := by
  unfold State.drainEnds
  exact ⟨_, State.ctx_modCtx_same _ _ _⟩

end

/-- A team as a drain marks it for saving. -/
def Team.marked (ctx : Nat) (x : Team) : Team := if x.ctx == ctx && x.status == .resident then { x with saving := true } else x

theorem State.saveAll_find? (s : State) (ctx i : Nat) : (s.saveAll ctx).teams.find? i = (s.teams.find? i).map (Team.marked ctx) :=
  SMap.find?_map s.teams (Team.marked ctx) i

/-! ### Forced saves -/

section
variable {α : Type} (f : α → α)

/-- Entries that are changed keep what the change keeps. -/
theorem SMap.foldl_modify_keeps {β : Type} {π : α → β} (h : ∀ x, π (f x) = π x) (ks : List Nat) (m : SMap α) (j : Nat) :
    ((ks.foldl (fun (m : SMap α) k => m.modify k f) m).find? j).map π = (m.find? j).map π := by
  induction ks generalizing m with
  | nil => rfl
  | cons k ks ih =>
    rw [List.foldl_cons, ih]
    by_cases hj : j = k
    · subst hj
      rw [SMap.find?_modify_same, Option.map_map]
      exact congrArg (fun g => (m.find? j).map g) (funext h)
    · rw [SMap.find?_modify_other _ _ hj]

/-- Entries that are changed have what the change gives. -/
theorem SMap.foldl_modify_gives {P : α → Prop} (h : ∀ x, P (f x)) {ks : List Nat} {j : Nat} (hj : j ∈ ks) (m : SMap α) :
    ∀ x, (ks.foldl (fun (m : SMap α) k => m.modify k f) m).find? j = some x → P x := by
  have hkeep : ∀ (ks : List Nat) (m : SMap α), (∀ x, m.find? j = some x → P x) →
      ∀ x, (ks.foldl (fun (m : SMap α) k => m.modify k f) m).find? j = some x → P x := by
    intro ks
    induction ks with
    | nil => exact fun m hm => hm
    | cons k ks ih =>
      refine fun m hm => ih _ fun x hx => ?_
      by_cases hjk : j = k
      · subst hjk
        rw [SMap.find?_modify_same] at hx
        obtain ⟨y, -, rfl⟩ := Option.map_eq_some_iff.mp hx
        exact h y
      · exact hm x ((SMap.find?_modify_other _ _ hjk).symm.trans hx)
  induction ks generalizing m with
  | nil => cases hj
  | cons k ks ih =>
    rcases List.mem_cons.mp hj with rfl | hj
    · refine hkeep ks _ fun x hx => ?_
      rw [SMap.find?_modify_same] at hx
      obtain ⟨y, -, rfl⟩ := Option.map_eq_some_iff.mp hx
      exact h y
    · exact ih hj _

end

theorem State.foldl_modGroup_eq (f : Group → Group) (gs : List Nat) (s : State) :
    gs.foldl (fun (s : State) gid => s.modGroup gid f) s =
      { s with groups := gs.foldl (fun (m : SMap Group) gid => m.modify gid f) s.groups } := by
  induction gs generalizing s with
  | nil => rfl
  | cons gid gs ih => rw [List.foldl_cons, ih, List.foldl_cons]; rfl

/-- A group without clauses. -/
def Group.unbundled (g : Group) : Group := { g with bundles := [] }

/-- A group off its cluster. -/
def Group.unseated (g : Group) : Group := { g with resident := false, bundles := [] }

section
variable {s : State} {tid : Nat}

/-- Where nothing waits at a rendezvous, discarding clauses changes the slots and the groups. -/
theorem State.discard_of_no_latches (hlatches : s.latches = []) (hwaits : s.latchWaits = []) (gs : List Nat) :
    ∃ iss, s.discard gs = { s with issuing := iss, groups := gs.foldl (fun (m : SMap Group) gid => m.modify gid Group.unbundled) s.groups } := by
  refine ⟨s.issuing.filter fun i => !gs.contains i.gid, ?_⟩
  have hfold : ∀ (gs : List Nat) (u : State), u.latches = [] → u.latchWaits = [] →
      gs.foldl (fun (s : State) gid => (s.withdraw gid).modGroup gid fun g => { g with bundles := [] }) u =
        gs.foldl (fun (s : State) gid => s.modGroup gid Group.unbundled) u := by
    intro gs
    induction gs with
    | nil => exact fun _ _ _ => rfl
    | cons gid gs ih =>
      intro u hl hw
      rw [List.foldl_cons, List.foldl_cons, State.withdraw_of_no_arrival (by simp [hl]) (by simp [hw])]
      exact ih _ hl hw
  rw [State.discard]
  exact (hfold gs { s with issuing := s.issuing.filter fun i => !gs.contains i.gid } hlatches hwaits).trans (State.foldl_modGroup_eq _ gs _)

theorem State.saveWorks_of_none (h : s.works = []) : s.saveWorks tid = s := by
  rw [State.saveWorks, h]
  rfl

theorem State.saveCopies_of_none (h : s.commands = []) : s.saveCopies tid = s := by
  rw [State.saveCopies, h]
  rfl

theorem State.homePut_writes (s : State) (pa : Nat) (bs : List Byte) : (s.homePut pa bs).mem = Memory.writeAll s.mem pa bs := by
  unfold State.homePut
  obtain ⟨⟨_, _, e⟩, -⟩ := ((s.stampForeign pa).writeMem pa bs).markWritten_frame (grainOf pa)
  obtain ⟨⟨_, _, e'⟩, -⟩ := (s.stampForeign pa).writeMem_frame pa bs
  rw [e, e']
  rfl

theorem sectorsOf_within {pa n : Nat} {p : Nat × Nat} (hp : p ∈ sectorsOf pa n) : pa ≤ p.1 ∧ p.1 + p.2 ≤ pa + n := by
  obtain ⟨hp, hne⟩ := List.mem_filter.mp hp
  obtain ⟨i, hi, rfl⟩ := List.mem_map.mp hp
  have hpos : min (pa + n) ((pa / 128 + i + 1) * 128) - max pa ((pa / 128 + i) * 128) ≠ 0 := bne_iff_ne.mp hne
  dsimp only
  omega

/-- A migration's write changes only the bytes that it writes. -/
theorem State.migWrite_bytes (pa : Nat) (bs : List Byte) (hcan : s.MemoryCanonical) {a : Nat} (ha : a < pa ∨ pa + bs.length ≤ a) :
    (s.migWrite pa bs).byteAt a = s.byteAt a := by
  unfold State.migWrite
  split
  · rfl
  · have hfold : ∀ (ps : List (Nat × Nat)) (u : State), (∀ p ∈ ps, pa ≤ p.1 ∧ p.1 + p.2 ≤ pa + bs.length) → u.MemoryCanonical →
        (ps.foldl (fun (s : State) p => (s.recall (grainOf p.1)).homePut p.1 ((bs.drop (p.1 - pa)).take p.2)) u).byteAt a = u.byteAt a := by
      intro ps
      induction ps with
      | nil => exact fun _ _ _ => rfl
      | cons p ps ih =>
        intro u hps hu
        obtain ⟨hlo, hhi⟩ := hps p (.head _)
        have hwrite : ((u.recall (grainOf p.1)).homePut p.1 ((bs.drop (p.1 - pa)).take p.2)).mem =
            Memory.writeAll u.mem p.1 ((bs.drop (p.1 - pa)).take p.2) := by
          rw [State.homePut_writes, State.recall_mem]
        have hlen : ((bs.drop (p.1 - pa)).take p.2).length ≤ p.2 := List.length_take_le _ _
        rw [List.foldl_cons, ih _ (fun q hq => hps q (.tail _ hq)) (by rw [State.MemoryCanonical, hwrite]; exact Memory.wf_writeAll _ _ hu),
          State.byteAt, hwrite]
        exact Memory.read_writeAll_other _ _ hu (by omega)
    exact hfold _ s (fun p hp => sectorsOf_within hp) hcan

theorem State.writeSaved_frame (s : State) (tid : Nat) : ∃ m tg sn sec ln lt fl eg hd n, s.writeSaved tid =
    { s with mem := m, tags := tg, snaps := sn, sectors := sec, lines := ln, lts := lt, floor := fl, engineGrains := eg, held := hd, freeCtr := n } :=
  ⟨_, _, _, _, _, _, _, _, _, _, rfl⟩

/-- The save area is all that saving a team's state writes. -/
theorem State.writeSaved_bytes (s : State) (tid : Nat) (hcan : s.MemoryCanonical) {a : Nat}
    (ha : a < (s.ctx (s.team tid).ctx).saveArea ∨ (s.ctx (s.team tid).ctx).saveArea + Config.saveAreaBytes ≤ a) :
    (s.writeSaved tid).byteAt a = s.byteAt a := by
  refine s.migWrite_bytes _ _ hcan ?_
  have hplace : Config.savePlace s.freeCtr % max 1 Config.saveAreaBytes < max 1 Config.saveAreaBytes := Nat.mod_lt _ (by omega)
  have hlen := List.length_take_le (Config.saveAreaBytes - Config.savePlace s.freeCtr % max 1 Config.saveAreaBytes) (Config.imageBody s.freeCtr)
  omega

/-- The module as a team's groups have left their cluster, before the team itself is noted as saved. -/
def State.unseat (s : State) (tid : Nat) : State :=
  (s.team tid).groups.foldl (fun (s : State) gid => s.modGroup gid Group.unseated)
    (((((s.writeSaved tid).discard (s.team tid).groups).unpark (s.team tid).groups).saveWorks tid).saveCopies tid)

theorem State.saveTeam_eq (s : State) (tid : Nat) :
    s.saveTeam tid = (((s.unseat tid).modTeam tid fun t => { t with status := .saved, saving := false }).modCtx
      ((s.unseat tid).team tid).ctx fun c =>
        { c with drainSaved := c.drainSaved + 1, left := c.left.insert ((s.unseat tid).team tid).cluster (s.unseat tid).clock }) := rfl

/-- The groups of a team without matrix work or copies, at no rendezvous, leave their cluster with the save area written. -/
theorem State.unseat_spec (hworks : s.works = []) (hcommands : s.commands = []) (hlatches : s.latches = []) (hwaits : s.latchWaits = []) :
    (s.unseat tid).mem = (s.writeSaved tid).mem ∧ (s.unseat tid).teams = s.teams ∧ (s.unseat tid).ctxs = s.ctxs ∧
      (s.unseat tid).groups = (s.team tid).groups.foldl (fun (m : SMap Group) gid => m.modify gid Group.unseated)
        ((s.team tid).groups.foldl (fun (m : SMap Group) gid => m.modify gid Group.unbundled) s.groups) := by
  obtain ⟨m, tg, sn, sec, ln, lt, fl, eg, hd, n, hw⟩ := s.writeSaved_frame tid
  obtain ⟨iss, hdiscard⟩ := State.discard_of_no_latches (s := s.writeSaved tid) (by rw [hw]; exact hlatches) (by rw [hw]; exact hwaits)
    (s.team tid).groups
  rw [State.unseat, State.saveWorks_of_none (by rw [hdiscard, hw]; exact hworks), State.saveCopies_of_none (by rw [hdiscard, hw]; exact hcommands),
    State.foldl_modGroup_eq, hdiscard]
  exact ⟨rfl, by rw [hw]; rfl, by rw [hw]; rfl, by rw [hw]; rfl⟩

/-- A group that leaves its cluster keeps its threads. -/
theorem State.unseat_group (hworks : s.works = []) (hcommands : s.commands = []) (hlatches : s.latches = []) (hwaits : s.latchWaits = [])
    {gid : Nat} (hg : gid ∈ (s.team tid).groups) :
    ((s.unseat tid).group gid).resident = false ∧ ((s.unseat tid).group gid).threads = (s.group gid).threads := by
  obtain ⟨-, -, -, hgroups⟩ := State.unseat_spec (tid := tid) hworks hcommands hlatches hwaits
  have hthreads := (SMap.foldl_modify_keeps Group.unseated (π := Group.threads) (fun _ => rfl) (s.team tid).groups
      ((s.team tid).groups.foldl (fun (m : SMap Group) gid => m.modify gid Group.unbundled) s.groups) gid).trans
    (SMap.foldl_modify_keeps Group.unbundled (π := Group.threads) (fun _ => rfl) (s.team tid).groups s.groups gid)
  have hgone := SMap.foldl_modify_gives Group.unseated (P := fun g => g.resident = false) (fun _ => rfl) hg
    ((s.team tid).groups.foldl (fun (m : SMap Group) gid => m.modify gid Group.unbundled) s.groups)
  rw [← hgroups] at hthreads hgone
  unfold State.group SMap.get
  cases hfind : (s.unseat tid).groups.find? gid with
  | none =>
    rw [hfind] at hthreads
    rw [Option.map_eq_none_iff.mp hthreads.symm]
    exact ⟨rfl, rfl⟩
  | some g =>
    rw [hfind] at hthreads
    obtain ⟨g', hg', heq⟩ := Option.map_eq_some_iff.mp hthreads.symm
    rw [hg']
    exact ⟨hgone g hfind, heq.symm⟩

theorem execForcedSave_idle (h : (s.team tid).status ≠ .resident ∨ (s.team tid).saving = false ∨ s.canSave tid = false) :
    execForcedSave tid s = .next s := if_pos (by rcases h with h | h | h <;> simp [h])

/-- A forced save of a team of a live context. -/
theorem execForcedSave_saves {ctx : Nat} (hresident : (s.team tid).status = .resident) (hsaving : (s.team tid).saving = true)
    (hcan : s.canSave tid = true) (hctx : (s.team tid).ctx = ctx) (hlive : (s.ctx ctx).status = .live) (hworks : s.works = [])
    (hcommands : s.commands = []) (hlatches : s.latches = []) (hwaits : s.latchWaits = []) (hmem : s.MemoryCanonical) :
    ∃ t, execForcedSave tid s = .next t ∧ t.team tid = { s.team tid with status := .saved, saving := false } ∧
      (t.ctx ctx).drainSaved = (s.ctx ctx).drainSaved + 1 ∧
      (∀ g ∈ (s.team tid).groups, (t.group g).resident = false ∧ (t.group g).threads = (s.group g).threads) ∧
      ∀ a, a < (s.ctx ctx).saveArea ∨ (s.ctx ctx).saveArea + Config.saveAreaBytes ≤ a → t.byteAt a = s.byteAt a := by
  obtain ⟨hmem', hteams, hctxs, -⟩ := State.unseat_spec (tid := tid) hworks hcommands hlatches hwaits
  have hteam : (s.unseat tid).team tid = s.team tid := by rw [State.team, hteams, State.team]
  have hc : (s.unseat tid).ctx ctx = s.ctx ctx := by rw [State.ctx, hctxs, State.ctx]
  obtain ⟨c, hsaved, hcount, hstatus⟩ : ∃ c, (s.saveTeam tid).ctx ctx = c ∧ c.drainSaved = (s.ctx ctx).drainSaved + 1 ∧ c.status = .live := by
    refine ⟨_, by rw [State.saveTeam_eq, hteam, hctx, State.ctx_modCtx_same], ?_, ?_⟩
    · exact congrArg (fun c : Ctx => c.drainSaved + 1) hc
    · exact (congrArg Ctx.status hc).trans hlive
  refine ⟨s.saveTeam tid, ?_, ?_, by rw [hsaved, hcount], fun g hg => ?_, fun a ha => ?_⟩
  · unfold execForcedSave
    dsimp only
    rw [if_neg (by simp [hresident, hsaving, hcan, hctx, hlive]), hctx, State.drainCheck_of_status (by rw [hsaved, hstatus]; decide)]
  · obtain ⟨x, hx⟩ : ∃ x, s.teams.find? tid = some x := by
      cases hfind : s.teams.find? tid with
      | none => simp [State.team, SMap.get, hfind] at hresident
      | some x => exact ⟨x, rfl⟩
    have hget : (s.saveTeam tid).teams.find? tid = (s.teams.find? tid).map fun t => { t with status := .saved, saving := false } := by
      rw [State.saveTeam_eq, ← hteams]
      exact SMap.find?_modify_same _ _ _
    simp only [State.team, SMap.get, hget, hx]
    rfl
  · exact State.unseat_group hworks hcommands hlatches hwaits hg
  · have hbytes : (s.saveTeam tid).byteAt a = (s.writeSaved tid).byteAt a := by
      rw [State.byteAt, State.byteAt, ← hmem']
      rfl
    rw [hbytes]
    exact s.writeSaved_bytes tid hmem (by rw [hctx]; exact ha)

end

/-! ### Becoming live -/

section
variable {s : State} {ctx q : Nat}

/-- A refused record is reported, and the context is as it was. -/
theorem State.refuseRecord_spec (s : State) (ctx : Nat) (r : BitVec 1024) :
    (s.refuseRecord ctx r).ctx ctx = s.ctx ctx ∧ (s.refuseRecord ctx r).mem = s.mem ∧ .msix (recBits r 39 29) ∈ (s.refuseRecord ctx r).outbox := by
  obtain ⟨htells, hmsix⟩ := (s.modCtx ctx fun c => { c with record := r }).reportKill_tells ctx { code := .ctxImage, cause := 5 }
  obtain ⟨hctx, hmem, -, -⟩ := htells.frame
  rw [State.ctx_modCtx_same] at hmsix
  refine ⟨?_, hmem, hmsix⟩
  unfold State.refuseRecord
  dsimp only
  rw [State.ctx_modCtx_same, hctx, State.ctx_modCtx_same]

/-- A free or saved context whose record is good becomes live; one whose record is refused does not. -/
theorem execContextBecomesLive_admitted (hctx : ctx < 1024) (hreset : s.inReset = false) (hrec : s.recovery = false)
    (hstatus : (s.ctx ctx).status = .free ∨ (s.ctx ctx).status = .saved) :
    let r := s.recordOf ctx
    let read := if recBits r 691 640 = 0 then s else s.send (.hostRead (areaReadId + ctx) (recBits r 691 640 + 16) 8)
    (recordBad r q = false → s.isSelf s.chip = true → execContextBecomesLive ctx q s = .next (read.setCtx ctx { s.ctx ctx with
      status := .live, record := r, q := if recBits r 691 640 = 0 then (s.ctx ctx).q else q
      walks := (s.ctx ctx).walks.map fun (p : Nat × Walk) => (p.1, p.2.unhold) })) ∧
    (recordBad r q = true → ∃ t, execContextBecomesLive ctx q s = .next t ∧
      t.ctx ctx = s.ctx ctx ∧ t.mem = s.mem ∧ .msix (recBits r 39 29) ∈ t.outbox) := by
  intro r read
  have hadmits : ¬ (s.inReset || s.recovery || decide (1024 ≤ ctx) || !((s.ctx ctx).status == .free || (s.ctx ctx).status == .saved)) = true := by
    rcases hstatus with h | h <;> simp [hreset, hrec, hctx, h]
  have hread : (if recBits r 691 640 == 0 then s else s.send (.hostRead (areaReadId + ctx) (recBits r 691 640 + 16) 8)) = read := by
    simp only [read, beq_iff_eq]
  have hframe : read.chip = s.chip ∧ (∀ c, read.isSelf c = s.isSelf c) ∧ read.ctx ctx = s.ctx ctx ∧ read.mem = s.mem := by
    simp only [read]
    split <;> exact ⟨rfl, fun _ => rfl, rfl, rfl⟩
  obtain ⟨hchip, hself, hc, hmem⟩ := hframe
  refine ⟨fun hgood hown => ?_, fun hbad => ?_⟩
  · rw [execContextBecomesLive]
    dsimp only
    rw [if_neg hadmits, hread, if_neg (by simp [show recordBad (s.recordOf ctx) q = false from hgood, hchip, hself, hown])]
    simp only [beq_iff_eq]
    rfl
  · obtain ⟨hctx', hmem', hmsix⟩ := read.refuseRecord_spec ctx r
    refine ⟨read.refuseRecord ctx r, ?_, hctx'.trans hc, hmem'.trans hmem, hmsix⟩
    rw [execContextBecomesLive]
    dsimp only
    rw [if_neg hadmits, hread, if_pos (by simp [r, hbad])]

end

end Sys2Proof.Machine

namespace Sys2Proof
open Sys2Proof.Machine

/-- Settles O25: each event is its equation, and a saved team writes the save area alone. -/
theorem contextKillDrainAndSaveEventResults : Obligations.ContextKillDrainAndSaveEventResults := by
  unfold Obligations.ContextKillDrainAndSaveEventResults
  intro s ctx k c
  refine ⟨execContextKill_none, execContextKill_waits, ?_, ?_, ?_, fun tid => execForcedSave_idle, ?_, ?_, ?_⟩
  · intro hk hfree hkilled hquiet hmoves
    have hacts := (exec_contextKill ctx s).trans (execContextKill_acts hk hfree hkilled hquiet hmoves)
    refine ⟨fun hhalt => ?_, fun hkill => ?_⟩
    · obtain ⟨htells, hmsix⟩ := s.reportKill_tells ctx k
      obtain ⟨hctx, hmem, hgroups, hteams⟩ := htells.frame
      refine ⟨_, hacts.trans (if_pos (by simp [hhalt])), ?_, hmem, hgroups, hteams, hmsix⟩
      rw [State.ctx_modCtx_same, hctx]
    · refine ⟨_, hacts.trans (if_neg (by simp [hkill])), ?_⟩
      obtain ⟨c', hc'⟩ := State.drainEnds_ctx ((s.stopContext ctx k.code).reportKill ctx k) ctx .killed
      rw [State.ctx_modCtx_same, hc']
      exact ⟨rfl, rfl, rfl, rfl⟩
  · intro hstatus hdue
    refine ⟨_, (exec_drainLimitExpiry ctx s).trans (if_pos ?_), rfl, rfl, fun i x hx => ?_⟩
    · simp [show (s.ctx ctx).status = .draining from hstatus,
        show (s.ctx ctx).drainSince + s.cfgVal 0x20 * mclkPerUs ≤ s.clock from hdue]
    · rw [State.saveAll_find?, hx, Option.map_some, Team.marked]
      cases hmine : x.ctx == ctx && x.status == .resident with
      | false => simp
      | true => simp
  · intro hidle
    refine (exec_drainLimitExpiry ctx s).trans (if_neg ?_)
    rcases hidle with h | h
    · simp [show (s.ctx ctx).status ≠ .draining from h]
    · simp [show ¬ (s.ctx ctx).drainSince + s.cfgVal 0x20 * mclkPerUs ≤ s.clock from Nat.not_le.mpr h]
  · intro tid hresident hsaving hcan hctx hlive hworks hcommands hlatches hwaits hmem
    exact execForcedSave_saves hresident hsaving hcan hctx hlive hworks hcommands hlatches hwaits hmem
  · intro q hctx hreset hrec hstatus area read
    rw [exec_contextBecomesLive]
    exact execContextBecomesLive_admitted hctx hreset hrec hstatus
  · intro q hfree hsaved
    rw [exec_contextBecomesLive, execContextBecomesLive]
    exact if_pos (by simp [show (s.ctx ctx).status ≠ .free from hfree, show (s.ctx ctx).status ≠ .saved from hsaved])

end Sys2Proof
end

section
/-!
PROOF. The events of a snapshot: its record instant, its sweep, its lake, its completion, sealing, failure and drop, its markers and its
restoration (R311, R347 to R364, Table 15·3).
-/
namespace Sys2Proof.Machine

/-! ### Colours, notices and the epoch -/

@[simp] theorem State.snap_modSnap_same (s : State) (c : Nat) (f : Snap → Snap) : (s.modSnap c f).snap c = f (s.snap c) :=
  SMap.get_insert_same ..

/-- A notice to every chip of some but this one adds those notices to what goes out, and changes nothing else. -/
theorem State.foldl_notice_eq (kind : String) (ns l : List Nat) (s : State) :
    l.foldl (fun (s : State) d => if d == s.chip then s else s.send (.notice d kind ns)) s =
      { s with outbox := s.outbox ++ (l.filter (· != s.chip)).map fun d => .notice d kind ns } := by
  induction l generalizing s with
  | nil => rw [List.filter_nil, List.map_nil, List.append_nil]; rfl
  | cons d l ih =>
    rw [List.foldl_cons, ih]
    by_cases hd : d = s.chip
    · simp [hd]
    · simp [hd, State.send]

/-- Telling of a failure changes what goes out only. -/
theorem State.tellFailure_eq (s : State) (c init : Nat) : ∃ o, s.tellFailure c init = { s with outbox := o } := by
  unfold State.tellFailure
  split
  · exact ⟨_, State.foldl_notice_eq _ _ _ _⟩
  · exact ⟨_, rfl⟩

theorem State.takeAnswers_of_no_remoteOps {s : State} (h : s.remoteOps = []) : s.takeAnswers = s := by
  unfold State.takeAnswers
  rw [h]
  exact congrArg (fun r => { s with remoteOps := r }) h.symm

/-- With no answer that waits for the epoch, taking it lets the held messages act and forms bundles. -/
theorem State.takeEpoch_eq {s : State} (h : s.remoteOps = []) (epoch : Nat) : ∃ gs, s.takeEpoch epoch =
    { s with epoch := epoch, agenda := (s.heldMsgs.map fun i => (0, i)) ++ s.agenda, heldMsgs := [], groups := gs } := by
  unfold State.takeEpoch
  extract_lets u
  rw [State.takeAnswers_of_no_remoteOps (s := u) h]
  exact ⟨_, (State.formAll_reforms u).state⟩

theorem State.takeEpoch_frame {s : State} (h : s.remoteOps = []) (epoch : Nat) :
    (s.takeEpoch epoch).epoch = epoch ∧ (∀ c, (s.takeEpoch epoch).snap c = s.snap c) ∧ (s.takeEpoch epoch).mem = s.mem ∧
      (s.takeEpoch epoch).heldMsgs = [] ∧ (s.takeEpoch epoch).agenda = (s.heldMsgs.map fun i => (0, i)) ++ s.agenda := by
  obtain ⟨gs, hgs⟩ := State.takeEpoch_eq h epoch
  rw [hgs]
  exact ⟨rfl, fun _ => rfl, rfl, rfl, rfl⟩

section
variable {s : State} {c cause : Nat}

/-- A snapshot that is recorded fails without more. -/
theorem State.failSnap_recorded (h : 2 ≤ (s.snap c).state) (h' : (s.snap c).state ≤ 3) :
    s.failSnap c cause = s.modSnap c fun y => { y with state := 5, cause := cause, marks := [] } := by
  unfold State.failSnap
  dsimp only
  change (if (s.snap c).state == 0 || decide (4 ≤ (s.snap c).state) then s else _) = _
  rw [if_neg (by simp; omega), if_neg]
  · rfl
  · change ¬ ((s.snap c).state == 1) = true
    simp; omega

/-- One that still records takes its epoch. -/
theorem State.failSnap_recording (h : (s.snap c).state = 1) :
    s.failSnap c cause = (s.modSnap c fun y => { y with state := 5, cause := cause, marks := [] }).takeEpoch (s.snap c).epoch := by
  unfold State.failSnap
  dsimp only
  change (if (s.snap c).state == 0 || decide (4 ≤ (s.snap c).state) then s else _) = _
  rw [if_neg (by simp [h]), if_pos]
  · rfl
  · change ((s.snap c).state == 1) = true
    simp [h]

theorem State.failSnap_over (h : (s.snap c).state = 0 ∨ 4 ≤ (s.snap c).state) : s.failSnap c cause = s := by
  unfold State.failSnap
  exact if_pos (by simpa [State.snap] using h)

/-- A recorded snapshot that fails of itself is failed, and what goes out tells of it. -/
theorem State.snapFail_frame (h : (s.snap c).state = 2) : ((s.snapFail c cause).snap c).state = 5 ∧ ((s.snapFail c cause).snap c).cause = cause ∧
    (s.snapFail c cause).mem = s.mem ∧ (s.snapFail c cause).tier = s.tier ∧ (s.snapFail c cause).cfg = s.cfg := by
  have e : s.snapFail c cause = (s.modSnap c fun y => { y with state := 5, cause := cause, marks := [] }).tellFailure c (s.snap c).initiator := by
    rw [← State.failSnap_recorded h.ge (h.le.trans (by decide))]
    exact if_neg (by change ¬ ((s.snap c).state == 0 || decide (4 ≤ (s.snap c).state)) = true; simp [h])
  obtain ⟨o, ho⟩ := State.tellFailure_eq (s.modSnap c fun y => { y with state := 5, cause := cause, marks := [] }) c (s.snap c).initiator
  have hsnap := State.snap_modSnap_same s c fun y => { y with state := 5, cause := cause, marks := [] }
  rw [e, ho]
  exact ⟨congrArg Snap.state hsnap, congrArg Snap.cause hsnap, rfl, rfl, rfl⟩

end

/-! ### The record instant (R347 to R349, R355) -/

/-- A chip takes the epoch of a record with what it held of the old one as it was. -/
theorem State.takeEpoch_records {s u : State} {k epoch : Nat} {x : Snap} {chans : List (Nat × Nat)} (hops : u.remoteOps = [])
    (hmem : u.mem = s.mem) (hheld : u.heldMsgs = s.heldMsgs) (hagenda : u.agenda = s.agenda) (hsnaps : u.snaps = s.snaps.insert k x)
    (hstate : x.state = 2) (hawaiting : x.awaiting = chans) : (u.takeEpoch epoch).epoch = epoch ∧ ((u.takeEpoch epoch).snap k).state = 2 ∧
      (u.takeEpoch epoch).mem = s.mem ∧ (u.takeEpoch epoch).heldMsgs = [] ∧ ((u.takeEpoch epoch).snap k).awaiting = chans ∧
      (u.takeEpoch epoch).agenda = (s.heldMsgs.map fun i => (0, i)) ++ s.agenda := by
  obtain ⟨hepoch, hcolour, hmem', hheld', hagenda'⟩ := State.takeEpoch_frame hops epoch
  have hsnap : u.snap k = x := by rw [State.snap, hsnaps, SMap.get_insert_same]
  rw [hcolour, hsnap, ← hheld, ← hagenda]
  exact ⟨hepoch, hstate, hmem'.trans hmem, hheld', hawaiting, hagenda'⟩

theorem State.foldl_enqueueFirst_eq (m : Nat × Nat → State → Msg) (l : List (Nat × Nat)) (s : State) :
    ∃ q, l.foldl (fun (s : State) p => s.enqueueFirst (m p s)) s = { s with sendQ := q } := by
  induction l generalizing s with
  | nil => exact ⟨_, rfl⟩
  | cons p l ih =>
    obtain ⟨q, hq⟩ := ih (s.enqueueFirst (m p s))
    exact ⟨q, hq⟩

theorem execSnapshotRecordInstant_waits {s : State} (h : (∀ p ∈ s.snaps, p.2.state ≠ 1) ∨ s.domQuiet = false) :
    execSnapshotRecordInstant s = .next s := by
  unfold execSnapshotRecordInstant
  split
  · rfl
  next c x hfind =>
    rcases h with h | h
    · exact absurd (by simpa using List.find?_some hfind) (h _ (List.mem_of_find?_eq_some hfind))
    · exact if_pos (by simp [h])

/-- The only colour that records is the one that the instant finds. -/
theorem find_recording {m : SMap Snap} {k : Nat} {y : Snap} (hk : m.find? k = some y) (hy : y.state = 1)
    (hone : ∀ p ∈ m, p.1 ≠ k → p.2.state ≠ 1) : List.find? (fun p : Nat × Snap => p.2.state == 1) m = some (k, y) := by
  induction m with
  | nil => cases hk
  | cons p m ih =>
    obtain ⟨i, z⟩ := p
    rw [SMap.find?] at hk
    split at hk
    · next hi =>
      cases hk
      rw [List.find?_cons_of_pos (by simp [hy]), hi]
    · next hi =>
      rw [List.find?_cons_of_neg (by simpa using hone _ (.head _) hi)]
      exact ih hk fun p hp => hone p (.tail _ hp)

theorem execSnapshotRecordInstant_records {s : State} {k : Nat} {y : Snap} (hk : s.snaps.find? k = some y) (hy : y.state = 1)
    (hdrop : y.dropHeld = false) (hops : s.remoteOps = []) (hone : ∀ p ∈ s.snaps, p.1 ≠ k → p.2.state ≠ 1) (hquiet : s.domQuiet = true) :
    ∃ t, execSnapshotRecordInstant s = .next t ∧ t.epoch = y.epoch ∧ (t.snap k).state = 2 ∧ t.mem = s.mem ∧ t.heldMsgs = [] ∧
      (t.snap k).awaiting = (s.domChips.flatMap fun d => s.snapClasses.map fun m => (d, m)) ∧
      t.agenda = (s.heldMsgs.map fun i => (0, i)) ++ s.agenda := by
  have hsnap : s.snap k = y := congrArg (·.getD {}) hk
  unfold execSnapshotRecordInstant
  rw [find_recording hk hy hone]
  dsimp only
  rw [if_neg (by simp [hquiet])]
  refine ⟨_, rfl, ?_⟩
  obtain ⟨q, hq⟩ := State.foldl_enqueueFirst_eq (fun p s => s.marker y p.1 p.2)
    (s.domChips.flatMap fun d => s.snapClasses.map fun t => (d, t)) _
  rw [hq]
  exact State.takeEpoch_records hops rfl rfl rfl rfl (by simp [hsnap, hdrop]) rfl

/-! ### The sweep (R353, R354) -/

section
variable {s : State} {col : BitVec 1} {c : Nat} {x : Snap} {tier : Bool} {g : Nat} {read : Bool}

theorem execSnapshotSweep_over (h : (s.snap col.toNat).state ≠ 2 ∨ (s.snap col.toNat).swept = true) : execSnapshotSweep col s = .next s :=
  if_pos (by simpa using h)

/-- After the last grain of a snapshot without marked objects its sweep is done. -/
theorem execSnapshotSweep_ends (hc : col.toNat = c) (hx : s.snap c = x) (hstate : x.state = 2) (hswept : x.swept = false) (hmarks : x.marks = [])
    (hgrain : grainAt x.frames x.sweepAt = none) : execSnapshotSweep col s = .next (s.modSnap c fun y => { y with swept := true }) := by
  unfold execSnapshotSweep
  dsimp only
  rw [hc, hx, if_neg (by simp [hstate, hswept]), hgrain, hmarks]
  rfl

/-- A grain that is done with lets the sweep go on to the next. -/
theorem execSnapshotSweep_done (hc : col.toNat = c) (hx : s.snap c = x) (hstate : x.state = 2) (hswept : x.swept = false)
    (hgrain : grainAt x.frames x.sweepAt = some (tier, g)) {t : State} (hdone : s.sweepGrain tier g x.read = (true, t)) :
    execSnapshotSweep col s = .next (t.modSnap c fun y => { y with sweepAt := y.sweepAt + 1, read := false }) := by
  unfold execSnapshotSweep
  dsimp only
  rw [hc, hx, if_neg (by simp [hstate, hswept]), hgrain]
  dsimp only
  rw [hdone]
  rfl

theorem State.sweepGrain_tier : s.sweepGrain true g read =
    (true, if (s.lacking true g (tagEpoch (s.tierTags.get g 0))).isSome then s.preserveTier g else s) := rfl

/-- A grain of another home is left to it. -/
theorem State.sweepGrain_away (h : chipOf (g * 512) ≠ s.chip) : s.sweepGrain false g read = (true, s) := by
  unfold State.sweepGrain
  dsimp only
  rw [if_neg Bool.false_ne_true, if_pos (by simpa using h)]

/-- A grain whose bytes are here is preserved where a snapshot lacks it. -/
theorem State.sweepGrain_here (hchip : chipOf (g * 512) = s.chip) (htxn : s.txns.find? g = none) (heng : s.engineOf g = none)
    (h : read = true ∨ tagFree (s.tag g) = true ∨ heldElsewhere s.chip (s.tag g) = false) : s.sweepGrain false g read =
      (true, if (s.lacking false g (tagEpoch (s.tag g))).isSome then s.preserve g else s) := by
  unfold State.sweepGrain
  dsimp only
  rw [if_neg Bool.false_ne_true, if_neg (by simp [hchip]), if_neg (by simp [htxn]), if_neg (by rcases h with h | h | h <;> simp [h]),
    State.recall, heng]

/-- One that another chip holds is read from there. -/
theorem State.sweepGrain_elsewhere (hchip : chipOf (g * 512) = s.chip) (htxn : s.txns.find? g = none)
    (hfree : tagFree (s.tag g) = false) (helse : heldElsewhere s.chip (s.tag g) = true)
    (hlacks : (s.lacking false g (tagEpoch (s.tag g))).isSome = true) : s.sweepGrain false g false =
      (false, { s.sendMsg (tagPtr (s.tag g) 0) .snapRead g with
        txns := s.txns.insert g { chip := s.chip, getM := false, data := true, next := s.tag g, nextDirty := s.tag g, reply := 3,
                                  epoch := s.epoch } }) := by
  unfold State.sweepGrain
  dsimp only
  rw [if_neg Bool.false_ne_true, if_neg (by simp [hchip]), if_neg (by simp [htxn]), if_pos (by simp [hfree, helse, hlacks])]
  rfl

theorem execSnapshotSweep_reads (hc : col.toNat = c) (hx : s.snap c = x) (hstate : x.state = 2) (hswept : x.swept = false)
    (hgrain : grainAt x.frames x.sweepAt = some (false, g)) (hchip : chipOf (g * 512) = s.chip) (htxn : s.txns.find? g = none)
    (hread : x.read = false) (hfree : tagFree (s.tag g) = false) (helse : heldElsewhere s.chip (s.tag g) = true)
    (hlacks : (s.lacking false g (tagEpoch (s.tag g))).isSome = true) : ∃ t, execSnapshotSweep col s = .next t ∧
      t.snap c = { x with read := true } ∧ (t.txns.find? g).isSome = true ∧ t.mem = s.mem ∧ t.tags = s.tags ∧
      t.sendQ = (s.sendMsg (tagPtr (s.tag g) 0) .snapRead g).sendQ := by
  unfold execSnapshotSweep
  dsimp only
  rw [hc, hx, if_neg (by simp [hstate, hswept]), hgrain]
  dsimp only
  rw [hread, State.sweepGrain_elsewhere hchip htxn hfree helse hlacks]
  refine ⟨_, rfl, ?_, ?_, rfl, rfl, rfl⟩
  · rw [State.snap_modSnap_same]
    change ({ s.snap c with read := _ } : Snap) = _
    rw [hx, htxn]
  · exact (congrArg Option.isSome (SMap.find?_insert_same ..)).trans rfl

end

/-! ### The lake (R311, R358) -/

/-- Where the next record of a colour begins in the lake. -/
def State.lakeAt (s : State) (c : Nat) : Nat := bits (s.cfgVal 0x71) 51 0 + c * s.halfSize + lakeUsed (s.snap c).lake

section
variable {s : State} {c : Nat} {r : LakeRec}

/-- A record that its half and the lake have room for is written there. -/
theorem State.lakeAppend_fits (hhalf : lakeUsed (s.snap c).lake + r.size ≤ s.halfSize)
    (hlake : bitAt (s.cfgVal 0x71) 52 = true ∨ s.lakeAt c + r.size ≤ s.cfgVal 0x56 * 2 ^ 30) :
    s.lakeAppend c r = (s.lakeBytes (s.lakeAt c) r.image).modSnap c fun x => { x with lake := x.lake ++ [r] } := by
  unfold State.lakeAppend
  dsimp only
  rw [if_neg (Nat.not_lt.mpr hhalf), if_neg]
  · rfl
  · rcases hlake with h | h
    · simp [h]
    · intro hc
      exact absurd (of_decide_eq_true (Bool.and_eq_true_iff.mp hc).2) (Nat.not_lt.mpr h)

/-- The bytes of a record change the tier, or what the host is told. -/
theorem State.lakeBytes_eq (s : State) (a : Nat) (bs : List Byte) :
    ∃ h o ac ti, s.lakeBytes a bs = { s with hostLines := h, outbox := o, accesses := ac, tier := ti } := by
  unfold State.lakeBytes
  split
  · obtain ⟨h, o, ac, e⟩ := s.hostPut_tells a bs (bitAt (s.cfgVal 0x55) 0)
    exact ⟨h, o, ac, s.tier, e⟩
  · exact ⟨_, _, _, _, rfl⟩

theorem State.lakeBytes_tier (h : bitAt (s.cfgVal 0x71) 52 = false) (a : Nat) (bs : List Byte) :
    ∃ ti, s.lakeBytes a bs = { s with tier := ti } :=
  ⟨_, if_neg (by simp [h])⟩

theorem State.lakeAppend_frame (hhalf : lakeUsed (s.snap c).lake + r.size ≤ s.halfSize)
    (hlake : bitAt (s.cfgVal 0x71) 52 = true ∨ s.lakeAt c + r.size ≤ s.cfgVal 0x56 * 2 ^ 30) :
    (s.lakeAppend c r).snap c = { s.snap c with lake := (s.snap c).lake ++ [r] } ∧ (s.lakeAppend c r).mem = s.mem ∧
      (s.lakeAppend c r).cfg = s.cfg ∧ (s.lakeAppend c r).chip = s.chip := by
  rw [State.lakeAppend_fits hhalf hlake]
  obtain ⟨h, o, ac, ti, e⟩ := s.lakeBytes_eq (s.lakeAt c) r.image
  rw [e]
  exact ⟨State.snap_modSnap_same .., rfl, rfl, rfl⟩

theorem State.lakeAppend_half_full (h : s.halfSize < lakeUsed (s.snap c).lake + r.size) : s.lakeAppend c r = s.snapFail c 1 := if_pos h

theorem State.lakeAppend_tier_ends (hhalf : lakeUsed (s.snap c).lake + r.size ≤ s.halfSize) (htier : bitAt (s.cfgVal 0x71) 52 = false)
    (h : s.cfgVal 0x56 * 2 ^ 30 < s.lakeAt c + r.size) : s.lakeAppend c r = s.hostErr.snapFail c 1 :=
  (if_neg (Nat.not_lt.mpr hhalf)).trans (if_pos (by simpa [htier, State.lakeAt] using h))

end

theorem execMordantLakeWrite_none {s : State} (h : ∀ p ∈ s.snaps, p.2.staged = []) : execMordantLakeWrite s = .next s := by
  unfold execMordantLakeWrite
  rw [List.find?_eq_none.mpr fun p hp => by simp [h p hp]]

section
variable {s : State} {k : Nat} {y : Snap} {r : LakeRec} {rest : List LakeRec}

/-- The oldest staged record of the only colour goes to its lake. -/
theorem execMordantLakeWrite_record (hsnaps : s.snaps = [(k, y)]) (hstaged : y.staged = r :: rest) (hstate : y.state = 2) :
    execMordantLakeWrite s = .next ((s.modSnap k fun x => { x with staged := rest }).lakeAppend k r) := by
  have hfind : List.find? (fun p : Nat × Snap => !p.2.staged.isEmpty) s.snaps = some (k, y) := by
    rw [hsnaps, List.find?_cons_of_pos (by simp [hstaged])]
  unfold execMordantLakeWrite
  rw [hfind]
  dsimp only
  rw [hstaged]
  dsimp only
  rw [if_pos (by simp [hstate])]

variable (hsnaps : s.snaps = [(k, y)])
include hsnaps

theorem snap_only : s.snap k = y := by simp [State.snap, hsnaps, SMap.get, SMap.find?]

theorem snap_unstaged : (s.modSnap k fun x => { x with staged := rest }).snap k = { y with staged := rest } := by
  rw [State.snap_modSnap_same, snap_only hsnaps]

theorem execMordantLakeWrite_writes (hstaged : y.staged = r :: rest) (hstate : y.state = 2) (htier : bitAt (s.cfgVal 0x71) 52 = false)
    (hhalf : lakeUsed y.lake + r.size ≤ s.halfSize)
    (hlake : bits (s.cfgVal 0x71) 51 0 + k * s.halfSize + lakeUsed y.lake + r.size ≤ s.cfgVal 0x56 * 2 ^ 30) :
    ∃ t, execMordantLakeWrite s = .next t ∧ t.snap k = { y with staged := rest, lake := y.lake ++ [r] } ∧ t.mem = s.mem ∧
      t.outbox = s.outbox := by
  have hsnap := snap_unstaged (rest := rest) hsnaps
  refine ⟨_, execMordantLakeWrite_record hsnaps hstaged hstate, ?_⟩
  rw [State.lakeAppend_fits (by rw [hsnap]; exact hhalf) (.inr (by rw [State.lakeAt, hsnap]; exact hlake))]
  obtain ⟨ti, e⟩ := State.lakeBytes_tier (s := s.modSnap k fun x => { x with staged := rest }) htier _ r.image
  rw [e]
  refine ⟨(State.snap_modSnap_same ..).trans ?_, rfl, rfl⟩
  exact congrArg (fun z : Snap => { z with lake := z.lake ++ [r] }) hsnap

theorem execMordantLakeWrite_half_full (hstaged : y.staged = r :: rest) (hstate : y.state = 2)
    (h : s.halfSize < lakeUsed y.lake + r.size) : ∃ t, execMordantLakeWrite s = .next t ∧ (t.snap k).state = 5 ∧ (t.snap k).cause = 1 ∧
      t.mem = s.mem ∧ t.tier = s.tier := by
  have hsnap := snap_unstaged (rest := rest) hsnaps
  refine ⟨_, execMordantLakeWrite_record hsnaps hstaged hstate, ?_⟩
  rw [State.lakeAppend_half_full (by rw [hsnap]; exact h)]
  obtain ⟨hfailed, hcause, hmem, htier, -⟩ := State.snapFail_frame (cause := 1) ((congrArg Snap.state hsnap).trans hstate)
  exact ⟨hfailed, hcause, hmem, htier⟩

theorem execMordantLakeWrite_tier_ends (hstaged : y.staged = r :: rest) (hstate : y.state = 2) (htier : bitAt (s.cfgVal 0x71) 52 = false)
    (hhalf : lakeUsed y.lake + r.size ≤ s.halfSize)
    (h : s.cfgVal 0x56 * 2 ^ 30 < bits (s.cfgVal 0x71) 51 0 + k * s.halfSize + lakeUsed y.lake + r.size) :
    ∃ t, execMordantLakeWrite s = .next t ∧ (t.snap k).state = 5 ∧ (t.snap k).cause = 1 ∧ t.mem = s.mem ∧ t.tier = s.tier ∧
      t.cfg = s.hostErr.cfg := by
  have hsnap := snap_unstaged (rest := rest) hsnaps
  refine ⟨_, execMordantLakeWrite_record hsnaps hstaged hstate, ?_⟩
  have hat : (s.modSnap k fun x => { x with staged := rest }).lakeAt k = bits (s.cfgVal 0x71) 51 0 + k * s.halfSize + lakeUsed y.lake := by
    rw [State.lakeAt, hsnap]; rfl
  rw [State.lakeAppend_tier_ends (s := s.modSnap k fun x => { x with staged := rest }) (by rw [hsnap]; exact hhalf) htier
    (by rw [hat]; exact h)]
  exact State.snapFail_frame (s := (s.modSnap k fun x => { x with staged := rest }).hostErr) ((congrArg Snap.state hsnap).trans hstate)

end

/-! ### Completion and sealing (R357) -/

section
variable {s : State} {col : BitVec 1} {c : Nat} {x : Snap} {chip : Nat}

theorem execSnapshotChipComplete_waits (h : (s.snap col.toNat).state ≠ 2 ∨ (s.snap col.toNat).awaiting ≠ [] ∨
    (s.snap col.toNat).swept = false ∨ (s.snap col.toNat).staged ≠ []) : execSnapshotChipComplete col s = .next s :=
  if_pos (by rcases h with h | h | h | h <;> simp [h])

/-- A chip that has its markers, its sweep and its records writes the end record and reports. -/
theorem execSnapshotChipComplete_reports (hc : col.toNat = c) (hx : s.snap c = x) (hstate : x.state = 2) (hawaiting : x.awaiting = [])
    (hswept : x.swept = true) (hstaged : x.staged = []) (hhalf : lakeUsed x.lake + (endRecord x.lake).size ≤ s.halfSize)
    (htier : bitAt (s.cfgVal 0x71) 52 = false)
    (hlake : bits (s.cfgVal 0x71) 51 0 + c * s.halfSize + lakeUsed x.lake + (endRecord x.lake).size ≤ s.cfgVal 0x56 * 2 ^ 30) :
    ∃ u, execSnapshotChipComplete col s = .next (u.snapReport c) ∧
      u.snap c = { x with state := 3, lake := x.lake ++ [endRecord x.lake] } ∧ ∃ ti m, u = { s with tier := ti, snaps := m } := by
  obtain ⟨ti, e⟩ := State.lakeBytes_tier htier (s.lakeAt c) (endRecord x.lake).image
  have happend : s.lakeAppend c (endRecord x.lake) =
      State.modSnap { s with tier := ti } c fun y => { y with lake := y.lake ++ [endRecord x.lake] } := by
    rw [State.lakeAppend_fits (by rw [hx]; exact hhalf) (.inr (by rw [State.lakeAt, hx]; exact hlake)), e]
  have hsnap : (s.lakeAppend c (endRecord x.lake)).snap c = { x with lake := x.lake ++ [endRecord x.lake] } := by
    rw [happend, State.snap_modSnap_same]
    exact congrArg (fun z : Snap => { z with lake := z.lake ++ [endRecord x.lake] }) hx
  refine ⟨(s.lakeAppend c (endRecord x.lake)).modSnap c fun y => { y with state := 3 }, ?_, ?_, ti,
    ((s.lakeAppend c (endRecord x.lake)).modSnap c fun y => { y with state := 3 }).snaps, ?_⟩
  · unfold execSnapshotChipComplete
    dsimp only
    rw [hc, hx, if_neg (by simp [hstate, hawaiting, hswept, hstaged]), hsnap, if_neg (by simp [hstate])]
  · rw [State.snap_modSnap_same, hsnap]
  · rw [happend]
    rfl

theorem State.snapReport_cases (s : State) (c : Nat) : (∀ k, (s.snapReport c).snap k = s.snap k) ∧ (s.snapReport c).outbox = s.outbox ∧
    (s.snapReport c).mem = s.mem ∧
    ((s.snap c).initiator ≠ s.chip → (s.snapReport c).agenda = s.agenda ∧ (s.snapReport c).sendQ = (s.enqueue
      { chip := (s.snap c).initiator, cls := 1, role := .report, info := c % 2, payload := [BitVec.ofNat 8 c],
        epoch := (s.snap c).epoch }).sendQ) ∧
    ((s.snap c).initiator = s.chip → (s.snapReport c).sendQ = s.sendQ ∧
      (s.snapReport c).agenda = s.agenda ++ [(0, .snapshotReportReceive s.chip (BitVec.ofNat 1 c))]) := by
  unfold State.snapReport
  dsimp only
  split
  · next h => exact ⟨fun _ => rfl, rfl, rfl, fun hne => absurd (beq_iff_eq.mp h) hne, fun _ => ⟨rfl, rfl⟩⟩
  · next h => exact ⟨fun _ => rfl, rfl, rfl, fun _ => ⟨rfl, rfl⟩, fun he => absurd (beq_iff_eq.mpr he) h⟩

theorem execSnapshotChipComplete_completes (hc : col.toNat = c) (hx : s.snap c = x) (hstate : x.state = 2) (hawaiting : x.awaiting = [])
    (hswept : x.swept = true) (hstaged : x.staged = []) (hhalf : lakeUsed x.lake + (endRecord x.lake).size ≤ s.halfSize)
    (htier : bitAt (s.cfgVal 0x71) 52 = false)
    (hlake : bits (s.cfgVal 0x71) 51 0 + c * s.halfSize + lakeUsed x.lake + (endRecord x.lake).size ≤ s.cfgVal 0x56 * 2 ^ 30) :
    ∃ t, execSnapshotChipComplete col s = .next t ∧ t.snap c = { x with state := 3, lake := x.lake ++ [endRecord x.lake] } ∧
      t.outbox = s.outbox ∧ t.mem = s.mem ∧
      (x.initiator ≠ s.chip → t.agenda = s.agenda ∧ t.sendQ = (s.enqueue
        { chip := x.initiator, cls := 1, role := .report, info := c, payload := [BitVec.ofNat 8 c], epoch := x.epoch }).sendQ) ∧
      (x.initiator = s.chip → t.sendQ = s.sendQ ∧ t.agenda = s.agenda ++ [(0, .snapshotReportReceive s.chip col)]) := by
  obtain ⟨u, ht, hu, ti, m, rfl⟩ := execSnapshotChipComplete_reports hc hx hstate hawaiting hswept hstaged hhalf htier hlake
  obtain ⟨hcolour, hout, hmem, hother, hown⟩ := State.snapReport_cases { s with tier := ti, snaps := m } c
  rw [hu] at hother hown
  have hinfo : c % 2 = c := Nat.mod_eq_of_lt (hc ▸ col.isLt)
  have hcol : BitVec.ofNat 1 c = col := by rw [← hc, BitVec.ofNat_toNat, BitVec.setWidth_eq]
  rw [hinfo] at hother
  rw [hcol] at hown
  exact ⟨_, ht, (hcolour c).trans hu, hout, hmem, hother, hown⟩

/-- A colour with the report of one more chip. -/
def Snap.reported (chip : Nat) (y : Snap) : Snap := { y with reports := if y.reports.contains chip then y.reports else y.reports ++ [chip] }

theorem Snap.mem_reported {y : Snap} {d : Nat} : d ∈ (y.reported chip).reports ↔ d = chip ∨ d ∈ y.reports := by
  unfold Snap.reported
  dsimp only
  split
  · next h => exact ⟨.inr, fun hd => hd.elim (fun e => e ▸ List.contains_iff_mem.mp h) id⟩
  · rw [List.mem_append, List.mem_singleton, or_comm]

theorem execSnapshotReportReceive_early (hc : col.toNat = c)
    (h : (s.snap c).state ≠ 3 ∨ ∃ d ∈ s.domChips, d ≠ chip ∧ d ∉ (s.snap c).reports) :
    execSnapshotReportReceive chip col s = .next (s.modSnap c (Snap.reported chip)) := by
  unfold execSnapshotReportReceive
  dsimp only
  rw [hc]
  refine if_neg fun hall => ?_
  obtain ⟨hstate, hall⟩ := Bool.and_eq_true_iff.mp hall
  rw [State.snap_modSnap_same] at hstate hall
  rcases h with h | ⟨d, hd, hne, hnot⟩
  · exact h (beq_iff_eq.mp hstate)
  · exact (Snap.mem_reported.mp (List.contains_iff_mem.mp (List.all_eq_true.mp hall d hd))).elim hne hnot

/-- The record that seals a snapshot: the tags of the domain and of the snapshot. -/
def State.sealRecord (s : State) (c : Nat) : LakeRec :=
  { ty := 14, key := 0, body := toBytes 4 (s.cfgVal 0x77) ++ toBytes 4 (s.cfgVal 0x74 + s.cfgVal 0x75 * 2 ^ 12) ++
      toBytes 4 (s.snap c).tag ++ toBytes 4 0 }

theorem State.sealRecord_size (s : State) (c : Nat) : (s.sealRecord c).size = 32 := by simp [State.sealRecord, LakeRec.size, roundUp]

/-- What a chip does once the last report has come. -/
theorem execSnapshotReportReceive_last (hc : col.toNat = c) {u : State} (hu : s.modSnap c (Snap.reported chip) = u) (hstate : (u.snap c).state = 3)
    (hall : u.domChips.all (u.snap c).reports.contains = true) {v : State} (hv : u.lakeAppend c (u.sealRecord c) = v)
    (hstate' : (v.snap c).state = 3) {w : State} (hw : v.modSnap c (fun x => { x with state := 4 }) = w) :
    execSnapshotReportReceive chip col s =
      .next (w.domChips.foldl (fun (s : State) d => if d == s.chip then s else s.send (.notice d "Seal" [c])) w) := by
  subst hu hv hw hc
  exact (if_pos (Bool.and_eq_true_iff.mpr ⟨beq_iff_eq.mpr hstate, hall⟩)).trans (if_neg fun h => bne_iff_ne.mp h hstate')

theorem State.domChips_congr {s t : State} (h : t.cfg = s.cfg) : t.domChips = s.domChips := by
  unfold State.domChips
  rw [State.cfgVal_congr (s := s) (t := t) (k := 0x75) (by rw [h]), State.cfgVal_congr (s := s) (t := t) (k := 0x74) (by rw [h])]

/-- The chip that seals a snapshot tells every other chip of it. -/
theorem State.seal_tells (u : State) (c : Nat) :
    let t := u.domChips.foldl (fun (s : State) d => if d == s.chip then s else s.send (.notice d "Seal" [c])) u
    t.snap c = u.snap c ∧ t.mem = u.mem ∧ ∀ d ∈ u.domChips, d ≠ u.chip → .notice d "Seal" [c] ∈ t.outbox := by
  dsimp only
  rw [State.foldl_notice_eq]
  refine ⟨rfl, rfl, fun d hd hne => ?_⟩
  exact List.mem_append_right _ (List.mem_map.mpr ⟨d, List.mem_filter.mpr ⟨hd, by simpa using hne⟩, rfl⟩)

/-- The last report writes the seal record, seals the snapshot and tells every other chip. -/
theorem execSnapshotReportReceive_seals (hc : col.toNat = c) (hstate : (s.snap c).state = 3)
    (hall : ∀ d ∈ s.domChips, d = chip ∨ d ∈ (s.snap c).reports) (hhalf : lakeUsed (s.snap c).lake + 32 ≤ s.halfSize)
    (hlake : bitAt (s.cfgVal 0x71) 52 = true ∨
      bits (s.cfgVal 0x71) 51 0 + c * s.halfSize + lakeUsed (s.snap c).lake + 32 ≤ s.cfgVal 0x56 * 2 ^ 30) :
    ∃ t, execSnapshotReportReceive chip col s = .next t ∧ (t.snap c).state = 4 ∧ t.mem = s.mem ∧
      ∀ d ∈ s.domChips, d ≠ s.chip → .notice d "Seal" [c] ∈ t.outbox := by
  have hsnap := State.snap_modSnap_same s c (Snap.reported chip)
  generalize hu : s.modSnap c (Snap.reported chip) = u at hsnap
  have hframe : u.mem = s.mem ∧ u.cfg = s.cfg ∧ u.chip = s.chip := by rw [← hu]; exact ⟨rfl, rfl, rfl⟩
  obtain ⟨humem, hucfg, huchip⟩ := hframe
  have hvals : ∀ n, u.cfgVal n = s.cfgVal n := fun n => State.cfgVal_congr (by rw [hucfg])
  have hhalfSize : u.halfSize = s.halfSize := by rw [State.halfSize, hvals]; rfl
  obtain ⟨hcolour, hmem, hcfg, hchip⟩ := State.lakeAppend_frame (s := u) (c := c) (r := u.sealRecord c)
    (by rw [hsnap, State.sealRecord_size, hhalfSize]; exact hhalf)
    (by rw [State.lakeAt, hsnap, State.sealRecord_size, hhalfSize, hvals, hvals]; exact hlake)
  have hall' : u.domChips.all (u.snap c).reports.contains = true := by
    rw [State.domChips_congr hucfg, hsnap]
    exact List.all_eq_true.mpr fun d hd => List.contains_iff_mem.mpr (Snap.mem_reported.mpr (hall d hd))
  have hstate' : (u.snap c).state = 3 := (congrArg Snap.state hsnap).trans hstate
  refine ⟨_, execSnapshotReportReceive_last hc hu hstate' hall' rfl ((congrArg Snap.state hcolour).trans hstate') rfl, ?_⟩
  generalize u.lakeAppend c (u.sealRecord c) = v at *
  obtain ⟨hsealed, hmem', htold⟩ := State.seal_tells (v.modSnap c fun x => { x with state := 4 }) c
  rw [State.snap_modSnap_same] at hsealed
  refine ⟨congrArg Snap.state hsealed, (hmem'.trans hmem).trans humem, fun d hd hne => htold d ?_ ?_⟩
  · exact (State.domChips_congr (hcfg.trans hucfg)).symm ▸ hd
  · exact fun he => hne (he.trans (hchip.trans huchip))

end

/-! ### Sealing elsewhere and failures (R356, R357) -/

section
variable {s : State} {col : BitVec 1} {c : Nat} {x : Snap}

theorem execSealNoticeReceive_eq : execSealNoticeReceive col s =
    .next (if (s.snap col.toNat).state = 3 then s.modSnap col.toNat fun y => { y with state := 4 } else s) := by
  unfold execSealNoticeReceive
  by_cases h : (s.snap col.toNat).state = 3
  · rw [if_pos (beq_iff_eq.mpr h), if_pos h]
  · rw [if_neg (by simpa using h), if_neg h]

theorem execFailureNoticeReceive_recorded (hc : col.toNat = c) (hx : s.snap c = x) (hstate : x.state = 2 ∨ x.state = 3) :
    execFailureNoticeReceive col s = .next (if s.cfgVal 0x73 == s.chip || (x.initiator == s.chip && x.epoch != 0) then
      (s.modSnap c fun y => { y with state := 5, cause := 4, marks := [] }).tellFailure c s.chip
      else s.modSnap c fun y => { y with state := 5, cause := 4, marks := [] }) := by
  have hfail : s.failSnap c 4 = s.modSnap c fun y => { y with state := 5, cause := 4, marks := [] } :=
    State.failSnap_recorded (by rw [hx]; omega) (by rw [hx]; omega)
  have hne : (x.state != 5) = true := by rw [bne_iff_ne]; omega
  unfold execFailureNoticeReceive
  dsimp only
  rw [hc, hx, hfail, hne, Bool.true_and]
  rfl

/-- A chip that still records takes the epoch of the failed record. -/
theorem execFailureNoticeReceive_recording (hc : col.toNat = c) (hx : s.snap c = x) (hstate : x.state = 1) (hops : s.remoteOps = []) :
    ∃ t, execFailureNoticeReceive col s = .next t ∧ (t.snap c).state = 5 ∧ (t.snap c).cause = 4 ∧ t.epoch = x.epoch ∧ t.heldMsgs = [] ∧
      t.mem = s.mem := by
  obtain ⟨hepoch, hcolour, hmem, hheld, -⟩ :=
    State.takeEpoch_frame (s := s.modSnap c fun y => { y with state := 5, cause := 4, marks := [] }) hops (s.snap c).epoch
  rw [← State.failSnap_recording ((congrArg Snap.state hx).trans hstate)] at hepoch hcolour hmem hheld
  have hsnap := (hcolour c).trans (State.snap_modSnap_same ..)
  unfold execFailureNoticeReceive
  dsimp only
  rw [hc]
  generalize s.failSnap c 4 = u at *
  refine ⟨_, rfl, ?_⟩
  obtain ⟨o, ho⟩ := u.tellFailure_eq c u.chip
  split
  · rw [ho]
    exact ⟨congrArg Snap.state hsnap, congrArg Snap.cause hsnap, hepoch.trans (congrArg Snap.epoch hx), hheld, hmem⟩
  · exact ⟨congrArg Snap.state hsnap, congrArg Snap.cause hsnap, hepoch.trans (congrArg Snap.epoch hx), hheld, hmem⟩

theorem execFailureNoticeReceive_failed (h : (s.snap col.toNat).state = 5) : execFailureNoticeReceive col s = .next s := by
  unfold execFailureNoticeReceive
  dsimp only
  rw [State.failSnap_over (.inr (by omega)), if_neg (by simp [h])]

theorem execFailureNoticeReceive_over
    (h : (s.snap col.toNat).state = 0 ∨ (s.snap col.toNat).state = 4 ∨ (s.snap col.toNat).state = 6) (hcfg : s.cfgVal 0x73 ≠ s.chip)
    (hinit : (s.snap col.toNat).initiator ≠ s.chip) : execFailureNoticeReceive col s = .next s := by
  unfold execFailureNoticeReceive
  dsimp only
  rw [State.failSnap_over (by omega), if_neg (by simp [hcfg, hinit])]

/-! ### Drops (R354, R357, R364) -/

theorem State.dropSnap_recording (h : (s.snap c).state = 1) : s.dropSnap c = s.modSnap c fun y => { y with dropHeld := true } := by
  unfold State.dropSnap
  rw [h]
  rfl

theorem State.dropSnap_recorded (h : 2 ≤ (s.snap c).state) (h' : (s.snap c).state ≤ 5) :
    s.dropSnap c = s.modSnap c fun y => { y with state := 6, lake := [], staged := [], marks := [] } := by
  have hcases : (s.snap c).state = 2 ∨ (s.snap c).state = 3 ∨ (s.snap c).state = 4 ∨ (s.snap c).state = 5 := by omega
  unfold State.dropSnap
  rcases hcases with h | h | h | h <;> rw [h] <;> rfl

theorem State.dropSnap_none (h : (s.snap c).state = 0 ∨ 5 < (s.snap c).state) : s.dropSnap c = s := by
  unfold State.dropSnap
  split
  any_goals omega
  rfl

theorem execSnapshotDropFinish_other (h : (s.snap col.toNat).state ≠ 6) : execSnapshotDropFinish col s = .next s :=
  if_pos (by simpa using h)

/-- Steps that move tags of grains only leave the rest when they are taken one after another. -/
theorem State.foldl_tags_eq {α : Type} {f : State → α → State} (hf : ∀ u a, ∃ tg tt, f u a = { u with tags := tg, tierTags := tt })
    (l : List α) (s : State) : ∃ tg tt, l.foldl f s = { s with tags := tg, tierTags := tt } := by
  induction l generalizing s with
  | nil => exact ⟨_, _, rfl⟩
  | cons a l ih =>
    obtain ⟨tg, tt, h⟩ := ih (f s a)
    obtain ⟨_, _, ha⟩ := hf s a
    exact ⟨tg, tt, h.trans (by rw [ha])⟩

/-- Relabelling moves the epochs of grains, in HBM and in the tier, and nothing else. -/
theorem State.relabelAll_eq (s : State) (x : Snap) : ∃ tg tt, s.relabelAll x = { s with tags := tg, tierTags := tt } := by
  refine State.foldl_tags_eq (fun u n => ?_) _ s
  split
  · exact ⟨_, _, rfl⟩
  · split
    · exact ⟨_, _, rfl⟩
    · exact ⟨_, _, rfl⟩
  · exact ⟨_, _, rfl⟩

/-- A notice goes out to another chip, and is on the agenda of this one. -/
theorem State.snapNotice_cases (s : State) (chip : Nat) (kind : String) (c : Nat) (i : Instr) :
    (s.snapNotice chip kind c i).snap c = s.snap c ∧ (s.snapNotice chip kind c i).mem = s.mem ∧
      (s.snapNotice chip kind c i).snapSaved = s.snapSaved ∧ (s.snapNotice chip kind c i).tags = s.tags ∧
      (chip ≠ s.chip → (s.snapNotice chip kind c i).outbox = s.outbox ++ [.notice chip kind [c]]) ∧
      (chip = s.chip → (s.snapNotice chip kind c i).agenda = s.agenda ++ [(0, i)]) := by
  unfold State.snapNotice
  split
  · next h => exact ⟨rfl, rfl, rfl, rfl, fun hne => absurd (beq_iff_eq.mp h) hne, fun _ => rfl⟩
  · next h => exact ⟨rfl, rfl, rfl, rfl, fun _ => rfl, fun he => absurd (beq_iff_eq.mpr he) h⟩

/-- The end of a drop makes the colour idle and tells the initiator. -/
theorem execSnapshotDropFinish_drops (hc : col.toNat = c) (hx : s.snap c = x) (hstate : x.state = 6) :
    ∃ t, execSnapshotDropFinish col s = .next t ∧ (t.snap c).state = 0 ∧ (t.snap c).lake = [] ∧ t.mem = s.mem ∧
      t.snapSaved.find? c = none ∧ (x.initiator ≠ s.chip → t.outbox = s.outbox ++ [.notice x.initiator "DropReport" [c]]) ∧
      (x.initiator = s.chip → t.agenda = s.agenda ++ [(0, .dropReportReceive s.chip col)]) ∧
      (x.swept = true → t.tags = s.tags) ∧ (x.swept = false → t.tags = (s.relabelAll x).tags) := by
  obtain ⟨tg, tt, hrelabel, htags⟩ : ∃ tg tt, (if x.swept then s else s.relabelAll x) = { s with tags := tg, tierTags := tt } ∧
      (x.swept = true → tg = s.tags) ∧ (x.swept = false → tg = (s.relabelAll x).tags) := by
    cases x.swept with
    | true => exact ⟨s.tags, s.tierTags, rfl, fun _ => rfl, nofun⟩
    | false =>
      obtain ⟨tg, tt, e⟩ := s.relabelAll_eq x
      exact ⟨tg, tt, e, nofun, fun _ => by rw [e]⟩
  have hsnap := State.snap_modSnap_same { s with tags := tg, tierTags := tt } c fun x =>
    { epoch := x.epoch, initiator := x.initiator, dropReports := x.dropReports }
  obtain ⟨hcolour, hmem, hsaved, htags', hout, hagenda⟩ := State.snapNotice_cases
    { State.modSnap { s with tags := tg, tierTags := tt } c fun x =>
        { epoch := x.epoch, initiator := x.initiator, dropReports := x.dropReports } with snapSaved := s.snapSaved.erase c }
    x.initiator "DropReport" c (.dropReportReceive s.chip col)
  have hcolour' := hcolour.trans hsnap
  refine ⟨_, ?_, congrArg Snap.state hcolour', congrArg Snap.lake hcolour', hmem, ?_, hout, hagenda, fun h => htags'.trans (htags.1 h),
    fun h => htags'.trans (htags.2 h)⟩
  · unfold execSnapshotDropFinish
    dsimp only
    rw [hc, hx, if_neg (by simp [hstate]), hrelabel]
    rfl
  · rw [hsaved]
    exact SMap.find?_erase_same ..

end

/-! ### Markers (R355, R356) -/

section
variable {s : State} {src cls init : Nat}

theorem State.startRecord_heldMsgs (s : State) (newer initiator tag : Nat) : (s.startRecord newer initiator tag).heldMsgs = s.heldMsgs := by
  unfold State.startRecord
  extract_lets epoch old x
  split <;> rfl

/-- The marker of the next epoch starts its record and is held for it. -/
theorem execMarkerReceive_next : execMarkerReceive src cls (s.epoch + 1) init (s.cfgVal 0x77) s =
    .next { s.startRecord (s.epoch + 1) init 0 with
      heldMsgs := s.heldMsgs ++ [.markerReceive src cls (s.epoch + 1) init (s.cfgVal 0x77)] } := by
  have harrives : s.markerArrives src cls (s.epoch + 1) init (s.cfgVal 0x77) = .wait (s.startRecord (s.epoch + 1) init 0) := by
    unfold State.markerArrives
    dsimp only
    rw [if_neg (by simp), if_pos (Nat.lt_succ_self _)]
  unfold execMarkerReceive
  rw [harrives]
  dsimp only
  rw [State.startRecord_heldMsgs]

/-- What a delivered marker leaves: its channel has taken its seq, and its place in the channel is noted for restoration. -/
theorem execMarkerReceive_done {epoch dtag : Nat} {u : State} (h : s.markerArrives src cls epoch init dtag = .done u) :
    ∃ t, execMarkerReceive src cls epoch init dtag s = .next t ∧
      (t.recvOf (chanKey src cls)).next = ((u.recvOf (chanKey src cls)).next + 1) % 2 ^ 32 ∧ t.snaps = u.snaps ∧ t.epoch = u.epoch ∧
      t.mem = u.mem := by
  unfold execMarkerReceive
  rw [h]
  refine ⟨_, rfl, ?_, rfl, rfl, rfl⟩
  exact congrArg RecvChan.next (SMap.get_insert_same ..)

/-- The marker of a recorded epoch ends the logging of its channel. -/
theorem execMarkerReceive_recorded {epoch : Nat} (h : epoch ≤ s.epoch) : ∃ t, execMarkerReceive src cls epoch init (s.cfgVal 0x77) s = .next t ∧
    (∀ y, s.snaps.find? (epoch % 2) = some y → y.epoch = epoch →
      (t.snap (epoch % 2)).awaiting = y.awaiting.filter (· != (src, cls))) ∧
    (t.recvOf (chanKey src cls)).next = ((s.recvOf (chanKey src cls)).next + 1) % 2 ^ 32 ∧ t.mem = s.mem := by
  have harrives : s.markerArrives src cls epoch init (s.cfgVal 0x77) = .done { s with snaps := s.snaps.modify (epoch % 2) fun x =>
      if x.epoch == epoch then { x with awaiting := x.awaiting.filter (· != (src, cls)) } else x } := by
    unfold State.markerArrives
    dsimp only
    rw [if_neg (by simp; omega), if_neg (Nat.not_lt.mpr h)]
  obtain ⟨t, ht, hrecv, hsnaps, -, hmem⟩ := execMarkerReceive_done harrives
  refine ⟨t, ht, fun y hy hepoch => ?_, hrecv, hmem⟩
  rw [State.snap, hsnaps]
  change ((s.snaps.modify _ _).get _ _).awaiting = _
  rw [SMap.get, SMap.find?_modify_same, hy]
  exact congrArg Snap.awaiting (if_pos (beq_iff_eq.mpr hepoch))

/-- A marker of another domain fails the snapshot that it names where the colour is idle. -/
theorem execMarkerReceive_bad {epoch dtag : Nat} (h : dtag ≠ s.cfgVal 0x77) : ∃ t, execMarkerReceive src cls epoch init dtag s = .next t ∧
    ((s.snap (epoch % 2)).state = 0 → (t.snap (epoch % 2)).state = 5 ∧ (t.snap (epoch % 2)).cause = 3) ∧
    ((s.snap (epoch % 2)).state ≠ 0 → t.snaps = s.snaps) ∧ t.epoch = s.epoch ∧ t.mem = s.mem := by
  have harrives : s.markerArrives src cls epoch init dtag = .done (State.tellFailure (if (s.snap (epoch % 2)).state == 0 then
      { s with snaps := s.snaps.insert (epoch % 2) { state := 5, epoch := epoch, cause := 3, initiator := init } } else s) (epoch % 2) init) :=
    if_pos (by simp [h])
  obtain ⟨t, ht, -, hsnaps, hepoch, hmem⟩ := execMarkerReceive_done harrives
  obtain ⟨o, ho⟩ := State.tellFailure_eq (if (s.snap (epoch % 2)).state == 0 then
      { s with snaps := s.snaps.insert (epoch % 2) { state := 5, epoch := epoch, cause := 3, initiator := init } } else s) (epoch % 2) init
  rw [ho] at hsnaps hepoch hmem
  by_cases hstate : (s.snap (epoch % 2)).state = 0
  · rw [if_pos (by simp [hstate])] at hsnaps hepoch hmem
    have hsnap : t.snap (epoch % 2) = { state := 5, epoch := epoch, cause := 3, initiator := init } := by
      rw [State.snap, hsnaps]
      exact SMap.get_insert_same ..
    exact ⟨t, ht, fun _ => by rw [hsnap]; exact ⟨rfl, rfl⟩, fun hne => absurd hstate hne, hepoch, hmem⟩
  · rw [if_neg (by simp [hstate])] at hsnaps hepoch hmem
    exact ⟨t, ht, fun he => absurd he hstate, fun _ => hsnaps, hepoch, hmem⟩

end

/-! ### Restoration (R359 to R361) -/

section
variable {s : State} {col : BitVec 1} {c : Nat} {x : Snap} {v : Saved}

theorem execSnapshotRestoration_none (h : s.restorable col.toNat = none) : execSnapshotRestoration col s = .next s := by
  unfold execSnapshotRestoration
  rw [h]

theorem State.restorable_unsealed (h : (s.snap c).state ≠ 4)
    (h' : s.snapSaved.find? c ≠ none ∨ (s.snap c).state ≠ 0 ∨ s.anyLive = true) : s.restorable c = none := by
  unfold State.restorable
  dsimp only
  split
  · exact if_neg (by simp [h])
  next hnone =>
    refine if_neg ?_
    rcases h' with h' | h' | h'
    · exact absurd hnone h'
    · simp [h']
    · simp [h']

theorem State.restorable_unsaved (h : (s.snap c).state = 4) (h' : s.snapSaved.find? c = none) : s.restorable c = none := by
  unfold State.restorable
  dsimp only
  rw [h']
  exact if_neg (by simp [h])

theorem State.restorable_sealed (h : (s.snap c).state = 4) (h' : s.snapSaved.find? c = some v) :
    s.restorable c = some ((s.snap c).epoch, v, (s.snaps.flatMap fun p => p.2.lake) ++ Config.lakesElsewhere s.freeCtr) := by
  unfold State.restorable
  dsimp only
  rw [h']
  exact if_pos (by simp [h])

/-- Putting a grain back changes memory, the tier and their tags. -/
theorem State.restoreGrain_eq (s : State) (epoch : Nat) (r : Nat × BitVec 64 × List Byte) :
    ∃ m tg ti tt, s.restoreGrain epoch r = { s with mem := m, tags := tg, tier := ti, tierTags := tt } := by
  unfold State.restoreGrain
  extract_lets t a
  split
  · exact ⟨_, _, _, _, rfl⟩
  · exact ⟨_, _, _, _, rfl⟩

theorem State.foldl_restoreGrain_eq (epoch : Nat) (rs : List (Nat × BitVec 64 × List Byte)) (s : State) :
    ∃ m tg ti tt, rs.foldl (fun (s : State) r => s.restoreGrain epoch r) s = { s with mem := m, tags := tg, tier := ti, tierTags := tt } := by
  induction rs generalizing s with
  | nil => exact ⟨_, _, _, _, rfl⟩
  | cons r rs ih =>
    obtain ⟨m, tg, ti, tt, h⟩ := ih (s.restoreGrain epoch r)
    obtain ⟨_, _, _, _, hr⟩ := s.restoreGrain_eq epoch r
    exact ⟨m, tg, ti, tt, h.trans (by rw [hr])⟩

/-- Where no command is a fabric command, none begins. -/
theorem State.fabricStep_none {u : State} (h : ∀ p ∈ u.commands, p.2.kind.fabric = false) : u.fabricStep = u := by
  have hfold : ∀ l : List (Nat × Command), (∀ p ∈ l, p.2.kind.fabric = false) →
      l.foldl (fun (s : State) p => s.beginFabric p.1 p.2) u = u := by
    intro l hl
    induction l with
    | nil => rfl
    | cons p l ih =>
      rw [List.foldl_cons, State.beginFabric, if_pos (by simp [hl p (.head _)])]
      exact ih fun q hq => hl q (.tail _ hq)
  exact hfold _ h

/-- A chip that holds nothing has, after its grains are back, what the snapshot recorded and nothing else. -/
theorem State.restored_frame {u w : State} {epoch : Nat}
    (hw : ∃ m tg ti tt, w = { u with mem := m, tags := tg, tier := ti, tierTags := tt }) (hcommands : v.commands = [])
    (hfabric : ∀ p ∈ u.commands, p.2.kind.fabric = false) (hlines : u.lines = []) (hheld : u.held = []) (htxns : u.txns = [])
    (hcore : u.coreTlb = []) (hcluster : u.clusterTlb = []) :
    let t := ((w.reload epoch v).restoreChannels v).fabricStep.formAll
    t.epoch = epoch ∧ t.sides = v.sides ∧ t.accesses = (v.accesses.map fun a => { a with sent := false }) ∧ t.issuing = [] ∧
      t.lines = [] ∧ t.held = [] ∧ t.txns = [] ∧ t.coreTlb = [] ∧ t.clusterTlb = [] ∧ t.sendQ = [] ∧ t.lostSends = v.lostSends := by
  obtain ⟨m, tg, ti, tt, rfl⟩ := hw
  dsimp only
  generalize hw : ({ u with mem := m, tags := tg, tier := ti, tierTags := tt } : State) = w
  have hcmds : ∀ p ∈ ((w.reload epoch v).restoreChannels v).commands, p.2.kind.fabric = false := by
    intro p hp
    change p ∈ List.foldl _ (w.commands.filter _) (v.commands.map _) at hp
    rw [hcommands] at hp
    have hpw : p ∈ w.commands := List.mem_of_mem_filter hp
    subst hw
    exact hfabric p hpw
  rw [State.fabricStep_none hcmds, (State.formAll_reforms _).state]
  subst hw
  exact ⟨rfl, rfl, rfl, rfl, hlines, hheld, htxns, hcore, hcluster, rfl, rfl⟩

/-- The chip takes what the snapshot recorded, and holds nothing of its own that is under way. -/
theorem execSnapshotRestoration_restores (hc : col.toNat = c) (hx : s.snap c = x) (hstate : x.state = 4) (hv : s.snapSaved.find? c = some v)
    (hcommands : v.commands = []) (hcombines : v.combines = []) (hfabric : ∀ p ∈ s.commands, p.2.kind.fabric = false) :
    ∃ t, execSnapshotRestoration col s = .next t ∧ t.epoch = x.epoch ∧ t.sides = v.sides ∧
      t.accesses = (v.accesses.map fun a => { a with sent := false }) ∧ t.issuing = [] ∧ t.lines = [] ∧ t.held = [] ∧ t.txns = [] ∧
      t.coreTlb = [] ∧ t.clusterTlb = [] ∧ t.sendQ = [] ∧ t.lostSends = v.lostSends := by
  unfold execSnapshotRestoration
  rw [hc, State.restorable_sealed (by rw [hx]; exact hstate) hv, hx]
  refine ⟨_, rfl, ?_⟩
  rw [hcommands, hcombines, List.foldl_nil, List.foldl_nil]
  refine State.restored_frame (State.foldl_restoreGrain_eq _ _ _) hcommands ?_ ?_ ?_ ?_ ?_ ?_
  exacts [hfabric, rfl, rfl, rfl, rfl, rfl]

end

end Sys2Proof.Machine

namespace Sys2Proof
open Sys2Proof.Machine

/-- Settles O29: each event by its own lemma, with the state of the colour deciding the case; the epoch that a record takes moves only the
epoch, the held messages and the bundles, and a lake record only the lake and what the host is told. -/
theorem snapshotEventResults : Obligations.SnapshotEventResults := by
  unfold Obligations.SnapshotEventResults
  intro s col chip c x
  refine ⟨fun h => (exec_snapshotRecordInstant _).trans (execSnapshotRecordInstant_waits h), fun k y hk hy hdrop hops hone hquiet => ?_,
    fun h => (exec_snapshotSweep _ _).trans (execSnapshotSweep_over h),
    fun h h' hm hg => (exec_snapshotSweep _ _).trans (execSnapshotSweep_ends rfl rfl h h' hm hg),
    fun tier g hstate hswept hgrain => ?_,
    fun h => (exec_mordantLakeWrite _).trans (execMordantLakeWrite_none h), fun k y r rest hsnaps hstaged hstate htier => ?_,
    fun h => (exec_snapshotChipComplete _ _).trans (execSnapshotChipComplete_waits h),
    fun hstate hawaiting hswept hstaged hhalf htier hlake => ?_,
    fun h => (exec_snapshotReportReceive _ _ _).trans (execSnapshotReportReceive_early rfl h),
    fun hstate hall hhalf hlake => ?_, (exec_sealNoticeReceive _ _).trans execSealNoticeReceive_eq, fun h hcfg hinit => ?_,
    fun h hcfg => ?_, fun h hops => ?_,
    fun h => (exec_failureNoticeReceive _ _).trans (execFailureNoticeReceive_failed h),
    fun h hcfg hinit => (exec_failureNoticeReceive _ _).trans (execFailureNoticeReceive_over h hcfg hinit),
    fun h => (exec_dropNoticeReceive _ _).trans (congrArg Host.Outcome.next (State.dropSnap_recording h)),
    fun h h' => (exec_dropNoticeReceive _ _).trans (congrArg Host.Outcome.next (State.dropSnap_recorded h h')),
    fun h => (exec_dropNoticeReceive _ _).trans (congrArg Host.Outcome.next (State.dropSnap_none h)),
    fun h => (exec_snapshotDropFinish _ _).trans (execSnapshotDropFinish_other h), fun h => ?_, exec_dropReportReceive _ _ _,
    fun cls init => (exec_markerReceive _ _ _ _ _ _).trans execMarkerReceive_next, fun cls init e h => ?_, fun cls init e tag h => ?_,
    fun h h' => (exec_snapshotRestoration _ _).trans (execSnapshotRestoration_none (State.restorable_unsealed h h')),
    fun h h' => (exec_snapshotRestoration _ _).trans (execSnapshotRestoration_none (State.restorable_unsaved h h')),
    fun v hstate hv hcommands hcombines hfabric => ?_⟩
  · obtain ⟨t, ht, h⟩ := execSnapshotRecordInstant_records hk hy hdrop hops hone hquiet
    exact ⟨t, (exec_snapshotRecordInstant _).trans ht, h⟩
  · refine ⟨?_, ?_, ?_, ?_⟩
    · rintro rfl
      exact (exec_snapshotSweep _ _).trans (execSnapshotSweep_done rfl rfl hstate hswept hgrain State.sweepGrain_tier)
    · rintro rfl haway
      exact (exec_snapshotSweep _ _).trans (execSnapshotSweep_done rfl rfl hstate hswept hgrain (State.sweepGrain_away haway))
    · rintro ⟨rfl, hchip, htxn, heng⟩ h
      exact (exec_snapshotSweep _ _).trans (execSnapshotSweep_done rfl rfl hstate hswept hgrain (State.sweepGrain_here hchip htxn heng h))
    · rintro ⟨rfl, hchip, htxn, -⟩ hread hfree helse hlacks
      obtain ⟨t, ht, h⟩ := execSnapshotSweep_reads rfl rfl hstate hswept hgrain hchip htxn hread hfree helse hlacks
      exact ⟨t, (exec_snapshotSweep _ _).trans ht, h⟩
  · refine ⟨fun hhalf hends => ?_, fun hfull => ?_, fun hhalf hends => ?_⟩
    · obtain ⟨t, ht, h⟩ := execMordantLakeWrite_writes hsnaps hstaged hstate htier hhalf hends
      exact ⟨t, (exec_mordantLakeWrite _).trans ht, h⟩
    · obtain ⟨t, ht, h⟩ := execMordantLakeWrite_half_full hsnaps hstaged hstate hfull
      exact ⟨t, (exec_mordantLakeWrite _).trans ht, h⟩
    · obtain ⟨t, ht, h⟩ := execMordantLakeWrite_tier_ends hsnaps hstaged hstate htier hhalf hends
      exact ⟨t, (exec_mordantLakeWrite _).trans ht, h⟩
  · obtain ⟨t, ht, h⟩ := execSnapshotChipComplete_completes rfl rfl hstate hawaiting hswept hstaged hhalf htier hlake
    exact ⟨t, (exec_snapshotChipComplete _ _).trans ht, h⟩
  · obtain ⟨t, ht, h⟩ := execSnapshotReportReceive_seals rfl hstate hall hhalf hlake
    exact ⟨t, (exec_snapshotReportReceive _ _ _).trans ht, h⟩
  · refine ((exec_failureNoticeReceive _ _).trans (execFailureNoticeReceive_recorded rfl rfl h)).trans (congrArg Host.Outcome.next ?_)
    exact if_neg (by simp [hcfg, show (s.snap col.toNat).initiator ≠ s.chip from hinit])
  · refine ((exec_failureNoticeReceive _ _).trans (execFailureNoticeReceive_recorded rfl rfl h)).trans (congrArg Host.Outcome.next ?_)
    exact if_pos (by simpa using hcfg)
  · obtain ⟨t, ht, h⟩ := execFailureNoticeReceive_recording rfl rfl h hops
    exact ⟨t, (exec_failureNoticeReceive _ _).trans ht, h⟩
  · obtain ⟨t, ht, h⟩ := execSnapshotDropFinish_drops rfl rfl h
    exact ⟨t, (exec_snapshotDropFinish _ _).trans ht, h⟩
  · obtain ⟨t, ht, h⟩ := execMarkerReceive_recorded (src := chip) (cls := cls) (init := init) h
    exact ⟨t, (exec_markerReceive _ _ _ _ _ _).trans ht, h⟩
  · obtain ⟨t, ht, h⟩ := execMarkerReceive_bad (src := chip) (cls := cls) (init := init) (epoch := e) h
    exact ⟨t, (exec_markerReceive _ _ _ _ _ _).trans ht, h⟩
  · obtain ⟨t, ht, h⟩ := execSnapshotRestoration_restores rfl rfl hstate hv hcommands hcombines hfabric
    exact ⟨t, (exec_snapshotRestoration _ _).trans ht, h⟩

end Sys2Proof
end
